-- ==== Sys2Proof/Word.lean ====
section
/-!
DEFINITION. The machine's words and the plainest operations on bit fields and byte strings
(spec/00_scope.md R6: bit ranges are [high:low]; spec/14 R428: bytes in ascending address order, little-endian).
-/
namespace Sys2Proof

abbrev Byte := BitVec 8
abbrev Word := BitVec 32

/-- Bits [hi:lo] of a number, as the layout tables number them. -/
def bits (w hi lo : Nat) : Nat := (w >>> lo) % 2 ^ (hi + 1 - lo)

/-- Bit i of a number. -/
def bit (w i : Nat) : Bool := w.testBit i

/-- A layout packed from its fields (width, value), highest field first. -/
def pack (fields : List (Nat × Nat)) : Nat :=
  fields.foldl (fun acc f => acc <<< f.1 + f.2 % 2 ^ f.1) 0

/-- A truth value as a one-bit field. -/
def b2n (b : Bool) : Nat := if b then 1 else 0

/-- The number a byte string spells, its first byte lowest. -/
def leNat : List Byte → Nat
  | [] => 0
  | b :: bs => b.toNat + 256 * leNat bs

/-- The low n bytes of a number, lowest first. -/
def natLE : Nat → Nat → List Byte
  | 0, _ => []
  | n + 1, v => BitVec.ofNat 8 v :: natLE n (v >>> 8)

/-- The low n bytes of a number, highest first. -/
def natBE (n v : Nat) : List Byte := (natLE n v).reverse

/-- A number cut into fixed-width pieces, lowest piece first. -/
def chunksOf (width : Nat) : Nat → Nat → List Nat
  | 0, _ => []
  | n + 1, v => v % 2 ^ width :: chunksOf width n (v >>> width)

/-- The signed reading of the low w bits of v. -/
def signed (w v : Nat) : Int :=
  let u := v % 2 ^ w
  if u < 2 ^ (w - 1) then (u : Int) else (u : Int) - 2 ^ w

end Sys2Proof
end

