-- ==== Sys2Proof/Config.lean ====
section
/-!
DEFINITION. What one module fixes and what the spec leaves open: constants without a body, so that no proof can
see their value. A free value is applied to the counter `draws` of State, which every use advances.
-/
namespace Sys2Proof.Config

/-- A cycle count of an island at the moment it is read (02 R54: a timing value). Arguments: island, draw. -/
opaque cycleCount : Nat → Nat → BitVec 48

/-- Whether a byte of a command cut by a reset holds its new value (13 R403). Arguments: draw, address. -/
opaque cutTakesNew : Nat → Nat → Bool

/-- A 32-bit result whose value the spec does not state. Arguments: which point (log 15 lists them), draw. -/
opaque freeWord : Nat → Nat → BitVec 32

/-- What scratch holds after a change of the cache split (09 R295): addresses and bytes. Argument: draw. -/
opaque freeCells : Nat → List (Nat × BitVec 8)

/-- A calibration or test value of the module (12 R379). Arguments: which, draw, byte. -/
opaque calibration : Nat → Nat → Nat → BitVec 8

/-- An analog reading (15 R499: module_power_w, main_mv, backup_mv, temp_max_mc). Arguments: which, draw. -/
opaque reading : Nat → Nat → BitVec 32

/-- The module's identity as manufactured: entry name, byte number (14 R444, 15 R496). -/
opaque identity : Nat → Nat → BitVec 8

/-- The vendor test range of the dictionary (14 R429). Arguments: index, sub, draw, byte. -/
opaque vendorTest : Nat → Nat → Nat → Nat → BitVec 8

/-- The signature Ulwald publishes for a physical tile (15 R487; 12 R378): clock setting, power limit, memory-test mode, tile. -/
opaque tileSignature : Nat → Nat → Nat → Nat → BitVec 64

/-- The signature this module forms on a tile that fails the self-test: clock setting, power limit, memory-test mode, tile. -/
opaque failedSignature : Nat → Nat → Nat → Nat → BitVec 64

/-- The physical tile whose signature an entry of the vendor test range reports, if it is such an entry (15 R487): index, sub. -/
opaque signatureEntry : Nat → Nat → Option Nat

/-- The island within a source that raises its records of a kind (13 R420). Arguments: source, kind. -/
opaque recordIsland : Nat → Nat → BitVec 8

/-- The BAR2 size the host chooses for a function through the Resizable BAR capability, as log₂ bytes (14 R450): function. -/
opaque bar2Choice : Nat → Nat

/-- The private seed of the module's identity key, in fuses (15 R496). -/
opaque identitySeed : BitVec 456

/-- The SHAKE256 digest of Ulwald's image key, held in the ROM (15 R491). -/
opaque romKeyDigest : BitVec 512

/-- Contents of instruction bank 0 that the broadcast of a tile firmware image writes (15 R486): digest of the image, offset. -/
opaque tileFirmware : BitVec 512 → Nat → BitVec 8
/-- The data part of a tile firmware image, as the broadcast writes it into data memories (15 R486): digest of the image. -/
opaque tileData : BitVec 512 → List (Nat × BitVec 8)
/-- How a power event names a rail (15 R471; log 48). -/
opaque railCode : Nat → BitVec 17

/-- The version number of a factory image (15 R491): kind. -/
opaque factoryVersion : Nat → BitVec 32

/-- The body digest of a factory image (15 R491): kind. -/
opaque factoryDigest : Nat → BitVec 512

end Sys2Proof.Config
end

