-- ==== Sys2Proof/Syntax.lean ====
section
/-!
DEFINITION. The commands the module takes: one constructor per row of spec/opcode_table.json, in the table's order.
An operand names where on the module the event takes place, or carries what arrives from outside with it.
-/
namespace Sys2Proof

/-- The three pass streams (02 R50, R58). -/
inductive Stream where
  | fwd | bwd | upd
deriving DecidableEq, Repr

/-- The six engines of a tile (02 R58). -/
inductive Engine where
  | matrix | vector | mover | route | tally | pool
deriving DecidableEq, Repr

/-- What the check bits say of the blocks an access reads (09 R293, 13 R415). -/
inductive Ecc where
  | clean | corrected | uncorrectable
deriving DecidableEq, Repr

/-- By which path a dictionary request comes, and who sends it (14 R430, R436, R441). -/
inductive Requester where
  | benvon (ip : BitVec 128) (udpPort : BitVec 16) (seq : Word)
  | mctp (eid : Byte) (requesterId : BitVec 16) (seq : Word)
  | window (fn : Nat)
  | queue (fn ring : Nat)
  | service
  | button
deriving DecidableEq, Repr

/-- What a bring-up phase found (15 R484): the lanes that failed seam training (seam, direction, lane), the physical
tiles that failed the self-test (die, row, column), the channels that failed training or the
full memory test (die, far?, channel), and the 64 B blocks the quick test could not correct. -/
structure PhaseReport where
  failedLanes : List (Nat × Nat × Nat) := []
  failedTiles : List (Nat × Nat × Nat) := []
  failedChannels : List (Nat × Bool × Nat) := []
  badBlocks : List Nat := []
deriving DecidableEq, Repr

/-- What a finished training step of a port found (10 R327, 16 R516). -/
structure StepReport where
  cableRead : Bool := true
  cableRecord : BitVec 256 := 0
  lanesGood : BitVec 5 := 0
deriving DecidableEq, Repr

/-- Commands. `t` is a logical tile, `st` a stream, `e` an engine, `pkt` the place of a packet among those in flight. -/
inductive Instr where
  -- control core
  | threadStart (pkt : Nat)
  | rvInstruction (t : Nat) (st : Stream)
  | rvFence (t : Nat) (st : Stream)
  | ebreak (t : Nat) (st : Stream)
  | ecall (t : Nat) (st : Stream)
  | cstW (t : Nat) (st : Stream)
  | cld (t : Nat) (st : Stream)
  | cpush (t : Nat) (st : Stream)
  | cpushnb (t : Nat) (st : Stream)
  | pushRoomResume (t : Nat) (st : Stream)
  | qfree (t : Nat) (st : Stream)
  | cdrain (t : Nat) (st : Stream)
  | cdrainResume (t : Nat) (st : Stream)
  | sumrd (t : Nat) (st : Stream)
  | sumrdResume (t : Nat) (st : Stream)
  | imswap (t : Nat) (st : Stream)
  | park (t : Nat) (st : Stream)
  | pcmp (t : Nat) (st : Stream)
  | plog (t : Nat) (st : Stream)
  | pset (t : Nat) (st : Stream)
  | pmv (t : Nat) (st : Stream)
  | prd (t : Nat) (st : Stream)
  | pwr (t : Nat) (st : Stream)
  | ctwait (t : Nat) (st : Stream)
  -- queues and teams
  | skipEntry (t : Nat) (e : Engine) (st : Stream)
  | nop (t : Nat) (e : Engine) (st : Stream)
  | commandComplete (t : Nat) (e : Engine) (st : Stream)
  | teamDispatch (t : Nat) (st : Stream)
  | teamDelivery (pkt : Nat)
  | teamMemberCompletion (pkt : Nat)
  -- matrix engine and work lists
  | mma (t : Nat) (st : Stream)
  | mdrain (t : Nat) (st : Stream)
  | mdcfg (t : Nat) (st : Stream)
  | wlopen (t : Nat) (st : Stream)
  | wlput (t : Nat) (st : Stream)
  | wlrun (t : Nat) (st : Stream)
  | wlclose (t : Nat) (st : Stream)
  | itemRequest (pkt : Nat)
  | itemArrive (pkt : Nat)
  | itemComplete (t : Nat) (st : Stream)
  | dribbleStepDown (t array : Nat)
  | dribbleRampStep (t array : Nat)
  -- vector engine
  | vld (t : Nat) (st : Stream)
  | vst (t : Nat) (st : Stream)
  | epload (t : Nat) (st : Stream)
  | eprog (t : Nat) (st : Stream)
  | epstrm (t : Nat) (st : Stream)
  | vred (t : Nat) (st : Stream)
  | vsum (t : Nat) (st : Stream)
  | vseed (t : Nat) (st : Stream)
  | laneReservationGrant (t : Nat)
  -- update unit and snapshots
  | optcfg (t : Nat) (st : Stream)
  | optstep (t : Nat) (st : Stream)
  | amaxstep (t : Nat) (st : Stream)
  | snap (t : Nat) (st : Stream)
  | snapShip (team : Nat)
  -- mover
  | move (t : Nat) (st : Stream) (ecc : Ecc)
  | mvcomp (t : Nat) (st : Stream)
  | remask (t : Nat) (st : Stream)
  | stash (t : Nat) (st : Stream)
  | predld (t : Nat) (st : Stream)
  | maskdrop (t : Nat) (st : Stream)
  | aadd (t : Nat) (st : Stream)
  | amin (t : Nat) (st : Stream)
  | amax (t : Nat) (st : Stream)
  | aswap (t : Nat) (st : Stream)
  | acas (t : Nat) (st : Stream)
  | aaddn (t : Nat) (st : Stream)
  | aminn (t : Nat) (st : Stream)
  | amaxn (t : Nat) (st : Stream)
  | rdopen (t : Nat) (st : Stream)
  | rdadd (t : Nat) (st : Stream)
  -- homes
  | homeRequest (pkt : Nat) (ecc : Ecc)
  | atomicAtHome (pkt : Nat) (ecc : Ecc)
  | contributionAtHome (pkt : Nat) (ecc : Ecc)
  | reductionDone (rid : Nat)
  | tileStoreRemoteAccess (pkt : Nat) (ecc : Ecc)
  | replyArrive (pkt : Nat)
  | refusalArrive (pkt : Nat)
  | patrolScrub (die : Nat) (far : Bool) (channel : Nat) (ecc : Ecc)
  -- buffer pools
  | poolget (t : Nat) (st : Stream)
  | poolput (t : Nat) (st : Stream)
  | poolcfg (t : Nat) (st : Stream)
  | poolRequestAtHome (pkt : Nat)
  | poolGrantArrive (pkt : Nat)
  -- route unit
  | rtcfg (t : Nat) (st : Stream)
  | rqopen (t : Nat) (st : Stream)
  | route (t : Nat) (st : Stream)
  | rqclose (t : Nat) (st : Stream)
  | rbound (t : Nat) (st : Stream)
  | rcomb (t : Nat) (st : Stream)
  | rback (t : Nat) (st : Stream)
  | rgrad (t : Nat) (st : Stream)
  | rxopen (t : Nat) (st : Stream)
  | rwget (t : Nat) (st : Stream)
  | rwgetStart (pkt : Nat)
  | rxwait (t : Nat) (st : Stream)
  | rxexpand (t : Nat) (st : Stream)
  | rsend (t : Nat) (st : Stream)
  | routeRowArrive (pkt : Nat)
  | routeCloseArrive (pkt : Nat)
  | returnRowArrive (pkt : Nat)
  -- tallies and huddles
  | twait (t : Nat) (e : Engine) (st : Stream)
  | tclaim (t : Nat) (e : Engine) (st : Stream)
  | tsig (t : Nat) (e : Engine) (st : Stream)
  | fence (t : Nat) (e : Engine) (st : Stream)
  | tset (t : Nat) (st : Stream)
  | huddle (t : Nat) (st : Stream)
  | tallySignalAtHome (pkt : Nat)
  | tallyRegistrationAtHome (pkt : Nat)
  | tallySetAtHome (pkt : Nat)
  | tsetAnswerArrive (pkt : Nat)
  | tallyReleaseArrive (pkt : Nat)
  | remoteSignalAtTile (pkt : Nat)
  | huddleArrivalAtHome (pkt : Nat)
  | huddleNextRoundClose (hid : Nat)
  | huddleCloseArrive (pkt : Nat)
  -- hang detection, dumps, reset, faults
  | localDeadlock (t : Nat)
  | whistleFire (t unit : Nat)
  | whistleWarning (t unit : Nat)
  | dump
  | dumpUnitTimeout
  | contextReset (ctx : Nat)
  | quiesceComplete (ctx : Nat)
  | quiesceTimeout (ctx unit : Nat)
  | epochAckTimeout (ctx : Nat)
  | tileHardwareFault (t cause : Nat)
  | seamTransferError (seam dir : Nat)
  | seamRepeatAlarm (seam dir : Nat)
  | seamFailed (seam dir : Nat)
  | dieCheckerFire (die : Nat)
  | logHopDrop (source cls : Nat)
  | debugHalt (t : Nat) (st : Stream)
  | debugResume (t : Nat) (st : Stream)
  -- lock-step frames
  | lockstepWindowRecord (port : Nat)
  | lockstepDigestList (port : Nat)
  | lockstepStop (port : Nat)
  -- link ports
  | portTrainStart (port : Nat)
  | trainingStepComplete (port : Nat) (report : StepReport)
  | trainingStepTimeout (port : Nat)
  | init (port : Nat) (flit : BitVec 2048)
  | initAck (port : Nat) (flit : BitVec 2048)
  | initResend (port : Nat)
  | retrainRequest (port : Nat) (flit : BitVec 2048)
  | downNotice (port : Nat) (flit : BitVec 2048)
  | messageFlit (port : Nat) (flit : BitVec 2048) (fecOk : Bool)
  | nullFlit (port : Nat) (flit : BitVec 2048) (fecOk : Bool)
  | replayRequest (port : Nat) (flit : BitVec 2048) (fecOk : Bool)
  | fecLockLoss (port : Nat)
  | flitTransmit (port : Nat)
  -- fabric messages at the head of a receive buffer of a port
  | rd (port dl : Nat) (ecc : Ecc)
  | wr (port dl : Nat)
  | atom (port dl : Nat) (ecc : Ecc)
  | atomn (port dl : Nat) (ecc : Ecc)
  | rdc (port dl : Nat) (ecc : Ecc)
  | sig (port dl : Nat)
  | epoch (port dl : Nat)
  | rdr (port dl : Nat)
  | ack (port dl : Nat)
  | atr (port dl : Nat)
  | nak (port dl : Nat)
  | mgmt (port dl : Nat)
  | trace (port dl : Nat)
  | e2eTimeout (request : Nat)
  -- dictionary and management
  | read (src : Requester) (index sub arg : Nat)
  | write (src : Requester) (index sub : Nat) (value : List Byte)
  | discover (src : Requester)
  | notifyAck (src : Requester)
  | notifyResend (subscriber : Nat)
  | neighbourSolicitation (target : BitVec 128)
  | setEndpointId (sender inst eid : Byte)
  | getEndpointId (sender inst : Byte)
  | getMctpVersionSupport (sender inst msgType : Byte)
  | getMessageTypeSupport (sender inst : Byte)
  | mctpVendorMessage (eid : Byte) (requesterId : BitVec 16) (body : List Byte)
  | winGo (fn value : Nat)
  | ctxCreate (src : Requester) (ctx : Nat)
  | ctxReset (src : Requester) (ctx : Nat)
  | ctxDestroy (src : Requester) (ctx : Nat)
  | teamCreate (src : Requester) (request : BitVec 160)
  | teamDestroy (src : Requester) (request : BitVec 160)
  | huddleCreate (src : Requester) (request : BitVec 160)
  | huddleDestroy (src : Requester) (request : BitVec 160)
  | chanCreate (src : Requester) (ctx : Nat)
  | chanDestroy (src : Requester) (handle : Word)
  | jobSubmit (src : Requester) (record : Nat)
  | jobCancel (src : Requester) (job : Nat)
  | debugImemWrite (src : Requester) (value : List Byte)
  | faultRecordClear (src : Requester) (t : Nat) (st : Stream)
  | troubleClearEcc (src : Requester)
  | troubleClearTileCounts (src : Requester)
  | troubleClearStaleDrops (src : Requester)
  | troubleClearSeamAlarms (src : Requester)
  | troubleClearAlarmLog (src : Requester)
  | troubleClearDumpFlag (src : Requester)
  | dumpRequest (src : Requester) (value : BitVec 16)
  | epochClear (src : Requester) (device : Nat)
  | portRetrain (src : Requester) (port : Nat)
  | attnRequestSet (src : Requester)
  | attnRequestClear (src : Requester)
  | fwStage (src : Requester) (address : Nat)
  | fwUpload (src : Requester) (value : List Byte)
  | fwStageUpload (src : Requester) (value : Nat)
  | svnCommit (src : Requester) (kind value : Nat)
  | attestNonce (src : Requester) (nonce : BitVec 256)
  | restartWarm (src : Requester)
  | restartDestroy (src : Requester)
  | restartBaseCamp (src : Requester)
  -- host attachment
  | ringDb (fn ring tail : Nat) (entries : List (BitVec 512))
  | start (fn ring : Nat)
  | hcopy (fn ring : Nat) (data : List Byte) (ecc : Ecc)
  | hcopyDone (fn ring copy : Nat)
  | hsig (fn ring : Nat)
  | ringNop (fn ring : Nat)
  | tallyDb (fn tally : Nat) (n : Word)
  | bar2Read (fn offset len : Nat) (ecc : Ecc)
  | bar2Write (fn offset : Nat) (data : List Byte)
  | doeDiscovery (fn index : Nat)
  | doeAttest (fn : Nat) (request : List Byte)
  -- onboard service
  | jobStart
  | modelHandout (job : Nat)
  | modelDone (job member : Nat)
  | serviceHeartbeat
  | serviceComplexStop (die : Nat) (restarts : Bool)
  -- supplies, clocks, bring-up
  | mainGood
  | mainFail (overvoltage : Bool)
  | mainExcursion
  | backupGood
  | backupFail
  | powerUpSlot
  | railFault (rail : Nat)
  | rideThroughStep
  | holdLimit
  | bringupPhaseComplete (report : PhaseReport)
  | powerControlTick (averageW : Nat)
  | thermalSample (temps : List (Nat × Int))
  | islandFreqStep (t : Nat) (up : Bool)
  | supplyDroop (t : Nat)
  | droopRecover (t : Nat)
  -- button and cables
  | buttonShortPress
  | buttonMiddlePress
  | buttonHold2s
  | buttonLongPress
  | cablePlug (port : Nat)
  | cableUnplug (port : Nat)
  -- the table's last rows
  | workListReservation (pkt : Nat)
  | rwgetRegistration (pkt : Nat)
  | bar0RegisterWrite (fn offset value : Nat)
  | equalisationOutOfLimits (port lane : Nat)
  | dumpUnitAnswer (data : List Byte)
  | retryRecordExpiry (src : Requester)
deriving DecidableEq, Repr

end Sys2Proof
end

