-- ==== Sys2Proof/Decode.lean ====
section
/-!
DEFINITION. The command a word spells by the opcode table's bits. The module is a block: no row of spec/opcode_table.json
gives bits, so no word spells a command (log 6). Words that the module itself decodes are read where they are used: control-core
instructions in Machine/Rv.lean and Machine/Threads.lean, command words in Machine/Operands.lean and Machine/Queues.lean, flits
in Machine/Ports.lean, frames in Machine/Camp.lean, ring entries in Machine/Rings.lean.
-/
namespace Sys2Proof

/-- The command a word of nbits bits spells: none, since the table gives no row bits. -/
def decodeTableWord (_nbits _w : Nat) : Option Instr := none

end Sys2Proof
end

