-- ==== Sys2Proof/Machine/Num.lean ====
section
/-!
DEFINITION. Exact values, the element formats, and the roundings (spec/04 R130–R147): every conversion starts from the
exact value and rounds once.
-/
namespace Sys2Proof.Machine

/-- An exact value: a NaN, an infinity, or ± m × 2^e. -/
inductive Num where
  | nan
  | inf (neg : Bool)
  | fin (neg : Bool) (m : Nat) (e : Int)
deriving DecidableEq, Repr

/-- Which codes of a format are NaN and infinity (04 R130). -/
inductive Specials where
  | ieee     -- exponent all ones: infinity where the fraction is 0, NaN otherwise
  | topNan   -- E4M3: only the all-ones code is NaN
  | none     -- no infinity and no NaN
deriving DecidableEq, Repr

/-- A binary format: exponent bits, fraction bits, bias, specials (04 R130). -/
structure Fmt where
  ebits : Nat
  fbits : Nat
  bias : Nat
  specials : Specials
deriving DecidableEq, Repr

def Fmt.fp32 : Fmt := ⟨8, 23, 127, .ieee⟩
def Fmt.bf16 : Fmt := ⟨8, 7, 127, .ieee⟩
def Fmt.fp16 : Fmt := ⟨5, 10, 15, .ieee⟩
def Fmt.e4m3 : Fmt := ⟨4, 3, 7, .topNan⟩
def Fmt.e5m2 : Fmt := ⟨5, 2, 15, .ieee⟩
def Fmt.e3m2 : Fmt := ⟨3, 2, 3, .none⟩
def Fmt.e2m3 : Fmt := ⟨2, 3, 1, .none⟩
def Fmt.e2m1 : Fmt := ⟨2, 1, 1, .none⟩
def Fmt.a48 : Fmt := ⟨8, 39, 127, .ieee⟩

def Fmt.width (f : Fmt) : Nat := f.ebits + f.fbits + 1

/-- The largest finite magnitude code of a format (04 R130). -/
def Fmt.maxCode (f : Fmt) : Nat :=
  match f.specials with
  | .ieee => (2 ^ f.ebits - 1) * 2 ^ f.fbits - 1
  | .topNan => 2 ^ (f.ebits + f.fbits) - 2
  | .none => 2 ^ (f.ebits + f.fbits) - 1

/-- The magnitude code of infinity, for the formats that have one. -/
def Fmt.infCode (f : Fmt) : Nat := (2 ^ f.ebits - 1) * 2 ^ f.fbits

/-- The canonical NaN of a format (04 R134); formats without NaN are never asked. -/
def Fmt.nanCode (f : Fmt) : Nat :=
  match f.specials with
  | .ieee => if f.fbits = 2 then f.infCode + 3 else f.infCode + 2 ^ (f.fbits - 1)
  | .topNan => 2 ^ (f.ebits + f.fbits) - 1
  | .none => 0

/-- The exponent of the unit of the subnormals. -/
def Fmt.qmin (f : Fmt) : Int := 1 - (f.bias : Int) - (f.fbits : Int)

/-- The value of a code (04 R130, R131: subnormals are read at their value). -/
def Fmt.decode (f : Fmt) (code : Nat) : Num :=
  let neg := code.testBit (f.ebits + f.fbits)
  let e := (code >>> f.fbits) % 2 ^ f.ebits
  let fr := code % 2 ^ f.fbits
  let mag := code % 2 ^ (f.ebits + f.fbits)
  if f.specials = .ieee && e = 2 ^ f.ebits - 1 then (if fr = 0 then .inf neg else .nan)
  else if f.specials = .topNan && mag = 2 ^ (f.ebits + f.fbits) - 1 then .nan
  else if e = 0 then .fin neg fr f.qmin
  else .fin neg (2 ^ f.fbits + fr) (f.qmin + (e : Int) - 1)

def Num.zero : Num := .fin false 0 0
def Num.isNan : Num → Bool
  | .nan => true
  | _ => false
def Num.isInf : Num → Bool
  | .inf _ => true
  | _ => false
def Num.isFinite : Num → Bool
  | .fin .. => true
  | _ => false
def Num.isNegZero : Num → Bool
  | .fin true 0 _ => true
  | _ => false
def Num.neg : Num → Num
  | .nan => .nan
  | .inf s => .inf !s
  | .fin s m e => .fin (!s) m e
def Num.abs : Num → Num
  | .nan => .nan
  | .inf _ => .inf false
  | .fin _ m e => .fin false m e

/-- The signed mantissa of a finite value. -/
def Num.int : Num → Int
  | .fin s m _ => if s then -(m : Int) else (m : Int)
  | _ => 0
def Num.exp : Num → Int
  | .fin _ _ e => e
  | _ => 0

/-- The exact product, under the IEEE 754 rules for specials (04 R140, R142). -/
def Num.mul : Num → Num → Num
  | .nan, _ => .nan
  | _, .nan => .nan
  | .inf s, .inf t => .inf (s != t)
  | .inf s, .fin t m _ => if m = 0 then .nan else .inf (s != t)
  | .fin s m _, .inf t => if m = 0 then .nan else .inf (s != t)
  | .fin s m e, .fin t n f => .fin (s != t) (m * n) (e + f)

/-- A finite value with sign taken from the signed mantissa. -/
def Num.ofInt (i : Int) (e : Int) : Num := .fin (i < 0) i.natAbs e

/-- i × 2^n for n ≥ 0. -/
def shlInt (i : Int) (n : Nat) : Int := i * (2 ^ n : Nat)

/-- The exact sum of finite values as a signed mantissa at the smallest exponent among them. -/
def sumFinite (terms : List Num) : Int × Int :=
  let e := terms.foldl (fun acc t => min acc t.exp) (match terms with | t :: _ => t.exp | [] => 0)
  (terms.foldl (fun acc t => acc + shlInt t.int (t.exp - e).toNat) 0, e)

/-- The exact sum of a list of terms (04 R139, R140): a NaN, or infinities of both signs, give NaN; an infinity gives
itself; an exact zero is +0 unless every term is −0. -/
def Num.sum (terms : List Num) : Num :=
  if terms.any Num.isNan then .nan
  else if terms.any (· = .inf false) then (if terms.any (· = .inf true) then .nan else .inf false)
  else if terms.any (· = .inf true) then .inf true
  else
    let (i, e) := sumFinite terms
    if i = 0 then .fin (!terms.isEmpty && terms.all Num.isNegZero) 0 0 else Num.ofInt i e

def Num.add (a b : Num) : Num := Num.sum [a, b]

/-- a < b for values that are not NaN; −0 and +0 are equal. -/
def Num.lt (a b : Num) : Bool :=
  match a, b with
  | .nan, _ => false
  | _, .nan => false
  | .inf s, .inf t => s && !t
  | .inf s, .fin .. => s
  | .fin .., .inf t => !t
  | a, b =>
    let e := min a.exp b.exp
    shlInt a.int (a.exp - e).toNat < shlInt b.int (b.exp - e).toNat

/-- a = b as values; −0 and +0 are equal, NaN equals nothing. -/
def Num.eqv (a b : Num) : Bool := !a.isNan && !b.isNan && !Num.lt a b && !Num.lt b a

def Num.le (a b : Num) : Bool := Num.lt a b || Num.eqv a b

/-- The sign, where −0 is negative. -/
def Num.sign : Num → Bool
  | .nan => false
  | .inf s => s
  | .fin s _ _ => s

/-- minimum and maximum of IEEE 754-2019: −0 below +0, a NaN gives NaN (05 R172, R173). -/
def Num.min (a b : Num) : Num :=
  if a.isNan || b.isNan then .nan
  else if Num.lt a b then a else if Num.lt b a then b else if a.sign then a else b
def Num.max (a b : Num) : Num :=
  if a.isNan || b.isNan then .nan
  else if Num.lt b a then a else if Num.lt a b then b else if a.sign then b else a

/-- The larger of two magnitudes, for values that are not NaN. -/
def Num.maxAbs (a b : Num) : Num := Num.max a.abs b.abs

/-- How a magnitude between two codes is rounded: to nearest even, towards +∞ of the magnitude, or stochastically with
the 32-bit draw R (04 R144, R146). -/
inductive Rounding where
  | nearest
  | up
  | stochastic (r : Nat)
deriving DecidableEq, Repr

/-- What a magnitude beyond the largest finite value becomes (04 R144): the largest finite value (sat 0), or infinity,
or NaN where the format has none (sat 1, and the rule of passes and sums). -/
inductive Overflow where
  | toMax
  | toInf
deriving DecidableEq, Repr

/-- The magnitude m × 2^e (and a little more where `sticky`) as a count n of units 2^q of the format: the pair (n, q).
`sticky` is used only with m wide enough that e < q. -/
def Fmt.quantise (f : Fmt) (r : Rounding) (m : Nat) (e : Int) (sticky : Bool) : Nat × Int :=
  let top : Int := (Nat.log2 m : Int) + e
  let q := Max.max (top - (f.fbits : Int)) f.qmin
  if q ≤ e then (m <<< (e - q).toNat, q)
  else
    let sh := (q - e).toNat
    let n := m >>> sh
    let rem := m % 2 ^ sh
    let half := 2 ^ (sh - 1)
    let up := match r with
      | .nearest => decide (half < rem) || (rem = half && (sticky || n % 2 = 1))
      | .up => decide (0 < rem) || sticky
      | .stochastic x => decide (x < (rem <<< 32) >>> sh)
    (if up then n + 1 else n, q)

/-- The magnitude code of n units of 2^q. -/
def Fmt.magCode (f : Fmt) (nq : Nat × Int) : Nat := nq.1 + (nq.2 - f.qmin).toNat * 2 ^ f.fbits

def Fmt.withSign (f : Fmt) (neg : Bool) (mag : Nat) : Nat := if neg then 2 ^ (f.ebits + f.fbits) + mag else mag

/-- The code a magnitude beyond the largest finite value becomes. -/
def Fmt.overflowCode (f : Fmt) (o : Overflow) (neg : Bool) : Nat :=
  match o with
  | .toMax => f.withSign neg f.maxCode
  | .toInf =>
    match f.specials with
    | .ieee => f.withSign neg f.infCode
    | .topNan => f.nanCode
    | .none => f.withSign neg f.maxCode

/-- A non-zero magnitude rounded to a code with its sign. -/
def Fmt.roundMag (f : Fmt) (r : Rounding) (o : Overflow) (neg : Bool) (m : Nat) (e : Int) (sticky : Bool) : Nat :=
  let c := f.magCode (f.quantise r m e sticky)
  if c ≤ f.maxCode then f.withSign neg c else f.overflowCode o neg

/-- An exact value converted to a format (04 R144). An infinite input gives infinity where the format has it; otherwise
the largest finite value (sat 0) or the canonical NaN (sat 1). -/
def Fmt.round (f : Fmt) (r : Rounding) (o : Overflow) : Num → Nat
  | .nan => f.nanCode
  | .inf s => if f.specials = .ieee then f.withSign s f.infCode else f.overflowCode o s
  | .fin s 0 _ => f.withSign s 0
  | .fin s m e => f.roundMag r o s m e false

/-- Round to nearest even with overflow to infinity: the rule of every FP32 operation and of A48 (04 R139, 05 R173). -/
def Fmt.rne (f : Fmt) (x : Num) : Nat := f.round .nearest .toInf x

/-- FP32 bits as a value, and a value as FP32 bits. -/
def f32 (w : Word) : Num := Fmt.fp32.decode w.toNat
def toF32 (x : Num) : Word := BitVec.ofNat 32 (Fmt.fp32.rne x)
def f32nan : Word := 0x7FC00000#32

/-- The quotient of two naturals to at least 96 bits, with the remainder's presence: q × 2^e ≤ a / b. -/
def ratApprox (a b : Nat) : Nat × Int × Bool :=
  let k := 96 + Nat.log2 b - min (Nat.log2 a) (96 + Nat.log2 b)
  let n := a <<< k
  (n / b, -(k : Int), n % b != 0)

/-- A quotient rounded once to a format. -/
def Fmt.roundRat (f : Fmt) (r : Rounding) (o : Overflow) (neg : Bool) (a b : Nat) (e : Int) : Nat :=
  if a = 0 then f.withSign neg 0
  else
    let (q, e', st) := ratApprox a b
    f.roundMag r o neg q (e' + e) st

/-- a / b in FP32 under IEEE 754 (05 R172, R173). -/
def f32div (x y : Word) : Word :=
  match f32 x, f32 y with
  | .nan, _ => f32nan
  | _, .nan => f32nan
  | .inf _, .inf _ => f32nan
  | .inf s, .fin t _ _ => BitVec.ofNat 32 (Fmt.fp32.withSign (s != t) Fmt.fp32.infCode)
  | .fin s _ _, .inf t => BitVec.ofNat 32 (Fmt.fp32.withSign (s != t) 0)
  | .fin s m e, .fin t n f =>
    if n = 0 then (if m = 0 then f32nan else BitVec.ofNat 32 (Fmt.fp32.withSign (s != t) Fmt.fp32.infCode))
    else BitVec.ofNat 32 (Fmt.fp32.roundRat .nearest .toInf (s != t) m n (e - f))

/-- The integer square root, one result bit per step of fuel. -/
def isqrtGo (n : Nat) : Nat → Nat → Nat
  | 0, r => r
  | k + 1, r => let c := r + 2 ^ k; isqrtGo n k (if c * c ≤ n then c else r)
def isqrt (n : Nat) : Nat := isqrtGo n (Nat.log2 n / 2 + 1) 0

/-- √a in FP32. -/
def f32sqrt (x : Word) : Word :=
  match f32 x with
  | .nan => f32nan
  | .inf s => if s then f32nan else x
  | .fin s m e =>
    if m = 0 then x
    else if s then f32nan
    else
      -- m × 2^e = n × 2^(2h) with n of at least 128 bits
      let k := 160 + (if (e % 2 = 0) then 0 else 1)
      let n := m <<< k
      let r := isqrt n
      BitVec.ofNat 32 (Fmt.fp32.roundMag .nearest .toInf false r ((e - (k : Int)) / 2) (r * r != n))

/-- 1 / √a in FP32: IEEE 754-2019 rSqrt (05 R173). -/
def f32rsqrt (x : Word) : Word :=
  match f32 x with
  | .nan => f32nan
  | .inf s => if s then f32nan else 0#32
  | .fin s m e =>
    if m = 0 then BitVec.ofNat 32 (Fmt.fp32.withSign s Fmt.fp32.infCode)
    else if s then f32nan
    else
      -- 1 / (m × 2^e) = n / 2^k with an even power of two outside; √ of the quotient to at least 96 bits
      let h : Int := if e % 2 = 0 then e else e - 1
      let m' := if e % 2 = 0 then m else 2 * m
      let n := 2 ^ 320
      let q := n / m'
      let r := isqrt q
      BitVec.ofNat 32 (Fmt.fp32.roundMag .nearest .toInf false r (-160 - h / 2) (r * r * m' != n))

def f32add (x y : Word) : Word := toF32 (Num.add (f32 x) (f32 y))
def f32neg (x : Word) : Word := toF32 (f32 x).neg
def f32sub (x y : Word) : Word := toF32 (Num.add (f32 x) (f32 y).neg)
def f32mul (x y : Word) : Word := toF32 (Num.mul (f32 x) (f32 y))
def f32fma (x y z : Word) : Word := toF32 (Num.add (Num.mul (f32 x) (f32 y)) (f32 z))
def f32min (x y : Word) : Word := toF32 (Num.min (f32 x) (f32 y))
def f32max (x y : Word) : Word := toF32 (Num.max (f32 x) (f32 y))
def f32zero : Word := 0#32
def f32one : Word := 0x3F800000#32

/-- The largest integral value ≤ x, and the nearest integral value with ties to even (05 R172 FLOOR, RNDE). -/
def f32floor (x : Word) : Word :=
  match f32 x with
  | .nan => f32nan
  | .inf _ => x
  | .fin s m e =>
    if 0 ≤ e ∨ m = 0 then x
    else
      let sh := (-e).toNat
      let n := m >>> sh
      let n := if s && m % 2 ^ sh != 0 then n + 1 else n
      BitVec.ofNat 32 (Fmt.fp32.round .nearest .toInf (.fin s n 0))
def roundToInt (m : Nat) (e : Int) : Nat :=
  if 0 ≤ e then m <<< e.toNat
  else
    let sh := (-e).toNat
    let n := m >>> sh
    let rem := m % 2 ^ sh
    let half := 2 ^ (sh - 1)
    if half < rem ∨ (rem = half ∧ n % 2 = 1) then n + 1 else n
def f32rnde (x : Word) : Word :=
  match f32 x with
  | .nan => f32nan
  | .inf _ => x
  | .fin s m e => if 0 ≤ e ∨ m = 0 then x else BitVec.ofNat 32 (Fmt.fp32.round .nearest .toInf (.fin s (roundToInt m e) 0))

/-- F2I: nearest even, saturating, NaN gives 0 (05 R172). -/
def f2i (x : Word) : Word :=
  match f32 x with
  | .nan => 0#32
  | .inf s => if s then 0x80000000#32 else 0x7FFFFFFF#32
  | .fin s m e =>
    if 64 < (Nat.log2 m : Int) + e then (if s then 0x80000000#32 else 0x7FFFFFFF#32)
    else
      let n := roundToInt m e
      if s then (if 2 ^ 31 ≤ n then 0x80000000#32 else BitVec.ofInt 32 (-(n : Int)))
      else (if 2 ^ 31 - 1 ≤ n then 0x7FFFFFFF#32 else BitVec.ofNat 32 n)
def i2f (x : Word) : Word := toF32 (Num.ofInt x.toInt 0)

/-- ⌊log₂⌋ of a positive finite value. -/
def Num.floorLog2 : Num → Int
  | .fin _ m e => (Nat.log2 m : Int) + e
  | _ => 0

/-- An E8M0 scale as a value (04 R130, R132). -/
def e8m0 (x : Nat) : Num := if x = 0xFF then .nan else .fin false 1 ((x : Int) - 127)

/-- Philox4x32-10 as published by Salmon, Moraes, Dror and Shaw (04 R147; log 13): the first output word. -/
def philoxRound (c : Nat × Nat × Nat × Nat) (k : Nat × Nat) : Nat × Nat × Nat × Nat :=
  let p0 := 0xD2511F53 * c.1
  let p1 := 0xCD9E8D57 * c.2.2.1
  ((p1 >>> 32) ^^^ c.2.1 ^^^ k.1, p1 % 2 ^ 32, (p0 >>> 32) ^^^ c.2.2.2 ^^^ k.2, p0 % 2 ^ 32)
def philoxGo : Nat → (Nat × Nat × Nat × Nat) → (Nat × Nat) → Nat × Nat × Nat × Nat
  | 0, c, _ => c
  | n + 1, c, k => philoxGo n (philoxRound c k) ((k.1 + 0x9E3779B9) % 2 ^ 32, (k.2 + 0xBB67AE85) % 2 ^ 32)
def draw32 (seed counter purpose : Nat) : Nat :=
  (philoxGo 10 (counter % 2 ^ 32, (counter >>> 32) % 2 ^ 32, purpose, 0) (seed % 2 ^ 32, (seed >>> 32) % 2 ^ 32)).1

end Sys2Proof.Machine
end

