-- ==== Sys2Proof/Machine/Hash.lean ====
section
/-!
DEFINITION. The published functions the spec names: SHAKE256 for all digests (spec/00 R5; FIPS 202) and the CRC-32 of
IEEE 802.3 (spec/10 R330). Their constants are the publications' (log 13).
-/
namespace Sys2Proof.Machine

/-! ## Keccak-f[1600] (FIPS 202): five planes (y) of five lanes (x) of 64 bits -/

abbrev Plane := List Nat

/-- Rotation left of a 64-bit lane. -/
def rotl64 (x n : Nat) : Nat := ((x <<< (n % 64)) ||| (x >>> (64 - n % 64))) % 2 ^ 64
def Plane.xor (p q : Plane) : Plane := List.zipWith (· ^^^ ·) p q
/-- The plane seen k lanes further on: lane x is lane x + k of p. -/
def Plane.turn (k : Nat) (p : Plane) : Plane := p.drop k ++ p.take k

/-- The walk of ρ from lane (x, y) on: with each step t, the lane's place 5y + x and its offset (t + 1)(t + 2) / 2. -/
def rhoWalk : Nat → Nat → Nat → Nat → List (Nat × Nat)
  | 0, _, _, _ => []
  | k + 1, t, x, y => (5 * y + x, (t + 1) * (t + 2) / 2) :: rhoWalk k (t + 1) y ((2 * x + 3 * y) % 5)
/-- The offsets by plane; lane (0, 0) stays. -/
def rhoOffsets : List Plane :=
  let w := rhoWalk 24 0 1 0
  (List.range 5).map fun y => (List.range 5).map fun x =>
    (w.find? fun o => o.1 = 5 * y + x).elim 0 (·.2)

/-- The linear feedback register of ι, so many steps on. -/
def iotaStep (r : Nat) : Nat := if r < 128 then 2 * r else (2 * r) ^^^ 0x171
/-- The next n bits of the register, bit j at 2^j − 1, from j on; and the register behind them. -/
def iotaBits : Nat → Nat → Nat → Nat × Nat
  | 0, _, r => (0, r)
  | n + 1, j, r =>
    let q := iotaBits n (j + 1) (iotaStep r)
    ((r % 2) <<< (2 ^ j - 1) ||| q.1, q.2)
/-- The constants of n rounds. -/
def iotaWords : Nat → Nat → List Nat
  | 0, _ => []
  | n + 1, r => let q := iotaBits 7 0 r; q.1 :: iotaWords n q.2

def stepTheta (a : List Plane) : List Plane :=
  let c := a.foldl Plane.xor [0, 0, 0, 0, 0]
  let d := (c.turn 4).xor ((c.turn 1).map (rotl64 · 1))
  a.map d.xor
def stepRho (a : List Plane) : List Plane := List.zipWith (List.zipWith rotl64) a rhoOffsets
def stepPi (a : List Plane) : List Plane :=
  (List.range 5).map fun y => (List.range 5).map fun x => (a.getD x []).getD ((x + 3 * y) % 5) 0
def stepChi (a : List Plane) : List Plane :=
  a.map fun p => p.xor (List.zipWith (fun u v => (2 ^ 64 - 1 - u) &&& v) (p.turn 1) (p.turn 2))
def stepIota (k : Nat) : List Plane → List Plane
  | (l :: p) :: ps => ((l ^^^ k) :: p) :: ps
  | a => a
def keccak (a : List Plane) : List Plane :=
  (iotaWords 24 1).foldl (fun a k => stepIota k (stepChi (stepPi (stepRho (stepTheta a))))) a

/-! ## SHAKE256 (FIPS 202) -/

/-- Bytes of the state that take part in absorbing and squeezing. -/
def shakeRate : Nat := 136
/-- Up to 200 bytes as planes. -/
def planesOf (bs : List Byte) : List Plane :=
  (List.range 5).map fun y => (List.range 5).map fun x => leNat ((bs.drop (8 * (5 * y + x))).take 8)

/-- The state behind so many blocks of a padded message. -/
def soak : Nat → List Byte → List Plane → List Plane
  | 0, _, a => a
  | n + 1, bs, a => soak n (bs.drop shakeRate) (keccak (List.zipWith Plane.xor a (planesOf (bs.take shakeRate))))
/-- So many blocks of output. -/
def wring : Nat → List Plane → List Byte
  | 0, _ => []
  | n + 1, a => ((a.flatMap id).flatMap (natLE 8)).take shakeRate ++ wring n (keccak a)

/-- The message with the suffix 1111, the first bit of the padding and its last: 0x1F at its end, and the top bit of its last
block. -/
def shakePad (msg : List Byte) : List Byte :=
  let free := shakeRate - msg.length % shakeRate
  msg ++ (List.range free).map fun i => (if i = 0 then 0x1F#8 else 0#8) ^^^ (if i + 1 = free then 0x80#8 else 0#8)

/-- SHAKE256 of a byte string, n bytes of output. -/
def shake256 (msg : List Byte) (n : Nat) : List Byte :=
  (wring (n / shakeRate + 1) (soak (msg.length / shakeRate + 1) (shakePad msg) (planesOf []))).take n

/-- A digest as a number whose highest byte is the hash's first (log 23). -/
def digestNat (bs : List Byte) : Nat := leNat bs.reverse

/-- CRC-32 of IEEE 802.3 over bytes, initial value all ones, result inverted (10 R330). -/
def crcBit : Nat → Nat → Nat
  | 0, c => c
  | n + 1, c => crcBit n (if c % 2 = 1 then (c >>> 1) ^^^ 0xEDB88320 else c >>> 1)
def crc32 (bs : List Byte) : Nat := (bs.foldl (fun c b => crcBit 8 (c ^^^ b.toNat)) (2 ^ 32 - 1)) ^^^ (2 ^ 32 - 1)

end Sys2Proof.Machine
end

