-- ==== Sys2Proof/Machine/Tables.lean ====
section
/-!
DEFINITION. Plain data the machine is built of: tables keyed by a number, and byte memories, each a list sorted by its
key. An absent key stands for the reset value of the thing it names.
-/
namespace Sys2Proof.Machine

/-- A sorted table: numbers with the values recorded for them. -/
abbrev Table (α : Type) := List (Nat × α)

/-- The value recorded for k. -/
def tfind {α : Type} (k : Nat) : Table α → Option α
  | [] => none
  | (j, v) :: r => if j = k then some v else tfind k r

/-- The value of k, or the reset value d. -/
def tget {α : Type} (d : α) (k : Nat) (t : Table α) : α := (tfind k t).getD d

/-- The table with v recorded for k. -/
def tset {α : Type} (k : Nat) (v : α) : Table α → Table α
  | [] => [(k, v)]
  | (j, w) :: r => if k < j then (k, v) :: (j, w) :: r else if j = k then (k, v) :: r else (j, w) :: tset k v r

/-- The table with nothing recorded for k. -/
def terase {α : Type} (k : Nat) (t : Table α) : Table α := t.filter fun e => e.1 != k

/-- The table with every recorded value replaced. -/
def tmap {α : Type} (f : Nat → α → α) (t : Table α) : Table α := t.map fun e => (e.1, f e.1 e.2)

/-- The byte at an address of a memory whose unlisted bytes read 0. -/
def peek (a : Nat) : List Host.Cell → Byte
  | [] => 0#8
  | (b, v) :: r => if b = a then v else peek a r

/-- A cell put before the first cell of a higher address. -/
def putCell (a : Nat) (v : Byte) : List Host.Cell → List Host.Cell
  | [] => [(a, v)]
  | (b, w) :: r => if a < b then (a, v) :: (b, w) :: r else (b, w) :: putCell a v r

/-- One byte written; a byte that becomes 0 is unlisted again. -/
def poke (a : Nat) (v : Byte) (m : List Host.Cell) : List Host.Cell :=
  if v = 0#8 then m.filter fun c => c.1 != a else putCell a v (m.filter fun c => c.1 != a)

/-- Bytes written from an address upwards. -/
def pokes (a : Nat) : List Byte → List Host.Cell → List Host.Cell
  | [], m => m
  | v :: vs, m => pokes (a + 1) vs (poke a v m)

/-- n bytes from an address upwards. -/
def peeks (m : List Host.Cell) (a n : Nat) : List Byte := (List.range n).map fun i => peek (a + i) m

/-- The canonical form: addresses strictly rising from lo, no byte listed that an unlisted address would read as. -/
def Memory.wfFrom : Nat → List Host.Cell → Bool
  | _, [] => true
  | lo, (a, v) :: r => decide (lo ≤ a) && v != 0#8 && Memory.wfFrom (a + 1) r
def Memory.wf (m : List Host.Cell) : Bool := Memory.wfFrom 0 m

/-- The entry at place i replaced. -/
def lset {α : Type} (l : List α) (i : Nat) (v : α) : List α := l.set i v

/-- The entry at place i, or d. -/
def lget {α : Type} (l : List α) (i : Nat) (d : α) : α := l.getD i d

/-- The same of a fixed number of like things. -/
def vset {α : Type} {n : Nat} (l : Vector α n) (i : Nat) (v : α) : Vector α n := l.setIfInBounds i v
def vget {α : Type} {n : Nat} (l : Vector α n) (i : Nat) (d : α) : α := l[i]?.getD d

/-- Bytes as one number for comparison and packing, and words of 32 bits. -/
def leWord (bs : List Byte) : Word := BitVec.ofNat 32 (leNat bs)

/-- A count that saturates at the largest value of w bits. -/
def satAdd (w x n : Nat) : Nat := min (x + n) (2 ^ w - 1)

end Sys2Proof.Machine
end

