-- ==== Sys2Proof/Machine/State.lean ====
section
/-!
DEFINITION. Everything the spec gives the module, as plain data. INVENTORY.md lists each piece with its rule and its
reset value; an absent key of a table stands for the reset value.
-/
namespace Sys2Proof.Machine

/-- Why a step cannot be: the command names a place that the module does not have. Raised by the meaning of any command
whose tile, port, die, seam, function, ring or array number is out of range (safe: the machine stops where nothing exists). -/
inductive Fault where
  /-- The command names no place of the module (WellFormed.lean lists the ranges): the model's own stop (log 119). Safe. -/
  | noSuchPlace
deriving DecidableEq, Repr

/-- Why a command has no meaning here. -/
inductive Refusal where
  /-- Not modelled yet: raised only by an arm of Dispatch.lean. Safe. -/
  | notModelled (mnemonic : String)
deriving DecidableEq, Repr

/-- One thing for each pass stream. -/
structure ByStream (α : Type) where
  fwd : α
  bwd : α
  upd : α
deriving DecidableEq, Repr

/-- One thing for each engine of a tile. -/
structure ByEngine (α : Type) where
  matrix : α
  vector : α
  mover : α
  route : α
  tally : α
  pool : α
deriving DecidableEq, Repr

/-- Where on the module something is: a tile, a cache die, the sync mesh controllers, a link port, base camp. -/
inductive Place where
  | tile (n : Nat)
  | die (c : Nat)
  | mesh
  | port (p : Nat)
  | camp
deriving DecidableEq, Repr

/-! ## Threads (02 R50–R53) -/

inductive RunState where
  | park | run | wait | halt
deriving DecidableEq, Repr

/-- What a thread in WAIT waits at (02 R52). -/
inductive WaitAt where
  | push | sumrd | cdrain | ctwait
deriving DecidableEq, Repr

/-- An awaited or delivered summary (05 R179, R180): the entry that owes it, which of its words, and the value. -/
structure Summary where
  entry : Nat
  part : Nat
  value : Option Word
deriving DecidableEq, Repr

structure Thread where
  run : RunState := .park
  /-- The core address of the next instruction, 0x0010_0000 plus the offset in the bank. -/
  pc : Word := 0x00100000#32
  regs : Vector Word 32 := Vector.replicate 32 0#32
  preds : BitVec 16 := 0
  staging : BitVec 128 := 0
  channel : Word := 0
  bank : Nat := 0
  sums : List Summary := []
  waitAt : Option WaitAt := none
  /-- The name its CTWAIT is registered under, and whether that registration's release has reached the tile (08 R268). -/
  waitUid : Nat := 0
  released : Bool := false
  /-- The context it was started for (01 R34). -/
  ctx : Nat := 0
  /-- It has retired nothing since it was started (02 R51, R52; log 19). -/
  fresh : Bool := false
  /-- In HALT: the reason that decides whether the debugger may resume it, and the state it was halted in (02 R83). -/
  haltBy : Nat := 0
  was : RunState := .park
  /-- It starts at its entry in its bank when it next runs: it took a bank switch in HALT (02 R77). -/
  atEntry : Bool := false
  /-- Stores retired through the tile store window so far; FENCE covers them, and each is visible as it retires. -/
  windowStores : Nat := 0
deriving DecidableEq, Repr

/-! ## Queues (02 R60–R73) -/

/-- A range of bytes: the first and the count. -/
structure Range where
  base : Nat
  len : Nat
deriving DecidableEq, Repr

/-- Which of the executing tile's parts an issued command still has to change (applied when it completes). -/
inductive Effect where
  /-- Bytes into device memory. -/
  | store (addr : Nat) (bytes : List Byte)
  /-- Bytes into a tile's control-core data memory. -/
  | dmem (tile addr : Nat) (bytes : List Byte)
  /-- Bytes into a tile's instruction bank. -/
  | imem (tile bank addr : Nat) (bytes : List Byte)
  /-- Elements of a vector register: register, then (element, value). -/
  | vreg (r : Nat) (vals : List (Nat × Word))
  /-- The busy bit of a register cleared. -/
  | unbusy (r : Nat)
  /-- The amax word becomes the larger of its value and the magnitude (03 R110 stage 4). -/
  | amax (addr : Nat) (mag : Word)
  /-- The zero flags of lines of the executing tile (04 R156): line, flag. -/
  | zeroFlags (flags : List (Nat × Bool))
  /-- An accumulator tile returned to EMPTY, or zeroed and still held (03 R87, R126). -/
  | empty (array acc : Nat)
  | zeroAcc (array acc : Nat)
  /-- A drain unit freed, with the lane reservation it held (03 R114, 05 R183). -/
  | drainDone (array : Nat)
  /-- Where a descriptor was loaded from (03 R100). -/
  | loadedFrom (key addr : Nat)
  /-- Drain descriptor of a stream (03 R108). -/
  | drainDesc (st : Stream) (n : Nat) (v : BitVec 256)
  /-- A program slot (05 R169): constants and instructions. -/
  | slot (n : Nat) (consts instrs : List Word)
  /-- Seed or counter base of a stream (05 R167). -/
  | seed (st : Stream) (counterBase : Bool) (v : BitVec 64)
  /-- Optimiser descriptor (06 R202). -/
  | optDesc (n : Nat) (v : BitVec 512)
  /-- A layer slot (07 R220). -/
  | layer (n : Nat) (v : BitVec 512)
  /-- A summary delivered to the stream's thread (05 R178, 09 R310, R321): part and value. -/
  | summary (part : Nat) (value : Word)
  /-- Predictor entry (04 R159). -/
  | predictor (n : Nat) (v : BitVec 64)
  /-- The extent that starts at an offset replaced (09 R306): compressed tiles' length, pattern tiles' start and length; none
  is recorded where the length is 0. -/
  | extent (start len pat plen : Nat)
  /-- The scratch contents of one finished output block of a work-list item are complete (03 R125). -/
  | itemBlock
  /-- A share of a team snapshot completed by this tile (06 R214). -/
  | snapMember (team : Nat)
  /-- A signal sent to a tally: where, tally, target tile, device, amount (08 R266). -/
  | signal (loc : Nat) (tally tile dev amount : Nat)
deriving DecidableEq, Repr

/-- A read an issued command awaits: request, device, address, length, the bytes once they have come. -/
structure Piece where
  uid : Nat
  dev : Nat
  addr : Nat
  len : Nat
  sent : Bool := false
  data : Option (List Byte) := none
deriving DecidableEq, Repr

/-- What a command that gathers bytes does with them once they are all there. -/
inductive Plan where
  | none
  /-- MOVE: descriptor (09 R302). -/
  | move (desc : BitVec 256)
  /-- RWGET: scratch address, layer slot, chosen format (07 R248–R250). -/
  | rwget (info : List Nat)
  /-- A work-list item's operands (03 R124). -/
  | item (item : BitVec 512)
deriving DecidableEq, Repr

/-- A queue entry: the 224 bits of 02 R60, whether it is a skip entry, and how far it has come. -/
structure Entry where
  uid : Nat
  word : BitVec 128
  s0 : Word
  s1 : Word
  chan : Word
  skip : Bool
  /-- The context it was placed for (01 R34), and the determinism mode in force when it issued (12 R380). -/
  ctx : Nat := 0
  det : Nat := 1
  /-- The team command it was delivered for (01 R38). -/
  teamCmd : Option Nat := none
  issued : Bool := false
  /-- A registration has been sent (08 R265), a grant asked for (09 R322) or room reserved (03 R122, 07 R250). -/
  asked : Bool := false
  /-- The release, grant or reservation has come. -/
  granted : Bool := false
  /-- What came with it: a pool handle and offset, a ring place, a leader's answer. -/
  answer : List Nat := []
  /-- The minimum latency from issue to completion in cycles of the tile's island (00 R8). -/
  latency : Nat := 0
  effects : List Effect := []
  /-- Byte ranges of device memory its effects will write. -/
  writes : List Range := []
  /-- Requests that must be answered before it completes. -/
  awaits : List Nat := []
  pieces : List Piece := []
  plan : Plan := .none
  /-- A refusal that comes into force as the command completes (08 R521): reason, address, detail. -/
  failing : Option (Nat × Nat × Nat) := none
  /-- The unit's own progress: array and pass steps, huddle round, work-list counts. -/
  progress : List Nat := []
  /-- The ranges it writes, for the lock-step digest (12 R386): device, address, bytes. -/
  outs : List (Nat × Nat × List Byte) := []
deriving DecidableEq, Repr

structure Queue where
  entries : List Entry := []
  /-- Cycles in which its ready head has been passed over (06 R198). -/
  passed : Nat := 0
deriving DecidableEq, Repr

/-- A queue entry of a team dispatch queue, with the members not yet reached. -/
structure Dispatch where
  entry : Entry
  /-- Accepted by the dispatcher: the members still to be delivered to. -/
  left : Option (List Nat) := none
deriving DecidableEq, Repr

/-- A write that left the tile and has no acknowledgement yet (08 R270): request, covered entry, stream, remote device,
whether it holds one of the mover's 64 places (09 R304). -/
structure Unacked where
  uid : Nat
  entry : Nat
  stream : Stream
  remote : Bool
  mover : Bool
deriving DecidableEq, Repr

/-- What a command asks of another device (10 R335–R338). -/
structure Ask where
  op : Nat
  dev : Nat
  addr : Nat
  nbytes : Nat := 1
  aop : Nat := 0
  atype : Nat := 0
  rid : Nat := 0
  absent : Bool := false
  op0 : Nat := 0
  op1 : Nat := 0
  data : List Byte := []
deriving DecidableEq, Repr

/-- A request of the mover that has none of its 64 places yet (09 R304): a write to the own device, a write into another
tile's control core (bank, or data memory), or a request of another device. -/
inductive Outgoing where
  | store (addr : Nat) (bytes : List Byte)
  | core (tile : Nat) (bank : Option Nat) (off : Nat) (bytes : List Byte)
  | ask (a : Ask)
deriving DecidableEq, Repr

structure Unsent where
  entry : Entry
  stream : Stream
  what : Outgoing
deriving DecidableEq, Repr

/-! ## Matrix engine (03, 04) -/

/-- An accumulator tile: the holder, and 256 A48 values in row order (03 R86, R87). -/
structure Acc where
  held : Option Stream := none
  vals : List (BitVec 48) := []
deriving DecidableEq, Repr

/-- A residency tag (03 R93): address, stride, format, transpose, K, stream; with the bytes it covers (R94). -/
structure Tag where
  addr : Nat
  stride : Nat
  fmt : Nat
  trans : Bool
  k : Nat
  stream : Stream
  sparse : Bool
  covers : List Range
deriving DecidableEq, Repr

structure Arr where
  accs : Vector Acc 8 := Vector.replicate 8 {}
  banks : Vector (Option Tag) 2 := Vector.replicate 2 none
  /-- The bank the latest held pass uses; the other is the idle one (03 R93). -/
  bank : Nat := 0
  /-- What the two stationary banks hold, and the array's quarter of the transposing buffer: the operand bytes last loaded
  and last streamed (03 R85). -/
  held : Vector (List Byte) 2 := Vector.replicate 2 []
  streamed : List Byte := []
  /-- Activity in quarters: 4 is 100 %, 0 is clock-gated (03 R115). -/
  level : Nat := 0
  /-- The dribble setting in force in the gap under way (03 R118). -/
  gapDribble : Bool := false
  dribbleCycles : Nat := 0
  /-- The latest pass of a streaming run in progress (03 R104): its entry. -/
  run : Option Nat := none
  /-- The drain unit has an uncompleted MDRAIN (03 R114). -/
  draining : Bool := false
deriving DecidableEq, Repr

/-- An item a member has taken (03 R124, R125): its words, its operand reads, and how far it has come. -/
structure Item where
  uid : Nat
  word : BitVec 512
  /-- Its place in the ring since the list opened (12 R387). -/
  place : Nat := 0
  /-- Its operands have been asked for, and where in the store its part of the scratch area begins. -/
  begun : Bool := false
  base : Nat := 0
  pieces : List Piece := []
  /-- Output blocks (or MX pairs) expanded into commands and drained, of `blocks`. -/
  expanded : Nat := 0
  drained : Nat := 0
  blocks : Nat := 0
  /-- Its operands lie in the scratch area; its output has been written. -/
  loaded : Bool := false
  written : Bool := false
deriving DecidableEq, Repr

/-- A stream's part in a work list as a member (03 R124). -/
structure ListRun where
  team : Nat
  list : Nat
  entry : Nat
  threshold : Nat
  scratch : Nat
  size : Nat
  /-- An answer to the tile's latest request is still to come. -/
  asking : Bool := false
  /-- The leader has said that the list is closed and its ring empty. -/
  ended : Bool := false
  /-- Items taken and not yet signalled, oldest first. -/
  items : List Item := []
  /-- Item commands waiting or issued, oldest first; separate from the main queue. -/
  queue : List Entry := []
deriving DecidableEq, Repr

/-- A WLPUT's reservation (03 R122): the entry that asked, and how many items it has. -/
structure Reserve where
  tile : Nat
  stream : Stream
  entry : Nat
  chan : Word
  tag : Nat
  items : Nat
deriving DecidableEq, Repr

/-- A work list at its leader (03 R120): ring base and capacity, items entered and handed out since it opened. -/
structure WorkList where
  ring : Nat
  cap : Nat
  ctx : Nat
  /-- The list sequence it takes in a lock-step context (12 R387). -/
  seq : Option Nat := none
  closed : Bool := false
  head : Nat := 0
  tail : Nat := 0
  /-- Reserved places whose items are not yet in the ring: first place, count, WLPUT (03 R122). -/
  holes : List (Nat × Nat × Nat) := []
  /-- Requests for the next item that found the ring empty, in order of arrival. -/
  asking : List Reserve := []
  /-- Reservations that wait for ring space, in order of arrival. -/
  waiting : List Reserve := []
  /-- Streams whose WLRUN of this opening has completed (03 R127; log 29). -/
  ran : List (Nat × Stream) := []
deriving DecidableEq, Repr

/-- The predictor table's entry (04 R159). -/
structure Predictor where
  array : Nat
  addr : Nat
  need : Nat
deriving DecidableEq, Repr

/-! ## Vector engine (05) -/

structure Program where
  consts : List Word
  instrs : List Word
deriving DecidableEq, Repr

structure Vec where
  /-- Registers not listed hold 0 in every element. -/
  regs : Table (List Word) := []
  busy : BitVec 32 := 0
  slots : Table Program := []
  seeds : ByStream (BitVec 64) := ⟨0, 0, 0⟩
  bases : ByStream (BitVec 64) := ⟨0, 0, 0⟩
  /-- The array whose drain holds a lane reservation (05 R183). -/
  lanes : Option Nat := none
deriving DecidableEq, Repr

/-! ## Tallies (08) -/

inductive WaitKind where
  | twait | tclaim | ctwait
deriving DecidableEq, Repr

/-- A registered waiter or claimer (08 R280). -/
structure Waiter where
  kind : WaitKind
  stream : Stream
  engine : Nat
  tile : Nat
  tag : Nat
  v : Nat
  entry : Nat
  mayVary : Bool
deriving DecidableEq, Repr

/-- The last signal applied (08 R280, ls_*): source kind, stream, origin, tag, cycles, amount. -/
structure LastSignal where
  src : Nat
  stream : Nat
  origin : Nat
  tag : Nat
  cycles : BitVec 48
  add : Nat
deriving DecidableEq, Repr

structure Tally where
  value : Nat := 0
  remote : Bool := false
  overflow : Bool := false
  waits : List Waiter := []
  claims : List Waiter := []
  last : Option LastSignal := none
deriving DecidableEq, Repr

/-- A member tile's count of its arrivals at a huddle, and the closes it has received (08 R278). -/
structure Arrivals where
  made : Nat := 0
  closes : Nat := 0
deriving DecidableEq, Repr

/-- A huddle: its descriptor, and the member tiles' arrivals for the two open rounds (team, tile, round). -/
structure Huddle where
  desc : BitVec 128
  arrivals : List (Nat × Nat × Nat) := []
  /-- Round c + 1 is complete too, and closes next (08 R279). -/
  again : Bool := false
deriving DecidableEq, Repr

/-! ## Pools (09 R318–R323) -/

structure PoolReq where
  chan : Word
  tag : Nat
  tile : Nat
  stream : Stream
  entry : Nat
  cls : Nat
  lastOwner : Nat
deriving DecidableEq, Repr

structure Pool where
  ctx : Nat := 0
  desc : BitVec 256 := 0
  configured : Bool := false
  /-- Allocated buffers: class, index, last owner. -/
  taken : List (Nat × Nat × Nat) := []
  waiting : List PoolReq := []
deriving DecidableEq, Repr

/-! ## Reductions (09 R311–R317) -/

inductive RedPhase where
  | armed | opened | finalising
deriving DecidableEq, Repr

/-- A superaccumulator: the fixed-point value whose bit 0 weighs 2⁻¹⁴⁹, and the flags +∞, −∞, NaN (09 R314). -/
structure Super where
  value : Int := 0
  posInf : Bool := false
  negInf : Bool := false
  nan : Bool := false
deriving DecidableEq, Repr

structure Reduction where
  phase : RedPhase
  ctx : Nat
  desc : BitVec 256
  count : Nat := 0
  present : Nat := 0
  sums : Table Super := []
  /-- Elements whose superaccumulator holds an uncorrectable error (13 R415). -/
  badSums : List Nat := []
  /-- The RDOPEN that armed it. -/
  tile : Nat := 0
  stream : Stream := .fwd
  tag : Nat := 0
  chan : Word := 0
deriving DecidableEq, Repr

/-! ## Route unit (07) -/

/-- A layer slot of a tile (07 R220): the descriptor, and the batch it is in, per direction. -/
structure Layer where
  desc : Option (BitVec 512) := none
  batch : Nat := 0
  batchBack : Nat := 0
  /-- Attempt counts a(s, e) of the batch (07 R233). -/
  attempts : Table Nat := []
  /-- Choices that found no slot, in the order attempted: expert, token, choice (07 R241). -/
  waiting : List (Nat × Nat × Nat) := []
  /-- Rows sent backward, by 8 × expert + replica (07 R252). -/
  sentBack : Table Nat := []
  closed : Bool := false
  rebounded : Bool := false
  closedBack : Bool := false
  /-- Return maps: 8 × token + choice (07 R247). -/
  returned : List Nat := []
  returnedBack : List Nat := []
deriving DecidableEq, Repr

/-- A member's RWGET known to its replica's leader (07 R250). -/
structure Fetcher where
  tile : Nat
  stream : Stream
  entry : Nat
  chan : Word
  tag : Nat
deriving DecidableEq, Repr

/-- A replica state at its leader (07 R243). -/
structure Replica where
  slot : Nat
  expert : Nat
  replica : Nat
  back : Bool
  batch : Nat
  /-- Closes received: scoring tile, round, rows counted. -/
  closes : List (Nat × Nat × Nat) := []
  /-- Slots whose row has arrived. -/
  rows : List Nat := []
  /-- RXWAIT has issued, has completed, and the packed count n. -/
  packing : Bool := false
  packed : Bool := false
  n : Nat := 0
  /-- RWGETs that wait for the first row, and those that have started. -/
  waiting : List Fetcher := []
  started : List Fetcher := []
deriving DecidableEq, Repr

/-! ## Update unit and snapshots (06) -/

/-- A snapshot in progress, by its team (06 R214–R217). -/
structure Snap where
  ctx : Nat
  desc : BitVec 512
  regions : List (BitVec 128)
  /-- The SNAP's command word, channel and name, which its shipping carries. -/
  word : BitVec 128 := 0
  chan : Word := 0
  entry : Nat := 0
  /-- The end record has been sent. -/
  ended : Bool := false
  /-- Members whose fence has completed, and members whose SNAP has completed. -/
  fenced : List Nat := []
  done : List Nat := []
  shipped : Nat := 0
  /-- Page addresses preserved in the reserve, with their bytes. -/
  preserved : Table (List Byte) := []
  /-- Bytes shipped so far, for the end record's digest. -/
  bytes : List Byte := []
deriving DecidableEq, Repr

/-! ## Packets in flight -/

/-- An atomic operation (09 R309). -/
inductive AtomOp where
  | add | min | max | swap | cas
deriving DecidableEq, Repr

/-- Why a request was turned away where it arrived: reason, address, detail (13 R410, 09 R313, 08 R266). -/
structure Refused where
  reason : Nat
  address : Nat
  detail : Nat
deriving DecidableEq, Repr

inductive Body where
  /-- A start request for a thread (02 R52). -/
  | start (st : Stream)
  /-- A team command on its way to a member (02 R72). -/
  | deliver (word : BitVec 128) (s0 s1 : Word) (skip : Bool) (cmd : Nat)
  /-- A member's completion of a team command (01 R38). -/
  | memberDone (cmd : Nat)
  /-- Work lists (03 R122, R124): reservation, request, item. -/
  | reserve (team list items : Nat)
  | itemAsk (team list : Nat)
  | item (team list place : Nat) (word : Option (BitVec 512))
  /-- Reads, writes and atomics of the own device (09). The read's and write's bytes are device addresses. -/
  | readReq (addr len : Nat) (uid : Nat)
  | writeReq (addr : Nat) (bytes : List Byte) (uid : Nat)
  /-- Bytes for another tile's control core: instruction bank or data memory (09 R302). -/
  | coreWrite (bank : Option Nat) (addr : Nat) (bytes : List Byte) (uid : Nat)
  | atomic (op : AtomOp) (ty addr : Nat) (operand compare : BitVec 64) (returning : Bool) (uid : Nat)
  /-- A reduction contribution: first element, FP32 bits, presence. -/
  | contribution (rid first : Nat) (vals : List Word) (present : Bool) (uid : Nat)
  /-- Answers to the request of a command: bytes read, an effect that took place, numbers, a refusal. -/
  | data (uid : Nat) (bytes : List Byte)
  | ack (uid : Nat)
  | answer (uid : Nat) (nums : List Nat)
  | refusal (uid : Nat) (why : Refused)
  /-- A refused signal, on the sync mesh (08 R266). -/
  | signalRefusal (why : Refused)
  /-- Sync mesh (08 R256). -/
  | signal (tally : Nat) (amount : Nat) (src : Nat) (cycles : BitVec 48)
  | remoteSignal (tally : Nat) (amount : Nat) (cycles : BitVec 48)
  | register (tally : Nat) (kind : WaitKind) (v : Nat) (mayVary : Bool)
  | release (kind : WaitKind)
  | set (tally value : Nat) (remote : Bool)
  | setAnswer (refused : Bool) (tally loc : Nat)
  | arrive (huddle team round : Nat)
  | close (huddle round : Nat)
  /-- Pools (09 R322, R323). -/
  | poolGet (pool cls lastOwner : Nat)
  | poolPut (handle : Word)
  | poolGrant (handle offset : Nat)
  /-- Expert routing (07). -/
  | row (slot expert replica : Nat) (back : Bool) (batch place tag : Nat) (bytes : List Byte)
  | rowClose (slot expert replica : Nat) (back : Bool) (batch round count : Nat)
  | returned (slot : Nat) (back : Bool) (batch place key : Nat) (bytes : List Byte)
  | rwRegister (slot expert replica : Nat) (start : Bool)
  | rwStart (empty : Bool)
deriving DecidableEq, Repr

/-- A packet in flight: what every operation carries (13 R407), where it goes, and its body. -/
structure Packet where
  uid : Nat
  ctx : Nat
  epoch : Nat
  chan : Word
  src : Place
  dst : Place
  stream : Stream := .fwd
  engine : Nat := 7
  tag : Nat := 0
  entry : Nat := 0
  mayVary : Bool := false
  /-- The determinism mode in force when its command issued (12 R380). -/
  det : Nat := 1
  body : Body
deriving DecidableEq, Repr

/-! ## Lock-step (12 R386–R391) -/

/-- A closed window not yet compared: its number, command digests with (channel, device, address) of their records, the
tag of each command, the partner's digest, and the digests the partner has sent of it. -/
structure LockWindow where
  number : Nat
  digests : List Nat
  records : List (Nat × Nat × Nat × Nat)
  theirs : Option Nat := none
  list : List (Nat × Nat) := []
deriving DecidableEq, Repr

structure LockSeq where
  /-- The context it belongs to, and which creation of it. -/
  ctx : Nat := 0
  born : Nat := 0
  /-- Commands completed since the context was created. -/
  count : Nat := 0
  window : Nat := 0
  digests : List Nat := []
  records : List (Nat × Nat × Nat × Nat) := []
  closed : List LockWindow := []
  /-- Window records of the partner that came before the tile closed its own window: number, digest. -/
  early : List (Nat × Nat) := []
  /-- A list sequence's items whose digests have not come yet, by ring place (12 R387). -/
  items : Table (Nat × Nat × Nat × Nat × Nat) := []
  place : Nat := 0
deriving DecidableEq, Repr

/-! ## Link ports and the fabric (10) -/

/-- A message (10 R336): its header and the bytes of its data. -/
structure Msg where
  hdr : BitVec 256
  data : List Byte := []
deriving DecidableEq, Repr

/-- A message in a port's sending side: channel, dateline class, target of the flit, units already sent. -/
structure OutMsg where
  uid : Nat
  msg : Msg
  vc : Nat
  dl : Nat
  tdev : Nat
  sent : Nat := 0
  /-- A forwarded message still holds the receive buffer it came by (10 R355): port, pair, units. -/
  holds : Option (Nat × Nat × Nat) := none
deriving DecidableEq, Repr

/-- A kind-0 flit in the replay buffer (10 R332), with the messages whose units it carries. -/
structure SentFlit where
  seq : Nat
  vc : Nat
  dl : Nat
  tdev : Nat
  used : Nat
  body : BitVec 1920
  carries : List OutMsg
deriving DecidableEq, Repr

structure Port where
  role : Nat := 0
  /-- port_state: 0 ABSENT, 1 TRAINING, 2 FULL, 3 HALF, 4 RETRAIN, 5 DOWN. -/
  state : Nat := 0
  lanes : Nat := 0
  sticky : Word := 0
  replays : Nat := 0
  /-- The protocol-error count (12 R390). -/
  protocolErrors : Nat := 0
  /-- A cable is present, and the record read from it (16 R516). -/
  cable : Bool := false
  record : BitVec 256 := 0
  /-- Byte 32 of port_cable (16 R517): 0 no cable, 1 valid, 2 unreadable, 3 check failed, 4 unsupported. -/
  cableState : Nat := 0
  /-- Bring-up has ended with the cable present: the port is to train (10 R327). -/
  wantTrain : Bool := false
  /-- The training step under way, 1 to 6; 0 when none is. -/
  step : Nat := 0
  good : BitVec 5 := 0
  /-- Lanes whose equalisation has left its limits (15 R478). -/
  limits : Nat := 0
  /-- The role, fabric size and torus dimensions in force since the latest training (10 R357). -/
  liveRole : Nat := 0
  liveSize : Nat := 1
  liveDims : Word := 0
  /-- Step 6: the peer's init has been accepted, our init has been acknowledged. -/
  initSeen : Bool := false
  /-- The device number in the peer's init (12 R385). -/
  peerDev : Nat := 0
  initAcked : Bool := false
  -- sending side
  out : List OutMsg := []
  replay : List SentFlit := []
  seq : Nat := 0
  /-- Sequence number from which flits are to be sent again. -/
  again : Option Nat := none
  controls : List Nat := []
  credits : List Nat := List.replicate 8 0
  counters : List Nat := List.replicate 8 0
  flits : Nat := 0
  /-- Kind-0 flits sent since channel 3 last had a slot. -/
  sinceMgmt : Nat := 0
  -- receiving side
  expect : Nat := 0
  asks : Nat := 0
  askDue : Bool := false
  discarding : Bool := false
  /-- Units of a message not yet whole, by pair; whole messages of the own device that wait, by pair, oldest first. -/
  unwhole : Table (List (BitVec 128)) := []
  waiting : List (Nat × Msg) := []
  /-- Of those, the oldest ones that came before the latest training: they return no credit any more. -/
  uncounted : Nat := 0
  freed : List Nat := List.replicate 8 0
  told : List Nat := List.replicate 8 0
deriving DecidableEq, Repr

/-- A request this device has sent to another and that has no reply yet (10 R351, R353). -/
structure Request where
  uid : Nat
  msg : Msg
  /-- Channel: 0 requests, 1 sync; and whether it is of the write class. -/
  cls : Nat
  write : Bool
  sent : Bool := false
  tries : Nat := 0
  tile : Nat := 0
  stream : Stream := .fwd
  engine : Nat := 7
  entry : Nat := 0
  tag : Nat := 0
deriving DecidableEq, Repr

structure Fabric where
  size : Nat := 1
  mode : Nat := 0
  dims : Word := 0
  /-- fabric_protect: 0 the receiver checks, 1 the sender is trusted (10). -/
  protect : Nat := 0
  timeoutUs : Nat := 1000
  retries : Nat := 3
  peers : Table Word := []
  requests : List Request := []
  /-- Next reqid by 2 × device + channel, and of reads by device. -/
  nextId : Table Nat := []
  readId : Table Nat := []
  /-- At the target: next expected reqid and the latest 1024 outcomes, by 2 × source device + channel. -/
  expect : Table Nat := []
  filters : Table (List (Nat × Msg)) := []
  /-- The newest epoch seen, by 256 × source device + source context. -/
  epochs : Table Nat := []
  hotline : Table Nat := []
  filterHits : Nat := 0
  staleIds : Nat := 0
  /-- Devices a context has sent a request to since its previous reset. -/
  asked : Table (List Nat) := []
  /-- At the target: the elements of contributions whose last message has not come, by their sender, with the local context (09
  R313; log 32). -/
  gathers : Table (Nat × List Word) := []
deriving DecidableEq, Repr

/-- What has left the module, latest first. -/
inductive Sent where
  | flit (port : Nat) (bits : BitVec 2048)
  /-- A write into host memory through a PCIe function, and an interrupt message of it (14). -/
  | hostWrite (fn addr : Nat) (bytes : List Byte)
  | interrupt (fn vector : Nat)
  /-- A datagram or advertisement on the Benvon port (14). -/
  | datagram (ip : BitVec 128) (udpPort : BitVec 16) (bytes : List Byte)
  | advertise (target : BitVec 128)
  /-- An MCTP message, and a DOE response (14). -/
  | mctp (eid : Byte) (bytes : List Byte)
  | doe (fn : Nat) (bytes : List Byte)
  /-- Bytes read through a window of a function (14). -/
  | hostRead (fn : Nat) (bytes : List Byte)
  /-- A read that completes with Completer Abort, or with Unsupported Request. -/
  | hostRefusal (fn : Nat) (completerAbort : Bool)
deriving DecidableEq, Repr

/-! ## A tile (01 R29) -/

/-- A whistle (13 R392–R398) in ticks of 1 µs: its count, the time since its unit's own last progress, the class and object its
unit waited for at the last tick, and the units of that resource that were then taken. -/
structure Whistle where
  count : Nat := 0
  own : Nat := 0
  on : Nat := 0
  seen : List Nat := []
deriving DecidableEq, Repr

structure Tile where
  threads : ByStream Thread := ⟨{}, {}, {}⟩
  /-- The stream that holds the turn (02 R51). -/
  turn : Stream := .fwd
  targetBank : Nat := 0
  /-- Threads that have still to take an accepted bank switch (02 R77). -/
  switching : List Stream := []
  dmem : List Host.Cell := []
  imem0 : List Host.Cell := []
  imem1 : List Host.Cell := []
  /-- 64 B blocks of the control core's memories that read as uncorrectable (13 R415): memory (0 data, 1 and 2 the banks) and
  block. -/
  coreBad : List (Nat × Nat) := []
  records : ByStream (BitVec 256) := ⟨0, 0, 0⟩
  queues : ByEngine (ByStream Queue) :=
    ⟨⟨{}, {}, {}⟩, ⟨{}, {}, {}⟩, ⟨{}, {}, {}⟩, ⟨{}, {}, {}⟩, ⟨{}, {}, {}⟩, ⟨{}, {}, {}⟩⟩
  dispatch : ByStream (List Dispatch) := ⟨[], [], []⟩
  unacked : List Unacked := []
  unsent : List Unsent := []
  -- matrix engine
  arrays : Vector Arr 4 := Vector.replicate 4 {}
  /-- Drain descriptors by 16 × stream + number; absent: scale 1.0 and 0 elsewhere. -/
  drainDescs : Table (BitVec 256) := []
  /-- Where in memory the descriptors a tile holds were loaded from, for fault records (03 R100): 16 × stream + number for
  drains, 100 + number for optimisers, 200 + slot for layers, 300 + slot for programs. -/
  descAt : Table Nat := []
  runs : ByStream (Option ListRun) := ⟨none, none, none⟩
  /-- Work lists by 4 × team + list, at the team's leader. -/
  lists : Table WorkList := []
  /-- Lines whose zero flag is 1 (04 R156). -/
  zeroFlags : List Nat := []
  predictors : Table Predictor := []
  lateSegments : Nat := 0
  spareSegments : Nat := 0
  -- vector engine
  vec : Vec := {}
  -- update unit and mover
  optDescs : Table (BitVec 512) := []
  /-- Compressed tensors' extents: their compressed tiles and their pattern tiles (09 R306). -/
  extents : List (Range × Range) := []
  -- route unit
  layers : Table Layer := []
  replicas : List Replica := []
  /-- Signals of ctally that an RQCLOSE's fence still holds back (07 R235): stream, command, tally. -/
  closing : List (Stream × Entry × Nat) := []
  nanTokens : Nat := 0
  misroutes : Nat := 0
  -- tally unit
  tallies : Table Tally := []
  /-- By 4096 × huddle + participant team. -/
  arrivals : Table Arrivals := []
  deadlock : List Byte := []
  -- pool client
  pools : Table Pool := []
  -- lock-step (12 R387): sequences 3 × engine + stream, and 18 + list
  lockSeqs : Table LockSeq := []
  -- router island
  whistleFires : Nat := 0
  /-- By watched unit: 8 × stream + engine, 6 dispatch, 7 thread (13 R392). -/
  whistles : Table Whistle := []
  /-- Watched units whose warning has been sent (13 R398). -/
  warned : List Nat := []
  /-- Packets of the tile dropped by its hardware fault; the tile is held in reset (13 R409). -/
  faulty : Bool := false
deriving DecidableEq, Repr

/-! ## Teams, channels, contexts (01, 13) -/

/-- A team command not yet completed by all members (01 R38): where it was issued, its team, the members left, and what
its completion signals. -/
structure TeamCmd where
  team : Nat
  ctx : Nat
  tile : Nat
  stream : Stream
  tag : Nat
  op : Nat := 0
  chan : Word := 0
  engine : Nat := 7
  left : List Nat
deriving DecidableEq, Repr

/-- A tracker slot (01 R42–R45): the current generation, the owner of a live channel, and operations of earlier
generations still outstanding. -/
structure Slot where
  gen : Nat := 1
  live : Option Nat := none
deriving DecidableEq, Repr

/-- A context reset in progress (13 R402): its cause, whether the context is then destroyed, units that have not
acknowledged step 3 (a tile number, 0x800 + die, 0x810 + port die), and devices whose ACK is awaited. -/
structure Resetting where
  cause : Nat
  destroy : Bool
  quiesced : Bool := false
  awaited : List Nat := []
  unacked : Nat := 0
  quarantined : Nat := 0
deriving DecidableEq, Repr

/-- A context: its dynamic state and its dictionary settings (01 R40; 03 R118; 06 R192, R198, R208, R215; 08 R259;
09 R288, R311; 11 R358; 12 R379, R384; 13 R398, R427; 14 R444). Settings stand whether or not it exists. -/
structure Ctx where
  /-- The PCIe function it is created for (14 R456). -/
  function : Nat := 0
  /-- ctx_state: 0 none, 1 live, 2 stopped, 3 dumping, 4 resetting. -/
  state : Nat := 0
  epoch : Nat := 0
  /-- Times this ID has been created (12 R386, R390). -/
  born : Nat := 0
  /-- Resets since its creation (13 R406). -/
  resets : Nat := 0
  resetting : Option Resetting := none
  /-- Requests that start once a dump has ended: cause, destroy (13 R401). -/
  waiting : List (Nat × Bool) := []
  resetRecord : BitVec 256 := 0
  dribble : Bool := true
  streamOrder : Nat := 1
  absentPolicy : Nat := 0
  snapReserve : Nat := 0
  /-- Reserve in pages, taken when the context was created, and where it lies (06 R215; 14 R456). -/
  reservePages : Nat := 0
  reserveAt : Nat := 0
  gtallyGrant : BitVec 32 := 0
  ridGrant : BitVec 32 := 0
  whistleLimit : Nat := 200000
  failAction : Nat := 3
  detMode : Nat := 1
  varyCount : Nat := 0
  lockstep : BitVec 64 := 0
  traceMask : Nat := 0
  /-- Most live channels, 0 for no limit (14 R444); the park word's address, 0 for none (16 R517). -/
  chanLimit : Nat := 0
  parkAddr : Nat := 0
  memGrants : Table (BitVec 128) := []
  guards : Table (BitVec 128) := []
  windows : Table (BitVec 128) := []
  jobMap : BitVec 128 := 0
  jobRanks : BitVec 512 := BitVec.allOnes 512
  jobDigest : BitVec 128 := 0
deriving DecidableEq, Repr

/-! ## Trouble records (13) -/

/-- A record of the management and trace network (13 R420): its header's fields and its body. -/
structure Record where
  cls : Nat
  kind : Nat
  device : Nat
  source : Nat
  ctx : Nat
  seq : Nat
  cycles : BitVec 48
  count : Nat := 1
  island : Nat := 0
  body : List Byte
deriving DecidableEq, Repr

/-- Losses of one source and class that no gap record has reported yet (13 R422). -/
structure Gap where
  source : Nat
  cls : Nat
  first : Nat
  last : Nat
  lost : Nat
deriving DecidableEq, Repr

/-- A dump requested or running (13 R417–R419): units still to be read, and the sections read so far. -/
structure DumpJob where
  ctx : Nat
  depth : Nat
  cause : Nat
  alarmSeq : Nat
  running : Bool := false
  address : Nat := 0
  left : List Nat := []
  /-- Bytes of the unit being read that have come. -/
  current : List Byte := []
  sections : List Byte := []
  count : Nat := 0
  unreachable : Nat := 0
deriving DecidableEq, Repr

structure Trouble where
  /-- Sequence numbers last used, by 4 × source + class (13 R420; log 21). -/
  seqs : Table Nat := []
  /-- Records on their way to base camp, oldest first (log 2). -/
  transit : List Record := []
  /-- Alarms that have found none of their source's 16 places free, oldest first: their unit waits (13 R422). -/
  held : List Record := []
  gaps : List Gap := []
  /-- The latest 1024 alarms, newest first, and how many were logged and overwritten. -/
  alarmLog : List Record := []
  alarmCount : Nat := 0
  alarmOverwritten : Nat := 0
  alarmSelect : Nat := 0
  staleDrops : Nat := 0
  bringupFaults : Nat := 0
  deviceFault : BitVec 128 := 0
  /-- A device fault has come since the last bring-up: no context is created (13 R413). -/
  faulted : Bool := false
  seams : Table (BitVec 256) := []
  /-- Repeats of the transfer under way, by 2 × seam + direction (13 R412). -/
  repeats : Table Nat := []
  ecc : Table Nat := []
  ueEvents : List (BitVec 128) := []
  outOfService : List Nat := []
  dumpBase : Nat := 0
  dumpSize : Nat := 0
  dumpTimeout : Nat := 100
  /-- The offset in the dump area at which the next dump is placed (13 R417). -/
  dumpNext : Nat := 0
  dumpLast : BitVec 128 := 0
  dumpTaken : Bool := false
  dumps : List DumpJob := []
deriving DecidableEq, Repr

/-! ## Base camp's dictionary paths (14) -/

/-- A requester of the retry record (14 R436, R439). -/
inductive Peer where
  | benvon (ip : BitVec 128) (udpPort : BitVec 16)
  | mctp (eid : Byte)
deriving DecidableEq, Repr

/-- An entry of a requester's retry record: the frame that answered a seq (14 R436). -/
structure Retry where
  peer : Peer
  seq : Word
  reply : List Byte
deriving DecidableEq, Repr

/-- A subscriber entry (14 R445), with the delivery number its next record takes and the alarms of a Benvon subscriber not
yet acknowledged, oldest first (R437). -/
structure Subscriber where
  desc : BitVec 192 := 0
  next : Nat := 1
  unacked : List (Nat × Record) := []
deriving DecidableEq, Repr

/-- The dictionary's own state in base camp: the change log (14 R441–R443) newest entry first, its head and base, retry
records, subscribers, and settings that no other unit holds. -/
structure Camp where
  log : List (BitVec 768) := []
  headSeq : Nat := 0
  headLink : BitVec 256 := 0
  baseSeq : Nat := 0
  baseLink : BitVec 256 := 0
  lost : Nat := 0
  retries : List Retry := []
  subs : List Subscriber := [{}, {}, {}, {}, {}, {}, {}, {}]
  /-- The MCTP endpoint ID (14 R438; log 22). -/
  eid : Byte := 0
  bifurcation : Nat := 0
  bar2Log2 : Nat := 36
  /-- The bifurcation in force since the latest bring-up (14 R444). -/
  liveBifurcation : Nat := 0
  /-- The largest BAR2 size offered since the latest bring-up (14 R444). -/
  liveBar2Log2 : Nat := 36
  /-- Requests that found 8 of their requester in flight (14 R436). -/
  busy : List (Peer × Nat) := []
  /-- The PCIe link as negotiated (14 R446). -/
  pcieLink : BitVec 16 := 0
deriving DecidableEq, Repr

/-! ## The PCIe functions (14 R446–R453) -/

/-- An HCOPY that has been taken and is not complete: its entry and the bytes it moves. -/
structure Copy where
  entry : BitVec 512
  data : List Byte
  abort : Nat := 0
deriving DecidableEq, Repr

/-- A function control queue (14 R448, R452): entries fetched up to the tail and not taken, copies under way, and the
number of completions written. -/
structure Ring where
  base : Nat := 0
  cbase : Nat := 0
  log2 : Nat := 4
  enable : Bool := false
  head : Nat := 0
  tail : Nat := 0
  entries : List (BitVec 512) := []
  copies : List Copy := []
  done : Nat := 0
deriving DecidableEq, Repr

/-- What a function has posted and the device has not performed: a write through BAR2, or a write to tally_db (14 R449). -/
inductive Posted where
  | write (addr : Nat) (bytes : List Byte)
  | signal (g n : Nat)
deriving DecidableEq, Repr

/-- A PCIe function: BAR0's registers (14 R448), its frame buffer and its refusals counted. -/
structure Fn where
  bar2Base : Nat := 0
  ringSel : Nat := 0
  evtBase : Nat := 0
  evtLog2 : Nat := 8
  evtTail : Nat := 0
  /-- Alarms that wait for room in the event ring, oldest first (14 R437). -/
  evtWaiting : List Record := []
  frame : List Byte := List.replicate 1056 0#8
  winIrq : Bool := false
  rings : Table Ring := []
  /-- Posted writes that wait for room in a snapshot's reserve, and what came behind them, oldest first. -/
  posted : List Posted := []
  drops : Nat := 0
deriving DecidableEq, Repr

/-! ## The onboard service (14 R460–R465) -/

/-- A member of a model batch: its team, the model it works on, the model whose state it holds, and the models handed to it. -/
structure Member where
  team : Nat
  model : Option Nat := none
  held : Option Nat := none
  given : Nat := 0
  /-- The value of its done tally when the job started. -/
  doneAt : Nat := 0
  halted : Bool := false
deriving DecidableEq, Repr

/-- A job: its record, state (0 queued, 1 running, 2 ended, 3 cancelled, 4 abandoned), models or regions done. -/
structure Job where
  id : Nat
  record : BitVec 512
  state : Nat := 0
  done : Nat := 0
  /-- The service complex it runs on (log 43). -/
  die : Nat := 0
  next : Nat := 0
  members : List Member := []
  /-- The channel of each model, those whose model is done and that have still to drain (14 R463). -/
  chans : List Word := []
  draining : List Word := []
  cancelling : Bool := false
  /-- The name its requests to other devices carry. -/
  uid : Nat := 0
  /-- The page bytes of a checkpoint shipped so far, and whether its end record has followed (14 R464). -/
  shipped : List Byte := []
  sealed : Bool := false
deriving DecidableEq, Repr

structure Service where
  /-- svc_state: 0 starting, 1 running, 2 failed. -/
  state : Nat := 0
  heartbeat : Nat := 0
  nextId : Nat := 1
  jobs : List Job := []
deriving DecidableEq, Repr

/-! ## Supplies, clocks, bring-up (15) -/

/-- The module's grade (00 R2), fixed by its fuses. -/
inductive Grade where
  | a24 | b18 | c12
deriving DecidableEq, Repr

structure Power where
  /-- The fuses: the grade (15 R480), and the defective physical tiles found at manufacture, as die, row and column (01 R18;
  log 51). -/
  grade : Grade := .a24
  yieldMap : List (Nat × Nat × Nat) := []
  /-- power_state: 0 BASE, 1 BRINGUP, 2 SERVICE, 3 RIDE, 4 HOLD, 5 STOPPED. -/
  state : Nat := 0
  /-- Each supply is declared good and has not been declared failed since (15 R466). -/
  mainOk : Bool := false
  backupOk : Bool := false
  /-- The bring-up phase under way (15 R484); 0 when none is. -/
  phase : Nat := 0
  /-- Entries of the power-up sequence reached, of 8 (15 R471). -/
  slots : Nat := 0
  warm : Bool := false
  /-- External memory has been trained and powered since (15 R485), and trained in the present bring-up. -/
  memKept : Bool := false
  /-- Base camp runs from its ROM (15 R492). -/
  rom : Bool := false
  /-- A restart waits for the contexts to be destroyed: 2 or 3, as written; 0 none (15 R499). -/
  restart : Nat := 0
  /-- Time points of the ride-through reached, of 4 (15 R472). -/
  rideSteps : Nat := 0
  thermTrip : Bool := false
  status : BitVec 64 := 0
  /-- The power event log, newest first (15 R475), and whether the newest one's outcome is open. -/
  events : List (BitVec 256) := List.replicate 8 0
  eventOpen : Bool := false
  eventSeq : Nat := 0
  bootCount : Nat := 0
  clockMhz : Nat := 1600
  limitW : Nat := 2400
  /-- The clock setting in effect: it follows the written one in steps of 25 MHz (15 R476, R482). -/
  clockLive : Nat := 1600
  placementC : Nat := 90
  powerW : Nat := 0
  /-- Steps of 25 MHz by which each tile's ceiling stands below the clock setting (15 R476, R481, R483). -/
  lowered : List Nat := []
  /-- Frequencies of tile islands that the voltage loop has changed. -/
  freqs : Table Nat := []
  /-- Measurements in a row below 97 % of the limit. -/
  under : Nat := 0
  /-- Tiles whose clock periods are lengthened (15 R477). -/
  droops : List Nat := []
  /-- The latest junction temperatures in m°C: tiles, 2048 + cache die, 2056 + port die. -/
  temps : Table Int := []
  /-- Tiles under the throttle, with the samples read since it began (15 R483). -/
  throttled : Table Nat := []
  /-- The test of the latest bring-up: 0 full, 1 quick; and its failed blocks by cache die (15 R499). -/
  memTest : Nat := 0
  testFails : List Nat := List.replicate 8 0
  /-- The disabled physical column by 8 × die + row; absent: 16 (01 R18). -/
  tileMap : Table Nat := []
  /-- clock_setting_mhz and power_limit_w as they stood when the latest bring-up started, for its tests (15 R482). -/
  testMhz : Nat := 0
  testW : Nat := 0
  /-- The signatures of the latest tile self-test, by (8 × die + row) × 17 + physical column (15 R487). -/
  signatures : List (BitVec 64) := []
  /-- The physical tiles that failed it, so numbered. -/
  failedTests : List Nat := []
deriving DecidableEq, Repr

/-! ## Firmware and trust (15 R491–R498) -/

/-- A firmware image in a slot, or running. -/
structure Image where
  svn : Nat := 0
  version : Word := 0
  digest : BitVec 512 := 0
deriving DecidableEq, Repr

/-- The two slots of a kind, the slot tried first, whether an image is staged, the fused minimum and the running image. -/
structure Kind where
  a : Option Image := none
  b : Option Image := none
  bFirst : Bool := false
  staged : Bool := false
  runsB : Bool := false
  running : Option Image := none
  fused : Nat := 0
deriving DecidableEq, Repr

structure Trust where
  /-- Kinds 0 to 3. -/
  kinds : List Kind := []
  /-- M0 to M7. -/
  meas : List (BitVec 512) := List.replicate 8 0
  upload : List Host.Cell := []
  /-- The latest eight nonces and their evidence, newest first. -/
  evidence : List (BitVec 256 × BitVec 5712) := []
deriving DecidableEq, Repr

/-! ## Button, LEDs (16 R509–R517) -/

structure Panel where
  locateLed : Nat := 0
  portLocate : BitVec 12 := 0
  attn : Bool := false
  /-- Park words written and not cleared: context and address. -/
  parkWords : List (Nat × Nat) := []
  /-- The attention button: 0 not held, 1 held beyond 2 s, 2 at 5 s. -/
  held : Nat := 0
deriving DecidableEq, Repr

/-- The factory's images: slot A of each kind (log 44). -/
def factoryKind (k : Nat) : Kind := { a := some { version := Config.factoryVersion k, digest := Config.factoryDigest k } }

/-! ## The module -/

structure State where
  /-- The commands that wait, first in, first out. -/
  pending : List Instr := []
  /-- The model's own counter at which free values are taken; every use advances it (log 4). -/
  draws : Nat := 0
  /-- The model's own names for entries, packets and requests, in order of their making. -/
  nextUid : Nat := 1
  tiles : Table Tile := []
  ctxs : Table Ctx := []
  teams : Table (BitVec 128) := []
  teamCmds : Table TeamCmd := []
  chans : Table Slot := []
  mem : List Host.Cell := []
  /-- 64 B blocks that read as uncorrectable (09 R293). -/
  bad : List Nat := []
  net : List Packet := []
  gtallies : Table Tally := []
  huddles : Table Huddle := []
  reds : Table Reduction := []
  pools : Table Pool := []
  snaps : Table Snap := []
  trouble : Trouble := {}
  /-- Live channels of each die: bit c is channel c (09 R292, R295). -/
  nearLive : List Nat := List.replicate 8 0xFFFF
  farLive : List Nat := List.replicate 8 0xFFFF
  scratchMib : Nat := 256
  exactMib : Nat := 128
  scrubPeriod : Nat := 24
  /-- The next block patrol scrub reads, by 16 × (2 × die + tier) + channel (09 R294). -/
  scrubAt : Table Nat := []
  /-- The digest of the tile firmware that the bring-up has broadcast (15 R486). -/
  broadcast : Option (BitVec 512) := none
  deviceNumber : Nat := 0
  ports : Table Port := []
  fabric : Fabric := {}
  sent : List Sent := []
  camp : Camp := {}
  /-- By function number (14 R446). -/
  fns : Table Fn := []
  service : Service := {}
  power : Power := {}
  trust : Trust := { kinds := [factoryKind 0, factoryKind 1, factoryKind 2, factoryKind 3] }
  panel : Panel := {}
deriving DecidableEq, Repr

/-- The module right after reset: main power never applied, every table at its defaults (log 3). -/
def State.reset : State := {}

end Sys2Proof.Machine
end

