-- ==== Sys2Proof/Machine/Operands.lean ====
section
/-!
DEFINITION. Reading the words that name things: command words (spec/02 R58), tile and die geometry (spec/01 R11, R17, R23,
R24), device addresses (spec/09 R287, R291), team descriptors (spec/01 R31), and the detail fields of refusals (spec/03 R100).
-/
namespace Sys2Proof.Machine

/-! ## Streams and engines -/

def streamNo : Stream → Nat
  | .fwd => 0
  | .bwd => 1
  | .upd => 2
def streamOf (n : Nat) : Stream := if n = 0 then .fwd else if n = 1 then .bwd else .upd
def allStreams : List Stream := [.fwd, .bwd, .upd]
def engineNo : Engine → Nat
  | .matrix => 0
  | .vector => 1
  | .mover => 2
  | .route => 3
  | .tally => 4
  | .pool => 5
def engineOf (n : Nat) : Engine :=
  if n = 0 then .matrix else if n = 1 then .vector else if n = 2 then .mover
  else if n = 3 then .route else if n = 4 then .tally else .pool
def allEngines : List Engine := [.matrix, .vector, .mover, .route, .tally, .pool]

def ByStream.get {α : Type} (b : ByStream α) : Stream → α
  | .fwd => b.fwd
  | .bwd => b.bwd
  | .upd => b.upd
def ByStream.set {α : Type} (b : ByStream α) (s : Stream) (v : α) : ByStream α :=
  match s with
  | .fwd => { b with fwd := v }
  | .bwd => { b with bwd := v }
  | .upd => { b with upd := v }
def ByStream.all {α : Type} (v : α) : ByStream α := ⟨v, v, v⟩
def ByStream.map {α β : Type} (f : α → β) (b : ByStream α) : ByStream β := ⟨f b.fwd, f b.bwd, f b.upd⟩
def ByStream.list {α : Type} (b : ByStream α) : List α := [b.fwd, b.bwd, b.upd]
def ByEngine.get {α : Type} (b : ByEngine α) : Engine → α
  | .matrix => b.matrix
  | .vector => b.vector
  | .mover => b.mover
  | .route => b.route
  | .tally => b.tally
  | .pool => b.pool
def ByEngine.set {α : Type} (b : ByEngine α) (e : Engine) (v : α) : ByEngine α :=
  match e with
  | .matrix => { b with matrix := v }
  | .vector => { b with vector := v }
  | .mover => { b with mover := v }
  | .route => { b with route := v }
  | .tally => { b with tally := v }
  | .pool => { b with pool := v }

/-! ## The command word (02 R58) -/

def wTag (w : BitVec 128) : Nat := bits w.toNat 127 112
def wOpcode (w : BitVec 128) : Nat := bits w.toNat 111 104
def wEngine (w : BitVec 128) : Nat := bits w.toNat 103 101
def wStream (w : BitVec 128) : Nat := bits w.toNat 100 99
def wMayVary (w : BitVec 128) : Bool := bit w.toNat 98
def wNoSws (w : BitVec 128) : Bool := bit w.toNat 97
def wPmode (w : BitVec 128) : Nat := bits w.toNat 96 95
def wPred (w : BitVec 128) : Nat := bits w.toNat 94 91
def wTeam (w : BitVec 128) : Bool := bit w.toNat 90
def wTeamId (w : BitVec 128) : Nat := bits w.toNat 89 78
def wSigEn (w : BitVec 128) : Bool := bit w.toNat 77
def wSigGlobal (w : BitVec 128) : Bool := bit w.toNat 76
def wSigTally (w : BitVec 128) : Nat := bits w.toNat 75 60
def wSigAdd (w : BitVec 128) : Nat := bits w.toNat 59 56 + 1
def wPayload (w : BitVec 128) : Nat := bits w.toNat 55 0

/-- Payload field [hi:lo] of an entry's command. -/
def Entry.pl (e : Entry) (hi lo : Nat) : Nat := bits (wPayload e.word) hi lo
def Entry.plb (e : Entry) (i : Nat) : Bool := (wPayload e.word).testBit i
def Entry.a0 (e : Entry) : Nat := e.s0.toNat
def Entry.a1 (e : Entry) : Nat := e.s1.toNat
def Entry.op (e : Entry) : Nat := wOpcode e.word

/-! ## Geometry (01 R11, R17, R23, R24) -/

def tileX (n : Nat) : Nat := n % 64
def tileY (n : Nat) : Nat := n / 64
def absDiff (a b : Nat) : Nat := (a - b) + (b - a)
def hops (x1 y1 x2 y2 : Nat) : Nat := absDiff x1 x2 + absDiff y1 y2
def seamsOf (x1 y1 x2 y2 : Nat) : Nat := absDiff (x1 / 16) (x2 / 16) + absDiff (y1 / 8) (y2 / 8)

/-- The nearest value to v within [lo, hi]. -/
def nearest (v lo hi : Nat) : Nat := if v < lo then lo else if hi < v then hi else v

/-- The edge tile through which a tile reaches a cache die (01 R24): x and y. -/
def edgeOf (n c : Nat) : Nat × Nat :=
  match c with
  | 0 => (nearest (tileX n) 0 31, 0)
  | 1 => (nearest (tileX n) 32 63, 0)
  | 2 => (63, nearest (tileY n) 0 15)
  | 3 => (63, nearest (tileY n) 16 31)
  | 4 => (nearest (tileX n) 32 63, 31)
  | 5 => (nearest (tileX n) 0 31, 31)
  | 6 => (0, nearest (tileY n) 16 31)
  | _ => (0, nearest (tileY n) 0 15)

/-- Hops and seams between a tile and another tile or a cache die. -/
def pathTile (a b : Nat) : Nat × Nat :=
  (hops (tileX a) (tileY a) (tileX b) (tileY b), seamsOf (tileX a) (tileY a) (tileX b) (tileY b))
def pathDie (n c : Nat) : Nat × Nat :=
  let e := edgeOf n c
  (hops (tileX n) (tileY n) e.1 e.2, seamsOf (tileX n) (tileY n) e.1 e.2 + 1)
/-- Transit on the data mesh: 2 cycles a hop and 4 a seam (01 R23). -/
def dataTransit (p : Nat × Nat) : Nat := 2 * p.1 + 4 * p.2
/-- Transit on the sync mesh: 1 cycle a hop and 3 a seam (08 R257). -/
def syncTransit (p : Nat × Nat) : Nat := p.1 + 3 * p.2

/-! ## Device addresses (09 R287, R291) -/

/-- What a device address names. -/
inductive Where where
  | store (tile off : Nat)
  | scratch (die off : Nat)
  | near (off : Nat)
  | far (off : Nat)
  | nothing
deriving DecidableEq, Repr

def tileStoreBytes : Nat := 0x400000
def tileBase (n : Nat) : Nat := n * tileStoreBytes
def scratchBase : Nat := 0x200000000
def scratchWindow : Nat := 0x20000000
def nearBase : Nat := 0x10000000000
def farBase : Nat := 0x20000000000

/-- The place an address names, given the scratch bytes of a die and the usable bytes of the tiers. -/
def whereIs (scratchBytes nearBytes farBytes a : Nat) : Where :=
  if a < scratchBase then .store (a / tileStoreBytes) (a % tileStoreBytes)
  else if a < scratchBase + 8 * scratchWindow then
    let o := (a - scratchBase) % scratchWindow
    if o < scratchBytes then .scratch ((a - scratchBase) / scratchWindow) o else .nothing
  else if nearBase ≤ a ∧ a < nearBase + nearBytes then .near (a - nearBase)
  else if farBase ≤ a ∧ a < farBase + farBytes then .far (a - farBase)
  else .nothing

/-- Usable bytes of a tier with L channels a die (09 R292). -/
def nearUsable (l : Nat) : Nat := 8 * l * 0xF0000000
def farUsable (l : Nat) : Nat := 8 * l * 0x1E0000000

/-- The ranges [a, a + n) and [b, b + m) share a byte. -/
def overlap (a n b m : Nat) : Bool := decide (0 < n) && decide (0 < m) && decide (a < b + m) && decide (b < a + n)
def Range.overlaps (r q : Range) : Bool := overlap r.base r.len q.base q.len
def anyOverlap (xs ys : List Range) : Bool := xs.any fun x => ys.any (Range.overlaps x)

/-! ## Team descriptors (01 R31) -/

def teamKind (d : BitVec 128) : Nat := bits d.toNat 127 126
def teamQuarantined (d : BitVec 128) : Bool := bit d.toNat 125
def teamResetting (d : BitVec 128) : Bool := bit d.toNat 124
def teamCtx (d : BitVec 128) : Nat := bits d.toNat 123 116
def teamParent (d : BitVec 128) : Nat := bits d.toNat 115 104
def teamFirst (d : BitVec 128) : Nat := bits d.toNat 103 92
def teamNext (d : BitVec 128) : Nat := bits d.toNat 91 80
def teamDone (d : BitVec 128) : Nat := bits d.toNat 79 64
def teamLeader (d : BitVec 128) : Nat := bits d.toNat 63 53
def teamX (d : BitVec 128) : Nat := bits d.toNat 52 47
def teamY (d : BitVec 128) : Nat := bits d.toNat 46 42
def teamW (d : BitVec 128) : Nat := bits d.toNat 41 36 + 1
def teamH (d : BitVec 128) : Nat := bits d.toNat 35 31 + 1
def teamCount (d : BitVec 128) : Nat := bits d.toNat 30 19

/-- A layout with field [lo + width − 1 : lo] replaced. -/
def withField {n : Nat} (d : BitVec n) (lo width v : Nat) : BitVec n :=
  BitVec.ofNat n (d.toNat - (bits d.toNat (lo + width - 1) lo) <<< lo + (v % 2 ^ width) <<< lo)

/-- The tiles of a rectangle, in ascending number. -/
def rectTiles (d : BitVec 128) : List Nat :=
  (List.range (teamH d)).flatMap fun j => (List.range (teamW d)).map fun i => (teamY d + j) * 64 + teamX d + i
def inRect (d : BitVec 128) (n : Nat) : Bool :=
  decide (teamX d ≤ tileX n) && decide (tileX n < teamX d + teamW d) &&
  decide (teamY d ≤ tileY n) && decide (tileY n < teamY d + teamH d)

/-! ## Refusals (02 R80, 03 R100) -/

/-- Why a stream halts: the fields of the fault record that the event supplies (02 R81). -/
structure Halt where
  reason : Nat
  unit : Nat := 7
  tag : Nat := 0
  chan : Word := 0
  address : Nat := 0
  detail : Nat := 0
deriving DecidableEq, Repr

/-- Detail for reasons 0x10 and 0x11 with the fault in the payload (locus 0), a structure (locus 1) or the header
(locus 2). -/
def detailPayload (opcode field : Nat) : Nat := pack [(8, opcode), (2, 0), (2, 0), (12, 0), (6, field)]
def detailStruct (opcode position field : Nat) : Nat := pack [(8, opcode), (2, 1), (2, 0), (12, position), (6, field)]
def detailHeader (opcode position : Nat) : Nat := pack [(8, opcode), (2, 2), (2, 0), (12, position), (6, 59)]

/-- What a check at issue finds wrong: reason, detail and the address field. -/
structure Bad where
  reason : Nat
  detail : Nat
  address : Nat := 0
deriving DecidableEq, Repr

/-- Reason 0x11 with the payload field whose lowest bit is `field` (56: S0, 57: S1). -/
def Entry.badField (e : Entry) (field : Nat) : Bad := ⟨0x11, detailPayload e.op field, 0⟩
/-- Reason 0x11 with bit `position` of a structure that lies at a device address and is named by payload bit `field`. -/
def Entry.badStruct (e : Entry) (position field address : Nat) : Bad := ⟨0x11, detailStruct e.op position field, address⟩
/-- Reason 0x20 without detail. -/
def badState : Bad := ⟨0x20, 0, 0⟩

/-- The first fault among checks in order. -/
def firstBad (checks : List (Bool × Bad)) : Option Bad := (checks.find? (·.1)).map (·.2)

/-- The lowest reserved payload field among those given that is not 0, as a fault. -/
def Entry.reserved (e : Entry) (ranges : List (Nat × Nat)) : Option Bad :=
  (ranges.reverse.find? fun r => e.pl r.1 r.2 != 0).map fun r => e.badField r.2

/-- The lowest set bit of a number, among its lowest 56; 0 where there is none. -/
def lowestBit (v : Nat) : Nat := ((List.range 56).find? v.testBit).getD 0
/-- The lowest set one of the payload bits that the command's table does not show, as a fault (03 R100, DEDUCED: log 10). -/
def Entry.unshown (e : Entry) (ranges : List (Nat × Nat)) : Option Bad :=
  (ranges.reverse.find? fun r => e.pl r.1 r.2 != 0).map fun r => e.badField (r.2 + lowestBit (e.pl r.1 r.2))

/-- The first of two possible faults. -/
def orBad (a b : Option Bad) : Option Bad := match a with
  | some x => some x
  | none => b

end Sys2Proof.Machine
end

