-- ==== Sys2Proof/Machine/Flags.lean ====
section
/-!
DEFINITION. The predicate bits p0–p15 (spec/02 R50, R56, R68): their reading and writing, and every computation that sets
one.
-/
namespace Sys2Proof.Machine

def predGet (p : BitVec 16) (i : Nat) : Bool := p.toNat.testBit i
def predSet (p : BitVec 16) (i : Nat) (v : Bool) : BitVec 16 :=
  if v then p ||| BitVec.ofNat 16 (1 <<< i) else p &&& ~~~(BitVec.ofNat 16 (1 <<< i))

/-- PCMP's comparison by its c field (02 R56). -/
def predCompare (c : Nat) (a b : Word) : Bool :=
  match c with
  | 0 => a = b
  | 1 => a ≠ b
  | 4 => a.slt b
  | 5 => !a.slt b
  | 6 => a.ult b
  | _ => !a.ult b

/-- PLOG's operation by its o field. -/
def predLogic (o : Nat) (a b : Bool) : Bool :=
  match o with
  | 0 => a && b
  | 1 => a || b
  | 2 => xor a b
  | _ => a && !b

/-- A push's condition holds (02 R58 pmode, R68). -/
def predHolds (pmode pred : Nat) (p : BitVec 16) : Bool :=
  match pmode with
  | 1 => predGet p pred
  | 2 => !predGet p pred
  | _ => true

end Sys2Proof.Machine
end

