-- ==== Sys2Proof/Machine/Formats.lean ====
section
/-!
DEFINITION. The element formats as stored bytes (spec/03 R89, spec/04 R130–R138, R144–R147, R149–R151, spec/05 R168), and
compressed tiles.
-/
namespace Sys2Proof.Machine

/-- Element width in bits of a format code (03 R89; 05 R162 for 0xC). -/
def codeWidth (c : Nat) : Nat :=
  match c with
  | 0x0 => 8 | 0x1 => 8 | 0x2 => 16 | 0x3 => 16 | 0x4 => 8 | 0x5 => 8 | 0x6 => 6 | 0x7 => 6 | 0x8 => 4
  | 0x9 => 32 | 0xA => 8 | 0xB => 8 | _ => 32
def codeFmt (c : Nat) : Fmt :=
  match c with
  | 0x0 => .e4m3 | 0x1 => .e5m2 | 0x2 => .bf16 | 0x3 => .fp16 | 0x4 => .e4m3 | 0x5 => .e5m2
  | 0x6 => .e3m2 | 0x7 => .e2m3 | 0x8 => .e2m1 | _ => .fp32
def isMx (c : Nat) : Bool := decide (4 ≤ c) && decide (c ≤ 8)
/-- emax of an MX element format (04 R145). -/
def codeEmax (c : Nat) : Int :=
  match c with
  | 0x4 => 8 | 0x5 => 15 | 0x6 => 4 | _ => 2

/-- n elements packed from a byte string, least significant bits first (04 R133). -/
def unpack (c n : Nat) (bs : List Byte) : List Nat := chunksOf (codeWidth c) n (leNat bs)
/-- Element codes packed with no gap, padded with zero bits to whole bytes. -/
def packNat (width : Nat) : List Nat → Nat
  | [] => 0
  | v :: vs => v % 2 ^ width + packNat width vs <<< width
def packElems (c : Nat) (vs : List Nat) : List Byte :=
  natLE ((codeWidth c * vs.length + 7) / 8) (packNat (codeWidth c) vs)
def rowBytes (c n : Nat) : Nat := (codeWidth c * n + 7) / 8

/-- An element's value under its block's scale (04 R132). -/
def mxValue (c : Nat) (scale elem : Nat) : Num :=
  if scale = 0xFF then .nan else Num.mul ((codeFmt c).decode elem) (e8m0 scale)

/-- A plain element widened to FP32 bits; 0xC keeps its bits. -/
def plainWord (c code : Nat) : Word := if c = 0xC then BitVec.ofNat 32 code else toF32 ((codeFmt c).decode code)

/-- A BF16 word as FP32 bits. -/
def bf16Word (v : Nat) : Word := toF32 (Fmt.bf16.decode v)

/-! ## ZB8 (04 R135–R138) -/

/-- s × p / d in FP32, p an integer with its sign and d > 0, rounded once (log 16): an infinite scale gives an infinity, and the
NaN of ∞ × 0; a NaN scale gives NaN (04 R136, R137; 05 R168). -/
def zb8Value (scale : Nat) (neg : Bool) (p d : Nat) : Word :=
  match Fmt.bf16.decode scale with
  | .fin sg m e =>
    if p = 0 ∨ m = 0 then f32zero else BitVec.ofNat 32 (Fmt.fp32.roundRat .nearest .toInf (sg != neg) (m * p) d e)
  | .inf sg => if p = 0 then f32nan else toF32 (.inf (sg != neg))
  | .nan => f32nan
/-- A ZB8s code's value: s × q / 127. -/
def zb8sDecode (scale code : Nat) : Word :=
  let q := max (signed 8 code) (-127)
  zb8Value scale (decide (q < 0)) q.natAbs 127
/-- A ZB8u code's value: s × (q / 255)². -/
def zb8uDecode (scale code : Nat) : Word := zb8Value scale false (code * code) (255 * 255)

/-- The scale of a block: its largest magnitude rounded up to BF16, at most 0x7F7F (04 R138). -/
def zb8Scale (vals : List Num) : Nat :=
  if vals.any fun v => v.isNan || v.isInf then 0x7FC0
  else
    let m := vals.foldl Num.maxAbs Num.zero
    if Num.eqv m Num.zero then 0 else min 0x7F7F (Fmt.bf16.round .up .toMax m)

/-- 127 × x / s rounded to an integer, to nearest even or stochastically with draw r, clamped to ±127. -/
def zb8sCode (scale : Nat) (x : Num) (r : Option Nat) : Nat :=
  match Fmt.bf16.decode scale, x with
  | .fin _ ms es, .fin sg mx ex =>
    if ms = 0 ∨ mx = 0 then 0
    else
      let d := ex - es
      let num := 127 * mx * (if 0 ≤ d then 2 ^ d.toNat else 1)
      let den := ms * (if 0 ≤ d then 1 else 2 ^ (-d).toNat)
      let n := num / den
      let rem := num % den
      let up := match r with
        | none => decide (den < 2 * rem) || (2 * rem = den && n % 2 = 1)
        | some x => decide (x < rem * 2 ^ 32 / den)
      let t := min 127 (if up then n + 1 else n)
      if sg then (256 - t) % 256 else t
  | _, _ => 0

/-- (2q − 1)² × s ≤ 4 × 255² × x, evaluated exactly. -/
def zb8uFits (s x : Num) (q : Nat) : Bool :=
  match s, x with
  | .fin _ ms es, .fin sg mx ex =>
    if sg then false
    else
      let e := Min.min es ex
      decide ((2 * q - 1) ^ 2 * ms * 2 ^ (es - e).toNat ≤ 4 * 255 ^ 2 * mx * 2 ^ (ex - e).toNat)
  | _, _ => false
/-- The largest q in 1 … 255 that fits, 0 if none: by bisection over eight bits, since the condition falls with q. -/
def zb8uCode (scale : Nat) (x : Num) : Nat :=
  let s := Fmt.bf16.decode scale
  if scale = 0 then 0
  else [128, 64, 32, 16, 8, 4, 2, 1].foldl (fun q b => if zb8uFits s x (q + b) then q + b else q) 0

/-- One block of 64 encoded: the BF16 scale and the codes; `draws` gives each element's draw where the rounding is
stochastic. -/
def zb8Encode (isU : Bool) (vals : List Word) (draws : Nat → Option Nat) : Nat × List Nat :=
  let nums := vals.map f32
  let s := zb8Scale nums
  if s = 0x7FC0 then (s, vals.map fun _ => 0)
  else (s, nums.mapIdx fun i x => if isU then zb8uCode s x else zb8sCode s x (draws i))

/-! ## Conversions (04 R144–R146) -/

/-- FP32 bits converted to a plain format code (or kept, for 0xC). -/
def toCode (c : Nat) (rnd : Rounding) (sat1 : Bool) (w : Word) : Nat :=
  if c = 0xC then w.toNat else (codeFmt c).round rnd (if sat1 then .toInf else .toMax) (f32 w)

/-- One MX row: the scale and 32 element codes (04 R145). -/
def mxRow (c : Nat) (rnd : Nat → Rounding) (vals : List Word) : Nat × List Nat :=
  let nums := vals.map f32
  if nums.any fun v => v.isNan || v.isInf then (0xFF, vals.map fun _ => 0)
  else
    let m := nums.foldl Num.maxAbs Num.zero
    if Num.eqv m Num.zero then (0, nums.map fun v => (codeFmt c).withSign v.sign 0)
    else
      let e := Max.max (-127) (Min.min 127 (m.floorLog2 - codeEmax c))
      ((e + 127).toNat, nums.mapIdx fun i v =>
        (codeFmt c).round (rnd i) .toMax (Num.mul v (.fin false 1 (-e))))

/-! ## Compressed tiles (04 R149–R151) -/

def hdrFmt (h : Nat) : Nat := bits h 127 124
def hdrKind (h : Nat) : Nat := bits h 123 122
def hdrLen (h : Nat) : Nat := bits h 121 114 * 16
def hdrData (h : Nat) : Nat := bits h 113 96 * 16
def hdrLdp (h : Nat) : Nat := (bits h 95 87 + 1) * 16
def hdrCnt (h j : Nat) : Nat := bits h (5 * j + 4) (5 * j)
/-- Bytes of a whole tile. -/
def tileBytesOf (h : Nat) : Nat := 16 + hdrLen h

/-- Whether position (r, j) of a tile is kept, from its bytes. -/
def tileKept (bs : List Byte) (r j : Nat) : Bool :=
  let h := leNat (bs.take 16)
  if hdrKind h = 1 then true else (leNat ((bs.drop (16 + 2 * j)).take 2)).testBit r

/-- The value of position (r, j) of a compressed or dense tile (04 R150), +0 where it is not kept. -/
def tileValue (bs : List Byte) (r j : Nat) : Num :=
  let h := leNat (bs.take 16)
  let c := hdrFmt h
  let dense : Bool := hdrKind h = 1
  let mask := if dense then 0 else 32
  let scales := if isMx c then 16 else 0
  let vals := leNat (bs.drop (16 + mask + scales))
  let w := codeWidth c
  let idx :=
    if dense then r * 16 + j
    else (List.range j).foldl (fun n k => n + hdrCnt h k) 0 +
      popCount16 (leNat ((bs.drop (16 + 2 * j)).take 2) % 2 ^ r)
  if !dense && !(leNat ((bs.drop (16 + 2 * j)).take 2)).testBit r then Num.zero
  else
    let code := (vals >>> (w * idx)) % 2 ^ w
    if isMx c then mxValue c ((bs.getD (16 + mask + j) 0#8).toNat) code else (codeFmt c).decode code
where
  popCount16 (w : Nat) : Nat := ((List.range 16).filter w.testBit).length

/-- The tiles of a sequence: offset and header of each, from an offset, at most n. -/
def tileWalk (rd : Nat → Nat) : Nat → Nat → List (Nat × Nat)
  | 0, _ => []
  | n + 1, off => let h := rd off; (off, h) :: tileWalk rd n (off + tileBytesOf h)

/-- Tiles of an extent, up to its end (at most as many as 16-byte lines). -/
def extentTiles (rd : Nat → Nat) (start len : Nat) : List (Nat × Nat) :=
  (tileWalk rd (len / 16) start).takeWhile fun t => decide (t.1 < start + len)

/-- The protected bits of a tile's bytes (09 R306): for byte i of the tile, the mask of protected bits. -/
def protectedBits (h i : Nat) : Nat :=
  if i < 10 then 0xFF
  else if i < 12 then 0x00
  else if i < 14 then 0x00
  else if i = 14 then 0xFC
  else if i = 15 then 0xFF
  else if hdrKind h = 0 && decide (i < 48) then 0xFF
  else if hdrKind h = 2 then 0xFF
  else 0x00

end Sys2Proof.Machine
end

