-- ==== Sys2Proof/Machine/Carrier.lean ====
section
/-!
DEFINITION. The carrier (spec/00 R2; spec/01 R11–R18, R24; spec/13 R426): grades, dies and where they lie, the seams between
them with their numbers and directions, the physical tiles behind the logical ones, and the seams a packet crosses.
-/
namespace Sys2Proof.Machine

/-! ## Grades (00 R2) -/

/-- Maximum arithmetic clock in MHz. -/
def Grade.mhz : Grade → Nat
  | .a24 => 1600
  | .b18 => 1400
  | .c12 => 1100
/-- Module power limit in W. -/
def Grade.watts : Grade → Nat
  | .a24 => 2400
  | .b18 => 1800
  | .c12 => 1200
/-- The last four characters of the ordering code. -/
def Grade.suffix : Grade → List Byte
  | .a24 => [0x2D, 0x41, 0x32, 0x34]
  | .b18 => [0x2D, 0x42, 0x31, 0x38]
  | .c12 => [0x2D, 0x43, 0x31, 0x32]

/-! ## Dies (01 R11) -/

inductive Die where
  | compute (nn : Nat)
  | cache (c : Nat)
  | port (p : Nat)
deriving DecidableEq, Repr

def computeX (nn : Nat) : Nat := nn % 4
def computeY (nn : Nat) : Nat := nn / 4
/-- The compute die of a logical tile (01 R17). -/
def computeOf (n : Nat) : Nat := tileY n / 8 * 4 + tileX n / 16
/-- The logical tiles of a compute die, in ascending number. -/
def computeTiles (nn : Nat) : List Nat :=
  (List.range 8).flatMap fun j => (List.range 16).map fun i => (8 * computeY nn + j) * 64 + 16 * computeX nn + i

/-- The compute dies a cache die faces, the lower-numbered first. -/
def facedBy : Nat → Nat × Nat
  | 0 => (0, 1)
  | 1 => (2, 3)
  | 2 => (3, 7)
  | 3 => (11, 15)
  | 4 => (14, 15)
  | 5 => (12, 13)
  | 6 => (8, 12)
  | _ => (0, 4)

/-- The port die that carries a link port. -/
def portDie (p : Nat) : Nat := p / 3

/-- The dies of the perimeter ring in the order of R12. -/
def ringDies : List Die :=
  [.port 0, .cache 0, .cache 1, .port 1, .cache 2, .cache 3, .port 2, .cache 4, .cache 5, .port 3, .cache 6, .cache 7]
def ringAt (i : Nat) : Die := ringDies.getD (i % 12) (.port 0)
/-- Where a die stands in the ring. -/
def ringPlace : Die → Nat
  | .port p => 3 * p
  | .cache c => 3 * (c / 2) + c % 2 + 1
  | .compute _ => 0

/-! ## Seams (01 R12, R13; 13 R426) -/

def seamCount : Nat := 52
def dataLanes : Nat := 256
def spareLanes : Nat := 8
def laneCount : Nat := dataLanes + spareLanes

/-- The dies a seam joins; direction A, here 0, goes from the first to the second. -/
def seamEnds (k : Nat) : Die × Die :=
  if k < 12 then (.compute (4 * (k / 3) + k % 3), .compute (4 * (k / 3) + k % 3 + 1))
  else if k < 24 then (.compute (k - 12), .compute (k - 8))
  else if k < 40 then
    let c := (k - 24) / 2
    (.compute (if k % 2 = 0 then (facedBy c).1 else (facedBy c).2), .cache c)
  else (ringAt (k - 40), ringAt (k - 39))

/-- The east–west seams crossed from die column a to die column b in die row dy, with their directions. -/
def seamsX (dy a b : Nat) : List (Nat × Nat) :=
  if a ≤ b then (List.range (b - a)).map fun i => (dy * 3 + a + i, 0) else (List.range (a - b)).map fun i => (dy * 3 + b + i, 1)
/-- The north–south seams crossed from die row a to die row b in die column dx. -/
def seamsY (dx a b : Nat) : List (Nat × Nat) :=
  if a ≤ b then (List.range (b - a)).map fun i => (12 + (a + i) * 4 + dx, 0)
  else (List.range (a - b)).map fun i => (12 + (b + i) * 4 + dx, 1)
/-- The seams of the way from one place of the mesh to another, along x first (01 R21). -/
def seamsBetween (x1 y1 x2 y2 : Nat) : List (Nat × Nat) :=
  seamsX (y1 / 8) (x1 / 16) (x2 / 16) ++ seamsY (x2 / 16) (y1 / 8) (y2 / 8)
/-- The seam by which an edge tile's compute die reaches a cache die. -/
def cacheSeam (c nn : Nat) : Nat := if (facedBy c).1 = nn then 24 + 2 * c else 25 + 2 * c
/-- The ring seams from ring place a to ring place b, the shorter way round (10 R339). -/
def seamsRing (a b : Nat) : List (Nat × Nat) :=
  let ahead := (b + 12 - a) % 12
  if ahead ≤ 6 then (List.range ahead).map fun i => (40 + (a + i) % 12, 0)
  else (List.range (12 - ahead)).map fun i => (40 + (b + i) % 12, 1)

/-- The ring-neighbour cache die by which a tile reaches a port's die, or is reached from it: of the two the one of fewer hops, the
lower-numbered on a tie (10 R339). -/
def portGate (n p : Nat) : Nat :=
  let ab : Nat × Nat := match portDie p with
    | 0 => (0, 7)
    | 1 => (1, 2)
    | 2 => (3, 4)
    | _ => (5, 6)
  if (pathDie n ab.2).1 < (pathDie n ab.1).1 then ab.2 else ab.1

/-- The seams between a tile and a cache die, towards the die (`dir` 0) or from it. -/
def seamsToDie (n c : Nat) : List (Nat × Nat) :=
  let e := edgeOf n c
  seamsBetween (tileX n) (tileY n) e.1 e.2 ++ [(cacheSeam c (computeOf (e.2 * 64 + e.1)), 0)]
def seamsFromDie (c n : Nat) : List (Nat × Nat) :=
  let e := edgeOf n c
  (cacheSeam c (computeOf (e.2 * 64 + e.1)), 1) :: seamsBetween e.1 e.2 (tileX n) (tileY n)

/-- The seams a packet or a message of the fabric crosses, with their directions (01 R21, R24; 10 R339; log 52). -/
def seamPath : Place → Place → List (Nat × Nat)
  | .tile a, .tile b => seamsBetween (tileX a) (tileY a) (tileX b) (tileY b)
  | .tile a, .die c => seamsToDie a c
  | .die c, .tile b => seamsFromDie c b
  | .tile a, .port p =>
    let c := portGate a p
    seamsToDie a c ++ seamsRing (ringPlace (.cache c)) (ringPlace (.port (portDie p)))
  | .port p, .tile b =>
    let c := portGate b p
    seamsRing (ringPlace (.port (portDie p))) (ringPlace (.cache c)) ++ seamsFromDie c b
  | .die c, .die d => seamsRing (ringPlace (.cache c)) (ringPlace (.cache d))
  | .port p, .die c => seamsRing (ringPlace (.port (portDie p))) (ringPlace (.cache c))
  | .die c, .port p => seamsRing (ringPlace (.cache c)) (ringPlace (.port (portDie p)))
  | .port p, .port q => seamsRing (ringPlace (.port (portDie p))) (ringPlace (.port (portDie q)))
  | _, _ => []

def seamKey (seam dir : Nat) : Nat := 2 * seam + dir
def State.seamRepeats (s : State) (seam dir : Nat) : Nat := tget 0 (seamKey seam dir) s.trouble.repeats
/-- A transfer is being repeated in place: no later transfer of that direction overtakes it (01 R16). -/
def State.seamHolds (s : State) (x : Nat × Nat) : Bool := decide (0 < s.seamRepeats x.1 x.2)
/-- Some seam on the way repeats a transfer. -/
def State.wayHeld (s : State) (a b : Place) : Bool := (seamPath a b).any s.seamHolds

/-! ## Physical tiles (01 R17, R18) -/

def physicalRows : Nat := 8
def physicalColumns : Nat := 17
/-- The physical column of a row that is disabled; 16 where the map names none. -/
def State.disabledColumn (s : State) (die row : Nat) : Nat := tget 16 (8 * die + row) s.power.tileMap
/-- The physical place of a logical tile: die, row, column. -/
def State.physicalTile (s : State) (n : Nat) : Nat × Nat × Nat :=
  let die := computeOf n
  let row := tileY n % 8
  let col := tileX n % 16
  (die, row, if col < s.disabledColumn die row then col else col + 1)

end Sys2Proof.Machine
end

