-- ==== Sys2Proof/Machine/Outbox.lean ====
section
/-!
DEFINITION. Messages (spec/10 R336, R337) and the sending side of a link port (R333), with the frames of lock-step pairs,
which go out of one named port and are never routed (spec/12 R390).
-/
namespace Sys2Proof.Machine

/-! ## The message header (10 R336) -/

def mOp (m : Msg) : Nat := bits m.hdr.toNat 255 250
def mSdev (m : Msg) : Nat := bits m.hdr.toNat 249 242
def mTdev (m : Msg) : Nat := bits m.hdr.toNat 241 234
def mCtx (m : Msg) : Nat := bits m.hdr.toNat 233 226
def mEpoch (m : Msg) : Nat := bits m.hdr.toNat 225 218
def mChan (m : Msg) : Nat := bits m.hdr.toNat 217 186
def mStream (m : Msg) : Nat := bits m.hdr.toNat 185 184
def mReqid (m : Msg) : Nat := bits m.hdr.toNat 183 168
def mAddr (m : Msg) : Nat := bits m.hdr.toNat 167 120
def mBytes (m : Msg) : Nat := bits m.hdr.toNat 119 111 + 1
def mAop (m : Msg) : Nat := bits m.hdr.toNat 110 107
def mAtype (m : Msg) : Nat := bits m.hdr.toNat 106 105
def mStatus (m : Msg) : Nat := bits m.hdr.toNat 104 101
def mRid (m : Msg) : Nat := bits m.hdr.toNat 100 89
def mAbsent (m : Msg) : Bool := bit m.hdr.toNat 88
def mRev (m : Msg) : Nat := bits m.hdr.toNat 87 85
def mTag (m : Msg) : Nat := bits m.hdr.toNat 84 69
def mOp0 (m : Msg) : Nat := bits m.hdr.toNat 63 32
def mOp1 (m : Msg) : Nat := bits m.hdr.toNat 31 0

/-- A header from its fields, highest first. -/
def msgHeader (op sdev tdev ctx epoch chan strm reqid addr nbytes aop atype status rid : Nat) (absent : Bool)
    (rev tag op0 op1 : Nat) : BitVec 256 :=
  BitVec.ofNat 256 (pack [(6, op), (8, sdev), (8, tdev), (8, ctx), (8, epoch), (32, chan), (2, strm), (16, reqid),
    (48, addr), (9, nbytes - 1), (4, aop), (2, atype), (4, status), (12, rid), (1, b2n absent), (3, rev), (16, tag),
    (5, 0), (32, op0), (32, op1)])

/-- The operations whose messages carry data: WR, RDR, RDC unless absent, MGMT and TRACE. -/
def carriesData (op : Nat) (absent : Bool) : Bool :=
  op = 0x02 || op = 0x21 || (op = 0x05 && !absent) || op = 0x30 || op = 0x31

/-- The channel of an operation (10 R337); none for an operation outside the table. -/
def opChannel (op : Nat) : Option Nat :=
  if 1 ≤ op ∧ op ≤ 5 then some 0 else if op = 6 ∨ op = 7 then some 2
  else if 0x21 ≤ op ∧ op ≤ 0x24 then some 1 else if op = 0x30 ∨ op = 0x31 then some 3 else none

/-! ## Units (10 R336): 16 B each, sent highest bit first, so a byte string's first byte is the highest -/

def beNat (bs : List Byte) : Nat := bs.foldl (fun n b => 256 * n + b.toNat) 0
/-- Data as whole units, the last one filled up with zeros. -/
def dataUnits : Nat → List Byte → List (BitVec 128)
  | 0, _ => []
  | n + 1, bs =>
    let chunk := bs.take 16
    BitVec.ofNat 128 (beNat (chunk ++ List.replicate (16 - chunk.length) 0#8)) :: dataUnits n (bs.drop 16)
def Msg.units (m : Msg) : List (BitVec 128) :=
  BitVec.ofNat 128 (m.hdr.toNat >>> 128) :: BitVec.ofNat 128 m.hdr.toNat :: dataUnits ((m.data.length + 15) / 16) m.data

/-! ## Ports -/

def State.port (s : State) (p : Nat) : Port := tget {} p s.ports
def State.modPort (s : State) (p : Nat) (f : Port → Port) : State := { s with ports := tset p (f (s.port p)) s.ports }
/-- A port in FULL or HALF. -/
def Port.up (p : Port) : Bool := p.state = 2 || p.state = 3
def State.portUp (s : State) (p : Nat) : Bool := (s.port p).up

/-- A message joins a port's sending side; a forwarded one still holds a receive buffer. -/
def State.portSend (s : State) (p : Nat) (m : Msg) (vc dl tdev : Nat) (holds : Option (Nat × Nat × Nat)) : State :=
  let s1 := { s with nextUid := s.nextUid + 1 }
  s1.modPort p fun x =>
    { x with out := x.out ++ [{ uid := s.nextUid, msg := m, vc := vc, dl := dl, tdev := tdev, holds := holds }] }

/-! ## Lock-step frames (12 R390) -/

def lockEnabled (l : BitVec 64) : Bool := bit l.toNat 63
def lockPartner (l : BitVec 64) : Nat := bits l.toNat 62 55
def lockPctx (l : BitVec 64) : Nat := bits l.toNat 54 47
def lockPort (l : BitVec 64) : Nat := bits l.toNat 46 43
def lockW (l : BitVec 64) : Nat := 16 * 2 ^ bits l.toNat 42 40
def lockBuf (l : BitVec 64) : Nat := bits l.toNat 39 28 * 1024

/-- A frame to the partner of context c, where the named port is in FULL or HALF; `low` is bits [71:8] of its header. -/
def State.lockFrame (s : State) (c ftype n engine strm window low : Nat) (data : List Byte) : State :=
  let x := tget {} c s.ctxs
  let l := x.lockstep
  let head := natLE 16 (pack [(8, ftype), (11, n), (3, engine), (2, strm), (32, window), (64, low), (8, 0)])
  let body := head ++ data
  if s.portUp (lockPort l) then
    s.portSend (lockPort l)
      ⟨msgHeader 0x30 s.deviceNumber (lockPartner l) c x.epoch 0 0 0 0 body.length 0 0 0 0 false 0 0 0 0, body⟩ 3 0
      (if s.fabric.mode = 1 then lockPartner l else 0) none
  else s

/-- A stop frame (12 R391), cause in bits [15:8] of the header. -/
def State.lockStop (s : State) (c cause : Nat) : State := s.lockFrame c 0x03 0 0 0 0 cause []

end Sys2Proof.Machine
end

