-- ==== Sys2Proof/Machine/Ops.lean ====
section
/-!
DEFINITION. The named operations every meaning is written over: reaching a part of State, teams and ownership (spec/01),
channels (R44), memory protection and stores (spec/09 R288, spec/06 R192–R195, R216), packets, records and alarms
(spec/13 R420–R423), stream halts (spec/02 R79–R82), context stops (R399).
-/
namespace Sys2Proof.Machine

abbrev Result := Host.Outcome State Fault Refusal

/-- A command whose place exists. -/
def atPlace (ok : Bool) (s : State) : Result := if ok then .next s else .fault .noSuchPlace

/-! ## Reaching parts of State -/

def State.tile (s : State) (n : Nat) : Tile := tget {} n s.tiles
def State.setTile (s : State) (n : Nat) (t : Tile) : State := { s with tiles := tset n t s.tiles }
def State.modTile (s : State) (n : Nat) (f : Tile → Tile) : State := s.setTile n (f (s.tile n))
def State.ctx (s : State) (c : Nat) : Ctx := tget {} c s.ctxs
def State.modCtx (s : State) (c : Nat) (f : Ctx → Ctx) : State := { s with ctxs := tset c (f (s.ctx c)) s.ctxs }
def State.thread (s : State) (n : Nat) (st : Stream) : Thread := (s.tile n).threads.get st
def State.modThread (s : State) (n : Nat) (st : Stream) (f : Thread → Thread) : State :=
  s.modTile n fun t => { t with threads := t.threads.set st (f (t.threads.get st)) }
def State.queue (s : State) (n : Nat) (e : Engine) (st : Stream) : Queue := ((s.tile n).queues.get e).get st
def State.modQueue (s : State) (n : Nat) (e : Engine) (st : Stream) (f : Queue → Queue) : State :=
  s.modTile n fun t => { t with queues := t.queues.set e ((t.queues.get e).set st (f ((t.queues.get e).get st))) }
def State.array (s : State) (n a : Nat) : Arr := vget (s.tile n).arrays a {}
def State.modArray (s : State) (n a : Nat) (f : Arr → Arr) : State :=
  s.modTile n fun t => { t with arrays := vset t.arrays a (f (vget t.arrays a {})) }
def State.team (s : State) (i : Nat) : BitVec 128 := tget 0 i s.teams
def State.tally (s : State) (n g : Nat) : Tally := tget {} g (s.tile n).tallies
def State.gtally (s : State) (g : Nat) : Tally := tget {} g s.gtallies

/-- A fresh name for an entry, a packet or a request. -/
def State.fresh (s : State) : Nat × State := (s.nextUid, { s with nextUid := s.nextUid + 1 })

/-- A cycle count of an island (02 R54): a free value at each reading (log 4). -/
def State.cycle (s : State) (island : Nat) : BitVec 48 × State :=
  (Config.cycleCount island s.draws, { s with draws := s.draws + 1 })

/-- A 32-bit value the spec leaves open, of kind k (log 15). -/
def State.free (s : State) (k : Nat) : Word × State := (Config.freeWord k s.draws, { s with draws := s.draws + 1 })

/-! ## Teams (01 R30–R37) -/

/-- The member chain from a team: itself and what next_member names (01 R33). -/
def State.chain (s : State) : Nat → Nat → List Nat
  | 0, _ => []
  | n + 1, i => if i = 0 then [] else i :: s.chain n (teamNext (s.team i))

/-- The rectangles a team contains at any depth, by team ID. -/
def State.rects (s : State) : Nat → Nat → List Nat
  | 0, _ => []
  | n + 1, i =>
    let d := s.team i
    if teamKind d = 1 then [i]
    else if teamKind d = 2 then (s.chain 4095 (teamFirst d)).flatMap (s.rects n)
    else []

/-- Depth of nesting is at most the number of entries (01 R31). -/
def State.teamTiles (s : State) (i : Nat) : List Nat := (s.rects 4096 i).flatMap fun r => rectTiles (s.team r)

/-- A tile lies in a team. -/
def State.inTeam (s : State) (i n : Nat) : Bool := (s.rects 4096 i).any fun r => inRect (s.team r) n

/-- The context a tile belongs to, 0 if none (01 R34: the device team makes no tile belong to context 0). -/
def State.owner (s : State) (n : Nat) : Nat :=
  match s.teams.find? fun e => e.1 != 0 && teamKind e.2 = 1 && inRect e.2 n with
  | some e => teamCtx e.2
  | none => 0

/-- Whether some rectangle team other than the device team covers a tile. -/
def State.owned (s : State) (n : Nat) : Bool := s.teams.any fun e => e.1 != 0 && teamKind e.2 = 1 && inRect e.2 n

/-- The arrays of a tile that belongs to no context stand at 0 % (03 R117). -/
def Tile.gated (t : Tile) : Tile := { t with arrays := t.arrays.map fun (a : Arr) => { a with level := 0 } }
def State.gateArrays (s : State) : State := { s with tiles := tmap (fun n t => if s.owned n then t else t.gated) s.tiles }

/-- The tiles of a context, in ascending number. -/
def State.ctxTiles (s : State) (c : Nat) : List Nat :=
  let rs := s.teams.filter fun e => e.1 != 0 && teamKind e.2 = 1 && teamCtx e.2 = c
  if rs.isEmpty then [] else (List.range 2048).filter fun n => rs.any fun e => inRect e.2 n

/-- The teams of a context that contain a tile at any depth, the device team left out (13 R409). -/
def State.teamsOver (s : State) (n : Nat) : List Nat :=
  (s.teams.filter fun e => e.1 != 0 && teamKind e.2 != 0 && s.inTeam e.1 n).map (·.1)

/-- A team of the context: neither free nor another context's. -/
def State.teamOf (s : State) (c i : Nat) : Bool := teamKind (s.team i) != 0 && teamCtx (s.team i) = c
def State.teamBlocked (s : State) (i : Nat) : Bool := teamQuarantined (s.team i) || teamResetting (s.team i)

/-! ## Contexts and channels -/

/-- A context whose commands may issue: context 0 always, others when live (13 R399, R402). -/
def State.running (s : State) (c : Nat) : Bool := c = 0 || (s.ctx c).state = 1

/-- The handle is current and, where it names a channel of context c, live (01 R43–R45, 02 R61). -/
def State.chanOk (s : State) (c : Nat) (h : Word) : Bool :=
  let slot := tget {} (h.toNat / 65536) s.chans
  h.toNat != 0 && slot.live = some c && slot.gen = h.toNat % 65536

/-- A tally handle of a context's grant (08 R259). -/
def grantFirst (g : BitVec 32) : Nat := bits g.toNat 31 16
def grantCount (g : BitVec 32) : Nat := bits g.toNat 15 0
def inGrant (g : BitVec 32) (i : Nat) : Bool := decide (grantFirst g ≤ i) && decide (i < grantFirst g + grantCount g)
def State.gtallyOk (s : State) (c g : Nat) : Bool := c = 0 || inGrant (s.ctx c).gtallyGrant g

/-! ## Device addresses -/

def popCount (n w : Nat) : Nat := ((List.range w).filter n.testBit).length
/-- L of a tier: the smallest number of live channels on any die (09 R292). -/
def tierL (maps : List Nat) : Nat := maps.foldl (fun l m => min l (popCount m 16)) 16
def State.nearBytes (s : State) : Nat := nearUsable (tierL s.nearLive)
def State.farBytes (s : State) : Nat := farUsable (tierL s.farLive)
def State.place (s : State) (a : Nat) : Where := whereIs (s.scratchMib * 1048576) s.nearBytes s.farBytes a
/-- The home cache die of an address in scratch or a tier. -/
def homeOf : Where → Nat
  | .scratch c _ => c
  | .near o => o / 4096 % 8
  | .far o => o / 4096 % 8
  | _ => 0
def isStore : Where → Bool
  | .store .. => true
  | _ => false
/-- The island that homes an address. -/
def State.homePlace (s : State) (a : Nat) : Place :=
  match s.place a with
  | .store n _ => .tile n
  | w => .die (homeOf w)
/-- 0 tile store, 2 shared cache or scratch, 3 external memory (13 R415). -/
def whereCode : Where → Nat
  | .store .. => 0
  | .scratch .. => 2
  | _ => 3

/-- The 4 KiB pages a byte range touches. -/
def pagesOf (a n : Nat) : List Nat :=
  if n = 0 then [] else (List.range ((a + n - 1) / 4096 - a / 4096 + 1)).map fun i => a / 4096 + i

/-- A memory grant range in bytes: base and length (09 R288). -/
def grantBase (g : BitVec 128) : Nat := bits g.toNat 127 80
def grantLen (g : BitVec 128) : Nat := bits g.toNat 79 52 * 4096

/-- A page lies in the memory of a context (09 R288): a store of its tiles, or a grant range; context 0 has all memory. -/
def State.pageOk (s : State) (c p : Nat) : Bool :=
  match s.place (p * 4096) with
  | .nothing => false
  | .store n _ => c = 0 || s.owner n = c
  | _ => c = 0 || (s.ctx c).memGrants.any fun g =>
      decide (grantBase g.2 ≤ p * 4096) && decide (p * 4096 < grantBase g.2 + grantLen g.2)
def State.memOk (s : State) (c a n : Nat) : Bool := decide (a + n ≤ 2 ^ 48) && (pagesOf a n).all (s.pageOk c)

/-- The first byte of a range at which page p's share begins. -/
def firstIn (a p : Nat) : Nat := max a (p * 4096)
/-- The first byte of a range that lies outside the context's memory. -/
def State.memFault (s : State) (c a n : Nat) : Option Nat :=
  if 2 ^ 48 < a + n then some (a % 2 ^ 48) else ((pagesOf a n).find? fun p => !s.pageOk c p).map (firstIn a)

/-- The context whose memory holds an address, if any (13 R415). -/
def State.dataOwner (s : State) (a : Nat) : Option Nat :=
  match s.place a with
  | .nothing => none
  | .store n _ => if s.owned n then some (s.owner n) else none
  | _ => (s.ctxs.find? fun e => e.2.memGrants.any fun g =>
      decide (grantBase g.2 ≤ a) && decide (a < grantBase g.2 + grantLen g.2)).map (·.1)

/-! ## Guarded regions (06 R192–R196) -/

def guardKind (g : BitVec 128) : Nat := bits g.toNat 127 126
def guardBase (g : BitVec 128) : Nat := bits g.toNat 125 78
def guardLen (g : BitVec 128) : Nat := bits g.toNat 77 38 * 256

/-- The first region of the given kind that a range touches: region number and first byte touched. -/
def State.guardHit (s : State) (c kind a n : Nat) : Option (Nat × Nat) :=
  ((s.ctx c).guards.find? fun g => guardKind g.2 = kind && overlap (guardBase g.2) (guardLen g.2) a n).map
    fun g => (g.1, max a (guardBase g.2))

def guardDetail (region : Nat) (frozen : Bool) : Nat := pack [(5, region), (1, b2n frozen), (24, 0)]

/-- An own-device address as a fault record holds it: device number above 48 address bits (02 R81). -/
def State.ownAddr (s : State) (a : Nat) : Nat := s.deviceNumber * 2 ^ 48 + a

/-- A region check for a command's access (06 R193–R195): update-only regions bar the forward and backward streams,
frozen regions bar writes. Where one access touches several regions, the record names the lowest-numbered one that bars it and
the first byte of the access in that region, update-only regions before frozen ones; a command's reads are checked before its
writes. R195 names no order: the model's choice (log 77). -/
def State.guardBad (s : State) (c : Nat) (st : Stream) (write : Bool) (a n : Nat) : Option Bad :=
  let updOnly := if st = .upd then none else s.guardHit c 1 a n
  match updOnly with
  | some (r, b) => some ⟨0x22, guardDetail r false, s.ownAddr b⟩
  | none =>
    if write then
      match s.guardHit c 2 a n with
      | some (r, b) => some ⟨0x20, guardDetail r true, s.ownAddr b⟩
      | none => none
    else none

/-- A reduce-add target that is open or finalising (06 R200), for reads of the update stream. -/
def redTarget (d : BitVec 256) : Nat := bits d.toNat 255 208
def redElems (d : BitVec 256) : Nat := bits d.toNat 207 184 + 1
def redArrival (d : BitVec 256) : Bool := bit d.toNat 102
def redBf16 (d : BitVec 256) : Bool := bit d.toNat 101
def redBytes (d : BitVec 256) : Nat := redElems d * (if redBf16 d then 2 else 4)
def State.redBad (s : State) (st : Stream) (a n : Nat) : Option Bad :=
  if st = .upd && s.reds.any fun r => r.2.phase != .armed && overlap (redTarget r.2.desc) (redBytes r.2.desc) a n
  then some ⟨0x21, 0, s.ownAddr a⟩ else none

/-- Checks of every access a command makes to the own device: the context's memory, then guarded regions, then open
reductions. -/
def State.accessBad (s : State) (c : Nat) (st : Stream) (write : Bool) (a n : Nat) : Option Bad :=
  match s.memFault c a n with
  | some b => some ⟨0x30, 0, s.ownAddr b⟩
  | none => orBad (s.guardBad c st write a n) (if write then none else s.redBad st a n)

/-! ## Packets -/

/-- A packet put on its mesh with a fresh name and its context's epoch. -/
def State.send (s : State) (p : Packet) : State :=
  { s with
    nextUid := s.nextUid + 1
    net := s.net ++ [{ p with uid := s.nextUid, epoch := (s.ctx p.ctx).epoch }] }

/-- Sync-mesh packets keep their order from one island to one island (08 R257). -/
def isSync : Body → Bool
  | .signal .. => true
  | .remoteSignal .. => true
  | .register .. => true
  | .release .. => true
  | .set .. => true
  | .setAnswer .. => true
  | .signalRefusal _ => true
  | .arrive .. => true
  | .close .. => true
  | .memberDone .. => true
  | _ => false

/-- A packet of the sync mesh. -/
def Packet.onSync (p : Packet) : Bool := isSync p.body

/-- An operation in flight that R407 drops where it arrives: an old epoch, or a stale handle, which sync packets do not
carry. -/
def State.stale (s : State) (p : Packet) : Bool :=
  (p.ctx != 0 && p.epoch != (s.ctx p.ctx).epoch) ||
  (p.chan.toNat != 0 && !p.onSync && (tget {} (p.chan.toNat / 65536) s.chans).gen != p.chan.toNat % 65536)

def isStoreReq : Body → Bool
  | .writeReq .. => true
  | .coreWrite .. => true
  | _ => false

/-- The replica a row or close is for. -/
def rowKey : Body → Option (Nat × Nat × Nat × Bool)
  | .row slot expert replica back .. => some (slot, expert, replica, back)
  | .rowClose slot expert replica back .. => some (slot, expert, replica, back)
  | _ => none
def isClose : Body → Bool
  | .rowClose .. => true
  | _ => false
def isDeliver : Body → Bool
  | .deliver .. => true
  | _ => false

/-- q, sent earlier, must arrive before p: sync packets (R257), stores of one mover, channel and destination (R284), rows
before the close that counts them (07 R235), team commands of one stream to one member (01 R37). -/
def mustPrecede (q p : Packet) : Bool :=
  q.src = p.src && q.dst = p.dst &&
  ((q.onSync && p.onSync) ||
   (isStoreReq q.body && isStoreReq p.body && q.engine = 2 && p.engine = 2 && q.chan = p.chan) ||
   (isClose p.body && rowKey q.body = rowKey p.body && rowKey p.body != none) ||
   (isDeliver q.body && isDeliver p.body && q.stream = p.stream))

def State.consume (s : State) (k : Nat) : State := { s with net := s.net.eraseIdx k }

/-- A dropped item changes nothing but stale_drops (13 R407, R410). -/
def State.countDrop (s : State) : State :=
  { s with trouble := { s.trouble with staleDrops := satAdd 64 s.trouble.staleDrops 1 } }

/-! ## Records and alarms (13 R420–R423) -/

def Record.same (a b : Record) : Bool := a.cls = b.cls && a.source = b.source && a.kind = b.kind && a.body = b.body

/-- An alarm arriving at base camp: the log keeps the latest 1024. -/
def State.logAlarm (s : State) (r : Record) : State :=
  let t := s.trouble
  { s with trouble := { t with
      alarmLog := (r :: t.alarmLog).take 1024
      alarmCount := t.alarmCount + 1
      alarmOverwritten := t.alarmOverwritten + (if 1024 ≤ t.alarmLog.length then 1 else 0) } }

/-- A gap record's body (13 R424). -/
def gapBody (g : Gap) : List Byte :=
  natLE 16 (pack [(2, g.cls), (16, g.first), (16, g.last), (32, min g.lost 0xFFFFFFFF), (62, 0)])

/-- A record's header as bytes (13 R420), lowest byte first. -/
def Record.header (r : Record) : List Byte :=
  natLE 16 (pack [(2, r.cls), (6, r.kind), (8, r.device), (12, r.source), (8, r.ctx), (16, r.seq), (48, r.cycles.toNat),
    (12, r.count), (8, r.body.length / 16), (8, r.island)])

/-- The sequence number the next record of a source and class carries. -/
def State.nextSeq (s : State) (source cls : Nat) : Nat := (tget 0 (4 * source + cls) s.trouble.seqs + 1) % 65536

/-- A record as a unit raises it: its sequence number is counted, its cycle count and island are the source's own. -/
def State.raised (s : State) (cls kind source ctx : Nat) (body : List Byte) : Record × State :=
  let seq := s.nextSeq source cls
  let cyc := s.cycle source
  let r : Record := { cls := cls, kind := kind, device := s.deviceNumber, source := source, ctx := ctx, seq := seq,
                      cycles := cyc.1, island := (Config.recordIsland source kind).toNat, body := body }
  let t := cyc.2.trouble
  (r, { cyc.2 with trouble := { t with seqs := tset (4 * source + cls) seq t.seqs } })

/-- A record sent by a unit joins those in transit. -/
def State.sendRecord (s : State) (cls kind source ctx : Nat) (body : List Byte) : State :=
  let r := s.raised cls kind source ctx body
  let t := r.2.trouble
  { r.2 with trouble := { t with transit := t.transit ++ [r.1] } }

/-- The alarms of a source of this device that hold one of its 16 places (13 R422). -/
def State.alarmsOf (s : State) (source : Nat) : Nat :=
  (s.trouble.transit.filter fun r => r.cls = 0 && r.source = source && r.device = s.deviceNumber).length
/-- A unit waits while an alarm of its own has no place. -/
def State.alarmWaits (s : State) (source : Nat) : Bool := s.trouble.held.any fun r => r.source = source
/-- Where a unit's records come from, of the units that can wait. -/
def unitSource : Place → Option Nat
  | .tile n => some n
  | .die c => some (0x800 + c)
  | _ => none
def State.unitWaits (s : State) (p : Place) : Bool := (unitSource p).any s.alarmWaits

/-- An alarm of a unit: one equal in kind and body to a pending one of the same source raises that alarm's count; otherwise it
takes one of the source's 16 places, or waits for one (13 R422). -/
def State.alarm (s : State) (kind source ctx : Nat) (body : List Byte) : State :=
  let t := s.trouble
  let eq (r : Record) : Bool :=
    r.cls = 0 && r.source = source && r.device = s.deviceNumber && r.kind = kind && r.body = body
  let more (r : Record) : Record := if eq r then { r with count := min 0xFFF (r.count + 1) } else r
  if (t.transit ++ t.held).any eq then
    { s with trouble := { t with transit := t.transit.map more, held := t.held.map more } }
  else if s.alarmsOf source < 16 then s.sendRecord 0 kind source ctx body
  else
    let r := s.raised 0 kind source ctx body
    { r.2 with trouble := { r.2.trouble with held := r.2.trouble.held ++ [r.1] } }

/-- The packet at place k of those in flight, where nothing sent before it must arrive first, no seam on its way repeats a
transfer (01 R16) and the unit it goes to does not wait for an alarm's place (13 R422). -/
def State.arrival (s : State) (k : Nat) : Option Packet :=
  match s.net[k]? with
  | none => none
  | some p =>
    if (s.net.take k).any (mustPrecede · p) || s.wayHeld p.src p.dst || s.unitWaits p.dst then none else some p

/-! ## Stream halts (02 R79–R82) -/

def recordValid (r : BitVec 256) : Bool := bit r.toNat 255
def recordReason (r : BitVec 256) : Nat := bits r.toNat 254 247
def recordMore (r : BitVec 256) : Nat := bits r.toNat 37 30

/-- A thread at a command boundary while a bank switch is pending takes it (02 R77); `continue` makes a thread in RUN or
WAIT go on at its stream's entry of the new bank. -/
def bankBytes (t : Tile) (bank : Nat) : List Host.Cell := if bank = 0 then t.imem0 else t.imem1

/-- A byte of an instruction bank: bank 0 holds the tile firmware once it has been broadcast (15 R486; log 5). -/
def State.imemByte (s : State) (n bank off : Nat) : Byte :=
  match tfind off (bankBytes (s.tile n) bank) with
  | some b => b
  | none =>
    match bank, s.broadcast with
    | 0, some d => Config.tileFirmware d off
    | _, _ => 0#8

/-- A stream's entry in a bank's header (02 R76). -/
def State.bankEntry (s : State) (n bank : Nat) (st : Stream) : Nat :=
  leNat ((List.range 4).map fun i => s.imemByte n bank (4 * streamNo st + i))

def imemBase : Nat := 0x100000

/-- The thread takes a pending bank switch; a thread in RUN or WAIT goes on at its entry in the new bank. -/
def State.switchBank (s : State) (n : Nat) (st : Stream) : State :=
  let t := s.tile n
  if t.switching.contains st then
    let b := t.targetBank
    let s1 := s.modTile n fun t => { t with switching := t.switching.filter (· != st) }
    s1.modThread n st fun th => { th with
      bank := b
      pc := if th.run = .run || th.run = .wait then BitVec.ofNat 32 (imemBase + s.bankEntry n b st) else th.pc
      atEntry := th.run = .halt }
  else s

/-- The fault record a halt writes (02 R81). -/
def faultRecord (h : Halt) (st : Stream) (ctx tile bank pc seq cycles : Nat) : BitVec 256 :=
  BitVec.ofNat 256 (pack [(1, 1), (8, h.reason), (2, streamNo st), (3, h.unit), (8, ctx), (16, h.tag), (11, tile),
    (32, h.chan.toNat), (56, h.address), (1, bank), (16, pc), (16, seq), (48, cycles), (8, 0), (30, h.detail)])

/-- A reason after which the debugger may resume the stream (02 R83). -/
def resumable (reason : Nat) : Bool := reason = 0x05 || reason = 0x42

/-- The thread in HALT: it keeps the state it was halted in, and the reason that decides whether it may be resumed, a
resumable one only while no other halt event has come (02 R83; log 54). -/
def Thread.halt (t : Thread) (reason : Nat) : Thread :=
  if t.run = .halt then { t with haltBy := if resumable reason then t.haltBy else reason }
  else { t with run := .halt, haltBy := reason, was := t.run }

/-- A halt event of a stream on a tile (02 R79, R82): the thread goes to HALT; the record is written unless it holds one,
which then counts one more; the event that halts the stream raises the alarm that carries the record (log 17). -/
def State.halt (s : State) (n : Nat) (st : Stream) (h : Halt) : State :=
  let rec0 := (s.tile n).records.get st
  let was := (s.thread n st).run = .halt
  let s1 := s.modThread n st fun th => th.halt h.reason
  let s2 := s1.switchBank n st
  let th := s.thread n st
  let seq := s2.nextSeq n 0
  let cyc := s2.cycle n
  let record :=
    if recordValid rec0 then withField rec0 30 8 (min 255 (recordMore rec0 + 1))
    else faultRecord h st (s.owner n) n th.bank (th.pc.toNat % 65536) seq cyc.1.toNat
  let s3 := cyc.2.modTile n fun t => { t with records := t.records.set st record }
  if was then s3
  else
    -- 12 R391: any halt of a stream of a lock-step context tells the partner
    let c := s.owner n
    let s4 := s3.alarm 0x01 n c (natLE 32 record.toNat)
    if c != 0 && lockEnabled (s.ctx c).lockstep then s4.lockStop c 1 else s4

def State.halted (s : State) (n : Nat) (st : Stream) : Bool := (s.thread n st).run = .halt

/-- Every stream of a context on every tile that is not already halted halts (13 R399). -/
def State.haltAll (s : State) (c : Nat) (h : Halt) : State :=
  (s.ctxTiles c).foldl (fun s n => allStreams.foldl (fun s st => if s.halted n st then s else s.halt n st h) s) s

/-- The alarm of a context stop (13 R423 kind 0x03), from base camp. -/
def State.stopAlarm (s : State) (c reason : Nat) : State :=
  s.alarm 0x03 0x820 c (natLE 16 (pack [(8, reason), (120, 0)]))

/-! ## Stores of the own device -/

/-- The offsets in its own store of a device range that lies in tile n. -/
def Range.inTile (n : Nat) (r : Range) : Bool := overlap r.base r.len (tileBase n) tileStoreBytes

/-- What a write to a tile's store does besides its bytes: flags of its lines become 0 (04 R156), residency tags that
cover it are cleared (03 R94). -/
def Tile.wrote (t : Tile) (n : Nat) (w : Range) : Tile :=
  let lo := (w.base - tileBase n) / 16
  let hi := (w.base + w.len - 1 - tileBase n) / 16
  { t with
    zeroFlags := t.zeroFlags.filter fun l => decide (l < lo) || decide (hi < l)
    arrays := t.arrays.map fun a => { a with banks := a.banks.map fun b =>
      match b with
      | some tag => if tag.covers.any (Range.overlaps w) then none else some tag
      | none => none } }

/-- The tiles in whose stores a range of device memory lies. -/
def tilesOf (w : Range) : List Nat :=
  if w.len = 0 then []
  else ((List.range ((w.base + w.len - 1) / tileStoreBytes - w.base / tileStoreBytes + 1)).map
    (w.base / tileStoreBytes + ·)).filter fun n => decide (n < 2048)

/-- Bytes written to device memory: a block written whole is no longer uncorrectable (13 R415). -/
def State.storeBytes (s : State) (a : Nat) (bytes : List Byte) : State :=
  let w : Range := ⟨a, bytes.length⟩
  let s1 := { s with
    mem := pokes a bytes s.mem
    bad := s.bad.filter fun b => !(decide (a ≤ 64 * b) && decide (64 * b + 64 ≤ a + bytes.length)) }
  (tilesOf w).foldl (fun s n => s.modTile n fun t => t.wrote n w) s1

def State.loadBytes (s : State) (a n : Nat) : List Byte := peeks s.mem a n
def State.loadNat (s : State) (a n : Nat) : Nat := leNat (s.loadBytes a n)

/-- Tile-store bytes at an offset of a tile. -/
def State.tileBytes (s : State) (n off len : Nat) : List Byte := s.loadBytes (tileBase n + off) len
def State.tileNat (s : State) (n off len : Nat) : Nat := leNat (s.tileBytes n off len)

/-- Who writes: the context, and the tile and stream of the command, for snapshots (06 R216, R218; log 18). -/
structure Writer where
  ctx : Nat
  tile : Option Nat := none
  stream : Stream := .fwd
deriving DecidableEq, Repr

/-- The pages of a snapshot, in shipping order (06 R217). -/
def snapPages (sn : Snap) : List Nat :=
  sn.regions.flatMap fun r => (List.range (bits r.toNat 79 56)).map fun i => bits r.toNat 127 80 / 4096 + i

/-- The pages of a range that a write by `w` must preserve first in snapshot sn of team `team`: pages not yet shipped and
not yet preserved, unless the writer is the update stream of a member whose fence has not completed. -/
def State.mustPreserve (s : State) (team : Nat) (sn : Snap) (w : Writer) (a n : Nat) : List Nat :=
  let exempt := match w.tile with
    | some t => w.stream = .upd && s.inTeam team t && !sn.fenced.contains t
    | none => false
  if sn.ctx != w.ctx || exempt then []
  else ((snapPages sn).drop sn.shipped).filter fun p =>
    overlap (p * 4096) 4096 a n && tfind p sn.preserved = none

/-- The pages a context's reserve holds now. -/
def State.reserveUsed (s : State) (c : Nat) : Nat :=
  s.snaps.foldl (fun k e => if e.2.ctx = c then k + e.2.preserved.length else k) 0

/-- The reserve has room for what a write must preserve (06 R216). -/
def State.reserveRoom (s : State) (w : Writer) (a n : Nat) : Bool :=
  decide (s.snaps.foldl (fun k e => k + (s.mustPreserve e.1 e.2 w a n).length) (s.reserveUsed w.ctx)
    ≤ (s.ctx w.ctx).reservePages) || s.snaps.all fun e => (s.mustPreserve e.1 e.2 w a n).isEmpty

/-- Pages copied to the reserve before a write changes them; a byte that an unfenced member's update stream writes to a
preserved page is the snapshot's too (06 R218). -/
def State.preserve (s : State) (w : Writer) (a : Nat) (bytes : List Byte) : State :=
  { s with snaps := s.snaps.map fun e =>
      let keep := s.mustPreserve e.1 e.2 w a bytes.length
      let exempt := match w.tile with
        | some t => w.stream = .upd && s.inTeam e.1 t && !e.2.fenced.contains t
        | none => false
      let held := keep.foldl (fun t p => tset p (s.loadBytes (p * 4096) 4096) t) e.2.preserved
      let held := if exempt && e.2.ctx = w.ctx then
          held.map fun pg => (pg.1, pg.2.mapIdx fun i b =>
            let x := pg.1 * 4096 + i
            if a ≤ x ∧ x < a + bytes.length then bytes.getD (x - a) b else b)
        else held
      (e.1, { e.2 with preserved := held }) }

/-- A write by a command: snapshot pages are preserved, then the bytes change. -/
def State.write (s : State) (w : Writer) (a : Nat) (bytes : List Byte) : State := (s.preserve w a bytes).storeBytes a bytes

/-! ## Uncorrectable errors (09 R293, 13 R415) -/

/-- The first uncorrectable block that a range touches: its address. -/
def State.badBlock (s : State) (a n : Nat) : Option Nat :=
  ((s.bad.filter fun b => overlap (64 * b) 64 a n).foldl (fun m b => match m with
    | none => some b
    | some x => some (min x b)) none).map fun b => max a (64 * b)

/-- What the check bits say of the block at the start of an access: a correction is logged by the unit that makes it, a
cache die's is counted too (13 R423, R427), and an error makes the block uncorrectable. -/
def State.eccCheck (s : State) (ecc : Ecc) (a : Nat) : State :=
  match ecc with
  | .clean => s
  | .corrected =>
    let ctx := (s.dataOwner a).getD 0
    match s.place a with
    | .store n _ => s.sendRecord 1 0x20 n ctx (natLE 16 (pack [(8, computeOf n), (48, a), (72, 0)]))
    | w =>
      let c := homeOf w
      let t := s.trouble
      let s1 := { s with trouble := { t with ecc := tset c (satAdd 64 (tget 0 c t.ecc) 1) t.ecc } }
      s1.sendRecord 1 0x20 (0x800 + c) ctx (natLE 16 (pack [(8, 16 + c), (48, a), (72, 0)]))
  | .uncorrectable => { s with bad := if s.bad.contains (a / 64) then s.bad else (a / 64) :: s.bad }

/-- Who met an uncorrectable error: a command of a tile, patrol scrub, a host access, a fabric request (13 R427). -/
inductive Finder where
  | command (tile : Nat) (st : Stream) (h : Halt)
  | scrub
  | host
  | fabric
deriving DecidableEq, Repr

def finderCode : Finder → Nat
  | .command .. => 0
  | .scrub => 1
  | .host => 2
  | .fabric => 3

/-- A dump area is configured (13 R417). -/
def State.dumpReady (s : State) : Bool := decide (0 < s.trouble.dumpSize)

/-- A context stop once its streams are halted (13 R399, R400): ctx_state 2, the alarm, and what the fail action asks for:
a dump where one is configured, and a reset, which then waits for that dump. `seq` is the causing alarm's. -/
def State.stopContext (s : State) (c reason seq : Nat) : State :=
  let s1 := s.stopAlarm c reason
  let f := (s.ctx c).failAction
  let s2 :=
    if f.testBit 1 && s1.dumpReady then
      { s1 with trouble := { s1.trouble with dumps := s1.trouble.dumps ++
          [{ ctx := c, depth := bits f 4 3, cause := 1, alarmSeq := seq }] } }
    else s1
  s2.modCtx c fun x => { x with state := 2, waiting := if f.testBit 2 then x.waiting ++ [(1, false)] else x.waiting }

/-- An uncorrectable error (13 R415): its event and alarm, the halt of the stream whose command met it where that is a stream
of the owning context, and the stop of that context. `unit` and `source` name the unit that found it, `place` is the address
as a fault record holds it. -/
def State.ueAt (s : State) (f : Finder) (a place unit source : Nat) (owner : Option Nat) (wherecode : Nat) : State :=
  let found := match f with
    | .command t .. => t
    | _ => unit
  let seq := s.nextSeq source 0
  let ev := BitVec.ofNat 128 (pack [(1, 1), (2, wherecode), (2, finderCode f), (8, owner.getD 0), (11, found), (48, a),
    (16, seq), (40, 0)])
  let s1 := { s with trouble := { s.trouble with ueEvents := (ev :: s.trouble.ueEvents).take 16 } }
  let s2 := s1.alarm 0x08 source (owner.getD 0) (natLE 16 ev.toNat)
  match owner with
  | none => s2
  | some c =>
    if c = 0 then s2
    else
      let d (other : Nat) := pack [(2, wherecode), (1, other), (27, 0)]
      let s3 := match f with
        | .command t st h =>
          if s2.owner t = c then s2.halt t st { h with reason := 0x50, address := place, detail := d 0 } else s2
        | _ => s2
      if (s.ctx c).state = 1 then
        (s3.haltAll c { reason := 0x50, detail := d 1 }).stopContext c 0x50 seq
      else s3

/-- An uncorrectable error found at device address a, by its home. -/
def State.ueError (s : State) (f : Finder) (a : Nat) (owner : Option Nat) (wherecode : Nat) : State :=
  match s.place a with
  | .store n _ => s.ueAt f a (s.ownAddr a) n n owner wherecode
  | w => s.ueAt f a (s.ownAddr a) (16 + homeOf w) (0x800 + homeOf w) owner wherecode

/-! ### Control-core memory (13 R415, where = 1) -/

/-- The first byte of a range of a core's memory m (0 data memory, 1 and 2 the banks) that is uncorrectable. -/
def Tile.coreBlock (t : Tile) (m off len : Nat) : Option Nat :=
  ((t.coreBad.filter fun b => b.1 = m && overlap (64 * b.2) 64 off len).foldl (fun k b => match k with
    | none => some b.2
    | some x => some (min x b.2)) none).map fun b => max off (64 * b)
/-- Where a byte of a core's memory stands in its address space (02 R53). -/
def coreAddr (m off : Nat) : Nat := if m = 0 then off else imemBase + off
/-- The owner of a core's memory is the context the tile belongs to (09 R288). -/
def State.coreOwner (s : State) (n : Nat) : Option Nat := if s.owned n then some (s.owner n) else none
/-- An uncorrectable error in core memory m of tile n; the records hold the core address (02 R81; log 76). -/
def State.coreUe (s : State) (f : Finder) (n m off : Nat) : State :=
  s.ueAt f (coreAddr m off) (coreAddr m off) n n (s.coreOwner n) 1
/-- What the check bits say of the block at the start of an access to core memory. -/
def State.coreCheck (s : State) (ecc : Ecc) (n m off : Nat) : State :=
  match ecc with
  | .clean => s
  | .corrected =>
    s.sendRecord 1 0x20 n ((s.coreOwner n).getD 0) (natLE 16 (pack [(8, computeOf n), (48, coreAddr m off), (72, 0)]))
  | .uncorrectable => s.modTile n fun t =>
    { t with coreBad := if t.coreBad.contains (m, off / 64) then t.coreBad else (m, off / 64) :: t.coreBad }

/-! ## Watched units (13 R392, R394, R398) -/

/-- A tile's 24 watched units: 8 × stream + engine, with 6 for the dispatch queue and 7 for the thread. -/
def watchedQueue (e : Engine) (st : Stream) : Nat := 8 * streamNo st + engineNo e
def watchedDispatch (st : Stream) : Nat := 8 * streamNo st + 6
def watchedThread (st : Stream) : Nat := 8 * streamNo st + 7

/-- A progress event of a watched unit: its whistle returns to 0, and a later warning of it may be sent again. -/
def State.progressed (s : State) (n unit : Nat) : State :=
  s.modTile n fun t => { t with warned := t.warned.filter (· != unit), whistles := terase unit t.whistles }

/-! ## Quarantine (13 R410) -/

def detailTile (n : Nat) : Nat := n <<< 12

end Sys2Proof.Machine
end

