-- ==== Sys2Proof/Machine/Protect.lean ====
section
/-!
DEFINITION. The protected bits of compressed tensors (spec/09 R306), and whether a tile, thread or queue may act.
-/
namespace Sys2Proof.Machine

/-- A write to a tile's store would change a protected bit of some extent (09 R306). -/
def State.extentBad (s : State) (n off : Nat) (bytes : List Byte) : Bool :=
  (s.tile n).extents.any fun x => [x.1, x.2].any fun r =>
    overlap r.base r.len off bytes.length &&
    (extentTiles (fun o => s.tileNat n o 16) r.base r.len).any fun t =>
      overlap t.1 (tileBytesOf t.2) off bytes.length &&
      (List.range bytes.length).any fun i =>
        decide (t.1 ≤ off + i) && decide (off + i < t.1 + tileBytesOf t.2) &&
        (((bytes.getD i 0).toNat ^^^ (peek (tileBase n + off + i) s.mem).toNat) &&& protectedBits t.2 (off + i - t.1)) != 0

/-- A device-address range lies in a tile store where it would change a protected bit. -/
def State.extentBadAt (s : State) (a : Nat) (bytes : List Byte) : Bool :=
  decide (a < scratchBase) && s.extentBad (a / tileStoreBytes) (a % tileStoreBytes) bytes

/-- The module serves commands: it is in SERVICE (15 R470; log 3). -/
def State.serving (s : State) : Bool := s.power.state = 2

/-- The home dies still accept requests: in SERVICE, and for 2 µs from the loss of main power (15 R472). -/
def State.homesRun (s : State) : Bool := s.serving || (s.power.state = 3 && s.power.rideSteps = 0)

/-- A tile's island runs: the module serves, no hardware fault holds the tile in reset (13 R409), and none of its alarms waits
for a place (13 R422). -/
def State.alive (s : State) (n : Nat) : Bool := s.serving && !(s.tile n).faulty && !s.alarmWaits n

/-- A context's tiles issue and its threads retire: not while it is being reset (13 R402 step 1). -/
def State.notResetting (s : State) (c : Nat) : Bool := (s.ctx c).state != 4

/-- A stream of a tile may issue from its queues (02 R79 step 2). -/
def State.streamRuns (s : State) (n : Nat) (st : Stream) : Bool :=
  s.alive n && !s.halted n st && s.notResetting (s.owner n)

/-! ## Writes of parts of 64 B blocks (09 R293) -/

/-- The parts of a write, one for each 64 B block it touches. -/
def blockParts : Nat → Nat → List Byte → List (Nat × List Byte)
  | 0, _, _ => []
  | k + 1, a, bs =>
    if bs.isEmpty then []
    else let len := min bs.length (64 - a % 64); (a, bs.take len) :: blockParts k (a + len) (bs.drop len)
def writeParts (a : Nat) (bs : List Byte) : List (Nat × List Byte) := blockParts (bs.length / 64 + 2) a bs

/-- The first block of a write that is written in part and is uncorrectable: the write does not change it. -/
def State.partBad (s : State) (a : Nat) (bs : List Byte) : Option Nat :=
  ((writeParts a bs).find? fun p => decide (p.2.length < 64) && (s.badBlock p.1 p.2.length).isSome).map (·.1)
/-- The first uncorrectable block of the pages that a write makes a snapshot's reserve keep, which are read for it (06 R216). -/
def State.copyBad (s : State) (w : Writer) (a n : Nat) : Option Nat :=
  s.snaps.findSome? fun e => (s.mustPreserve e.1 e.2 w a n).findSome? fun p => s.badBlock (p * 4096) 4096
/-- The uncorrectable block that the reads which go with a write meet. -/
def State.landErr (s : State) (w : Writer) (a : Nat) (bs : List Byte) : Option Nat :=
  match s.partBad a bs with
  | some b => some b
  | none => s.copyBad w a bs.length
/-- A write performed at its home: every block but those an error keeps. -/
def State.writeHome (s : State) (w : Writer) (a : Nat) (bs : List Byte) : State :=
  (writeParts a bs).foldl (fun s p =>
    if decide (p.2.length < 64) && (s.badBlock p.1 p.2.length).isSome then s else s.write w p.1 p.2) s

/-- A write by `f`: an uncorrectable block that it would change in part stays as it is, and its owner is stopped (13 R415). -/
def State.writeChecked (s : State) (f : Finder) (w : Writer) (a : Nat) (bs : List Byte) : State :=
  let s1 := s.writeHome w a bs
  match s.landErr w a bs with
  | some b => s1.ueError f b (s.dataOwner b) (whereCode (s.place b))
  | none => s1

/-- Bytes of core memory m of a tile replaced; a block written whole is no longer uncorrectable. -/
def Tile.corePut (t : Tile) (m off : Nat) (bs : List Byte) : Tile :=
  let bad := if bs.length = 64 then t.coreBad.filter (· != (m, off / 64)) else t.coreBad
  let put (l : List Host.Cell) := (bs.mapIdx fun i b => (off + i, b)).foldl (fun l p => tset p.1 p.2 l) l
  match m with
  | 0 => { t with coreBad := bad, dmem := pokes off bs t.dmem }
  | 1 => { t with coreBad := bad, imem0 := put t.imem0 }
  | _ => { t with coreBad := bad, imem1 := put t.imem1 }
/-- The first block of a write to core memory that is written in part and is uncorrectable. -/
def Tile.corePartBad (t : Tile) (m off : Nat) (bs : List Byte) : Option Nat :=
  ((writeParts off bs).find? fun p => decide (p.2.length < 64) && (t.coreBlock m p.1 p.2.length).isSome).map (·.1)
/-- A write to core memory: every block but those an error keeps. -/
def Tile.coreWrite (t : Tile) (m off : Nat) (bs : List Byte) : Tile :=
  (writeParts off bs).foldl (fun t p =>
    if decide (p.2.length < 64) && (t.coreBlock m p.1 p.2.length).isSome then t else t.corePut m p.1 p.2) t

/-! ## What no stream writes or reads (13 R415; 14 R450, R453, R460) -/

/-- Bytes written by the host or by base camp: those of a block that would change a protected bit of a compressed tensor are
dropped (09 R306), and an uncorrectable block that would change in part stays (log 76). -/
def State.outsideWrite (s : State) (a : Nat) (bytes : List Byte) : State :=
  (writeParts a bytes).foldl (fun s p =>
    if s.extentBadAt p.1 p.2 then s else s.writeChecked .host { ctx := (s.dataOwner p.1).getD 0 } p.1 p.2) s
/-- Bytes read where some block is uncorrectable: those of such a block are free values (log 15). -/
def State.outsideBytes (s : State) (a n : Nat) : List Byte :=
  (s.loadBytes a n).mapIdx fun i b =>
    if s.bad.contains ((a + i) / 64) then BitVec.ofNat 8 (Config.freeWord 19 (s.draws + i)).toNat else b
/-- Bytes read by the host or by base camp; an uncorrectable block among them stops its owner. -/
def State.outsideRead (s : State) (a n : Nat) : List Byte × State :=
  match s.badBlock a n with
  | none => (s.loadBytes a n, s)
  | some b =>
    let s1 := s.ueError .host b (s.dataOwner b) (whereCode (s.place b))
    (s1.outsideBytes a n, { s1 with draws := s1.draws + n })

/-! ## Room in a snapshot's reserve (06 R216) -/

/-- Pages of a snapshot's copies that a command's writes need and do not have yet (06 R216). -/
def State.pagesNeeded (s : State) (w : Writer) (rs : List Range) : List (Nat × Nat) :=
  s.snaps.flatMap fun e => (rs.flatMap fun r => s.mustPreserve e.1 e.2 w r.base r.len).eraseDups.map fun p => (e.1, p)
def State.reserveFor (s : State) (w : Writer) (rs : List Range) : Bool :=
  (s.pagesNeeded w rs).isEmpty ||
  decide (s.reserveUsed w.ctx + (s.pagesNeeded w rs).length ≤ (s.ctx w.ctx).reservePages)
/-- Those pages copied to the reserve before the command's first write. -/
def State.preserveFor (s : State) (w : Writer) (rs : List Range) : State :=
  let keep (e : Nat × Snap) : Table (List Byte) :=
    (rs.flatMap fun r => s.mustPreserve e.1 e.2 w r.base r.len).foldl
      (fun t p => tset p (s.loadBytes (p * 4096) 4096) t) e.2.preserved
  { s with snaps := s.snaps.map fun e => (e.1, { e.2 with preserved := keep e }) }


end Sys2Proof.Machine
end

