-- ==== Sys2Proof/Machine/Rv.lean ====
section
/-!
DEFINITION. The control core's instruction set (spec/02 R49, R55, R56): RV32IMC decoded, its arithmetic, and the custom
encodings.
-/
namespace Sys2Proof.Machine

/-- What a fetched encoding is. -/
inductive RvOp where
  | lui (rd imm : Nat)
  | auipc (rd imm : Nat)
  | jal (rd : Nat) (off : Int)
  | jalr (rd rs1 : Nat) (imm : Int)
  | branch (f3 rs1 rs2 : Nat) (off : Int)
  | load (f3 rd rs1 : Nat) (imm : Int)
  | store (f3 rs1 rs2 : Nat) (imm : Int)
  | opImm (f3 : Nat) (sub : Bool) (rd rs1 : Nat) (imm : Int)
  | op (f3 : Nat) (sub : Bool) (rd rs1 rs2 : Nat)
  | mul (f3 rd rs1 rs2 : Nat)
  | fence
  | ecall
  | ebreak
  | cstW (i rs1 : Nat)
  | cld (rs1 : Nat)
  | cpush (rs1 rs2 : Nat)
  | cpushnb (rd rs1 rs2 : Nat)
  | qfree (rd e : Nat)
  | cdrain (e : Nat)
  | sumrd (rd : Nat)
  | imswap
  | park
  | pcmp (c pd rs1 rs2 : Nat)
  | plog (o pd ps1 ps2 : Nat)
  | pset (pd rs1 : Nat)
  | pmv (rd ps : Nat)
  | prd (rd : Nat)
  | pwr (rs1 : Nat)
  | ctwait (rs1 rs2 : Nat)
  | undef
deriving DecidableEq, Repr

/-- The instructions that rows of their own run; every other encoding is RV_INSTRUCTION's. -/
def RvOp.isPlain : RvOp → Bool
  | .lui .. | .auipc .. | .jal .. | .jalr .. | .branch .. | .load .. | .store .. | .opImm .. | .op .. | .mul .. | .undef => true
  | _ => false

/-- Custom-0 and custom-1 encodings (02 R56): a field shown as 0 must be 0. -/
def decodeCustom0 (w : Nat) : RvOp :=
  let f7 := bits w 31 25
  let rs2 := bits w 24 20
  let rs1 := bits w 19 15
  let f3 := bits w 14 12
  let rd := bits w 11 7
  match f3 with
  | 0 => if f7 < 4 ∧ rs2 = 0 ∧ rd = 0 then .cstW f7 rs1 else .undef
  | 1 => if f7 = 0 ∧ rs2 = 0 ∧ rd = 0 then .cld rs1 else .undef
  | 2 => if f7 = 0 ∧ rd = 0 then .cpush rs1 rs2 else if f7 = 1 then .cpushnb rd rs1 rs2 else .undef
  | 3 => if f7 < 8 ∧ rs2 = 0 ∧ rs1 = 0 then .qfree rd f7 else .undef
  | 4 => if f7 < 8 ∧ rs2 = 0 ∧ rs1 = 0 ∧ rd = 0 then .cdrain f7 else .undef
  | 5 => if f7 = 0 ∧ rs2 = 0 ∧ rs1 = 0 then .sumrd rd else .undef
  | 6 => if f7 = 0 ∧ rs2 = 0 ∧ rs1 = 0 ∧ rd = 0 then .imswap else .undef
  | 7 => if f7 = 0 ∧ rs2 = 0 ∧ rs1 = 0 ∧ rd = 0 then .park else .undef
  | _ => .undef
def decodeCustom1 (w : Nat) : RvOp :=
  let f7 := bits w 31 25
  let rs2 := bits w 24 20
  let rs1 := bits w 19 15
  let f3 := bits w 14 12
  let rd := bits w 11 7
  match f3 with
  | 0 => if f7 < 8 ∧ f7 ≠ 2 ∧ f7 ≠ 3 ∧ rd < 16 then .pcmp f7 rd rs1 rs2 else .undef
  | 1 => if f7 < 4 ∧ rd < 16 ∧ rs1 < 16 ∧ rs2 < 16 then .plog f7 rd rs1 rs2 else .undef
  | 2 => if f7 = 0 ∧ rs2 = 0 ∧ rd < 16 then .pset rd rs1 else .undef
  | 3 => if f7 = 0 ∧ rs2 = 0 ∧ rs1 < 16 then .pmv rd rs1 else .undef
  | 4 => if f7 = 0 ∧ rs2 = 0 ∧ rs1 = 0 then .prd rd else if f7 = 1 ∧ rs2 = 0 ∧ rd = 0 then .pwr rs1 else .undef
  | 5 => if f7 = 0 ∧ rd = 0 then .ctwait rs1 rs2 else .undef
  | _ => .undef

/-- A 32-bit encoding (the RISC-V unprivileged specification; 02 R49 leaves out CSRs, R55 FENCE.I and WFI). -/
def decode32 (w : Nat) : RvOp :=
  let f7 := bits w 31 25
  let rs2 := bits w 24 20
  let rs1 := bits w 19 15
  let f3 := bits w 14 12
  let rd := bits w 11 7
  let immI := signed 12 (bits w 31 20)
  match bits w 6 0 with
  | 0x37 => .lui rd (bits w 31 12 * 4096)
  | 0x17 => .auipc rd (bits w 31 12 * 4096)
  | 0x6F => .jal rd (signed 21 (pack [(1, bits w 31 31), (8, bits w 19 12), (1, bits w 20 20), (10, bits w 30 21), (1, 0)]))
  | 0x67 => if f3 = 0 then .jalr rd rs1 immI else .undef
  | 0x63 =>
    if f3 = 2 ∨ f3 = 3 then .undef
    else .branch f3 rs1 rs2 (signed 13 (pack [(1, bits w 31 31), (1, bits w 7 7), (6, bits w 30 25), (4, bits w 11 8), (1, 0)]))
  | 0x03 => if f3 = 3 ∨ 5 < f3 then .undef else .load f3 rd rs1 immI
  | 0x23 => if 2 < f3 then .undef else .store f3 rs1 rs2 (signed 12 (bits w 31 25 * 32 + rd))
  | 0x13 =>
    if f3 = 1 then (if f7 = 0 then .opImm 1 false rd rs1 rs2 else .undef)
    else if f3 = 5 then (if f7 = 0 then .opImm 5 false rd rs1 rs2 else if f7 = 0x20 then .opImm 5 true rd rs1 rs2 else .undef)
    else .opImm f3 false rd rs1 immI
  | 0x33 =>
    if f7 = 0 then .op f3 false rd rs1 rs2
    else if f7 = 0x20 ∧ (f3 = 0 ∨ f3 = 5) then .op f3 true rd rs1 rs2
    else if f7 = 1 then .mul f3 rd rs1 rs2 else .undef
  | 0x0F => if f3 = 0 then .fence else .undef
  | 0x73 => if w = 0x73 then .ecall else if w = 0x100073 then .ebreak else .undef
  | 0x0B => decodeCustom0 w
  | 0x2B => decodeCustom1 w
  | _ => .undef

/-- A 16-bit encoding: RV32C without the floating-point forms. -/
def decode16 (w : Nat) : RvOp :=
  let f3 := bits w 15 13
  let rd := bits w 11 7
  let rs2 := bits w 6 2
  let rdc := 8 + bits w 4 2
  let rsc := 8 + bits w 9 7
  let imm6 := signed 6 (bits w 12 12 * 32 + bits w 6 2)
  let sh := bits w 6 2
  let b12 := bit w 12
  let jimm := signed 12 (pack [(1, bits w 12 12), (1, bits w 8 8), (2, bits w 10 9), (1, bits w 6 6), (1, bits w 7 7),
    (1, bits w 2 2), (1, bits w 11 11), (3, bits w 5 3), (1, 0)])
  let bimm := signed 9 (pack [(1, bits w 12 12), (2, bits w 6 5), (1, bits w 2 2), (2, bits w 11 10), (2, bits w 4 3), (1, 0)])
  let lwimm := pack [(1, bits w 5 5), (3, bits w 12 10), (1, bits w 6 6), (2, 0)]
  match bits w 1 0 with
  | 0 =>
    match f3 with
    | 0 =>
      let i := pack [(4, bits w 10 7), (2, bits w 12 11), (1, bits w 5 5), (1, bits w 6 6), (2, 0)]
      if i = 0 then .undef else .opImm 0 false rdc 2 i
    | 2 => .load 2 rdc rsc lwimm
    | 6 => .store 2 rsc rdc lwimm
    | _ => .undef
  | 1 =>
    match f3 with
    | 0 => .opImm 0 false rd rd imm6
    | 1 => .jal 1 jimm
    | 2 => .opImm 0 false rd 0 imm6
    | 3 =>
      if imm6 = 0 then .undef
      else if rd = 2 then
        .opImm 0 false 2 2 (signed 10 (pack [(1, bits w 12 12), (2, bits w 4 3), (1, bits w 5 5), (1, bits w 2 2),
          (1, bits w 6 6), (4, 0)]))
      else .lui rd ((imm6 * 4096) % 2 ^ 32).toNat
    | 4 =>
      match bits w 11 10 with
      | 0 => if b12 then .undef else .opImm 5 false rsc rsc sh
      | 1 => if b12 then .undef else .opImm 5 true rsc rsc sh
      | 2 => .opImm 7 false rsc rsc imm6
      | _ =>
        if b12 then .undef
        else
          match bits w 6 5 with
          | 0 => .op 0 true rsc rsc rdc
          | 1 => .op 4 false rsc rsc rdc
          | 2 => .op 6 false rsc rsc rdc
          | _ => .op 7 false rsc rsc rdc
    | 5 => .jal 0 jimm
    | 6 => .branch 0 rsc 0 bimm
    | _ => .branch 1 rsc 0 bimm
  | _ =>
    match f3 with
    | 0 => if b12 then .undef else .opImm 1 false rd rd sh
    | 2 =>
      if rd = 0 then .undef
      else .load 2 rd 2 (pack [(2, bits w 3 2), (1, bits w 12 12), (3, bits w 6 4), (2, 0)])
    | 4 =>
      if b12 then
        (if rs2 = 0 then (if rd = 0 then .ebreak else .jalr 1 rd 0) else .op 0 false rd rd rs2)
      else
        (if rs2 = 0 then (if rd = 0 then .undef else .jalr 0 rd 0) else .op 0 false rd 0 rs2)
    | 6 => .store 2 2 rs2 (pack [(2, bits w 8 7), (4, bits w 12 9), (2, 0)])
    | _ => .undef

/-- Base arithmetic by funct3; `sub` selects SUB and SRA. -/
def alu (f3 : Nat) (sub : Bool) (a b : Word) : Word :=
  match f3 with
  | 0 => if sub then a - b else a + b
  | 1 => a <<< (b.toNat % 32)
  | 2 => if a.slt b then 1 else 0
  | 3 => if a.ult b then 1 else 0
  | 4 => a ^^^ b
  | 5 => if sub then a.sshiftRight (b.toNat % 32) else a >>> (b.toNat % 32)
  | 6 => a ||| b
  | _ => a &&& b

/-- RV32M by funct3; division by zero and overflow as RV32M defines (02 R55). -/
def mulDiv (f3 : Nat) (a b : Word) : Word :=
  match f3 with
  | 0 => a * b
  | 1 => BitVec.ofInt 32 (a.toInt * b.toInt / 2 ^ 32)
  | 2 => BitVec.ofInt 32 (a.toInt * (b.toNat : Int) / 2 ^ 32)
  | 3 => BitVec.ofNat 32 (a.toNat * b.toNat / 2 ^ 32)
  | 4 => if b = 0 then BitVec.allOnes 32 else BitVec.ofInt 32 (a.toInt.tdiv b.toInt)
  | 5 => if b = 0 then BitVec.allOnes 32 else BitVec.ofNat 32 (a.toNat / b.toNat)
  | 6 => if b = 0 then a else BitVec.ofInt 32 (a.toInt.tmod b.toInt)
  | _ => if b = 0 then a else BitVec.ofNat 32 (a.toNat % b.toNat)

/-- Whether a branch is taken. -/
def branchTaken (f3 : Nat) (a b : Word) : Bool :=
  match f3 with
  | 0 => a = b
  | 1 => a ≠ b
  | 4 => a.slt b
  | 5 => !a.slt b
  | 6 => a.ult b
  | _ => !a.ult b

/-- Bytes a load or store of funct3 moves. -/
def accessWidth (f3 : Nat) : Nat := if f3 % 4 = 0 then 1 else if f3 % 4 = 1 then 2 else 4

/-- The value a load delivers: sign-extended for LB and LH. -/
def loadValue (f3 v : Nat) : Word :=
  match f3 with
  | 0 => BitVec.ofInt 32 (signed 8 v)
  | 1 => BitVec.ofInt 32 (signed 16 v)
  | _ => BitVec.ofNat 32 v

end Sys2Proof.Machine
end

