-- ==== Sys2Proof/Machine/Threads.lean ====
section
/-!
DEFINITION. The control core (spec/02 R49–R57, R60, R61, R68, R71, R74–R77): fetching, loads and stores, pushes, and the
waits of a thread.
-/
namespace Sys2Proof.Machine

def Thread.reg (t : Thread) (i : Nat) : Word := if i = 0 then 0#32 else t.regs[i]?.getD 0#32
/-- A register written; x0 discards it. -/
def Thread.setReg (t : Thread) (i : Nat) (v : Word) : Thread := if i = 0 then t else { t with regs := t.regs.setIfInBounds i v }

/-! ## Fetching -/

/-- The instruction at a thread's program counter, its blocks apart: its encoding and length, or none outside its bank (02 R53,
R80 0x04). -/
def State.fetchWord (s : State) (n : Nat) (st : Stream) : Option (Nat × Nat) :=
  let th := s.thread n st
  let pc := th.pc.toNat
  if pc % 2 = 1 ∨ pc < imemBase ∨ imemBase + 0x10000 < pc + 2 then none
  else
    let o := pc - imemBase
    let lo := (s.imemByte n th.bank o).toNat + 256 * (s.imemByte n th.bank (o + 1)).toNat
    if lo % 4 != 3 then some (lo, 2)
    else if 0x10000 < o + 4 then none
    else some (lo + 65536 * ((s.imemByte n th.bank (o + 2)).toNat + 256 * (s.imemByte n th.bank (o + 3)).toNat), 4)
/-- An uncorrectable block in what a thread fetches: the bank as a core memory, and the offset (13 R415). -/
def State.fetchBad (s : State) (n : Nat) (st : Stream) : Option (Nat × Nat) :=
  let th := s.thread n st
  (s.fetchWord n st).elim none fun f =>
    ((s.tile n).coreBlock (th.bank + 1) (th.pc.toNat - imemBase) f.2).map fun b => (th.bank + 1, b)
/-- The instruction a thread fetches, where it lies in its bank and its blocks read. -/
def State.fetch (s : State) (n : Nat) (st : Stream) : Option (Nat × Nat) :=
  if (s.fetchBad n st).isSome then none else s.fetchWord n st

/-- The operation a thread would execute, with its length. -/
def State.current (s : State) (n : Nat) (st : Stream) : Option (RvOp × Nat) :=
  (s.fetch n st).map fun f => (if f.2 = 2 then decode16 f.1 else decode32 f.1, f.2)

/-- The stream after another in the order in which threads take the turn (02 R51). -/
def streamAfter : Stream → Stream
  | .fwd => .bwd
  | .bwd => .upd
  | .upd => .fwd

/-- A thread that retires: the program counter moves on and the turn passes to the thread after it (02 R51). -/
def State.passTurn (s : State) (n : Nat) (st : Stream) : State := s.modTile n fun t => { t with turn := streamAfter st }
def State.retireAt (s : State) (n : Nat) (st : Stream) (pc : Word) : State :=
  ((s.modThread n st fun th => { th with pc := pc, fresh := false }).passTurn n st).progressed n (watchedThread st)
def State.retire (s : State) (n : Nat) (st : Stream) (len : Nat) : State :=
  s.retireAt n st ((s.thread n st).pc + BitVec.ofNat 32 len)
/-- Retire with a register written. -/
def State.retireReg (s : State) (n : Nat) (st : Stream) (len rd : Nat) (v : Word) : State :=
  (s.modThread n st fun th => th.setReg rd v).retire n st len

/-- A halt of the thread by an instruction fault or a refused push: the tag is the staged command's, the channel
cur_channel (02 R79, R81). The address is that of the access or the fetch at fault; 0 for a fault that concerns none, which
R81 leaves open (log 55). -/
def State.coreHalt (s : State) (n : Nat) (st : Stream) (reason address detail : Nat) : State :=
  let th := s.thread n st
  s.halt n st { reason := reason, unit := 7, tag := wTag th.staging, chan := th.channel, address := address, detail := detail }

/-- The halt of a core access or fetch that meets an uncorrectable error. -/
def Thread.ueHalt (th : Thread) : Halt := { reason := 0x50, tag := wTag th.staging, chan := th.channel }

/-! ## Loads and stores (02 R53) -/

inductive CoreRange where
  | dmem (a : Nat)
  | window (off : Nat)
  | regs (off : Nat)
  | outside
deriving DecidableEq, Repr

/-- The range in which an access of n bytes lies wholly. -/
def coreRange (a n : Nat) : CoreRange :=
  if a + n ≤ 0x20000 then .dmem a
  else if 0x400000 ≤ a ∧ a + n ≤ 0x800000 then .window (a - 0x400000)
  else if 0x800000 ≤ a ∧ a + n ≤ 0x800100 then .regs (a - 0x800000)
  else .outside

/-- A thread register's value (02 R53); the cycle count is a free value at each reading. -/
def State.readReg (s : State) (n : Nat) (st : Stream) (off : Nat) : Option (Word × State) :=
  let th := s.thread n st
  match off with
  | 0x00 => some (BitVec.ofNat 32 n, s)
  | 0x04 => some (BitVec.ofNat 32 (streamNo st), s)
  | 0x08 => some (BitVec.ofNat 32 (s.owner n), s)
  | 0x0C => some (th.channel, s)
  | 0x10 => some (BitVec.ofNat 32 th.bank, s)
  | 0x14 => some (BitVec.ofNat 32 (s.tile n).targetBank, s)
  | 0x18 => let c := s.cycle n; some (BitVec.ofNat 32 c.1.toNat, c.2)
  | 0x1C => let c := s.cycle n; some (BitVec.ofNat 32 (c.1.toNat >>> 32), c.2)
  | 0x20 => some (BitVec.ofNat 32 th.sums.length, s)
  | _ => none

/-- An access check: reason and address of the fault, if any. Range and kind first, then alignment (02 R53). -/
def accessFault (store : Bool) (a n : Nat) : Option Nat :=
  match coreRange a n with
  | .outside => some 0x03
  | .regs off =>
    if n != 4 then some 0x03
    else if off % 4 != 0 then some (if store then 0x03 else if off + 4 ≤ 0x24 then 0x02 else 0x03)
    else if store then (if off = 0x0C then none else some 0x03)
    else if off < 0x24 then none else some 0x03
  | _ => if a % n = 0 then none else some 0x02

/-! ## The turn (02 R51) -/

/-- The writer that a stream of a tile is. -/
def writerOf (s : State) (n : Nat) (st : Stream) : Writer := { ctx := s.owner n, tile := some n, stream := st }

/-- The thread's instruction is a window store that waits for room in the reserve of a snapshot (06 R216). -/
def State.storeStalls (s : State) (n : Nat) (st : Stream) : Bool :=
  match s.current n st with
  | some (.store f3 rs1 rs2 imm, _) =>
    let th := s.thread n st
    let a := (th.reg rs1 + BitVec.ofInt 32 imm).toNat
    let w := accessWidth f3
    match accessFault true a w, coreRange a w with
    | none, .window off =>
      let d := tileBase n + off
      (s.guardBad (s.owner n) st true d w).isNone && !s.extentBad n off (natLE w (th.reg rs2).toNat) &&
        !s.reserveRoom (writerOf s n st) d w
    | _, _ => false
  | _ => false

/-- A thread that the core cannot pass over when the turn reaches it: in RUN for the tile's context, with an instruction
retired since it was started, and able to retire. One just started may not be able to retire yet (02 R51, R52; log 19). -/
def State.keepsTurn (s : State) (n : Nat) (st : Stream) : Bool :=
  let th := s.thread n st
  th.run = .run && th.ctx = s.owner n && !th.fresh && !s.storeStalls n st

/-- Every thread from the holder of the turn up to a thread is passed over. -/
def State.hasTurn (s : State) (n : Nat) (st : Stream) : Bool :=
  let a := (s.tile n).turn
  let b := streamAfter a
  st = a || (!s.keepsTurn n a && (st = b || !s.keepsTurn n b))

/-- Its thread may retire an instruction: it is in RUN, for the context that the tile belongs to (01 R34), and has the turn. -/
def State.threadRuns (s : State) (n : Nat) (st : Stream) : Bool :=
  s.alive n && (s.thread n st).run = .run && (s.thread n st).ctx = s.owner n && s.notResetting (s.owner n) && s.hasTurn n st

def State.loadCore (s : State) (n : Nat) (st : Stream) (len f3 rd : Nat) (a : Nat) : State :=
  let w := accessWidth f3
  match accessFault false a w with
  | some r => s.coreHalt n st r a 0
  | none =>
    match coreRange a w with
    | .dmem off =>
      match (s.tile n).coreBlock 0 off w with
      | some x => s.coreUe (.command n st (s.thread n st).ueHalt) n 0 x
      | none => s.retireReg n st len rd (loadValue f3 (leNat (peeks (s.tile n).dmem off w)))
    | .window off =>
      match s.guardBad (s.owner n) st false (tileBase n + off) w with
      | some b => s.coreHalt n st b.reason (a + (b.address - (tileBase n + off))) b.detail
      | none =>
        match s.badBlock (tileBase n + off) w with
        | some x => s.ueError (.command n st (s.thread n st).ueHalt) x (s.dataOwner x) 0
        | none => s.retireReg n st len rd (loadValue f3 (s.tileNat n off w))
    | .regs off =>
      match s.readReg n st off with
      | some v => v.2.retireReg n st len rd v.1
      | none => s.coreHalt n st 0x03 a 0
    | .outside => s

def State.storeCore (s : State) (n : Nat) (st : Stream) (len f3 : Nat) (a : Nat) (v : Word) : State :=
  let w := accessWidth f3
  let bytes := natLE w v.toNat
  match accessFault true a w with
  | some r => s.coreHalt n st r a 0
  | none =>
    match coreRange a w with
    | .dmem off =>
      match (s.tile n).coreBlock 0 off w with
      | some x => s.coreUe (.command n st (s.thread n st).ueHalt) n 0 x
      | none => (s.modTile n fun t => { t with dmem := pokes off bytes t.dmem }).retire n st len
    | .window off =>
      let d := tileBase n + off
      match s.guardBad (s.owner n) st true d w with
      | some b => s.coreHalt n st b.reason (a + (b.address - d)) b.detail
      | none =>
        if s.extentBad n off bytes then s.coreHalt n st 0x20 a 0
        else if !s.reserveRoom (writerOf s n st) d w then s
        else
          match s.landErr (writerOf s n st) d bytes with
          | some x => s.ueError (.command n st (s.thread n st).ueHalt) x (s.dataOwner x) (whereCode (s.place x))
          | none => ((s.write (writerOf s n st) d bytes).modThread n st fun th =>
            { th with windowStores := th.windowStores + 1 }).retire n st len
    | .regs _ => (s.modThread n st fun th => { th with channel := v }).retire n st len
    | .outside => s

/-! ## RV32IMC -/

/-- One retired base, multiply or compressed instruction, or the halt it comes to. -/
def State.runPlain (s : State) (n : Nat) (st : Stream) (op : RvOp) (len : Nat) : State :=
  let th := s.thread n st
  let pc := th.pc
  let x := th.reg
  match op with
  | .lui rd imm => s.retireReg n st len rd (BitVec.ofNat 32 imm)
  | .auipc rd imm => s.retireReg n st len rd (pc + BitVec.ofNat 32 imm)
  | .jal rd off => (s.modThread n st fun t => t.setReg rd (pc + BitVec.ofNat 32 len)).retireAt n st (pc + BitVec.ofInt 32 off)
  | .jalr rd rs1 imm =>
    (s.modThread n st fun t => t.setReg rd (pc + BitVec.ofNat 32 len)).retireAt n st
      ((x rs1 + BitVec.ofInt 32 imm) &&& 0xFFFFFFFE#32)
  | .branch f3 a b off =>
    if branchTaken f3 (x a) (x b) then s.retireAt n st (pc + BitVec.ofInt 32 off) else s.retire n st len
  | .load f3 rd rs1 imm => s.loadCore n st len f3 rd (x rs1 + BitVec.ofInt 32 imm).toNat
  | .store f3 rs1 rs2 imm => s.storeCore n st len f3 (x rs1 + BitVec.ofInt 32 imm).toNat (x rs2)
  | .opImm f3 sub rd rs1 imm => s.retireReg n st len rd (alu f3 sub (x rs1) (BitVec.ofInt 32 imm))
  | .op f3 sub rd a b => s.retireReg n st len rd (alu f3 sub (x a) (x b))
  | .mul f3 rd a b => s.retireReg n st len rd (mulDiv f3 (x a) (x b))
  | _ => s.coreHalt n st 0x01 0 0

/-- A thread's turn at an instruction that `f` covers; anything else leaves the state (log 1). -/
def onInstr (n : Nat) (st : Stream) (s : State) (f : RvOp → Nat → Option State) : Result :=
  if n < 2048 then
    if s.threadRuns n st then
      match s.current n st with
      | some (op, len) => .next ((f op len).getD s)
      | none => .next s
    else .next s
  else .fault .noSuchPlace

/-- RV_INSTRUCTION (02 R49): also a fetch outside the bank, and every undefined encoding. -/
def execRvInstruction (n : Nat) (st : Stream) (s : State) : Result :=
  if n < 2048 then
    if s.threadRuns n st then
      match s.current n st with
      | none =>
        match s.fetchBad n st with
        | some b => .next (s.coreUe (.command n st (s.thread n st).ueHalt) n b.1 b.2)
        | none => .next (s.coreHalt n st 0x04 (s.thread n st).pc.toNat 0)
      | some (op, len) => .next (if op.isPlain then s.runPlain n st op len else s)
    else .next s
  else .fault .noSuchPlace

/-- RV_FENCE (02 R55): orders only the thread's own loads and stores, which the model performs in order. -/
def execRvFence (n : Nat) (st : Stream) (s : State) : Result :=
  onInstr n st s fun op len => if op = .fence then some (s.retire n st len) else none

def execEbreak (n : Nat) (st : Stream) (s : State) : Result :=
  onInstr n st s fun op _ => if op = .ebreak then some (s.coreHalt n st 0x05 0 0) else none

def execEcall (n : Nat) (st : Stream) (s : State) : Result :=
  onInstr n st s fun op _ => if op = .ecall then some (s.coreHalt n st 0x06 0 0) else none

/-! ## Staging (02 R56) -/

/-- Word i of the staging register replaced. -/
def stageWord (g : BitVec 128) (i : Nat) (v : Word) : BitVec 128 := withField g (32 * i) 32 v.toNat

def execCstW (n : Nat) (st : Stream) (s : State) : Result :=
  onInstr n st s fun op len =>
    match op with
    | .cstW i rs1 =>
      some ((s.modThread n st fun t => { t with staging := stageWord t.staging i (t.reg rs1) }).retire n st len)
    | _ => none

def execCld (n : Nat) (st : Stream) (s : State) : Result :=
  onInstr n st s fun op len =>
    match op with
    | .cld rs1 =>
      let a := ((s.thread n st).reg rs1).toNat
      if 0x20000 < a + 16 then some (s.coreHalt n st 0x03 a 0)
      else if a % 16 != 0 then some (s.coreHalt n st 0x02 a 0)
      else
        match (s.tile n).coreBlock 0 a 16 with
        | some x => some (s.coreUe (.command n st (s.thread n st).ueHalt) n 0 x)
        | none =>
          let v := BitVec.ofNat 128 (leNat (peeks (s.tile n).dmem a 16))
          some ((s.modThread n st fun t => { t with staging := v }).retire n st len)
    | _ => none

/-! ## Pushes (02 R58–R62, R68, R71) -/

/-- The header check of a push by a thread of stream st on a tile of context c (02 R61): reason and detail. Where several
checks fail the first in this order is reported, which R61 leaves open (log 56). -/
def State.headerBad (s : State) (c : Nat) (st : Stream) (th : Thread) : Option (Nat × Nat) :=
  let w := th.staging
  let o := wOpcode w
  if 6 ≤ wEngine w then some (0x10, detailHeader o 101)
  else if wStream w = 3 then some (0x10, detailHeader o 99)
  else if wPmode w = 3 then some (0x10, detailHeader o 95)
  else if !wTeam w && wTeamId w != 0 then some (0x11, detailHeader o 78)
  else if !wSigGlobal w && 256 ≤ wSigTally w then some (0x11, detailHeader o 60)
  else if !wTeam w && wStream w != streamNo st then some (0x12, 0)
  else if !s.chanOk c th.channel then some (0x14, 0)
  else none

/-- Summaries that a local push of a command owes its thread (05 R179, 09 R310, R321, 07 R244). -/
def sumsOwed (w : BitVec 128) : Nat :=
  if wTeam w then 0
  else
    match wEngine w, wOpcode w with
    | 1, 0x07 => 1
    | 5, 0x01 => 2
    | 3, 0x12 => if (wPayload w).testBit 23 then 1 else 0
    | 2, o => if 0x10 ≤ o ∧ o ≤ 0x14 then (if wPayload w % 4 = 3 then 2 else 1) else 0
    | _, _ => 0

/-- What a push comes to. -/
inductive PushKind where
  | refused (reason detail : Nat)
  | dropped          -- skipped with no_sws = 1: nothing is placed
  | full             -- no queue, dispatch or summary room
  | place (skip : Bool)
deriving DecidableEq, Repr

def queueSize : Nat := 512
def dispatchSize : Nat := 64

def State.pushRoom (s : State) (n : Nat) (st : Stream) (w : BitVec 128) : Bool :=
  let th := s.thread n st
  let room :=
    if wTeam w then decide (((s.tile n).dispatch.get st).length < dispatchSize)
    else decide ((s.queue n (engineOf (wEngine w)) st).entries.length < queueSize)
  room && decide (th.sums.length + sumsOwed w ≤ 8)

def State.pushKind (s : State) (n : Nat) (st : Stream) : PushKind :=
  let th := s.thread n st
  let w := th.staging
  match s.headerBad (s.owner n) st th with
  | some (r, d) => .refused r d
  | none =>
    let holds := predHolds (wPmode w) (wPred w) th.preds
    if !holds && wNoSws w then .dropped
    else if s.pushRoom n st w then .place (!holds) else .full

/-- An entry put at a queue's tail. -/
def State.enqueue (s : State) (n : Nat) (e : Engine) (st : Stream) (x : Entry) : State :=
  s.modQueue n e st fun q => { q with entries := q.entries ++ [x] }

/-- The staged command placed with its captures and cur_channel (02 R60, R71); summaries are owed from now on. -/
def State.placePush (s : State) (n : Nat) (st : Stream) (rs1 rs2 : Nat) (skip : Bool) : State :=
  let th := s.thread n st
  let w := th.staging
  let f := s.fresh
  let x : Entry :=
    { uid := f.1, word := w, s0 := th.reg rs1, s1 := th.reg rs2, chan := th.channel, skip := skip, ctx := s.owner n }
  let owed := (List.range (sumsOwed w)).map fun i => ({ entry := f.1, part := i, value := none } : Summary)
  let s1 := f.2.modThread n st fun t => { t with sums := t.sums ++ owed }
  if wTeam w then s1.modTile n fun t => { t with dispatch := t.dispatch.set st (t.dispatch.get st ++ [{ entry := x }]) }
  else s1.enqueue n (engineOf (wEngine w)) st x

/-- The thread retires a push: a command boundary (02 R77). -/
def State.boundary (s : State) (n : Nat) (st : Stream) (len : Nat) : State := (s.retire n st len).switchBank n st

def execCpush (n : Nat) (st : Stream) (s : State) : Result :=
  onInstr n st s fun op len =>
    match op with
    | .cpush rs1 rs2 =>
      match s.pushKind n st with
      | .refused r d => some (s.coreHalt n st r 0 d)
      | .dropped => some (s.boundary n st len)
      | .full => some (s.modThread n st fun t => { t with run := .wait, waitAt := some .push })
      | .place skip => some ((s.placePush n st rs1 rs2 skip).boundary n st len)
    | _ => none

/-- CPUSHNB: rd ← 1 where the command was placed or skipped, 0 where there was no room (log 20). -/
def execCpushnb (n : Nat) (st : Stream) (s : State) : Result :=
  onInstr n st s fun op len =>
    match op with
    | .cpushnb rd rs1 rs2 =>
      match s.pushKind n st with
      | .refused r d => some (s.coreHalt n st r 0 d)
      | .dropped => some ((s.modThread n st fun t => t.setReg rd 1#32).boundary n st len)
      | .full => some (s.retireReg n st len rd 0#32)
      | .place skip => some (((s.placePush n st rs1 rs2 skip).modThread n st fun t => t.setReg rd 1#32).boundary n st len)
    | _ => none

/-- A thread in WAIT at something, on a tile whose threads may retire, with the instruction it waits at. -/
def State.waiting (s : State) (n : Nat) (st : Stream) (at' : WaitAt) : Option (RvOp × Nat) :=
  let th := s.thread n st
  if s.alive n && th.run = .wait && th.waitAt = some at' && th.ctx = s.owner n && s.notResetting (s.owner n) then
    s.current n st
  else none

/-- Back in RUN. -/
def State.wake (s : State) (n : Nat) (st : Stream) : State :=
  s.modThread n st fun t => { t with run := .run, waitAt := none, released := false }

/-- A waiting thread's wait ends: `f` gives the state in which its instruction has retired, if it can. -/
def onWait (n : Nat) (st : Stream) (at' : WaitAt) (s : State) (f : RvOp → Nat → Option State) : Result :=
  if n < 2048 then
    match s.waiting n st at' with
    | some (op, len) => .next ((f op len).getD s)
    | none => .next s
  else .fault .noSuchPlace

/-- A waiting push finds room (02 R62): it retires with the captures of this moment. Its header has been checked as it was
first executed (R61); where its channel has been destroyed since, it halts (14 R459; log 57). -/
def execPushRoomResume (n : Nat) (st : Stream) (s : State) : Result :=
  onWait n st .push s fun op len =>
    match op with
    | .cpush rs1 rs2 =>
      let th := s.thread n st
      if !s.chanOk (s.owner n) th.channel then some (s.coreHalt n st 0x14 0 0)
      else if s.pushRoom n st th.staging then
        let skip := !predHolds (wPmode th.staging) (wPred th.staging) th.preds
        some (((s.placePush n st rs1 rs2 skip).wake n st).boundary n st len)
      else none
    | _ => none

/-! ## Reading queues and summaries -/

def execQfree (n : Nat) (st : Stream) (s : State) : Result :=
  onInstr n st s fun op len =>
    match op with
    | .qfree rd e =>
      if 6 ≤ e then some (s.coreHalt n st 0x01 0 0)
      else some (s.retireReg n st len rd (BitVec.ofNat 32 (queueSize - (s.queue n (engineOf e) st).entries.length)))
    | _ => none

/-- Every command of the stream's queue of engine e has completed; e = 7: of all six (02 R56). -/
def State.drained (s : State) (n : Nat) (st : Stream) (e : Nat) : Bool :=
  if e = 7 then allEngines.all fun g => (s.queue n g st).entries.isEmpty
  else (s.queue n (engineOf e) st).entries.isEmpty

def execCdrain (n : Nat) (st : Stream) (s : State) : Result :=
  onInstr n st s fun op len =>
    match op with
    | .cdrain e =>
      if e = 6 then some (s.coreHalt n st 0x01 0 0)
      else if s.drained n st e then some (s.retire n st len)
      else some (s.modThread n st fun t => { t with run := .wait, waitAt := some .cdrain })
    | _ => none

def execCdrainResume (n : Nat) (st : Stream) (s : State) : Result :=
  onWait n st .cdrain s fun op len =>
    match op with
    | .cdrain e => if s.drained n st e then some ((s.wake n st).retire n st len) else none
    | _ => none

/-- The oldest summary of a thread, where it has been delivered, and the rest (05 R180). -/
def Thread.takeSum (t : Thread) : Option (Word × List Summary) :=
  match t.sums with
  | { value := some v, .. } :: r => some (v, r)
  | _ => none

def execSumrd (n : Nat) (st : Stream) (s : State) : Result :=
  onInstr n st s fun op len =>
    match op with
    | .sumrd rd =>
      if (s.thread n st).sums.isEmpty then some (s.coreHalt n st 0x20 0 0)
      else
        match (s.thread n st).takeSum with
        | some (v, r) => some ((s.modThread n st fun t => { t with sums := r }).retireReg n st len rd v)
        | none => some (s.modThread n st fun t => { t with run := .wait, waitAt := some .sumrd })
    | _ => none

def execSumrdResume (n : Nat) (st : Stream) (s : State) : Result :=
  onWait n st .sumrd s fun op len =>
    match op with
    | .sumrd rd =>
      match (s.thread n st).takeSum with
      | some (v, r) => some (((s.modThread n st fun t => { t with sums := r }).wake n st).retireReg n st len rd v)
      | none => none
    | _ => none

/-! ## Banks and states (02 R52, R74–R77) -/

/-- An entry still to write the given bank of a tile. -/
def writesBank (n b : Nat) (x : Entry) : Bool :=
  x.issued && (x.effects.any (fun f => match f with
    | .imem t k .. => t = n && k = b
    | _ => false) ||
  (match x.plan with
    | .move d => bits d.toNat 59 58 = 1 && bits d.toNat 171 161 = n && bits d.toNat 160 160 = b
    | _ => false))

/-- A write into a bank of a tile is in flight: issued and not completed, or on the mesh. -/
def State.bankWriteInFlight (s : State) (n b : Nat) : Bool :=
  (s.net.any fun p => match p.body with
    | .coreWrite (some k) .. => p.dst = .tile n && k = b
    | _ => false) ||
  s.tiles.any fun t => t.2.queues.mover.list.any fun q => q.entries.any (writesBank n b)

/-- A bank some thread has, or to which a switch is pending (02 R74). -/
def State.bankActive (s : State) (n b : Nat) : Bool :=
  (s.tile n).threads.list.any (·.bank = b) || (!(s.tile n).switching.isEmpty && (s.tile n).targetBank = b)

/-- Every thread in PARK or HALT takes a pending switch at once. -/
def State.switchIdle (s : State) (n : Nat) : State :=
  allStreams.foldl (fun s st =>
    let r := (s.thread n st).run
    if r = .park || r = .halt then s.switchBank n st else s) s

def execImswap (n : Nat) (st : Stream) (s : State) : Result :=
  onInstr n st s fun op len =>
    if op = .imswap then
      let b := 1 - (s.tile n).targetBank
      if !(s.tile n).switching.isEmpty || s.bankWriteInFlight n b then some (s.coreHalt n st 0x24 0 0)
      else
        let s1 := s.modTile n fun t => { t with targetBank := b, switching := allStreams }
        some ((s1.switchIdle n).boundary n st len)
    else none

def execPark (n : Nat) (st : Stream) (s : State) : Result :=
  onInstr n st s fun op len =>
    if op = .park then
      some (((s.retire n st len).modThread n st fun t => { t with run := .park }).switchBank n st)
    else none

/-- A start request arrives (02 R52): a parked thread runs from its entry in its current bank; a thread that is not parked
keeps its state. A quarantined tile drops the request (13 R410). -/
def execThreadStart (k : Nat) (s : State) : Result :=
  match s.arrival k with
  | some p =>
    match p.body, p.dst with
    | .start st, .tile n =>
      if !s.serving then .next s
      else if s.stale p || !s.alive n then .next ((s.consume k).countDrop)
      else
        let s1 := s.consume k
        if (s1.thread n st).run = .park && s1.notResetting (s1.owner n) then
          .next (s1.modThread n st fun t => { t with
            run := .run
            ctx := p.ctx
            fresh := true
            pc := BitVec.ofNat 32 (imemBase + s1.bankEntry n t.bank st) })
        else .next s1
    | _, _ => .next s
  | none => .next s

/-! ## Predicates (02 R56) -/

/-- The predicates of the thread replaced, and the instruction retired. -/
def State.retirePreds (s : State) (n : Nat) (st : Stream) (len : Nat) (p : BitVec 16) : State :=
  (s.modThread n st fun t => { t with preds := p }).retire n st len

def execPcmp (n : Nat) (st : Stream) (s : State) : Result :=
  onInstr n st s fun op len =>
    match op with
    | .pcmp c pd a b =>
      let th := s.thread n st
      some (s.retirePreds n st len (predSet th.preds pd (predCompare c (th.reg a) (th.reg b))))
    | _ => none

def execPlog (n : Nat) (st : Stream) (s : State) : Result :=
  onInstr n st s fun op len =>
    match op with
    | .plog o pd a b =>
      let p := (s.thread n st).preds
      some (s.retirePreds n st len (predSet p pd (predLogic o (predGet p a) (predGet p b))))
    | _ => none

def execPset (n : Nat) (st : Stream) (s : State) : Result :=
  onInstr n st s fun op len =>
    match op with
    | .pset pd a =>
      let th := s.thread n st
      some (s.retirePreds n st len (predSet th.preds pd (th.reg a != 0#32)))
    | _ => none

def execPmv (n : Nat) (st : Stream) (s : State) : Result :=
  onInstr n st s fun op len =>
    match op with
    | .pmv rd ps => some (s.retireReg n st len rd (if predGet (s.thread n st).preds ps then 1#32 else 0#32))
    | _ => none

def execPrd (n : Nat) (st : Stream) (s : State) : Result :=
  onInstr n st s fun op len =>
    match op with
    | .prd rd => some (s.retireReg n st len rd (BitVec.ofNat 32 (s.thread n st).preds.toNat))
    | _ => none

def execPwr (n : Nat) (st : Stream) (s : State) : Result :=
  onInstr n st s fun op len =>
    match op with
    | .pwr a => some (s.retirePreds n st len (BitVec.ofNat 16 ((s.thread n st).reg a).toNat))
    | _ => none

/-! ## CTWAIT (08 R268) -/

/-- The place that homes a tally: `loc` 0 for a local tally of tile n, 2 for a global one. -/
def tallyHome (n loc g : Nat) : Place := if loc = 2 then .die (g % 8) else .tile n

/-- Detail for reasons 0x15 and 0x20 of a tally (08 R264). -/
def detailTally (loc g : Nat) : Nat := pack [(12, 0), (2, loc), (16, g)]

/-- A tally named by bit 16 and the low bits of a register. -/
def execCtwait (n : Nat) (st : Stream) (s : State) : Result :=
  onInstr n st s fun op _ =>
    match op with
    | .ctwait a b =>
      let th := s.thread n st
      let r := (th.reg a).toNat
      let loc := if r.testBit 16 then 2 else 0
      let g := r % 65536
      if bits r 31 17 != 0 || (loc = 0 && 256 ≤ g) then some (s.coreHalt n st 0x11 0 (detailPayload 0 56))
      else if loc = 2 && !s.gtallyOk (s.owner n) g then some (s.coreHalt n st 0x15 0 (detailTally loc g))
      else
        let u := s.fresh
        let s1 := u.2.modThread n st fun t => { t with run := .wait, waitAt := some .ctwait, waitUid := u.1, released := false }
        some (s1.send { uid := 0, ctx := s.owner n, epoch := 0, chan := 0, src := .tile n, dst := tallyHome n loc g,
                        stream := st, engine := 7, entry := u.1,
                        body := .register g .ctwait (th.reg b).toNat false })
    | _ => none

/-- A CTWAIT whose release has come retires. -/
def State.ctwaitRetire (s : State) (n : Nat) (st : Stream) : State :=
  match s.waiting n st .ctwait with
  | some (.ctwait .., len) => if (s.thread n st).released then (s.wake n st).retire n st len else s
  | _ => s
/-- The release of the registration of a given name reaches its thread, which retires its CTWAIT; one that has been halted
there keeps the release (08 R268, R520). -/
def State.ctwaitReleased (s : State) (n : Nat) (st : Stream) (name : Nat) : State :=
  if (s.thread n st).waitUid = name && (s.thread n st).waitAt = some .ctwait then
    (s.modThread n st fun t => { t with released := true }).ctwaitRetire n st
  else s

end Sys2Proof.Machine
end

