-- ==== Sys2Proof/Machine/Queues.lean ====
section
/-!
DEFINITION. Queues, issue and completion (spec/02 R62–R70; spec/06 R198; spec/12 R381, R382, R386–R389; spec/13 R424): what
every command shares. A command's own part is a Cmd.
-/
namespace Sys2Proof.Machine

/-- What an engine's chapter says of one command: the refusals at issue, what it reads and writes of the own
device's memory (for R63, R193–R195, R200, R288), its own readiness under R64, its effect at issue, when it has nothing left to wait for, and what it does as it completes. -/
structure Cmd where
  bad : State → Nat → Stream → Entry → Option Bad
  reads : State → Nat → Stream → Entry → List Range := fun _ _ _ _ => []
  writes : State → Nat → Stream → Entry → List Range := fun _ _ _ _ => []
  /-- What it sends as it becomes the head of its queue and must have answered before it is ready (03 R122, 08 R265, 09 R322). -/
  ask : Option (State → Nat → Stream → Entry → State) := none
  ready : State → Nat → Stream → Entry → Bool := fun _ _ _ _ => true
  run : State → Nat → Stream → Entry → State
  /-- What it names is not being loaded by an earlier or another command: until then it is not checked (03 R108, 05 R170,
  06 R202). -/
  settled : State → Nat → Stream → Entry → Bool := fun _ _ _ _ => true
  done : State → Nat → Stream → Entry → Bool := fun _ _ _ _ => true
  finish : State → Nat → Stream → Entry → State := fun s _ _ _ => s

/-! ## Entries -/

/-- Commands that hold back the issue of every later one of their queue until they complete: WLRUN (03 R124), and every
command of the tally and pool engines (08 R521, 09 R322). -/
def holdsQueue (e : Engine) (x : Entry) : Bool :=
  x.issued && !x.skip && ((e = .matrix && x.op = 0x0A) || ((e = .tally || e = .pool) && decide (x.op < 0xF0)))

/-- The first entry not yet issued, where nothing ahead of it holds the queue, and the entries ahead of it. -/
def queueHead (e : Engine) : List Entry → Option (Entry × List Entry)
  | [] => none
  | x :: r =>
    if x.issued then (if holdsQueue e x then none else (queueHead e r).map fun p => (p.1, x :: p.2)) else some (x, [])

/-- The queue a stream's commands to an engine issue from: the item queue while a work list runs (03 R124). -/
def State.entries (s : State) (n : Nat) (e : Engine) (st : Stream) : List Entry :=
  match e, (s.tile n).runs.get st with
  | .matrix, some r => if r.queue.isEmpty then (s.queue n e st).entries else r.queue
  | _, _ => (s.queue n e st).entries
/-- The tile runs a command: one of the context the tile belongs to, or one of context 0, whose device team covers every tile (01
R32, R34). -/
def State.runsFor (s : State) (n : Nat) (x : Entry) : Bool := x.ctx = s.owner n || x.ctx = 0
/-- The next command to issue, and those issued ahead of it; none where the tile has left the context that the command was placed
for: what is left in the queues of a tile stays at their front, and goes on when the tile comes to that context again (01 R34; log
118). -/
def State.head (s : State) (n : Nat) (e : Engine) (st : Stream) : Option (Entry × List Entry) :=
  (queueHead e (s.entries n e st)).filter fun p => s.runsFor n p.1
/-- The context in whose name a command acts: context 0 for service firmware's on a tile of another context (01 R32; log 126). -/
def State.actor (s : State) (n : Nat) (x : Entry) : Nat := if x.ctx = 0 then 0 else s.owner n
/-- The state with a tile in no context's rectangles: what a command of context 0 sees of the tile's ownership while it runs. -/
def State.lent (s : State) (n : Nat) : State :=
  { s with teams := s.teams.filter fun e => !(e.1 != 0 && teamKind e.2 = 1 && inRect e.2 n) }
/-- A part of a command's work on a tile, done in the name of the command's context (01 R32). -/
def State.inName (s : State) (n : Nat) (x : Entry) (f : State → State) : State :=
  if x.ctx = s.owner n then f s else { f (s.lent n) with teams := s.teams }

/-- An entry of a queue or item queue replaced by name. -/
def replaceEntry (x : Entry) (l : List Entry) : List Entry := l.map fun y => if y.uid = x.uid then x else y
def State.setEntry (s : State) (n : Nat) (e : Engine) (st : Stream) (x : Entry) : State :=
  let s1 := s.modQueue n e st fun q => { q with entries := replaceEntry x q.entries }
  match e, (s1.tile n).runs.get st with
  | .matrix, some r => s1.modTile n fun t => { t with runs := t.runs.set st (some { r with queue := replaceEntry x r.queue }) }
  | _, _ => s1
def State.dropEntry (s : State) (n : Nat) (e : Engine) (st : Stream) (uid : Nat) : State :=
  let s1 := s.modQueue n e st fun q => { q with entries := q.entries.filter fun y => y.uid != uid }
  match e, (s1.tile n).runs.get st with
  | .matrix, some r =>
    s1.modTile n fun t => { t with runs := t.runs.set st (some { r with queue := r.queue.filter fun y => y.uid != uid }) }
  | _, _ => s1
/-- The entry of a given name on a tile, with its engine. -/
def State.findEntry (s : State) (n : Nat) (st : Stream) (uid : Nat) : Option (Engine × Entry) :=
  allEngines.findSome? fun e => ((s.queue n e st).entries.find? fun x => x.uid = uid).map fun x => (e, x)

/-- A halt that concerns a command of an engine (02 R79, R81). -/
def State.cmdHalt (s : State) (n : Nat) (e : Engine) (st : Stream) (x : Entry) (b : Bad) : State :=
  -- a structure at fault is named by its own-device address (03 R100)
  let a := if b.reason = 0x11 && bits b.detail 21 20 = 1 then s.ownAddr b.address else b.address
  s.halt n st { reason := b.reason, unit := engineNo e, tag := wTag x.word, chan := x.chan, address := a, detail := b.detail }

/-- The team a delivered team command names. -/
def State.cmdTeam (s : State) (x : Entry) : Nat :=
  match x.teamCmd with
  | some c => (tfind c s.teamCmds).elim (wTeamId x.word) (·.team)
  | none => 0

/-! ## Traces (13 R424) -/

def traceFields (n e st tag op : Nat) (chan : Word) (tally loc amount : Nat) : List Byte :=
  natLE 16 (pack [(11, n), (2, st), (3, e), (16, tag), (8, op), (32, chan.toNat), (16, tally), (2, loc), (32, amount), (6, 0)])
def traceBody (n : Nat) (e st : Nat) (x : Entry) (tally loc amount : Nat) : List Byte :=
  traceFields n e st (wTag x.word) x.op x.chan tally loc amount
/-- A trace record of kind 0x31 to 0x33, where the context's mask selects it. -/
def State.trace (s : State) (kind bitNo n : Nat) (e : Engine) (st : Stream) (x : Entry) (tally loc amount : Nat) : State :=
  let c := s.owner n
  if (s.ctx c).traceMask.testBit bitNo then
    s.sendRecord 2 kind n c (traceBody n (engineNo e) (streamNo st) x tally loc amount)
  else s

/-- A signal of one that no queue entry sends, by the unit `source` on behalf of a command of tile n (team completion, a
reduction's done_tally, a huddle's close_tally): its trace record. -/
def State.traceSignal (s : State) (source c n e st tag op : Nat) (chan : Word) (g : Nat) : State :=
  if (s.ctx c).traceMask.testBit 2 then s.sendRecord 2 0x33 source c (traceFields n e st tag op chan g 2 1) else s

/-! ## Signals (08 R260, R266; 02 R67) -/

/-- A signal of `amount` sent by a command: `loc` as in R263 (0 own local, 1 another tile's local, 2 own device's global;
3, another device's, goes by the fabric). -/
def State.signalFrom (s : State) (n : Nat) (e : Engine) (st : Stream) (x : Entry) (loc g target amount : Nat) : State :=
  let c := s.cycle n
  let s1 := c.2.trace 0x33 2 n e st x g loc amount
  let body : Body := if loc = 1 then .remoteSignal g amount c.1 else .signal g amount 0 c.1
  let dst : Place := if loc = 0 then .tile n else if loc = 1 then .tile target else .die (g % 8)
  s1.send { uid := 0, ctx := s.owner n, epoch := 0, chan := x.chan, src := .tile n, dst := dst, stream := st,
            engine := engineNo e, tag := wTag x.word, entry := x.uid, body := body }

/-- The completion signal of a command, where sig_en is set (02 R58, R67). -/
def State.completionSignal (s : State) (n : Nat) (e : Engine) (st : Stream) (x : Entry) : State :=
  if wSigEn x.word then s.signalFrom n e st x (if wSigGlobal x.word then 2 else 0) (wSigTally x.word) 0 (wSigAdd x.word)
  else s

/-- The signals that an RQCLOSE's device-scope fence held back, sent once the fence has nothing left to cover: the earlier
commands of the stream and its own and their writes to the own device (07 R235; 08 R270). -/
def State.flushClosing (s : State) (n : Nat) : State :=
  let open' (st : Stream) (x : Entry) : Bool :=
    (allEngines.any fun e => (s.queue n e st).entries.any fun y => decide (y.uid < x.uid)) ||
    ((s.tile n).unacked.any fun u => u.stream = st && decide (u.entry ≤ x.uid) && !u.remote) ||
    (s.tile n).unsent.any fun u => u.stream = st && decide (u.entry.uid ≤ x.uid)
  let go := (s.tile n).closing.filter fun c => !open' c.1 c.2.1
  let s1 := s.modTile n fun t => { t with closing := t.closing.filter fun c => open' c.1 c.2.1 }
  go.foldl (fun s c => s.signalFrom n .route c.1 c.2.1 2 c.2.2 0 1) s1

/-! ## Issue checks -/

/-- The completion signal's tally (08 R259, R267): outside the grant, or a local tally that takes only local pushes. -/
def State.signalBad (s : State) (n : Nat) (x : Entry) : Option Bad :=
  let g := wSigTally x.word
  if !wSigEn x.word then none
  else if wSigGlobal x.word then
    (if s.gtallyOk (s.owner n) g then none else some ⟨0x15, detailTally 2 g, 0⟩)
  else if x.teamCmd != none && !(s.tally n g).remote then some ⟨0x20, detailTally 0 g, 0⟩
  else none

/-- A command that may vary does not issue in STRICT mode (12 R381). -/
def State.varyBad (s : State) (n : Nat) (x : Entry) : Option Bad :=
  if wMayVary x.word && (s.ctx (s.owner n)).detMode = 0 && s.owner n != 0 then some ⟨0x40, 0, 0⟩ else none

/-- Earlier commands of the queue, not yet completed, that write bytes a command reads (02 R63). -/
def hazard (ahead : List Entry) (reads : List Range) : Bool := ahead.any fun x => anyOverlap x.writes reads

/-! ## Lock-step sequences (12 R386–R389) -/

def State.locked (s : State) (n : Nat) : Bool := lockEnabled (s.ctx (s.owner n)).lockstep && s.owner n != 0

/-- A sequence of a tile as its context's commands find it: begun anew where the context has been created since, or another
context's commands ran in it (12 R386, R390). -/
def State.lockSeq (s : State) (c n q : Nat) : LockSeq :=
  let l := tget {} q (s.tile n).lockSeqs
  if l.ctx = c && l.born = (s.ctx c).born then l else { ctx := c, born := (s.ctx c).born }
def State.setLockSeq (s : State) (n q : Nat) (l : LockSeq) : State :=
  s.modTile n fun t => { t with lockSeqs := tset q l t.lockSeqs }

/-- Windows closed, and digests of the open one, after further commands; `fences` says which of them are FENCEs. -/
def lockAfter (w : Nat) (p : Nat × Nat) (fences : List Bool) : Nat × Nat :=
  fences.foldl (fun p f => if f || decide (w ≤ p.2 + 1) then (p.1 + 1, 0) else (p.1, p.2 + 1)) p
/-- A sequence of a tile holds at most two windows closed and not compared; a command whose completion would close a third
waits at issue (12 R388). `ahead` are the commands of the queue that are issued and not completed. -/
def State.lockRoom (s : State) (n q : Nat) (ahead : List Entry) (x : Entry) : Bool :=
  if s.locked n then
    let l := s.lockSeq (s.owner n) n q
    let w := lockW (s.ctx (s.owner n)).lockstep
    let before := lockAfter w (l.closed.length, l.digests.length) (ahead.map fun y => y.op = 0xF3)
    let after := lockAfter w before [x.op = 0xF3]
    after.1 = before.1 || decide (after.1 ≤ 2)
  else true

/-! ## Arbitration (06 R198) -/

/-- The stream orders by ctx_stream_order's code. -/
def streamOrderOf (code : Nat) : List Stream :=
  match code with
  | 0 => [.fwd, .bwd, .upd]
  | 1 => [.bwd, .fwd, .upd]
  | 2 => [.upd, .bwd, .fwd]
  | 3 => [.bwd, .upd, .fwd]
  | 4 => [.fwd, .upd, .bwd]
  | _ => [.upd, .fwd, .bwd]

/-- The stream an engine issues from among its ready heads: one passed over 32 times first, then the highest-ordered. -/
def chooseStream (order ready : List Stream) (passed : Stream → Nat) : Option Stream :=
  let r := order.filter ready.contains
  match r.find? fun st => decide (32 ≤ passed st) with
  | some st => some st
  | none => r.head?

/-- The passed-over counts after an issue of stream st. -/
def State.countPassed (s : State) (n : Nat) (e : Engine) (st : Stream) (ready : List Stream) : State :=
  allStreams.foldl (fun s x =>
    if x = st then s.modQueue n e x fun q => { q with passed := 0 }
    else if ready.contains x then s.modQueue n e x fun q => { q with passed := min 32 (q.passed + 1) } else s) s

/-! ## May-vary handling (12 R381, R382) -/

/-- A MOVE that stores to a home die, its own device's or another's: by its descriptor (09 R302). -/
def State.storesAway (s : State) (n : Nat) (x : Entry) : Bool :=
  let d := s.tileNat n x.a0 32
  bits d 59 58 = 0 && (bits d 199 192 != s.deviceNumber || decide (scratchBase ≤ bits d 191 144))

/-- Commands whose choices are counted where they are made, not at issue: claims, atomics, stores at a home die and
contributions to ARRIVAL reductions. The mode of another device's reduction is a free value (log 74). -/
def State.countedElsewhere (s : State) (n : Nat) (e : Engine) (x : Entry) : Bool :=
  let arrival : Bool :=
    if x.pl 24 17 != s.deviceNumber then bit (Config.freeWord 20 s.draws).toNat 0
    else (tfind (x.pl 55 44) s.reds).elim false fun r => redArrival r.desc
  x.op = 0xF1 || (e = .mover && ((x.op = 0x21 && arrival) || (decide (0x10 ≤ x.op) && decide (x.op ≤ 0x1A)) ||
    (x.op = 0x01 && s.storesAway n x)))

def State.bumpVary (s : State) (c k : Nat) : State := s.modCtx c fun x => { x with varyCount := satAdd 64 x.varyCount k }

def State.markVary (s : State) (n : Nat) (e : Engine) (st : Stream) (x : Entry) : State :=
  let c := s.owner n
  if wMayVary x.word && !x.skip && c != 0 then
    match (s.ctx c).detMode with
    | 1 => s.sendRecord 2 0x30 n c (traceBody n (engineNo e) (streamNo st) x 0 0 0)
    | 2 => let s1 := { s with draws := s.draws + 1 }; if s.countedElsewhere n e x then s1 else s1.bumpVary c 1
    | _ => s
  else s

/-! ## Effects -/

/-- One effect of a completing command applied; writes pass through `write`, so that flags, tags and snapshots follow. -/
def State.deliverSum (s : State) (n : Nat) (st : Stream) (entry part : Nat) (v : Word) : State :=
  s.modThread n st fun t => { t with sums := t.sums.map fun y =>
    if y.entry = entry && y.part = part then { y with value := some v } else y }

def vregRow (v : Vec) (r : Nat) : List Word := tget (List.replicate 256 0#32) r v.regs
def setVreg (v : Vec) (r : Nat) (vals : List (Nat × Word)) : Vec :=
  { v with regs := tset r (vals.foldl (fun l p => lset l p.1 p.2) (vregRow v r)) v.regs }

/-- The amax word after recording magnitudes (03 R110 stage 4): a NaN makes it NaN. -/
def amaxWord (old mag : Word) : Word := f32max old mag

/-- The predictor entry that a pass finds: the first valid one for its array and S1 (04 R159; log 61). -/
def matchPredictor (t : Tile) (x : Entry) : List Nat :=
  match t.predictors.find? fun p => p.2.array = x.pl 55 54 && p.2.addr = x.a1 / 16 with
  | some p => [p.2.need]
  | none => []
/-- Passes at the head of their queues keep what the predictor table held when they became head (04 R159). -/
def State.keepPredicted (s : State) (n : Nat) : State :=
  allStreams.foldl (fun s st =>
    match s.head n .matrix st with
    | some (x, _) =>
      if x.op = 0x01 && !x.skip && x.answer.isEmpty then s.setEntry n .matrix st { x with answer := 1 :: matchPredictor (s.tile n) x }
      else s
    | none => s) s

/-- The halt of a command that an uncorrectable error meets. -/
def entryHalt (e : Engine) (x : Entry) : Halt :=
  { reason := 0x50, unit := engineNo e, tag := wTag x.word, chan := x.chan }


def State.applyEffect (s : State) (n : Nat) (st : Stream) (entry : Entry) (f : Effect) : State :=
  let w := writerOf s n st
  let ue : Finder := .command n st (entryHalt (engineOf (wEngine entry.word)) entry)
  match f with
  | .store a bytes => s.writeChecked ue w a bytes
  | .dmem t a bytes => s.modTile t fun x => x.coreWrite 0 a bytes
  | .imem t bank a bytes => s.modTile t fun x => x.coreWrite (bank + 1) a bytes
  | .vreg r vals => s.modTile n fun t => { t with vec := setVreg t.vec r vals }
  | .unbusy r => s.modTile n fun t => { t with vec := { t.vec with busy := t.vec.busy &&& ~~~(BitVec.ofNat 32 (1 <<< r)) } }
  | .amax a mag => s.writeChecked ue w a (natLE 4 (amaxWord (leWord (s.loadBytes a 4)) mag).toNat)
  | .zeroFlags fs =>
    let put (l : List Nat) (p : Nat × Bool) : List Nat :=
      if p.2 then (if l.contains p.1 then l else p.1 :: l) else l.filter (· != p.1)
    s.modTile n fun t => { t with zeroFlags := fs.foldl put t.zeroFlags }
  | .empty a k => s.modArray n a fun x => { x with accs := vset x.accs k {} }
  | .zeroAcc a k => s.modArray n a fun x => { x with accs := vset x.accs k { held := (vget x.accs k {}).held } }
  | .drainDone a =>
    (s.modArray n a fun x => { x with draining := false }).modTile n fun t =>
      if t.vec.lanes = some a then { t with vec := { t.vec with lanes := none } } else t
  | .loadedFrom k a => s.modTile n fun t => { t with descAt := tset k a t.descAt }
  | .drainDesc ds k v => s.modTile n fun t => { t with drainDescs := tset (16 * streamNo ds + k) v t.drainDescs }
  | .slot k cs is => s.modTile n fun t => { t with vec := { t.vec with slots := tset k ⟨cs, is⟩ t.vec.slots } }
  | .seed ss base v =>
    s.modTile n fun t => { t with vec :=
      if base then { t.vec with bases := t.vec.bases.set ss v } else { t.vec with seeds := t.vec.seeds.set ss v } }
  | .optDesc k v => s.modTile n fun t => { t with optDescs := tset k v t.optDescs }
  | .layer k v => s.modTile n fun t => { t with layers := tset k { (tget {} k t.layers) with desc := some v } t.layers }
  | .summary part v => s.deliverSum n st entry.uid part v
  | .predictor k v =>
    let put (l : Table Predictor) : Table Predictor :=
      if bit v.toNat 63 then tset k ⟨bits v.toNat 62 61, bits v.toNat 60 32, bits v.toNat 31 0⟩ l else terase k l
    (s.keepPredicted n).modTile n fun t => { t with predictors := put t.predictors }
  | .extent a len pat plen =>
    s.modTile n fun t => { t with extents :=
      (if len = 0 then [] else [(⟨a, len⟩, ⟨pat, plen⟩)]) ++ t.extents.filter fun x => x.1.base != a }
  | .itemBlock =>
    -- blocks drain in the order of the items
    let count (i : Item) : Item := { i with drained := i.drained + 1 }
    let done (i : Item) : Bool := decide (i.blocks ≤ i.drained)
    s.modTile n fun t => { t with runs := t.runs.set st ((t.runs.get st).map fun r =>
      { r with items := r.items.takeWhile done ++ (match r.items.dropWhile done with
        | i :: is => count i :: is
        | [] => []) }) }
  | .snapMember team =>
    { s with snaps := s.snaps.map fun e => if e.1 = team then (e.1, { e.2 with done := n :: e.2.done }) else e }
  | .signal .. => s

/-! ## Completion (02 R65, R67; 01 R38) -/

/-- The range an effect has written, for its command's digest (12 R386): the state is that after it. -/
def State.effectRange (s : State) : Effect → Option (Nat × Nat × List Byte)
  | .store a bytes => some (s.deviceNumber, a, bytes)
  | .amax a _ => some (s.deviceNumber, a, s.loadBytes a 4)
  | .vreg r vals => some (0xFE, r * 1024, vals.flatMap fun v => natLE 4 v.2.toNat)
  | .summary _ v => some (0xFD, 0, natLE 4 v.toNat)
  | _ => none
def insertRange (r : Nat × Nat × List Byte) : List (Nat × Nat × List Byte) → List (Nat × Nat × List Byte)
  | [] => [r]
  | q :: qs => if r.1 < q.1 ∨ (r.1 = q.1 ∧ r.2.1 ≤ q.2.1) then r :: q :: qs else q :: insertRange r qs
/-- A summary whose value is one of R376: an atomic's old value, a pool handle or offset. -/
def timedSum (e : Engine) (x : Entry) : Bool :=
  (e = .pool && x.op = 0x01) || (e = .mover && decide (0x10 ≤ x.op) && decide (x.op ≤ 0x14))
/-- The ranges of an entry's remote writes and of its effects, those it lists already and the values of R376 left out, in
ascending device and address. -/
def State.entryRanges (s : State) (e : Engine) (x : Entry) : List (Nat × Nat × List Byte) :=
  let listed (r : Nat × Nat × List Byte) : Bool :=
    x.outs.any fun o => o.1 = r.1 && decide (o.2.1 ≤ r.2.1) && decide (r.2.1 + r.2.2.length ≤ o.2.1 + o.2.2.length)
  let own := (x.effects.filterMap s.effectRange).filter fun r => !listed r && !(r.1 = 0xFD && timedSum e x)
  (x.outs ++ own).foldl (fun l r => insertRange r l) []

/-- The first 32 bits of SHAKE256 over the digest string (12 R386). -/
def commandDigest (tile engine stream tag opcode count : Nat) (ranges : List (Nat × Nat × List Byte)) : Nat :=
  leNat (shake256 (natLE 2 tile ++ natLE 1 engine ++ natLE 1 stream ++ natLE 2 tag ++ natLE 1 opcode ++ natLE 4 count ++
    ranges.flatMap fun r => natLE 1 r.1 ++ natLE 6 r.2.1 ++ natLE 4 r.2.2.length ++ r.2.2) 4)

/-- The window digest: the first 64 bits of SHAKE256 over the command digests (12 R388). -/
def windowDigest (ds : List Nat) : Nat := leNat (shake256 (ds.flatMap (natLE 4)) 8)

/-- The engine and stream fields of a sequence's frames (12 R390). -/
def seqFields (q : Nat) : Nat × Nat := if q < 18 then (q / 3, q % 3) else (7, q - 18)

/-- A closed window whose partner's record is here: equal digests end it, unequal ones send its command digests (12 R391). -/
def State.lockCompare (s : State) (n q : Nat) (w : LockWindow) : State :=
  match w.theirs with
  | none => s
  | some d =>
    if d = windowDigest w.digests then
      let l := s.lockSeq (s.owner n) n q
      s.setLockSeq n q { l with closed := l.closed.filter fun v => v.number != w.number }
    else
      (List.range ((w.digests.length + 59) / 60)).foldl (fun s i =>
        s.lockFrame (s.owner n) 0x02 n (seqFields q).1 (seqFields q).2 w.number (60 * i * 2 ^ 52)
          (((w.digests.drop (60 * i)).take 60).flatMap (natLE 4))) s

/-- The stream that a sequence halts; a list sequence belongs to no stream (log 39). -/
def seqStream (q : Nat) : Stream := if q < 18 then streamOf (q % 3) else .fwd

/-- One digest taken into a sequence: the command record goes to the lock-step buffer, and a full or fenced window is
closed and its record sent (12 R387–R389). A record that would change a protected bit is not written and halts the sequence's
stream (04 R148; log 115). -/
def State.lockDigest (s : State) (n q : Nat) (digest : Nat) (record : Nat × Nat × Nat × Nat) (fence : Bool) : State :=
  let set := (s.ctx (s.owner n)).lockstep
  let l := s.lockSeq (s.owner n) n q
  let w := lockW set
  let a := tileBase n + lockBuf set + 32 * w * q + 16 * w * (l.window % 2) + 16 * l.digests.length
  let bytes := natLE 16 (pack [(32, digest), (32, record.1), (8, record.2.1), (48, record.2.2.1), (8, 0)])
  let s1 := if s.extentBadAt a bytes then
      s.halt n (seqStream q) { reason := 0x20, unit := if q < 18 then q / 3 else 0, tag := record.2.2.2,
                               chan := BitVec.ofNat 32 record.1, address := a }
    else s.storeBytes a bytes
  let ds := l.digests ++ [digest]
  let rs := l.records ++ [record]
  let closes := fence || decide (w ≤ ds.length)
  let l1 : LockSeq :=
    if closes then
      { l with count := l.count + 1, window := l.window + 1, digests := [], records := [],
               closed := l.closed ++ [{ number := l.window, digests := ds, records := rs,
                                        theirs := (l.early.find? fun e => e.1 = l.window).map (·.2) }],
               early := l.early.filter fun e => e.1 != l.window }
    else { l with count := l.count + 1, digests := ds, records := rs }
  let s2 := s1.setLockSeq n q l1
  if closes then
    let s3 := s2.lockFrame (s.owner n) 0x01 n (seqFields q).1 (seqFields q).2 l.window (windowDigest ds) []
    l1.closed.foldl (fun s w => if w.number = l.window then s.lockCompare n q w else s) s3
  else s2

/-- A completing command's digest, on a tile of a lock-step context; an item's commands go into no queue sequence. -/
def State.lockCommand (s : State) (n : Nat) (e : Engine) (st : Stream) (x : Entry) (isItem : Bool) : State :=
  if s.locked n && !isItem then
    let q := 3 * engineNo e + streamNo st
    let l := s.lockSeq (s.owner n) n q
    let rs := if x.skip then [] else s.entryRanges e x
    let d := commandDigest n (engineNo e) (streamNo st) (wTag x.word) x.op l.count rs
    let first := match rs with
      | r :: _ => (r.1, r.2.1)
      | [] => (0, 0)
    s.lockDigest n q d (x.chan.toNat, first.1, first.2, wTag x.word) (x.op = 0xF3)
  else s

/-- A command completes (02 R67): its effects come into force, its entry is freed, its completion signal leaves, and a
team command's completion goes to the sync mesh controllers. A refused TSET completes without its signal and halts the
stream (08 R521). -/
def State.complete (s : State) (n : Nat) (e : Engine) (st : Stream) (x : Entry) : State :=
  let isItem := !((s.queue n e st).entries.any fun y => y.uid = x.uid)
  let s1 := x.effects.foldl (fun s f => s.applyEffect n st x f) s
  let s2 := s1.lockCommand n e st x isItem
  let s3 := ((s2.dropEntry n e st x.uid).progressed n (watchedQueue e st)).trace 0x32 1 n e st x 0 0 0
  let s4 := (match x.failing with
    | none => s3.completionSignal n e st x
    | some (r, a, d) => s3.cmdHalt n e st x ⟨r, d, a⟩).flushClosing n
  match x.teamCmd with
  | none => s4
  | some c => s4.send { uid := 0, ctx := s.owner n, epoch := 0, chan := x.chan, src := .tile n, dst := .mesh, stream := st,
                        engine := engineNo e, tag := wTag x.word, entry := x.uid, body := .memberDone c }

/-! ## Issue -/

/-- An entry marked as issued. -/
def markIn (uid : Nat) (l : List Entry) : List Entry := l.map fun y => if y.uid = uid then { y with issued := true } else y
def State.markIssued (s : State) (n : Nat) (e : Engine) (st : Stream) (uid : Nat) : State :=
  let s1 := s.modQueue n e st fun q => { q with entries := markIn uid q.entries }
  match e, (s1.tile n).runs.get st with
  | .matrix, some r => s1.modTile n fun t => { t with runs := t.runs.set st (some { r with queue := markIn uid r.queue }) }
  | _, _ => s1

/-- What every issue does besides the command's own part: the mark, the passed-over counts, may-vary and the trace. -/
def State.issued (s : State) (n : Nat) (e : Engine) (st : Stream) (x : Entry) (ready : List Stream) : State :=
  ((((s.markIssued n e st x.uid).progressed n (watchedQueue e st)).countPassed n e st ready).markVary n e st x).trace
    0x31 0 n e st x 0 0 0

/-- Every refusal at issue a command can meet, in order: opcode and payload, its completion signal, may-vary. -/
def State.issueBad (s : State) (n : Nat) (st : Stream) (x : Entry) (c : Cmd) : Option Bad :=
  orBad (c.bad s n st x) (orBad (s.signalBad n x) (s.varyBad n x))

/-- Ready under R64: its own condition, no earlier write of its queue outstanding on what it reads, room in its lock-step
sequence, which an item's command has none of (12 R387). -/
def State.cmdReady (s : State) (n : Nat) (e : Engine) (st : Stream) (x : Entry) (ahead : List Entry) (c : Cmd) : Bool :=
  c.settled s n st x && c.ready s n st x && !hazard ahead (c.reads s n st x) &&
    (!((s.queue n e st).entries.any fun y => y.uid = x.uid) || s.lockRoom n (3 * engineNo e + streamNo st) ahead x)

/-- Skip entries deliver the value 0 for every summary they owe (05 R179; 07 R244; 09 R310, R321). -/
def State.zeroSums (s : State) (n : Nat) (st : Stream) (entry : Nat) : State :=
  s.modThread n st fun t => { t with sums := t.sums.map fun y => if y.entry = entry then { y with value := some 0#32 } else y }

end Sys2Proof.Machine
end

