-- ==== Sys2Proof/Machine/Send.lean ====
section
/-!
DEFINITION. The sending side of the fabric: routes (spec/10 R340–R346), fabric windows (R347), requests with their request
IDs (R351), replies, and what a refusal does to the issuing stream (R338, R356).
-/
namespace Sys2Proof.Machine

/-! ## The torus (10 R340–R343) -/

/-- The size of dimension d (0 x, 1 y, 2 z) under torus_dims, and a device's coordinate in it. -/
def dimSize (dims : Word) (d : Nat) : Nat := bits dims.toNat (8 * d + 7) (8 * d) + 1
def coordOf (dims : Word) (dev d : Nat) : Nat :=
  match d with
  | 0 => dev % dimSize dims 0
  | 1 => dev / dimSize dims 0 % dimSize dims 1
  | _ => dev / (dimSize dims 0 * dimSize dims 1) % dimSize dims 2
/-- The dimensions a message is routed by: those the ports in service were trained with (10 R357), of the lowest-numbered one
where they differ (log 71). -/
def State.dims (s : State) : Word := (((List.range 12).find? s.portUp).map fun p => (s.port p).liveDims).getD 0

/-- From coordinate a to b in a ring of size n: whether in the + direction, and none where the dimension is done. -/
def ringWay (a b n : Nat) : Option Bool :=
  let d := (b + n - a) % n
  if d = 0 then none else some (decide (d ≤ n - d))
/-- The role of a port that faces the + or − direction of a dimension (10 R335). -/
def dirRole (d : Nat) (plus : Bool) : Nat := 2 * d + (if plus then 1 else 2)
/-- The ports of a role that are in FULL or HALF. -/
def State.dirPorts (s : State) (role : Nat) : List Nat :=
  (List.range 12).filter fun p => (s.port p).liveRole = role && s.portUp p
/-- The port a message leaves on where `ps` serve its direction. -/
def pickPort (ps : List Nat) (sdev tdev : Nat) : Option Nat :=
  match ps with
  | [] => none
  | [p] => some p
  | p :: q :: _ => some (if (sdev + tdev) % 2 = 0 then p else q)

/-- Where a message goes next: a port with the dateline class, and the message with its reversal bits. -/
structure Hop where
  port : Nat
  dl : Nat
  msg : Msg
deriving DecidableEq, Repr

def setRev (m : Msg) (d : Nat) (v : Bool) : Msg := { m with hdr := withField m.hdr (87 - d) 1 (b2n v) }
def revBit (m : Msg) (d : Nat) : Bool := bit m.hdr.toNat (87 - d)

/-- The hop in dimension d, from class `dl` (0 where the message only now enters the dimension). -/
def State.hopIn (s : State) (m : Msg) (d dl : Nat) : Option Hop :=
  let n := dimSize s.dims d
  let a := coordOf s.dims s.deviceNumber d
  let b := coordOf s.dims (mTdev m) d
  let go (plus : Bool) (cls : Nat) (m' : Msg) : Option Hop :=
    (pickPort (s.dirPorts (dirRole d plus)) (mSdev m) (mTdev m)).map fun p =>
      ⟨p, if (plus && a + 1 = n) || (!plus && a = 0) then 1 else cls, m'⟩
  if revBit m d then
    go (!(ringWay (coordOf s.dims (mSdev m) d) b n).getD true) dl m
  else
    let plus := (ringWay a b n).getD true
    match go plus dl m with
    | some h => some h
    | none => go (!plus) 0 (setRev m d true)

/-- The hop of a message for another device; `inDim` and `inDl` say in which dimension and class it came. -/
def State.hop (s : State) (m : Msg) (inDim : Option Nat) (inDl : Nat) : Option Hop :=
  if s.fabric.mode = 1 then
    let first := (mTdev m + mSdev m) % 12
    (((List.range 12).map fun i => (first + i) % 12).find? fun p => (s.port p).liveRole = 7 && s.portUp p).map
      fun p => ⟨p, 0, m⟩
  else
    match [0, 1, 2].find? fun d => coordOf s.dims s.deviceNumber d != coordOf s.dims (mTdev m) d with
    | none => none
    | some d =>
      let m' := ([0, 1, 2].take d).foldl (fun m k => setRev m k false) m
      s.hopIn m' d (if inDim = some d then inDl else 0)

/-- The port by which a request for another device leaves. -/
def State.portTo (s : State) (dev : Nat) : Option Nat :=
  (s.hop ⟨withField (withField 0#256 242 8 s.deviceNumber) 234 8 dev, []⟩ none 0).map (·.port)

def State.hopSend (s : State) (h : Hop) (holds : Option (Nat × Nat × Nat)) : State :=
  s.portSend h.port h.msg ((opChannel (mOp h.msg)).getD 3) h.dl (if s.fabric.mode = 1 then mTdev h.msg else 0) holds

/-! ## Replies (10 R337, R338) -/

/-- A reply to a request: the fields R337 copies, and the request's context and epoch, by which the source knows it (log 25). -/
def replyTo (m : Msg) (op status nbytes op0 op1 : Nat) (data : List Byte) : Msg :=
  ⟨msgHeader op (mTdev m) (mSdev m) (mCtx m) (mEpoch m) (mChan m) (mStream m) (mReqid m) (mAddr m) nbytes 0 0 status 0
    false 0 (mTag m) op0 op1, data⟩
def nakTo (m : Msg) (status op1 : Nat) : Msg := replyTo m 0x24 status 1 0 op1 []

/-- The halt reason of a reply status (10 R338). -/
def nakReason (status : Nat) : Option Nat :=
  match status with
  | 1 => some 0x31
  | 2 => some 0x22
  | 3 => some 0x20
  | 4 => some 0x15
  | 5 => some 0x20
  | 6 => some 0x11
  | 7 => some 0x31
  | 8 => some 0x31
  | _ => none

def nakDetail (status dev : Nat) : Nat := pack [(4, status), (8, dev), (18, 0)]
def fabricAddr (dev addr : Nat) : Nat := dev * 2 ^ 48 + addr

/-- The teardown alarm (10 R356; 13 R423 kind 0x0D). -/
def State.teardown (s : State) (c peer reason : Nat) : State :=
  s.alarm 0x0D 0x810 c (natLE 16 (pack [(8, c), (8, peer), (8, reason), (104, 0)]))

/-- A refusal from device `dev` reaches the stream that sent the request: it halts, and a cause of R356 raises the
teardown alarm. A request of the onboard service (engine 8) and an EPOCH (9) halt no stream. -/
def State.refuseRequest (s : State) (r : Request) (reason status dev : Nat) : State :=
  let s1 := if status = 0 ∨ status = 7 ∨ status = 8 then s.teardown (mCtx r.msg) (mTdev r.msg) reason else s
  if decide (8 ≤ r.engine) || (mCtx r.msg != 0 && s.owner r.tile != mCtx r.msg) then s1
  else s1.halt r.tile r.stream { reason := reason, unit := r.engine, tag := r.tag, chan := BitVec.ofNat 32 (mChan r.msg),
                                 address := fabricAddr (mTdev r.msg) (mAddr r.msg), detail := nakDetail status dev }

/-- A request is answered: it leaves the tracker. -/
def State.dropRequest (s : State) (uid : Nat) : State :=
  { s with fabric := { s.fabric with requests := s.fabric.requests.filter fun r => r.uid != uid } }

/-- A write of the tile is owed an acknowledgement; one of the mover's holds a place (08 R270; 09 R304). -/
def State.owe (s : State) (n uid entry : Nat) (st : Stream) (remote mover : Bool) : State :=
  s.modTile n fun t => { t with unacked := t.unacked ++ [⟨uid, entry, st, remote, mover⟩] }
/-- A write is owed no longer. -/
def State.repaid (s : State) (n uid : Nat) : State :=
  s.modTile n fun t => { t with unacked := t.unacked.filter fun u => u.uid != uid }
/-- A write of the tile's commands that `which` picks has not been acknowledged, or not even been sent. -/
def State.writesOwed (s : State) (n : Nat) (which : Stream → Nat → Bool → Bool) : Bool :=
  let isRemote (u : Unsent) : Bool := match u.what with
    | .ask _ => true
    | _ => false
  ((s.tile n).unacked.any fun u => which u.stream u.entry u.remote) ||
    (s.tile n).unsent.any fun u => which u.stream u.entry.uid (isRemote u)

/-! ## Sending -/

/-- No legal route (10 R344): an alarm names both devices, and the source is told with NAK status 7 unless the message is
itself a NAK; a NAK that finds no route is discarded. -/
def State.noRoute (s : State) (m : Msg) : State :=
  let s1 := s.alarm 0x0B 0x810 0 (natLE 16 (pack [(8, mSdev m), (8, mTdev m), (112, 0)]))
  if mOp m = 0x24 then s1
  else if mSdev m = s.deviceNumber then
    match s1.fabric.requests.find? fun r => r.msg = { m with hdr := withField m.hdr 85 3 0 } with
    | some r => ((s1.dropRequest r.uid).repaid r.tile r.uid).refuseRequest r 0x31 7 s.deviceNumber
    | none => s1
  else
    let nak := nakTo m 7 0
    match s1.hop nak none 0 with
    | some h => s1.hopSend h none
    | none => s1.alarm 0x0B 0x810 0 (natLE 16 (pack [(8, mSdev nak), (8, mTdev nak), (112, 0)]))

/-- A message put on its way (10 R341, R343, R344). -/
def State.route (s : State) (m : Msg) (inDim : Option Nat) (inDl : Nat) : State :=
  match s.hop m inDim inDl with
  | some h => s.hopSend h none
  | none => s.noRoute m

/-- The sequence a write-class message belongs to (10 R351). -/
def seqKey (r : Request) : Nat := 2 * mTdev r.msg + r.cls
/-- A write-class message may leave while its request ID is less than 1024 ahead of the oldest unanswered one. -/
def Fabric.mayLeave (f : Fabric) (r : Request) : Bool :=
  !r.write ||
  match f.requests.find? fun q => q.write && seqKey q = seqKey r with
  | some q => decide ((mReqid r.msg + 65536 - mReqid q.msg) % 65536 < 1024)
  | none => true

/-- A seam repeats a transfer on a request's way from its tile to the port it leaves by, or an earlier request of its sequence has not
left: nothing overtakes (01 R16). Requests of base camp and of the service complexes cross no seam (engines 8 and 9). -/
def State.leaveHeld (s : State) (r : Request) : Bool :=
  (decide (r.engine < 8) && (s.hop r.msg none 0).elim false fun h => s.wayHeld (.tile r.tile) (.port h.port)) ||
  (r.write && (s.fabric.requests.takeWhile (·.uid != r.uid)).any fun q => q.write && !q.sent && seqKey q = seqKey r)

/-- Every request that may leave and has not leaves now, in order. -/
def State.sendWaiting (s : State) : State :=
  s.fabric.requests.foldl (fun s r =>
    if r.sent || !s.fabric.mayLeave r || s.leaveHeld r then s
    else
      let s1 := { s with fabric := { s.fabric with requests := s.fabric.requests.map fun (q : Request) =>
        if q.uid = r.uid then { q with sent := true } else q } }
      s1.route r.msg none 0) s

/-- The window check at the source (10 R347): every request's target device and bytes lie in one window; a SIG, and an RDC, which
names elements and no byte address, are checked for their device only (log 69). Context 0 is not confined, as in R288 (log 26). -/
def windowFirst (w : BitVec 128) : Nat := bits w.toNat 127 120
def windowLast (w : BitVec 128) : Nat := bits w.toNat 119 112
def windowBase (w : BitVec 128) : Nat := bits w.toNat 111 64
def windowLen (w : BitVec 128) : Nat := bits w.toNat 63 36 * 4096
def inWindow (w : BitVec 128) (dev : Nat) (a : Nat × Nat) : Bool :=
  decide (0 < windowLen w) && decide (windowFirst w ≤ dev) && decide (dev ≤ windowLast w) &&
  decide (windowBase w ≤ a.1) && decide (a.1 + a.2 ≤ windowBase w + windowLen w)
def State.deviceWindow (s : State) (c dev : Nat) : Bool :=
  c = 0 || (s.ctx c).windows.any fun w =>
    decide (0 < windowLen w.2) && decide (windowFirst w.2 ≤ dev) && decide (dev ≤ windowLast w.2)
/-- The refusal of a command one of whose fabric requests, each an address and a length, fails the check: the first such. A
command with no byte address is checked for its device. -/
def State.windowBad (s : State) (c dev : Nat) (requests : List (Nat × Nat)) : Option Bad :=
  let out (a : Nat) : Bad := ⟨0x31, nakDetail 1 s.deviceNumber, fabricAddr dev a⟩
  if requests.isEmpty then (if s.deviceWindow c dev then none else some (out 0))
  else (requests.find? fun a => !(c = 0 || (s.ctx c).windows.any fun w => inWindow w.2 dev a)).map fun a => out a.1

def isWriteOp (op : Nat) : Bool := decide (2 ≤ op) && decide (op ≤ 6)

/-- A request made by a command of a tile: it takes the next request ID of its sequence (reads have a count of their own,
R351), is tracked, and leaves as soon as it may. Writes count for fences until their reply comes (08 R270). -/
def State.request (s : State) (n : Nat) (e : Engine) (st : Stream) (x : Entry) (uid : Nat) (a : Ask) : State :=
  let c := s.actor n x
  let f := s.fabric
  let cls := if a.op = 6 then 1 else 0
  let key := 2 * a.dev + cls
  let id := if isWriteOp a.op then tget 0 key f.nextId else tget 0 a.dev f.readId
  let m : Msg := ⟨msgHeader a.op s.deviceNumber a.dev c (s.ctx c).epoch x.chan.toNat (streamNo st) id a.addr a.nbytes a.aop
    a.atype 0 a.rid a.absent 0 (wTag x.word) a.op0 a.op1, a.data⟩
  let r : Request := { uid := uid, msg := m, cls := cls, write := isWriteOp a.op, tile := n, stream := st,
                       engine := engineNo e, entry := x.uid, tag := wTag x.word }
  let next := (id + 1) % 65536
  let s1 := { s with fabric := { f with
    requests := f.requests ++ [r]
    nextId := if isWriteOp a.op then tset key next f.nextId else f.nextId
    readId := if isWriteOp a.op then f.readId else tset a.dev next f.readId
    asked := tset c (if (tget [] c f.asked).contains a.dev then tget [] c f.asked else a.dev :: tget [] c f.asked) f.asked } }
  let s2 := if isWriteOp a.op then s1.owe n uid x.uid st true (e = .mover && !(a.op = 0x03)) else s1
  s2.sendWaiting

/-! ## Requests to the own device -/

/-- The pieces of a byte range: at most 256 B each, none across a 256 B boundary of its address. -/
def cutRange : Nat → Nat → Nat → List Range
  | 0, _, _ => []
  | k + 1, a, len =>
    if len = 0 then []
    else let step := min len (256 - a % 256); ⟨a, step⟩ :: cutRange k (a + step) (len - step)
def pieceRanges (a len : Nat) : List Range := cutRange (len / 256 + 2) a len
/-- The requests that a transfer of some ranges takes. -/
def requestSpans (rs : List Range) : List (Nat × Nat) := (rs.flatMap fun r => pieceRanges r.base r.len).map fun r => (r.base, r.len)

/-- A packet of a command on a mesh. -/
def State.cmdSend (s : State) (n : Nat) (e : Engine) (st : Stream) (x : Entry) (dst : Place) (b : Body) : State :=
  s.send { uid := 0, ctx := s.actor n x, epoch := 0, chan := x.chan, src := .tile n, dst := dst, stream := st,
           engine := engineNo e, tag := wTag x.word, entry := x.uid, mayVary := wMayVary x.word && !x.skip, det := x.det, body := b }

/-- A packet that writes at another unit of the own device: sent, and owed until acknowledged (08 R270). -/
def State.oweSend (s : State) (n : Nat) (e : Engine) (st : Stream) (x : Entry) (dst : Place) (b : Nat → Body) : State :=
  let u := s.fresh
  (u.2.owe n u.1 x.uid st false (e = .mover)).cmdSend n e st x dst (b u.1)

/-- A row of the route unit, acknowledged by the tile it is written in under the packet's own name (08 R270; 09 R522). -/
def State.rowSend (s : State) (n : Nat) (st : Stream) (x : Entry) (dst : Place) (b : Body) : State :=
  (s.owe n s.nextUid x.uid st false false).cmdSend n .route st x dst b

/-- A read piece sent: to its home on the own device, or over the fabric. -/
def State.pieceSend (s : State) (n : Nat) (e : Engine) (st : Stream) (x : Entry) (p : Piece) : State :=
  if p.dev != s.deviceNumber then s.request n e st x p.uid { op := 0x01, dev := p.dev, addr := p.addr, nbytes := p.len }
  else s.cmdSend n e st x (s.homePlace p.addr) (.readReq p.addr p.len p.uid)

/-! ## The mover's 64 places (09 R304) -/

def Piece.open (p : Piece) : Bool := p.sent && p.data.isNone
def openPieces (ps : List Piece) : Nat := (ps.filter Piece.open).length
/-- Requests a tile's mover has outstanding: reads without their bytes, returning atomics, writes not acknowledged. -/
def State.moverOut (s : State) (n : Nat) : Nat :=
  let t := s.tile n
  let ofEntries (l : List Entry) : Nat := l.foldl (fun k (x : Entry) => k + openPieces x.pieces + x.awaits.length) 0
  ([t.queues.mover, t.queues.route].foldl (fun k q => k + (q.list.foldl (fun k q => k + ofEntries q.entries) 0)) 0) +
    (t.runs.list.foldl (fun k r => match r with
      | some (r : ListRun) => k + r.items.foldl (fun k (i : Item) => k + openPieces i.pieces) 0
      | none => k) 0) + (t.unacked.filter (·.mover)).length
/-- The mover has a place for one request more, and none waits for it. -/
def State.moverFree (s : State) (n : Nat) : Bool := decide (s.moverOut n < 64) && (s.tile n).unsent.isEmpty

/-- A request that has a place leaves. -/
def State.sendOne (s : State) (n : Nat) (u : Unsent) : State :=
  match u.what with
  | .store a bytes => s.oweSend n .mover u.stream u.entry (s.homePlace a) (.writeReq a bytes)
  | .core t bank off bytes => s.oweSend n .mover u.stream u.entry (.tile t) (.coreWrite bank off bytes)
  | .ask a => let id := s.fresh; id.2.request n .mover u.stream u.entry id.1 a
/-- As many of the waiting requests leave, in their order, as have a place. -/
def State.pumpUnsent (s : State) (n : Nat) : State :=
  let room := 64 - s.moverOut n
  ((s.tile n).unsent.take room).foldl (fun s u => s.sendOne n u)
    (s.modTile n fun t => { t with unsent := t.unsent.drop room })
def State.moverSend (s : State) (n : Nat) (us : List Unsent) : State :=
  (s.modTile n fun t => { t with unsent := t.unsent ++ us }).pumpUnsent n

/-- The parts of a write that leave by requests, at most 256 B each; on the own device those of the executing tile's own
store do not. -/
def State.outParts (s : State) (n dev a : Nat) (bytes : List Byte) : List (Nat × List Byte) :=
  ((pieceRanges a bytes.length).filter fun r => dev != s.deviceNumber || s.homePlace r.base != .tile n).map fun r =>
    (r.base, (bytes.drop (r.base - a)).take r.len)
/-- The parts of a write that stay in the executing tile's own store. -/
def State.ownParts (s : State) (n dev a : Nat) (bytes : List Byte) : List (Nat × List Byte) :=
  ((pieceRanges a bytes.length).filter fun r => !(dev != s.deviceNumber || s.homePlace r.base != .tile n)).map fun r =>
    (r.base, (bytes.drop (r.base - a)).take r.len)
def writeAsk (dev : Nat) (p : Nat × List Byte) : Ask := { op := 0x02, dev := dev, addr := p.1, nbytes := p.2.length, data := p.2 }
/-- A write's requests as the mover sends them. -/
def State.moverParts (s : State) (n : Nat) (st : Stream) (x : Entry) (dev a : Nat) (bytes : List Byte) : List Unsent :=
  (s.outParts n dev a bytes).map fun p => ⟨x, st, if dev != s.deviceNumber then .ask (writeAsk dev p) else .store p.1 p.2⟩

/-- Bytes written by a command: into its own store at once, elsewhere on the device or over the fabric by requests, the
mover's as its 64 places allow. -/
def State.storeTo (s : State) (n : Nat) (e : Engine) (st : Stream) (x : Entry) (dev a : Nat) (bytes : List Byte) : State :=
  let w : Writer := { ctx := s.actor n x, tile := some n, stream := st }
  let s1 := (s.ownParts n dev a bytes).foldl (fun s p => s.writeChecked (.command n st (entryHalt e x)) w p.1 p.2) s
  if e = .mover then s1.moverSend n (s.moverParts n st x dev a bytes)
  else (s.outParts n dev a bytes).foldl (fun s p =>
    if dev != s.deviceNumber then let u := s.fresh; u.2.request n e st x u.1 (writeAsk dev p)
    else s.oweSend n e st x (s.homePlace p.1) (.writeReq p.1 p.2)) s1

/-- The first `room` pieces not yet sent, marked as sent. -/
def sendSome : Nat → List Piece → List Piece × List Piece
  | _, [] => ([], [])
  | 0, ps => (ps, [])
  | room + 1, p :: ps =>
    if p.sent then let r := sendSome (room + 1) ps; (p :: r.1, r.2)
    else let r := sendSome room ps; ({ p with sent := true } :: r.1, p :: r.2)

/-- Pieces of ranges to be read by a command, named in order; those of the executing tile's own store come at once. -/
def State.makePieces (s : State) (n dev : Nat) (rs : List Range) : State × List Piece :=
  rs.foldl (fun acc r =>
    let u := acc.1.fresh
    let own := dev = s.deviceNumber ∧ s.homePlace r.base = .tile n
    (u.2, acc.2 ++ [{ uid := u.1, dev := dev, addr := r.base, len := r.len, sent := decide own,
                      data := if own then some (s.loadBytes r.base r.len) else none }])) (s, [])

/-- More of an entry's pieces sent as room allows. -/
def State.pumpEntry (s : State) (n : Nat) (e : Engine) (st : Stream) (x : Entry) : State :=
  let r := sendSome (64 - s.moverOut n) x.pieces
  r.2.foldl (fun s p => s.pieceSend n e st x p) (s.setEntry n e st { x with pieces := r.1 })

/-- Reads of the mover's and the route unit's commands, and then the mover's writes, go on as places become free. -/
def State.pumpEntries (s : State) (n : Nat) : State :=
  ([Engine.mover, Engine.route].flatMap fun e => allStreams.flatMap fun st =>
    ((s.queue n e st).entries.filter fun x => x.issued && x.pieces.any fun p => !p.sent).map fun x => (e, st, x)).foldl
    (fun s p => s.pumpEntry n p.1 p.2.1 p.2.2) s

def piecesThere (ps : List Piece) : Bool := ps.all fun p => p.data.isSome
def piecesBytes (ps : List Piece) : List Byte := ps.flatMap fun p => p.data.getD []
def fillPieces (uid : Nat) (bytes : List Byte) (ps : List Piece) : List Piece :=
  ps.map fun p => if p.uid = uid then { p with data := some bytes } else p

end Sys2Proof.Machine
end

