-- ==== Sys2Proof/Machine/Arrive.lean ====
section
/-!
DEFINITION. What every arrival of a packet shares (spec/13 R407, R410): drops of late results, answers of a quarantined tile's
router island, and replies.
-/
namespace Sys2Proof.Machine

/-- The request a packet's answer names, for packets that expect an answer. -/
def askUid : Body → Option Nat
  | .readReq _ _ u => some u
  | .writeReq _ _ u => some u
  | .coreWrite _ _ _ u => some u
  | .reserve .. => some 0
  | .itemAsk .. => some 0
  | .poolGet .. => some 0
  | .poolPut .. => some 0
  | .rwRegister .. => some 0
  | .set .. => some 0
  | _ => none

/-- A packet sent back to where one came from, carrying what that one carried. -/
def State.reply (s : State) (p : Packet) (b : Body) : State :=
  s.send { uid := 0, ctx := p.ctx, epoch := 0, chan := p.chan, src := p.dst, dst := p.src, stream := p.stream,
           engine := p.engine, tag := p.tag, entry := p.entry, body := b }

/-- The router island of a quarantined tile refuses what expects an answer and drops the rest. -/
def State.atQuarantined (s : State) (p : Packet) (n : Nat) : State :=
  match askUid p.body with
  | some u => s.reply p (.refusal u ⟨0x25, 0, detailTile n⟩)
  | none => s.countDrop

def isDie : Place → Bool
  | .die _ => true
  | _ => false

/-- The packet at place k of those in flight arrives, if it is of the kind wanted and nothing must arrive before it. -/
def onPacket (k : Nat) (s : State) (want : Packet → Bool) (f : Packet → State → State) : Result :=
  match s.arrival k with
  | none => .next s
  | some p =>
    if !(s.serving || (isDie p.dst && s.homesRun)) || !want p then .next s
    else
      let s1 := s.consume k
      if s1.stale p then .next s1.countDrop
      else
        match p.dst with
        | .tile n => if (s.tile n).faulty then .next (s1.atQuarantined p n) else .next (f p s1)
        | _ => .next (f p s1)

/-- The tile a packet goes to. -/
def Packet.at (p : Packet) : Nat :=
  match p.dst with
  | .tile n => n
  | _ => 0
/-- The tile a packet came from. -/
def Packet.from (p : Packet) : Nat :=
  match p.src with
  | .tile n => n
  | _ => 0

/-- The halt of the stream whose command a packet carries. -/
def Packet.halt (p : Packet) : Halt := { reason := 0x50, unit := p.engine, tag := p.tag, chan := p.chan }

/-- An uncorrectable block in what a tile's command reads: the error, and no answer. -/
def State.ueFor (s : State) (p : Packet) (a : Nat) : State :=
  s.ueError (.command p.from p.stream p.halt) a (s.dataOwner a) (whereCode (s.place a))

/-- Who writes by a packet. -/
def Packet.writer (p : Packet) : Writer := { ctx := p.ctx, tile := some p.from, stream := p.stream }
/-- What a packet writes finds room in the snapshots' reserve; without it the packet waits (06 R216). -/
def State.landRoom (s : State) (p : Packet) (rs : List Range) : Bool := s.stale p || s.reserveFor p.writer rs
/-- The device memory a store request writes. -/
def storeRanges : Body → List Range
  | .writeReq a bs _ => [⟨a, bs.length⟩]
  | _ => []

end Sys2Proof.Machine
end

