-- ==== Sys2Proof/Machine/Trans.lean ====
section
/-!
DEFINITION. The transcendental operations, correctly rounded (spec/05 R172, R173; spec/06 R189). Each is bounded below
and above by exact interval arithmetic on integers scaled by 2^p; where both bounds round to one FP32 value that value
is the result, and otherwise p is doubled (log 14).
-/
namespace Sys2Proof.Machine

/-- An interval [lo, hi] of reals, scaled by 2^p. -/
structure Iv where
  lo : Int
  hi : Int
deriving DecidableEq, Repr

namespace Iv

def ofInt (p : Nat) (i : Int) : Iv := ⟨shlInt i p, shlInt i p⟩
/-- Floor and ceiling of i / 2^n. -/
def floorSh (i : Int) (n : Nat) : Int := i / (2 ^ n : Nat)
def ceilSh (i : Int) (n : Nat) : Int := -((-i) / (2 ^ n : Nat))
/-- The interval of an exact finite value. -/
def ofDyadic (p : Nat) (i e : Int) : Iv :=
  let s := e + (p : Int)
  if 0 ≤ s then ⟨shlInt i s.toNat, shlInt i s.toNat⟩ else ⟨floorSh i (-s).toNat, ceilSh i (-s).toNat⟩
def add (a b : Iv) : Iv := ⟨a.lo + b.lo, a.hi + b.hi⟩
def neg (a : Iv) : Iv := ⟨-a.hi, -a.lo⟩
def sub (a b : Iv) : Iv := add a (neg b)
def mul (p : Nat) (a b : Iv) : Iv :=
  let c := [a.lo * b.lo, a.lo * b.hi, a.hi * b.lo, a.hi * b.hi]
  let lo := c.foldl Min.min (a.lo * b.lo)
  let hi := c.foldl Max.max (a.lo * b.lo)
  ⟨floorSh lo p, ceilSh hi p⟩
/-- a / b for an interval b of positive values. -/
def div (p : Nat) (a b : Iv) : Iv :=
  let q (x y : Int) : Int := if y ≤ 0 then 0 else x / y
  let lo := if 0 ≤ a.lo then q (shlInt a.lo p) b.hi else q (shlInt a.lo p) b.lo
  let hi := if 0 ≤ a.hi then q (shlInt a.hi p) b.lo + 1 else q (shlInt a.hi p) b.hi + 1
  ⟨lo, hi⟩
/-- Division by a positive natural. -/
def divNat (a : Iv) (n : Nat) : Iv := ⟨a.lo / (n : Int), -((-a.hi) / (n : Int))⟩
def mulNat (a : Iv) (n : Nat) : Iv := ⟨a.lo * n, a.hi * n⟩
/-- √ of an interval of non-negative values. -/
def sqrt (p : Nat) (a : Iv) : Iv := ⟨(isqrt (a.lo.toNat <<< p) : Int), (isqrt (a.hi.toNat <<< p) : Int) + 1⟩

/-- Σ term_k with term_{k+1} = term_k × x / (k+1), for |x| ≤ 1/2: e^x; the tail is below the last term. -/
def expGo (p : Nat) (x : Iv) : Nat → Nat → Iv → Iv → Iv
  | 0, _, t, s => ⟨s.lo - t.hi.natAbs - t.lo.natAbs, s.hi + t.hi.natAbs + t.lo.natAbs⟩
  | n + 1, k, t, s => let t' := divNat (mul p t x) k; expGo p x n (k + 1) t' (add s t')
def sqGo (p : Nat) : Nat → Iv → Iv
  | 0, a => a
  | n + 1, a => sqGo p n (mul p a a)
/-- e^x for |x| < 512: e^(x / 2^12) squared twelve times. -/
def exp (p : Nat) (x : Iv) : Iv :=
  let y : Iv := ⟨floorSh x.lo 12, ceilSh x.hi 12⟩
  sqGo p 12 (expGo p y (p / 4 + 8) 1 (ofInt p 1) (ofInt p 1))

/-- Σ ±^k t^(2k+1) / (2k+1) for 0 ≤ t ≤ 1/3: artanh (alt = false) or arctan (alt = true). -/
def atGo (p : Nat) (alt : Bool) (t2 : Iv) : Nat → Nat → Iv → Iv → Iv
  | 0, _, t, s => ⟨s.lo - t.hi.natAbs - t.lo.natAbs, s.hi + t.hi.natAbs + t.lo.natAbs⟩
  | n + 1, k, t, s =>
    let t' := mul p t t2
    let u := divNat t' (2 * k + 1)
    atGo p alt t2 n (k + 1) t' (if alt && k % 2 = 1 then sub s u else add s u)
def at' (p : Nat) (alt : Bool) (t : Iv) : Iv := atGo p alt (mul p t t) (p / 3 + 8) 1 t t

def ln2 (p : Nat) : Iv := mulNat (at' p false (divNat (ofInt p 1) 3)) 2
def pi (p : Nat) : Iv :=
  sub (mulNat (at' p true (divNat (ofInt p 1) 5)) 16) (mulNat (at' p true (divNat (ofInt p 1) 239)) 4)
/-- ln m for 1 ≤ m ≤ 2. -/
def ln (p : Nat) (m : Iv) : Iv :=
  let one := ofInt p 1
  mulNat (at' p false (div p (sub m one) (add m one))) 2

/-- φ(z), the standard normal density. -/
def phi (p : Nat) (z : Iv) : Iv :=
  div p (exp p (neg (divNat (mul p z z) 2))) (sqrt p (mulNat (pi p) 2))
/-- Σ z^(2k+1) / (1·3·5 … (2k+1)); for |z| ≤ 16 the tail after p + 600 terms is below the last. -/
def oddGo (p : Nat) (z2 : Iv) : Nat → Nat → Iv → Iv → Iv
  | 0, _, t, s => ⟨s.lo - t.hi.natAbs - t.lo.natAbs, s.hi + t.hi.natAbs + t.lo.natAbs⟩
  | n + 1, k, t, s => let t' := divNat (mul p t z2) (2 * k + 1); oddGo p z2 n (k + 1) t' (add s t')
/-- Φ(z) for |z| ≤ 16. -/
def cdf (p : Nat) (z : Iv) : Iv :=
  add (divNat (ofInt p 1) 2) (mul p (phi p z) (oddGo p (mul p z z) (p + 600) 1 z z))

end Iv

/-- A scaled bound rounded to FP32. -/
def roundBound (p : Nat) (i : Int) : Word := toF32 (Num.ofInt i (-(p : Int)))

/-- The value both bounds of f round to, at p, 2p, 4p …; the last bound's value where the fuel ends. -/
def refine (f : Nat → Iv) : Nat → Nat → Word
  | 0, p => roundBound p (f p).lo
  | n + 1, p =>
    let v := f p
    if v.lo ≠ 0 ∧ v.hi ≠ 0 ∧ roundBound p v.lo = roundBound p v.hi then roundBound p v.lo else refine f n (2 * p)

def correctly (f : Nat → Iv) : Word := refine f 3 320

/-- |x| ≥ n for a finite x. -/
def magGe (x : Num) (n : Nat) : Bool := Num.le (.fin false n 0) x.abs

/-- e^a. -/
def f32exp (w : Word) : Word :=
  match f32 w with
  | .nan => f32nan
  | .inf s => if s then f32zero else w
  | .fin s m e =>
    if m = 0 then f32one
    else if magGe (.fin s m e) 256 then (if s then f32zero else 0x7F800000#32)
    else correctly fun p => Iv.exp p (Iv.ofDyadic p (Num.fin s m e).int e)

/-- 2^a. -/
def f32exp2 (w : Word) : Word :=
  match f32 w with
  | .nan => f32nan
  | .inf s => if s then f32zero else w
  | .fin s m e =>
    if m = 0 then f32one
    else if magGe (.fin s m e) 256 then (if s then f32zero else 0x7F800000#32)
    else if 0 ≤ e ∨ m % 2 ^ (-e).toNat = 0 then
      let k := if 0 ≤ e then m <<< e.toNat else m >>> (-e).toNat
      toF32 (.fin false 1 (if s then -(k : Int) else (k : Int)))
    else correctly fun p => Iv.exp p (Iv.mul p (Iv.ofDyadic p (Num.fin s m e).int e) (Iv.ln2 p))

/-- log₂ a. -/
def f32log2 (w : Word) : Word :=
  match f32 w with
  | .nan => f32nan
  | .inf s => if s then f32nan else w
  | .fin s m e =>
    if m = 0 then 0xFF800000#32
    else if s then f32nan
    else
      let l := Nat.log2 m
      if m = 2 ^ l then toF32 (Num.ofInt ((l : Int) + e) 0)
      else correctly fun p =>
        Iv.add (Iv.ofInt p ((l : Int) + e)) (Iv.div p (Iv.ln p (Iv.ofDyadic p m (-(l : Int)))) (Iv.ln2 p))

/-- tanh a. -/
def f32tanh (w : Word) : Word :=
  match f32 w with
  | .nan => f32nan
  | .inf s => if s then 0xBF800000#32 else f32one
  | .fin s m e =>
    if m = 0 then w
    else if magGe (.fin s m e) 128 then (if s then 0xBF800000#32 else f32one)
    else correctly fun p =>
      let x := Iv.exp p (Iv.ofDyadic p (Num.fin s m e).int (e + 1))
      Iv.div p (Iv.sub x (Iv.ofInt p 1)) (Iv.add x (Iv.ofInt p 1))

/-- The bounds of σ(z) = 1 / (1 + e^−z). -/
def sigmIv (p : Nat) (z : Iv) : Iv := Iv.div p (Iv.ofInt p 1) (Iv.add (Iv.ofInt p 1) (Iv.exp p (Iv.neg z)))

/-- 1 / (1 + e^−a): 1.0 at +∞ and +0 at −∞ (05 R173). -/
def f32sigm (w : Word) : Word :=
  match f32 w with
  | .nan => f32nan
  | .inf s => if s then f32zero else f32one
  | .fin s m e =>
    if m = 0 then 0x3F000000#32
    else if magGe (.fin s m e) 256 then (if s then f32zero else f32one)
    else correctly fun p => sigmIv p (Iv.ofDyadic p (Num.fin s m e).int e)

/-- GELU′: Φ(z) + z·φ(z) (06 R189). Beyond |z| = 16 the exact value lies within 2⁻¹⁶⁰ of 0 (from below) or of 1. -/
def geluDeriv (z : Num) : Word :=
  match z with
  | .nan => f32nan
  | .inf s => if s then f32zero else f32one
  | .fin s m e =>
    if m = 0 then 0x3F000000#32
    else if magGe z 16 then (if s then 0x80000000#32 else f32one)
    else correctly fun p =>
      let x := Iv.ofDyadic p (Num.fin s m e).int e
      Iv.add (Iv.cdf p x) (Iv.mul p x (Iv.phi p x))

/-- SiLU′: σ(z)·(1 + z·(1 − σ(z))) (06 R189). -/
def siluDeriv (z : Num) : Word :=
  match z with
  | .nan => f32nan
  | .inf s => if s then f32zero else f32one
  | .fin s m e =>
    if m = 0 then 0x3F000000#32
    else if magGe z 256 then (if s then 0x80000000#32 else f32one)
    else correctly fun p =>
      let x := Iv.ofDyadic p (Num.fin s m e).int e
      let g := sigmIv p x
      Iv.mul p g (Iv.add (Iv.ofInt p 1) (Iv.mul p x (Iv.sub (Iv.ofInt p 1) g)))

end Sys2Proof.Machine
end

