-- ==== Sys2Proof/Machine/Programs.lean ====
section
/-!
DEFINITION. Element programs (spec/05 R169–R174): their instructions, the checks of EPLOAD, and one run on one element.
-/
namespace Sys2Proof.Machine

/-- How many of the operands a, b, c an operation reads; none for an op value that is refused (05 R172). -/
def epArity (op : Nat) : Option Nat :=
  match op with
  | 0x00 => some 1 | 0x01 => some 2 | 0x02 => some 2 | 0x03 => some 2 | 0x04 => some 3 | 0x05 => some 2 | 0x06 => some 2
  | 0x07 => some 1 | 0x08 => some 1 | 0x09 => some 1 | 0x0A => some 1 | 0x0B => some 1 | 0x0C => some 1 | 0x0D => some 1
  | 0x0E => some 1 | 0x0F => some 1 | 0x10 => some 1 | 0x11 => some 2 | 0x14 => some 2 | 0x15 => some 2 | 0x16 => some 2
  | 0x17 => some 3 | 0x18 => some 1 | 0x19 => some 1 | 0x20 => some 2 | 0x21 => some 2 | 0x22 => some 2 | 0x23 => some 2
  | 0x24 => some 2 | 0x25 => some 2 | 0x26 => some 2 | 0x27 => some 2 | 0x28 => some 2 | 0x29 => some 2 | 0x2A => some 2
  | 0x2B => some 1 | 0x2C => some 1 | 0x30 => some 0 | 0x31 => some 0
  | _ => none

def epOp (w : Nat) : Nat := bits w 31 26
def epA (w : Nat) : Nat := bits w 22 17
def epB (w : Nat) : Nat := bits w 16 11
def epC (w : Nat) : Nat := bits w 10 5

def epOperandBad (code : Nat) : Bool := decide (0x16 ≤ code) && decide (code < 0x20)

/-- The lowest bit position of the field at fault of an instruction, if any (05 R171, R172). -/
def epBad (w : Nat) : Option Nat :=
  match epArity (epOp w) with
  | none => some 26
  | some n =>
    if bits w 4 0 != 0 then some 0
    else if n < 3 ∧ epC w != 0 then some 5
    else if n < 2 ∧ epB w != 0 then some 11
    else if n < 1 ∧ epA w != 0 then some 17
    else if 2 < n ∧ epOperandBad (epC w) then some 5
    else if 1 < n ∧ epOperandBad (epB w) then some 11
    else if 0 < n ∧ epOperandBad (epA w) then some 17
    else none

/-- The program reads a register, S0 or S1, or draws (05 R182, 06 R205). -/
def epImpure (w : Nat) : Bool :=
  let used := match epArity (epOp w) with
    | some n => [epA w, epB w, epC w].take n
    | none => []
  0x30 ≤ epOp w || used.any fun c => c = 0x10 || c = 0x11 || decide (0x20 ≤ c)
def Program.impure (p : Program) : Bool := p.instrs.any fun i => epImpure i.toNat

/-- Where one element stands: position, captures, registers, and the draw of R174. -/
structure ElemEnv where
  r : Nat
  c : Nat
  s0 : Word := 0
  s1 : Word := 0
  reg : Nat → Word := fun _ => 0
  draw : Nat := 0

def epOperand (p : Program) (env : ElemEnv) (t : List Word) (code : Nat) : Word :=
  if code < 8 then lget t code 0#32
  else if code < 0x10 then lget p.consts (code - 8) 0#32
  else if code = 0x10 then env.s0
  else if code = 0x11 then env.s1
  else if code = 0x12 then BitVec.ofNat 32 env.r
  else if code = 0x13 then BitVec.ofNat 32 env.c
  else if code = 0x15 then f32one
  else if 0x20 ≤ code then env.reg (code - 0x20)
  else 0#32

/-- One operation (05 R172, R173). -/
def epEval (op : Nat) (a b c : Word) (draw : Nat) : Word :=
  match op with
  | 0x00 => a
  | 0x01 => f32add a b
  | 0x02 => f32sub a b
  | 0x03 => f32mul a b
  | 0x04 => f32fma a b c
  | 0x05 => f32min a b
  | 0x06 => f32max a b
  | 0x07 => toF32 (f32 a).abs
  | 0x08 => f32neg a
  | 0x09 => f32div f32one a
  | 0x0A => f32sqrt a
  | 0x0B => f32rsqrt a
  | 0x0C => f32exp2 a
  | 0x0D => f32log2 a
  | 0x0E => f32exp a
  | 0x0F => f32tanh a
  | 0x10 => f32sigm a
  | 0x11 => f32div a b
  | 0x14 => if Num.lt (f32 a) (f32 b) then f32one else 0
  | 0x15 => if Num.le (f32 a) (f32 b) then f32one else 0
  | 0x16 => if Num.eqv (f32 a) (f32 b) then f32one else 0
  | 0x17 => if c = 0#32 ∨ c = 0x80000000#32 then b else a
  | 0x18 => f32floor a
  | 0x19 => f32rnde a
  | 0x20 => a + b
  | 0x21 => a - b
  | 0x22 => a * b
  | 0x23 => a &&& b
  | 0x24 => a ||| b
  | 0x25 => a ^^^ b
  | 0x26 => a <<< (b.toNat % 32)
  | 0x27 => a >>> (b.toNat % 32)
  | 0x28 => a.sshiftRight (b.toNat % 32)
  | 0x29 => if a.slt b then 1 else 0
  | 0x2A => if a.ult b then 1 else 0
  | 0x2B => f2i a
  | 0x2C => i2f a
  | 0x30 => BitVec.ofNat 32 draw
  | _ => toF32 (.fin false (draw >>> 8) (-24))

/-- A program run from given temporaries e0–e7. -/
def epRun (p : Program) (env : ElemEnv) (init : List Word) : List Word :=
  p.instrs.foldl (fun t i =>
    let w := i.toNat
    let v := epEval (epOp w) (epOperand p env t (epA w)) (epOperand p env t (epB w)) (epOperand p env t (epC w)) env.draw
    lset t (bits w 25 23) v) init
def epStart (e0 e1 : Word) : List Word := [e0, e1, 0, 0, 0, 0, 0, 0]

def State.program (s : State) (n slot : Nat) : Option Program := tfind slot (s.tile n).vec.slots

/-- An EPLOAD of the slot has issued and not completed on the tile (05 R170). -/
def State.slotLoading (s : State) (n slot : Nat) : Bool :=
  allStreams.any fun st => (s.queue n .vector st).entries.any fun x =>
    x.issued && !x.skip && x.op = 0x03 && x.pl 55 52 = slot
def State.drainDesc (s : State) (n : Nat) (st : Stream) (k : Nat) : BitVec 256 :=
  tget (BitVec.ofNat 256 (0x3F800000 * 2 ^ 224)) (16 * streamNo st + k) (s.tile n).drainDescs
def ddAct (d : BitVec 256) : Nat := bits d.toNat 221 219
def ddEprog (d : BitVec 256) : Nat := bits d.toNat 214 211

/-- The commands of a stream that name the matrix engine: its own queue's and its item queue's. -/
def State.matrixEntries (s : State) (n : Nat) (st : Stream) : List Entry :=
  (s.queue n .matrix st).entries ++ ((s.tile n).runs.get st).elim [] (·.queue)

/-- Some issued command of the tile uses the slot: EPROG, EPSTRM, an MDRAIN with act 5, an OPTSTEP with algo 3; or a lane
reservation is held for it. -/
def State.slotUsed (s : State) (n slot : Nat) : Bool :=
  allStreams.any fun st =>
    ((s.queue n .vector st).entries.any fun x => x.issued && !x.skip && (x.op = 0x04 || x.op = 0x05) && x.pl 55 52 = slot) ||
    ((s.matrixEntries n st).any fun x =>
      let d := s.drainDesc n st (x.pl 46 43)
      !x.skip && x.op = 0x02 && ddAct d = 5 && ddEprog d = slot &&
        (x.issued || (s.tile n).vec.lanes = some (x.pl 55 54))) ||
    ((s.queue n .mover st).entries.any fun x =>
      let d := tget (0 : BitVec 512) (x.pl 55 53) (s.tile n).optDescs
      x.issued && !x.skip && x.op = 0x41 && bits d.toNat 511 509 = 3 && bits d.toNat 505 502 = slot)

end Sys2Proof.Machine
end

