-- ==== Sys2Proof/Machine/Vector.lean ====
section
/-!
DEFINITION. The vector engine's commands (spec/05): VLD, VST, EPLOAD, EPROG, EPSTRM, VRED, VSUM, VSEED. Each reads at issue
and changes the tile as it completes (log 8).
-/
namespace Sys2Proof.Machine

/-- The command with its effects, the ranges they write, and its minimum latency, put back into its queue as issued. -/
def Entry.start (x : Entry) (latency : Nat) (effects : List Effect) : Entry :=
  { x with latency := latency, effects := effects,
           writes := effects.filterMap fun f => match f with
             | .store a bytes => some ⟨a, bytes.length⟩
             | .amax a _ => some ⟨a, 4⟩
             | _ => none }

/-- A tile-store range named by a register capture is misaligned or leaves the store (03 R99). -/
def spanBad (a align len : Nat) : Bool := a % align != 0 || decide (tileStoreBytes < a + len)

/-- The checks of a tile-store operand of `len` bytes at `a`: its address alone is named by its own field; where it begins in
the store and runs past the end, its length is concerned too, and `low` is the lowest payload bit of the fields that give it
(03 R99, R100; log 58). -/
def Entry.spanChecks (x : Entry) (field low a align len : Nat) : List (Bool × Bad) :=
  [(spanBad a align 1, x.badField field), (decide (tileStoreBytes < a + len), x.badField low)]

/-- Rows of a tile-store operand as device ranges. -/
def rowRanges (n base stride len rows : Nat) : List Range :=
  (List.range rows).map fun i => ⟨tileBase n + base + i * stride, len⟩

def isZb (c : Nat) : Bool := c = 0xA || c = 0xB

/-- Bytes of one stored row of a register or pair (05 R168). -/
def vRowBytes (c : Nat) : Nat := if isMx c then rowBytes c 32 + 1 else rowBytes c 16
def vStride (x : Entry) : Nat := (x.pl 46 38 + 1) * 16
def vBytes (c : Nat) : Nat := if isZb c then 256 + 8 else 16 * vRowBytes c
def cdiv (a b : Nat) : Nat := (a + b - 1) / b

/-- The checks VLD and VST share (05 R167, R168). -/
def vmemBad (x : Entry) : Option Bad :=
  let c := x.pl 50 47
  firstBad ([
    (decide (0xD ≤ c), x.badField 47),
    (isMx c && x.pl 55 51 % 2 != 0, x.badField 47),
    (isZb c && x.pl 46 38 != 0, x.badField 38),
    (!isZb c && decide (vStride x < vRowBytes c), x.badField 38)] ++
    x.spanChecks 56 (if isZb c then 56 else 38) x.a0 16 (if isZb c then 256 else 15 * vStride x + vRowBytes c) ++
    [(if isZb c then spanBad x.a1 2 8 else x.a1 != 0, x.badField 57)])

/-- The ranges VLD reads or VST writes. -/
def vmemRanges (n : Nat) (x : Entry) : List Range :=
  let c := x.pl 50 47
  if isZb c then [⟨tileBase n + x.a0, 256⟩, ⟨tileBase n + x.a1, 8⟩]
  else rowRanges n x.a0 (vStride x) (vRowBytes c) 16

/-- The registers a VLD or VST touches. -/
def vmemRegs (x : Entry) : List Nat := if isMx (x.pl 50 47) then [x.pl 55 51, x.pl 55 51 + 1] else [x.pl 55 51]

def State.vreg (s : State) (n r : Nat) : List Word := vregRow (s.tile n).vec r
def State.regFree (s : State) (n : Nat) (rs : List Nat) : Bool :=
  rs.all fun r => !((s.tile n).vec.busy.toNat.testBit r)
def State.lanesFree (s : State) (n : Nat) : Bool := (s.tile n).vec.lanes = none
/-- Busy bits set as a command that writes registers issues (05 R163). -/
def State.setBusy (s : State) (n : Nat) (rs : List Nat) : State :=
  s.modTile n fun t => { t with vec := { t.vec with busy := rs.foldl (fun b r => b ||| BitVec.ofNat 32 (1 <<< r)) t.vec.busy } }

/-- Elements with their places in a register. -/
def placed (vs : List Word) (i0 : Nat) : List (Nat × Word) := vs.mapIdx fun i v => (i0 + i, v)

/-- What VLD loads, by register. An MX element beyond the FP32 range, which the spec gives no value for, is an infinity
(DESIGN CHOICE, log 66). -/
def vldVals (s : State) (n : Nat) (x : Entry) : List (Nat × List (Nat × Word)) :=
  let c := x.pl 50 47
  let v := x.pl 55 51
  if isZb c then
    let codes := s.tileBytes n x.a0 256
    let vals := codes.mapIdx fun i b =>
      let sc := s.tileNat n (x.a1 + 2 * (i / 64)) 2
      if c = 0xA then zb8sDecode sc b.toNat else zb8uDecode sc b.toNat
    [(v, placed vals 0)]
  else if isMx c then
    let rows := (List.range 16).map fun r =>
      let bs := s.tileBytes n (x.a0 + r * vStride x) (vRowBytes c)
      let sc := (bs.getD (rowBytes c 32) 0).toNat
      (unpack c 32 bs).map fun e => toF32 (mxValue c sc e)
    [(v, (rows.mapIdx fun r vs => placed (vs.take 16) (16 * r)).flatten),
     (v + 1, (rows.mapIdx fun r vs => placed (vs.drop 16) (16 * r)).flatten)]
  else
    [(v, ((List.range 16).map fun r =>
      placed ((unpack c 16 (s.tileBytes n (x.a0 + r * vStride x) (vRowBytes c))).map (plainWord c)) (16 * r)).flatten)]

def cmdVld : Cmd where
  bad _ _ _ x := orBad (x.unshown [(37, 0)]) (vmemBad x)
  reads _ n _ x := vmemRanges n x
  ready s n _ x := s.regFree n (vmemRegs x) && s.lanesFree n
  run s n st x :=
    let occ := max 1 (cdiv (vBytes (x.pl 50 47)) 256)
    let fx := (vldVals s n x).map (fun p => Effect.vreg p.1 p.2) ++ (vmemRegs x).map Effect.unbusy
    (s.setBusy n (vmemRegs x)).setEntry n .vector st (x.start (occ + 4) fx)

/-- The draw of a vector command's element (05 R174): purpose 2 for rounding, 3 for RAND. -/
def State.vdraw (s : State) (n : Nat) (st : Stream) (purpose i : Nat) : Nat :=
  let v := (s.tile n).vec
  draw32 (v.seeds.get st).toNat (((v.bases.get st).toNat + i) % 2 ^ 64) purpose
def State.vround (s : State) (n : Nat) (st : Stream) (stochastic : Bool) (i : Nat) : Rounding :=
  if stochastic then .stochastic (s.vdraw n st 2 i) else .nearest

/-- No VSEED of the stream is under way: a command behind it draws with the new seed and counter base (05 R174, R181). -/
def State.seedSettled (s : State) (n : Nat) (st : Stream) : Bool :=
  !((s.queue n .vector st).entries.any fun y => y.issued && !y.skip && y.op = 0x08)

def vstStores (s : State) (n : Nat) (st : Stream) (x : Entry) : List (Nat × List Byte) :=
  let c := x.pl 50 47
  let v := x.pl 55 51
  let sr := x.plb 37
  let sat := x.plb 36
  if isZb c then
    let vals := s.vreg n v
    let blocks := (List.range 4).map fun b =>
      zb8Encode (c = 0xB) ((vals.drop (64 * b)).take 64) fun i => if sr then some (s.vdraw n st 2 (64 * b + i)) else none
    [(tileBase n + x.a0, (blocks.flatMap (·.2)).map (BitVec.ofNat 8)), (tileBase n + x.a1, blocks.flatMap fun b => natLE 2 b.1)]
  else
    (List.range 16).map fun r =>
      let a := tileBase n + x.a0 + r * vStride x
      if isMx c then
        let vals := ((s.vreg n v).drop (16 * r)).take 16 ++ ((s.vreg n (v + 1)).drop (16 * r)).take 16
        let row := mxRow c (fun i => s.vround n st sr (32 * r + i)) vals
        (a, packElems c row.2 ++ [BitVec.ofNat 8 row.1])
      else
        (a, packElems c ((((s.vreg n v).drop (16 * r)).take 16).mapIdx fun i w => toCode c (s.vround n st sr (16 * r + i)) sat w))

def cmdVst : Cmd where
  bad _ _ _ x :=
    orBad (orBad (x.unshown [(35, 0)]) (vmemBad x))
      (if x.pl 50 47 = 0xB && x.plb 37 then some (x.badField 37) else none)
  writes _ n _ x := vmemRanges n x
  settled s n st _ := s.seedSettled n st
  ready s n _ x := s.regFree n (vmemRegs x) && s.lanesFree n
  run s n st x :=
    let occ := max 1 (cdiv (vBytes (x.pl 50 47)) 256)
    s.setEntry n .vector st (x.start (occ + 4) ((vstStores s n st x).map fun p => .store p.1 p.2))

/-! ## Programs -/

def epCount (x : Entry) : Nat := x.pl 51 46 + 1
def cmdEpload : Cmd where
  bad s n _ x :=
    let len := 32 + 4 * epCount x
    orBad (orBad (x.unshown [(45, 0)])
      (firstBad (x.spanChecks 56 46 x.a0 16 len ++ [(x.a1 != 0, x.badField 57)])))
      ((List.range (epCount x)).findSome? fun i =>
        let a := x.a0 + 32 + 4 * i
        (epBad (s.tileNat n a 4)).map fun pos => x.badStruct pos 56 (tileBase n + a))
  reads _ n _ x := [⟨tileBase n + x.a0, 32 + 4 * epCount x⟩]
  ready s n _ x := s.lanesFree n && !s.slotUsed n (x.pl 55 52) && !s.slotLoading n (x.pl 55 52)
  run s n st x :=
    let words (a k : Nat) := (List.range k).map fun i => leWord (s.tileBytes n (a + 4 * i) 4)
    s.setEntry n .vector st (x.start (cdiv (32 + 4 * epCount x) 256 + 4)
      [.slot (x.pl 55 52) (words x.a0 8) (words (x.a0 + 32) (epCount x)), .loadedFrom (300 + x.pl 55 52) (tileBase n + x.a0)])

/-- The registers a program's operands name. -/
def Program.regsRead (p : Program) : List Nat :=
  p.instrs.flatMap fun i =>
    let w := i.toNat
    let used := match epArity (epOp w) with
      | some k => [epA w, epB w, epC w].take k
      | none => []
    (used.filter fun c => decide (0x20 ≤ c)).map (· - 0x20)

def State.programOf (s : State) (n : Nat) (x : Entry) : Program := (s.program n (x.pl 55 52)).getD ⟨[], []⟩

/-- The environment of element (r, c) with draw index i. -/
def State.elemEnv (s : State) (n : Nat) (st : Stream) (x : Entry) (r c i : Nat) : ElemEnv :=
  { r := r, c := c, s0 := x.s0, s1 := x.s1, reg := fun v => lget (s.vreg n v) (16 * r + c) 0, draw := s.vdraw n st 3 i }

def emptySlot (s : State) (n : Nat) (x : Entry) : Option Bad := if s.program n (x.pl 55 52) = none then some badState else none

def cmdEprog : Cmd where
  bad s n _ x := orBad (x.unshown [(41, 0)]) (emptySlot s n x)
  settled s n st x := !s.slotLoading n (x.pl 55 52) && s.seedSettled n st
  ready s n _ x := s.regFree n (x.pl 51 47 :: x.pl 46 42 :: (s.programOf n x).regsRead) && s.lanesFree n
  run s n st x :=
    let p := s.programOf n x
    let vals := (s.vreg n (x.pl 51 47)).mapIdx fun i v => lget (epRun p (s.elemEnv n st x (i / 16) (i % 16) i) (epStart v 0)) 0 0
    (s.setBusy n [x.pl 46 42]).setEntry n .vector st (x.start (p.instrs.length + 4)
      [.vreg (x.pl 46 42) (placed vals 0), .unbusy (x.pl 46 42)])

def strmFmt (c : Nat) : Bool := c ≤ 3 || c = 9 || c = 0xC
def strmChunks (x : Entry) : Nat := x.pl 6 0 + 1
def strmSrc (x : Entry) : Nat := x.pl 51 34 * 16
def strmDst (x : Entry) : Nat := x.pl 33 16 * 16
def strmIn (x : Entry) : Nat := strmChunks x * rowBytes (x.pl 15 12) 256
def strmOut (x : Entry) : Nat := strmChunks x * rowBytes (x.pl 11 8) 256

def cmdEpstrm : Cmd where
  bad s n _ x :=
    orBad (firstBad [
      (!strmFmt (x.pl 11 8), x.badField 8),
      (!strmFmt (x.pl 15 12), x.badField 12),
      (decide (tileStoreBytes < strmSrc x + strmIn x), x.badField 0),
      (decide (tileStoreBytes < strmDst x + strmOut x), x.badField 0),
      (overlap (strmSrc x) (strmIn x) (strmDst x) (strmOut x) &&
        !(strmSrc x = strmDst x && strmIn x = strmOut x), x.badField 0)]) (emptySlot s n x)
  reads _ n _ x := [⟨tileBase n + strmSrc x, strmIn x⟩]
  writes _ n _ x := [⟨tileBase n + strmDst x, strmOut x⟩]
  settled s n st x := !s.slotLoading n (x.pl 55 52) && s.seedSettled n st
  ready s n _ x := s.regFree n (s.programOf n x).regsRead && s.lanesFree n
  run s n st x :=
    let p := s.programOf n x
    let ci := x.pl 15 12
    let co := x.pl 11 8
    let codes := unpack ci (256 * strmChunks x) (s.tileBytes n (strmSrc x) (strmIn x))
    let out := codes.mapIdx fun i v =>
      let k := i % 256
      let w := lget (epRun p (s.elemEnv n st x (k / 16) (k % 16) i) (epStart (plainWord ci v) 0)) 0 0
      toCode co (s.vround n st (x.plb 7) i) false w
    let occ := strmChunks x * max p.instrs.length (max (cdiv (rowBytes ci 256) 256) (cdiv (rowBytes co 256) 256))
    s.setEntry n .vector st (x.start (occ + 8) [.store (tileBase n + strmDst x) (packElems co out)])

/-! ## Reductions and summaries (05 R177, R178) -/

/-- An exact sum rounded once; an exact zero is +0 (05 R177). -/
def sumWord (ts : List Num) : Word :=
  let v := Num.sum ts
  if v.isNegZero then f32zero else toF32 v

/-- The position of the largest term, or of the first NaN. -/
def argmaxOf (ts : List Num) : Nat :=
  match ts.findIdx? Num.isNan with
  | some i => i
  | none =>
    ((ts.mapIdx fun i t => (i, t)).foldl (fun best p => match best with
      | none => some p
      | some b => if Num.lt b.2 p.2 || (Num.eqv b.2 p.2 && b.2.sign && !p.2.sign) then some p else some b)
      (none : Option (Nat × Num))).elim 0 (·.1)

def foldNum (f : Num → Num → Num) : List Num → Num
  | [] => .nan
  | t :: ts => ts.foldl f t

/-- One VRED result over 16 terms and, where accum = 1, the destination element. -/
def vredOp (op : Nat) (ts : List Num) (acc : Option Num) : Word :=
  match op with
  | 0 => sumWord (acc.toList ++ ts)
  | 1 => sumWord (acc.toList ++ ts.map fun t => Num.mul t t)
  | 2 => sumWord (acc.toList ++ ts.map Num.abs)
  | 3 => toF32 (foldNum Num.min ts)
  | 4 => toF32 (foldNum Num.max ts)
  | _ => BitVec.ofNat 32 (argmaxOf ts)

def cmdVred : Cmd where
  bad _ _ _ x :=
    orBad (x.unshown [(36, 0)]) (firstBad [
      (decide (6 ≤ x.pl 40 38), x.badField 38),
      (x.plb 37 && decide (3 ≤ x.pl 40 38), x.badField 37)])
  ready s n _ x := s.regFree n [x.pl 55 51, x.pl 50 46] && s.lanesFree n
  run s n st x :=
    let src := s.vreg n (x.pl 55 51)
    let dst := s.vreg n (x.pl 50 46)
    let idx := x.pl 44 41
    let col := x.plb 45
    let vals := (List.range 16).map fun k =>
      let ts := (List.range 16).map fun j => f32 (lget src (if col then 16 * j + k else 16 * k + j) 0)
      let at' := if col then 16 * idx + k else 16 * k + idx
      (at', vredOp (x.pl 40 38) ts (if x.plb 37 then some (f32 (lget dst at' 0)) else none))
    (s.setBusy n [x.pl 50 46]).setEntry n .vector st (x.start 6 [.vreg (x.pl 50 46) vals, .unbusy (x.pl 50 46)])

/-- The test of one element against S0 (05 R178). -/
def vsumTest (cond : Nat) (a b : Num) : Bool :=
  match cond with
  | 0 => Num.eqv a b
  | 1 => !Num.eqv a b
  | 2 => Num.lt a b
  | 3 => Num.le a b
  | 4 => Num.lt b a
  | _ => Num.le b a

def vsumValue (kind cond : Nat) (s0 : Num) (ts : List Num) : Word :=
  let pass := (ts.filter fun t => vsumTest cond t s0).length
  match kind with
  | 0 => if 0 < pass then 1 else 0
  | 1 => if pass = ts.length then 1 else 0
  | 2 => BitVec.ofNat 32 pass
  | 3 => sumWord ts
  | 4 => toF32 (foldNum Num.min ts)
  | 5 => toF32 (foldNum Num.max ts)
  | _ => BitVec.ofNat 32 (argmaxOf ts)

def cmdVsum : Cmd where
  bad _ _ _ x :=
    orBad (x.unshown [(38, 0)]) (firstBad [
      (x.pl 50 48 = 7, x.badField 48),
      (decide (6 ≤ x.pl 47 45), x.badField 45),
      (decide (3 ≤ x.pl 50 48) && x.pl 47 45 != 0, x.badField 45),
      (x.pl 44 43 = 3, x.badField 43),
      (x.pl 44 43 = 0 && x.pl 42 39 != 0, x.badField 39),
      (x.teamCmd != none, ⟨0x11, detailHeader x.op 90, 0⟩)])
  ready s n _ x := s.regFree n [x.pl 55 51] && s.lanesFree n
  run s n st x :=
    let src := (s.vreg n (x.pl 55 51)).map f32
    let idx := x.pl 42 39
    let ts := match x.pl 44 43 with
      | 0 => src
      | 1 => (src.drop (16 * idx)).take 16
      | _ => (List.range 16).map fun r => lget src (16 * r + idx) Num.zero
    s.setEntry n .vector st (x.start 8 [.summary 0 (vsumValue (x.pl 50 48) (x.pl 47 45) (f32 x.s0) ts)])

def cmdVseed : Cmd where
  bad _ _ _ x := x.unshown [(54, 0)]
  ready s n _ _ := s.lanesFree n
  run s n st x :=
    s.setEntry n .vector st (x.start 1 [.seed st (x.plb 55) (BitVec.ofNat 64 (x.a1 * 2 ^ 32 + x.a0))])

end Sys2Proof.Machine
end

