-- ==== Sys2Proof/Machine/Matrix.lean ====
section
/-!
DEFINITION. The matrix engine (spec/03 R85–R119; spec/04 R139–R160; spec/06 R185–R191): MMA with its masks and zero maps,
MDRAIN, MDCFG, and the dribble staircase.
-/
namespace Sys2Proof.Machine

/-! ## MMA's fields (03 R97) -/

def mArray (x : Entry) : Nat := x.pl 55 54
def mAcc (x : Entry) : Nat := x.pl 53 51
def mDf (x : Entry) : Nat := x.pl 50 49
def mClear (x : Entry) : Bool := x.plb 48
def mFa (x : Entry) : Nat := x.pl 46 43
def mFb (x : Entry) : Nat := x.pl 42 39
def mTa (x : Entry) : Bool := x.plb 38
def mTb (x : Entry) : Bool := x.plb 37
def mK (x : Entry) : Nat := x.pl 36 25 + 1
def mSp (x : Entry) : Bool := x.plb 24
def mZm (x : Entry) : Bool := x.plb 23
def mZs (x : Entry) : Bool := x.plb 22
def mLda (x : Entry) : Nat := (x.pl 17 9 + 1) * 16
def mLdb (x : Entry) : Nat := (x.pl 8 0 + 1) * 16

/-- The operand groups (03 R90): steps for one k in halves, and whether K must be a multiple of 32. -/
def opGroup (fa fb : Nat) : Option (Nat × Bool) :=
  if fa ≤ 1 ∧ fb ≤ 1 then some (2, false)
  else if fa = 8 ∧ fb = 8 then some (1, true)
  else if isMx fa ∧ isMx fb then some (2, true)
  else if (fa = 2 ∨ fa = 3) ∧ (fb = 2 ∨ fb = 3) then some (4, false)
  else if fa = 9 ∧ fb = 9 then some (12, false)
  else none

/-- The step count S of K steps of a group (03 R90). -/
def stepsOf (fa fb k : Nat) : Nat := ((opGroup fa fb).elim 0 (·.1)) * k / 2

/-! ## Stored operands (03 R98, 04 R133) -/

/-- Bytes of stored row i of an operand: `along` where blocks run along a stored row (A with ta = 0, B with tb = 1), whose
16 rows hold K elements each; otherwise K rows hold `w` elements each. -/
def opRowLen (c k w : Nat) (along : Bool) (i : Nat) : Nat :=
  if along then rowBytes c k + (if isMx c then k / 32 else 0)
  else rowBytes c w + (if isMx c && i % 32 = 0 then w else 0)
def opRows (k w : Nat) (along : Bool) : Nat := if along then w else k

def opMaxLen (c k w : Nat) (along : Bool) : Nat := opRowLen c k w along 0
def opEnd (base stride c k w : Nat) (along : Bool) : Nat :=
  base + (opRows k w along - 1) * stride + opRowLen c k w along (opRows k w along - 1)
def opRanges (n base stride c k w : Nat) (along : Bool) : List Range :=
  (List.range (opRows k w along)).map fun i => ⟨tileBase n + base + i * stride, opRowLen c k w along i⟩

/-- A stored element: its code and its block's scale (0 where it has none). -/
structure Elem where
  code : Nat
  scale : Nat
deriving DecidableEq, Repr

def opRow (s : State) (n base stride c k w : Nat) (along : Bool) (i : Nat) : List Elem :=
  let bs := s.tileBytes n (base + i * stride) (opRowLen c k w along i)
  if along then
    (unpack c k bs).mapIdx fun j v => ⟨v, if isMx c then (bs.getD (rowBytes c k + j / 32) 0).toNat else 0⟩
  else
    let ss := if isMx c then
        (if i % 32 = 0 then bs.drop (rowBytes c w)
         else s.tileBytes n (base + (i - i % 32) * stride + rowBytes c w) w)
      else []
    (unpack c w bs).mapIdx fun j v => ⟨v, if isMx c then (ss.getD j 0).toNat else 0⟩

/-- The operand as w lists of K elements: list i holds element k of row (or column) i. -/
def operand (s : State) (n base stride c k w : Nat) (along : Bool) : List (List Elem) :=
  let rows := (List.range (opRows k w along)).map (opRow s n base stride c k w along)
  if along then rows else (List.range w).map fun i => rows.map fun r => lget r i ⟨0, 0⟩

def Elem.num (c : Nat) (e : Elem) : Num := if isMx c then mxValue c e.scale e.code else (codeFmt c).decode e.code

/-! ## Products (04 R139, R140, R142) -/

/-- hi(a) and lo(a) of split-BF16x3. -/
def splitHi (w : Nat) : Num :=
  let v := Fmt.fp32.decode w
  if v.isFinite then Fmt.fp32.decode (w / 65536 * 65536) else v
def splitLo (w : Nat) : Num :=
  let v := Fmt.fp32.decode w
  if v.isFinite then Fmt.bf16.decode (Fmt.bf16.rne (Num.add v (splitHi w).neg)) else Num.zero

/-- The products one k contributes. -/
def productsOf (fa fb : Nat) (a b : Elem) : List Num :=
  if fa = 9 then
    let x := Fmt.fp32.decode a.code
    let y := Fmt.fp32.decode b.code
    if x.isFinite && y.isFinite then
      [Num.mul (splitHi a.code) (splitHi b.code), Num.mul (splitHi a.code) (splitLo b.code),
       Num.mul (splitLo a.code) (splitHi b.code)]
    else [Num.mul x y]
  else [Num.mul (a.num fa) (b.num fb)]

/-- One block folded into an A48 accumulator with one rounding (04 R139). -/
def foldBlock (c : BitVec 48) (products : List Num) : BitVec 48 :=
  if products.isEmpty then c
  else BitVec.ofNat 48 (Fmt.a48.rne (Num.sum (Fmt.a48.decode c.toNat :: products)))

/-- A cell's K terms, each the list of its products, in blocks of 32 from k = 0. -/
def foldCell : Nat → BitVec 48 → List (List Num) → BitVec 48
  | 0, c, _ => c
  | n + 1, c, terms => foldCell n (foldBlock c (terms.take 32).flatten) (terms.drop 32)
def cellValue (c : BitVec 48) (terms : List (List Num)) : BitVec 48 := foldCell ((terms.length + 31) / 32) c terms

/-- Accumulator values; an EMPTY tile reads +0 (03 R87). -/
def Acc.get (a : Acc) (i : Nat) : BitVec 48 := if a.held = none then 0 else lget a.vals i 0

/-! ## Compressed B (04 R152–R155) -/

/-- Tiles of a sequence from an offset: `step` tiles apart, each with the tiles stepped over behind it. -/
def sparseWalk (s : State) (n : Nat) (step : Nat) : Nat → Nat → List ((Nat × Nat) × List (Nat × Nat))
  | 0, _ => []
  | k + 1, off =>
    let rd := fun o => s.tileNat n o 16
    let tiles := tileWalk rd step off
    let after := tiles.getLast?.elim off fun t => t.1 + tileBytesOf t.2
    -- behind the last tile that the pass reads, nothing is stepped over
    ((off, rd off), if k = 0 then [] else tiles.drop 1) :: sparseWalk s n step k after

def mHeader (s : State) (n : Nat) (x : Entry) : Nat := s.tileNat n x.a1 16
def mPattern (s : State) (n : Nat) (x : Entry) : Bool := mSp x && hdrKind (mHeader s n x) = 2
def mWalk (s : State) (n : Nat) (x : Entry) : List ((Nat × Nat) × List (Nat × Nat)) :=
  sparseWalk s n (if mTb x then x.pl 8 0 + 1 else 1) (mK x / 16) x.a1
def mTiles (s : State) (n : Nat) (x : Entry) : List (Nat × Nat) :=
  if mPattern s n x then [(x.a1, mHeader s n x)] else (mWalk s n x).map (·.1)
/-- The tiles of which a pass reads the header alone (04 R152). -/
def mSkipped (s : State) (n : Nat) (x : Entry) : List (Nat × Nat) :=
  if mPattern s n x then [] else (mWalk s n x).flatMap (·.2)

/-- The cost of n elements of a lane (04 R153). -/
def laneCost (fb n : Nat) : Nat := if fb = 8 then (n + 1) / 2 else if fb = 2 ∨ fb = 3 then 2 * n else n

/-- Admission and finishing times of R153 over the tiles' kept counts: `past` holds the latest eight tiles' finishing
times, newest first; the result is the last tile's. -/
def laneTimes (fb : Nat) : List (List Nat) → Nat → List (List Nat) → List Nat
  | [], _, past => past.headD (List.replicate 16 0)
  | cnt :: rest, a, past =>
    let prev := past.headD (List.replicate 16 0)
    let f := (List.range 16).map fun c => max (lget prev c 0) a + laneCost fb (lget cnt c 0)
    let past' := (f :: past).take 8
    let oldest := if past'.length = 8 then (past'.getLast?.getD []).foldl max 0 else 0
    laneTimes fb rest (max (a + 1) oldest) past'
def tileCounts (h : Nat) : List Nat := (List.range 16).map fun c => if hdrKind h = 1 then 16 else hdrCnt h c
def sparseSteps (fb : Nat) (tiles : List (Nat × Nat)) : Nat :=
  (laneTimes fb (tiles.map fun t => tileCounts t.2) 0 []).foldl max 0

/-- ρ of a pattern (04 R155). -/
def patternRho (bs : List Byte) : Nat :=
  let kept (q : Nat) := ((List.range 16).filter fun r => (leNat ((bs.drop (16 + 2 * q)).take 2)).testBit r).length
  cdiv ((List.range 16).foldl (fun m c => max m ((List.range 4).foldl (fun k i => k + kept (c + 16 * i)) 0)) 0) 16

/-- The structure faults of a compressed sequence, of the tiles it steps over too: a reserved bit of a header (03 R99, 04 R149),
its kind, its format (04 R152). -/
def sparseBad (s : State) (n : Nat) (x : Entry) : Option Bad :=
  let bad (t : Nat × Nat) (pos : Nat) := x.badStruct pos 57 (tileBase n + t.1)
  if mPattern s n x then
    let h := mHeader s n x
    firstBad [
      (mTb x, x.badField 37),
      (x.pl 8 0 != 0, x.badField 0),
      (mAcc x != 0 && mAcc x != 4, x.badField 51),
      (decide (tileStoreBytes < x.a1 + 16 + 128), x.badField 57),
      (decide (hdrLdp h < opMaxLen (mFb x) (mK x) 64 false), bad (x.a1, h) 87),
      (bits h 86 80 != 0, bad (x.a1, h) 80),
      (decide (tileStoreBytes < opEnd (hdrData h) (hdrLdp h) (mFb x) (mK x) 64 false), bad (x.a1, h) 87)]
  else if mFa x = 9 || mK x % 16 != 0 then some (x.badField 24)
  else
    orBad ((mWalk s n x).findSome? fun p =>
      (p.1 :: p.2).findSome? fun t =>
        if bits t.2 86 80 != 0 then some (bad t 80) else if 2 ≤ hdrKind t.2 then some (bad t 122)
        else if hdrFmt t.2 != mFb x then some (bad t 124)
        else if tileStoreBytes < t.1 + tileBytesOf t.2 then some (x.badField 57) else none)
      (if mTb x then (if 256 < x.pl 8 0 + 1 then some (x.badField 0) else none)
       else if x.pl 8 0 != 0 then some (x.badField 0) else none)

/-! ## Zero maps (04 R156–R160) -/

def segLen (fa : Nat) : Nat := 128 / codeWidth fa
/-- Segment i of A is skipped: the flags of its lines are 1 in all 16 rows. -/
def segZero (s : State) (n : Nat) (x : Entry) (i : Nat) : Bool :=
  (List.range 16).all fun r => (s.tile n).zeroFlags.contains ((x.a0 + r * mLda x) / 16 + i)
def segCount (x : Entry) : Nat := cdiv (mK x) (segLen (mFa x))
/-- The segments a zero-mapped OS pass fetches ahead, as the predictor table stood when it became the head of its queue: a
bitmap, or none where no entry is valid for it; of two the lower-numbered applies (04 R159; log 61). -/
def predicted (t : Tile) (x : Entry) : List Nat :=
  match x.answer with
  | [] => matchPredictor t x
  | _ :: l => l
/-- Segment i is fetched ahead: every one, where no entry matches (04 R159). -/
def segFetched (s : State) (n : Nat) (x : Entry) (i : Nat) : Bool :=
  match predicted (s.tile n) x with
  | p :: _ => p.testBit i
  | [] => true
def keptK (s : State) (n : Nat) (x : Entry) (k : Nat) : Bool := !(mZm x && segZero s n x (k / segLen (mFa x)))
/-- B's part of k is fetched: its segment is marked, or it is needed and fetched late (04 R159). -/
def fetchedK (s : State) (n : Nat) (x : Entry) (k : Nat) : Bool :=
  keptK s n x k || segFetched s n x (k / segLen (mFa x))
/-- The parts of B's rows that an OS pass with a zero map fetches into the transposing buffer (04 R157, R159). -/
def keptBRanges (s : State) (n : Nat) (x : Entry) : List Range :=
  let fb := mFb x
  let row (i : Nat) : Nat := tileBase n + x.a1 + i * mLdb x
  if mTb x then
    (List.range 16).flatMap fun j => ((List.range (mK x)).filter (fetchedK s n x)).flatMap fun k =>
      ⟨row j + k * codeWidth fb / 8, (k * codeWidth fb + codeWidth fb - 1) / 8 - k * codeWidth fb / 8 + 1⟩ ::
        (if isMx fb then [⟨row j + rowBytes fb (mK x) + k / 32, 1⟩] else [])
  else ((List.range (mK x)).filter (fetchedK s n x)).map fun k => ⟨row k, opRowLen fb (mK x) 16 false k⟩

/-! ## Refusals (03 R90, R91, R95, R97, R99, R104; 04 R153, R158) -/

/-- Where an operand's bytes run past the store's end though its address lies in the store, its stride is the lowest of the
fields concerned (log 58); where zm = 1 meets FP32, for which R157 gives no segment length and R158 no limit on K, a line holds
4 k and K is not limited (log 59). -/
def mmaBad (s : State) (n : Nat) (x : Entry) : Option Bad :=
  let fa := mFa x
  let fb := mFb x
  let k := mK x
  let held := mDf x = 1 || mDf x = 2
  orBad (firstBad [(mDf x = 3, ⟨0x10, detailPayload x.op 49, 0⟩)]) <|
  orBad (x.reserved [(47, 47), (21, 18)]) <|
  orBad (firstBad [
    (decide (9 < fa ∧ fb ≤ 9), x.badField 43),
    (opGroup fa fb = none, x.badField 39),
    ((opGroup fa fb).elim false (·.2) && k % 32 != 0, x.badField 25),
    (held && decide ((if fa = 9 then 256 else 512) < k), x.badField 25),
    (mSp x && mZm x, x.badField 23),
    (mSp x && mDf x != 2, x.badField 24),
    (mZm x && mDf x = 2, x.badField 23),
    (mZs x && (k % 32 != 0 || mSp x || mZm x), x.badField 22),
    (mZm x && mTa x, x.badField 23),
    (mZm x && (fa = 6 || fa = 7), x.badField 23),
    (mZm x && mDf x = 0 && fa != 9 && decide ((if fa = 2 ∨ fa = 3 then 256 else 512) < k), x.badField 23),
    (decide (mLda x < opMaxLen fa k 16 (!mTa x)), x.badField 9),
    (!mSp x && decide (mLdb x < opMaxLen fb k 16 (mTb x)), x.badField 0),
    (spanBad x.a0 16 16, x.badField 56),
    (spanBad x.a1 16 16, x.badField 57),
    (decide (tileStoreBytes < opEnd x.a0 (mLda x) fa k 16 (!mTa x)), x.badField 9),
    (!mSp x && decide (tileStoreBytes < opEnd x.a1 (mLdb x) fb k 16 (mTb x)), x.badField 0)]) <|
  if mSp x then sparseBad s n x else none

/-! ## Ranges and readiness -/

def mmaBRanges (s : State) (n : Nat) (x : Entry) : List Range :=
  if mPattern s n x then
    let h := mHeader s n x
    ⟨tileBase n + x.a1, 144⟩ :: opRanges n (hdrData h) (hdrLdp h) (mFb x) (mK x) 64 false
  else if mSp x then
    ((mTiles s n x).map fun t => ⟨tileBase n + t.1, tileBytesOf t.2⟩) ++
      (mSkipped s n x).map fun t => ⟨tileBase n + t.1, 16⟩
  else if mZm x && mDf x = 0 then keptBRanges s n x
  else opRanges n x.a1 (mLdb x) (mFb x) (mK x) 16 (mTb x)
def mmaARanges (n : Nat) (x : Entry) : List Range := opRanges n x.a0 (mLda x) (mFa x) (mK x) 16 (!mTa x)

/-- The accumulator tiles a pass names. -/
def mmaAccs (s : State) (n : Nat) (x : Entry) : List Nat :=
  if mPattern s n x then (List.range 4).map (mAcc x + ·) else [mAcc x]

def accFree (a : Arr) (st : Stream) (k : Nat) : Bool :=
  (vget a.accs k {}).held = none || (vget a.accs k {}).held = some st

/-- An issued MMA or MDRAIN names an array and tile. -/
def namesAcc (s : State) (n : Nat) (y : Entry) (array : Nat) (accs : List Nat) : Bool :=
  !y.skip && y.pl 55 54 = array &&
  ((y.op = 0x01 && (mmaAccs s n y).any accs.contains) ||
   (y.op = 0x02 && (accs.contains (y.pl 53 51) || (isMx (y.pl 50 47) && accs.contains (y.pl 53 51 + 1)))))

/-- P2 has the form of a continuation of P1 (03 R104). -/
def continuesForm (p1 p2 : Entry) : Bool :=
  p1.op = 0x01 && p2.op = 0x01 && !p1.skip && !p2.skip && mZs p1 && mZs p2 && !mClear p2 &&
  mArray p1 = mArray p2 && mAcc p1 = mAcc p2 && mDf p1 = mDf p2 && mFa p1 = mFa p2 && mFb p1 = mFb p2 &&
  mTa p1 = mTa p2 && mTb p1 = mTb p2 && mK p1 = mK p2

/-- The entry ahead that a pass may continue: the array's run, the last command issued of the same queue. -/
def continues (a : Arr) (ahead : List Entry) (x : Entry) : Bool :=
  match ahead.getLast?, a.run with
  | some p1, some u => p1.uid = u && continuesForm p1 x
  | _, _ => false

/-- Readiness of an MMA but for R105 (03 R87, R101, R102; the activity level of R116). -/
def mmaReadyAt (s : State) (n : Nat) (st : Stream) (x : Entry) (ahead : List Entry) : Bool :=
  let a := s.array n (mArray x)
  let accs := mmaAccs s n x
  let dependent := ahead.filter fun y => namesAcc s n y (mArray x) accs
  accs.all (accFree a st) && decide (3 ≤ a.level) &&
  (dependent.isEmpty || (continues a ahead x && dependent.all fun y => some y.uid = a.run || continuesForm y x)) &&
  !hazard ahead (mmaARanges n x ++ mmaBRanges s n x)

def State.ahead (s : State) (n : Nat) (e : Engine) (st : Stream) : List Entry :=
  match s.head n e st with
  | some p => p.2
  | none => []

/-- The head of another stream's queue is ready to continue the array's run, so that no command of this stream issues to the
array (03 R105); where none is, the run has ended (log 60). -/
def runTakenBy (s : State) (n array : Nat) (st : Stream) : Bool :=
  allStreams.any fun o =>
    o != st &&
    match s.head n .matrix o with
    | some (y, ahead) =>
      y.op = 0x01 && !y.skip && mArray y = array && continues (s.array n array) ahead y && mmaReadyAt s n o y ahead
    | none => false

def mmaReady (s : State) (n : Nat) (st : Stream) (x : Entry) : Bool :=
  mmaReadyAt s n st x (s.ahead n .matrix st) && !runTakenBy s n (mArray x) st

/-! ## The pass (03 R88; 04 R139–R157) -/

/-- The terms of cell (i, j) of a pass that reads B dense or compressed. -/
def mmaTerms (s : State) (n : Nat) (x : Entry) (a : List (List Elem)) (b : List (List Elem))
    (tiles : List (List Byte)) (i j : Nat) : List (List Num) :=
  let fa := mFa x
  let fb := mFb x
  (List.range (mK x)).map fun k =>
    if !keptK s n x k then []
    else
      let ea := lget (lget a i []) k ⟨0, 0⟩
      if mSp x then
        let bs := lget tiles (k / 16) []
        let r := if mTb x then j else k % 16
        let c := if mTb x then k % 16 else j
        if tileKept bs r c then [Num.mul (ea.num fa) (tileValue bs r c)] else []
      else productsOf fa fb ea (lget (lget b j []) k ⟨0, 0⟩)

/-- A pass's new accumulator contents: accumulator tile and its 256 values. -/
def mmaResult (s : State) (n : Nat) (x : Entry) : List (Nat × List (BitVec 48)) :=
  let arr := s.array n (mArray x)
  let old (k i : Nat) : BitVec 48 := if mClear x then 0 else (vget arr.accs k {}).get i
  let a := operand s n x.a0 (mLda x) (mFa x) (mK x) 16 (!mTa x)
  if mPattern s n x then
    let h := mHeader s n x
    let bs := s.tileBytes n x.a1 144
    let p := operand s n (hdrData h) (hdrLdp h) (mFb x) (mK x) 64 false
    (List.range 4).map fun m => (mAcc x + m, (List.range 256).map fun i =>
      let r := i / 16
      let q := 16 * m + i % 16
      if (leNat ((bs.drop (16 + 2 * q)).take 2)).testBit r then
        cellValue (old (mAcc x + m) i) ((List.range (mK x)).map fun k =>
          productsOf (mFa x) (mFb x) (lget (lget a r []) k ⟨0, 0⟩) (lget (lget p q []) k ⟨0, 0⟩))
      else old (mAcc x + m) i)
  else
    let b := if mSp x then [] else operand s n x.a1 (mLdb x) (mFb x) (mK x) 16 (mTb x)
    let tiles := if mSp x then (mTiles s n x).map fun t => s.tileBytes n t.1 (tileBytesOf t.2) else []
    [(mAcc x, (List.range 256).map fun i => cellValue (old (mAcc x) i) (mmaTerms s n x a b tiles (i / 16) (i % 16)))]

/-- Steps of the pass (03 R90; 04 R153, R155, R157). -/
def mmaSteps (s : State) (n : Nat) (x : Entry) : Nat :=
  if mPattern s n x then patternRho (s.tileBytes n x.a1 144) * stepsOf (mFa x) (mFb x) (mK x)
  else if mSp x then sparseSteps (mFb x) (mTiles s n x)
  else stepsOf (mFa x) (mFb x) ((List.range (mK x)).filter (keptK s n x)).length

/-- The pass loads the sequence named by S1 into the stationary bank: a compressed pass with tb = 1 (04 R152). Every other
IS pass, a compressed one with tb = 0 and a pattern pass among them, holds A (03 R91; log 113). -/
def mHoldsWalk (x : Entry) : Bool := mSp x && mTb x

/-- Whether a pass holds A or B in a stationary bank, and the tag of that operand (03 R93). -/
def mmaTag (s : State) (n : Nat) (st : Stream) (x : Entry) : Option Tag :=
  if mDf x = 1 then
    some { addr := x.a1, stride := x.pl 8 0, fmt := mFb x, trans := mTb x, k := mK x, stream := st, sparse := false,
           covers := mmaBRanges s n x }
  else if mDf x = 2 then
    if mHoldsWalk x then
      some { addr := x.a1, stride := x.pl 8 0, fmt := mFb x, trans := mTb x, k := mK x, stream := st, sparse := true,
             covers := mmaBRanges s n x }
    else
      some { addr := x.a0, stride := x.pl 17 9, fmt := mFa x, trans := mTa x, k := mK x, stream := st, sparse := false,
             covers := mmaARanges n x }
  else none

/-- The stationary banks after a pass that holds `tag`: a matching bank is used, else the idle one is loaded with `bytes`. -/
def Arr.hold (a : Arr) (tag : Option Tag) (bytes : List Byte) : Arr :=
  match tag with
  | none => a
  | some g =>
    match a.banks.toList.findIdx? (· = some g) with
    | some i => { a with bank := i }
    | none => let i := 1 - a.bank; { a with bank := i, banks := vset a.banks i (some g), held := vset a.held i bytes }

/-- Late fetches and fetched segments that proved unneeded (04 R159, R160). -/
def segCounts (s : State) (n : Nat) (x : Entry) : Nat × Nat :=
  if mZm x && mDf x = 0 then
    let need i := !segZero s n x i
    let fetched i := segFetched s n x i
    let segs := List.range (segCount x)
    ((segs.filter fun i => need i && !fetched i).length, (segs.filter fun i => fetched i && !need i).length)
  else (0, 0)

/-- A pass, other than one, is issued and not completed on an array. -/
def State.passOn (s : State) (n a : Nat) (but : Option Nat) : Bool :=
  allStreams.any fun st => (s.matrixEntries n st).any fun x =>
    some x.uid != but && x.issued && !x.skip && x.op = 0x01 && mArray x = a

/-- The bytes of ranges of device memory, one range after the other. -/
def rangesOf (s : State) (rs : List Range) : List Byte := rs.flatMap fun r => s.loadBytes r.base r.len
/-- The operands that pass through the transposing buffer (03 R91, R523; log 113). -/
def mmaStreamed (s : State) (n : Nat) (x : Entry) : List Range :=
  if mDf x = 1 then mmaARanges n x
  else if mDf x = 2 then (if mHoldsWalk x then mmaARanges n x else mmaBRanges s n x)
  else mmaARanges n x ++ mmaBRanges s n x
/-- What a pass that holds an operand loads into its stationary bank: the operand with its scales; of a walked sequence the
tiles' bodies, for no header is data of the operand (03 R93, 04 R152; log 113). -/
def mmaHeld (s : State) (n : Nat) (x : Entry) : List Range :=
  if mDf x = 1 then mmaBRanges s n x
  else if mDf x = 2 then
    (if mHoldsWalk x then (mTiles s n x).map fun t => ⟨tileBase n + t.1 + 16, tileBytesOf t.2 - 16⟩ else mmaARanges n x)
  else []
/-- The size of a stationary bank, and of an array's quarter of the transposing buffer (03 R85). -/
def arrayStore : Nat := 16384
/-- The bytes a store of that size keeps of those that pass through it: the latest (log 113). -/
def latestBytes (bs : List Byte) : List Byte := bs.drop (bs.length - arrayStore)

/-- MMA (03 R85–R99). Its accumulators take the result as it issues and count as busy until it completes, which is before any other
command can read them (log 120). -/
def cmdMma : Cmd where
  bad s n _ x := mmaBad s n x
  reads s n _ x := mmaARanges n x ++ mmaBRanges s n x
  ready := mmaReady
  run s n st x :=
    let res := mmaResult s n x
    let steps := mmaSteps s n x
    let arr := s.array n (mArray x)
    let cont := continues arr (s.ahead n .matrix st) x
    let seg := segCounts s n x
    let s1 := s.modArray n (mArray x) fun a =>
      { (a.hold (mmaTag s n st x) (latestBytes (rangesOf s (mmaHeld s n x)))) with
        streamed := latestBytes (rangesOf s (mmaStreamed s n x))
        accs := res.foldl (fun l p => vset l p.1 { held := some st, vals := p.2 }) a.accs
        level := 4
        run := if mZs x then some x.uid else none }
    let s2 := s1.modTile n fun t => { t with
      lateSegments := satAdd 32 t.lateSegments seg.1
      spareSegments := satAdd 32 t.spareSegments seg.2 }
    -- a pass that is continued completes 32 cycles after its steps, without a drain (03 R104)
    let s3 := match cont, arr.run with
      | true, some u => s2.modQueue n .matrix st fun q => { q with entries := q.entries.map fun (y : Entry) =>
          if y.uid = u then { y with latency := y.latency - 4 } else y }
      | _, _ => s2
    s3.setEntry n .matrix st { x with latency := steps + 36, progress := [steps] }
  finish s n _ x :=
    -- the run ends with the completion of its last pass; a gap begins when no pass is left (03 R104, R115, R118)
    s.modArray n (mArray x) fun a =>
      let last := !s.passOn n (mArray x) (some x.uid)
      { a with
        run := if a.run = some x.uid then none else a.run
        level := if last && !(s.owned n && (s.ctx (s.owner n)).dribble) then 0 else a.level
        gapDribble := if last then s.owned n && (s.ctx (s.owner n)).dribble else a.gapDribble }

/-! ## MDCFG (03 R108) -/

def cmdMdcfg : Cmd where
  bad s n _ x :=
    orBad (orBad (x.unshown [(51, 0)]) (firstBad [(spanBad x.a0 32 32, x.badField 56)]))
      (if bits (s.tileNat n x.a0 32) 123 0 != 0 then some (x.badStruct 0 56 (tileBase n + x.a0)) else none)
  reads _ n _ x := [⟨tileBase n + x.a0, 32⟩]
  run s n st x :=
    let k := x.pl 55 52
    s.setEntry n .matrix st (x.start 2 [.drainDesc st k (BitVec.ofNat 256 (s.tileNat n x.a0 32)),
      .loadedFrom (16 * streamNo st + k) (tileBase n + x.a0)])

/-! ## MDRAIN (03 R107–R114; 06 R188–R191; 05 R182, R183) -/

def dArray (x : Entry) : Nat := x.pl 55 54
def dAcc (x : Entry) : Nat := x.pl 53 51
def dFmt (x : Entry) : Nat := x.pl 50 47
def dDesc (x : Entry) : Nat := x.pl 46 43
def dKeep (x : Entry) : Bool := x.plb 42
def dReg (x : Entry) : Bool := x.plb 41
def dVreg (x : Entry) : Nat := x.pl 40 36
def dZpub (x : Entry) : Bool := x.plb 35
def dLdd (x : Entry) : Nat := (x.pl 34 26 + 1) * 16
def dIndex (x : Entry) : Nat := x.pl 25 0
def ddScale (d : BitVec 256) : Word := BitVec.ofNat 32 (bits d.toNat 255 224)
def ddAux (d : BitVec 256) : Nat := bits d.toNat 223 222
def ddPre (d : BitVec 256) : Nat := bits d.toNat 218 217
def ddRnd (d : BitVec 256) : Bool := bit d.toNat 216
def ddSat (d : BitVec 256) : Bool := bit d.toNat 215
def ddAmax (d : BitVec 256) : Bool := bit d.toNat 210
def ddAmaxAddr (d : BitVec 256) : Nat := bits d.toNat 209 188
def ddSeed (d : BitVec 256) : Nat := bits d.toNat 187 124

def dCols (x : Entry) : Nat := if isMx (dFmt x) then 32 else 16
def dRowLen (x : Entry) : Nat := rowBytes (dFmt x) (dCols x) + (if isMx (dFmt x) then 1 else 0)
def dAccs (x : Entry) : List Nat := if isMx (dFmt x) then [dAcc x, dAcc x + 1] else [dAcc x]

/-- Bytes of the pre-activation block (06 R188, R189), and where its values begin. -/
def preRow (d : BitVec 256) (cols : Nat) : Nat :=
  match ddPre d with
  | 0 => 2 * cols
  | 1 => 4 * cols
  | 2 => cols / 8
  | _ => cols
def prePrefix (d : BitVec 256) : Nat := if ddAct d = 4 then 64 else 0
def auxBytes (d : BitVec 256) (cols : Nat) : Nat :=
  match ddAux d with
  | 0 => 0
  | 1 => 4 * cols
  | 2 => 2 * cols
  | _ => prePrefix d + 16 * preRow d cols

/-- S0 and ldd of a drain to a register, S1 with aux_mode = 0 and amax_addr with amax_en = 0 name nothing and are not checked
(log 114). -/
def mdrainBad (s : State) (n : Nat) (st : Stream) (x : Entry) : Option Bad :=
  let d := s.drainDesc n st (dDesc x)
  let at' := tget 0 (16 * streamNo st + dDesc x) (s.tile n).descAt
  let sb (pos : Nat) := x.badStruct pos 43 at'
  let aux3 := ddAux d = 3
  firstBad [
    (decide (0xA ≤ dFmt x), x.badField 47),
    (decide (6 ≤ ddAct d), sb 219),
    ((ddAct d != 0) != aux3, sb 219),
    (dReg x && dFmt x != 0x9, x.badField 41),
    (isMx (dFmt x) && dAcc x % 2 != 0, x.badField 47),
    (!dReg x && dVreg x != 0, x.badField 36),
    (bits d.toNat 123 0 != 0, sb 0),
    (aux3 && ddPre d = 2 && ddAct d != 1, sb 217),
    (aux3 && ddPre d = 3 && ddAct d = 4, sb 217),
    (aux3 && ddAct d = 4 && isMx (dFmt x), sb 219),
    (ddAmax d && (ddAmaxAddr d % 4 != 0 || decide (tileStoreBytes < ddAmaxAddr d + 4)), sb 188),
    (!dReg x && decide (dLdd x < dRowLen x), x.badField 26),
    (!dReg x && spanBad x.a0 16 1, x.badField 56),
    (!dReg x && decide (tileStoreBytes < x.a0 + 15 * dLdd x + dRowLen x), x.badField 26),
    (ddAux d != 0 && spanBad x.a1 16 (auxBytes d (dCols x)), x.badField 57),
    (ddAct d = 5 && s.program n (ddEprog d) = none, badState),
    (ddAct d = 5 && ((s.program n (ddEprog d)).elim false Program.impure), sb 211)]

/-- The pre-activation value of element (r, c), or a 1-bit stash's bit as 1.0 or +0. -/
def preValue (s : State) (n : Nat) (x : Entry) (d : BitVec 256) (r c : Nat) : Word :=
  let a := x.a1 + prePrefix d
  let cols := dCols x
  match ddPre d with
  | 0 => bf16Word (s.tileNat n (a + r * 2 * cols + 2 * c) 2)
  | 1 => leWord (s.tileBytes n (a + r * 4 * cols + 4 * c) 4)
  | 2 => if (s.tileNat n (a + 32 * (c / 16) + 2 * r) 2).testBit (c % 16) then f32one else f32zero
  | _ => toF32 (Fmt.e4m3.decode (s.tileNat n (a + r * cols + c) 1))

/-- Stage 3 for act 1 to 5 (06 R189, 05 R182). -/
def drainAct (s : State) (n : Nat) (x : Entry) (d : BitVec 256) (r c : Nat) (v : Word) : Word :=
  let z := preValue s n x d r c
  match ddAct d with
  | 1 => if (f32 z).isNan then f32nan else if Num.lt Num.zero (f32 z) then v else f32zero
  | 2 => f32mul v (geluDeriv (f32 z))
  | 3 => f32mul v (siluDeriv (f32 z))
  | 4 =>
    let dr := f32 (leWord (s.tileBytes n (x.a1 + 4 * r) 4))
    -- y × (x − D), exact and rounded once: the difference of finite values is exact
    toF32 (Num.mul (f32 z) (Num.add (f32 v) dr.neg))
  | 5 => match s.program n (ddEprog d) with
    | some p => lget (epRun p { r := r, c := c } (epStart v z)) 0 0
    | none => v
  | _ => v

/-- Element (r, c) after stage 3 (03 R110). -/
def drainElem (s : State) (n : Nat) (x : Entry) (d : BitVec 256) (r c : Nat) : Word :=
  let acc := vget (s.array n (dArray x)).accs (dAcc x + c / 16) {}
  let v1 := toF32 (Num.mul (Fmt.a48.decode (acc.get (16 * r + c % 16)).toNat) (f32 (ddScale d)))
  let v2 := match ddAux d with
    | 1 => f32add v1 (leWord (s.tileBytes n (x.a1 + 4 * c) 4))
    | 2 => f32add v1 (bf16Word (s.tileNat n (x.a1 + 2 * c) 2))
    | _ => v1
  if ddAux d = 3 then drainAct s n x d r c v2 else v2

def drainRound (x : Entry) (d : BitVec 256) (r c : Nat) : Rounding :=
  if ddRnd d then .stochastic (draw32 (ddSeed d) (dIndex x * 512 + r * 32 + c) 1) else .nearest

/-- Row r as a drain to a vector register gives it: stage 5 converts to FP32 there too, so a NaN becomes the canonical one
(03 R110; 04 R134, R144). -/
def drainWords (x : Entry) (d : BitVec 256) (r : Nat) (vals : List Word) : List Word :=
  vals.mapIdx fun j v => BitVec.ofNat 32 (toCode (dFmt x) (drainRound x d r j) (ddSat d) v)

/-- One output row: bytes, and for each byte whether every element in it encodes ±0. -/
def drainRow (x : Entry) (d : BitVec 256) (r : Nat) (vals : List Word) : List Byte × List Bool :=
  let c := dFmt x
  let zeroCode (v : Nat) : Bool := v % 2 ^ (codeWidth c - 1) = 0
  let scaleCodes := if isMx c then mxRow c (fun j => drainRound x d r j) vals
    else (0, vals.mapIdx fun j v => toCode c (drainRound x d r j) (ddSat d) v)
  let bytes := packElems c scaleCodes.2 ++ (if isMx c then [BitVec.ofNat 8 scaleCodes.1] else [])
  let nanBlock := isMx c && scaleCodes.1 = 0xFF
  let w := codeWidth c
  let zeros := (List.range bytes.length).map fun b =>
    !nanBlock && ((List.range vals.length).all fun j =>
      !(decide (w * j < 8 * (b + 1)) && decide (8 * b < w * (j + 1))) || zeroCode (lget scaleCodes.2 j 0))
  (bytes, zeros)

/-- The flags of the lines a drain writes: 1 for a line written wholly whose elements all encode ±0 (04 R156). -/
def drainFlags (rows : List (Nat × List Byte × List Bool)) : List (Nat × Bool) :=
  let cells := rows.flatMap fun r => r.2.2.mapIdx fun i z => (r.1 + i, z)
  let lines := (rows.flatMap fun r => (List.range (r.2.1.length / 16 + 2)).map fun i => r.1 / 16 + i).dedup
  lines.filterMap fun l =>
    let mine := cells.filter fun c => c.1 / 16 = l
    if mine.isEmpty then none else some (l, mine.length = 16 && mine.all (·.2))

def drainLatency (s : State) (n : Nat) (x : Entry) (d : BitVec 256) : Nat :=
  let mx := isMx (dFmt x)
  let extra := ddAux d = 1 || ddAux d = 2 || (decide (1 ≤ ddAct d) && decide (ddAct d ≤ 4))
  let base := if mx then 20 + (if extra then 4 else 0) else if extra then 16 else 12
  if ddAct d = 5 then
    let k := (s.program n (ddEprog d)).elim 0 fun p => p.instrs.length
    base + (if mx then 2 * k else k) + 4
  else base

/-- The command stands in the stream's item queue (03 R124, R126). -/
def State.isItemCmd (s : State) (n : Nat) (st : Stream) (x : Entry) : Bool :=
  match (s.tile n).runs.get st with
  | some r => r.queue.any fun y => y.uid = x.uid
  | none => false

def mdrainReadyAt (s : State) (n : Nat) (st : Stream) (x : Entry) (ahead : List Entry) (needLanes : Bool) : Bool :=
  let a := s.array n (dArray x)
  let d := s.drainDesc n st (dDesc x)
  (dAccs x).all (accFree a st) &&
  !(ahead.any fun y => namesAcc s n y (dArray x) (dAccs x)) && !a.draining &&
  !runTakenBy s n (dArray x) st && (!dReg x || s.regFree n [dVreg x]) &&
  (ddAct d != 5 || !needLanes || (s.tile n).vec.lanes = some (dArray x))

/-- The descriptor's MDCFG has completed (03 R108), and so has an EPLOAD of the program it names (05 R170). -/
def mdrainSettled (s : State) (n : Nat) (st : Stream) (x : Entry) : Bool :=
  let d := s.drainDesc n st (dDesc x)
  !((s.ahead n .matrix st).any fun y => !y.skip && y.op = 0x03 && y.pl 55 52 = dDesc x) &&
  (ddAct d != 5 || !s.slotLoading n (ddEprog d))

def mdrainRanges (s : State) (n : Nat) (st : Stream) (x : Entry) : List Range :=
  let d := s.drainDesc n st (dDesc x)
  (if dReg x then [] else rowRanges n x.a0 (dLdd x) (dRowLen x) 16) ++
  (if ddAmax d then [⟨tileBase n + ddAmaxAddr d, 4⟩] else [])

def cmdMdrain : Cmd where
  bad := mdrainBad
  reads s n st x :=
    let d := s.drainDesc n st (dDesc x)
    (if ddAux d = 0 then [] else [⟨tileBase n + x.a1, auxBytes d (dCols x)⟩]) ++
    (if ddAmax d then [⟨tileBase n + ddAmaxAddr d, 4⟩] else [])
  writes := mdrainRanges
  settled := mdrainSettled
  ready s n st x := mdrainReadyAt s n st x (s.ahead n .matrix st) true
  run s n st x :=
    let d := s.drainDesc n st (dDesc x)
    let cols := dCols x
    let elems := (List.range 16).map fun r => (List.range cols).map fun c => drainElem s n x d r c
    let rows := elems.mapIdx fun r vals => (x.a0 + r * dLdd x, drainRow x d r vals)
    let mag := elems.flatten.foldl (fun m v => f32max m (toF32 (f32 v).abs)) f32zero
    let item := s.isItemCmd n st x
    let out : List Effect :=
      if dReg x then [.vreg (dVreg x) (placed (elems.mapIdx (drainWords x d)).flatten 0), .unbusy (dVreg x)]
      else rows.map (fun r => Effect.store (tileBase n + r.1) r.2.1) ++
        (if dZpub x then [.zeroFlags (drainFlags rows)] else [])
    let fx := out ++ (if ddAmax d then [Effect.amax (tileBase n + ddAmaxAddr d) mag] else []) ++
      (if dKeep x then [] else (dAccs x).map fun k => if item then .zeroAcc (dArray x) k else .empty (dArray x) k) ++
      [.drainDone (dArray x)] ++ (if item then [.itemBlock] else [])
    let s1 := s.modArray n (dArray x) fun a => { a with
      draining := true
      run := none
      -- only an MMA makes an EMPTY tile HELD for good; a drain with keep = 0 holds it until it completes (03 R87)
      accs := if dKeep x then a.accs else (dAccs x).foldl (fun l k => vset l k { (vget l k {}) with held := some st }) a.accs }
    let s2 := if dReg x then s1.setBusy n [dVreg x] else s1
    s2.setEntry n .matrix st (x.start (drainLatency s n x d) fx)

/-- A lane reservation (05 R183): granted while the lanes are free to the lowest array whose drain with act 5 waits for
nothing else. -/
def laneCandidates (s : State) (n : Nat) : List Nat :=
  (List.range 4).filter fun a => allStreams.any fun st =>
    match s.head n .matrix st with
    | some (x, ahead) =>
      s.streamRuns n st && !x.skip && x.op = 0x02 && dArray x = a && ddAct (s.drainDesc n st (dDesc x)) = 5 &&
      mdrainSettled s n st x && mdrainReadyAt s n st x ahead false && (mdrainBad s n st x).isNone
    | none => false

/-! ## Dribble (03 R115–R118) -/

/-- No pass is issued and not completed on the array. -/
def State.arrayIdle (s : State) (n a : Nat) : Bool :=
  !s.passOn n a none

/-- The next stair of an idle array: 64 cycles at 100 %, then 32 at each lower level; without dribble straight to 0 %. -/
def stepDown (a : Arr) : Arr :=
  if a.gapDribble then
    { a with level := a.level - 1, dribbleCycles := a.dribbleCycles + (if a.level = 4 then 64 else if a.level = 0 then 0 else 32) }
  else { a with level := 0 }

/-- A pass waits for the array at the head of some queue, and nothing but its activity level holds it back. -/
def rampWanted (s : State) (n a : Nat) : Bool :=
  let up := s.modArray n a fun x => { x with level := 4 }
  allStreams.any fun st =>
    match up.head n .matrix st with
    | some (x, _) => !x.skip && x.op = 0x01 && mArray x = a && s.streamRuns n st && mmaReady up n st x && (mmaBad up n x).isNone
    | none => false

/-- One level up, held for 8 cycles of dribble operations. -/
def stepUp (a : Arr) : Arr := { a with level := a.level + 1, dribbleCycles := a.dribbleCycles + 8 }

end Sys2Proof.Machine
end

