-- ==== Sys2Proof/Machine/Mover.lean ====
section
/-!
DEFINITION. The mover's transfers and its forms over compressed tensors (spec/09 R301–R307; spec/04 R148–R151, R159;
spec/06 R190): MOVE, MVCOMP, REMASK, STASH, PREDLD, MASKDROP.
-/
namespace Sys2Proof.Machine

/-! ## MOVE (09 R302–R304) -/

/-- The move descriptor at S0. -/
def State.mvDesc (s : State) (n : Nat) (x : Entry) : Nat := s.tileNat n x.a0 32
def mvSdev (d : Nat) : Nat := bits d 255 248
def mvSrc (d : Nat) : Nat := bits d 247 200
def mvDdev (d : Nat) : Nat := bits d 199 192
def mvDst (d : Nat) : Nat := bits d 191 144
def mvSfmt (d : Nat) : Nat := bits d 143 140
def mvDfmt (d : Nat) : Nat := bits d 139 136
def mvRlen (d : Nat) : Nat := bits d 135 116 + 1
def mvRows (d : Nat) : Nat := bits d 115 100 + 1
def mvSstride (d : Nat) : Nat := bits d 99 80
def mvDstride (d : Nat) : Nat := bits d 79 60
def mvKind (d : Nat) : Nat := bits d 59 58
def mvSame (d : Nat) : Bool := mvSfmt d = mvDfmt d
def mvTile (d : Nat) : Nat := bits (mvDst d) 27 17
def mvBank (d : Nat) : Nat := bits (mvDst d) 16 16
/-- The first offset of a write into a control core's memory. -/
def mvCoreOff (d : Nat) : Nat := if mvKind d = 1 then bits (mvDst d) 15 0 else bits (mvDst d) 16 0
def coreBytes (kind : Nat) : Nat := if kind = 1 then 0x10000 else 0x20000
def mvZero (x : Entry) : Bool := x.plb 55

/-- Bytes of a source row and of a destination row. -/
def mvSrow (d : Nat) : Nat :=
  if mvSame d then mvRlen d else rowBytes (mvSfmt d) (mvRlen d) + (if isMx (mvSfmt d) then mvRlen d / 32 else 0)
def mvDrow (d : Nat) : Nat := if mvSame d then mvRlen d else rowBytes (mvDfmt d) (mvRlen d)
def mvSrcRows (d : Nat) : List Range := (List.range (mvRows d)).map fun i => ⟨mvSrc d + i * mvSstride d, mvSrow d⟩
def mvDstRows (d : Nat) : List Range := (List.range (mvRows d)).map fun i => ⟨mvDst d + i * mvDstride d, mvDrow d⟩
def mvCoreRows (d : Nat) : List Range := (List.range (mvRows d)).map fun i => ⟨mvCoreOff d + i * mvDstride d, mvDrow d⟩

/-- The pairs MOVE widens (09 R303). -/
def mvPair (sf df : Nat) : Bool :=
  (df = 2 && (sf = 0 || sf = 1 || isMx sf)) || (df = 9 && decide (sf ≤ 3))

def moveBad (s : State) (n : Nat) (_ : Stream) (x : Entry) : Option Bad :=
  let d := s.mvDesc n x
  let own := s.deviceNumber
  let c := s.owner n
  let sb (pos : Nat) := x.badStruct pos 56 (tileBase n + x.a0)
  let z := mvZero x
  let many := decide (1 < mvRows d)
  -- a range's lowest field: the destination stride, or the row length where there is one row (03 R100)
  let extent := sb (if many then 60 else 116)
  orBad (x.unshown [(54, 0)]) <|
  orBad (firstBad [(spanBad x.a0 32 32, x.badField 56), (x.a1 != 0, x.badField 57)]) <|
  orBad (firstBad [
    (bits d 56 0 != 0, sb 0),
    (mvKind d = 3, sb 58),
    (!mvSame d && !mvPair (mvSfmt d) (mvDfmt d), sb 136),
    (!mvSame d && isMx (mvSfmt d) && mvRlen d % 32 != 0, sb 116),
    (many && (mvSstride d % 16 != 0 || decide (mvSstride d < mvSrow d)), sb 80),
    (many && (mvDstride d % 16 != 0 || decide (mvDstride d < mvDrow d)), sb 60),
    (mvSdev d != own && mvDdev d != own, sb 192),
    (mvKind d != 0 && mvDdev d != own, sb 58),
    (mvKind d = 1 && bits (mvDst d) 47 28 != 0, sb 144),
    (mvKind d = 2 && bits (mvDst d) 47 28 != 0, sb 144),
    (mvKind d != 0 && (mvCoreRows d).any fun r => decide (coreBytes (mvKind d) < r.base + r.len), extent),
    (mvKind d = 0 && mvSdev d = mvDdev d && anyOverlap (mvSrcRows d) (mvDstRows d), extent)]) <|
  orBad (if !z && mvSdev d != own then s.windowBad c (mvSdev d) (requestSpans (mvSrcRows d)) else none) <|
  orBad (if mvKind d = 0 && mvDdev d != own then s.windowBad c (mvDdev d) (requestSpans (mvDstRows d)) else none) <|
  orBad (if mvKind d != 0 && c != 0 && s.owner (mvTile d) != c then some ⟨0x30, 0, 0⟩ else none) <|
  if mvKind d = 1 && s.bankActive (mvTile d) (mvBank d) then some ⟨0x23, 0, 0⟩ else none

/-- One row in the destination's format. -/
def widenRow (sf df k : Nat) (bs : List Byte) : List Byte :=
  let conv (v : Num) : Nat := (codeFmt df).round .nearest .toMax v
  if isMx sf then
    packElems df ((unpack sf k bs).mapIdx fun j e => conv (mxValue sf (bs.getD (rowBytes sf k + j / 32) 0).toNat e))
  else packElems df ((unpack sf k bs).map fun e => conv ((codeFmt sf).decode e))

/-- A byte string cut into rows of one length. -/
def cutRows (len : Nat) : Nat → List Byte → List (List Byte)
  | 0, _ => []
  | k + 1, bs => bs.take len :: cutRows len k (bs.drop len)

/-- The destination rows of a MOVE whose reads have all come. -/
def mvData (d : Nat) (x : Entry) : List (List Byte) :=
  if mvZero x then List.replicate (mvRows d) (List.replicate (mvDrow d) 0#8)
  else
    let rows := cutRows (mvSrow d) (mvRows d) (piecesBytes x.pieces)
    if mvSame d then rows else rows.map (widenRow (mvSfmt d) (mvDfmt d) (mvRlen d))

def moveDesc (x : Entry) : Nat :=
  match x.plan with
  | .move d => d.toNat
  | _ => 0

/-- The writes of a MOVE that leave the tile: memory, or another tile's control core. -/
def State.moveOut (s : State) (n : Nat) (st : Stream) (x : Entry) (d : Nat) (rows : List (List Byte)) : List Unsent :=
  if mvKind d = 0 then ((mvDstRows d).zip rows).flatMap fun p => s.moverParts n st x (mvDdev d) p.1.base p.2
  else if mvTile d = n then []
  else ((mvCoreRows d).zip rows).flatMap fun p => (pieceRanges p.1.base p.2.length).map fun r =>
    ⟨x, st, .core (mvTile d) (if mvKind d = 1 then some (mvBank d) else none) r.base
      ((p.2.drop (r.base - p.1.base)).take r.len)⟩

/-- The writes of a MOVE to the executing tile's own store and control core, made as it completes (log 8). -/
def State.moveOwn (s : State) (n d : Nat) (rows : List (List Byte)) : List Effect :=
  if mvKind d = 0 then
    ((mvDstRows d).zip rows).flatMap fun p => (s.ownParts n (mvDdev d) p.1.base p.2).map fun q => .store q.1 q.2
  else if mvTile d != n then []
  else ((mvCoreRows d).zip rows).map fun p =>
    if mvKind d = 1 then .imem n (mvBank d) p.1.base p.2 else .dmem n p.1.base p.2

/-- The ranges a MOVE writes, for the lock-step digest. -/
def moveOuts (s : State) (d : Nat) (rows : List (List Byte)) : List (Nat × Nat × List Byte) :=
  if mvKind d = 0 then ((mvDstRows d).zip rows).map fun p => (mvDdev d, p.1.base, p.2)
  else ((mvCoreRows d).zip rows).map fun p => (s.deviceNumber, mvDst d + (p.1.base - mvCoreOff d), p.2)

/-- A MOVE whose reads have all come: its writes leave the tile as the mover has places for them, those of its own store wait
for its completion. -/
def State.moveReady (s : State) (n : Nat) (e : Engine) (st : Stream) (x : Entry) : State :=
  match x.plan with
  | .move _ =>
    if !x.progress.isEmpty || !piecesThere x.pieces then s
    else
      let d := moveDesc x
      let rows := mvData d x
      let own := s.moveOwn n d rows
      -- contents that come from elsewhere are not known at issue: a protected bit refuses them now (log 27)
      let bad := x.pieces.any (fun p => p.dev != s.deviceNumber || s.homePlace p.addr != .tile n) &&
        own.any fun f => match f with
          | .store a bytes => s.extentBadAt a bytes
          | _ => false
      if bad then s.setEntry n e st { x with failing := some (0x20, 0, 0), progress := [1] }
      else (s.setEntry n e st { x with effects := own, outs := moveOuts s d rows, progress := [1] }).moverSend n
        (s.moveOut n st { x with pieces := [] } d rows)
  | _ => s

/-- Requests of an entry that still wait for the mover's places. -/
def State.stillUnsent (s : State) (n : Nat) (x : Entry) : Bool := (s.tile n).unsent.any fun u => u.entry.uid = x.uid

def cmdMove : Cmd where
  bad := moveBad
  reads s n _ x :=
    let d := s.mvDesc n x
    ⟨tileBase n + x.a0, 32⟩ :: (if mvZero x || mvSdev d != s.deviceNumber then [] else mvSrcRows d)
  writes s n _ x :=
    let d := s.mvDesc n x
    if mvKind d = 0 && mvDdev d = s.deviceNumber then mvDstRows d else []
  run s n st x :=
    let d := s.mvDesc n x
    let own := mvKind d = 0 ∧ mvDdev d = s.deviceNumber
    let ps := if mvZero x then (s, []) else s.makePieces n (mvSdev d) ((mvSrcRows d).flatMap fun r => pieceRanges r.base r.len)
    let x' := { x with latency := (mvRows d * mvDrow d + 255) / 256, plan := Plan.move (BitVec.ofNat 256 d), pieces := ps.2,
                       writes := if own then mvDstRows d else [] }
    (ps.1.pumpEntry n .mover st x').moveReady n .mover st x'
  -- every read has returned, every write elsewhere has been sent (09 R304)
  done s n _ x := !x.progress.isEmpty && !s.stillUnsent n x

/-! ## Compressed tensors (09 R305, R306; 04 R149–R151) -/

def cW (d : Nat) : Nat := bits d 255 234
def cLdw (d : Nat) : Nat := bits d 233 214
def cMask (d : Nat) : Nat := bits d 213 192
def cLdm (d : Nat) : Nat := bits d 191 172
def cOut (d : Nat) : Nat := bits d 171 150
def cPat (d : Nat) : Nat := bits d 149 128
def cPatEn (d : Nat) : Bool := bit d 127
def cPbase (d : Nat) : Nat := bits d 126 105
def cLdp (d : Nat) : Nat := bits d 104 96
def cFmt (d : Nat) : Nat := bits d 95 92
def cPfmt (d : Nat) : Nat := bits d 91 88
def cK (d : Nat) : Nat := 16 * (bits d 87 80 + 1)
def cN (d : Nat) : Nat := 16 * (bits d 79 72 + 1)
def cLenw (d : Nat) : Nat := bits d 71 50

/-- Position (k, j) is kept by the bitmap. -/
def maskBit (s : State) (n d k j : Nat) : Bool := (s.tileNat n (cMask d + k * cLdm d + j / 8) 1).testBit (j % 8)

def up16 (n : Nat) : Nat := (n + 15) / 16 * 16

/-- The tile of rows 16 bk and columns 16 bj: header and body. -/
def compressTile (s : State) (n d : Nat) (cols : List (List Elem)) (bk bj : Nat) : List Byte :=
  let c := cFmt d
  let w := codeWidth c
  let kept (r j : Nat) : Bool := maskBit s n d (16 * bk + r) (16 * bj + j)
  let el (r j : Nat) : Elem := lget (lget cols (16 * bj + j) []) (16 * bk + r) ⟨0, 0⟩
  let words := (List.range 16).map fun j => (List.range 16).foldl (fun m r => if kept r j then m + 2 ^ r else m) 0
  let cnts := words.map (popCount 16)
  let v := up16 ((w * cnts.sum + 7) / 8)
  let dd := w * 32
  let scales := if isMx c then (List.range 16).map fun j => BitVec.ofNat 8 (el 0 j).scale else []
  let comp := decide (32 + v ≤ dd)
  let body :=
    if comp then
      let vals := (List.range 16).flatMap fun j => ((List.range 16).filter fun r => kept r j).map fun r => (el r j).code
      let bs := packElems c vals
      words.flatMap (natLE 2) ++ scales ++ bs ++ List.replicate (v - bs.length) 0#8
    else
      scales ++ packElems c ((List.range 256).map fun i => if kept (i / 16) (i % 16) then (el (i / 16) (i % 16)).code else 0)
  let cnt := ((List.range 16).foldl (fun m j => m + (if comp then lget cnts j 0 else 16) <<< (5 * j)) 0)
  natLE 16 (pack [(4, c), (2, if comp then 0 else 1), (8, body.length / 16), (18, 0), (9, 0), (7, 0), (80, cnt)]) ++ body

/-- The pattern tile of rows 16 bk and columns 64 bq. -/
def patternTile (s : State) (n d bk bq : Nat) : List Byte :=
  let addr := cPbase d + 64 * bq * (codeWidth (cPfmt d) / 8)
  let words := (List.range 64).map fun q =>
    (List.range 16).foldl (fun m r => if maskBit s n d (16 * bk + r) (64 * bq + q) then m + 2 ^ r else m) 0
  natLE 16 (pack [(4, 0), (2, 2), (8, 8), (18, addr / 16), (9, cLdp d), (7, 0), (80, 0)]) ++ words.flatMap (natLE 2)

def compressBytes (s : State) (n d : Nat) : List Byte :=
  let cols := operand s n (cW d) (cLdw d) (cFmt d) (cK d) (cN d) false
  (List.range (cN d / 16)).flatMap fun bj => (List.range (cK d / 16)).flatMap fun bk => compressTile s n d cols bk bj
def patternBytes (s : State) (n d : Nat) : List Byte :=
  if cPatEn d then
    (List.range (cK d / 16)).flatMap fun bk => (List.range (cN d / 64)).flatMap fun bq => patternTile s n d bk bq
  else []

def compReads (n d : Nat) : List Range :=
  opRanges n (cW d) (cLdw d) (cFmt d) (cK d) (cN d) false ++ rowRanges n (cMask d) (cLdm d) (cN d / 8) (cK d)

def overlapsExtent (xs : List (Range × Range)) (rs : List Range) : Bool :=
  xs.any fun x => anyOverlap [x.1, x.2] rs

/-- The checks MVCOMP and REMASK share; `others` are the extents the output may not overlap. -/
def compressBad (s : State) (n : Nat) (x : Entry) (others : List (Range × Range)) : Option Bad :=
  let d := s.tileNat n x.a0 32
  let sb (pos : Nat) := x.badStruct pos 56 (tileBase n + x.a0)
  orBad (x.unshown [(55, 0)]) <|
  orBad (firstBad [(spanBad x.a0 32 32, x.badField 56), (x.a1 != 0, x.badField 57)]) <|
  orBad (firstBad [
    (bits d 49 0 != 0, sb 0),
    (decide (8 < cFmt d), sb 92),
    (decide (3 < cPfmt d), sb 88),
    (isMx (cFmt d) && cK d % 32 != 0, sb 80),
    (cPatEn d && cN d % 64 != 0, sb 72),
    (cLdw d % 16 != 0, sb 214),
    (decide (cLdw d < opMaxLen (cFmt d) (cK d) (cN d) false), sb 72),
    (cLdm d % 16 != 0, sb 172),
    (decide (cLdm d < cN d / 8), sb 72),
    (cLenw d % 4 != 0 || decide (tileStoreBytes < cLenw d + 4), sb 50),
    (cPatEn d && cPbase d % 16 != 0, sb 105),
    (cPatEn d && spanBad (cPat d) 16 1, sb 128),
    (spanBad (cOut d) 16 1, sb 150),
    -- each of these ends depends on N, whose field lies lowest (03 R100)
    ((cPatEn d && decide (tileStoreBytes < cPat d + 144 * (cK d / 16) * (cN d / 64))) ||
      decide (tileStoreBytes < opEnd (cW d) (cLdw d) (cFmt d) (cK d) (cN d) false) ||
      decide (tileStoreBytes < cMask d + (cK d - 1) * cLdm d + cN d / 8) ||
      decide (tileStoreBytes < cOut d + (compressBytes s n d).length), sb 72)]) <|
  let comp := compressBytes s n d
  let pat := patternBytes s n d
  if overlapsExtent others [⟨cOut d, comp.length⟩, ⟨cPat d, pat.length⟩] ||
      s.extentBad n (cLenw d) (natLE 4 comp.length) then some badState else none

/-- No other command of the tile's mover that changes extents is under way. -/
def State.extentsStill (s : State) (n : Nat) : Bool :=
  !((s.tile n).queues.mover.list.any fun q => q.entries.any fun y =>
    y.issued && !y.skip && (y.op = 0x02 || y.op = 0x03 || y.op = 0x06))

def compRun (s : State) (n : Nat) (st : Stream) (x : Entry) : State :=
  let d := s.tileNat n x.a0 32
  let comp := compressBytes s n d
  let pat := patternBytes s n d
  s.setEntry n .mover st (x.start 1 (
    [.store (tileBase n + cOut d) comp] ++
    (if cPatEn d then [.store (tileBase n + cPat d) pat] else []) ++
    [.store (tileBase n + cLenw d) (natLE 4 comp.length), .extent (cOut d) comp.length (cPat d) pat.length]))

def compWrites (s : State) (n : Nat) (x : Entry) : List Range :=
  let d := s.tileNat n x.a0 32
  [⟨tileBase n + cOut d, (compressBytes s n d).length⟩, ⟨tileBase n + cPat d, (patternBytes s n d).length⟩,
   ⟨tileBase n + cLenw d, 4⟩]

def cmdMvcomp : Cmd where
  bad s n _ x :=
    orBad (compressBad s n x (s.tile n).extents)
      (if 64 ≤ (s.tile n).extents.length then some badState else none)
  reads s n _ x := ⟨tileBase n + x.a0, 32⟩ :: compReads n (s.tileNat n x.a0 32)
  writes s n _ x := compWrites s n x
  ready s n _ _ := s.extentsStill n
  run := compRun

/-- A forward or backward command of the tile is queued or running (04 R148). -/
def State.passesQueued (s : State) (n : Nat) : Bool :=
  [Stream.fwd, Stream.bwd].any fun st => allEngines.any fun e =>
    !(s.queue n e st).entries.isEmpty || !(s.entries n e st).isEmpty

def cmdRemask : Cmd where
  bad s n st x :=
    let d := s.tileNat n x.a0 32
    if st != .upd then some badState
    else
      orBad (compressBad s n x ((s.tile n).extents.filter fun y => y.1.base != cOut d))
        (if s.passesQueued n || !((s.tile n).extents.any fun y => y.1.base = cOut d) then some badState else none)
  reads s n _ x := ⟨tileBase n + x.a0, 32⟩ :: compReads n (s.tileNat n x.a0 32)
  writes s n _ x := compWrites s n x
  ready s n _ _ := s.extentsStill n
  run := compRun

def cmdMaskdrop : Cmd where
  bad s n _ x :=
    orBad (orBad (x.unshown [(55, 0)]) (firstBad [(x.a1 != 0, x.badField 57)]))
      (if (s.tile n).extents.any fun y => y.1.base = x.a0 then none else some badState)
  ready s n _ _ := s.extentsStill n
  run s n st x := s.setEntry n .mover st (x.start 1 [.extent x.a0 0 0 0])

/-! ## STASH and PREDLD (09 R307) -/

def stRows (x : Entry) : Nat := x.pl 51 44 + 1
def stCols (x : Entry) : Nat := x.pl 43 36 + 1
def stStride (x : Entry) : Nat := (x.pl 35 27 + 1) * 16
def stRow (x : Entry) : Nat := rowBytes (x.pl 55 52) (16 * stCols x)

/-- The word of row r of block (bi, bj): bit c is 1 where the value is greater than zero. -/
def stashWord (s : State) (n : Nat) (x : Entry) (bi bj r : Nat) : Nat :=
  let c := x.pl 55 52
  let row := unpack c 16 (s.tileBytes n (x.a0 + (16 * bi + r) * stStride x + rowBytes c (16 * bj)) (rowBytes c 16))
  (row.mapIdx fun i v => if Num.lt Num.zero ((codeFmt c).decode v) then 2 ^ i else 0).sum

def cmdStash : Cmd where
  bad _ _ _ x :=
    orBad (x.unshown [(26, 0)]) (firstBad [
      (x.pl 55 52 != 2 && x.pl 55 52 != 9, x.badField 52),
      (decide (stStride x < stRow x), x.badField 27),
      (spanBad x.a0 16 1, x.badField 56),
      (spanBad x.a1 1 1, x.badField 57),
      (decide (tileStoreBytes < x.a0 + (16 * stRows x - 1) * stStride x + stRow x), x.badField 27),
      (decide (tileStoreBytes < x.a1 + 32 * stRows x * stCols x), x.badField 36)])
  reads _ n _ x := rowRanges n x.a0 (stStride x) (stRow x) (16 * stRows x)
  writes _ n _ x := [⟨tileBase n + x.a1, 32 * stRows x * stCols x⟩]
  run s n st x :=
    let bytes := (List.range (stRows x)).flatMap fun bi => (List.range (stCols x)).flatMap fun bj =>
      (List.range 16).flatMap fun r => natLE 2 (stashWord s n x bi bj r)
    s.setEntry n .mover st (x.start 1 [.store (tileBase n + x.a1) bytes])

def cmdPredld : Cmd where
  bad _ _ _ x := orBad (x.unshown [(30, 0)]) (firstBad [(x.a1 != 0, x.badField 57)])
  run s n st x :=
    s.setEntry n .mover st (x.start 1 [.predictor (x.pl 55 52)
      (BitVec.ofNat 64 (pack [(1, x.pl 49 49), (2, x.pl 51 50), (29, x.pl 48 31), (32, x.a0)]))])

end Sys2Proof.Machine
end

