-- ==== Sys2Proof/Machine/Update.lean ====
section
/-!
DEFINITION. The update unit and snapshots (spec/06 R201–R219): OPTCFG, OPTSTEP, AMAXSTEP, SNAP, and the shipping of a
snapshot's pages.
-/
namespace Sys2Proof.Machine

/-- A command of the update unit on another stream is refused (06 R201). -/
def updOnly (st : Stream) : Option Bad := if st = .upd then none else some badState

/-! ## Optimiser descriptors (06 R202) -/

def oAlgo (d : Nat) : Nat := bits d 511 509
def oGfmt (d : Nat) : Nat := bits d 508 507
def oBf16 (d : Nat) : Bool := bit d 506
def oEprog (d : Nat) : Nat := bits d 505 502
def oSrw (d : Nat) : Bool := bit d 501
def oSrm (d : Nat) : Bool := bit d 500
/-- An FP32 scalar of the descriptor, by its lowest bit. -/
def oF32 (d lo : Nat) : Word := BitVec.ofNat 32 (bits d (lo + 31) lo)
def oSeed (d : Nat) : Nat := bits d 127 64
def State.optDesc (s : State) (n k : Nat) : Nat := (tget (0 : BitVec 512) k (s.tile n).optDescs).toNat

def cmdOptcfg : Cmd where
  bad _ _ st x :=
    orBad (updOnly st) (orBad (x.unshown [(52, 0)])
      (firstBad [(spanBad x.a0 64 64, x.badField 56), (x.a1 != 0, x.badField 57)]))
  reads _ n _ x := [⟨tileBase n + x.a0, 64⟩]
  run s n st x :=
    s.setEntry n .mover st (x.start 1 [.optDesc (x.pl 55 53) (BitVec.ofNat 512 (s.tileNat n x.a0 64)),
      .loadedFrom (100 + x.pl 55 53) (tileBase n + x.a0)])

/-! ## OPTSTEP (06 R203–R210) -/

structure StepBlock where
  wHi : Nat
  wLo : Nat
  g : Nat
  mCodes : Nat
  mScales : Nat
  vA : Nat
  vB : Nat
  pres : Nat
  presEn : Bool
  ncol : Nat
  first : Nat
deriving DecidableEq, Repr

def stepBlock (b : Nat) : StepBlock :=
  { wHi := bits b 255 234, wLo := bits b 233 212, g := bits b 211 190, mCodes := bits b 189 168, mScales := bits b 167 146,
    vA := bits b 145 124, vB := bits b 123 102, pres := bits b 101 80, presEn := bit b 79, ncol := bits b 78 67 + 1,
    first := bits b 63 32 }

def oBlocks (x : Entry) : Nat := x.pl 52 40 + 1
def oElems (x : Entry) : Nat := 64 * oBlocks x
def State.oBlock (s : State) (n : Nat) (x : Entry) : StepBlock := stepBlock (s.tileNat n x.a0 32)

/-- The step block names ZB8u planes of a second moment: AdamW always; an element program where v_a or v_b is not 0 (log 28). -/
def hasV (d : Nat) (b : StepBlock) : Bool := oAlgo d = 0 || (oAlgo d = 3 && (b.vA != 0 || b.vB != 0))

/-- The arrays of a step: offset, bytes, alignment, and the position of its field in the step block. -/
def optArrays (d : Nat) (b : StepBlock) (e : Nat) : List (Nat × Nat × Nat × Nat) :=
  [(b.wHi, 2 * e, 2, 234)] ++ (if oBf16 d then [] else [(b.wLo, 2 * e, 2, 212)]) ++
  [(b.g, (if oGfmt d = 0 then 2 else 4) * e, if oGfmt d = 0 then 2 else 4, 190), (b.mCodes, e, 64, 168),
   (b.mScales, 2 * (e / 64), 2, 146)] ++
  (if hasV d b then [(b.vA, e, 64, 124), (b.vB, 2 * (e / 64), 2, 102)] else []) ++
  (if oAlgo d = 1 then [(b.vA, 4 * ((b.first + e - 1) / b.ncol + 1), 4, 124), (b.vB, 4 * b.ncol, 4, 102)] else []) ++
  (if b.presEn then [(b.pres, 4, 4, 80)] else [])

/-- The lowest position among the step block's fields that say where an array ends: of the factored statistics, that of the
first index and that of the row length (03 R100). -/
def optEndPos (d pos : Nat) : Nat :=
  if oAlgo d = 1 && pos = 124 then 32 else if oAlgo d = 1 && pos = 102 then 67 else pos

/-- What a step writes: the weights, unless it only decays the moments of an absent expert (06 R208), and the moments. -/
def optWrites (n d : Nat) (b : StepBlock) (e : Nat) (decay : Bool) : List Range :=
  (if decay then [] else
    [⟨tileBase n + b.wHi, 2 * e⟩] ++ (if oBf16 d then [] else [⟨tileBase n + b.wLo, 2 * e⟩])) ++
  [⟨tileBase n + b.mCodes, e⟩, ⟨tileBase n + b.mScales, 2 * (e / 64)⟩] ++
  (if hasV d b then [⟨tileBase n + b.vA, e⟩, ⟨tileBase n + b.vB, 2 * (e / 64)⟩] else [])

/-- The expert is absent (06 R208), read at issue. -/
def State.optAbsent (s : State) (n : Nat) (b : StepBlock) : Bool := b.presEn && !(s.tileNat n b.pres 4).testBit 0
def State.optSkips (s : State) (n : Nat) (b : StepBlock) : Bool :=
  s.optAbsent n b && (s.ctx (s.owner n)).absentPolicy = 0

def optBad (s : State) (n : Nat) (st : Stream) (x : Entry) : Option Bad :=
  let k := x.pl 55 53
  let d := s.optDesc n k
  let raw := s.tileNat n x.a0 32
  let b := stepBlock raw
  let e := oElems x
  let dAt := tget 0 (100 + k) (s.tile n).descAt
  let db (pos : Nat) := x.badStruct pos 53 dAt
  let sb (pos : Nat) := x.badStruct pos 56 (tileBase n + x.a0)
  orBad (updOnly st) <|
  orBad (x.unshown [(39, 0)]) <|
  orBad (firstBad [(spanBad x.a0 32 32, x.badField 56), (x.a1 != 0, x.badField 57)]) <|
  orBad (firstBad [
    (decide (4 ≤ oAlgo d), db 509),
    (decide (2 ≤ oGfmt d), db 507),
    (bits d 499 480 != 0, db 480),
    (bits d 63 0 != 0, db 0),
    (bits raw 31 0 != 0, sb 0),
    (bits raw 66 64 != 0, sb 64),
    (b.first % 64 != 0, sb 32),
    (oBf16 d && b.wLo != 0, sb 212),
    (oAlgo d = 2 && b.vA != 0, sb 124),
    (oAlgo d = 2 && b.vB != 0, sb 102)]) <|
  orBad ((optArrays d b e).findSome? fun a => firstBad [
    (spanBad a.1 a.2.2.1 1, sb a.2.2.2), (decide (tileStoreBytes < a.1 + a.2.1), sb (optEndPos d a.2.2.2))]) <|
  if oAlgo d = 3 then
    match s.program n (oEprog d) with
    | none => some badState
    | some p =>
      if p.impure then some (db 502)
      else if s.optAbsent n b && (s.ctx (s.owner n)).absentPolicy = 1 then some badState else none
  else none

/-- What one element becomes: w′, m′, v′ (06 R204, R205). -/
structure OptOut where
  w : Word
  m : Word
  v : Word
deriving DecidableEq, Repr

def signWord (x : Word) : Word :=
  let v := f32 x
  if v.isNan then f32nan else if Num.eqv v Num.zero then f32zero else if v.sign then 0xBF800000#32 else f32one

/-- One element's update by the descriptor's algorithm (06 R203–R205). In an element program of algo 3 the operands r and c, the
element's row and column, read as 0: R205 gives an OPTSTEP no position (log 80). -/
def optElem (p : Program) (d : Nat) (g w m v row col : Word) : OptOut :=
  let lr := oF32 d 448
  let b1 := oF32 d 416
  let ob1 := oF32 d 384
  let b2 := oF32 d 352
  let ob2 := oF32 d 320
  let eps := oF32 d 288
  let wd := oF32 d 256
  let c1 := oF32 d 224
  let c2 := oF32 d 192
  let inv := oF32 d 128
  let next (u : Word) : Word := f32fma (f32neg lr) (f32fma wd w u) w
  match oAlgo d with
  | 0 =>
    let m' := f32fma b1 m (f32mul ob1 g)
    let v' := f32fma b2 v (f32mul ob2 (f32mul g g))
    ⟨next (f32div (f32mul m' c1) (f32add (f32sqrt (f32mul v' c2)) eps)), m', v'⟩
  | 1 =>
    let m' := f32fma b1 m (f32mul ob1 g)
    let v' := f32mul (f32mul row col) inv
    ⟨next (f32div (f32mul m' c1) (f32add (f32sqrt v') eps)), m', v'⟩
  | 2 =>
    ⟨next (signWord (f32fma b1 m (f32mul ob1 g))), f32fma b2 m (f32mul ob2 g), v⟩
  | _ =>
    let t := epRun p { r := 0, c := 0 } [w, g, m, v, 0, 0, 0, 0]
    ⟨lget t 0 0, lget t 2 0, lget t 3 0⟩

/-- Everything one element needs, read from the store. -/
def optRun (s : State) (n : Nat) (x : Entry) (d : Nat) (b : StepBlock) (decay : Bool) : List OptOut :=
  let e := oElems x
  let p := (s.program n (oEprog d)).getD ⟨[], []⟩
  let raw (a w : Nat) : List Nat := chunksOf (8 * w) e (leNat (s.tileBytes n a (w * e)))
  let hi := raw b.wHi 2
  let lo := if oBf16 d then [] else raw b.wLo 2
  let g := raw b.g (if oGfmt d = 0 then 2 else 4)
  let mc := raw b.mCodes 1
  let vc := if hasV d b then raw b.vA 1 else []
  let scale (a i : Nat) : Nat := s.tileNat n (a + 2 * (i / 64)) 2
  (List.range e).map fun i =>
    let w : Word := if oBf16 d then bf16Word (lget hi i 0) else BitVec.ofNat 32 (lget hi i 0 * 65536 + lget lo i 0)
    let gw : Word := if oGfmt d = 0 then bf16Word (lget g i 0) else BitVec.ofNat 32 (lget g i 0)
    let m := zb8sDecode (scale b.mScales i) (lget mc i 0)
    let v := if hasV d b then zb8uDecode (scale b.vB i) (lget vc i 0) else f32zero
    let t := b.first + i
    let row := if oAlgo d = 1 then leWord (s.tileBytes n (b.vA + 4 * (t / b.ncol)) 4) else 0
    let col := if oAlgo d = 1 then leWord (s.tileBytes n (b.vB + 4 * (t % b.ncol)) 4) else 0
    optElem p d (if decay then f32zero else f32mul gw (oF32 d 160)) w m v row col

def optDraw (d : Nat) (b : StepBlock) (i : Nat) (moment : Bool) : Nat :=
  draw32 (oSeed d) ((b.first + i) % 2 ^ 32 + (if moment then 2 ^ 32 else 0)) 2

/-- ZB8 planes of a list of values: codes and scales. -/
def zb8Planes (isU : Bool) (vals : List Word) (blocks : Nat) (draw : Nat → Option Nat) : List Byte × List Byte :=
  let bs := (List.range blocks).map fun k => zb8Encode isU ((vals.drop (64 * k)).take 64) fun i => draw (64 * k + i)
  ((bs.flatMap (·.2)).map (BitVec.ofNat 8), bs.flatMap fun b => natLE 2 b.1)

/-- Weight results as bytes (06 R206). -/
def optWeights (n d : Nat) (b : StepBlock) (out : List OptOut) : List Effect :=
  if oBf16 d then
    [.store (tileBase n + b.wHi) (packElems 2 (out.mapIdx fun i o =>
      toCode 2 (if oSrw d then .stochastic (optDraw d b i false) else .nearest) false o.w))]
  else
    let ws := out.map fun o => if (f32 o.w).isNan then f32nan else o.w
    [.store (tileBase n + b.wHi) (ws.flatMap fun w => natLE 2 (w.toNat / 65536)),
     .store (tileBase n + b.wLo) (ws.flatMap fun w => natLE 2 (w.toNat % 65536))]

def optEffects (s : State) (n : Nat) (x : Entry) (d : Nat) (b : StepBlock) : List Effect :=
  let decay := s.optAbsent n b
  let out := optRun s n x d b decay
  let m := zb8Planes false (out.map (·.m)) (oBlocks x) fun i => if oSrm d then some (optDraw d b i true) else none
  let v := zb8Planes true (out.map (·.v)) (oBlocks x) fun _ => none
  (if decay then [] else optWeights n d b out) ++
  [.store (tileBase n + b.mCodes) m.1, .store (tileBase n + b.mScales) m.2] ++
  (if hasV d b then [.store (tileBase n + b.vA) v.1, .store (tileBase n + b.vB) v.2] else [])

/-- Cycles one block occupies the unit (06 R210). -/
def optCycles (s : State) (n : Nat) (d : Nat) (b : StepBlock) : Nat :=
  let r := 128 + (if oBf16 d then 0 else 128) + (if oGfmt d = 0 then 128 else 256) + 66 + (if hasV d b then 66 else 0)
  let w := 128 + (if oBf16 d then 0 else 128) + 66 + (if hasV d b then 66 else 0)
  let base := max (cdiv r 256) (cdiv w 256)
  if oAlgo d = 3 then max base (cdiv ((s.program n (oEprog d)).elim 0 fun p => p.instrs.length) 4) else base

/-- OPTSTEP: with algo 3 the groups of four blocks that have not had a lane reservation yet stand in its progress (06 R210). -/
def cmdOptstep : Cmd where
  bad := optBad
  reads s n _ x :=
    let b := s.oBlock n x
    ⟨tileBase n + x.a0, 32⟩ :: (optArrays (s.optDesc n (x.pl 55 53)) b (oElems x)).map fun a => ⟨tileBase n + a.1, a.2.1⟩
  writes s n _ x :=
    let b := s.oBlock n x
    if s.optSkips n b then [] else optWrites n (s.optDesc n (x.pl 55 53)) b (oElems x) (s.optAbsent n b)
  settled s n st x :=
    let d := s.optDesc n (x.pl 55 53)
    !((s.ahead n .mover st).any fun y => !y.skip && y.op = 0x40 && y.pl 55 53 = x.pl 55 53) &&
    (oAlgo d != 3 || !s.slotLoading n (oEprog d))
  run s n st x :=
    let d := s.optDesc n (x.pl 55 53)
    let b := s.oBlock n x
    if s.optSkips n b then s.setEntry n .mover st (x.start 4 [])
    else
      let x1 := x.start (oBlocks x * optCycles s n d b + 24) (optEffects s n x d b)
      s.setEntry n .mover st { x1 with progress := if oAlgo d = 3 then List.replicate (cdiv (oBlocks x) 4) 0 else [] }
  -- every group of four blocks has had the vector lanes
  done _ _ _ x := x.progress.isEmpty
  finish s n _ _ := s.modTile n fun t => if t.vec.lanes = some 4 then { t with vec := { t.vec with lanes := none } } else t

/-! ## AMAXSTEP (06 R211, R212) -/

def axLen (h : Nat) : Nat := bits h 105 96 + 1
def axHead (h : Nat) : Nat := bits h 115 106

/-- ⌊log₂(fmax / H)⌋ for a finite H greater than 0: the largest e with H × 2^e ≤ fmax. -/
def log2Ratio (fmax h : Num) : Int :=
  let e := fmax.floorLog2 - h.floorLog2
  if Num.le (Num.mul h (.fin false 1 e)) fmax then e else e - 1

def cmdAmaxstep : Cmd where
  bad s n st x :=
    let h := s.tileNat n x.a0 64
    let sb (pos : Nat) := x.badStruct pos 56 (tileBase n + x.a0)
    orBad (updOnly st) <| orBad (x.unshown [(55, 0)]) <|
    orBad (firstBad [(spanBad x.a0 64 64, x.badField 56), (x.a1 != 0, x.badField 57)]) <|
    firstBad [
      (bits h 511 160 != 0, sb 160),
      (bits h 127 124 != 0, sb 124),
      (decide (3 < bits h 119 116), sb 116),
      -- head and len - 1 together: the lower position is that of len - 1 (03 R100)
      (decide (axLen h ≤ axHead h), sb 96),
      (decide (tileStoreBytes < x.a0 + 64 + 4 * axLen h), x.badField 56)]
  reads s n _ x := [⟨tileBase n + x.a0, 64 + 4 * axLen (s.tileNat n x.a0 64)⟩]
  writes s n _ x := [⟨tileBase n + x.a0, 64 + 4 * axLen (s.tileNat n x.a0 64)⟩]
  run s n st x :=
    let h := s.tileNat n x.a0 64
    let l := axLen h
    let cur := bits h 95 64
    let at' := tileBase n + x.a0
    let ring := ((List.range l).map fun j => s.tileNat n (x.a0 + 64 + 4 * j) 4).set (axHead h) cur
    let nums := ring.map fun v => f32 (BitVec.ofNat 32 v)
    let bad := nums.any fun v => v.isNan || v.isInf
    let top := foldNum Num.max nums
    let f := codeFmt (bits h 119 116)
    let e := max (-126) (min 127 (log2Ratio (f.decode f.maxCode) top - (bits h 123 120 : Int)))
    -- a history whose largest entry is negative has no stated scale (log 15)
    let free := s.free 1
    let scales : List Effect :=
      if bad || Num.eqv top Num.zero then []
      else if top.sign then
        [.store at' (natLE 4 (Config.freeWord 1 s.draws).toNat ++ natLE 4 (Config.freeWord 2 s.draws).toNat)]
      else [.store at' (natLE 4 (toF32 (.fin false 1 e)).toNat ++ natLE 4 (toF32 (.fin false 1 (-e))).toNat)]
    let head := (axHead h + 1) % l
    let word3 := pack [(4, 0), (4, bits h 123 120), (4, bits h 119 116), (10, head), (10, l - 1)]
    let fx : List Effect := [.store (at' + 64 + 4 * axHead h) (natLE 4 cur)] ++ scales ++
      [.store (at' + 8) (natLE 4 0 ++ natLE 4 word3)] ++
      (if bad then [.store (at' + 16) (natLE 4 (min 0xFFFFFFFF (bits h 159 128 + 1)))] else [])
    free.2.setEntry n .mover st (x.start (8 + cdiv l 64) fx)

/-! ## Fences (08 R270) -/

/-- Every command of the stream that entered one of its six queues before entry `uid`, and has not completed. -/
def State.covered (s : State) (n : Nat) (st : Stream) (uid : Nat) : List Entry :=
  allEngines.flatMap fun e => (s.queue n e st).entries.filter fun y => decide (y.uid < uid)
/-- Every covered write is visible: at tile scope when its command has completed; at team and device scope when those that
left the tile for the own device are acknowledged; at fabric scope when the others are too. -/
def State.fenced (s : State) (n : Nat) (st : Stream) (uid scope : Nat) : Bool :=
  (s.covered n st uid).isEmpty &&
  (scope = 0 || !s.writesOwed n fun t e remote => t = st && decide (e < uid) && (!remote || scope = 3))

/-! ## Snapshots (06 R214–R219) -/

def snKind (d : Nat) : Nat := bits d 511 510
def snDest (d : Nat) : Nat := bits d 509 446
def snRegs (d : Nat) : Nat := bits d 413 410 + 1
def State.snRegions (s : State) (n : Nat) (x : Entry) : List (BitVec 128) :=
  (List.range (snRegs (s.tileNat n x.a0 64))).map fun i => BitVec.ofNat 128 (s.tileNat n (x.a0 + 64 + 16 * i) 16)
def snapBase (r : BitVec 128) : Nat := bits r.toNat 127 80
def snapCount (r : BitVec 128) : Nat := bits r.toNat 79 56

def snapBad (s : State) (n : Nat) (st : Stream) (x : Entry) : Option Bad :=
  let d := s.tileNat n x.a0 64
  let c := s.owner n
  let sb (pos : Nat) := x.badStruct pos 56 (tileBase n + x.a0)
  let rs := s.snRegions n x
  let pages := (rs.map snapCount).sum
  orBad (updOnly st) <| orBad (x.unshown [(55, 0)]) <|
  orBad (firstBad [
    (x.teamCmd = none, ⟨0x11, detailHeader x.op 90, 0⟩),
    (spanBad x.a0 64 64, x.badField 56),
    (x.a1 != 0, x.badField 57),
    (decide (2 ≤ snKind d), sb 510),
    (snKind d = 1 && bits d 509 502 != 0, sb 446),
    (bits d 409 0 != 0, sb 0),
    (decide (tileStoreBytes < x.a0 + 64 + 16 * snRegs d), sb 410)]) <|
  orBad ((List.range rs.length).findSome? fun i =>
    let r := lget rs i 0
    let rb (pos : Nat) := x.badStruct pos 56 (tileBase n + x.a0 + 64 + 16 * i)
    firstBad [
      (snapBase r % 4096 != 0, rb 80), (snapCount r = 0, rb 56), (bits r.toNat 55 0 != 0, rb 0)]) <|
  orBad (rs.findSome? fun r => (s.memFault c (snapBase r) (snapCount r * 4096)).map fun b => ⟨0x30, 0, s.ownAddr b⟩) <|
  orBad (if s.gtallyOk c (bits d 429 414) then none else some ⟨0x15, detailTally 2 (bits d 429 414), 0⟩) <|
  orBad (if snKind d = 1 then s.windowBad c (bits d 501 494) (requestSpans [⟨bits d 493 446, pages * 4096 + 64⟩]) else none) <|
  if (s.ctx c).reservePages = 0 then some badState else none

def cmdSnap : Cmd where
  bad := snapBad
  reads s n _ x := [⟨tileBase n + x.a0, 64 + 16 * snRegs (s.tileNat n x.a0 64)⟩]
  -- the member's previous snapshot has signalled its done_tally
  ready s n st _ :=
    !(s.snaps.any fun e => e.2.done.contains n) &&
    !((s.ahead n .mover st).any fun y => !y.skip && y.op = 0x43)
  run s n st x := s.setEntry n .mover st { x with progress := [s.tileNat n x.a0 64] }
  done s n st x := s.fenced n st x.uid 2
  finish s n _ x :=
    match x.teamCmd with
    | none => s
    | some cmd =>
      let team := (tget { team := 0, ctx := 0, tile := 0, stream := .upd, tag := 0, left := [] } cmd s.teamCmds).team
      let sn : Snap := tget { ctx := s.owner n, desc := BitVec.ofNat 512 (s.tileNat n x.a0 64), regions := s.snRegions n x,
                              word := x.word, chan := x.chan, entry := x.uid } team s.snaps
      { s with snaps := tset team { sn with fenced := n :: sn.fenced, done := n :: sn.done } s.snaps }

/-- The SNAP whose channel and tag the shipping carries. -/
def Snap.asEntry (sn : Snap) : Entry := {
  uid := sn.entry, word := sn.word, s0 := 0, s1 := 0, chan := sn.chan, ctx := sn.ctx, skip := false }

/-- The snapshot's end record (06 R217). -/
def endRecord (sn : Snap) : List Byte :=
  let d := sn.desc.toNat
  natLE 64 (pack [(16, bits d 445 430), (8, sn.ctx), (32, (snapPages sn).length), (200, 0),
    (256, leNat (shake256 sn.bytes 32))])

/-- Bytes of a snapshot sent to `off` bytes behind its destination, by the leader's mover. -/
def State.shipTo (s : State) (leader : Nat) (sn : Snap) (off : Nat) (bytes : List Byte) : State :=
  let d := sn.desc.toNat
  if snKind d = 0 then { s with sent := .hostWrite (s.ctx sn.ctx).function (snDest d + off) bytes :: s.sent }
  else s.storeTo leader .mover .upd sn.asEntry (bits d 501 494) (bits d 493 446 + off) bytes

/-- Requests of the shipping that have no reply yet. -/
def State.shipOpen (s : State) (leader : Nat) (sn : Snap) : Bool :=
  s.writesOwed leader fun t e _ => e = sn.entry && t = .upd

/-- The next step of a snapshot's shipping (06 R217): a page, the end record, or the done_tally's signal. -/
def execSnapShip (team : Nat) (s : State) : Result :=
  if 4096 ≤ team then .fault .noSuchPlace
  else
    match tfind team s.snaps with
    | none => .next s
    | some sn =>
      let leader := teamLeader (s.team team)
      let put (x : Snap) (s : State) : State := { s with snaps := tset team x s.snaps }
      if !s.alive leader || !s.notResetting sn.ctx || !(s.teamTiles team).all sn.done.contains then .next s
      else
        match (snapPages sn)[sn.shipped]? with
        | some p =>
          let bytes := (tfind p sn.preserved).getD (s.loadBytes (p * 4096) 4096)
          match if (tfind p sn.preserved).isSome then none else s.badBlock (p * 4096) 4096 with
          | some b => .next (s.ueError (.command leader .upd (entryHalt .mover sn.asEntry)) b (s.dataOwner b)
              (whereCode (s.place b)))
          | none => .next (put { sn with shipped := sn.shipped + 1, preserved := terase p sn.preserved, bytes := sn.bytes ++ bytes }
            (s.shipTo leader sn (4096 * sn.shipped) bytes))
        | none =>
          if !sn.ended then .next (put { sn with ended := true } (s.shipTo leader sn (4096 * sn.shipped) (endRecord sn)))
          else if s.shipOpen leader sn then .next s
          else
            let s1 := s.signalFrom leader .mover .upd sn.asEntry 2 (bits sn.desc.toNat 429 414) 0 1
            .next { s1 with snaps := terase team s1.snaps }

end Sys2Proof.Machine
end

