-- ==== Sys2Proof/Machine/WorkLists.lean ====
section
/-!
DEFINITION. Work lists (spec/03 R120–R128; spec/12 R387): WLOPEN, WLPUT, WLRUN, WLCLOSE, the leader's ring, and the items a
member runs.
-/
namespace Sys2Proof.Machine

def wlTeam (x : Entry) : Nat := x.pl 55 44
def wlList (x : Entry) : Nat := x.pl 43 42
def wlKey (x : Entry) : Nat := 4 * wlTeam x + wlList x

/-- A list at its team's leader. -/
def State.workList (s : State) (team list : Nat) : Option WorkList :=
  tfind (4 * team + list) (s.tile (teamLeader (s.team team))).lists
def State.setList (s : State) (leader key : Nat) (w : WorkList) : State :=
  s.modTile leader fun t => { t with lists := tset key w t.lists }

/-- An open list of a team of the context (03 R121). -/
def State.wlOpen (s : State) (n : Nat) (x : Entry) : Option WorkList :=
  if s.teamOf (s.owner n) (wlTeam x) then s.workList (wlTeam x) (wlList x) else none

/-! ## The ring at the leader (03 R122, R124) -/

/-- A packet of the leader to a member or to a tile that puts items. -/
def State.fromLeader (s : State) (leader tile : Nat) (st : Stream) (c : Nat) (chan : Word) (tag entry : Nat) (b : Body) : State :=
  s.send { uid := 0, ctx := c, epoch := 0, chan := chan, src := .tile leader, dst := .tile tile, stream := st, engine := 0,
           tag := tag, entry := entry, body := b }

def itemBytes (w : BitVec 512) : List Byte := natLE 64 w.toNat

/-- The device address of ring place i. -/
def itemPlace (leader : Nat) (w : WorkList) (i : Nat) : Nat := tileBase leader + w.ring + 64 * (i % w.cap)
/-- The next place to hand out holds its item. -/
def WorkList.filled (w : WorkList) : Bool :=
  decide (w.head < w.tail) && !w.holes.any fun h => decide (h.1 ≤ w.head) && decide (w.head < h.1 + h.2.1)
/-- The list is closed and nothing more will come out of its ring. -/
def WorkList.over (w : WorkList) : Bool := w.closed && w.head = w.tail && w.waiting.isEmpty

/-- The list as `w` stands after a request of a tile was answered with `b`, and the answer on its way. -/
def State.listReply (s : State) (leader key : Nat) (w : WorkList) (r : Reserve) (b : Body) : State :=
  (s.setList leader key w).fromLeader leader r.tile r.stream w.ctx r.chan r.tag r.entry b

/-- The first request for an item answered: with the next item, or with word that none will come. A stream that may not read the
ring place is refused, and the item stays for the next request (06 R193). -/
def State.giveItem (s : State) (leader key : Nat) (w : WorkList) : Option State :=
  match w.asking with
  | r :: more =>
    let w1 := { w with asking := more }
    if w.filled then
      let place := itemPlace leader w w.head
      match s.accessBad w.ctx r.stream false place 64 with
      | some b => some (s.listReply leader key w1 r (.refusal 0 ⟨b.reason, b.address, b.detail⟩))
      | none => some (s.listReply leader key { w1 with head := w.head + 1 } r
          (.item (key / 4) (key % 4) w.head (some (BitVec.ofNat 512 (leNat (s.loadBytes place 64))))))
    else if w.over then some (s.listReply leader key w1 r (.item (key / 4) (key % 4) 0 none))
    else none
  | [] => none

/-- One step of the leader: the first waiting reservation admitted where the ring has room, else the first request answered
where an item is there or none will come; none where neither can be. -/
def State.listStep (s : State) (leader key : Nat) (w : WorkList) : Option State :=
  match w.waiting.head? with
  | some r =>
    if w.tail - w.head + r.items ≤ w.cap then
      let w1 := { w with waiting := w.waiting.tail, tail := w.tail + r.items, holes := w.holes ++ [(w.tail, r.items, r.entry)] }
      some (s.listReply leader key w1 r (.answer 0 [w.tail]))
    else s.giveItem leader key w
  | none => s.giveItem leader key w

/-- Reservations are admitted and requests answered in their order of arrival, as far as the ring allows. -/
def State.listServe : Nat → Nat → Nat → State → State
  | 0, _, _, s => s
  | k + 1, leader, key, s =>
    match tfind key (s.tile leader).lists with
    | none => s
    | some w =>
      match s.listStep leader key w with
      | some s1 => State.listServe k leader key s1
      | none => s
def State.serveList (s : State) (leader key : Nat) : State :=
  match tfind key (s.tile leader).lists with
  | none => s
  | some w => State.listServe (w.waiting.length + w.asking.length + 1) leader key s

/-- Another WLRUN of the list's opening is in some queue of the team's tiles: one that has issued, or one of a stream that has not
run the list since it opened (log 29). -/
def State.runsQueued (s : State) (team key : Nat) (ran : List (Nat × Stream)) (but : Nat) : Bool :=
  (s.teamTiles team).any fun n => allStreams.any fun st =>
    (s.queue n .matrix st).entries.any fun y =>
      !y.skip && y.op = 0x0A && wlKey y = key && y.uid != but && (y.issued || !ran.contains (n, st))

/-- A stream's WLRUN, the entry named, completes; the ring frees when the last WLRUN of a closed and empty list does (03 R127; log
29). -/
def State.freeList (s : State) (n : Nat) (st : Stream) (team key entry : Nat) : State :=
  let leader := teamLeader (s.team team)
  match tfind key (s.tile leader).lists with
  | some w =>
    let ran := (n, st) :: w.ran
    if w.over && !s.runsQueued team key ran entry then
      s.modTile leader fun t => { t with lists := terase key t.lists }
    else s.setList leader key { w with ran := ran }
  | none => s

/-! ## The commands -/

def wlTeamBad (s : State) (n : Nat) (x : Entry) : Option Bad :=
  if s.teamOf (s.owner n) (wlTeam x) then none else some badState

/-- Open lists a tile leads, and the lowest list sequence none of them uses (12 R387). -/
def State.listSeq (s : State) (n : Nat) : Option Nat :=
  (List.range 4).find? fun q => !((s.tile n).lists.any fun l => l.2.seq = some q)

def cmdWlopen : Cmd where
  bad s n _ x :=
    orBad (x.unshown [(29, 0)]) <|
    orBad (firstBad (x.spanChecks 56 30 x.a0 64 (64 * (x.pl 41 30 + 1)))) <|
    orBad (wlTeamBad s n x) <|
    if teamLeader (s.team (wlTeam x)) != n || (s.workList (wlTeam x) (wlList x)).isSome ||
        (s.locked n && (s.listSeq n).isNone) then some badState else none
  run s n st x :=
    let w : WorkList := { ring := x.a0, cap := x.pl 41 30 + 1, ctx := s.owner n,
                          seq := if s.locked n then s.listSeq n else none }
    let s1 := (s.setList n (wlKey x) w).setEntry n .matrix st (x.start 1 [])
    -- its items' places in the sequence count anew (12 R387)
    w.seq.elim s1 fun q => s1.setLockSeq n (18 + q) { s1.lockSeq (s.owner n) n (18 + q) with place := 0, items := [] }

def wlCount (x : Entry) : Nat := x.pl 41 30 + 1

/-- The reservation a WLPUT at the head of its queue sends to the leader. -/
def wlputAsk (s : State) (n : Nat) (st : Stream) (x : Entry) : State :=
  (s.setEntry n .matrix st { x with asked := true }).cmdSend n .matrix st x (.tile (teamLeader (s.team (wlTeam x))))
    (.reserve (wlTeam x) (wlList x) (wlCount x))

/-- The ring places a WLPUT's items go to, once reserved, with the items' addresses in its own store. -/
def wlPlaces (s : State) (n : Nat) (x : Entry) : List (Nat × Nat) :=
  match s.wlOpen n x, x.answer with
  | some w, first :: _ =>
    (List.range (wlCount x)).map fun i =>
      (itemPlace (teamLeader (s.team (wlTeam x))) w (first + i), tileBase n + x.a0 + 64 * i)
  | _, _ => []

/-- WLPUT: what decides between an open and a closed list is the moment its reservation reaches the leader, which the spec does
not say (03 R121; log 62). Its items are in the ring when every write of them is done (R122). -/
def cmdWlput : Cmd where
  bad s n _ x :=
    orBad (x.unshown [(29, 0)]) <|
    orBad (firstBad (x.spanChecks 56 30 x.a0 1 (64 * wlCount x))) <|
    orBad (wlTeamBad s n x) <|
    if x.granted then none
    else match s.wlOpen n x with
      | none => some badState
      | some w => if w.closed && !x.asked then some badState else none
  reads _ n _ x := [⟨tileBase n + x.a0, 64 * wlCount x⟩]
  writes s n _ x := (wlPlaces s n x).map fun p => ⟨p.1, 64⟩
  ask := some wlputAsk
  ready _ _ _ x := x.granted
  run s n st x :=
    let rows := (wlPlaces s n x).map fun p => (p.1, s.loadBytes p.2 64)
    rows.foldl (fun s p => s.storeTo n .matrix st x s.deviceNumber p.1 p.2)
      (s.setEntry n .matrix st { x.start 1 [] with outs := rows.map fun p => (s.deviceNumber, p.1, p.2) })
  done s n _ x := !s.writesOwed n fun _ e _ => e = x.uid
  finish s n _ x :=
    let leader := teamLeader (s.team (wlTeam x))
    match s.wlOpen n x with
    | none => s
    | some w =>
      (s.setList leader (wlKey x) { w with holes := w.holes.filter fun h => h.2.2 != x.uid }).serveList leader (wlKey x)

def cmdWlclose : Cmd where
  bad s n _ x :=
    orBad (x.unshown [(41, 0)]) <|
    orBad (wlTeamBad s n x) <|
    if (s.wlOpen n x).isNone then some badState else none
  run s n st x :=
    let leader := teamLeader (s.team (wlTeam x))
    match s.wlOpen n x with
    | none => s
    | some w =>
      ((s.setList leader (wlKey x) { w with closed := true }).serveList leader (wlKey x)).setEntry n .matrix st (x.start 1 [])

/-- All four arrays' item tiles are EMPTY (03 R126). -/
def State.itemTilesEmpty (s : State) (n : Nat) : Bool :=
  (s.tile n).arrays.all fun a => [6, 7].all fun k => (vget a.accs k {}).held = none
def State.holdItemTiles (s : State) (n : Nat) (h : Option Stream) : State :=
  s.modTile n fun t => { t with arrays := t.arrays.map fun (a : Arr) =>
    { a with accs := [6, 7].foldl (fun l k => vset l k { held := h, vals := if h.isSome then List.replicate 256 0 else [] }) a.accs } }

/-- The threshold in force: 1 on a tile above placement_temp_c (15 R483). -/
def State.threshold (s : State) (n : Nat) (r : ListRun) : Nat :=
  if (1000 * s.power.placementC : Int) < tget 0 n s.power.temps then 1 else r.threshold

/-- The tile asks its leader for the next item whenever fewer than the threshold's item commands wait, one request at a time
(03 R124; log 63). -/
def State.askItem (s : State) (n : Nat) (st : Stream) : State :=
  match (s.tile n).runs.get st with
  | none => s
  | some r =>
    let waits := (r.queue.filter fun y => !y.issued).length
    if r.asking || r.ended || decide (s.threshold n r ≤ waits) then s
    else
      match (s.queue n .matrix st).entries.find? fun y => y.uid = r.entry with
      | none => s
      | some x =>
        (s.modTile n fun t => { t with runs := t.runs.set st (some { r with asking := true }) }).cmdSend n .matrix st x
          (.tile (teamLeader (s.team r.team))) (.itemAsk r.team r.list)

def cmdWlrun : Cmd where
  bad s n _ x :=
    orBad (x.unshown [(33, 0)]) <|
    orBad (firstBad [
      (x.pl 41 34 = 0, x.badField 34),
      (decide (tileStoreBytes < x.a0 + x.a1), x.badField 56)]) <|
    orBad (wlTeamBad s n x) <|
    orBad (firstBad [(!s.inTeam (wlTeam x) n, x.badField 44)]) <|
    if (s.wlOpen n x).isNone then some badState else none
  ready s n _ _ := s.itemTilesEmpty n
  run s n st x :=
    let r : ListRun := { team := wlTeam x, list := wlList x, entry := x.uid, threshold := x.pl 41 34, scratch := x.a0,
                         size := x.a1 }
    let s1 := (s.holdItemTiles n (some st)).modTile n fun t => { t with runs := t.runs.set st (some r) }
    (s1.setEntry n .matrix st (x.start 1 [])).askItem n st
  done s n st _ :=
    match (s.tile n).runs.get st with
    | some r => r.ended && !r.asking && r.items.isEmpty
    | none => true
  finish s n st x :=
    ((s.modTile n fun t => { t with runs := t.runs.set st none }).holdItemTiles n none).freeList n st (wlTeam x) (wlKey x) x.uid

/-! ## Items (03 R123, R125, R128) -/

def itFa (w : Nat) : Nat := bits w 511 508
def itFb (w : Nat) : Nat := bits w 507 504
def itOf (w : Nat) : Nat := bits w 503 500
def itTa (w : Nat) : Bool := bit w 495
def itTb (w : Nat) : Bool := bit w 494
def itM (w : Nat) : Nat := bits w 493 488 + 1
def itN (w : Nat) : Nat := bits w 487 482 + 1
def itK (w : Nat) : Nat := bits w 481 470 + 1
def itA (w : Nat) : Nat := bits w 469 422
def itB (w : Nat) : Nat := bits w 421 374
def itC (w : Nat) : Nat := bits w 373 326
def itLda (w : Nat) : Nat := bits w 325 306
def itLdb (w : Nat) : Nat := bits w 305 286
def itLdc (w : Nat) : Nat := bits w 285 266
def itDone (w : Nat) : Nat := bits w 265 250
def itSr (w : Nat) : Nat := bits w 249 224
def itTag (w : Nat) : Nat := bits w 223 208

/-- Rows of an operand of `m` blocks of 16 in memory, as R133 lays them out: along stored rows, or one stored row per k. -/
def itRow (c k m : Nat) (along : Bool) (i : Nat) : Nat := opRowLen c k (16 * m) along i
def itRows (c k m : Nat) (along : Bool) : List Nat :=
  (List.range (if along then 16 * m else k)).map fun i => itRow c k m along i
def itRanges (base stride c k m : Nat) (along : Bool) : List Range :=
  (itRows c k m along).mapIdx fun i len => ⟨base + i * stride, len⟩

/-- The scratch layout (log 30): each block of an operand stored for itself, rows a multiple of 16 B apart, and k by k where
rows of K elements would not fit a stride of MMA's. -/
def itAlong (c k : Nat) (along : Bool) : Bool := along && !(c = 9 && decide (2048 < k))
def blkStride (c k : Nat) (along : Bool) : Nat := up16 (opMaxLen c k 16 along)
def blkBytes (c k : Nat) (along : Bool) : Nat := opRows k 16 along * blkStride c k along
def outStride (ofmt : Nat) : Nat := up16 (rowBytes ofmt (if isMx ofmt then 32 else 16) + (if isMx ofmt then 1 else 0))
/-- Output blocks side by side: columns of 16, or of 32 for MX. -/
def outCols (w : Nat) : Nat := if isMx (itOf w) then itN w / 2 else itN w
def scrA (base : Nat) : Nat := up16 base
def itAlongA (w : Nat) : Bool := itAlong (itFa w) (itK w) (!itTa w)
def itAlongB (w : Nat) : Bool := itAlong (itFb w) (itK w) (itTb w)
def scrB (w base : Nat) : Nat := scrA base + itM w * blkBytes (itFa w) (itK w) (itAlongA w)
def scrC (w base : Nat) : Nat := scrB w base + itN w * blkBytes (itFb w) (itK w) (itAlongB w)
def scrEnd (w base : Nat) : Nat := scrC w base + itM w * outCols w * 16 * outStride (itOf w)

/-- Row i of block b of an operand, cut from the rows that were fetched. -/
def blockRow (c m : Nat) (along : Bool) (rows : List (List Byte)) (b i : Nat) : List Byte :=
  if along then lget rows (16 * b + i) []
  else
    let r := lget rows i []
    (r.drop (rowBytes c (16 * b))).take (rowBytes c 16) ++
      (if isMx c && i % 32 = 0 then (r.drop (rowBytes c (16 * m) + 16 * b)).take 16 else [])

/-- Row i of block b as it is stored in the scratch area: turned where the layout turns FP32 rows. -/
def scratchRow (c k m : Nat) (along : Bool) (rows : List (List Byte)) (b i : Nat) : List Byte :=
  if along && !itAlong c k along then (List.range 16).flatMap fun j => ((lget rows (16 * b + j) []).drop (4 * i)).take 4
  else blockRow c m along rows b i
/-- What placing an operand writes: the scratch area's rows, from device address `at'` on. -/
def operandRows (at' c k m : Nat) (along : Bool) (rows : List (List Byte)) : List (Nat × List Byte) :=
  let al := itAlong c k along
  (List.range m).flatMap fun b => (List.range (opRows k 16 al)).map fun i =>
    (at' + b * blkBytes c k al + i * blkStride c k al, scratchRow c k m along rows b i)

/-- Output rows assembled from the scratch area: elements of all blocks, then their scales (04 R133). -/
def outRow (s : State) (n w at' r : Nat) : List Byte :=
  let st := outStride (itOf w)
  let cols := List.range (outCols w)
  let cell (bj : Nat) : Nat := at' + ((r / 16) * outCols w + bj) * 16 * st + (r % 16) * st
  let width := rowBytes (itOf w) (if isMx (itOf w) then 32 else 16)
  (cols.flatMap fun bj => s.tileBytes n (cell bj) width) ++
    (if isMx (itOf w) then cols.flatMap fun bj => s.tileBytes n (cell bj + width) 1 else [])
def outRowLen (w : Nat) : Nat :=
  let width := rowBytes (itOf w) (if isMx (itOf w) then 32 else 16)
  outCols w * (width + (if isMx (itOf w) then 1 else 0))
def outRanges (w : Nat) : List Range := (List.range (16 * itM w)).map fun r => ⟨itC w + r * itLdc w, outRowLen w⟩

/-- The device address of the ring place an item came from. -/
def State.itemAddr (s : State) (r : ListRun) (place : Nat) : Nat :=
  (s.workList r.team r.list).elim 0 fun w => itemPlace (teamLeader (s.team r.team)) w place

/-- What placing an item's operands writes: its part of the scratch area, which begins at `base`. -/
def stageRange (n w base : Nat) : Range := ⟨tileBase n + scrA base, scrC w base - scrA base⟩

/-- The refusals of an item whose part of the scratch area begins at `base`, before it fetches anything (03 R100, R128; 06 R193,
R194; 08 R259). -/
def itemBad (s : State) (n : Nat) (st : Stream) (r : ListRun) (place w base : Nat) : Option Bad :=
  let c := s.owner n
  let ib (pos : Nat) : Bad := ⟨0x11, detailStruct 0x0A pos 42, s.itemAddr r place⟩
  let aR := itRanges (itA w) (itLda w) (itFa w) (itK w) (itM w) (!itTa w)
  let bR := itRanges (itB w) (itLdb w) (itFb w) (itK w) (itN w) (itTb w)
  orBad (firstBad [
    (bits w 207 0 != 0, ib 0),
    (opGroup (itFa w) (itFb w) = none, ib 504),
    ((opGroup (itFa w) (itFb w)).elim false (·.2) && itK w % 32 != 0, ib 470),
    (decide (0xA ≤ itOf w), ib 500),
    (isMx (itOf w) && itN w % 2 != 0, ib 482),
    (decide (r.scratch + r.size < scrEnd w r.scratch), ib 470)]) <|
  orBad ((aR ++ bR).findSome? fun x => s.accessBad c st false x.base x.len) <|
  orBad ((outRanges w).findSome? fun x => s.accessBad c st true x.base x.len) <|
  orBad (s.accessBad c st true (stageRange n w base).base (stageRange n w base).len) <|
  if s.gtallyOk c (itDone w) then none else some ⟨0x15, detailTally 2 (itDone w), 0⟩

/-- A stand-in for the item as a command: its tag, and the channel of the WLRUN that runs it. -/
def Item.asEntry (i : Item) (chan : Word) (ctx : Nat) : Entry :=
  { uid := i.uid, word := BitVec.ofNat 128 (itTag i.word.toNat <<< 112), s0 := 0, s1 := 0, chan := chan, skip := false,
    ctx := ctx }
def State.runChan (s : State) (n : Nat) (st : Stream) (r : ListRun) : Word :=
  match (s.queue n .matrix st).entries.find? fun y => y.uid = r.entry with
  | some x => x.chan
  | none => 0
def State.setRun (s : State) (n : Nat) (st : Stream) (r : ListRun) : State :=
  s.modTile n fun t => { t with runs := t.runs.set st (some r) }

def itemWord (st : Stream) (tag op payload : Nat) : BitVec 128 :=
  BitVec.ofNat 128 (pack [(16, tag), (8, op), (3, 0), (2, streamNo st), (1, 0), (1, 0), (2, 0), (4, 0), (1, 0), (12, 0),
    (1, 0), (1, 0), (16, 0), (4, 0), (56, payload)])

/-- The OS pass of output block (bi, bj) into a tile of an array. -/
def itemMma (w : Nat) (array acc : Nat) : Nat :=
  pack [(2, array), (3, acc), (2, 0), (1, 1), (1, 0), (4, itFa w), (4, itFb w), (1, b2n (!itAlongA w)), (1, b2n (itAlongB w)),
    (12, itK w - 1), (1, 0), (1, 0), (1, 0), (4, 0), (9, blkStride (itFa w) (itK w) (itAlongA w) / 16 - 1),
    (9, blkStride (itFb w) (itK w) (itAlongB w) / 16 - 1)]
def itemMdrain (w : Nat) (array acc index : Nat) : Nat :=
  pack [(2, array), (3, acc), (4, itOf w), (4, bits w 499 496), (1, 0), (1, 0), (5, 0), (1, 0),
    (9, outStride (itOf w) / 16 - 1), (26, index)]

/-- The commands of output position q, in ascending bi, then bj: one pass and a drain, or for MX a pair of passes. The spec lets
a block use any array and does not say whether the turn between tiles 6 and 7 goes on from item to item nor what S1 an item's
drain carries: array q mod 4, tile 6 first with each item, S1 = 0 (log 64). -/
def itemCmds (w scratch q : Nat) : List (Nat × Nat × Nat × Nat) :=
  let cols := outCols w
  let bi := q / cols
  let bj := q % cols
  let array := q % 4
  let half := 6 + q / 4 % 2
  let a := scrA scratch + bi * blkBytes (itFa w) (itK w) (itAlongA w)
  let b (j : Nat) : Nat := scrB w scratch + j * blkBytes (itFb w) (itK w) (itAlongB w)
  let out := scrC w scratch + q * 16 * outStride (itOf w)
  if isMx (itOf w) then
    [(0x01, itemMma w array 6, a, b (2 * bj)), (0x01, itemMma w array 7, a, b (2 * bj + 1)),
     (0x02, itemMdrain w array 6 (itSr w + q), out, 0)]
  else [(0x01, itemMma w array half, a, b bj), (0x02, itemMdrain w array half (itSr w + q), out, 0)]

/-- The first item of which something is still to be expanded, with those before it and behind it. -/
def splitItems (p : Item → Bool) (l : List Item) : Option (List Item × Item × List Item) :=
  match l.dropWhile fun i => !p i with
  | i :: is => some (l.takeWhile (fun i => !p i), i, is)
  | [] => none

/-- The commands of some positions of an item, with fresh names. -/
def State.itemEntries (s : State) (n : Nat) (st : Stream) (chan : Word) (w : Nat)
    (cmds : List (Nat × Nat × Nat × Nat)) : State × List Entry :=
  cmds.foldl (fun (acc : State × List Entry) c =>
    let u := acc.1.fresh
    (u.2, acc.2 ++ [{ uid := u.1, word := itemWord st (itTag w) c.1 c.2.1, s0 := BitVec.ofNat 32 c.2.2.1,
                      s1 := BitVec.ofNat 32 c.2.2.2, chan := chan, skip := false, ctx := s.owner n }])) (s, [])

/-- Expansion of the first item not wholly expanded, once it is loaded, as far as the item queue of 256 commands has room
(03 R124). -/
def State.expandItem (s : State) (n : Nat) (st : Stream) : State :=
  match (s.tile n).runs.get st with
  | none => s
  | some r =>
    match splitItems (fun i => decide (i.expanded < i.blocks)) r.items with
    | none => s
    | some (past, i, rest) =>
      if !i.loaded then s
      else
        let w := i.word.toNat
        let per := if isMx (itOf w) then 3 else 2
        let count := min (i.blocks - i.expanded) ((256 - r.queue.length) / per)
        let cmds := (List.range count).flatMap fun k => itemCmds w i.base (i.expanded + k)
        let made := s.itemEntries n st (s.runChan n st r) w cmds
        made.1.setRun n st { r with queue := r.queue ++ made.2
                                    items := past ++ { i with expanded := i.expanded + count } :: rest }

/-- Rows cut from one byte string. -/
def cutBytes : List Nat → List Byte → List (List Byte)
  | [], _ => []
  | len :: lens, bs => bs.take len :: cutBytes lens (bs.drop len)

/-- The scratch rows of an item whose operands are there. -/
def itemRows (n : Nat) (i : Item) : List (Nat × List Byte) :=
  let w := i.word.toNat
  let aLens := itRows (itFa w) (itK w) (itM w) (!itTa w)
  let bLens := itRows (itFb w) (itK w) (itN w) (itTb w)
  let bs := piecesBytes i.pieces
  operandRows (tileBase n + scrA i.base) (itFa w) (itK w) (itM w) (!itTa w) (cutBytes aLens bs) ++
    operandRows (tileBase n + scrB w i.base) (itFb w) (itK w) (itN w) (itTb w) (cutBytes bLens (bs.drop aLens.sum))

/-- Items whose operands are all there are placed in the scratch area, once the snapshot reserve has room for the pages that this
changes (06 R216); a protected bit there halts the stream (09 R306). -/
def State.loadItems (s : State) (n : Nat) (st : Stream) : State :=
  match (s.tile n).runs.get st with
  | none => s
  | some r =>
    match splitItems (fun i => i.begun && !i.loaded && piecesThere i.pieces) r.items with
    | none => s
    | some (past, i, rest) =>
      let rows := itemRows n i
      let wr := writerOf s n st
      if rows.any fun p => s.extentBadAt p.1 p.2 then s.cmdHalt n .matrix st (i.asEntry (s.runChan n st r) (s.owner n)) badState
      else if !s.reserveFor wr [stageRange n i.word.toNat i.base] then s
      else
        ((rows.foldl (fun s p => s.writeChecked
          (.command n st (entryHalt .matrix (i.asEntry (s.runChan n st r) (s.owner n)))) wr p.1 p.2) s).setRun n st
          { r with items := past ++ { i with loaded := true } :: rest }).expandItem n st

/-- More of the items' operand reads sent as room allows. -/
def State.pumpItems (s : State) (n : Nat) (st : Stream) : State :=
  match (s.tile n).runs.get st with
  | none => s
  | some r =>
    let sent := r.items.foldl (fun (acc : State × List Item) i =>
      let p := sendSome (64 - acc.1.moverOut n) i.pieces
      let x := i.asEntry (s.runChan n st r) (s.owner n)
      let items := acc.2 ++ [{ i with pieces := p.1 }]
      (p.2.foldl (fun s q => s.pieceSend n .mover st x q)
        (acc.1.setRun n st { r with items := items ++ r.items.drop items.length }), items)) (s, [])
    sent.1.loadItems n st

/-- Every read and write of a tile's mover that waits for a place goes on as places are free (09 R304). -/
def State.pumpTile (s : State) (n : Nat) : State :=
  (allStreams.foldl (fun s st => s.pumpItems n st) (s.pumpEntries n)).pumpUnsent n
/-- A write is acknowledged or refused: what a fence held back goes on, and so does what waits for the mover's place. -/
def State.acked (s : State) (n uid : Nat) : State := ((s.repaid n uid).flushClosing n).pumpTile n

/-- Where the next item's part of the scratch area would begin: behind those of the items in work. -/
def scratchFree (r : ListRun) : Nat :=
  r.items.foldl (fun a i => if i.begun then max a (scrEnd i.word.toNat i.base) else a) r.scratch

/-- The first item taken and not begun: its checks, then, where the scratch area has room beside the items in work, its
fetches (03 R124, R128). -/
def State.startItem (s : State) (n : Nat) (st : Stream) : State :=
  match (s.tile n).runs.get st with
  | none => s
  | some r =>
    match splitItems (fun i => !i.begun) r.items with
    | none => s
    | some (past, i, rest) =>
      let w := i.word.toNat
      let base := scratchFree r
      match itemBad s n st r i.place w base with
      | some b =>
        if s.halted n st then s else s.cmdHalt n .matrix st (i.asEntry (s.runChan n st r) (s.owner n)) b
      | none =>
        if r.scratch + r.size < scrEnd w base then s
        else
          let p := s.makePieces n s.deviceNumber
            ((itRanges (itA w) (itLda w) (itFa w) (itK w) (itM w) (!itTa w) ++
              itRanges (itB w) (itLdb w) (itFb w) (itK w) (itN w) (itTb w)).flatMap fun x => pieceRanges x.base x.len)
          (p.1.setRun n st { r with items := past ++ { i with begun := true, base := base, pieces := p.2 } :: rest }).pumpItems
            n st

/-! ## The events -/

/-- A WLPUT's reservation reaches the leader (03 R122). -/
def execWorkListReservation (k : Nat) (s : State) : Result :=
  onPacket k s (fun p => match p.body with
    | .reserve .. => true
    | _ => false) fun p s =>
    match p.body with
    | .reserve team list items =>
      match tfind (4 * team + list) (s.tile p.at).lists with
      | none => s.reply p (.refusal 0 ⟨0x20, 0, 0⟩)
      | some w =>
        if w.closed then s.reply p (.refusal 0 ⟨0x20, 0, 0⟩)
        else
        let r : Reserve := { tile := p.from, stream := p.stream, entry := p.entry, chan := p.chan, tag := p.tag, items := items }
        (s.setList p.at (4 * team + list) { w with waiting := w.waiting ++ [r] }).serveList p.at (4 * team + list)
    | _ => s

/-- A member's request for the next item reaches the leader (03 R124). -/
def execItemRequest (k : Nat) (s : State) : Result :=
  onPacket k s (fun p => match p.body with
    | .itemAsk .. => true
    | _ => false) fun p s =>
    match p.body with
    | .itemAsk team list =>
      match tfind (4 * team + list) (s.tile p.at).lists with
      | none => s.reply p (.item team list 0 none)
      | some w =>
        let r : Reserve := { tile := p.from, stream := p.stream, entry := p.entry, chan := p.chan, tag := p.tag, items := 1 }
        (s.setList p.at (4 * team + list) { w with asking := w.asking ++ [r] }).serveList p.at (4 * team + list)
    | _ => s

/-- An item, or the leader's word that none will come, reaches a member (03 R124). -/
def execItemArrive (k : Nat) (s : State) : Result :=
  onPacket k s (fun p => match p.body with
    | .item .. => true
    | _ => false) fun p s =>
    match p.body, (s.tile p.at).runs.get p.stream with
    | .item _ _ place word, some r =>
      match word with
      | none => s.setRun p.at p.stream { r with asking := false, ended := true }
      | some w =>
        let u := s.fresh
        let i : Item := { uid := u.1, word := w, place := place, blocks := itM w.toNat * outCols w.toNat }
        ((((u.2.setRun p.at p.stream { r with asking := false, items := r.items ++ [i] }).startItem p.at p.stream).askItem p.at
          p.stream).progressed p.at (watchedQueue .matrix p.stream))
    | _, _ => s

/-- A digest placed in a list sequence in ring order (12 R387): those whose turn has come enter it. -/
def State.lockItems : Nat → Nat → Nat → State → State
  | 0, _, _, s => s
  | k + 1, n, q, s =>
    let l := s.lockSeq (s.owner n) n q
    match tfind l.place l.items with
    | none => s
    | some (d, chan, dev, addr, tag) =>
      let s1 := s.setLockSeq n q { l with items := terase l.place l.items, place := l.place + 1 }
      State.lockItems k n q (s1.lockDigest n q d (chan, dev, addr, tag) false)

/-- An item's digest sent to its leader (12 R387; log 31). -/
def State.lockItem (s : State) (st : Stream) (r : ListRun) (i : Item) (chan : Word)
    (outs : List (Nat × Nat × List Byte)) : State :=
  let leader := teamLeader (s.team r.team)
  match s.workList r.team r.list with
  | some w =>
    match w.seq with
    | some q =>
      let d := commandDigest leader 0 (streamNo st) (itTag i.word.toNat) 0x0A i.place outs
      let first := (outs.head?.map fun o => (o.1, o.2.1)).getD (0, 0)
      let l := s.lockSeq (s.owner leader) leader (18 + q)
      let s1 := s.setLockSeq leader (18 + q)
        { l with items := tset i.place (d, chan.toNat, first.1, first.2, itTag i.word.toNat) l.items }
      State.lockItems (l.items.length + 1) leader (18 + q) s1
    | none => s
  | none => s

/-- The oldest item of a member's run may be worked on: its digest does not close a third window of its list's sequence that is not
compared (12 R388). -/
def State.itemRoom (s : State) (n : Nat) (st : Stream) : Bool :=
  match (s.tile n).runs.get st with
  | none => true
  | some r =>
    match (s.workList r.team r.list).bind (·.seq), r.items with
    | some q, i :: _ =>
      let leader := teamLeader (s.team r.team)
      let l := s.lockSeq (s.owner leader) leader (18 + q)
      let w := lockW (s.ctx (s.owner leader)).lockstep
      let total := l.digests.length + (i.place - l.place) + 1
      total % w != 0 || decide (l.closed.length + total / w ≤ 2)
    | _, _ => true

/-- The output rows of an item: address and bytes, from its part of the scratch area. -/
def State.itemOutput (s : State) (n : Nat) (i : Item) : List (Nat × List Byte) :=
  let w := i.word.toNat
  (List.range (16 * itM w)).map fun k => (itC w + k * itLdc w, outRow s n w (scrC w i.base) k)

/-- The last block of a tile's oldest item has drained (03 R125): its output is written; then a device-scope FENCE, which stands
at the place of the WLRUN (log 65), and the signal of its done_tally. Placing its operands, and writing its output, may have waited
for room in the snapshot reserve (06 R216). -/
def execItemComplete (n : Nat) (st : Stream) (s : State) : Result :=
  if 2048 ≤ n then .fault .noSuchPlace
  else
    match (s.tile n).runs.get st with
    | none => .next s
    | some r =>
      match r.items with
      | [] => .next s
      | i :: rest =>
        let x := i.asEntry (s.runChan n st r) (s.owner n)
        let rows := s.itemOutput n i
        if !s.streamRuns n st then .next s
        else if !i.loaded then .next (s.loadItems n st)
        else if i.drained < i.blocks || !s.itemRoom n st then .next s
        else if !i.written then
          if !s.reserveFor (writerOf s n st) (rows.map fun p => ⟨p.1, p.2.length⟩) then .next s else
          let s1 := s.setRun n st { r with items := { i with written := true } :: rest }
          if rows.any fun p => s.extentBadAt p.1 p.2 then .next (s.cmdHalt n .matrix st x badState)
          else .next (rows.foldl (fun s p => s.storeTo n .mover st x s.deviceNumber p.1 p.2) s1)
        else if (s.writesOwed n fun _ e _ => e = i.uid) || !s.fenced n st r.entry 2 then .next s
        else
          let s1 := s.signalFrom n .matrix st x 2 (itDone i.word.toNat) 0 1
          let s2 := s1.lockItem st r i x.chan (rows.map fun p => (s.deviceNumber, p.1, p.2))
          .next ((((s2.setRun n st { r with items := rest }).progressed n (watchedQueue .matrix st)).startItem n st).askItem n st)

end Sys2Proof.Machine
end

