-- ==== Sys2Proof/Machine/Route.lean ====
section
/-!
DEFINITION. Expert routing (spec/07): layer slots, scoring and dispatch, the rebound round, combining, and the expert side.
-/
namespace Sys2Proof.Machine

/-! ## The layer descriptor (07 R220) -/

def lNorm (d : Nat) : Nat := bits d 511 510
def lE (d : Nat) : Nat := bits d 509 500 + 1
def lK (d : Nat) : Nat := bits d 499 497 + 1
def lLfmt (d : Nat) : Nat := bits d 496 493
def lAfmt (d : Nat) : Nat := bits d 492 489
def lD (d : Nat) : Nat := 16 * (bits d 488 480 + 1)
def lQ (d : Nat) : Nat := bits d 479 468 + 1
def lTeam (d : Nat) : Nat := bits d 467 456
def lRebound (d : Nat) : Bool := bit d 455
def lSubs (d : Nat) : Nat := bits d 454 452
def lEtab (d : Nat) : Nat := bits d 451 430
def lCard (d : Nat) : Nat := bits d 429 408
def lRet (d : Nat) (back : Bool) : Nat := if back then bits d 385 364 else bits d 407 386
def lCtab (d : Nat) : Nat := bits d 363 316
def lCtally (d : Nat) : Nat := bits d 315 300
def lBench (d : Nat) : List Nat := ((List.range 8).map fun b => bits d (299 - 12 * b) (288 - 12 * b)).filter (· != 0)
def actFmt (c : Nat) : Bool := c ≤ 3 || c = 9
/-- Bytes of a row, of a logit row, and their strides (R227). -/
def lRow (d : Nat) : Nat := rowBytes (lAfmt d) (lD d)
def lLogits (d : Nat) : Nat := rowBytes (lLfmt d) (lE d)
def lLogitStride (d : Nat) : Nat := up16 (lLogits d)

def rSlot (x : Entry) : Nat := x.pl 55 54
def rBack (x : Entry) : Bool := x.plb 53
def State.layer (s : State) (n k : Nat) : Layer := tget {} k (s.tile n).layers
def State.modLayer (s : State) (n k : Nat) (f : Layer → Layer) : State :=
  s.modTile n fun t => { t with layers := tset k (f (tget {} k t.layers)) t.layers }
/-- The descriptor in the slot a command names. -/
def State.layerDesc (s : State) (n : Nat) (x : Entry) : Nat := ((s.layer n (rSlot x)).desc.getD 0).toNat

/-- Issued route commands of a tile that name a layer slot. -/
def State.slotCmds (s : State) (n k : Nat) : List Entry :=
  allStreams.flatMap fun st => (s.queue n .route st).entries.filter fun y => y.issued && decide (y.op < 0xF0) && rSlot y = k
/-- An RTCFG of the slot is under way; a command that names the slot then waits for its contents. -/
def State.slotBusy (s : State) (n k : Nat) : Bool := (s.slotCmds n k).any fun y => y.op = 1

/-- An unloaded slot (07 R220), and a tile outside the scoring team (R222). -/
def unloaded (s : State) (n : Nat) (x : Entry) : Option Bad :=
  if (s.layer n (rSlot x)).desc = none then some badState else none
def scoringBad (s : State) (n : Nat) (x : Entry) : Option Bad :=
  orBad (unloaded s n x) (if s.inTeam (lTeam (s.layerDesc n x)) n then none else some badState)
/-- The slot's contents are not being loaded. -/
def slotSettled (s : State) (n : Nat) (_ : Stream) (x : Entry) : Bool := !s.slotBusy n (rSlot x)
/-- ρ(s) and P (R222). -/
def State.rank (s : State) (team n : Nat) : Nat := ((s.teamTiles team).filter (· < n)).length
def State.scorers (s : State) (d : Nat) : Nat := teamCount (s.team (lTeam d))

/-- A fault in the layer descriptor, named through the layer slot field. -/
def descBad (s : State) (n : Nat) (x : Entry) (pos : Nat) : Bad :=
  x.badStruct pos 54 (tget 0 (200 + rSlot x) (s.tile n).descAt)

/-! ## The expert table (07 R223, R224) -/

def State.repl (s : State) (n d e r : Nat) : Nat := s.tileNat n (lEtab d + 128 * e + 16 * r) 16
def reValid (w : Nat) : Bool := bit w 127
def reTeam (w : Nat) : Nat := bits w 126 115
def reSlots (w : Nat) (back : Bool) : Nat := if back then bits w 92 71 else bits w 114 93
def reTags (w : Nat) : Nat := bits w 70 49
/-- R(e). -/
def State.repCount (s : State) (n d e : Nat) : Nat := ((List.range 8).filter fun r => reValid (s.repl n d e r)).length
/-- Every replica of every expert. -/
def State.replicas (s : State) (n d : Nat) : List (Nat × Nat) :=
  (List.range (lE d)).flatMap fun e => ((List.range 8).filter fun r => reValid (s.repl n d e r)).map fun r => (e, r)
def State.replLeader (s : State) (n d e r : Nat) : Nat := teamLeader (s.team (reTeam (s.repl n d e r)))

def etabRange (n d : Nat) : Range := ⟨tileBase n + lEtab d, 128 * lE d⟩

/-- What is wrong with row e of the expert table: bit position, replica entry. -/
def rowBad (s : State) (n d e : Nat) : Option (Nat × Nat) :=
  let ws := (List.range 8).map fun r => s.repl n d e r
  let valid (r : Nat) : Bool := reValid (lget ws r 0)
  let count := ((List.range 8).filter valid).length
  match (List.range 8).find? fun r => bits (lget ws r 0) 48 0 != 0 with
  | some r => some (0, r)
  | none =>
    match (List.range count).find? fun r => !valid r with
    | some r => some (127, r)
    | none =>
      if count = 0 then some (127, 0)
      else if lSubs d < count - 1 then some (127, lSubs d + 1)
      else ((List.range count).find? fun r => decide (0 < r) && !(lBench d).contains (reTeam (lget ws r 0))).map fun r => (115, r)

/-- Bench teams in use, in table order; the second use of one is a fault. -/
def benchTwice (s : State) (n d : Nat) : Option (Nat × Nat) :=
  ((s.replicas n d).foldl (fun (acc : List Nat × Option (Nat × Nat)) p =>
    let t := reTeam (s.repl n d p.1 p.2)
    if acc.2.isSome || !(lBench d).contains t then acc
    else if acc.1.contains t then (acc.1, some p) else (t :: acc.1, none)) ([], none)).2

def tableBad (s : State) (n : Nat) (x : Entry) (d : Nat) : Option Bad :=
  let tb (pos e r : Nat) : Bad := x.badStruct pos 54 (tileBase n + lEtab d + 128 * e + 16 * r)
  orBad ((List.range (lE d)).findSome? fun e => (rowBad s n d e).map fun p => tb p.1 e p.2) <|
  orBad ((benchTwice s n d).map fun p => tb 115 p.1 p.2) <|
  if (s.replicas n d).any fun p => !s.teamOf (s.owner n) (reTeam (s.repl n d p.1 p.2)) then some badState else none

/-- A replica whose team cannot take a row (07 R238). -/
def destBad (s : State) (n d : Nat) (p : Nat × Nat) : Option Bad :=
  let t := reTeam (s.repl n d p.1 p.2)
  if !s.teamOf (s.owner n) t then some badState
  else if s.teamBlocked t then some ⟨0x25, t, 0⟩ else none

/-! ## RTCFG (07 R220, R221) -/

/-- RTCFG (07 R220). A ctally outside the grant is reason 0x15 with detail 0, by R228; a completion signal's detail is R264's
(log 122). -/
def cmdRtcfg : Cmd where
  bad s n _ x :=
    let d := s.tileNat n x.a0 64
    let sb (pos : Nat) := x.badStruct pos 56 (tileBase n + x.a0)
    let out (a len : Nat) : Bool := decide (tileStoreBytes < a + len)
    orBad (x.unshown [(53, 0)]) <|
    orBad (firstBad [(spanBad x.a0 64 64, x.badField 56)]) <|
    orBad (firstBad [
      (bits d 203 0 != 0, sb 0),
      (decide (2 ≤ lNorm d), sb 510),
      (decide (lE d < lK d), sb 497),
      (lLfmt d != 2 && lLfmt d != 9, sb 493),
      (!actFmt (lAfmt d), sb 489),
      (lEtab d % 128 != 0 || out (lEtab d) (128 * lE d), sb 430),
      (lCard d % 64 != 0, sb 408),
      (lRet d false % 16 != 0, sb 386),
      (lRet d true % 16 != 0, sb 364),
      (lCtab d % 16 != 0, sb 316)]) <|
    orBad (if s.teamOf (s.owner n) (lTeam d) then none else some badState) <|
    orBad (firstBad [(decide (4096 < s.scorers d * lQ d), sb 456)]) <|
    if s.gtallyOk (s.owner n) (lCtally d) then none else some ⟨0x15, 0, 0⟩
  reads _ n _ x := [⟨tileBase n + x.a0, 64⟩]
  ready s n _ x := (s.slotCmds n (rSlot x)).isEmpty
  run s n st x :=
    s.setEntry n .route st (x.start 1 [.layer (rSlot x) (BitVec.ofNat 512 (s.tileNat n x.a0 64)),
      .loadedFrom (200 + rSlot x) (tileBase n + x.a0)])

/-! ## RQOPEN (07 R224, R233, R252) -/

def cmdRqopen : Cmd where
  bad s n _ x :=
    orBad (x.unshown [(36, 0)]) <|
    orBad (scoringBad s n x) <|
    if rBack x then none else tableBad s n x (s.layerDesc n x)
  reads s n _ x := if rBack x then [] else [etabRange n (s.layerDesc n x)]
  settled := slotSettled
  run s n st x :=
    let b := x.pl 52 37
    let s1 := s.modLayer n (rSlot x) fun l =>
      if rBack x then { l with batchBack := b, sentBack := [], returnedBack := [], closedBack := false }
      else { l with batch := b, attempts := [], waiting := [], returned := [], closed := false, rebounded := false }
    s1.setEntry n .route st (x.start (if rBack x then 1 else 1 + (lE (s.layerDesc n x) + 1) / 2) [])

/-! ## Scoring (07 R229–R233) -/

/-- The largest of some logits; the first where several are equal. -/
def topOf (l : List (Nat × Num)) : Option (Nat × Num) :=
  l.foldl (fun m p => match m with
    | none => some p
    | some q => if Num.lt q.2 p.2 then some p else some q) none
/-- The k largest, in descending value, equal values in ascending index. -/
def topK : Nat → List (Nat × Num) → List Nat
  | 0, _ => []
  | k + 1, l =>
    match topOf l with
    | none => []
    | some p => p.1 :: topK k (l.filter fun q => q.1 != p.1)

/-- Gates over `pool`, with the largest logit `m` (R230). -/
def gatesOf (pool : List (Nat × Word)) (m : Word) : List (Nat × Word) :=
  let es := pool.map fun p => (p.1, f32exp (f32sub p.2 m))
  let sum := toF32 (Num.sum (es.map fun p => f32 p.2))
  es.map fun p => (p.1, f32div p.2 sum)
/-- Selected experts, and the probabilities over the pool of the layer's norm. -/
def scoreToken (d : Nat) (logits : List Word) : List Nat × List (Nat × Word) :=
  let nums := (logits.map f32).mapIdx fun i v => (i, v)
  let sel := topK (lK d) nums
  let m := lget logits (lget sel 0 0) 0
  let pool := if lNorm d = 0 then sel else List.range (lE d)
  (sel, gatesOf (pool.map fun i => (i, lget logits i 0)) m)
def gateAt (g : List (Nat × Word)) (e : Nat) : Word := tget 0#32 e g

/-- One choice of a token: expert, status, replica, slot. -/
structure Choice where
  expert : Nat
  status : Nat := 0
  replica : Nat := 0
  slot : Nat := 0
deriving DecidableEq, Repr

def Choice.field (c : Choice) : Nat := pack [(10, c.expert), (2, c.status), (3, c.replica), (12, c.slot)]
def Choice.kept (c : Choice) : Bool := c.status = 1 || c.status = 2

/-- A scorecard (R232). -/
def scorecard (gates : List Word) (cs : List Choice) (tok k : Nat) (nan : Bool) (slot batch : Nat) : Nat :=
  (gates.mapIdx fun i g => g.toNat <<< (256 + 32 * i)).sum + (cs.mapIdx fun i c => c.field <<< (40 + 27 * i)).sum +
  pack [(13, tok), (4, k), (4, (cs.filter Choice.kept).length), (1, b2n nan), (2, slot), (16, batch)]
def cardChoice (w i : Nat) : Choice :=
  let f := bits w (27 * i + 66) (27 * i + 40)
  { expert := bits f 26 17, status := bits f 16 15, replica := bits f 14 12, slot := bits f 11 0 }
def cardGate (w i : Nat) : Word := BitVec.ofNat 32 (bits w (32 * i + 287) (32 * i + 256))
def cardNan (w : Nat) : Bool := bit w 18

/-- What ROUTE decides of one token: its scorecard, the choices it keeps with their places, and those that wait. -/
structure Decision where
  tok : Nat
  card : Nat
  nan : Bool := false
  rows : List (Nat × Choice) := []
  waits : List (Nat × Nat × Nat) := []
deriving DecidableEq, Repr

/-- One choice under the quotas (R233): attempts so far, and the choice as decided. -/
def State.quota (s : State) (n d rho : Nat) (att : Table Nat) (e : Nat) : Table Nat × Choice :=
  let a := tget 0 e att
  let r := s.repCount n d e
  (tset e (a + 1) att,
    if a < r * lQ d then { expert := e, status := 1, replica := a % r, slot := rho * lQ d + a / r }
    else { expert := e, status := 3 })

/-- A token decided. A NaN token's gates are those of its k choices, canonical NaN; the gates from k up are +0, as of any token
(R231, R232; log 84). -/
def State.decideToken (s : State) (n d rho slot batch : Nat) (att : Table Nat) (tok : Nat) (logits : List Word) :
    Table Nat × Decision :=
  if logits.any fun w => !(f32 w).isFinite then
    (att, { tok := tok, nan := true, card := scorecard (List.replicate (lK d) f32nan) [] tok (lK d) true slot batch })
  else
    let sc := scoreToken d logits
    let r := sc.1.foldl (fun (acc : Table Nat × List Choice) e =>
      let q := s.quota n d rho acc.1 e
      (q.1, acc.2 ++ [q.2])) (att, [])
    let at' := r.2.mapIdx fun i c => (i, c)
    (r.1, { tok := tok, card := scorecard (sc.1.map (gateAt sc.2)) r.2 tok (lK d) false slot batch,
            rows := at'.filter fun p => p.2.kept
            waits := if lRebound d then (at'.filter fun p => !p.2.kept).map fun p => (p.2.expert, tok, p.1) else [] })

def rtTokens (x : Entry) : Nat := x.pl 53 50 + 1
def rtTok0 (x : Entry) : Nat := x.pl 49 37
/-- A row of logits as FP32. -/
def State.logitRow (s : State) (n d at' : Nat) : List Word :=
  (unpack (lLfmt d) (lE d) (s.tileBytes n at' (lLogits d))).map (plainWord (lLfmt d))
/-- Everything one ROUTE decides: attempt counts after it, and its tokens' decisions. -/
def State.routePlan (s : State) (n : Nat) (x : Entry) : Table Nat × List Decision :=
  let d := s.layerDesc n x
  let l := s.layer n (rSlot x)
  (List.range (rtTokens x)).foldl (fun (acc : Table Nat × List Decision) i =>
    let r := s.decideToken n d (s.rank (lTeam d) n) (rSlot x) l.batch acc.1 (rtTok0 x + i)
      (s.logitRow n d (x.a0 + i * lLogitStride d))
    (r.1, acc.2 ++ [r.2])) (l.attempts, [])

/-! ## Rows and closes (07 R235, R236) -/

def rowTag (n tok choice : Nat) : Nat := pack [(1, 1), (11, n), (13, tok), (3, choice), (4, 0)]
def tagValid (t : Nat) : Bool := bit t 31
def tagTile (t : Nat) : Nat := bits t 30 20
def tagKey (t : Nat) : Nat := 8 * bits t 19 7 + bits t 6 4

def State.sendRow (s : State) (n : Nat) (st : Stream) (x : Entry) (back : Bool) (batch tok choice : Nat) (c : Choice)
    (bytes : List Byte) : State :=
  s.rowSend n st x (.tile (s.replLeader n (s.layerDesc n x) c.expert c.replica))
    (.row (rSlot x) c.expert c.replica back batch c.slot (rowTag n tok choice) bytes)
/-- Where kept choices' rows and tags come to lie, by the sender's own expert table: the replica leaders' slot buffers and tag
arrays (07 R236). -/
def State.rowRanges (s : State) (n : Nat) (x : Entry) (back : Bool) (cs : List Choice) : List Range :=
  let d := s.layerDesc n x
  cs.flatMap fun c =>
    let w := s.repl n d c.expert c.replica
    let b := tileBase (s.replLeader n d c.expert c.replica)
    [⟨b + reSlots w back + c.slot * lRow d, lRow d⟩, ⟨b + reTags w + 4 * c.slot, 4⟩]
/-- What sending kept choices' rows writes, for the lock-step digest: the rows and their tags. -/
def State.rowOuts (s : State) (n : Nat) (x : Entry) (back : Bool) (rows : List (Nat × Nat × Choice × List Byte)) :
    List (Nat × Nat × List Byte) :=
  rows.flatMap fun r => (s.rowRanges n x back [r.2.2.1]).zip [r.2.2.2, natLE 4 (rowTag n r.1 r.2.1)] |>.map fun p =>
    (s.deviceNumber, p.1.base, p.2)
/-- A close to the leader of every replica of every expert. -/
def State.sendCloses (s : State) (n : Nat) (st : Stream) (x : Entry) (back : Bool) (batch round : Nat)
    (count : Nat → Nat → Nat) : State :=
  let d := s.layerDesc n x
  (s.replicas n d).foldl (fun s p => s.cmdSend n .route st x (.tile (s.replLeader n d p.1 p.2))
    (.rowClose (rSlot x) p.1 p.2 back batch round (count p.1 p.2))) s

/-- Card ranges of a token run, and a run's checks: the last token, and its cards in the store. -/
def cardRange (n d tok0 count : Nat) : Range := ⟨tileBase n + lCard d + 64 * tok0, 64 * count⟩
def cardsOut (d tok0 count : Nat) : Bool := decide (tileStoreBytes < lCard d + 64 * (tok0 + count))

/-! ## ROUTE (07 R229–R240) -/

def dispatchBuffer : Nat := 262144
def routeNeed (d : Nat) (x : Entry) : Nat := rtTokens x * lK d * lRow d
/-- Bytes the tile's dispatch buffer holds for ROUTEs under way. -/
def State.dispatchUsed (s : State) (n : Nat) : Nat :=
  allStreams.foldl (fun k st => ((s.queue n .route st).entries.filter fun y => y.issued && !y.skip && y.op = 3).foldl
    (fun k y => k + routeNeed (s.layerDesc n y) y) k) 0

def cmdRoute : Cmd where
  bad s n _ x :=
    let d := s.layerDesc n x
    let m := rtTokens x
    orBad (x.unshown [(36, 0)]) <|
    orBad (scoringBad s n x) <|
      orBad (firstBad ([
        (decide (8191 < rtTok0 x + (m - 1)), x.badField 37),
        (decide (dispatchBuffer < routeNeed d x), x.badField 50)] ++
        x.spanChecks 56 50 x.a0 16 ((m - 1) * lLogitStride d + lLogits d) ++
        x.spanChecks 57 50 x.a1 16 ((m - 1) * up16 (lRow d) + lRow d) ++
        [(cardsOut d (rtTok0 x) m, descBad s n x 408)])) <|
      ((s.routePlan n x).2.flatMap (·.rows)).findSome? fun p => destBad s n d (p.2.expert, p.2.replica)
  reads s n _ x :=
    let d := s.layerDesc n x
    etabRange n d :: (rowRanges n x.a0 (lLogitStride d) (lLogits d) (rtTokens x) ++
      rowRanges n x.a1 (up16 (lRow d)) (lRow d) (rtTokens x))
  writes s n _ x := cardRange n (s.layerDesc n x) (rtTok0 x) (rtTokens x) ::
    s.rowRanges n x false ((s.routePlan n x).2.flatMap fun q => q.rows.map (·.2))
  settled := slotSettled
  ready s n _ x :=
    decide (s.dispatchUsed n + routeNeed (s.layerDesc n x) x ≤ dispatchBuffer)
  run s n st x :=
    let d := s.layerDesc n x
    let plan := s.routePlan n x
    let nans := (plan.2.filter (·.nan)).length
    let waits := plan.2.flatMap (·.waits)
    let s1 := s.modLayer n (rSlot x) fun l => { l with attempts := plan.1, waiting := l.waiting ++ waits }
    let s2 := s1.modTile n fun t => { t with nanTokens := satAdd 32 t.nanTokens nans }
    let batch := (s.layer n (rSlot x)).batch
    let rows := (plan.2.zipIdx).flatMap fun q => q.1.rows.map fun p =>
      (q.1.tok, p.1, p.2, s.tileBytes n (x.a1 + q.2 * up16 (lRow d)) (lRow d))
    let s3 := rows.foldl (fun s r => s.sendRow n st x false batch r.1 r.2.1 r.2.2.1 r.2.2.2) s2
    let x1 := x.start (18 + cdiv (rows.length * lRow d) 32 + 4)
      (plan.2.map fun q => .store (tileBase n + lCard d + 64 * q.tok) (natLE 64 q.card))
    s3.setEntry n .route st { x1 with outs := s.rowOuts n x false rows }

/-! ## RQCLOSE (07 R235, R252) -/

/-- Attempts of a replica among the first k kept. -/
def replShare (k reps r : Nat) : Nat := (k + reps - 1 - r) / reps
/-- The tile's row of the count table. -/
def State.countRow (s : State) (n d : Nat) (l : Layer) : List Byte :=
  (List.range (lE d)).flatMap fun e =>
    let a := tget 0 e l.attempts
    natLE 4 (pack [(16, a), (16, min a (s.repCount n d e * lQ d))])
def State.countAt (s : State) (n d : Nat) : Nat := lCtab d + 4 * s.rank (lTeam d) n * lE d

def cmdRqclose : Cmd where
  bad s n _ x := orBad (x.unshown [(52, 0)]) (scoringBad s n x)
  reads s n _ x := [etabRange n (s.layerDesc n x)]
  writes s n _ x :=
    let d := s.layerDesc n x
    if rBack x then [] else [⟨s.countAt n d, 4 * lE d⟩]
  settled := slotSettled
  run s n st x :=
    let d := s.layerDesc n x
    let l := s.layer n (rSlot x)
    let x1 := x.start 1 []
    if rBack x then
      (s.sendCloses n st x true l.batchBack 1 fun e r => tget 0 (8 * e + r) l.sentBack).setEntry n .route st x1
    else
      let row := s.countRow n d l
      let s1 := s.storeTo n .route st x s.deviceNumber (s.countAt n d) row
      let s2 := s1.sendCloses n st x false l.batch 1 fun e r =>
        let reps := s.repCount n d e
        replShare (min (tget 0 e l.attempts) (reps * lQ d)) reps r
      let s3 := s2.modTile n fun t => { t with closing := t.closing ++ [(st, x, lCtally d)] }
      s3.setEntry n .route st { x1 with outs := [(s.deviceNumber, s.countAt n d, row)] }
  finish s n _ x := s.modLayer n (rSlot x) fun l =>
    if rBack x then { l with closedBack := true } else { l with closed := true }

/-! ## RBOUND (07 R241, R242) -/

/-- Entry (ρ, e) of the count table: demand and kept. -/
def State.countEntry (s : State) (d rho e : Nat) : Nat × Nat :=
  let w := s.loadNat (lCtab d + 4 * (rho * lE d + e)) 4
  (bits w 31 16, bits w 15 0)
/-- The free slots of expert e, in order: replica and slot. -/
def State.freeSlots (s : State) (n d e : Nat) : List (Nat × Nat) :=
  let reps := s.repCount n d e
  let counts := (List.range (s.scorers d)).map fun rho => (s.countEntry d rho e).2
  (List.range reps).flatMap fun r => (counts.zipIdx).flatMap fun c =>
    let used := replShare c.1 reps r
    (List.range (lQ d - used)).map fun u => (r, c.2 * lQ d + used + u)
/-- Waiting choices of lower ranks for expert e. -/
def State.waitsBelow (s : State) (n d e : Nat) : Nat :=
  ((List.range (s.rank (lTeam d) n)).map fun rho => (s.countEntry d rho e).1 - s.repCount n d e * lQ d).sum

/-- The tile's waiting choices that find a slot: token, choice number, the choice as kept. -/
def State.boundPlan (s : State) (n : Nat) (x : Entry) : List (Nat × Nat × Choice) :=
  let d := s.layerDesc n x
  let mine := (s.layer n (rSlot x)).waiting
  (List.range (lE d)).flatMap fun e =>
    let w := mine.filter fun c => c.1 = e
    if w.isEmpty then []
    else
      let free := (s.freeSlots n d e).drop (s.waitsBelow n d e)
      (w.zip free).map fun p =>
        (p.1.2.1, p.1.2.2, { expert := e, status := 2, replica := p.2.1, slot := p.2.2 })

/-- A scorecard with some choices kept in the rebound round. -/
def reboundCard (w : Nat) (cs : List (Nat × Choice)) : Nat :=
  let w1 := cs.foldl (fun w c => (withField (BitVec.ofNat 512 w) (27 * c.1 + 40) 27 c.2.field).toNat) w
  (withField (BitVec.ofNat 512 w1) 19 4 (bits w1 22 19 + cs.length)).toNat

def closeIssued (s : State) (n : Nat) (x : Entry) : Bool :=
  (s.slotCmds n (rSlot x)).any fun y => y.op = 4 && !rBack y && y.uid != x.uid

def cmdRbound : Cmd where
  bad s n _ x :=
    let d := s.layerDesc n x
    orBad (x.unshown [(53, 0)]) <|
    orBad (scoringBad s n x) <|
      orBad (if !lRebound d || (!(s.layer n (rSlot x)).closed && !closeIssued s n x) then some badState else none) <|
      orBad (firstBad [(spanBad x.a0 16 1, x.badField 56)]) <|
      let p := s.boundPlan n x
      orBad (firstBad [
        (p.any fun c => decide (tileStoreBytes < x.a0 + (c.1 + 1) * lRow d), x.badField 56),
        (p.any fun c => cardsOut d c.1 1, descBad s n x 408)]) <|
      p.findSome? fun c => destBad s n d (c.2.2.expert, c.2.2.replica)
  reads s n _ x :=
    let d := s.layerDesc n x
    [etabRange n d, ⟨lCtab d, 4 * lE d * s.scorers d⟩] ++
      (s.boundPlan n x).flatMap fun c => [⟨tileBase n + x.a0 + c.1 * lRow d, lRow d⟩, cardRange n d c.1 1]
  writes s n _ x := ((s.boundPlan n x).map fun c => cardRange n (s.layerDesc n x) c.1 1) ++
    s.rowRanges n x false ((s.boundPlan n x).map (·.2.2))
  settled := slotSettled
  ready s n _ x := (s.layer n (rSlot x)).closed
  run s n st x :=
    let d := s.layerDesc n x
    let p := s.boundPlan n x
    let batch := (s.layer n (rSlot x)).batch
    let rows := p.map fun c => (c.1, c.2.1, c.2.2, s.tileBytes n (x.a0 + c.1 * lRow d) (lRow d))
    let s1 := rows.foldl (fun s r => s.sendRow n st x false batch r.1 r.2.1 r.2.2.1 r.2.2.2) s
    let s2 := s1.sendCloses n st x false batch 2 fun e r =>
      (p.filter fun c => c.2.2.expert = e && c.2.2.replica = r).length
    let toks := (p.map (·.1)).eraseDups
    let s3 := s2.modLayer n (rSlot x) fun l => { l with waiting := [] }
    let x1 := x.start (1 + cdiv (4 * lE d * s.scorers d) 256) (toks.map fun t =>
      let cs := (p.filter fun c => c.1 = t).map fun c => (c.2.1, c.2.2)
      .store (tileBase n + lCard d + 64 * t) (natLE 64 (reboundCard (s.tileNat n (lCard d + 64 * t) 64) cs)))
    s3.setEntry n .route st { x1 with outs := s.rowOuts n x false rows }
  finish s n _ x := s.modLayer n (rSlot x) fun l => { l with rebounded := true }

/-! ## Token runs over scorecards (07 R251–R253) -/

def runTok0 (x : Entry) : Nat := x.pl 52 40
def runLen (x : Entry) : Nat := x.pl 39 27 + 1
def State.card (s : State) (n d tok : Nat) : Nat := s.tileNat n (lCard d + 64 * tok) 64
/-- A token's kept choices: number and choice. -/
def cardKept (d w : Nat) : List (Nat × Choice) :=
  ((List.range (lK d)).map fun i => (i, cardChoice w i)).filter fun p => p.2.kept
/-- Kept choices in ascending expert index. -/
def byExpert (l : List (Nat × Choice)) : List (Nat × Choice) := l.mergeSort fun a b => decide (a.2.expert ≤ b.2.expert)
/-- Elements of a row as exact values, and as FP32. -/
def State.rowNums (s : State) (n d at' : Nat) : List Num :=
  (unpack (lAfmt d) (lD d) (s.tileBytes n at' (lRow d))).map (codeFmt (lAfmt d)).decode
def returnAt (d : Nat) (back : Bool) (tok choice : Nat) : Nat := lRet d back + (tok * lK d + choice) * lRow d
/-- Every return row a run may read lies in the store. -/
def returnsOut (d : Nat) (back : Bool) (x : Entry) : Bool :=
  decide (tileStoreBytes < returnAt d back (runTok0 x + runLen x) 0)
def runRanges (s : State) (n d : Nat) (back : Bool) (x : Entry) : List Range :=
  cardRange n d (runTok0 x) (runLen x) :: (List.range (runLen x)).flatMap fun i =>
    (cardKept d (s.card n d (runTok0 x + i))).map fun p =>
      ⟨tileBase n + returnAt d back (runTok0 x + i) p.1, lRow d⟩

/-! ## RCOMB (07 R251) -/

def cmbFmt (x : Entry) : Nat := x.pl 26 23
def cmbRow (d : Nat) (x : Entry) : Nat := rowBytes (cmbFmt x) (lD d)

/-- One token combined, as FP32. -/
def State.combine (s : State) (n d : Nat) (back : Bool) (tok : Nat) : List Word :=
  let w := s.card n d tok
  if cardNan w then List.replicate (lD d) f32nan
  else (byExpert (cardKept d w)).foldl (fun acc p =>
    let y := (s.rowNums n d (returnAt d back tok p.1)).map toF32
    acc.zipWith (fun a v => if back then f32add a v else f32fma (cardGate w p.1) v a) y) (List.replicate (lD d) 0#32)

def cmdRcomb : Cmd where
  bad s n _ x :=
    let d := s.layerDesc n x
    orBad (x.unshown [(22, 0)]) <|
    orBad (scoringBad s n x) <|
    firstBad ([
      (!actFmt (cmbFmt x), x.badField 23),
      (decide (8191 < runTok0 x + (runLen x - 1)), x.badField 27)] ++
      x.spanChecks 56 23 x.a0 16 ((runLen x - 1) * up16 (cmbRow d x) + cmbRow d x) ++
      [(cardsOut d (runTok0 x) (runLen x), descBad s n x 408),
      (returnsOut d (rBack x) x, descBad s n x (if rBack x then 364 else 386))])
  reads s n _ x := runRanges s n (s.layerDesc n x) (rBack x) x
  writes s n _ x := let d := s.layerDesc n x; rowRanges n x.a0 (up16 (cmbRow d x)) (cmbRow d x) (runLen x)
  settled := slotSettled
  ready s n _ x :=
    let d := s.layerDesc n x
    let l := s.layer n (rSlot x)
    let got := if rBack x then l.returnedBack else l.returned
    (if rBack x then l.closedBack else l.closed && (!lRebound d || l.rebounded)) &&
      (List.range (runLen x)).all fun i =>
        (cardKept d (s.card n d (runTok0 x + i))).all fun p => got.contains (8 * (runTok0 x + i) + p.1)
  run s n st x :=
    let d := s.layerDesc n x
    s.setEntry n .route st (x.start (cdiv (runLen x * (64 + cmbRow d x)) 256) ((List.range (runLen x)).map fun i =>
      .store (tileBase n + x.a0 + i * up16 (cmbRow d x))
        (packElems (cmbFmt x) ((s.combine n d (rBack x) (runTok0 x + i)).map (toCode (cmbFmt x) .nearest false)))))

/-! ## RBACK and RGRAD (07 R252, R253) -/

def gradRunBad (s : State) (n : Nat) (x : Entry) (d : Nat) : Option Bad :=
  firstBad ([(decide (8191 < runTok0 x + (runLen x - 1)), x.badField 27)] ++
    x.spanChecks 56 27 x.a0 16 ((runLen x - 1) * up16 (lRow d) + lRow d) ++
    [(cardsOut d (runTok0 x) (runLen x), descBad s n x 408)])

/-- The rows RBACK sends: token, position in the run, choice number, choice. -/
def State.backPlan (s : State) (n : Nat) (x : Entry) : List (Nat × Nat × Nat × Choice) :=
  let d := s.layerDesc n x
  (List.range (runLen x)).flatMap fun i =>
    (cardKept d (s.card n d (runTok0 x + i))).map fun p => (runTok0 x + i, i, p.1, p.2)

/-- RBACK (07 R252). A row's rounding overflows to the largest finite value, as with sat = 0 in R249 and R251 (log 87). -/
def cmdRback : Cmd where
  bad s n _ x :=
    let d := s.layerDesc n x
    orBad (x.unshown [(53, 53), (26, 0)]) <|
    orBad (scoringBad s n x) <|
    orBad (gradRunBad s n x d) ((s.backPlan n x).findSome? fun p => destBad s n d (p.2.2.2.expert, p.2.2.2.replica))
  reads s n _ x :=
    let d := s.layerDesc n x
    [etabRange n d, cardRange n d (runTok0 x) (runLen x)] ++ rowRanges n x.a0 (up16 (lRow d)) (lRow d) (runLen x)
  writes s n _ x := s.rowRanges n x true ((s.backPlan n x).map (·.2.2.2))
  settled := slotSettled
  run s n st x :=
    let d := s.layerDesc n x
    let batch := (s.layer n (rSlot x)).batchBack
    let p := s.backPlan n x
    let rows := p.map fun c =>
      let g := f32 (cardGate (s.card n d c.1) c.2.2.1)
      let row := (s.rowNums n d (x.a0 + c.2.1 * up16 (lRow d))).map fun y =>
        (codeFmt (lAfmt d)).round .nearest .toMax (Num.mul g y)
      (c.1, c.2.2.1, c.2.2.2, packElems (lAfmt d) row)
    let s1 := rows.foldl (fun s r => s.sendRow n st x true batch r.1 r.2.1 r.2.2.1 r.2.2.2) s
    let bump (t : Table Nat) (c : Nat × Nat × Nat × Choice) : Table Nat :=
      let k := 8 * c.2.2.2.expert + c.2.2.2.replica
      tset k (tget 0 k t + 1) t
    let s2 := s1.modLayer n (rSlot x) fun l => { l with sentBack := p.foldl bump l.sentBack }
    s2.setEntry n .route st { x.start (cdiv (p.length * lRow d) 32 + 4) [] with outs := s.rowOuts n x true rows }

/-- A token's logit gradients in the logit format (R253). -/
def State.logitGrad (s : State) (n : Nat) (x : Entry) (d i : Nat) : List Nat :=
  let tok := runTok0 x + i
  let w := s.card n d tok
  let fmt := codeFmt (lLfmt d)
  if cardNan w then List.replicate (lE d) fmt.nanCode
  else
    let dy := s.rowNums n d (x.a0 + i * up16 (lRow d))
    let kept := cardKept d w
    let dg : List (Nat × Word) := kept.map fun p =>
      (p.2.expert, toF32 (Num.sum (dy.zipWith Num.mul (s.rowNums n d (returnAt d false tok p.1)))))
    let dsum := toF32 (Num.sum (kept.map fun p => Num.mul (f32 (cardGate w p.1)) (f32 (tget 0#32 p.2.expert dg))))
    let probs : List (Nat × Word) :=
      if lNorm d = 0 then (List.range (lK d)).map fun j => ((cardChoice w j).expert, cardGate w j)
      else (scoreToken d (s.logitRow n d (x.a1 + i * lLogitStride d))).2
    (List.range (lE d)).map fun e =>
      match probs.find? fun p => p.1 = e with
      | none => 0
      | some p => fmt.round .nearest .toInf (Num.mul (f32 p.2) (Num.add (f32 (tget 0#32 e dg)) (f32 dsum).neg))

def cmdRgrad : Cmd where
  bad s n _ x :=
    let d := s.layerDesc n x
    orBad (x.unshown [(53, 53), (26, 0)]) <|
    orBad (scoringBad s n x) <|
      orBad (gradRunBad s n x d) <|
      firstBad (x.spanChecks 57 27 x.a1 16 ((runLen x - 1) * lLogitStride d + lLogits d) ++
        [(returnsOut d false x, descBad s n x 386)])
  reads s n _ x :=
    let d := s.layerDesc n x
    runRanges s n d false x ++ rowRanges n x.a0 (up16 (lRow d)) (lRow d) (runLen x) ++
      rowRanges n x.a1 (lLogitStride d) (lLogits d) (runLen x)
  writes s n _ x := let d := s.layerDesc n x; rowRanges n x.a1 (lLogitStride d) (lLogits d) (runLen x)
  settled := slotSettled
  run s n st x :=
    let d := s.layerDesc n x
    s.setEntry n .route st (x.start (cdiv (runLen x * (64 + 2 * lLogits d)) 256) ((List.range (runLen x)).map fun i =>
      .store (tileBase n + x.a1 + i * lLogitStride d) (packElems (lLfmt d) (s.logitGrad n x d i))))

end Sys2Proof.Machine
end

