-- ==== Sys2Proof/Machine/Experts.lean ====
section
/-!
DEFINITION. The expert side of routing (spec/07 R236, R239, R243–R250, R255): replica states at their leaders, weight fetches,
packing, expansion into work-list items, result rows, and what arrives.
-/
namespace Sys2Proof.Machine

def rExpert (x : Entry) : Nat := x.pl 36 27
def rReplica (x : Entry) : Nat := x.pl 26 24

/-! ## Replica states (07 R243) -/

def Replica.isFor (r : Replica) (slot expert replica : Nat) (back : Bool) : Bool :=
  r.slot = slot && r.expert = expert && r.replica = replica && r.back = back
def State.replicaState (s : State) (n slot expert replica : Nat) (back : Bool) : Option Replica :=
  (s.tile n).replicas.find? fun r => r.isFor slot expert replica back
def State.setReplica (s : State) (n : Nat) (r : Replica) : State :=
  let put (q : Replica) : Replica := if q.isFor r.slot r.expert r.replica r.back then r else q
  s.modTile n fun t => { t with replicas := t.replicas.map put }
/-- The state a command names. -/
def State.rxState (s : State) (n : Nat) (x : Entry) : Option Replica :=
  s.replicaState n (rSlot x) (rExpert x) (rReplica x) (rBack x)
/-- The replica entry a command names, from the leader's own expert table. -/
def State.rxEntry (s : State) (n : Nat) (x : Entry) : Nat := s.repl n (s.layerDesc n x) (rExpert x) (rReplica x)
def rxEntryRange (s : State) (n : Nat) (x : Entry) : Range :=
  ⟨tileBase n + lEtab (s.layerDesc n x) + 128 * rExpert x + 16 * rReplica x, 16⟩

/-- An unloaded slot, or an expert the layer does not have. -/
def expertBad (s : State) (n : Nat) (x : Entry) : Option Bad :=
  orBad (unloaded s n x) <|
  if decide (lE (s.layerDesc n x) ≤ rExpert x) then some (x.badField 27) else none

/-- n rounded up to whole blocks of 32 rows. -/
def padded (n : Nat) : Nat := 32 * ((n + 31) / 32)

/-- RXOPEN (07 R243). A replica whose entry is not valid has no leader that could execute it: 0x20 too (log 121). -/
def cmdRxopen : Cmd where
  bad s n _ x :=
    orBad (x.unshown [(23, 0)]) <|
    orBad (expertBad s n x) <|
      let w := s.rxEntry n x
      if !reValid w || !s.teamOf (s.owner n) (reTeam w) || teamLeader (s.team (reTeam w)) != n ||
          (s.rxState n x).isSome || decide (16 ≤ (s.tile n).replicas.length) then some badState else none
  reads s n _ x := [rxEntryRange s n x]
  settled := slotSettled
  run s n st x :=
    let r : Replica := { slot := rSlot x, expert := rExpert x, replica := rReplica x, back := rBack x, batch := x.pl 52 37 }
    (s.modTile n fun t => { t with replicas := t.replicas ++ [r] }).setEntry n .route st (x.start 1 [])

/-! ## RWGET (07 R248–R250) -/

def State.fetchDesc (s : State) (n : Nat) (x : Entry) : Nat := s.tileNat n x.a0 32
def fdDev (d : Nat) : Nat := bits d 255 248
def fdSrc (d : Nat) : Nat := bits d 247 200
def fdDst (d : Nat) : Nat := bits d 199 178
def fdSfmt (d : Nat) : Nat := bits d 177 174
def fdDfmt (d : Nat) : Nat := bits d 173 170
def fdElems (d : Nat) : Nat := bits d 169 157 + 1
def fdRows (d : Nat) : Nat := bits d 156 141 + 1
def fdSstride (d : Nat) : Nat := bits d 140 121
def fdDstride (d : Nat) : Nat := bits d 120 101
def fdSrow (d : Nat) : Nat :=
  rowBytes (fdSfmt d) (fdElems d) + (if isMx (fdSfmt d) then fdElems d / 32 else 0)
def fdDrow (d : Nat) : Nat := if fdSfmt d = fdDfmt d then fdSrow d else 2 * fdElems d
def fdFmt (c : Nat) : Bool := c ≤ 2 || isMx c
/-- The tile's rank in the team the command addresses. -/
def State.memberRank (s : State) (n : Nat) (x : Entry) : Nat := s.rank (s.cmdTeam x) n
def State.fdSrcRows (s : State) (n : Nat) (x : Entry) (d : Nat) : List Range :=
  let base := fdSrc d + s.memberRank n x * fdRows d * fdSstride d
  (List.range (fdRows d)).map fun i => ⟨base + i * fdSstride d, fdSrow d⟩
def fdDstRows (n d : Nat) : List Range := rowRanges n (fdDst d) (fdDstride d) (fdDrow d) (fdRows d)
def rwStarts (x : Entry) : Bool := x.plb 23
/-- How far a fetch is: 0 waits for the leader, 1 fetches, 2 stopped because the replica is empty (07 R255). -/
def rwPhase (x : Entry) : Nat := lget x.progress 0 0

/-- The fetch begins. -/
def State.rwBegin (s : State) (n : Nat) (st : Stream) (x : Entry) : State :=
  let d := match x.plan with
    | .rwget (d :: _) => d
    | _ => 0
  let ps := s.makePieces n (fdDev d) ((s.fdSrcRows n x d).flatMap fun r => pieceRanges r.base r.len)
  ps.1.pumpEntry n .route st { x with pieces := ps.2, progress := [1] }

/-- Destination bytes of one row, from source bytes known or not: none where the bytes it comes from are not all known. -/
def fetchRow (d : Nat) (src : List (Option Byte)) : List (Option Byte) :=
  if fdSfmt d = fdDfmt d then src
  else
    let known (i : Nat) : Bool := (src.getD i none).isSome
    let w := codeWidth (fdSfmt d)
    let row := widenRow (fdSfmt d) 2 (fdElems d) (src.map fun b => b.getD 0)
    row.mapIdx fun i b =>
      let e := i / 2
      let codes := (List.range ((w * e + w - 1) / 8 - w * e / 8 + 1)).all fun k => known (w * e / 8 + k)
      let scale := !isMx (fdSfmt d) || known (rowBytes (fdSfmt d) (fdElems d) + e / 32)
      if codes && scale then some b else none

/-- A read of a fetch that ends: one not sent asks for nothing more (07 R255). -/
def Piece.stopped (p : Piece) : Piece := if p.sent then p else { p with sent := true, data := some [] }

/-- Bytes of a fetch by destination row: every source byte that has come. -/
def fetchRows (d : Nat) (x : Entry) : List (List (Option Byte)) :=
  let src := x.pieces.flatMap fun p => match p.data with
    | some bs => bs.map some ++ List.replicate (p.len - bs.length) none
    | none => List.replicate p.len none
  (List.range (fdRows d)).map fun i =>
    let r := (src.drop (i * fdSrow d)).take (fdSrow d)
    fetchRow d (r ++ List.replicate (fdSrow d - r.length) none)

/-- One row as it lies in the store after the fetch: a stopped fetch leaves each byte that came old or new (07 R255). -/
def State.landRow (s : State) (stopped : Bool) (at' : Nat) (row : List (Option Byte)) : List Byte :=
  row.mapIdx fun i b =>
    match b with
    | some v => if !stopped || Config.cutTakesNew s.draws (at' + i) then v else peek (at' + i) s.mem
    | none => peek (at' + i) s.mem

def cmdRwget : Cmd where
  bad s n _ x :=
    let d := s.fetchDesc n x
    let sb (pos : Nat) := x.badStruct pos 56 (tileBase n + x.a0)
    let many := decide (1 < fdRows d)
    orBad (x.unshown [(53, 37), (22, 0)]) <|
    orBad (firstBad [
      (x.teamCmd = none, ⟨0x11, detailHeader x.op 90, 0⟩),
      (spanBad x.a0 32 32, x.badField 56)]) <|
    orBad (unloaded s n x) <|
    orBad (firstBad [
      (bits d 100 0 != 0, sb 0),
      (!fdFmt (fdSfmt d), sb 174),
      (fdDfmt d != fdSfmt d && fdDfmt d != 2, sb 170),
      (isMx (fdSfmt d) && fdElems d % 32 != 0, sb 157),
      (fdSstride d % 16 != 0, sb 121),
      (fdDstride d % 16 != 0 || (many && decide (fdDstride d < fdDrow d)), sb 101),
      (spanBad (fdDst d) 16 1, sb 178),
      (decide (tileStoreBytes < fdDst d + (fdRows d - 1) * fdDstride d + fdDrow d), sb (if many then 101 else 157))]) <|
    if fdDev d != s.deviceNumber then s.windowBad (s.owner n) (fdDev d) (requestSpans (s.fdSrcRows n x d)) else none
  reads s n _ x :=
    let d := s.fetchDesc n x
    ⟨tileBase n + x.a0, 32⟩ :: (if fdDev d = s.deviceNumber then s.fdSrcRows n x d else [])
  writes s n _ x := fdDstRows n (s.fetchDesc n x)
  settled := slotSettled
  run s n st x :=
    let d := s.fetchDesc n x
    let x' := { x with latency := cdiv (fdRows d * fdDrow d) 256, plan := Plan.rwget [d], progress := [0],
                       writes := fdDstRows n d }
    let s1 := (s.setEntry n .route st x').cmdSend n .route st x (.tile (teamLeader (s.team (s.cmdTeam x))))
      (.rwRegister (rSlot x) (rExpert x) (rReplica x) (rwStarts x))
    if rwStarts x then s1.rwBegin n st x' else s1
  done _ _ _ x := rwPhase x != 0 && piecesThere x.pieces
  finish s n st x :=
    let d := match x.plan with
      | .rwget (d :: _) => d
      | _ => 0
    let stopped := rwPhase x = 2
    -- one that never started is a zero-length operation (07 R255)
    if stopped && x.pieces.isEmpty then s
    else
    let rows := ((fdDstRows n d).zip (fetchRows d x)).map fun p => (p.1.base, s.landRow stopped p.1.base p.2)
    if rows.any fun p => s.extentBadAt p.1 p.2 then s.setEntry n .route st { x with failing := some (0x20, 0, 0) }
    else
      let w : Writer := { ctx := s.owner n, tile := some n, stream := st }
      let s1 := rows.foldl (fun s p => s.writeChecked (.command n st (entryHalt .route x)) w p.1 p.2) { s with draws := if stopped then s.draws + 1 else s.draws }
      s1.setEntry n .route st { x with outs := rows.map fun p => (s.deviceNumber, p.1, p.2) }

/-- An answer of a replica leader to a member's RWGET. -/
def State.rwAnswer (s : State) (leader : Nat) (empty : Bool) (f : Fetcher) : State :=
  s.send { uid := 0, ctx := s.owner leader, epoch := 0, chan := f.chan, src := .tile leader, dst := .tile f.tile,
           stream := f.stream, engine := 3, tag := f.tag, entry := f.entry, body := .rwStart empty }

/-- A member's registration reaches the leader (07 R250). -/
def execRwgetRegistration (k : Nat) (s : State) : Result :=
  onPacket k s (fun p => match p.body with
    | .rwRegister .. => true
    | _ => false) fun p s =>
    match p.body with
    | .rwRegister slot expert replica start =>
      match s.replicaState p.at slot expert replica false with
      | none => s.reply p (.refusal 0 ⟨0x20, 0, 0⟩)
      | some r =>
        let f : Fetcher := { tile := p.from, stream := p.stream, entry := p.entry, chan := p.chan, tag := p.tag }
        if r.packing && r.n = 0 then s.rwAnswer p.at true f
        else if start then s.setReplica p.at { r with started := r.started ++ [f] }
        else if r.rows.isEmpty then s.setReplica p.at { r with waiting := r.waiting ++ [f] }
        else (s.setReplica p.at { r with started := r.started ++ [f] }).rwAnswer p.at false f
    | _ => s

/-- The leader's answer reaches the member: its fetch begins, or ends because the replica is empty (07 R250, R255). -/
def execRwgetStart (k : Nat) (s : State) : Result :=
  onPacket k s (fun p => match p.body with
    | .rwStart _ => true
    | _ => false) fun p s =>
    match p.body, s.findEntry p.at p.stream p.entry with
    | .rwStart false, some (e, x) =>
      (if rwPhase x = 0 then s.rwBegin p.at p.stream x else s).progressed p.at (watchedQueue e p.stream)
    | .rwStart true, some (e, x) =>
      (s.setEntry p.at e p.stream { x with progress := [2], pieces := x.pieces.map Piece.stopped }).progressed p.at
        (watchedQueue e p.stream)
    | _, _ => s

/-! ## RXWAIT (07 R244, R245, R255) -/

def rxSum (x : Entry) : Bool := x.plb 23
def rxPw (x : Entry) : Bool := x.plb 22

/-- Closes of every round of the direction have come from all P scoring tiles. -/
def closesIn (s : State) (n : Nat) (x : Entry) (r : Replica) : Bool :=
  let d := s.layerDesc n x
  (if !r.back && lRebound d then [1, 2] else [1]).all fun round =>
    (r.closes.filter fun c => c.2.1 = round).length = s.scorers d
def closeCount (r : Replica) : Nat := (r.closes.map (·.2.2)).sum
/-- The occupied slots in ascending order. -/
def rowSlots (r : Replica) : List Nat := r.rows.mergeSort fun a b => decide (a ≤ b)

/-- What packing reads, the occupied slots and their tags, and what it writes, rows and tags 0 to n̂ − 1; nothing before every
close has come. -/
def packReads (s : State) (n : Nat) (x : Entry) (r : Replica) : List Range :=
  let d := s.layerDesc n x
  let w := s.rxEntry n x
  if closesIn s n x r && 0 < closeCount r then
    ((rowSlots r).take (closeCount r)).flatMap fun i =>
      [⟨tileBase n + reSlots w r.back + i * lRow d, lRow d⟩, ⟨tileBase n + reTags w + 4 * i, 4⟩]
  else []
def packWrites (s : State) (n : Nat) (x : Entry) (r : Replica) : List Range :=
  let w := s.rxEntry n x
  let pad := padded (closeCount r)
  if closesIn s n x r && 0 < pad then
    [⟨tileBase n + reSlots w r.back, pad * lRow (s.layerDesc n x)⟩, ⟨tileBase n + reTags w, 4 * pad⟩]
  else []

/-- The slot buffer and tag array after packing: rows 0 to n̂ − 1. -/
def packStores (s : State) (n : Nat) (x : Entry) (r : Replica) : List Effect :=
  let d := s.layerDesc n x
  let w := s.rxEntry n x
  let buf := reSlots w r.back
  let from' := (rowSlots r).take (closeCount r)
  let pad := padded (closeCount r)
  if pad = 0 then []
  else
    let rows := (from'.flatMap fun i => s.tileBytes n (buf + i * lRow d) (lRow d))
    let tags := (from'.flatMap fun i => s.tileBytes n (reTags w + 4 * i) 4)
    [.store (tileBase n + buf) (rows ++ List.replicate (pad * lRow d - rows.length) 0#8),
     .store (tileBase n + reTags w) (tags ++ List.replicate (4 * pad - tags.length) 0#8)]

/-- RXWAIT (07 R244). Of a replica with no open state it is refused with 0x20, as RXEXPAND and RSEND are (log 121). -/
def cmdRxwait : Cmd where
  bad s n _ x :=
    orBad (x.unshown [(52, 37), (21, 0)]) <|
    orBad (firstBad [(rxSum x && x.teamCmd != none, ⟨0x11, detailHeader x.op 90, 0⟩)]) <|
    orBad (expertBad s n x) <|
      match s.rxState n x with
      | none => some badState
      | some r => if r.packing then some badState else firstBad [(rxPw x && spanBad x.a0 4 4, x.badField 56)]
  reads s n _ x := rxEntryRange s n x :: (s.rxState n x).elim [] (packReads s n x)
  writes s n _ x := (if rxPw x then [⟨tileBase n + x.a0, 4⟩] else []) ++ (s.rxState n x).elim [] (packWrites s n x)
  settled := slotSettled
  ready s n _ x :=
    match s.rxState n x with
    | some r => closesIn s n x r
    | none => false
  run s n st x :=
    match s.rxState n x with
    | none => s
    | some r =>
      let count := closeCount r
      let stores := packStores s n x r
      let pw : List Effect := if rxPw x then [.store (tileBase n + x.a0) (natLE 4 (pack [(16, count), (15, 0), (1, b2n (0 < count))]))]
        else []
      let sum : List Effect := if rxSum x then [.summary 0 (BitVec.ofNat 32 count)] else []
      let s1 := s.setReplica n { r with packing := true, n := count, waiting := if count = 0 && !r.back then [] else r.waiting }
      let s2 := if count = 0 && !r.back then (r.waiting ++ r.started).foldl (fun s f => s.rwAnswer n true f) s1 else s1
      s2.setEntry n .route st (x.start (8 + cdiv (padded count * (lRow (s.layerDesc n x) + 4)) 256) (stores ++ pw ++ sum))
  finish s n _ x :=
    match s.rxState n x with
    | some r => s.setReplica n { r with packed := true }
    | none => s

/-! ## RXEXPAND (07 R246) -/

def exList (x : Entry) : Nat := x.pl 21 20
def exCount (x : Entry) : Nat := x.pl 19 12 + 1
/-- The items one template becomes with a token dimension of `pad` rows. -/
def templateItems (w : Nat) (cdim : Bool) (pad : Nat) : List (BitVec 512) :=
  let d : BitVec 512 := BitVec.ofNat 512 w
  if pad = 0 then []
  else if cdim then [withField d 470 12 (pad - 1)]
  else (List.range ((pad + 1023) / 1024)).map fun p =>
    let m := min 1024 (pad - 1024 * p)
    let n := if isMx (itOf w) then itN w / 2 else itN w
    let d1 := withField d 488 6 (m / 16 - 1)
    let d2 := withField d1 422 48 (itA w + 1024 * p * itLda w)
    let d3 := withField d2 326 48 (itC w + 1024 * p * itLdc w)
    withField d3 224 26 (itSr w + 64 * p * n)
def expandItems (s : State) (n : Nat) (x : Entry) (count : Nat) : List (BitVec 512) :=
  (List.range (exCount x)).flatMap fun i =>
    templateItems (s.tileNat n (x.a0 + 128 * i) 64) (bit (s.tileNat n (x.a0 + 128 * i + 64) 64) 511) (padded count)

/-- The replica's team, and its list. -/
def exTeam (s : State) (n : Nat) (x : Entry) : Nat := reTeam (s.rxEntry n x)
def exKey (s : State) (n : Nat) (x : Entry) : Nat := 4 * exTeam s n x + exList x

/-- Once its token dimension is known, the reservation of ring space for its items, like a WLPUT's (07 R246, 03 R122). -/
def expandAsk (s : State) (n : Nat) (st : Stream) (x : Entry) : State :=
  match s.rxState n x with
  | some r =>
    if r.packed then
      (s.setEntry n .route st { x with asked := true }).cmdSend n .route st x (.tile n)
        (.reserve (exTeam s n x) (exList x) (expandItems s n x r.n).length)
    else s
  | none => s

/-- The ring places of its items, once reserved, with the items. -/
def exPlaces (s : State) (n : Nat) (x : Entry) : List (Nat × BitVec 512) :=
  match s.rxState n x, tfind (exKey s n x) (s.tile n).lists, x.answer with
  | some r, some w, first :: _ => (expandItems s n x r.n).mapIdx fun i d => (itemPlace n w (first + i), d)
  | _, _, _ => []

def cmdRxexpand : Cmd where
  bad s n _ x :=
    orBad (x.unshown [(52, 37), (23, 22), (11, 0)]) <|
    orBad (firstBad (x.spanChecks 56 12 x.a0 64 (128 * exCount x))) <|
    orBad (expertBad s n x) <|
      orBad (((List.range (exCount x)).find? fun i => bits (s.tileNat n (x.a0 + 128 * i + 64) 64) 510 0 != 0).map fun i =>
        x.badStruct 0 56 (tileBase n + x.a0 + 128 * i + 64)) <|
      match s.rxState n x, tfind (exKey s n x) (s.tile n).lists with
      | some _, some w => if w.closed && !x.asked then some badState else none
      | _, _ => some badState
  reads s n _ x := [rxEntryRange s n x, ⟨tileBase n + x.a0, 128 * exCount x⟩]
  writes s n _ x := (exPlaces s n x).map fun p => ⟨p.1, 64⟩
  ask := some expandAsk
  settled := slotSettled
  ready _ _ _ x := x.granted
  run s n st x :=
    let s1 := (exPlaces s n x).foldl (fun s p => s.storeTo n .route st x s.deviceNumber p.1 (itemBytes p.2))
      (s.setEntry n .route st { x.start 1 [] with outs := (exPlaces s n x).map fun p => (s.deviceNumber, p.1, itemBytes p.2) })
    match tfind (exKey s n x) (s1.tile n).lists with
    | some w => s1.setList n (exKey s n x) { w with closed := true }
    | none => s1
  finish s n _ x :=
    match tfind (exKey s n x) (s.tile n).lists with
    | some w =>
      (s.setList n (exKey s n x) { w with holes := w.holes.filter fun h => h.2.2 != x.uid }).serveList n (exKey s n x)
    | none => s

/-! ## RSEND (07 R247) -/

/-- Where the result rows come to lie at their scoring tiles (07 R247). -/
def State.returnRanges (s : State) (n : Nat) (x : Entry) (r : Replica) : List Range :=
  let d := s.layerDesc n x
  (List.range r.n).filterMap fun p =>
    let t := s.tileNat n (reTags (s.rxEntry n x) + 4 * p) 4
    if tagValid t then some ⟨tileBase (tagTile t) + returnAt d (rBack x) (tagKey t / 8) (tagKey t % 8), lRow d⟩ else none

def cmdRsend : Cmd where
  bad s n _ x :=
    let d := s.layerDesc n x
    orBad (x.unshown [(52, 37), (23, 0)]) <|
    orBad (firstBad [(spanBad x.a0 16 1, x.badField 56)]) <|
    orBad (expertBad s n x) <|
    match s.rxState n x with
      | none => some badState
      | some r => firstBad [(r.packed && decide (tileStoreBytes < x.a0 + r.n * lRow d), x.badField 56)]
  reads s n _ x :=
    match s.rxState n x with
    | some r => if r.packed && 0 < r.n then
        [rxEntryRange s n x, ⟨tileBase n + x.a0, r.n * lRow (s.layerDesc n x)⟩,
         ⟨tileBase n + reTags (s.rxEntry n x), 4 * r.n⟩] else [rxEntryRange s n x]
    | none => []
  writes s n _ x := (s.rxState n x).elim [] fun r => if r.packed then s.returnRanges n x r else []
  settled := slotSettled
  ready s n _ x :=
    match s.rxState n x with
    | some r => r.packed
    | none => false
  run s n st x :=
    let d := s.layerDesc n x
    match s.rxState n x with
    | none => s
    | some r =>
      let s1 := (List.range r.n).foldl (fun s p =>
        let t := s.tileNat n (reTags (s.rxEntry n x) + 4 * p) 4
        if tagValid t then
          s.rowSend n st x (.tile (tagTile t))
            (.returned (rSlot x) (rBack x) r.batch t (tagKey t) (s.tileBytes n (x.a0 + p * lRow d) (lRow d)))
        else s) s
      let rows := ((List.range r.n).filter fun p => tagValid (s.tileNat n (reTags (s.rxEntry n x) + 4 * p) 4)).map fun p =>
        s.tileBytes n (x.a0 + p * lRow d) (lRow d)
      s1.setEntry n .route st { x.start (cdiv (r.n * lRow d) 32) [] with
        outs := ((s.returnRanges n x r).zip rows).map fun p => (s.deviceNumber, p.1.base, p.2) }
  finish s n _ x :=
    let other (r : Replica) : Bool := !r.isFor (rSlot x) (rExpert x) (rReplica x) (rBack x)
    s.modTile n fun t => { t with replicas := t.replicas.filter other }

/-! ## Arrivals (07 R236, R239, R247) -/

/-- A discard: the sticky count of the tile, and a log record with the slot tag (13 R423 kind 0x22). -/
def State.misroute (s : State) (n tag : Nat) : State :=
  (s.modTile n fun t => { t with misroutes := satAdd 32 t.misroutes 1 }).sendRecord 1 0x22 n (s.owner n)
    (natLE 16 (pack [(32, tag), (96, 0)]))

/-- Bytes a route unit of another tile may not write in this tile's store: protected bits (09 R306), a place beyond it, guarded
regions (06 R193, R194). -/
def State.landBad (s : State) (p : Packet) (off : Nat) (bs : List Byte) : Option Bad :=
  if s.extentBadAt (tileBase p.at + off) bs || decide (tileStoreBytes < off + bs.length) then some badState
  else s.guardBad p.ctx p.stream true (tileBase p.at + off) bs.length

/-- A route unit's row written here: refused, met by an uncorrectable block, or written, noted by `f` and acknowledged under the
packet's name (08 R270; 09 R293, R522). -/
def State.landRows (s : State) (p : Packet) (rows : List (Nat × List Byte)) (f : State → State) : State :=
  match rows.findSome? fun r => s.landBad p r.1 r.2 with
  | some b => s.reply p (.refusal p.uid ⟨b.reason, b.address, b.detail⟩)
  | none =>
    let s1 := rows.foldl (fun s r => s.writeHome p.writer (tileBase p.at + r.1) r.2) s
    match rows.findSome? fun r => s.landErr p.writer (tileBase p.at + r.1) r.2 with
    | some b => s1.ueFor p b
    | none => (f s1).reply p (.ack p.uid)

/-- Where a row in flight will be written. -/
def State.landRanges (s : State) (p : Packet) : List Range :=
  match p.body with
  | .row slot expert replica back _ place _ bytes =>
    let w := s.repl p.at ((s.layer p.at slot).desc.getD 0).toNat expert replica
    [⟨tileBase p.at + reSlots w back + place * bytes.length, bytes.length⟩, ⟨tileBase p.at + reTags w + 4 * place, 4⟩]
  | .returned slot back _ _ key bytes =>
    [⟨tileBase p.at + returnAt ((s.layer p.at slot).desc.getD 0).toNat back (key / 8) (key % 8), bytes.length⟩]
  | _ => []

/-- A returned row is progress for a combining command of its slot that runs (13 R394). -/
def State.rowProgress (s : State) (n slot : Nat) : State :=
  allStreams.foldl (fun s st =>
    if (s.queue n .route st).entries.any fun x => x.issued && !x.skip && x.op = 0x06 && rSlot x = slot then
      s.progressed n (watchedQueue .route st)
    else s) s

/-- A row reaches a replica leader. -/
def execRouteRowArrive (k : Nat) (s : State) : Result :=
  onPacket k s (fun p => (match p.body with
    | .row .. => true
    | _ => false) && s.landRoom p (s.landRanges p)) fun p s =>
    match p.body with
    | .row slot expert replica back batch place tag bytes =>
      match s.replicaState p.at slot expert replica back, (s.layer p.at slot).desc with
      | some r, some desc =>
        if r.batch != batch then s.misroute p.at tag
        else
          let w := s.repl p.at desc.toNat expert replica
          s.landRows p [(reSlots w back + place * bytes.length, bytes), (reTags w + 4 * place, natLE 4 tag)] fun s =>
            let first := r.rows.isEmpty
            let s1 := s.setReplica p.at { r with
              rows := r.rows ++ [place]
              waiting := if first then [] else r.waiting
              started := if first then r.started ++ r.waiting else r.started }
            if first then r.waiting.foldl (fun s f => s.rwAnswer p.at false f) s1 else s1
      | _, _ => s.misroute p.at tag
    | _ => s

/-- A close reaches a replica leader. -/
def execRouteCloseArrive (k : Nat) (s : State) : Result :=
  onPacket k s (fun p => match p.body with
    | .rowClose .. => true
    | _ => false) fun p s =>
    match p.body with
    | .rowClose slot expert replica back batch round count =>
      match s.replicaState p.at slot expert replica back with
      | some r =>
        if r.batch != batch then s.misroute p.at 0
        else s.setReplica p.at { r with closes := r.closes ++ [(p.from, round, count)] }
      | none => s.misroute p.at 0
    | _ => s

/-- A returned row reaches its scoring tile. -/
def execReturnRowArrive (k : Nat) (s : State) : Result :=
  onPacket k s (fun p => (match p.body with
    | .returned .. => true
    | _ => false) && s.landRoom p (s.landRanges p)) fun p s =>
    match p.body with
    | .returned slot back batch tag key bytes =>
      let l := s.layer p.at slot
      match l.desc with
      | none => s.misroute p.at tag
      | some desc =>
        if (if back then l.batchBack else l.batch) != batch then s.misroute p.at tag
        else
          let note (had : List Nat) : List Nat := if had.contains key then had else key :: had
          s.landRows p [(returnAt desc.toNat back (key / 8) (key % 8), bytes)] fun s =>
            (s.modLayer p.at slot fun l =>
              if back then { l with returnedBack := note l.returnedBack } else { l with returned := note l.returned }).rowProgress
              p.at slot
    | _ => s

end Sys2Proof.Machine
end

