-- ==== Sys2Proof/Machine/Pools.lean ====
section
/-!
DEFINITION. Buffer pools (spec/09 R318–R323): POOLGET, POOLPUT, POOLCFG, and the pool's home.
-/
namespace Sys2Proof.Machine

/-! ## Descriptors and handles (09 R319, R320) -/

def poolBase (d : BitVec 256) : Nat := bits d.toNat 255 227
def poolCount (d : BitVec 256) (cls : Nat) : Nat := if 7 ≤ cls then 0 else bits d.toNat (226 - 16 * cls) (211 - 16 * cls)
def classBytes (cls : Nat) : Nat := 256 * 4 ^ cls
/-- Bytes of all larger classes' buffers, and of the whole pool. -/
def poolAbove (d : BitVec 256) (cls : Nat) : Nat :=
  ((List.range 7).filter (cls < ·)).foldl (fun k c => k + poolCount d c * classBytes c) 0
def poolBytes (d : BitVec 256) : Nat := (List.range 7).foldl (fun k c => k + poolCount d c * classBytes c) 0
def poolOffset (d : BitVec 256) (cls i : Nat) : Nat := poolBase d + poolAbove d cls + i * classBytes cls
def poolLargest (d : BitVec 256) : Option Nat := [6, 5, 4, 3, 2, 1, 0].find? fun c => poolCount d c != 0

def poolHandle (shared : Bool) (tile pool cls i : Nat) : Nat :=
  if shared then pack [(1, 1), (6, pool), (3, cls), (22, i)] else pack [(1, 0), (11, tile), (2, pool), (3, cls), (15, i)]

/-- The fields of a handle: shared, tile, pool, class, index. -/
structure Handle where
  shared : Bool
  tile : Nat
  pool : Nat
  cls : Nat
  index : Nat
deriving DecidableEq, Repr
def handleOf (h : Nat) : Handle :=
  if bit h 31 then ⟨true, 0, bits h 30 25, bits h 24 22, bits h 21 0⟩
  else ⟨false, bits h 30 20, bits h 19 18, bits h 17 15, bits h 14 0⟩

/-- A pool by its kind, its tile and its number. -/
def State.pool (s : State) (shared : Bool) (tile k : Nat) : Pool :=
  if shared then tget {} k s.pools else tget {} k (s.tile tile).pools
def State.setPool (s : State) (shared : Bool) (tile k : Nat) (p : Pool) : State :=
  if shared then { s with pools := tset k p s.pools } else s.modTile tile fun t => { t with pools := tset k p t.pools }
def poolPlace (shared : Bool) (tile k : Nat) : Place := if shared then .die (k % 8) else .tile tile

/-! ## Fields of the commands (09 R318, R321) -/

def pShared (x : Entry) : Bool := x.plb 55
def pPool (x : Entry) : Nat := x.pl 54 49
def pSize (x : Entry) : Nat := x.pl 48 29 + 1
def pOwners (x : Entry) : Nat := x.pl 28 27 + 1
def pLast (x : Entry) : Nat := x.pl 26 25
/-- The smallest class whose size is at least the size asked. -/
def pClass (x : Entry) : Nat := ((List.range 7).find? fun c => decide (pSize x ≤ classBytes c)).getD 6
def pOwner (x : Entry) (i : Nat) : Nat :=
  match i with
  | 0 => bits x.a0 10 0
  | 1 => bits x.a0 26 16
  | 2 => bits x.a1 10 0
  | _ => bits x.a1 26 16

/-- The pool's number and, for a shared pool in use, its context. -/
def poolNumBad (s : State) (n : Nat) (x : Entry) : Option Bad :=
  if !pShared x && decide (4 ≤ pPool x) then some (x.badField 49)
  else
    let p := s.pool true 0 (pPool x)
    if pShared x && p.configured && p.ctx != s.owner n then some ⟨0x15, 0, 0⟩ else none

/-! ## POOLGET -/

def poolAsk (s : State) (n : Nat) (st : Stream) (x : Entry) : State :=
  (s.setEntry n .pool st { x with asked := true }).cmdSend n .pool st x (poolPlace (pShared x) n (pPool x))
    (.poolGet (pPool x) (pClass x) (pOwner x (pLast x)))

def cmdPoolget : Cmd where
  bad s n _ x :=
    let c := s.owner n
    orBad (x.unshown [(24, 0)]) <|
    orBad (firstBad [(x.teamCmd != none, ⟨0x11, detailHeader x.op 90, 0⟩)]) <|
    orBad (poolNumBad s n x) <|
    firstBad [
      (decide (pOwners x ≤ pLast x), x.badField 25),
      ((List.range (min 2 (pOwners x))).any fun i => s.owner (pOwner x i) != c, x.badField 56),
      (((List.range (pOwners x)).drop 2).any fun i => s.owner (pOwner x i) != c, x.badField 57),
      (!x.asked && poolCount (s.pool (pShared x) n (pPool x)).desc (pClass x) = 0, x.badField 29)]
  ask := some poolAsk
  ready _ _ _ x := x.granted
  run s n st x :=
    s.setEntry n .pool st { x with latency := 1, effects :=
      [.summary 0 (BitVec.ofNat 32 (lget x.answer 0 0)), .summary 1 (BitVec.ofNat 32 (lget x.answer 1 0))] }

/-! ## POOLPUT and POOLCFG -/

/-- POOLPUT: the handle names the buffer; the payload's kind and pool number (R318) are not compared with it (log 68). -/
def cmdPoolput : Cmd where
  bad _ _ _ x := x.unshown [(48, 0)]
  run s n st x :=
    let u := s.fresh
    let h := handleOf x.a0
    (u.2.setEntry n .pool st { x with awaits := [u.1] }).cmdSend n .pool st { x with uid := u.1 }
      (poolPlace h.shared h.tile h.pool) (.poolPut x.s0)
  done _ _ _ x := x.awaits.isEmpty

def cmdPoolcfg : Cmd where
  bad s n _ x :=
    let d := BitVec.ofNat 256 (s.tileNat n x.a0 32)
    let sb (pos : Nat) := x.badStruct pos 56 (tileBase n + x.a0)
    let limit := if pShared x then s.scratchMib * 1048576 else tileStoreBytes
    orBad (x.unshown [(48, 0)]) <|
    orBad (firstBad [(spanBad x.a0 32 32, x.badField 56)]) <|
    orBad (poolNumBad s n x) <|
    orBad (if (s.pool (pShared x) n (pPool x)).taken.isEmpty then none else some badState) <|
    orBad (firstBad [
      (bits d.toNat 114 0 != 0, sb 0),
      -- base and counts together: the lowest position is that of the largest class in use (03 R100)
      ((poolLargest d).elim false fun c => poolBase d % classBytes c != 0, sb (211 - 16 * (poolLargest d).getD 0)),
      (decide (limit < poolBase d + poolBytes d), sb (211 - 16 * (poolLargest d).getD 0))]) <|
    if pShared x then none
    else ((List.range 7).find? fun c => decide (16384 < poolCount d c)).map fun c => sb (211 - 16 * c)
  reads _ n _ x := [⟨tileBase n + x.a0, 32⟩]
  run s n st x :=
    let d := BitVec.ofNat 256 (s.tileNat n x.a0 32)
    let p : Pool := { ctx := s.owner n, desc := d, configured := true }
    let s1 := if pShared x && (poolLargest d).isNone then { s with pools := terase (pPool x) s.pools }
      else s.setPool (pShared x) n (pPool x) p
    s1.setEntry n .pool st (x.start 1 [])

/-! ## The home (09 R322, R323) -/

/-- The lowest-numbered free buffer of a class. -/
def Pool.free (p : Pool) (cls : Nat) : Option Nat :=
  (List.range (poolCount p.desc cls)).find? fun i => !(p.taken.any fun b => b.1 = cls && b.2.1 = i)

/-- A free buffer goes to the oldest waiting request of its class. -/
def Pool.serve (p : Pool) (cls : Nat) : Option (PoolReq × Nat × Pool) :=
  match p.waiting.find? fun r => r.cls = cls, p.free cls with
  | some r, some i => some (r, i, { p with taken := (cls, i, r.lastOwner) :: p.taken, waiting := p.waiting.erase r })
  | _, _ => none

def State.poolServe (s : State) (shared : Bool) (tile k cls : Nat) : State :=
  match (s.pool shared tile k).serve cls with
  | none => s
  | some (r, i, p) =>
    let h := poolHandle shared tile k cls i
    let g : Packet := { uid := 0, ctx := p.ctx, epoch := 0, chan := r.chan, src := poolPlace shared tile k, dst := .tile r.tile,
                        stream := r.stream, engine := 5, tag := r.tag, entry := r.entry,
                        body := .poolGrant h (poolOffset p.desc cls i) }
    (s.setPool shared tile k p).send g

/-- What a POOLPUT's checks find (09 R323): the halt reason. -/
def State.putBad (s : State) (p : Packet) (h : Handle) : Option Nat :=
  let q := s.pool h.shared h.tile h.pool
  if !q.configured || decide (poolCount q.desc h.cls ≤ h.index) then some 0x34
  else if q.ctx != p.ctx then some 0x15
  else
    match q.taken.find? fun b => b.1 = h.cls && b.2.1 = h.index with
    | none => some 0x32
    | some b => if b.2.2 = p.from then none else some 0x33

def isPoolReq : Body → Bool
  | .poolGet .. => true
  | .poolPut .. => true
  | _ => false

/-- A pool request reaches the pool's home. -/
def execPoolRequestAtHome (k : Nat) (s : State) : Result :=
  onPacket k s (fun p => isPoolReq p.body) fun p s =>
    let shared := match p.dst with
      | .die _ => true
      | _ => false
    match p.body with
    | .poolGet pool cls lastOwner =>
      let q := s.pool shared p.at pool
      let r : PoolReq := { tile := p.from, stream := p.stream, entry := p.entry, chan := p.chan, tag := p.tag, cls := cls,
                           lastOwner := lastOwner }
      (s.setPool shared p.at pool { q with waiting := q.waiting ++ [r] }).poolServe shared p.at pool cls
    | .poolPut h =>
      let h := handleOf h.toNat
      match s.putBad p h with
      | some reason => s.reply p (.refusal p.entry ⟨reason, 0, 0⟩)
      | none =>
        let q := s.pool h.shared h.tile h.pool
        let s1 := s.setPool h.shared h.tile h.pool
          { q with taken := q.taken.filter fun b => !(b.1 = h.cls && b.2.1 = h.index) }
        (s1.reply p (.ack p.entry)).poolServe h.shared h.tile h.pool h.cls
    | _ => s

/-- A grant reaches the tile: its POOLGET is ready (09 R322). -/
def execPoolGrantArrive (k : Nat) (s : State) : Result :=
  onPacket k s (fun p => match p.body with
    | .poolGrant .. => true
    | _ => false) fun p s =>
    match p.body with
    | .poolGrant h off =>
      match (s.queue p.at .pool p.stream).entries.find? fun x => x.uid = p.entry with
      | some x => s.setEntry p.at .pool p.stream { x with granted := true, answer := [h, off] }
      | none => s.countDrop
    | _ => s

end Sys2Proof.Machine
end

