-- ==== Sys2Proof/Machine/Atomics.lean ====
section
/-!
DEFINITION. Atomics (spec/09 R308–R310): the commands, and their effect at the home of their address. COUNTED mode's count at
a home (spec/12 R382), and what an uncorrectable block does to an access there (spec/13 R415).
-/
namespace Sys2Proof.Machine

/-! ## The effect at the home (09 R309) -/

/-- Type codes: 0 I32, 1 U32, 2 FP32, 3 U64. -/
def atomWidth (ty : Nat) : Nat := if ty = 3 then 8 else 4

def atomNew (op : AtomOp) (ty old operand compare : Nat) : Nat :=
  let w := 8 * atomWidth ty
  match op with
  | .add => if ty = 2 then (f32add (BitVec.ofNat 32 old) (BitVec.ofNat 32 operand)).toNat else (old + operand) % 2 ^ w
  | .min =>
    if ty = 2 then (f32min (BitVec.ofNat 32 old) (BitVec.ofNat 32 operand)).toNat
    else if ty = 0 then (if signed 32 operand < signed 32 old then operand else old) else min old operand
  | .max =>
    if ty = 2 then (f32max (BitVec.ofNat 32 old) (BitVec.ofNat 32 operand)).toNat
    else if ty = 0 then (if signed 32 old < signed 32 operand then operand else old) else max old operand
  | .swap => operand
  | .cas => if old = compare then operand else old

def atomOf (n : Nat) : AtomOp :=
  match n with
  | 0 => .add
  | 1 => .min
  | 2 => .max
  | 3 => .swap
  | _ => .cas
def atomNo : AtomOp → Nat
  | .add => 0
  | .min => 1
  | .max => 2
  | .swap => 3
  | .cas => 4

/-! ## What every access at a home shares -/

/-- The bytes a request to a home is for. -/
def spanOf : Body → Option Range
  | .readReq a n _ => some ⟨a, n⟩
  | .writeReq a bs _ => some ⟨a, bs.length⟩
  | .atomic _ ty a _ _ _ _ => some ⟨a, atomWidth ty⟩
  | _ => none
/-- The bytes a request of another device is for. -/
def msgSpan (m : Msg) : Option Range :=
  if mOp m = 3 ∨ mOp m = 4 then some ⟨mAddr m, atomWidth (mAtype m)⟩
  else if mOp m ≤ 2 then some ⟨mAddr m, mBytes m⟩
  else none

/-- The 128 B lines that n bytes lie in, and whether a request touches one. -/
def linesOf (a n : Nat) : List Nat := (List.range ((a + n - 1) / 128 - a / 128 + 1)).map (a / 128 + ·)
def onLine (line : Nat) (r : Option Range) : Bool := r.any fun r => (linesOf r.base r.len).contains line

/-- Requests that wait at a home die for one line. -/
def State.waitsFor (s : State) (die line : Nat) : List Packet :=
  s.net.filter fun q => q.dst = .die die && onLine line (spanOf q.body)
/-- Requests of other devices for one line that wait in the receive buffers. -/
def State.fabricWaits (s : State) (line : Nat) : List Msg :=
  (List.range 12).flatMap fun p => ((s.port p).waiting.map (·.2)).filter fun m => onLine line (msgSpan m)

/-! ### The local context of a fabric request (10 R348, R349) -/

def peerSdev (e : Word) : Nat := bits e.toNat 31 24
def peerSctx (e : Word) : Nat := bits e.toNat 23 16
def peerLctx (e : Word) : Nat := bits e.toNat 15 8
def peerValid (e : Word) : Bool := bit e.toNat 0

/-- The local context a request is for. -/
def State.localCtx (s : State) (m : Msg) : Option Nat :=
  if s.fabric.protect = 1 then some (mCtx m)
  else (s.fabric.peers.find? fun e => peerValid e.2 && peerSdev e.2 = mSdev m && peerSctx e.2 = mCtx m).map fun e => peerLctx e.2

/-- A may-vary store or atomic applied while a request of its context from another queue waits for one of its lines counts in
COUNTED mode (12 R382). -/
def State.countVary (s : State) (p : Packet) (die a n : Nat) : State :=
  if p.mayVary && p.ctx != 0 && p.det = 2 && (linesOf a n).any fun line =>
      ((s.waitsFor die line).any fun q => q.ctx = p.ctx && (q.src != p.src || q.engine != p.engine || q.stream != p.stream)) ||
      (s.fabricWaits line).any fun m => s.localCtx m = some p.ctx
  then s.bumpVary p.ctx 1 else s
/-- A store or atomic of another device applied for a context in COUNTED mode while others of the context wait for one of its
lines. A message shows neither its command's may-vary bit nor its queue (R336): whether it counts is a free value (log 74). -/
def State.countForeign (s : State) (m : Msg) (c : Nat) : State :=
  match s.homePlace (mAddr m), msgSpan m with
  | .die die, some r =>
    if c != 0 && (s.ctx c).detMode = 2 && (linesOf r.base r.len).any fun line =>
        (s.waitsFor die line).any (fun q => q.ctx = c) || (s.fabricWaits line).any fun q => s.localCtx q = some c
    then let u := s.free 21; if bit u.1.toNat 0 then u.2.bumpVary c 1 else u.2
    else s
  | _, _ => s

/-- A request for bytes that finds 64 others waiting for one of their lines counts in its home die's hot-line counter
(10 R355). -/
def State.hotLine (s : State) (a n : Nat) : State :=
  match s.homePlace a with
  | .die die =>
    if (linesOf a n).any fun line => decide (64 ≤ (s.waitsFor die line).length + (s.fabricWaits line).length) then
      let f := s.fabric
      { s with fabric := { f with hotline := tset die (satAdd 32 (tget 0 die f.hotline) 1) f.hotline } }
    else s
  | _ => s

def dieOf : Place → Nat
  | .die c => c
  | _ => 0

/-! ## Atomics at their home -/

/-- Old and new value of an atomic applied to an address by a writer; the state after it. -/
def State.atomApply (s : State) (w : Writer) (op : AtomOp) (ty a operand compare : Nat) : Nat × State :=
  let old := s.loadNat a (atomWidth ty)
  (old, s.write w a (natLE (atomWidth ty) (atomNew op ty old operand compare)))

/-- The uncorrectable block that an atomic meets: in its word, or in a page a snapshot's reserve must keep. -/
def State.changeBad (s : State) (w : Writer) (a n : Nat) : Option Nat :=
  match s.badBlock a n with
  | some b => some b
  | none => s.copyBad w a n

def isAtomic : Body → Bool
  | .atomic .. => true
  | _ => false

/-- The word an atomic writes. -/
def atomRanges : Body → List Range
  | .atomic _ ty a _ _ _ _ => [⟨a, atomWidth ty⟩]
  | _ => []

/-- An atomic reaches the home of its address (09 R309, R310). -/
def execAtomicAtHome (k : Nat) (ecc : Ecc) (s : State) : Result :=
  onPacket k s (fun p => isAtomic p.body && s.landRoom p (atomRanges p.body)) fun p s =>
    match p.body with
    | .atomic op ty a operand compare returning uid =>
      let die := dieOf p.dst
      let s0 := (s.hotLine a (atomWidth ty)).eccCheck ecc a
      match s0.changeBad p.writer a (atomWidth ty) with
      | some b => s0.ueFor p b
      | none =>
        let r := (s0.countVary p die a (atomWidth ty)).atomApply p.writer op ty a
          operand.toNat compare.toNat
        r.2.reply p (if returning then .answer uid [r.1] else .ack uid)
    | _ => s

/-! ## The commands (09 R308) -/

def aDev (x : Entry) : Nat := x.pl 55 48
def aAddr (x : Entry) : Nat := x.pl 47 2 * 4
def aType (x : Entry) : Nat := x.pl 1 0
def aOperand (x : Entry) : Nat := if aType x = 3 then x.a1 * 2 ^ 32 + x.a0 else x.a0
def aReturns (x : Entry) : Bool := decide (x.op < 0x18)
def aOp (x : Entry) : AtomOp := atomOf (x.op % 8)

def atomBad (s : State) (n : Nat) (st : Stream) (x : Entry) : Option Bad :=
  let c := s.owner n
  let w := atomWidth (aType x)
  orBad (firstBad [
    (aOp x = .cas && aType x = 3, x.badField 0),
    (decide (aAddr x < scratchBase), x.badField 2),
    -- address and type together: the type lies lower (03 R100)
    (aAddr x % w != 0, x.badField 0),
    (aReturns x && x.teamCmd != none, ⟨0x11, detailHeader x.op 90, 0⟩)]) <|
  if aDev x != s.deviceNumber then s.windowBad c (aDev x) [(aAddr x, w)]
  else orBad (s.accessBad c st true (aAddr x) w) (s.accessBad c st false (aAddr x) w)

def atomRun (s : State) (n : Nat) (st : Stream) (x : Entry) : State :=
  let u := s.fresh
  -- the bytes sent are its operand; the old value it returns goes into no digest (12 R376, R386; log 73)
  let x' : Entry := { x with latency := 1, awaits := if aReturns x then [u.1] else []
                             outs := [(aDev x, aAddr x, natLE (atomWidth (aType x)) (aOperand x))] }
  let s1 := u.2.setEntry n .mover st x'
  if aDev x != s.deviceNumber then
    let q : Ask := { op := if aReturns x then 0x03 else 0x04, dev := aDev x, addr := aAddr x, nbytes := atomWidth (aType x),
                     aop := atomNo (aOp x), atype := aType x, op0 := x.a0, op1 := x.a1 }
    s1.request n .mover st x u.1 q
  else
    let s2 := if aReturns x then s1 else s1.owe n u.1 x.uid st false true
    s2.cmdSend n .mover st x (s.homePlace (aAddr x)) (.atomic (aOp x) (aType x) (aAddr x)
      (BitVec.ofNat 64 (aOperand x)) (BitVec.ofNat 64 x.a1) (aReturns x) u.1)

/-- The old value a returning atomic's answer carries, as the summaries it delivers (09 R310). -/
def atomSums (x : Entry) (old : Nat) : List Effect :=
  if aType x = 3 then [.summary 0 (BitVec.ofNat 32 old), .summary 1 (BitVec.ofNat 32 (old >>> 32))]
  else [.summary 0 (BitVec.ofNat 32 old)]

/-- One atomic command; its opcode names the operation and whether it returns the old value. -/
def cmdAtomic : Cmd where
  bad := atomBad
  -- its page of a snapshot is copied before it issues (06 R216)
  writes s _ _ x := if aDev x = s.deviceNumber then [⟨aAddr x, atomWidth (aType x)⟩] else []
  ready s n _ _ := s.moverFree n
  run := atomRun
  done _ _ _ x := x.awaits.isEmpty

end Sys2Proof.Machine
end

