-- ==== Sys2Proof/Machine/Reductions.lean ====
section
/-!
DEFINITION. Reduce-add (spec/09 R311–R317): RDOPEN, RDADD, a contribution at its home, and finalisation.
-/
namespace Sys2Proof.Machine

def rdNexp (d : BitVec 256) : Nat := bits d.toNat 183 168 + 1
def rdDone (d : BitVec 256) : Nat := bits d.toNat 167 152
def rdPword (d : BitVec 256) : Nat := bits d.toNat 151 104
def rdPwEn (d : BitVec 256) : Bool := bit d.toNat 103
def rdWidth (d : BitVec 256) : Nat := if redBf16 d then 2 else 4

/-- The grant of reduction numbers (09 R311); context 0 may name all. -/
def State.ridOk (s : State) (c rid : Nat) : Bool := c = 0 || inGrant (s.ctx c).ridGrant rid

/-! ## Room in the superaccumulator reserve (09 R314) -/

/-- Elements of a target homed on one die. -/
def State.redOnDie (s : State) (d : BitVec 256) (die : Nat) : Nat :=
  (pagesOf (redTarget d) (redBytes d)).foldl (fun k p =>
    if homeOf (s.place (p * 4096)) = die then
      k + (min (redTarget d + redBytes d) (p * 4096 + 4096) - p * 4096) / rdWidth d
    else k) 0
/-- Reserve bytes an EXACT reduction takes on a die. -/
def State.redRoom (s : State) (d : BitVec 256) (die : Nat) : Nat :=
  if redArrival d then 0 else (40 * s.redOnDie d die + 4095) / 4096 * 4096
def State.redUsed (s : State) (die : Nat) : Nat := s.reds.foldl (fun k r => k + s.redRoom r.2.desc die) 0
def State.exactBytes (s : State) : Nat := s.exactMib * 1048576

/-! ## RDOPEN (09 R312) -/

def rdRid (x : Entry) : Nat := x.pl 55 44

def cmdRdopen : Cmd where
  bad s n st x :=
    let d := BitVec.ofNat 256 (s.tileNat n x.a0 32)
    let c := s.owner n
    let sb (pos : Nat) := x.badStruct pos 56 (tileBase n + x.a0)
    let inTier := match s.place (redTarget d) with
      | .scratch .. => true
      | .near .. => true
      | .far .. => true
      | _ => false
    orBad (x.unshown [(43, 0)]) <|
    orBad (firstBad [
      (spanBad x.a0 32 32, x.badField 56),
      (!s.ridOk c (rdRid x), x.badField 44)]) <|
    orBad (firstBad [
      (bits d.toNat 100 0 != 0, sb 0),
      (redArrival d && redBf16 d, sb 101),
      (rdPwEn d && rdPword d % 4 != 0, sb 104),
      (redTarget d % 4096 != 0 || !inTier, sb 208),
      ((List.range 8).any fun k => decide (s.exactBytes < s.redRoom d k), sb 184)]) <|
    orBad (s.accessBad c st true (redTarget d) (redBytes d)) <|
    orBad (if rdPwEn d then s.accessBad c st true (rdPword d) 4 else none) <|
    orBad (if s.gtallyOk c (rdDone d) then none else some ⟨0x15, detailTally 2 (rdDone d), 0⟩) <|
    if (tfind (rdRid x) s.reds).isSome then some badState else none
  reads _ n _ x := [⟨tileBase n + x.a0, 32⟩]
  writes s n _ x :=
    let d := BitVec.ofNat 256 (s.tileNat n x.a0 32)
    if redArrival d then [⟨redTarget d, redBytes d⟩] else []
  ready s n _ x :=
    let d := BitVec.ofNat 256 (s.tileNat n x.a0 32)
    (List.range 8).all fun k => decide (s.redUsed k + s.redRoom d k ≤ s.exactBytes)
  run s n st x :=
    let d := BitVec.ofNat 256 (s.tileNat n x.a0 32)
    let r : Reduction := { phase := .armed, ctx := s.owner n, desc := d, tile := n, stream := st, tag := wTag x.word, chan := x.chan }
    let s1 := { s with reds := tset (rdRid x) r s.reds }
    let zeros := List.replicate (redBytes d) 0#8
    let h : Halt := { reason := 0x50, unit := 2, tag := wTag x.word, chan := x.chan }
    let s2 := if redArrival d then
        s1.writeChecked (.command n st h) { ctx := s.owner n, tile := some n, stream := st } (redTarget d) zeros
      else s1
    s2.setEntry n .mover st { x with latency := 18, outs := if redArrival d then [(s.deviceNumber, redTarget d, zeros)] else [] }

/-! ## RDADD (09 R313) -/

def raPsrc (x : Entry) : Nat := x.pl 43 42
def raBf16 (x : Entry) : Bool := x.plb 41
def raCount (x : Entry) : Nat := x.pl 40 25 + 1
def raDev (x : Entry) : Nat := x.pl 24 17
def raWord (x : Entry) : Nat := x.pl 16 0 * 32
def raBytes (x : Entry) : Nat := raCount x * (if raBf16 x then 2 else 4)
def raPresent (s : State) (n : Nat) (x : Entry) : Bool :=
  raPsrc x = 0 || (raPsrc x = 2 && (s.tileNat n (raWord x) 4).testBit 0)
def raVals (s : State) (n : Nat) (x : Entry) : List Word :=
  let bs := s.tileBytes n x.a0 (raBytes x)
  if raBf16 x then (unpack 2 (raCount x) bs).map bf16Word else (unpack 9 (raCount x) bs).map (BitVec.ofNat 32)

/-- The state and field rules at a reduction: 5 idle or finalising, 6 a field fault (10 R338). -/
def redRefuses (r : Option Reduction) (first count : Nat) (mayVary : Bool) : Nat :=
  match r with
  | none => 5
  | some r =>
    if r.phase = .finalising then 5
    else if redElems r.desc < first + count || (redArrival r.desc && !mayVary) then 6 else 0

/-- The die a contribution's packet goes to: the home of its first element. -/
def State.redHome (s : State) (r : Option Reduction) (first : Nat) : Nat :=
  match r with
  | some r => homeOf (s.place (redTarget r.desc + first * rdWidth r.desc))
  | none => 0

/-- The bytes of a reduction's target that `count` elements from `first` fall on. -/
def redSpan (r : Reduction) (first count : Nat) : Option Range :=
  if count = 0 then none else some ⟨redTarget r.desc + first * rdWidth r.desc, count * rdWidth r.desc⟩
/-- What a contribution writes at once: an ARRIVAL target's elements (09 R315). -/
def redWrites (r : Option Reduction) (first count : Nat) : List Range :=
  match r with
  | some r => if redArrival r.desc then (redSpan r first count).toList else []
  | none => []

/-- RDADD. A contribution to the own device is one request, which takes one of the mover's 64 places whatever its length (00 R5, 09
R304; log 116). -/
def cmdRdadd : Cmd where
  bad s n st x :=
    let c := s.owner n
    let own := raDev x = s.deviceNumber
    let r := tfind (rdRid x) s.reds
    orBad (firstBad ([
      (decide (raPsrc x = 3), x.badField 42),
      (raPsrc x != 2 && x.pl 16 0 != 0, x.badField 0)] ++
      x.spanChecks 56 25 x.a0 16 (raBytes x) ++
      [(own && !s.ridOk c (rdRid x), x.badField 44)])) <|
    if !own then s.windowBad c (raDev x) []
    else
      match redRefuses r x.a1 (raCount x) (wMayVary x.word) with
      | 5 => some badState
      | 6 =>
        -- S1 and n together: the lower position is that of n - 1 (03 R100)
        if (r.elim 0 fun r => redElems r.desc) < x.a1 + raCount x then some (x.badField 25)
        else some ⟨0x11, detailHeader x.op 98, 0⟩
      | _ => if raPresent s n x then r.elim none fun r => (redSpan r x.a1 (raCount x)).elim none fun w =>
          s.guardBad c st true w.base w.len else none
  reads s n _ x :=
    (if raPresent s n x then [⟨tileBase n + x.a0, raBytes x⟩] else []) ++
    (if raPsrc x = 2 then [⟨tileBase n + raWord x, 4⟩] else [])
  ready s n _ x := raDev x != s.deviceNumber || s.moverFree n
  done s n _ x := !s.stillUnsent n x
  writes s n _ x :=
    if raDev x = s.deviceNumber && raPresent s n x then redWrites (tfind (rdRid x) s.reds) x.a1 (raCount x) else []
  run s n st x :=
    let there := raPresent s n x
    let vals := if there then raVals s n x else []
    let s1 := s.setEntry n .mover st { x with
      latency := cdiv (raBytes x) 32
      outs := if there then [(raDev x, x.a1, s.tileBytes n x.a0 (raBytes x))] else [] }
    if raDev x = s.deviceNumber then
      s1.oweSend n .mover st x (.die (s.redHome (tfind (rdRid x) s.reds) x.a1)) (.contribution (rdRid x) x.a1 vals there)
    else
      -- pieces of at most 256 B: op0 holds the elements from a piece's own to the last of the command, op1 whether more pieces
      -- follow, the command's may_vary bit, whether this is the first piece, and the tile (log 32)
      let w := if raBf16 x then 2 else 4
      let per := 256 / w
      let pieces := if there then cdiv (raCount x) per else 1
      s1.moverSend n ((List.range pieces).map fun i =>
        let k := min per (raCount x - i * per)
        let q : Ask := { op := 0x05, dev := raDev x, addr := x.a1 + i * per, nbytes := if there then k * w else 1,
                         atype := b2n (raBf16 x), rid := rdRid x, absent := !there, op0 := raCount x - i * per,
                         op1 := b2n (i + 1 < pieces) + 2 * b2n (wMayVary x.word) + 4 * b2n (i = 0) + 8 * n,
                         data := if there then s.tileBytes n (x.a0 + i * 256) (k * w) else [] }
        ⟨x, st, .ask q⟩)

/-! ## At the home (09 R314–R316) -/

/-- One FP32 value added exactly. -/
def Super.add (a : Super) (v : Num) : Super :=
  match v with
  | .nan => { a with nan := true }
  | .inf sg => if sg then { a with negInf := true } else { a with posInf := true }
  | .fin sg m e =>
    let x : Int := ((m <<< (e + 149).toNat : Nat) : Int)
    { a with value := a.value + (if sg then -x else x) }

/-- The superaccumulator rounded once to the target's format. -/
def Super.round (a : Super) (bf16 : Bool) : Nat :=
  let f := if bf16 then Fmt.bf16 else Fmt.fp32
  if a.nan || (a.posInf && a.negInf) then f.nanCode
  else if a.posInf then f.rne (.inf false)
  else if a.negInf then f.rne (.inf true)
  else f.rne (.fin (decide (a.value < 0)) a.value.natAbs (-149))

/-- The home dies that elements of a target lie on. -/
def State.redDies (s : State) (r : Reduction) (first count : Nat) : List Nat :=
  (((redSpan r first count).elim [] fun w => pagesOf w.base w.len).map fun p => homeOf (s.place (p * 4096))).eraseDups
/-- The choices a contribution counts for in COUNTED mode, `det` being the mode it is under: one at each home die its command's
elements lie on (12 R382). -/
def State.redChoices (s : State) (rid first count det : Nat) (mayVary : Bool) : Nat :=
  if mayVary && det = 2 then (tfind rid s.reds).elim 0 fun r => (s.redDies r first count).length else 0

/-- A contribution applied and, where it is the last of its command, counted; the count's end begins finalisation. An ARRIVAL
contribution after the first of its reduction counts `choices` choices (R315). -/
def State.contribute (s : State) (rid first : Nat) (vals : List Word) (present counts : Bool) (w : Writer) (choices : Nat) : State :=
  match tfind rid s.reds with
  | none => s
  | some r =>
    let d := r.desc
    let elems := vals.mapIdx fun i v => (first + i, v)
    let sums := if redArrival d then r.sums
      else elems.foldl (fun t p => tset p.1 ((tget {} p.1 t).add (f32 p.2)) t) r.sums
    let s1 := if redArrival d then
        elems.foldl (fun s p =>
          let a := redTarget d + 4 * p.1
          s.write w a (natLE 4 (f32add (leWord (s.loadBytes a 4)) p.2).toNat)) s
      else s
    let s2 := if redArrival d && decide (0 < r.count) && w.ctx != 0 then s1.bumpVary w.ctx choices else s1
    let count := r.count + (if counts then 1 else 0)
    let r' : Reduction := { r with
      phase := if rdNexp d ≤ count then .finalising else .opened
      count := count
      present := r.present + (if counts && present then 1 else 0)
      sums := sums }
    { s2 with reds := tset rid r' s2.reds }

def isContribution : Body → Bool
  | .contribution .. => true
  | _ => false

/-- What a contribution in flight will write. -/
def State.contributionRanges (s : State) : Body → List Range
  | .contribution rid first vals _ _ => redWrites (tfind rid s.reds) first vals.length
  | _ => []
/-- A guarded region bars a contribution (06 R193, R194). -/
def State.contributionBad (s : State) (c : Nat) (st : Stream) (r : Reduction) (first count : Nat) : Option Bad :=
  (redSpan r first count).elim none fun w => s.guardBad c st true w.base w.len

/-- A superaccumulator among those of a span that holds an uncorrectable error: the address of its element (13 R415; log 117). -/
def Reduction.badSum (r : Reduction) (first count : Nat) : Option Nat :=
  (r.badSums.filter fun i => decide (first ≤ i) && decide (i < first + count)).min?.map fun i => redTarget r.desc + i * rdWidth r.desc
/-- The check bits of a contribution's first superaccumulator: a corrected error is recorded and counted by its home die, an
uncorrectable one is found by every later read until the reduction is armed again (13 R415, R423, R427). -/
def State.superCheck (s : State) (ecc : Ecc) (rid first : Nat) (r : Reduction) : State :=
  match ecc with
  | .uncorrectable => { s with reds := tset rid { r with badSums := first :: r.badSums } s.reds }
  | e => s.eccCheck e (redTarget r.desc + first * rdWidth r.desc)
/-- What a contribution reads at its home: the target in ARRIVAL mode, the superaccumulators in EXACT mode, nothing where it is
absent; the state after the check, and the address of an uncorrectable error met. -/
def State.redReads (s : State) (w : Writer) (ecc : Ecc) (rid first count : Nat) (r : Reduction) : State × Option Nat :=
  let a := redTarget r.desc + first * rdWidth r.desc
  if count = 0 then (s, none)
  else if redArrival r.desc then
    let s1 := s.eccCheck ecc a
    (s1, s1.changeBad w a (count * rdWidth r.desc))
  else
    let s1 := s.superCheck ecc rid first r
    (s1, (tfind rid s1.reds).bind fun r => r.badSum first count)
/-- Where the error of a contribution lies, for its detail: a superaccumulator's place is the home die (13 R415). -/
def State.redWhere (s : State) (r : Reduction) (b : Nat) : Nat := if redArrival r.desc then whereCode (s.place b) else 2

/-- A contribution of the own device reaches its home (09 R313–R315). -/
def execContributionAtHome (k : Nat) (ecc : Ecc) (s : State) : Result :=
  onPacket k s (fun p => isContribution p.body && s.landRoom p (s.contributionRanges p.body)) fun p s =>
    match p.body with
    | .contribution rid first vals present uid =>
      match redRefuses (tfind rid s.reds) first vals.length (p.mayVary) with
      | 0 =>
        match tfind rid s.reds with
        | none => s
        | some r =>
          match s.contributionBad p.ctx p.stream r first vals.length with
          | some b => s.reply p (.refusal uid ⟨b.reason, b.address, b.detail⟩)
          | none =>
            match s.redReads p.writer ecc rid first vals.length r with
            | (s1, some b) => s1.ueError (.command p.from p.stream p.halt) b (if redArrival r.desc then s1.dataOwner b else some r.ctx)
                (s1.redWhere r b)
            | (s1, none) =>
              (s1.contribute rid first vals present true p.writer (s1.redChoices rid first vals.length p.det p.mayVary)).reply p
                (.ack uid)
      | 5 => s.reply p (.refusal uid ⟨0x20, 0, 0⟩)
      | _ => s.reply p (.refusal uid ⟨0x11, 0, detailPayload 0x21 25⟩)
    | _ => s

/-- The rounded values of an EXACT reduction, as bytes of its target: element and bytes. -/
def redRounded (r : Reduction) : List (Nat × List Byte) :=
  (List.range (redElems r.desc)).map fun i =>
    (redTarget r.desc + i * rdWidth r.desc, natLE (rdWidth r.desc) ((tget {} i r.sums).round (redBf16 r.desc)))
/-- An EXACT target written: whole, but for elements whose superaccumulator holds an uncorrectable error, which each read of it
finds (13 R415; log 117). -/
def State.writeTarget (s : State) (f : Finder) (w : Writer) (r : Reduction) : State :=
  match r.badSum 0 (redElems r.desc) with
  | none => s.writeChecked f w (redTarget r.desc) ((redRounded r).flatMap (·.2))
  | some b =>
    let good (p : Nat × List Byte) : Bool := !r.badSums.contains ((p.1 - redTarget r.desc) / rdWidth r.desc)
    (((redRounded r).filter good).foldl (fun s p => s.writeChecked f w p.1 p.2) s).ueError f b (some r.ctx) 2
/-- The presence word written; where it would change a protected bit it is not, and the stream that armed the reduction halts (09
R306; log 117). -/
def State.writePresence (s : State) (f : Finder) (w : Writer) (r : Reduction) : State :=
  let bytes := natLE 4 ((if 0 < r.present then 1 else 0) + min r.present 0xFFFF * 65536)
  if s.extentBadAt (rdPword r.desc) bytes then
    s.halt r.tile r.stream { reason := 0x20, unit := 2, tag := r.tag, chan := r.chan, address := s.ownAddr (rdPword r.desc) }
  else s.writeChecked f w (rdPword r.desc) bytes

/-- What finalisation writes. -/
def redFinal (r : Reduction) : List Range :=
  (if redArrival r.desc || r.present = 0 then [] else [⟨redTarget r.desc, redBytes r.desc⟩]) ++
  (if rdPwEn r.desc then [⟨rdPword r.desc, 4⟩] else [])

/-- Finalisation ends (09 R316): targets and presence word are written, the reserve is released, the reduction is idle and
its done_tally is signalled. -/
def execReductionDone (rid : Nat) (s : State) : Result :=
  if 4096 ≤ rid then .fault .noSuchPlace
  else
    match tfind rid s.reds with
    | none => .next s
    | some r =>
      if r.phase != .finalising || !s.serving || !s.notResetting r.ctx || !s.reserveFor { ctx := r.ctx } (redFinal r) then .next s
      else
        let d := r.desc
        let w : Writer := { ctx := r.ctx }
        let f : Finder := .command r.tile r.stream { reason := 0x50, unit := 2, tag := r.tag, chan := r.chan }
        let s1 := if redArrival d || r.present = 0 then s else s.writeTarget f w r
        let s2 := if rdPwEn d then s1.writePresence f w r else s1
        let cyc := s2.cycle (0x800 + homeOf (s.place (redTarget d)))
        let s3 := { cyc.2 with reds := terase rid cyc.2.reds }.traceSignal (0x800 + homeOf (s.place (redTarget d))) r.ctx r.tile 2
          (streamNo r.stream) r.tag 0x20 r.chan (rdDone d)
        let p : Packet := { uid := 0, ctx := r.ctx, epoch := 0, chan := r.chan, src := .die (homeOf (s.place (redTarget d))),
                            dst := .die (rdDone d % 8), stream := r.stream, engine := 2, tag := r.tag, entry := r.tile,
                            body := .signal (rdDone d) 1 0 cyc.1 }
        .next (s3.send p)

end Sys2Proof.Machine
end

