-- ==== Sys2Proof/Machine/Home.lean ====
section
/-!
DEFINITION. Requests at their homes and the answers (spec/09 R293, R294, R296–R298, R304, R522; spec/13 R410, R415): the home
cache die, another tile's store, replies, refusals, and patrol scrub.
-/
namespace Sys2Proof.Machine

def isRead : Body → Bool
  | .readReq .. => true
  | _ => false
def isTile : Place → Bool
  | .tile _ => true
  | _ => false
def isAccess (b : Body) : Bool := isRead b || isStoreReq b

/-! ## HOME_REQUEST (09 R298) -/

def execHomeRequest (k : Nat) (ecc : Ecc) (s : State) : Result :=
  onPacket k s (fun p => isDie p.dst && isAccess p.body && s.landRoom p (storeRanges p.body)) fun p s =>
    let die := dieOf p.dst
    match p.body with
    | .readReq a len uid =>
      let s1 := (s.hotLine a len).eccCheck ecc a
      match s1.badBlock a len with
      | some b => s1.ueFor p b
      | none => s1.reply p (.data uid (s1.loadBytes a len))
    | .writeReq a bs uid =>
      let s0 := s.hotLine a bs.length
      let s1 := if a % 64 != 0 || bs.length < 64 then s0.eccCheck ecc a else s0
      let s2 := (s1.countVary p die a bs.length).writeHome p.writer a bs
      match s1.landErr p.writer a bs with
      | some b => s2.ueFor p b
      | none => s2.reply p (.ack uid)
    | _ => s

/-! ## TILE_STORE_REMOTE_ACCESS (09 R522; 02 R75; 09 R306) -/

/-- A write is read first only where it covers less than its first block (09 R293). -/
def coreEcc (ecc : Ecc) (off : Nat) (bs : List Byte) : Ecc := if off % 64 != 0 || bs.length < 64 then ecc else .clean
/-- A write into a tile's control core by another tile's mover, and its answer. -/
def State.coreLand (s : State) (p : Packet) (n m off : Nat) (bs : List Byte) (uid : Nat) : State :=
  let s1 := s.modTile n fun t => t.coreWrite m off bs
  match (s.tile n).corePartBad m off bs with
  | some b => s1.coreUe (.command p.from p.stream p.halt) n m b
  | none => s1.reply p (.ack uid)

def execTileStoreRemoteAccess (k : Nat) (ecc : Ecc) (s : State) : Result :=
  onPacket k s (fun p => isTile p.dst && isAccess p.body && s.landRoom p (storeRanges p.body)) fun p s =>
    let n := p.at
    match p.body with
    | .readReq a len uid =>
      let s1 := s.eccCheck ecc a
      match s1.badBlock a len with
      | some b => s1.ueFor p b
      | none => s1.reply p (.data uid (s1.loadBytes a len))
    | .writeReq a bs uid =>
      if s.extentBadAt a bs then s.reply p (.refusal uid ⟨0x20, 0, 0⟩)
      else
        let s1 := if a % 64 != 0 || bs.length < 64 then s.eccCheck ecc a else s
        let s2 := s1.writeHome p.writer a bs
        match s1.landErr p.writer a bs with
        | some b => s2.ueFor p b
        | none => s2.reply p (.ack uid)
    | .coreWrite (some bank) off bs uid =>
      if s.bankActive n bank then s.reply p (.refusal uid ⟨0x23, 0, 0⟩)
      else (s.coreCheck (coreEcc ecc off bs) n (bank + 1) off).coreLand p n (bank + 1) off bs uid
    | .coreWrite none off bs uid => (s.coreCheck (coreEcc ecc off bs) n 0 off).coreLand p n 0 off bs uid
    | _ => s

/-! ## Answers at the tile -/

/-- Bytes a read asked for, given to the command or item that asked; more of its reads then go out. -/
def State.dataFor (s : State) (n : Nat) (st : Stream) (uid : Nat) (bytes : List Byte) : State :=
  let has (ps : List Piece) : Bool := ps.any fun q => q.uid = uid
  match allEngines.findSome? fun e => ((s.queue n e st).entries.find? fun x => has x.pieces).map fun x => (e, x) with
  | some (e, x) =>
    let x1 := { x with pieces := fillPieces uid bytes x.pieces }
    (((s.setEntry n e st x1).moveReady n e st x1).pumpTile n).progressed n (watchedQueue e st)
  | none =>
    match (s.tile n).runs.get st with
    | some r =>
      if r.items.any fun i => has i.pieces then
        ((s.setRun n st { r with items := r.items.map fun i => { i with pieces := fillPieces uid bytes i.pieces } }).pumpTile
          n).progressed n (watchedQueue .matrix st)
      else s.countDrop
    | none => s.countDrop

/-- The entry of a tile's stream that awaits a request's answer. -/
def State.awaiter (s : State) (n : Nat) (st : Stream) (uid : Nat) : Option (Engine × Entry) :=
  allEngines.findSome? fun e => ((s.queue n e st).entries.find? fun x => x.awaits.contains uid).map fun x => (e, x)

/-- An answer for a command that waits for one: an atomic's old value, or a reservation's room. -/
def State.answerFor (s : State) (n : Nat) (st : Stream) (uid entry : Nat) (nums : List Nat) : State :=
  match s.awaiter n st uid with
  | some (e, x) =>
    ((s.setEntry n e st { x with
      awaits := x.awaits.filter (· != uid)
      effects := x.effects ++ (match nums with
        | v :: _ => atomSums x v
        | [] => []) }).pumpTile n).progressed n (watchedQueue e st)
  | none =>
    match s.findEntry n st entry with
    | some (e, x) => s.setEntry n e st { x with granted := true, answer := nums }
    | none => s.countDrop

/-- An acknowledgement: the write no longer holds a fence back; a command that waits for it goes on. -/
def State.ackFor (s : State) (n : Nat) (st : Stream) (uid : Nat) : State :=
  let s1 := s.acked n uid
  match s1.awaiter n st uid with
  | some (e, x) =>
    (s1.setEntry n e st { x with awaits := x.awaits.filter (· != uid) }).progressed n (watchedQueue e st)
  | none =>
    -- the write of an issued command that does not wait for it: progress of its queue all the same (13 R394)
    match (s.tile n).unacked.find? fun u => u.uid = uid with
    | some u => (s1.findEntry n st u.entry).elim s1 fun q => s1.progressed n (watchedQueue q.1 st)
    | none => s1

def isReply : Body → Bool
  | .data .. => true
  | .ack .. => true
  | .answer .. => true
  | _ => false

/-- A reply reaches the tile that asked (08 R270; 09 R304, R310). -/
def execReplyArrive (k : Nat) (s : State) : Result :=
  onPacket k s (fun p => isReply p.body && isTile p.dst) fun p s =>
    match p.body with
    | .data uid bytes => s.dataFor p.at p.stream uid bytes
    | .ack uid => s.ackFor p.at p.stream uid
    | .answer uid nums => s.answerFor p.at p.stream uid p.entry nums
    | _ => s

/-- A refusal reaches the tile that asked: its stream halts (08 R266; 09 R313, R323; 13 R410). -/
def execRefusalArrive (k : Nat) (s : State) : Result :=
  onPacket k s (fun p => match p.body with
    | .refusal .. => isTile p.dst
    | .signalRefusal _ => isTile p.dst
    | _ => false) fun p s =>
    let halted (s : State) (why : Refused) : State :=
      s.halt p.at p.stream { reason := why.reason, unit := p.engine, tag := p.tag, chan := p.chan, address := why.address,
                             detail := why.detail }
    match p.body with
    | .refusal uid why => halted (s.acked p.at uid) why
    | .signalRefusal why => halted s why
    | _ => s

/-! ## Patrol scrub (09 R291, R294) -/

/-- The channels a die uses of a tier: its L lowest-numbered live ones. -/
def State.usedChannels (s : State) (die : Nat) (far : Bool) : List Nat :=
  let maps := if far then s.farLive else s.nearLive
  ((List.range 16).filter fun c => (lget maps die 0).testBit c).take (tierL maps)
def channelBytes (far : Bool) : Nat := if far then 0x1E0000000 else 0xF0000000

/-- The device address of a byte offset of a die's k-th used channel. -/
def channelAddr (far : Bool) (die l k off : Nat) : Nat :=
  (if far then farBase else nearBase) + (8 * (off / 4096 * l + k) + die) * 4096 + off % 4096

def execPatrolScrub (die : Nat) (far : Bool) (channel : Nat) (ecc : Ecc) (s : State) : Result :=
  if 8 ≤ die ∨ 16 ≤ channel then .fault .noSuchPlace
  else
    let used := s.usedChannels die far
    match used.findIdx? (· = channel) with
    | none => .next s
    | some k =>
      if !s.serving then .next s
      else
        let key := 16 * (2 * die + b2n far) + channel
        let at' := tget 0 key s.scrubAt
        let a := channelAddr far die used.length k (64 * at')
        let s1 := { s with scrubAt := tset key ((at' + 1) % (channelBytes far / 64)) s.scrubAt }
        let s2 := s1.eccCheck ecc a
        match s2.badBlock a 64 with
        | some b => .next (s2.ueError .scrub b (s2.dataOwner b) 3)
        | none => .next s2

end Sys2Proof.Machine
end

