-- ==== Sys2Proof/Machine/Tallies.lean ====
section
/-!
DEFINITION. Tallies (spec/08 R258–R274, R280, R520, R521): TWAIT, TCLAIM, TSIG, FENCE, TSET, and the operations at a tally's
home.
-/
namespace Sys2Proof.Machine

/-! ## A tally (08 R260–R262) -/

/-- Waiters whose condition holds, those left, and the claimers served in order with what is left of the value. -/
def serveClaims : Nat → List Waiter → List Waiter × List Waiter × Nat
  | v, [] => ([], [], v)
  | v, c :: cs => if c.v ≤ v then let r := serveClaims (v - c.v) cs; (c :: r.1, r.2.1, r.2.2) else ([], c :: cs, v)

/-- A tally after its value has changed, with the units released: every waiter whose condition holds, then claimers. -/
def Tally.settle (t : Tally) : Tally × List Waiter :=
  let go := t.waits.filter fun w => decide (w.v ≤ t.value)
  let c := serveClaims t.value t.claims
  ({ t with waits := t.waits.filter fun w => !decide (w.v ≤ t.value), claims := c.2.1, value := c.2.2 }, go ++ c.1)

/-- Signal n. -/
def Tally.signal (t : Tally) (n : Nat) (by' : LastSignal) : Tally × List Waiter :=
  let past := decide (0xFFFFFFFF < t.value + n)
  ({ t with value := min 0xFFFFFFFF (t.value + n), overflow := t.overflow || past, last := some by' }).settle
/-- A wait or a claim arrives. -/
def Tally.register (t : Tally) (w : Waiter) : Tally × List Waiter :=
  match w.kind with
  | .tclaim =>
    if t.claims.isEmpty && decide (w.v ≤ t.value) then ({ t with value := t.value - w.v }, [w])
    else ({ t with claims := t.claims ++ [w] }, [])
  | _ => if w.v ≤ t.value then (t, [w]) else ({ t with waits := t.waits ++ [w] }, [])

/-! ## Tallies in State -/

/-- Where a tally is: a tile's, or the cache dies'. -/
def State.tallyAt (s : State) (p : Place) (g : Nat) : Tally :=
  match p with
  | .tile n => s.tally n g
  | _ => s.gtally g
def State.setTally (s : State) (p : Place) (g : Nat) (t : Tally) : State :=
  match p with
  | .tile n => s.modTile n fun x => { x with tallies := tset g t x.tallies }
  | _ => { s with gtallies := tset g t s.gtallies }

/-- The tally view header (08 R280). -/
def State.tallyView (s : State) (p : Place) (g : Nat) : List Byte :=
  let t := s.tallyAt p g
  let isTile := match p with
    | .tile _ => true
    | _ => false
  let home := match p with
    | .tile n => n
    | _ => g % 8
  let owner := match p with
    | .tile n => s.owner n
    | _ => (s.ctxs.find? fun e => inGrant e.2.gtallyGrant g).elim 0 (·.1)
  let l := t.last.getD ⟨0, 0, 0, 0, 0, 0⟩
  natLE 32 (pack [(32, t.value), (1, b2n (!isTile)), (16, g), (8, owner), (11, home), (1, b2n t.remote), (1, b2n t.overflow),
    (16, t.waits.length), (16, t.claims.length), (1, b2n t.last.isSome), (2, l.src), (2, l.stream), (12, l.origin),
    (16, l.tag), (48, l.cycles.toNat), (32, l.add), (41, 0)])
/-- A waiter entry of the debugger's view (08 R280). -/
def waiterView (w : Waiter) : List Byte :=
  let k := match w.kind with
    | .twait => 0
    | .tclaim => 1
    | .ctwait => 2
  natLE 16 (pack [(2, k), (2, streamNo w.stream), (3, w.engine), (11, w.tile), (16, w.tag), (32, w.v), (62, 0)])

/-- The debugger's whole view of a tally: the header, its waiters, its claimers in their order of service (08 R280). -/
def State.wholeView (s : State) (p : Place) (g : Nat) : List Byte :=
  let t := s.tallyAt p g
  s.tallyView p g ++ (t.waits ++ t.claims).flatMap waiterView

/-- A release sent to a waiter's tile. -/
def State.sendRelease (s : State) (home : Place) (w : Waiter) : State :=
  let p : Packet := { uid := 0, ctx := s.owner w.tile, epoch := 0, chan := 0, src := home, dst := .tile w.tile,
                      stream := w.stream, engine := w.engine, tag := w.tag, entry := w.entry, body := .release w.kind }
  s.send p

/-- Claims served while another claimer from a different queue stands registered count in COUNTED mode (08 R274). -/
def State.countClaim (s : State) (left : List Waiter) (w : Waiter) : State :=
  let c := s.owner w.tile
  if w.kind = .tclaim && w.mayVary && c != 0 && (s.ctx c).detMode = 2 &&
      left.any fun o => s.owner o.tile = c && (o.tile != w.tile || o.engine != w.engine || o.stream != w.stream)
  then s.bumpVary c 1 else s
def State.releaseAll (s : State) (home : Place) (claims : List Waiter) : List Waiter → State
  | [] => s
  | w :: ws => State.releaseAll ((s.countClaim ((ws ++ claims).filter fun o => o.kind = .tclaim) w).sendRelease home w) home claims ws

/-- A signal applied at a tally's home, with the alarm of an overflow (R262). -/
def State.signalAt (s : State) (home : Place) (g n : Nat) (by' : LastSignal) : State :=
  let t := s.tallyAt home g
  let r := t.signal n by'
  let s1 := s.setTally home g r.1
  let s2 := if 0xFFFFFFFF < t.value + n then
      s1.alarm 0x09 (match home with
        | .tile k => k
        | _ => 0x800 + g % 8) (match home with
        | .tile k => s.owner k
        | _ => (s.ctxs.find? fun e => inGrant e.2.gtallyGrant g).elim 0 (·.1)) (s1.tallyView home g)
    else s1
  s2.releaseAll home r.1.claims r.2

/-! ## Payload fields (08 R263) -/

def tWhere (x : Entry) : Nat := x.pl 55 54
def tNum (x : Entry) : Nat := x.pl 53 38
def tTile (x : Entry) : Nat := x.pl 37 27
def tDev (x : Entry) : Nat := x.pl 26 19
def tValue (x : Entry) : Nat := if x.plb 18 then x.a0 else x.pl 17 0
def fScope (x : Entry) : Nat := x.pl 55 54
def fTeam (x : Entry) : Nat := x.pl 53 42

/-- The checks every command that names a tally shares; `noFar` for those that may not name another tile or device. -/
def tallyBad (s : State) (n : Nat) (x : Entry) (noFar set : Bool) : Option Bad :=
  let c := s.owner n
  let w := tWhere x
  orBad (firstBad [
    (noFar && (w = 1 || w = 3), x.badField 54),
    (decide (w ≤ 1) && x.pl 53 46 != 0, x.badField 38),
    (!set && w != 1 && tTile x != 0, x.badField 27),
    (set && x.pl 36 27 != 0, x.badField 27),
    (set && w = 2 && x.plb 37, x.badField 37),
    (w != 3 && tDev x != 0, x.badField 19)]) <|
  orBad (firstBad [
    (w = 1 && s.owner (tTile x) != c, ⟨0x15, detailTally 1 (tNum x), 0⟩),
    ((w = 2 || (w = 3 && tDev x = s.deviceNumber)) && !s.gtallyOk c (tNum x), ⟨0x15, detailTally w (tNum x), 0⟩)]) <|
  if w = 3 ∧ tDev x ≠ s.deviceNumber then s.windowBad c (tDev x) [] else none

/-- A team command may not signal a local tally of the tile that takes only local pushes (08 R267). -/
def teamSignalBad (s : State) (n : Nat) (x : Entry) : Option Bad :=
  if x.teamCmd != none && (tWhere x = 0 || (tWhere x = 1 && tTile x = n)) && !(s.tally n (tNum x)).remote
  then some ⟨0x20, detailTally (tWhere x) (tNum x), 0⟩ else none

/-! ## The commands -/

/-- The registration sent when the command becomes the head of its queue (08 R265). -/
def registerAsk (e : Engine) (kind : WaitKind) (s : State) (n : Nat) (st : Stream) (x : Entry) : State :=
  (s.setEntry n e st { x with asked := true }).cmdSend n e st x (tallyHome n (tWhere x) (tNum x))
    (.register (tNum x) kind (tValue x) (wMayVary x.word))

def cmdTwait (e : Engine) : Cmd where
  bad s n _ x := tallyBad s n x true false
  ask := some (registerAsk e .twait)
  ready _ _ _ x := x.granted
  run s n st x := s.setEntry n e st { x with latency := 0 }

def cmdTclaim (e : Engine) : Cmd where
  bad s n _ x := tallyBad s n x true false
  ask := some (registerAsk e .tclaim)
  ready _ _ _ x := x.granted
  run s n st x := s.setEntry n e st { x with latency := 0 }

def tsigBad (s : State) (n : Nat) (x : Entry) : Option Bad := orBad (tallyBad s n x false false) (teamSignalBad s n x)
/-- TSIG's own signal, sent when it completes (08 R266). -/
def tsigSend (e : Engine) (s : State) (n : Nat) (st : Stream) (x : Entry) : State :=
  if tWhere x = 3 then
    if tDev x = s.deviceNumber then s.signalFrom n e st x 2 (tNum x) 0 (tValue x)
    else
      let u := s.fresh
      (u.2.trace 0x33 2 n e st x (tNum x) 3 (tValue x)).request n e st x u.1
        { op := 0x06, dev := tDev x, addr := tNum x, op0 := tValue x }
  else s.signalFrom n e st x (tWhere x) (tNum x) (tTile x) (tValue x)
def cmdTsig (e : Engine) : Cmd where
  bad s n _ x := tsigBad s n x
  run s n st x := s.setEntry n e st { x with latency := 1 }
  finish s n st x := tsigSend e s n st x

def cmdFence (e : Engine) : Cmd where
  bad s n _ x :=
    orBad (x.unshown [(41, 0)]) <|
    firstBad [
      (fScope x != 1 && fTeam x != 0, x.badField 42),
      (fScope x = 1 && !s.teamOf (s.owner n) (fTeam x), ⟨0x13, 0, 0⟩)]
  ready s n st x := s.fenced n st x.uid (fScope x)
  run s n st x := s.setEntry n e st { x with latency := 0 }

def cmdTset : Cmd where
  bad s n _ x := tallyBad s n x true true
  run s n st x :=
    (s.setEntry n .tally st { x with awaits := [x.uid] }).cmdSend n .tally st x (tallyHome n (tWhere x) (tNum x))
      (.set (tNum x) (tValue x) (tWhere x = 0 && x.plb 37))
  done _ _ _ x := x.awaits.isEmpty

/-! ## At the home and back -/

def originOf (p : Packet) : Nat :=
  match p.src with
  | .tile n => n
  | _ => p.entry

def isSignal : Body → Bool
  | .signal .. => true
  | _ => false

/-- A signal reaches a tally's home (08 R260). -/
def execTallySignalAtHome (k : Nat) (s : State) : Result :=
  onPacket k s (fun p => isSignal p.body) fun p s =>
    match p.body with
    | .signal g n src cyc =>
      s.signalAt p.dst g n { src := src, stream := streamNo p.stream, origin := originOf p, tag := p.tag, cycles := cyc, add := n }
    | _ => s

/-- A wait or a claim reaches a tally's home. -/
def execTallyRegistrationAtHome (k : Nat) (s : State) : Result :=
  onPacket k s (fun p => match p.body with
    | .register .. => true
    | _ => false) fun p s =>
    match p.body with
    | .register g kind v mayVary =>
      let w : Waiter := { kind := kind, stream := p.stream, engine := p.engine, tile := p.from, tag := p.tag, v := v,
                          entry := p.entry, mayVary := mayVary }
      let r := (s.tallyAt p.dst g).register w
      (s.setTally p.dst g r.1).releaseAll p.dst r.1.claims r.2
    | _ => s

/-- A set reaches a tally's home, which applies it or refuses it and answers (08 R521). -/
def execTallySetAtHome (k : Nat) (s : State) : Result :=
  onPacket k s (fun p => match p.body with
    | .set .. => true
    | _ => false) fun p s =>
    match p.body with
    | .set g v remote =>
      let t := s.tallyAt p.dst g
      let loc := match p.dst with
        | .tile _ => 0
        | _ => 2
      if !t.waits.isEmpty || !t.claims.isEmpty then s.reply p (.setAnswer true g loc)
      else
        let t' : Tally := { t with value := v, remote := if loc = 0 then remote else t.remote }
        (s.setTally p.dst g t').reply p (.setAnswer false g loc)
    | _ => s

/-- The home's answer reaches the tile: TSET completes next, without its signal and with a halt where it was refused. -/
def execTsetAnswerArrive (k : Nat) (s : State) : Result :=
  onPacket k s (fun p => match p.body with
    | .setAnswer .. => true
    | _ => false) fun p s =>
    match p.body with
    | .setAnswer refused g loc =>
      match (s.queue p.at .tally p.stream).entries.find? fun x => x.uid = p.entry with
      | some x => (s.setEntry p.at .tally p.stream { x with
          awaits := [], failing := if refused then some (0x20, 0, detailTally loc g) else none }).progressed p.at
            (watchedQueue .tally p.stream)
      | none => s.countDrop
    | _ => s

/-- A release reaches the unit that waited (08 R265, R268). -/
def execTallyReleaseArrive (k : Nat) (s : State) : Result :=
  onPacket k s (fun p => match p.body with
    | .release .. => true
    | _ => false) fun p s =>
    match p.body with
    | .release .ctwait => s.ctwaitReleased p.at p.stream p.entry
    | .release _ =>
      match s.findEntry p.at p.stream p.entry with
      | some (e, x) => s.setEntry p.at e p.stream { x with granted := true }
      | none => s.countDrop
    | _ => s

/-- A TSIG from another tile reaches the tile of its tally: applied where the remote bit is 1, else refused (08 R266). -/
def execRemoteSignalAtTile (k : Nat) (s : State) : Result :=
  onPacket k s (fun p => match p.body with
    | .remoteSignal .. => isTileDst p
    | _ => false) fun p s =>
    match p.body with
    | .remoteSignal g n cyc =>
      if (s.tally p.at g).remote || p.src = p.dst then
        s.signalAt p.dst g n
          { src := 0, stream := streamNo p.stream, origin := p.from, tag := p.tag, cycles := cyc, add := n }
      else s.reply p (.signalRefusal ⟨0x20, 0, detailTally 1 g⟩)
    | _ => s
where
  isTileDst (p : Packet) : Bool := match p.dst with
    | .tile _ => true
    | _ => false

end Sys2Proof.Machine
end

