-- ==== Sys2Proof/Machine/Huddles.lean ====
section
/-!
DEFINITION. Huddles (spec/08 R275–R279): the HUDDLE command, arrivals at the home tile, and closes.
-/
namespace Sys2Proof.Machine

/-! ## The huddle descriptor (08 R275) -/

def hdKind (d : BitVec 128) : Nat := bits d.toNat 127 126
def hdCtx (d : BitVec 128) : Nat := bits d.toNat 125 118
def hdStream (d : BitVec 128) : Nat := bits d.toNat 117 116
def hdHome (d : BitVec 128) : Nat := bits d.toNat 114 104
def hdGroup (d : BitVec 128) : Nat := bits d.toNat 103 92
def hdParts (d : BitVec 128) : Nat := bits d.toNat 91 80
def hdRound (d : BitVec 128) : Nat := bits d.toNat 79 64
def hdArrC (d : BitVec 128) : Nat := bits d.toNat 63 52
def hdArrN (d : BitVec 128) : Nat := bits d.toNat 51 40
def hdCloseEn (d : BitVec 128) : Bool := bit d.toNat 39
def hdCloseTally (d : BitVec 128) : Nat := bits d.toNat 38 23

def State.huddle (s : State) (h : Nat) : Option Huddle :=
  match tfind h s.huddles with
  | some x => if hdKind x.desc = 1 then some x else none
  | none => none

/-- The direct members of a list team (01 R33). -/
def State.members (s : State) (group : Nat) : List Nat := s.chain 4095 (teamFirst (s.team group))

/-! ## HUDDLE (08 R277, R278) -/

def huId (x : Entry) : Nat := x.pl 55 46
def huMode (x : Entry) : Nat := x.pl 45 44
def huKey (s : State) (x : Entry) : Nat := 4096 * huId x + s.cmdTeam x
def State.arrivalsOf (s : State) (n : Nat) (x : Entry) : Arrivals := tget {} (huKey s x) (s.tile n).arrivals

def cmdHuddle : Cmd where
  bad s n st x :=
    orBad (firstBad [(x.teamCmd = none, ⟨0x11, detailHeader x.op 90, 0⟩), (huMode x = 3, x.badField 44)]) <|
    orBad (x.unshown [(43, 0)]) <|
    match s.huddle (huId x) with
    | none => some ⟨0x15, 0, 0⟩
    | some h =>
      if hdCtx h.desc != s.owner n then some ⟨0x15, 0, 0⟩
      else if !(s.members (hdGroup h.desc)).contains (s.cmdTeam x) || hdStream h.desc != streamNo st then some badState
      else none
  ready s n _ x :=
    let a := s.arrivalsOf n x
    huMode x = 2 || decide (a.made < 2) || decide (a.made ≤ a.closes + 1)
  run s n st x :=
    let a := s.arrivalsOf n x
    let s1 := s.setEntry n .tally st { x with latency := 1, progress := [if huMode x = 2 then a.made else a.made + 1] }
    if huMode x = 2 then s1
    else
      match s.huddle (huId x) with
      | none => s1
      | some h =>
        let a' : Arrivals := { a with made := a.made + 1 }
        let s2 := s1.modTile n fun t => { t with arrivals := tset (huKey s x) a' t.arrivals }
        s2.cmdSend n .tally st x (.tile (hdHome h.desc)) (.arrive (huId x) (s.cmdTeam x) (a.made % 65536))
  -- an arrival with a wait, or a wait alone, completes when that many closes have come
  done s n _ x := huMode x = 1 || decide (lget x.progress 0 0 ≤ (s.arrivalsOf n x).closes)

/-! ## The home (08 R279) -/

/-- Participants of which every tile has arrived for a round. -/
def State.arrived (s : State) (h : Huddle) (round : Nat) : Nat :=
  ((s.members (hdGroup h.desc)).filter fun t =>
    (s.teamTiles t).all fun n => h.arrivals.contains (t, n, round)).length

/-- The descriptor with its counts of arrivals brought up to date. -/
def State.recount (s : State) (h : Huddle) : Huddle :=
  let c := hdRound h.desc
  { h with desc := withField (withField h.desc 52 12 (s.arrived h c)) 40 12 (s.arrived h ((c + 1) % 65536)) }

/-- The oldest open round closes: the counts move on, closes go to every tile of every participant, close_tally is
signalled, with source kind 0, the home tile and tag 0 as its last signaller (log 123), and the next round closes too where all
have arrived for it. -/
def State.closeRound (s : State) (hid : Nat) (h : Huddle) : State :=
  let d := h.desc
  let c := hdRound d
  let d1 := withField (withField (withField d 64 16 (c + 1)) 52 12 (hdArrN d)) 40 12 0
  let h1 : Huddle := { h with desc := d1, arrivals := h.arrivals.filter fun a => a.2.2 != c,
                              again := decide (hdArrN d = hdParts d) }
  let home := Place.tile (hdHome d)
  let base : Packet := { uid := 0, ctx := hdCtx d, epoch := 0, chan := 0, src := home, dst := home,
                         stream := streamOf (hdStream d), engine := 4, body := .close hid c }
  let s1 := { s with huddles := tset hid h1 s.huddles }
  let s2 := (s.members (hdGroup d)).foldl (fun s t => (s.teamTiles t).foldl (fun s n =>
    s.send { base with dst := .tile n, entry := t }) s) s1
  if hdCloseEn d then
    let cyc := s2.cycle (hdHome d)
    let s3 := cyc.2.traceSignal (hdHome d) (hdCtx d) (hdHome d) 4 (hdStream d) 0 0 0 (hdCloseTally d)
    s3.send { base with dst := .die (hdCloseTally d % 8), body := .signal (hdCloseTally d) 1 0 cyc.1 }
  else s2

/-- An arrival reaches a huddle's home tile. -/
def execHuddleArrivalAtHome (k : Nat) (s : State) : Result :=
  onPacket k s (fun p => match p.body with
    | .arrive .. => true
    | _ => false) fun p s =>
    match p.body with
    | .arrive hid team round =>
      match s.huddle hid with
      | none => s.countDrop
      | some h =>
        let h1 := s.recount { h with arrivals := (team, p.from, round) :: h.arrivals }
        if hdArrC h1.desc = hdParts h1.desc && !h.again then s.closeRound hid h1
        else { s with huddles := tset hid h1 s.huddles }
    | _ => s

/-- The round behind the one that has just closed is complete as well: it closes in the next cycle (08 R279). -/
def execHuddleNextRoundClose (hid : Nat) (s : State) : Result :=
  if 1024 ≤ hid then .fault .noSuchPlace
  else
    match s.huddle hid with
    | none => .next s
    | some h => if s.serving && s.notResetting (hdCtx h.desc) && h.again then .next (s.closeRound hid h) else .next s

/-- A close reaches a member tile. -/
def execHuddleCloseArrive (k : Nat) (s : State) : Result :=
  onPacket k s (fun p => match p.body with
    | .close .. => true
    | _ => false) fun p s =>
    match p.body with
    | .close hid _ =>
      let key := 4096 * hid + p.entry
      let a := tget {} key (s.tile p.at).arrivals
      let a' : Arrivals := { a with closes := a.closes + 1 }
      s.modTile p.at fun t => { t with arrivals := tset key a' t.arrivals }
    | _ => s

end Sys2Proof.Machine
end

