-- ==== Sys2Proof/Machine/Ready.lean ====
section
/-!
DEFINITION. Issue as every command of an engine meets it (spec/02 R59, R61–R65, R69; spec/06 R193–R198, R216): which command an
opcode is, whether a head is ready, and the steps of an issue.
-/
namespace Sys2Proof.Machine

/-! ## Opcodes (02 R58; 03 R83; 05 R164; 06 R202; 07 R219; 08 R263; 09 R301, R318) -/

def opNop : Nat := 0xFF

def cmdOf (e : Engine) (op : Nat) : Option Cmd :=
  match op with
  | 0xF0 => some (cmdTwait e)
  | 0xF1 => some (cmdTclaim e)
  | 0xF2 => some (cmdTsig e)
  | 0xF3 => some (cmdFence e)
  | _ =>
    match e, op with
    | .matrix, 0x01 => some cmdMma
    | .matrix, 0x02 => some cmdMdrain
    | .matrix, 0x03 => some cmdMdcfg
    | .matrix, 0x08 => some cmdWlopen
    | .matrix, 0x09 => some cmdWlput
    | .matrix, 0x0A => some cmdWlrun
    | .matrix, 0x0B => some cmdWlclose
    | .vector, 0x01 => some cmdVld
    | .vector, 0x02 => some cmdVst
    | .vector, 0x03 => some cmdEpload
    | .vector, 0x04 => some cmdEprog
    | .vector, 0x05 => some cmdEpstrm
    | .vector, 0x06 => some cmdVred
    | .vector, 0x07 => some cmdVsum
    | .vector, 0x08 => some cmdVseed
    | .mover, 0x01 => some cmdMove
    | .mover, 0x02 => some cmdMvcomp
    | .mover, 0x03 => some cmdRemask
    | .mover, 0x04 => some cmdStash
    | .mover, 0x05 => some cmdPredld
    | .mover, 0x06 => some cmdMaskdrop
    | .mover, 0x10 => some cmdAtomic
    | .mover, 0x11 => some cmdAtomic
    | .mover, 0x12 => some cmdAtomic
    | .mover, 0x13 => some cmdAtomic
    | .mover, 0x14 => some cmdAtomic
    | .mover, 0x18 => some cmdAtomic
    | .mover, 0x19 => some cmdAtomic
    | .mover, 0x1A => some cmdAtomic
    | .mover, 0x20 => some cmdRdopen
    | .mover, 0x21 => some cmdRdadd
    | .mover, 0x40 => some cmdOptcfg
    | .mover, 0x41 => some cmdOptstep
    | .mover, 0x42 => some cmdAmaxstep
    | .mover, 0x43 => some cmdSnap
    | .route, 0x01 => some cmdRtcfg
    | .route, 0x02 => some cmdRqopen
    | .route, 0x03 => some cmdRoute
    | .route, 0x04 => some cmdRqclose
    | .route, 0x05 => some cmdRbound
    | .route, 0x06 => some cmdRcomb
    | .route, 0x07 => some cmdRback
    | .route, 0x08 => some cmdRgrad
    | .route, 0x10 => some cmdRxopen
    | .route, 0x11 => some cmdRwget
    | .route, 0x12 => some cmdRxwait
    | .route, 0x13 => some cmdRxexpand
    | .route, 0x14 => some cmdRsend
    | .tally, 0x01 => some cmdTset
    | .tally, 0x02 => some cmdHuddle
    | .pool, 0x01 => some cmdPoolget
    | .pool, 0x02 => some cmdPoolput
    | .pool, 0x03 => some cmdPoolcfg
    | _, _ => none

/-! ## Refusals at issue -/

/-- Accesses to the own device: reads, then writes (06 R193–R195, R200; 09 R288). -/
def State.accessesBad (s : State) (n : Nat) (st : Stream) (x : Entry) (c : Cmd) : Option Bad :=
  let o := s.owner n
  orBad ((c.reads s n st x).findSome? fun r => s.accessBad o st false r.base r.len)
    ((c.writes s n st x).findSome? fun r => s.accessBad o st true r.base r.len)

/-- What the engine finds wrong with a command of its own as it reaches issue. -/
def State.refusalAt (s : State) (n : Nat) (st : Stream) (x : Entry) (c : Cmd) : Option Bad :=
  orBad (s.issueBad n st x c) (s.accessesBad n st x c)

/-- A NOP's checks, and a skip entry's, of which only its signals are left (02 R59, R69; 12 R381). -/
def nopBad (s : State) (n : Nat) (x : Entry) : Option Bad :=
  orBad (firstBad [(wPayload x.word != 0, ⟨0x11, detailPayload opNop (lowestBit (wPayload x.word)), 0⟩)]) (orBad (s.signalBad n x) (s.varyBad n x))
def skipBad (s : State) (n : Nat) (x : Entry) : Option Bad :=
  orBad (s.signalBad n x) (if x.op = 0xF2 then tsigBad s n x else none)

/-! ## Readiness (02 R64, R65) -/

/-- A command of an engine's table at the head of its queue has all it needs to issue; the vector lanes go to a waiting drain
before any vector command (05 R183). -/
def State.issuable (s : State) (n : Nat) (e : Engine) (st : Stream) (x : Entry) (ahead : List Entry) (c : Cmd) : Bool :=
  !(e = .vector && decide (x.op < 0xF0) && !(laneCandidates s n).isEmpty) && s.cmdReady n e st x ahead c &&
    (c.ask.isNone || x.asked) && s.reserveFor (writerOf s n st) (c.writes s n st x) &&
    (!(e = .matrix && s.isItemCmd n st x) || s.itemRoom n st)

/-- A skip entry or NOP needs nothing but room in its lock-step sequence (02 R59, R69; 12 R388). -/
def State.freeReady (s : State) (n : Nat) (e : Engine) (st : Stream) (x : Entry) (ahead : List Entry) : Bool :=
  s.lockRoom n (3 * engineNo e + streamNo st) ahead x

/-- The head of a stream's queue is ready to issue. -/
def State.headReady (s : State) (n : Nat) (e : Engine) (st : Stream) : Bool :=
  s.streamRuns n st &&
  match s.head n e st with
  | none => false
  | some (x, ahead) =>
    if x.skip then s.freeReady n e st x ahead && (skipBad s n x).isNone
    else if x.op = opNop then s.freeReady n e st x ahead && (nopBad s n x).isNone
    else
      match cmdOf e x.op with
      | none => false
      | some c => s.issuable n e st x ahead c && (s.refusalAt n st x c).isNone

def State.readyStreams (s : State) (n : Nat) (e : Engine) : List Stream := allStreams.filter (s.headReady n e)

/-- A ready head that continues a streaming run of its array (03 R105). -/
def State.continuesRun (s : State) (n : Nat) (e : Engine) (st : Stream) : Bool :=
  e = .matrix &&
  match s.head n e st with
  | some (x, ahead) => x.op = 0x01 && !x.skip && continues (s.array n (mArray x)) ahead x
  | none => false

/-- The stream whose head the engine issues next: a pass that continues a run first (03 R105), then by the context's order
(06 R198). -/
def State.chosen (s : State) (n : Nat) (e : Engine) : Option Stream :=
  let ready := s.readyStreams n e
  match ready.find? (s.continuesRun n e) with
  | some st => some st
  | none => chooseStream (streamOrderOf (s.ctx (s.owner n)).streamOrder) ready fun st => (s.queue n e st).passed

/-! ## The steps of an issue -/

/-- Ranges of the executing tile's own store, which are read at issue. -/
def ownRanges (n : Nat) (rs : List Range) : List Range :=
  rs.filter fun r => decide (r.base < scratchBase) && r.base / tileStoreBytes = n

/-- The first uncorrectable block among ranges that are read at issue. -/
def State.readsBad (s : State) (n : Nat) (rs : List Range) : Option Nat :=
  (ownRanges n rs).findSome? fun r => s.badBlock r.base r.len

/-- The first uncorrectable block an issue meets: in what it reads, or in a page that its writes make a reserve keep. -/
def State.issueErr (s : State) (n : Nat) (st : Stream) (reads writes : List Range) : Option Nat :=
  match s.readsBad n reads with
  | some b => some b
  | none => writes.findSome? fun r => s.copyBad (writerOf s n st) r.base r.len

/-- A write of the command would change protected bits of a compressed tensor (09 R306); MVCOMP and REMASK have checks of
their own. -/
def State.protectedBad (s : State) (n : Nat) (e : Engine) (st : Stream) (x : Entry) : Bool :=
  !(e = .mover && (x.op = 0x02 || x.op = 0x03)) &&
  ((s.entries n e st).find? fun y => y.uid = x.uid).elim false fun y => y.effects.any fun f => match f with
    | .store a bytes => s.extentBadAt a bytes
    | .amax a mag => s.extentBadAt a (natLE 4 (amaxWord (leWord (s.loadBytes a 4)) mag).toNat)
    | _ => false

/-- The protected bits of every extent are the same after as before (09 R306). -/
def State.protectedSame (s t : State) : Bool :=
  s.tiles.all fun e => e.2.extents.all fun x => [x.1, x.2].all fun r =>
    (extentTiles (fun o => s.tileNat e.1 o 16) r.base r.len).all fun c =>
      (List.range (tileBytesOf c.2)).all fun i =>
        let a := tileBase e.1 + c.1 + i
        (((peek a s.mem).toNat ^^^ (peek a t.mem).toNat) &&& protectedBits c.2 i) = 0

/-- The entry of a command about to issue, with its context's determinism mode of now, which stays its own (12 R380). -/
def State.dated (s : State) (n : Nat) (x : Entry) : Entry := { x with det := (s.ctx (s.owner n)).detMode }

/-- The issue itself: pages of snapshots kept, the command's own part, and the mark; the item queue may ask on. -/
def State.performIssue (s : State) (n : Nat) (e : Engine) (st : Stream) (x : Entry) (c : Cmd) : State :=
  let x := s.dated n x
  let s1 := c.run (s.preserveFor (writerOf s n st) (c.writes s n st x)) n st x
  if s1.protectedBad n e st x || !s.protectedSame s1 then s.cmdHalt n e st x badState
  else
    let s2 := s1.issued n e st x (s.readyStreams n e)
    if s.isItemCmd n st x then s2.askItem n st else s2

/-- A head whose opcode its engine does not accept (02 R61). -/
def State.refuseOpcode (s : State) (n : Nat) (e : Engine) (st : Stream) (x : Entry) : State :=
  s.cmdHalt n e st x ⟨0x10, detailPayload x.op 58, 0⟩

/-- A head of a row's own opcode, in the order of its checks: what it reads has been written; refusals; what it must ask
for first; readiness and the stream order; uncorrectable operands. -/
def State.issueHead (s : State) (n : Nat) (e : Engine) (st : Stream) (c : Cmd) (found : State → Entry → State) (x : Entry)
    (ahead : List Entry) : State :=
  if !c.settled s n st x || hazard ahead (c.reads s n st x) then s
  else
    match s.refusalAt n st x c with
    | some b => s.cmdHalt n e st x b
    | none =>
      match c.ask, x.asked with
      | some f, false => f s n st x
      | _, _ =>
        if s.chosen n e != some st then s
        else
          let s0 := found s x
          match s0.issueErr n st (c.reads s0 n st x) (c.writes s0 n st x) with
          | some b => s0.ueError (.command n st (entryHalt e x)) b (s0.dataOwner b) (whereCode (s0.place b))
          | none => s0.performIssue n e st x c

/-- A row of the table that issues one command: the head of the stream's queue, where it is that command. -/
def issueWith (e : Engine) (op : Nat) (c : Cmd) (found : State → Entry → State) (n : Nat) (st : Stream) (s : State) : Result :=
  if n < 2048 then
    if s.streamRuns n st then
      match s.head n e st with
      | none => .next s
      | some (x, ahead) =>
        if x.skip || x.op = opNop then .next s
        else if x.op = op then .next (s.inName n x fun s => s.issueHead n e st c found x ahead)
        else if (cmdOf e x.op).isNone then .next (s.inName n x fun s => s.refuseOpcode n e st x)
        else .next s
    else .next s
  else .fault .noSuchPlace

def issueRow (e : Engine) (op : Nat) (c : Cmd) (n : Nat) (st : Stream) (s : State) : Result :=
  issueWith e op c (fun s _ => s) n st s

end Sys2Proof.Machine
end

