-- ==== Sys2Proof/Machine/Teams.lean ====
section
/-!
DEFINITION. Commands addressed to teams (spec/01 R37–R39; spec/02 R71–R73): dispatch, delivery, and the count of members that
have completed.
-/
namespace Sys2Proof.Machine

/-! ## TEAM_DISPATCH (02 R71, R72) -/

def State.setDispatch (s : State) (n : Nat) (st : Stream) (l : List Dispatch) : State :=
  s.modTile n fun t => { t with dispatch := t.dispatch.set st l }

/-- A halt by the dispatcher, unit 6. -/
def State.dispatchHalt (s : State) (n : Nat) (st : Stream) (x : Entry) (reason : Nat) : State :=
  s.halt n st { reason := reason, unit := 6, tag := wTag x.word, chan := x.chan }

/-- The dispatcher accepts the entry at the front: the command goes to every tile of its team, once to each. -/
def State.dispatchTo (s : State) (n : Nat) (st : Stream) (x : Entry) (rest : List Dispatch) : State :=
  let team := wTeamId x.word
  let tiles := s.teamTiles team
  let u := s.fresh
  let cmd : TeamCmd :=
    { team := team, ctx := s.owner n, tile := n, stream := st, tag := wTag x.word, op := x.op, chan := x.chan
      engine := wEngine x.word, left := tiles }
  let s1 := { u.2 with teamCmds := tset u.1 cmd u.2.teamCmds }
  let s2 := s1.setDispatch n st ({ entry := x, left := some tiles } :: rest)
  let p : Packet := { uid := 0, ctx := s.owner n, epoch := 0, chan := x.chan, src := .tile n, dst := .tile n, stream := st,
                      engine := 6, tag := wTag x.word, entry := x.uid, body := .deliver x.word x.s0 x.s1 x.skip u.1 }
  tiles.foldl (fun s m => s.send { p with dst := .tile m }) s2

def execTeamDispatch (n : Nat) (st : Stream) (s : State) : Result :=
  if n < 2048 then
    if s.streamRuns n st then
      match (s.tile n).dispatch.get st with
      | { entry := x, left := none } :: rest =>
        let team := wTeamId x.word
        if x.ctx != s.owner n then .next s
        else if !s.teamOf (s.owner n) team then .next (s.dispatchHalt n st x 0x13)
        else if s.teamBlocked team then .next (s.dispatchHalt n st x 0x25)
        else .next (s.dispatchTo n st x rest)
      | _ => .next s
    else .next s
  else .fault .noSuchPlace

/-! ## TEAM_DELIVERY (02 R72; 01 R37) -/

/-- A delivery is over: the dispatch queue's front waits for one member less, and goes once it waits for none. -/
def State.delivered (s : State) (n : Nat) (st : Stream) (uid m : Nat) : State :=
  match (s.tile n).dispatch.get st with
  | { entry := x, left := some l } :: rest =>
    if x.uid = uid then
      let l' := l.erase m
      s.setDispatch n st (if l'.isEmpty then rest else { entry := x, left := some l' } :: rest)
    else s
  | _ => s

def execTeamDelivery (k : Nat) (s : State) : Result :=
  match s.arrival k with
  | some p =>
    match p.body, p.dst, p.src with
    | .deliver w a b skip cmd, .tile m, .tile n =>
      if !s.serving then .next s
      else
        let s1 := s.consume k
        -- a late delivery, or one to a quarantined tile, is dropped (13 R407, R410)
        if s.stale p || (s.tile m).faulty then .next (s1.countDrop.delivered n p.stream p.entry m)
        else
          let e := engineOf (wEngine w)
          let st := streamOf (wStream w)
          if queueSize ≤ (s.queue m e st).entries.length then .next s
          else
            let u := s1.fresh
            let x : Entry := { uid := u.1, word := w, s0 := a, s1 := b, chan := p.chan, skip := skip, ctx := p.ctx,
                               teamCmd := some cmd }
            .next (((u.2.enqueue m e st x).delivered n p.stream p.entry m).progressed n (watchedDispatch p.stream))
    | _, _, _ => .next s
  | none => .next s

/-! ## TEAM_MEMBER_COMPLETION (01 R38) -/

def execTeamMemberCompletion (k : Nat) (s : State) : Result :=
  onPacket k s (fun p => match p.body with
    | .memberDone _ => true
    | _ => false) fun p s =>
    match p.body with
    | .memberDone cmd =>
      match tfind cmd s.teamCmds with
      | none => s.countDrop
      | some t =>
        let left := t.left.erase p.from
        if left.isEmpty then
          let g := teamDone (s.team t.team)
          let cyc := s.cycle t.tile
          let s1 := { cyc.2 with teamCmds := terase cmd s.teamCmds }.traceSignal t.tile t.ctx t.tile t.engine (streamNo t.stream)
            t.tag t.op t.chan g
          s1.send { uid := 0, ctx := t.ctx, epoch := 0, chan := 0, src := .mesh, dst := .die (g % 8), stream := t.stream,
                    engine := 7, tag := t.tag, entry := t.team, body := .signal g 1 1 cyc.1 }
        else { s with teamCmds := tset cmd { t with left := left } s.teamCmds }
    | _ => s

end Sys2Proof.Machine
end

