-- ==== Sys2Proof/Machine/Hang.lean ====
section
/-!
DEFINITION. Hang detection: the local deadlock detector (spec/08 R281, R282) and the whistles (spec/13 R392–R399).
-/
namespace Sys2Proof.Machine

/-! ## Local deadlocks (08 R281, R282) -/

/-- An entry of a deadlock report: kind, stream, engine, tag, tally, value, threshold. -/
structure Blocked where
  kind : Nat
  stream : Stream
  engine : Nat
  tag : Nat
  chan : Word
  tally : Nat
  value : Nat
  v : Nat
deriving DecidableEq, Repr

/-- A command registered at a local tally without a remote bit: its condition does not hold (08 R265, R280). A claim behind an
earlier claimer counts so too, whatever its value, since the home has not served it (log 124). -/
def State.blockedHead (s : State) (n : Nat) (e : Engine) (st : Stream) : Option Blocked :=
  match (s.queue n e st).entries with
  | x :: _ =>
    let t := s.tally n (tNum x)
    if !x.skip && !x.issued && (x.op = 0xF0 || x.op = 0xF1) && tWhere x = 0 && !t.remote &&
        ((t.waits ++ t.claims).any fun w => w.tile = n && w.entry = x.uid) then
      some ⟨x.op - 0xF0, st, engineNo e, wTag x.word, x.chan, tNum x, t.value, tValue x⟩
    else none
  | [] => none

/-- The tally a thread's CTWAIT names: its home kind (0 local, 2 global), its number and the threshold. -/
def State.ctwaitAt (s : State) (n : Nat) (st : Stream) : Option (Nat × Nat × Nat) :=
  match s.current n st with
  | some (.ctwait a b, _) =>
    let th := s.thread n st
    let r := (th.reg a).toNat
    some (if r.testBit 16 then 2 else 0, r % 65536, (th.reg b).toNat)
  | _ => none

/-- A thread in WAIT that R281 counts as blocked. -/
def State.blockedThread (s : State) (n : Nat) (st : Stream) : Option Blocked :=
  let th := s.thread n st
  let behind (e : Engine) : Option Blocked := (s.blockedHead n e st).map fun b =>
    { b with kind := 3, engine := 7, tag := wTag th.staging, chan := th.channel }
  match th.waitAt with
  | some .ctwait =>
    match s.ctwaitAt n st with
    | some (0, g, v) =>
      let t := s.tally n g
      if !t.remote && t.waits.any (fun w => w.kind = .ctwait && w.tile = n && w.stream = st) then
        some ⟨2, st, 7, wTag th.staging, th.channel, g, t.value, v⟩
      else none
    | _ => none
  | some .push =>
    let e := engineOf (wEngine th.staging)
    if !wTeam th.staging && decide (queueSize ≤ (s.queue n e st).entries.length) then behind e else none
  | some .sumrd =>
    match th.sums with
    | y :: _ => if (s.queue n .vector st).entries.any fun x => x.uid = y.entry then behind .vector else none
    | [] => none
  | some .cdrain =>
    match s.current n st with
    | some (.cdrain e, _) => if e = 7 then allEngines.findSome? behind else behind (engineOf e)
    | _ => none
  | none => none

/-- The report's entries, or none where R281 declares no deadlock. -/
def State.deadlockEntries (s : State) (n : Nat) : Option (List Blocked) :=
  let live := allStreams.filter fun st => !s.halted n st
  let used (st : Stream) : List Engine := allEngines.filter fun e => !(s.queue n e st).entries.isEmpty
  let quiet := live.all fun st => ((s.tile n).dispatch.get st).isEmpty &&
    ((s.tile n).runs.get st).isNone && (used st).all (fun e => (s.blockedHead n e st).isSome) &&
    (s.thread n st).run = .wait && (s.blockedThread n st).isSome
  if quiet && !live.isEmpty then
    some ((live.flatMap fun st => (used st).filterMap fun e => s.blockedHead n e st) ++
      live.filterMap (s.blockedThread n))
  else none

def blockedBytes (b : Blocked) : List Byte :=
  natLE 16 (pack [(2, b.kind), (2, streamNo b.stream), (3, b.engine), (16, b.tag), (8, b.tally), (32, b.value), (32, b.v), (33, 0)])

/-- LOCAL_DEADLOCK: the report is written and sent, and every stream in it halts once with reason 0x43 and the kind and tally of its
first entry (log 124). -/
def execLocalDeadlock (n : Nat) (s : State) : Result :=
  if n < 2048 then
    let c := s.owner n
    if s.alive n && s.notResetting c then
      match s.deadlockEntries n with
      | none => .next s
      | some bs =>
        let cyc := s.cycle n
        let head := natLE 16 (pack [(8, c), (11, n), (5, bs.length), (16, s.nextSeq n 0), (48, cyc.1.toNat), (40, 0)])
        let report := head ++ bs.flatMap blockedBytes
        let s1 := (cyc.2.modTile n fun t => { t with deadlock := report }).alarm 0x02 n c report
        .next (allStreams.foldl (fun s st =>
          match bs.find? fun b => b.stream = st with
          | some b => s.halt n st { reason := 0x43, unit := 4, tag := b.tag, chan := b.chan,
                                    detail := b.kind * 256 + b.tally }
          | none => s) s1)
    else .next s
  else .fault .noSuchPlace

/-! ## Whistles (13 R392–R398) -/

/-- A watched unit: its stream, and its place among 0–5 engine queues, 6 dispatch queue, 7 thread. -/
def unitStream (u : Nat) : Stream := streamOf (u / 8)

/-- A whistle is owed progress (R393): its context is live and has a limit. -/
def State.owed (s : State) (n u : Nat) : Bool :=
  let st := unitStream u
  let c := s.owner n
  s.alive n && (s.ctx c).state = 1 && decide (0 < (s.ctx c).whistleLimit) &&
  match u % 8 with
  | 7 => (s.thread n st).run = .wait
  | 6 => !((s.tile n).dispatch.get st).isEmpty && !s.halted n st
  | e => !(s.queue n (engineOf e) st).entries.isEmpty && !s.halted n st

/-- The stream that holds an accumulator tile a command needs. -/
def heldByOther (a : Arr) (st : Stream) (accs : List Nat) : Option Nat :=
  accs.findSome? fun k => match (vget a.accs k {}).held with
    | some o => if o = st then none else some (streamNo o)
    | none => none

/-- The resources of class 3 (R397). -/
def resMesh : Nat := 0
def resSeam : Nat := 1
def resDie : Nat := 2
def resPort : Nat := 3
def resMember : Nat := 4
def resPool : Nat := 5
def resRing : Nat := 6
def resVector : Nat := 7

/-- A die as R409 codes it. -/
def dieCode : Die → Nat
  | .compute nn => nn
  | .cache c => 16 + c
  | .port p => 24 + p

/-- What a head or thread waits for: its class and object as the fault record has them, and which of several resources of the
kind it is: the link port, the seam as 2 × number + direction, or the pool and class. -/
structure Cause where
  cls : Nat
  object : Nat := 0
  unit : Nat := 0
deriving DecidableEq, Repr
def class3 (resource holder : Nat) (unit : Nat := 0) : Cause := { cls := 3, object := pack [(4, resource), (9, 0), (11, holder)], unit := unit }
def Cause.resource (b : Cause) : Nat := bits b.object 23 20
def Cause.holder (b : Cause) : Nat := bits b.object 10 0
/-- A number for a cause, by which a whistle knows that it still waits for the same. -/
def Cause.key (b : Cause) : Nat := 2 ^ 32 * b.unit + 8 * b.object + b.cls

/-- A wait for a seam, held by the die it leads to; for a link port, held by its die; for a place of the device: its home die, or
the mesh. -/
def seamCause (q : Nat × Nat) : Cause :=
  class3 resSeam (dieCode (if q.2 = 0 then (seamEnds q.1).2 else (seamEnds q.1).1)) (2 * q.1 + q.2)
def portCause (p : Nat) : Cause := class3 resPort (dieCode (.port (portDie p))) p
def placeCause (n : Nat) : Place → Cause
  | .die c => class3 resDie (dieCode (.cache c))
  | _ => class3 resMesh n

/-- The first seam that repeats a transfer on a way. -/
def State.seamOn (s : State) (src dst : Place) : Option (Nat × Nat) := (seamPath src dst).find? s.seamHolds
/-- What something that a tile sends to a place of a device waits for: a seam that repeats on its way, else the port, else the
place. -/
def State.wayCause (s : State) (n dev : Nat) (dst : Place) : Cause :=
  if dev != s.deviceNumber then
    (s.portTo dev).elim (class3 resMesh n) fun p => ((s.seamOn (.tile n) (.port p)).map seamCause).getD (portCause p)
  else ((s.seamOn (.tile n) dst).map seamCause).getD (placeCause n dst)

/-- Packets in flight that an entry of a tile has sent. -/
def State.packetsOf (s : State) (n : Nat) (x : Entry) : List Packet := s.net.filter fun p => p.src = .tile n && p.entry = x.uid
/-- The port at which a message of an entry's requests still waits for credits. -/
def State.portOf (s : State) (n : Nat) (x : Entry) : Option Nat :=
  (List.range 12).find? fun p => (s.port p).out.any fun o => s.fabric.requests.any fun r =>
    r.tile = n && r.entry = x.uid && mSdev o.msg = s.deviceNumber && mReqid o.msg = mReqid r.msg && mTdev o.msg = mTdev r.msg &&
      mOp o.msg = mOp r.msg

/-- An issued command waits for what one of its requests has not passed, a seam, a port, or the queue of the home it goes to, or
else for replies (log 70). -/
def State.issuedBlock (s : State) (n : Nat) (x : Entry) : Cause :=
  let ps := s.packetsOf n x
  match ps.findSome? (fun p => s.seamOn p.src p.dst), s.portOf n x,
      s.fabric.requests.find? (fun r => !r.sent && r.tile = n && r.entry = x.uid), ps with
  | some q, _, _, _ => seamCause q
  | none, some p, _, _ => portCause p
  | none, none, some r, _ => s.wayCause n (mTdev r.msg) .mesh
  | none, none, none, p :: _ => if isSync p.body then class3 resMesh n else placeCause n p.dst
  | none, none, none, [] => { cls := 5, object := min 127 (x.awaits.length + openPieces x.pieces) }

/-- The device and place that a mover's head asks something of first, where it asks anything (09 R302–R313; log 70). -/
def State.asksOf (s : State) (n : Nat) (x : Entry) : Option (Nat × Place) :=
  if x.op = 0x01 then
    let d := s.tileNat n x.a0 32
    let fromHere := mvZero x || (mvSdev d = s.deviceNumber && s.homePlace (mvSrc d) = .tile n)
    some (if fromHere then (mvDdev d, if mvKind d = 0 then s.homePlace (mvDst d) else .mesh) else (mvSdev d, s.homePlace (mvSrc d)))
  else if 0x10 ≤ x.op ∧ x.op ≤ 0x1A then some (aDev x, s.homePlace (aAddr x))
  else if x.op = 0x20 then some (s.deviceNumber, s.homePlace (redTarget (BitVec.ofNat 256 (s.tileNat n x.a0 32))))
  else if x.op = 0x21 then some (x.pl 24 17, .die (s.redHome (tfind (x.pl 55 44) s.reds) x.a1))
  else none

/-- Bytes that a head reads are still to be written. -/
def State.operandsOpen (s : State) (n : Nat) (e : Engine) (st : Stream) (x : Entry) : Bool :=
  (cmdOf e x.op).any fun c => !c.settled s n st x || hazard (s.ahead n e st) (c.reads s n st x)

/-- What a queue's head waits for (R395, R397). -/
def State.headBlock (s : State) (n : Nat) (e : Engine) (st : Stream) (x : Entry) : Cause :=
  if x.issued then (if e = .tally && x.op = 0x02 then { cls := 1, object := huId x } else s.issuedBlock n x)
  else
    let held (a : Option Nat) (other : Cause) : Cause := a.elim other fun o => { cls := 4, object := o }
    let operands : Cause := { cls := 2 }
    match e, x.op with
    | _, 0xF0 => { cls := 0, object := tWhere x * 65536 + tNum x }
    | _, 0xF1 => { cls := 0, object := tWhere x * 65536 + tNum x }
    | _, 0xF3 => { cls := 5, object := min 127 (((s.tile n).unacked.filter fun u => u.stream = st).length +
        ((s.tile n).unsent.filter fun u => u.stream = st).length) }
    | .tally, 0x02 => { cls := 1, object := huId x }
    | .matrix, 0x01 => held (heldByOther (s.array n (mArray x)) st (mmaAccs s n x)) operands
    | .matrix, 0x02 => held (heldByOther (s.array n (dArray x)) st (dAccs x))
        (if (s.ahead n .matrix st).isEmpty then class3 resVector n else operands)
    | .matrix, 0x09 => class3 resRing (teamLeader (s.team (wlTeam x)))
    | .matrix, 0x0A => held ((s.tile n).arrays.toList.findSome? fun a => heldByOther a st [6, 7]) operands
    | .route, 0x03 => class3 resMesh n
    | .route, 0x13 => if x.asked then class3 resRing n else operands
    | .route, _ => operands
    | .vector, _ => if s.operandsOpen n .vector st x then operands else class3 resVector n
    | .mover, 0x41 => class3 resVector n
    | .mover, _ =>
      if s.operandsOpen n .mover st x then operands
      else (s.asksOf n x).elim (class3 resMesh n) fun a => s.wayCause n a.1 a.2
    | .pool, _ =>
      let unit := pack [(1, b2n (pShared x)), (6, pPool x), (3, pClass x)]
      if pShared x then class3 resPool (dieCode (.cache (pPool x % 8))) unit else class3 resPool n unit
    | _, _ => operands

/-- What a watched unit waits for, with the tag and channel of what waits there. -/
structure Block where
  cause : Cause
  tag : Nat
  chan : Word
deriving DecidableEq, Repr
def Block.cls (b : Block) : Nat := b.cause.cls
def Block.object (b : Block) : Nat := b.cause.object

def State.blockOf (s : State) (n u : Nat) : Block :=
  let st := unitStream u
  let th := s.thread n st
  match u % 8 with
  | 7 =>
    let c : Cause := match th.waitAt, s.ctwaitAt n st with
      | some .ctwait, some (loc, g, _) => { cls := 0, object := loc * 65536 + g }
      | some .push, _ => { cls := 6, object := 0 }
      | some .sumrd, _ => { cls := 6, object := 1 }
      | _, _ => { cls := 6, object := 2 }
    ⟨c, wTag th.staging, th.channel⟩
  | 6 =>
    match (s.tile n).dispatch.get st with
    | d :: _ => ⟨class3 resMember ((d.left.bind (·.head?)).getD n), wTag d.entry.word, d.entry.chan⟩
    | [] => ⟨{ cls := 3 }, 0, 0⟩
  | e =>
    match s.entries n (engineOf e) st with
    | x :: _ =>
      -- the head where it waits to issue, else the oldest command that still runs
      let y := ((s.head n (engineOf e) st).filter fun p => p.2.isEmpty).elim x (·.1)
      ⟨s.headBlock n (engineOf e) st y, wTag y.word, y.chan⟩
    | [] => ⟨{ cls := 3 }, 0, 0⟩

/-! ## Counts (13 R392–R396): one idle step is 1 µs (log 2) -/

/-- A command and whether it has issued, and the answers it has still to get, as numbers. -/
def entryIds (x : Entry) : List Nat :=
  (4 * x.uid + b2n x.issued) :: (x.awaits ++ (x.pieces.filter fun p => p.data.isNone).map (·.uid)).map (4 * · + 2)

def entriesIds (l : List Entry) : List Nat := l.flatMap entryIds
/-- What is still to be done in a queue. -/
def State.queueIds (s : State) (n : Nat) (e : Engine) (st : Stream) : List Nat :=
  entriesIds (s.queue n e st).entries ++
    if e = .matrix then ((s.tile n).runs.get st).elim [] fun r => r.items.map (4 * ·.uid + 3) else []
/-- What is still to be done in the queue that a waiting thread waits on: the one its push goes to, the one that owes it a summary, or
those it drains. -/
def State.awaitedIds (s : State) (n : Nat) (st : Stream) : List Nat :=
  let th := s.thread n st
  match th.waitAt with
  | some .push =>
    if wTeam th.staging then
      ((s.tile n).dispatch.get st).flatMap fun d => 4 * d.entry.uid :: (d.left.getD []).map (4 * · + 1)
    else s.queueIds n (engineOf (wEngine th.staging)) st
  | some .sumrd => (th.sums.head?.bind fun y => s.findEntry n st y.entry).elim [] fun q => s.queueIds n q.1 st
  | some .cdrain =>
    match s.current n st with
    | some (.cdrain e, _) => if e = 7 then allEngines.flatMap fun g => s.queueIds n g st else s.queueIds n (engineOf e) st
    | _ => []
  | _ => []
/-- The buffers taken of the class that a wait for a pool names. -/
def State.poolIds (s : State) (b : Cause) : List Nat :=
  let of (p : Pool) : List Nat := (p.taken.filter fun t => t.1 = bits b.unit 2 0).map (·.2.1)
  let at' (l : Table Pool) : List Nat := (tfind (bits b.unit 8 3) l).elim [] of
  at' (if bit b.unit 9 then s.pools else (s.tile b.holder).pools)

/-- The units of a resource that are taken, or the events still to come, of which one that is gone at the next tick has been
released, or has come (R395). -/
def State.takenOf (s : State) (n u : Nat) (b : Cause) : List Nat :=
  let st := unitStream u
  match b.cls with
  | 2 =>
    (s.ahead n (engineOf (u % 8)) st).map (·.uid) ++
    ((s.tile n).runs.get st).elim [] (fun r => r.items.flatMap fun i => (i.pieces.filter fun p => p.data.isNone).map (·.uid)) ++
    (s.net.filter fun p => p.dst = .tile n).map (·.uid)
  | 3 =>
    match b.resource with
    | 0 => (s.net.filter fun p => p.src = .tile n).map (·.uid)
    | 1 => (s.net.filter fun p => (seamPath p.src p.dst).any fun q => 2 * q.1 + q.2 = b.unit).map (·.uid)
    | 2 => s.reds.map (·.1) ++ (s.net.filter fun p => p.dst = .die (b.holder - 16)).map (·.uid)
    | 3 => (s.port b.unit).out.map fun o => 65536 * o.uid + o.sent
    | 4 => allEngines.flatMap fun e => s.queueIds b.holder e st
    | 5 => s.poolIds b
    | 6 => (s.tile b.holder).lists.flatMap fun l => (List.range (l.2.tail - l.2.head)).map fun i => 65536 * l.1 + l.2.head + i
    | _ =>
      let v := (s.tile n).vec
      ((List.range 32).filter v.busy.toNat.testBit) ++ (v.lanes.map (32 + ·)).toList ++
        allStreams.flatMap fun t => ([Engine.vector, .mover, .matrix].flatMap fun e => (s.queue n e t).entries.map (64 + ·.uid))
  | 6 => s.awaitedIds n st
  | _ => []

/-- The count is held (R396): the wait is for a port in TRAINING or RETRAIN, or for a seam that repeats a transfer. -/
def State.heldCount (s : State) (b : Cause) : Bool :=
  b.cls = 3 && ((b.resource = resPort && ((s.port b.unit).state = 1 || (s.port b.unit).state = 4)) ||
    (b.resource = resSeam && s.seamHolds (b.unit / 2, b.unit % 2)))
def backPressure (b : Cause) : Bool := b.cls = 2 || b.cls = 3 || b.cls = 6

/-- One tick of a whistle that is owed progress: held, returned to 0 by a release, or counted up. -/
def State.tickWhistle (s : State) (n u : Nat) (w : Option Whistle) : Whistle :=
  let b := (s.blockOf n u).cause
  let now := s.takenOf n u b
  let key := b.key
  match w with
  | none => { on := key, seen := now }
  | some w =>
    let moved := backPressure b && w.on = key && w.seen.any fun x => !now.contains x
    { count := if s.heldCount b then w.count else if moved then 0 else w.count + 1, own := w.own + 1, on := key, seen := now }

/-- A tick of a tile's 24 whistles; one that is not owed progress holds 0. -/
def State.tickTile (s : State) (n : Nat) : State :=
  let ws := (List.range 24).filterMap fun u =>
    if s.owed n u then some (u, s.tickWhistle n u (tfind u (s.tile n).whistles)) else none
  s.modTile n fun t => { t with whistles := ws }
/-- 1 µs passes for every whistle. -/
def State.tickWhistles (s : State) : State := (s.tiles.map (·.1)).foldl (fun s n => s.tickTile n) s

/-- A whistle's state: as it has counted, or 0. -/
def State.whistle (s : State) (n u : Nat) : Whistle := tget {} u (s.tile n).whistles

def whistleDetail (cls watched object : Nat) : Nat := pack [(3, cls), (3, watched), (24, object)]

/-- WHISTLE_FIRE: where the count has reached the context's limit, the stream halts with reason 0x44, and where the fail action says so its context stops (R397, R399). -/
def execWhistleFire (n u : Nat) (s : State) : Result :=
  if n < 2048 ∧ u < 24 then
    if s.owed n u && decide ((s.ctx (s.owner n)).whistleLimit ≤ (s.whistle n u).count) then
      let st := unitStream u
      let c := s.owner n
      let b := s.blockOf n u
      let seq := s.nextSeq n 0
      let s1 := s.modTile n fun t => { t with whistleFires := satAdd 32 t.whistleFires 1 }
      let s2 := s1.halt n st { reason := 0x44, unit := u % 8, tag := b.tag, chan := b.chan,
                               detail := whistleDetail b.cls (u % 8) b.object }
      if (s.ctx c).failAction.testBit 0 then
        .next ((s2.haltAll c { reason := 0x44, detail := whistleDetail 7 0 n }).stopContext c 0x44 seq)
      else .next s2
    else .next s
  else .fault .noSuchPlace

/-- WHISTLE_WARNING: back-pressure has kept a whistle whose own last progress lies more than the limit ago from firing; one log
record until the unit's next progress (R398). -/
def execWhistleWarning (n u : Nat) (s : State) : Result :=
  if n < 2048 ∧ u < 24 then
    let b := s.blockOf n u
    let limit := (s.ctx (s.owner n)).whistleLimit
    if s.owed n u && !(s.tile n).warned.contains u && decide (limit < (s.whistle n u).own) &&
        decide ((s.whistle n u).count < limit) then
      let body := natLE 16 (pack [(11, n), (2, u / 8), (3, u % 8), (3, b.cls), (24, b.object), (85, 0)])
      .next ((s.modTile n fun t => { t with warned := u :: t.warned }).sendRecord 1 0x21 n (s.owner n) body)
    else .next s
  else .fault .noSuchPlace

end Sys2Proof.Machine
end

