-- ==== Sys2Proof/Machine/Ports.lean ====
section
/-!
DEFINITION. Link ports (spec/10 R324–R336, R344, R346; spec/15 R478; spec/16 R515, R516): training, flits, replay and credits.
-/
namespace Sys2Proof.Machine

def portCount : Nat := 12

/-! ## Fields of a flit (10 R330) and of a control flit's body (R335) -/

def fKind (f : BitVec 2048) : Nat := bits f.toNat 2047 2046
def fVc (f : BitVec 2048) : Nat := bits f.toNat 2045 2044
def fDl (f : BitVec 2048) : Nat := bits f.toNat 2043 2043
def fSeq (f : BitVec 2048) : Nat := bits f.toNat 2042 2031
def fAck (f : BitVec 2048) : Nat := bits f.toNat 2030 2019
def fCpa (f : BitVec 2048) : Nat := bits f.toNat 2018 2016
def fCca (f : BitVec 2048) : Nat := bits f.toNat 2015 2000
def fCpb (f : BitVec 2048) : Nat := bits f.toNat 1999 1997
def fCcb (f : BitVec 2048) : Nat := bits f.toNat 1996 1981
def fUsed (f : BitVec 2048) : Nat := bits f.toNat 1970 1967
def fBody (f : BitVec 2048) : Nat := bits f.toNat 1951 32
def fUnit (f : BitVec 2048) (i : Nat) : BitVec 128 := BitVec.ofNat 128 (bits f.toNat (1951 - 128 * i) (1824 - 128 * i))
def cType (f : BitVec 2048) : Nat := bits f.toNat 1951 1944
def cDev (f : BitVec 2048) : Nat := bits f.toNat 1943 1936
def cRole (f : BitVec 2048) : Nat := bits f.toNat 1931 1928
def cMode (f : BitVec 2048) : Nat := bits f.toNat 1927 1927
def cSize (f : BitVec 2048) : Nat := bits f.toNat 1926 1920 + 1
def cDims (f : BitVec 2048) : Nat := bits f.toNat 1919 1896
def cCoord (f : BitVec 2048) : Nat := bits f.toNat 1895 1872
def cGrant (f : BitVec 2048) (p : Nat) : Nat := bits f.toNat (1871 - 12 * p) (1860 - 12 * p)

/-- CRC-32 of IEEE 802.3, the bits taken in the order sent, highest first (R330; log 34). -/
def crcStep (c : BitVec 32) (b : Bool) : BitVec 32 :=
  if xor (c.toNat.testBit 31) b then (c <<< 1) ^^^ 0x04C11DB7#32 else c <<< 1
def crcOf (w : Nat) : Nat → BitVec 32 → BitVec 32
  | 0, c => c
  | n + 1, c => crcOf w n (crcStep c (w.testBit n))
/-- The check code of a flit, over its bits [2047:32]. -/
def flitCrc (f : Nat) : Nat := (~~~(crcOf (f >>> 32) 2016 0xFFFFFFFF#32)).toNat
def crcOk (f : BitVec 2048) : Bool := flitCrc f.toNat = bits f.toNat 31 0

/-! ## Sticky records (10 R329) -/

def State.stick (s : State) (p i : Nat) : State := s.modPort p fun x => { x with sticky := x.sticky ||| BitVec.ofNat 32 (2 ^ i) }
/-- A protocol error: recorded sticky, and counted (R329; 12 R390). -/
def State.protocolError (s : State) (p : Nat) : State :=
  (s.stick p 5).modPort p fun x => { x with protocolErrors := satAdd 32 x.protocolErrors 1 }
/-- The port dies run: from phase 2 of a bring-up on (15 R484). -/
def State.portsRun (s : State) : Bool :=
  s.serving || (s.power.state = 1 && s.power.slots = 8 && decide (2 ≤ s.power.phase))

/-- Units of a pair freed at the receiver. -/
def State.freeUnits (s : State) (p pair n : Nat) : State :=
  s.modPort p fun x => { x with freed := lset x.freed pair ((lget x.freed pair 0 + n) % 65536) }
/-- The receive buffer a forwarded message held is freed. -/
def State.unheld (s : State) (m : OutMsg) : State := m.holds.elim s fun h => s.freeUnits h.1 h.2.1 h.2.2

/-! ## Leaving service (10 R328; 12 R391) -/

/-- Every stream of a lock-step context halts, cause in the detail (12 R391). -/
def State.lockHalt (s : State) (c cause : Nat) : State := s.haltAll c { reason := 0x41, detail := pack [(2, cause), (28, 0)] }

/-- The lock-step contexts whose frames go by a port. -/
def State.lockCtxs (s : State) (p : Nat) : List Nat :=
  (s.ctxs.filter fun e => lockEnabled e.2.lockstep && lockPort e.2.lockstep = p && e.2.state = 1).map (·.1)

/-- The dimension a port serves. -/
def roleDim (role : Nat) : Option Nat := if 1 ≤ role ∧ role ≤ 6 then some ((role - 1) / 2) else none

/-- Messages of unacknowledged flits, then those not sent, once each. A message under way to another port keeps no buffer: its
units are freed as it goes back to route selection. -/
def unsentOf (x : Port) : List OutMsg :=
  ((x.replay.flatMap (·.carries)) ++ x.out).foldl (fun l m => if l.any fun o => o.uid = m.uid then l else l ++ [m]) []

/-- A port leaves FULL or HALF: what it has not had acknowledged goes back to route selection; lock-step frames, which go
by no other port, stay; lock-step contexts of the port halt. -/
def State.leaveService (s : State) (p : Nat) : State :=
  let x := s.port p
  let ms := unsentOf x
  let stays (m : OutMsg) : Bool := mOp m.msg = 0x30
  let s1 := s.modPort p fun y => { y with
    out := (ms.filter stays).map fun (m : OutMsg) => { m with sent := 0 }
    replay := []
    again := none
    controls := []
    state := 5
    unwhole := [] }
  let s2 := (ms.filter fun m => !stays m).foldl (fun s m => (s.unheld m).route m.msg (roleDim x.liveRole) m.dl) s1
  (s.lockCtxs p).foldl (fun s c => s.lockHalt c 2) s2

/-- Entry into DOWN: the record, and the alarm (R329; 13 R423 kind 0x0A). -/
def State.portDown (s : State) (p : Nat) : State :=
  if (s.port p).state = 5 then s
  else
    let s1 := if s.portUp p then s.leaveService p else s
    let s2 := (s1.modPort p fun x => { x with state := 5, step := 0, lanes := 0 }).stick p 2
    s2.alarm 0x0A (0x810 + portDie p) 0 (natLE 16 (pack [(4, p), (32, (s2.port p).sticky.toNat), (92, 0)]))

/-- Forwarded messages that came by a port hold its buffers no longer: its credits begin anew. -/
def State.unhold (s : State) (p : Nat) : State :=
  let drop (m : OutMsg) : OutMsg := if m.holds.elim false (·.1 = p) then { m with holds := none } else m
  { s with ports := tmap (fun _ x => { x with out := x.out.map drop }) s.ports }

/-- Training from a step: counters, credits and sequence numbers begin anew (R327, R334; log 35). -/
def State.beginTraining (s : State) (p st step : Nat) : State :=
  ((if s.portUp p then s.leaveService p else s).unhold p).modPort p fun x => { x with
    state := st
    step := step
    lanes := 0
    good := 0
    wantTrain := false
    limits := 0
    liveRole := x.role
    liveSize := s.fabric.size
    liveDims := s.fabric.dims
    initSeen := false
    initAcked := false
    sticky := x.sticky + (if bits x.sticky.toNat 31 16 = 0xFFFF then 0#32 else 0x10000#32)
    replay := []
    seq := 0
    again := none
    controls := []
    credits := List.replicate 8 0
    counters := List.replicate 8 0
    flits := 0
    sinceMgmt := 0
    expect := 0
    asks := 0
    askDue := false
    discarding := false
    unwhole := []
    uncounted := x.waiting.length
    freed := List.replicate 8 0
    told := List.replicate 8 0 }

/-- A port may train: a cable is present and it has a role (R324, R326). -/
def Port.mayTrain (x : Port) : Bool := x.cable && x.role != 0
def State.startPort (s : State) (p : Nat) : State := if (s.port p).mayTrain then s.beginTraining p 1 1 else s

def execPortTrainStart (p : Nat) (s : State) : Result :=
  if p < portCount then if s.portsRun && (s.port p).wantTrain then .next (s.startPort p) else .next s
  else .fault .noSuchPlace

/-- A retrain in service (R328). A port whose role has been rewritten to unused never trains: it leaves service, and is ABSENT (R324,
R326; log 108). -/
def State.retrain (s : State) (p : Nat) : State :=
  if (s.port p).mayTrain then (s.beginTraining p 4 2).stick p 4 else (s.portDown p).modPort p fun x => { x with state := 0 }

/-! ## Training steps (10 R326, R327; 16 R516) -/

/-- What the cable record read in step 1 says: byte 32 of port_cable. -/
def cableVerdict (r : StepReport) : Nat :=
  let w := r.cableRecord.toNat
  let limit := match bits w 247 244 with
    | 0 => 20
    | 1 => 50
    | 2 => 300
    | _ => 0
  if !r.cableRead then 2
  else if ((natLE 32 w).map BitVec.toNat).sum % 256 != 0 then 3
  else if bits w 255 248 != 1 || decide (2 < bits w 247 244) || decide (limit < bits w 243 232) || bits w 231 228 != 5 then 4
  else 1

/-- The lanes in use when the given lanes are good (bit 4 the spare), and whether at half width. -/
def lanesChosen (good : BitVec 5) : Option (Nat × Bool) :=
  let g := (List.range 5).filter good.toNat.testBit
  if 4 ≤ g.length then some (((g.take 4).map (2 ^ ·)).sum, false)
  else if 2 ≤ g.length then some (((g.take 2).map (2 ^ ·)).sum, true)
  else none

/-- Step 6 is over: the port is in service, and the lanes chosen come into use; none is in use before (R326). -/
def State.enterService (s : State) (p : Nat) : State :=
  let l := (lanesChosen (s.port p).good).getD (0, false)
  let s1 := s.modPort p fun x => { x with state := if l.2 then 3 else 2, step := 0, lanes := l.1 }
  if l.2 then s1.stick p 1 else s1

def execTrainingStepComplete (p : Nat) (r : StepReport) (s : State) : Result :=
  if p < portCount then
    let x := s.port p
    match if s.portsRun then x.step else 0 with
    | 1 =>
      let v := cableVerdict r
      let s1 := s.modPort p fun x => { x with cableState := v, record := if r.cableRead then r.cableRecord else 0, step := 2 }
      .next (if v = 1 then s1 else s1.portDown p)
    | 2 => .next (s.modPort p fun x => { x with step := 3 })
    | 3 => .next (s.modPort p fun x => { x with good := r.lanesGood, step := 4 })
    | 4 =>
      match lanesChosen x.good with
      | none => .next (s.portDown p)
      | some (l, _) =>
        let s1 := s.modPort p fun x => { x with step := 5 }
        .next (if l.testBit 4 then s1.stick p 0 else s1)
    | 5 => .next (s.modPort p fun x => { x with step := 6, controls := [1] })
    | 6 => .next (if x.initSeen && x.initAcked then s.enterService p else s)
    | _ => .next s
  else .fault .noSuchPlace

def execTrainingStepTimeout (p : Nat) (s : State) : Result :=
  if p < portCount then .next (if !s.portsRun || (s.port p).step = 0 then s else s.portDown p) else .fault .noSuchPlace

/-- A lane's equalisation has left the limits found in training: as a retrain (15 R478). -/
def execEqualisationOutOfLimits (p lane : Nat) (s : State) : Result :=
  if p < portCount ∧ lane < 5 then
    .next (if s.portsRun && s.portUp p && (s.port p).lanes.testBit lane then
      (s.retrain p).modPort p fun x => { x with limits := 2 ^ lane } else s)
  else .fault .noSuchPlace

/-! ## What every flit carries (10 R332, R334) -/

/-- An acknowledgement: the flits up to it leave the replay buffer. -/
def ackFlits (a : Nat) (l : List SentFlit) : List SentFlit :=
  if l.any fun f => f.seq = a then (l.dropWhile fun f => f.seq != a).drop 1 else l
/-- A cumulative credit counter taken. -/
def Port.credit (x : Port) (pair c : Nat) : Port :=
  { x with credits := lset x.credits pair (lget x.credits pair 0 + (c + 65536 - lget x.counters pair 0) % 65536),
           counters := lset x.counters pair c }
/-- The counters that a flit carries are taken; a flit to be sent again that its acknowledgement covers is not, so that none is sent
twice to a receiver that accepts it (R332). -/
def Port.takeCounters (x : Port) (f : BitVec 2048) : Port :=
  let kept := ackFlits (fAck f) x.replay
  ({ x with replay := kept, again := x.again.filter fun q => kept.any (·.seq = q) }.credit (fCpa f) (fCca f)).credit (fCpb f) (fCcb f)

/-- A damaged or out-of-sequence flit: a replay request is owed and what follows is discarded; the sixteenth for one number
retrains the port (R328, R332). -/
def State.askReplay (s : State) (p : Nat) : State :=
  let n := (s.port p).asks + 1
  let s1 := s.modPort p fun x => { x with askDue := true, discarding := true, asks := n }
  if 16 ≤ n then s1.retrain p else s1

/-- A flit that is damaged asks for a replay; one in service that is intact and not discarded is taken by `f`. -/
def onFlit (p : Nat) (flit : BitVec 2048) (fecOk : Bool) (kind : Nat) (s : State) (f : State → State) : Result :=
  if p < portCount then
    if !s.portsRun || !s.portUp p || fKind flit != kind then .next s
    else
      let s1 := if fecOk then s else s.stick p 6
      if !fecOk || !crcOk flit then .next (s1.askReplay p)
      else .next (f s1)
  else .fault .noSuchPlace

/-! ## Messages out of flit bodies (10 R336) -/

/-- Units of a message's data. -/
def dataLen (hdr : BitVec 256) : Nat :=
  let m : Msg := ⟨hdr, []⟩
  if carriesData (mOp m) (mAbsent m) then mBytes m else 0
/-- The bytes of a unit, the first one highest. -/
def unitBytes (u : BitVec 128) : List Byte := natBE 16 u.toNat

/-- Whole messages at the front of a run of units, and the units left. -/
def cutMessages : Nat → List (BitVec 128) → List (Msg × Nat) × List (BitVec 128)
  | 0, us => ([], us)
  | n + 1, us =>
    match us with
    | a :: b :: r =>
      let hdr : BitVec 256 := BitVec.ofNat 256 (a.toNat <<< 128 + b.toNat)
      let len := dataLen hdr
      let k := (len + 15) / 16
      if r.length < k then ([], us)
      else
        let rest := cutMessages n (r.drop k)
        ((⟨hdr, ((r.take k).flatMap unitBytes).take len⟩, k + 2) :: rest.1, rest.2)
    | _ => ([], us)

/-- A whole message: for this device it waits; for another it is forwarded, and holds its
buffer until its last unit leaves (R355); one of no known operation is discarded. -/
def State.messageIn (s : State) (p pair : Nat) (m : Msg) (units : Nat) : State :=
  if (opChannel (mOp m)).isNone then (s.protocolError p).freeUnits p pair units
  else if mTdev m = s.deviceNumber then s.modPort p fun x => { x with waiting := x.waiting ++ [(pair, m)] }
  else
    match s.hop m (roleDim (s.port p).liveRole) (pair % 2) with
    | some h => s.hopSend h (some (p, pair, units))
    | none => (s.freeUnits p pair units).noRoute m

/-- A kind-0 flit in sequence: its units join the pair's. -/
def State.acceptFlit (s : State) (p : Nat) (f : BitVec 2048) : State :=
  let pair := 2 * fVc f + fDl f
  let x := (s.port p).takeCounters f
  let us := tget [] pair x.unwhole ++ (List.range (fUsed f)).map (fUnit f)
  let cut := cutMessages (us.length + 1) us
  let s1 := s.modPort p fun _ => { x with
    expect := (x.expect + 1) % 4096
    asks := 0
    discarding := false
    unwhole := if cut.2.isEmpty then terase pair x.unwhole else tset pair cut.2 x.unwhole }
  cut.1.foldl (fun s m => s.messageIn p pair m.1 m.2) s1

/-- A kind-0 flit, or a flit of any kind that touches an uncorrectable codeword: its kind cannot be read, and it is damaged
whatever it was, a control flit among them (R331). -/
def execMessageFlit (p : Nat) (f : BitVec 2048) (fecOk : Bool) (s : State) : Result :=
  if !fecOk && decide (p < portCount) then
    .next (if !s.portsRun then s
      else if s.portUp p then (s.stick p 6).askReplay p
      else if (s.port p).step = 6 then s.stick p 6
      else s)
  else
    onFlit p f fecOk 0 s fun s =>
      if fSeq f = (s.port p).expect then s.acceptFlit p f
      else if (s.port p).discarding then s
      else s.askReplay p

def execNullFlit (p : Nat) (f : BitVec 2048) (fecOk : Bool) (s : State) : Result :=
  onFlit p f fecOk 1 s fun s => if (s.port p).discarding then s else s.modPort p (·.takeCounters f)

def execReplayRequest (p : Nat) (f : BitVec 2048) (fecOk : Bool) (s : State) : Result :=
  onFlit p f fecOk 2 s fun s =>
    if (s.port p).discarding then s
    else s.modPort p fun x =>
      let y := x.takeCounters f
      -- a number not sent yet needs nothing again: new flits follow
      { y with again := if y.replay.any (·.seq = fSeq f) then some (fSeq f) else none, replays := satAdd 32 y.replays 1 }

/-! ## Control flits (10 R327, R335) -/

/-- The role that faces a role. -/
def facing (role : Nat) : Nat := if role % 2 = 1 then role + 1 else role - 1
/-- Dimensions as init carries them: X − 1, Y − 1, Z − 1, highest first. -/
def dimsField (dims : Word) : Nat := pack [(8, dimSize dims 0 - 1), (8, dimSize dims 1 - 1), (8, dimSize dims 2 - 1)]
/-- The coordinates one step away in a role's direction, as init carries them. -/
def State.stepCoord (s : State) (dims : Word) (role : Nat) : Nat :=
  let c (d : Nat) : Nat :=
    let a := coordOf dims s.deviceNumber d
    let n := dimSize dims d
    if roleDim role = some d then (if role % 2 = 1 then (a + 1) % n else (a + n - 1) % n) else a
  pack [(8, c 0), (8, c 1), (8, c 2)]

/-- The peer's init passes every check of R327. -/
def State.initOk (s : State) (p : Nat) (f : BitVec 2048) : Bool :=
  let x := s.port p
  cMode f = s.fabric.mode && cSize f = x.liveSize && cDims f = dimsField x.liveDims &&
  (if x.liveRole = 7 then cDev f = 0xFF && cRole f = 7
   else cRole f = facing x.liveRole && cCoord f = s.stepCoord x.liveDims x.liveRole)

/-- A control flit that is intact, of the row's type; one of an unknown type is a protocol error. -/
def onControl (p : Nat) (f : BitVec 2048) (ctype : Nat) (s : State) (g : State → State) : Result :=
  if p < portCount then
    if !s.portsRun || fKind f != 3 || !(s.portUp p || (s.port p).step = 6) then .next s
    else if !crcOk f then .next (if s.portUp p then s.askReplay p else s)
    else if s.portUp p && (s.port p).discarding then .next s
    else
      let s1 := if s.portUp p then s.modPort p (·.takeCounters f) else s
      if cType f = ctype then .next (g s1)
      else if cType f = 0 ∨ 4 < cType f then .next (s1.protocolError p)
      else .next s
  else .fault .noSuchPlace

def execInit (p : Nat) (f : BitVec 2048) (s : State) : Result :=
  onControl p f 0x01 s fun s =>
    if (s.port p).step != 6 then s.modPort p fun x => { x with controls := x.controls ++ [2] }
    else if s.initOk p f then
      s.modPort p fun x => { x with initSeen := true, peerDev := cDev f, credits := (List.range 8).map (cGrant f), controls := x.controls ++ [2] }
    else (s.stick p 3).portDown p

def execInitAck (p : Nat) (f : BitVec 2048) (s : State) : Result :=
  onControl p f 0x02 s fun s => s.modPort p fun x => { x with initAcked := true }

def execInitResend (p : Nat) (s : State) : Result :=
  if p < portCount then
    .next (if s.portsRun && (s.port p).step = 6 && !(s.port p).initAcked then
      s.modPort p fun x => { x with controls := x.controls ++ [1] } else s)
  else .fault .noSuchPlace

def execRetrainRequest (p : Nat) (f : BitVec 2048) (s : State) : Result :=
  onControl p f 0x03 s fun s => if s.portUp p then s.retrain p else s

/-- A peer's down notice: its counters are taken; the port goes DOWN when it loses lock (R328; log 36). -/
def execDownNotice (p : Nat) (f : BitVec 2048) (s : State) : Result := onControl p f 0x04 s id

def execFecLockLoss (p : Nat) (s : State) : Result :=
  if p < portCount then .next (if s.portsRun && s.portUp p then s.portDown p else s) else .fault .noSuchPlace

/-! ## Sending (10 R330, R332–R335) -/

/-- Receive buffer units of a pair (R333). -/
def bufferUnits (pair : Nat) : Nat := match pair / 2 with
  | 0 => 2048
  | 1 => 2048
  | 2 => 256
  | _ => 512

/-- A flit with everything but its check code as a number, then with it. -/
def sealFlit (w : Nat) : BitVec 2048 := BitVec.ofNat 2048 (w + flitCrc w)

/-- The flit of the given kind, channel, class, number, target and body, with the acknowledgement and the two counters
whose turn it is; and the port after sending it. -/
def Port.flit (x : Port) (kind vc dl seq used tdev body : Nat) : BitVec 2048 × Port :=
  let a := 2 * (x.flits % 4)
  let w := pack [(2, kind), (2, vc), (1, dl), (12, seq), (12, (x.expect + 4095) % 4096), (3, a), (16, lget x.freed a 0), (3, a + 1),
    (16, lget x.freed (a + 1) 0), (10, 0), (4, used), (8, tdev), (7, 0), (1920, body), (32, 0)]
  (sealFlit w, { x with flits := x.flits + 1, told := lset (lset x.told a (lget x.freed a 0)) (a + 1) (lget x.freed (a + 1) 0) })

def State.emit (s : State) (p : Nat) (f : BitVec 2048 × Port) : State :=
  { s.modPort p (fun _ => f.2) with sent := .flit p f.1 :: s.sent }

/-- The body of a control flit. -/
def State.controlBody (s : State) (p ctype : Nat) : Nat :=
  let x := s.port p
  let at' (d : Nat) : Nat := coordOf x.liveDims s.deviceNumber d
  pack ([(8, ctype), (8, s.deviceNumber), (4, p), (4, x.liveRole), (1, s.fabric.mode), (7, x.liveSize - 1),
    (24, dimsField x.liveDims), (8, at' 0), (8, at' 1), (8, at' 2)] ++
    (List.range 8).map (fun i => (12, bufferUnits i)) ++ [(16, 0), (1728, 0)])

/-- The first message waiting of a pair, and whether the pair may send. -/
def Port.pairHead (x : Port) (pair : Nat) : Option OutMsg := x.out.find? fun m => 2 * m.vc + m.dl = pair
def Port.pairReady (x : Port) (pair : Nat) : Bool := (x.pairHead pair).isSome && decide (0 < lget x.credits pair 0)
/-- The pair of a channel that sends next: the one whose message has waited longest. -/
def Port.vcPair (x : Port) (vc : Nat) : Option Nat :=
  (x.out.find? fun m => m.vc = vc && x.pairReady (2 * m.vc + m.dl)).map fun m => 2 * m.vc + m.dl

/-- The pair to send (R333): sync, replies, requests; management at least once in 32 slots. -/
def Port.nextPair (x : Port) : Option Nat :=
  let order := if 31 ≤ x.sinceMgmt then [3, 2, 1, 0] else [2, 1, 0, 3]
  order.findSome? x.vcPair

/-- Units of the messages of a pair taken in order, at most `room`, of one target device: the units, the messages they
belong to, and the messages left with their progress. -/
def takeUnits : Nat → Nat → Option Nat → List OutMsg → List (BitVec 128) × List OutMsg × List OutMsg
  | _, _, _, [] => ([], [], [])
  | room, pair, dev, m :: ms =>
    if room = 0 then ([], [], m :: ms)
    else if 2 * m.vc + m.dl != pair then
      let r := takeUnits room pair dev ms
      (r.1, r.2.1, m :: r.2.2)
    else if dev.elim false (· != m.tdev) then ([], [], m :: ms)
    else
      let us := (m.msg.units.drop m.sent).take room
      if us.length + m.sent < m.msg.units.length then (us, [m], { m with sent := m.sent + us.length } :: ms)
      else
        let r := takeUnits (room - us.length) pair (some m.tdev) ms
        (us ++ r.1, m :: r.2.1, r.2.2)

def bodyOf (us : List (BitVec 128)) : Nat :=
  pack (us.map (fun u => (128, u.toNat)) ++ [(1920 - 128 * us.length, 0)])

/-- The messages that may leave: those that a repeating ring seam holds on their way from the port they came by do not, nor does any
behind them of their pair (01 R16). -/
def mayGo (held : OutMsg → Bool) : List Nat → List OutMsg → List OutMsg
  | _, [] => []
  | ps, m :: ms =>
    if ps.contains (2 * m.vc + m.dl) || held m then mayGo held ((2 * m.vc + m.dl) :: ps) ms else m :: mayGo held ps ms
def State.goes (s : State) (p : Nat) : List OutMsg :=
  mayGo (fun m => m.holds.elim false fun h => s.wayHeld (.port h.1) (.port p)) [] (s.port p).out

/-- A new kind-0 flit of a pair. -/
def State.sendNew (s : State) (p pair : Nat) : State :=
  let x := s.port p
  let may := s.goes p
  let r := takeUnits (min 15 (lget x.credits pair 0)) pair none may
  let left := x.out.filterMap fun m => if may.any (·.uid = m.uid) then r.2.2.find? (·.uid = m.uid) else some m
  let tdev := (x.pairHead pair).elim 0 (·.tdev)
  let body := bodyOf r.1
  let kept : SentFlit := { seq := x.seq, vc := pair / 2, dl := pair % 2, tdev := tdev, used := r.1.length,
                           body := BitVec.ofNat 1920 body, carries := r.2.1.map fun m => { m with holds := none } }
  let x1 : Port := { x with
    out := left
    replay := x.replay ++ [kept]
    seq := (x.seq + 1) % 4096
    credits := lset x.credits pair (lget x.credits pair 0 - r.1.length)
    sinceMgmt := if pair / 2 = 3 then 0 else x.sinceMgmt + 1 }
  -- messages whose last unit leaves hold no receive buffer any more
  let gone := r.2.1.filter fun m => !r.2.2.any fun k => k.uid = m.uid
  gone.foldl (fun s m => s.unheld m) (s.emit p (x1.flit 0 (pair / 2) (pair % 2) x.seq r.1.length tdev body))

/-- The next flit of a port: a replay request owed, flits to be sent again, control flits, a new flit, a null flit. -/
def State.sendFlit (s : State) (p : Nat) : State :=
  let x := s.port p
  if x.askDue then s.emit p ({ x with askDue := false }.flit 2 0 0 x.expect 0 0 0)
  else
    match x.again.bind fun q => x.replay.find? fun f => f.seq = q with
    | some f =>
      let more := x.replay.any fun g => g.seq = (f.seq + 1) % 4096
      s.emit p ({ x with again := if more then some ((f.seq + 1) % 4096) else none }.flit 0 f.vc f.dl f.seq f.used f.tdev f.body.toNat)
    | none =>
      match x.controls with
      | c :: cs => s.emit p ({ x with controls := cs, again := none }.flit 3 0 0 x.seq 0 0 (s.controlBody p c))
      | [] =>
        match if x.up && x.replay.length < 512 then { x with out := s.goes p }.nextPair else none with
        | some pair => s.sendNew p pair
        | none => if x.up && x.freed != x.told then s.emit p (x.flit 1 0 0 x.seq 0 0 0) else s

def execFlitTransmit (p : Nat) (s : State) : Result :=
  if p < portCount then .next (if s.portsRun && (s.portUp p || (s.port p).step = 6) then s.sendFlit p else s) else .fault .noSuchPlace

end Sys2Proof.Machine
end

