-- ==== Sys2Proof/Machine/Fabric.lean ====
section
/-!
DEFINITION. Messages of the fabric (spec/10 R337, R338, R348–R356): requests at their target device, replies at the source,
and time-outs.
-/
namespace Sys2Proof.Machine

/-! ## The head of a receive buffer -/

def Port.headOf (x : Port) (pair : Nat) : Option Msg := (x.waiting.find? fun w => w.1 = pair).map (·.2)

/-- The oldest message of a pair taken out of its buffer, its units freed. -/
def State.takeMsg (s : State) (p pair : Nat) (m : Msg) : State :=
  let x := s.port p
  let i := (x.waiting.findIdx? fun w => w.1 = pair).getD 0
  let s1 := s.modPort p fun x => { x with
    waiting := x.waiting.eraseIdx i
    uncounted := if i < x.uncounted then x.uncounted - 1 else x.uncounted }
  if i < x.uncounted then s1 else s1.freeUnits p pair ((dataLen m.hdr + 15) / 16 + 2)

/-- A reply of operation `op` answers a request of operation `q`. -/
def answersOp (op q : Nat) : Bool :=
  match op with
  | 0x21 => q = 1
  | 0x23 => q = 3
  | 0x22 => q = 2 || q = 4 || q = 5 || q = 6 || q = 7
  | _ => q != 7

/-- The request a reply answers. -/
def State.answered (s : State) (m : Msg) : Option Request :=
  s.fabric.requests.find? fun r =>
    r.sent && mTdev r.msg = mSdev m && mReqid r.msg = mReqid m && mCtx r.msg = mCtx m && mEpoch r.msg = mEpoch m &&
    mChan r.msg = mChan m && mAddr r.msg = mAddr m && mTag r.msg = mTag m && answersOp (mOp m) (mOp r.msg)

/-- Where a message for this device goes from its port: the home of what it addresses, or the tile whose request it answers. -/
def State.msgPlace (s : State) (m : Msg) : Option Place :=
  if decide (1 ≤ mOp m) && decide (mOp m ≤ 4) then some (s.homePlace (mAddr m))
  else if mOp m = 5 then some (.die (s.redHome (tfind (mRid m) s.reds) (mAddr m)))
  else if mOp m = 6 then some (.die (mAddr m % 8))
  else if decide (0x21 ≤ mOp m) && decide (mOp m ≤ 0x24) then
    (s.answered m).bind fun r => if r.engine < 8 then some (.tile r.tile) else none
  else none
/-- A seam repeats a transfer on a message's way from its port, or on its reply's way to the port that it leaves by (01 R16; log
52). -/
def State.messageHeld (s : State) (p : Nat) (m : Msg) : Bool :=
  (s.msgPlace m).elim false fun w =>
    s.wayHeld (.port p) w ||
    (decide (mOp m ≤ 6) && (s.hop (replyTo m 0x22 0 1 0 0 []) none 0).elim false fun h => s.wayHeld w (.port h.port))

/-- A row's message at the head of channel vc and class dl of a port; `waits` holds it there. -/
def onMessage (p dl op : Nat) (s : State) (waits : Msg → State → Bool) (f : Msg → State → State) : Result :=
  if p < portCount ∧ dl < 2 then
    match opChannel op with
    | none => .next s
    | some vc =>
      match (s.port p).headOf (2 * vc + dl) with
      | none => .next s
      | some m =>
        if mOp m != op || !s.serving || s.alarmWaits (0x810 + portDie p) || s.messageHeld p m || waits m s then .next s
        else .next (f m (s.takeMsg p (2 * vc + dl) m))
  else .fault .noSuchPlace

def noWait : Msg → State → Bool := fun _ _ => false

/-! ## Protection at the target (10 R348–R350) -/

/-- Every byte addressed is memory the request may reach; a quarantined tile's store is not (log 37). -/
def State.reachable (s : State) (c a n : Nat) : Bool :=
  (if s.fabric.protect = 1 then decide (a + n ≤ 2 ^ 48) && (pagesOf a n).all fun p => s.place (p * 4096) != .nothing
   else (s.memFault c a n).isNone) &&
  match s.place a with
  | .store t _ => !(s.tile t).faulty
  | _ => true

/-- The status of a guarded region's refusal. -/
def State.guardStatus (s : State) (c : Nat) (m : Msg) (write : Bool) (a n : Nat) : Option Nat :=
  (s.guardBad c (streamOf (mStream m)) write a n).map fun b => if b.reason = 0x22 then 2 else 3

/-- What the checks of R348–R350 answer for an access to memory: a refusal's status. -/
def State.accessStatus (s : State) (c : Nat) (m : Msg) (write : Bool) (n : Nat) : Option Nat :=
  if !s.reachable c (mAddr m) n then some 1
  else
    match s.guardStatus c m write (mAddr m) n with
    | some x => some x
    | none => if write && s.extentBadAt (mAddr m) m.data then some 3 else none

/-! ## Epochs and request IDs at the target (10 R351, R352, R354) -/

def epochKey (m : Msg) : Nat := 256 * mSdev m + mCtx m
/-- The message's epoch is older than the newest one seen. -/
def State.oldEpoch (s : State) (m : Msg) : Bool :=
  match tfind (epochKey m) s.fabric.epochs with
  | some e => decide (128 ≤ (mEpoch m + 256 - e) % 256)
  | none => false
def State.takeEpoch (s : State) (m : Msg) : State :=
  if s.oldEpoch m then s else { s with fabric := { s.fabric with epochs := tset (epochKey m) (mEpoch m) s.fabric.epochs } }

/-- A reply on its way back. -/
def State.answerMsg (s : State) (r : Msg) : State := s.route r none 0

/-- A write-class request's ID is used up, with its outcome kept in the replay filter. -/
def State.consumeId (s : State) (key : Nat) (m r : Msg) : State :=
  let f := s.fabric
  { s with fabric := { f with
      expect := tset key ((mReqid m + 1) % 65536) f.expect
      filters := tset key (((mReqid m, r) :: tget [] key f.filters).take 1024) f.filters } }

/-- A write-class request behind the expected ID: answered as before, or stale. -/
def State.replayed (s : State) (key : Nat) (m : Msg) : State :=
  match (tget [] key s.fabric.filters).find? fun e => e.1 = mReqid m with
  | some e =>
    { s with fabric := { s.fabric with filterHits := satAdd 32 s.fabric.filterHits 1 } }.answerMsg e.2
  | none =>
    let s1 := { s with fabric := { s.fabric with staleIds := satAdd 32 s.fabric.staleIds 1 } }
    (s1.alarm 0x0C 0x810 0 (natLE 32 m.hdr.toNat)).answerMsg (nakTo m 8 0)

/-- A write-class request in sequence is applied by `f`, which gives its reply and the state, or no answer. -/
def State.sequenced (s : State) (m : Msg) (cls : Nat) (f : Nat → State → Option Msg × State) : State :=
  let key := 2 * mSdev m + cls
  let exp := tget 0 key s.fabric.expect
  let d := (mReqid m + 65536 - exp) % 65536
  let s1 := s.takeEpoch m
  if d = 0 then
    if s.oldEpoch m then (s1.consumeId key m (nakTo m 10 0)).answerMsg (nakTo m 10 0)
    else
      match s1.localCtx m with
      | none => (s1.consumeId key m (nakTo m 1 0)).answerMsg (nakTo m 1 0)
      | some c =>
        match f c s1 with
        | (some r, s2) => (s2.consumeId key m r).answerMsg r
        | (none, s2) => s2
  else if d < 32768 then s1.answerMsg (nakTo m 9 exp)
  else s1.replayed key m

/-! ## Requests at the target -/

/-- A write of a message's data must wait for room in a snapshot reserve (06 R216). -/
def writeWaits (m : Msg) (s : State) : Bool :=
  match s.localCtx m with
  | some c => !s.reserveRoom { ctx := c } (mAddr m) (mBytes m)
  | none => false

/-- An uncorrectable error that a fabric request meets; the request is not answered (13 R415). -/
def State.fabricUe (s : State) (b : Nat) : State := s.ueError .fabric b (s.dataOwner b) (whereCode (s.place b))

def execRd (p dl : Nat) (ecc : Ecc) (s : State) : Result :=
  onMessage p dl 0x01 s noWait fun m s =>
    let s1 := s.takeEpoch m
    if s.oldEpoch m then s1.answerMsg (nakTo m 10 0)
    else
      match s1.localCtx m with
      | none => s1.answerMsg (nakTo m 1 0)
      | some c =>
        match s1.accessStatus c m false (mBytes m) with
        | some x => s1.answerMsg (nakTo m x 0)
        | none =>
          let s2 := (s1.hotLine (mAddr m) (mBytes m)).eccCheck ecc (mAddr m)
          match s2.badBlock (mAddr m) (mBytes m) with
          | some b => s2.fabricUe b
          | none => s2.answerMsg (replyTo m 0x21 0 (mBytes m) 0 0 (s2.loadBytes (mAddr m) (mBytes m)))

def execWr (p dl : Nat) (s : State) : Result :=
  onMessage p dl 0x02 s writeWaits fun m s =>
    s.sequenced m 0 fun c s =>
      match s.accessStatus c m true (mBytes m) with
      | some x => (some (nakTo m x 0), s)
      | none =>
        let s1 := ((s.hotLine (mAddr m) (mBytes m)).countForeign m c).writeHome { ctx := c } (mAddr m) m.data
        match s.landErr { ctx := c } (mAddr m) m.data with
        | some b => (none, s1.fabricUe b)
        | none => (some (replyTo m 0x22 0 1 0 0 []), s1)

/-- An atomic of another device (R309, R350); the reply carries the old value where it is wanted. -/
def State.fabricAtom (s : State) (m : Msg) (ecc : Ecc) (returning : Bool) : State :=
  s.sequenced m 0 fun c s =>
    let w := atomWidth (mAtype m)
    if mAddr m < scratchBase ∨ mAddr m % w != 0 then (some (nakTo m 1 0), s)
    else
      match s.accessStatus c m true w with
      | some x => (some (nakTo m x 0), s)
      | none =>
        let s0 := (s.hotLine (mAddr m) w).eccCheck ecc (mAddr m)
        match s0.changeBad { ctx := c } (mAddr m) w with
        | some b => (none, s0.fabricUe b)
        | none =>
          let operand := if mAtype m = 3 then mOp1 m * 2 ^ 32 + mOp0 m else mOp0 m
          let r := (s0.countForeign m c).atomApply { ctx := c } (atomOf (mAop m)) (mAtype m) (mAddr m) operand (mOp1 m)
          let reply := if returning then replyTo m 0x23 0 1 (r.1 % 2 ^ 32) (r.1 / 2 ^ 32) [] else replyTo m 0x22 0 1 0 0 []
          (some reply, r.2)

def execAtom (p dl : Nat) (ecc : Ecc) (s : State) : Result :=
  onMessage p dl 0x03 s writeWaits fun m s => s.fabricAtom m ecc true
def execAtomn (p dl : Nat) (ecc : Ecc) (s : State) : Result :=
  onMessage p dl 0x04 s writeWaits fun m s => s.fabricAtom m ecc false

/-- The FP32 bits a contribution's data give. -/
def rdcVals (m : Msg) : List Word :=
  if mAtype m = 1 then (unpack 2 (m.data.length / 2) m.data).map bf16Word
  else (unpack 9 (m.data.length / 4) m.data).map (BitVec.ofNat 32)

/-- The messages of one contribution: their sender's device, context, tile and stream (log 32). -/
def rdcKey (m : Msg) : Nat := ((mSdev m * 256 + mCtx m) * 2048 + mOp1 m / 8 % 2048) * 4 + mStream m
/-- The elements of a contribution up to a message: those kept of the messages before it, and its own. -/
def State.rdcSoFar (s : State) (m : Msg) : List Word :=
  (if (mOp1 m).testBit 2 then [] else (tget (0, []) (rdcKey m) s.fabric.gathers).2) ++ rdcVals m
/-- The first element of a contribution whose messages up to this one hold `k` elements. -/
def rdcFirst (m : Msg) (k : Nat) : Nat := mAddr m + (rdcVals m).length - k
/-- More messages of the contribution follow. -/
def rdcMore (m : Msg) : Bool := mOp1 m % 2 = 1

/-- A contribution that writes must wait for room in a snapshot reserve (06 R216). -/
def rdcWaits (m : Msg) (s : State) : Bool :=
  match s.localCtx m with
  | some c =>
    let k := (s.rdcSoFar m).length
    !rdcMore m && !s.reserveFor { ctx := c } (redWrites (tfind (mRid m) s.reds) (rdcFirst m k) k)
  | none => false

/-- A contribution of another device, all of whose elements are there: taken whole or refused whole (09 R311, R313–R315; 10 R350). The
choices are counted under the determinism mode of the local context (12 R382). -/
def State.rdcApply (s : State) (m : Msg) (c first : Nat) (vals : List Word) (ecc : Ecc) : Option Msg × State :=
  let mayVary := (mOp1 m).testBit 1
  if !s.ridOk c (mRid m) then (some (nakTo m 6 0), s)
  else
    match redRefuses (tfind (mRid m) s.reds) first (max vals.length (mOp0 m)) mayVary, tfind (mRid m) s.reds with
    | 0, some r =>
      match s.guardStatus c m true (redTarget r.desc + first * rdWidth r.desc) (vals.length * rdWidth r.desc) with
      | some x => (some (nakTo m x 0), s)
      | none =>
        match s.redReads { ctx := c } ecc (mRid m) first vals.length r with
        | (s1, some b) => (none, s1.ueError .fabric b (if redArrival r.desc then s1.dataOwner b else some r.ctx) (s1.redWhere r b))
        | (s1, none) =>
          (some (replyTo m 0x22 0 1 0 0 []), s1.contribute (mRid m) first vals (!mAbsent m) true { ctx := c }
            (s1.redChoices (mRid m) first (max vals.length (mOp0 m)) (s.ctx c).detMode mayVary))
    | 5, _ => (some (nakTo m 5 0), s)
    | _, _ => (some (nakTo m 6 0), s)

/-- A message of a contribution of another device. op0 is the count of elements from the message's first to the command's last; op1
says whether more messages of the command follow, its may_vary bit, whether this is its first, and its tile (log 32). The elements of
all but the last message are kept until the last has come. -/
def execRdc (p dl : Nat) (ecc : Ecc) (s : State) : Result :=
  onMessage p dl 0x05 s rdcWaits fun m s =>
    s.sequenced m 0 fun c s =>
      let vals := s.rdcSoFar m
      let put (g : Table (Nat × List Word)) : State := { s with fabric := { s.fabric with gathers := g } }
      if rdcMore m then (some (replyTo m 0x22 0 1 0 0 []), put (tset (rdcKey m) (c, vals) s.fabric.gathers))
      else (put (terase (rdcKey m) s.fabric.gathers)).rdcApply m c (rdcFirst m vals.length) vals ecc

def execSig (p dl : Nat) (s : State) : Result :=
  onMessage p dl 0x06 s noWait fun m s =>
    s.sequenced m 1 fun c s =>
      let g := mAddr m % 65536
      if !s.gtallyOk c g then (some (nakTo m 4 0), s)
      else
        let cyc := s.cycle (0x810)
        (some (replyTo m 0x22 0 1 0 0 []),
          cyc.2.signalAt (.die (g % 8)) g (mOp0 m)
            { src := 3, stream := mStream m, origin := mSdev m, tag := mTag m, cycles := cyc.1, add := mOp0 m })

/-- An EPOCH message: the source context's new epoch is taken and acknowledged (R354). -/
def execEpoch (p dl : Nat) (s : State) : Result :=
  onMessage p dl 0x07 s noWait fun m s => (s.takeEpoch m).answerMsg (replyTo m 0x22 0 1 0 0 [])

/-! ## Replies at the source (10 R337, R338, R351, R353) -/

/-- The reply comes too late for its context or its channel (13 R407; 01 R44). -/
def State.lateReply (s : State) (m : Msg) : Bool :=
  (mCtx m != 0 && mEpoch m != (s.ctx (mCtx m)).epoch) ||
  (mChan m != 0 && (tget {} (mChan m / 65536) s.chans).gen != mChan m % 65536)

/-- A reply's row: the request it answers is retired, and `f` gives what the reply brings. -/
def onReply (p dl op : Nat) (s : State) (f : Request → Msg → State → State) : Result :=
  onMessage p dl op s noWait fun m s =>
    match s.answered m with
    | none => s
    | some r =>
      let s1 := s.dropRequest r.uid
      (if s.lateReply m then s1.countDrop else f r m s1).sendWaiting

def execRdr (p dl : Nat) (s : State) : Result :=
  onReply p dl 0x21 s fun r m s => s.dataFor r.tile r.stream r.uid m.data

/-- An ACK ends a write's wait, or that of a reset for its EPOCH (R354). -/
def execAck (p dl : Nat) (s : State) : Result :=
  onReply p dl 0x22 s fun r m s =>
    if mOp r.msg = 0x07 then
      s.modCtx (mCtx m) fun c => { c with resetting := c.resetting.map fun x => { x with awaited := x.awaited.erase (mSdev m) } }
    else s.ackFor r.tile r.stream r.uid

def execAtr (p dl : Nat) (s : State) : Result :=
  -- the atomic counts as acknowledged for a fence (08 R270)
  onReply p dl 0x23 s fun r m s => (s.answerFor r.tile r.stream r.uid r.entry [mOp1 m * 2 ^ 32 + mOp0 m]).acked r.tile r.uid

/-- The distance of a request ID from another. -/
def idAhead (a b : Nat) : Nat := (a + 65536 - b) % 65536

/-- NAK status 9: every unanswered write-class request of the sequence goes out again from the ID named, in order. -/
def State.resendFrom (s : State) (key id : Nat) : State :=
  (s.fabric.requests.filter fun r => r.write && r.sent && seqKey r = key && decide (idAhead (mReqid r.msg) id < 32768)).foldl
    (fun s r => s.route r.msg none 0) s

def execNak (p dl : Nat) (s : State) : Result :=
  onMessage p dl 0x24 s noWait fun m s =>
    match s.answered m with
    | none => s
    | some r =>
      if mStatus m = 9 then s.resendFrom (seqKey r) (mOp1 m)
      else
        let s1 := s.dropRequest r.uid
        let s2 :=
          if s.lateReply m then s1.countDrop
          else
            match nakReason (mStatus m) with
            | some reason => (s1.acked r.tile r.uid).refuseRequest r reason (mStatus m) (mSdev m)
            | none => s1.acked r.tile r.uid
        s2.sendWaiting

/-! ## Time-outs (10 R353, R356) -/

/-- The k-th outstanding request is unanswered after the time-out: sent again, or after the retry limit given up. -/
def execE2eTimeout (k : Nat) (s : State) : Result :=
  match s.fabric.requests[k]? with
  | none => .next s
  | some r =>
    if !r.sent || !s.serving || mOp r.msg = 0x07 then .next s
    else if r.tries < s.fabric.retries then
      let put (q : Request) : Request := if q.uid = r.uid then { q with tries := q.tries + 1 } else q
      .next ({ s with fabric := { s.fabric with requests := s.fabric.requests.map put } }.route r.msg none 0)
    else
      let s1 := s.dropRequest r.uid
      let s2 := if s.lateReply r.msg then s1 else (s1.acked r.tile r.uid).refuseRequest r 0x31 0 0
      .next s2.sendWaiting

/-! ## Records of other devices (13 R420) -/

/-- A TRACE message: a record of another device, on its way to this device's base camp. -/
def execTrace (p dl : Nat) (s : State) : Result :=
  onMessage p dl 0x31 s noWait fun m s =>
    let h := leNat (m.data.take 16)
    let r : Record := { cls := bits h 127 126, kind := bits h 125 120, device := bits h 119 112, source := bits h 111 100,
                        ctx := bits h 99 92, seq := bits h 91 76, cycles := BitVec.ofNat 48 (bits h 75 28),
                        count := bits h 27 16, island := bits h 7 0, body := m.data.drop 16 }
    { s with trouble := { s.trouble with transit := s.trouble.transit ++ [r] } }

end Sys2Proof.Machine
end

