-- ==== Sys2Proof/Machine/Lockstep.lean ====
section
/-!
DEFINITION. Lock-step frames (spec/12 R388, R390, R391), and management messages that are none of them.
-/
namespace Sys2Proof.Machine

/-! ## The frame header (12 R390) -/

/-- A frame's header as a number; its bytes are stored lowest first (log 38). -/
def frameHead (m : Msg) : Nat := leNat (m.data.take 16)
def frType (m : Msg) : Nat := bits (frameHead m) 127 120
def frTile (m : Msg) : Nat := bits (frameHead m) 119 109
def frEngine (m : Msg) : Nat := bits (frameHead m) 108 106
def frStream (m : Msg) : Nat := bits (frameHead m) 105 104
def frWindow (m : Msg) : Nat := bits (frameHead m) 103 72
def frLow (m : Msg) : Nat := bits (frameHead m) 71 8
def frSeq (m : Msg) : Nat := if frEngine m = 7 then 18 + frStream m else 3 * frEngine m + frStream m

/-- The context a frame is for: the one in lock-step with its sender over the port. -/
def State.frameCtx (s : State) (p : Nat) (m : Msg) : Option Nat :=
  (s.ctxs.find? fun e => e.2.state != 0 && lockEnabled e.2.lockstep && lockPort e.2.lockstep = p &&
    lockPartner e.2.lockstep = mSdev m && lockPctx e.2.lockstep = mCtx m).map (·.1)

/-- A row's frame at the head of management and trace on a port. -/
def onFrame (p ftype : Nat) (s : State) (f : Nat → Msg → State → State) : Result :=
  onMessage p 0 0x30 s (fun m s => frType m != ftype || (s.frameCtx p m).isNone) fun m s =>
    match s.frameCtx p m with
    | some c => f c m s
    | none => s

/-! ## The rows -/

/-- A window record: kept until the tile has closed the window too, then compared (R388). -/
def execLockstepWindowRecord (p : Nat) (s : State) : Result :=
  onFrame p 0x01 s fun c m s =>
    let n := frTile m
    let l := s.lockSeq c n (frSeq m)
    let put (l : LockSeq) (s : State) : State := s.setLockSeq n (frSeq m) l
    match l.closed.find? fun w => w.number = frWindow m with
    | none => put { l with early := l.early ++ [(frWindow m, frLow m)] } s
    | some w =>
      let w1 : LockWindow := { w with theirs := some (frLow m) }
      let s1 := put { l with closed := l.closed.map fun v => if v.number = w.number then w1 else v } s
      s1.lockCompare n (frSeq m) w1

/-- The first index at which two lists of digests differ. -/
def firstDiff : Nat → List Nat → List Nat → Nat
  | i, a :: as, b :: bs => if a = b then firstDiff (i + 1) as bs else i
  | i, _, _ => i

/-- The partner's digests of a window, in order, as far as they have come. -/
def theirDigests (w : LockWindow) : List Nat :=
  ((List.range (w.list.length)).map fun i => (w.list.find? fun e => e.1 = i).map (·.2)).reduceOption

/-- A digest list: once it covers the window, or has ended, be it with a part frame or with all the digests of which the partner's
window digest is made, the first differing command halts its stream, every other stream
of the context halts with it, and the partner is told (R391; log 39). -/
def execLockstepDigestList (p : Nat) (s : State) : Result :=
  onFrame p 0x02 s fun c m s =>
    let n := frTile m
    let q := frSeq m
    let l := s.lockSeq c n q
    let ds := (chunksOf 32 ((m.data.length - 16) / 4) (leNat (m.data.drop 16))).mapIdx fun i d => (frLow m / 2 ^ 52 + i, d)
    match l.closed.find? fun w => w.number = frWindow m with
    | none => s
    | some w =>
      let w1 : LockWindow := { w with list := w.list ++ ds }
      let l1 : LockSeq := { l with closed := l.closed.map fun v => if v.number = w.number then w1 else v }
      let s1 := s.setLockSeq n q l1
      if w1.list.length < w1.digests.length && ds.length = 60 && w1.theirs != some (windowDigest (theirDigests w1)) then s1
      else
        let i := firstDiff 0 w1.digests (theirDigests w1)
        let r := lget w1.records i (0, 0, 0, 0)
        let h : Halt := { reason := 0x41, unit := if q < 18 then q / 3 else 0, tag := r.2.2.2, chan := BitVec.ofNat 32 r.1,
                          address := r.2.1 * 2 ^ 48 + r.2.2.1,
                          detail := pack [(2, 0), (12, w1.number), (4, 0), (12, i)] }
        ((s1.halt n (seqStream q) h).lockHalt c 3).lockStop c 3

/-- A stop frame: every stream of the context halts with cause 1 (R391). -/
def execLockstepStop (p : Nat) (s : State) : Result := onFrame p 0x03 s fun c _ s => s.lockHalt c 1

/-- A management message that is no frame of an existing lock-step context is discarded as a protocol error (R390). -/
def execMgmt (p dl : Nat) (s : State) : Result :=
  onMessage p dl 0x30 s
    (fun m s => dl = 0 && (frType m = 1 || frType m = 2 || frType m = 3) && (s.frameCtx p m).isSome)
    fun _ s => s.protocolError p

end Sys2Proof.Machine
end

