-- ==== Sys2Proof/Machine/Faults.lean ====
section
/-!
DEFINITION. Hardware faults (spec/13 R409–R413; spec/01 R16), losses on the management network (spec/13 R422) and the debugger's
halt and resume (spec/02 R83).
-/
namespace Sys2Proof.Machine

/-! ## Tiles (13 R409) -/

def setInsert (l : List Nat) (n : Nat) : List Nat := if l.contains n then l else n :: l

/-- A tile's hardware fault: its island stops, its owner's streams on it halt, teams over it are quarantined. -/
def State.tileFault (s : State) (n cause : Nat) : State :=
  let c := s.owner n
  let s1 := if s.owned n then
      allStreams.foldl (fun s st => s.halt n st { reason := 0x51, detail := pack [(1, 0), (5, cause), (24, 0)] }) s
    else s
  let covering := s.teamsOver n
  let mark (k : Nat) (d : BitVec 128) : BitVec 128 := if covering.contains k then withField d 125 1 1 else d
  let s2 := { s1 with teams := tmap mark s1.teams, trouble := { s1.trouble with outOfService := setInsert s1.trouble.outOfService n } }
  let s3 := s2.modCtx c fun x => { x with resetting := x.resetting.map fun r => { r with quarantined := r.quarantined + 1 } }
  (s3.modTile n fun t => { t with faulty := true }).alarm 0x05 n c (natLE 16 (pack [(11, n), (8, c), (5, cause), (104, 0)]))

def execTileHardwareFault (n cause : Nat) (s : State) : Result :=
  if n < 2048 ∧ cause < 4 then .next (if s.alive n then s.tileFault n cause else s) else .fault .noSuchPlace

/-! ## Devices (13 R413) -/

/-- A context stop with the given reason and detail for every stream; nothing where the context is not live (R399). -/
def State.stopWith (s : State) (c reason detail seq : Nat) : State :=
  if (s.ctx c).state = 1 && c != 0 then (s.haltAll c { reason := reason, detail := detail }).stopContext c reason seq else s

/-- Where a faulty die's alarm comes from. -/
def dieSource (die : Nat) : Nat := if 24 ≤ die ∧ die < 28 then 0x810 + (die - 24) else if 16 ≤ die ∧ die < 24 then 0x800 + (die - 16) else 0x820

/-- A device fault: its record and alarm, every context stops, none is created, a faulty port die's ports go DOWN. -/
def State.deviceFault (s : State) (die seam cause : Nat) : State :=
  let seq := s.nextSeq (dieSource die) 0
  let r := BitVec.ofNat 128 (pack [(1, 1), (5, die), (6, seam), (8, cause), (16, seq), (92, 0)])
  let s1 := { s with trouble := { s.trouble with deviceFault := r, faulted := true } }
  let s2 := s1.alarm 0x07 (dieSource die) 0 (natLE 16 r.toNat)
  let s3 := (s2.ctxs.map (·.1)).foldl (fun s c => s.stopWith c 0x51 (pack [(1, 1), (5, die), (24, 0)]) seq) s2
  if 24 ≤ die ∧ die < 28 then (List.range 3).foldl (fun s i => s.portDown (3 * (die - 24) + i)) s3 else s3

/-- A checker of a cache die (16–23) or port die (24–27). -/
def execDieCheckerFire (die : Nat) (s : State) : Result :=
  if 16 ≤ die ∧ die < 28 then .next (if s.serving then s.deviceFault die 0 (if die < 24 then 0x02 else 0x03) else s)
  else .fault .noSuchPlace

/-! ## Seams (01 R16; 13 R412, R426) -/

def State.seamRecord (s : State) (seam : Nat) : BitVec 256 := tget 0 seam s.trouble.seams
def State.setRepeats (s : State) (seam dir n : Nat) : State :=
  { s with trouble := { s.trouble with repeats := tset (seamKey seam dir) n s.trouble.repeats } }
def State.setSeam (s : State) (seam : Nat) (r : BitVec 256) : State :=
  { s with trouble := { s.trouble with seams := tset seam r s.trouble.seams } }

/-- One more repeat of the transfer under way, where `f` says what that repeat does. -/
def onSeam (seam dir : Nat) (s : State) (f : Nat → State → Option State) : Result :=
  if seam < seamCount ∧ dir < 2 then
    let k := s.seamRepeats seam dir + 1
    if !s.serving || decide (1024 < k) then .next s
    else
      match f k (s.setRepeats seam dir k) with
      | some t => .next t
      | none => .next s
  else .fault .noSuchPlace

/-- A repeat in place, neither the 16th nor the 1024th. -/
def execSeamTransferError (seam dir : Nat) (s : State) : Result :=
  onSeam seam dir s fun k t => if k = 16 ∨ k = 1024 then none else some t

/-- The 16th repeat: the seam repeat alarm. -/
def execSeamRepeatAlarm (seam dir : Nat) (s : State) : Result :=
  onSeam seam dir s fun k t =>
    if k = 16 then
      let r := s.seamRecord seam
      let r1 := withField (withField r 254 1 1) 224 16 (min 0xFFFF (bits r.toNat 239 224 + 1))
      some ((t.setSeam seam r1).alarm 0x06 0x820 0 (natLE 32 r1.toNat))
    else none

/-- The 1024th repeat: the seam has failed. -/
def execSeamFailed (seam dir : Nat) (s : State) : Result :=
  onSeam seam dir s fun k t =>
    if k = 1024 then
      let r1 := withField (s.seamRecord seam) 255 1 1
      some (((t.setSeam seam r1).alarm 0x06 0x820 0 (natLE 32 r1.toNat)).deviceFault 31 seam 0x01)
    else none

/-! ## Losses of logs and traces (13 R422) -/

/-- A loss counted for its source and class. -/
def addGap (r : Record) : List Gap → List Gap
  | [] => [{ source := r.source, cls := r.cls, first := r.seq, last := r.seq, lost := 1 }]
  | g :: gs => if g.source = r.source ∧ g.cls = r.cls then { g with last := r.seq, lost := g.lost + 1 } :: gs else g :: addGap r gs

/-- The oldest log (class 1) or trace (class 2) of a source that is under way is dropped at a hop. -/
def execLogHopDrop (source cls : Nat) (s : State) : Result :=
  if source < 0x1000 ∧ (cls = 1 ∨ cls = 2) then
    let t := s.trouble
    match t.transit.find? fun r => r.source = source && r.cls = cls && r.device = s.deviceNumber with
    | some r => .next { s with trouble := { t with transit := t.transit.erase r, gaps := addGap r t.gaps } }
    | none => .next s
  else .fault .noSuchPlace

/-! ## The debugger (02 R83) -/

/-- A halt the debugger asks for. -/
def execDebugHalt (n : Nat) (st : Stream) (s : State) : Result :=
  if n < 2048 then .next (if s.alive n then s.coreHalt n st 0x42 0 0 else s) else .fault .noSuchPlace

/-- The thread as it leaves HALT (02 R83): behind its EBREAK, or as it stood when the debugger halted it, which may be in
WAIT or in PARK; at its entry in the new bank where it has taken a bank switch meanwhile (R77). -/
def Thread.resumed (t : Thread) (entry : Word) (len : Nat) : Thread :=
  if t.was = .park then { t with run := .park, waitAt := none, atEntry := false }
  else if t.atEntry then { t with run := .run, waitAt := none, released := false, pc := entry, atEntry := false }
  else if t.haltBy = 0x05 then { t with run := .run, pc := t.pc + BitVec.ofNat 32 len }
  else { t with run := t.was }

/-- A stream that EBREAK or the debugger has halted goes on. -/
def execDebugResume (n : Nat) (st : Stream) (s : State) : Result :=
  if n < 2048 then
    let th := s.thread n st
    let len := match s.current n st with
      | some (.ebreak, l) => l
      | _ => 0
    if s.alive n && th.run = .halt && resumable th.haltBy then
      .next ((s.modThread n st fun t => t.resumed (BitVec.ofNat 32 (imemBase + s.bankEntry n t.bank st)) len).ctwaitRetire n st)
    else .next s
  else .fault .noSuchPlace

end Sys2Proof.Machine
end

