-- ==== Sys2Proof/Machine/Ed448.lean ====
section
/-!
DEFINITION. Ed448 of RFC 8032 (spec/00 R5; spec/15 R491, R496, R498) with an empty context string. Its constants are the
publication's (log 13).
-/
namespace Sys2Proof.Machine

/-! ## The field and the curve x² + y² = 1 + d x² y² -/

/-- The field's prime, the order of the base point, and d. -/
def edP : Nat := 2 ^ 448 - 2 ^ 224 - 1
def edL : Nat := 2 ^ 446 - 13818066809895115352007386748515426880336692474882178609894547503885
def edD : Nat := edP - 39081
def edBase : Nat × Nat :=
  (224580040295924300187604334099896036246789641632564134246125461686950415467406032909029192869357953282578032075146446173674602635247710,
   298819210078481492676017930443930673437544040154080242095928241372331506189835876003536878655418784733982303233503462500531545062832660)

/-- b to the power e modulo the prime; n bounds the bits of e. -/
def edPow : Nat → Nat → Nat → Nat
  | 0, _, _ => 1
  | n + 1, b, e =>
    let q := edPow n (b * b % edP) (e / 2)
    if e % 2 = 1 then q * b % edP else q
def edInv (a : Nat) : Nat := edPow 448 a (edP - 2)
def edSub (a b : Nat) : Nat := (a + (edP - b % edP)) % edP

/-- A point in projective coordinates. -/
structure EdPoint where
  x : Nat
  y : Nat
  z : Nat
deriving DecidableEq, Repr

def EdPoint.zero : EdPoint := ⟨0, 1, 1⟩
def EdPoint.base : EdPoint := ⟨edBase.1, edBase.2, 1⟩
/-- The sum; the formulas are complete. -/
def EdPoint.add (p q : EdPoint) : EdPoint :=
  let a := p.z * q.z % edP
  let b := a * a % edP
  let c := p.x * q.x % edP
  let d := p.y * q.y % edP
  let e := edD * (c * d % edP) % edP
  let f := edSub b e
  let g := (b + e) % edP
  let h := (p.x + p.y) * (q.x + q.y) % edP
  ⟨a * (f * edSub h (c + d) % edP) % edP, a * (g * edSub d c % edP) % edP, f * g % edP⟩
/-- k times a point; n bounds the bits of k. -/
def EdPoint.times : Nat → Nat → EdPoint → EdPoint
  | 0, _, _ => .zero
  | n + 1, k, p =>
    let q := EdPoint.times n (k / 2) (p.add p)
    if k % 2 = 1 then q.add p else q
/-- Two points are the same. -/
def EdPoint.same (p q : EdPoint) : Bool := p.x * q.z % edP = q.x * p.z % edP && p.y * q.z % edP = q.y * p.z % edP

/-- The 57 bytes of a point: y, and the lowest bit of x in the top bit. -/
def EdPoint.encode (p : EdPoint) : List Byte :=
  let i := edInv p.z
  natLE 57 (p.y * i % edP + p.x * i % edP % 2 * 2 ^ 455)
/-- The point that 57 bytes stand for, if any. -/
def edDecode (bs : List Byte) : Option EdPoint :=
  let n := leNat bs
  let sign := n / 2 ^ 455 % 2
  let y := n % 2 ^ 455
  if bs.length != 57 || decide (edP ≤ y) then none
  else
    let u := edSub (y * y % edP) 1
    let v := edSub (edD * (y * y % edP) % edP) 1
    let u3v := u * u % edP * u % edP * v % edP
    let w := u3v * (u * u % edP) % edP * (v * v % edP) % edP
    let x := u3v * edPow 448 w ((edP - 3) / 4) % edP
    if v * (x * x % edP) % edP != u then none
    else if x = 0 && sign = 1 then none
    else some ⟨if x % 2 = sign then x else edP - x, y, 1⟩

/-! ## Signatures -/

/-- The hash of RFC 8032: SHAKE256 with 114 bytes behind dom4(0, ""), as a number. -/
def edHash (bs : List Byte) : Nat :=
  leNat (shake256 ([0x53#8, 0x69#8, 0x67#8, 0x45#8, 0x64#8, 0x34#8, 0x34#8, 0x38#8, 0#8, 0#8] ++ bs) 114)
/-- The secret scalar of a private seed, and the prefix of its signatures. -/
def edSecret (seed : List Byte) : Nat × List Byte :=
  let h := shake256 seed 114
  (leNat (h.take 56) / 4 * 4 % 2 ^ 447 + 2 ^ 447, h.drop 57)
/-- The public key of a private seed. -/
def ed448Public (seed : List Byte) : List Byte := (EdPoint.times 448 (edSecret seed).1 .base).encode
/-- The signature of a message. -/
def ed448Sign (seed msg : List Byte) : List Byte :=
  let k := edSecret seed
  let r := edHash (k.2 ++ msg) % edL
  let rb := (EdPoint.times 448 r .base).encode
  let h := edHash (rb ++ ed448Public seed ++ msg) % edL
  rb ++ natLE 57 ((r + h * k.1) % edL)
/-- A signature under a public key holds: 4 S B = 4 R + 4 k A. -/
def ed448Verify (key msg sig : List Byte) : Bool :=
  let n := leNat (sig.drop 57)
  match edDecode key, edDecode (sig.take 57) with
  | some a, some r =>
    let h := edHash (sig.take 57 ++ key ++ msg) % edL
    sig.length = 114 && decide (n < edL) &&
      (EdPoint.times 450 (4 * n) .base).same ((EdPoint.times 3 4 r).add (EdPoint.times 450 (4 * h) a))
  | _, _ => false

end Sys2Proof.Machine
end

