-- ==== Sys2Proof/Machine/Trust.lean ====
section
/-!
DEFINITION. Firmware images, anti-rollback, measurements and evidence (spec/15 R491–R498). Header and evidence are byte strings
with the highest byte first (log 45).
-/
namespace Sys2Proof.Machine

/-! ## Images (15 R491, R492) -/

def imgMagic (h : Nat) : Nat := bits h 2047 2032
def imgKind (h : Nat) : Nat := bits h 2031 2024
def imgSvn (h : Nat) : Nat := bits h 2023 2018
def imgVersion (h : Nat) : Nat := bits h 2015 1984
def imgLength (h : Nat) : Nat := bits h 1983 1952
def imgKey (h : Nat) : BitVec 456 := BitVec.ofNat 456 (bits h 1951 1496)
def imgDigest (h : Nat) : BitVec 512 := BitVec.ofNat 512 (bits h 1423 912)
def imgSign (h : Nat) : BitVec 912 := BitVec.ofNat 912 (bits h 911 0)

/-- SHAKE256 with 64 bytes of output, as a register holds it. -/
def shake512 (bs : List Byte) : BitVec 512 := BitVec.ofNat 512 (digestNat (shake256 bs 64))

def State.kind (s : State) (k : Nat) : Kind := lget s.trust.kinds k {}
def State.modKind (s : State) (k : Nat) (f : Kind → Kind) : State :=
  { s with trust := { s.trust with kinds := lset s.trust.kinds k (f (s.kind k)) } }

/-- The checks of R492 on a header and the body behind it. -/
def State.imageValid (s : State) (h : Nat) (body : List Byte) : Bool :=
  imgMagic h = 0x5A46 && decide (imgKind h < 4) &&
  shake512 (natBE 57 (imgKey h).toNat) = Config.romKeyDigest &&
  shake512 body = imgDigest h &&
  ed448Verify (natBE 57 (imgKey h).toNat) ((natBE 256 h).take 142 ++ body) (natBE 114 (imgSign h).toNat) &&
  decide ((s.kind (imgKind h)).fused ≤ imgSvn h)

def imageOf (h : Nat) : Image := { svn := imgSvn h, version := BitVec.ofNat 32 (imgVersion h), digest := imgDigest h }

/-- A valid image written into the slot of its kind that does not run, which is tried first from then on (R493; log 46); in
its ROM base camp writes a kind-0 image into slot A (R494). -/
def State.stage (s : State) (h : Nat) : State :=
  let rom := s.power.rom && imgKind h = 0
  s.modKind (imgKind h) fun k =>
    let toB := !rom && k.running.isSome && !k.runsB
    { k with
      a := if toB then k.a else some (imageOf h)
      b := if toB then some (imageOf h) else k.b
      bFirst := toB
      staged := true }
/-- The result of a staging write. -/
def stageResult (h : Nat) : Nat := imgKind h + 256 * imgSvn h

/-- A slot's image, where it is valid: only valid images are written, and fuses may have risen since. -/
def Kind.usable (k : Kind) (i : Option Image) : Bool :=
  match i with
  | some x => decide (k.fused ≤ x.svn)
  | none => false

/-- A kind starts: the slot marked to be tried first, then the other (R492); none where neither is valid. -/
def State.startKind (s : State) (k : Nat) : Option State :=
  let x := s.kind k
  let tryB := if x.usable x.b then some (true, x.b) else none
  let tryA := if x.usable x.a then some (false, x.a) else none
  let first : Option (Bool × Option Image) := if x.bFirst then tryB.or tryA else tryA.or tryB
  first.map fun r => s.modKind k fun y => { y with runsB := r.1, running := r.2, staged := false }

/-! ## Measurements (15 R497) -/

def State.measure (s : State) (i : Nat) : BitVec 512 := lget s.trust.meas i 0
/-- Mi becomes SHAKE256(Mi ‖ d); its first byte is byte 0 of the register (14 R428; log 23). -/
def State.extend (s : State) (i : Nat) (d : BitVec 512) : State :=
  let m := BitVec.ofNat 512 (leNat (shake256 (natLE 64 (s.measure i).toNat ++ natBE 64 d.toNat) 64))
  { s with trust := { s.trust with meas := lset s.trust.meas i m } }
def State.runningDigest (s : State) (k : Nat) : BitVec 512 := ((s.kind k).running.map (·.digest)).getD 0
/-- The settings M4 names. -/
def State.settingsDigest (s : State) : BitVec 512 :=
  shake512 (natLE 2 s.power.clockMhz ++ natLE 2 s.power.limitW ++ natLE 1 s.camp.bifurcation ++ natLE 1 s.camp.bar2Log2)

/-! ## Identity and evidence (15 R496, R498) -/

def identitySeed : List Byte := natLE 57 Config.identitySeed.toNat

def State.evidenceFor (s : State) (nonce : BitVec 256) : BitVec 5712 :=
  let meas := (List.range 8).reverse.map fun i => (512, (s.measure i).toNat)
  let four (f : Kind → Nat) : List (Nat × Nat) := [3, 2, 1, 0].map fun i => (8, f (s.kind i))
  let head := pack ([(16, 1), (16, 714), (32, s.power.bootCount), (256, nonce.toNat)] ++ meas ++
    four (fun k => (k.running.map (·.svn)).getD 0) ++ four (·.fused) ++
    [(64, s.camp.headSeq), (256, s.camp.headLink.toNat)])
  BitVec.ofNat 5712 (head * 2 ^ 912 + beNat (ed448Sign identitySeed (natBE 600 head)))

/-- A nonce taken: its evidence is kept among the latest eight. -/
def State.takeNonce (s : State) (nonce : BitVec 256) : State :=
  { s with trust := { s.trust with evidence := ((nonce, s.evidenceFor nonce) :: s.trust.evidence).take 8 } }

end Sys2Proof.Machine
end

