-- ==== Sys2Proof/WellFormed.lean ====
section
/-!
DEFINITION. Which commands name places that the module has: tiles, arrays, ports, functions, rings, dies, seams, reductions,
huddles, teams and contexts by their counts (spec/00_scope.md; spec/01 R11–R20, R31, R40; spec/08 R275; spec/09 R311; spec/10 R324;
spec/14 R428, R445, R446, R452), and operands within the fields that carry them.
-/
namespace Sys2Proof

def tileIn (t : Nat) : Bool := decide (t < 2048)
def portIn (p : Nat) : Bool := decide (p < 12)
def functionIn (f : Nat) : Bool := decide (f < 64)
def ringIn (f r : Nat) : Bool := functionIn f && decide (r < 16)
def contextIn (c : Nat) : Bool := decide (c < 256)
/-- An entry's index and subindex. -/
def entryIn (i sub : Nat) : Bool := decide (i < 65536) && decide (sub < 256)

/-- A requester that there is. -/
def Requester.wf : Requester → Bool
  | .benvon .. => true
  | .mctp .. => true
  | .window f => functionIn f
  | .queue f r => ringIn f r
  | .service => true
  | .button => true

/-- A report that names seams, lanes, physical tiles and channels the module has (01 R12, R13, R17; 09 R292). -/
def PhaseReport.wf (r : PhaseReport) : Bool :=
  (r.failedLanes.all fun x => decide (x.1 < 52) && decide (x.2.1 < 2) && decide (x.2.2 < 264)) &&
  (r.failedTiles.all fun x => decide (x.1 < 16) && decide (x.2.1 < 8) && decide (x.2.2 < 17)) &&
  r.failedChannels.all fun x => decide (x.1 < 8) && decide (x.2.2 < 16)

/-- A command whose operands all name what there is. -/
def Instr.wellFormed : Instr → Bool
  -- the place of a packet or of a request is any number: one that holds none has no effect
  | .threadStart _ | .teamDelivery _ | .teamMemberCompletion _ | .itemRequest _ | .itemArrive _ | .homeRequest _ _
  | .atomicAtHome _ _ | .contributionAtHome _ _ | .tileStoreRemoteAccess _ _ | .replyArrive _ | .refusalArrive _
  | .poolRequestAtHome _ | .poolGrantArrive _ | .rwgetStart _ | .routeRowArrive _ | .routeCloseArrive _ | .returnRowArrive _
  | .tallySignalAtHome _ | .tallyRegistrationAtHome _ | .tallySetAtHome _ | .tsetAnswerArrive _ | .tallyReleaseArrive _
  | .remoteSignalAtTile _ | .huddleArrivalAtHome _ | .huddleCloseArrive _ | .workListReservation _ | .rwgetRegistration _
  | .e2eTimeout _ => true
  -- a tile and a stream
  | .rvInstruction t _ | .rvFence t _ | .ebreak t _ | .ecall t _ | .cstW t _ | .cld t _ | .cpush t _ | .cpushnb t _
  | .pushRoomResume t _ | .qfree t _ | .cdrain t _ | .cdrainResume t _ | .sumrd t _ | .sumrdResume t _ | .imswap t _ | .park t _
  | .pcmp t _ | .plog t _ | .pset t _ | .pmv t _ | .prd t _ | .pwr t _ | .ctwait t _ | .teamDispatch t _
  | .mma t _ | .mdrain t _ | .mdcfg t _ | .wlopen t _ | .wlput t _ | .wlrun t _ | .wlclose t _ | .itemComplete t _
  | .vld t _ | .vst t _ | .epload t _ | .eprog t _ | .epstrm t _ | .vred t _ | .vsum t _ | .vseed t _
  | .optcfg t _ | .optstep t _ | .amaxstep t _ | .snap t _ | .mvcomp t _ | .remask t _ | .stash t _ | .predld t _ | .maskdrop t _
  | .aadd t _ | .amin t _ | .amax t _ | .aswap t _ | .acas t _ | .aaddn t _ | .aminn t _ | .amaxn t _ | .rdopen t _ | .rdadd t _
  | .poolget t _ | .poolput t _ | .poolcfg t _ | .rtcfg t _ | .rqopen t _ | .route t _ | .rqclose t _ | .rbound t _ | .rcomb t _
  | .rback t _ | .rgrad t _ | .rxopen t _ | .rwget t _ | .rxwait t _ | .rxexpand t _ | .rsend t _ | .tset t _ | .huddle t _
  | .debugHalt t _ | .debugResume t _ => tileIn t
  | .move t _ _ => tileIn t
  -- a tile, an engine and a stream
  | .skipEntry t _ _ | .nop t _ _ | .commandComplete t _ _ | .twait t _ _ | .tclaim t _ _ | .tsig t _ _ | .fence t _ _ => tileIn t
  -- a tile, and what else
  | .laneReservationGrant t | .localDeadlock t | .supplyDroop t | .droopRecover t => tileIn t
  | .islandFreqStep t _ => tileIn t
  | .dribbleStepDown t a | .dribbleRampStep t a => tileIn t && decide (a < 4)
  | .whistleFire t u | .whistleWarning t u => tileIn t && decide (u < 24)
  | .tileHardwareFault t cause => tileIn t && decide (cause < 4)
  -- teams, reductions, huddles, dies, seams, contexts
  | .snapShip team => decide (team < 4096)
  | .reductionDone rid => decide (rid < 4096)
  | .huddleNextRoundClose hid => decide (hid < 1024)
  | .patrolScrub die _ channel _ => decide (die < 8) && decide (channel < 16)
  | .dump | .dumpUnitTimeout => true
  | .dumpUnitAnswer _ => true
  | .contextReset c | .quiesceComplete c | .epochAckTimeout c => contextIn c
  | .quiesceTimeout c unit => contextIn c && (decide (unit < 0x808) || (decide (0x810 ≤ unit) && decide (unit < 0x814)))
  | .seamTransferError seam dir | .seamRepeatAlarm seam dir | .seamFailed seam dir => decide (seam < 52) && decide (dir < 2)
  | .dieCheckerFire die => decide (16 ≤ die) && decide (die < 28)
  | .logHopDrop source cls => decide (source < 0x1000) && (cls = 1 || cls = 2)
  -- ports
  | .lockstepWindowRecord p | .lockstepDigestList p | .lockstepStop p | .portTrainStart p | .trainingStepTimeout p | .initResend p
  | .fecLockLoss p | .flitTransmit p | .cablePlug p | .cableUnplug p => portIn p
  | .trainingStepComplete p _ => portIn p
  | .init p _ | .initAck p _ | .retrainRequest p _ | .downNotice p _ => portIn p
  | .messageFlit p _ _ | .nullFlit p _ _ | .replayRequest p _ _ => portIn p
  | .equalisationOutOfLimits p lane => portIn p && decide (lane < 5)
  | .rd p dl _ | .atom p dl _ | .atomn p dl _ | .rdc p dl _ => portIn p && decide (dl < 2)
  | .wr p dl | .sig p dl | .epoch p dl | .rdr p dl | .ack p dl | .atr p dl | .nak p dl | .mgmt p dl | .trace p dl =>
    portIn p && decide (dl < 2)
  -- dictionary and management
  | .read src i sub arg => src.wf && entryIn i sub && decide (arg < 2 ^ 32)
  | .write src i sub value => src.wf && entryIn i sub && decide (value.length ≤ 1024)
  | .discover src | .notifyAck src | .troubleClearEcc src | .troubleClearTileCounts src | .troubleClearStaleDrops src
  | .troubleClearSeamAlarms src | .troubleClearAlarmLog src | .troubleClearDumpFlag src | .attnRequestSet src
  | .attnRequestClear src | .restartWarm src | .restartDestroy src | .restartBaseCamp src | .retryRecordExpiry src => src.wf
  | .notifyResend k => decide (k < 8)
  | .neighbourSolicitation _ => true
  | .setEndpointId _ _ _ | .getMctpVersionSupport _ _ _ => true
  | .getEndpointId _ _ | .getMessageTypeSupport _ _ => true
  | .mctpVendorMessage _ _ _ => true
  | .winGo f value => functionIn f && decide (value < 2 ^ 32)
  | .ctxCreate src c | .ctxReset src c | .ctxDestroy src c | .chanCreate src c => src.wf && contextIn c
  | .teamCreate src _ | .teamDestroy src _ | .huddleCreate src _ | .huddleDestroy src _ => src.wf
  | .chanDestroy src _ => src.wf
  | .jobSubmit src a | .fwStage src a => src.wf && decide (a < 2 ^ 64)
  | .jobCancel src id => src.wf && decide (id < 2 ^ 32)
  | .debugImemWrite src value | .fwUpload src value => src.wf && decide (value.length ≤ 1024)
  | .faultRecordClear src t _ => src.wf && tileIn t
  | .dumpRequest src _ => src.wf
  | .epochClear src d => src.wf && decide (d < 256)
  | .portRetrain src p => src.wf && portIn p
  | .fwStageUpload src v => src.wf && decide (v < 256)
  | .svnCommit src kind v => src.wf && decide (kind < 4) && decide (v < 256)
  | .attestNonce src _ => src.wf
  -- host attachment
  | .bar0RegisterWrite f offset _ => functionIn f && decide (offset < 0x4000000)
  | .ringDb f r tail _ => ringIn f r && decide (tail < 4096)
  | .start f r | .hsig f r | .ringNop f r => ringIn f r
  | .hcopy f r _ _ => ringIn f r
  | .hcopyDone f r _ => ringIn f r
  | .tallyDb f g _ => functionIn f && decide (g < 65536)
  | .bar2Read f offset len _ => functionIn f && decide (offset + len ≤ 2 ^ 36) && decide (0 < len)
  | .bar2Write f offset data => functionIn f && decide (offset + data.length ≤ 2 ^ 36) && !data.isEmpty
  | .doeDiscovery f index => functionIn f && decide (index < 256)
  | .doeAttest f _ => functionIn f
  -- onboard service
  | .jobStart | .serviceHeartbeat => true
  | .modelHandout _ => true
  | .modelDone _ _ => true
  | .serviceComplexStop die _ => decide (die < 4)
  -- supplies, clocks, bring-up
  | .mainGood | .mainExcursion | .backupGood | .backupFail | .powerUpSlot | .rideThroughStep | .holdLimit => true
  | .mainFail _ => true
  | .railFault _ => true
  | .bringupPhaseComplete r => r.wf
  | .powerControlTick _ => true
  | .thermalSample temps => temps.all fun t => decide (t.1 < 2060)
  -- the button
  | .buttonShortPress | .buttonMiddlePress | .buttonHold2s | .buttonLongPress => true

end Sys2Proof
end

