-- ==== Sys2Proof/Machine/Bringup.lean ====
section
/-!
DEFINITION. Bring-up (spec/15 R484–R490; spec/01 R14, R18, R32; spec/09 R292): what a bring-up clears, its phases and its stops.
-/
namespace Sys2Proof.Machine

def State.modPower (s : State) (f : Power → Power) : State := { s with power := f s.power }

/-! ## What does not survive (15 R473; 02 R81; 01 R45) -/

/-- A tile after a bring-up: its counters, kept in base camp as sticky records, and nothing else. -/
def Tile.afterBringup (t : Tile) : Tile := { misroutes := t.misroutes, whistleFires := t.whistleFires, deadlock := t.deadlock }

/-- A port whose die has lost power: its settings and sticky record are base camp's. -/
def Port.afterLoss (p : Port) : Port :=
  { role := p.role, sticky := p.sticky, replays := p.replays, cable := p.cable, record := p.record, cableState := p.cableState }

/-- A context that is gone: its settings, its epoch and its reset record stay. -/
def Ctx.gone (c : Ctx) : Ctx :=
  { c with state := 0, resets := 0, resetting := none, waiting := [], reservePages := 0, reserveAt := 0 }

/-- Memory behind the tile stores and scratch. -/
def External (c : Host.Cell) : Bool := decide (nearBase ≤ c.1)

/-- The dies' state is lost: everything but external memory and what base camp holds. -/
def State.clearDies (s : State) : State :=
  let f := s.fabric
  { s with
    tiles := tmap (fun _ t => t.afterBringup) s.tiles
    ctxs := tmap (fun _ c => c.gone) s.ctxs
    teams := []
    teamCmds := []
    chans := []
    net := []
    gtallies := []
    huddles := []
    reds := []
    pools := []
    snaps := []
    broadcast := none
    ports := tmap (fun _ p => p.afterLoss) s.ports
    fabric := { f with requests := [], nextId := [], readId := [], expect := [], filters := [], epochs := [], asked := [], gathers := [] }
    fns := tmap (fun _ (x : Fn) => ({ drops := x.drops } : Fn)) s.fns
    service := {}
    trouble := { s.trouble with dumps := [], repeats := [] } }

/-- Tile stores, and scratch, lost. -/
def State.clearStores (s : State) : State := { s with mem := s.mem.filter External, bad := s.bad.filter fun b => decide (nearBase ≤ 64 * b) }
/-- External memory holds zeros with valid check bits (15 R489). -/
def State.clearExternal (s : State) : State :=
  { s with mem := s.mem.filter fun c => !External c, bad := s.bad.filter fun b => decide (64 * b < nearBase) }

/-- The packages are off: nothing is kept (15 R474, R485). -/
def State.losePackages (s : State) : State := s.modPower fun p => { p with memKept := false }

/-- Everything but base camp is off (15 R470). -/
def State.stopped (s : State) : State :=
  ((s.clearDies.clearStores).losePackages).modPower fun p => { p with state := 5, phase := 0, slots := 0, restart := 0 }

/-! ## The start of a bring-up -/

/-- Phase 2 begins: with the rails down, at the first entry of the power-up sequence (15 R471). -/
def State.startPhase2 (s : State) : State :=
  -- the trainings since bring-up count from 0 (10 R357)
  { s with ports := tmap (fun _ p => { p with
      wantTrain := p.cable && p.role != 0, sticky := withField p.sticky 16 16 0 }) s.ports }.modPower fun p =>
    { p with state := 1, phase := 2, slots := if p.slots = 0 then 1 else p.slots }

/-- A bring-up begins, warm where external memory was retained (15 R485). -/
def State.startBringup (s : State) (fromRom : Bool) : State :=
  let s1 := (s.clearDies).modPower fun p => { p with
    state := 1
    warm := p.memKept
    restart := 0
    bootCount := (p.bootCount + 1) % 2 ^ 32
    lowered := []
    freqs := []
    droops := []
    throttled := []
    under := 0
    testMhz := p.clockMhz
    testW := p.limitW
    clockLive := p.clockMhz
    phase := 1 }
  let s2 := { s1 with trouble := { s1.trouble with bringupFaults := 0, faulted := false, outOfService := [] } }
  let s3 := { s2 with camp := { s2.camp with liveBifurcation := s2.camp.bifurcation, liveBar2Log2 := s2.camp.bar2Log2 } }
  if fromRom then s3 else s3.startPhase2

/-- Base camp starts: its upload buffer is cleared, its measurements hold zeros, its ROM verifies the boot firmware
(15 R484 phase 1, R494, R497). -/
def State.startCamp (s : State) : State :=
  { s with trust := { s.trust with upload := [], meas := List.replicate 8 0 } }.modPower fun p => { p with phase := 1, rom := false }

/-- A waiting restart starts its bring-up once no context other than 0 exists (15 R499). -/
def State.settleRestart (s : State) : State :=
  if s.power.restart != 0 && s.ctxs.all fun e => e.1 = 0 || e.2.state = 0 then
    if s.power.restart = 3 then s.startCamp.startBringup true else s.startBringup false
  else s

/-! ## Stops (15 R470) -/

def State.bringupFault (s : State) (i : Nat) : State :=
  { s with trouble := { s.trouble with bringupFaults := s.trouble.bringupFaults ||| 2 ^ i } }
/-- No image of a kind is valid (R470, R492): bringup_faults is set, in bits of which the spec lists none for this cause, a free
value (log 15). -/
def State.firmwareFault (s : State) : State :=
  let f := s.free 22
  { f.2 with trouble := { f.2.trouble with
      bringupFaults := f.2.trouble.bringupFaults ||| (8 * (1 + f.1.toNat % (2 ^ 29 - 1))) } }
def State.firmwareStop (s : State) : State := s.firmwareFault.stopped
/-- The bring-up stops with a sticky fault: 0 seam, 1 tile yield, 2 memory. -/
def State.bringupStop (s : State) (i : Nat) : State := (s.bringupFault i).stopped

/-! ## Phase 2: seams (01 R14; 13 R427) -/

/-- Lanes of a seam and direction that failed training. -/
def failedOf (r : PhaseReport) (seam dir : Nat) : List Nat :=
  ((r.failedLanes.filter fun x => x.1 = seam && x.2.1 = dir).map fun x => x.2.2).eraseDups
def seamsFail (r : PhaseReport) : Bool :=
  (List.range seamCount).any fun k => [0, 1].any fun d => decide (spareLanes < (failedOf r k d).length)

/-- The lanes a seam's record names in the direction whose count and lane fields begin at the given bits. -/
def sparedLanes (r : BitVec 256) (count lanes : Nat) : List Nat :=
  (List.range (bits r.toNat (count + 3) count)).map fun i => bits r.toNat (lanes + 71 - 9 * i) (lanes + 63 - 9 * i)
/-- A seam's record with the lanes spared in both directions; a lane spared before stays on record, and the record holds the
first eight (log 53). -/
def spareSeam (rec0 : BitVec 256) (a b : List Nat) : BitVec 256 :=
  let put (r : BitVec 256) (count lanes : Nat) (l : List Nat) : BitVec 256 :=
    let old := sparedLanes r count lanes
    let all := (old ++ l.filter fun x => !old.contains x).take spareLanes
    withField (withField r count 4 all.length) lanes 72 (pack ((List.range 8).map fun i => (9, all.getD i 0)))
  put (put rec0 220 144 a) 216 72 b
def State.spareSeams (s : State) (r : PhaseReport) : State :=
  { s with trouble := { s.trouble with seams := (List.range seamCount).foldl (fun t k =>
      let a := failedOf r k 0
      let b := failedOf r k 1
      if a.isEmpty && b.isEmpty then t else tset k (spareSeam (tget 0 k t) a b) t) s.trouble.seams } }

/-! ## Phase 4: the logical map (01 R18) -/

/-- Failed columns of a physical row: those the fused map names and those that failed the self-test. -/
def State.failedCols (s : State) (r : PhaseReport) (die row : Nat) : List Nat :=
  (((s.power.yieldMap ++ r.failedTiles).filter fun x => x.1 = die && x.2.1 = row).map fun x => x.2.2).eraseDups
def State.yieldFails (s : State) (r : PhaseReport) : Bool :=
  (List.range 16).any fun d => (List.range physicalRows).any fun w => decide (2 ≤ (s.failedCols r d w).length)
/-- The disabled column of every row whose column 16 is not the one. -/
def State.tileMapOf (s : State) (r : PhaseReport) : Table Nat :=
  (List.range 128).filterMap fun k => ((s.failedCols r (k / 8) (k % 8)).head?).map fun c => (k, c)

/-- The device team: a rectangle of all tiles, of context 0 (01 R32). -/
def deviceTeam : BitVec 128 :=
  BitVec.ofNat 128 (pack [(2, 1), (1, 0), (1, 0), (8, 0), (12, 0), (12, 0), (12, 0), (16, 0), (11, 0), (6, 0), (5, 0), (6, 63), (5, 31),
    (12, 2048), (19, 0)])

/-! ## Phases 5 and 6: channels (09 R292; 15 R488–R490) -/

def dropChannels (maps : List Nat) (far : Bool) (l : List (Nat × Bool × Nat)) : List Nat :=
  maps.mapIdx fun die m => (List.range 16).foldl (fun m c => if l.contains (die, far, c) && m.testBit c then m - 2 ^ c else m) m
def State.retireChannels (s : State) (l : List (Nat × Bool × Nat)) : State :=
  { s with nearLive := dropChannels s.nearLive false l, farLive := dropChannels s.farLive true l }
/-- Whether a tier is left with fewer than 8 channels a die. -/
def State.memoryFails (s : State) : Bool := decide (tierL s.nearLive < 8) || decide (tierL s.farLive < 8)
/-- A channel in use: among the L lowest-numbered live ones of its die. -/
def inUse (maps : List Nat) (die c : Nat) : Bool :=
  (((List.range 16).filter fun k => (lget maps die 0).testBit k).take (tierL maps)).contains c
def State.usedFails (s : State) (l : List (Nat × Bool × Nat)) : Bool :=
  l.any fun x => inUse (if x.2.1 then s.farLive else s.nearLive) x.1 x.2.2

/-- Blocks the memory test found bad, counted by home die. -/
def State.countBad (s : State) (blocks : List Nat) : List Nat :=
  (List.range 8).map fun d => min 0xFFFF (blocks.filter fun b => homeOf (s.place (64 * b)) = d).length

/-- The status bit of memory lost. -/
def State.memoryLost (s : State) : State := s.modPower fun p => { p with status := p.status ||| 4#64 }

/-! ## The phases -/

def State.nextPhase (s : State) : State := s.modPower fun p => { p with phase := p.phase + 1 }

/-- Phase 1: the ROM starts the boot firmware, or serves staging alone (15 R484, R492). A ride-through or HOLD that began
meanwhile goes on. -/
def State.endPhase1 (s : State) : State :=
  match s.startKind 0 with
  | none =>
    let s1 := s.firmwareFault
    (if s.power.state = 1 then s1.stopped
      else s1.modPower fun p => { p with state := if p.state = 0 then 5 else p.state }).modPower fun p =>
      { p with phase := 0, rom := true }
  | some s1 =>
    let s2 := s1.extend 0 (s1.runningDigest 0)
    if s2.power.state = 1 then s2.startPhase2
    else
      let s3 := s2.modPower fun p => { p with phase := 0, state := if p.state = 5 then 0 else p.state }
      if s3.power.state = 0 && s3.power.mainOk then s3.startBringup false else s3

/-- The PCIe link as it trains: x16, or x8 for each of two links, at 64 GT/s, or what a link partner asks below that, which is
a free value (14 R446; log 15). -/
def linkOf (bifurcation : Nat) (free : Nat) : BitVec 16 :=
  BitVec.ofNat 16 (pack [(8, 2 ^ (free % (if bifurcation = 1 then 4 else 5))), (8, 1 + free / 256 % 64)])

/-- Phase 2: rails, port dies, seams, PCIe and link ports. -/
def State.endPhase2 (s : State) (r : PhaseReport) : State :=
  if seamsFail r then (s.spareSeams r).bringupStop 0
  else
    match (s.spareSeams r).startKind 1 with
    | none => (s.spareSeams r).firmwareStop
    | some s1 =>
      let s2 := (s1.extend 1 (s1.runningDigest 1)).extend 4 s1.settingsDigest
      let f := s2.free 12
      { f.2 with camp := { f.2.camp with pcieLink := linkOf f.2.camp.liveBifurcation f.1.toNat } }.nextPhase

/-- Every tile's data memory replaced. -/
def filledTiles (m : List Host.Cell) (t : Table Tile) : Table Tile :=
  (List.range 2048).map fun n => (n, { tget {} n t with dmem := m })
def State.fillDmem (s : State) (m : List Host.Cell) : State := { s with tiles := filledTiles m s.tiles }

/-- What the broadcast leaves in a data memory. -/
def broadcastData (d : BitVec 512) : List Host.Cell :=
  ((Config.tileData d).filter fun c => decide (c.1 < 0x20000)).foldl (fun m c => poke c.1 c.2 m) []

/-- Phase 3: the tile firmware broadcast, into bank 0 and the data memories. -/
def State.endPhase3 (s : State) : State :=
  match s.startKind 2 with
  | none => s.firmwareStop
  | some s1 =>
    let d := s1.runningDigest 2
    ({ s1.extend 2 d with broadcast := some d }.fillDmem (broadcastData d)).nextPhase

/-- The signatures the self-test forms (R487; 12 R378): those published for the settings at the bring-up's start
(R482) and its memory-test mode, but for tiles that fail. -/
def Power.testSignatures (p : Power) : List (BitVec 64) :=
  (List.range 2176).map fun t =>
    (if p.failedTests.contains t then Config.failedSignature else Config.tileSignature) p.testMhz p.testW (b2n p.warm) t

/-- Phase 4: self-test and map; stores, data memories and bank 1 are cleared, the device team made. -/
def State.endPhase4 (s : State) (r : PhaseReport) : State :=
  let s := s.modPower fun p =>
    let p1 := { p with failedTests := r.failedTiles.map fun (t : Nat × Nat × Nat) => (8 * t.1 + t.2.1) * 17 + t.2.2 }
    { p1 with signatures := p1.testSignatures }
  if s.yieldFails r then s.bringupStop 1
  else
    let keep (c : Host.Cell) : Bool := decide (scratchBase ≤ c.1)
    let s1 := { s with
      mem := s.mem.filter keep
      bad := s.bad.filter fun b => decide (scratchBase ≤ 64 * b)
      tiles := tmap (fun _ t => { t with dmem := [] }) s.tiles
      teams := [(0, deviceTeam)] }
    (s1.modPower fun p => { p with tileMap := s.tileMapOf r }).nextPhase

/-- Phase 5: LPDDR5X training; a warm bring-up that loses a channel in use goes on as a cold one from here. -/
def State.endPhase5 (s : State) (r : PhaseReport) : State :=
  if s.power.warm && s.usedFails r.failedChannels then
    (s.memoryLost).modPower fun p =>
      let p1 := { p with warm := false, memKept := false }
      { p1 with signatures := p1.testSignatures }
  else
    let s1 := s.retireChannels r.failedChannels
    if s1.memoryFails then s1.bringupStop 2 else (s1.modPower fun p => { p with memKept := true }).nextPhase

/-- The uncorrectable blocks the memory test finds: those it reports, and on a warm bring-up those that external memory held
already, since it reads every block (R490). -/
def State.foundBad (s : State) (r : PhaseReport) : List Nat :=
  r.badBlocks ++ if s.power.warm then s.bad.filter fun b => decide (nearBase ≤ 64 * b) && !r.badBlocks.contains b else []

/-- Phase 6: the memory test, full or quick. -/
def State.endPhase6 (s : State) (r : PhaseReport) : State :=
  let found := s.foundBad r
  let s0 := s.extend 5 (shake512 [if s.power.warm then 1#8 else 0#8])
  let s1 := s0.modPower fun p => { p with memTest := if p.warm then 1 else 0, testFails := s.countBad found }
  if s.power.warm then
    let s2 := { s1 with bad := s1.bad ++ found.filter fun b => !s1.bad.contains b }
    (found.foldl (fun s b => s.ueError .scrub (64 * b) none 3) s2).nextPhase
  else
    let s2 := (s1.retireChannels r.failedChannels).clearExternal
    if s2.memoryFails then s2.bringupStop 2 else s2.nextPhase

/-- Phase 7: the onboard service starts, and the module is in SERVICE. -/
def State.endPhase7 (s : State) : State :=
  match s.startKind 3 with
  | none => s.firmwareStop
  | some s1 =>
    let s2 := s1.extend 3 (s1.runningDigest 3)
    { s2 with service := { state := 1 } }.modPower fun p => { p with state := 2, phase := 0, eventOpen := false }

def execBringupPhaseComplete (r : PhaseReport) (s : State) : Result :=
  atPlace r.wf (match s.power.phase with
    | 1 => s.endPhase1
    | 2 => if s.power.slots = 8 then s.endPhase2 r else s
    | 3 => s.endPhase3
    | 4 => s.endPhase4 r
    | 5 => s.endPhase5 r
    | 6 => s.endPhase6 r
    | 7 => s.endPhase7
    | _ => s)

end Sys2Proof.Machine
end

