-- ==== Sys2Proof/Machine/ChangeLog.lean ====
section
/-!
DEFINITION. The change log (spec/14 R441–R443): every write to the dictionary, chained by digests.
-/
namespace Sys2Proof.Machine

/-- old or new of an entry: the value, or the first 128 bits of its digest. -/
def logValue (v : List Byte) : Nat := leNat (if v.length ≤ 16 then v else shake256 v 16)

def srcPath : Requester → Nat
  | .benvon .. => 0
  | .mctp .. => 1
  | .window _ => 2
  | .queue .. => 3
  | .service => 4
  | .button => 5
def srcSource : Requester → Nat
  | .benvon ip _ _ => ip.toNat
  | .mctp eid rid _ => eid.toNat + 256 * rid.toNat
  | .queue f r => f + 256 * r
  | _ => 0

/-- Bits [767:256] of an entry. -/
def logBody (seq index sub path abort vlen source : Nat) (old new : List Byte) : Nat :=
  pack [(64, seq), (16, index), (8, sub), (4, path), (1, b2n (decide (16 < old.length))), (1, b2n (decide (16 < new.length))), (2, 0),
    (16, abort), (16, vlen), (128, source), (128, logValue old), (128, logValue new)]

def logLink (prev : BitVec 256) (body : Nat) : BitVec 256 :=
  BitVec.ofNat 256 (digestNat (shake256 (natBE 32 prev.toNat ++ natBE 64 body) 32))

def logCapacity : Nat := 16384

/-- An entry appended; a full log gives up its oldest, which becomes the base. -/
def State.logWrite (s : State) (src : Requester) (index sub abort : Nat) (old new : List Byte) : State :=
  let c := s.camp
  let seq := (c.headSeq + 1) % 2 ^ 64
  let body := logBody seq index sub (srcPath src) abort new.length (srcSource src) old new
  let link := logLink c.headLink body
  let full := decide (logCapacity ≤ c.log.length)
  let oldest := (c.log.getLast?.getD 0).toNat
  { s with camp := { c with
    log := (BitVec.ofNat 768 (body * 2 ^ 256 + link.toNat) :: c.log).take logCapacity
    headSeq := seq
    headLink := link
    baseSeq := if full then bits oldest 767 704 else c.baseSeq
    baseLink := if full then BitVec.ofNat 256 oldest else c.baseLink
    lost := if full then c.lost + 1 else c.lost } }

end Sys2Proof.Machine
end

