-- ==== Sys2Proof/Machine/Channels.lean ====
section
/-!
DEFINITION. Channels by request (spec/01 R42–R46; spec/14 R459), and signals of global tallies that no command sends
(spec/08 R260, R262).
-/
namespace Sys2Proof.Machine

/-! ## Which slots are carried (01 R45; 14 R459) -/

/-- Every command of a tile in a queue, in a dispatch queue or expanded from an item. -/
def Tile.commands (t : Tile) : List Entry :=
  let queued := allEngines.flatMap fun e => allStreams.flatMap fun st => ((t.queues.get e).get st).entries
  let waiting := allStreams.flatMap fun st => (t.dispatch.get st).map (·.entry)
  let items := allStreams.flatMap fun st => (t.runs.get st).elim [] (·.queue)
  queued ++ waiting ++ items

/-- A handle is carried by a command in a queue or dispatch queue. -/
def State.carried (s : State) (h : Word) : Bool := s.tiles.any fun t => t.2.commands.any fun x => x.chan = h
def slotOf (h : Word) : Nat := h.toNat / 65536

/-- An operation under some handle of a slot is still outstanding: a command, one that waits at a home, a leader or a pool, a
reduction, a snapshot, a signal held back, a packet, a request to another device. -/
def State.chanSlotBusy (s : State) (k : Nat) : Bool :=
  let on (h : Word) : Bool := h.toNat != 0 && slotOf h = k
  (s.tiles.any fun t => t.2.commands.any (on ·.chan) || t.2.closing.any (on ·.2.1.chan) ||
    t.2.lists.any (fun l => l.2.waiting.any (on ·.chan) || l.2.asking.any (on ·.chan)) ||
    t.2.replicas.any (fun r => r.waiting.any (on ·.chan) || r.started.any (on ·.chan)) ||
    t.2.pools.any (·.2.waiting.any (on ·.chan))) ||
  (s.net.any (on ·.chan)) || (s.pools.any (·.2.waiting.any (on ·.chan))) ||
  (s.reds.any (on ·.2.chan)) || (s.snaps.any (on ·.2.chan)) ||
  s.fabric.requests.any fun r => mChan r.msg != 0 && mChan r.msg / 65536 = k

/-- The lowest slot that is neither live nor draining. -/
def State.freeSlot (s : State) : Option Nat :=
  (List.range 65536).find? fun k => (tget {} k s.chans).live = none && !s.chanSlotBusy k

/-- Live channels: of a context, of all. -/
def State.liveChans (s : State) (c : Nat) : Nat := (s.chans.filter fun e => e.2.live = some c).length
def State.allChans (s : State) : Nat := (s.chans.filter fun e => e.2.live.isSome).length

/-- A channel issued for a context (01 R43, R45; 14 R444 ctx_chan_limit); none where there is no room. -/
def State.newChan (s : State) (c : Nat) : Option (Word × State) :=
  let limit := (s.ctx c).chanLimit
  if limit != 0 && decide (limit ≤ s.liveChans c) then none
  else s.freeSlot.map fun k =>
    let x : Slot := tget {} k s.chans
    (BitVec.ofNat 32 (k * 65536 + x.gen), { s with chans := tset k { x with live := some c } s.chans })

/-- A handle is that of a live channel. -/
def State.chanLive (s : State) (h : Word) : Bool :=
  let x : Slot := tget {} (slotOf h) s.chans
  h.toNat != 0 && x.live.isSome && x.gen = h.toNat % 65536

/-- The generation a slot takes when its channel is destroyed (01 R45). -/
def nextGen (g : Nat) : Nat := if g = 0xFFFF then 1 else g + 1
def Slot.destroy (x : Slot) : Slot := { gen := nextGen x.gen, live := none }
def State.dropChan (s : State) (h : Word) : State :=
  { s with chans := tset (slotOf h) (tget {} (slotOf h) s.chans).destroy s.chans }

/-! ## Signals by the host and the onboard service -/

/-- A signal applied to a global tally; `src` is 2 for service firmware, a free value where the spec names no source. -/
def State.signalGlobal (s : State) (src g n : Nat) : State :=
  let c := s.cycle 0x810
  c.2.signalAt (.die (g % 8)) g n { src := src, stream := 0, origin := 0, tag := 0, cycles := c.1, add := n }

end Sys2Proof.Machine
end

