-- ==== Sys2Proof/Machine/Jobs.lean ====
section
/-!
DEFINITION. The onboard training service (spec/14 R460–R465): jobs, the models of a batch, checkpoints and evaluation triggers.
-/
namespace Sys2Proof.Machine

/-! ## Records (14 R461, R462, R464) -/

def Job.ctx (j : Job) : Nat := bits j.record.toNat 511 504
def Job.kind (j : Job) : Nat := bits j.record.toNat 503 502
def Job.priority (j : Job) : Nat := bits j.record.toNat 501 498
def Job.team (j : Job) : Nat := bits j.record.toNat 497 486
def Job.table (j : Job) : Nat := bits j.record.toNat 485 438
def Job.count (j : Job) : Nat := bits j.record.toNat 437 422 + 1
def Job.launchBase (j : Job) : Nat := bits j.record.toNat 421 406
def Job.doneBase (j : Job) : Nat := bits j.record.toNat 405 390
def Job.launchOff (j : Job) : Nat := bits j.record.toNat 389 373
def Job.writeback (j : Job) : Bool := bit j.record.toNat 372
def Job.tally (j : Job) : Nat := bits j.record.toNat 371 356
def Job.afterTally (j : Job) : Nat := bits j.record.toNat 355 340
def Job.afterValue (j : Job) : Nat := bits j.record.toNat 339 308
def Job.destKind (j : Job) : Nat := bits j.record.toNat 307 306
def Job.dest (j : Job) : Nat := bits j.record.toNat 305 242
def Job.destDev (j : Job) : Nat := bits j.record.toNat 297 290
def Job.destAddr (j : Job) : Nat := bits j.record.toNat 289 242
def Job.destTally (j : Job) : Nat := bits j.record.toNat 241 226
def Job.reserved (j : Job) : Nat := bits j.record.toNat 225 0
def Job.open (j : Job) : Bool := decide (j.state < 2)

def mdState (m : Nat) : Nat := bits m 255 208
def mdPages (m : Nat) : Nat := bits m 207 184
def mdDst (m : Nat) : Nat := bits m 183 162
def mdParam (m : Nat) : Nat := bits m 145 82

def State.modelAt (j : Job) (i : Nat) : Nat := j.table + 32 * i
def State.model (s : State) (j : Job) (i : Nat) : Nat := s.loadNat (State.modelAt j i) 32

/-- A context is being destroyed: from the acceptance of the request on (14 R457). -/
def State.destroying (s : State) (c : Nat) : Bool :=
  (s.ctx c).waiting.any (·.2) || (s.ctx c).resetting.any (·.destroy)

/-- Bytes written by the service: pages a snapshot still needs are preserved first (06 R216). -/
def State.svcWrite (s : State) (a : Nat) (bytes : List Byte) : State := s.outsideWrite a bytes
/-- The status of a model record. -/
def State.setStatus (s : State) (j : Job) (i v : Nat) : State :=
  s.svcWrite (State.modelAt j i) (natLE 32 (withField (BitVec.ofNat 256 (s.model j i)) 146 16 v).toNat)

/-! ## Jobs in State -/

def State.job (s : State) (id : Nat) : Option Job := s.service.jobs.find? fun j => j.id = id
def State.putJob (s : State) (j : Job) : State :=
  { s with service := { s.service with jobs := s.service.jobs.map fun (x : Job) => if x.id = j.id then j else x } }
def State.openJobs (s : State) : List Job := s.service.jobs.filter Job.open

/-! ## Submission (14 R461) -/

/-- The members of a batch's team: rectangles of one shape, at most 256. -/
def State.batchMembers (s : State) (j : Job) : List Nat := s.chain 4095 (teamFirst (s.team j.team))
def State.batchTeamOk (s : State) (j : Job) : Bool :=
  let d := s.team j.team
  let ms := s.batchMembers j
  teamKind d = 2 && teamCtx d = j.ctx && decide (ms.length ≤ 256) &&
  ms.all fun m => teamKind (s.team m) = 1 && teamW (s.team m) = teamW (s.team (teamFirst d)) &&
    teamH (s.team m) = teamH (s.team (teamFirst d))
def State.talliesOk (s : State) (c g n : Nat) : Bool :=
  decide (g + n ≤ 0x10000) && (List.range n).all fun i => s.gtallyOk c (g + i)

/-- The region table of a checkpoint (06 R214). -/
def State.regions (s : State) (j : Job) : List (BitVec 128) :=
  (List.range j.count).map fun i => BitVec.ofNat 128 (s.loadNat (j.table + 16 * i) 16)

/-- The bytes of a checkpoint: its pages and the end record. -/
def State.shipSize (s : State) (j : Job) : Nat := ((s.regions j).map fun r => 4096 * snapCount r).sum + 64
/-- Memory of the own device outside every grant (R461). -/
def State.outsideGrants (s : State) (a n : Nat) : Bool :=
  s.memOk 0 a n && s.ctxs.all fun e => e.2.memGrants.all fun g => !overlap a n (grantBase g.2) (grantLen g.2)

/-- No field of a job record is at fault. -/
def State.jobOk (s : State) (j : Job) : Bool :=
  decide (j.kind < 3) && j.reserved = 0 && s.gtallyOk j.ctx j.tally &&
  (if j.kind = 0 then
    s.batchTeamOk j && s.memOk j.ctx j.table (32 * j.count) &&
    s.talliesOk j.ctx j.launchBase (s.batchMembers j).length && s.talliesOk j.ctx j.doneBase (s.batchMembers j).length &&
    j.launchOff % 32 = 0
   else
    s.gtallyOk j.ctx j.afterTally &&
    (j.destKind = 0 || (j.destKind = 1 && bits j.record.toNat 305 298 = 0) || (j.destKind = 2 && j.kind = 1 && bits j.record.toNat 305 298 = 0 && s.outsideGrants j.destAddr (s.shipSize j))) &&
    (j.kind = 2 || (s.memOk j.ctx j.table (16 * j.count) &&
      (s.regions j).all fun r => snapBase r % 4096 = 0 && snapCount r != 0 && bits r.toNat 55 0 = 0 &&
        s.memOk j.ctx (snapBase r) (snapCount r * 4096))))

def nextJobId (n : Nat) : Nat := if n = 0xFFFFFFFF then 1 else n + 1

/-- What a submission reads: the record, and the region table of a checkpoint. -/
def State.submitReads (s : State) (a : Nat) : List Range :=
  let j : Job := { id := 0, record := BitVec.ofNat 512 (s.loadNat a 64) }
  ⟨a, 64⟩ :: (if j.kind = 1 && s.memOk j.ctx j.table (16 * j.count) then [⟨j.table, 16 * j.count⟩] else [])
/-- The first of its ranges that the service cannot read (09 R293; log 76). -/
def State.submitBad (s : State) (a : Nat) : Option Range :=
  if s.service.state = 1 && s.serving && s.memOk 0 a 64 then
    (s.submitReads a).find? fun r => (s.badBlock r.base r.len).isSome
  else none

/-- A record at a device address submitted: the refusal's code, or the job's ID and the state that holds it. `may` says
which contexts the submitter may name. -/
def State.submit (s : State) (a : Nat) (may : Nat → Bool) : Nat ⊕ (Nat × State) :=
  if s.service.state != 1 || !s.serving then .inl 0x0105
  else if !s.memOk 0 a 64 || (s.submitBad a).isSome then .inl 0x0104
  else
    let j : Job := { id := s.service.nextId, record := BitVec.ofNat 512 (s.loadNat a 64) }
    if !may j.ctx then .inl 0x010A
    else if j.kind = 3 || j.reserved != 0 then .inl 0x0104
    else if !s.running j.ctx || s.destroying j.ctx then .inl 0x0105
    else if !s.jobOk j then .inl 0x0104
    else if 4096 ≤ s.openJobs.length then .inl 0x0107
    else .inr (j.id, { s with service := { s.service with nextId := nextJobId j.id, jobs := s.service.jobs ++ [j] } })

/-! ## The end of a job (14 R464) -/

/-- Models of a batch that are not done get status 3. -/
def State.abandonModels (s : State) (j : Job) : State :=
  if j.kind = 0 then
    let at' := j.members.filterMap (·.model)
    ((List.range j.count).filter fun i => decide (j.next ≤ i) || at'.contains i).foldl (fun s i => s.setStatus j i 3) s
  else s

/-- Channels of the models that are not done; carried ones stay until they have drained. -/
def State.dropChans (s : State) (l : List Word) : List Word × State :=
  l.foldl (fun (r : List Word × State) h =>
    if !r.2.chanLive h then r
    else if r.2.carried h then (r.1 ++ [h], r.2)
    else (r.1, (r.2.dropChan h).logWrite .service 0x6020 2 0 [] (natLE 4 h.toNat))) ([], s)

/-- A job ends in a state; its tally is signalled once, unless a reset has taken it. -/
def State.endJob (s : State) (j : Job) (st : Nat) (signal : Bool) : State :=
  let s1 := s.abandonModels j
  let d := s1.dropChans (j.chans ++ j.draining)
  let s2 := d.2.putJob { j with state := st, chans := [], draining := d.1, members := [] }
  if signal then s2.signalGlobal 2 j.tally 1 else s2

/-- A reset of a context ends its jobs: abandoned, their tallies taken with it. -/
def State.abandonJobs (s : State) (c : Nat) : State :=
  (s.openJobs.filter fun j => j.ctx = c).foldl (fun s j => s.endJob j 4 false) s

/-! ## Requests of the service to other devices -/

/-- A request of the service: it takes its place in the sequence to its device (10 R351). -/
def State.svcRequest (s : State) (uid : Nat) (a : Ask) : State :=
  let f := s.fabric
  let key := 2 * a.dev + (if a.op = 6 then 1 else 0)
  let id := tget 0 key f.nextId
  let u := s.fresh
  let m : Msg := ⟨msgHeader a.op s.deviceNumber a.dev 0 (s.ctx 0).epoch 0 0 id a.addr a.nbytes a.aop a.atype 0 a.rid a.absent 0 0
    a.op0 a.op1, a.data⟩
  let r : Request := { uid := u.1, msg := m, cls := if a.op = 6 then 1 else 0, write := true, engine := 8, entry := uid }
  { u.2 with fabric := { f with requests := f.requests ++ [r], nextId := tset key ((id + 1) % 65536) f.nextId } }.sendWaiting
def State.svcOpen (s : State) (uid : Nat) : Bool := s.fabric.requests.any fun r => r.engine = 8 && r.entry = uid

/-- A service signal on another device's tally (08 R266). -/
def State.svcSignal (s : State) (uid dev g : Nat) : State :=
  if dev = s.deviceNumber then s.signalGlobal 2 g 1 else s.svcRequest uid { op := 0x06, dev := dev, addr := g, op0 := 1 }

/-! ## Checkpoints and evaluation triggers (14 R464) -/

def jobPages (rs : List (BitVec 128)) : List Nat :=
  rs.flatMap fun r => (List.range (snapCount r)).map fun i => snapBase r / 4096 + i

/-- Bytes sent to where a checkpoint goes, `off` bytes behind its beginning. -/
def State.shipBytes (s : State) (j : Job) (off : Nat) (bytes : List Byte) : State :=
  match j.destKind with
  | 0 => { s with sent := .hostWrite (s.ctx j.ctx).function (j.dest + off) bytes :: s.sent }
  | 1 =>
    if j.destDev = s.deviceNumber then s.svcWrite (j.destAddr + off) bytes
    else (pieceRanges (j.destAddr + off) bytes.length).foldl (fun s r =>
      s.svcRequest j.uid { op := 0x02, dev := j.destDev, addr := r.base, nbytes := r.len,
                           data := (bytes.drop (r.base - (j.destAddr + off))).take r.len }) s
  | _ => s.svcWrite (j.destAddr + off) bytes
/-- The next region of a checkpoint shipped, each page as the memory holds it now. -/
def State.shipRegion (s : State) (j : Job) : State :=
  let r := s.outsideRead (j.table + 16 * j.next) 16
  let e : BitVec 128 := BitVec.ofNat 128 (leNat r.1)
  let p := r.2.outsideRead (snapBase e) (4096 * snapCount e)
  (p.2.shipBytes j j.shipped.length p.1).putJob
    { j with next := j.next + 1, done := j.next + 1, shipped := j.shipped ++ p.1 }
/-- The end record, with the job's ID in place of a snapshot's (06 R217), behind the last page. -/
def State.shipEnd (s : State) (j : Job) : State :=
  let bytes := natLE 64 (pack [(16, j.id % 65536), (8, j.ctx), (32, j.shipped.length / 4096), (200, 0),
    (256, leNat (shake256 j.shipped 32))])
  (s.shipBytes j j.shipped.length bytes).putJob { j with sealed := true }

/-- The evaluation trigger: an alarm, or a signal on another device. -/
def State.trigger (s : State) (j : Job) : State :=
  match j.destKind with
  | 0 => s.alarm 0x0F 0x810 j.ctx (natLE 16 (pack [(32, j.id), (8, j.ctx), (88, 0)]))
  | _ => s.svcSignal j.uid j.destDev j.destTally

/-- Some stream of some tile of a team is halted. -/
def State.teamHalted (s : State) (team : Nat) : Bool :=
  (s.teamTiles team).any fun n => allStreams.any fun st => s.halted n st

/-- Nothing of a batch is left to do: no model to hand out, or no member to take one, and none at work. -/
def State.batchOver (s : State) (j : Job) : Bool :=
  (j.members.all fun m => m.model = none) &&
  (decide (j.count ≤ j.next) || j.cancelling || j.members.all fun m => m.halted || s.teamHalted m.team)
def State.settleBatch (s : State) (j : Job) : State :=
  if s.batchOver j then s.endJob j (if j.cancelling then 3 else 2) true else s.putJob j

/-- A checkpoint that ships nothing at the moment: it ends where it is cancelled or done, else its next region follows, and
behind the last one the end record. -/
def State.settleCheckpoint (s : State) (j : Job) : State :=
  if j.sealed then s.endJob j 2 true
  else if j.cancelling then s.endJob j 3 true
  else if j.next < j.count then s.shipRegion j
  else s.shipEnd j

/-- A job as time passes, while its context is not being reset: one whose requests have all been answered goes on or ends; a batch that has no member left ends; the
channels of an ended one drain. -/
def State.settleJob (s : State) (j : Job) : State :=
  if j.state = 1 then
    if !s.notResetting j.ctx then s
    else if j.kind = 0 then s.settleBatch j
    else if s.svcOpen j.uid then s
    else if j.kind = 1 then s.settleCheckpoint j
    else s.endJob { j with done := j.count } (if j.cancelling then 3 else 2) true
  else if !j.draining.isEmpty then
    let d := s.dropChans j.draining
    d.2.putJob { j with draining := d.1 }
  else s
def State.settleJobs (s : State) : State := s.service.jobs.foldl (fun s j => s.settleJob j) s

/-! ## JOB_START -/

/-- The service runs and takes up work (14 R460, R465; 16 R510). -/
def State.svcRuns (s : State) : Bool := s.serving && s.service.state = 1
def State.svcStarts (s : State) : Bool := s.svcRuns && !s.panel.attn

/-- A job may start: its team is held by no running job, or its tally has reached its value. -/
def State.jobReady (s : State) (j : Job) : Bool :=
  if j.kind = 0 then
    !(s.openJobs.any fun o => o.state = 1 && o.kind = 0 && (o.team = j.team || o.members.any fun m => (s.batchMembers j).contains m.team))
  else decide (j.afterValue ≤ (s.gtally j.afterTally).value)

/-- The job that starts next: the highest priority, then the earliest submitted. -/
def State.nextJob (s : State) : Option Job :=
  ((s.service.jobs.filter fun j => j.state = 0 && s.notResetting j.ctx && s.jobReady j)).foldl (fun (b : Option Job) (j : Job) => match b with
    | none => some j
    | some k => if k.priority < j.priority then some j else b) none

/-- A channel for each model, or none where they do not all fit. -/
def State.modelChans (s : State) (c : Nat) : Nat → Option (List Word × State)
  | 0 => some ([], s)
  | n + 1 =>
    match s.modelChans c n with
    | none => none
    | some r => (r.2.newChan c).map fun q => (r.1 ++ [q.1], q.2.logWrite .service 0x6020 1 0 [] [BitVec.ofNat 8 c])

/-- A batch starts: its members stand ready; without room for its channels it ends at once. -/
def State.startBatch (s : State) (j : Job) : State :=
  let ms : List Member := (s.batchMembers j).mapIdx fun i m => { team := m, doneAt := (s.gtally (j.doneBase + i)).value }
  match s.modelChans j.ctx j.count with
  | some r => r.2.putJob { j with state := 1, members := ms, chans := r.1 }
  | none => s.endJob j 2 true

def execJobStart (s : State) : Result :=
  if s.svcStarts then
    match s.nextJob with
    | none => .next s
    | some j0 =>
      let d := s.free 13
      let u := d.2.fresh
      let j : Job := { j0 with state := 1, die := d.1.toNat % 4, uid := u.1 }
      let s1 := u.2.putJob j
      .next (match j.kind with
        | 0 => s1.startBatch j
        | 1 => s1.shipRegion j
        | _ => (s1.trigger j).settleJob j)
  else .next s

/-! ## MODEL_HANDOUT (14 R463) -/

/-- The member that takes the next model: the lowest that is free and has not halted. -/
def State.freeMember (s : State) (j : Job) : Option Nat :=
  j.members.findIdx? fun m => m.model = none && !m.halted && !s.teamHalted m.team

/-- A member's tiles in rank order, each with its part of a state of so many pages. -/
def partBytes (pages tiles : Nat) : Nat := if tiles = 0 then 0 else 4096 * pages / tiles
/-- The record's state can be laid out over the member's tiles, within the context's memory. -/
def State.modelFits (s : State) (j : Job) (m tiles : Nat) : Bool :=
  mdState m % 4096 = 0 && (tiles = 0 || mdPages m % tiles = 0) &&
  decide (mdDst m + partBytes (mdPages m) tiles ≤ tileStoreBytes) && s.memOk j.ctx (mdState m) (4096 * mdPages m)

/-- A model's state moved in: each tile takes its equal part, in rank order (07 R248). -/
def State.swapIn (s : State) (m : Nat) (tiles : List Nat) : State :=
  let part := partBytes (mdPages m) tiles.length
  (tiles.mapIdx fun i n => (i, n)).foldl (fun s p =>
    let r := s.outsideRead (mdState m + p.1 * part) part
    r.2.svcWrite (tileBase p.2 + mdDst m) r.1) s
/-- A model's state moved back out. -/
def State.swapOut (s : State) (m : Nat) (tiles : List Nat) : State :=
  let part := partBytes (mdPages m) tiles.length
  (tiles.mapIdx fun i n => (i, n)).foldl (fun s p =>
    let r := s.outsideRead (tileBase p.2 + mdDst m) part
    r.2.svcWrite (mdState m + p.1 * part) r.1) s

def launchBlock (i : Nat) (chan : Word) (m : Nat) : List Byte :=
  natLE 32 (pack [(32, i), (32, chan.toNat), (64, mdParam m), (48, mdState m), (24, mdPages m), (56, 0)])

/-- The next model handed to a member: the state it held moved out and the model's moved in, unless it holds it already;
the launch block written to every tile of the member; its launch tally signalled. -/
def State.handOut (s : State) (j : Job) (k : Nat) (mb : Member) : State :=
  let i := j.next
  let m := s.model j i
  let tiles := s.teamTiles mb.team
  let prev := mb.held.map fun h => s.model j h
  let same := match prev with
    | some p => mdState p = mdState m && mdPages p = mdPages m && mdDst p = mdDst m
    | none => false
  let s1 := match prev with
    | some p => if j.writeback && !same then s.swapOut p tiles else s
    | none => s
  let s2 := if same then s1 else s1.swapIn m tiles
  let block := launchBlock i (lget j.chans i 0) m
  let s3 := tiles.foldl (fun s n => s.modTile n fun t => t.coreWrite 0 j.launchOff block) s2
  let mb1 : Member := { mb with model := some i, held := some i, given := mb.given + 1 }
  let s4 := s3.putJob { j with next := i + 1, members := lset j.members k mb1 }
  s4.signalGlobal 2 (j.launchBase + k) 1

def execModelHandout (id : Nat) (s : State) : Result :=
  match s.job id with
  | none => .next s
  | some j =>
    if !s.svcStarts || !s.notResetting j.ctx || j.state != 1 || j.kind != 0 || j.cancelling || decide (j.count ≤ j.next) then .next s
    else
      match s.freeMember j with
      | none => .next s
      | some k =>
        let mb : Member := lget j.members k { team := 0 }
        let m := s.model j j.next
        if s.modelFits j m (s.teamTiles mb.team).length && (s.badBlock (State.modelAt j j.next) 32).isNone then
          .next (s.handOut j k mb)
        -- a model whose state cannot be laid out, or whose record cannot be read, is abandoned (log 47)
        else .next ((s.setStatus j j.next 3).settleBatch { j with next := j.next + 1 })

/-! ## MODEL_DONE (14 R463) -/

/-- A member's model is over with a status; its channel goes once it has drained. -/
def State.modelOver (s : State) (j : Job) (k : Nat) (mb : Member) (i status : Nat) : State :=
  let s1 := s.setStatus j i status
  let h := lget j.chans i 0
  let d := s1.dropChans [h]
  let mb1 : Member := { mb with model := none, halted := mb.halted || status = 2 }
  d.2.settleBatch { j with members := lset j.members k mb1, draining := j.draining ++ d.1, done := j.done + (if status = 1 then 1 else 0) }

def execModelDone (id k : Nat) (s : State) : Result :=
  match s.job id with
  | none => .next s
  | some j =>
    match j.members[k]? with
    | none => .next s
    | some mb =>
      match mb.model with
      | none => .next s
      | some i =>
        if !s.svcRuns || j.state != 1 then .next s
        else if s.teamHalted mb.team then .next (s.modelOver j k mb i 2)
        else if mb.doneAt + mb.given ≤ (s.gtally (j.doneBase + k)).value then .next (s.modelOver j k mb i 1)
        else .next s

/-! ## Cancelling (14 R464) -/

def State.cancelJob (s : State) (j : Job) : State :=
  if j.state = 0 then s.endJob j 3 true
  else if j.kind = 0 then s.settleBatch { j with cancelling := true }
  else s.putJob { j with cancelling := true }

/-- job_status (R464). -/
def Job.status (j : Job) : Nat := pack [(8, j.state), (32, j.done), (8, j.kind), (80, 0)]

/-! ## The service's complexes (14 R465) -/

def execServiceHeartbeat (s : State) : Result :=
  .next (if s.svcRuns then { s with service := { s.service with heartbeat := (s.service.heartbeat + 1) % 2 ^ 32 } } else s)

/-- A complex stops: its jobs end as abandoned and an alarm is raised, whose kind and body the spec does not give (log 43). -/
def execServiceComplexStop (die : Nat) (restarts : Bool) (s : State) : Result :=
  if die < 4 then
    if s.svcRuns then
      let k := s.free 14
      let b := k.2.free 15
      let s1 := b.2.alarm (k.1.toNat % 64) (0x810 + die) 0 (natLE 16 b.1.toNat)
      let s2 := (s1.openJobs.filter fun j => j.state = 1 && j.die = die).foldl (fun s j => s.endJob j 4 true) s1
      .next (if restarts then s2 else { s2 with service := { s2.service with state := 2 } })
    else .next s
  else .fault .noSuchPlace

end Sys2Proof.Machine
end

