-- ==== Sys2Proof/Machine/Resets.lean ====
section
/-!
DEFINITION. Context reset (spec/13 R401–R407; spec/01 R45; spec/02 R78; spec/10 R354).
-/
namespace Sys2Proof.Machine

/-! ## Cut commands (13 R402 step 1, R403) -/

/-- Bytes of which each is the old or the new one. -/
def State.cutBytes (s : State) (a : Nat) (old new : List Byte) : List Byte :=
  new.mapIdx fun i b => if Config.cutTakesNew s.draws (a + i) then b else old.getD i 0#8

/-- What a cut effect leaves. -/
def State.cutEffect (s : State) (f : Effect) : State :=
  let s1 := { s with draws := s.draws + 1 }
  match f with
  | .store a bytes => s1.storeBytes a (s.cutBytes a (s.loadBytes a bytes.length) bytes)
  | .dmem t a bytes =>
    let old := peeks (s.tile t).dmem a bytes.length
    s1.modTile t fun x => x.coreWrite 0 a (s.cutBytes a old bytes)
  | .imem t bank a bytes =>
    let old := (List.range bytes.length).map fun i => s.imemByte t bank (a + i)
    s1.modTile t fun x => x.coreWrite (bank + 1) a (s.cutBytes a old bytes)
  | .amax a mag =>
    let old := s.loadBytes a 4
    s1.storeBytes a (s.cutBytes a old (natLE 4 (amaxWord (leWord old) mag).toNat))
  | _ => s

/-- The bytes a piece of a gathering command reads, those not yet come included. -/
def State.pieceNow (s : State) (p : Piece) : Piece :=
  { p with data := some (p.data.getD (if p.dev = s.deviceNumber then s.loadBytes p.addr p.len
      else (List.range p.len).map fun i => BitVec.ofNat 8 (Config.freeWord 8 (s.draws + i)).toNat)) }

/-- A cut MOVE: rows it would have written to the own device. -/
def State.cutMove (s : State) (x : Entry) : State :=
  match x.plan with
  | .move d =>
    let s0 := { s with draws := s.draws + x.pieces.length + 256 }
    let rows := mvData d.toNat { x with pieces := x.pieces.map s.pieceNow }
    if mvKind d.toNat = 0 then
      if mvDdev d.toNat != s.deviceNumber then s
      else ((mvDstRows d.toNat).zip rows).foldl (fun s p => s.cutEffect (.store p.1.base p.2)) s0
    else
      ((mvCoreRows d.toNat).zip rows).foldl (fun s p => s.cutEffect
        (if mvKind d.toNat = 1 then .imem (mvTile d.toNat) (mvBank d.toNat) p.1.base p.2
         else .dmem (mvTile d.toNat) p.1.base p.2)) s0
  | _ => s

/-- A cut RWGET: each byte of the rows it would have written in the tile store (07 R248). -/
def State.cutFetch (s : State) (n : Nat) (x : Entry) : State :=
  match x.plan with
  | .rwget _ =>
    let d := s.fetchDesc n x
    ((fdDstRows n d).zip (fetchRows d { x with pieces := x.pieces.map s.pieceNow })).foldl (fun s p =>
      s.cutEffect (.store p.1.base (p.2.mapIdx fun i b => b.getD ((s.loadBytes (p.1.base + i) 1).getD 0 0#8)))) s
  | _ => s

def State.cutEntry (s : State) (n : Nat) (x : Entry) : State :=
  if x.issued then (x.effects.foldl (fun s f => s.cutEffect f) ((s.cutMove x).cutFetch n x)) else s

/-- Every issued command of a tile is cut. -/
def State.cutTile (s : State) (n : Nat) : State :=
  let t := s.tile n
  let queued := allEngines.flatMap fun e => allStreams.flatMap fun st => (s.queue n e st).entries
  let items := allStreams.flatMap fun st => (t.runs.get st).elim [] (·.queue)
  (queued ++ items).foldl (fun s x => s.cutEntry n x) s

/-! ## The beginning of a reset (13 R402 steps 1, 2, 4) -/

def State.setResetting (s : State) (c : Nat) (v : Bool) : State :=
  { s with teams := s.teams.map fun e =>
      (e.1, if e.1 != 0 && teamKind e.2 != 0 && teamCtx e.2 = c then withField e.2 124 1 (b2n v) else e.2) }

/-- Every live channel of a context is destroyed (01 R45). -/
def State.destroyChans (s : State) (c : Nat) : State :=
  { s with chans := tmap (fun _ x => if x.live = some c then x.destroy else x) s.chans }

/-- An EPOCH message to a device (10 R354). -/
def State.sendEpoch (s : State) (c dev : Nat) : State :=
  let u := s.fresh
  let m : Msg := ⟨msgHeader 0x07 s.deviceNumber dev c (s.ctx c).epoch 0 0 0 0 1 0 0 0 0 false 0 0 0 0, []⟩
  let r : Request := { uid := u.1, msg := m, cls := 1, write := false, sent := true, engine := 9 }
  { u.2 with fabric := { u.2.fabric with requests := u.2.fabric.requests ++ [r] } }.route m none 0

/-- A fail action's dump of the context still waits or runs (13 R400, R401). -/
def State.dumpAhead (s : State) (c : Nat) : Bool := s.trouble.dumps.any fun d => d.ctx = c && (d.cause = 1 || d.running)

/-- A reset of a context may start: it exists, some request waits, and no dump goes first. -/
def State.mayReset (s : State) (c : Nat) : Bool :=
  s.serving && c != 0 && ((s.ctx c).state = 1 || (s.ctx c).state = 2) && !(s.ctx c).waiting.isEmpty && !s.dumpAhead c

/-- Steps 1, 2 and 4; every request that waits joins this reset. -/
def State.beginReset (s : State) (c : Nat) : State :=
  let x := s.ctx c
  let asked := tget [] c s.fabric.asked
  -- a destruction names its own cause (14 R457)
  let cause := (((x.waiting.find? (·.2)).or x.waiting.head?).map (·.1)).getD 0
  let r : Resetting := { cause := cause, destroy := x.waiting.any (·.2), awaited := asked }
  let s1 := (s.ctxTiles c).foldl (fun s n => s.cutTile n) s
  let s2 := ((s1.setResetting c true).destroyChans c).modCtx c fun y => { y with
    state := 4, epoch := (y.epoch + 1) % 256, resetting := some r, waiting := [] }
  let s3 := { s2 with fabric := { s2.fabric with asked := terase c s2.fabric.asked } }
  asked.foldl (fun s d => s.sendEpoch c d) s3

def execContextReset (c : Nat) (s : State) : Result :=
  if c < 256 then .next (if s.mayReset c then s.beginReset c else s) else .fault .noSuchPlace

/-! ## Units that do not quiesce, devices that do not answer (13 R402; 10 R354) -/

/-- A unit has not acknowledged by 26 µs: a tile (its number), a cache die (0x800 + c) or a port die (0x810 + p). -/
def execQuiesceTimeout (c unit : Nat) (s : State) : Result :=
  if c < 256 ∧ (unit < 0x808 ∨ (0x810 ≤ unit ∧ unit < 0x814)) then
    if (s.ctx c).state != 4 then .next s
    else if unit < 2048 then .next (if s.alive unit && s.owner unit = c then s.tileFault unit 3 else s)
    else if unit < 0x808 then .next (s.deviceFault (16 + (unit - 0x800)) 0 0x04)
    else .next (s.deviceFault (24 + (unit - 0x810)) 0 0x04)
  else .fault .noSuchPlace

def execEpochAckTimeout (c : Nat) (s : State) : Result :=
  if c < 256 then
    match (s.ctx c).resetting with
    | none => .next s
    | some r =>
      let bitsOf := (r.awaited.filter (· < 64)).foldl (fun m d => m ||| 2 ^ d) r.unacked
      let s1 := s.modCtx c fun x => { x with resetting := some { r with awaited := [], unacked := bitsOf } }
      let keep (q : Request) : Bool := !(mOp q.msg = 0x07 && mCtx q.msg = c)
      let s2 := { s1 with fabric := { s1.fabric with requests := s1.fabric.requests.filter keep } }
      -- each device that has not answered is a trigger of R356; no stream has halted, and the reason is 0 (log 72)
      .next (r.awaited.foldl (fun s d => s.teardown c d 0) s2)
  else .fault .noSuchPlace

/-! ## The end of a reset (13 R402 steps 5, 6, R405) -/

/-- A thread after a reset of its context (02 R78). -/
def Thread.afterReset (t : Thread) (target : Nat) : Thread := { bank := target, pc := t.pc }

/-- A lock-step sequence after a reset: its windows are discarded. -/
def LockSeq.afterReset (l : LockSeq) : LockSeq := { ctx := l.ctx, born := l.born, count := l.count, window := l.window }

/-- An array after a reset of its context: a pass that is cut begins a gap under the dribble setting in force (03 R115–R118). -/
def Arr.afterReset (a : Arr) (cut dribble : Bool) : Arr :=
  { level := if cut && !dribble then 0 else a.level, gapDribble := if cut then dribble else a.gapDribble,
    dribbleCycles := a.dribbleCycles }

/-- A tile after a reset of its context, with the dribble setting in force and the arrays whose passes are cut: what R405
lists is cleared, the rest is kept; thread 0 holds the turn (02 R51). -/
def Tile.afterReset (t : Tile) (dribble : Bool) (cut : Nat → Bool) : Tile :=
  { t with
    threads := t.threads.map fun th => th.afterReset t.targetBank
    turn := .fwd
    switching := []
    queues := ⟨⟨{}, {}, {}⟩, ⟨{}, {}, {}⟩, ⟨{}, {}, {}⟩, ⟨{}, {}, {}⟩, ⟨{}, {}, {}⟩, ⟨{}, {}, {}⟩⟩
    dispatch := ⟨[], [], []⟩
    unacked := []
    unsent := []
    arrays := t.arrays.mapIdx fun i a => a.afterReset (cut i) dribble
    drainDescs := []
    descAt := []
    runs := ⟨none, none, none⟩
    lists := []
    zeroFlags := []
    predictors := []
    lateSegments := 0
    spareSegments := 0
    vec := {}
    optDescs := []
    extents := []
    layers := []
    replicas := []
    closing := []
    nanTokens := 0
    tallies := []
    arrivals := []
    pools := []
    lockSeqs := tmap (fun _ l => l.afterReset) t.lockSeqs
    whistles := []
    warned := [] }

/-- Huddles at round 0 (08 R283). -/
def Huddle.afterReset (h : Huddle) : Huddle := { desc := withField (withField (withField h.desc 64 16 0) 52 12 0) 40 12 0 }

/-- Everything of R405 that does not lie in a tile. -/
def State.clearShared (s : State) (c : Nat) : State :=
  let g := (s.ctx c).gtallyGrant
  let keepReq (r : Request) : Bool := mCtx r.msg != c || r.write
  { s with
    gtallies := s.gtallies.filter fun e => !inGrant g e.1
    huddles := tmap (fun _ h => if hdCtx h.desc = c then h.afterReset else h) s.huddles
    reds := s.reds.filter fun e => e.2.ctx != c
    pools := s.pools.filter fun e => e.2.ctx != c
    snaps := s.snaps.filter fun e => e.2.ctx != c
    teamCmds := s.teamCmds.filter fun e => e.2.ctx != c
    fabric := { s.fabric with
      requests := s.fabric.requests.filter keepReq
      gathers := s.fabric.gathers.filter fun e => e.2.1 != c } }

/-- The reset record (13 R406). -/
def resetRecord (c epoch cause count : Nat) (duration : BitVec 48) (unacked seq quarantined : Nat) : BitVec 256 :=
  BitVec.ofNat 256 (pack [(8, c), (8, epoch), (4, cause), (16, count), (48, duration.toNat), (64, unacked), (16, seq),
    (12, quarantined), (80, 0)])

/-- Whether a team entry belongs to a context. -/
def teamIs (c : Nat) (e : Nat × BitVec 128) : Bool := e.1 != 0 && teamKind e.2 != 0 && teamCtx e.2 = c

/-- A context's destruction once it has been reset: its huddles, teams and reserve go (14 R457). -/
def State.destroyContext (s : State) (c : Nat) : State :=
  ({ s with
    huddles := s.huddles.filter fun e => hdCtx e.2.desc != c
    teams := s.teams.filter fun e => !teamIs c e }.modCtx c fun x =>
    { x with state := 0, reservePages := 0, reserveAt := 0, resets := 0 }).gateArrays

def State.endReset (s : State) (c : Nat) (r : Resetting) : State :=
  -- the context's jobs end (14 R464)
  let s1 := s.abandonJobs c
  let s2 := (((s.ctxTiles c).foldl (fun s n => s.modTile n (·.afterReset (s.ctx c).dribble (s.passOn n · none))) s1).clearShared
    c).setResetting c false
  let seq := s2.nextSeq 0x820 0
  let d := s2.cycle 0x820
  let count := min 0xFFFF ((s.ctx c).resets + 1)
  let rec0 := resetRecord c (s.ctx c).epoch r.cause count d.1 r.unacked seq r.quarantined
  let s3 := d.2.modCtx c fun x => { x with state := 1, resetting := none, resets := count, resetRecord := rec0 }
  let s4 := s3.alarm 0x04 0x820 c (natLE 32 rec0.toNat)
  if r.destroy then s4.destroyContext c else s4

/-- Every unit has acknowledged quiesce, and the EPOCH ACKs are in or have timed out; a restart that waits for the last
context's destruction begins (15 R499). -/
def execQuiesceComplete (c : Nat) (s : State) : Result :=
  if c < 256 then
    match (s.ctx c).resetting with
    | some r => .next (if (s.ctx c).state = 4 && r.awaited.isEmpty then (s.endReset c r).settleRestart else s)
    | none => .next s
  else .fault .noSuchPlace

end Sys2Proof.Machine
end

