-- ==== Sys2Proof/Machine/Power.lean ====
section
/-!
DEFINITION. Supplies, power states, the ride-through, the power and thermal loops (spec/15 R466–R483).
-/
namespace Sys2Proof.Machine

/-! ## Base camp's supply (15 R467, R469) -/

def Power.camp (p : Power) : Bool := p.mainOk || p.backupOk

/-- Both supplies are failed: everything but the non-volatile store is lost (15 R469; 14 R443). -/
def State.loseAll (s : State) : State :=
  { State.reset with
    pending := s.pending
    draws := s.draws
    nextUid := s.nextUid
    sent := s.sent
    camp := {
      headSeq := s.camp.headSeq
      headLink := s.camp.headLink
      baseSeq := if s.camp.log.isEmpty then s.camp.baseSeq else s.camp.headSeq
      baseLink := if s.camp.log.isEmpty then s.camp.baseLink else s.camp.headLink
      lost := s.camp.lost + s.camp.log.length }
    power := {
      grade := s.power.grade
      yieldMap := s.power.yieldMap
      bootCount := s.power.bootCount
      eventSeq := s.power.eventSeq
      clockMhz := s.power.grade.mhz
      clockLive := s.power.grade.mhz
      limitW := s.power.grade.watts }
    trust := { kinds := s.trust.kinds.map fun k => { k with running := none } } }

/-! ## Power events (15 R475) -/

/-- The contexts from lo that exist, as a map of n bits. -/
def State.ctxMap (s : State) (lo n : Nat) : Nat :=
  s.ctxs.foldl (fun m e => if lo ≤ e.1 ∧ e.1 < lo + n ∧ e.1 != 0 ∧ e.2.state != 0 then m ||| 2 ^ (e.1 - lo) else m) 0

/-- The newest entry of the power event log changed. -/
def Power.modEvent (p : Power) (f : BitVec 256 → BitVec 256) : Power := { p with events := lset p.events 0 (f (lget p.events 0 0)) }

/-- An event becomes the newest entry; one whose outcome is open takes outcome 3. -/
def State.powerEvent (s : State) (cause : Nat) : State :=
  let map := s.ctxMap 0 216
  s.modPower fun p =>
    let p1 := if p.eventOpen then p.modEvent fun r => withField r 250 2 3 else p
    let seq := (p.eventSeq + 1) % 65536
    { p1 with
      events := (BitVec.ofNat 256 (pack [(1, 1), (3, cause), (2, 0), (1, 0), (17, 0), (16, seq), (216, map)]) :: p1.events).take 8
      eventSeq := seq
      eventOpen := true }

/-- The outcome of the newest event is decided. -/
def Power.outcome (p : Power) (o : Nat) : Power := { p.modEvent fun r => withField r 250 2 o with eventOpen := false }

/-! ## The ride-through (15 R472, R473) -/

/-- A MOVE cut at time 0: each 64 B block of external memory it would have written holds its earlier or its new value. -/
def State.rideMove (s : State) (x : Entry) : State :=
  match x.plan with
  | .move d =>
    if x.issued && mvKind d.toNat = 0 && mvDdev d.toNat = s.deviceNumber then
      let rows := mvData d.toNat { x with pieces := x.pieces.map s.pieceNow }
      let s0 := { s with draws := s.draws + x.pieces.length + 256 }
      ((mvDstRows d.toNat).zip rows).foldl (fun s p => (writeParts p.1.base p.2).foldl (fun s q =>
        if nearBase ≤ q.1 ∧ Config.cutTakesNew s.draws (q.1 / 64) then s.storeBytes q.1 q.2 else s) s) s0
    else s
  | _ => s

/-- The down notice of a port that is up (10 R335). -/
def State.notice (s : State) (p : Nat) : State :=
  if s.portUp p then s.emit p ((s.port p).flit 3 0 0 (s.port p).seq 0 0 (s.controlBody p 0x04)) else s

/-- Time 0: every tile stops, commands are cut, ports give notice and stop (R472). -/
def State.startRide (s : State) (cause : Nat) : State :=
  let s1 := s.tiles.foldl (fun s t => t.2.commands.foldl (fun s x => s.rideMove x) s) s
  let s2 := (List.range portCount).foldl (fun s p => s.notice p) s1
  let s3 := s2.powerEvent cause
  let upper := s.ctxMap 216 40
  s3.modPower fun p =>
    -- a bring-up that had not completed training loses the memory (R474)
    let lost := p.state = 1 && decide (p.phase ≤ 5) && p.memKept
    { p with
      state := 3
      -- base camp's own start goes on (R484)
      phase := if p.phase = 1 then 1 else 0
      rideSteps := 0
      restart := 0
      memKept := p.memKept && !lost
      status := withField (if lost then p.status ||| 4#64 else p.status) 24 40 upper }

/-- Junctions allow the module to leave HOLD or STOPPED after a thermal trip (R483). -/
def Power.cool (p : Power) : Bool := !p.thermTrip || p.temps.all fun t => decide (t.2 < 95000)
/-- The pin THERM_TRIP_N (16 R503): low from a thermal trip until the module leaves HOLD or STOPPED. -/
def Power.thermTripN (p : Power) : Bool := !p.thermTrip
def Power.mayStart (p : Power) : Bool := p.mainOk && p.cool

/-- Main power is good again in HOLD: a bring-up, warm where the memory was kept (R474). The time spent in HOLD is a free
value of at most 60 s (log 4). Where base camp is still in its own start, phase 1 goes on; without a boot firmware none can follow
(R492). -/
def State.resume (s : State) : State :=
  if s.power.state = 4 && s.power.mayStart then
    let t := s.free 16
    let s1 := t.2.modPower fun p => { p.modEvent fun r => withField r 232 17 (t.1.toNat % 601) with thermTrip := false }
    if s1.power.rom then s1.stopped else s1.startBringup (s1.power.phase = 1)
  else s

/-- The backup has failed and main power carries base camp: the packages, which the backup held, lose the memory; the event says so
and another, of cause 4, follows (R474, R475; log 125). -/
def State.holdLost (s : State) : State :=
  let s1 := (s.memoryLost.modPower fun p => { p.outcome 2 with memKept := false }).powerEvent 4
  let s2 := s1.modPower fun p => p.outcome 2
  if s2.power.mayStart then s2.resume else s2.stopped

/-- The run-down's next time point: homes stop; write-back done; self-refresh; everything but base camp and the packages off. -/
def execRideThroughStep (s : State) : Result :=
  .next (if s.power.state = 3 then
    let s1 := s.modPower fun p => { p with rideSteps := p.rideSteps + 1 }
    match s1.power.rideSteps with
    | 1 => s1
    | 2 => s1.modPower fun p => p.modEvent fun r => withField r 249 1 1
    | 3 => s1
    | _ =>
      let s2 := (s1.clearDies.clearStores).modPower fun p => { p with state := 4, slots := 0 }
      if s2.power.backupOk then s2.resume else s2.holdLost
  else s)

/-- 60 s in HOLD have passed: the packages are powered down (R474). Base camp's own start, of 0.5 s, is over by then (R484). -/
def execHoldLimit (s : State) : Result :=
  .next (if s.power.state = 4 && s.power.phase != 1 then
    (s.memoryLost.modPower fun p => (p.modEvent fun r => withField r 232 17 600).outcome 1).stopped
  else s)

/-! ## Supplies (15 R466–R469) -/

/-- power_status shows that the backup does not stand by (R469): with its failure, and where main power comes alone. -/
def State.showBackup (s : State) : State :=
  if s.power.backupOk then s else s.modPower fun p => { p with status := p.status ||| 1#64 }

def execMainGood (s : State) : Result :=
  .next (if s.power.mainOk then s
    else
      let wasOn := s.power.camp
      let s1 := (s.modPower fun p => { p with mainOk := true }).showBackup
      if !wasOn then s1.startCamp
      else if s.power.state = 0 && s.power.phase = 0 then s1.startBringup false
      else s1.resume)

def execMainFail (overvoltage : Bool) (s : State) : Result :=
  .next (if !s.power.mainOk then s
    else if !s.power.backupOk then s.loseAll
    else
      let s1 := s.modPower fun p => { p with mainOk := false }
      if s.power.state = 1 ∨ s.power.state = 2 then s1.startRide (if overvoltage then 1 else 0) else s1)

/-- An excursion into the band that is neither good nor failed, counted in service. -/
def execMainExcursion (s : State) : Result :=
  .next (if s.power.mainOk && s.serving then
    s.modPower fun p =>
      { p with status := withField (p.status ||| 8#64) 8 16 (min 0xFFFF (bits p.status.toNat 23 8 + 1)) }
  else s)

def execBackupGood (s : State) : Result :=
  .next (if s.power.backupOk then s
    else
      let s1 := s.modPower fun p => { p with backupOk := true }
      if s.power.camp then s1 else s1.startCamp)

/-- The backup is declared failed: base camp stops where main power does not carry it (R469, R474). -/
def execBackupFail (s : State) : Result :=
  .next (if s.power.mainOk then
      let s1 := (s.modPower fun p => { p with backupOk := false }).showBackup
      if s.power.state = 4 && s.power.backupOk then s1.holdLost else s1
    else if s.power.backupOk then s.loseAll
    else s)

/-! ## Rails (15 R471) -/

def execPowerUpSlot (s : State) : Result :=
  .next (if s.power.state = 1 && s.power.phase = 2 && decide (0 < s.power.slots) && decide (s.power.slots < 8) then
    s.modPower fun p => { p with slots := p.slots + 1 }
  else s)

/-- A rail out of regulation: STOPPED, with a power event that names the rail, in the field that a ride-through's time in HOLD has
and by a code that is a free value (log 48). -/
def execRailFault (rail : Nat) (s : State) : Result :=
  .next (if 1 ≤ s.power.state ∧ s.power.state ≤ 4 then
    ((s.powerEvent 3).modPower fun p => { p.modEvent fun r => withField r 232 17 (Config.railCode rail).toNat with
      eventOpen := false }).stopped
  else s)

/-! ## The power controller (15 R481) -/

def Power.ceiling (p : Power) (n : Nat) : Nat := max 400 (p.clockLive - 25 * lget p.lowered n 0)
/-- A tile island's frequency: no higher than its ceiling (R476). -/
def Power.freq (p : Power) (n : Nat) : Nat := min (tget p.clockLive n p.freqs) (p.ceiling n)
def Power.lower (p : Power) (n : Nat) : Nat := if 400 < p.ceiling n then lget p.lowered n 0 + 1 else lget p.lowered n 0
def Power.allLower (p : Power) : Power := { p with lowered := (List.range 2048).map p.lower }
def Power.allRaise (p : Power) : Power := { p with lowered := (List.range 2048).map fun n => lget p.lowered n 0 - 1 }
/-- The clock setting in effect moves one step towards the written one, in SERVICE; a bring-up keeps that of its start (R482). -/
def Power.follow (p : Power) : Power :=
  if p.state != 2 then p
  else if p.clockLive < p.clockMhz then { p with clockLive := min p.clockMhz (p.clockLive + 25) }
  else { p with clockLive := max p.clockMhz (p.clockLive - 25) }
/-- The power limit in effect: a bring-up's is that of its start (R482). -/
def Power.limit (p : Power) : Nat := if p.state = 1 then p.testW else p.limitW

/-- What the controller does after a measurement of w watts. Each tick moves a ceiling by one step at most. -/
def Power.control (p : Power) (w : Nat) : Power :=
  if p.limit < w then
    let p1 := { p with under := 0 }
    if (List.range 2048).all fun n => p.ceiling n = 400 then { p1 with status := p.status ||| 2#64 } else p1.allLower
  else if w * 100 < p.limit * 97 then
    let p1 := { p with under := (p.under + 1) % 10 }
    if p.under = 9 && (p.follow).clockLive = p.clockLive then p1.allRaise else p1.follow
  else { p with under := 0 }.follow

/-- The measurement goes on in every state in which base camp runs; the ceilings matter where tiles are powered. -/
def execPowerControlTick (w : Nat) (s : State) : Result :=
  .next (if s.power.camp then
    s.modPower fun p0 =>
      let p := { p0 with powerW := w % 65536 }
      if p.state = 1 ∨ p.state = 2 then p.control w else p
  else s)

/-! ## The thermal loop (15 R483) -/

/-- Sensors: tiles, cache dies from 2048, port dies from 2056. -/
def sensorCount : Nat := 2060

/-- A tile's throttle after a sample: it begins at 100 °C, lowers the ceiling each tenth sample, ends below 97 °C. -/
def Power.throttle (p : Power) (n : Nat) (t : Int) : Power :=
  let active := (tfind n p.throttled).isSome
  if decide (100000 ≤ t) || (active && decide (97000 ≤ t)) then
    let k := tget 0 n p.throttled
    let p1 := { p with throttled := tset n ((k + 1) % 10) p.throttled }
    if k = 0 then { p1 with lowered := (List.range 2048).map fun m => if m = n then p.lower m else lget p.lowered m 0 } else p1
  else { p with throttled := terase n p.throttled }

def Power.sample (p : Power) (t : Nat × Int) : Power :=
  let p1 := { p with temps := tset t.1 t.2 p.temps }
  if t.1 < 2048 then p1.throttle t.1 t.2 else p1

/-- Junction temperatures read, in m°C: placement and throttling by tile, a trip at 115 °C. -/
def execThermalSample (temps : List (Nat × Int)) (s : State) : Result :=
  if temps.all fun t => decide (t.1 < sensorCount) then
    .next (if !s.power.camp || s.power.state = 0 then s
      else
        let s1 := s.modPower fun p => temps.foldl Power.sample p
        if (s.power.state = 1 ∨ s.power.state = 2) ∧ temps.any (fun t => decide (115000 ≤ t.2)) then
          (s1.startRide 2).modPower fun p => { p with thermTrip := true }
        else s1.resume)
  else .fault .noSuchPlace

/-! ## Tile islands (15 R476, R477) -/

/-- One step of 25 MHz of a tile island's loop. -/
def execIslandFreqStep (n : Nat) (up : Bool) (s : State) : Result :=
  if n < 2048 then
    .next (if s.alive n then
      let f := s.power.freq n
      if up then
        if f + 25 ≤ s.power.ceiling n then s.modPower fun p => { p with freqs := tset n (f + 25) p.freqs } else s
      else if 25 < f then s.modPower fun p => { p with freqs := tset n (f - 25) p.freqs } else s
    else s)
  else .fault .noSuchPlace

/-- A droop: clock periods are lengthened. -/
def execSupplyDroop (n : Nat) (s : State) : Result :=
  if n < 2048 then
    .next (if s.alive n then s.modPower fun p => { p with droops := setInsert p.droops n } else s)
  else .fault .noSuchPlace
def execDroopRecover (n : Nat) (s : State) : Result :=
  if n < 2048 then
    .next (if s.alive n then s.modPower fun p => { p with droops := p.droops.filter (· != n) } else s)
  else .fault .noSuchPlace

end Sys2Proof.Machine
end

