-- ==== Sys2Proof/Machine/Rings.lean ====
section
/-!
DEFINITION. PCIe functions and their control queues (spec/14 R446–R448, R452): who is bound to what, entries taken, completions
written, and event rings (R437).
-/
namespace Sys2Proof.Machine

/-! ## Functions (14 R446, R447) -/

def fnCount : Nat := 64
def ringCount : Nat := 16
def State.fn (s : State) (f : Nat) : Fn := tget {} f s.fns
def State.modFn (s : State) (f : Nat) (g : Fn → Fn) : State := { s with fns := tset f (g (s.fn f)) s.fns }
/-- A physical function. -/
def State.physical (s : State) (f : Nat) : Bool := f = 0 || (f = 32 && s.camp.liveBifurcation = 1)
/-- The size of a function's BAR2, as log₂ bytes: the host's choice, from 1 GiB up to the largest offered (R450). -/
def State.bar2Log2 (s : State) (f : Nat) : Nat := max 30 (min (Config.bar2Choice f) s.camp.liveBar2Log2)
/-- A function may name a context. -/
def State.mayName (s : State) (f c : Nat) : Bool := s.physical f || (c != 0 && (s.ctx c).function = f)
/-- PCIe has trained (15 R484). -/
def State.pcieUp (s : State) : Bool := s.portsRun && (s.serving || decide (2 < s.power.phase))
def State.countFnDrop (s : State) (f : Nat) : State := s.modFn f fun x => { x with drops := satAdd 32 x.drops 1 }
/-- A write into host memory. -/
def State.toHost (s : State) (f a : Nat) (bytes : List Byte) : State := { s with sent := .hostWrite f a bytes :: s.sent }
def State.interrupt (s : State) (f v : Nat) : State := { s with sent := .interrupt f v :: s.sent }

/-! ## Rings (14 R452) -/

def State.ring (s : State) (f r : Nat) : Ring := tget {} r (s.fn f).rings
def State.modRing (s : State) (f r : Nat) (g : Ring → Ring) : State :=
  s.modFn f fun x => { x with rings := tset r (g (tget {} r x.rings)) x.rings }
def Ring.size (r : Ring) : Nat := 2 ^ r.log2

def qOp (e : BitVec 512) : Nat := bits e.toNat 511 504
def qCtx (e : BitVec 512) : Nat := bits e.toNat 503 496
def qTag (e : BitVec 512) : Nat := bits e.toNat 495 480
/-- Argument bits of an entry. -/
def qArg (e : BitVec 512) (hi lo : Nat) : Nat := bits e.toNat hi lo

/-- A completion entry written behind the others, with the ring's interrupt. -/
def State.completeRing (s : State) (f r : Nat) (e : BitVec 512) (abort result : Nat) : State :=
  let x := s.ring f r
  let phase := 1 - (x.done / x.size) % 2
  let bytes := natLE 16 (pack [(16, qTag e), (16, abort), (64, result), (31, 0), (1, phase)])
  ((s.modRing f r fun y => { y with done := y.done + 1 }).toHost f (x.cbase + 16 * (x.done % x.size)) bytes).interrupt f (r + 1)

/-- The entry at the front leaves the submission ring. -/
def State.takeEntry (s : State) (f r : Nat) : State :=
  s.modRing f r fun x => { x with entries := x.entries.drop 1, head := (x.head + 1) % x.size }

/-- The front entry of a ring in service; `overlaps` where it need not wait for the copies before it. -/
def State.frontOf (s : State) (f r : Nat) (overlaps : Bool) : Option (BitVec 512) :=
  let x := s.ring f r
  if s.serving && x.enable && (overlaps || x.copies.isEmpty) then x.entries.head? else none

/-! ## Event rings (14 R437, R448) -/

/-- Whether the event ring has room, which no register of BAR0 tells the device: a free value at each delivery (log 49). -/
def State.evtRoom (s : State) : Bool × State := let w := s.free 17; (w.1.toNat % 2 = 1, w.2)

def State.writeEvent (s : State) (f : Nat) (bytes : List Byte) : State :=
  let x := s.fn f
  (s.toHost f (x.evtBase + 512 * (x.evtTail % 2 ^ x.evtLog2)) (bytes ++ List.replicate (512 - bytes.length) 0#8)).modFn f fun y =>
    { y with evtTail := y.evtTail + 1 }

/-- Alarms that wait go out in order until the ring is full. -/
def State.flushEvents (s : State) (f : Nat) : Nat → State
  | 0 => s
  | n + 1 =>
    match (s.fn f).evtWaiting with
    | [] => s
    | r :: rest =>
      let room := s.evtRoom
      if s.pcieUp && room.1 then
        State.flushEvents ((room.2.modFn f fun x => { x with evtWaiting := rest }).writeEvent f (r.header ++ r.body)) f n
      else room.2

/-- A record for a function's event ring: alarms and gap records wait for room, others are lost where there is none. -/
def State.pushEvent (s : State) (f : Nat) (r : Record) : State :=
  if (s.fn f).evtBase = 0 then s
  else if r.cls = 0 ∨ r.cls = 3 then
    (s.modFn f fun x => { x with evtWaiting := x.evtWaiting ++ [r] }).flushEvents f ((s.fn f).evtWaiting.length + 1)
  else
    let room := s.evtRoom
    if s.pcieUp && room.1 && (s.fn f).evtWaiting.isEmpty then room.2.writeEvent f (r.header ++ r.body)
    else { room.2 with trouble := { room.2.trouble with gaps := addGap r room.2.trouble.gaps } }

end Sys2Proof.Machine
end

