-- ==== Sys2Proof/Machine/HostMemory.lean ====
section
/-!
DEFINITION. What the host reaches in device memory (spec/14 R447, R449, R450): what a function may name, and the writes it has
posted, which the device performs in order.
-/
namespace Sys2Proof.Machine

/-! ## What a function may reach (14 R447, R449, R450) -/

/-- The contexts of a virtual function that exist. -/
def State.fnCtxs (s : State) (f : Nat) : List Nat := (s.ctxs.filter fun e => e.1 != 0 && e.2.state != 0 && e.2.function = f).map (·.1)
/-- A page that there is: no quarantined tile's. -/
def State.pageThere (s : State) (p : Nat) : Bool :=
  match s.place (p * 4096) with
  | .nothing => false
  | .store n _ => !(s.tile n).faulty
  | _ => true
/-- An access by a function to device memory is allowed. -/
def State.fnMay (s : State) (f a n : Nat) : Bool :=
  decide (0 < n) && decide (a + n ≤ 2 ^ 48) &&
  (pagesOf a n).all fun p => s.pageThere p && (s.physical f || (s.fnCtxs f).any fun c => s.pageOk c p)
def State.fnTally (s : State) (f g : Nat) : Bool := s.physical f || (s.fnCtxs f).any fun c => inGrant (s.ctx c).gtallyGrant g

/-- A signal by the host, or the refusal counted. The spec names no source for it: ls_src is a free value. -/
def State.hostSignal (s : State) (f g n : Nat) : State :=
  if s.fnTally f g then
    let w := s.free 10
    w.2.signalGlobal (w.1.toNat % 4) g n
  else s.countFnDrop f

/-- The writer of a host's bytes at an address: no command, for the context that owns the data (log 18). -/
def State.hostWriter (s : State) (a : Nat) : Writer := { ctx := (s.dataOwner a).getD 0 }
/-- Snapshot reserves have room for what a host's write must preserve first. -/
def State.hostRoom (s : State) (a n : Nat) : Bool := (pieceRanges a n).all fun r => s.reserveRoom (s.hostWriter r.base) r.base r.len
/-- A host's bytes written. -/
def State.hostStore (s : State) (a : Nat) (bytes : List Byte) : State := s.outsideWrite a bytes

/-- A range lies in a function's BAR2. -/
def State.inBar2 (s : State) (f off len : Nat) : Bool := decide (off + len ≤ 2 ^ s.bar2Log2 f)

/-! ## Posted writes (14 R449, R450) -/

/-- A posted write performed, or none where it waits for room in a snapshot's reserve (06 R216). -/
def State.perform (s : State) (f : Nat) : Posted → Option State
  | .write a bytes => if s.hostRoom a bytes.length then some (s.hostStore a bytes) else none
  | .signal g n => some (s.hostSignal f g n)
/-- A write posted by a function: performed at once, unless it or one before it waits. -/
def State.post (s : State) (f : Nat) (p : Posted) : State :=
  match (if (s.fn f).posted.isEmpty then s.perform f p else none) with
  | some t => t
  | none => s.modFn f fun x => { x with posted := x.posted ++ [p] }
/-- The oldest posted write that waits, performed if it can be. -/
def State.performPosted (s : State) (f : Nat) : State :=
  match (s.fn f).posted with
  | [] => s
  | p :: rest => ((s.modFn f fun x => { x with posted := rest }).perform f p).getD s
def State.flushPosted (s : State) (f : Nat) : State :=
  (List.range (s.fn f).posted.length).foldl (fun s _ => s.performPosted f) s

end Sys2Proof.Machine
end

