-- ==== Sys2Proof/Machine/Camp.lean ====
section
/-!
DEFINITION. Base camp's paths to the dictionary (spec/14 R430–R445): frames, replies, the retry record, the change log, and the
delivery of records to subscribers (spec/13 R420, R422).
-/
namespace Sys2Proof.Machine

/-! ## Frames (14 R435) -/

/-- A request frame: type, seq, entry, argument and value. -/
structure Req where
  typ : Nat
  seq : Nat
  index : Nat := 0
  sub : Nat := 0
  arg : Nat := 0
  value : List Byte := []
deriving DecidableEq, Repr

/-- A frame as it is sent: the header highest byte first, then the value. -/
def frame (typ seq index sub abort arg result : Nat) (value : List Byte) : List Byte :=
  natBE 32 (pack [(16, 0x4256), (8, 1), (8, typ), (32, seq), (16, index), (8, sub), (7, 0), (1, 0), (16, abort), (16, value.length),
    (32, arg), (64, result), (32, 0)]) ++ value

/-- A frame read: whether magic, version, type and length are those of a request. -/
def parseFrame (bs : List Byte) : Req × Bool :=
  let h := beNat (bs.take 32)
  let typ := bits h 231 224
  let len := bits h 143 128
  let q : Req := { typ := typ, seq := bits h 223 192, index := bits h 191 176, sub := bits h 175 168, arg := bits h 127 96,
                   value := (bs.drop 32).take len }
  (q, bits h 255 240 = 0x4256 && bits h 239 232 = 1 && decide (1 ≤ typ) && decide (typ ≤ 4) && decide (32 ≤ bs.length) &&
    decide (len ≤ 1024) && decide (32 + len ≤ bs.length) && (typ = 2 || len = 0))

/-- The frame with replayed = 1. -/
def markReplayed (f : List Byte) : List Byte := f.mapIdx fun i b => if i = 11 then b ||| 1#8 else b

/-! ## What an operation of the dictionary answers (14 R431) -/

structure Answer where
  st : State
  abort : Nat := 0
  result : Nat := 0
  value : List Byte := []

def refuse (s : State) (code : Nat) : Answer := { st := s, abort := code }
/-- The first refusal among causes in order, or the operation done. -/
def answer (s : State) (checks : List (Bool × Nat)) (done : State → Answer) : Answer :=
  match checks.find? (·.1) with
  | some c => refuse s c.2
  | none => done s
def accept (s : State) : Answer := { st := s }

/-! ## Paths (14 R433–R440; 15 R468, R494) -/

def vendorId : Nat := (Config.identity 1 0).toNat + 256 * (Config.identity 1 1).toNat

/-- Base camp runs and answers by a path. -/
def State.reaches (s : State) (src : Requester) : Bool :=
  s.power.camp && s.power.phase != 1 &&
  match src with
  | .benvon .. => true
  | .mctp .. => s.pcieUp
  | .window f => s.pcieUp && s.physical f
  | .queue .. => s.serving
  | .service => s.svcRuns
  | .button => s.serving

/-- A frame sent back by its path. -/
def State.sendFrame (s : State) (src : Requester) (bytes : List Byte) : State :=
  match src with
  | .benvon ip port _ => { s with sent := .datagram ip port bytes :: s.sent }
  | .mctp eid _ _ => { s with sent := .mctp eid (0x7E#8 :: natLE 2 vendorId ++ bytes) :: s.sent }
  | .window f =>
    let s1 := s.modFn f fun x => { x with frame := bytes ++ x.frame.drop bytes.length }
    if (s.fn f).winIrq then s1.interrupt f 0 else s1
  | _ => s

def srcPeer : Requester → Option Peer
  | .benvon ip port _ => some (.benvon ip port)
  | .mctp eid _ _ => some (.mctp eid)
  | _ => none
def srcSeq (s : State) : Requester → Nat
  | .benvon _ _ q => q.toNat
  | .mctp _ _ q => q.toNat
  | .window f => bits (beNat ((s.fn f).frame.take 32)) 223 192
  | _ => 0

/-- A reply remembered: the last 16 of its requester (R436). -/
def keepRetry (r : Retry) (l : List Retry) : List Retry :=
  let mine := l.filter fun x => x.peer = r.peer
  let l1 := if 16 ≤ mine.length then (match mine.head? with
    | some x => l.erase x
    | none => l) else l
  l1 ++ [r]

def State.stored (s : State) (src : Requester) : Option Retry :=
  (srcPeer src).bind fun p => s.camp.retries.find? fun r => r.peer = p && r.seq.toNat = srcSeq s src

/-- The reply to a request, sent and remembered. -/
def State.replyTo (s : State) (src : Requester) (bytes : List Byte) : State :=
  let s1 := s.sendFrame src bytes
  match srcPeer src with
  | some p => { s1 with camp := { s1.camp with
      retries := keepRetry { peer := p, seq := BitVec.ofNat 32 (srcSeq s src), reply := bytes } s1.camp.retries } }
  | none => s1

/-- What base camp serves from its ROM (15 R492). -/
def romServes (index sub : Nat) : Bool := index / 0x1000 = 1 || (index = 0x9030 && decide (1 ≤ sub) && decide (sub ≤ 4))

/-! ## Requests (14 R430, R436, R441) -/

/-- The requester and seq of a command that is a request of the dictionary. -/
def Instr.asker : Instr → Option (Peer × Nat)
  | .read src _ _ _ | .write src _ _ _ | .discover src | .ctxCreate src _
  | .ctxReset src _ | .ctxDestroy src _ | .teamCreate src _ | .teamDestroy src _
  | .huddleCreate src _ | .huddleDestroy src _ | .chanCreate src _ | .chanDestroy src _
  | .jobSubmit src _ | .jobCancel src _ | .debugImemWrite src _ | .faultRecordClear src _ _
  | .troubleClearEcc src | .troubleClearTileCounts src | .troubleClearStaleDrops src | .troubleClearSeamAlarms src
  | .troubleClearAlarmLog src | .troubleClearDumpFlag src | .dumpRequest src _ | .epochClear src _
  | .portRetrain src _ | .attnRequestSet src | .attnRequestClear src | .fwStage src _
  | .fwUpload src _ | .fwStageUpload src _ | .svnCommit src _ _ | .attestNonce src _
  | .restartWarm src | .restartDestroy src | .restartBaseCamp src =>
    match src with
    | .benvon ip port q => some (.benvon ip port, q.toNat)
    | .mctp eid _ q => some (.mctp eid, q.toNat)
    | _ => none
  | .mctpVendorMessage eid _ body => some (.mctp eid, bits (beNat ((body.drop 2).take 32)) 223 192)
  | _ => none

/-- Of the requests of a requester that wait behind the one being served, those that have come as its ninth or later in flight
(R436; log 79). -/
def State.beyondEight (s : State) (p : Peer) : List (Peer × Nat) :=
  (((s.pending.filterMap Instr.asker).filter fun x => x.1 = p && !s.camp.busy.contains x).drop 7)
/-- They are to be answered 0x0109. -/
def State.countFlight (s : State) (src : Requester) : State :=
  match srcPeer src with
  | none => s
  | some p =>
    if (s.beyondEight p).isEmpty then s else { s with camp := { s.camp with busy := s.camp.busy ++ s.beyondEight p } }
/-- A request came as its requester's ninth in flight. -/
def State.turnedAway (s : State) (src : Requester) : Bool := (srcPeer src).any fun p => s.camp.busy.contains (p, srcSeq s src)
def State.forgetBusy (s : State) (src : Requester) : State :=
  match srcPeer src with
  | none => s
  | some p => { s with camp := { s.camp with busy := s.camp.busy.erase (p, srcSeq s src) } }

/-- A request at a base camp that its path reaches: a repeat is answered as before, one too many is answered by `full`, and
`f` serves any other. -/
def State.fresh? (s : State) (src : Requester) (full f : State → State) : State :=
  if s.reaches src then
    match s.stored src with
    | some r => s.sendFrame src (markReplayed r.reply)
    | none => if s.turnedAway src then full (s.forgetBusy src) else f (s.countFlight src)
  else s

/-- A write applied: logged, then answered; `after` is what follows the log's append. -/
def State.applyWrite (s : State) (src : Requester) (index sub : Nat) (value old : List Byte) (op : State → Answer)
    (after : State → State) : State × Answer :=
  let a := if s.power.rom && !(romServes index sub && (srcPath src) = 0) then refuse s 0x0101 else op s
  let s1 := a.st.logWrite src index sub a.abort old value
  (if a.abort = 0 then after s1 else s1, a)

/-- A write by a frame. -/
def State.writeFrame (s : State) (src : Requester) (index sub : Nat) (value old : List Byte) (op : State → Answer)
    (after : State → State) : State :=
  s.fresh? src (fun s =>
    (s.logWrite src index sub 0x0109 old value).sendFrame src (frame 0x82 (srcSeq s src) index sub 0x0109 0 0 [])) fun s =>
    let q := srcSeq s src
    let r := s.applyWrite src index sub value old op after
    r.1.replyTo src (frame 0x82 q index sub r.2.abort 0 r.2.result [])

/-- A write that stands at the front of a function control queue: `want` says that the entry is the one meant (R447, R453,
R454). -/
def State.writeQueue (s : State) (f r index sub : Nat) (value : List Byte) (want : BitVec 512 → Bool)
    (op : State → Answer) : State :=
  match s.frontOf f r false with
  | none => s
  | some e =>
    if !want e then s
    else
      let a := s.applyWrite (.queue f r) index sub value [] (fun s =>
        if s.mayName f (qCtx e) then op s else refuse s 0x010A) id
      (a.1.takeEntry f r).completeRing f r e a.2.abort a.2.result

/-! ## Delivery of records (13 R420, R422; 14 R437, R445) -/

def subKind (d : BitVec 192) : Nat := bits d.toNat 191 190
def subWants (d : BitVec 192) (r : Record) : Bool :=
  bit d.toNat (186 + r.cls) && (bits d.toNat 185 178 = 0 || bits d.toNat 185 178 = r.ctx)
def subIp (d : BitVec 192) : BitVec 128 := BitVec.ofNat 128 d.toNat
def subPort (d : BitVec 192) : BitVec 16 := BitVec.ofNat 16 (bits d.toNat 143 128)

def notifyFrame (n : Nat) (r : Record) : List Byte := frame 0x84 n 0 0 0 0 0 (r.header ++ r.body)

def State.sub (s : State) (i : Nat) : Subscriber := lget s.camp.subs i {}
def State.modSub (s : State) (i : Nat) (f : Subscriber → Subscriber) : State :=
  { s with camp := { s.camp with subs := lset s.camp.subs i (f (s.sub i)) } }
def State.notify (s : State) (d : BitVec 192) (n : Nat) (r : Record) : State :=
  { s with sent := .datagram (subIp d) (subPort d) (notifyFrame n r) :: s.sent }

def State.deliverTo (s : State) (r : Record) (i : Nat) : State :=
  let x := s.sub i
  if !subWants x.desc r then s
  else
    match subKind x.desc with
    | 1 => (s.notify x.desc x.next r).modSub i fun y => { y with
        next := y.next + 1
        unacked := if r.cls = 0 then y.unacked ++ [(y.next, r)] else y.unacked }
    | 2 =>
      if s.pcieUp then
        { s with sent := .mctp (BitVec.ofNat 8 x.desc.toNat) (0x7E#8 :: natLE 2 vendorId ++ notifyFrame x.next r) :: s.sent }.modSub i
          fun y => { y with next := y.next + 1 }
      else s
    | 3 => s.pushEvent (x.desc.toNat % 64) r
    | _ => s

/-- An evaluation trigger goes to the event ring of its context's function even where no subscriber names it (R464). -/
def State.deliverTrigger (s : State) (r : Record) : State :=
  let f := (s.ctx r.ctx).function
  let named := s.camp.subs.any fun x => subKind x.desc = 3 && x.desc.toNat % 64 = f && subWants x.desc r
  if r.cls = 0 && r.kind = 0x0F && r.device = s.deviceNumber && !named then s.pushEvent f r else s

/-- A record at base camp: logged if an alarm, and delivered. -/
def State.deliver (s : State) (r : Record) : State :=
  let s1 := if r.cls = 0 then s.logAlarm r else s
  ((List.range 8).foldl (fun s i => s.deliverTo r i) s1).deliverTrigger r

/-- The gap record that goes ahead of a record of its source and class (13 R422). -/
def State.deliverGap (s : State) (r : Record) : State :=
  match s.trouble.gaps.find? fun g => g.source = r.source && g.cls = r.cls with
  | none => s
  | some g =>
    let seq := s.nextSeq g.source 3
    let cap := min 0xFFF g.lost
    let gap : Record := { cls := 3, kind := 0x3F, device := s.deviceNumber, source := g.source, ctx := 0, seq := seq, cycles := 0,
                          count := cap, island := (Config.recordIsland g.source 0x3F).toNat, body := gapBody g }
    { s with trouble := { s.trouble with gaps := s.trouble.gaps.erase g, seqs := tset (4 * g.source + 3) seq s.trouble.seqs } }.deliver gap

/-- A waiting alarm takes a place of its source once one is free (13 R422). -/
def State.takePlace (s : State) (r : Record) : State :=
  let t := s.trouble
  if s.alarmsOf r.source < 16 then { s with trouble := { t with transit := t.transit ++ [r] } }
  else { s with trouble := { t with held := t.held ++ [r] } }
def State.releaseHeld (s : State) : State :=
  let s1 := { s with trouble := { s.trouble with held := [] } }
  s.trouble.held.foldl (fun s r => s.takePlace r) s1

/-- Everything in transit reaches base camp: alarms first, then gap records and the rest in order (log 2); alarms that had no
place set out. -/
def State.drainRecords (s : State) : State :=
  let l := s.trouble.transit
  let s1 := { s with trouble := { s.trouble with transit := [] } }
  let s2 := (l.filter fun r => r.cls = 0).foldl (fun s r => s.deliver r) s1
  ((l.filter fun r => r.cls != 0).foldl (fun s r => (s.deliverGap r).deliver r) s2).releaseHeld

/-- What time brings when no command waits, 1 µs at a step (log 2): whistles count; records reach base camp, waiting alarms
their event rings, waiting host writes the memory; transfers over the seams succeed; jobs go on to their next region or end. -/
def State.idle (s : State) : State :=
  let s0 := s.tickWhistles
  let s1 := if s0.power.camp then s0.drainRecords else s0
  let s2 := (s1.fns.map (·.1)).foldl (fun s f => (s.flushEvents f (s.fn f).evtWaiting.length).flushPosted f) s1
  let s3 := { s2 with
    trouble := { s2.trouble with repeats := s2.trouble.repeats.filter fun e => decide (1024 ≤ e.2) }
    panel := { s2.panel with held := if s2.panel.held = 2 then 0 else s2.panel.held } }
  (if s2.trouble.repeats.isEmpty then s3 else s3.sendWaiting).settleJobs

end Sys2Proof.Machine
end

