-- ==== Sys2Proof/Machine/Commands.lean ====
section
/-!
DEFINITION. The rows by which commands leave the queues: one per command of the engines' tables, skip entries and NOPs, and
completion (spec/02 R59, R63–R70); the lane reservation (spec/05 R183) and the activity of arrays (spec/03 R115–R119).
-/
namespace Sys2Proof.Machine

/-! ## Matrix engine -/

def execMma (n : Nat) (st : Stream) (s : State) : Result := issueRow .matrix 0x01 cmdMma n st s
def execMdrain (n : Nat) (st : Stream) (s : State) : Result := issueRow .matrix 0x02 cmdMdrain n st s
def execMdcfg (n : Nat) (st : Stream) (s : State) : Result := issueRow .matrix 0x03 cmdMdcfg n st s
def execWlopen (n : Nat) (st : Stream) (s : State) : Result := issueRow .matrix 0x08 cmdWlopen n st s
def execWlput (n : Nat) (st : Stream) (s : State) : Result := issueRow .matrix 0x09 cmdWlput n st s
def execWlrun (n : Nat) (st : Stream) (s : State) : Result := issueRow .matrix 0x0A cmdWlrun n st s
def execWlclose (n : Nat) (st : Stream) (s : State) : Result := issueRow .matrix 0x0B cmdWlclose n st s

/-! ## Vector engine -/

def execVld (n : Nat) (st : Stream) (s : State) : Result := issueRow .vector 0x01 cmdVld n st s
def execVst (n : Nat) (st : Stream) (s : State) : Result := issueRow .vector 0x02 cmdVst n st s
def execEpload (n : Nat) (st : Stream) (s : State) : Result := issueRow .vector 0x03 cmdEpload n st s
def execEprog (n : Nat) (st : Stream) (s : State) : Result := issueRow .vector 0x04 cmdEprog n st s
def execEpstrm (n : Nat) (st : Stream) (s : State) : Result := issueRow .vector 0x05 cmdEpstrm n st s
def execVred (n : Nat) (st : Stream) (s : State) : Result := issueRow .vector 0x06 cmdVred n st s
def execVsum (n : Nat) (st : Stream) (s : State) : Result := issueRow .vector 0x07 cmdVsum n st s
def execVseed (n : Nat) (st : Stream) (s : State) : Result := issueRow .vector 0x08 cmdVseed n st s

/-- No drain holds the lanes: they are free, or held for a group of an OPTSTEP whose turn on them is over, or for a drain that no
longer asks for them. -/
def State.lanesOpen (s : State) (n : Nat) : Bool :=
  match (s.tile n).vec.lanes with
  | none => true
  | some a => decide (4 ≤ a) || !((s.array n a).draining || (laneCandidates s n).contains a)

/-- The update unit's OPTSTEP with algo 3 that still needs the lanes for a group of blocks (06 R210). -/
def State.optWaits (s : State) (n : Nat) : Option Entry :=
  (s.queue n .mover .upd).entries.find? fun x => x.issued && !x.skip && x.op = 0x41 && !x.progress.isEmpty

/-- The vector lanes are free at last and given on: to the lowest-numbered array whose drain waits only for them (05 R183), else
to the next group of blocks of an OPTSTEP (06 R210; log 67), else to nobody. -/
def execLaneReservationGrant (n : Nat) (s : State) : Result :=
  if n < 2048 then
    let give (a : Option Nat) (s : State) : State := s.modTile n fun t => { t with vec := { t.vec with lanes := a } }
    if s.alive n && s.lanesOpen n then
      match laneCandidates s n, s.optWaits n with
      | a :: _, _ => .next (give (some a) s)
      | [], some x => .next (give (some 4) (s.setEntry n .mover .upd { x with progress := x.progress.drop 1 }))
      | [], none => .next (give none s)
    else .next s
  else .fault .noSuchPlace

/-- The next stair down of an idle array (03 R115, R117). -/
def execDribbleStepDown (n a : Nat) (s : State) : Result :=
  if n < 2048 ∧ a < 4 then
    if s.alive n && s.arrayIdle n a && decide (0 < (s.array n a).level) then .next (s.modArray n a stepDown) else .next s
  else .fault .noSuchPlace

/-- The next stair up of an array a pass waits for (03 R116). -/
def execDribbleRampStep (n a : Nat) (s : State) : Result :=
  if n < 2048 ∧ a < 4 then
    if s.alive n && rampWanted s n a && decide ((s.array n a).level < 3) then .next (s.modArray n a stepUp) else .next s
  else .fault .noSuchPlace

/-! ## Mover and update unit -/

/-- MOVE reads its source from the own store as it issues, and meets the check bits of its first block. -/
def execMove (n : Nat) (st : Stream) (ecc : Ecc) (s : State) : Result :=
  issueWith .mover 0x01 cmdMove (fun s x =>
    let d := s.mvDesc n x
    if mvZero x || mvSdev d != s.deviceNumber || decide (scratchBase ≤ mvSrc d) || mvSrc d / tileStoreBytes != n then s
    else s.eccCheck ecc (mvSrc d)) n st s
def execMvcomp (n : Nat) (st : Stream) (s : State) : Result := issueRow .mover 0x02 cmdMvcomp n st s
def execRemask (n : Nat) (st : Stream) (s : State) : Result := issueRow .mover 0x03 cmdRemask n st s
def execStash (n : Nat) (st : Stream) (s : State) : Result := issueRow .mover 0x04 cmdStash n st s
def execPredld (n : Nat) (st : Stream) (s : State) : Result := issueRow .mover 0x05 cmdPredld n st s
def execMaskdrop (n : Nat) (st : Stream) (s : State) : Result := issueRow .mover 0x06 cmdMaskdrop n st s
def execAadd (n : Nat) (st : Stream) (s : State) : Result := issueRow .mover 0x10 cmdAtomic n st s
def execAmin (n : Nat) (st : Stream) (s : State) : Result := issueRow .mover 0x11 cmdAtomic n st s
def execAmax (n : Nat) (st : Stream) (s : State) : Result := issueRow .mover 0x12 cmdAtomic n st s
def execAswap (n : Nat) (st : Stream) (s : State) : Result := issueRow .mover 0x13 cmdAtomic n st s
def execAcas (n : Nat) (st : Stream) (s : State) : Result := issueRow .mover 0x14 cmdAtomic n st s
def execAaddn (n : Nat) (st : Stream) (s : State) : Result := issueRow .mover 0x18 cmdAtomic n st s
def execAminn (n : Nat) (st : Stream) (s : State) : Result := issueRow .mover 0x19 cmdAtomic n st s
def execAmaxn (n : Nat) (st : Stream) (s : State) : Result := issueRow .mover 0x1A cmdAtomic n st s
def execRdopen (n : Nat) (st : Stream) (s : State) : Result := issueRow .mover 0x20 cmdRdopen n st s
def execRdadd (n : Nat) (st : Stream) (s : State) : Result := issueRow .mover 0x21 cmdRdadd n st s
def execOptcfg (n : Nat) (st : Stream) (s : State) : Result := issueRow .mover 0x40 cmdOptcfg n st s
def execOptstep (n : Nat) (st : Stream) (s : State) : Result := issueRow .mover 0x41 cmdOptstep n st s
def execAmaxstep (n : Nat) (st : Stream) (s : State) : Result := issueRow .mover 0x42 cmdAmaxstep n st s
def execSnap (n : Nat) (st : Stream) (s : State) : Result := issueRow .mover 0x43 cmdSnap n st s

/-! ## Route unit -/

def execRtcfg (n : Nat) (st : Stream) (s : State) : Result := issueRow .route 0x01 cmdRtcfg n st s
def execRqopen (n : Nat) (st : Stream) (s : State) : Result := issueRow .route 0x02 cmdRqopen n st s
def execRoute (n : Nat) (st : Stream) (s : State) : Result := issueRow .route 0x03 cmdRoute n st s
def execRqclose (n : Nat) (st : Stream) (s : State) : Result := issueRow .route 0x04 cmdRqclose n st s
def execRbound (n : Nat) (st : Stream) (s : State) : Result := issueRow .route 0x05 cmdRbound n st s
def execRcomb (n : Nat) (st : Stream) (s : State) : Result := issueRow .route 0x06 cmdRcomb n st s
def execRback (n : Nat) (st : Stream) (s : State) : Result := issueRow .route 0x07 cmdRback n st s
def execRgrad (n : Nat) (st : Stream) (s : State) : Result := issueRow .route 0x08 cmdRgrad n st s
def execRxopen (n : Nat) (st : Stream) (s : State) : Result := issueRow .route 0x10 cmdRxopen n st s
def execRwget (n : Nat) (st : Stream) (s : State) : Result := issueRow .route 0x11 cmdRwget n st s
def execRxwait (n : Nat) (st : Stream) (s : State) : Result := issueRow .route 0x12 cmdRxwait n st s
def execRxexpand (n : Nat) (st : Stream) (s : State) : Result := issueRow .route 0x13 cmdRxexpand n st s
def execRsend (n : Nat) (st : Stream) (s : State) : Result := issueRow .route 0x14 cmdRsend n st s

/-! ## Queue-common commands, tally engine, pool engine -/

def execTwait (n : Nat) (e : Engine) (st : Stream) (s : State) : Result := issueRow e 0xF0 (cmdTwait e) n st s
def execTclaim (n : Nat) (e : Engine) (st : Stream) (s : State) : Result := issueRow e 0xF1 (cmdTclaim e) n st s
def execTsig (n : Nat) (e : Engine) (st : Stream) (s : State) : Result := issueRow e 0xF2 (cmdTsig e) n st s
def execFence (n : Nat) (e : Engine) (st : Stream) (s : State) : Result := issueRow e 0xF3 (cmdFence e) n st s
def execTset (n : Nat) (st : Stream) (s : State) : Result := issueRow .tally 0x01 cmdTset n st s
def execHuddle (n : Nat) (st : Stream) (s : State) : Result := issueRow .tally 0x02 cmdHuddle n st s
def execPoolget (n : Nat) (st : Stream) (s : State) : Result := issueRow .pool 0x01 cmdPoolget n st s
def execPoolput (n : Nat) (st : Stream) (s : State) : Result := issueRow .pool 0x02 cmdPoolput n st s
def execPoolcfg (n : Nat) (st : Stream) (s : State) : Result := issueRow .pool 0x03 cmdPoolcfg n st s

/-! ## Completion (02 R63, R65, R67) -/

/-- What an engine's chapter says of an entry; skip entries and NOPs have no part of their own. -/
def ownCmd (e : Engine) (x : Entry) : Option Cmd := if x.skip || x.op = opNop then none else cmdOf e x.op

/-- An issued command has nothing left to wait for, room for the pages its writes must preserve included (06 R216). -/
def State.finished (s : State) (n : Nat) (e : Engine) (st : Stream) (x : Entry) : Bool :=
  x.issued && s.runsFor n x && x.awaits.isEmpty && piecesThere x.pieces && s.reserveFor (writerOf s n st) x.writes &&
  match ownCmd e x with
  | some c => c.done s n st x
  | none => true

/-- The command of a queue that completes next: the first of the item queue or of the stream's own queue. -/
def State.completing (s : State) (n : Nat) (e : Engine) (st : Stream) : Option Entry :=
  let own := (s.queue n e st).entries.head?
  let item := (s.entries n e st).head?
  [item, own].findSome? fun x => match x with
    | some x => if s.finished n e st x then some x else none
    | none => none

/-- What a skip entry does as it completes, besides its completion signal: a skipped TSIG's own signal, and 0 for the
summaries it owes (02 R69; 05 R179). -/
def State.skipDone (s : State) (n : Nat) (e : Engine) (st : Stream) (x : Entry) : State :=
  if x.skip then (if x.op = 0xF2 then tsigSend e s n st x else s).zeroSums n st x.uid else s

/-- The command's own last part, then what every completion does. -/
def State.finishCommand (s : State) (n : Nat) (e : Engine) (st : Stream) (x : Entry) : State :=
  let s1 := match ownCmd e x with
    | some c => c.finish s n st x
    | none => s.skipDone n e st x
  let x1 := (((s1.entries n e st) ++ (s1.queue n e st).entries).find? fun y => y.uid = x.uid).getD x
  let s2 := s1.complete n e st x1
  if e = .matrix then (s2.expandItem n st).askItem n st else s2

def execCommandComplete (n : Nat) (e : Engine) (st : Stream) (s : State) : Result :=
  if n < 2048 then
    match s.completing n e st with
    | some x =>
      if s.alive n && s.notResetting (s.owner n) then .next (s.inName n x fun s => s.finishCommand n e st x) else .next s
    | none => .next s
  else .fault .noSuchPlace

/-! ## Skip entries and NOPs (02 R59, R69) -/

/-- An entry without work of its own at the head of its queue: its refusal halts the stream; otherwise it issues, and
completes where every earlier command has completed. -/
def State.throughHead (s : State) (n : Nat) (e : Engine) (st : Stream) (x : Entry) (ahead : List Entry)
    (bad : Option Bad) : State :=
  match bad with
  | some b => s.cmdHalt n e st x b
  | none =>
    if s.chosen n e = some st then
      let s1 := s.issued n e st x (s.readyStreams n e)
      if ahead.isEmpty then s1.finishCommand n e st { x with issued := true } else s1
    else s

/-- The row of an entry without work of its own, of the kind that `mine` accepts: the head issues; one that has issued and has
come to the front completes. -/
def plainRow (e : Engine) (mine : Entry → Bool) (bad : State → Nat → Entry → Option Bad) (n : Nat) (st : Stream) (s : State) :
    Result :=
  if n < 2048 then
    match s.completing n e st with
    | some x =>
      if mine x && s.alive n && s.notResetting (s.owner n) then .next (s.inName n x fun s => s.finishCommand n e st x) else .next s
    | none =>
      match s.head n e st with
      | some (x, ahead) =>
        if s.streamRuns n st && mine x then .next (s.inName n x fun s => s.throughHead n e st x ahead (bad s n x)) else .next s
      | none => .next s
  else .fault .noSuchPlace

/-- A skip entry performs its completion signal, and a skipped TSIG its own signal as well. -/
def execSkipEntry (n : Nat) (e : Engine) (st : Stream) (s : State) : Result := plainRow e (·.skip) skipBad n st s

def execNop (n : Nat) (e : Engine) (st : Stream) (s : State) : Result :=
  plainRow e (fun x => !x.skip && x.op = opNop) nopBad n st s

end Sys2Proof.Machine
end

