-- ==== Sys2Proof/Machine/Dumps.lean ====
section
/-!
DEFINITION. Crash dumps (spec/13 R417–R419): the dump engine's turns, the units' answers, and the dump written.
-/
namespace Sys2Proof.Machine

/-! ## What a tile gives (13 R419; log 78) -/

/-- So many bytes, the rest zero. -/
def fillTo (k : Nat) (l : List Byte) : List Byte := l.take k ++ List.replicate (k - l.length) 0#8
def eachBytes (n : Nat) (f : Nat → List Byte) : List Byte := (List.range n).flatMap f

def runCode : RunState → Nat
  | .park => 0
  | .run => 1
  | .wait => 2
  | .halt => 3
/-- A thread's state in 160 B: registers, program counter, staging register, cur_channel, predicates, bank, state, and the
summaries it waits for. -/
def threadBytes (t : Thread) : List Byte :=
  fillTo 160 (t.regs.toList.flatMap (fun r => natLE 4 r.toNat) ++ natLE 4 t.pc.toNat ++ natLE 16 t.staging.toNat ++
    natLE 4 t.channel.toNat ++ natLE 2 t.preds.toNat ++ natLE 1 t.bank ++ natLE 1 (runCode t.run) ++ natLE 4 t.sums.length)
/-- The 224 bits of a queue entry (02 R60) and a fourth word. -/
def entryBytes (x : Entry) (last : Nat) : List Byte :=
  natLE 16 x.word.toNat ++ natLE 4 x.s0.toNat ++ natLE 4 x.s1.toNat ++ natLE 4 x.chan.toNat ++ natLE 4 last
/-- A queue's head, zero where it is empty, with the fill count. -/
def headBytes (l : List Entry) : List Byte :=
  match l with
  | x :: _ => entryBytes x l.length
  | [] => List.replicate 32 0#8
/-- Every place of a queue; the fourth word holds whether it is a skip entry and whether it has issued. -/
def queueBytes (room : Nat) (l : List Entry) : List Byte :=
  fillTo (32 * room) (l.flatMap fun x => entryBytes x (b2n x.skip + 2 * b2n x.issued))
def whistleBytes (w : Whistle) : List Byte := natLE 4 w.count ++ natLE 4 w.own ++ natLE 8 0

/-- The 18 engine queues of a tile, by stream and engine, and its three dispatch queues. -/
def State.dumpQueues (s : State) (n : Nat) : List (List Entry) :=
  allStreams.flatMap fun st => allEngines.map fun e => (s.queue n e st).entries
def State.dumpDispatch (s : State) (n : Nat) : List (List Entry) :=
  allStreams.map fun st => ((s.tile n).dispatch.get st).map (·.entry)

def State.tileDepth0 (s : State) (n : Nat) : List Byte :=
  let t := s.tile n
  fillTo 4096 (
    allStreams.flatMap (fun st => threadBytes (t.threads.get st)) ++
    allStreams.flatMap (fun st => natLE 32 (t.records.get st).toNat) ++
    (s.dumpQueues n ++ s.dumpDispatch n).flatMap headBytes ++
    eachBytes 24 (fun u => whistleBytes (s.whistle n u)) ++
    eachBytes 256 (fun g => natLE 4 (s.tally n g).value) ++
    eachBytes 32 (fun i => natLE 1 ((List.range 8).foldl (fun k b => k + b2n (s.tally n (8 * i + b)).remote * 2 ^ b) 0)) ++
    fillTo 352 t.deadlock)
def State.tileDepth1 (s : State) (n : Nat) : List Byte :=
  (s.dumpQueues n).flatMap (queueBytes queueSize) ++ (s.dumpDispatch n).flatMap (queueBytes dispatchSize)
def State.tileDepth2 (s : State) (n : Nat) : List Byte :=
  let t := s.tile n
  s.tileBytes n 0 tileStoreBytes ++ peeks t.dmem 0 0x20000 ++
    eachBytes 32 (fun r => fillTo 1024 ((vregRow t.vec r).flatMap fun w => natLE 4 w.toNat)) ++
    eachBytes 2 (fun b => (List.range 0x10000).map fun o => s.imemByte n b o)

/-! ## What a die gives (13 R419; log 78) -/

/-- The granted global tallies of a die that have a value or a registration. -/
def State.dumpTallies (s : State) (c die : Nat) : List Nat :=
  (s.gtallies.filter fun e => e.1 % 8 = die && (c = 0 || inGrant (s.ctx c).gtallyGrant e.1) &&
    !(e.2.value = 0 && e.2.waits.isEmpty && e.2.claims.isEmpty)).map (·.1)
def redPhaseNo : RedPhase → Nat
  | .armed => 1
  | .opened => 2
  | .finalising => 3
/-- An armed or open reduction in 64 B: its descriptor, ID, phase, contributions and those present. -/
def redView (rid : Nat) (r : Reduction) : List Byte :=
  fillTo 64 (natLE 32 r.desc.toNat ++ natLE 2 rid ++ natLE 2 (redPhaseNo r.phase) ++ natLE 4 r.count ++ natLE 4 r.present)
/-- A shared pool in 64 B: its descriptor, number, buffers allocated and requests waiting. -/
def poolView (k : Nat) (p : Pool) : List Byte :=
  fillTo 64 (natLE 32 p.desc.toNat ++ natLE 4 k ++ natLE 4 p.taken.length ++ natLE 4 p.waiting.length)
/-- The ranges of a die's scratch that a context's grants cover; all of it for the whole device. -/
def State.scratchOf (s : State) (c die : Nat) : List Range :=
  let lo := scratchBase + die * scratchWindow
  let hi := lo + s.scratchMib * 1048576
  if c = 0 then [⟨lo, s.scratchMib * 1048576⟩]
  else (s.ctx c).memGrants.map fun g =>
    let a := max lo (grantBase g.2)
    ⟨a, min hi (grantBase g.2 + grantLen g.2) - a⟩

def State.dieContents (s : State) (c depth die : Nat) : List Byte :=
  let mine (o : Nat) : Bool := c = 0 || o = c
  (s.dumpTallies c die).flatMap (s.wholeView (.die die)) ++
  (s.reds.filter fun e => mine e.2.ctx && e.2.phase != .finalising && decide (0 < s.redOnDie e.2.desc die)).flatMap
    (fun e => redView e.1 e.2) ++
  (s.pools.filter fun e => mine e.2.ctx && e.1 % 8 = die).flatMap (fun e => poolView e.1 e.2) ++
  (if depth = 2 then (s.scratchOf c die).flatMap fun r => s.loadBytes r.base r.len else [])

/-- The devices whose requests a port die's section tells of: those the context has asked, each at the die of the port by which
requests for it leave, or at PRT0 where there is no way to it (log 78). -/
def State.dumpPeers (s : State) (c die : Nat) : List Nat :=
  (if c = 0 then (s.fabric.asked.flatMap (·.2)).eraseDups else tget [] c s.fabric.asked).filter fun d =>
    ((s.portTo d).map portDie).getD 0 = die
/-- A target device in 64 B: the next request IDs of both write channels and of reads, the oldest unanswered one, and the
newest epoch seen of each of its contexts that has sent one. -/
def State.peerView (s : State) (c d : Nat) : List Byte :=
  let f := s.fabric
  let oldest := ((f.requests.filter fun r => r.sent && mTdev r.msg = d && (c = 0 || mCtx r.msg = c)).head?.map
    fun r => mReqid r.msg + 1).getD 0
  fillTo 64 (natLE 2 (tget 0 (2 * d) f.nextId) ++ natLE 2 (tget 0 (2 * d + 1) f.nextId) ++ natLE 2 (tget 0 d f.readId) ++
    natLE 4 oldest ++ (f.epochs.filter fun e => e.1 / 256 = d).flatMap fun e => natLE 2 (256 * (e.1 % 256) + e.2))

/-! ## Units (13 R419) -/

/-- What a unit gives at a depth, for a context or (0) the whole device. -/
def State.unitContents (s : State) (c depth unit : Nat) : List Byte :=
  if unit < 0x800 then
    s.tileDepth0 unit ++ (if 1 ≤ depth then s.tileDepth1 unit else []) ++ (if depth = 2 then s.tileDepth2 unit else [])
  else if unit < 0x810 then s.dieContents c depth (unit - 0x800)
  else (s.dumpPeers c (unit - 0x810)).flatMap (s.peerView c)

/-- Bytes a unit gives. -/
def State.unitLength (s : State) (c depth unit : Nat) : Nat :=
  if unit < 0x800 then 4096 + (if 1 ≤ depth then 9408 * 32 else 0) + (if depth = 2 then 4489216 else 0)
  else (s.unitContents c depth unit).length

def dieUnits : List Nat := (List.range 8).map (0x800 + ·) ++ (List.range 4).map (0x810 + ·)
/-- The units a dump reads, in its order. -/
def State.dumpUnits (s : State) (c depth : Nat) : List Nat :=
  if c = 0 then List.range 2048 ++ dieUnits
  else s.ctxTiles c ++ dieUnits.filter fun u => decide (0 < s.unitLength c depth u)

/-! ## Sections and the header -/

def unitKind (u : Nat) : Nat := if u < 0x800 then 0 else if u < 0x810 then 1 else 2
def unitNumber (u : Nat) : Nat := if u < 0x800 then u else u % 16

def sectionHeader (u status : Nat) (cycles : BitVec 48) (len : Nat) : List Byte :=
  natLE 16 (pack [(4, unitKind u), (11, unitNumber u), (2, status), (48, cycles.toNat), (32, len), (31, 0)])

def dumpHeader (dev : Nat) (d : DumpJob) (body : List Byte) : List Byte :=
  natLE 64 (pack [(16, 1), (8, dev), (8, d.ctx), (2, d.depth), (4, d.cause), (16, d.alarmSeq), (16, d.count), (16, d.unreachable),
    (40, 64 + body.length), (130, 0), (256, leNat (shake256 body 32))])

def State.setDumps (s : State) (l : List DumpJob) : State := { s with trouble := { s.trouble with dumps := l } }

/-- A dump whose last unit has been read: written to the dump area, reported, and its context stopped again. -/
def State.endDump (s : State) (d : DumpJob) (rest : List DumpJob) : State :=
  let t := s.trouble
  let bytes := dumpHeader s.deviceNumber d d.sections ++ d.sections
  let size := t.dumpSize * 1048576
  let off := if size < t.dumpNext + bytes.length then 0 else t.dumpNext
  let seq := s.nextSeq 0x820 0
  let last := BitVec.ofNat 128 (pack [(48, t.dumpBase + off), (40, bytes.length), (16, seq), (24, 0)])
  let s1 := s.outsideWrite (t.dumpBase + off) (bytes.take (size - off))
  let s2 := { s1 with trouble := { s1.trouble with
    dumps := rest, dumpNext := off + bytes.length, dumpLast := last, dumpTaken := true } }
  let s3 := s2.alarm 0x0E 0x820 d.ctx (dumpHeader s.deviceNumber d d.sections)
  s3.modCtx d.ctx fun x => if x.state = 3 then { x with state := 2 } else x

/-- The unit being read is done, with its status; the next unit follows, or the dump ends. -/
def State.endUnit (s : State) (d : DumpJob) (rest : List DumpJob) (status : Nat) : State :=
  match d.left with
  | [] => s
  | u :: us =>
    let cyc := s.cycle (if u < 0x800 then u else u)
    let d1 : DumpJob := { d with
      left := us, current := [], count := d.count + 1, unreachable := d.unreachable + (if status = 0 then 0 else 1),
      sections := d.sections ++ sectionHeader u status cyc.1 d.current.length ++ d.current }
    if us.isEmpty then cyc.2.endDump d1 rest else cyc.2.setDumps (d1 :: rest)

/-! ## The rows -/

/-- The first dump in turn begins: a stopped context whose fail action asked for it is dumping meanwhile (R400). -/
def execDump (s : State) : Result :=
  match s.trouble.dumps with
  | d :: rest =>
    if d.running || !s.dumpReady then .next s
    else
      let d1 : DumpJob := { d with running := true, left := s.dumpUnits d.ctx d.depth }
      let s1 := s.modCtx d.ctx fun x => if d.cause = 1 && x.state = 2 then { x with state := 3 } else x
      .next (if d1.left.isEmpty then s1.endDump d1 rest else s1.setDumps (d1 :: rest))
  | [] => .next s

/-- An answer of the unit being read: as many of the bytes still to come as the answer brings, each as the unit holds it now.
Its section is complete once it has given all it holds. -/
def execDumpUnitAnswer (data : List Byte) (s : State) : Result :=
  match s.trouble.dumps with
  | d :: rest =>
    match d.running, d.left with
    | true, u :: _ =>
      let come := ((s.unitContents d.ctx d.depth u).drop d.current.length).take data.length
      let d1 : DumpJob := { d with current := d.current ++ come }
      .next (if s.unitLength d.ctx d.depth u ≤ d1.current.length then s.endUnit d1 rest 0 else s.setDumps (d1 :: rest))
    | _, _ => .next s
  | [] => .next s

/-- The unit being read gives nothing in time: unreachable where it has given nothing, else partial (R418). -/
def execDumpUnitTimeout (s : State) : Result :=
  match s.trouble.dumps with
  | d :: rest => .next (if d.running then s.endUnit d rest (if d.current.isEmpty then 1 else 2) else s)
  | [] => .next s

end Sys2Proof.Machine
end

