-- ==== Sys2Proof/Machine/Contexts.lean ====
section
/-!
DEFINITION. Contexts, teams, huddles and channels by request (spec/14 R455–R459; spec/01 R31–R36, R42–R45; spec/08 R275, R276;
spec/12 R385; spec/13 R401, R404), and the park words (spec/16 R510). Refusal codes come in the order of R455's table.
-/
namespace Sys2Proof.Machine

/-- A context exists; context 0 always does (01 R40). -/
def State.exists? (s : State) (c : Nat) : Bool := c = 0 || (s.ctx c).state != 0
/-- A context may have its tables changed: it exists and is not resetting or being destroyed (13 R404). -/
def State.changeable (s : State) (c : Nat) : Bool :=
  s.serving && s.exists? c && (s.ctx c).state != 4 && !s.destroying c
/-- No context other than 0 exists. -/
def State.noCtxs (s : State) : Bool := s.ctxs.all fun e => e.1 = 0 || e.2.state = 0

/-! ## Park words (16 R510) -/

/-- A context's park word written, where its address lies in the context's memory now. -/
def State.writePark (s : State) (c : Nat) : State :=
  let a := (s.ctx c).parkAddr
  if a != 0 && s.memOk c a 4 then
    let s1 := s.svcWrite a (natLE 4 1)
    { s1 with panel := { s1.panel with parkWords := s1.panel.parkWords ++ [(c, a)] } }
  else s

/-- attn_request becomes 1: every live context's park word, in ascending ID. -/
def State.attnSet (s : State) : State :=
  if s.panel.attn then s
  else
    let s1 := { s with panel := { s.panel with attn := true } }
    (s1.ctxs.filter fun e => e.1 != 0 && e.2.state = 1).foldl (fun s e => s.writePark e.1) s1
/-- attn_request becomes 0: every park word written is cleared. -/
def State.attnClear (s : State) : State :=
  let s1 := s.panel.parkWords.foldl (fun s w => s.svcWrite w.2 (natLE 4 0)) s
  { s1 with panel := { s1.panel with attn := false, parkWords := [] } }

/-- A context appears in attn_parked (R517). -/
def State.ctxParked (s : State) (c : Nat) : Bool :=
  s.exists? c && (s.ctxTiles c).all fun n =>
    (s.tile n).threads.list.all (fun t => t.run = .park) && (s.tile n).commands.isEmpty

/-! ## Contexts (14 R456, R457; 12 R385; 13 R401) -/

/-- The conditions of a lock-step context's creation (12 R385). -/
def State.lockOk (s : State) (c : Nat) : Bool :=
  let l := (s.ctx c).lockstep
  !lockEnabled l || ((s.ctx c).detMode = 0 && s.portUp (lockPort l) && (s.port (lockPort l)).peerDev = lockPartner l &&
    decide (lockBuf l + 704 * lockW l ≤ tileStoreBytes))

/-- The dump area and what other contexts and grants take of the far tier. -/
def State.farTaken (s : State) : List Range :=
  let grants := s.ctxs.flatMap fun e => e.2.memGrants.map fun g => (⟨grantBase g.2, grantLen g.2⟩ : Range)
  let reserves := s.ctxs.map fun e => (⟨e.2.reserveAt, e.2.reservePages * 4096⟩ : Range)
  (⟨s.trouble.dumpBase, s.trouble.dumpSize * 1048576⟩ : Range) :: grants ++ reserves

/-- The highest free range of the far tier of so many bytes (14 R456): it ends at the tier's end or where a taken one
begins. -/
def State.findReserve (s : State) (size : Nat) : Option Nat :=
  let top := farBase + s.farBytes
  let ends := top :: (s.farTaken.filter fun r => decide (0 < r.len) && decide (farBase ≤ r.base) && decide (r.base < top)).map (·.base)
  (ends.filter fun e => decide (farBase + size ≤ e) && s.farTaken.all fun r => !overlap (e - size) size r.base r.len).foldl
    (fun b e => match b with
      | none => some (e - size)
      | some x => some (max x (e - size))) none

def opCtxCreate (c : Nat) (s : State) : Answer :=
  let size := (s.ctx c).snapReserve * 1048576
  let at' := if size = 0 then some 0 else s.findReserve size
  answer s [
    (c = 0 || decide (256 ≤ c), 0x0104),
    ((s.ctx c).state != 0, 0x0106),
    (!s.serving || s.trouble.faulted || s.power.restart != 0 || !s.lockOk c, 0x0105),
    (at' = none, 0x0107)] fun s =>
    let s1 := s.modCtx c fun x => { x with
      state := 1, varyCount := 0, born := x.born + 1, resets := 0, waiting := [], resetting := none
      reservePages := size / 4096, reserveAt := at'.getD 0 }
    accept (if s.panel.attn then s1.writePark c else s1)

/-- A reset is asked for; one under way takes the request in. -/
def State.askReset (s : State) (c cause : Nat) (destroy : Bool) : State :=
  s.modCtx c fun x => { x with waiting := x.waiting ++ [(cause, destroy)] }
def opCtxReset (c : Nat) (s : State) : Answer :=
  answer s [(c = 0 || decide (256 ≤ c), 0x0104), (!s.serving || !s.exists? c, 0x0105)] fun s =>
    accept (if (s.ctx c).state = 4 then s else s.askReset c 0 false)
def opCtxDestroy (c : Nat) (s : State) : Answer :=
  answer s [(c = 0 || decide (256 ≤ c), 0x0104), (!s.changeable c, 0x0105)] fun s => accept (s.askReset c 2 true)

/-! ## Teams (14 R458; 01 R33, R35) -/

def rqOp (w : BitVec 160) : Nat := bits w.toNat 159 152
def rqTeam (w : BitVec 160) : Nat := bits w.toNat 151 140
def rqTeamZero (w : BitVec 160) : Bool := bits w.toNat 139 128 = 0
def rqHuddle (w : BitVec 160) : Nat := bits w.toNat 137 128
def rqHuddleZero (w : BitVec 160) : Bool := bits w.toNat 151 138 = 0
def rqDesc (w : BitVec 160) : BitVec 128 := BitVec.ofNat 128 w.toNat

def noRepeat (l : List Nat) : Bool := l.eraseDups.length = l.length

/-- The member chain a new list team would have. -/
def State.newChain (s : State) (d : BitVec 128) : List Nat := s.chain 4096 (teamFirst d)
/-- The tiles a new team would contain, each as often as a rectangle holds it. -/
def State.newTiles (s : State) (d : BitVec 128) : List Nat :=
  if teamKind d = 1 then rectTiles d else (s.newChain d).flatMap s.teamTiles

/-- A field outside what R31 and R33 allow (the first row of R455). -/
def State.teamFieldBad (s : State) (d : BitVec 128) : Bool :=
  let k := teamKind d
  k = 0 || k = 3 || bits d.toNat 125 124 != 0 || teamParent d != 0 || bits d.toNat 30 0 != 0 ||
  !s.gtallyOk (teamCtx d) (teamDone d) ||
  (if k = 1 then
    teamFirst d != 0 || decide (64 < teamX d + teamW d) || decide (32 < teamY d + teamH d) || !inRect d (teamLeader d)
   else
    bits d.toNat 52 31 != 0 || teamFirst d = 0 || !noRepeat (s.newChain d) || !noRepeat (s.newTiles d) ||
    !(s.newTiles d).contains (teamLeader d))

/-- Held by another context, or a member of another list already (the second row). -/
def State.teamHeld (s : State) (d : BitVec 128) : Bool :=
  let c := teamCtx d
  if teamKind d = 1 then (rectTiles d).any fun n => s.owned n && s.owner n != c
  else (s.newChain d).any fun m => teamKind (s.team m) != 0 && (teamCtx (s.team m) != c || teamParent (s.team m) != 0)

/-- A context, member or tile that is not there (the third row). -/
def State.teamAbsent (s : State) (d : BitVec 128) : Bool :=
  !s.changeable (teamCtx d) ||
  (teamKind d = 2 && (s.newChain d).any fun m => teamKind (s.team m) = 0) ||
  (s.newTiles d).any s.trouble.outOfService.contains

def State.setParents (s : State) (l : List Nat) (p : Nat) : State :=
  { s with teams := tmap (fun k d => if l.contains k then withField d 104 12 p else d) s.teams }

def opTeamCreate (w : BitVec 160) (s : State) : Answer :=
  let id := rqTeam w
  let d := rqDesc w
  answer s [
    (id = 0 || !rqTeamZero w || s.teamFieldBad d, 0x0104),
    (teamKind (s.team id) != 0 || s.teamHeld d, 0x0106),
    (s.teamAbsent d, 0x0105)] fun s =>
    let s1 := if teamKind d = 2 then s.setParents (s.newChain d) id else s
    accept { s1 with teams := tset id (withField d 19 12 (s.newTiles d).length) s1.teams }

/-- A command addressed to a team has not completed (01 R35). -/
def State.teamBusy (s : State) (id : Nat) : Bool :=
  (s.teamCmds.any fun e => e.2.team = id) ||
  s.tiles.any fun t => allStreams.any fun st => (t.2.dispatch.get st).any fun x => wTeamId x.entry.word = id
/-- A huddle round that has not closed, of the group or of a member of it. -/
def Huddle.inRound (h : Huddle) : Bool := hdArrC h.desc != 0 || hdArrN h.desc != 0
def State.inRound (s : State) (id : Nat) : Bool :=
  s.huddles.any fun e => e.2.inRound && (hdGroup e.2.desc = id || (s.members (hdGroup e.2.desc)).contains id)

def opTeamDestroy (w : BitVec 160) (s : State) : Answer :=
  let id := rqTeam w
  let d := s.team id
  answer s [
    (id = 0 || !rqTeamZero w || rqDesc w != 0, 0x0104),
    (teamKind d = 0 || !s.changeable (teamCtx d) || teamParent d != 0 || s.teamBusy id || s.inRound id, 0x0105)] fun s =>
    let s1 := if teamKind d = 2 then s.setParents (s.members id) 0 else s
    accept ({ s1 with teams := terase id s1.teams } : State).gateArrays

/-! ## Huddles (14 R458; 08 R275, R276) -/

def State.huddleFieldBad (s : State) (d : BitVec 128) : Bool :=
  let g := s.team (hdGroup d)
  hdKind d != 1 || hdStream d = 3 || bit d.toNat 115 || bits d.toNat 91 40 != 0 || bits d.toNat 22 0 != 0 ||
  teamKind g = 1 || (hdCloseEn d && !s.gtallyOk (hdCtx d) (hdCloseTally d))

def opHuddleCreate (w : BitVec 160) (s : State) : Answer :=
  let id := rqHuddle w
  let d := rqDesc w
  let c := hdCtx d
  let g := s.team (hdGroup d)
  answer s [
    (!rqHuddleZero w || s.huddleFieldBad d, 0x0104),
    ((tfind id s.huddles).isSome || (teamKind g != 0 && teamCtx g != c) || (s.owned (hdHome d) && s.owner (hdHome d) != c), 0x0106),
    (!s.changeable c || teamKind g = 0 || !s.owned (hdHome d), 0x0105)] fun s =>
    accept { s with huddles := tset id { desc := withField d 80 12 (s.members (hdGroup d)).length } s.huddles }

/-- Some member tile holds a HUDDLE of the huddle that has not completed. -/
def State.huddleHeld (s : State) (id : Nat) : Bool :=
  let group := (s.huddle id).elim 0 fun h => hdGroup h.desc
  s.tiles.any fun t => ((s.members group).any fun m => (s.teamTiles m).contains t.1) && t.2.commands.any fun x => wEngine x.word = 4 && x.op = 0x02 && huId x = id

/-- A huddle is gone, and with it every tile's counts of it and the closes on their way: a later one of its ID begins at arrival
0 (08 R278). -/
def State.dropHuddle (s : State) (id : Nat) : State :=
  let ofIt (p : Packet) : Bool := match p.body with
    | .close hid _ => hid = id
    | .arrive hid .. => hid = id
    | _ => false
  { s with
    huddles := terase id s.huddles
    tiles := tmap (fun _ t => { t with arrivals := t.arrivals.filter fun a => a.1 / 4096 != id }) s.tiles
    net := s.net.filter fun p => !ofIt p }

def opHuddleDestroy (w : BitVec 160) (s : State) : Answer :=
  let id := rqHuddle w
  answer s [
    (!rqHuddleZero w || rqDesc w != 0, 0x0104),
    ((match tfind id s.huddles with
      | none => true
      | some h => !s.changeable (hdCtx h.desc) || h.inRound || s.huddleHeld id), 0x0105)] fun s =>
    accept (s.dropHuddle id)

/-! ## Channels (14 R459; 01 R42–R45) -/

def opChanCreate (c : Nat) (s : State) : Answer :=
  answer s [(decide (256 ≤ c), 0x0104), (!s.changeable c, 0x0105), ((s.newChan c).isNone, 0x0107)] fun s =>
    match s.newChan c with
    | some r => { st := r.2, result := r.1.toNat }
    | none => refuse s 0x0107

/-- The context of a live channel. -/
def State.chanOwner (s : State) (h : Word) : Nat := ((tget {} (slotOf h) s.chans).live).getD 0
def opChanDestroy (h : Word) (s : State) : Answer :=
  answer s [
    (!s.chanLive h, 0x0104),
    (!s.changeable (s.chanOwner h) || s.carried h, 0x0105)] fun s => accept (s.dropChan h)

/-! ## Jobs (14 R461, R464) -/

/-- Base camp has read bytes of the device, of which those named were found uncorrectable (13 R415): a refusal changes nothing, the
error is recorded as that of the read. -/
def State.noteUnreadable (s : State) (r : Option Range) : State := r.elim s fun r => (s.outsideRead r.base r.len).2

def opJobSubmit (a : Nat) (may : Nat → Bool) (s : State) : Answer :=
  match s.submit a may with
  | .inl code => refuse (s.noteUnreadable (s.submitBad a)) code
  | .inr r => { st := r.2, result := r.1 }
def opJobCancel (id : Nat) (s : State) : Answer :=
  match s.job id with
  | none => refuse s 0x0104
  | some j => if j.open && s.serving then accept (s.cancelJob j) else refuse s 0x0105

/-! ## Restarts (15 R499; 16 R511) -/

/-- Every context is destroyed, its reset carrying the given cause; then the restart (R457, R499). -/
def State.restartAll (s : State) (kind cause : Nat) : State :=
  let s1 := s.modPower fun p => { p with restart := kind }
  ((s1.ctxs.filter fun e => e.1 != 0 && e.2.state != 0).foldl (fun s e =>
    if (s.ctx e.1).state = 4 then
      s.modCtx e.1 fun x => { x with resetting := x.resetting.map fun r => { r with destroy := true } }
    else s.askReset e.1 cause true) s1).settleRestart

/-- A restart in STOPPED: a bring-up once main power is good and junctions allow it (15 R483, R485; log 50). -/
def State.mayRestart (s : State) : Bool := s.serving || (s.power.state = 5 && !s.power.rom && s.power.mayStart)

def opRestart (v : Nat) (s : State) : Answer :=
  answer s [
    (v = 0 || decide (3 < v), 0x0104),
    (!s.mayRestart || s.power.restart != 0 || (v = 1 && !s.noCtxs), 0x0105)] fun s =>
    accept (match v with
      | 1 => (s.modPower fun p => { p with thermTrip := false }).startBringup false
      | _ => (s.modPower fun p => { p with thermTrip := false }).restartAll v 2)

end Sys2Proof.Machine
end

