-- ==== Sys2Proof/Machine/Entries.lean ====
section
/-!
DEFINITION. What the dictionary's entries are and read as (spec/14 R428, R429, R432, R444; spec/03 R118; spec/06 R192, R198, R208,
R215; spec/08 R259; spec/09 R288, R295, R311; spec/10 R357; spec/11 R358; spec/12 R380, R384; spec/13 R398, R427; spec/15 R499;
spec/16 R517).
-/
namespace Sys2Proof.Machine

/-! ## Types and access -/

/-- An entry: whether it is read and written, the shortest and longest value a write carries, whether a read takes an
argument. -/
structure EntryInfo where
  r : Bool
  w : Bool
  lo : Nat
  hi : Nat
  arg : Bool := false
deriving DecidableEq, Repr

def eRo : Option EntryInfo := some ⟨true, false, 0, 0, false⟩
def eRoArg : Option EntryInfo := some ⟨true, false, 0, 0, true⟩
def eRw (n : Nat) : Option EntryInfo := some ⟨true, true, n, n, false⟩
def eWo (n : Nat) : Option EntryInfo := some ⟨false, true, n, n, false⟩
def eWoRange (lo hi : Nat) : Option EntryInfo := some ⟨false, true, lo, hi, false⟩
def onSubs (sub lo hi : Nat) (e : Option EntryInfo) : Option EntryInfo := if lo ≤ sub ∧ sub ≤ hi then e else none

/-- Entries of one index for each sub. -/
def entryOf (i sub : Nat) : Option EntryInfo :=
  match i with
  | 0x1000 => onSubs sub 1 4 eRo
  | 0x1001 => onSubs sub 1 2 eRo
  | 0x1002 => onSubs sub 1 1 eRo
  | 0x1003 => onSubs sub 1 4 eRo
  | 0x1010 => onSubs sub 1 1 (eRw 1)
  | 0x2001 => onSubs sub 1 1 eRo
  | 0x2010 => onSubs sub 1 2 (eRw 2)
  | 0x2011 => onSubs sub 1 4 eRo
  | 0x2013 => onSubs sub 1 1 (eRw 1)
  | 0x2020 => if sub = 1 then eRo else if sub = 2 then eRw 8 else none
  | 0x2021 => onSubs sub 1 8 (eRw 32)
  | 0x2030 => onSubs sub 1 1 (eWo 1)
  | 0x3001 => onSubs sub 1 4 eRo
  | 0x3002 => onSubs sub 1 8 eRo
  | 0x3003 => onSubs sub 1 8 eRo
  | 0x3010 => onSubs sub 1 2 (eRw 2)
  | 0x3020 => onSubs sub 1 1 (eRw 2)
  | 0x3031 => onSubs sub 1 2 eRo
  | 0x3032 => onSubs sub 1 1 eRoArg
  | 0x4001 => if sub = 4 then eRw 4 else onSubs sub 1 5 (eRw 1)
  | 0x4002 => onSubs sub 1 12 (eRw 1)
  | 0x4003 => onSubs sub 1 12 eRo
  | 0x4004 => onSubs sub 1 12 eRo
  | 0x4005 => onSubs sub 1 12 (eRw 4)
  | 0x4006 => onSubs sub 1 12 eRo
  | 0x4007 => onSubs sub 1 12 (eWo 1)
  | 0x4008 => onSubs sub 1 12 eRo
  | 0x4009 => onSubs sub 1 12 (eRw 1)
  | 0x4020 => if sub = 1 then eRw 2 else if sub = 2 then eRw 1 else none
  | 0x4030 => onSubs sub 1 8 eRo
  | 0x4031 => onSubs sub 1 2 eRo
  | 0x4040 => onSubs sub 1 1 (eWo 1)
  | 0x4101 => onSubs sub 1 255 (eRw 4)
  | 0x5001 => if sub = 1 then eRo else onSubs sub 2 3 (eRw 1)
  | 0x5010 => onSubs sub 1 64 eRo
  | 0x6001 => if sub = 4 then eRo else onSubs sub 1 3 (eWo 1)
  | 0x6010 => if sub = 1 then eWo 20 else if sub = 2 then eRoArg else none
  | 0x6011 => if sub = 1 then eWo 20 else if sub = 2 then eRoArg else none
  | 0x6020 => if sub = 1 then eWo 1 else if sub = 2 then eWo 4 else if sub = 3 then eRo else none
  | 0x6100 => onSubs sub 1 255 (eRw 1)
  | 0x6101 => onSubs sub 1 255 (eRw 1)
  | 0x6102 => onSubs sub 1 255 (eRw 1)
  | 0x6103 => onSubs sub 1 255 (eRw 4)
  | 0x6104 => onSubs sub 1 255 (eRw 4)
  | 0x6105 => onSubs sub 1 255 (eRw 4)
  | 0x6106 => onSubs sub 1 255 (eRw 4)
  | 0x6107 => onSubs sub 1 255 (eRw 1)
  | 0x6108 => onSubs sub 1 255 eRo
  | 0x6109 => onSubs sub 1 255 (eRw 2)
  | 0x6110 => onSubs sub 1 255 (eRw 1)
  | 0x6111 => onSubs sub 1 255 (eRw 8)
  | 0x6112 => if sub = 1 then eRw 1 else if sub = 2 then eRo else none
  | 0x7001 => onSubs sub 1 255 (eRw 1)
  | 0x7002 => onSubs sub 1 255 eRo
  | 0x7003 => onSubs sub 1 255 (eRw 8)
  | 0x7004 => onSubs sub 1 255 (eRw 1)
  | 0x7010 => onSubs sub 1 1 (eWoRange 5 1024)
  | 0x8001 => if sub = 1 then eRo else if sub = 2 then eWo 4 else none
  | 0x8002 => onSubs sub 1 1 eRo
  | 0x8003 => onSubs sub 1 1 (eRw 16)
  | 0x8010 => onSubs sub 1 52 eRo
  | 0x8020 => onSubs sub 1 8 eRo
  | 0x8021 => onSubs sub 1 16 (eRw 16)
  | 0x8030 => onSubs sub 1 1 eRo
  | 0x8040 => if sub = 3 then eRw 2 else onSubs sub 1 4 eRo
  | 0x8050 => onSubs sub 1 1 eRo
  | 0x8100 => onSubs sub 1 8 (eRw 24)
  | 0x8300 => match sub with
    | 1 => eRw 8
    | 2 => eRw 4
    | 3 => eRw 2
    | 4 => eWo 2
    | 5 => eRo
    | _ => none
  | 0x9001 => onSubs sub 1 2 eRo
  | 0x9002 => onSubs sub 1 8 eRo
  | 0x9010 => if sub = 4 then eRoArg else onSubs sub 1 3 eRo
  | 0x9020 => onSubs sub 1 4 eRo
  | 0x9021 => onSubs sub 1 4 (eWo 1)
  | 0x9030 => match sub with
    | 1 => eWo 8
    | 2 => eRo
    | 3 => eWoRange 5 1024
    | 4 => eWo 1
    | _ => none
  | 0x9040 => if sub = 1 then eWo 32 else if sub = 2 then eRoArg else none
  | 0xA001 => onSubs sub 1 2 eRo
  | 0xA010 => match sub with
    | 1 => eWo 8
    | 2 => eRoArg
    | 3 => eWo 4
    | _ => none
  | _ => none

/-- Entries whose index names a context or a tile, and the vendor test range. -/
def entryInfo (i sub : Nat) : Option EntryInfo :=
  if 0x4201 ≤ i ∧ i ≤ 0x42FF then onSubs sub 1 16 (eRw 16)
  else if 0x6201 ≤ i ∧ i ≤ 0x62FF then onSubs sub 1 16 (eRw 16)
  else if 0x6301 ≤ i ∧ i ≤ 0x63FF then
    if sub = 1 then eRw 16 else if sub = 2 then eRw 64 else if sub = 3 then eRo else none
  else if 0x6401 ≤ i ∧ i ≤ 0x64FF then onSubs sub 1 32 (eRw 16)
  else if 0x8201 ≤ i ∧ i ≤ 0x82FF then onSubs sub 1 1 eRo
  else if 0x8800 ≤ i ∧ i ≤ 0x8FFF then if 1 ≤ sub ∧ sub ≤ 3 then eRw 32 else onSubs sub 4 6 eRo
  else if 0xF000 ≤ i then eRo
  else entryOf i sub

/-! ## Values -/

/-- "ZT-2048" and the ordering code of the grade. -/
def productBytes : List Byte := [0x5A, 0x54, 0x2D, 0x32, 0x30, 0x34, 0x38]
def State.orderingBytes (s : State) : List Byte := productBytes ++ s.power.grade.suffix
def identityBytes (what n : Nat) : List Byte := (List.range n).map (Config.identity what)
def serialBytes : List Byte := identityBytes 4 12
def macBytes : List Byte := identityBytes 6 6

/-- A map of numbers below 8 × n as n bytes. -/
def bitMap (n : Nat) (p : Nat → Bool) : List Byte :=
  (List.range n).map fun i => BitVec.ofNat 8 (((List.range 8).filter fun k => p (8 * i + k)).map (2 ^ ·)).sum

/-- trouble_summary (13 R427). -/
def State.troubleSummary (s : State) : Nat :=
  let t := s.trouble
  pack [
    (1, b2n t.dumpTaken), (1, b2n (decide (0 < t.alarmOverwritten))),
    (1, b2n (s.ctxs.any fun e => bits e.2.resetRecord.toNat 171 108 != 0)),
    (1, b2n (bit t.deviceFault.toNat 127)), (1, b2n (t.ueEvents.any fun e => bit e.toNat 127)),
    (1, b2n (t.ecc.any fun e => e.2 != 0)), (1, b2n (s.ports.any fun e => bits e.2.sticky.toNat 6 0 != 0)),
    (1, b2n (t.seams.any fun e => bit e.2.toNat 255)), (1, b2n (t.seams.any fun e => bit e.2.toNat 254)),
    (1, b2n (!t.outOfService.isEmpty)),
    (1, b2n (s.tiles.any fun e => e.2.records.list.any recordValid))]

def Kind.pendingWord (k : Kind) : Nat :=
  let i := if k.bFirst then k.b else k.a
  pack [(1, b2n k.staged), (1, b2n k.bFirst), (24, 0), (6, if k.staged then (i.map (·.svn)).getD 0 else 0)]

def padTo (n : Nat) (bs : List Byte) : List Byte := (bs ++ List.replicate n 0#8).take n

/-- The hottest junction read, in m°C; 0 before any is. -/
def Power.hottest (p : Power) : Int :=
  match p.temps with
  | [] => 0
  | t :: r => r.foldl (fun m t => max m t.2) t.2


/-- Identity, supplies, memory. -/
def State.value12 (s : State) (i sub arg : Nat) : Nat ⊕ List Byte :=
  let p := s.power
  match i, sub with
  | 0x1000, 1 => .inr productBytes
  | 0x1000, 2 => .inr s.orderingBytes
  | 0x1000, 3 => .inr serialBytes
  | 0x1000, _ => .inr (natLE 2 1)
  | 0x1001, 1 => .inr (identityBytes 1 2)
  | 0x1001, _ => .inr (identityBytes 5 2)
  | 0x1002, _ => .inr macBytes
  | 0x1003, k => .inr (natLE 4 (((s.kind (k - 1)).running.map (·.version.toNat)).getD 0))
  | 0x1010, _ => .inr (natLE 1 s.panel.locateLed)
  | 0x2001, _ => .inr (natLE 4 (p.grade.mhz * 65536 + p.grade.watts))
  | 0x2010, 1 => .inr (natLE 2 p.clockMhz)
  | 0x2010, _ => .inr (natLE 2 p.limitW)
  | 0x2011, 1 => .inr (natLE 2 p.powerW)
  | 0x2011, 2 => .inr (natLE 4 (Config.reading 2 s.draws).toNat)
  | 0x2011, 3 => .inr (natLE 4 (Config.reading 3 s.draws).toNat)
  | 0x2011, _ => .inr (natLE 4 (BitVec.ofInt 32 p.hottest).toNat)
  | 0x2013, _ => .inr (natLE 1 p.placementC)
  | 0x2020, 1 => .inr (natLE 1 p.state)
  | 0x2020, _ => .inr (natLE 8 p.status.toNat)
  | 0x2021, k => .inr (natLE 32 (lget p.events (k - 1) 0).toNat)
  | 0x3001, 1 => .inr (natLE 8 s.nearBytes)
  | 0x3001, 2 => .inr (natLE 8 s.farBytes)
  | 0x3001, 3 => .inr (natLE 1 (tierL s.nearLive))
  | 0x3001, _ => .inr (natLE 1 (tierL s.farLive))
  | 0x3002, k => .inr (natLE 2 (lget s.nearLive (k - 1) 0))
  | 0x3003, k => .inr (natLE 2 (lget s.farLive (k - 1) 0))
  | 0x3010, 1 => .inr (natLE 2 s.scratchMib)
  | 0x3010, _ => .inr (natLE 2 s.exactMib)
  | 0x3020, _ => .inr (natLE 2 s.scrubPeriod)
  | 0x3031, 1 => .inr (natLE 1 p.memTest)
  | 0x3031, _ => .inr (padTo 32 (p.testFails.flatMap (natLE 2)))
  | 0x3032, _ => if arg < 16 then .inr ((List.range 1024).map (Config.calibration arg s.draws)) else .inl 0x0101
  | _, _ => .inl 0x0101

/-- Links, fabric, host. -/
def State.value45 (s : State) (i sub : Nat) : Nat ⊕ List Byte :=
  let f := s.fabric
  let p := s.port (sub - 1)
  match i, sub with
  | 0x4001, 1 => .inr (natLE 1 s.deviceNumber)
  | 0x4001, 2 => .inr (natLE 1 f.size)
  | 0x4001, 3 => .inr (natLE 1 f.mode)
  | 0x4001, 4 => .inr (natLE 4 f.dims.toNat)
  | 0x4001, _ => .inr (natLE 1 f.protect)
  | 0x4002, _ => .inr (natLE 1 p.role)
  | 0x4003, _ => .inr (natLE 1 p.state)
  | 0x4004, _ => .inr (natLE 1 p.lanes)
  | 0x4005, _ => .inr (natLE 4 p.sticky.toNat)
  | 0x4006, _ => .inr (natLE 4 p.replays)
  | 0x4008, _ => .inr (natLE 32 p.record.toNat ++ natLE 8 p.cableState)
  | 0x4009, k => .inr (natLE 1 (b2n (s.panel.portLocate.toNat.testBit (k - 1))))
  | 0x4020, 1 => .inr (natLE 2 f.timeoutUs)
  | 0x4020, _ => .inr (natLE 1 f.retries)
  | 0x4030, k => .inr (natLE 4 (tget 0 (k - 1) f.hotline))
  | 0x4031, 1 => .inr (natLE 4 f.filterHits)
  | 0x4031, _ => .inr (natLE 4 f.staleIds)
  | 0x4101, k => .inr (natLE 4 (tget 0#32 k f.peers).toNat)
  | 0x5001, 1 => .inr (natLE 2 s.camp.pcieLink.toNat)
  | 0x5001, 2 => .inr (natLE 1 s.camp.bifurcation)
  | 0x5001, _ => .inr (natLE 1 s.camp.bar2Log2)
  | 0x5010, k => .inr (natLE 4 (s.fn (k - 1)).drops)
  | _, _ => .inl 0x0101

/-- Contexts and their settings by sub. -/
def State.value6 (s : State) (i sub arg : Nat) : Nat ⊕ List Byte :=
  let c := s.ctx sub
  match i, sub with
  | 0x6001, _ => .inr (bitMap 32 fun k => (s.ctx k).state != 0)
  | 0x6010, _ => if arg < 4096 then .inr (natLE 16 (s.team arg).toNat) else .inl 0x0101
  | 0x6011, _ => if arg < 1024 then .inr (natLE 16 (((tfind arg s.huddles).map (·.desc.toNat)).getD 0)) else .inl 0x0101
  | 0x6020, _ => .inr (natLE 4 s.allChans)
  | 0x6100, _ => .inr (natLE 1 (b2n c.dribble))
  | 0x6101, _ => .inr (natLE 1 c.streamOrder)
  | 0x6102, _ => .inr (natLE 1 c.absentPolicy)
  | 0x6103, _ => .inr (natLE 4 c.snapReserve)
  | 0x6104, _ => .inr (natLE 4 c.gtallyGrant.toNat)
  | 0x6105, _ => .inr (natLE 4 c.ridGrant.toNat)
  | 0x6106, _ => .inr (natLE 4 c.whistleLimit)
  | 0x6107, _ => .inr (natLE 1 c.failAction)
  | 0x6108, _ => .inr (natLE 1 c.state)
  | 0x6109, _ => .inr (natLE 2 c.chanLimit)
  | 0x6110, _ => .inr (natLE 1 c.function)
  | 0x6111, _ => .inr (natLE 8 c.parkAddr)
  | 0x6112, 1 => .inr (natLE 1 (b2n s.panel.attn))
  | 0x6112, _ => .inr (bitMap 32 fun k => k != 0 && s.ctxParked k)
  | 0x7001, _ => .inr (natLE 1 c.detMode)
  | 0x7002, _ => .inr (natLE 8 c.varyCount)
  | 0x7003, _ => .inr (natLE 8 c.lockstep.toNat)
  | 0x7004, _ => .inr (natLE 1 c.traceMask)
  | _, _ => .inl 0x0101

/-- Trouble records. -/
def State.value8 (s : State) (i sub : Nat) : Nat ⊕ List Byte :=
  let t := s.trouble
  match i, sub with
  | 0x8001, _ => .inr (natLE 4 s.troubleSummary)
  | 0x8002, _ => .inr (natLE 4 t.bringupFaults)
  | 0x8003, _ => .inr (natLE 16 t.deviceFault.toNat)
  | 0x8010, k => .inr (natLE 32 (s.seamRecord (k - 1)).toNat)
  | 0x8020, k => .inr (natLE 8 (tget 0 (k - 1) t.ecc))
  | 0x8021, k => .inr (natLE 16 (lget t.ueEvents (k - 1) 0).toNat)
  | 0x8030, _ => .inr (bitMap 256 t.outOfService.contains)
  | 0x8040, 1 => .inr (natLE 4 t.alarmCount)
  | 0x8040, 2 => .inr (natLE 4 t.alarmOverwritten)
  | 0x8040, 3 => .inr (natLE 2 t.alarmSelect)
  | 0x8040, _ => .inr (padTo 384 (match t.alarmLog[t.alarmSelect]? with
      | some r => r.header ++ r.body
      | none => []))
  | 0x8050, _ => .inr (natLE 8 t.staleDrops)
  | 0x8100, k => .inr (natLE 24 (s.sub (k - 1)).desc.toNat)
  | 0x8300, 1 => .inr (natLE 8 t.dumpBase)
  | 0x8300, 2 => .inr (natLE 4 t.dumpSize)
  | 0x8300, 3 => .inr (natLE 2 t.dumpTimeout)
  | 0x8300, _ => .inr (natLE 16 t.dumpLast.toNat)
  | _, _ => .inl 0x0101

/-- Trust, the change log, the service. -/
def State.value9 (s : State) (i sub arg : Nat) : Nat ⊕ List Byte :=
  let c := s.camp
  match i, sub with
  | 0x9001, 1 => .inr (ed448Public identitySeed)
  | 0x9001, _ => .inr (identityBytes 3 1024)
  | 0x9002, k => .inr (natLE 64 (s.measure (k - 1)).toNat)
  | 0x9010, 1 => .inr (natLE 8 c.headSeq ++ natLE 32 c.headLink.toNat)
  | 0x9010, 2 => .inr (natLE 8 c.baseSeq ++ natLE 32 c.baseLink.toNat)
  | 0x9010, 3 => .inr (natLE 8 c.lost)
  | 0x9010, _ =>
    match c.log.find? fun e => bits e.toNat 767 704 % 2 ^ 32 = arg with
    | some e => .inr (natLE 96 e.toNat)
    | none => .inl 0x0101
  | 0x9020, k => .inr (natLE 1 (s.kind (k - 1)).fused)
  | 0x9030, _ => .inr ((List.range 4).flatMap fun k => natLE 4 (s.kind k).pendingWord)
  | 0x9040, _ =>
    match s.trust.evidence.find? fun e => e.1.toNat % 2 ^ 32 = arg with
    | some e => .inr (natLE 714 e.2.toNat)
    | none => .inl 0x0101
  | 0xA001, 1 => .inr (natLE 1 s.service.state)
  | 0xA001, _ => .inr (natLE 4 s.service.heartbeat)
  | 0xA010, _ =>
    match s.job arg with
    | some j => .inr (natLE 16 j.status)
    | none => .inl 0x0101
  | _, _ => .inl 0x0101

/-- Entries whose index names a context or a tile. -/
def State.valueBy (s : State) (i sub : Nat) : Nat ⊕ List Byte :=
  let c := s.ctx (i % 256)
  if i < 0x4300 then .inr (natLE 16 (tget 0#128 sub c.windows).toNat)
  else if i < 0x6300 then .inr (natLE 16 (tget 0#128 sub c.memGrants).toNat)
  else if i < 0x6400 then
    if sub = 1 then .inr (natLE 16 c.jobMap.toNat)
    else if sub = 2 then .inr (natLE 64 c.jobRanks.toNat) else .inr (natLE 16 c.jobDigest.toNat)
  else if i < 0x6500 then .inr (natLE 16 (tget 0#128 (sub - 1) c.guards).toNat)
  else if i < 0x8300 then .inr (natLE 32 c.resetRecord.toNat)
  else
    let t := s.tile (i - 0x8800)
    match sub with
    | 4 => .inr (natLE 4 t.misroutes)
    | 5 => .inr (natLE 4 t.whistleFires)
    | 6 => .inr (padTo 352 t.deadlock)
    | _ => .inr (natLE 32 (t.records.get (streamOf (sub - 1))).toNat)

/-- The value of an entry that is read. -/
def State.entryValue (s : State) (i sub arg : Nat) : Nat ⊕ List Byte :=
  if 0xF000 ≤ i then .inr (match Config.signatureEntry i sub with
    | some p => natLE 8 (lget s.power.signatures p 0).toNat
    | none => (List.range 4).map (Config.vendorTest i sub s.draws))
  else if (0x4201 ≤ i ∧ i ≤ 0x42FF) ∨ (0x6201 ≤ i ∧ i ≤ 0x64FF) ∨ (0x8201 ≤ i ∧ i ≤ 0x82FF) ∨ (0x8800 ≤ i ∧ i ≤ 0x8FFF) then
    s.valueBy i sub
  else if i < 0x4000 then s.value12 i sub arg
  else if i < 0x6000 then s.value45 i sub
  else if i < 0x8000 then s.value6 i sub arg
  else if i < 0x9000 then s.value8 i sub
  else s.value9 i sub arg

/-- A read of an entry (14 R429, R432): each read of a value the spec leaves open takes a draw. -/
def opRead (i sub arg : Nat) (s : State) : Answer :=
  match entryInfo i sub with
  | none => refuse s 0x0101
  | some e =>
    if !e.r then refuse s 0x0102
    else if !e.arg && arg != 0 then refuse s 0x0104
    else
      match s.entryValue i sub arg with
      | .inl code => refuse s code
      | .inr v => { st := { s with draws := s.draws + 1 }, value := v }

/-- What the change log records as the value before a write: nothing for entries that are not read (14 R441). -/
def State.oldValue (s : State) (i sub : Nat) : List Byte :=
  match entryInfo i sub with
  | some e =>
    if e.r then (match s.entryValue i sub 0 with
      | .inr v => v
      | .inl _ => [])
    else []
  | none => []

end Sys2Proof.Machine
end

