-- ==== Sys2Proof/Machine/Settings.lean ====
section
/-!
DEFINITION. Writes of the dictionary's settings (spec/14 R428–R431, R444, R445; spec/06 R192; spec/08 R259; spec/09 R288, R295,
R311; spec/10 R357; spec/11 R358, R359, R361; spec/12 R384, R385; spec/13 R404, R417, R427; spec/15 R499; spec/16 R517). Each
operation gives the refusal codes of R431, out of range (0x0104) ahead of state (0x0105).
-/
namespace Sys2Proof.Machine

/-- A setting: refused where its value is out of range, then where its unit is not idle. -/
def setTo (bad late : Bool) (f : State → State) (s : State) : Answer :=
  answer s [(bad, 0x0104), (late, 0x0105)] fun s => accept (f s)

/-- Bits written as 1 cleared (w1c). -/
def clearOnes {n : Nat} (r : BitVec n) (v : Nat) : BitVec n := r &&& ~~~(BitVec.ofNat n v)

def State.modTrouble (s : State) (f : Trouble → Trouble) : State := { s with trouble := f s.trouble }
def State.modFabric (s : State) (f : Fabric → Fabric) : State := { s with fabric := f s.fabric }
def State.modPanel (s : State) (f : Panel → Panel) : State := { s with panel := f s.panel }
def State.modCamp (s : State) (f : Camp → Camp) : State := { s with camp := f s.camp }

/-! ## Supplies and memory (15 R499; 09 R295; 16 R517) -/

/-- power_status: bits [23:4] clear together. -/
def statusMask (v : Nat) : Nat := if bits v 23 4 != 0 then v ||| 0xFFFFF0 else v

/-- The split of the cache dies changed: scratch contents are free values (09 R295; log 5). -/
def State.setSplit (s : State) (scratch exact : Nat) : State :=
  let keep (a : Nat) : Bool := !(decide (scratchBase ≤ a) && decide (a < scratchBase + 8 * scratchWindow))
  { s with
    scratchMib := scratch
    exactMib := exact
    mem := ((Config.freeCells s.draws).filter fun c => !keep c.1).foldl (fun m c => poke c.1 c.2 m)
      (s.mem.filter fun c => keep c.1)
    draws := s.draws + 1
    bad := s.bad.filter fun b => keep (64 * b) }

def opPowerMemory (i sub v : Nat) (s : State) : Answer :=
  match i, sub with
  | 0x1010, _ => setTo (decide (2 < v)) false (fun s => s.modPanel fun p => { p with locateLed := v }) s
  | 0x2010, 1 =>
    setTo (decide (v < 400) || decide (s.power.grade.mhz < v) || v % 25 != 0) false (fun s => s.modPower fun p => { p with clockMhz := v }) s
  | 0x2010, _ => setTo (decide (v < 600) || decide (s.power.grade.watts < v)) false (fun s => s.modPower fun p => { p with limitW := v }) s
  | 0x2013, _ => setTo (decide (v < 70) || decide (100 < v)) false (fun s => s.modPower fun p => { p with placementC := v }) s
  | 0x2020, _ => setTo false false (fun s => s.modPower fun p => { p with status := clearOnes p.status (statusMask v) }) s
  | 0x2021, k =>
    setTo false false (fun s => s.modPower fun p => { p with
      events := lset p.events (k - 1) (clearOnes (lget p.events (k - 1) 0) v) }) s
  | 0x3010, 1 =>
    setTo (decide (448 < v) || v % 16 != 0 || decide (512 < v + s.exactMib + 64)) (!s.noCtxs) (fun s => s.setSplit v s.exactMib) s
  | 0x3010, _ =>
    setTo (decide (128 < v) || v % 16 != 0 || decide (512 < s.scratchMib + v + 64)) (!s.noCtxs) (fun s => s.setSplit s.scratchMib v) s
  | 0x3020, _ => setTo (decide (v < 1) || decide (168 < v)) false (fun s => { s with scrubPeriod := v }) s
  | _, _ => refuse s 0x0101

/-! ## Links and the fabric (10 R357; 14 R444) -/

def torusProduct (v : Nat) : Nat := (bits v 23 16 + 1) * (bits v 15 8 + 1) * (bits v 7 0 + 1)

/-- Another valid peer entry with the same source device and context. -/
def State.peerTwice (s : State) (sub v : Nat) : Bool :=
  bit v 0 && s.fabric.peers.any fun e => e.1 != sub && bit e.2.toNat 0 && bits e.2.toNat 31 16 = bits v 31 16

/-- A device's epoch rows, replay filters and expected request IDs forgotten (10 R354). -/
def State.forgetDevice (s : State) (d : Nat) : State :=
  s.modFabric fun f => { f with
    epochs := f.epochs.filter fun e => e.1 / 256 != d
    filters := f.filters.filter fun e => e.1 / 2 != d
    expect := f.expect.filter fun e => e.1 / 2 != d }

def opEpochClear (d : Nat) (s : State) : Answer := setTo (decide (64 ≤ d)) false (fun s => s.forgetDevice d) s

/-- A write of a port's retrain entry (10 R327): training needs a cable, a role and the module in SERVICE. -/
def opPortRetrain (p v : Nat) (s : State) : Answer :=
  setTo (decide (1 < v)) (v = 1 && !(s.serving && (s.port p).mayTrain)) (fun s => if v = 1 then s.startPort p else s) s

def opFabric (i sub v : Nat) (s : State) : Answer :=
  let f := s.fabric
  match i, sub with
  | 0x4001, 1 => setTo (decide (f.size ≤ v)) (!s.noCtxs) (fun s => { s with deviceNumber := v }) s
  | 0x4001, 2 => setTo (decide (v < 1) || decide (64 < v)) (!s.noCtxs) (fun s => s.modFabric fun f => { f with size := v }) s
  | 0x4001, 3 => setTo (decide (1 < v)) (!s.noCtxs) (fun s => s.modFabric fun f => { f with mode := v }) s
  | 0x4001, 4 =>
    setTo (bits v 31 24 != 0 || torusProduct v != f.size) (!s.noCtxs) (fun s => s.modFabric fun f => { f with dims := BitVec.ofNat 32 v }) s
  | 0x4001, _ =>
    setTo (decide (1 < v) || (v = 0 && decide (16 < f.size))) (!s.noCtxs) (fun s => s.modFabric fun f => { f with protect := v }) s
  | 0x4002, k => setTo (decide (7 < v)) (!s.noCtxs) (fun s => s.modPort (k - 1) fun p => { p with role := v }) s
  | 0x4005, k => setTo false false (fun s => s.modPort (k - 1) fun p => { p with sticky := clearOnes p.sticky v }) s
  | 0x4007, k => opPortRetrain (k - 1) v s
  | 0x4009, k =>
    setTo (decide (1 < v)) false (fun s => s.modPanel fun p => { p with portLocate := withField p.portLocate (k - 1) 1 v }) s
  | 0x4020, 1 => setTo (decide (v < 10)) false (fun s => s.modFabric fun f => { f with timeoutUs := v }) s
  | 0x4020, _ => setTo (decide (v < 1) || decide (15 < v)) false (fun s => s.modFabric fun f => { f with retries := v }) s
  | 0x4040, _ => opEpochClear v s
  | 0x4101, k =>
    setTo (bits v 7 1 != 0 || s.peerTwice k v) false (fun s => s.modFabric fun f => { f with peers := tset k (BitVec.ofNat 32 v) f.peers }) s
  | 0x5001, 2 => setTo (decide (1 < v)) false (fun s => s.modCamp fun c => { c with bifurcation := v }) s
  | 0x5001, _ => setTo (decide (v < 30) || decide (36 < v)) false (fun s => s.modCamp fun c => { c with bar2Log2 := v }) s
  | _, _ => refuse s 0x0101

/-- A fabric window (10 R347, R357). -/
def opWindow (c sub v : Nat) (s : State) : Answer :=
  setTo (bits v 35 0 != 0 || bits v 111 64 % 4096 != 0) (!s.noCtxs)
    (fun s => s.modCtx c fun x => { x with windows := tset sub (BitVec.ofNat 128 v) x.windows }) s

/-! ## Contexts (08 R259; 09 R311; 13 R398, R400; 14 R444; 16 R517) -/

/-- A grant of numbered things, out of range: not in whole units, past the last, or over another context's. -/
def State.grantBad (s : State) (c v unit last : Nat) (other : Ctx → BitVec 32) : Bool :=
  let first := bits v 31 16
  let n := bits v 15 0
  first % unit != 0 || n % unit != 0 || decide (last + 1 < first + n) ||
  s.ctxs.any fun e => e.1 != c && overlap first n (grantFirst (other e.2)) (grantCount (other e.2))

/-- A live context in lock-step (12 R385). -/
def State.lockLive (s : State) (c : Nat) : Bool := s.exists? c && lockEnabled (s.ctx c).lockstep

def opContext (i c v : Nat) (s : State) : Answer :=
  let put (bad late : Bool) (f : Ctx → Ctx) : Answer := setTo bad late (fun s => s.modCtx c f) s
  let there := s.exists? c
  match i with
  | 0x6100 => put (decide (1 < v)) false fun x => { x with dribble := v = 1 }
  | 0x6101 => put (decide (5 < v)) false fun x => { x with streamOrder := v }
  | 0x6102 => put (decide (1 < v)) false fun x => { x with absentPolicy := v }
  | 0x6103 => put false there fun x => { x with snapReserve := v }
  | 0x6104 => put (s.grantBad c v 256 0xFFFF (·.gtallyGrant)) there fun x => { x with gtallyGrant := BitVec.ofNat 32 v }
  | 0x6105 => put (s.grantBad c v 64 0x0FFF (·.ridGrant)) there fun x => { x with ridGrant := BitVec.ofNat 32 v }
  | 0x6106 => put (decide (1 ≤ v) && decide (v ≤ 15)) false fun x => { x with whistleLimit := v }
  | 0x6107 => put (bits v 4 3 = 3 || bits v 7 5 != 0) false fun x => { x with failAction := v }
  | 0x6109 => put false false fun x => { x with chanLimit := v }
  | 0x6110 => put (decide (63 < v)) there fun x => { x with function := v }
  | 0x6111 => put (v % 4 != 0) false fun x => { x with parkAddr := v }
  | 0x7001 => put (decide (2 < v)) (v != 0 && s.lockLive c) fun x => { x with detMode := v }
  | 0x7003 =>
    put (bits v 27 0 != 0 || decide (12 ≤ bits v 46 43)) there fun x => { x with lockstep := BitVec.ofNat 64 v }
  | 0x7004 => put (bits v 7 3 != 0) false fun x => { x with traceMask := v }
  | _ => refuse s 0x0101

/-- attn_request (16 R510). -/
def opAttn (v : Nat) (s : State) : Answer := setTo (decide (1 < v)) false (fun s => if v = 1 then s.attnSet else s.attnClear) s

/-! ## Memory of a context (09 R288; 13 R417; 06 R192) -/

/-- A range lies wholly in the scratch of one die or in one tier. -/
def State.inOnePart (s : State) (a n : Nat) : Bool :=
  match s.place a, s.place (a + n - 1) with
  | .scratch d _, .scratch e _ => d = e
  | .near _, .near _ => true
  | .far _, .far _ => true
  | _, _ => false
def State.dumpArea (s : State) : Range := ⟨s.trouble.dumpBase, s.trouble.dumpSize * 1048576⟩

def State.memGrantBad (s : State) (c v : Nat) : Bool :=
  let a := bits v 127 80
  let n := bits v 79 52 * 4096
  bits v 51 0 != 0 || a % 4096 != 0 ||
  (n != 0 && (!s.inOnePart a n || (Range.mk a n).overlaps s.dumpArea ||
    s.ctxs.any fun e => e.1 != c && e.2.memGrants.any fun g => overlap a n (grantBase g.2) (grantLen g.2)))
def opMemGrant (c sub v : Nat) (s : State) : Answer :=
  setTo (s.memGrantBad c v) (s.exists? c) (fun s => s.modCtx c fun x => { x with memGrants := tset sub (BitVec.ofNat 128 v) x.memGrants }) s

/-- No command of the context is queued or running on any tile. -/
def State.ctxQuiet (s : State) (c : Nat) : Bool := (s.ctxTiles c).all fun n => (s.tile n).commands.isEmpty
def State.guardFieldBad (s : State) (c k v : Nat) : Bool :=
  let kind := bits v 127 126
  let a := bits v 125 78
  let n := bits v 77 38 * 256
  kind = 3 || bits v 37 0 != 0 || a % 256 != 0 ||
  (kind != 0 && (n = 0 || (s.ctx c).guards.any fun g => g.1 != k && guardKind g.2 != 0 && overlap a n (guardBase g.2) (guardLen g.2)))
def opGuard (c sub v : Nat) (s : State) : Answer :=
  setTo (s.guardFieldBad c (sub - 1) v) (!s.ctxQuiet c || (s.ctx c).state = 4)
    (fun s => s.modCtx c fun x => { x with guards := tset (sub - 1) (BitVec.ofNat 128 v) x.guards }) s

/-! ## Job mapping (11 R358–R361) -/

def jmNdev (m : Nat) : Nat := bits m 79 72
def jmDp (m : Nat) : Nat := bits m 71 64
def jmPp (m : Nat) : Nat := bits m 63 56
def jmEp (m : Nat) : Nat := bits m 55 48
def jmSp (m : Nat) : Nat := bits m 47 40
def jmDi (m : Nat) : Nat := bits m 31 24
def jmPi (m : Nat) : Nat := bits m 23 16
def jmEi (m : Nat) : Nat := bits m 15 8
def jmSi (m : Nat) : Nat := bits m 7 0
/-- The device's own rank (R360). -/
def jmRank (m : Nat) : Nat := jmDi m + jmDp m * (jmPi m + jmPp m * (jmEi m + jmEp m * jmSi m))
/-- The device number of a rank. -/
def rankDev (ranks r : Nat) : Nat := bits ranks (8 * r + 7) (8 * r)

/-- The condition on the mapping record alone. -/
def State.jobMapBad (s : State) (m : Nat) : Bool :=
  jmDp m * jmPp m * jmEp m * jmSp m != jmNdev m || decide (s.fabric.size < jmNdev m) || bits m 36 32 != 0 ||
  decide (jmDp m ≤ jmDi m) || decide (jmPp m ≤ jmPi m) || decide (jmEp m ≤ jmEi m) || decide (jmSp m ≤ jmSi m)
/-- The condition on the ranks against a mapping record. -/
def State.jobRanksBad (s : State) (m ranks : Nat) : Bool :=
  let used := (List.range (jmNdev m)).map (rankDev ranks)
  !noRepeat used || used.any (fun d => decide (s.fabric.size ≤ d)) ||
  (List.range 64).any fun r => decide (jmNdev m ≤ r) && rankDev ranks r != 0xFF
/-- The byte of the own rank names another device. -/
def State.jobRankBad (s : State) (m ranks : Nat) : Bool := rankDev ranks (jmRank m) != s.deviceNumber

/-- The digest's first byte is byte 0 of the entry (14 R428; log 23). -/
def jobDigest (m : BitVec 128) (ranks : BitVec 512) : BitVec 128 :=
  BitVec.ofNat 128 (leNat (shake256 (natLE 16 (m.toNat / 2 ^ 32 * 2 ^ 32) ++ natLE 64 ranks.toNat) 16))
/-- The mapping changed, and its digest recomputed. -/
def State.setJob (s : State) (c : Nat) (m : BitVec 128) (ranks : BitVec 512) : State :=
  s.modCtx c fun x => { x with jobMap := m, jobRanks := ranks, jobDigest := jobDigest m ranks }

/-- A write of the mapping record; the ranks, and the own rank's byte among them, are judged once ranks have been written
(log 75). -/
def opJobMap (c v : Nat) (s : State) : Answer :=
  let x := s.ctx c
  setTo (s.jobMapBad v || (x.jobRanks != BitVec.allOnes 512 &&
      (s.jobRanksBad v x.jobRanks.toNat || s.jobRankBad v x.jobRanks.toNat))) (s.exists? c)
    (fun s => s.setJob c (BitVec.ofNat 128 v) x.jobRanks) s
/-- A write of the ranks; the own rank's byte is judged once a mapping has been written. -/
def opJobRanks (c v : Nat) (s : State) : Answer :=
  let x := s.ctx c
  setTo (s.jobRanksBad x.jobMap.toNat v || (x.jobMap != 0 && s.jobRankBad x.jobMap.toNat v)) (s.exists? c)
    (fun s => s.setJob c x.jobMap (BitVec.ofNat 512 v)) s

/-! ## Trouble entries (13 R417, R427) -/

/-- A tile's fault record: clearing valid also zeroes more (02 R81). -/
def clearRecord (r : BitVec 256) (v : Nat) : BitVec 256 :=
  let x := clearOnes r v
  if bit v 255 then withField x 30 8 0 else x
def opRecordClear (n k v : Nat) (s : State) : Answer :=
  accept (s.modTile n fun t => { t with records := t.records.set (streamOf k) (clearRecord (t.records.get (streamOf k)) v) })

/-- One bit of trouble_clear. -/
def State.clearEcc (s : State) : State := s.modTrouble fun t => { t with ecc := [] }
def State.clearTileCounts (s : State) : State := { s with tiles := tmap (fun _ t => { t with misroutes := 0, whistleFires := 0 }) s.tiles }
def State.clearStale (s : State) : State := s.modTrouble fun t => { t with staleDrops := 0 }
def clearSeam (r : BitVec 256) : BitVec 256 := withField (withField r 254 1 0) 224 16 0
def State.clearSeams (s : State) : State := s.modTrouble fun t => { t with seams := tmap (fun _ r => clearSeam r) t.seams }
def State.clearAlarmLog (s : State) : State := s.modTrouble fun t => { t with alarmCount := 0, alarmOverwritten := 0 }
def State.clearDumpFlag (s : State) : State := s.modTrouble fun t => { t with dumpTaken := false }
def opTroubleClear (v : Nat) (s : State) : Answer :=
  setTo (bits v 31 6 != 0) false (fun s =>
    let s0 := if bit v 0 then s.clearEcc else s
    let s1 := if bit v 1 then s0.clearTileCounts else s0
    let s2 := if bit v 2 then s1.clearStale else s1
    let s3 := if bit v 3 then s2.clearSeams else s2
    let s4 := if bit v 4 then s3.clearAlarmLog else s3
    if bit v 5 then s4.clearDumpFlag else s4) s

/-- A dump area out of range: not in the far tier, not on a page, or over a memory grant (13 R417). -/
def State.dumpAreaBad (s : State) (a mib : Nat) : Bool :=
  let n := mib * 1048576
  a % 4096 != 0 || decide (a < farBase) || decide (farBase + s.farBytes < a + n) ||
  s.ctxs.any fun e => e.2.memGrants.any fun g => overlap a n (grantBase g.2) (grantLen g.2)

/-- dump_request (13 R417): a context that exists, or the whole device; [15:10] are 0, depth is 0 to 2. -/
def opDumpRequest (v : Nat) (s : State) : Answer :=
  let c := bits v 7 0
  setTo (bits v 15 10 != 0 || bits v 9 8 = 3) (!s.serving || !s.dumpReady || !s.exists? c)
    (fun s => s.modTrouble fun t => { t with dumps := t.dumps ++ [{ ctx := c, depth := bits v 9 8, cause := 0, alarmSeq := 0 }] }) s

/-- A subscriber entry (14 R445): a change ends the resending of its alarms. -/
def subscriberBad (v : Nat) : Bool := if bits v 191 190 = 1 then bits v 177 144 != 0 else bits v 177 128 != 0
def opSubscriber (k v : Nat) (s : State) : Answer :=
  setTo (subscriberBad v) false (fun s => s.modSub (k - 1) fun x => { x with desc := BitVec.ofNat 192 v, unacked := [] }) s

def opTrouble (i sub v : Nat) (s : State) : Answer :=
  let t := s.trouble
  match i, sub with
  | 0x8001, _ => opTroubleClear v s
  | 0x8003, _ => setTo false false (fun s => s.modTrouble fun t => { t with deviceFault := clearOnes t.deviceFault v }) s
  | 0x8021, k =>
    setTo false false (fun s => s.modTrouble fun t => { t with ueEvents := lset t.ueEvents (k - 1) (clearOnes (lget t.ueEvents (k - 1) 0) v) }) s
  | 0x8040, _ => setTo (decide (1023 < v)) false (fun s => s.modTrouble fun t => { t with alarmSelect := v }) s
  | 0x8100, k => opSubscriber k v s
  | 0x8300, 1 =>
    setTo (s.dumpAreaBad v t.dumpSize) (!t.dumps.isEmpty) (fun s => s.modTrouble fun t => { t with dumpBase := v, dumpNext := 0 }) s
  | 0x8300, 2 =>
    setTo (v != 0 && s.dumpAreaBad t.dumpBase v) (!t.dumps.isEmpty) (fun s => s.modTrouble fun t => { t with dumpSize := v }) s
  | 0x8300, 3 => setTo (decide (v < 1)) false (fun s => s.modTrouble fun t => { t with dumpTimeout := v }) s
  | 0x8300, _ => opDumpRequest v s
  | _, _ => refuse s 0x0101

end Sys2Proof.Machine
end

