-- ==== Sys2Proof/Machine/Requests.lean ====
section
/-!
DEFINITION. Dictionary requests (spec/14 R428–R440; spec/02 R75; spec/15 R493–R498): what a write of each entry does, and the
requests that reach base camp by the management port, MCTP and the dictionary window.
-/
namespace Sys2Proof.Machine

/-! ## Firmware (15 R493–R495) -/

/-- An image that begins where `header` was read, with its body. -/
def opStage (h : Nat) (body : List Byte) (s : State) : Answer :=
  if s.imageValid h body then { st := s.stage h, result := stageResult h } else refuse s 0x0104

/-- A device address lies, with n bytes, in the external memory of the own device. -/
def State.external (s : State) (a n : Nat) : Bool :=
  match s.place a with
  | .near _ => s.inOnePart a n
  | .far _ => s.inOnePart a n
  | _ => false

/-- The bytes of an image at an address that are read and hold an uncorrectable block (13 R415): of its header, or behind it. -/
def State.stageBad (s : State) (a : Nat) : Option Range :=
  let body : Range := ⟨a + 256, imgLength (beNat (s.loadBytes a 256))⟩
  if !s.serving || !s.external a 256 then none
  else if (s.badBlock a 256).isSome then some ⟨a, 256⟩
  else if s.external a (256 + body.len) && (s.badBlock body.base body.len).isSome then some body
  else none
/-- fw_stage: the memory is read in SERVICE, where it is trained and powered; an image that cannot be read is not valid. -/
def opFwStage (a : Nat) (s : State) : Answer :=
  if !s.serving then refuse s 0x0105
  else if !s.external a 256 then refuse s 0x0104
  else
    let h := beNat (s.loadBytes a 256)
    if (s.stageBad a).isSome then refuse (s.noteUnreadable (s.stageBad a)) 0x0104
    else if !s.external a (256 + imgLength h) then refuse s 0x0104
    else opStage h (s.loadBytes (a + 256) (imgLength h)) s

def uploadBytes : Nat := 0x2000000
def opFwUpload (bs : List Byte) (s : State) : Answer :=
  let off := leNat (bs.take 4)
  setTo (decide (uploadBytes < off + (bs.length - 4))) (s.power.state = 1)
    (fun s => { s with trust := { s.trust with upload := pokes off (bs.drop 4) s.trust.upload } }) s

/-- fw_stage_upload: the buffer's image is staged and the buffer cleared. -/
def opFwStageUpload (v : Nat) (s : State) : Answer :=
  if v != 1 then refuse s 0x0104
  else if s.power.state = 1 then refuse s 0x0105
  else
    let h := beNat (peeks s.trust.upload 0 256)
    if uploadBytes < 256 + imgLength h then refuse s 0x0104
    else
      let a := opStage h (peeks s.trust.upload 256 (imgLength h)) s
      if a.abort = 0 then { a with st := { a.st with trust := { a.st.trust with upload := [] } } } else a
/-- The ROM restarts base camp once the reply has been sent (15 R494). -/
def State.leaveRom (s : State) : State := if s.power.rom && (s.kind 0).usable (s.kind 0).a then s.startCamp else s

def opSvnCommit (k v : Nat) (s : State) : Answer :=
  let x := s.kind k
  setTo (decide (v < x.fused) || (match x.running with
    | some r => decide (r.svn < v)
    | none => true)) false (fun s => s.modKind k fun x => { x with fused := v }) s

/-- What a write of an entry reads in the memory of the device and finds uncorrectable: a job's record, or an image. -/
def State.unreadable (s : State) (i sub : Nat) (bs : List Byte) : Option Range :=
  if i = 0xA010 && sub = 1 then s.submitBad (leNat bs)
  else if i = 0x9030 && sub = 1 then s.stageBad (leNat bs)
  else none

/-! ## Instruction memory over the debug path (02 R75) -/

def opDebugImem (bs : List Byte) (s : State) : Answer :=
  let w := leNat (bs.take 2)
  let n := bits w 15 5
  let bank := bits w 4 4
  let off := leNat ((bs.drop 2).take 2)
  let data := bs.drop 4
  answer s [
    (decide (0x10000 < off + data.length), 0x0104),
    (!s.alive n, 0x0105),
    (s.bankActive n bank, 0x0106)] fun s => accept (s.modTile n fun t => t.coreWrite (bank + 1) off data)

/-! ## Every write (14 R430, R431) -/

def opTeam (w : BitVec 160) (s : State) : Answer :=
  if rqOp w = 1 then opTeamCreate w s else if rqOp w = 2 then opTeamDestroy w s else refuse s 0x0104
def opHuddle (w : BitVec 160) (s : State) : Answer :=
  if rqOp w = 1 then opHuddleCreate w s else if rqOp w = 2 then opHuddleDestroy w s else refuse s 0x0104

/-- Contexts, teams, channels, jobs and firmware. -/
def opTable (i sub : Nat) (bs : List Byte) (s : State) : Answer :=
  let v := leNat bs
  match i, sub with
  | 0x6001, 1 => opCtxCreate v s
  | 0x6001, 2 => opCtxReset v s
  | 0x6001, _ => opCtxDestroy v s
  | 0x6010, _ => opTeam (BitVec.ofNat 160 v) s
  | 0x6011, _ => opHuddle (BitVec.ofNat 160 v) s
  | 0x6020, 1 => opChanCreate v s
  | 0x6020, _ => opChanDestroy (BitVec.ofNat 32 v) s
  | 0x6112, _ => opAttn v s
  | 0x7010, _ => opDebugImem bs s
  | 0x2030, _ => opRestart v s
  | 0x9021, k => opSvnCommit (k - 1) v s
  | 0x9030, 1 => opFwStage v s
  | 0x9030, 3 => opFwUpload bs s
  | 0x9030, _ => opFwStageUpload v s
  | 0x9040, _ => accept s
  | 0xA010, 1 => opJobSubmit v (fun _ => true) s
  | 0xA010, _ => opJobCancel v s
  | _, _ => refuse s 0x0101

/-- The write of an entry that exists, is written and has a value of its length. -/
def opEntry (i sub : Nat) (bs : List Byte) (s : State) : Answer :=
  let v := leNat bs
  if 0x4201 ≤ i ∧ i ≤ 0x42FF then opWindow (i % 256) sub v s
  else if 0x6201 ≤ i ∧ i ≤ 0x62FF then opMemGrant (i % 256) sub v s
  else if 0x6301 ≤ i ∧ i ≤ 0x63FF then if sub = 1 then opJobMap (i % 256) v s else opJobRanks (i % 256) v s
  else if 0x6401 ≤ i ∧ i ≤ 0x64FF then opGuard (i % 256) sub v s
  else if 0x8800 ≤ i ∧ i ≤ 0x8FFF then opRecordClear (i - 0x8800) (sub - 1) v s
  else if i = 0x2030 ∨ i = 0x6112 ∨ i = 0x7010 ∨ i = 0x6001 ∨ (0x6010 ≤ i ∧ i ≤ 0x6020) ∨ 0x9000 ≤ i then opTable i sub bs s
  else if i < 0x4000 then opPowerMemory i sub v s
  else if i < 0x6000 then opFabric i sub v s
  else if i < 0x8000 then opContext i sub v s
  else opTrouble i sub v s

/-- A write with the checks of every entry: existence, access, length. -/
def opWrite (i sub : Nat) (bs : List Byte) (s : State) : Answer :=
  match entryInfo i sub with
  | none => refuse s 0x0101
  | some e =>
    if !e.w then refuse s 0x0102
    else if decide (bs.length < e.lo) || decide (e.hi < bs.length) then refuse s 0x0103
    else opEntry i sub bs s

/-- What follows the log's append: a nonce's evidence names the head that its own write left (15 R498). -/
def afterWrite (i : Nat) (bs : List Byte) (s : State) : State :=
  if i = 0x9040 then s.takeNonce (BitVec.ofNat 256 (leNat bs)) else s

/-! ## Requests by their paths -/

/-- A frame of the dictionary window stands in its buffer (14 R440). -/
def State.framed (s : State) (src : Requester) (q : Req) : Bool :=
  match src with
  | .window f =>
    let p := parseFrame (s.fn f).frame
    p.2 && p.1 = { q with seq := p.1.seq }
  | .queue .. => false
  | .button => false
  | _ => true

/-- What the onboard service leaves alone: contexts' settings, their reset and destruction (14 R460). -/
def serviceMay (i sub : Nat) : Bool :=
  !((0x4201 ≤ i ∧ i ≤ 0x42FF) ∨ (0x6100 ≤ i ∧ i ≤ 0x64FF) ∨ (0x7001 ≤ i ∧ i ≤ 0x7004) ∨ (i = 0x6001 ∧ sub != 1) ∨ i = 0x2030)
def mayAsk (src : Requester) (i sub : Nat) : Bool := if src = .service then serviceMay i sub else true

/-- A write request taken by base camp. -/
def State.answerWrite (s : State) (src : Requester) (i sub : Nat) (bs : List Byte) : State :=
  (s.writeFrame src i sub bs (s.oldValue i sub) (opWrite i sub bs) (afterWrite i bs)).leaveRom
/-- A write request sent to base camp by a path that may carry it. -/
def State.askWrite (s : State) (src : Requester) (i sub : Nat) (bs : List Byte) : State :=
  if s.framed src { typ := 2, seq := 0, index := i, sub := sub, value := bs } && mayAsk src i sub then s.answerWrite src i sub bs
  else s

/-- A read request that reaches base camp. -/
def State.answerRead (s : State) (src : Requester) (i sub arg : Nat) : State :=
  s.fresh? src (fun s => s.sendFrame src (frame 0x81 (srcSeq s src) i sub 0x0109 arg 0 [])) fun s =>
    let a := if s.power.rom && !(romServes i sub && srcPath src = 0) then refuse s 0x0101 else opRead i sub arg s
    a.st.replyTo src (frame 0x81 (srcSeq s src) i sub a.abort arg 0 a.value)
def State.askRead (s : State) (src : Requester) (i sub arg : Nat) : State :=
  if s.framed src { typ := 1, seq := 0, index := i, sub := sub, arg := arg } then s.answerRead src i sub arg else s

/-- The values of 0x1000:02 and 0x1000:03, each behind its length. -/
def State.discoverValue (s : State) : List Byte :=
  BitVec.ofNat 8 s.orderingBytes.length :: s.orderingBytes ++ BitVec.ofNat 8 serialBytes.length :: serialBytes
def State.answerDiscover (s : State) (src : Requester) : State :=
  s.fresh? src (fun s => s.sendFrame src (frame 0x83 (srcSeq s src) 0 0 0x0109 0 0 [])) fun s =>
    if s.power.rom && srcPath src != 0 then s.replyTo src (frame 0x83 (srcSeq s src) 0 0 0x0101 0 0 [])
    else s.replyTo src (frame 0x83 (srcSeq s src) 0 0 0 0 0 s.discoverValue)

/-- A subscriber's alarm acknowledged. -/
def State.ackNotify (s : State) (ip : BitVec 128) (udp : BitVec 16) (seq : Nat) : State :=
  let ack (x : Subscriber) : Subscriber :=
    if subKind x.desc = 1 && subIp x.desc = ip && subPort x.desc = udp then
      { x with unacked := x.unacked.filter fun e => e.1 % 2 ^ 32 != seq }
    else x
  s.modCamp fun c => { c with subs := c.subs.map ack }
def State.takeNotifyAck (s : State) (src : Requester) : State :=
  match src with
  | .benvon ip udp seq => if s.reaches src then s.ackNotify ip udp seq.toNat else s
  | _ => s

/-- A frame that cannot be taken, answered where its header can be read (14 R435). -/
def State.malformed (s : State) (src : Requester) (q : Req) (bytes : List Byte) : State :=
  if s.reaches src && decide (32 ≤ bytes.length) then
    s.sendFrame src (frame ((q.typ ||| 0x80) % 256) q.seq q.index q.sub 0x0108 0 0 [])
  else s

/-- A whole frame that has come by a path; `src` names its sender for a seq. -/
def State.takeFrame (s : State) (src : Word → Requester) (bytes : List Byte) : State :=
  let p := parseFrame bytes
  let who := src (BitVec.ofNat 32 p.1.seq)
  if !p.2 then s.malformed who p.1 bytes
  else
    match p.1.typ with
    | 1 => s.answerRead who p.1.index p.1.sub p.1.arg
    | 2 => s.answerWrite who p.1.index p.1.sub p.1.value
    | 3 => s.answerDiscover who
    | _ => s.takeNotifyAck who

/-! ## The rows -/

def execRead (src : Requester) (i sub arg : Nat) (s : State) : Result := .next (s.askRead src i sub arg)
def execWrite (src : Requester) (i sub : Nat) (value : List Byte) (s : State) : Result := .next (s.askWrite src i sub value)
def execDiscover (src : Requester) (s : State) : Result :=
  .next (if s.framed src { typ := 3, seq := 0 } && src != .service then s.answerDiscover src else s)
def execNotifyAck (src : Requester) (s : State) : Result := .next (s.takeNotifyAck src)

/-- The alarms of a Benvon subscriber that it has not acknowledged go out again, with their delivery numbers. -/
def execNotifyResend (k : Nat) (s : State) : Result :=
  if k < 8 then
    let x := s.sub k
    .next (if s.power.camp && s.power.phase != 1 && subKind x.desc = 1 then
      x.unacked.foldl (fun s e => s.notify x.desc e.1 e.2) s else s)
  else .fault .noSuchPlace

/-- The address the module forms from its MAC address by the modified EUI-64 rule (14 R434). -/
def linkLocal : BitVec 128 :=
  let m := macBytes.map (·.toNat)
  BitVec.ofNat 128 (pack [(16, 0xFE80), (48, 0), (8, m.getD 0 0 ^^^ 2), (8, m.getD 1 0), (8, m.getD 2 0), (16, 0xFFFE), (8, m.getD 3 0),
    (8, m.getD 4 0), (8, m.getD 5 0)])
def execNeighbourSolicitation (target : BitVec 128) (s : State) : Result :=
  .next (if s.power.camp && target = linkLocal then { s with sent := .advertise target :: s.sent } else s)

/-! ## MCTP control (14 R438; log 40) -/

/-- MCTP messages reach the endpoint on PRT0. -/
def State.mctpUp (s : State) : Bool := s.power.camp && s.power.phase != 1 && s.pcieUp
/-- A control response: message type 0, a response's header with the request's instance, the command, and what it carries. -/
def State.mctpControl (s : State) (eid inst : Byte) (cmd : Nat) (data : List Byte) : State :=
  { s with sent := .mctp eid (0#8 :: (inst &&& 0x1F#8) :: BitVec.ofNat 8 cmd :: data) :: s.sent }

def execSetEndpointId (sender inst eid : Byte) (s : State) : Result :=
  .next (if !s.mctpUp then s
    else if eid = 0 ∨ eid = 0xFF#8 then s.mctpControl sender inst 1 [2#8]
    else (s.modCamp fun c => { c with eid := eid }).mctpControl sender inst 1 [0#8, 0#8, eid, 0#8])
def execGetEndpointId (sender inst : Byte) (s : State) : Result :=
  .next (if s.mctpUp then s.mctpControl sender inst 2 [0#8, s.camp.eid, 0#8, 0#8] else s)
/-- The version supported of a message type that is taken is a free value. -/
def execGetMctpVersionSupport (sender inst msgType : Byte) (s : State) : Result :=
  .next (if !s.mctpUp then s
    else if msgType = 0xFF#8 ∨ msgType = 0 ∨ msgType = 0x7E#8 then
      let v := s.free 18
      v.2.mctpControl sender inst 4 (0#8 :: 1#8 :: natBE 4 v.1.toNat)
    else s.mctpControl sender inst 4 [0x80#8])
/-- Beside control itself, messages of type 0x7E are taken. -/
def execGetMessageTypeSupport (sender inst : Byte) (s : State) : Result :=
  .next (if s.mctpUp then s.mctpControl sender inst 5 [0#8, 1#8, 0x7E#8] else s)

/-- A message of type 0x7E: the vendor ID, then a frame (14 R439). -/
def execMctpVendorMessage (eid : Byte) (rid : BitVec 16) (body : List Byte) (s : State) : Result :=
  .next (if s.mctpUp && leNat (body.take 2) = vendorId then s.takeFrame (.mctp eid rid) (body.drop 2) else s)

/-- A write of win_go: the frame in the window is taken; base camp's reply takes its place (14 R440). -/
def execWinGo (f value : Nat) (s : State) : Result :=
  if f < fnCount then
    .next (if value = 1 && s.reaches (.window f) then s.takeFrame (fun _ => .window f) (s.fn f).frame else s)
  else .fault .noSuchPlace

/-- A request's entry of the retry record, ten seconds old (14 R436). -/
def execRetryRecordExpiry (src : Requester) (s : State) : Result :=
  .next (match srcPeer src with
    | some p => s.modCamp fun c => { c with retries := c.retries.filter fun r => !(r.peer = p && r.seq.toNat = srcSeq s src) }
    | none => s)

end Sys2Proof.Machine
end

