-- ==== Sys2Proof/Machine/HostLink.lean ====
section
/-!
DEFINITION. The host's paths (spec/14 R446–R454; spec/15 R498): BAR0's registers and doorbells, the function control queues,
BAR2 and the DOE mailbox.
-/
namespace Sys2Proof.Machine

/-! ## BAR0 (14 R448) -/

/-- Bits of a base that are not there read as 0: 4 KiB for rings, the BAR2 size for BAR2 (log 41). -/
def alignTo (n v : Nat) : Nat := v / n * n

def State.barWrite (s : State) (f off v : Nat) : State :=
  let sel := (s.fn f).ringSel
  match off with
  | 0x0008 => s.modFn f fun x => { x with bar2Base := alignTo (2 ^ s.bar2Log2 f) (v % 2 ^ 48) }
  | 0x0010 => s.modFn f fun x => { x with ringSel := v % 16 }
  | 0x0018 => s.modRing f sel fun x => { x with base := alignTo 4096 (v % 2 ^ 64) }
  | 0x0020 => if 4 ≤ v ∧ v ≤ 12 then s.modRing f sel fun x => { x with log2 := v } else s
  | 0x0028 => s.modRing f sel fun x => { x with cbase := alignTo 4096 (v % 2 ^ 64) }
  | 0x0030 => if (s.ring f sel).entries.isEmpty then s.modRing f sel fun x => { x with enable := v % 2 = 1 } else s
  | 0x0040 => s.modFn f fun x => { x with evtBase := alignTo 4096 (v % 2 ^ 64) }
  | 0x0048 => if 4 ≤ v ∧ v ≤ 12 then s.modFn f fun x => { x with evtLog2 := v } else s
  | 0x1804 => if s.physical f then s.modFn f fun x => { x with winIrq := bit v 1 } else s
  | _ =>
    if 0x1000 ≤ off ∧ off < 0x1420 ∧ off % 4 = 0 ∧ s.physical f then
      s.modFn f fun x => { x with frame := x.frame.take (off - 0x1000) ++ natLE 4 v ++ x.frame.drop (off - 0x1000 + 4) }
    else s

/-- What a BAR0 register reads as; an address that is not listed reads as 0. A frame is answered in the step that takes it, so
win_busy is never seen set. No row of the table reads a register: the host's view of the state. -/
def State.barRead (s : State) (f off : Nat) : Nat :=
  let x := s.fn f
  let r := s.ring f x.ringSel
  match off with
  | 0x0000 => f % 64 + 256 * b2n (s.physical f)
  | 0x0008 => x.bar2Base
  | 0x0010 => x.ringSel
  | 0x0018 => r.base
  | 0x0020 => r.log2
  | 0x0028 => r.cbase
  | 0x0030 => b2n r.enable
  | 0x0038 => r.head
  | 0x0040 => x.evtBase
  | 0x0048 => x.evtLog2
  | 0x1804 => if s.physical f then 2 * b2n x.winIrq else 0
  | _ =>
    if 0x1000 ≤ off ∧ off < 0x1420 ∧ off % 4 = 0 ∧ s.physical f then leNat ((x.frame.drop (off - 0x1000)).take 4) else 0

def execBar0RegisterWrite (f off v : Nat) (s : State) : Result :=
  atPlace (decide (f < fnCount)) (if s.pcieUp then s.barWrite f off v else s)

/-! ## BAR2 and the tally doorbells (14 R449, R450; 13 R415) -/

/-- A read passes no write that its function has posted before it. -/
def execBar2Read (f off len : Nat) (ecc : Ecc) (s : State) : Result :=
  if f < fnCount then
    let a := (s.fn f).bar2Base + off
    if !(s.pcieUp && s.homesRun && s.inBar2 f off len && (s.fn f).posted.isEmpty) then .next s
    else if !s.fnMay f a len then
      let s1 := s.countFnDrop f
      .next { s1 with sent := .hostRefusal f false :: s1.sent }
    else
      let s1 := s.eccCheck ecc a
      let r := s1.outsideRead a len
      .next { r.2 with sent := (if (s1.badBlock a len).isSome then .hostRefusal f true else .hostRead f r.1) :: r.2.sent }
  else .fault .noSuchPlace

def execBar2Write (f off : Nat) (data : List Byte) (s : State) : Result :=
  if f < fnCount then
    let a := (s.fn f).bar2Base + off
    .next (if !(s.pcieUp && s.homesRun && s.inBar2 f off data.length) then s
      else if !s.fnMay f a data.length then s.countFnDrop f
      else s.post f (.write a data))
  else .fault .noSuchPlace

def execTallyDb (f g : Nat) (n : Word) (s : State) : Result :=
  atPlace (decide (f < fnCount) && decide (g < 65536))
    (if s.pcieUp && s.serving then s.post f (.signal g n.toNat) else s)

/-! ## Function control queues (14 R452, R453) -/

/-- A doorbell: the entries between the old tail and the new one are the host's. -/
def State.doorbell (s : State) (f r tail : Nat) (es : List (BitVec 512)) : State :=
  let x := s.ring f r
  if x.enable && decide (tail < x.size) && es.length = (tail + x.size - x.tail % x.size) % x.size then
    s.modRing f r fun y => { y with tail := tail, entries := y.entries ++ es }
  else s
def execRingDb (f r tail : Nat) (es : List (BitVec 512)) (s : State) : Result :=
  atPlace (decide (f < fnCount) && decide (r < ringCount)) (if s.pcieUp then s.doorbell f r tail es else s)

/-- The operation at the front of a ring, executed: its entry is taken and, with the code and result, completed. -/
def State.runFront (s : State) (f r op : Nat) (g : BitVec 512 → State → Answer) : State :=
  match s.frontOf f r false with
  | none => s
  | some e =>
    if qOp e != op then s
    else
      let a := g e s
      (a.st.takeEntry f r).completeRing f r e a.abort a.result

/-- START's streams: its mask holds forward, backward and update from the low bit up. -/
def startStreams (e : BitVec 512) : List Stream := allStreams.filter fun st => (qArg e 467 465).testBit (streamNo st)
def opStart (f : Nat) (e : BitVec 512) (s : State) : Answer :=
  let c := qCtx e
  let team := qArg e 479 468
  let tiles := s.teamTiles team
  let who := tiles.flatMap fun n => (startStreams e).map fun st => (n, st)
  answer s [
    (!s.mayName f c, 0x010A),
    (qArg e 464 0 != 0, 0x0104),
    (!s.running c || s.destroying c || !s.teamOf c team || s.teamBlocked team || who.any fun w => (s.thread w.1 w.2).run != .park, 0x0105)] fun s =>
    accept (who.foldl (fun s w =>
      s.send { uid := 0, ctx := c, epoch := 0, chan := 0#32, src := .port 0, dst := .tile w.1, stream := w.2, body := .start w.2 }) s)
def execStart (f r : Nat) (s : State) : Result :=
  atPlace (decide (f < fnCount) && decide (r < ringCount)) (s.runFront f r 3 (opStart f))

def opHsig (f : Nat) (e : BitVec 512) (s : State) : Answer :=
  answer s [(!s.mayName f (qCtx e), 0x010A), (qArg e 431 0 != 0, 0x0104), (s.destroying (qCtx e), 0x0105)] fun s =>
    accept (s.hostSignal f (qArg e 479 464) (qArg e 463 432))
def execHsig (f r : Nat) (s : State) : Result :=
  atPlace (decide (f < fnCount) && decide (r < ringCount))
    (if (s.fn f).posted.isEmpty then s.runFront f r 5 (opHsig f) else s)

/-- NOP, and an operation that there is none of. -/
def State.runNop (s : State) (f r : Nat) : State :=
  match s.frontOf f r false with
  | none => s
  | some e =>
    if qOp e = 0 then
      (s.takeEntry f r).completeRing f r e (if !s.mayName f (qCtx e) then 0x010A else if qArg e 479 0 != 0 then 0x0104 else 0) 0
    else if 7 < qOp e then (s.takeEntry f r).completeRing f r e 0x0104 0
    else s
def execRingNop (f r : Nat) (s : State) : Result :=
  atPlace (decide (f < fnCount) && decide (r < ringCount)) (s.runNop f r)

/-! ## HCOPY (14 R453) -/

def hcToHost (e : BitVec 512) : Bool := bit e.toNat 479
def hcAddr (e : BitVec 512) : Nat := qArg e 478 431
def hcHost (e : BitVec 512) : Nat := qArg e 430 367
def hcLen (e : BitVec 512) : Nat := qArg e 366 335
def hcTallyEn (e : BitVec 512) : Bool := bit e.toNat 334
def hcTally (e : BitVec 512) : Nat := qArg e 333 318

def hcRefusal (s : State) (f : Nat) (e : BitVec 512) : Nat :=
  (answer s [
    (!s.mayName f (qCtx e), 0x010A),
    (hcLen e = 0 || qArg e 317 0 != 0, 0x0104),
    (!s.fnMay f (hcAddr e) (hcLen e), 0x0104),
    (s.destroying (qCtx e), 0x0105)] accept).abort

/-- The front HCOPY is taken: refused, or under way with its bytes. `data` are the host's where it copies to the device. -/
def State.startCopy (s : State) (f r : Nat) (data : List Byte) (ecc : Ecc) : State :=
  match s.frontOf f r true with
  | none => s
  | some e =>
    let code := hcRefusal s f e
    if qOp e != 4 then s
    else if code != 0 then
      (s.takeEntry f r).completeRing f r e code 0
    else if hcToHost e then
      let s1 := s.eccCheck ecc (hcAddr e)
      let b := s1.outsideRead (hcAddr e) (hcLen e)
      if (s1.badBlock (hcAddr e) (hcLen e)).isSome then
        -- the code a copy of uncorrectable data completes with is a free value (log 15)
        let w := b.2.free 9
        (w.2.takeEntry f r).modRing f r fun x => { x with copies := x.copies ++ [{ entry := e, data := b.1, abort := w.1.toNat % 65536 }] }
      else (b.2.takeEntry f r).modRing f r fun x => { x with copies := x.copies ++ [{ entry := e, data := b.1 }] }
    else if data.length = hcLen e then
      (s.takeEntry f r).modRing f r fun x => { x with copies := x.copies ++ [{ entry := e, data := data }] }
    else s
def execHcopy (f r : Nat) (data : List Byte) (ecc : Ecc) (s : State) : Result :=
  atPlace (decide (f < fnCount) && decide (r < ringCount)) (s.startCopy f r data ecc)

/-- A copy under way ends: its bytes are visible or sent, then its tally is signalled, then it completes. -/
def State.endCopy (s : State) (f r k : Nat) : State :=
  match (s.ring f r).copies[k]? with
  | none => s
  | some x =>
    let e := x.entry
    let s0 := s.modRing f r fun y => { y with copies := y.copies.eraseIdx k }
    let done (s : State) : State :=
      (if hcTallyEn e then s.hostSignal f (hcTally e) 1 else s).completeRing f r e x.abort 0
    if hcToHost e then done (s0.toHost f (hcHost e) x.data)
    else if s.hostRoom (hcAddr e) (hcLen e) then done (s0.hostStore (hcAddr e) x.data)
    else s
def execHcopyDone (f r k : Nat) (s : State) : Result :=
  atPlace (decide (f < fnCount) && decide (r < ringCount)) (if s.pcieUp && s.serving then s.endCopy f r k else s)

/-! ## The DOE mailbox (14 R451; 15 R498) -/

/-- Of the two objects: Discovery itself, then the vendor object, the last. -/
def execDoeDiscovery (f index : Nat) (s : State) : Result :=
  atPlace (decide (f < fnCount))
    (if s.pcieUp && s.physical f then
      let object := match index with
        | 0 => natLE 2 1 ++ [0#8, 1#8]
        | 1 => natLE 2 vendorId ++ [1#8, 0#8]
        | _ => natLE 2 0xFFFF ++ [0#8, 0#8]
      { s with sent := .doe f object :: s.sent }
    else s)

/-- The vendor object: the byte 0x01 and a nonce, answered with the evidence; anything else gets no answer. -/
def execDoeAttest (f : Nat) (request : List Byte) (s : State) : Result :=
  atPlace (decide (f < fnCount))
    (if s.pcieUp && s.physical f && request.head? = some 1#8 && decide (33 ≤ request.length) then
      { s with sent := .doe f (natLE 714 (s.evidenceFor (BitVec.ofNat 256 (leNat ((request.drop 1).take 32)))).toNat) :: s.sent }
    else s)

end Sys2Proof.Machine
end

