-- ==== Sys2Proof/Machine/Orders.lean ====
section
/-!
DEFINITION. The dictionary's entries with a row of their own (spec/14 R444, R453–R459, R461, R464; spec/13 R401, R417, R427;
spec/10 R327, R354; spec/15 R493–R499; spec/16 R510), and the queue operations that stand in for entries (14 R454).
-/
namespace Sys2Proof.Machine

/-- The arguments of the entry at the front of a ring that this operation may not use (14 R452: unused bits are 0). -/
def State.frontArg (s : State) (f r hi : Nat) : Nat := ((s.frontOf f r false).map fun e => qArg e hi 0).getD 0
/-- An operation of the entry at the front, out of range where its unused bits [hi:0] are not 0. -/
def State.unusedZero (s : State) (f r hi : Nat) (op : State → Answer) (s' : State) : Answer :=
  if s.frontArg f r hi != 0 then refuse s' 0x0104 else op s'
def ringPlaceOk (f r : Nat) : Bool := decide (f < fnCount) && decide (r < ringCount)

/-! ## Contexts, teams, huddles, channels -/

def execCtxCreate (src : Requester) (c : Nat) (s : State) : Result := .next (s.askWrite src 0x6001 1 (natLE 1 c))
def execCtxDestroy (src : Requester) (c : Nat) (s : State) : Result := .next (s.askWrite src 0x6001 3 (natLE 1 c))
def execCtxReset (src : Requester) (c : Nat) (s : State) : Result :=
  match src with
  | .queue f r =>
    atPlace (ringPlaceOk f r) (s.writeQueue f r 0x6001 2 (natLE 1 c) (fun e => qOp e = 6 && qCtx e = c)
      (s.unusedZero f r 479 (opCtxReset c)))
  | _ => .next (s.askWrite src 0x6001 2 (natLE 1 c))

def teamRequest (op : Nat) (w : BitVec 160) : Bool := rqOp w = op
def execTeamCreate (src : Requester) (w : BitVec 160) (s : State) : Result :=
  .next (if teamRequest 1 w then s.askWrite src 0x6010 1 (natLE 20 w.toNat) else s)
def execTeamDestroy (src : Requester) (w : BitVec 160) (s : State) : Result :=
  .next (if teamRequest 2 w then s.askWrite src 0x6010 1 (natLE 20 w.toNat) else s)
def execHuddleCreate (src : Requester) (w : BitVec 160) (s : State) : Result :=
  .next (if teamRequest 1 w then s.askWrite src 0x6011 1 (natLE 20 w.toNat) else s)
def execHuddleDestroy (src : Requester) (w : BitVec 160) (s : State) : Result :=
  .next (if teamRequest 2 w then s.askWrite src 0x6011 1 (natLE 20 w.toNat) else s)

def execChanCreate (src : Requester) (c : Nat) (s : State) : Result :=
  match src with
  | .queue f r =>
    atPlace (ringPlaceOk f r) (s.writeQueue f r 0x6020 1 (natLE 1 c) (fun e => qOp e = 1 && qCtx e = c)
      (s.unusedZero f r 479 (opChanCreate c)))
  | _ => .next (s.askWrite src 0x6020 1 (natLE 1 c))

/-- A handle that names another function's context is refused as the context's name would be (14 R447). -/
def State.destroyBy (s : State) (f : Nat) (h : Word) : Answer :=
  if s.chanLive h && !s.mayName f (s.chanOwner h) then refuse s 0x010A else opChanDestroy h s
def execChanDestroy (src : Requester) (h : Word) (s : State) : Result :=
  match src with
  | .queue f r =>
    atPlace (ringPlaceOk f r) (s.writeQueue f r 0x6020 2 (natLE 4 h.toNat) (fun e => qOp e = 2 && qArg e 479 448 = h.toNat)
      (s.unusedZero f r 447 fun s => s.destroyBy f h))
  | _ => .next (s.askWrite src 0x6020 2 (natLE 4 h.toNat))

/-! ## Jobs -/

def execJobSubmit (src : Requester) (a : Nat) (s : State) : Result :=
  match src with
  | .queue f r =>
    atPlace (ringPlaceOk f r) (s.writeQueue f r 0xA010 1 (natLE 8 a) (fun e => qOp e = 7 && qArg e 479 432 = a)
      (s.unusedZero f r 431 fun s => opJobSubmit a (s.mayName f) s))
  | _ => .next (s.askWrite src 0xA010 1 (natLE 8 a))
def execJobCancel (src : Requester) (id : Nat) (s : State) : Result := .next (s.askWrite src 0xA010 3 (natLE 4 id))

/-! ## Debugging, trouble records, dumps -/

def execDebugImemWrite (src : Requester) (value : List Byte) (s : State) : Result := .next (s.askWrite src 0x7010 1 value)
def execFaultRecordClear (src : Requester) (n : Nat) (st : Stream) (s : State) : Result :=
  atPlace (decide (n < 2048)) (s.askWrite src (0x8800 + n) (streamNo st + 1) (natLE 32 (2 ^ 255)))
def execTroubleClearEcc (src : Requester) (s : State) : Result := .next (s.askWrite src 0x8001 2 (natLE 4 1))
def execTroubleClearTileCounts (src : Requester) (s : State) : Result := .next (s.askWrite src 0x8001 2 (natLE 4 2))
def execTroubleClearStaleDrops (src : Requester) (s : State) : Result := .next (s.askWrite src 0x8001 2 (natLE 4 4))
def execTroubleClearSeamAlarms (src : Requester) (s : State) : Result := .next (s.askWrite src 0x8001 2 (natLE 4 8))
def execTroubleClearAlarmLog (src : Requester) (s : State) : Result := .next (s.askWrite src 0x8001 2 (natLE 4 16))
def execTroubleClearDumpFlag (src : Requester) (s : State) : Result := .next (s.askWrite src 0x8001 2 (natLE 4 32))
def execDumpRequest (src : Requester) (v : BitVec 16) (s : State) : Result := .next (s.askWrite src 0x8300 4 (natLE 2 v.toNat))
def execEpochClear (src : Requester) (d : Nat) (s : State) : Result := .next (s.askWrite src 0x4040 1 (natLE 1 d))
def execPortRetrain (src : Requester) (p : Nat) (s : State) : Result :=
  atPlace (decide (p < portCount)) (s.askWrite src 0x4007 (p + 1) (natLE 1 1))

/-! ## Parking -/

def execAttnRequestSet (src : Requester) (s : State) : Result := .next (s.askWrite src 0x6112 1 (natLE 1 1))
def execAttnRequestClear (src : Requester) (s : State) : Result := .next (s.askWrite src 0x6112 1 (natLE 1 0))

/-! ## Firmware, trust, restarts -/

def execFwStage (src : Requester) (a : Nat) (s : State) : Result := .next (s.askWrite src 0x9030 1 (natLE 8 a))
def execFwUpload (src : Requester) (value : List Byte) (s : State) : Result := .next (s.askWrite src 0x9030 3 value)
def execFwStageUpload (src : Requester) (v : Nat) (s : State) : Result := .next (s.askWrite src 0x9030 4 (natLE 1 v))
def execSvnCommit (src : Requester) (k v : Nat) (s : State) : Result :=
  atPlace (decide (k < 4)) (s.askWrite src 0x9021 (k + 1) (natLE 1 v))
def execAttestNonce (src : Requester) (nonce : BitVec 256) (s : State) : Result :=
  .next (s.askWrite src 0x9040 1 (natLE 32 nonce.toNat))
def execRestartWarm (src : Requester) (s : State) : Result := .next (s.askWrite src 0x2030 1 (natLE 1 1))
def execRestartDestroy (src : Requester) (s : State) : Result := .next (s.askWrite src 0x2030 1 (natLE 1 2))
def execRestartBaseCamp (src : Requester) (s : State) : Result := .next (s.askWrite src 0x2030 1 (natLE 1 3))

end Sys2Proof.Machine
end

