-- ==== Sys2Proof/Machine/PanelRows.lean ====
section
/-!
DEFINITION. The attention button, the LEDs and the cables (spec/16 R509–R516).
-/
namespace Sys2Proof.Machine

/-! ## The button (16 R509–R512) -/

/-- A write by the button, which is answered to nobody: logged with path 5, then applied. -/
def State.buttonWrite (s : State) (i sub : Nat) (bs : List Byte) (op : State → Answer) : State :=
  let old := s.oldValue i sub
  (s.applyWrite .button i sub bs old op id).1

def execButtonShortPress (s : State) : Result :=
  .next (if s.serving then s.buttonWrite 0x6112 1 [1#8] (opAttn 1) else s)
/-- A middle press does nothing but end the LED's flashing. -/
def execButtonMiddlePress (s : State) : Result := .next (s.modPanel fun p => { p with held := 0 })
/-- The button acts in SERVICE and STOPPED alone (R512). -/
def State.buttonActs (s : State) : Bool := s.power.camp && (s.serving || s.power.state = 5)
def execButtonHold2s (s : State) : Result := .next (if s.buttonActs then s.modPanel fun p => { p with held := 1 } else s)

/-- restart's value 2, each context's reset carrying cause 3. -/
def opLongPress (s : State) : Answer :=
  answer s [(!s.serving || s.power.restart != 0, 0x0105)] fun s =>
    accept ((s.modPower fun p => { p with thermTrip := false }).restartAll 2 3)
def execButtonLongPress (s : State) : Result :=
  let s1 := if s.buttonActs || s.panel.held = 1 then s.modPanel fun p => { p with held := 2 } else s
  .next (if s1.serving then s1.buttonWrite 0x2030 1 [2#8] opLongPress
    else if s1.power.state = 5 && !s1.power.rom && s1.power.mayStart then
      (s1.modPower fun p => { p with thermTrip := false }).startBringup false
    else s1)

/-! ## LEDs (16 R513, R514) -/

inductive Led where
  | off | steady | blink1Hz | flash4Hz
deriving DecidableEq, Repr

/-- What the locate LED shows. -/
def State.locateShown (s : State) : Led :=
  let asked := s.ctxs.filter fun e => e.1 != 0 && e.2.state = 1 && e.2.parkAddr != 0
  if s.panel.held = 1 then .flash4Hz
  else if s.panel.held = 2 then .steady
  else if s.panel.attn && asked.any fun e => !s.ctxParked e.1 then .blink1Hz
  else if s.panel.attn then .steady
  else if s.panel.locateLed = 1 then .steady
  else if s.panel.locateLed = 2 then .blink1Hz else .off

inductive PortLed where
  | off | green | greenBlink2Hz | amber | amberBlink2Hz | amberBlink4Hz | alternate1Hz
deriving DecidableEq, Repr

/-- The port dies are powered: from the first entry of the power-up sequence to the end of a ride-through (15 R470–R472). -/
def State.portDiesPowered (s : State) : Bool :=
  (s.power.state = 1 && decide (0 < s.power.slots)) || s.power.state = 2 || s.power.state = 3

/-- What a port's LED shows. -/
def State.portLed (s : State) (p : Nat) : PortLed :=
  if s.panel.portLocate.toNat.testBit p then .alternate1Hz
  else if !s.portDiesPowered then .off
  else
    match (s.port p).state with
    | 1 => .greenBlink2Hz
    | 2 => .green
    | 3 => .amber
    | 4 => .amberBlink2Hz
    | 5 => .amberBlink4Hz
    | _ => .off

/-! ## Cables (16 R515) -/

/-- A plug: in SERVICE a port with a role starts training; in any other state the port trains at the next bring-up. -/
def State.plug (s : State) (p : Nat) : State :=
  let s1 := s.modPort p fun x => { x with cable := true }
  if s1.serving then s1.startPort p else s1
def execCablePlug (p : Nat) (s : State) : Result :=
  atPlace (decide (p < portCount)) (if s.power.camp && !(s.port p).cable then s.plug p else s)

/-- An unplug: the port goes DOWN, its unacknowledged flits return to route selection, and it is ABSENT. -/
def State.unplug (s : State) (p : Nat) : State :=
  let x := s.port p
  let s1 := if x.state = 0 ∨ x.state = 1 then s else s.portDown p
  s1.modPort p fun x => { x with cable := false, record := 0, cableState := 0, state := 0, step := 0, lanes := 0, wantTrain := false }
def execCableUnplug (p : Nat) (s : State) : Result :=
  atPlace (decide (p < portCount)) (if s.power.camp && (s.port p).cable then s.unplug p else s)

end Sys2Proof.Machine
end

