-- ==== Sys2Proof/Machine/Dispatch.lean ====
section
/-!
DEFINITION. What each command does: one arm per constructor of Instr, each one call of its meaning.
-/
namespace Sys2Proof.Machine

def exec (i : Instr) (s : State) : Host.Outcome State Fault Refusal :=
  match i with
  | .threadStart k => Sys2Proof.Machine.execThreadStart k s
  | .rvInstruction t st => Sys2Proof.Machine.execRvInstruction t st s
  | .rvFence t st => Sys2Proof.Machine.execRvFence t st s
  | .ebreak t st => Sys2Proof.Machine.execEbreak t st s
  | .ecall t st => Sys2Proof.Machine.execEcall t st s
  | .cstW t st => Sys2Proof.Machine.execCstW t st s
  | .cld t st => Sys2Proof.Machine.execCld t st s
  | .cpush t st => Sys2Proof.Machine.execCpush t st s
  | .cpushnb t st => Sys2Proof.Machine.execCpushnb t st s
  | .pushRoomResume t st => Sys2Proof.Machine.execPushRoomResume t st s
  | .qfree t st => Sys2Proof.Machine.execQfree t st s
  | .cdrain t st => Sys2Proof.Machine.execCdrain t st s
  | .cdrainResume t st => Sys2Proof.Machine.execCdrainResume t st s
  | .sumrd t st => Sys2Proof.Machine.execSumrd t st s
  | .sumrdResume t st => Sys2Proof.Machine.execSumrdResume t st s
  | .imswap t st => Sys2Proof.Machine.execImswap t st s
  | .park t st => Sys2Proof.Machine.execPark t st s
  | .pcmp t st => Sys2Proof.Machine.execPcmp t st s
  | .plog t st => Sys2Proof.Machine.execPlog t st s
  | .pset t st => Sys2Proof.Machine.execPset t st s
  | .pmv t st => Sys2Proof.Machine.execPmv t st s
  | .prd t st => Sys2Proof.Machine.execPrd t st s
  | .pwr t st => Sys2Proof.Machine.execPwr t st s
  | .ctwait t st => Sys2Proof.Machine.execCtwait t st s
  | .skipEntry t e st => Sys2Proof.Machine.execSkipEntry t e st s
  | .nop t e st => Sys2Proof.Machine.execNop t e st s
  | .commandComplete t e st => Sys2Proof.Machine.execCommandComplete t e st s
  | .teamDispatch t st => Sys2Proof.Machine.execTeamDispatch t st s
  | .teamDelivery k => Sys2Proof.Machine.execTeamDelivery k s
  | .teamMemberCompletion k => Sys2Proof.Machine.execTeamMemberCompletion k s
  | .mma t st => Sys2Proof.Machine.execMma t st s
  | .mdrain t st => Sys2Proof.Machine.execMdrain t st s
  | .mdcfg t st => Sys2Proof.Machine.execMdcfg t st s
  | .wlopen t st => Sys2Proof.Machine.execWlopen t st s
  | .wlput t st => Sys2Proof.Machine.execWlput t st s
  | .wlrun t st => Sys2Proof.Machine.execWlrun t st s
  | .wlclose t st => Sys2Proof.Machine.execWlclose t st s
  | .itemRequest k => Sys2Proof.Machine.execItemRequest k s
  | .itemArrive k => Sys2Proof.Machine.execItemArrive k s
  | .itemComplete t st => Sys2Proof.Machine.execItemComplete t st s
  | .dribbleStepDown t array => Sys2Proof.Machine.execDribbleStepDown t array s
  | .dribbleRampStep t array => Sys2Proof.Machine.execDribbleRampStep t array s
  | .vld t st => Sys2Proof.Machine.execVld t st s
  | .vst t st => Sys2Proof.Machine.execVst t st s
  | .epload t st => Sys2Proof.Machine.execEpload t st s
  | .eprog t st => Sys2Proof.Machine.execEprog t st s
  | .epstrm t st => Sys2Proof.Machine.execEpstrm t st s
  | .vred t st => Sys2Proof.Machine.execVred t st s
  | .vsum t st => Sys2Proof.Machine.execVsum t st s
  | .vseed t st => Sys2Proof.Machine.execVseed t st s
  | .laneReservationGrant t => Sys2Proof.Machine.execLaneReservationGrant t s
  | .optcfg t st => Sys2Proof.Machine.execOptcfg t st s
  | .optstep t st => Sys2Proof.Machine.execOptstep t st s
  | .amaxstep t st => Sys2Proof.Machine.execAmaxstep t st s
  | .snap t st => Sys2Proof.Machine.execSnap t st s
  | .snapShip team => Sys2Proof.Machine.execSnapShip team s
  | .move t st ecc => Sys2Proof.Machine.execMove t st ecc s
  | .mvcomp t st => Sys2Proof.Machine.execMvcomp t st s
  | .remask t st => Sys2Proof.Machine.execRemask t st s
  | .stash t st => Sys2Proof.Machine.execStash t st s
  | .predld t st => Sys2Proof.Machine.execPredld t st s
  | .maskdrop t st => Sys2Proof.Machine.execMaskdrop t st s
  | .aadd t st => Sys2Proof.Machine.execAadd t st s
  | .amin t st => Sys2Proof.Machine.execAmin t st s
  | .amax t st => Sys2Proof.Machine.execAmax t st s
  | .aswap t st => Sys2Proof.Machine.execAswap t st s
  | .acas t st => Sys2Proof.Machine.execAcas t st s
  | .aaddn t st => Sys2Proof.Machine.execAaddn t st s
  | .aminn t st => Sys2Proof.Machine.execAminn t st s
  | .amaxn t st => Sys2Proof.Machine.execAmaxn t st s
  | .rdopen t st => Sys2Proof.Machine.execRdopen t st s
  | .rdadd t st => Sys2Proof.Machine.execRdadd t st s
  | .homeRequest k ecc => Sys2Proof.Machine.execHomeRequest k ecc s
  | .atomicAtHome k ecc => Sys2Proof.Machine.execAtomicAtHome k ecc s
  | .contributionAtHome k ecc => Sys2Proof.Machine.execContributionAtHome k ecc s
  | .reductionDone rid => Sys2Proof.Machine.execReductionDone rid s
  | .tileStoreRemoteAccess k ecc => Sys2Proof.Machine.execTileStoreRemoteAccess k ecc s
  | .replyArrive k => Sys2Proof.Machine.execReplyArrive k s
  | .refusalArrive k => Sys2Proof.Machine.execRefusalArrive k s
  | .patrolScrub die far channel ecc => Sys2Proof.Machine.execPatrolScrub die far channel ecc s
  | .poolget t st => Sys2Proof.Machine.execPoolget t st s
  | .poolput t st => Sys2Proof.Machine.execPoolput t st s
  | .poolcfg t st => Sys2Proof.Machine.execPoolcfg t st s
  | .poolRequestAtHome k => Sys2Proof.Machine.execPoolRequestAtHome k s
  | .poolGrantArrive k => Sys2Proof.Machine.execPoolGrantArrive k s
  | .rtcfg t st => Sys2Proof.Machine.execRtcfg t st s
  | .rqopen t st => Sys2Proof.Machine.execRqopen t st s
  | .route t st => Sys2Proof.Machine.execRoute t st s
  | .rqclose t st => Sys2Proof.Machine.execRqclose t st s
  | .rbound t st => Sys2Proof.Machine.execRbound t st s
  | .rcomb t st => Sys2Proof.Machine.execRcomb t st s
  | .rback t st => Sys2Proof.Machine.execRback t st s
  | .rgrad t st => Sys2Proof.Machine.execRgrad t st s
  | .rxopen t st => Sys2Proof.Machine.execRxopen t st s
  | .rwget t st => Sys2Proof.Machine.execRwget t st s
  | .rwgetStart k => Sys2Proof.Machine.execRwgetStart k s
  | .rxwait t st => Sys2Proof.Machine.execRxwait t st s
  | .rxexpand t st => Sys2Proof.Machine.execRxexpand t st s
  | .rsend t st => Sys2Proof.Machine.execRsend t st s
  | .routeRowArrive k => Sys2Proof.Machine.execRouteRowArrive k s
  | .routeCloseArrive k => Sys2Proof.Machine.execRouteCloseArrive k s
  | .returnRowArrive k => Sys2Proof.Machine.execReturnRowArrive k s
  | .twait t e st => Sys2Proof.Machine.execTwait t e st s
  | .tclaim t e st => Sys2Proof.Machine.execTclaim t e st s
  | .tsig t e st => Sys2Proof.Machine.execTsig t e st s
  | .fence t e st => Sys2Proof.Machine.execFence t e st s
  | .tset t st => Sys2Proof.Machine.execTset t st s
  | .huddle t st => Sys2Proof.Machine.execHuddle t st s
  | .tallySignalAtHome k => Sys2Proof.Machine.execTallySignalAtHome k s
  | .tallyRegistrationAtHome k => Sys2Proof.Machine.execTallyRegistrationAtHome k s
  | .tallySetAtHome k => Sys2Proof.Machine.execTallySetAtHome k s
  | .tsetAnswerArrive k => Sys2Proof.Machine.execTsetAnswerArrive k s
  | .tallyReleaseArrive k => Sys2Proof.Machine.execTallyReleaseArrive k s
  | .remoteSignalAtTile k => Sys2Proof.Machine.execRemoteSignalAtTile k s
  | .huddleArrivalAtHome k => Sys2Proof.Machine.execHuddleArrivalAtHome k s
  | .huddleNextRoundClose hid => Sys2Proof.Machine.execHuddleNextRoundClose hid s
  | .huddleCloseArrive k => Sys2Proof.Machine.execHuddleCloseArrive k s
  | .localDeadlock t => Sys2Proof.Machine.execLocalDeadlock t s
  | .whistleFire t unit => Sys2Proof.Machine.execWhistleFire t unit s
  | .whistleWarning t unit => Sys2Proof.Machine.execWhistleWarning t unit s
  | .dump => Sys2Proof.Machine.execDump s
  | .dumpUnitTimeout => Sys2Proof.Machine.execDumpUnitTimeout s
  | .contextReset ctx => Sys2Proof.Machine.execContextReset ctx s
  | .quiesceComplete ctx => Sys2Proof.Machine.execQuiesceComplete ctx s
  | .quiesceTimeout ctx unit => Sys2Proof.Machine.execQuiesceTimeout ctx unit s
  | .epochAckTimeout ctx => Sys2Proof.Machine.execEpochAckTimeout ctx s
  | .tileHardwareFault t cause => Sys2Proof.Machine.execTileHardwareFault t cause s
  | .seamTransferError seam dir => Sys2Proof.Machine.execSeamTransferError seam dir s
  | .seamRepeatAlarm seam dir => Sys2Proof.Machine.execSeamRepeatAlarm seam dir s
  | .seamFailed seam dir => Sys2Proof.Machine.execSeamFailed seam dir s
  | .dieCheckerFire die => Sys2Proof.Machine.execDieCheckerFire die s
  | .logHopDrop source cls => Sys2Proof.Machine.execLogHopDrop source cls s
  | .debugHalt t st => Sys2Proof.Machine.execDebugHalt t st s
  | .debugResume t st => Sys2Proof.Machine.execDebugResume t st s
  | .lockstepWindowRecord port => Sys2Proof.Machine.execLockstepWindowRecord port s
  | .lockstepDigestList port => Sys2Proof.Machine.execLockstepDigestList port s
  | .lockstepStop port => Sys2Proof.Machine.execLockstepStop port s
  | .portTrainStart port => Sys2Proof.Machine.execPortTrainStart port s
  | .trainingStepComplete port report => Sys2Proof.Machine.execTrainingStepComplete port report s
  | .trainingStepTimeout port => Sys2Proof.Machine.execTrainingStepTimeout port s
  | .init port flit => Sys2Proof.Machine.execInit port flit s
  | .initAck port flit => Sys2Proof.Machine.execInitAck port flit s
  | .initResend port => Sys2Proof.Machine.execInitResend port s
  | .retrainRequest port flit => Sys2Proof.Machine.execRetrainRequest port flit s
  | .downNotice port flit => Sys2Proof.Machine.execDownNotice port flit s
  | .messageFlit port flit fecOk => Sys2Proof.Machine.execMessageFlit port flit fecOk s
  | .nullFlit port flit fecOk => Sys2Proof.Machine.execNullFlit port flit fecOk s
  | .replayRequest port flit fecOk => Sys2Proof.Machine.execReplayRequest port flit fecOk s
  | .fecLockLoss port => Sys2Proof.Machine.execFecLockLoss port s
  | .flitTransmit port => Sys2Proof.Machine.execFlitTransmit port s
  | .rd port dl ecc => Sys2Proof.Machine.execRd port dl ecc s
  | .wr port dl => Sys2Proof.Machine.execWr port dl s
  | .atom port dl ecc => Sys2Proof.Machine.execAtom port dl ecc s
  | .atomn port dl ecc => Sys2Proof.Machine.execAtomn port dl ecc s
  | .rdc port dl ecc => Sys2Proof.Machine.execRdc port dl ecc s
  | .sig port dl => Sys2Proof.Machine.execSig port dl s
  | .epoch port dl => Sys2Proof.Machine.execEpoch port dl s
  | .rdr port dl => Sys2Proof.Machine.execRdr port dl s
  | .ack port dl => Sys2Proof.Machine.execAck port dl s
  | .atr port dl => Sys2Proof.Machine.execAtr port dl s
  | .nak port dl => Sys2Proof.Machine.execNak port dl s
  | .mgmt port dl => Sys2Proof.Machine.execMgmt port dl s
  | .trace port dl => Sys2Proof.Machine.execTrace port dl s
  | .e2eTimeout request => Sys2Proof.Machine.execE2eTimeout request s
  | .read src index sub arg => Sys2Proof.Machine.execRead src index sub arg s
  | .write src index sub value => Sys2Proof.Machine.execWrite src index sub value s
  | .discover src => Sys2Proof.Machine.execDiscover src s
  | .notifyAck src => Sys2Proof.Machine.execNotifyAck src s
  | .notifyResend subscriber => Sys2Proof.Machine.execNotifyResend subscriber s
  | .neighbourSolicitation target => Sys2Proof.Machine.execNeighbourSolicitation target s
  | .setEndpointId sender inst eid => Sys2Proof.Machine.execSetEndpointId sender inst eid s
  | .getEndpointId sender inst => Sys2Proof.Machine.execGetEndpointId sender inst s
  | .getMctpVersionSupport sender inst msgType => Sys2Proof.Machine.execGetMctpVersionSupport sender inst msgType s
  | .getMessageTypeSupport sender inst => Sys2Proof.Machine.execGetMessageTypeSupport sender inst s
  | .mctpVendorMessage eid requesterId body => Sys2Proof.Machine.execMctpVendorMessage eid requesterId body s
  | .winGo fn value => Sys2Proof.Machine.execWinGo fn value s
  | .ctxCreate src ctx => Sys2Proof.Machine.execCtxCreate src ctx s
  | .ctxReset src ctx => Sys2Proof.Machine.execCtxReset src ctx s
  | .ctxDestroy src ctx => Sys2Proof.Machine.execCtxDestroy src ctx s
  | .teamCreate src request => Sys2Proof.Machine.execTeamCreate src request s
  | .teamDestroy src request => Sys2Proof.Machine.execTeamDestroy src request s
  | .huddleCreate src request => Sys2Proof.Machine.execHuddleCreate src request s
  | .huddleDestroy src request => Sys2Proof.Machine.execHuddleDestroy src request s
  | .chanCreate src ctx => Sys2Proof.Machine.execChanCreate src ctx s
  | .chanDestroy src handle => Sys2Proof.Machine.execChanDestroy src handle s
  | .jobSubmit src record => Sys2Proof.Machine.execJobSubmit src record s
  | .jobCancel src job => Sys2Proof.Machine.execJobCancel src job s
  | .debugImemWrite src value => Sys2Proof.Machine.execDebugImemWrite src value s
  | .faultRecordClear src t st => Sys2Proof.Machine.execFaultRecordClear src t st s
  | .troubleClearEcc src => Sys2Proof.Machine.execTroubleClearEcc src s
  | .troubleClearTileCounts src => Sys2Proof.Machine.execTroubleClearTileCounts src s
  | .troubleClearStaleDrops src => Sys2Proof.Machine.execTroubleClearStaleDrops src s
  | .troubleClearSeamAlarms src => Sys2Proof.Machine.execTroubleClearSeamAlarms src s
  | .troubleClearAlarmLog src => Sys2Proof.Machine.execTroubleClearAlarmLog src s
  | .troubleClearDumpFlag src => Sys2Proof.Machine.execTroubleClearDumpFlag src s
  | .dumpRequest src value => Sys2Proof.Machine.execDumpRequest src value s
  | .epochClear src device => Sys2Proof.Machine.execEpochClear src device s
  | .portRetrain src port => Sys2Proof.Machine.execPortRetrain src port s
  | .attnRequestSet src => Sys2Proof.Machine.execAttnRequestSet src s
  | .attnRequestClear src => Sys2Proof.Machine.execAttnRequestClear src s
  | .fwStage src address => Sys2Proof.Machine.execFwStage src address s
  | .fwUpload src value => Sys2Proof.Machine.execFwUpload src value s
  | .fwStageUpload src value => Sys2Proof.Machine.execFwStageUpload src value s
  | .svnCommit src kind value => Sys2Proof.Machine.execSvnCommit src kind value s
  | .attestNonce src nonce => Sys2Proof.Machine.execAttestNonce src nonce s
  | .restartWarm src => Sys2Proof.Machine.execRestartWarm src s
  | .restartDestroy src => Sys2Proof.Machine.execRestartDestroy src s
  | .restartBaseCamp src => Sys2Proof.Machine.execRestartBaseCamp src s
  | .ringDb fn ring tail entries => Sys2Proof.Machine.execRingDb fn ring tail entries s
  | .start fn ring => Sys2Proof.Machine.execStart fn ring s
  | .hcopy fn ring data ecc => Sys2Proof.Machine.execHcopy fn ring data ecc s
  | .hcopyDone fn ring copy => Sys2Proof.Machine.execHcopyDone fn ring copy s
  | .hsig fn ring => Sys2Proof.Machine.execHsig fn ring s
  | .ringNop fn ring => Sys2Proof.Machine.execRingNop fn ring s
  | .tallyDb fn tally n => Sys2Proof.Machine.execTallyDb fn tally n s
  | .bar2Read fn offset len ecc => Sys2Proof.Machine.execBar2Read fn offset len ecc s
  | .bar2Write fn offset data => Sys2Proof.Machine.execBar2Write fn offset data s
  | .doeDiscovery fn index => Sys2Proof.Machine.execDoeDiscovery fn index s
  | .doeAttest fn request => Sys2Proof.Machine.execDoeAttest fn request s
  | .jobStart => Sys2Proof.Machine.execJobStart s
  | .modelHandout job => Sys2Proof.Machine.execModelHandout job s
  | .modelDone job member => Sys2Proof.Machine.execModelDone job member s
  | .serviceHeartbeat => Sys2Proof.Machine.execServiceHeartbeat s
  | .serviceComplexStop die restarts => Sys2Proof.Machine.execServiceComplexStop die restarts s
  | .mainGood => Sys2Proof.Machine.execMainGood s
  | .mainFail overvoltage => Sys2Proof.Machine.execMainFail overvoltage s
  | .mainExcursion => Sys2Proof.Machine.execMainExcursion s
  | .backupGood => Sys2Proof.Machine.execBackupGood s
  | .backupFail => Sys2Proof.Machine.execBackupFail s
  | .powerUpSlot => Sys2Proof.Machine.execPowerUpSlot s
  | .railFault rail => Sys2Proof.Machine.execRailFault rail s
  | .rideThroughStep => Sys2Proof.Machine.execRideThroughStep s
  | .holdLimit => Sys2Proof.Machine.execHoldLimit s
  | .bringupPhaseComplete report => Sys2Proof.Machine.execBringupPhaseComplete report s
  | .powerControlTick averageW => Sys2Proof.Machine.execPowerControlTick averageW s
  | .thermalSample temps => Sys2Proof.Machine.execThermalSample temps s
  | .islandFreqStep t up => Sys2Proof.Machine.execIslandFreqStep t up s
  | .supplyDroop t => Sys2Proof.Machine.execSupplyDroop t s
  | .droopRecover t => Sys2Proof.Machine.execDroopRecover t s
  | .buttonShortPress => Sys2Proof.Machine.execButtonShortPress s
  | .buttonMiddlePress => Sys2Proof.Machine.execButtonMiddlePress s
  | .buttonHold2s => Sys2Proof.Machine.execButtonHold2s s
  | .buttonLongPress => Sys2Proof.Machine.execButtonLongPress s
  | .cablePlug port => Sys2Proof.Machine.execCablePlug port s
  | .cableUnplug port => Sys2Proof.Machine.execCableUnplug port s
  | .workListReservation k => Sys2Proof.Machine.execWorkListReservation k s
  | .rwgetRegistration k => Sys2Proof.Machine.execRwgetRegistration k s
  | .bar0RegisterWrite fn offset value => Sys2Proof.Machine.execBar0RegisterWrite fn offset value s
  | .equalisationOutOfLimits port lane => Sys2Proof.Machine.execEqualisationOutOfLimits port lane s
  | .dumpUnitAnswer data => Sys2Proof.Machine.execDumpUnitAnswer data s
  | .retryRecordExpiry src => Sys2Proof.Machine.execRetryRecordExpiry src s

end Sys2Proof.Machine
end

