-- ==== Sys2Proof/Machine/Parts.lean ====
section
/-!
DEFINITION. The parts of the state that statements about what a command leaves alone speak of.
-/
namespace Sys2Proof.Machine

/-- A choice of parts of the state. `device` is the channels in service, the divisions of the memory, the scrub's settings, the
broadcast digest and the device number. The queue is no part (exec never changes it), nor are the model's own counters. -/
structure Parts where
  tiles : Bool := false
  ctxs : Bool := false
  teams : Bool := false
  teamCmds : Bool := false
  chans : Bool := false
  mem : Bool := false
  bad : Bool := false
  net : Bool := false
  gtallies : Bool := false
  huddles : Bool := false
  reds : Bool := false
  pools : Bool := false
  snaps : Bool := false
  trouble : Bool := false
  device : Bool := false
  ports : Bool := false
  fabric : Bool := false
  sent : Bool := false
  camp : Bool := false
  fns : Bool := false
  service : Bool := false
  power : Bool := false
  trust : Bool := false
  panel : Bool := false
deriving DecidableEq, Repr

/-- What `device` stands for. -/
def State.deviceSettings (s : State) : List Nat × List Nat × Nat × Nat × Nat × Table Nat × Option (BitVec 512) × Nat :=
  (s.nearLive, s.farLive, s.scratchMib, s.exactMib, s.scrubPeriod, s.scrubAt, s.broadcast, s.deviceNumber)

/-- The parts of the state that are as they were. -/
structure Same (pt : Parts) (s t : State) : Prop where
  tiles : pt.tiles = true → t.tiles = s.tiles
  ctxs : pt.ctxs = true → t.ctxs = s.ctxs
  teams : pt.teams = true → t.teams = s.teams
  teamCmds : pt.teamCmds = true → t.teamCmds = s.teamCmds
  chans : pt.chans = true → t.chans = s.chans
  mem : pt.mem = true → t.mem = s.mem
  bad : pt.bad = true → t.bad = s.bad
  net : pt.net = true → t.net = s.net
  gtallies : pt.gtallies = true → t.gtallies = s.gtallies
  huddles : pt.huddles = true → t.huddles = s.huddles
  reds : pt.reds = true → t.reds = s.reds
  pools : pt.pools = true → t.pools = s.pools
  snaps : pt.snaps = true → t.snaps = s.snaps
  trouble : pt.trouble = true → t.trouble = s.trouble
  ports : pt.ports = true → t.ports = s.ports
  fabric : pt.fabric = true → t.fabric = s.fabric
  sent : pt.sent = true → t.sent = s.sent
  camp : pt.camp = true → t.camp = s.camp
  fns : pt.fns = true → t.fns = s.fns
  service : pt.service = true → t.service = s.service
  power : pt.power = true → t.power = s.power
  trust : pt.trust = true → t.trust = s.trust
  panel : pt.panel = true → t.panel = s.panel
  device : pt.device = true → t.deviceSettings = s.deviceSettings

end Sys2Proof.Machine
end

