-- ==== Sys2Proof/Machine/Frames.lean ====
section
/-!
DEFINITION. Which parts of the state each command may change, for the statements about what a command leaves as it was.
-/
namespace Sys2Proof

/-- Every part. -/
def Machine.Parts.all : Machine.Parts :=
  { tiles := true, ctxs := true, teams := true, teamCmds := true, chans := true, mem := true, bad := true, net := true,
    gtallies := true, huddles := true, reds := true, pools := true, snaps := true, trouble := true, device := true,
    ports := true, fabric := true, sent := true, camp := true, fns := true, service := true, power := true, trust := true,
    panel := true }

/-- The parts not chosen. -/
def Machine.Parts.others (p : Machine.Parts) : Machine.Parts :=
  { tiles := !p.tiles, ctxs := !p.ctxs, teams := !p.teams, teamCmds := !p.teamCmds, chans := !p.chans, mem := !p.mem,
    bad := !p.bad, net := !p.net, gtallies := !p.gtallies, huddles := !p.huddles, reds := !p.reds, pools := !p.pools,
    snaps := !p.snaps, trouble := !p.trouble, device := !p.device, ports := !p.ports, fabric := !p.fabric, sent := !p.sent,
    camp := !p.camp, fns := !p.fns, service := !p.service, power := !p.power, trust := !p.trust, panel := !p.panel }

/-- The parts of the state a command may change: those of the units it acts on, and those its refusals, faults and records reach
(an error of a context stops the context's tiles, whose lockstep ports then send a stop frame). All others it leaves as they
were. -/
def Instr.mayChange : Instr → Machine.Parts
  | .notifyAck _ | .retryRecordExpiry _ => { camp := true }
  | .ringDb _ _ _ _ | .bar0RegisterWrite _ _ _ => { fns := true }
  | .buttonMiddlePress | .buttonHold2s => { panel := true }
  | .initResend _ | .mgmt _ _ => { ports := true }
  | .mainExcursion | .powerUpSlot | .powerControlTick _ | .islandFreqStep _ _ | .supplyDroop _ | .droopRecover _ =>
    { power := true }
  | .notifyResend _ | .neighbourSolicitation _ | .getEndpointId _ _ | .getMctpVersionSupport _ _ _ |
    .getMessageTypeSupport _ _ | .doeDiscovery _ _ | .doeAttest _ _ =>
    { sent := true }
  | .serviceHeartbeat => { service := true }
  | .rvFence _ _ | .cstW _ _ | .cdrainResume _ _ | .sumrdResume _ _ | .park _ _ | .pcmp _ _ | .plog _ _ | .pset _ _ | .pmv _ _
    | .prd _ _ | .pwr _ _ | .dribbleStepDown _ _ | .dribbleRampStep _ _ | .laneReservationGrant _ | .debugResume _ _ =>
    { tiles := true }
  | .seamTransferError _ _ | .seamRepeatAlarm _ _ | .logHopDrop _ _ => { trouble := true }
  | .flitTransmit _ => { ports := true, sent := true }
  | .backupGood => { power := true, trust := true }
  | .setEndpointId _ _ _ => { sent := true, camp := true }
  | .ringNop _ _ => { sent := true, fns := true }
  | .lockstepWindowRecord _ => { tiles := true, ports := true }
  | .whistleWarning _ _ => { tiles := true, trouble := true }
  | .trace _ _ => { trouble := true, ports := true }
  | .epochAckTimeout _ => { ctxs := true, trouble := true, fabric := true }
  | .huddleArrivalAtHome _ | .huddleNextRoundClose _ => { net := true, huddles := true, trouble := true }
  | .start _ _ => { net := true, sent := true, fns := true }
  | .read _ _ _ _ | .discover _ => { sent := true, camp := true, fns := true }
  | .teamMemberCompletion _ => { teamCmds := true, net := true, trouble := true }
  | .threadStart _ | .teamDelivery _ | .itemRequest _ | .poolGrantArrive _ | .routeCloseArrive _ | .tsetAnswerArrive _ |
    .tallyReleaseArrive _ | .huddleCloseArrive _ | .workListReservation _ | .rwgetRegistration _ =>
    { tiles := true, net := true, trouble := true }
  | .ebreak _ _ | .ecall _ _ | .cpush _ _ | .cpushnb _ _ | .pushRoomResume _ _ | .qfree _ _ | .cdrain _ _ | .sumrd _ _ |
    .imswap _ _ | .localDeadlock _ | .debugHalt _ _ | .lockstepDigestList _ | .lockstepStop _ =>
    { tiles := true, trouble := true, ports := true }
  | .cld _ _ | .whistleFire _ _ => { tiles := true, ctxs := true, trouble := true, ports := true }
  | .tallySetAtHome _ => { tiles := true, net := true, gtallies := true, trouble := true }
  | .poolRequestAtHome _ => { tiles := true, net := true, pools := true, trouble := true }
  | .ctwait _ _ => { tiles := true, net := true, trouble := true, ports := true }
  | .portTrainStart _ | .trainingStepComplete _ _ | .trainingStepTimeout _ | .init _ _ | .initAck _ _ | .retrainRequest _ _ |
    .downNotice _ _ | .messageFlit _ _ _ | .nullFlit _ _ _ | .replayRequest _ _ _ | .fecLockLoss _ | .epoch _ _ | .cablePlug _
    | .cableUnplug _ | .equalisationOutOfLimits _ _ =>
    { tiles := true, trouble := true, ports := true, fabric := true }
  | .fwUpload _ _ | .fwStageUpload _ _ | .svnCommit _ _ _ | .attestNonce _ _ =>
    { sent := true, camp := true, fns := true, power := true, trust := true }
  | .tallySignalAtHome _ | .tallyRegistrationAtHome _ | .remoteSignalAtTile _ =>
    { tiles := true, ctxs := true, net := true, gtallies := true, trouble := true }
  | .tileHardwareFault _ _ => { tiles := true, ctxs := true, teams := true, trouble := true, ports := true }
  | .seamFailed _ _ | .dieCheckerFire _ => { tiles := true, ctxs := true, trouble := true, ports := true, fabric := true }
  | .rwgetStart _ => { tiles := true, net := true, trouble := true, ports := true, fabric := true }
  | .teamDispatch _ _ => { tiles := true, teamCmds := true, net := true, trouble := true, ports := true }
  | .chanCreate _ _ | .chanDestroy _ _ =>
    { chans := true, sent := true, camp := true, fns := true, power := true, trust := true }
  | .ctxReset _ _ | .ctxDestroy _ _ => { ctxs := true, sent := true, camp := true, fns := true, power := true, trust := true }
  | .epochClear _ _ => { fabric := true, sent := true, camp := true, fns := true, power := true, trust := true }
  | .patrolScrub _ _ _ _ => { tiles := true, ctxs := true, bad := true, trouble := true, device := true, ports := true }
  | .rd _ _ _ => { tiles := true, ctxs := true, bad := true, trouble := true, ports := true, fabric := true }
  | .quiesceTimeout _ _ => { tiles := true, ctxs := true, teams := true, trouble := true, ports := true, fabric := true }
  | .debugImemWrite _ _ | .faultRecordClear _ _ _ =>
    { tiles := true, sent := true, camp := true, fns := true, power := true, trust := true }
  | .dumpRequest _ _ => { trouble := true, sent := true, camp := true, fns := true, power := true, trust := true }
  | .hcopy _ _ _ _ | .bar2Read _ _ _ _ =>
    { tiles := true, ctxs := true, bad := true, trouble := true, ports := true, sent := true, fns := true }
  | .rvInstruction _ _ | .dump | .dumpUnitTimeout | .dumpUnitAnswer _ =>
    { tiles := true, ctxs := true, mem := true, bad := true, snaps := true, trouble := true, ports := true }
  | .sig _ _ => { tiles := true, ctxs := true, net := true, gtallies := true, trouble := true, ports := true, fabric := true }
  | .hsig _ _ => { tiles := true, ctxs := true, net := true, gtallies := true, trouble := true, sent := true, fns := true }
  | .mma _ _ | .mdrain _ _ | .mdcfg _ _ | .wlopen _ _ | .wlrun _ _ | .wlclose _ _ | .vld _ _ | .vst _ _ | .epload _ _ |
    .eprog _ _ | .epstrm _ _ | .vred _ _ | .vsum _ _ | .vseed _ _ | .optcfg _ _ | .optstep _ _ | .amaxstep _ _ | .snap _ _ |
    .mvcomp _ _ | .remask _ _ | .stash _ _ | .predld _ _ | .maskdrop _ _ | .poolget _ _ | .poolput _ _ | .rtcfg _ _ |
    .rqopen _ _ | .route _ _ | .rbound _ _ | .rcomb _ _ | .rback _ _ | .rgrad _ _ | .rxopen _ _ | .rxwait _ _ | .rsend _ _ |
    .twait _ _ _ | .tclaim _ _ _ | .tsig _ _ _ | .fence _ _ _ | .tset _ _ | .huddle _ _ =>
    { tiles := true, ctxs := true, teams := true, net := true, snaps := true, trouble := true, ports := true }
  | .teamCreate _ _ | .teamDestroy _ _ =>
    { tiles := true, teams := true, sent := true, camp := true, fns := true, power := true, trust := true }
  | .troubleClearEcc _ | .troubleClearTileCounts _ | .troubleClearStaleDrops _ | .troubleClearSeamAlarms _ |
    .troubleClearAlarmLog _ | .troubleClearDumpFlag _ =>
    { tiles := true, trouble := true, sent := true, camp := true, fns := true, power := true, trust := true }
  | .tileStoreRemoteAccess _ _ | .routeRowArrive _ | .returnRowArrive _ =>
    { tiles := true, ctxs := true, mem := true, bad := true, net := true, snaps := true, trouble := true, ports := true }
  | .wr _ _ | .atom _ _ _ | .atomn _ _ _ =>
    { tiles := true, ctxs := true, mem := true, bad := true, snaps := true, trouble := true, ports := true, fabric := true }
  | .poolcfg _ _ =>
    { tiles := true, ctxs := true, teams := true, net := true, pools := true, snaps := true, trouble := true, ports := true }
  | .aadd _ _ | .amin _ _ | .amax _ _ | .aswap _ _ | .acas _ _ | .aaddn _ _ | .aminn _ _ | .amaxn _ _ | .rdadd _ _ |
    .rwget _ _ =>
    { tiles := true, ctxs := true, teams := true, net := true, snaps := true, trouble := true, ports := true, fabric := true }
  | .huddleCreate _ _ | .huddleDestroy _ _ =>
    { tiles := true, net := true, huddles := true, sent := true, camp := true, fns := true, power := true, trust := true }
  | .contributionAtHome _ _ | .reductionDone _ =>
    { tiles := true, ctxs := true, mem := true, bad := true, net := true, reds := true, snaps := true, trouble := true,
      ports := true }
  | .itemArrive _ | .itemComplete _ _ | .homeRequest _ _ | .atomicAtHome _ _ | .replyArrive _ | .refusalArrive _ | .rdr _ _ |
    .ack _ _ | .atr _ _ | .nak _ _ | .e2eTimeout _ =>
    { tiles := true, ctxs := true, mem := true, bad := true, net := true, snaps := true, trouble := true, ports := true,
      fabric := true }
  | .rdc _ _ _ =>
    { tiles := true, ctxs := true, mem := true, bad := true, reds := true, snaps := true, trouble := true, ports := true,
      fabric := true }
  | .buttonShortPress =>
    { tiles := true, ctxs := true, mem := true, bad := true, snaps := true, trouble := true, ports := true, camp := true,
      panel := true }
  | .move _ _ _ =>
    { tiles := true, ctxs := true, teams := true, bad := true, net := true, snaps := true, trouble := true, ports := true,
      fabric := true }
  | .contextReset _ =>
    { tiles := true, ctxs := true, teams := true, chans := true, mem := true, bad := true, trouble := true, ports := true,
      fabric := true }
  | .fwStage _ _ =>
    { tiles := true, ctxs := true, trouble := true, ports := true, sent := true, camp := true, fns := true, power := true,
      trust := true }
  | .portRetrain _ _ =>
    { tiles := true, trouble := true, ports := true, fabric := true, sent := true, camp := true, fns := true, power := true,
      trust := true }
  | .tallyDb _ _ _ | .bar2Write _ _ _ =>
    { tiles := true, ctxs := true, mem := true, bad := true, net := true, gtallies := true, snaps := true, trouble := true,
      ports := true, fns := true }
  | .snapShip _ =>
    { tiles := true, ctxs := true, mem := true, bad := true, net := true, snaps := true, trouble := true, ports := true,
      fabric := true, sent := true }
  | .rdopen _ _ =>
    { tiles := true, ctxs := true, teams := true, mem := true, bad := true, net := true, reds := true, snaps := true,
      trouble := true, ports := true }
  | .skipEntry _ _ _ | .nop _ _ _ | .commandComplete _ _ _ | .wlput _ _ | .rqclose _ _ | .rxexpand _ _ =>
    { tiles := true, ctxs := true, teams := true, mem := true, bad := true, net := true, snaps := true, trouble := true,
      ports := true, fabric := true }
  | .jobSubmit _ _ =>
    { tiles := true, ctxs := true, trouble := true, ports := true, sent := true, camp := true, fns := true, service := true,
      power := true, trust := true }
  | .hcopyDone _ _ _ =>
    { tiles := true, ctxs := true, mem := true, bad := true, net := true, gtallies := true, snaps := true, trouble := true,
      ports := true, sent := true, fns := true }
  | .modelHandout _ | .modelDone _ _ | .serviceComplexStop _ _ =>
    { tiles := true, ctxs := true, chans := true, mem := true, bad := true, net := true, gtallies := true, snaps := true,
      trouble := true, ports := true, camp := true, service := true }
  | .ctxCreate _ _ | .attnRequestSet _ | .attnRequestClear _ =>
    { tiles := true, ctxs := true, mem := true, bad := true, snaps := true, trouble := true, ports := true, sent := true,
      camp := true, fns := true, power := true, trust := true, panel := true }
  | .jobStart =>
    { tiles := true, ctxs := true, chans := true, mem := true, bad := true, net := true, gtallies := true, snaps := true,
      trouble := true, ports := true, fabric := true, sent := true, camp := true, service := true }
  | .jobCancel _ _ =>
    { tiles := true, ctxs := true, chans := true, mem := true, bad := true, net := true, gtallies := true, snaps := true,
      trouble := true, ports := true, sent := true, camp := true, fns := true, service := true, power := true, trust := true }
  | .railFault _ | .holdLimit =>
    { tiles := true, ctxs := true, teams := true, teamCmds := true, chans := true, mem := true, bad := true, net := true,
      gtallies := true, huddles := true, reds := true, pools := true, snaps := true, trouble := true, device := true,
      ports := true, fabric := true, fns := true, service := true, power := true }
  | .rideThroughStep =>
    { tiles := true, ctxs := true, teams := true, teamCmds := true, chans := true, mem := true, bad := true, net := true,
      gtallies := true, huddles := true, reds := true, pools := true, snaps := true, trouble := true, device := true,
      ports := true, fabric := true, camp := true, fns := true, service := true, power := true }
  | .buttonLongPress =>
    { tiles := true, ctxs := true, teams := true, teamCmds := true, chans := true, net := true, gtallies := true,
      huddles := true, reds := true, pools := true, snaps := true, trouble := true, device := true, ports := true,
      fabric := true, camp := true, fns := true, service := true, power := true, trust := true, panel := true }
  | .restartWarm _ | .restartDestroy _ | .restartBaseCamp _ =>
    { tiles := true, ctxs := true, teams := true, teamCmds := true, chans := true, net := true, gtallies := true,
      huddles := true, reds := true, pools := true, snaps := true, trouble := true, device := true, ports := true,
      fabric := true, sent := true, camp := true, fns := true, service := true, power := true, trust := true }
  | .quiesceComplete _ | .mainGood | .bringupPhaseComplete _ =>
    { tiles := true, ctxs := true, teams := true, teamCmds := true, chans := true, mem := true, bad := true, net := true,
      gtallies := true, huddles := true, reds := true, pools := true, snaps := true, trouble := true, device := true,
      ports := true, fabric := true, camp := true, fns := true, service := true, power := true, trust := true }
  | .thermalSample _ =>
    { tiles := true, ctxs := true, teams := true, teamCmds := true, chans := true, mem := true, bad := true, net := true,
      gtallies := true, huddles := true, reds := true, pools := true, snaps := true, trouble := true, device := true,
      ports := true, fabric := true, sent := true, camp := true, fns := true, service := true, power := true }
  | .write _ _ _ _ | .mctpVendorMessage _ _ _ | .winGo _ _ | .mainFail _ | .backupFail => Machine.Parts.all

end Sys2Proof
end

