-- ==== Sys2Proof/Safety.lean ====
section
/-!
DEFINITION. What counts as a safe run, and the conditions under which a command has its own effect, in the terms the statements
use: a command of an engine issues, a packet is taken, an instruction retires, a request is answered.
-/
namespace Sys2Proof.Machine

/-- A command answers a next state. -/
def Answers (i : Instr) (s : State) : Prop := ∃ t, exec i s = .next t

/-- Device memory in canonical form: addresses rise, and no listed byte is 0 (Tables.lean). -/
def State.MemOk (s : State) : Prop := Memory.wf s.mem = true

/-- Every waiting command names places that there are. -/
def State.QueueOk (s : State) : Prop := ∀ c ∈ s.pending, c.wellFormed = true

/-- A state from which a step is safe: the memory is canonical, what waits is well-formed, the power state is one of the six. -/
structure State.Safe (s : State) : Prop where
  mem : s.MemOk
  queue : s.QueueOk
  mode : s.power.state ≤ 5

/-! ## When a command has its own effect -/

/-- The thread of a stream may retire, and the instruction at its pc is `op`, of `len` bytes. -/
structure Runs (s : State) (n : Nat) (st : Stream) (op : RvOp) (len : Nat) : Prop where
  tile : n < 2048
  runs : s.threadRuns n st = true
  at' : s.current n st = some (op, len)

/-- The thread of a stream waits at `what`, at the instruction `op` of `len` bytes. -/
structure WaitsAt (s : State) (n : Nat) (st : Stream) (what : WaitAt) (op : RvOp) (len : Nat) : Prop where
  tile : n < 2048
  waits : s.waiting n st what = some (op, len)

/-- What retiring an instruction of the control core leaves: the thread is `th` with the program counter at `pc`, no longer fresh,
the turn has passed to the next thread, and nothing else of the machine has changed but what the hang monitor counts of it. -/
structure Retired (s t : State) (n : Nat) (st : Stream) (th : Thread) (pc : Word) : Prop where
  thread : t.thread n st = { th with pc := pc, fresh := false }
  threads : ∀ u, u ≠ st → t.thread n u = s.thread n u
  turn : (t.tile n).turn = streamAfter st
  tile : t.tile n = { s.tile n with
    threads := (t.tile n).threads
    turn := (t.tile n).turn
    warned := (t.tile n).warned
    whistles := (t.tile n).whistles }
  tiles : ∀ m, m ≠ n → t.tile m = s.tile m
  rest : Same ({ tiles := true } : Parts).others s t

/-- The program counter behind the instruction at it. -/
def State.pcAfter (s : State) (n : Nat) (st : Stream) (len : Nat) : Word := (s.thread n st).pc + BitVec.ofNat 32 len

/-- What a halt of a running thread leaves where no fault record is held: the thread is in HALT, and its record is valid and
names the reason, the stream, the unit, the tile and its context; the other threads and tiles are as they were, and so are the tile's
queues, tallies, memories and engines. -/
structure Halted (s t : State) (n : Nat) (st : Stream) (reason unit : Nat) : Prop where
  run : (t.thread n st).run = .halt
  valid : recordValid ((t.tile n).records.get st) = true
  reason : recordReason ((t.tile n).records.get st) = reason
  fields : let r := ((t.tile n).records.get st).toNat
    bits r 246 245 = streamNo st ∧ bits r 244 242 = unit ∧ bits r 241 234 = s.owner n ∧ bits r 217 207 = n
  threads : ∀ u, u ≠ st → t.thread n u = s.thread n u
  own : t.tile n = { s.tile n with
    threads := (t.tile n).threads
    records := (t.tile n).records
    switching := (t.tile n).switching }
  tiles : ∀ m, m ≠ n → t.tile m = s.tile m
  rest : Same ({ tiles := true, trouble := true, ports := true } : Parts).others s t

/-- The state as a command of a tile's queue sees it: one of context 0 on a tile of another context sees the tile in no context's
rectangles (01 R32; the model's reading of it, log 126). -/
def State.named (s : State) (n : Nat) (x : Entry) : State := if x.ctx = s.owner n then s else s.lent n

/-- The head of a stream's queue is the command `c`, of opcode `op`, with nothing in the way of its issue in its context's name: what
it is judged by is settled, no earlier command writes what it reads, nothing refuses it, what it had to ask for has been answered,
the engine's turn is the stream's, no block it reads and no page it makes a snapshot copy of is uncorrectable, and it changes no
protected bit. -/
structure Issues (s : State) (n : Nat) (e : Engine) (op : Nat) (c : Cmd) (st : Stream) (x : Entry) (ahead : List Entry) : Prop where
  tile : n < 2048
  runs : s.streamRuns n st = true
  head : s.head n e st = some (x, ahead)
  own : x.skip = false ∧ x.op = op
  settled : c.settled (s.named n x) n st x = true
  ordered : hazard ahead (c.reads (s.named n x) n st x) = false
  allowed : (s.named n x).refusalAt n st x c = none
  asked : c.ask.isNone = true ∨ x.asked = true
  turn : (s.named n x).chosen n e = some st
  clean : (s.named n x).issueErr n st (c.reads (s.named n x) n st x) (c.writes (s.named n x) n st x) = none
  unprotected : let u := s.named n x
    let y := u.dated n x
    let u1 := c.run (u.preserveFor (writerOf u n st) (c.writes u n st y)) n st y
    u1.protectedBad n e st y = false ∧ u.protectedSame u1 = true

/-- The state after the issue of a command, in its context's name: pages of snapshots kept, the command's own part, the entry marked
as issued; an item queue's command lets the queue ask for the item after it. -/
def State.afterIssue (s : State) (n : Nat) (e : Engine) (c : Cmd) (st : Stream) (x : Entry) : State := s.inName n x fun u =>
  let y := u.dated n x
  let u1 := c.run (u.preserveFor (writerOf u n st) (c.writes u n st y)) n st y
  let u2 := u1.issued n e st y (u.readyStreams n e)
  if u.isItemCmd n st y then u2.askItem n st else u2

/-- Where the next command record of a lock-step sequence of a tile lies in its buffer (12 R387). -/
def State.lockRecordAt (s : State) (n q : Nat) : Nat :=
  let set := (s.ctx (s.owner n)).lockstep
  let l := s.lockSeq (s.owner n) n q
  tileBase n + lockBuf set + 32 * lockW set * q + 16 * lockW set * (l.window % 2) + 16 * l.digests.length

/-- The packet at place k of those in flight is taken: nothing must arrive before it, the module serves, the packet is of its
context's epoch and its channel's generation, and its destination is no quarantined tile. -/
structure Takes (s : State) (k : Nat) (p : Packet) : Prop where
  there : s.arrival k = some p
  serves : s.serving = true
  fresh : (s.consume k).stale p = false
  whole : ∀ n, p.dst = .tile n → (s.tile n).faulty = false

/-- A message of opcode `op` is at the head of a receive buffer of a port, the module serves, no alarm of the port's die waits for a
place, and no seam on its way repeats a transfer. -/
structure Hears (s : State) (p dl op vc : Nat) (m : Msg) : Prop where
  port : p < portCount
  dateline : dl < 2
  channel : opChannel op = some vc
  head : (s.port p).headOf (2 * vc + dl) = some m
  own : mOp m = op
  serves : s.serving = true
  room : s.alarmWaits (0x810 + portDie p) = false
  way : s.messageHeld p m = false

/-- A write request reaches base camp by a frame: its path is up and may carry it, it repeats no request answered before, was not a
ninth in flight, and base camp is not in its ROM. -/
structure Asks (s : State) (src : Requester) (i sub : Nat) (bs : List Byte) : Prop where
  path : s.reaches src = true
  framed : s.framed src { typ := 2, seq := 0, index := i, sub := sub, value := bs } = true
  may : mayAsk src i sub = true
  once : s.stored src = none
  room : s.turnedAway src = false
  mode : s.power.rom = false

/-- The state after a write request that was answered with `a`: the change log extended, `after` where it succeeded, the reply
sent and remembered. -/
def State.afterRequest (s : State) (src : Requester) (i sub : Nat) (bs old : List Byte) (a : Answer) (after : State → State) : State :=
  let s1 := a.st.logWrite src i sub a.abort old bs
  let s2 := if a.abort = 0 then after s1 else s1
  s2.replyTo src (frame 0x82 (srcSeq s src) i sub a.abort 0 a.result [])

end Sys2Proof.Machine
end

