-- ==== Sys2Proof/Certificates/Slice0/Obligations.lean ====
section
/-!
DEFINITION. The statements of this model, for the provers.
-/
open Sys2Proof Sys2Proof.Machine

/-! ## The machine -/

/-- The command at the front of the queue is executed on the queue's rest (02 R62 has the queues of the tiles; the queue of this
statement is the one in which commands wait to be taken, first in, first out). -/
def Obligations.StepRunsTheFrontCommand : Prop :=
  ∀ (c : Instr) (rest : List Instr) (s : State), step { s with pending := c :: rest } = exec c { s with pending := rest }

/-- THE MODEL'S CHOICE (log 2): on an empty queue 1 µs passes. Where no tile has state, nothing is in transit or held back, no function
waits, no seam repeats a transfer, no long press is shown and no job waits to end, time leaves the state as it is. At a tick a whistle
that is not owed progress holds 0; one that is counts one more, but keeps its count while what it waits for is held, and starts
again at 0 where back-pressure shows that what it waits for moved on. -/
def Obligations.EmptyQueueLetsTimePass : Prop :=
  ∀ s : State, s.pending = [] → step s = .next s.idle ∧
    (s.tiles = [] → s.trouble.transit = [] → s.trouble.held = [] → s.fns = [] → s.trouble.repeats = [] → s.panel.held ≠ 2 →
      s.service.jobs = [] → step s = .next s) ∧
    (∀ n u, u < 24 → let t := s.tickTile n
      (s.owed n u = false → (t.whistle n u).count = 0) ∧
      (s.owed n u = true → tfind u (s.tile n).whistles = none → (t.whistle n u).count = 0) ∧
      (∀ w, s.owed n u = true → tfind u (s.tile n).whistles = some w → let b := (s.blockOf n u).cause
        let moved := backPressure b && w.on = b.key && w.seen.any fun x => !(s.takenOf n u b).contains x
        (t.whistle n u).count = if s.heldCount b then w.count else if moved then 0 else w.count + 1))

/-- What reset leaves, where the spec gives the value: the scalar registers, predicates, staging and channel of every thread are 0
(02 R50, R53), every thread is parked, every tally is 0 with no remote (08 R258), no context exists, no port is up, nothing is in
flight or waits, and memory is in its canonical form. THE MODEL'S CHOICE (log 3): reset is the state of a module with neither
supply. -/
def Obligations.ResetHoldsTheResetValues : Prop :=
  (∀ n st, let t := State.reset.thread n st
    (∀ i, t.reg i = 0#32) ∧ t.preds = 0 ∧ t.staging = 0 ∧ t.channel = 0 ∧ t.bank = 0 ∧ t.run = .park ∧ t.sums = []) ∧
  (∀ n, (State.reset.tile n).targetBank = 0) ∧
  (∀ n e st, (State.reset.queue n e st).entries = []) ∧
  (∀ g, (State.reset.gtally g).value = 0) ∧
  (∀ n g, (State.reset.tally n g).value = 0 ∧ (State.reset.tally n g).remote = false) ∧
  (∀ c, (State.reset.ctx c).state = 0) ∧
  (∀ p, State.reset.portUp p = false) ∧
  State.reset.pending = [] ∧ State.reset.net = [] ∧ State.reset.sent = [] ∧ State.reset.power.state = 0 ∧
  State.reset.Safe

/-- Every command whose operands name what the module has answers a next state, in every state: no ordinary data ends a run. -/
def Obligations.EveryWellFormedCommandAnswers : Prop :=
  ∀ (i : Instr) (s : State), i.wellFormed = true → ∃ t, exec i s = .next t

/-- A tile, port, function, ring, die, seam, context, team, reduction or huddle that the module does not have faults, whatever the
state; one row for each kind of place. The rules bound the places; that a command naming another ends in the fault noSuchPlace is
THE MODEL'S CHOICE (log 119). -/
def Obligations.PlacesTheModuleLacksFault : Prop :=
  ∀ s : State,
    (∀ t st, 2048 ≤ t → exec (.rvInstruction t st) s = .fault .noSuchPlace ∧ exec (.mma t st) s = .fault .noSuchPlace ∧
      (∀ e, exec (.fence t e st) s = .fault .noSuchPlace)) ∧
    (∀ p, 12 ≤ p → exec (.flitTransmit p) s = .fault .noSuchPlace ∧ (∀ dl, exec (.wr p dl) s = .fault .noSuchPlace)) ∧
    (∀ f, 64 ≤ f → (∀ o d, exec (.bar2Write f o d) s = .fault .noSuchPlace) ∧ (∀ r, exec (.hsig f r) s = .fault .noSuchPlace)) ∧
    (∀ f r, 16 ≤ r → exec (.start f r) s = .fault .noSuchPlace) ∧
    (∀ c, 256 ≤ c → exec (.contextReset c) s = .fault .noSuchPlace) ∧
    (∀ k, 4096 ≤ k → exec (.snapShip k) s = .fault .noSuchPlace ∧ exec (.reductionDone k) s = .fault .noSuchPlace) ∧
    (∀ h, 1024 ≤ h → exec (.huddleNextRoundClose h) s = .fault .noSuchPlace) ∧
    (∀ m d, 52 ≤ m → exec (.seamFailed m d) s = .fault .noSuchPlace) ∧
    (∀ d, d < 16 ∨ 28 ≤ d → exec (.dieCheckerFire d) s = .fault .noSuchPlace)

/-- From a safe state (memory canonical, waiting commands well-formed, the power state one of the six) every step answers a next state,
and that state is safe again. Device memory stays in its canonical form whatever else is true of the state. -/
def Obligations.SafeStatesStaySafe : Prop :=
  (∀ s : State, s.Safe → ∃ t, step s = .next t ∧ t.Safe) ∧
  (∀ s t : State, s.MemOk → step s = .next t → t.MemOk)

/-- Fuses never fall: over every step the fused minimum svn of every kind of firmware stays or rises (15 R495). -/
def Obligations.FusesNeverFall : Prop :=
  ∀ (s t : State) (k : Nat), step s = .next t → (s.kind k).fused ≤ (t.kind k).fused

/-- The frame of every command: a command that answers a next state leaves every part of the machine it is not listed to change as it
was (Instr.mayChange lists, for each of the 251 commands, the parts the spec lets it change: tiles, contexts, teams, memory, tallies,
ports, fabric, change log, power and so on), leaves the queue of waiting commands alone, and unsends nothing: what has left the module
stays sent, in its order. -/
def Obligations.EveryCommandLeavesTheRest : Prop :=
  ∀ (i : Instr) (s t : State), exec i s = .next t →
    Same i.mayChange.others s t ∧ t.pending = s.pending ∧ ∃ l, t.sent = l ++ s.sent

/-! ## The control core -/

/-- LUI, AUIPC, the arithmetic of RV32IM and their compressed forms complete wherever the thread may retire: rd holds the
result, the program counter stands behind the instruction, the turn passes, and nothing else changes. A result for x0 is
discarded. -/
def Obligations.ComputingInstructionsRetire : Prop :=
  ∀ (s : State) (n len rd : Nat) (st : Stream), let th := s.thread n st
    let gives (v : Word) : Prop :=
      ∃ t, exec (.rvInstruction n st) s = .next t ∧ Retired s t n st (th.setReg rd v) (s.pcAfter n st len) ∧
        ∀ j, rd < 32 → (t.thread n st).reg j = if j = rd ∧ rd ≠ 0 then v else th.reg j
    (∀ imm, Runs s n st (.lui rd imm) len → gives (BitVec.ofNat 32 imm)) ∧
    (∀ imm, Runs s n st (.auipc rd imm) len → gives (th.pc + BitVec.ofNat 32 imm)) ∧
    (∀ f3 sub rs1 imm, Runs s n st (.opImm f3 sub rd rs1 imm) len → gives (alu f3 sub (th.reg rs1) (BitVec.ofInt 32 imm))) ∧
    (∀ f3 sub rs1 rs2, Runs s n st (.op f3 sub rd rs1 rs2) len → gives (alu f3 sub (th.reg rs1) (th.reg rs2))) ∧
    (∀ f3 rs1 rs2, Runs s n st (.mul f3 rd rs1 rs2) len → gives (mulDiv f3 (th.reg rs1) (th.reg rs2)))

/-- JAL, JALR and the branches complete: the return address goes to rd, JALR's target is computed from the old register and has
bit 0 cleared, a branch goes to its target exactly where its comparison holds, and nothing else changes. -/
def Obligations.JumpsAndBranchesRetire : Prop :=
  ∀ (s : State) (n len : Nat) (st : Stream), let th := s.thread n st
    (∀ rd off, Runs s n st (.jal rd off) len → ∃ t, exec (.rvInstruction n st) s = .next t ∧
      Retired s t n st (th.setReg rd (s.pcAfter n st len)) (th.pc + BitVec.ofInt 32 off)) ∧
    (∀ rd rs1 imm, Runs s n st (.jalr rd rs1 imm) len → ∃ t, exec (.rvInstruction n st) s = .next t ∧
      Retired s t n st (th.setReg rd (s.pcAfter n st len)) ((th.reg rs1 + BitVec.ofInt 32 imm) &&& 0xFFFFFFFE#32)) ∧
    (∀ f3 rs1 rs2 off, Runs s n st (.branch f3 rs1 rs2 off) len → ∃ t, exec (.rvInstruction n st) s = .next t ∧
      Retired s t n st th (if branchTaken f3 (th.reg rs1) (th.reg rs2) then th.pc + BitVec.ofInt 32 off else s.pcAfter n st len)) ∧
    (∀ a b : Word, (branchTaken 0 a b ↔ a = b) ∧ (branchTaken 1 a b ↔ a ≠ b) ∧ (branchTaken 4 a b ↔ a.toInt < b.toInt) ∧
      (branchTaken 5 a b ↔ b.toInt ≤ a.toInt) ∧ (branchTaken 6 a b ↔ a.toNat < b.toNat) ∧ (branchTaken 7 a b ↔ b.toNat ≤ a.toNat))

/-- The results of the base operations by funct3 and of the multiply and divide operations, with the results that RV32M defines for
division by zero and for the one signed overflow. -/
def Obligations.ArithmeticIsRv32im : Prop :=
  ∀ a b : Word, let sh := b.toNat % 32
    alu 0 false a b = a + b ∧ alu 0 true a b = a - b ∧ (alu 1 false a b).toNat = a.toNat * 2 ^ sh % 2 ^ 32 ∧
    alu 2 false a b = (if a.toInt < b.toInt then 1 else 0) ∧ alu 3 false a b = (if a.toNat < b.toNat then 1 else 0) ∧
    alu 4 false a b = a ^^^ b ∧ (alu 5 false a b).toNat = a.toNat / 2 ^ sh ∧ (alu 5 true a b).toInt = a.toInt / 2 ^ sh ∧
    alu 6 false a b = a ||| b ∧ alu 7 false a b = a &&& b ∧
    (mulDiv 0 a b).toNat = a.toNat * b.toNat % 2 ^ 32 ∧
    (mulDiv 1 a b).toInt = a.toInt * b.toInt / 2 ^ 32 ∧
    (mulDiv 2 a b).toInt = a.toInt * (b.toNat : Int) / 2 ^ 32 ∧
    (mulDiv 3 a b).toNat = a.toNat * b.toNat / 2 ^ 32 ∧
    (mulDiv 4 a b).toInt = (if b.toInt = 0 then -1 else if a.toInt = -2147483648 ∧ b.toInt = -1 then a.toInt
      else a.toInt.tdiv b.toInt) ∧
    (mulDiv 5 a b).toNat = (if b.toNat = 0 then 4294967295 else a.toNat / b.toNat) ∧
    (mulDiv 6 a b).toInt = (if b.toInt = 0 then a.toInt else a.toInt.tmod b.toInt) ∧
    (mulDiv 7 a b).toNat = (if b.toNat = 0 then a.toNat else a.toNat % b.toNat)

/-- A load that passes R53's checks completes with the bytes at its address, lowest byte first, sign-extended for LB and LH: from
data memory, from no uncorrectable block; from the own tile store through the window, where no guarded region and no uncorrectable
block is touched; and, word by
word, from the thread registers, whose values the clauses name (the cycle count at 0x18 and 0x1C is free, log 4). -/
def Obligations.LoadsRetire : Prop :=
  ∀ (s : State) (n len f3 rd rs1 : Nat) (imm : Int) (st : Stream), Runs s n st (.load f3 rd rs1 imm) len →
    let th := s.thread n st
    let a := (th.reg rs1 + BitVec.ofInt 32 imm).toNat
    let w := accessWidth f3
    let gives (v : Word) : Prop :=
      ∃ t, exec (.rvInstruction n st) s = .next t ∧ Retired s t n st (th.setReg rd v) (s.pcAfter n st len)
    (a + w ≤ 0x20000 → a % w = 0 → (s.tile n).coreBlock 0 a w = none →
      gives (loadValue f3 (leNat (peeks (s.tile n).dmem a w)))) ∧
    (0x400000 ≤ a → a + w ≤ 0x800000 → a % w = 0 → s.guardBad (s.owner n) st false (tileBase n + (a - 0x400000)) w = none →
      s.badBlock (tileBase n + (a - 0x400000)) w = none →
      gives (loadValue f3 (leNat (s.loadBytes (tileBase n + (a - 0x400000)) w)))) ∧
    (w = 4 → (a = 0x800000 → gives (BitVec.ofNat 32 n)) ∧ (a = 0x800004 → gives (BitVec.ofNat 32 (streamNo st))) ∧
      (a = 0x800008 → gives (BitVec.ofNat 32 (s.owner n))) ∧ (a = 0x80000C → gives th.channel) ∧
      (a = 0x800010 → gives (BitVec.ofNat 32 th.bank)) ∧ (a = 0x800014 → gives (BitVec.ofNat 32 (s.tile n).targetBank)) ∧
      (a = 0x800018 ∨ a = 0x80001C → ∃ v, gives v) ∧ (a = 0x800020 → gives (BitVec.ofNat 32 th.sums.length)))

/-- A store that passes R53's checks completes: in data memory, in no uncorrectable block, exactly its bytes change, lowest byte first; a word stored at
0x0080_000C becomes cur_channel. No other memory changes. -/
def Obligations.StoresRetire : Prop :=
  ∀ (s : State) (n len f3 rs1 rs2 : Nat) (imm : Int) (st : Stream), Runs s n st (.store f3 rs1 rs2 imm) len →
    let th := s.thread n st
    let a := (th.reg rs1 + BitVec.ofInt 32 imm).toNat
    let w := accessWidth f3
    (a + w ≤ 0x20000 → a % w = 0 → (s.tile n).coreBlock 0 a w = none →
      ∃ t, exec (.rvInstruction n st) s = .next t ∧
        t.thread n st = { th with pc := s.pcAfter n st len, fresh := false } ∧ (∀ u, u ≠ st → t.thread n u = s.thread n u) ∧
        (∀ i, i < w → peek (a + i) (t.tile n).dmem = BitVec.ofNat 8 ((th.reg rs2).toNat / 256 ^ i)) ∧
        (∀ b, (b < a ∨ a + w ≤ b) → peek b (t.tile n).dmem = peek b (s.tile n).dmem) ∧
        t.tile n = { s.tile n with
          threads := (t.tile n).threads
          turn := streamAfter st
          warned := (t.tile n).warned
          whistles := (t.tile n).whistles
          dmem := (t.tile n).dmem } ∧
        (∀ m, m ≠ n → t.tile m = s.tile m) ∧ Same ({ tiles := true } : Parts).others s t) ∧
    (w = 4 → a = 0x80000C →
      ∃ t, exec (.rvInstruction n st) s = .next t ∧
        Retired s t n st { th with channel := th.reg rs2 } (s.pcAfter n st len))

/-- A store through the tile store window completes where no guarded region, no protected bit, no full snapshot reserve and no
uncorrectable block (of those it changes in part, or reads for a snapshot's copy) stops it:
its bytes stand at the tile's base plus the offset, every other byte of memory reads as before, and the other tiles' cores are
unchanged. -/
def Obligations.WindowStoresReachMemory : Prop :=
  ∀ (s : State) (n len f3 rs1 rs2 : Nat) (imm : Int) (st : Stream), Runs s n st (.store f3 rs1 rs2 imm) len →
    let th := s.thread n st
    let a := (th.reg rs1 + BitVec.ofInt 32 imm).toNat
    let w := accessWidth f3
    let d := tileBase n + (a - 0x400000)
    0x400000 ≤ a → a + w ≤ 0x800000 → a % w = 0 → s.guardBad (s.owner n) st true d w = none →
    s.extentBad n (a - 0x400000) (natLE w (th.reg rs2).toNat) = false → s.reserveRoom (writerOf s n st) d w = true →
    s.landErr (writerOf s n st) d (natLE w (th.reg rs2).toNat) = none →
      ∃ t, exec (.rvInstruction n st) s = .next t ∧
        (∀ i, i < w → peek (d + i) t.mem = BitVec.ofNat 8 ((th.reg rs2).toNat / 256 ^ i)) ∧
        (∀ b, (b < d ∨ d + w ≤ b) → peek b t.mem = peek b s.mem) ∧
        t.thread n st = { th with pc := s.pcAfter n st len, fresh := false, windowStores := th.windowStores + 1 } ∧
        (∀ u, u ≠ st → t.thread n u = s.thread n u) ∧ (∀ m, m ≠ n → t.tile m = s.tile m) ∧
        Same ({ tiles := true, mem := true, bad := true, snaps := true } : Parts).others s t

/-- Where it halts, not where it completes: a load or store outside the ranges (one that crosses the end of data memory, of the
window or of the thread registers among them) or of a kind the map does not allow (narrower than a word in the thread registers, a
store to another register than cur_channel) halts with 0x03, and one that passes that check but is not naturally aligned with 0x02;
an undefined encoding halts with 0x01 and a fetch outside the bank with 0x04. The thread is in HALT with its record written, and no
byte of device memory, of data memory or of the instruction banks has changed. -/
def Obligations.RefusedInstructionsHalt : Prop :=
  ∀ (s : State) (n : Nat) (st : Stream), recordValid ((s.tile n).records.get st) = false →
    let halts (r : Nat) : Prop := ∃ t, exec (.rvInstruction n st) s = .next t ∧ Halted s t n st r 7
    (∀ len f3 rd rs1 imm, Runs s n st (.load f3 rd rs1 imm) len →
      let a := ((s.thread n st).reg rs1 + BitVec.ofInt 32 imm).toNat
      let w := accessWidth f3
      (0x20000 < a + w → a < 0x400000 → halts 0x03) ∧ (a < 0x800000 → 0x800000 < a + w → halts 0x03) ∧
      (0x800024 ≤ a → halts 0x03) ∧ (0x800000 ≤ a → a < 0x800024 → w < 4 → halts 0x03) ∧
      (0x800000 ≤ a → a % 4 ≠ 0 → w = 4 → halts (if a + 4 ≤ 0x800024 then 0x02 else 0x03)) ∧
      (a + w ≤ 0x20000 → a % w ≠ 0 → halts 0x02) ∧ (0x400000 ≤ a → a + w ≤ 0x800000 → a % w ≠ 0 → halts 0x02)) ∧
    (∀ len f3 rs1 rs2 imm, Runs s n st (.store f3 rs1 rs2 imm) len →
      let a := ((s.thread n st).reg rs1 + BitVec.ofInt 32 imm).toNat
      let w := accessWidth f3
      (0x20000 < a + w → a < 0x400000 → halts 0x03) ∧ (a < 0x800000 → 0x800000 < a + w → halts 0x03) ∧
      (0x800000 ≤ a → a ≠ 0x80000C → halts 0x03) ∧ (a = 0x80000C → w < 4 → halts 0x03) ∧
      (a + w ≤ 0x20000 → a % w ≠ 0 → halts 0x02) ∧ (0x400000 ≤ a → a + w ≤ 0x800000 → a % w ≠ 0 → halts 0x02)) ∧
    (∀ len, Runs s n st .undef len → halts 0x01) ∧
    (n < 2048 → s.threadRuns n st = true → s.current n st = none → s.fetchBad n st = none → halts 0x04)

/-- R55 whole: the RISC-V FENCE retires in one step and changes nothing but the program counter; the encodings of FENCE.I and WFI
are undefined ones and halt with 0x01, ECALL halts with 0x06 and EBREAK with 0x05; a division or remainder by zero, and the one
signed overflow, complete with RV32M's results. -/
def Obligations.FenceEcallEbreakAndDivision : Prop :=
  ∀ (s : State) (n len : Nat) (st : Stream), let th := s.thread n st
    (Runs s n st .fence len → ∃ t, exec (.rvFence n st) s = .next t ∧ Retired s t n st th (s.pcAfter n st len)) ∧
    (∀ rd rs1 imm : Nat, decode32 (0x0F + rd * 2 ^ 7 + 2 ^ 12 + rs1 * 2 ^ 15 + imm * 2 ^ 20) = .undef ∨
      32 ≤ rd ∨ 32 ≤ rs1 ∨ 4096 ≤ imm) ∧ decode32 0x10500073 = .undef ∧
    (recordValid ((s.tile n).records.get st) = false →
      (Runs s n st .undef len → ∃ t, exec (.rvInstruction n st) s = .next t ∧ Halted s t n st 0x01 7) ∧
      (Runs s n st .ecall len → ∃ t, exec (.ecall n st) s = .next t ∧ Halted s t n st 0x06 7) ∧
      (Runs s n st .ebreak len → ∃ t, exec (.ebreak n st) s = .next t ∧ Halted s t n st 0x05 7)) ∧
    (∀ f3 rd rs1 rs2, Runs s n st (.mul f3 rd rs1 rs2) len → 4 ≤ f3 → f3 < 8 →
      let a := th.reg rs1
      let b := th.reg rs2
      (b = 0#32 → ∃ t, exec (.rvInstruction n st) s = .next t ∧
        Retired s t n st (th.setReg rd (if f3 < 6 then 0xFFFFFFFF#32 else a)) (s.pcAfter n st len)) ∧
      (a = 0x80000000#32 → b = 0xFFFFFFFF#32 → f3 % 2 = 0 → ∃ t, exec (.rvInstruction n st) s = .next t ∧
        Retired s t n st (th.setReg rd (if f3 = 4 then 0x80000000#32 else 0#32)) (s.pcAfter n st len)))

/-- The custom instructions that read or write a thread's own registers complete: PCMP, PLOG and PSET write one predicate, PMV and
PRD read them, PWR writes all sixteen, CST.W replaces one word of the staging register, CLD fills it from data memory with no uncorrectable block, and QFREE
reads how much of 512 is free. Each changes its destination and the program counter alone. -/
def Obligations.RegisterInstructionsRetire : Prop :=
  ∀ (s : State) (n len : Nat) (st : Stream), let th := s.thread n st
    let gives (i : Instr) (th' : Thread) : Prop := ∃ t, exec i s = .next t ∧ Retired s t n st th' (s.pcAfter n st len)
    (∀ c pd rs1 rs2, Runs s n st (.pcmp c pd rs1 rs2) len →
      gives (.pcmp n st) { th with preds := predSet th.preds pd (predCompare c (th.reg rs1) (th.reg rs2)) }) ∧
    (∀ o pd p q, Runs s n st (.plog o pd p q) len →
      gives (.plog n st) { th with preds := predSet th.preds pd (predLogic o (predGet th.preds p) (predGet th.preds q)) }) ∧
    (∀ pd rs1, Runs s n st (.pset pd rs1) len →
      gives (.pset n st) { th with preds := predSet th.preds pd (th.reg rs1 != 0#32) }) ∧
    (∀ rd ps, Runs s n st (.pmv rd ps) len →
      gives (.pmv n st) (th.setReg rd (if predGet th.preds ps then 1#32 else 0#32))) ∧
    (∀ rd, Runs s n st (.prd rd) len → gives (.prd n st) (th.setReg rd (th.preds.setWidth 32))) ∧
    (∀ rs1, Runs s n st (.pwr rs1) len → gives (.pwr n st) { th with preds := (th.reg rs1).setWidth 16 }) ∧
    (∀ i rs1, i < 4 → Runs s n st (.cstW i rs1) len → ∃ t, exec (.cstW n st) s = .next t ∧
      Retired s t n st { th with staging := (t.thread n st).staging } (s.pcAfter n st len) ∧
      (∀ b, b < 128 → (t.thread n st).staging.getLsbD b =
        if 32 * i ≤ b ∧ b < 32 * i + 32 then (th.reg rs1).getLsbD (b - 32 * i) else th.staging.getLsbD b)) ∧
    (∀ rs1, Runs s n st (.cld rs1) len → (th.reg rs1).toNat + 16 ≤ 0x20000 → (th.reg rs1).toNat % 16 = 0 →
      (s.tile n).coreBlock 0 (th.reg rs1).toNat 16 = none →
      gives (.cld n st) { th with staging := BitVec.ofNat 128 (leNat (peeks (s.tile n).dmem (th.reg rs1).toNat 16)) }) ∧
    (∀ rd e, e < 6 → Runs s n st (.qfree rd e) len →
      gives (.qfree n st) (th.setReg rd (BitVec.ofNat 32 (512 - (s.queue n (engineOf e) st).entries.length)))) ∧
    (∀ (p : BitVec 16) i j v, i < 16 → j < 16 → predGet (predSet p i v) j = if j = i then v else predGet p j)

/-- CPUSH, CPUSHNB and the resumption of a waiting push complete for a header that the core accepts, a condition that holds (or a
command that its skip still places) and room: the entry stands at the tail of the stream's queue of its engine, or with team = 1 of
the thread's dispatch queue, with the staged word, the two registers' values and cur_channel; its summaries are owed; CPUSHNB's rd is
1, and 0 where there was no room. A push whose condition fails with no_sws = 1 places nothing; that its CPUSHNB writes 1 is read by
inference (log 20, DEDUCED). -/
def Obligations.PushesPlaceCommands : Prop :=
  ∀ (s : State) (n len rs1 rs2 : Nat) (st : Stream),
    let th := s.thread n st
    let w := th.staging
    let e := engineOf (wEngine w)
    let holds := predHolds (wPmode w) (wPred w) th.preds
    let x : Entry := { uid := s.nextUid, word := w, s0 := th.reg rs1, s1 := th.reg rs2, chan := th.channel, skip := !holds,
                       ctx := s.owner n }
    let placed (t : State) (th' : Thread) : Prop :=
      (t.queue n e st).entries = (s.queue n e st).entries ++ (if wTeam w then [] else [x]) ∧
      (t.tile n).dispatch.get st = (s.tile n).dispatch.get st ++ (if wTeam w then [{ entry := x }] else []) ∧
      (∀ u, u ≠ st → (t.tile n).dispatch.get u = (s.tile n).dispatch.get u) ∧
      t.thread n st = { th' with
        pc := s.pcAfter n st len
        fresh := false
        sums := th.sums ++ (List.range (sumsOwed w)).map fun i => ⟨s.nextUid, i, none⟩ } ∧
      (∀ g u, (g ≠ e ∨ u ≠ st) → t.queue n g u = s.queue n g u) ∧ (∀ u, u ≠ st → t.thread n u = s.thread n u) ∧
      (∀ m, m ≠ n → t.tile m = s.tile m) ∧ Same ({ tiles := true } : Parts).others s t
    s.headerBad (s.owner n) st th = none → (s.tile n).switching.contains st = false →
    (s.pushRoom n st w = true → (holds || !wNoSws w) = true →
      (Runs s n st (.cpush rs1 rs2) len → ∃ t, exec (.cpush n st) s = .next t ∧ placed t th) ∧
      (∀ rd, Runs s n st (.cpushnb rd rs1 rs2) len → ∃ t, exec (.cpushnb n st) s = .next t ∧ placed t (th.setReg rd 1#32)) ∧
      (WaitsAt s n st .push (.cpush rs1 rs2) len → ∃ t, exec (.pushRoomResume n st) s = .next t ∧
        placed t { th with run := .run, waitAt := none, released := false })) ∧
    ((holds || !wNoSws w) = false →
      (Runs s n st (.cpush rs1 rs2) len → ∃ t, exec (.cpush n st) s = .next t ∧ Retired s t n st th (s.pcAfter n st len)) ∧
      (∀ rd, Runs s n st (.cpushnb rd rs1 rs2) len → ∃ t, exec (.cpushnb n st) s = .next t ∧
        Retired s t n st (th.setReg rd 1#32) (s.pcAfter n st len))) ∧
    ((holds || !wNoSws w) = true → s.pushRoom n st w = false →
      (Runs s n st (.cpush rs1 rs2) len → exec (.cpush n st) s =
        .next (s.modThread n st fun t => { t with run := .wait, waitAt := some .push })) ∧
      (∀ rd, Runs s n st (.cpushnb rd rs1 rs2) len → ∃ t, exec (.cpushnb n st) s = .next t ∧
        Retired s t n st (th.setReg rd 0#32) (s.pcAfter n st len)))

/-- CDRAIN retires once the queue it names (7: all six) is empty, SUMRD takes the oldest summary once it has its value, and
CTWAIT registers at the tally's home, its release retiring it. Each waits otherwise, and its resumption retires it. -/
def Obligations.WaitingInstructionsRetire : Prop :=
  ∀ (s : State) (n len : Nat) (st : Stream),
    let th := s.thread n st
    let woken : Thread := { th with run := .run, waitAt := none, released := false }
    let gives (i : Instr) (th' : Thread) : Prop := ∃ t, exec i s = .next t ∧ Retired s t n st th' (s.pcAfter n st len)
    (∀ e, e ≠ 6 → s.drained n st e = true →
      (Runs s n st (.cdrain e) len → gives (.cdrain n st) th) ∧
      (WaitsAt s n st .cdrain (.cdrain e) len → gives (.cdrainResume n st) woken)) ∧
    (∀ e, e ≠ 6 → s.drained n st e = false → Runs s n st (.cdrain e) len → exec (.cdrain n st) s =
      .next (s.modThread n st fun t => { t with run := .wait, waitAt := some .cdrain })) ∧
    (s.drained n st 7 = true ↔ ∀ e, (s.queue n e st).entries = []) ∧
    (∀ rd x v rest, th.sums = ⟨x, v, some rd⟩ :: rest → ∀ r,
      (Runs s n st (.sumrd r) len → gives (.sumrd n st) ({ th with sums := rest }.setReg r rd)) ∧
      (WaitsAt s n st .sumrd (.sumrd r) len → gives (.sumrdResume n st) ({ woken with sums := rest }.setReg r rd))) ∧
    (∀ x v rest, th.sums = ⟨x, v, none⟩ :: rest → ∀ r, Runs s n st (.sumrd r) len → exec (.sumrd n st) s =
      .next (s.modThread n st fun t => { t with run := .wait, waitAt := some .sumrd })) ∧
    (∀ rs1 rs2, Runs s n st (.ctwait rs1 rs2) len →
      let r := (th.reg rs1).toNat
      let loc := if r.testBit 16 then 2 else 0
      r < 2 ^ 17 → (loc = 0 → r < 256) → (loc = 2 → s.gtallyOk (s.owner n) (r % 65536) = true) →
      exec (.ctwait n st) s = .next ((s.fresh.2.modThread n st fun t => { t with
          run := .wait, waitAt := some .ctwait, waitUid := s.nextUid, released := false }).send
        { uid := 0, ctx := s.owner n, epoch := 0, chan := 0, src := .tile n, dst := tallyHome n loc (r % 65536), stream := st,
          engine := 7, entry := s.nextUid, body := .register (r % 65536) .ctwait (th.reg rs2).toNat false }))

/-- PARK retires and puts the thread in PARK. IMSWAP, where no switch is pending and no write into the idle bank is in flight,
turns target_bank over and makes every thread switch: the swapping thread at once, at its entry in the new bank, a thread in PARK or
HALT at once, one in RUN or WAIT at its next boundary. Otherwise IMSWAP halts with 0x24. -/
def Obligations.ParkAndBankSwitch : Prop :=
  ∀ (s : State) (n len : Nat) (st : Stream),
    let th := s.thread n st
    let b := 1 - (s.tile n).targetBank
    (Runs s n st .park len → (s.tile n).switching.contains st = false →
      ∃ t, exec (.park n st) s = .next t ∧ Retired s t n st { th with run := .park } (s.pcAfter n st len)) ∧
    (Runs s n st .imswap len → (s.tile n).switching = [] → s.bankWriteInFlight n b = false →
      ∃ t, exec (.imswap n st) s = .next t ∧ (t.tile n).targetBank = b ∧
        t.thread n st = { th with
          bank := b, pc := BitVec.ofNat 32 (imemBase + s.bankEntry n b st), fresh := false, atEntry := false } ∧
        (∀ u, u ≠ st → (s.thread n u).run = .park ∨ (s.thread n u).run = .halt →
          t.thread n u = { s.thread n u with bank := b, atEntry := (s.thread n u).run = .halt } ∧ (t.tile n).switching.contains u = false) ∧
        (∀ u, u ≠ st → (s.thread n u).run = .run ∨ (s.thread n u).run = .wait →
          t.thread n u = s.thread n u ∧ (t.tile n).switching.contains u = true) ∧
        (∀ m, m ≠ n → t.tile m = s.tile m) ∧ Same ({ tiles := true } : Parts).others s t) ∧
    (Runs s n st .imswap len → ((s.tile n).switching ≠ [] ∨ s.bankWriteInFlight n b = true) →
      recordValid ((s.tile n).records.get st) = false → ∃ t, exec (.imswap n st) s = .next t ∧ Halted s t n st 0x24 7)

/-- A start request that arrives at a parked thread of a context not being reset puts it in RUN at its stream's entry of its current
bank. A debug halt puts the thread in HALT with reason 0x42 and its record, whose unit is 7 (log 99, DEDUCED). A debug resume of a
thread halted with 0x05 or 0x42 puts it back:
behind the EBREAK for 0x05, where it stood, running or waiting, for 0x42; one that was parked is parked again, and one whose bank was
switched meanwhile runs from its entry in the new bank. A thread halted otherwise is not resumed. Which of several halts decides
what stays resumable, and that a parked thread is parked again, is read by inference (log 54, DEDUCED). -/
def Obligations.StartHaltAndResumeThread : Prop :=
  ∀ (s : State) (n : Nat) (st : Stream),
    (∀ k p, s.arrival k = some p → p.body = .start st → p.dst = .tile n → s.stale p = false → s.alive n = true →
      (s.thread n st).run = .park → s.notResetting (s.owner n) = true →
      ∃ t, exec (.threadStart k) s = .next t ∧ t.net = s.net.eraseIdx k ∧
        t.thread n st = { s.thread n st with
          run := .run, ctx := p.ctx, fresh := true, pc := BitVec.ofNat 32 (imemBase + s.bankEntry n (s.thread n st).bank st) } ∧
        (∀ u, u ≠ st → t.thread n u = s.thread n u) ∧ (∀ m, m ≠ n → t.tile m = s.tile m) ∧
        Same ({ tiles := true, net := true } : Parts).others s t) ∧
    (n < 2048 → s.alive n = true → (s.thread n st).run ≠ .halt → recordValid ((s.tile n).records.get st) = false →
      ∃ t, exec (.debugHalt n st) s = .next t ∧ Halted s t n st 0x42 7) ∧
    (n < 2048 → s.alive n = true → (s.thread n st).run = .halt → let th := s.thread n st
      let resumes (g : Thread → Thread) : Prop := exec (.debugResume n st) s = .next (s.modThread n st g)
      (th.haltBy = 0x42 → th.atEntry = false → th.was = .run → resumes fun t => { t with run := .run }) ∧
      (th.haltBy = 0x42 → th.atEntry = false → th.was = .wait → th.waitAt ≠ some .ctwait → resumes fun t => { t with run := .wait }) ∧
      (∀ len, th.haltBy = 0x05 → th.atEntry = false → th.was = .run → s.current n st = some (.ebreak, len) →
        resumes fun t => { t with run := .run, pc := s.pcAfter n st len }) ∧
      (resumable th.haltBy = true → th.was = .park → resumes fun t => { t with run := .park, waitAt := none, atEntry := false }) ∧
      (resumable th.haltBy = true → th.was ≠ .park → th.atEntry = true → resumes fun t => { t with
        run := .run, waitAt := none, released := false, atEntry := false,
        pc := BitVec.ofNat 32 (imemBase + s.bankEntry n th.bank st) }) ∧
      (resumable th.haltBy = false → exec (.debugResume n st) s = .next s))

/-- While the fault record of a stream is valid, a further halt event leaves every field of it but `more`, which goes up by one and
stays at 255; the thread is in HALT. -/
def Obligations.ARecordHeldIsNotOverwritten : Prop :=
  ∀ (s : State) (n : Nat) (st : Stream), n < 2048 → s.alive n = true →
    let r := (s.tile n).records.get st
    recordValid r = true → ∃ t, exec (.debugHalt n st) s = .next t ∧ (t.thread n st).run = .halt ∧
      recordMore ((t.tile n).records.get st) = min 255 (recordMore r + 1) ∧
      (∀ b, b < 256 → (b < 30 ∨ 38 ≤ b) → ((t.tile n).records.get st).getLsbD b = r.getLsbD b)

/-! ## Issue and completion of queued commands -/

/-- A matrix command that nothing holds back issues. An MMA puts the result of its pass into the accumulators it names, held by its
stream, as it issues (THE MODEL'S CHOICE, log 120: R103 has it there at completion); a dense pass without a zero map adds, block by block of 32 products with one rounding each, the products of A's row i with
B's column j to cell (i, j), or to zero where clear is set. Memory and the other tiles stay as they were. -/
def Obligations.MatrixCommandsIssue : Prop :=
  ∀ (s : State) (n : Nat) (st : Stream) (x : Entry) (ahead : List Entry),
    (Issues s n .matrix 0x02 cmdMdrain st x ahead → exec (.mdrain n st) s = .next (s.afterIssue n .matrix cmdMdrain st x)) ∧
    (Issues s n .matrix 0x03 cmdMdcfg st x ahead → exec (.mdcfg n st) s = .next (s.afterIssue n .matrix cmdMdcfg st x)) ∧
    (Issues s n .matrix 0x01 cmdMma st x ahead → ∃ t, exec (.mma n st) s = .next t ∧ t = s.afterIssue n .matrix cmdMma st x ∧
      (t.array n (mArray x)).accs = (mmaResult (s.named n x) n x).foldl (fun l p => vset l p.1 { held := some st, vals := p.2 })
        (s.array n (mArray x)).accs ∧
      t.mem = s.mem ∧ (∀ m, m ≠ n → t.tile m = s.tile m)) ∧
    (mSp x = false → mZm x = false → ∀ i j, i < 16 → j < 16 →
      ∃ vals, mmaResult s n x = [(mAcc x, vals)] ∧
        vals[16 * i + j]? = some (cellValue (if mClear x then 0 else (vget (s.array n (mArray x)).accs (mAcc x) {}).get (16 * i + j))
          ((List.range (mK x)).map fun k => productsOf (mFa x) (mFb x)
            (lget (lget (operand s n x.a0 (mLda x) (mFa x) (mK x) 16 (!mTa x)) i []) k ⟨0, 0⟩)
            (lget (lget (operand s n x.a1 (mLdb x) (mFb x) (mK x) 16 (mTb x)) j []) k ⟨0, 0⟩))))

/-- A vector command that nothing holds back issues: its entry is marked as issued and carries what its completion will do: a
register's new elements (VLD, EPROG, VRED), the stored bytes (VST, EPSTRM), a program slot (EPLOAD), a summary (VSUM), a seed or
counter base (VSEED). That those values are computed from the state at issue and land at completion is THE MODEL'S CHOICE (log 8).
No memory, no thread and no other tile changes as it issues. -/
def Obligations.VectorCommandsIssue : Prop :=
  ∀ (s : State) (n : Nat) (st : Stream) (x : Entry) (ahead : List Entry),
    let u := s.named n x
    let issues (i : Instr) (op : Nat) (c : Cmd) (fx : List Effect) : Prop :=
      Issues s n .vector op c st x ahead → ∃ t, exec i s = .next t ∧ t = s.afterIssue n .vector c st x ∧
        (∃ y ∈ (t.queue n .vector st).entries, y.uid = x.uid ∧ y.issued = true ∧ y.effects = fx ∧ y.word = x.word) ∧
        t.mem = s.mem ∧ (∀ u, t.thread n u = s.thread n u) ∧ (∀ m, m ≠ n → t.tile m = s.tile m)
    issues (.vld n st) 0x01 cmdVld ((vldVals u n x).map (fun p => .vreg p.1 p.2) ++ (vmemRegs x).map .unbusy) ∧
    issues (.vst n st) 0x02 cmdVst ((vstStores u n st x).map fun p => .store p.1 p.2) ∧
    issues (.epload n st) 0x03 cmdEpload
      [.slot (x.pl 55 52) ((List.range 8).map fun i => leWord (s.tileBytes n (x.a0 + 4 * i) 4))
        ((List.range (x.pl 51 46 + 1)).map fun i => leWord (s.tileBytes n (x.a0 + 32 + 4 * i) 4)),
       .loadedFrom (300 + x.pl 55 52) (tileBase n + x.a0)] ∧
    issues (.eprog n st) 0x04 cmdEprog
      [.vreg (x.pl 46 42) (placed ((s.vreg n (x.pl 51 47)).mapIdx fun i v =>
        lget (epRun (u.programOf n x) (u.elemEnv n st x (i / 16) (i % 16) i) (epStart v 0)) 0 0) 0), .unbusy (x.pl 46 42)] ∧
    issues (.vseed n st) 0x08 cmdVseed [.seed st (x.plb 55) (BitVec.ofNat 64 (x.a1 * 2 ^ 32 + x.a0))] ∧
    (∀ i ∈ [(Instr.epstrm n st, 0x05, cmdEpstrm), (.vred n st, 0x06, cmdVred), (.vsum n st, 0x07, cmdVsum)],
      Issues s n .vector i.2.1 i.2.2 st x ahead → exec i.1 s = .next (s.afterIssue n .vector i.2.2 st x))

/-- MOVE, MVCOMP, REMASK, STASH, PREDLD and MASKDROP issue where nothing holds them back; a MOVE whose source has clean check bits
only then asks for its pieces. MASKDROP's completion will take the extent of its offset away, and PREDLD's will load one entry of the
predictor table. -/
def Obligations.MoverCommandsIssue : Prop :=
  ∀ (s : State) (n : Nat) (st : Stream) (x : Entry) (ahead : List Entry),
    (Issues s n .mover 0x01 cmdMove st x ahead → exec (.move n st .clean) s = .next (s.afterIssue n .mover cmdMove st x)) ∧
    (∀ i ∈ [(Instr.mvcomp n st, 0x02, cmdMvcomp), (.remask n st, 0x03, cmdRemask), (.stash n st, 0x04, cmdStash),
        (.predld n st, 0x05, cmdPredld), (.maskdrop n st, 0x06, cmdMaskdrop)],
      Issues s n .mover i.2.1 i.2.2 st x ahead → ∃ t, exec i.1 s = .next t ∧ t = s.afterIssue n .mover i.2.2 st x ∧
        t.mem = s.mem ∧ (∀ m, m ≠ n → t.tile m = s.tile m) ∧
        (∃ y ∈ (t.queue n .mover st).entries, y.uid = x.uid ∧ y.issued = true ∧
          (i.2.1 = 0x05 → ∃ v, y.effects = [.predictor (x.pl 55 52) v]) ∧
          (i.2.1 = 0x06 → y.effects = [.extent x.a0 0 0 0])))

/-- The eight atomics, RDOPEN and RDADD issue where nothing holds them back. An atomic on the own device leaves the tile as one
request to the home of its address, with the operation, the type and the operands of its command; one that returns the old value
waits for the answer. -/
def Obligations.AtomicCommandsIssue : Prop :=
  ∀ (s : State) (n : Nat) (st : Stream) (x : Entry) (ahead : List Entry),
    (∀ i ∈ [(Instr.aadd n st, 0x10), (.amin n st, 0x11), (.amax n st, 0x12), (.aswap n st, 0x13), (.acas n st, 0x14),
        (.aaddn n st, 0x18), (.aminn n st, 0x19), (.amaxn n st, 0x1A)],
      Issues s n .mover i.2 cmdAtomic st x ahead → ∃ t, exec i.1 s = .next t ∧ t = s.afterIssue n .mover cmdAtomic st x ∧
        t.mem = s.mem ∧
        (aDev x = s.deviceNumber → ∃ p l, t.net = s.net ++ p :: l ∧ p.src = .tile n ∧ p.dst = s.homePlace (aAddr x) ∧
          p.ctx = x.ctx ∧ p.entry = x.uid ∧ ∃ uid, p.body = .atomic (aOp x) (aType x) (aAddr x)
            (BitVec.ofNat 64 (aOperand x)) (BitVec.ofNat 64 x.a1) (decide (i.2 < 0x18)) uid)) ∧
    (∀ i ∈ [(Instr.rdopen n st, 0x20, cmdRdopen), (.rdadd n st, 0x21, cmdRdadd)],
      Issues s n .mover i.2.1 i.2.2 st x ahead → exec i.1 s = .next (s.afterIssue n .mover i.2.2 st x))

/-- The update unit's commands issue where nothing holds them back, on the update stream only: elsewhere they are refused, and the
stream halts with 0x20. An OPTSTEP whose expert is absent under policy 0 will change nothing; OPTCFG will load its descriptor, with
the bytes its store held at issue (THE MODEL'S CHOICE, log 8). -/
def Obligations.UpdateCommandsIssue : Prop :=
  ∀ (s : State) (n : Nat) (st : Stream) (x : Entry) (ahead : List Entry),
    ∀ i ∈ [(Instr.optcfg n st, 0x40, cmdOptcfg), (.optstep n st, 0x41, cmdOptstep), (.amaxstep n st, 0x42, cmdAmaxstep),
        (.snap n st, 0x43, cmdSnap)],
      (Issues s n .mover i.2.1 i.2.2 st x ahead → st = .upd ∧ exec i.1 s = .next (s.afterIssue n .mover i.2.2 st x)) ∧
      (n < 2048 → s.streamRuns n st = true → s.head n .mover st = some (x, ahead) → x.skip = false → x.op = i.2.1 →
        st ≠ .upd → i.2.2.settled (s.named n x) n st x = true → hazard ahead (i.2.2.reads (s.named n x) n st x) = false → recordValid ((s.tile n).records.get st) = false →
        ∃ t, exec i.1 s = .next t ∧ (t.thread n st).run = .halt ∧ recordReason ((t.tile n).records.get st) = 0x20) ∧
      (i.2.1 = 0x40 → Issues s n .mover i.2.1 i.2.2 st x ahead →
        ∃ y ∈ ((s.afterIssue n .mover i.2.2 st x).queue n .mover st).entries, y.uid = x.uid ∧
          y.effects = [.optDesc (x.pl 55 53) (BitVec.ofNat 512 (s.tileNat n x.a0 64)), .loadedFrom (100 + x.pl 55 53) (tileBase n + x.a0)]) ∧
      (i.2.1 = 0x41 → Issues s n .mover i.2.1 i.2.2 st x ahead → (s.named n x).optSkips n ((s.named n x).oBlock n x) = true →
        ∃ y ∈ ((s.afterIssue n .mover i.2.2 st x).queue n .mover st).entries, y.uid = x.uid ∧ y.effects = [])

/-- The thirteen commands of the route unit issue where nothing holds them back, and their entries are marked as issued. None but
RQCLOSE, which writes its own row of counts, and RXEXPAND, which serves its replica's list, changes memory as it issues. -/
def Obligations.RouteCommandsIssue : Prop :=
  ∀ (s : State) (n : Nat) (st : Stream) (x : Entry) (ahead : List Entry),
    ∀ i ∈ [(Instr.rtcfg n st, 0x01, cmdRtcfg), (.rqopen n st, 0x02, cmdRqopen), (.route n st, 0x03, cmdRoute),
        (.rqclose n st, 0x04, cmdRqclose), (.rbound n st, 0x05, cmdRbound), (.rcomb n st, 0x06, cmdRcomb),
        (.rback n st, 0x07, cmdRback), (.rgrad n st, 0x08, cmdRgrad), (.rxopen n st, 0x10, cmdRxopen),
        (.rwget n st, 0x11, cmdRwget), (.rxwait n st, 0x12, cmdRxwait), (.rxexpand n st, 0x13, cmdRxexpand),
        (.rsend n st, 0x14, cmdRsend)],
      Issues s n .route i.2.1 i.2.2 st x ahead → ∃ t, exec i.1 s = .next t ∧ t = s.afterIssue n .route i.2.2 st x ∧
        (∃ y ∈ (t.queue n .route st).entries, y.uid = x.uid ∧ y.issued = true) ∧
        (i.2.1 ≠ 0x04 → i.2.1 ≠ 0x13 → t.mem = s.mem)

/-- TWAIT, TCLAIM, TSIG and FENCE issue on every engine, TSET, HUDDLE and the pool commands on theirs, where nothing holds them back.
A TWAIT or TCLAIM that becomes the head first registers at its tally's home, once, and issues only when its release has come; a
POOLGET that becomes the head asks its pool for a block of its class, once, with its owners' count, and issues only when the pool has
granted one. -/
def Obligations.CommonCommandsIssue : Prop :=
  ∀ (s : State) (n : Nat) (st : Stream) (x : Entry) (ahead : List Entry),
    (∀ e, ∀ i ∈ [(Instr.twait n e st, 0xF0, cmdTwait e), (.tclaim n e st, 0xF1, cmdTclaim e), (.tsig n e st, 0xF2, cmdTsig e),
        (.fence n e st, 0xF3, cmdFence e)],
      Issues s n e i.2.1 i.2.2 st x ahead → exec i.1 s = .next (s.afterIssue n e i.2.2 st x)) ∧
    (∀ i ∈ [(Instr.tset n st, 0x01, cmdTset), (.huddle n st, 0x02, cmdHuddle)],
      Issues s n .tally i.2.1 i.2.2 st x ahead → exec i.1 s = .next (s.afterIssue n .tally i.2.2 st x)) ∧
    (∀ i ∈ [(Instr.poolget n st, 0x01, cmdPoolget), (.poolput n st, 0x02, cmdPoolput), (.poolcfg n st, 0x03, cmdPoolcfg)],
      Issues s n .pool i.2.1 i.2.2 st x ahead → exec i.1 s = .next (s.afterIssue n .pool i.2.2 st x)) ∧
    (∀ e, ∀ i ∈ [(Instr.twait n e st, 0xF0, WaitKind.twait, cmdTwait e), (.tclaim n e st, 0xF1, .tclaim, cmdTclaim e)],
      n < 2048 → s.streamRuns n st = true → s.head n e st = some (x, ahead) → x.skip = false → x.op = i.2.1 →
      (s.named n x).refusalAt n st x i.2.2.2 = none → x.asked = false →
      ∃ t p, exec i.1 s = .next t ∧ t.net = s.net ++ [p] ∧ p.src = .tile n ∧ p.dst = tallyHome n (tWhere x) (tNum x) ∧
        p.entry = x.uid ∧ (∃ v m, p.body = .register (tNum x) i.2.2.1 v m) ∧ t.mem = s.mem ∧
        (∃ y ∈ t.entries n e st, y.uid = x.uid ∧ y.asked = true)) ∧
    (n < 2048 → s.streamRuns n st = true → s.head n .pool st = some (x, ahead) → x.skip = false → x.op = 0x01 →
      (s.named n x).refusalAt n st x cmdPoolget = none → x.asked = false →
      ∃ t p, exec (.poolget n st) s = .next t ∧ t.net = s.net ++ [p] ∧ p.src = .tile n ∧
        p.dst = (if pShared x then .die (pPool x % 8) else .tile n) ∧ p.entry = x.uid ∧ p.ctx = x.ctx ∧
        p.body = .poolGet (pPool x) (pClass x) (pOwner x (pLast x)) ∧ t.mem = s.mem ∧
        (∃ y ∈ t.entries n .pool st, y.uid = x.uid ∧ y.asked = true)) ∧
    (∀ e, ∀ i ∈ [(0xF0, cmdTwait e), (0xF1, cmdTclaim e)], Issues s n e i.1 i.2 st x ahead → x.granted = true) ∧
    (Issues s n .pool 0x01 cmdPoolget st x ahead → x.granted = true)

/-- A skip entry that is the head of its queue, with nothing in its way, issues at once; at the front of its queue it completes as well:
its completion signal, the signal of a skipped TSIG, and 0 for each summary it owes are all it does, and its entry has left the
queue. One that issued behind earlier commands does so when it comes to the front. -/
def Obligations.SkipEntriesPassThrough : Prop :=
  ∀ (s : State) (n : Nat) (e : Engine) (st : Stream), n < 2048 →
    let passes (f : State → State) (x : Entry) : Prop := ∃ t, exec (.skipEntry n e st) s = .next t ∧
      t = s.inName n x (fun u => (f u).finishCommand n e st { x with issued := true }) ∧ (∀ y ∈ (t.queue n e st).entries, y.uid ≠ x.uid) ∧
      (x.effects = [] → x.failing = none → ∀ y ∈ (t.thread n st).sums, y.entry = x.uid → y.value = some 0#32)
    (∀ x ahead, s.completing n e st = none → s.head n e st = some (x, ahead) → s.streamRuns n st = true → x.skip = true →
      skipBad (s.named n x) n x = none → (s.named n x).chosen n e = some st →
      (ahead = [] → passes (fun u => u.issued n e st x (u.readyStreams n e)) x) ∧
      (ahead ≠ [] → exec (.skipEntry n e st) s = .next (s.inName n x fun u => u.issued n e st x (u.readyStreams n e)))) ∧
    (∀ x, s.completing n e st = some x → x.skip = true → s.alive n = true → s.notResetting (s.owner n) = true →
      (s.entries n e st).head? = some x → passes id x)

/-- R59 whole: on every engine a NOP (opcode 0xFF) with payload 0 at the head of its queue is accepted. At the front of its queue it
completes: its entry leaves the queue, and where sig_en = 1 a signal of its amount is on its way to its tally. Behind an earlier
command of its queue it stays, and nothing is signalled, until it comes to the front. One with another payload is refused, and its
stream halts. -/
def Obligations.NopSignalsItsPointInTheQueue : Prop :=
  ∀ (s : State) (n : Nat) (e : Engine) (st : Stream) (x : Entry), n < 2048 → x.skip = false → x.op = 0xFF →
    let completes : Prop := ∃ t, exec (.nop n e st) s = .next t ∧ (∀ y ∈ (t.queue n e st).entries, y.uid ≠ x.uid) ∧
      (wSigEn x.word = true → ∃ l p, t.net = s.net ++ l ∧ p ∈ l ∧ p.src = .tile n ∧
        p.dst = (if wSigGlobal x.word then .die (wSigTally x.word % 8) else .tile n) ∧
        ∃ cyc, p.body = .signal (wSigTally x.word) (wSigAdd x.word) 0 cyc)
    (∀ ahead, s.completing n e st = none → s.streamRuns n st = true → s.head n e st = some (x, ahead) →
      (wPayload x.word = 0 → (s.named n x).signalBad n x = none → (s.named n x).varyBad n x = none →
        (s.named n x).chosen n e = some st → x.effects = [] → x.failing = none →
        (ahead = [] → completes) ∧
        (ahead ≠ [] → ∃ t, exec (.nop n e st) s = .next t ∧ t.net = s.net ∧
          ∃ y ∈ t.entries n e st, y.uid = x.uid ∧ y.issued = true)) ∧
      (wPayload x.word ≠ 0 → recordValid ((s.tile n).records.get st) = false →
        ∃ t, exec (.nop n e st) s = .next t ∧ (t.thread n st).run = .halt ∧
          recordReason ((t.tile n).records.get st) = 0x11)) ∧
    (s.completing n e st = some x → (s.entries n e st).head? = some x → s.alive n = true → s.notResetting (s.owner n) = true →
      x.effects = [] → x.failing = none → completes)

/-- The oldest issued command of a queue that waits for nothing completes, and its entry leaves the queue. For the vector engine, memory
afterwards is memory with the bytes of the command's stores (where no block that they change in part is uncorrectable): a byte
outside them reads as before, but for the 16 B that a lock-step context's record of the command takes in the tile's buffer; and where
sig_en = 1 a signal of its amount is on its way to its tally. -/
def Obligations.CompletionAppliesTheStores : Prop :=
  ∀ (s : State) (n : Nat) (e : Engine) (st : Stream) (x : Entry), n < 2048 → s.completing n e st = some x → s.alive n = true →
    s.notResetting (s.owner n) = true → ∃ t, exec (.commandComplete n e st) s = .next t ∧
    t = s.inName n x (fun u => u.finishCommand n e st x) ∧
    (∀ y ∈ (t.queue n e st).entries, y.uid ≠ x.uid) ∧
    (e = .vector → (∀ c, cmdOf e x.op = some c → ∀ u, c.finish u n st x = u) → x.failing = none → x.skip = false →
      (∀ b, (∀ f ∈ x.effects, ∀ a bytes, f = .store a bytes → b < a ∨ a + bytes.length ≤ b) →
        (∀ f ∈ x.effects, ∀ a v, f ≠ .amax a v) →
        (s.locked n = true → b < s.lockRecordAt n (3 + streamNo st) ∨ s.lockRecordAt n (3 + streamNo st) + 16 ≤ b) →
        peek b t.mem = peek b s.mem) ∧
      (∀ a bytes, x.effects = [.store a bytes] → s.partBad a bytes = none → s.locked n = false → t.loadBytes a bytes.length = bytes) ∧
      (wSigEn x.word = true → ∃ p ∈ t.net, p.src = .tile n ∧
        p.dst = (if wSigGlobal x.word then .die (wSigTally x.word % 8) else .tile n) ∧
        ∃ cyc, p.body = .signal (wSigTally x.word) (wSigAdd x.word) 0 cyc))

/-- Open vector lanes go to the lowest-numbered array whose drain waits only for them, else to the next group of blocks of an OPTSTEP
with algo 3, else to nobody; that the group comes after every array's drain is read by inference (log 67, DEDUCED). An idle array goes
one stair down (straight to clock-gated outside a dribble gap), and an array that a pass waits for goes one level up; each changes its
tile alone. The amounts of dribble cycles count steps, not time: THE MODEL'S CHOICE (log 7). -/
def Obligations.LanesAndDribbleSteps : Prop :=
  ∀ (s : State) (n a : Nat), n < 2048 → s.alive n = true →
    (let give (a : Option Nat) (u : State) : State := u.modTile n fun t => { t with vec := { t.vec with lanes := a } };
      s.lanesOpen n = true →
      (∀ rest, laneCandidates s n = a :: rest →
        exec (.laneReservationGrant n) s = .next (give (some a) s) ∧ ∀ b ∈ laneCandidates s n, a ≤ b) ∧
      (∀ x, laneCandidates s n = [] → s.optWaits n = some x → exec (.laneReservationGrant n) s =
        .next (give (some 4) (s.setEntry n .mover .upd { x with progress := x.progress.drop 1 }))) ∧
      (laneCandidates s n = [] → s.optWaits n = none → exec (.laneReservationGrant n) s = .next (give none s))) ∧
    (a < 4 → s.arrayIdle n a = true → 0 < (s.array n a).level →
      exec (.dribbleStepDown n a) s = .next (s.modArray n a fun r =>
        if r.gapDribble then { r with level := r.level - 1, dribbleCycles := r.dribbleCycles + (if r.level = 4 then 64 else 32) }
        else { r with level := 0 })) ∧
    (a < 4 → rampWanted s n a = true → (s.array n a).level < 3 →
      exec (.dribbleRampStep n a) s = .next (s.modArray n a fun r =>
        { r with level := r.level + 1, dribbleCycles := r.dribbleCycles + 8 }))

/-! ## Packets at their homes and at the tiles -/

/-- A read request taken at a home die or at a tile, of bytes with no uncorrectable block, is answered to the tile that asked with the
bytes at its address; memory is unchanged. A write taken there, with room for the pages a snapshot must keep, that meets no
uncorrectable block (in a block it changes in part or a page it makes a snapshot keep) puts exactly its bytes
at its address, leaves every other byte, and is acknowledged. A write for a tile's core that changes no uncorrectable block in part
changes its bank or data memory alone. -/
def Obligations.HomesReadAndWrite : Prop :=
  ∀ (s : State) (k : Nat) (p : Packet), Takes s k p →
    let answers (t : State) (b : Body) : Prop := ∃ q, t.net = s.net.eraseIdx k ++ [q] ∧ q.body = b ∧ q.src = p.dst ∧ q.dst = p.src ∧
      q.stream = p.stream ∧ q.entry = p.entry ∧ q.ctx = p.ctx
    let row : Option Instr := match p.dst with
      | .die _ => some (.homeRequest k .clean)
      | .tile _ => some (.tileStoreRemoteAccess k .clean)
      | _ => none
    (∀ i a len uid, row = some i → p.body = .readReq a len uid → s.badBlock a len = none →
      ∃ t, exec i s = .next t ∧ answers t (.data uid (s.loadBytes a len)) ∧ t.mem = s.mem) ∧
    (∀ i a bs uid, row = some i → p.body = .writeReq a bs uid → s.landErr p.writer a bs = none →
      s.reserveFor p.writer [⟨a, bs.length⟩] = true →
      (isTile p.dst = true → s.extentBadAt a bs = false) →
      ∃ t, exec i s = .next t ∧ answers t (.ack uid) ∧ t.loadBytes a bs.length = bs ∧
        (∀ b, (b < a ∨ a + bs.length ≤ b) → peek b t.mem = peek b s.mem)) ∧
    (∀ i n off bs uid, row = some i → p.dst = .tile n → p.body = .coreWrite none off bs uid →
      (s.tile n).corePartBad 0 off bs = none → ∃ t, exec i s = .next t ∧ answers t (.ack uid) ∧ peeks (t.tile n).dmem off bs.length = bs ∧
        (∀ b, (b < off ∨ off + bs.length ≤ b) → peek b (t.tile n).dmem = peek b (s.tile n).dmem) ∧ t.mem = s.mem ∧
        (∀ m, m ≠ n → t.tile m = s.tile m)) ∧
    (∀ i n bank off bs uid, row = some i → p.dst = .tile n → p.body = .coreWrite (some bank) off bs uid → bank < 2 →
      s.bankActive n bank = false → (s.tile n).corePartBad (bank + 1) off bs = none → ∃ t, exec i s = .next t ∧ answers t (.ack uid) ∧
        (∀ j (h : j < bs.length), t.imemByte n bank (off + j) = bs[j]) ∧
        (∀ b, (b < off ∨ off + bs.length ≤ b) → t.imemByte n bank b = s.imemByte n bank b) ∧
        (∀ b, t.imemByte n (1 - bank) b = s.imemByte n (1 - bank) b) ∧ t.mem = s.mem)

/-- An atomic taken at the home of its address, whose word (and the page that a snapshot keeps of it) has no uncorrectable block and for
whose page the snapshots have room, writes the operation's result over the old value and nothing else, and answers with the old value where it returns one, with an acknowledgement otherwise. The results: sums
wrap, minimum and maximum follow the type's order, SWAP takes the operand, CAS does so only where the old value equals the compare value. -/
def Obligations.AtomicsAtTheHome : Prop :=
  (∀ (s : State) (k : Nat) (p : Packet) (op : AtomOp) (ty a uid : Nat) (operand compare : BitVec 64) (returning : Bool),
    Takes s k p → isDie p.dst = true → p.body = .atomic op ty a operand compare returning uid →
    s.changeBad p.writer a (atomWidth ty) = none → s.reserveFor p.writer [⟨a, atomWidth ty⟩] = true →
    let w := atomWidth ty
    ∃ t q, exec (.atomicAtHome k .clean) s = .next t ∧
      t.loadNat a w = atomNew op ty (s.loadNat a w) operand.toNat compare.toNat % 256 ^ w ∧
      (∀ b, (b < a ∨ a + w ≤ b) → peek b t.mem = peek b s.mem) ∧
      t.net = s.net.eraseIdx k ++ [q] ∧ q.dst = p.src ∧
      q.body = (if returning then .answer uid [s.loadNat a w] else .ack uid)) ∧
  (∀ old operand compare : Nat, old < 2 ^ 32 → operand < 2 ^ 32 →
    atomNew .add 0 old operand compare = (old + operand) % 2 ^ 32 ∧ atomNew .add 1 old operand compare = (old + operand) % 2 ^ 32 ∧
    (atomNew .min 0 old operand compare : Int) =
      (if (BitVec.ofNat 32 operand).toInt < (BitVec.ofNat 32 old).toInt then (operand : Int) else (old : Int)) ∧
    (atomNew .max 0 old operand compare : Int) =
      (if (BitVec.ofNat 32 old).toInt < (BitVec.ofNat 32 operand).toInt then (operand : Int) else (old : Int)) ∧
    (∀ ty, ty = 1 ∨ ty = 3 → atomNew .min ty old operand compare = min old operand ∧
      atomNew .max ty old operand compare = max old operand) ∧
    (∀ ty, atomNew .swap ty old operand compare = operand ∧
      atomNew .cas ty old operand compare = if old = compare then operand else old))

/-- A contribution to an EXACT reduction that takes it, where no guarded region bars it and no superaccumulator of its elements is
uncorrectable, adds its values to the superaccumulators; one to an ARRIVAL reduction adds them in FP32 to the words of the target, and
changes no other byte. Each counts once, begins finalisation with the last expected one, and is acknowledged. A contribution that the
reduction does not take (none open, finalising, elements beyond its own, ARRIVAL without may_vary) or that a guarded region bars is
refused with its reason, and is neither applied nor counted. The end of finalisation, with room for the pages a snapshot must keep,
writes the target (where any contribution was present) and the presence word, and no other byte; the reduction is idle again and its
done tally is signalled. That errors of superaccumulators are kept by element, and that a presence word which would change a protected
bit is refused, is THE MODEL'S CHOICE (log 117). -/
def Obligations.ReductionsCollectAndFinish : Prop :=
  (∀ (s : State) (k rid first uid : Nat) (p : Packet) (vals : List Word) (present : Bool) (r : Reduction),
    Takes s k p → p.body = .contribution rid first vals present uid → tfind rid s.reds = some r → r.phase ≠ .finalising →
    redArrival r.desc = false → first + vals.length ≤ redElems r.desc →
    s.contributionBad p.ctx p.stream r first vals.length = none → r.badSum first vals.length = none →
    ∃ t r' q, exec (.contributionAtHome k .clean) s = .next t ∧ tfind rid t.reds = some r' ∧ r'.count = r.count + 1 ∧
      r'.present = r.present + (if present then 1 else 0) ∧
      r'.phase = (if rdNexp r.desc ≤ r.count + 1 then .finalising else .opened) ∧
      (∀ i (h : i < vals.length), tget {} (first + i) r'.sums = (tget {} (first + i) r.sums).add (f32 vals[i])) ∧
      (∀ j, (j < first ∨ first + vals.length ≤ j) → tget {} j r'.sums = tget {} j r.sums) ∧
      t.mem = s.mem ∧ t.net = s.net.eraseIdx k ++ [q] ∧ q.dst = p.src ∧ q.body = .ack uid) ∧
  (∀ (s : State) (k rid first uid : Nat) (p : Packet) (vals : List Word) (present : Bool) (r : Reduction),
    Takes s k p → p.body = .contribution rid first vals present uid → tfind rid s.reds = some r → r.phase ≠ .finalising →
    redArrival r.desc = true → p.mayVary = true → first + vals.length ≤ redElems r.desc →
    s.contributionBad p.ctx p.stream r first vals.length = none → s.reserveFor p.writer (s.contributionRanges p.body) = true →
    let a := redTarget r.desc + 4 * first
    s.changeBad p.writer a (4 * vals.length) = none →
    ∃ t r' q, exec (.contributionAtHome k .clean) s = .next t ∧ tfind rid t.reds = some r' ∧ r'.count = r.count + 1 ∧
      r'.present = r.present + (if present then 1 else 0) ∧
      r'.phase = (if rdNexp r.desc ≤ r.count + 1 then .finalising else .opened) ∧
      (∀ i (h : i < vals.length), t.loadBytes (a + 4 * i) 4 =
        natLE 4 (f32add (leWord (s.loadBytes (a + 4 * i) 4)) vals[i]).toNat) ∧
      (∀ b, (b < a ∨ a + 4 * vals.length ≤ b) → peek b t.mem = peek b s.mem) ∧
      t.net = s.net.eraseIdx k ++ [q] ∧ q.dst = p.src ∧ q.body = .ack uid) ∧
  (∀ (s : State) (k rid first uid : Nat) (p : Packet) (vals : List Word) (present : Bool) (why : Refused),
    Takes s k p → p.body = .contribution rid first vals present uid → s.reserveFor p.writer (s.contributionRanges p.body) = true →
    (redRefuses (tfind rid s.reds) first vals.length p.mayVary = 5 ∧ why = ⟨0x20, 0, 0⟩) ∨
      (redRefuses (tfind rid s.reds) first vals.length p.mayVary = 6 ∧ why = ⟨0x11, 0, detailPayload 0x21 25⟩) ∨
      (redRefuses (tfind rid s.reds) first vals.length p.mayVary = 0 ∧ ∃ r b, tfind rid s.reds = some r ∧
        s.contributionBad p.ctx p.stream r first vals.length = some b ∧ why = ⟨b.reason, b.address, b.detail⟩) →
    ∃ t q, exec (.contributionAtHome k .clean) s = .next t ∧ t.reds = s.reds ∧ t.mem = s.mem ∧
      t.net = s.net.eraseIdx k ++ [q] ∧ q.dst = p.src ∧ q.body = .refusal uid why) ∧
  (∀ (s : State) (rid : Nat) (r : Reduction), rid < 4096 → tfind rid s.reds = some r → r.phase = .finalising →
    s.serving = true → s.notResetting r.ctx = true → s.reserveFor { ctx := r.ctx } (redFinal r) = true →
    ∃ t q, exec (.reductionDone rid) s = .next t ∧ tfind rid t.reds = none ∧
      t.net = s.net ++ [q] ∧ q.dst = .die (rdDone r.desc % 8) ∧ (∃ cyc, q.body = .signal (rdDone r.desc) 1 0 cyc) ∧
      (∀ b, (b < redTarget r.desc ∨ redTarget r.desc + redBytes r.desc ≤ b) →
        (rdPwEn r.desc = true → b < rdPword r.desc ∨ rdPword r.desc + 4 ≤ b) → peek b t.mem = peek b s.mem) ∧
      (redArrival r.desc = false → 0 < r.present → r.badSum 0 (redElems r.desc) = none → s.badBlock (redTarget r.desc) (redBytes r.desc) = none → rdPwEn r.desc = false →
        t.loadBytes (redTarget r.desc) (redBytes r.desc) = (List.range (redElems r.desc)).flatMap fun i =>
          natLE (rdWidth r.desc) ((tget {} i r.sums).round (redBf16 r.desc))) ∧
      (rdPwEn r.desc = true → s.badBlock (rdPword r.desc) 4 = none →
        (let f : Finder := .command r.tile r.stream { reason := 0x50, unit := 2, tag := r.tag, chan := r.chan }
         let s1 := if redArrival r.desc = true ∨ r.present = 0 then s else s.writeTarget f { ctx := r.ctx } r
         s1.extentBadAt (rdPword r.desc) (natLE 4 ((if 0 < r.present then 1 else 0) + min r.present 0xFFFF * 65536)) = false) →
        t.loadNat (rdPword r.desc) 4 = (if 0 < r.present then 1 else 0) + min r.present 0xFFFF * 65536))

/-- The contributions of an EXACT reduction give the same superaccumulator, and so the same rounded result, in every order of
arrival; and the exact sum of a block of products is the same in every order. -/
def Obligations.ExactSumsIgnoreOrder : Prop :=
  (∀ (a : Super) (vs ws : List Machine.Num), vs.Perm ws →
    vs.foldl Super.add a = ws.foldl Super.add a ∧
    ∀ bf16, (vs.foldl Super.add a).round bf16 = (ws.foldl Super.add a).round bf16) ∧
  (∀ vs ws : List Machine.Num, vs.Perm ws → Num.sum vs = Num.sum ws)

/-- A request that a pool can serve is granted the lowest-numbered free buffer of its class, which is then taken with its last owner;
one that finds none waits, in order of arrival. A buffer put back by its last owner is free again and acknowledged, any other
put-back is refused with its reason. A grant that arrives makes its POOLGET ready with the handle and the offset. -/
def Obligations.PoolsGrantAndTakeBack : Prop :=
  ∀ (s : State) (k : Nat) (p : Packet), Takes s k p →
    let shared := isDie p.dst
    (∀ pool cls lastOwner, p.body = .poolGet pool cls lastOwner → let q := s.pool shared p.at pool
      q.waiting.all (fun r => r.cls ≠ cls) = true →
      (∀ i, q.free cls = some i → ∃ t g, exec (.poolRequestAtHome k) s = .next t ∧
        (t.pool shared p.at pool).taken = (cls, i, lastOwner) :: q.taken ∧ (t.pool shared p.at pool).waiting = q.waiting ∧
        (∀ j, j < i → q.taken.any (fun b => b.1 = cls && b.2.1 = j) = true) ∧
        t.net = s.net.eraseIdx k ++ [g] ∧ g.dst = .tile p.from ∧ g.entry = p.entry ∧
        g.body = .poolGrant (poolHandle shared p.at pool cls i) (poolOffset q.desc cls i) ∧ t.mem = s.mem) ∧
      (q.free cls = none → ∃ t, exec (.poolRequestAtHome k) s = .next t ∧ t.net = s.net.eraseIdx k ∧
        (t.pool shared p.at pool).taken = q.taken ∧
        (t.pool shared p.at pool).waiting = q.waiting ++ [⟨p.chan, p.tag, p.from, p.stream, p.entry, cls, lastOwner⟩])) ∧
    (∀ h, p.body = .poolPut h → let hd := handleOf h.toNat
      let q := s.pool hd.shared hd.tile hd.pool
      (∀ reason, s.putBad p hd = some reason → ∃ t g, exec (.poolRequestAtHome k) s = .next t ∧
        t.net = s.net.eraseIdx k ++ [g] ∧ g.dst = p.src ∧ g.body = .refusal p.entry ⟨reason, 0, 0⟩ ∧
        t.pool hd.shared hd.tile hd.pool = q) ∧
      (s.putBad p hd = none → q.waiting.all (fun r => r.cls ≠ hd.cls) = true → ∃ t g, exec (.poolRequestAtHome k) s = .next t ∧
        (t.pool hd.shared hd.tile hd.pool).taken = q.taken.filter (fun b => !(b.1 = hd.cls && b.2.1 = hd.index)) ∧
        t.net = s.net.eraseIdx k ++ [g] ∧ g.dst = p.src ∧ g.body = .ack p.entry)) ∧
    (∀ handle off n x, p.body = .poolGrant handle off → p.dst = .tile n →
      ((s.queue n .pool p.stream).entries.find? fun x => x.uid = p.entry) = some x →
      exec (.poolGrantArrive k) s = .next ((s.consume k).setEntry n .pool p.stream { x with granted := true, answer := [handle, off] }))

/-- A reply with data completes the piece that asked for it, an acknowledgement ends the write's hold on fences, an answer brings an
atomic's old value to its command or a reservation's place to the WLPUT, and a refusal, of a request or of a signal to another tile,
halts the stream with its reason. -/
def Obligations.RepliesReachTheirCommand : Prop :=
  ∀ (s : State) (k n : Nat) (p : Packet), Takes s k p → p.dst = .tile n →
    (∀ uid bytes, p.body = .data uid bytes → exec (.replyArrive k) s = .next ((s.consume k).dataFor n p.stream uid bytes)) ∧
    (∀ uid, p.body = .ack uid → exec (.replyArrive k) s = .next ((s.consume k).ackFor n p.stream uid) ∧
      (((s.consume k).repaid n uid).tile n).unacked = (s.tile n).unacked.filter fun u => u.uid != uid) ∧
    (∀ uid nums e x, p.body = .answer uid nums → s.awaiter n p.stream uid = some (e, x) →
      exec (.replyArrive k) s = .next ((((s.consume k).setEntry n e p.stream { x with
        awaits := x.awaits.filter (· != uid)
        effects := x.effects ++ (match nums with | v :: _ => atomSums x v | [] => []) }).pumpTile n).progressed n
          (watchedQueue e p.stream))) ∧
    (∀ uid nums e x, p.body = .answer uid nums → s.awaiter n p.stream uid = none → s.findEntry n p.stream p.entry = some (e, x) →
      exec (.replyArrive k) s = .next ((s.consume k).setEntry n e p.stream { x with granted := true, answer := nums })) ∧
    (∀ uid why, p.body = .refusal uid why → 
      let h : Halt := ⟨why.reason, p.engine, p.tag, p.chan, why.address, why.detail⟩
      exec (.refusalArrive k) s = .next (((s.consume k).acked n uid).halt n p.stream h) ∧
      ((s.thread n p.stream).run ≠ .halt → why.reason < 256 → recordValid ((s.tile n).records.get p.stream) = false →
        (∀ st, (s.tile n).runs.get st = none) → let t := ((s.consume k).acked n uid).halt n p.stream h
        (t.thread n p.stream).run = .halt ∧ recordReason ((t.tile n).records.get p.stream) = why.reason ∧ t.mem = s.mem)) ∧
    (∀ why, p.body = .signalRefusal why → exec (.refusalArrive k) s =
      .next ((s.consume k).halt n p.stream ⟨why.reason, p.engine, p.tag, p.chan, why.address, why.detail⟩))

/-- A signal of n taken at a tally's home adds n to its value, which saturates, then releases every waiter whose bound the value has
reached and serves claims in order, each taking its amount; a registration is released at once where its bound holds and no
earlier claim stands before it, and stands registered otherwise; a set replaces the value of a tally with nothing registered and is
refused otherwise. A TSIG from another tile is applied where the remote bit allows it, and refused with 0x20 otherwise. -/
def Obligations.TalliesCountAndRelease : Prop :=
  (∀ (s : State) (k : Nat) (p : Packet), Takes s k p →
    (∀ g n src cyc, p.body = .signal g n src cyc → exec (.tallySignalAtHome k) s =
      .next ((s.consume k).signalAt p.dst g n ⟨src, streamNo p.stream, originOf p, p.tag, cyc, n⟩)) ∧
    (∀ g n cyc m, p.body = .remoteSignal g n cyc → p.dst = .tile m →
      ((s.tally m g).remote = true ∨ p.src = p.dst) → exec (.remoteSignalAtTile k) s =
      .next ((s.consume k).signalAt p.dst g n ⟨0, streamNo p.stream, p.from, p.tag, cyc, n⟩)) ∧
    (∀ g n cyc m, p.body = .remoteSignal g n cyc → p.dst = .tile m → (s.tally m g).remote = false → p.src ≠ p.dst →
      exec (.remoteSignalAtTile k) s = .next ((s.consume k).reply p (.signalRefusal ⟨0x20, 0, detailTally 1 g⟩))) ∧
    (∀ g kind v may, p.body = .register g kind v may →
      let w : Waiter := ⟨kind, p.stream, p.engine, p.from, p.tag, v, p.entry, may⟩
      let r := (s.tallyAt p.dst g).register w
      ∃ t, exec (.tallyRegistrationAtHome k) s = .next t ∧ t.tallyAt p.dst g = r.1 ∧ t.mem = s.mem ∧
        (r.2 = [] → t.net = s.net.eraseIdx k) ∧
        (r.2 = [w] → ∃ q, t.net = s.net.eraseIdx k ++ [q] ∧ q.dst = .tile p.from ∧ q.entry = p.entry ∧ q.body = .release kind)) ∧
    (∀ g v remote, p.body = .set g v remote → let u := s.tallyAt p.dst g
      ∃ t q, exec (.tallySetAtHome k) s = .next t ∧ t.net = s.net.eraseIdx k ++ [q] ∧ q.dst = p.src ∧
        (u.waits = [] → u.claims = [] → (t.tallyAt p.dst g).value = v ∧ (isTile p.dst = true → (t.tallyAt p.dst g).remote = remote)) ∧
        (u.waits ≠ [] ∨ u.claims ≠ [] → t.tallyAt p.dst g = u) ∧
        (∃ loc, q.body = .setAnswer (!u.waits.isEmpty || !u.claims.isEmpty) g loc))) ∧
  (∀ (t : Tally) (n : Nat) (by' : LastSignal), let r := t.signal n by'
    let v := min 0xFFFFFFFF (t.value + n)
    r.1.waits = t.waits.filter (fun w => !decide (w.v ≤ v)) ∧ (r.1.overflow = true ↔ t.overflow = true ∨ 0xFFFFFFFF < t.value + n) ∧
    (∃ served, t.claims = served ++ r.1.claims ∧ r.2 = t.waits.filter (fun w => decide (w.v ≤ v)) ++ served ∧
      r.1.value + (served.map (·.v)).sum = v ∧ (∀ c rest, r.1.claims = c :: rest → r.1.value < c.v))) ∧
  (∀ (t : Tally) (w : Waiter), let r := t.register w
    (w.kind = .tclaim → (r = ({ t with value := t.value - w.v }, [w]) ∧ t.claims = [] ∧ w.v ≤ t.value) ∨
      (r = ({ t with claims := t.claims ++ [w] }, []) ∧ (t.claims ≠ [] ∨ t.value < w.v))) ∧
    (w.kind ≠ .tclaim → r = if w.v ≤ t.value then (t, [w]) else ({ t with waits := t.waits ++ [w] }, [])))

/-- A release makes the TWAIT or TCLAIM it names ready, and retires a waiting CTWAIT; a TSET's answer lets it complete, with a
refusal that comes into force as it does. -/
def Obligations.ReleasesReachTheWaiter : Prop :=
  ∀ (s : State) (k n : Nat) (p : Packet), Takes s k p → p.dst = .tile n →
    (∀ kind e x, kind ≠ .ctwait → p.body = .release kind → s.findEntry n p.stream p.entry = some (e, x) →
      exec (.tallyReleaseArrive k) s = .next ((s.consume k).setEntry n e p.stream { x with granted := true })) ∧
    (∀ a b len, p.body = .release .ctwait → WaitsAt s n p.stream .ctwait (.ctwait a b) len → (s.thread n p.stream).waitUid = p.entry →
      ∃ t, exec (.tallyReleaseArrive k) s = .next t ∧ t.net = s.net.eraseIdx k ∧
        t.thread n p.stream = { s.thread n p.stream with
          run := .run, waitAt := none, released := false, fresh := false, pc := s.pcAfter n p.stream len }) ∧
    (∀ refused g loc x, p.body = .setAnswer refused g loc →
      ((s.queue n .tally p.stream).entries.find? fun x => x.uid = p.entry) = some x →
      exec (.tsetAnswerArrive k) s = .next (((s.consume k).setEntry n .tally p.stream { x with
        awaits := [], failing := if refused then some (0x20, 0, detailTally loc g) else none }).progressed n
          (watchedQueue .tally p.stream)))

/-- An arrival counts for its round; where it makes every participant complete, the oldest open round closes: its number goes up by
one, a close goes to every tile of every participant, and the close tally is signalled where asked. Where the next round is complete
too it closes next. A close that arrives counts at its tile. -/
def Obligations.HuddlesCloseRounds : Prop :=
  (∀ (s : State) (k hid team round : Nat) (p : Packet) (h : Huddle), Takes s k p → p.body = .arrive hid team round →
    s.huddle hid = some h → let h1 := s.recount { h with arrivals := (team, p.from, round) :: h.arrivals }
    ((hdArrC h1.desc = hdParts h1.desc ∧ h.again = false) →
      exec (.huddleArrivalAtHome k) s = .next ((s.consume k).closeRound hid h1)) ∧
    (¬(hdArrC h1.desc = hdParts h1.desc ∧ h.again = false) → ∃ t, exec (.huddleArrivalAtHome k) s = .next t ∧
      t.huddle hid = some h1 ∧ t.net = s.net.eraseIdx k ∧ t.mem = s.mem ∧ ∀ j, j ≠ hid → t.huddle j = s.huddle j)) ∧
  (∀ (s : State) (hid : Nat) (h : Huddle), hid < 1024 → s.huddle hid = some h → s.serving = true → s.notResetting (hdCtx h.desc) = true → h.again = true →
    exec (.huddleNextRoundClose hid) s = .next (s.closeRound hid h)) ∧
  (∀ (s : State) (hid : Nat) (h : Huddle), hdKind h.desc = 1 → let t := s.closeRound hid h
    ∃ h' l, t.huddle hid = some h' ∧ hdRound h'.desc = (hdRound h.desc + 1) % 65536 ∧ hdArrC h'.desc = hdArrN h.desc ∧
      hdArrN h'.desc = 0 ∧ hdParts h'.desc = hdParts h.desc ∧ (h'.again = true ↔ hdArrN h.desc = hdParts h.desc) ∧ t.net = s.net ++ l ∧
      (∀ m ∈ s.members (hdGroup h.desc), ∀ n ∈ s.teamTiles m, ∃ q ∈ l, q.dst = .tile n ∧ q.entry = m ∧
        q.body = .close hid (hdRound h.desc)) ∧
      ((∃ q ∈ l, q.dst = .die (hdCloseTally h.desc % 8)) ↔ hdCloseEn h.desc = true)) ∧
  (∀ (s : State) (k n hid round : Nat) (p : Packet), Takes s k p → p.dst = .tile n → p.body = .close hid round →
    ∃ t, exec (.huddleCloseArrive k) s = .next t ∧ t.net = s.net.eraseIdx k ∧
      let key := 4096 * hid + p.entry
      (tget {} key (t.tile n).arrivals).closes = (tget {} key (s.tile n).arrivals).closes + 1 ∧
      (tget {} key (t.tile n).arrivals).made = (tget {} key (s.tile n).arrivals).made)

/-- The oldest team command of a dispatch queue, for a team of the context that is not blocked, is sent once to every tile of the team;
a member takes it into the queue of its engine and stream where there is room; the last member's completion signals the team's done
tally once, and an earlier one only leaves one member fewer. -/
def Obligations.TeamCommandsReachEveryMember : Prop :=
  (∀ (s : State) (n : Nat) (st : Stream) (x : Entry) (rest : List Dispatch), n < 2048 → s.streamRuns n st = true →
    (s.tile n).dispatch.get st = { entry := x, left := none } :: rest → x.ctx = s.owner n → s.teamOf (s.owner n) (wTeamId x.word) = true →
    s.teamBlocked (wTeamId x.word) = false →
    ∃ t l, exec (.teamDispatch n st) s = .next t ∧ t.net = s.net ++ l ∧
      l.map (·.dst) = (s.teamTiles (wTeamId x.word)).map .tile ∧
      (∀ q ∈ l, ∃ c, q.body = .deliver x.word x.s0 x.s1 x.skip c ∧ q.src = .tile n ∧ q.chan = x.chan) ∧
      (t.tile n).dispatch.get st = { entry := x, left := some (s.teamTiles (wTeamId x.word)) } :: rest ∧ t.mem = s.mem) ∧
  (∀ (s : State) (k m n : Nat) (p : Packet) (w : BitVec 128) (a b : Word) (skip : Bool) (cmd : Nat), Takes s k p →
    p.dst = .tile m → p.src = .tile n → p.body = .deliver w a b skip cmd →
    let e := engineOf (wEngine w)
    let st := streamOf (wStream w)
    (s.queue m e st).entries.length < 512 → ∃ t, exec (.teamDelivery k) s = .next t ∧ t.net = s.net.eraseIdx k ∧
      (t.queue m e st).entries = (s.queue m e st).entries ++
        [{ uid := s.nextUid, word := w, s0 := a, s1 := b, chan := p.chan, skip := skip, ctx := p.ctx, teamCmd := some cmd }] ∧ t.mem = s.mem) ∧
  (∀ (s : State) (k cmd : Nat) (p : Packet) (c : TeamCmd), Takes s k p → p.body = .memberDone cmd → tfind cmd s.teamCmds = some c →
    let left := c.left.erase p.from
    (left ≠ [] → ∃ t, exec (.teamMemberCompletion k) s = .next t ∧ tfind cmd t.teamCmds = some { c with left := left } ∧
      t.net = s.net.eraseIdx k) ∧
    (left = [] → ∃ t q, exec (.teamMemberCompletion k) s = .next t ∧ tfind cmd t.teamCmds = none ∧
      t.net = s.net.eraseIdx k ++ [q] ∧ q.dst = .die (teamDone (s.team c.team) % 8) ∧
      ∃ cyc, q.body = .signal (teamDone (s.team c.team)) 1 1 cyc))

/-- WLOPEN, WLPUT, WLRUN and WLCLOSE issue where nothing holds them back. At the leader a reservation for a list that is not closed, or a
request for the next item, joins those that wait and the list is served; a reservation for a closed list, or for none, is refused. An
item that arrives joins those taken, the first not begun is begun and the tile asks on; the leader's word that none will come ends the
asking. A finished item's rows are written, with room for the pages a snapshot must keep, and once every write is acknowledged its done
tally is signalled and the run goes on. THE MODEL'S READINGS: a closed list is found as the reservation arrives (log 62, DESIGN
CHOICE), a tile asks on whenever fewer commands wait than its threshold, one item at a time (log 63), an item's writes are fenced
before its signal (log 65) and its digest is of the list's sequence (log 31). -/
def Obligations.WorkListsServeItems : Prop :=
  (∀ (s : State) (n : Nat) (st : Stream) (x : Entry) (ahead : List Entry),
    ∀ i ∈ [(Instr.wlopen n st, 0x08, cmdWlopen), (.wlput n st, 0x09, cmdWlput), (.wlrun n st, 0x0A, cmdWlrun),
        (.wlclose n st, 0x0B, cmdWlclose)],
      Issues s n .matrix i.2.1 i.2.2 st x ahead → exec i.1 s = .next (s.afterIssue n .matrix i.2.2 st x)) ∧
  (∀ (s : State) (k n : Nat) (p : Packet), Takes s k p → p.dst = .tile n → let u := s.consume k
    (∀ team list items w, p.body = .reserve team list items → tfind (4 * team + list) (s.tile n).lists = some w → w.closed = false →
      exec (.workListReservation k) s = .next ((u.setList n (4 * team + list) { w with
        waiting := w.waiting ++ [⟨p.from, p.stream, p.entry, p.chan, p.tag, items⟩] }).serveList n (4 * team + list))) ∧
    (∀ team list items, p.body = .reserve team list items →
      (∀ w, tfind (4 * team + list) (s.tile n).lists = some w → w.closed = true) →
      exec (.workListReservation k) s = .next (u.reply p (.refusal 0 ⟨0x20, 0, 0⟩))) ∧
    (∀ team list w, p.body = .itemAsk team list → tfind (4 * team + list) (s.tile n).lists = some w →
      exec (.itemRequest k) s = .next ((u.setList n (4 * team + list) { w with
        asking := w.asking ++ [⟨p.from, p.stream, p.entry, p.chan, p.tag, 1⟩] }).serveList n (4 * team + list))) ∧
    (∀ team list place w r, p.body = .item team list place (some w) → (s.tile n).runs.get p.stream = some r →
      let i : Item := { uid := s.nextUid, word := w, place := place, blocks := itM w.toNat * outCols w.toNat }
      exec (.itemArrive k) s = .next ((((u.fresh.2.setRun n p.stream { r with asking := false, items := r.items ++ [i] }).startItem n
        p.stream).askItem n p.stream).progressed n (watchedQueue .matrix p.stream))) ∧
    (∀ team list place r, p.body = .item team list place none → (s.tile n).runs.get p.stream = some r →
      exec (.itemArrive k) s = .next (u.setRun n p.stream { r with asking := false, ended := true }))) ∧
  (∀ (s : State) (n : Nat) (st : Stream) (r : ListRun) (i : Item) (rest : List Item), n < 2048 → s.streamRuns n st = true →
    (s.tile n).runs.get st = some r → r.items = i :: rest → i.loaded = true → i.blocks ≤ i.drained → s.itemRoom n st = true →
    let x := i.asEntry (s.runChan n st r) (s.owner n)
    let rows := s.itemOutput n i
    (i.written = false → s.reserveFor (writerOf s n st) (rows.map fun q => ⟨q.1, q.2.length⟩) = true →
      (∀ q ∈ rows, s.extentBadAt q.1 q.2 = false) → exec (.itemComplete n st) s =
      .next (rows.foldl (fun u q => u.storeTo n .mover st x s.deviceNumber q.1 q.2)
        (s.setRun n st { r with items := { i with written := true } :: rest }))) ∧
    (i.written = true → s.writesOwed n (fun _ e _ => e = i.uid) = false → s.fenced n st r.entry 2 = true →
      ∃ t l, exec (.itemComplete n st) s = .next t ∧
        t = ((((l.setRun n st { r with items := rest }).progressed n (watchedQueue .matrix st)).startItem n st).askItem n st) ∧
        l = (s.signalFrom n .matrix st x 2 (itDone i.word.toNat) 0 1).lockItem st r i x.chan
          (rows.map fun q => (s.deviceNumber, q.1, q.2)) ∧
        ∃ q cyc, l.net = s.net ++ [q] ∧ q.dst = .die (itDone i.word.toNat % 8) ∧ q.body = .signal (itDone i.word.toNat) 1 0 cyc))

/-- A routed row for the batch its replica stands in lands in its slot with its token tag beside it and counts as arrived; its close is
recorded; a returned row for the batch of its layer lands at its place in the return buffer. Bytes outside those do not change, and the
tile that sent the row has its acknowledgement. A member's RWGET registers at its replica's leader, starts with the first row, and has
nothing to fetch where the batch closed empty. A row, a close or a returned row for another batch, or for no replica, counts as
misrouted and changes no memory; that the counter stops at its largest value is read by inference (log 87, DEDUCED). -/
def Obligations.RoutedRowsLand : Prop :=
  ∀ (s : State) (k n : Nat) (p : Packet), Takes s k p → p.dst = .tile n →
    (∀ slot ex rep back batch place tag bytes r desc, p.body = .row slot ex rep back batch place tag bytes →
      s.replicaState n slot ex rep back = some r → (s.layer n slot).desc = some desc →
      let e := s.repl n desc.toNat ex rep
      let off := reSlots e back + place * bytes.length
      s.reserveFor p.writer (s.landRanges p) = true →
      (r.batch = batch → s.landBad p off bytes = none → s.landBad p (reTags e + 4 * place) (natLE 4 tag) = none →
        s.landErr p.writer (tileBase n + off) bytes = none →
        s.landErr p.writer (tileBase n + reTags e + 4 * place) (natLE 4 tag) = none →
        (reTags e + 4 * place + 4 ≤ off ∨ off + bytes.length ≤ reTags e + 4 * place) →
        ∃ t, exec (.routeRowArrive k) s = .next t ∧ t.loadBytes (tileBase n + off) bytes.length = bytes ∧
          t.loadBytes (tileBase n + reTags e + 4 * place) 4 = natLE 4 tag ∧
          (∀ b, (b < tileBase n + off ∨ tileBase n + off + bytes.length ≤ b) →
            (b < tileBase n + reTags e + 4 * place ∨ tileBase n + reTags e + 4 * place + 4 ≤ b) → peek b t.mem = peek b s.mem) ∧
          (∃ r', t.replicaState n slot ex rep back = some r' ∧ r'.rows = r.rows ++ [place] ∧ r'.closes = r.closes) ∧
          ∃ q ∈ t.net, q.dst = p.src ∧ q.body = .ack p.uid) ∧
      (r.batch ≠ batch → ∃ t, exec (.routeRowArrive k) s = .next t ∧
        (t.tile n).misroutes = satAdd 32 (s.tile n).misroutes 1 ∧ t.mem = s.mem)) ∧
    (let misrouted (i : Instr) : Prop := ∃ t, exec i s = .next t ∧
        (t.tile n).misroutes = satAdd 32 (s.tile n).misroutes 1 ∧ t.mem = s.mem;
      (∀ slot ex rep back batch place tag bytes, p.body = .row slot ex rep back batch place tag bytes →
        s.replicaState n slot ex rep back = none → s.reserveFor p.writer (s.landRanges p) = true → misrouted (.routeRowArrive k)) ∧
      (∀ slot ex rep back batch round count, p.body = .rowClose slot ex rep back batch round count →
        (∀ r, s.replicaState n slot ex rep back = some r → r.batch ≠ batch) → misrouted (.routeCloseArrive k)) ∧
      (∀ slot back batch tag key bytes, p.body = .returned slot back batch tag key bytes →
        s.reserveFor p.writer (s.landRanges p) = true → ((s.layer n slot).desc = none ∨
          (if back then (s.layer n slot).batchBack else (s.layer n slot).batch) ≠ batch) → misrouted (.returnRowArrive k))) ∧
    (∀ slot ex rep back batch round count r, p.body = .rowClose slot ex rep back batch round count →
      s.replicaState n slot ex rep back = some r → r.batch = batch →
      exec (.routeCloseArrive k) s = .next ((s.consume k).setReplica n { r with closes := r.closes ++ [(p.from, round, count)] })) ∧
    (∀ slot back batch tag key bytes desc, p.body = .returned slot back batch tag key bytes → (s.layer n slot).desc = some desc →
      (if back then (s.layer n slot).batchBack else (s.layer n slot).batch) = batch →
      let off := returnAt desc.toNat back (key / 8) (key % 8)
      s.reserveFor p.writer (s.landRanges p) = true → s.landBad p off bytes = none →
      s.landErr p.writer (tileBase n + off) bytes = none →
      ∃ t, exec (.returnRowArrive k) s = .next t ∧ t.loadBytes (tileBase n + off) bytes.length = bytes ∧
        (∀ b, (b < tileBase n + off ∨ tileBase n + off + bytes.length ≤ b) → peek b t.mem = peek b s.mem) ∧
        (if back then (t.layer n slot).returnedBack.contains key else (t.layer n slot).returned.contains key) = true ∧
        ∃ q ∈ t.net, q.dst = p.src ∧ q.body = .ack p.uid) ∧
    (∀ slot ex rep start r, p.body = .rwRegister slot ex rep start → s.replicaState n slot ex rep false = some r →
      let f : Fetcher := ⟨p.from, p.stream, p.entry, p.chan, p.tag⟩
      exec (.rwgetRegistration k) s = .next (
        if (r.packing && r.n = 0) = true then (s.consume k).rwAnswer n true f
        else if start then (s.consume k).setReplica n { r with started := r.started ++ [f] }
        else if r.rows.isEmpty then (s.consume k).setReplica n { r with waiting := r.waiting ++ [f] }
        else ((s.consume k).setReplica n { r with started := r.started ++ [f] }).rwAnswer n false f)) ∧
    (∀ e x, p.body = .rwStart false → s.findEntry n p.stream p.entry = some (e, x) → rwPhase x = 0 →
      exec (.rwgetStart k) s = .next (((s.consume k).rwBegin n p.stream x).progressed n (watchedQueue e p.stream))) ∧
    (∀ e x, p.body = .rwStart true → s.findEntry n p.stream p.entry = some (e, x) →
      exec (.rwgetStart k) s = .next (((s.consume k).setEntry n e p.stream { x with
        progress := [2], pieces := x.pieces.map fun q => if q.sent then q else { q with sent := true, data := some [] } }).progressed n
          (watchedQueue e p.stream)))

/-- A snapshot whose members have all completed ships its next page: the page as it was kept, or as it stands, with no block of it
uncorrectable. After the last page comes
the end record, and once nothing is open its done tally is signalled and the snapshot ends. Patrol scrub of a channel in use reads the
block at its place and moves on by one, round the channel's end; a clean block changes nothing else. -/
def Obligations.SnapshotsShipAndScrubWalks : Prop :=
  (∀ (s : State) (team : Nat) (sn : Snap), team < 4096 → tfind team s.snaps = some sn → let leader := teamLeader (s.team team)
    s.alive leader = true → s.notResetting sn.ctx = true → (s.teamTiles team).all sn.done.contains = true →
    (∀ p, (snapPages sn)[sn.shipped]? = some p → let bytes := (tfind p sn.preserved).getD (s.loadBytes (p * 4096) 4096)
      (tfind p sn.preserved = none → s.badBlock (p * 4096) 4096 = none) → ∃ t sn', exec (.snapShip team) s = .next t ∧ tfind team t.snaps = some sn' ∧ sn'.shipped = sn.shipped + 1 ∧
        sn'.bytes = sn.bytes ++ bytes ∧ tfind p sn'.preserved = none ∧
        (snKind sn.desc.toNat = 0 → t.sent = .hostWrite (s.ctx sn.ctx).function (snDest sn.desc.toNat + 4096 * sn.shipped) bytes :: s.sent)) ∧
    ((snapPages sn)[sn.shipped]? = none → sn.ended = false → ∃ t sn', exec (.snapShip team) s = .next t ∧
      tfind team t.snaps = some sn' ∧ sn'.ended = true ∧
      (snKind sn.desc.toNat = 0 →
        t.sent = .hostWrite (s.ctx sn.ctx).function (snDest sn.desc.toNat + 4096 * sn.shipped) (endRecord sn) :: s.sent)) ∧
    ((snapPages sn)[sn.shipped]? = none → sn.ended = true → s.shipOpen leader sn = false →
      ∃ t q, exec (.snapShip team) s = .next t ∧ tfind team t.snaps = none ∧ t.net = s.net ++ [q] ∧ t.mem = s.mem ∧
        q.dst = .die (bits sn.desc.toNat 429 414 % 8) ∧ ∃ cyc, q.body = .signal (bits sn.desc.toNat 429 414) 1 0 cyc)) ∧
  (∀ (s : State) (die channel k : Nat) (far : Bool), die < 8 → channel < 16 → s.serving = true →
    (s.usedChannels die far).findIdx? (· = channel) = some k →
    let key := 16 * (2 * die + b2n far) + channel
    s.badBlock (channelAddr far die (s.usedChannels die far).length k (64 * tget 0 key s.scrubAt)) 64 = none →
    exec (.patrolScrub die far channel .clean) s =
      .next { s with scrubAt := tset key ((tget 0 key s.scrubAt + 1) % (channelBytes far / 64)) s.scrubAt })

/-! ## Faults, hangs, resets and dumps -/

/-- A hardware fault of a serving tile quarantines it, takes it out of service, halts its threads where it has a context and marks
every team over it; no memory and no other tile changes. A fired checker of a cache or port die is the device fault: it is recorded
with its die and cause, over any recorded before (log 99, DEDUCED), and every live context is stopped. A seam counts the repeats of a transfer, its 16th raises the flag and the
count of repeats in its record, and its 1024th marks it failed and is a device fault. A record of class 1 or 2 that the network
drops leaves its loss in the gaps. -/
def Obligations.FaultsAreRecordedAndStop : Prop :=
  ∀ s : State,
    (∀ n cause, n < 2048 → cause < 4 → s.alive n = true → ∃ t, exec (.tileHardwareFault n cause) s = .next t ∧
      (t.tile n).faulty = true ∧ n ∈ t.trouble.outOfService ∧ (∀ m, m ≠ n → t.tile m = s.tile m) ∧ t.mem = s.mem ∧
      (∀ k ∈ s.teamsOver n, (tget 0 k t.teams).getLsbD 125 = true) ∧
      (s.owned n = true → ∀ st, (t.thread n st).run = .halt ∧ recordValid ((t.tile n).records.get st) = true ∧
        (recordValid ((s.tile n).records.get st) = false → recordReason ((t.tile n).records.get st) = 0x51))) ∧
    (∀ die, 16 ≤ die → die < 28 → s.serving = true → ∃ t, exec (.dieCheckerFire die) s = .next t ∧ t.trouble.faulted = true ∧
      bits t.trouble.deviceFault.toNat 127 127 = 1 ∧ bits t.trouble.deviceFault.toNat 126 122 = die ∧
      bits t.trouble.deviceFault.toNat 115 108 = (if die < 24 then 0x02 else 0x03) ∧ t.mem = s.mem ∧
      ∀ c, c ∈ s.ctxs.map (·.1) → c ≠ 0 → (s.ctx c).state = 1 → (t.ctx c).state = 2) ∧
    (∀ seam dir, seam < 52 → dir < 2 → s.serving = true → let k := s.seamRepeats seam dir + 1
      (k < 1024 → k ≠ 16 → exec (.seamTransferError seam dir) s = .next (s.setRepeats seam dir k)) ∧
      (k = 16 → ∃ t, exec (.seamRepeatAlarm seam dir) s = .next t ∧ t.seamRepeats seam dir = 16 ∧
        (t.seamRecord seam).getLsbD 254 = true ∧
        bits (t.seamRecord seam).toNat 239 224 = min 0xFFFF (bits (s.seamRecord seam).toNat 239 224 + 1) ∧
        t.mem = s.mem ∧ t.tiles = s.tiles) ∧
      (k = 1024 → ∃ t, exec (.seamFailed seam dir) s = .next t ∧ (t.seamRecord seam).getLsbD 255 = true ∧
        t.trouble.faulted = true ∧ bits t.trouble.deviceFault.toNat 121 116 = seam ∧
        bits t.trouble.deviceFault.toNat 115 108 = 0x01)) ∧
    (∀ source cls r, source < 0x1000 → cls = 1 ∨ cls = 2 →
      s.trouble.transit.find? (fun r => r.source = source && r.cls = cls && r.device = s.deviceNumber) = some r →
      exec (.logHopDrop source cls) s =
        .next { s with trouble := { s.trouble with transit := s.trouble.transit.erase r, gaps := addGap r s.trouble.gaps } })

/-- A tile whose live streams are all blocked on their own tallies writes its deadlock report and halts every blocked stream with
0x43. A whistle that is owed progress and has reached its limit halts its stream with 0x44, counts, and, where bit 0 of the context's
fail action is set, halts every stream of the context and stops it. Where back-pressure has kept a whistle below its limit though its own
last progress lies further back, a warning is sent once, to the trace network, and changes no thread, queue or memory. -/
def Obligations.HangsAreReported : Prop :=
  ∀ (s : State) (n : Nat), n < 2048 →
    (∀ bs, s.alive n = true → s.notResetting (s.owner n) = true → s.deadlockEntries n = some bs →
      ∃ t, exec (.localDeadlock n) s = .next t ∧ t.mem = s.mem ∧ (∀ m, m ≠ n → t.tile m = s.tile m) ∧
        (t.tile n).deadlock.length = 16 + 16 * bs.length ∧
        ∀ b ∈ bs, (t.thread n b.stream).run = .halt ∧ recordValid ((t.tile n).records.get b.stream) = true ∧
          (recordValid ((s.tile n).records.get b.stream) = false →
            recordReason ((t.tile n).records.get b.stream) = 0x43)) ∧
    (∀ u, u < 24 → s.owed n u = true → (s.ctx (s.owner n)).whistleLimit ≤ (s.whistle n u).count → let c := s.owner n
      ∃ t, exec (.whistleFire n u) s = .next t ∧ (t.thread n (unitStream u)).run = .halt ∧
        (recordValid ((s.tile n).records.get (unitStream u)) = false →
          recordReason ((t.tile n).records.get (unitStream u)) = 0x44) ∧
        (t.tile n).whistleFires = satAdd 32 (s.tile n).whistleFires 1 ∧ t.mem = s.mem ∧
        ((s.ctx c).failAction.testBit 0 = true → (t.ctx c).state = 2 ∧ ∀ m ∈ s.ctxTiles c, ∀ st, (t.thread m st).run = .halt) ∧
        ((s.ctx c).failAction.testBit 0 = false → (t.ctx c).state = 1 ∧ ∀ m, m ≠ n → t.tile m = s.tile m)) ∧
    (∀ u, u < 24 → s.owed n u = true → u ∉ (s.tile n).warned →
      (s.ctx (s.owner n)).whistleLimit < (s.whistle n u).own → (s.whistle n u).count < (s.ctx (s.owner n)).whistleLimit →
      ∃ t r, exec (.whistleWarning n u) s = .next t ∧ t.trouble.transit = s.trouble.transit ++ [r] ∧
        r.cls = 1 ∧ r.kind = 0x21 ∧ r.source = n ∧ r.ctx = s.owner n ∧
        t.tile n = { s.tile n with warned := u :: (s.tile n).warned } ∧ (∀ m, m ≠ n → t.tile m = s.tile m) ∧
        exec (.whistleWarning n u) t = .next t ∧ Same ({ tiles := true, trouble := true } : Parts).others s t)

/-- R78 whole, with the course of a reset (13 R402, R405): a reset that may begin puts the context into RESETTING under a new epoch
and takes its channels; it completes when every device asked has answered, or the time for the answers has passed, and then on every
tile of the context cur_bank of all three threads is target_bank, every thread is in PARK with its registers 0, every queue is
empty, and data memory and banks are as they were. A reset that was asked for with a destruction leaves no context, no team and no
huddle of it and its snapshot reserve free (14 R457). Where a restart waits for the last context to go, its bring-up begins at that
completion. A tile or die that does not quiesce in time is a hardware fault or a device fault. -/
def Obligations.ContextResetParksEveryThread : Prop :=
  ∀ (s : State) (c : Nat), c < 256 →
    (s.mayReset c = true → ∃ t, exec (.contextReset c) s = .next t ∧ (t.ctx c).state = 4 ∧
      (t.ctx c).epoch = ((s.ctx c).epoch + 1) % 256 ∧ (t.ctx c).waiting = [] ∧
      (∀ h, (tget {} h t.chans).live ≠ some c) ∧ ∀ d, d ≠ c → t.ctx d = s.ctx d) ∧
    (∀ r, (s.ctx c).resetting = some r → (s.ctx c).state = 4 → r.awaited = [] → c ≠ 0 →
      let others : Prop := ∃ e ∈ s.ctxs, e.1 ≠ 0 ∧ e.1 ≠ c ∧ e.2.state ≠ 0
      let cleared (t : State) : Prop := (t.ctx c).resetting = none ∧
        ∀ n ∈ s.ctxTiles c, (∀ st, let th := t.thread n st
            th.bank = (s.tile n).targetBank ∧ th.run = .park ∧ (∀ j, th.reg j = 0#32) ∧ th.preds = 0 ∧ th.sums = []) ∧
          (∀ e st, (t.queue n e st).entries = []) ∧ (t.tile n).targetBank = (s.tile n).targetBank ∧
          (t.tile n).dmem = (s.tile n).dmem ∧ (t.tile n).imem0 = (s.tile n).imem0 ∧ (t.tile n).imem1 = (s.tile n).imem1
      (r.destroy = false → ∃ t, exec (.quiesceComplete c) s = .next t ∧ (t.ctx c).state = 1 ∧ cleared t) ∧
      (r.destroy = true → s.power.restart = 0 ∨ others → ∃ t, exec (.quiesceComplete c) s = .next t ∧ (t.ctx c).state = 0 ∧
        cleared t ∧ (t.ctx c).reservePages = 0 ∧ (∀ e ∈ t.huddles, hdCtx e.2.desc ≠ c) ∧ (∀ e ∈ t.teams, teamIs c e = false)) ∧
      (r.destroy = true → s.power.restart ≠ 0 → ¬others → ∃ t, exec (.quiesceComplete c) s = .next t ∧ t.power.state = 1 ∧
        t.power.phase = (if s.power.restart = 3 then 1 else 2) ∧ t.power.restart = 0 ∧ t.teams = [] ∧ t.chans = [] ∧
        ∀ d, (t.ctx d).state = 0)) ∧
    (∀ r, (s.ctx c).resetting = some r → ∃ t r', exec (.epochAckTimeout c) s = .next t ∧
      (t.ctx c).resetting = some r' ∧ r'.awaited = [] ∧ r'.destroy = r.destroy ∧ (t.ctx c).state = (s.ctx c).state ∧
      t.tiles = s.tiles ∧ t.mem = s.mem) ∧
    ((s.ctx c).state = 4 →
      (∀ n, n < 2048 → s.alive n = true → s.owner n = c → ∃ t, exec (.quiesceTimeout c n) s = .next t ∧ (t.tile n).faulty = true ∧
        n ∈ t.trouble.outOfService) ∧
      (∀ u, (0x800 ≤ u ∧ u < 0x808) ∨ (0x810 ≤ u ∧ u < 0x814) → ∃ t, exec (.quiesceTimeout c u) s = .next t ∧
        t.trouble.faulted = true ∧ bits t.trouble.deviceFault.toNat 115 108 = 0x04))

/-- The oldest dump that waits begins where a dump area is set, with the units of its depth still to read. Of the unit being read, as many
of the bytes still to come as an answer brings are gathered, as the unit holds them; when it has given all it holds, or has not answered
in time, its section is placed and the next unit follows; the one that timed out counts as unreachable. After the last unit the dump is
taken from the list and written into the dump area; no byte outside that area changes. The bytes a unit gives, and their coming by
count, are THE MODEL'S CHOICE (log 78). -/
def Obligations.DumpsReadTheirUnits : Prop :=
  ∀ (s : State) (d : DumpJob) (rest : List DumpJob), s.trouble.dumps = d :: rest →
    let next (t : State) (us : List Nat) (count unreachable : Nat) (sections : List Byte → Prop) : Prop :=
      (us = [] → t.trouble.dumps = rest ∧ t.trouble.dumpTaken = true) ∧
      (us ≠ [] → t.tiles = s.tiles ∧ t.mem = s.mem ∧ ∃ d', t.trouble.dumps = d' :: rest ∧ d'.running = true ∧ d'.left = us ∧
        d'.count = count ∧ d'.unreachable = unreachable ∧ sections d'.sections) ∧
      (∀ a, a < s.trouble.dumpBase ∨ s.trouble.dumpBase + s.trouble.dumpSize * 1048576 ≤ a → peek a t.mem = peek a s.mem)
    (d.running = false → s.dumpReady = true → ∃ t, exec .dump s = .next t ∧
      next t (s.dumpUnits d.ctx d.depth) d.count d.unreachable (· = d.sections)) ∧
    (∀ u us (data : List Byte), d.running = true → d.left = u :: us →
      let got := d.current ++ ((s.unitContents d.ctx d.depth u).drop d.current.length).take data.length
      let placed (status : Nat) (bytes l : List Byte) : Prop :=
        ∃ cycles, l = d.sections ++ sectionHeader u status cycles bytes.length ++ bytes
      (got.length < s.unitLength d.ctx d.depth u → exec (.dumpUnitAnswer data) s =
        .next { s with trouble := { s.trouble with dumps := { d with current := got } :: rest } }) ∧
      (s.unitLength d.ctx d.depth u ≤ got.length → ∃ t, exec (.dumpUnitAnswer data) s = .next t ∧
        next t us (d.count + 1) d.unreachable (placed 0 got)) ∧
      (∃ t, exec .dumpUnitTimeout s = .next t ∧
        next t us (d.count + 1) (d.unreachable + 1) (placed (if d.current.isEmpty then 1 else 2) d.current)))

/-! ## Ports -/

/-- A port whose lanes may run takes each event as the spec gives it. Training step 1 keeps the cable's record and verdict and goes on
where it is valid; steps 2 to 5 each lead to the next, step 3 with the good lanes; step 4 with fewer than two good lanes takes the port
down. Step 6 enters FULL or HALF once both inits are exchanged, with four or two of the good lanes in use. A step that takes too long,
or a lock lost in service, takes the port down, and its sticky record says so; a lane out of its limits retrains it, or makes it
ABSENT where it may not train (log 108, DEDUCED). -/
def Obligations.PortsTrainAndFall : Prop :=
  ∀ (s : State) (p : Nat), p < 12 → s.portsRun = true → let x := s.port p
    let others (t : State) : Prop := ∀ q, q ≠ p → (t.port q).state = (s.port q).state ∧ (t.port q).step = (s.port q).step
    let falls (i : Instr) : Prop := ∃ t, exec i s = .next t ∧ others t ∧ (t.port p).state = 5 ∧
      (x.state ≠ 5 → (t.port p).step = 0 ∧ (t.port p).lanes = 0 ∧ (t.port p).sticky.getLsbD 2 = true)
    (x.wantTrain = true → x.mayTrain = true → ∃ t, exec (.portTrainStart p) s = .next t ∧ others t ∧ (t.port p).state = 1 ∧
      (t.port p).step = 1 ∧ t.mem = s.mem) ∧
    (∀ r, x.step = 1 → cableVerdict r = 1 → exec (.trainingStepComplete p r) s =
      .next (s.modPort p fun y => { y with cableState := 1, record := r.cableRecord, step := 2 })) ∧
    (∀ r, x.step = 1 → cableVerdict r ≠ 1 → falls (.trainingStepComplete p r)) ∧
    (∀ r, x.step = 2 → exec (.trainingStepComplete p r) s = .next (s.modPort p fun y => { y with step := 3 })) ∧
    (∀ r, x.step = 3 → exec (.trainingStepComplete p r) s =
      .next (s.modPort p fun y => { y with good := r.lanesGood, step := 4 })) ∧
    (∀ r, x.step = 4 → popCount x.good.toNat 5 < 2 → falls (.trainingStepComplete p r)) ∧
    (∀ r, x.step = 4 → 2 ≤ popCount x.good.toNat 5 → ∃ t, exec (.trainingStepComplete p r) s = .next t ∧ (t.port p).step = 5 ∧
      (t.port p).lanes = x.lanes ∧ (t.port p).good = x.good ∧ others t) ∧
    (∀ r, x.step = 5 → exec (.trainingStepComplete p r) s =
      .next (s.modPort p fun y => { y with step := 6, controls := [1] })) ∧
    (∀ r, x.step = 6 → x.initSeen = true → x.initAcked = true → 2 ≤ popCount x.good.toNat 5 →
      let k := if 4 ≤ popCount x.good.toNat 5 then 4 else 2
      ∃ t, exec (.trainingStepComplete p r) s = .next t ∧ (t.port p).state = (if k = 4 then 2 else 3) ∧ (t.port p).step = 0 ∧
        popCount (t.port p).lanes 5 = k ∧ (∀ i, (t.port p).lanes.testBit i = true → x.good.getLsbD i = true) ∧ others t) ∧
    (x.step ≠ 0 → falls (.trainingStepTimeout p)) ∧
    (s.portUp p = true → falls (.fecLockLoss p)) ∧
    (∀ lane, lane < 5 → s.portUp p = true → x.lanes.testBit lane = true → x.mayTrain = false →
      ∃ t, exec (.equalisationOutOfLimits p lane) s = .next t ∧ (t.port p).state = 0 ∧ (t.port p).step = 0 ∧ (t.port p).lanes = 0 ∧
        (t.port p).sticky.getLsbD 2 = true ∧ others t) ∧
    (∀ lane, lane < 5 → s.portUp p = true → x.lanes.testBit lane = true → x.mayTrain = true → ∃ t, exec (.equalisationOutOfLimits p lane) s = .next t ∧
      (t.port p).state = 4 ∧ (t.port p).step = 2 ∧ (t.port p).limits = 2 ^ lane ∧ (t.port p).sticky.getLsbD 4 = true ∧ others t)

/-- A flit of the right kind at a port in service whose check bits and code are good is taken: a message flit of the expected
sequence number moves the expectation on; another asks for a replay, unless one is being waited for; a null flit brings its counters;
a replay request for a flit still kept sets the point to send again from, and counts; a bad one asks for a replay, and the sixteenth
request in a row retrains the port, which is ABSENT where it may not train (log 108, DEDUCED). The control flits do what they name:
init at step 6 is checked against the fabric's settings, remembered and acknowledged, its acknowledgement noted, a retrain request
retrains; a down notice brings its counters and the port stays up (log 36, DEDUCED). The order of the bits under a flit's CRC is read
by inference (log 34, DEDUCED). A sender with nothing owed sends nothing. A cable plugged in or pulled out is noted. -/
def Obligations.FlitsAreTaken : Prop :=
  ∀ (s : State) (p : Nat), p < 12 → let x := s.port p
    let asks (i : Instr) : Prop := ∃ t, exec i s = .next t ∧ t.mem = s.mem ∧
      (x.asks < 15 → (t.port p).askDue = true ∧ (t.port p).discarding = true ∧ (t.port p).asks = x.asks + 1) ∧
      (15 ≤ x.asks → (t.port p).state = (if x.mayTrain then 4 else 0) ∧ (t.port p).step = (if x.mayTrain then 2 else 0))
    (∀ f, s.portsRun = true → s.portUp p = true → crcOk f = true →
      (fKind f = 0 → fSeq f = x.expect → ∃ t, exec (.messageFlit p f true) s = .next t ∧ t = s.acceptFlit p f) ∧
      (fKind f = 0 → fSeq f ≠ x.expect → x.discarding = false → asks (.messageFlit p f true)) ∧
      (fKind f = 0 → fSeq f ≠ x.expect → x.discarding = true → exec (.messageFlit p f true) s = .next s) ∧
      (fKind f = 1 → x.discarding = false → exec (.nullFlit p f true) s = .next (s.modPort p (·.takeCounters f))) ∧
      (fKind f = 2 → x.discarding = false → ∃ t, exec (.replayRequest p f true) s = .next t ∧
        (t.port p).again = (if ((x.takeCounters f).replay.any (·.seq = fSeq f)) = true then some (fSeq f) else none) ∧
        (t.port p).replays = satAdd 32 x.replays 1 ∧ t.mem = s.mem ∧ t.tiles = s.tiles)) ∧
    (∀ f ok, s.portsRun = true → s.portUp p = true → (ok && crcOk f) = false →
      (fKind f = 0 → asks (.messageFlit p f ok)) ∧ (fKind f = 1 → asks (.nullFlit p f ok)) ∧
      (fKind f = 2 → asks (.replayRequest p f ok))) ∧
    (∀ f, s.portsRun = true → fKind f = 3 → crcOk f = true →
      (x.step = 6 → s.portUp p = false → cType f = 1 → s.initOk p f = true → exec (.init p f) s =
        .next (s.modPort p fun y => { y with
          initSeen := true, peerDev := cDev f, credits := (List.range 8).map (cGrant f), controls := y.controls ++ [2] })) ∧
      (x.step = 6 → s.portUp p = false → cType f = 1 → s.initOk p f = false → ∃ t, exec (.init p f) s = .next t ∧
        (t.port p).state = 5 ∧ (t.port p).sticky.getLsbD 3 = true) ∧
      (x.step = 6 → s.portUp p = false → cType f = 2 → exec (.initAck p f) s = .next (s.modPort p fun y => { y with initAcked := true })) ∧
      (s.portUp p = true → x.discarding = false → cType f = 3 → ∃ t, exec (.retrainRequest p f) s = .next t ∧
        (t.port p).state = (if x.mayTrain then 4 else 0) ∧ (t.port p).step = (if x.mayTrain then 2 else 0)) ∧
      (s.portUp p = true → x.discarding = false → cType f = 4 → exec (.downNotice p f) s = .next (s.modPort p (·.takeCounters f)))) ∧
    (s.portsRun = true → x.step = 6 → x.initAcked = false →
      exec (.initResend p) s = .next (s.modPort p fun y => { y with controls := y.controls ++ [1] })) ∧
    (s.portsRun = true → (s.portUp p = true ∨ x.step = 6) →
      (x.askDue = true → ∃ t b, exec (.flitTransmit p) s = .next t ∧ t.sent = .flit p b :: s.sent ∧ fKind b = 2 ∧
        fSeq b = x.expect % 4096 ∧ (t.port p).askDue = false) ∧
      (∀ c cs, x.askDue = false → x.again = none → x.controls = c :: cs → ∃ t b, exec (.flitTransmit p) s = .next t ∧
        t.sent = .flit p b :: s.sent ∧ fKind b = 3 ∧ (t.port p).controls = cs) ∧
      (x.askDue = false → x.again = none → x.controls = [] → x.nextPair = none → x.freed = x.told → exec (.flitTransmit p) s = .next s)) ∧
    (s.power.camp = true →
      (x.cable = false → ∃ t, exec (.cablePlug p) s = .next t ∧ (t.port p).cable = true ∧ t.mem = s.mem) ∧
      (x.cable = true → ∃ t, exec (.cableUnplug p) s = .next t ∧ (t.port p).cable = false ∧ t.mem = s.mem))

/-! ## The fabric -/

/-- A message that heads its channel at a serving module is taken. A request of an epoch not superseded, for a context it maps to, is
applied where every check passes: RD answers with the bytes and changes none; WR, in sequence, writes exactly its bytes, is
acknowledged and moves the expected ID on; ATOM, ATOMN and SIG, in sequence, apply the operation and answer; an RDC that others of its
contribution follow is kept, the last one applies the contribution whole or, where the reduction does not take it, refuses it whole;
EPOCH is always acknowledged. A reply goes to the request it answers, once; NAK ends that request too; a request with no reply in time is sent again
while tries are left and is then given up. Lock-step frames of the context's partner note its digests or halt the context; other
management frames only mark the port and are counted; a trace record goes on to base camp. THE MODEL'S READINGS: the bits of RDC's
operand words (log 32, DESIGN CHOICE), a reply's context and epoch (log 25), the match of a NAK (log 98), the frames' byte order
(log 38), a digest list that is not complete (log 39; all DEDUCED). -/
def Obligations.FabricMessagesAreTaken : Prop :=
  ∀ (s : State) (p dl : Nat) (m : Msg),
    let s0 (vc : Nat) : State := (s.takeMsg p (2 * vc + dl) m).takeEpoch m
    let exp (t : State) (cls : Nat) : Nat := tget 0 (2 * mSdev m + cls) t.fabric.expect
    let inSeq (cls : Nat) : Prop := s.oldEpoch m = false ∧ (mReqid m + 65536 - exp s cls) % 65536 = 0
    let acked (t : State) (cls : Nat) (a : State) (r : Msg) : Prop :=
      t = (a.consumeId (2 * mSdev m + cls) m r).answerMsg r ∧ exp t cls = (mReqid m + 1) % 65536
    (∀ c, Hears s p dl 0x01 0 m → s.oldEpoch m = false → s.localCtx m = some c → s.accessStatus c m false (mBytes m) = none →
      s.badBlock (mAddr m) (mBytes m) = none → exec (.rd p dl .clean) s =
        .next (((s0 0).hotLine (mAddr m) (mBytes m)).answerMsg (replyTo m 0x21 0 (mBytes m) 0 0 (s.loadBytes (mAddr m) (mBytes m))))) ∧
    (∀ c, Hears s p dl 0x02 0 m → inSeq 0 → s.localCtx m = some c → s.accessStatus c m true (mBytes m) = none →
      s.reserveRoom { ctx := c } (mAddr m) (mBytes m) = true → s.landErr { ctx := c } (mAddr m) m.data = none →
      ∃ t a, exec (.wr p dl) s = .next t ∧ acked t 0 a (replyTo m 0x22 0 1 0 0 []) ∧
        t.loadBytes (mAddr m) m.data.length = m.data ∧
        (∀ b, (b < mAddr m ∨ mAddr m + m.data.length ≤ b) → peek b t.mem = peek b s.mem)) ∧
    (∀ c, inSeq 0 → s.localCtx m = some c → let w := atomWidth (mAtype m)
      scratchBase ≤ mAddr m → mAddr m % w = 0 → s.accessStatus c m true w = none → s.changeBad { ctx := c } (mAddr m) w = none →
      s.reserveRoom { ctx := c } (mAddr m) (mBytes m) = true →
      let operand := if mAtype m = 3 then mOp1 m * 2 ^ 32 + mOp0 m else mOp0 m
      let old := s.loadNat (mAddr m) w
      let does (i : Instr) (r : Msg) : Prop := ∃ t a, exec i s = .next t ∧ acked t 0 a r ∧
        t.loadNat (mAddr m) w = atomNew (atomOf (mAop m)) (mAtype m) old operand (mOp1 m) % 256 ^ w ∧
        (∀ b, (b < mAddr m ∨ mAddr m + w ≤ b) → peek b t.mem = peek b s.mem)
      (Hears s p dl 0x03 0 m → does (.atom p dl .clean) (replyTo m 0x23 0 1 (old % 2 ^ 32) (old / 2 ^ 32) [])) ∧
      (Hears s p dl 0x04 0 m → does (.atomn p dl .clean) (replyTo m 0x22 0 1 0 0 []))) ∧
    (∀ c, Hears s p dl 0x05 0 m → inSeq 0 → s.localCtx m = some c → let vals := s.rdcSoFar m
      let first := rdcFirst m vals.length
      (rdcMore m = true → ∃ t a, exec (.rdc p dl .clean) s = .next t ∧ acked t 0 a (replyTo m 0x22 0 1 0 0 []) ∧
        tfind (rdcKey m) t.fabric.gathers = some (c, vals) ∧ t.reds = s.reds ∧ t.mem = s.mem) ∧
      (∀ r, rdcMore m = false → s.ridOk c (mRid m) = true → tfind (mRid m) s.reds = some r →
        redRefuses (some r) first (max vals.length (mOp0 m)) ((mOp1 m).testBit 1) = 0 → redArrival r.desc = false →
        s.guardStatus c m true (redTarget r.desc + first * rdWidth r.desc) (vals.length * rdWidth r.desc) = none →
        r.badSum first vals.length = none →
        ∃ t a r', exec (.rdc p dl .clean) s = .next t ∧ acked t 0 a (replyTo m 0x22 0 1 0 0 []) ∧ tfind (mRid m) t.reds = some r' ∧
          r'.count = r.count + 1 ∧ r'.present = r.present + (if mAbsent m then 0 else 1) ∧
          (∀ i (h : i < vals.length), tget {} (first + i) r'.sums = (tget {} (first + i) r.sums).add (f32 vals[i])) ∧
          t.mem = s.mem) ∧
      (rdcMore m = false → rdcWaits m s = false → s.ridOk c (mRid m) = true →
        let why := redRefuses (tfind (mRid m) s.reds) first (max vals.length (mOp0 m)) ((mOp1 m).testBit 1)
        why ≠ 0 → ∃ t a, exec (.rdc p dl .clean) s = .next t ∧ acked t 0 a (nakTo m (if why = 5 then 5 else 6) 0) ∧
          t.reds = s.reds ∧ t.mem = s.mem)) ∧
    (∀ c, Hears s p dl 0x06 2 m → inSeq 1 → s.localCtx m = some c → let g := mAddr m % 65536
      s.gtallyOk c g = true → ∃ t a, exec (.sig p dl) s = .next t ∧ acked t 1 a (replyTo m 0x22 0 1 0 0 []) ∧ t.mem = s.mem) ∧
    (Hears s p dl 0x07 2 m → exec (.epoch p dl) s = .next ((s0 2).answerMsg (replyTo m 0x22 0 1 0 0 []))) ∧
    (∀ r, let s1 := s.takeMsg p (2 + dl) m
      s.answered m = some r → s.lateReply m = false →
      (Hears s p dl 0x21 1 m → exec (.rdr p dl) s = .next ((s1.dropRequest r.uid).dataFor r.tile r.stream r.uid m.data).sendWaiting) ∧
      (Hears s p dl 0x22 1 m → mOp r.msg ≠ 0x07 →
        exec (.ack p dl) s = .next ((s1.dropRequest r.uid).ackFor r.tile r.stream r.uid).sendWaiting) ∧
      (Hears s p dl 0x22 1 m → mOp r.msg = 0x07 → exec (.ack p dl) s = .next ((s1.dropRequest r.uid).modCtx (mCtx m) fun c => { c with
        resetting := c.resetting.map fun x => { x with awaited := x.awaited.erase (mSdev m) } }).sendWaiting) ∧
      (Hears s p dl 0x23 1 m → exec (.atr p dl) s =
        .next (((s1.dropRequest r.uid).answerFor r.tile r.stream r.uid r.entry [mOp1 m * 2 ^ 32 + mOp0 m]).acked r.tile
          r.uid).sendWaiting) ∧
      (∀ reason, Hears s p dl 0x24 1 m → mStatus m ≠ 9 → nakReason (mStatus m) = some reason → exec (.nak p dl) s =
        .next (((s1.dropRequest r.uid).acked r.tile r.uid).refuseRequest r reason (mStatus m) (mSdev m)).sendWaiting) ∧
      (Hears s p dl 0x24 1 m → mStatus m ≠ 9 → nakReason (mStatus m) = none →
        exec (.nak p dl) s = .next ((s1.dropRequest r.uid).acked r.tile r.uid).sendWaiting)) ∧
    (∀ k r, s.serving = true → s.fabric.requests[k]? = some r → r.sent = true → mOp r.msg ≠ 0x07 →
      (r.tries < s.fabric.retries → (s.hop r.msg none 0).isSome = true → ∃ t q, exec (.e2eTimeout k) s = .next t ∧ t.fabric.requests[k]? = some q ∧ q.uid = r.uid ∧
        q.tries = r.tries + 1 ∧ t.mem = s.mem) ∧
      (s.fabric.retries ≤ r.tries → s.lateReply r.msg = false → exec (.e2eTimeout k) s =
        .next (((s.dropRequest r.uid).acked r.tile r.uid).refuseRequest r 0x31 0 0).sendWaiting)) ∧
    (Hears s p 0 0x30 3 m → let s1 := s.takeMsg p 6 m
      (∀ c, s.frameCtx p m = some c →
        (frType m = 3 → exec (.lockstepStop p) s = .next (s1.lockHalt c 1)) ∧
        (frType m = 1 → ((s.lockSeq c (frTile m) (frSeq m)).closed.find? fun w => w.number = frWindow m) = none →
          ∃ t, exec (.lockstepWindowRecord p) s = .next t ∧ t.mem = s.mem ∧
            (frWindow m, frLow m) ∈ (tget {} (frSeq m) (t.tile (frTile m)).lockSeqs).early) ∧
        (frType m = 2 → ((s.lockSeq c (frTile m) (frSeq m)).closed.find? fun w => w.number = frWindow m) = none →
          exec (.lockstepDigestList p) s = .next s1)) ∧
      (s.frameCtx p m = none ∨ frType m = 0 ∨ 3 < frType m → exec (.mgmt p 0) s = .next (s1.protocolError p))) ∧
    (Hears s p dl 0x31 3 m → ∃ t r, exec (.trace p dl) s = .next t ∧ t.trouble.transit = s.trouble.transit ++ [r] ∧
      r.body = m.data.drop 16 ∧ t.mem = s.mem ∧ t.tiles = s.tiles)

/-! ## The dictionary and management messages -/

/-- R431, with the completion of READ and WRITE: a read or write request of any entry is answered with abort 0, or is refused with
a code from 0x0101 to 0x010A and changes nothing (where the job record or image it names lies in an uncorrectable block, the read that
found it is recorded by 13 R415, as log 76 says). A write request that reaches base camp applies the entry's rule and is answered; where
it is refused, nothing of the machine changes but the change log's new entry and the reply. A read is answered with the value or its
refusal. -/
def Obligations.RefusedRequestsChangeNothing : Prop :=
  ∀ (s : State) (src : Requester) (i sub arg : Nat) (bs : List Byte),
    (let a := opWrite i sub bs s;
      a.abort = 0 ∨ (0x0101 ≤ a.abort ∧ a.abort ≤ 0x010A ∧ a.st = s.noteUnreadable (s.unreadable i sub bs))) ∧
    (s.unreadable i sub bs = none → s.noteUnreadable (s.unreadable i sub bs) = s) ∧
    (let a := opRead i sub arg s; a.abort = 0 ∨ (0x0101 ≤ a.abort ∧ a.abort ≤ 0x010A ∧ a.st = s ∧ a.value = [])) ∧
    (Asks s src i sub bs → let u := s.countFlight src
      exec (.write src i sub bs) s =
        .next ((u.afterRequest src i sub bs (s.oldValue i sub) (opWrite i sub bs u) (afterWrite i bs)).leaveRom)) ∧
    (Asks s src i sub bs → (opWrite i sub bs (s.countFlight src)).abort ≠ 0 → s.unreadable i sub bs = none → ∃ t, exec (.write src i sub bs) s = .next t ∧
      Same ({ camp := true, sent := true, fns := true } : Parts).others s t ∧ t.camp.headSeq = (s.camp.headSeq + 1) % 2 ^ 64) ∧
    (s.reaches src = true → s.framed src { typ := 1, seq := 0, index := i, sub := sub, arg := arg } = true → s.stored src = none →
      s.turnedAway src = false → s.power.rom = false → exec (.read src i sub arg) s = .next (let a := opRead i sub arg (s.countFlight src)
        a.st.replyTo src (frame 0x81 (srcSeq s src) i sub a.abort arg 0 a.value)))

/-- A discovery request is answered with the ordering code and serial number. A request repeated within its record is answered with the
reply it had, marked, and is not applied again, until its record expires; one that came as its requester's ninth in flight is turned away. An acknowledged delivery is no longer resent; a resend sends
every delivery not acknowledged. A neighbour solicitation for the module's own address is answered. MCTP control requests are answered,
and an endpoint ID other than 0 and 0xFF is taken. A vendor message or a window's GO is the request its frame spells, and is answered
so. A write of a BAR0 register sets it. The model's own: the bytes of MCTP control messages (log 40), the endpoint ID before one is set
(log 22), base registers dropping the low bits their alignment makes 0 (log 41), when a request counts as a ninth (log 79), and the
match of an acknowledgement and the vendor ID's byte order (log 102). -/
def Obligations.ManagementMessagesAreAnswered : Prop :=
  ∀ s : State,
    let answered (i : Instr) (src : Requester) (q : Req) : Prop :=
      s.stored src = none → s.turnedAway src = false → s.power.rom = false → let u := s.countFlight src
      (q.typ = 1 → exec i s = .next (let a := opRead q.index q.sub q.arg u
        a.st.replyTo src (frame 0x81 (srcSeq s src) q.index q.sub a.abort q.arg 0 a.value))) ∧
      (q.typ = 2 → exec i s = .next ((u.afterRequest src q.index q.sub q.value (s.oldValue q.index q.sub)
        (opWrite q.index q.sub q.value u) (afterWrite q.index q.value)).leaveRom)) ∧
      (q.typ = 3 → exec i s = .next (u.replyTo src (frame 0x83 (srcSeq s src) 0 0 0 0 0 s.discoverValue)))
    (∀ src, s.reaches src = true → s.framed src { typ := 3, seq := 0 } = true → src ≠ .service →
      (s.stored src = none → s.turnedAway src = false → s.power.rom = false →
        exec (.discover src) s = .next ((s.countFlight src).replyTo src (frame 0x83 (srcSeq s src) 0 0 0 0 0 s.discoverValue))) ∧
      (s.stored src = none → s.turnedAway src = true →
        exec (.discover src) s = .next ((s.forgetBusy src).sendFrame src (frame 0x83 (srcSeq s src) 0 0 0x0109 0 0 []))) ∧
      (∀ r, s.stored src = some r → exec (.discover src) s = .next (s.sendFrame src (markReplayed r.reply)))) ∧
    (∀ src i sub bs r, s.reaches src = true → s.stored src = some r → s.power.rom = false → mayAsk src i sub = true →
      s.framed src { typ := 2, seq := 0, index := i, sub := sub, value := bs } = true →
      exec (.write src i sub bs) s = .next (s.sendFrame src (markReplayed r.reply))) ∧
    (∀ src p, srcPeer src = some p → ∃ t, exec (.retryRecordExpiry src) s = .next t ∧ t.stored src = none ∧
      Same ({ camp := true } : Parts).others s t ∧ t.camp.log = s.camp.log) ∧
    (∀ ip udp q, s.reaches (.benvon ip udp q) = true → exec (.notifyAck (.benvon ip udp q)) s = .next (s.ackNotify ip udp q.toNat)) ∧
    (∀ k, k < 8 → s.power.camp = true → s.power.phase ≠ 1 → subKind (s.sub k).desc = 1 → ∃ t, exec (.notifyResend k) s = .next t ∧
      t.sent = ((s.sub k).unacked.map fun e => .datagram (subIp (s.sub k).desc) (subPort (s.sub k).desc) (notifyFrame e.1 e.2)).reverse ++
        s.sent ∧ Same ({ sent := true } : Parts).others s t) ∧
    (s.power.camp = true → exec (.neighbourSolicitation linkLocal) s = .next { s with sent := .advertise linkLocal :: s.sent }) ∧
    (∀ sender inst eid : Byte, s.mctpUp = true → let n := inst &&& 0x1F#8
      (eid ≠ 0 → eid ≠ 0xFF#8 → exec (.setEndpointId sender inst eid) s =
        .next { s with camp := { s.camp with eid := eid }, sent := .mctp sender [0#8, n, 1#8, 0#8, 0#8, eid, 0#8] :: s.sent }) ∧
      (eid = 0 ∨ eid = 0xFF#8 → exec (.setEndpointId sender inst eid) s =
        .next { s with sent := .mctp sender [0#8, n, 1#8, 2#8] :: s.sent }) ∧
      exec (.getEndpointId sender inst) s = .next { s with sent := .mctp sender [0#8, n, 2#8, 0#8, s.camp.eid, 0#8, 0#8] :: s.sent } ∧
      (∃ t b, exec (.getMctpVersionSupport sender inst 0x7E#8) s = .next t ∧ t.sent = .mctp sender b :: s.sent ∧
        b.take 5 = [0#8, n, 4#8, 0#8, 1#8] ∧ Same ({ sent := true } : Parts).others s t) ∧
      exec (.getMessageTypeSupport sender inst) s = .next { s with sent := .mctp sender [0#8, n, 5#8, 0#8, 1#8, 0x7E#8] :: s.sent }) ∧
    (∀ eid rid body q, s.mctpUp = true → leNat (body.take 2) = vendorId → parseFrame (body.drop 2) = (q, true) →
      let src := Requester.mctp eid rid (BitVec.ofNat 32 q.seq)
      answered (.mctpVendorMessage eid rid body) src q ∧
      (q.typ = 1 → exec (.mctpVendorMessage eid rid body) s = exec (.read src q.index q.sub q.arg) s) ∧
      (q.typ = 2 → exec (.mctpVendorMessage eid rid body) s = exec (.write src q.index q.sub q.value) s)) ∧
    (∀ f q, f < 64 → s.reaches (.window f) = true → parseFrame (s.fn f).frame = (q, true) →
      answered (.winGo f 1) (.window f) q ∧
      (q.typ = 1 → exec (.winGo f 1) s = exec (.read (.window f) q.index q.sub q.arg) s) ∧
      (q.typ = 2 → q.arg = 0 → exec (.winGo f 1) s = exec (.write (.window f) q.index q.sub q.value) s)) ∧
    (∀ f v, f < 64 → s.pcieUp = true → let sel := (s.fn f).ringSel
      exec (.bar0RegisterWrite f 0x10 v) s = .next (s.modFn f fun x => { x with ringSel := v % 16 }) ∧
      exec (.bar0RegisterWrite f 0x18 v) s = .next (s.modRing f sel fun x => { x with base := v % 2 ^ 64 / 4096 * 4096 }) ∧
      exec (.bar0RegisterWrite f 0x28 v) s = .next (s.modRing f sel fun x => { x with cbase := v % 2 ^ 64 / 4096 * 4096 }) ∧
      (4 ≤ v → v ≤ 12 → exec (.bar0RegisterWrite f 0x20 v) s = .next (s.modRing f sel fun x => { x with log2 := v })) ∧
      ((s.ring f sel).entries = [] → exec (.bar0RegisterWrite f 0x30 v) s =
        .next (s.modRing f sel fun x => { x with enable := v % 2 = 1 })) ∧
      exec (.bar0RegisterWrite f 0x40 v) s = .next (s.modFn f fun x => { x with evtBase := v % 2 ^ 64 / 4096 * 4096 }) ∧
      exec (.bar0RegisterWrite f 0x08 v) s = .next (s.modFn f fun x => { x with bar2Base := v % 2 ^ 48 / 2 ^ s.bar2Log2 f * 2 ^ s.bar2Log2 f }))

/-- A write of one of the entries with a row of its own, that reaches base camp where the entry's conditions hold, is accepted with its
effect: contexts, teams, huddles, channels and jobs made and ended, an idle instruction bank written, records and counts cleared, a dump
asked for, an epoch forgotten, a port trained, the attention state set and cleared, firmware placed and a valid image staged, the
minimum svn raised, a nonce answered with evidence, and the module restarted. An image that is not valid is refused. The model's own:
the order of bytes in which an image's header is read (log 45), the signature scheme's equations (log 12), the slot a valid image goes to
(log 46), and a restart written in STOPPED (log 50). -/
def Obligations.OrdersAreAccepted : Prop :=
  ∀ (s : State) (src : Requester), let u := s.countFlight src
    let answers (i : Instr) (index sub : Nat) (bs : List Byte) (P : Answer → Prop) : Prop :=
      Asks s src index sub bs → ∃ a, P a ∧ exec i s =
        .next ((u.afterRequest src index sub bs (s.oldValue index sub) a (afterWrite index bs)).leaveRom)
    let does (i : Instr) (index sub : Nat) (bs : List Byte) (effect : State → Nat → Prop) : Prop :=
      answers i index sub bs fun a => a.abort = 0 ∧ effect a.st a.result
    let is (i : Instr) (index sub : Nat) (bs : List Byte) (t : State) : Prop := does i index sub bs fun v _ => v = t
    (∀ c, 0 < c → c < 256 →
      ((s.ctx c).state = 0 → s.serving = true → s.trouble.faulted = false → s.power.restart = 0 → s.lockOk c = true →
        (s.ctx c).snapReserve = 0 → (s.panel.attn = true → s.badBlock (s.ctx c).parkAddr 4 = none) → does (.ctxCreate src c) 0x6001 1 (natLE 1 c) fun t _ => (t.ctx c).state = 1 ∧
          (t.ctx c).resetting = none ∧ (t.ctx c).waiting = [] ∧ ∀ d, d ≠ c → t.ctx d = s.ctx d) ∧
      (s.changeable c = true → is (.ctxDestroy src c) 0x6001 3 (natLE 1 c) (u.askReset c 2 true)) ∧
      (s.serving = true → s.exists? c = true → (s.ctx c).state ≠ 4 →
        is (.ctxReset src c) 0x6001 2 (natLE 1 c) (u.askReset c 0 false))) ∧
    (∀ w : BitVec 160, let id := rqTeam w
      (rqOp w = 1 → id ≠ 0 → rqTeamZero w = true → s.teamFieldBad (rqDesc w) = false → teamKind (s.team id) = 0 →
        s.teamHeld (rqDesc w) = false → s.teamAbsent (rqDesc w) = false → does (.teamCreate src w) 0x6010 1 (natLE 20 w.toNat) fun t _ =>
          tfind id t.teams = some (withField (rqDesc w) 19 12 (s.newTiles (rqDesc w)).length)) ∧
      (rqOp w = 2 → id ≠ 0 → rqTeamZero w = true → rqDesc w = 0 → teamKind (s.team id) ≠ 0 → s.changeable (teamCtx (s.team id)) = true →
        teamParent (s.team id) = 0 → s.teamBusy id = false → s.inRound id = false →
        does (.teamDestroy src w) 0x6010 1 (natLE 20 w.toNat) fun t _ => tfind id t.teams = none)) ∧
    (∀ w : BitVec 160, let id := rqHuddle w
      let d := rqDesc w
      (rqOp w = 1 → rqHuddleZero w = true → s.huddleFieldBad d = false → tfind id s.huddles = none → s.changeable (hdCtx d) = true →
        teamKind (s.team (hdGroup d)) ≠ 0 → teamCtx (s.team (hdGroup d)) = hdCtx d → s.owned (hdHome d) = true →
        s.owner (hdHome d) = hdCtx d → does (.huddleCreate src w) 0x6011 1 (natLE 20 w.toNat) fun t _ =>
          tfind id t.huddles = some { desc := withField d 80 12 (s.members (hdGroup d)).length }) ∧
      (∀ h, rqOp w = 2 → rqHuddleZero w = true → d = 0 → tfind id s.huddles = some h → s.changeable (hdCtx h.desc) = true →
        h.inRound = false → s.huddleHeld id = false →
        does (.huddleDestroy src w) 0x6011 1 (natLE 20 w.toNat) fun t _ => tfind id t.huddles = none)) ∧
    (∀ c r, c < 256 → s.changeable c = true → u.newChan c = some r → does (.chanCreate src c) 0x6020 1 (natLE 1 c) fun t n =>
      t = r.2 ∧ n = r.1.toNat) ∧
    (∀ h, s.chanLive h = true → s.changeable (s.chanOwner h) = true → s.carried h = false →
      is (.chanDestroy src h) 0x6020 2 (natLE 4 h.toNat) (u.dropChan h)) ∧
    (∀ a r, a < 2 ^ 64 → u.submit a (fun _ => true) = .inr r → does (.jobSubmit src a) 0xA010 1 (natLE 8 a) fun t n => t = r.2 ∧ n = r.1) ∧
    (∀ id j, id < 2 ^ 32 → s.job id = some j → j.open = true → s.serving = true →
      is (.jobCancel src id) 0xA010 3 (natLE 4 id) (u.cancelJob j)) ∧
    (∀ n bank off data, n < 2048 → bank < 2 → 0 < data.length → data.length ≤ 1020 → off + data.length ≤ 0x10000 → s.alive n = true →
      s.bankActive n bank = false → (s.tile n).corePartBad (bank + 1) off data = none → let v := natLE 2 (32 * n + 16 * bank) ++ natLE 2 off ++ data
      does (.debugImemWrite src v) 0x7010 1 v fun t _ =>
        (∀ j (h : j < data.length), t.imemByte n bank (off + j) = data[j]) ∧ t.mem = s.mem ∧ ∀ m, m ≠ n → t.tile m = s.tile m) ∧
    (∀ n st, n < 2048 → does (.faultRecordClear src n st) (0x8800 + n) (streamNo st + 1) (natLE 32 (2 ^ 255)) fun t _ =>
      recordValid ((t.tile n).records.get st) = false ∧ (∀ u, u ≠ st → (t.tile n).records.get u = (s.tile n).records.get u) ∧
      (∀ u, t.thread n u = s.thread n u) ∧ ∀ m, m ≠ n → t.tile m = s.tile m) ∧
    is (.troubleClearEcc src) 0x8001 2 (natLE 4 1) u.clearEcc ∧ is (.troubleClearTileCounts src) 0x8001 2 (natLE 4 2) u.clearTileCounts ∧
    is (.troubleClearStaleDrops src) 0x8001 2 (natLE 4 4) u.clearStale ∧
    is (.troubleClearSeamAlarms src) 0x8001 2 (natLE 4 8) u.clearSeams ∧
    is (.troubleClearAlarmLog src) 0x8001 2 (natLE 4 16) u.clearAlarmLog ∧
    is (.troubleClearDumpFlag src) 0x8001 2 (natLE 4 32) u.clearDumpFlag ∧
    (∀ c depth, c < 256 → depth < 3 → s.serving = true → s.dumpReady = true → s.exists? c = true →
      does (.dumpRequest src (BitVec.ofNat 16 (256 * depth + c))) 0x8300 4 (natLE 2 (256 * depth + c)) fun t _ =>
        t.trouble.dumps = s.trouble.dumps ++ [{ ctx := c, depth := depth, cause := 0, alarmSeq := 0 }]) ∧
    (∀ d, d < 64 → is (.epochClear src d) 0x4040 1 (natLE 1 d) (u.forgetDevice d)) ∧
    (∀ p, p < 12 → s.serving = true → (s.port p).mayTrain = true → is (.portRetrain src p) 0x4007 (p + 1) (natLE 1 1) (u.startPort p)) ∧
    is (.attnRequestSet src) 0x6112 1 (natLE 1 1) u.attnSet ∧ is (.attnRequestClear src) 0x6112 1 (natLE 1 0) u.attnClear ∧
    (∀ a, a < 2 ^ 64 → s.serving = true → s.external a 256 = true → let h := beNat (s.loadBytes a 256)
      s.external a (256 + imgLength h) = true → s.stageBad a = none → answers (.fwStage src a) 0x9030 1 (natLE 8 a) fun x =>
        if s.imageValid h (s.loadBytes (a + 256) (imgLength h)) then x.abort = 0 ∧ x.st = u.stage h ∧ x.result = stageResult h
        else x.abort = 0x0104 ∧ x.st = u) ∧
    (∀ off data, 0 < data.length → data.length ≤ 1020 → off + data.length ≤ 0x2000000 → s.power.state ≠ 1 →
      is (.fwUpload src (natLE 4 off ++ data)) 0x9030 3 (natLE 4 off ++ data)
        { u with trust := { s.trust with upload := pokes off data s.trust.upload } }) ∧
    (s.power.state ≠ 1 → let h := beNat (peeks s.trust.upload 0 256)
      256 + imgLength h ≤ 0x2000000 → answers (.fwStageUpload src 1) 0x9030 4 (natLE 1 1) fun x =>
        if s.imageValid h (peeks s.trust.upload 256 (imgLength h)) then
          x.abort = 0 ∧ x.result = stageResult h ∧ x.st.trust.upload = []
        else x.abort = 0x0104 ∧ x.st = u) ∧
    (∀ k v r, k < 4 → v < 256 → (s.kind k).fused ≤ v → (s.kind k).running = some r → v ≤ r.svn →
      is (.svnCommit src k v) 0x9021 (k + 1) (natLE 1 v) (u.modKind k fun x => { x with fused := v })) ∧
    (∀ nonce : BitVec 256, is (.attestNonce src nonce) 0x9040 1 (natLE 32 nonce.toNat) u ∧
      ∀ t, (afterWrite 0x9040 (natLE 32 nonce.toNat) t).trust.evidence = ((nonce, t.evidenceFor nonce) :: t.trust.evidence).take 8) ∧
    (s.mayRestart = true → s.power.restart = 0 → let s1 := u.modPower fun p => { p with thermTrip := false }
      (s.noCtxs = true → is (.restartWarm src) 0x2030 1 (natLE 1 1) (s1.startBringup false)) ∧
      is (.restartDestroy src) 0x2030 1 (natLE 1 2) (s1.restartAll 2 2) ∧
      is (.restartBaseCamp src) 0x2030 1 (natLE 1 3) (s1.restartAll 3 2))

/-! ## The host -/

/-- A BAR2 read that the function may make returns the bytes; one it may not is refused and counted; a BAR2 write that has room puts its
bytes (but those that change a protected bit of a compressed extent: log 76) and changes no other byte. A tally doorbell adds to a tally
in reach and is counted as a drop otherwise. Behind a posted write that waits for room in a snapshot's reserve, writes and doorbells of
the function wait in order, as does one that finds no room itself (the model's order: log 94), and an HSIG waits behind them. A ring doorbell
appends the entries it announces. The entry at the front of a ring that serves is taken and completed in order: START sends a start
request to every thread it names, HSIG signals, NOP does nothing more, HCOPY is taken and moves its bytes as it ends, and the
operations that stand in for dictionary entries are applied for contexts the function may name. DOE requests are answered. The
model's own (log 104): a doorbell of a ring that is off is ignored, and an HSIG of a tally out of reach completes with abort 0. -/
def Obligations.HostRequestsHaveTheirEffects : Prop :=
  ∀ (s : State) (f r : Nat), f < 64 → r < 16 →
    let front (op : Nat) (e : BitVec 512) : Prop := s.frontOf f r false = some e ∧ qOp e = op ∧ s.mayName f (qCtx e) = true
    let finishes (i : Instr) (u : State) (e : BitVec 512) (result : Nat) : Prop :=
      exec i s = .next ((u.takeEntry f r).completeRing f r e 0 result)
    let signals (t : State) (g n : Nat) : Prop := (s.gtally g).claims = [] → (s.gtally g).value + n < 2 ^ 32 →
      (t.gtally g).value = (s.gtally g).value + n
    (∀ off len, s.pcieUp = true → s.homesRun = true → s.inBar2 f off len = true → (s.fn f).posted = [] →
      let a := (s.fn f).bar2Base + off
      (s.fnMay f a len = true → s.badBlock a len = none →
        exec (.bar2Read f off len .clean) s = .next { s with sent := .hostRead f (s.loadBytes a len) :: s.sent }) ∧
      (s.fnMay f a len = false → ∃ t, exec (.bar2Read f off len .clean) s = .next t ∧ t.sent = .hostRefusal f false :: s.sent ∧
        (t.fn f).drops = satAdd 32 (s.fn f).drops 1 ∧ t.mem = s.mem)) ∧
    (∀ off data, s.pcieUp = true → s.homesRun = true → s.inBar2 f off data.length = true → let a := (s.fn f).bar2Base + off
      (s.fnMay f a data.length = true → (s.fn f).posted = [] → s.hostRoom a data.length = true →
        ∃ t, exec (.bar2Write f off data) s = .next t ∧
        ((scratchBase ≤ a ∨ ∀ n, (s.tile n).extents = []) → s.badBlock a data.length = none → t.loadBytes a data.length = data) ∧
        ∀ b, (b < a ∨ a + data.length ≤ b) → peek b t.mem = peek b s.mem) ∧
      (s.fnMay f a data.length = true → (s.fn f).posted ≠ [] ∨ s.hostRoom a data.length = false →
        exec (.bar2Write f off data) s = .next (s.modFn f fun x => { x with posted := x.posted ++ [.write a data] })) ∧
      (s.fnMay f a data.length = false → exec (.bar2Write f off data) s = .next (s.countFnDrop f))) ∧
    (∀ g (n : Word), g < 65536 → s.pcieUp = true → s.serving = true →
      ((s.fn f).posted = [] → s.fnTally f g = true → ∃ t, exec (.tallyDb f g n) s = .next t ∧ signals t g n.toNat ∧ t.mem = s.mem) ∧
      ((s.fn f).posted = [] → s.fnTally f g = false → exec (.tallyDb f g n) s = .next (s.countFnDrop f)) ∧
      ((s.fn f).posted ≠ [] → exec (.tallyDb f g n) s =
        .next (s.modFn f fun x => { x with posted := x.posted ++ [.signal g n.toNat] }))) ∧
    (∀ tail es, s.pcieUp = true → let x := s.ring f r
      (x.enable = true → tail < x.size → es.length = (tail + x.size - x.tail % x.size) % x.size → exec (.ringDb f r tail es) s =
        .next (s.modRing f r fun y => { y with tail := tail, entries := y.entries ++ es })) ∧
      (x.enable = false → exec (.ringDb f r tail es) s = .next s)) ∧
    (∀ e, front 3 e → qArg e 464 0 = 0 → s.running (qCtx e) = true → s.destroying (qCtx e) = false →
      let team := qArg e 479 468
      let who := (s.teamTiles team).flatMap fun n => (startStreams e).map fun st => (n, st)
      s.teamOf (qCtx e) team = true → s.teamBlocked team = false → (∀ w ∈ who, (s.thread w.1 w.2).run = .park) →
      ∃ u l, finishes (.start f r) u e 0 ∧ u.net = s.net ++ l ∧ Same ({ net := true } : Parts).others s u ∧
        l.map (fun p => (p.dst, p.body)) = who.map fun w => (.tile w.1, .start w.2)) ∧
    ((s.fn f).posted ≠ [] → exec (.hsig f r) s = .next s) ∧
    (∀ e, front 5 e → (s.fn f).posted = [] → qArg e 431 0 = 0 → s.destroying (qCtx e) = false → ∃ u, finishes (.hsig f r) u e 0 ∧
      (s.fnTally f (qArg e 479 464) = true → signals u (qArg e 479 464) (qArg e 463 432)) ∧
      (s.fnTally f (qArg e 479 464) = false → u = s.countFnDrop f)) ∧
    (∀ e, front 0 e → qArg e 479 0 = 0 → finishes (.ringNop f r) s e 0) ∧
    (∀ e, s.frontOf f r true = some e → qOp e = 4 → hcRefusal s f e = 0 →
      let takes (i : Instr) (bytes : List Byte) : Prop :=
        exec i s = .next ((s.takeEntry f r).modRing f r fun x => { x with copies := x.copies ++ [{ entry := e, data := bytes }] })
      (hcToHost e = true → s.badBlock (hcAddr e) (hcLen e) = none →
        ∀ data, takes (.hcopy f r data .clean) (s.loadBytes (hcAddr e) (hcLen e))) ∧
      (hcToHost e = false → ∀ data, data.length = hcLen e → takes (.hcopy f r data .clean) data)) ∧
    (∀ (k : Nat) (x : Copy), s.pcieUp = true → s.serving = true → (s.ring f r).copies[k]? = some x → hcTallyEn x.entry = false →
      (hcToHost x.entry = true → exec (.hcopyDone f r k) s =
        .next (((s.modRing f r fun y => { y with copies := y.copies.eraseIdx k }).toHost f (hcHost x.entry) x.data).completeRing
          f r x.entry x.abort 0)) ∧
      (hcToHost x.entry = false → s.hostRoom (hcAddr x.entry) (hcLen x.entry) = true → scratchBase ≤ hcAddr x.entry →
        s.badBlock (hcAddr x.entry) (hcLen x.entry) = none → x.data.length = hcLen x.entry → ∃ u : State, exec (.hcopyDone f r k) s = .next (u.completeRing f r x.entry x.abort 0) ∧
          u.loadBytes (hcAddr x.entry) (hcLen x.entry) = x.data ∧ (u.ring f r).copies = (s.ring f r).copies.eraseIdx k ∧
          ∀ b, (b < hcAddr x.entry ∨ hcAddr x.entry + hcLen x.entry ≤ b) → peek b u.mem = peek b s.mem)) ∧
    (∀ e, s.power.rom = false →
      let stands (i : Instr) (index sub : Nat) (value : List Byte) (a : Answer) : Prop :=
        finishes i (a.st.logWrite (.queue f r) index sub 0 [] value) e a.result
      (∀ c, front 6 e → qCtx e = c → 0 < c → c < 256 → qArg e 479 0 = 0 → s.exists? c = true → (s.ctx c).state ≠ 4 →
        stands (.ctxReset (.queue f r) c) 0x6001 2 (natLE 1 c) { st := s.askReset c 0 false }) ∧
      (∀ c n, front 1 e → qCtx e = c → c < 256 → qArg e 479 0 = 0 → s.changeable c = true → s.newChan c = some n →
        stands (.chanCreate (.queue f r) c) 0x6020 1 (natLE 1 c) { st := n.2, result := n.1.toNat }) ∧
      (∀ h : Word, front 2 e → qArg e 479 448 = h.toNat → qArg e 447 0 = 0 → s.chanLive h = true → s.mayName f (s.chanOwner h) = true →
        s.changeable (s.chanOwner h) = true → s.carried h = false →
        stands (.chanDestroy (.queue f r) h) 0x6020 2 (natLE 4 h.toNat) { st := s.dropChan h }) ∧
      (∀ n, front 7 e → qArg e 431 0 = 0 → s.submit (qArg e 479 432) (s.mayName f) = .inr n →
        stands (.jobSubmit (.queue f r) (qArg e 479 432)) 0xA010 1 (natLE 8 (qArg e 479 432)) { st := n.2, result := n.1 })) ∧
    (s.pcieUp = true → s.physical f = true →
      exec (.doeDiscovery f 0) s = .next { s with sent := .doe f [1#8, 0#8, 0#8, 1#8] :: s.sent } ∧
      (∀ nonce : List Byte, nonce.length = 32 → exec (.doeAttest f (1#8 :: nonce)) s =
        .next { s with sent := .doe f (natLE 714 (s.evidenceFor (BitVec.ofNat 256 (leNat nonce))).toNat) :: s.sent }))

/-! ## The onboard service -/

/-- A job that is next starts: a model batch whose channels there are is running, over the members of its team. A free member is handed
the next model: its tiles' data memory holds the launch block where no block it is written into in part is bad, and the batch moves on;
a model whose state cannot be laid out, or whose record cannot be read, is abandoned (the model's choice: log 47), and nothing is handed
out while the job's context is reset. A model is done when its member's tally has
reached its count, from which nothing is taken (the model's reading: log 105), and failed where its team has halted. The heartbeat rises by one. A complex that stops abandons the jobs that run on
it, and the service fails unless it is restarted (the stop's alarm is a free value: log 43). -/
def Obligations.TheServiceWorks : Prop :=
  ∀ s : State,
    (∀ j0, s.svcStarts = true → s.nextJob = some j0 → ∃ t j, exec .jobStart s = .next t ∧ t.job j0.id = some j ∧ j.state ≠ 0 ∧
      (j0.kind = 0 → (s.modelChans j0.ctx j0.count).isSome = true → j.state = 1 ∧ j.next = j0.next ∧
        j.members.map (·.team) = s.batchMembers j0 ∧ t.mem = s.mem) ∧
      (j0.kind ≠ 0 → j0.kind ≠ 1 → t.mem = s.mem)) ∧
    (∀ id j k, s.svcStarts = true → s.job id = some j → j.state = 1 → j.kind = 0 → j.cancelling = false → j.next < j.count →
      s.freeMember j = some k → s.notResetting j.ctx = true → let team := (lget j.members k { team := 0 }).team
      s.modelFits j (s.model j j.next) (s.teamTiles team).length = true → s.badBlock (State.modelAt j j.next) 32 = none → ∃ t j', exec (.modelHandout id) s = .next t ∧
        t.job id = some j' ∧ j'.next = j.next + 1 ∧ (lget j'.members k { team := 0 }).model = some j.next ∧
        ∀ n ∈ s.teamTiles team, (s.tile n).corePartBad 0 j.launchOff (launchBlock j.next (lget j.chans j.next 0) (s.model j j.next)) = none →
          peeks (t.tile n).dmem j.launchOff 32 = launchBlock j.next (lget j.chans j.next 0) (s.model j j.next)) ∧
    (∀ id j k, s.svcStarts = true → s.job id = some j → j.state = 1 → j.kind = 0 → j.cancelling = false → j.next < j.count →
      s.freeMember j = some k → s.notResetting j.ctx = true → let team := (lget j.members k { team := 0 }).team
      s.modelFits j (s.model j j.next) (s.teamTiles team).length = false ∨ (s.badBlock (State.modelAt j j.next) 32).isSome = true →
      exec (.modelHandout id) s = .next ((s.setStatus j j.next 3).settleBatch { j with next := j.next + 1 })) ∧
    (∀ id j, s.job id = some j → s.notResetting j.ctx = false → exec (.modelHandout id) s = .next s) ∧
    (∀ id j k mb i, s.svcRuns = true → s.job id = some j → j.members[k]? = some mb → mb.model = some i → j.state = 1 →
      (s.teamHalted mb.team = true → exec (.modelDone id k) s = .next (s.modelOver j k mb i 2)) ∧
      (s.teamHalted mb.team = false → mb.doneAt + mb.given ≤ (s.gtally (j.doneBase + k)).value →
        exec (.modelDone id k) s = .next (s.modelOver j k mb i 1)) ∧
      (s.teamHalted mb.team = false → (s.gtally (j.doneBase + k)).value < mb.doneAt + mb.given →
        exec (.modelDone id k) s = .next s)) ∧
    (s.svcRuns = true → exec .serviceHeartbeat s =
      .next { s with service := { s.service with heartbeat := (s.service.heartbeat + 1) % 2 ^ 32 } }) ∧
    (∀ die restarts, die < 4 → s.svcRuns = true → ∃ t, exec (.serviceComplexStop die restarts) s = .next t ∧
      t.service.state = (if restarts then 1 else 2) ∧
      ∀ j ∈ s.service.jobs, j.state = 1 → j.die = die → ∃ j', t.job j.id = some j' ∧ j'.state = 4)

/-! ## Power, bring-up and the panel -/

/-- Either supply good where neither was starts base camp; main power good in BASE begins a bring-up, and in HOLD where the module is
cool. Main power failing with the backup good starts the ride-through from BRINGUP or SERVICE; with no backup everything but fuses,
images and the change log's head is lost. The fourth point of the ride-through enters HOLD: what lies in the tile stores and scratch is
gone, external memory is as it was. A backup that fails in HOLD loses the memory. HOLD's limit, a failed rail (named in the event) and a
failed phase end in STOPPED. Base camp's own start ends in the state the module is in. The phases of a bring-up follow each
other, and the last enters SERVICE. The model's own: scratch reading 0 after its loss (log 5), where the event names the rail (log 48),
grade and yield map outlasting both supplies (log 51), scratch kept at phase 4 (log 106). -/
def Obligations.PowerStatesFollowTheirEvents : Prop :=
  ∀ s : State, let p := s.power
    let leads (i : Instr) (P : State → Prop) : Prop := ∃ t, exec i s = .next t ∧ P t
    (p.mainOk = false → p.backupOk = false →
      leads .mainGood (fun t => t.power.mainOk = true ∧ t.power.phase = 1 ∧ t.power.rom = false ∧ t.mem = s.mem) ∧
      leads .backupGood (fun t => t.power.backupOk = true ∧ t.power.phase = 1 ∧ t.power.rom = false ∧ t.mem = s.mem)) ∧
    (p.mainOk = true → p.backupOk = false →
      exec .backupGood s = .next { s with power := { p with backupOk := true } } ∧
      (∀ v, leads (.mainFail v) fun t => t.power.state = 0 ∧ t.power.mainOk = false ∧ t.mem = [] ∧ t.pending = s.pending ∧
        t.power.grade = p.grade ∧ t.power.yieldMap = p.yieldMap ∧
        ∀ k, (t.kind k).fused = (s.kind k).fused)) ∧
    (p.mainOk = false → p.backupOk = true →
      (p.state = 0 → p.phase = 0 → leads .mainGood fun t => t.power.state = 1 ∧ t.power.phase = 2 ∧ t.power.mainOk = true) ∧
      (p.state = 4 → p.cool = true → p.rom = false → leads .mainGood fun t => t.power.state = 1 ∧
        t.power.phase = if p.phase = 1 then 1 else 2) ∧
      leads .backupFail (fun t => t.power.state = 0 ∧ t.power.backupOk = false ∧ t.mem = [])) ∧
    (p.mainOk = true → p.backupOk = true →
      (p.state ≠ 4 → exec .backupFail s = .next { s with power := { p with backupOk := false, status := p.status ||| 1#64 } }) ∧
      (p.state = 4 → p.rom = false → leads .backupFail fun t => t.power.backupOk = false ∧ t.power.memKept = false ∧
        t.power.status.getLsbD 2 = true ∧ t.power.eventSeq = (p.eventSeq + 1) % 65536 ∧
        t.power.state = if p.cool then 1 else 5) ∧
      (∀ v, p.state = 1 ∨ p.state = 2 → leads (.mainFail v) fun t =>
        t.power.state = 3 ∧ t.power.rideSteps = 0 ∧ t.power.mainOk = false ∧ t.power.eventSeq = (p.eventSeq + 1) % 65536) ∧
      (∀ v, p.state ≠ 1 → p.state ≠ 2 → exec (.mainFail v) s = .next { s with power := { p with mainOk := false } })) ∧
    (p.mainOk = true → p.state = 2 → leads .mainExcursion fun t => t.power.status.getLsbD 3 = true ∧
      bits t.power.status.toNat 23 8 = min 0xFFFF (bits p.status.toNat 23 8 + 1) ∧ Same ({ power := true } : Parts).others s t) ∧
    (p.state = 1 → p.phase = 2 → 0 < p.slots → p.slots < 8 → exec .powerUpSlot s = .next { s with power := { p with slots := p.slots + 1 } }) ∧
    (∀ r, 1 ≤ p.state → p.state ≤ 4 → leads (.railFault r) fun t => t.power.state = 5 ∧ t.power.eventSeq = (p.eventSeq + 1) % 65536 ∧
      ∃ e l, t.power.events = e :: l ∧ e.toNat / 2 ^ 252 = 0xB ∧ bits e.toNat 248 232 = (Config.railCode r).toNat % 2 ^ 17) ∧
    (p.state = 3 →
      (p.rideSteps < 3 → leads .rideThroughStep fun t => t.power.state = 3 ∧ t.power.rideSteps = p.rideSteps + 1 ∧
        Same ({ power := true } : Parts).others s t) ∧
      (p.rideSteps = 3 → p.rom = false → leads .rideThroughStep fun t =>
        t.power.state = (if p.mainOk && p.cool then 1 else if p.backupOk then 4 else 5) ∧
        (∀ a, a < nearBase → peek a t.mem = 0) ∧ ∀ a, nearBase ≤ a → peek a t.mem = peek a s.mem)) ∧
    (p.state = 4 → p.phase ≠ 1 → leads .holdLimit fun t => t.power.state = 5 ∧ t.power.status.getLsbD 2 = true) ∧
    (∀ r, r.wf = true → let ends (P : State → Prop) : Prop := leads (.bringupPhaseComplete r) P
      (p.phase = 1 → p.state = 1 → (s.startKind 0).isSome = true → ends fun t => t.power.phase = 2 ∧ t.power.state = 1) ∧
      (p.phase = 1 → p.state = 1 → (s.startKind 0).isSome = false → ends fun t => t.power.state = 5 ∧ t.power.rom = true ∧
        8 ≤ t.trouble.bringupFaults) ∧
      (p.phase = 1 → p.state = 0 → (s.startKind 0).isSome = true → ends fun t => t.power.rom = p.rom ∧
        if p.mainOk then t.power.state = 1 ∧ t.power.phase = 2 else t.power.state = 0 ∧ t.power.phase = 0) ∧
      (p.phase = 1 → p.state = 3 ∨ p.state = 4 → (s.startKind 0).isSome = true → ends fun t => t.power.state = p.state ∧
        t.power.phase = 0 ∧ t.mem = s.mem) ∧
      (p.phase = 2 → p.slots = 8 → seamsFail r = false → (s.startKind 1).isSome = true → ends fun t => t.power.phase = 3 ∧
        t.mem = s.mem) ∧
      (p.phase = 2 → p.slots = 8 → seamsFail r = true → ends fun t => t.power.state = 5) ∧
      (p.phase = 3 → (s.startKind 2).isSome = true → ends fun t => t.power.phase = 4 ∧ t.broadcast.isSome = true ∧ t.mem = s.mem ∧
        ∀ n, n < 2048 → ∃ d, t.broadcast = some d ∧ (t.tile n).dmem = broadcastData d) ∧
      (p.phase = 4 → s.yieldFails r = false → ends fun t => t.power.phase = 5 ∧ t.teams = [(0, deviceTeam)] ∧
        (∀ n, (t.tile n).dmem = []) ∧
        (∀ a, a < scratchBase → peek a t.mem = 0) ∧ ∀ a, scratchBase ≤ a → peek a t.mem = peek a s.mem) ∧
      (p.phase = 4 → s.yieldFails r = true → ends fun t => t.power.state = 5) ∧
      (p.phase = 5 → p.warm = false → (s.retireChannels r.failedChannels).memoryFails = false → ends fun t =>
        t.power.phase = 6 ∧ t.power.memKept = true ∧ t.mem = s.mem) ∧
      (p.phase = 6 → p.warm = false → (s.retireChannels r.failedChannels).memoryFails = false → ends fun t =>
        t.power.phase = 7 ∧ ∀ a, nearBase ≤ a → peek a t.mem = 0) ∧
      (p.phase = 7 → (s.startKind 3).isSome = true → ends fun t => t.power.state = 2 ∧ t.power.phase = 0 ∧ t.service.state = 1 ∧
        t.mem = s.mem))

/-- The power controller lowers no ceiling below 400 MHz and none while the measured power is at or below the limit: over it each
ceiling goes down a step, and with all at 400 MHz over_limit is set; below 97 % of it for ten ticks each goes up a step, unless the clock
setting itself still moves by its 25 MHz steps (the order of the two: log 107). Outside BRINGUP and SERVICE it measures alone. A junction of 115 °C
or more in BRINGUP or SERVICE trips the ride-through; cooler samples of dies are only noted. A tile's frequency moves in steps of 25 MHz
under its ceiling; a droop lengthens its periods until it recovers. In SERVICE a short press sets the attention state and a long press
asks for a restart; in STOPPED a long press begins a bring-up where the module may start. -/
def Obligations.LoopsAndButtonAct : Prop :=
  ∀ s : State, let p := s.power
    (∀ w, w < 65536 → p.camp = true → p.state = 1 ∨ p.state = 2 → ∃ t, exec (.powerControlTick w) s = .next t ∧ t.power.powerW = w ∧
      Same ({ power := true } : Parts).others s t ∧ t.power.state = p.state ∧
      (p.limit < w → t.power.under = 0 ∧
        (∀ n, n < 2048 → t.power.ceiling n ≤ p.ceiling n ∧ 400 ≤ t.power.ceiling n ∧
          (425 ≤ p.ceiling n → t.power.ceiling n = p.ceiling n - 25)) ∧
        ((∃ n, n < 2048 ∧ p.ceiling n ≠ 400) → t.power.status = p.status) ∧
        ((∀ n, n < 2048 → p.ceiling n = 400) → t.power = { p with powerW := w, under := 0, status := p.status ||| 2#64 })) ∧
      (w ≤ p.limit → t.power.status = p.status ∧
        (p.limit * 97 ≤ w * 100 → t.power = ({ p with powerW := w, under := 0 } : Power).follow) ∧
        (w * 100 < p.limit * 97 → p.under < 9 → t.power = ({ p with powerW := w, under := p.under + 1 } : Power).follow) ∧
        (w * 100 < p.limit * 97 → p.under = 9 → t.power.under = 0 ∧ (p.follow.clockLive = p.clockLive →
          t.power.clockLive = p.clockLive ∧ ∀ n, n < 2048 → p.ceiling n ≤ t.power.ceiling n ∧
          (400 < p.ceiling n → p.ceiling n < p.clockLive → t.power.ceiling n = p.ceiling n + 25))))) ∧
    (∀ w, w < 65536 → p.camp = true → p.state ≠ 1 → p.state ≠ 2 →
      exec (.powerControlTick w) s = .next { s with power := { p with powerW := w } }) ∧
    (p.follow = { p with clockLive := p.follow.clockLive } ∧ (p.state ≠ 2 → p.follow = p) ∧
      (p.state = 2 → p.clockLive < p.clockMhz → p.follow.clockLive = min p.clockMhz (p.clockLive + 25)) ∧
      (p.state = 2 → p.clockMhz ≤ p.clockLive → p.follow.clockLive = max p.clockMhz (p.clockLive - 25))) ∧
    (∀ temps, (∀ e ∈ temps, e.1 < 2060) → p.camp = true → p.state = 1 ∨ p.state = 2 →
      ((∃ e ∈ temps, 115000 ≤ e.2) → ∃ t, exec (.thermalSample temps) s = .next t ∧ t.power.state = 3 ∧ t.power.thermTrip = true ∧
        t.power.eventSeq = (p.eventSeq + 1) % 65536) ∧
      ((∀ e ∈ temps, e.2 < 115000) → ∃ t, exec (.thermalSample temps) s = .next t ∧ t.power.state = p.state ∧
        Same ({ power := true } : Parts).others s t ∧
        (∀ n v, temps = [(n, v)] → tget 0 n t.power.temps = v ∧ (2048 ≤ n → t.power = { p with temps := tset n v p.temps })))) ∧
    (∀ n, n < 2048 → s.alive n = true →
      (p.freq n + 25 ≤ p.ceiling n → exec (.islandFreqStep n true) s =
        .next { s with power := { p with freqs := tset n (p.freq n + 25) p.freqs } }) ∧
      (p.ceiling n < p.freq n + 25 → exec (.islandFreqStep n true) s = .next s) ∧
      (25 < p.freq n → exec (.islandFreqStep n false) s = .next { s with power := { p with freqs := tset n (p.freq n - 25) p.freqs } }) ∧
      (∃ t, exec (.supplyDroop n) s = .next t ∧ n ∈ t.power.droops ∧ (∀ m ∈ p.droops, m ∈ t.power.droops) ∧
        t = { s with power := { p with droops := t.power.droops } }) ∧
      exec (.droopRecover n) s = .next { s with power := { p with droops := p.droops.filter (· != n) } }) ∧
    (p.rom = false →
      (s.serving = true → ∃ t, exec .buttonShortPress s = .next t ∧ t.panel.attn = true ∧ t.camp.headSeq = (s.camp.headSeq + 1) % 2 ^ 64) ∧
      (s.serving = true → p.camp = true → p.restart = 0 → ∃ t, exec .buttonLongPress s = .next t ∧ t.panel.held = 2 ∧
        (t.power.restart = 2 ∨ t.power.state = 1)) ∧
      (p.state = 5 → p.mayStart = true → ∃ t, exec .buttonLongPress s = .next t ∧ t.power.state = 1 ∧ t.panel.held = 2)) ∧
    (s.panel.held = 1 → s.serving = false → p.state ≠ 5 →
      exec .buttonLongPress s = .next { s with panel := { s.panel with held := 2 } }) ∧
    (s.buttonActs = true → exec .buttonHold2s s = .next { s with panel := { s.panel with held := 1 } }) ∧
    exec .buttonMiddlePress s = .next { s with panel := { s.panel with held := 0 } }
end

