-- ==== Sys2Proof/Laws/Bits.lean ====
section
/-!
SUPPORT. Fields of packed words and byte strings: reading a field of a packed layout gives its value, reading back the bytes of a
number gives the number.
-/
namespace Sys2Proof

/-- The bits a layout takes. -/
def packWidth (fs : List (Nat × Nat)) : Nat := (fs.map (·.1)).sum

theorem pack_foldl (acc : Nat) (fs : List (Nat × Nat)) :
    fs.foldl (fun acc f => acc <<< f.1 + f.2 % 2 ^ f.1) acc = acc * 2 ^ packWidth fs + pack fs := by
  induction fs generalizing acc with
  | nil => simp [pack, packWidth]
  | cons f fs ih =>
    have h : packWidth (f :: fs) = f.1 + packWidth fs := by simp [packWidth]
    simp only [pack, List.foldl_cons] at ih ⊢
    rw [ih, ih (0 <<< f.1 + f.2 % 2 ^ f.1), h, Nat.shiftLeft_eq, pow_add]
    simp only [Nat.zero_shiftLeft, Nat.zero_add]
    ring

theorem pack_cons (f : Nat × Nat) (fs : List (Nat × Nat)) : pack (f :: fs) = f.2 % 2 ^ f.1 * 2 ^ packWidth fs + pack fs := by
  have h := pack_foldl (0 <<< f.1 + f.2 % 2 ^ f.1) fs
  simp only [Nat.zero_shiftLeft, Nat.zero_add] at h
  rw [← h]
  simp [pack]

theorem pack_append (l r : List (Nat × Nat)) : pack (l ++ r) = pack l * 2 ^ packWidth r + pack r := by
  have h := pack_foldl (pack l) r
  rw [← h]
  simp [pack, List.foldl_append]

theorem pack_lt (fs : List (Nat × Nat)) : pack fs < 2 ^ packWidth fs := by
  induction fs with
  | nil => simp [pack, packWidth]
  | cons f fs ih =>
    rw [pack_cons]
    have h : packWidth (f :: fs) = f.1 + packWidth fs := by simp [packWidth]
    have m : f.2 % 2 ^ f.1 < 2 ^ f.1 := Nat.mod_lt _ (by positivity)
    rw [h, pow_add]
    nlinarith [pow_pos (show 0 < 2 by decide) (packWidth fs)]

/-- A field of a packed layout: its value, cut to the field's width. -/
theorem bits_pack (fs : List (Nat × Nat)) (i w v : Nat) (h : fs[i]? = some (w, v)) (hw : 0 < w) :
    let lo := packWidth (fs.drop (i + 1))
    bits (pack fs) (lo + w - 1) lo = v % 2 ^ w := by
  intro lo
  have hi : i < fs.length := (List.getElem?_eq_some_iff.mp h).1
  have hv : fs[i] = (w, v) := (List.getElem?_eq_some_iff.mp h).2
  have e : fs = fs.take i ++ (w, v) :: fs.drop (i + 1) := by
    conv => lhs; rw [← List.take_append_drop i fs]
    rw [List.drop_eq_getElem_cons hi, hv]
  have p : pack fs = (pack (fs.take i) * 2 ^ w + v % 2 ^ w) * 2 ^ lo + pack (fs.drop (i + 1)) := by
    conv => lhs; rw [e]
    rw [pack_append, pack_cons]
    have : packWidth ((w, v) :: fs.drop (i + 1)) = w + lo := by simp [packWidth, lo]
    rw [this, pow_add]
    simp only [lo]
    ring
  have l := pack_lt (fs.drop (i + 1))
  unfold bits
  have x : lo + w - 1 + 1 - lo = w := by omega
  rw [x, p, Nat.shiftRight_eq_div_pow]
  have q : ((pack (fs.take i) * 2 ^ w + v % 2 ^ w) * 2 ^ lo + pack (fs.drop (i + 1))) / 2 ^ lo = pack (fs.take i) * 2 ^ w + v % 2 ^ w := by
    rw [Nat.mul_comm, Nat.mul_add_div (by positivity), Nat.div_eq_of_lt l, Nat.add_zero]
  rw [q, Nat.mul_comm, Nat.mul_add_mod, Nat.mod_mod]

/-- The same, with the field's place given. -/
theorem bits_pack_at (fs : List (Nat × Nat)) (i w v hi lo : Nat) (h : fs[i]? = some (w, v)) (hw : 0 < w)
    (hl : packWidth (fs.drop (i + 1)) = lo) (hh : lo + w - 1 = hi) : bits (pack fs) hi lo = v % 2 ^ w := by
  subst hl
  subst hh
  exact bits_pack fs i w v h hw

/-- A layout that fills its word is the word. -/
theorem toNat_ofNat_pack {n : Nat} (fs : List (Nat × Nat)) (h : packWidth fs = n) : (BitVec.ofNat n (pack fs)).toNat = pack fs := by
  rw [BitVec.toNat_ofNat]
  exact Nat.mod_eq_of_lt (h ▸ pack_lt fs)

theorem bit_eq_bits (w i : Nat) : bit w i = decide (bits w i i = 1) := by
  simp only [bit, bits, Nat.testBit, Nat.one_and_eq_mod_two, show i + 1 - i = 1 by omega, pow_one]
  rcases Nat.mod_two_eq_zero_or_one (w >>> i) with h | h <;> simp [h]

theorem bits_lt (w hi lo : Nat) : bits w hi lo < 2 ^ (hi + 1 - lo) := Nat.mod_lt _ (by positivity)

/-! ## Byte strings -/

@[simp] theorem natLE_length (n v : Nat) : (natLE n v).length = n := by
  induction n generalizing v with
  | zero => rfl
  | succ n ih => simp [natLE, ih]

theorem natLE_getElem (n v i : Nat) (h : i < n) : (natLE n v)[i]'(by simpa using h) = BitVec.ofNat 8 (v / 256 ^ i) := by
  induction n generalizing v i with
  | zero => omega
  | succ n ih =>
    cases i with
    | zero => simp [natLE]
    | succ i =>
      simp only [natLE, List.getElem_cons_succ]
      rw [ih (v >>> 8) i (by omega), Nat.shiftRight_eq_div_pow, Nat.div_div_eq_div_mul, pow_succ' 256 i]

theorem leNat_natLE (n v : Nat) : leNat (natLE n v) = v % 256 ^ n := by
  induction n generalizing v with
  | zero => simp [natLE, leNat, Nat.mod_one]
  | succ n ih =>
    simp only [natLE, leNat, ih, Nat.shiftRight_eq_div_pow, BitVec.toNat_ofNat]
    have : v % 256 ^ (n + 1) = v % 256 + 256 * (v / 256 % 256 ^ n) := by rw [pow_succ', Nat.mod_mul]
    simpa using this.symm

theorem leNat_lt (bs : List Byte) : leNat bs < 256 ^ bs.length := by
  induction bs with
  | nil => simp [leNat]
  | cons b bs ih =>
    have := b.isLt
    simp only [leNat, List.length_cons, pow_succ']
    omega

theorem natLE_leNat (bs : List Byte) : natLE bs.length (leNat bs) = bs := by
  induction bs with
  | nil => rfl
  | cons b bs ih =>
    have hb := b.isLt
    have h1 : (b.toNat + 256 * leNat bs) >>> 8 = leNat bs := by rw [Nat.shiftRight_eq_div_pow]; omega
    have h2 : BitVec.ofNat 8 (b.toNat + 256 * leNat bs) = b := by
      apply BitVec.eq_of_toNat_eq
      simp
      omega
    simp [natLE, leNat, h1, h2, ih]

theorem teamCtx_lt (d : BitVec 128) : Machine.teamCtx d < 256 := bits_lt _ _ _

end Sys2Proof
end

