-- ==== Sys2Proof/Laws/Memory.lean ====
section
/-!
SUPPORT. Device memory: reading what was written, and the canonical form that every write and every erasure keeps.
-/
namespace Sys2Proof.Machine

/-- Raising the bound from which addresses rise. -/
theorem Memory.wfFrom_mono {lo hi : Nat} {m : List Host.Cell} (h : lo ≤ hi) (w : Memory.wfFrom hi m = true) :
    Memory.wfFrom lo m = true := by
  cases m with
  | nil => rfl
  | cons c r =>
    obtain ⟨a, v⟩ := c
    simp only [Memory.wfFrom, Bool.and_eq_true, decide_eq_true_eq] at w ⊢
    exact ⟨⟨by omega, w.1.2⟩, w.2⟩

theorem Memory.wfFrom_filter {lo : Nat} {m : List Host.Cell} (p : Host.Cell → Bool) (w : Memory.wfFrom lo m = true) :
    Memory.wfFrom lo (m.filter p) = true := by
  induction m generalizing lo with
  | nil => rfl
  | cons c r ih =>
    obtain ⟨b, x⟩ := c
    simp only [Memory.wfFrom, Bool.and_eq_true, decide_eq_true_eq] at w
    obtain ⟨⟨hlo, hx⟩, hr⟩ := w
    rw [List.filter_cons]
    split_ifs
    · simp only [Memory.wfFrom, Bool.and_eq_true, decide_eq_true_eq]
      exact ⟨⟨hlo, hx⟩, ih hr⟩
    · exact Memory.wfFrom_mono (by omega) (ih hr)

/-- Bytes erased by address keep the canonical form. -/
theorem Memory.wf_filter {m : List Host.Cell} (p : Host.Cell → Bool) (w : Memory.wf m = true) : Memory.wf (m.filter p) = true :=
  Memory.wfFrom_filter p w

theorem Memory.wfFrom_putCell {lo a : Nat} {v : Byte} {m : List Host.Cell} (h : lo ≤ a) (hv : v ≠ 0#8)
    (hm : ∀ c ∈ m, c.1 ≠ a) (w : Memory.wfFrom lo m = true) : Memory.wfFrom lo (putCell a v m) = true := by
  induction m generalizing lo with
  | nil => simp [putCell, Memory.wfFrom, h, hv]
  | cons c r ih =>
    obtain ⟨b, x⟩ := c
    have hb : b ≠ a := hm (b, x) (by simp)
    simp only [Memory.wfFrom, Bool.and_eq_true, decide_eq_true_eq] at w
    obtain ⟨⟨hlo, hx⟩, hr⟩ := w
    unfold putCell
    split
    · simp only [Memory.wfFrom, Bool.and_eq_true, decide_eq_true_eq]
      exact ⟨⟨h, by simpa using hv⟩, ⟨by omega, hx⟩, hr⟩
    · simp only [Memory.wfFrom, Bool.and_eq_true, decide_eq_true_eq]
      exact ⟨⟨hlo, hx⟩, ih (by omega) (fun c hc => hm c (by simp [hc])) hr⟩

/-- A byte written keeps the canonical form. -/
theorem Memory.wf_poke {a : Nat} (v : Byte) {m : List Host.Cell} (w : Memory.wf m = true) : Memory.wf (poke a v m) = true := by
  unfold poke
  split
  · exact Memory.wf_filter _ w
  · next h =>
    refine Memory.wfFrom_putCell (Nat.zero_le a) h (fun c hc => ?_) (Memory.wf_filter _ w)
    simpa using (List.mem_filter.mp hc).2

/-- Bytes written keep the canonical form. -/
theorem Memory.wf_pokes {a : Nat} {bs : List Byte} {m : List Host.Cell} (w : Memory.wf m = true) :
    Memory.wf (pokes a bs m) = true := by
  induction bs generalizing a m with
  | nil => exact w
  | cons v vs ih => exact ih (Memory.wf_poke v w)

theorem peek_filter_self (a : Nat) (m : List Host.Cell) : peek a (m.filter fun c => c.1 != a) = 0#8 := by
  induction m with
  | nil => rfl
  | cons c r ih =>
    obtain ⟨b, x⟩ := c
    by_cases h : b = a <;> simp [List.filter_cons, peek, h, ih]

theorem peek_filter_of_ne {a b : Nat} (m : List Host.Cell) (h : b ≠ a) : peek b (m.filter fun c => c.1 != a) = peek b m := by
  induction m with
  | nil => rfl
  | cons c r ih =>
    obtain ⟨k, x⟩ := c
    by_cases e : k = a
    · rw [List.filter_cons_of_neg (by simp [e]), ih]
      simp [peek, show ¬ k = b by omega]
    · rw [List.filter_cons_of_pos (by simp [e])]
      by_cases f : k = b <;> simp [peek, f, ih]

theorem peek_putCell_self {a : Nat} {v : Byte} {m : List Host.Cell} (hm : ∀ c ∈ m, c.1 ≠ a) : peek a (putCell a v m) = v := by
  induction m with
  | nil => simp [putCell, peek]
  | cons c r ih =>
    obtain ⟨b, x⟩ := c
    have hb : b ≠ a := hm (b, x) (by simp)
    unfold putCell
    split
    · simp [peek]
    · simp only [peek, if_neg hb]
      exact ih fun c hc => hm c (by simp [hc])

theorem peek_putCell_of_ne {a b : Nat} {v : Byte} {m : List Host.Cell} (h : b ≠ a) : peek b (putCell a v m) = peek b m := by
  induction m with
  | nil => simp [putCell, peek, Ne.symm h]
  | cons c r ih =>
    obtain ⟨k, x⟩ := c
    unfold putCell
    split
    · simp [peek, Ne.symm h]
    · simp only [peek, ih]

/-- A byte just written reads as what was written. -/
theorem peek_poke_self (a : Nat) (v : Byte) (m : List Host.Cell) : peek a (poke a v m) = v := by
  unfold poke
  split
  · next h => rw [h, peek_filter_self]
  · exact peek_putCell_self fun c hc => by simpa using (List.mem_filter.mp hc).2

/-- A byte written leaves every other byte alone. -/
theorem peek_poke_of_ne {a b : Nat} (v : Byte) (m : List Host.Cell) (h : b ≠ a) : peek b (poke a v m) = peek b m := by
  unfold poke
  split
  · exact peek_filter_of_ne m h
  · rw [peek_putCell_of_ne h, peek_filter_of_ne m h]

/-- Bytes written leave every byte outside them alone. -/
theorem peek_pokes_of_not_mem {a b : Nat} {bs : List Byte} (m : List Host.Cell) (h : b < a ∨ a + bs.length ≤ b) :
    peek b (pokes a bs m) = peek b m := by
  induction bs generalizing a m with
  | nil => rfl
  | cons v vs ih =>
    simp only [List.length_cons] at h
    rw [pokes, ih _ (by omega), peek_poke_of_ne v m (by omega)]

/-- Bytes just written read as what was written. -/
theorem peek_pokes_of_mem {a i : Nat} {bs : List Byte} (m : List Host.Cell) (h : i < bs.length) :
    peek (a + i) (pokes a bs m) = bs[i] := by
  induction bs generalizing a i m with
  | nil => simp at h
  | cons v vs ih =>
    cases i with
    | zero =>
      rw [pokes, peek_pokes_of_not_mem _ (by omega)]
      exact peek_poke_self a v m
    | succ k =>
      simp only [List.length_cons] at h
      rw [pokes, show a + (k + 1) = a + 1 + k by omega, ih _ (by omega)]
      rfl

/-- Reading a range just written gives what was written. -/
theorem peeks_pokes (a : Nat) (bs : List Byte) (m : List Host.Cell) : peeks (pokes a bs m) a bs.length = bs := by
  refine List.ext_getElem (by simp [peeks]) fun i h g => ?_
  simp [peeks, peek_pokes_of_mem m g]

end Sys2Proof.Machine
end

