-- ==== Sys2Proof/Laws/Keeps.lean ====
section
/-!
SUPPORT. What an operation of the model keeps. Always: the queue stays as it is, device memory keeps its canonical form, fuses
never fall, what has left the module stays sent, the power state stays one of the six. And, part by part, what it leaves as it
was: `Parts` names the parts of the state a lemma is asked about, and a lemma's hypotheses name the parts its operation may
change. One lemma per operation follows in Laws/Keep*.lean, each in the form "if a is kept at s, it is kept after the operation".
-/
namespace Sys2Proof.Machine

/-- No property holds of a Boolean that is both. -/
theorem no {b : Bool} {p : Prop} (h : b = false) (g : b = true) : p := by
  rw [h] at g
  cases g

theorem Same.refl (pt : Parts) (s : State) : Same pt s s :=
  ⟨fun _ => rfl, fun _ => rfl, fun _ => rfl, fun _ => rfl, fun _ => rfl, fun _ => rfl, fun _ => rfl, fun _ => rfl, fun _ => rfl, fun _ => rfl, fun _ => rfl, fun _ => rfl,
    fun _ => rfl, fun _ => rfl, fun _ => rfl, fun _ => rfl, fun _ => rfl, fun _ => rfl, fun _ => rfl, fun _ => rfl, fun _ => rfl, fun _ => rfl, fun _ => rfl, fun _ => rfl⟩

theorem Same.trans {pt : Parts} {a b c : State} (h : Same pt a b) (g : Same pt b c) : Same pt a c where
  tiles e := (g.tiles e).trans (h.tiles e)
  ctxs e := (g.ctxs e).trans (h.ctxs e)
  teams e := (g.teams e).trans (h.teams e)
  teamCmds e := (g.teamCmds e).trans (h.teamCmds e)
  chans e := (g.chans e).trans (h.chans e)
  mem e := (g.mem e).trans (h.mem e)
  bad e := (g.bad e).trans (h.bad e)
  net e := (g.net e).trans (h.net e)
  gtallies e := (g.gtallies e).trans (h.gtallies e)
  huddles e := (g.huddles e).trans (h.huddles e)
  reds e := (g.reds e).trans (h.reds e)
  pools e := (g.pools e).trans (h.pools e)
  snaps e := (g.snaps e).trans (h.snaps e)
  trouble e := (g.trouble e).trans (h.trouble e)
  ports e := (g.ports e).trans (h.ports e)
  fabric e := (g.fabric e).trans (h.fabric e)
  sent e := (g.sent e).trans (h.sent e)
  camp e := (g.camp e).trans (h.camp e)
  fns e := (g.fns e).trans (h.fns e)
  service e := (g.service e).trans (h.service e)
  power e := (g.power e).trans (h.power e)
  trust e := (g.trust e).trans (h.trust e)
  panel e := (g.panel e).trans (h.panel e)
  device e := (g.device e).trans (h.device e)

structure Keeps (pt : Parts) (s t : State) : Prop where
  pending : t.pending = s.pending
  wf : Memory.wf s.mem = true → Memory.wf t.mem = true
  fused : ∀ k, (s.kind k).fused ≤ (t.kind k).fused
  sent : ∃ l, t.sent = l ++ s.sent
  mode : s.power.state ≤ 5 → t.power.state ≤ 5
  same : Same pt s t

theorem Keeps.refl {pt : Parts} (s : State) : Keeps pt s s := ⟨rfl, id, fun _ => Nat.le_refl _, ⟨[], rfl⟩, id, Same.refl pt s⟩

theorem Keeps.trans {pt : Parts} {a b c : State} (h : Keeps pt a b) (g : Keeps pt b c) : Keeps pt a c where
  pending := g.pending.trans h.pending
  wf w := g.wf (h.wf w)
  fused k := Nat.le_trans (h.fused k) (g.fused k)
  sent := by
    obtain ⟨l, hl⟩ := h.sent
    obtain ⟨m, hm⟩ := g.sent
    exact ⟨m ++ l, by rw [hm, hl, List.append_assoc]⟩
  mode w := g.mode (h.mode w)
  same := h.same.trans g.same

/-- A step that leaves the queue, the memory, the trust section, what was sent and the power section alone. -/
theorem Keeps.calm {pt : Parts} {a s t : State} (h : Keeps pt a s) (hp : t.pending = s.pending) (hm : t.mem = s.mem)
    (hk : t.trust = s.trust) (hs : t.sent = s.sent) (hw : t.power = s.power)
    (hx : Same pt s t := by constructor <;> first | exact no ‹_› | exact fun _ => rfl) : Keeps pt a t :=
  h.trans ⟨hp, fun w => hm ▸ w, fun k => by simp [State.kind, hk], ⟨[], hs⟩, fun w => hw ▸ w, hx⟩

/-- A record update of any other fields. -/
theorem Keeps.update {pt : Parts} {a s : State} (h : Keeps pt a s) (draws : Nat) (nextUid : Nat) (tiles : Table Tile)
    (ctxs : Table Ctx) (teams : Table (BitVec 128)) (teamCmds : Table TeamCmd) (chans : Table Slot) (bad : List Nat)
    (net : List Packet) (gtallies : Table Tally) (huddles : Table Huddle) (reds : Table Reduction) (pools : Table Pool)
    (snaps : Table Snap) (trouble : Trouble) (nearLive : List Nat) (farLive : List Nat) (scratchMib : Nat) (exactMib : Nat)
    (scrubPeriod : Nat) (scrubAt : Table Nat) (broadcast : Option (BitVec 512)) (deviceNumber : Nat) (ports : Table Port)
    (fabric : Fabric) (camp : Camp) (fns : Table Fn) (service : Service) (panel : Panel)
    (hx : Same pt s (State.mk s.pending draws nextUid tiles ctxs teams teamCmds chans s.mem bad net gtallies huddles reds pools
      snaps trouble nearLive farLive scratchMib exactMib scrubPeriod scrubAt broadcast deviceNumber ports fabric s.sent camp fns
      service s.power s.trust panel)) :
    Keeps pt a (State.mk s.pending draws nextUid tiles ctxs teams teamCmds chans s.mem bad net gtallies huddles reds pools snaps
      trouble nearLive farLive scratchMib exactMib scrubPeriod scrubAt broadcast deviceNumber ports fabric s.sent camp fns service
      s.power s.trust panel) :=
  h.calm rfl rfl rfl rfl rfl hx

theorem Keeps.storeMem {pt : Parts} {a s : State} (h : Keeps pt a s) (m : List Host.Cell)
    (hm : Memory.wf s.mem = true → Memory.wf m = true) (hx : pt.mem = false := by assumption) : Keeps pt a { s with mem := m } :=
  h.trans ⟨rfl, hm, fun _ => Nat.le_refl _, ⟨[], rfl⟩, id, by
    constructor <;> first | exact no hx | exact fun _ => rfl⟩

theorem Keeps.sends {pt : Parts} {a s : State} (h : Keeps pt a s) (x : Sent) (hx : pt.sent = false := by assumption) :
    Keeps pt a { s with sent := x :: s.sent } :=
  h.trans ⟨rfl, id, fun _ => Nat.le_refl _, ⟨[x], rfl⟩, id, by
    constructor <;> first | exact no hx | exact fun _ => rfl⟩

theorem Keeps.powers {pt : Parts} {a s : State} (h : Keeps pt a s) (p : Power) (hp : s.power.state ≤ 5 → p.state ≤ 5)
    (hx : pt.power = false := by assumption) : Keeps pt a { s with power := p } :=
  h.trans ⟨rfl, id, fun _ => Nat.le_refl _, ⟨[], rfl⟩, hp, by
    constructor <;> first | exact no hx | exact fun _ => rfl⟩

theorem Keeps.trusts {pt : Parts} {a s : State} (h : Keeps pt a s) (t : Trust) (hk : t.kinds = s.trust.kinds)
    (hx : pt.trust = false := by assumption) : Keeps pt a { s with trust := t } :=
  h.trans ⟨rfl, id, fun k => by simp [State.kind, hk], ⟨[], rfl⟩, id, by
    constructor <;> first | exact no hx | exact fun _ => rfl⟩

theorem Keeps.foldl {α : Type} {pt : Parts} {a s : State} (h : Keeps pt a s) (l : List α) {g : State → α → State}
    (hg : ∀ t x, Keeps pt a t → Keeps pt a (g t x)) : Keeps pt a (l.foldl g s) := by
  induction l generalizing s with
  | nil => exact h
  | cons x xs ih => exact ih (hg s x h)

/-- A fold that carries the state first in a pair, or second. -/
theorem Keeps.foldlFst {α β : Type} {pt : Parts} {a : State} {p : State × β} (h : Keeps pt a p.1) (l : List α) {g : State × β → α → State × β}
    (hg : ∀ t x, Keeps pt a t.1 → Keeps pt a (g t x).1) : Keeps pt a (l.foldl g p).1 := by
  induction l generalizing p with
  | nil => exact h
  | cons x xs ih => exact ih (hg p x h)

theorem Keeps.foldlSnd {α β : Type} {pt : Parts} {a : State} {p : β × State} (h : Keeps pt a p.2) (l : List α) {g : β × State → α → β × State}
    (hg : ∀ t x, Keeps pt a t.2 → Keeps pt a (g t x).2) : Keeps pt a (l.foldl g p).2 := by
  induction l generalizing p with
  | nil => exact h
  | cons x xs ih => exact ih (hg p x h)

theorem Keeps.ite {pt : Parts} {a s t : State} {c : Prop} [Decidable c] (h : Keeps pt a s) (g : Keeps pt a t) : Keeps pt a (if c then s else t) := by
  split
  · exact h
  · exact g

/-- The state as it was, or what is made of it where there is a value. -/
theorem Keeps.elim {α : Type} {pt : Parts} {a s : State} {o : Option α} {g : α → State} (h : Keeps pt a s)
    (hg : ∀ x, Keeps pt a (g x)) : Keeps pt a (o.elim s g) := by
  cases o with
  | none => exact h
  | some x => exact hg x

/-- An outcome whose next state, if it has one, is kept. -/
structure KeepsR (pt : Parts) (s : State) (r : Result) : Prop where
  out : ∀ t, r = .next t → Keeps pt s t

theorem KeepsR.next {pt : Parts} {s t : State} (h : Keeps pt s t) : KeepsR pt s (.next t) := by
  refine ⟨fun u e => ?_⟩
  cases e
  exact h
theorem KeepsR.fault {pt : Parts} {s : State} (f : Fault) : KeepsR pt s (.fault f) := by
  refine ⟨fun u e => ?_⟩
  cases e
theorem KeepsR.atPlace {pt : Parts} {s t : State} (ok : Bool) (h : Keeps pt s t) : KeepsR pt s (atPlace ok t) := by
  unfold Machine.atPlace
  split
  · exact .next h
  · exact .fault _

/-- A change of the power section that keeps the power state among the six. -/
structure PowerOk (f : Power → Power) : Prop where
  ok : ∀ p, p.state ≤ 5 → (f p).state ≤ 5

/-- A change of an image kind that does not lower its fused version. -/
structure KindOk (f : Kind → Kind) : Prop where
  ok : ∀ k, k.fused ≤ (f k).fused

theorem lget_lset {α : Type} (l : List α) (i j : Nat) (v d : α) :
    lget (lset l i v) j d = if i = j ∧ i < l.length then v else lget l j d := by
  simp only [lget, lset, List.getD_eq_getElem?_getD, List.getElem?_set]
  by_cases h : i = j
  · subst h
    by_cases g : i < l.length <;> simp [g]
  · simp [h]

/-- A state that there may be. -/
structure KeepsO (pt : Parts) (s : State) (o : Option State) : Prop where
  out : ∀ t, o = some t → Keeps pt s t
theorem KeepsO.some {pt : Parts} {s t : State} (h : Keeps pt s t) : KeepsO pt s (some t) := by
  refine ⟨fun u e => ?_⟩
  cases e
  exact h
theorem KeepsO.none {pt : Parts} {s : State} : KeepsO pt s none := by
  refine ⟨fun u e => ?_⟩
  cases e
theorem KeepsO.getD {pt : Parts} {s t : State} {o : Option State} (h : KeepsO pt s o) (g : Keeps pt s t) : Keeps pt s (o.getD t) := by
  cases o with
  | none => exact g
  | some u => exact h.out u rfl

end Sys2Proof.Machine
end

