-- ==== Sys2Proof/Laws/KeepOutbox.lean ====
section
/-!
SUPPORT. What the operations of Machine/Outbox.lean keep (Laws/Keeps.lean).
-/
namespace Sys2Proof.Machine

set_option linter.unusedTactic false
set_option linter.unreachableTactic false
set_option Elab.async false

theorem State.modPort_keeps {pt : Parts} {a : State} (s : State) (p : Nat) (f : Port → Port) (h : Keeps pt a s) (x_ports :
    pt.ports = false := by assumption) :
        Keeps pt a (State.modPort s p f) := by
  unfold State.modPort
  try dsimp only
  repeat' first
    | with_reducible assumption | with_reducible apply KeepsR.next | with_reducible apply KeepsR.fault
    | with_reducible apply KeepsR.atPlace | with_reducible apply KeepsO.some | with_reducible apply KeepsO.none
    | with_reducible apply KeepsO.getD | with_reducible apply Keeps.foldl | with_reducible apply Keeps.foldlFst
    | with_reducible apply Keeps.foldlSnd | ((with_reducible apply Same.mk) <;> first | exact no ‹_› | exact fun _ => rfl)
    | intro _ | split | assumption | with_reducible apply Keeps.sends | fail_if_no_progress with_reducible apply Keeps.update

theorem State.portSend_keeps {pt : Parts} {a : State} (s : State) (p : Nat) (m : Msg) (vc : Nat) (dl : Nat) (tdev : Nat) (holds :
    Option (Nat × Nat × Nat)) (h : Keeps pt a s) (x_ports : pt.ports = false := by assumption) :
        Keeps pt a (State.portSend s p m vc dl tdev holds) := by
  unfold State.portSend
  try dsimp only
  repeat' first
    | with_reducible assumption | with_reducible apply KeepsR.next | with_reducible apply KeepsR.fault
    | with_reducible apply KeepsR.atPlace | with_reducible apply KeepsO.some | with_reducible apply KeepsO.none
    | with_reducible apply KeepsO.getD | with_reducible apply State.modPort_keeps | with_reducible apply Keeps.foldl
    | with_reducible apply Keeps.foldlFst | with_reducible apply Keeps.foldlSnd
    | ((with_reducible apply Same.mk) <;> first | exact no ‹_› | exact fun _ => rfl) | intro _ | split | assumption
    | with_reducible apply Keeps.sends | fail_if_no_progress with_reducible apply Keeps.update

theorem State.lockFrame_keeps {pt : Parts} {a : State} (s : State) (c : Nat) (ftype : Nat) (n : Nat) (engine : Nat) (strm : Nat)
    (window : Nat) (low : Nat) (data : List Byte) (h : Keeps pt a s) (x_ports : pt.ports = false := by assumption) :
        Keeps pt a (State.lockFrame s c ftype n engine strm window low data) := by
  unfold State.lockFrame
  try dsimp only
  repeat' first
    | with_reducible assumption | with_reducible apply KeepsR.next | with_reducible apply KeepsR.fault
    | with_reducible apply KeepsR.atPlace | with_reducible apply KeepsO.some | with_reducible apply KeepsO.none
    | with_reducible apply KeepsO.getD | with_reducible apply State.portSend_keeps | with_reducible apply Keeps.foldl
    | with_reducible apply Keeps.foldlFst | with_reducible apply Keeps.foldlSnd
    | ((with_reducible apply Same.mk) <;> first | exact no ‹_› | exact fun _ => rfl) | intro _ | split | assumption
    | with_reducible apply Keeps.sends | fail_if_no_progress with_reducible apply Keeps.update

theorem State.lockStop_keeps {pt : Parts} {a : State} (s : State) (c : Nat) (cause : Nat) (h : Keeps pt a s) (x_ports : pt.ports =
    false := by assumption) :
        Keeps pt a (State.lockStop s c cause) := by
  unfold State.lockStop
  try dsimp only
  repeat' first
    | with_reducible assumption | with_reducible apply KeepsR.next | with_reducible apply KeepsR.fault
    | with_reducible apply KeepsR.atPlace | with_reducible apply KeepsO.some | with_reducible apply KeepsO.none
    | with_reducible apply KeepsO.getD | with_reducible apply State.lockFrame_keeps | with_reducible apply Keeps.foldl
    | with_reducible apply Keeps.foldlFst | with_reducible apply Keeps.foldlSnd
    | ((with_reducible apply Same.mk) <;> first | exact no ‹_› | exact fun _ => rfl) | intro _ | split | assumption
    | with_reducible apply Keeps.sends | fail_if_no_progress with_reducible apply Keeps.update

end Sys2Proof.Machine
end

