-- ==== Sys2Proof/Laws/KeepOps.lean ====
section
/-!
SUPPORT. What the operations of Machine/Ops.lean keep (Laws/Keeps.lean).
-/
namespace Sys2Proof.Machine

set_option linter.unusedTactic false
set_option linter.unreachableTactic false
set_option Elab.async false

theorem State.setTile_keeps {pt : Parts} {a : State} (s : State) (n : Nat) (t : Tile) (h : Keeps pt a s) (x_tiles : pt.tiles =
    false := by assumption) :
        Keeps pt a (State.setTile s n t) := by
  unfold State.setTile
  try dsimp only
  repeat' first
    | with_reducible assumption | with_reducible apply KeepsR.next | with_reducible apply KeepsR.fault
    | with_reducible apply KeepsR.atPlace | with_reducible apply KeepsO.some | with_reducible apply KeepsO.none
    | with_reducible apply KeepsO.getD | with_reducible apply Keeps.foldl | with_reducible apply Keeps.foldlFst
    | with_reducible apply Keeps.foldlSnd | ((with_reducible apply Same.mk) <;> first | exact no ‹_› | exact fun _ => rfl)
    | intro _ | split | assumption | with_reducible apply Keeps.sends | fail_if_no_progress with_reducible apply Keeps.update

theorem State.modTile_keeps {pt : Parts} {a : State} (s : State) (n : Nat) (f : Tile → Tile) (h : Keeps pt a s) (x_tiles :
    pt.tiles = false := by assumption) :
        Keeps pt a (State.modTile s n f) := by
  unfold State.modTile
  try dsimp only
  repeat' first
    | with_reducible assumption | with_reducible apply KeepsR.next | with_reducible apply KeepsR.fault
    | with_reducible apply KeepsR.atPlace | with_reducible apply KeepsO.some | with_reducible apply KeepsO.none
    | with_reducible apply KeepsO.getD | with_reducible apply State.setTile_keeps | with_reducible apply Keeps.foldl
    | with_reducible apply Keeps.foldlFst | with_reducible apply Keeps.foldlSnd
    | ((with_reducible apply Same.mk) <;> first | exact no ‹_› | exact fun _ => rfl) | intro _ | split | assumption
    | with_reducible apply Keeps.sends | fail_if_no_progress with_reducible apply Keeps.update

theorem State.modCtx_keeps {pt : Parts} {a : State} (s : State) (c : Nat) (f : Ctx → Ctx) (h : Keeps pt a s) (x_ctxs : pt.ctxs =
    false := by assumption) :
        Keeps pt a (State.modCtx s c f) := by
  unfold State.modCtx
  try dsimp only
  repeat' first
    | with_reducible assumption | with_reducible apply KeepsR.next | with_reducible apply KeepsR.fault
    | with_reducible apply KeepsR.atPlace | with_reducible apply KeepsO.some | with_reducible apply KeepsO.none
    | with_reducible apply KeepsO.getD | with_reducible apply Keeps.foldl | with_reducible apply Keeps.foldlFst
    | with_reducible apply Keeps.foldlSnd | ((with_reducible apply Same.mk) <;> first | exact no ‹_› | exact fun _ => rfl)
    | intro _ | split | assumption | with_reducible apply Keeps.sends | fail_if_no_progress with_reducible apply Keeps.update

theorem State.modThread_keeps {pt : Parts} {a : State} (s : State) (n : Nat) (st : Stream) (f : Thread → Thread) (h : Keeps pt a
    s) (x_tiles : pt.tiles = false := by assumption) :
        Keeps pt a (State.modThread s n st f) := by
  unfold State.modThread
  try dsimp only
  repeat' first
    | with_reducible assumption | with_reducible apply KeepsR.next | with_reducible apply KeepsR.fault
    | with_reducible apply KeepsR.atPlace | with_reducible apply KeepsO.some | with_reducible apply KeepsO.none
    | with_reducible apply KeepsO.getD | with_reducible apply State.modTile_keeps | with_reducible apply Keeps.foldl
    | with_reducible apply Keeps.foldlFst | with_reducible apply Keeps.foldlSnd
    | ((with_reducible apply Same.mk) <;> first | exact no ‹_› | exact fun _ => rfl) | intro _ | split | assumption
    | with_reducible apply Keeps.sends | fail_if_no_progress with_reducible apply Keeps.update

theorem State.modQueue_keeps {pt : Parts} {a : State} (s : State) (n : Nat) (e : Engine) (st : Stream) (f : Queue → Queue) (h :
    Keeps pt a s) (x_tiles : pt.tiles = false := by assumption) :
        Keeps pt a (State.modQueue s n e st f) := by
  unfold State.modQueue
  try dsimp only
  repeat' first
    | with_reducible assumption | with_reducible apply KeepsR.next | with_reducible apply KeepsR.fault
    | with_reducible apply KeepsR.atPlace | with_reducible apply KeepsO.some | with_reducible apply KeepsO.none
    | with_reducible apply KeepsO.getD | with_reducible apply State.modTile_keeps | with_reducible apply Keeps.foldl
    | with_reducible apply Keeps.foldlFst | with_reducible apply Keeps.foldlSnd
    | ((with_reducible apply Same.mk) <;> first | exact no ‹_› | exact fun _ => rfl) | intro _ | split | assumption
    | with_reducible apply Keeps.sends | fail_if_no_progress with_reducible apply Keeps.update

theorem State.modArray_keeps {pt : Parts} {a : State} (s : State) (n : Nat) (a0 : Nat) (f : Arr → Arr) (h : Keeps pt a s) (x_tiles
    : pt.tiles = false := by assumption) :
        Keeps pt a (State.modArray s n a0 f) := by
  unfold State.modArray
  try dsimp only
  repeat' first
    | with_reducible assumption | with_reducible apply KeepsR.next | with_reducible apply KeepsR.fault
    | with_reducible apply KeepsR.atPlace | with_reducible apply KeepsO.some | with_reducible apply KeepsO.none
    | with_reducible apply KeepsO.getD | with_reducible apply State.modTile_keeps | with_reducible apply Keeps.foldl
    | with_reducible apply Keeps.foldlFst | with_reducible apply Keeps.foldlSnd
    | ((with_reducible apply Same.mk) <;> first | exact no ‹_› | exact fun _ => rfl) | intro _ | split | assumption
    | with_reducible apply Keeps.sends | fail_if_no_progress with_reducible apply Keeps.update

theorem State.fresh_keeps {pt : Parts} {a : State} (s : State) (h : Keeps pt a s) :
        Keeps pt a (State.fresh s).2 := by
  unfold State.fresh
  try dsimp only
  repeat' first
    | with_reducible assumption | with_reducible apply KeepsR.next | with_reducible apply KeepsR.fault
    | with_reducible apply KeepsR.atPlace | with_reducible apply KeepsO.some | with_reducible apply KeepsO.none
    | with_reducible apply KeepsO.getD | with_reducible apply Keeps.foldl | with_reducible apply Keeps.foldlFst
    | with_reducible apply Keeps.foldlSnd | ((with_reducible apply Same.mk) <;> first | exact no ‹_› | exact fun _ => rfl)
    | intro _ | split | assumption | with_reducible apply Keeps.sends | fail_if_no_progress with_reducible apply Keeps.update

theorem State.cycle_keeps {pt : Parts} {a : State} (s : State) (island : Nat) (h : Keeps pt a s) :
        Keeps pt a (State.cycle s island).2 := by
  unfold State.cycle
  try dsimp only
  repeat' first
    | with_reducible assumption | with_reducible apply KeepsR.next | with_reducible apply KeepsR.fault
    | with_reducible apply KeepsR.atPlace | with_reducible apply KeepsO.some | with_reducible apply KeepsO.none
    | with_reducible apply KeepsO.getD | with_reducible apply Keeps.foldl | with_reducible apply Keeps.foldlFst
    | with_reducible apply Keeps.foldlSnd | ((with_reducible apply Same.mk) <;> first | exact no ‹_› | exact fun _ => rfl)
    | intro _ | split | assumption | with_reducible apply Keeps.sends | fail_if_no_progress with_reducible apply Keeps.update

theorem State.free_keeps {pt : Parts} {a : State} (s : State) (k : Nat) (h : Keeps pt a s) :
        Keeps pt a (State.free s k).2 := by
  unfold State.free
  try dsimp only
  repeat' first
    | with_reducible assumption | with_reducible apply KeepsR.next | with_reducible apply KeepsR.fault
    | with_reducible apply KeepsR.atPlace | with_reducible apply KeepsO.some | with_reducible apply KeepsO.none
    | with_reducible apply KeepsO.getD | with_reducible apply Keeps.foldl | with_reducible apply Keeps.foldlFst
    | with_reducible apply Keeps.foldlSnd | ((with_reducible apply Same.mk) <;> first | exact no ‹_› | exact fun _ => rfl)
    | intro _ | split | assumption | with_reducible apply Keeps.sends | fail_if_no_progress with_reducible apply Keeps.update

theorem State.gateArrays_keeps {pt : Parts} {a : State} (s : State) (h : Keeps pt a s) (x_tiles : pt.tiles = false := by
    assumption) :
        Keeps pt a (State.gateArrays s) := by
  unfold State.gateArrays
  try dsimp only
  repeat' first
    | with_reducible assumption | with_reducible apply KeepsR.next | with_reducible apply KeepsR.fault
    | with_reducible apply KeepsR.atPlace | with_reducible apply KeepsO.some | with_reducible apply KeepsO.none
    | with_reducible apply KeepsO.getD | with_reducible apply Keeps.foldl | with_reducible apply Keeps.foldlFst
    | with_reducible apply Keeps.foldlSnd | ((with_reducible apply Same.mk) <;> first | exact no ‹_› | exact fun _ => rfl)
    | intro _ | split | assumption | with_reducible apply Keeps.sends | fail_if_no_progress with_reducible apply Keeps.update

theorem State.send_keeps {pt : Parts} {a : State} (s : State) (p : Packet) (h : Keeps pt a s) (x_net : pt.net = false := by
    assumption) :
        Keeps pt a (State.send s p) := by
  unfold State.send
  try dsimp only
  repeat' first
    | with_reducible assumption | with_reducible apply KeepsR.next | with_reducible apply KeepsR.fault
    | with_reducible apply KeepsR.atPlace | with_reducible apply KeepsO.some | with_reducible apply KeepsO.none
    | with_reducible apply KeepsO.getD | with_reducible apply Keeps.foldl | with_reducible apply Keeps.foldlFst
    | with_reducible apply Keeps.foldlSnd | ((with_reducible apply Same.mk) <;> first | exact no ‹_› | exact fun _ => rfl)
    | intro _ | split | assumption | with_reducible apply Keeps.sends | fail_if_no_progress with_reducible apply Keeps.update

theorem State.consume_keeps {pt : Parts} {a : State} (s : State) (k : Nat) (h : Keeps pt a s) (x_net : pt.net = false := by
    assumption) :
        Keeps pt a (State.consume s k) := by
  unfold State.consume
  try dsimp only
  repeat' first
    | with_reducible assumption | with_reducible apply KeepsR.next | with_reducible apply KeepsR.fault
    | with_reducible apply KeepsR.atPlace | with_reducible apply KeepsO.some | with_reducible apply KeepsO.none
    | with_reducible apply KeepsO.getD | with_reducible apply Keeps.foldl | with_reducible apply Keeps.foldlFst
    | with_reducible apply Keeps.foldlSnd | ((with_reducible apply Same.mk) <;> first | exact no ‹_› | exact fun _ => rfl)
    | intro _ | split | assumption | with_reducible apply Keeps.sends | fail_if_no_progress with_reducible apply Keeps.update

theorem State.countDrop_keeps {pt : Parts} {a : State} (s : State) (h : Keeps pt a s) (x_trouble : pt.trouble = false := by
    assumption) :
        Keeps pt a (State.countDrop s) := by
  unfold State.countDrop
  try dsimp only
  repeat' first
    | with_reducible assumption | with_reducible apply KeepsR.next | with_reducible apply KeepsR.fault
    | with_reducible apply KeepsR.atPlace | with_reducible apply KeepsO.some | with_reducible apply KeepsO.none
    | with_reducible apply KeepsO.getD | with_reducible apply Keeps.foldl | with_reducible apply Keeps.foldlFst
    | with_reducible apply Keeps.foldlSnd | ((with_reducible apply Same.mk) <;> first | exact no ‹_› | exact fun _ => rfl)
    | intro _ | split | assumption | with_reducible apply Keeps.sends | fail_if_no_progress with_reducible apply Keeps.update

theorem State.logAlarm_keeps {pt : Parts} {a : State} (s : State) (r : Record) (h : Keeps pt a s) (x_trouble : pt.trouble = false
    := by assumption) :
        Keeps pt a (State.logAlarm s r) := by
  unfold State.logAlarm
  try dsimp only
  repeat' first
    | with_reducible assumption | with_reducible apply KeepsR.next | with_reducible apply KeepsR.fault
    | with_reducible apply KeepsR.atPlace | with_reducible apply KeepsO.some | with_reducible apply KeepsO.none
    | with_reducible apply KeepsO.getD | with_reducible apply Keeps.foldl | with_reducible apply Keeps.foldlFst
    | with_reducible apply Keeps.foldlSnd | ((with_reducible apply Same.mk) <;> first | exact no ‹_› | exact fun _ => rfl)
    | intro _ | split | assumption | with_reducible apply Keeps.sends | fail_if_no_progress with_reducible apply Keeps.update

theorem State.raised_keeps {pt : Parts} {a : State} (s : State) (cls : Nat) (kind : Nat) (source : Nat) (ctx : Nat) (body : List
    Byte) (h : Keeps pt a s) (x_trouble : pt.trouble = false := by assumption) :
        Keeps pt a (State.raised s cls kind source ctx body).2 := by
  unfold State.raised
  try dsimp only
  repeat' first
    | with_reducible assumption | with_reducible apply KeepsR.next | with_reducible apply KeepsR.fault
    | with_reducible apply KeepsR.atPlace | with_reducible apply KeepsO.some | with_reducible apply KeepsO.none
    | with_reducible apply KeepsO.getD | with_reducible apply State.cycle_keeps | with_reducible apply Keeps.foldl
    | with_reducible apply Keeps.foldlFst | with_reducible apply Keeps.foldlSnd
    | ((with_reducible apply Same.mk) <;> first | exact no ‹_› | exact fun _ => rfl) | intro _ | split | assumption
    | with_reducible apply Keeps.sends | fail_if_no_progress with_reducible apply Keeps.update

theorem State.sendRecord_keeps {pt : Parts} {a : State} (s : State) (cls : Nat) (kind : Nat) (source : Nat) (ctx : Nat) (body :
    List Byte) (h : Keeps pt a s) (x_trouble : pt.trouble = false := by assumption) :
        Keeps pt a (State.sendRecord s cls kind source ctx body) := by
  unfold State.sendRecord
  try dsimp only
  repeat' first
    | with_reducible assumption | with_reducible apply KeepsR.next | with_reducible apply KeepsR.fault
    | with_reducible apply KeepsR.atPlace | with_reducible apply KeepsO.some | with_reducible apply KeepsO.none
    | with_reducible apply KeepsO.getD | with_reducible apply State.raised_keeps | with_reducible apply Keeps.foldl
    | with_reducible apply Keeps.foldlFst | with_reducible apply Keeps.foldlSnd
    | ((with_reducible apply Same.mk) <;> first | exact no ‹_› | exact fun _ => rfl) | intro _ | split | assumption
    | with_reducible apply Keeps.sends | fail_if_no_progress with_reducible apply Keeps.update

theorem State.alarm_keeps {pt : Parts} {a : State} (s : State) (kind : Nat) (source : Nat) (ctx : Nat) (body : List Byte) (h :
    Keeps pt a s) (x_trouble : pt.trouble = false := by assumption) :
        Keeps pt a (State.alarm s kind source ctx body) := by
  unfold State.alarm
  try dsimp only
  repeat' first
    | with_reducible assumption | with_reducible apply KeepsR.next | with_reducible apply KeepsR.fault
    | with_reducible apply KeepsR.atPlace | with_reducible apply KeepsO.some | with_reducible apply KeepsO.none
    | with_reducible apply KeepsO.getD | with_reducible apply State.raised_keeps | with_reducible apply State.sendRecord_keeps
    | with_reducible apply Keeps.foldl | with_reducible apply Keeps.foldlFst | with_reducible apply Keeps.foldlSnd
    | ((with_reducible apply Same.mk) <;> first | exact no ‹_› | exact fun _ => rfl) | intro _ | split | assumption
    | with_reducible apply Keeps.sends | fail_if_no_progress with_reducible apply Keeps.update

theorem State.switchBank_keeps {pt : Parts} {a : State} (s : State) (n : Nat) (st : Stream) (h : Keeps pt a s) (x_tiles : pt.tiles
    = false := by assumption) :
        Keeps pt a (State.switchBank s n st) := by
  unfold State.switchBank
  try dsimp only
  repeat' first
    | with_reducible assumption | with_reducible apply KeepsR.next | with_reducible apply KeepsR.fault
    | with_reducible apply KeepsR.atPlace | with_reducible apply KeepsO.some | with_reducible apply KeepsO.none
    | with_reducible apply KeepsO.getD | with_reducible apply State.modTile_keeps | with_reducible apply State.modThread_keeps
    | with_reducible apply Keeps.foldl | with_reducible apply Keeps.foldlFst | with_reducible apply Keeps.foldlSnd
    | ((with_reducible apply Same.mk) <;> first | exact no ‹_› | exact fun _ => rfl) | intro _ | split | assumption
    | with_reducible apply Keeps.sends | fail_if_no_progress with_reducible apply Keeps.update

theorem State.halt_keeps {pt : Parts} {a : State} (s : State) (n : Nat) (st : Stream) (h0 : Halt) (h : Keeps pt a s) (x_tiles :
    pt.tiles = false := by assumption) (x_trouble : pt.trouble = false := by assumption) (x_ports : pt.ports = false := by
    assumption) :
        Keeps pt a (State.halt s n st h0) := by
  unfold State.halt
  try dsimp only
  repeat' first
    | with_reducible assumption | with_reducible apply KeepsR.next | with_reducible apply KeepsR.fault
    | with_reducible apply KeepsR.atPlace | with_reducible apply KeepsO.some | with_reducible apply KeepsO.none
    | with_reducible apply KeepsO.getD | with_reducible apply State.lockStop_keeps | with_reducible apply State.modTile_keeps
    | with_reducible apply State.modThread_keeps | with_reducible apply State.cycle_keeps
    | with_reducible apply State.alarm_keeps | with_reducible apply State.switchBank_keeps | with_reducible apply Keeps.foldl
    | with_reducible apply Keeps.foldlFst | with_reducible apply Keeps.foldlSnd
    | ((with_reducible apply Same.mk) <;> first | exact no ‹_› | exact fun _ => rfl) | intro _ | split | assumption
    | with_reducible apply Keeps.sends | fail_if_no_progress with_reducible apply Keeps.update

theorem State.haltAll_keeps {pt : Parts} {a : State} (s : State) (c : Nat) (h0 : Halt) (h : Keeps pt a s) (x_tiles : pt.tiles =
    false := by assumption) (x_trouble : pt.trouble = false := by assumption) (x_ports : pt.ports = false := by assumption) :
        Keeps pt a (State.haltAll s c h0) := by
  unfold State.haltAll
  try dsimp only
  repeat' first
    | with_reducible assumption | with_reducible apply KeepsR.next | with_reducible apply KeepsR.fault
    | with_reducible apply KeepsR.atPlace | with_reducible apply KeepsO.some | with_reducible apply KeepsO.none
    | with_reducible apply KeepsO.getD | with_reducible apply State.halt_keeps | with_reducible apply Keeps.foldl
    | with_reducible apply Keeps.foldlFst | with_reducible apply Keeps.foldlSnd
    | ((with_reducible apply Same.mk) <;> first | exact no ‹_› | exact fun _ => rfl) | intro _ | split | assumption
    | with_reducible apply Keeps.sends | fail_if_no_progress with_reducible apply Keeps.update

theorem State.stopAlarm_keeps {pt : Parts} {a : State} (s : State) (c : Nat) (reason : Nat) (h : Keeps pt a s) (x_trouble :
    pt.trouble = false := by assumption) :
        Keeps pt a (State.stopAlarm s c reason) := by
  unfold State.stopAlarm
  try dsimp only
  repeat' first
    | with_reducible assumption | with_reducible apply KeepsR.next | with_reducible apply KeepsR.fault
    | with_reducible apply KeepsR.atPlace | with_reducible apply KeepsO.some | with_reducible apply KeepsO.none
    | with_reducible apply KeepsO.getD | with_reducible apply State.alarm_keeps | with_reducible apply Keeps.foldl
    | with_reducible apply Keeps.foldlFst | with_reducible apply Keeps.foldlSnd
    | ((with_reducible apply Same.mk) <;> first | exact no ‹_› | exact fun _ => rfl) | intro _ | split | assumption
    | with_reducible apply Keeps.sends | fail_if_no_progress with_reducible apply Keeps.update

theorem State.storeBytes_keeps {pt : Parts} {a : State} (s : State) (b : Nat) (bytes : List Byte) (h : Keeps pt a s)
    (x_tiles : pt.tiles = false := by assumption) (x_mem : pt.mem = false := by assumption) (x_bad : pt.bad = false := by
    assumption) :
    Keeps pt a (s.storeBytes b bytes) := by
  have h1 : Keeps pt a { s with mem := pokes b bytes s.mem } := h.storeMem _ fun w => Memory.wf_pokes w
  unfold State.storeBytes
  dsimp only
  refine Keeps.foldl ?_ _ fun t n ht => State.modTile_keeps _ _ _ ht
  exact h1.calm rfl rfl rfl rfl rfl

theorem State.preserve_keeps {pt : Parts} {a : State} (s : State) (w : Writer) (a0 : Nat) (bytes : List Byte) (h : Keeps pt a s)
    (x_snaps : pt.snaps = false := by assumption) :
        Keeps pt a (State.preserve s w a0 bytes) := by
  unfold State.preserve
  try dsimp only
  repeat' first
    | with_reducible assumption | with_reducible apply KeepsR.next | with_reducible apply KeepsR.fault
    | with_reducible apply KeepsR.atPlace | with_reducible apply KeepsO.some | with_reducible apply KeepsO.none
    | with_reducible apply KeepsO.getD | with_reducible apply Keeps.foldl | with_reducible apply Keeps.foldlFst
    | with_reducible apply Keeps.foldlSnd | ((with_reducible apply Same.mk) <;> first | exact no ‹_› | exact fun _ => rfl)
    | intro _ | split | assumption | with_reducible apply Keeps.sends | fail_if_no_progress with_reducible apply Keeps.update

theorem State.write_keeps {pt : Parts} {a : State} (s : State) (w : Writer) (a0 : Nat) (bytes : List Byte) (h : Keeps pt a s)
    (x_tiles : pt.tiles = false := by assumption) (x_mem : pt.mem = false := by assumption) (x_bad : pt.bad = false := by
    assumption) (x_snaps : pt.snaps = false := by assumption) :
        Keeps pt a (State.write s w a0 bytes) := by
  unfold State.write
  try dsimp only
  repeat' first
    | with_reducible assumption | with_reducible apply KeepsR.next | with_reducible apply KeepsR.fault
    | with_reducible apply KeepsR.atPlace | with_reducible apply KeepsO.some | with_reducible apply KeepsO.none
    | with_reducible apply KeepsO.getD | with_reducible apply State.storeBytes_keeps | with_reducible apply State.preserve_keeps
    | with_reducible apply Keeps.foldl | with_reducible apply Keeps.foldlFst | with_reducible apply Keeps.foldlSnd
    | ((with_reducible apply Same.mk) <;> first | exact no ‹_› | exact fun _ => rfl) | intro _ | split | assumption
    | with_reducible apply Keeps.sends | fail_if_no_progress with_reducible apply Keeps.update

theorem State.eccCheck_keeps {pt : Parts} {a : State} (s : State) (ecc : Ecc) (a0 : Nat) (h : Keeps pt a s) (x_bad : pt.bad =
    false := by assumption) (x_trouble : pt.trouble = false := by assumption) :
        Keeps pt a (State.eccCheck s ecc a0) := by
  unfold State.eccCheck
  try dsimp only
  repeat' first
    | with_reducible assumption | with_reducible apply KeepsR.next | with_reducible apply KeepsR.fault
    | with_reducible apply KeepsR.atPlace | with_reducible apply KeepsO.some | with_reducible apply KeepsO.none
    | with_reducible apply KeepsO.getD | with_reducible apply State.sendRecord_keeps | with_reducible apply Keeps.foldl
    | with_reducible apply Keeps.foldlFst | with_reducible apply Keeps.foldlSnd
    | ((with_reducible apply Same.mk) <;> first | exact no ‹_› | exact fun _ => rfl) | intro _ | split | assumption
    | with_reducible apply Keeps.sends | fail_if_no_progress with_reducible apply Keeps.update

theorem State.stopContext_keeps {pt : Parts} {a : State} (s : State) (c : Nat) (reason : Nat) (seq : Nat) (h : Keeps pt a s)
    (x_ctxs : pt.ctxs = false := by assumption) (x_trouble : pt.trouble = false := by assumption) :
        Keeps pt a (State.stopContext s c reason seq) := by
  unfold State.stopContext
  try dsimp only
  repeat' first
    | with_reducible assumption | with_reducible apply KeepsR.next | with_reducible apply KeepsR.fault
    | with_reducible apply KeepsR.atPlace | with_reducible apply KeepsO.some | with_reducible apply KeepsO.none
    | with_reducible apply KeepsO.getD | with_reducible apply State.modCtx_keeps | with_reducible apply State.stopAlarm_keeps
    | with_reducible apply Keeps.foldl | with_reducible apply Keeps.foldlFst | with_reducible apply Keeps.foldlSnd
    | ((with_reducible apply Same.mk) <;> first | exact no ‹_› | exact fun _ => rfl) | intro _ | split | assumption
    | with_reducible apply Keeps.sends | fail_if_no_progress with_reducible apply Keeps.update

theorem State.ueAt_keeps {pt : Parts} {a : State} (s : State) (f : Finder) (a0 : Nat) (place : Nat) (unit : Nat) (source : Nat)
    (owner : Option Nat) (wherecode : Nat) (h : Keeps pt a s) (x_tiles : pt.tiles = false := by assumption) (x_ctxs : pt.ctxs =
    false := by assumption) (x_trouble : pt.trouble = false := by assumption) (x_ports : pt.ports = false := by assumption) :
        Keeps pt a (State.ueAt s f a0 place unit source owner wherecode) := by
  unfold State.ueAt
  try dsimp only
  repeat' first
    | with_reducible assumption | with_reducible apply KeepsR.next | with_reducible apply KeepsR.fault
    | with_reducible apply KeepsR.atPlace | with_reducible apply KeepsO.some | with_reducible apply KeepsO.none
    | with_reducible apply KeepsO.getD | with_reducible apply State.alarm_keeps | with_reducible apply State.halt_keeps
    | with_reducible apply State.haltAll_keeps | with_reducible apply State.stopContext_keeps | with_reducible apply Keeps.foldl
    | with_reducible apply Keeps.foldlFst | with_reducible apply Keeps.foldlSnd
    | ((with_reducible apply Same.mk) <;> first | exact no ‹_› | exact fun _ => rfl) | intro _ | split | assumption
    | with_reducible apply Keeps.sends | fail_if_no_progress with_reducible apply Keeps.update

theorem State.ueError_keeps {pt : Parts} {a : State} (s : State) (f : Finder) (a0 : Nat) (owner : Option Nat) (wherecode : Nat) (h
    : Keeps pt a s) (x_tiles : pt.tiles = false := by assumption) (x_ctxs : pt.ctxs = false := by assumption) (x_trouble :
    pt.trouble = false := by assumption) (x_ports : pt.ports = false := by assumption) :
        Keeps pt a (State.ueError s f a0 owner wherecode) := by
  unfold State.ueError
  try dsimp only
  repeat' first
    | with_reducible assumption | with_reducible apply KeepsR.next | with_reducible apply KeepsR.fault
    | with_reducible apply KeepsR.atPlace | with_reducible apply KeepsO.some | with_reducible apply KeepsO.none
    | with_reducible apply KeepsO.getD | with_reducible apply State.ueAt_keeps | with_reducible apply Keeps.foldl
    | with_reducible apply Keeps.foldlFst | with_reducible apply Keeps.foldlSnd
    | ((with_reducible apply Same.mk) <;> first | exact no ‹_› | exact fun _ => rfl) | intro _ | split | assumption
    | with_reducible apply Keeps.sends | fail_if_no_progress with_reducible apply Keeps.update

theorem State.coreUe_keeps {pt : Parts} {a : State} (s : State) (f : Finder) (n : Nat) (m : Nat) (off : Nat) (h : Keeps pt a s)
    (x_tiles : pt.tiles = false := by assumption) (x_ctxs : pt.ctxs = false := by assumption) (x_trouble : pt.trouble = false :=
    by assumption) (x_ports : pt.ports = false := by assumption) :
        Keeps pt a (State.coreUe s f n m off) := by
  unfold State.coreUe
  try dsimp only
  repeat' first
    | with_reducible assumption | with_reducible apply KeepsR.next | with_reducible apply KeepsR.fault
    | with_reducible apply KeepsR.atPlace | with_reducible apply KeepsO.some | with_reducible apply KeepsO.none
    | with_reducible apply KeepsO.getD | with_reducible apply State.ueAt_keeps | with_reducible apply Keeps.foldl
    | with_reducible apply Keeps.foldlFst | with_reducible apply Keeps.foldlSnd
    | ((with_reducible apply Same.mk) <;> first | exact no ‹_› | exact fun _ => rfl) | intro _ | split | assumption
    | with_reducible apply Keeps.sends | fail_if_no_progress with_reducible apply Keeps.update

theorem State.coreCheck_keeps {pt : Parts} {a : State} (s : State) (ecc : Ecc) (n : Nat) (m : Nat) (off : Nat) (h : Keeps pt a s)
    (x_tiles : pt.tiles = false := by assumption) (x_trouble : pt.trouble = false := by assumption) :
        Keeps pt a (State.coreCheck s ecc n m off) := by
  unfold State.coreCheck
  try dsimp only
  repeat' first
    | with_reducible assumption | with_reducible apply KeepsR.next | with_reducible apply KeepsR.fault
    | with_reducible apply KeepsR.atPlace | with_reducible apply KeepsO.some | with_reducible apply KeepsO.none
    | with_reducible apply KeepsO.getD | with_reducible apply State.modTile_keeps | with_reducible apply State.sendRecord_keeps
    | with_reducible apply Keeps.foldl | with_reducible apply Keeps.foldlFst | with_reducible apply Keeps.foldlSnd
    | ((with_reducible apply Same.mk) <;> first | exact no ‹_› | exact fun _ => rfl) | intro _ | split | assumption
    | with_reducible apply Keeps.sends | fail_if_no_progress with_reducible apply Keeps.update

theorem State.progressed_keeps {pt : Parts} {a : State} (s : State) (n : Nat) (unit : Nat) (h : Keeps pt a s) (x_tiles : pt.tiles
    = false := by assumption) :
        Keeps pt a (State.progressed s n unit) := by
  unfold State.progressed
  try dsimp only
  repeat' first
    | with_reducible assumption | with_reducible apply KeepsR.next | with_reducible apply KeepsR.fault
    | with_reducible apply KeepsR.atPlace | with_reducible apply KeepsO.some | with_reducible apply KeepsO.none
    | with_reducible apply KeepsO.getD | with_reducible apply State.modTile_keeps | with_reducible apply Keeps.foldl
    | with_reducible apply Keeps.foldlFst | with_reducible apply Keeps.foldlSnd
    | ((with_reducible apply Same.mk) <;> first | exact no ‹_› | exact fun _ => rfl) | intro _ | split | assumption
    | with_reducible apply Keeps.sends | fail_if_no_progress with_reducible apply Keeps.update

end Sys2Proof.Machine
end

