-- ==== Sys2Proof/Laws/KeepProtect.lean ====
section
/-!
SUPPORT. What the operations of Machine/Protect.lean keep (Laws/Keeps.lean).
-/
namespace Sys2Proof.Machine

set_option linter.unusedTactic false
set_option linter.unreachableTactic false
set_option Elab.async false

theorem State.writeHome_keeps {pt : Parts} {a : State} (s : State) (w : Writer) (a0 : Nat) (bs : List Byte) (h : Keeps pt a s)
    (x_tiles : pt.tiles = false := by assumption) (x_mem : pt.mem = false := by assumption) (x_bad : pt.bad = false := by
    assumption) (x_snaps : pt.snaps = false := by assumption) :
        Keeps pt a (State.writeHome s w a0 bs) := by
  unfold State.writeHome
  try dsimp only
  repeat' first
    | with_reducible assumption | with_reducible apply KeepsR.next | with_reducible apply KeepsR.fault
    | with_reducible apply KeepsR.atPlace | with_reducible apply KeepsO.some | with_reducible apply KeepsO.none
    | with_reducible apply KeepsO.getD | with_reducible apply State.write_keeps | with_reducible apply Keeps.foldl
    | with_reducible apply Keeps.foldlFst | with_reducible apply Keeps.foldlSnd
    | ((with_reducible apply Same.mk) <;> first | exact no ‹_› | exact fun _ => rfl) | intro _ | split | assumption
    | with_reducible apply Keeps.sends | fail_if_no_progress with_reducible apply Keeps.update

theorem State.writeChecked_keeps {pt : Parts} {a : State} (s : State) (f : Finder) (w : Writer) (a0 : Nat) (bs : List Byte) (h :
    Keeps pt a s) (x_tiles : pt.tiles = false := by assumption) (x_ctxs : pt.ctxs = false := by assumption) (x_mem : pt.mem =
    false := by assumption) (x_bad : pt.bad = false := by assumption) (x_snaps : pt.snaps = false := by assumption) (x_trouble :
    pt.trouble = false := by assumption) (x_ports : pt.ports = false := by assumption) :
        Keeps pt a (State.writeChecked s f w a0 bs) := by
  unfold State.writeChecked
  try dsimp only
  repeat' first
    | with_reducible assumption | with_reducible apply KeepsR.next | with_reducible apply KeepsR.fault
    | with_reducible apply KeepsR.atPlace | with_reducible apply KeepsO.some | with_reducible apply KeepsO.none
    | with_reducible apply KeepsO.getD | with_reducible apply State.ueError_keeps | with_reducible apply State.writeHome_keeps
    | with_reducible apply Keeps.foldl | with_reducible apply Keeps.foldlFst | with_reducible apply Keeps.foldlSnd
    | ((with_reducible apply Same.mk) <;> first | exact no ‹_› | exact fun _ => rfl) | intro _ | split | assumption
    | with_reducible apply Keeps.sends | fail_if_no_progress with_reducible apply Keeps.update

theorem State.outsideWrite_keeps {pt : Parts} {a : State} (s : State) (a0 : Nat) (bytes : List Byte) (h : Keeps pt a s) (x_tiles :
    pt.tiles = false := by assumption) (x_ctxs : pt.ctxs = false := by assumption) (x_mem : pt.mem = false := by assumption)
    (x_bad : pt.bad = false := by assumption) (x_snaps : pt.snaps = false := by assumption) (x_trouble : pt.trouble = false := by
    assumption) (x_ports : pt.ports = false := by assumption) :
        Keeps pt a (State.outsideWrite s a0 bytes) := by
  unfold State.outsideWrite
  try dsimp only
  repeat' first
    | with_reducible assumption | with_reducible apply KeepsR.next | with_reducible apply KeepsR.fault
    | with_reducible apply KeepsR.atPlace | with_reducible apply KeepsO.some | with_reducible apply KeepsO.none
    | with_reducible apply KeepsO.getD | with_reducible apply State.writeChecked_keeps | with_reducible apply Keeps.foldl
    | with_reducible apply Keeps.foldlFst | with_reducible apply Keeps.foldlSnd
    | ((with_reducible apply Same.mk) <;> first | exact no ‹_› | exact fun _ => rfl) | intro _ | split | assumption
    | with_reducible apply Keeps.sends | fail_if_no_progress with_reducible apply Keeps.update

theorem State.outsideRead_keeps {pt : Parts} {a : State} (s : State) (a0 : Nat) (n : Nat) (h : Keeps pt a s) (x_tiles : pt.tiles =
    false := by assumption) (x_ctxs : pt.ctxs = false := by assumption) (x_trouble : pt.trouble = false := by assumption) (x_ports
    : pt.ports = false := by assumption) :
        Keeps pt a (State.outsideRead s a0 n).2 := by
  unfold State.outsideRead
  try dsimp only
  repeat' first
    | with_reducible assumption | with_reducible apply KeepsR.next | with_reducible apply KeepsR.fault
    | with_reducible apply KeepsR.atPlace | with_reducible apply KeepsO.some | with_reducible apply KeepsO.none
    | with_reducible apply KeepsO.getD | with_reducible apply State.ueError_keeps | with_reducible apply Keeps.foldl
    | with_reducible apply Keeps.foldlFst | with_reducible apply Keeps.foldlSnd
    | ((with_reducible apply Same.mk) <;> first | exact no ‹_› | exact fun _ => rfl) | intro _ | split | assumption
    | with_reducible apply Keeps.sends | fail_if_no_progress with_reducible apply Keeps.update

theorem State.preserveFor_keeps {pt : Parts} {a : State} (s : State) (w : Writer) (rs : List Range) (h : Keeps pt a s) (x_snaps :
    pt.snaps = false := by assumption) :
        Keeps pt a (State.preserveFor s w rs) := by
  unfold State.preserveFor
  try dsimp only
  repeat' first
    | with_reducible assumption | with_reducible apply KeepsR.next | with_reducible apply KeepsR.fault
    | with_reducible apply KeepsR.atPlace | with_reducible apply KeepsO.some | with_reducible apply KeepsO.none
    | with_reducible apply KeepsO.getD | with_reducible apply Keeps.foldl | with_reducible apply Keeps.foldlFst
    | with_reducible apply Keeps.foldlSnd | ((with_reducible apply Same.mk) <;> first | exact no ‹_› | exact fun _ => rfl)
    | intro _ | split | assumption | with_reducible apply Keeps.sends | fail_if_no_progress with_reducible apply Keeps.update

end Sys2Proof.Machine
end

