-- ==== Sys2Proof/Laws/KeepThreads.lean ====
section
/-!
SUPPORT. What the operations of Machine/Threads.lean keep (Laws/Keeps.lean).
-/
namespace Sys2Proof.Machine

set_option linter.unusedTactic false
set_option linter.unreachableTactic false
set_option Elab.async false

theorem State.passTurn_keeps {pt : Parts} {a : State} (s : State) (n : Nat) (st : Stream) (h : Keeps pt a s) (x_tiles : pt.tiles =
    false := by assumption) :
        Keeps pt a (State.passTurn s n st) := by
  unfold State.passTurn
  try dsimp only
  repeat' first
    | with_reducible assumption | with_reducible apply KeepsR.next | with_reducible apply KeepsR.fault
    | with_reducible apply KeepsR.atPlace | with_reducible apply KeepsO.some | with_reducible apply KeepsO.none
    | with_reducible apply KeepsO.getD | with_reducible apply State.modTile_keeps | with_reducible apply Keeps.foldl
    | with_reducible apply Keeps.foldlFst | with_reducible apply Keeps.foldlSnd
    | ((with_reducible apply Same.mk) <;> first | exact no ‹_› | exact fun _ => rfl) | intro _ | split | assumption
    | with_reducible apply Keeps.sends | fail_if_no_progress with_reducible apply Keeps.update

theorem State.retireAt_keeps {pt : Parts} {a : State} (s : State) (n : Nat) (st : Stream) (pc : Word) (h : Keeps pt a s) (x_tiles
    : pt.tiles = false := by assumption) :
        Keeps pt a (State.retireAt s n st pc) := by
  unfold State.retireAt
  try dsimp only
  repeat' first
    | with_reducible assumption | with_reducible apply KeepsR.next | with_reducible apply KeepsR.fault
    | with_reducible apply KeepsR.atPlace | with_reducible apply KeepsO.some | with_reducible apply KeepsO.none
    | with_reducible apply KeepsO.getD | with_reducible apply State.modThread_keeps | with_reducible apply State.fresh_keeps
    | with_reducible apply State.progressed_keeps | with_reducible apply State.passTurn_keeps | with_reducible apply Keeps.foldl
    | with_reducible apply Keeps.foldlFst | with_reducible apply Keeps.foldlSnd
    | ((with_reducible apply Same.mk) <;> first | exact no ‹_› | exact fun _ => rfl) | intro _ | split | assumption
    | with_reducible apply Keeps.sends | fail_if_no_progress with_reducible apply Keeps.update

theorem State.retire_keeps {pt : Parts} {a : State} (s : State) (n : Nat) (st : Stream) (len : Nat) (h : Keeps pt a s) (x_tiles :
    pt.tiles = false := by assumption) :
        Keeps pt a (State.retire s n st len) := by
  unfold State.retire
  try dsimp only
  repeat' first
    | with_reducible assumption | with_reducible apply KeepsR.next | with_reducible apply KeepsR.fault
    | with_reducible apply KeepsR.atPlace | with_reducible apply KeepsO.some | with_reducible apply KeepsO.none
    | with_reducible apply KeepsO.getD | with_reducible apply State.retireAt_keeps | with_reducible apply Keeps.foldl
    | with_reducible apply Keeps.foldlFst | with_reducible apply Keeps.foldlSnd
    | ((with_reducible apply Same.mk) <;> first | exact no ‹_› | exact fun _ => rfl) | intro _ | split | assumption
    | with_reducible apply Keeps.sends | fail_if_no_progress with_reducible apply Keeps.update

theorem State.retireReg_keeps {pt : Parts} {a : State} (s : State) (n : Nat) (st : Stream) (len : Nat) (rd : Nat) (v : Word) (h :
    Keeps pt a s) (x_tiles : pt.tiles = false := by assumption) :
        Keeps pt a (State.retireReg s n st len rd v) := by
  unfold State.retireReg
  try dsimp only
  repeat' first
    | with_reducible assumption | with_reducible apply KeepsR.next | with_reducible apply KeepsR.fault
    | with_reducible apply KeepsR.atPlace | with_reducible apply KeepsO.some | with_reducible apply KeepsO.none
    | with_reducible apply KeepsO.getD | with_reducible apply State.modThread_keeps | with_reducible apply State.retire_keeps
    | with_reducible apply Keeps.foldl | with_reducible apply Keeps.foldlFst | with_reducible apply Keeps.foldlSnd
    | ((with_reducible apply Same.mk) <;> first | exact no ‹_› | exact fun _ => rfl) | intro _ | split | assumption
    | with_reducible apply Keeps.sends | fail_if_no_progress with_reducible apply Keeps.update

theorem State.coreHalt_keeps {pt : Parts} {a : State} (s : State) (n : Nat) (st : Stream) (reason : Nat) (address : Nat) (detail :
    Nat) (h : Keeps pt a s) (x_tiles : pt.tiles = false := by assumption) (x_trouble : pt.trouble = false := by assumption)
    (x_ports : pt.ports = false := by assumption) :
        Keeps pt a (State.coreHalt s n st reason address detail) := by
  unfold State.coreHalt
  try dsimp only
  repeat' first
    | with_reducible assumption | with_reducible apply KeepsR.next | with_reducible apply KeepsR.fault
    | with_reducible apply KeepsR.atPlace | with_reducible apply KeepsO.some | with_reducible apply KeepsO.none
    | with_reducible apply KeepsO.getD | with_reducible apply State.halt_keeps | with_reducible apply Keeps.foldl
    | with_reducible apply Keeps.foldlFst | with_reducible apply Keeps.foldlSnd
    | ((with_reducible apply Same.mk) <;> first | exact no ‹_› | exact fun _ => rfl) | intro _ | split | assumption
    | with_reducible apply Keeps.sends | fail_if_no_progress with_reducible apply Keeps.update

theorem State.readReg_keeps {pt : Parts} {a : State} (s : State) (n : Nat) (st : Stream) (off : Nat) (v : Word × State) (h : Keeps pt a s)
    (e : s.readReg n st off = some v)  : Keeps pt a v.2 := by
  unfold State.readReg at e
  dsimp only at e
  split at e <;> cases e <;> first | exact h | exact State.cycle_keeps _ n h

theorem State.loadCore_keeps {pt : Parts} {a : State} (s : State) (n : Nat) (st : Stream) (len : Nat) (f3 : Nat) (rd : Nat) (a0 :
    Nat) (h : Keeps pt a s) (x_tiles : pt.tiles = false := by assumption) (x_ctxs : pt.ctxs = false := by assumption) (x_trouble :
    pt.trouble = false := by assumption) (x_ports : pt.ports = false := by assumption) :
        Keeps pt a (State.loadCore s n st len f3 rd a0) := by
  unfold State.loadCore
  try dsimp only
  repeat' first
    | assumption | with_reducible apply State.coreHalt_keeps | with_reducible apply State.retireReg_keeps
    | with_reducible apply State.ueError_keeps | with_reducible apply State.coreUe_keeps
    | (apply State.readReg_keeps <;> assumption) | split

theorem State.storeCore_keeps {pt : Parts} {a : State} (s : State) (n : Nat) (st : Stream) (len : Nat) (f3 : Nat) (a0 : Nat) (v :
    Word) (h : Keeps pt a s) (x_tiles : pt.tiles = false := by assumption) (x_ctxs : pt.ctxs = false := by assumption) (x_mem :
    pt.mem = false := by assumption) (x_bad : pt.bad = false := by assumption) (x_snaps : pt.snaps = false := by assumption)
    (x_trouble : pt.trouble = false := by assumption) (x_ports : pt.ports = false := by assumption) :
        Keeps pt a (State.storeCore s n st len f3 a0 v) := by
  unfold State.storeCore
  try dsimp only
  repeat' first
    | with_reducible assumption | with_reducible apply KeepsR.next | with_reducible apply KeepsR.fault
    | with_reducible apply KeepsR.atPlace | with_reducible apply KeepsO.some | with_reducible apply KeepsO.none
    | with_reducible apply KeepsO.getD | with_reducible apply State.modTile_keeps | with_reducible apply State.modThread_keeps
    | with_reducible apply State.write_keeps | with_reducible apply State.ueError_keeps | with_reducible apply State.coreUe_keeps
    | with_reducible apply State.retire_keeps | with_reducible apply State.coreHalt_keeps | with_reducible apply Keeps.foldl
    | with_reducible apply Keeps.foldlFst | with_reducible apply Keeps.foldlSnd
    | ((with_reducible apply Same.mk) <;> first | exact no ‹_› | exact fun _ => rfl) | intro _ | split | assumption
    | with_reducible apply Keeps.sends | fail_if_no_progress with_reducible apply Keeps.update

theorem State.runPlain_keeps {pt : Parts} {a : State} (s : State) (n : Nat) (st : Stream) (op : RvOp) (len : Nat) (h : Keeps pt a
    s) (x_tiles : pt.tiles = false := by assumption) (x_ctxs : pt.ctxs = false := by assumption) (x_mem : pt.mem = false := by
    assumption) (x_bad : pt.bad = false := by assumption) (x_snaps : pt.snaps = false := by assumption) (x_trouble : pt.trouble =
    false := by assumption) (x_ports : pt.ports = false := by assumption) :
        Keeps pt a (State.runPlain s n st op len) := by
  unfold State.runPlain
  try dsimp only
  repeat' first
    | with_reducible assumption | with_reducible apply KeepsR.next | with_reducible apply KeepsR.fault
    | with_reducible apply KeepsR.atPlace | with_reducible apply KeepsO.some | with_reducible apply KeepsO.none
    | with_reducible apply KeepsO.getD | with_reducible apply State.modThread_keeps | with_reducible apply State.retireAt_keeps
    | with_reducible apply State.retire_keeps | with_reducible apply State.retireReg_keeps
    | with_reducible apply State.coreHalt_keeps | with_reducible apply State.loadCore_keeps
    | with_reducible apply State.storeCore_keeps | with_reducible apply Keeps.foldl | with_reducible apply Keeps.foldlFst
    | with_reducible apply Keeps.foldlSnd | ((with_reducible apply Same.mk) <;> first | exact no ‹_› | exact fun _ => rfl)
    | intro _ | split | assumption | with_reducible apply Keeps.sends | fail_if_no_progress with_reducible apply Keeps.update

theorem onInstr_keeps {pt : Parts} {a : State} (n : Nat) (st : Stream) (s : State) (f : RvOp → Nat → Option State) (h : Keeps pt a
    s) (hf : ∀ (y0 : RvOp) (y1 : Nat), KeepsO pt a (f y0 y1)) :
        KeepsR pt a (onInstr n st s f) := by
  unfold onInstr
  try dsimp only
  repeat' first
    | with_reducible assumption | with_reducible apply hf | with_reducible apply KeepsR.next | with_reducible apply KeepsR.fault
    | with_reducible apply KeepsR.atPlace | with_reducible apply KeepsO.some | with_reducible apply KeepsO.none
    | with_reducible apply KeepsO.getD | with_reducible apply Keeps.foldl | with_reducible apply Keeps.foldlFst
    | with_reducible apply Keeps.foldlSnd | ((with_reducible apply Same.mk) <;> first | exact no ‹_› | exact fun _ => rfl)
    | intro _ | split | assumption | with_reducible apply Keeps.sends | fail_if_no_progress with_reducible apply Keeps.update

theorem execRvInstruction_keeps {pt : Parts} {a : State} (n : Nat) (st : Stream) (s : State) (h : Keeps pt a s) (x_tiles :
    pt.tiles = false := by assumption) (x_ctxs : pt.ctxs = false := by assumption) (x_mem : pt.mem = false := by assumption)
    (x_bad : pt.bad = false := by assumption) (x_snaps : pt.snaps = false := by assumption) (x_trouble : pt.trouble = false := by
    assumption) (x_ports : pt.ports = false := by assumption) :
        KeepsR pt a (execRvInstruction n st s) := by
  unfold execRvInstruction
  try dsimp only
  repeat' first
    | with_reducible assumption | with_reducible apply KeepsR.next | with_reducible apply KeepsR.fault
    | with_reducible apply KeepsR.atPlace | with_reducible apply KeepsO.some | with_reducible apply KeepsO.none
    | with_reducible apply KeepsO.getD | with_reducible apply State.coreUe_keeps | with_reducible apply State.coreHalt_keeps
    | with_reducible apply State.runPlain_keeps | with_reducible apply Keeps.foldl | with_reducible apply Keeps.foldlFst
    | with_reducible apply Keeps.foldlSnd | ((with_reducible apply Same.mk) <;> first | exact no ‹_› | exact fun _ => rfl)
    | intro _ | split | assumption | with_reducible apply Keeps.sends | fail_if_no_progress with_reducible apply Keeps.update

theorem execRvFence_keeps {pt : Parts} {a : State} (n : Nat) (st : Stream) (s : State) (h : Keeps pt a s) (x_tiles : pt.tiles =
    false := by assumption) :
        KeepsR pt a (execRvFence n st s) := by
  unfold execRvFence
  try dsimp only
  repeat' first
    | with_reducible assumption | with_reducible apply KeepsR.next | with_reducible apply KeepsR.fault
    | with_reducible apply KeepsR.atPlace | with_reducible apply KeepsO.some | with_reducible apply KeepsO.none
    | with_reducible apply KeepsO.getD | with_reducible apply State.retire_keeps | with_reducible apply onInstr_keeps
    | with_reducible apply Keeps.foldl | with_reducible apply Keeps.foldlFst | with_reducible apply Keeps.foldlSnd
    | ((with_reducible apply Same.mk) <;> first | exact no ‹_› | exact fun _ => rfl) | intro _ | split | assumption
    | with_reducible apply Keeps.sends | fail_if_no_progress with_reducible apply Keeps.update

theorem execEbreak_keeps {pt : Parts} {a : State} (n : Nat) (st : Stream) (s : State) (h : Keeps pt a s) (x_tiles : pt.tiles =
    false := by assumption) (x_trouble : pt.trouble = false := by assumption) (x_ports : pt.ports = false := by assumption) :
        KeepsR pt a (execEbreak n st s) := by
  unfold execEbreak
  try dsimp only
  repeat' first
    | with_reducible assumption | with_reducible apply KeepsR.next | with_reducible apply KeepsR.fault
    | with_reducible apply KeepsR.atPlace | with_reducible apply KeepsO.some | with_reducible apply KeepsO.none
    | with_reducible apply KeepsO.getD | with_reducible apply State.coreHalt_keeps | with_reducible apply onInstr_keeps
    | with_reducible apply Keeps.foldl | with_reducible apply Keeps.foldlFst | with_reducible apply Keeps.foldlSnd
    | ((with_reducible apply Same.mk) <;> first | exact no ‹_› | exact fun _ => rfl) | intro _ | split | assumption
    | with_reducible apply Keeps.sends | fail_if_no_progress with_reducible apply Keeps.update

theorem execEcall_keeps {pt : Parts} {a : State} (n : Nat) (st : Stream) (s : State) (h : Keeps pt a s) (x_tiles : pt.tiles =
    false := by assumption) (x_trouble : pt.trouble = false := by assumption) (x_ports : pt.ports = false := by assumption) :
        KeepsR pt a (execEcall n st s) := by
  unfold execEcall
  try dsimp only
  repeat' first
    | with_reducible assumption | with_reducible apply KeepsR.next | with_reducible apply KeepsR.fault
    | with_reducible apply KeepsR.atPlace | with_reducible apply KeepsO.some | with_reducible apply KeepsO.none
    | with_reducible apply KeepsO.getD | with_reducible apply State.coreHalt_keeps | with_reducible apply onInstr_keeps
    | with_reducible apply Keeps.foldl | with_reducible apply Keeps.foldlFst | with_reducible apply Keeps.foldlSnd
    | ((with_reducible apply Same.mk) <;> first | exact no ‹_› | exact fun _ => rfl) | intro _ | split | assumption
    | with_reducible apply Keeps.sends | fail_if_no_progress with_reducible apply Keeps.update

theorem execCstW_keeps {pt : Parts} {a : State} (n : Nat) (st : Stream) (s : State) (h : Keeps pt a s) (x_tiles : pt.tiles = false
    := by assumption) :
        KeepsR pt a (execCstW n st s) := by
  unfold execCstW
  try dsimp only
  repeat' first
    | with_reducible assumption | with_reducible apply KeepsR.next | with_reducible apply KeepsR.fault
    | with_reducible apply KeepsR.atPlace | with_reducible apply KeepsO.some | with_reducible apply KeepsO.none
    | with_reducible apply KeepsO.getD | with_reducible apply State.modThread_keeps | with_reducible apply State.retire_keeps
    | with_reducible apply onInstr_keeps | with_reducible apply Keeps.foldl | with_reducible apply Keeps.foldlFst
    | with_reducible apply Keeps.foldlSnd | ((with_reducible apply Same.mk) <;> first | exact no ‹_› | exact fun _ => rfl)
    | intro _ | split | assumption | with_reducible apply Keeps.sends | fail_if_no_progress with_reducible apply Keeps.update

theorem execCld_keeps {pt : Parts} {a : State} (n : Nat) (st : Stream) (s : State) (h : Keeps pt a s) (x_tiles : pt.tiles = false
    := by assumption) (x_ctxs : pt.ctxs = false := by assumption) (x_trouble : pt.trouble = false := by assumption) (x_ports :
    pt.ports = false := by assumption) :
        KeepsR pt a (execCld n st s) := by
  unfold execCld
  try dsimp only
  repeat' first
    | with_reducible assumption | with_reducible apply KeepsR.next | with_reducible apply KeepsR.fault
    | with_reducible apply KeepsR.atPlace | with_reducible apply KeepsO.some | with_reducible apply KeepsO.none
    | with_reducible apply KeepsO.getD | with_reducible apply State.modThread_keeps | with_reducible apply State.coreUe_keeps
    | with_reducible apply State.retire_keeps | with_reducible apply State.coreHalt_keeps | with_reducible apply onInstr_keeps
    | with_reducible apply Keeps.foldl | with_reducible apply Keeps.foldlFst | with_reducible apply Keeps.foldlSnd
    | ((with_reducible apply Same.mk) <;> first | exact no ‹_› | exact fun _ => rfl) | intro _ | split | assumption
    | with_reducible apply Keeps.sends | fail_if_no_progress with_reducible apply Keeps.update

theorem State.enqueue_keeps {pt : Parts} {a : State} (s : State) (n : Nat) (e : Engine) (st : Stream) (x : Entry) (h : Keeps pt a
    s) (x_tiles : pt.tiles = false := by assumption) :
        Keeps pt a (State.enqueue s n e st x) := by
  unfold State.enqueue
  try dsimp only
  repeat' first
    | with_reducible assumption | with_reducible apply KeepsR.next | with_reducible apply KeepsR.fault
    | with_reducible apply KeepsR.atPlace | with_reducible apply KeepsO.some | with_reducible apply KeepsO.none
    | with_reducible apply KeepsO.getD | with_reducible apply State.modQueue_keeps | with_reducible apply Keeps.foldl
    | with_reducible apply Keeps.foldlFst | with_reducible apply Keeps.foldlSnd
    | ((with_reducible apply Same.mk) <;> first | exact no ‹_› | exact fun _ => rfl) | intro _ | split | assumption
    | with_reducible apply Keeps.sends | fail_if_no_progress with_reducible apply Keeps.update

theorem State.placePush_keeps {pt : Parts} {a : State} (s : State) (n : Nat) (st : Stream) (rs1 : Nat) (rs2 : Nat) (skip : Bool)
    (h : Keeps pt a s) (x_tiles : pt.tiles = false := by assumption) :
        Keeps pt a (State.placePush s n st rs1 rs2 skip) := by
  unfold State.placePush
  try dsimp only
  repeat' first
    | with_reducible assumption | with_reducible apply KeepsR.next | with_reducible apply KeepsR.fault
    | with_reducible apply KeepsR.atPlace | with_reducible apply KeepsO.some | with_reducible apply KeepsO.none
    | with_reducible apply KeepsO.getD | with_reducible apply State.modTile_keeps | with_reducible apply State.modThread_keeps
    | with_reducible apply State.fresh_keeps | with_reducible apply State.enqueue_keeps | with_reducible apply Keeps.foldl
    | with_reducible apply Keeps.foldlFst | with_reducible apply Keeps.foldlSnd
    | ((with_reducible apply Same.mk) <;> first | exact no ‹_› | exact fun _ => rfl) | intro _ | split | assumption
    | with_reducible apply Keeps.sends | fail_if_no_progress with_reducible apply Keeps.update

theorem State.boundary_keeps {pt : Parts} {a : State} (s : State) (n : Nat) (st : Stream) (len : Nat) (h : Keeps pt a s) (x_tiles
    : pt.tiles = false := by assumption) :
        Keeps pt a (State.boundary s n st len) := by
  unfold State.boundary
  try dsimp only
  repeat' first
    | with_reducible assumption | with_reducible apply KeepsR.next | with_reducible apply KeepsR.fault
    | with_reducible apply KeepsR.atPlace | with_reducible apply KeepsO.some | with_reducible apply KeepsO.none
    | with_reducible apply KeepsO.getD | with_reducible apply State.switchBank_keeps | with_reducible apply State.retire_keeps
    | with_reducible apply Keeps.foldl | with_reducible apply Keeps.foldlFst | with_reducible apply Keeps.foldlSnd
    | ((with_reducible apply Same.mk) <;> first | exact no ‹_› | exact fun _ => rfl) | intro _ | split | assumption
    | with_reducible apply Keeps.sends | fail_if_no_progress with_reducible apply Keeps.update

theorem execCpush_keeps {pt : Parts} {a : State} (n : Nat) (st : Stream) (s : State) (h : Keeps pt a s) (x_tiles : pt.tiles =
    false := by assumption) (x_trouble : pt.trouble = false := by assumption) (x_ports : pt.ports = false := by assumption) :
        KeepsR pt a (execCpush n st s) := by
  unfold execCpush
  try dsimp only
  repeat' first
    | with_reducible assumption | with_reducible apply KeepsR.next | with_reducible apply KeepsR.fault
    | with_reducible apply KeepsR.atPlace | with_reducible apply KeepsO.some | with_reducible apply KeepsO.none
    | with_reducible apply KeepsO.getD | with_reducible apply State.modThread_keeps | with_reducible apply State.coreHalt_keeps
    | with_reducible apply onInstr_keeps | with_reducible apply State.placePush_keeps | with_reducible apply State.boundary_keeps
    | with_reducible apply Keeps.foldl | with_reducible apply Keeps.foldlFst | with_reducible apply Keeps.foldlSnd
    | ((with_reducible apply Same.mk) <;> first | exact no ‹_› | exact fun _ => rfl) | intro _ | split | assumption
    | with_reducible apply Keeps.sends | fail_if_no_progress with_reducible apply Keeps.update

theorem execCpushnb_keeps {pt : Parts} {a : State} (n : Nat) (st : Stream) (s : State) (h : Keeps pt a s) (x_tiles : pt.tiles =
    false := by assumption) (x_trouble : pt.trouble = false := by assumption) (x_ports : pt.ports = false := by assumption) :
        KeepsR pt a (execCpushnb n st s) := by
  unfold execCpushnb
  try dsimp only
  repeat' first
    | with_reducible assumption | with_reducible apply KeepsR.next | with_reducible apply KeepsR.fault
    | with_reducible apply KeepsR.atPlace | with_reducible apply KeepsO.some | with_reducible apply KeepsO.none
    | with_reducible apply KeepsO.getD | with_reducible apply State.modThread_keeps | with_reducible apply State.retireReg_keeps
    | with_reducible apply State.coreHalt_keeps | with_reducible apply onInstr_keeps | with_reducible apply State.placePush_keeps
    | with_reducible apply State.boundary_keeps | with_reducible apply Keeps.foldl | with_reducible apply Keeps.foldlFst
    | with_reducible apply Keeps.foldlSnd | ((with_reducible apply Same.mk) <;> first | exact no ‹_› | exact fun _ => rfl)
    | intro _ | split | assumption | with_reducible apply Keeps.sends | fail_if_no_progress with_reducible apply Keeps.update

theorem State.wake_keeps {pt : Parts} {a : State} (s : State) (n : Nat) (st : Stream) (h : Keeps pt a s) (x_tiles : pt.tiles =
    false := by assumption) :
        Keeps pt a (State.wake s n st) := by
  unfold State.wake
  try dsimp only
  repeat' first
    | with_reducible assumption | with_reducible apply KeepsR.next | with_reducible apply KeepsR.fault
    | with_reducible apply KeepsR.atPlace | with_reducible apply KeepsO.some | with_reducible apply KeepsO.none
    | with_reducible apply KeepsO.getD | with_reducible apply State.modThread_keeps | with_reducible apply Keeps.foldl
    | with_reducible apply Keeps.foldlFst | with_reducible apply Keeps.foldlSnd
    | ((with_reducible apply Same.mk) <;> first | exact no ‹_› | exact fun _ => rfl) | intro _ | split | assumption
    | with_reducible apply Keeps.sends | fail_if_no_progress with_reducible apply Keeps.update

theorem onWait_keeps {pt : Parts} {a : State} (n : Nat) (st : Stream) (at1 : WaitAt) (s : State) (f : RvOp → Nat → Option State)
    (h : Keeps pt a s) (hf : ∀ (y0 : RvOp) (y1 : Nat), KeepsO pt a (f y0 y1)) :
        KeepsR pt a (onWait n st at1 s f) := by
  unfold onWait
  try dsimp only
  repeat' first
    | with_reducible assumption | with_reducible apply hf | with_reducible apply KeepsR.next | with_reducible apply KeepsR.fault
    | with_reducible apply KeepsR.atPlace | with_reducible apply KeepsO.some | with_reducible apply KeepsO.none
    | with_reducible apply KeepsO.getD | with_reducible apply Keeps.foldl | with_reducible apply Keeps.foldlFst
    | with_reducible apply Keeps.foldlSnd | ((with_reducible apply Same.mk) <;> first | exact no ‹_› | exact fun _ => rfl)
    | intro _ | split | assumption | with_reducible apply Keeps.sends | fail_if_no_progress with_reducible apply Keeps.update

theorem execPushRoomResume_keeps {pt : Parts} {a : State} (n : Nat) (st : Stream) (s : State) (h : Keeps pt a s) (x_tiles :
    pt.tiles = false := by assumption) (x_trouble : pt.trouble = false := by assumption) (x_ports : pt.ports = false := by
    assumption) :
        KeepsR pt a (execPushRoomResume n st s) := by
  unfold execPushRoomResume
  try dsimp only
  repeat' first
    | with_reducible assumption | with_reducible apply KeepsR.next | with_reducible apply KeepsR.fault
    | with_reducible apply KeepsR.atPlace | with_reducible apply KeepsO.some | with_reducible apply KeepsO.none
    | with_reducible apply KeepsO.getD | with_reducible apply State.coreHalt_keeps | with_reducible apply State.placePush_keeps
    | with_reducible apply State.boundary_keeps | with_reducible apply State.wake_keeps | with_reducible apply onWait_keeps
    | with_reducible apply Keeps.foldl | with_reducible apply Keeps.foldlFst | with_reducible apply Keeps.foldlSnd
    | ((with_reducible apply Same.mk) <;> first | exact no ‹_› | exact fun _ => rfl) | intro _ | split | assumption
    | with_reducible apply Keeps.sends | fail_if_no_progress with_reducible apply Keeps.update

theorem execQfree_keeps {pt : Parts} {a : State} (n : Nat) (st : Stream) (s : State) (h : Keeps pt a s) (x_tiles : pt.tiles =
    false := by assumption) (x_trouble : pt.trouble = false := by assumption) (x_ports : pt.ports = false := by assumption) :
        KeepsR pt a (execQfree n st s) := by
  unfold execQfree
  try dsimp only
  repeat' first
    | with_reducible assumption | with_reducible apply KeepsR.next | with_reducible apply KeepsR.fault
    | with_reducible apply KeepsR.atPlace | with_reducible apply KeepsO.some | with_reducible apply KeepsO.none
    | with_reducible apply KeepsO.getD | with_reducible apply State.retireReg_keeps | with_reducible apply State.coreHalt_keeps
    | with_reducible apply onInstr_keeps | with_reducible apply Keeps.foldl | with_reducible apply Keeps.foldlFst
    | with_reducible apply Keeps.foldlSnd | ((with_reducible apply Same.mk) <;> first | exact no ‹_› | exact fun _ => rfl)
    | intro _ | split | assumption | with_reducible apply Keeps.sends | fail_if_no_progress with_reducible apply Keeps.update

theorem execCdrain_keeps {pt : Parts} {a : State} (n : Nat) (st : Stream) (s : State) (h : Keeps pt a s) (x_tiles : pt.tiles =
    false := by assumption) (x_trouble : pt.trouble = false := by assumption) (x_ports : pt.ports = false := by assumption) :
        KeepsR pt a (execCdrain n st s) := by
  unfold execCdrain
  try dsimp only
  repeat' first
    | with_reducible assumption | with_reducible apply KeepsR.next | with_reducible apply KeepsR.fault
    | with_reducible apply KeepsR.atPlace | with_reducible apply KeepsO.some | with_reducible apply KeepsO.none
    | with_reducible apply KeepsO.getD | with_reducible apply State.modThread_keeps | with_reducible apply State.retire_keeps
    | with_reducible apply State.coreHalt_keeps | with_reducible apply onInstr_keeps | with_reducible apply Keeps.foldl
    | with_reducible apply Keeps.foldlFst | with_reducible apply Keeps.foldlSnd
    | ((with_reducible apply Same.mk) <;> first | exact no ‹_› | exact fun _ => rfl) | intro _ | split | assumption
    | with_reducible apply Keeps.sends | fail_if_no_progress with_reducible apply Keeps.update

theorem execCdrainResume_keeps {pt : Parts} {a : State} (n : Nat) (st : Stream) (s : State) (h : Keeps pt a s) (x_tiles : pt.tiles
    = false := by assumption) :
        KeepsR pt a (execCdrainResume n st s) := by
  unfold execCdrainResume
  try dsimp only
  repeat' first
    | with_reducible assumption | with_reducible apply KeepsR.next | with_reducible apply KeepsR.fault
    | with_reducible apply KeepsR.atPlace | with_reducible apply KeepsO.some | with_reducible apply KeepsO.none
    | with_reducible apply KeepsO.getD | with_reducible apply State.retire_keeps | with_reducible apply State.wake_keeps
    | with_reducible apply onWait_keeps | with_reducible apply Keeps.foldl | with_reducible apply Keeps.foldlFst
    | with_reducible apply Keeps.foldlSnd | ((with_reducible apply Same.mk) <;> first | exact no ‹_› | exact fun _ => rfl)
    | intro _ | split | assumption | with_reducible apply Keeps.sends | fail_if_no_progress with_reducible apply Keeps.update

theorem execSumrd_keeps {pt : Parts} {a : State} (n : Nat) (st : Stream) (s : State) (h : Keeps pt a s) (x_tiles : pt.tiles =
    false := by assumption) (x_trouble : pt.trouble = false := by assumption) (x_ports : pt.ports = false := by assumption) :
        KeepsR pt a (execSumrd n st s) := by
  unfold execSumrd
  try dsimp only
  repeat' first
    | with_reducible assumption | with_reducible apply KeepsR.next | with_reducible apply KeepsR.fault
    | with_reducible apply KeepsR.atPlace | with_reducible apply KeepsO.some | with_reducible apply KeepsO.none
    | with_reducible apply KeepsO.getD | with_reducible apply State.modThread_keeps | with_reducible apply State.retireReg_keeps
    | with_reducible apply State.coreHalt_keeps | with_reducible apply onInstr_keeps | with_reducible apply Keeps.foldl
    | with_reducible apply Keeps.foldlFst | with_reducible apply Keeps.foldlSnd
    | ((with_reducible apply Same.mk) <;> first | exact no ‹_› | exact fun _ => rfl) | intro _ | split | assumption
    | with_reducible apply Keeps.sends | fail_if_no_progress with_reducible apply Keeps.update

theorem execSumrdResume_keeps {pt : Parts} {a : State} (n : Nat) (st : Stream) (s : State) (h : Keeps pt a s) (x_tiles : pt.tiles
    = false := by assumption) :
        KeepsR pt a (execSumrdResume n st s) := by
  unfold execSumrdResume
  try dsimp only
  repeat' first
    | with_reducible assumption | with_reducible apply KeepsR.next | with_reducible apply KeepsR.fault
    | with_reducible apply KeepsR.atPlace | with_reducible apply KeepsO.some | with_reducible apply KeepsO.none
    | with_reducible apply KeepsO.getD | with_reducible apply State.modThread_keeps | with_reducible apply State.retireReg_keeps
    | with_reducible apply State.wake_keeps | with_reducible apply onWait_keeps | with_reducible apply Keeps.foldl
    | with_reducible apply Keeps.foldlFst | with_reducible apply Keeps.foldlSnd
    | ((with_reducible apply Same.mk) <;> first | exact no ‹_› | exact fun _ => rfl) | intro _ | split | assumption
    | with_reducible apply Keeps.sends | fail_if_no_progress with_reducible apply Keeps.update

theorem State.switchIdle_keeps {pt : Parts} {a : State} (s : State) (n : Nat) (h : Keeps pt a s) (x_tiles : pt.tiles = false := by
    assumption) :
        Keeps pt a (State.switchIdle s n) := by
  unfold State.switchIdle
  try dsimp only
  repeat' first
    | with_reducible assumption | with_reducible apply KeepsR.next | with_reducible apply KeepsR.fault
    | with_reducible apply KeepsR.atPlace | with_reducible apply KeepsO.some | with_reducible apply KeepsO.none
    | with_reducible apply KeepsO.getD | with_reducible apply State.switchBank_keeps | with_reducible apply State.halt_keeps
    | with_reducible apply Keeps.foldl | with_reducible apply Keeps.foldlFst | with_reducible apply Keeps.foldlSnd
    | ((with_reducible apply Same.mk) <;> first | exact no ‹_› | exact fun _ => rfl) | intro _ | split | assumption
    | with_reducible apply Keeps.sends | fail_if_no_progress with_reducible apply Keeps.update

theorem execImswap_keeps {pt : Parts} {a : State} (n : Nat) (st : Stream) (s : State) (h : Keeps pt a s) (x_tiles : pt.tiles =
    false := by assumption) (x_trouble : pt.trouble = false := by assumption) (x_ports : pt.ports = false := by assumption) :
        KeepsR pt a (execImswap n st s) := by
  unfold execImswap
  apply onInstr_keeps _ _ _ _ h
  intro op len
  try dsimp only
  split
  · split
    · exact .some (State.coreHalt_keeps _ _ _ _ _ _ h)
    · refine .some (State.boundary_keeps _ _ _ _ (State.switchIdle_keeps _ _ (State.modTile_keeps _ _ _ h)))
  · exact .none

theorem execPark_keeps {pt : Parts} {a : State} (n : Nat) (st : Stream) (s : State) (h : Keeps pt a s) (x_tiles : pt.tiles = false
    := by assumption) :
        KeepsR pt a (execPark n st s) := by
  unfold execPark
  try dsimp only
  repeat' first
    | with_reducible assumption | with_reducible apply KeepsR.next | with_reducible apply KeepsR.fault
    | with_reducible apply KeepsR.atPlace | with_reducible apply KeepsO.some | with_reducible apply KeepsO.none
    | with_reducible apply KeepsO.getD | with_reducible apply State.modThread_keeps | with_reducible apply State.switchBank_keeps
    | with_reducible apply State.retire_keeps | with_reducible apply onInstr_keeps | with_reducible apply Keeps.foldl
    | with_reducible apply Keeps.foldlFst | with_reducible apply Keeps.foldlSnd
    | ((with_reducible apply Same.mk) <;> first | exact no ‹_› | exact fun _ => rfl) | intro _ | split | assumption
    | with_reducible apply Keeps.sends | fail_if_no_progress with_reducible apply Keeps.update

theorem execThreadStart_keeps {pt : Parts} {a : State} (k : Nat) (s : State) (h : Keeps pt a s) (x_tiles : pt.tiles = false := by
    assumption) (x_net : pt.net = false := by assumption) (x_trouble : pt.trouble = false := by assumption) :
        KeepsR pt a (execThreadStart k s) := by
  unfold execThreadStart
  try dsimp only
  repeat' first
    | with_reducible assumption | with_reducible apply KeepsR.next | with_reducible apply KeepsR.fault
    | with_reducible apply KeepsR.atPlace | with_reducible apply KeepsO.some | with_reducible apply KeepsO.none
    | with_reducible apply KeepsO.getD | with_reducible apply State.modThread_keeps | with_reducible apply State.fresh_keeps
    | with_reducible apply State.consume_keeps | with_reducible apply State.countDrop_keeps | with_reducible apply Keeps.foldl
    | with_reducible apply Keeps.foldlFst | with_reducible apply Keeps.foldlSnd
    | ((with_reducible apply Same.mk) <;> first | exact no ‹_› | exact fun _ => rfl) | intro _ | split | assumption
    | with_reducible apply Keeps.sends | fail_if_no_progress with_reducible apply Keeps.update

theorem State.retirePreds_keeps {pt : Parts} {a : State} (s : State) (n : Nat) (st : Stream) (len : Nat) (p : BitVec 16) (h :
    Keeps pt a s) (x_tiles : pt.tiles = false := by assumption) :
        Keeps pt a (State.retirePreds s n st len p) := by
  unfold State.retirePreds
  try dsimp only
  repeat' first
    | with_reducible assumption | with_reducible apply KeepsR.next | with_reducible apply KeepsR.fault
    | with_reducible apply KeepsR.atPlace | with_reducible apply KeepsO.some | with_reducible apply KeepsO.none
    | with_reducible apply KeepsO.getD | with_reducible apply State.modThread_keeps | with_reducible apply State.retire_keeps
    | with_reducible apply Keeps.foldl | with_reducible apply Keeps.foldlFst | with_reducible apply Keeps.foldlSnd
    | ((with_reducible apply Same.mk) <;> first | exact no ‹_› | exact fun _ => rfl) | intro _ | split | assumption
    | with_reducible apply Keeps.sends | fail_if_no_progress with_reducible apply Keeps.update

theorem execPcmp_keeps {pt : Parts} {a : State} (n : Nat) (st : Stream) (s : State) (h : Keeps pt a s) (x_tiles : pt.tiles = false
    := by assumption) :
        KeepsR pt a (execPcmp n st s) := by
  unfold execPcmp
  try dsimp only
  repeat' first
    | with_reducible assumption | with_reducible apply KeepsR.next | with_reducible apply KeepsR.fault
    | with_reducible apply KeepsR.atPlace | with_reducible apply KeepsO.some | with_reducible apply KeepsO.none
    | with_reducible apply KeepsO.getD | with_reducible apply onInstr_keeps | with_reducible apply State.retirePreds_keeps
    | with_reducible apply Keeps.foldl | with_reducible apply Keeps.foldlFst | with_reducible apply Keeps.foldlSnd
    | ((with_reducible apply Same.mk) <;> first | exact no ‹_› | exact fun _ => rfl) | intro _ | split | assumption
    | with_reducible apply Keeps.sends | fail_if_no_progress with_reducible apply Keeps.update

theorem execPlog_keeps {pt : Parts} {a : State} (n : Nat) (st : Stream) (s : State) (h : Keeps pt a s) (x_tiles : pt.tiles = false
    := by assumption) :
        KeepsR pt a (execPlog n st s) := by
  unfold execPlog
  try dsimp only
  repeat' first
    | with_reducible assumption | with_reducible apply KeepsR.next | with_reducible apply KeepsR.fault
    | with_reducible apply KeepsR.atPlace | with_reducible apply KeepsO.some | with_reducible apply KeepsO.none
    | with_reducible apply KeepsO.getD | with_reducible apply onInstr_keeps | with_reducible apply State.retirePreds_keeps
    | with_reducible apply Keeps.foldl | with_reducible apply Keeps.foldlFst | with_reducible apply Keeps.foldlSnd
    | ((with_reducible apply Same.mk) <;> first | exact no ‹_› | exact fun _ => rfl) | intro _ | split | assumption
    | with_reducible apply Keeps.sends | fail_if_no_progress with_reducible apply Keeps.update

theorem execPset_keeps {pt : Parts} {a : State} (n : Nat) (st : Stream) (s : State) (h : Keeps pt a s) (x_tiles : pt.tiles = false
    := by assumption) :
        KeepsR pt a (execPset n st s) := by
  unfold execPset
  try dsimp only
  repeat' first
    | with_reducible assumption | with_reducible apply KeepsR.next | with_reducible apply KeepsR.fault
    | with_reducible apply KeepsR.atPlace | with_reducible apply KeepsO.some | with_reducible apply KeepsO.none
    | with_reducible apply KeepsO.getD | with_reducible apply onInstr_keeps | with_reducible apply State.retirePreds_keeps
    | with_reducible apply Keeps.foldl | with_reducible apply Keeps.foldlFst | with_reducible apply Keeps.foldlSnd
    | ((with_reducible apply Same.mk) <;> first | exact no ‹_› | exact fun _ => rfl) | intro _ | split | assumption
    | with_reducible apply Keeps.sends | fail_if_no_progress with_reducible apply Keeps.update

theorem execPmv_keeps {pt : Parts} {a : State} (n : Nat) (st : Stream) (s : State) (h : Keeps pt a s) (x_tiles : pt.tiles = false
    := by assumption) :
        KeepsR pt a (execPmv n st s) := by
  unfold execPmv
  try dsimp only
  repeat' first
    | with_reducible assumption | with_reducible apply KeepsR.next | with_reducible apply KeepsR.fault
    | with_reducible apply KeepsR.atPlace | with_reducible apply KeepsO.some | with_reducible apply KeepsO.none
    | with_reducible apply KeepsO.getD | with_reducible apply State.retireReg_keeps | with_reducible apply onInstr_keeps
    | with_reducible apply Keeps.foldl | with_reducible apply Keeps.foldlFst | with_reducible apply Keeps.foldlSnd
    | ((with_reducible apply Same.mk) <;> first | exact no ‹_› | exact fun _ => rfl) | intro _ | split | assumption
    | with_reducible apply Keeps.sends | fail_if_no_progress with_reducible apply Keeps.update

theorem execPrd_keeps {pt : Parts} {a : State} (n : Nat) (st : Stream) (s : State) (h : Keeps pt a s) (x_tiles : pt.tiles = false
    := by assumption) :
        KeepsR pt a (execPrd n st s) := by
  unfold execPrd
  try dsimp only
  repeat' first
    | with_reducible assumption | with_reducible apply KeepsR.next | with_reducible apply KeepsR.fault
    | with_reducible apply KeepsR.atPlace | with_reducible apply KeepsO.some | with_reducible apply KeepsO.none
    | with_reducible apply KeepsO.getD | with_reducible apply State.retireReg_keeps | with_reducible apply onInstr_keeps
    | with_reducible apply Keeps.foldl | with_reducible apply Keeps.foldlFst | with_reducible apply Keeps.foldlSnd
    | ((with_reducible apply Same.mk) <;> first | exact no ‹_› | exact fun _ => rfl) | intro _ | split | assumption
    | with_reducible apply Keeps.sends | fail_if_no_progress with_reducible apply Keeps.update

theorem execPwr_keeps {pt : Parts} {a : State} (n : Nat) (st : Stream) (s : State) (h : Keeps pt a s) (x_tiles : pt.tiles = false
    := by assumption) :
        KeepsR pt a (execPwr n st s) := by
  unfold execPwr
  try dsimp only
  repeat' first
    | with_reducible assumption | with_reducible apply KeepsR.next | with_reducible apply KeepsR.fault
    | with_reducible apply KeepsR.atPlace | with_reducible apply KeepsO.some | with_reducible apply KeepsO.none
    | with_reducible apply KeepsO.getD | with_reducible apply onInstr_keeps | with_reducible apply State.retirePreds_keeps
    | with_reducible apply Keeps.foldl | with_reducible apply Keeps.foldlFst | with_reducible apply Keeps.foldlSnd
    | ((with_reducible apply Same.mk) <;> first | exact no ‹_› | exact fun _ => rfl) | intro _ | split | assumption
    | with_reducible apply Keeps.sends | fail_if_no_progress with_reducible apply Keeps.update

theorem execCtwait_keeps {pt : Parts} {a : State} (n : Nat) (st : Stream) (s : State) (h : Keeps pt a s) (x_tiles : pt.tiles =
    false := by assumption) (x_net : pt.net = false := by assumption) (x_trouble : pt.trouble = false := by assumption) (x_ports :
    pt.ports = false := by assumption) :
        KeepsR pt a (execCtwait n st s) := by
  unfold execCtwait
  try dsimp only
  repeat' first
    | with_reducible assumption | with_reducible apply KeepsR.next | with_reducible apply KeepsR.fault
    | with_reducible apply KeepsR.atPlace | with_reducible apply KeepsO.some | with_reducible apply KeepsO.none
    | with_reducible apply KeepsO.getD | with_reducible apply State.modThread_keeps | with_reducible apply State.fresh_keeps
    | with_reducible apply State.send_keeps | with_reducible apply State.coreHalt_keeps | with_reducible apply onInstr_keeps
    | with_reducible apply Keeps.foldl | with_reducible apply Keeps.foldlFst | with_reducible apply Keeps.foldlSnd
    | ((with_reducible apply Same.mk) <;> first | exact no ‹_› | exact fun _ => rfl) | intro _ | split | assumption
    | with_reducible apply Keeps.sends | fail_if_no_progress with_reducible apply Keeps.update

theorem State.ctwaitRetire_keeps {pt : Parts} {a : State} (s : State) (n : Nat) (st : Stream) (h : Keeps pt a s) (x_tiles :
    pt.tiles = false := by assumption) :
        Keeps pt a (State.ctwaitRetire s n st) := by
  unfold State.ctwaitRetire
  try dsimp only
  repeat' first
    | with_reducible assumption | with_reducible apply KeepsR.next | with_reducible apply KeepsR.fault
    | with_reducible apply KeepsR.atPlace | with_reducible apply KeepsO.some | with_reducible apply KeepsO.none
    | with_reducible apply KeepsO.getD | with_reducible apply State.retire_keeps | with_reducible apply State.wake_keeps
    | with_reducible apply Keeps.foldl | with_reducible apply Keeps.foldlFst | with_reducible apply Keeps.foldlSnd
    | ((with_reducible apply Same.mk) <;> first | exact no ‹_› | exact fun _ => rfl) | intro _ | split | assumption
    | with_reducible apply Keeps.sends | fail_if_no_progress with_reducible apply Keeps.update

theorem State.ctwaitReleased_keeps {pt : Parts} {a : State} (s : State) (n : Nat) (st : Stream) (name : Nat) (h : Keeps pt a s)
    (x_tiles : pt.tiles = false := by assumption) :
        Keeps pt a (State.ctwaitReleased s n st name) := by
  unfold State.ctwaitReleased
  try dsimp only
  repeat' first
    | with_reducible assumption | with_reducible apply KeepsR.next | with_reducible apply KeepsR.fault
    | with_reducible apply KeepsR.atPlace | with_reducible apply KeepsO.some | with_reducible apply KeepsO.none
    | with_reducible apply KeepsO.getD | with_reducible apply State.modThread_keeps
    | with_reducible apply State.ctwaitRetire_keeps | with_reducible apply Keeps.foldl | with_reducible apply Keeps.foldlFst
    | with_reducible apply Keeps.foldlSnd | ((with_reducible apply Same.mk) <;> first | exact no ‹_› | exact fun _ => rfl)
    | intro _ | split | assumption | with_reducible apply Keeps.sends | fail_if_no_progress with_reducible apply Keeps.update

end Sys2Proof.Machine
end

