-- ==== Sys2Proof/Laws/KeepQueues.lean ====
section
/-!
SUPPORT. What the operations of Machine/Queues.lean keep (Laws/Keeps.lean).
-/
namespace Sys2Proof.Machine

set_option linter.unusedTactic false
set_option linter.unreachableTactic false
set_option Elab.async false

/-- What a command's own parts keep: as it issues, and as it completes. -/
structure CmdKeeps (pt : Parts) (c : Cmd) : Prop where
  run : ∀ (a s : State) (n : Nat) (st : Stream) (x : Entry), Keeps pt a s → Keeps pt a (c.run s n st x)
  ask : ∀ (f : State → Nat → Stream → Entry → State), c.ask = some f →
    ∀ (a s : State) (n : Nat) (st : Stream) (x : Entry), Keeps pt a s → Keeps pt a (f s n st x)

structure CmdEnds (pt : Parts) (c : Cmd) : Prop where
  finish : ∀ (a s : State) (n : Nat) (st : Stream) (x : Entry), Keeps pt a s → Keeps pt a (c.finish s n st x)

theorem State.lent_keeps {pt : Parts} {a : State} (s : State) (n : Nat) (h : Keeps pt a s) (x_teams : pt.teams = false := by
    assumption) :
        Keeps pt a (State.lent s n) := by
  unfold State.lent
  try dsimp only
  repeat' first
    | with_reducible assumption | with_reducible apply KeepsR.next | with_reducible apply KeepsR.fault
    | with_reducible apply KeepsR.atPlace | with_reducible apply KeepsO.some | with_reducible apply KeepsO.none
    | with_reducible apply KeepsO.getD | with_reducible apply Keeps.foldl | with_reducible apply Keeps.foldlFst
    | with_reducible apply Keeps.foldlSnd | ((with_reducible apply Same.mk) <;> first | exact no ‹_› | exact fun _ => rfl)
    | intro _ | split | assumption | with_reducible apply Keeps.sends | fail_if_no_progress with_reducible apply Keeps.update

theorem State.inName_keeps {pt : Parts} {a : State} (s : State) (n : Nat) (x : Entry) (f : State → State) (h : Keeps pt a s) (hf :
    ∀ (y0 : State), Keeps pt a y0 → Keeps pt a (f y0)) (x_teams : pt.teams = false := by assumption) :
        Keeps pt a (State.inName s n x f) := by
  unfold State.inName
  try dsimp only
  repeat' first
    | with_reducible assumption | with_reducible apply hf | with_reducible apply KeepsR.next | with_reducible apply KeepsR.fault
    | with_reducible apply KeepsR.atPlace | with_reducible apply KeepsO.some | with_reducible apply KeepsO.none
    | with_reducible apply KeepsO.getD | with_reducible apply State.lent_keeps | with_reducible apply Keeps.foldl
    | with_reducible apply Keeps.foldlFst | with_reducible apply Keeps.foldlSnd
    | ((with_reducible apply Same.mk) <;> first | exact no ‹_› | exact fun _ => rfl) | intro _ | split | assumption
    | with_reducible apply Keeps.sends | fail_if_no_progress with_reducible apply Keeps.update

theorem State.setEntry_keeps {pt : Parts} {a : State} (s : State) (n : Nat) (e : Engine) (st : Stream) (x : Entry) (h : Keeps pt a
    s) (x_tiles : pt.tiles = false := by assumption) :
        Keeps pt a (State.setEntry s n e st x) := by
  unfold State.setEntry
  try dsimp only
  repeat' first
    | with_reducible assumption | with_reducible apply KeepsR.next | with_reducible apply KeepsR.fault
    | with_reducible apply KeepsR.atPlace | with_reducible apply KeepsO.some | with_reducible apply KeepsO.none
    | with_reducible apply KeepsO.getD | with_reducible apply State.modTile_keeps | with_reducible apply State.modQueue_keeps
    | with_reducible apply Keeps.foldl | with_reducible apply Keeps.foldlFst | with_reducible apply Keeps.foldlSnd
    | ((with_reducible apply Same.mk) <;> first | exact no ‹_› | exact fun _ => rfl) | intro _ | split | assumption
    | with_reducible apply Keeps.sends | fail_if_no_progress with_reducible apply Keeps.update

theorem State.dropEntry_keeps {pt : Parts} {a : State} (s : State) (n : Nat) (e : Engine) (st : Stream) (uid : Nat) (h : Keeps pt
    a s) (x_tiles : pt.tiles = false := by assumption) :
        Keeps pt a (State.dropEntry s n e st uid) := by
  unfold State.dropEntry
  try dsimp only
  repeat' first
    | with_reducible assumption | with_reducible apply KeepsR.next | with_reducible apply KeepsR.fault
    | with_reducible apply KeepsR.atPlace | with_reducible apply KeepsO.some | with_reducible apply KeepsO.none
    | with_reducible apply KeepsO.getD | with_reducible apply State.modTile_keeps | with_reducible apply State.modQueue_keeps
    | with_reducible apply Keeps.foldl | with_reducible apply Keeps.foldlFst | with_reducible apply Keeps.foldlSnd
    | ((with_reducible apply Same.mk) <;> first | exact no ‹_› | exact fun _ => rfl) | intro _ | split | assumption
    | with_reducible apply Keeps.sends | fail_if_no_progress with_reducible apply Keeps.update

theorem State.cmdHalt_keeps {pt : Parts} {a : State} (s : State) (n : Nat) (e : Engine) (st : Stream) (x : Entry) (b : Bad) (h :
    Keeps pt a s) (x_tiles : pt.tiles = false := by assumption) (x_trouble : pt.trouble = false := by assumption) (x_ports :
    pt.ports = false := by assumption) :
        Keeps pt a (State.cmdHalt s n e st x b) := by
  unfold State.cmdHalt
  try dsimp only
  repeat' first
    | with_reducible assumption | with_reducible apply KeepsR.next | with_reducible apply KeepsR.fault
    | with_reducible apply KeepsR.atPlace | with_reducible apply KeepsO.some | with_reducible apply KeepsO.none
    | with_reducible apply KeepsO.getD | with_reducible apply State.halt_keeps | with_reducible apply Keeps.foldl
    | with_reducible apply Keeps.foldlFst | with_reducible apply Keeps.foldlSnd
    | ((with_reducible apply Same.mk) <;> first | exact no ‹_› | exact fun _ => rfl) | intro _ | split | assumption
    | with_reducible apply Keeps.sends | fail_if_no_progress with_reducible apply Keeps.update

theorem State.trace_keeps {pt : Parts} {a : State} (s : State) (kind : Nat) (bitNo : Nat) (n : Nat) (e : Engine) (st : Stream) (x
    : Entry) (tally : Nat) (loc : Nat) (amount : Nat) (h : Keeps pt a s) (x_trouble : pt.trouble = false := by assumption) :
        Keeps pt a (State.trace s kind bitNo n e st x tally loc amount) := by
  unfold State.trace
  try dsimp only
  repeat' first
    | with_reducible assumption | with_reducible apply KeepsR.next | with_reducible apply KeepsR.fault
    | with_reducible apply KeepsR.atPlace | with_reducible apply KeepsO.some | with_reducible apply KeepsO.none
    | with_reducible apply KeepsO.getD | with_reducible apply State.sendRecord_keeps | with_reducible apply Keeps.foldl
    | with_reducible apply Keeps.foldlFst | with_reducible apply Keeps.foldlSnd
    | ((with_reducible apply Same.mk) <;> first | exact no ‹_› | exact fun _ => rfl) | intro _ | split | assumption
    | with_reducible apply Keeps.sends | fail_if_no_progress with_reducible apply Keeps.update

theorem State.traceSignal_keeps {pt : Parts} {a : State} (s : State) (source : Nat) (c : Nat) (n : Nat) (e : Nat) (st : Nat) (tag
    : Nat) (op : Nat) (chan : Word) (g : Nat) (h : Keeps pt a s) (x_trouble : pt.trouble = false := by assumption) :
        Keeps pt a (State.traceSignal s source c n e st tag op chan g) := by
  unfold State.traceSignal
  try dsimp only
  repeat' first
    | with_reducible assumption | with_reducible apply KeepsR.next | with_reducible apply KeepsR.fault
    | with_reducible apply KeepsR.atPlace | with_reducible apply KeepsO.some | with_reducible apply KeepsO.none
    | with_reducible apply KeepsO.getD | with_reducible apply State.sendRecord_keeps | with_reducible apply Keeps.foldl
    | with_reducible apply Keeps.foldlFst | with_reducible apply Keeps.foldlSnd
    | ((with_reducible apply Same.mk) <;> first | exact no ‹_› | exact fun _ => rfl) | intro _ | split | assumption
    | with_reducible apply Keeps.sends | fail_if_no_progress with_reducible apply Keeps.update

theorem State.signalFrom_keeps {pt : Parts} {a : State} (s : State) (n : Nat) (e : Engine) (st : Stream) (x : Entry) (loc : Nat)
    (g : Nat) (target : Nat) (amount : Nat) (h : Keeps pt a s) (x_net : pt.net = false := by assumption) (x_trouble : pt.trouble =
    false := by assumption) :
        Keeps pt a (State.signalFrom s n e st x loc g target amount) := by
  unfold State.signalFrom
  try dsimp only
  repeat' first
    | with_reducible assumption | with_reducible apply KeepsR.next | with_reducible apply KeepsR.fault
    | with_reducible apply KeepsR.atPlace | with_reducible apply KeepsO.some | with_reducible apply KeepsO.none
    | with_reducible apply KeepsO.getD | with_reducible apply State.cycle_keeps | with_reducible apply State.send_keeps
    | with_reducible apply State.trace_keeps | with_reducible apply Keeps.foldl | with_reducible apply Keeps.foldlFst
    | with_reducible apply Keeps.foldlSnd | ((with_reducible apply Same.mk) <;> first | exact no ‹_› | exact fun _ => rfl)
    | intro _ | split | assumption | with_reducible apply Keeps.sends | fail_if_no_progress with_reducible apply Keeps.update

theorem State.completionSignal_keeps {pt : Parts} {a : State} (s : State) (n : Nat) (e : Engine) (st : Stream) (x : Entry) (h :
    Keeps pt a s) (x_net : pt.net = false := by assumption) (x_trouble : pt.trouble = false := by assumption) :
        Keeps pt a (State.completionSignal s n e st x) := by
  unfold State.completionSignal
  try dsimp only
  repeat' first
    | with_reducible assumption | with_reducible apply KeepsR.next | with_reducible apply KeepsR.fault
    | with_reducible apply KeepsR.atPlace | with_reducible apply KeepsO.some | with_reducible apply KeepsO.none
    | with_reducible apply KeepsO.getD | with_reducible apply State.signalFrom_keeps | with_reducible apply Keeps.foldl
    | with_reducible apply Keeps.foldlFst | with_reducible apply Keeps.foldlSnd
    | ((with_reducible apply Same.mk) <;> first | exact no ‹_› | exact fun _ => rfl) | intro _ | split | assumption
    | with_reducible apply Keeps.sends | fail_if_no_progress with_reducible apply Keeps.update

theorem State.flushClosing_keeps {pt : Parts} {a : State} (s : State) (n : Nat) (h : Keeps pt a s) (x_tiles : pt.tiles = false :=
    by assumption) (x_net : pt.net = false := by assumption) (x_trouble : pt.trouble = false := by assumption) :
        Keeps pt a (State.flushClosing s n) := by
  unfold State.flushClosing
  try dsimp only
  repeat' first
    | with_reducible assumption | with_reducible apply KeepsR.next | with_reducible apply KeepsR.fault
    | with_reducible apply KeepsR.atPlace | with_reducible apply KeepsO.some | with_reducible apply KeepsO.none
    | with_reducible apply KeepsO.getD | with_reducible apply State.modTile_keeps | with_reducible apply State.signalFrom_keeps
    | with_reducible apply Keeps.foldl | with_reducible apply Keeps.foldlFst | with_reducible apply Keeps.foldlSnd
    | ((with_reducible apply Same.mk) <;> first | exact no ‹_› | exact fun _ => rfl) | intro _ | split | assumption
    | with_reducible apply Keeps.sends | fail_if_no_progress with_reducible apply Keeps.update

theorem State.setLockSeq_keeps {pt : Parts} {a : State} (s : State) (n : Nat) (q : Nat) (l : LockSeq) (h : Keeps pt a s) (x_tiles
    : pt.tiles = false := by assumption) :
        Keeps pt a (State.setLockSeq s n q l) := by
  unfold State.setLockSeq
  try dsimp only
  repeat' first
    | with_reducible assumption | with_reducible apply KeepsR.next | with_reducible apply KeepsR.fault
    | with_reducible apply KeepsR.atPlace | with_reducible apply KeepsO.some | with_reducible apply KeepsO.none
    | with_reducible apply KeepsO.getD | with_reducible apply State.modTile_keeps | with_reducible apply Keeps.foldl
    | with_reducible apply Keeps.foldlFst | with_reducible apply Keeps.foldlSnd
    | ((with_reducible apply Same.mk) <;> first | exact no ‹_› | exact fun _ => rfl) | intro _ | split | assumption
    | with_reducible apply Keeps.sends | fail_if_no_progress with_reducible apply Keeps.update

theorem State.countPassed_keeps {pt : Parts} {a : State} (s : State) (n : Nat) (e : Engine) (st : Stream) (ready : List Stream) (h
    : Keeps pt a s) (x_tiles : pt.tiles = false := by assumption) :
        Keeps pt a (State.countPassed s n e st ready) := by
  unfold State.countPassed
  try dsimp only
  repeat' first
    | with_reducible assumption | with_reducible apply KeepsR.next | with_reducible apply KeepsR.fault
    | with_reducible apply KeepsR.atPlace | with_reducible apply KeepsO.some | with_reducible apply KeepsO.none
    | with_reducible apply KeepsO.getD | with_reducible apply State.modQueue_keeps | with_reducible apply Keeps.foldl
    | with_reducible apply Keeps.foldlFst | with_reducible apply Keeps.foldlSnd
    | ((with_reducible apply Same.mk) <;> first | exact no ‹_› | exact fun _ => rfl) | intro _ | split | assumption
    | with_reducible apply Keeps.sends | fail_if_no_progress with_reducible apply Keeps.update

theorem State.bumpVary_keeps {pt : Parts} {a : State} (s : State) (c : Nat) (k : Nat) (h : Keeps pt a s) (x_ctxs : pt.ctxs = false
    := by assumption) :
        Keeps pt a (State.bumpVary s c k) := by
  unfold State.bumpVary
  try dsimp only
  repeat' first
    | with_reducible assumption | with_reducible apply KeepsR.next | with_reducible apply KeepsR.fault
    | with_reducible apply KeepsR.atPlace | with_reducible apply KeepsO.some | with_reducible apply KeepsO.none
    | with_reducible apply KeepsO.getD | with_reducible apply State.modCtx_keeps | with_reducible apply Keeps.foldl
    | with_reducible apply Keeps.foldlFst | with_reducible apply Keeps.foldlSnd
    | ((with_reducible apply Same.mk) <;> first | exact no ‹_› | exact fun _ => rfl) | intro _ | split | assumption
    | with_reducible apply Keeps.sends | fail_if_no_progress with_reducible apply Keeps.update

theorem State.markVary_keeps {pt : Parts} {a : State} (s : State) (n : Nat) (e : Engine) (st : Stream) (x : Entry) (h : Keeps pt a
    s) (x_ctxs : pt.ctxs = false := by assumption) (x_trouble : pt.trouble = false := by assumption) :
        Keeps pt a (State.markVary s n e st x) := by
  unfold State.markVary
  try dsimp only
  repeat' first
    | with_reducible assumption | with_reducible apply KeepsR.next | with_reducible apply KeepsR.fault
    | with_reducible apply KeepsR.atPlace | with_reducible apply KeepsO.some | with_reducible apply KeepsO.none
    | with_reducible apply KeepsO.getD | with_reducible apply State.sendRecord_keeps | with_reducible apply State.bumpVary_keeps
    | with_reducible apply Keeps.foldl | with_reducible apply Keeps.foldlFst | with_reducible apply Keeps.foldlSnd
    | ((with_reducible apply Same.mk) <;> first | exact no ‹_› | exact fun _ => rfl) | intro _ | split | assumption
    | with_reducible apply Keeps.sends | fail_if_no_progress with_reducible apply Keeps.update

theorem State.deliverSum_keeps {pt : Parts} {a : State} (s : State) (n : Nat) (st : Stream) (entry : Nat) (part : Nat) (v : Word)
    (h : Keeps pt a s) (x_tiles : pt.tiles = false := by assumption) :
        Keeps pt a (State.deliverSum s n st entry part v) := by
  unfold State.deliverSum
  try dsimp only
  repeat' first
    | with_reducible assumption | with_reducible apply KeepsR.next | with_reducible apply KeepsR.fault
    | with_reducible apply KeepsR.atPlace | with_reducible apply KeepsO.some | with_reducible apply KeepsO.none
    | with_reducible apply KeepsO.getD | with_reducible apply State.modThread_keeps | with_reducible apply Keeps.foldl
    | with_reducible apply Keeps.foldlFst | with_reducible apply Keeps.foldlSnd
    | ((with_reducible apply Same.mk) <;> first | exact no ‹_› | exact fun _ => rfl) | intro _ | split | assumption
    | with_reducible apply Keeps.sends | fail_if_no_progress with_reducible apply Keeps.update

theorem State.keepPredicted_keeps {pt : Parts} {a : State} (s : State) (n : Nat) (h : Keeps pt a s) (x_tiles : pt.tiles = false :=
    by assumption) :
        Keeps pt a (State.keepPredicted s n) := by
  unfold State.keepPredicted
  try dsimp only
  repeat' first
    | with_reducible assumption | with_reducible apply KeepsR.next | with_reducible apply KeepsR.fault
    | with_reducible apply KeepsR.atPlace | with_reducible apply KeepsO.some | with_reducible apply KeepsO.none
    | with_reducible apply KeepsO.getD | with_reducible apply State.setEntry_keeps | with_reducible apply Keeps.foldl
    | with_reducible apply Keeps.foldlFst | with_reducible apply Keeps.foldlSnd
    | ((with_reducible apply Same.mk) <;> first | exact no ‹_› | exact fun _ => rfl) | intro _ | split | assumption
    | with_reducible apply Keeps.sends | fail_if_no_progress with_reducible apply Keeps.update

theorem State.applyEffect_keeps {pt : Parts} {a : State} (s : State) (n : Nat) (st : Stream) (entry : Entry) (f : Effect) (h :
    Keeps pt a s) (x_tiles : pt.tiles = false := by assumption) (x_ctxs : pt.ctxs = false := by assumption) (x_mem : pt.mem =
    false := by assumption) (x_bad : pt.bad = false := by assumption) (x_snaps : pt.snaps = false := by assumption) (x_trouble :
    pt.trouble = false := by assumption) (x_ports : pt.ports = false := by assumption) :
        Keeps pt a (State.applyEffect s n st entry f) := by
  unfold State.applyEffect
  try dsimp only
  repeat' first
    | with_reducible assumption | with_reducible apply KeepsR.next | with_reducible apply KeepsR.fault
    | with_reducible apply KeepsR.atPlace | with_reducible apply KeepsO.some | with_reducible apply KeepsO.none
    | with_reducible apply KeepsO.getD | with_reducible apply State.modTile_keeps | with_reducible apply State.modArray_keeps
    | with_reducible apply State.writeChecked_keeps | with_reducible apply State.deliverSum_keeps
    | with_reducible apply State.keepPredicted_keeps | with_reducible apply Keeps.foldl | with_reducible apply Keeps.foldlFst
    | with_reducible apply Keeps.foldlSnd | ((with_reducible apply Same.mk) <;> first | exact no ‹_› | exact fun _ => rfl)
    | intro _ | split | assumption | with_reducible apply Keeps.sends | fail_if_no_progress with_reducible apply Keeps.update

theorem State.lockCompare_keeps {pt : Parts} {a : State} (s : State) (n : Nat) (q : Nat) (w : LockWindow) (h : Keeps pt a s)
    (x_tiles : pt.tiles = false := by assumption) (x_ports : pt.ports = false := by assumption) :
        Keeps pt a (State.lockCompare s n q w) := by
  unfold State.lockCompare
  try dsimp only
  repeat' first
    | with_reducible assumption | with_reducible apply KeepsR.next | with_reducible apply KeepsR.fault
    | with_reducible apply KeepsR.atPlace | with_reducible apply KeepsO.some | with_reducible apply KeepsO.none
    | with_reducible apply KeepsO.getD | with_reducible apply State.lockFrame_keeps | with_reducible apply State.setLockSeq_keeps
    | with_reducible apply Keeps.foldl | with_reducible apply Keeps.foldlFst | with_reducible apply Keeps.foldlSnd
    | ((with_reducible apply Same.mk) <;> first | exact no ‹_› | exact fun _ => rfl) | intro _ | split | assumption
    | with_reducible apply Keeps.sends | fail_if_no_progress with_reducible apply Keeps.update

theorem State.lockDigest_keeps {pt : Parts} {a : State} (s : State) (n : Nat) (q : Nat) (digest : Nat) (record : Nat × Nat × Nat ×
    Nat) (fence : Bool) (h : Keeps pt a s) (x_tiles : pt.tiles = false := by assumption) (x_mem : pt.mem = false := by assumption)
    (x_bad : pt.bad = false := by assumption) (x_trouble : pt.trouble = false := by assumption) (x_ports : pt.ports = false := by
    assumption) :
        Keeps pt a (State.lockDigest s n q digest record fence) := by
  unfold State.lockDigest
  try dsimp only
  repeat' first
    | with_reducible assumption | with_reducible apply KeepsR.next | with_reducible apply KeepsR.fault
    | with_reducible apply KeepsR.atPlace | with_reducible apply KeepsO.some | with_reducible apply KeepsO.none
    | with_reducible apply KeepsO.getD | with_reducible apply State.lockFrame_keeps | with_reducible apply State.halt_keeps
    | with_reducible apply State.storeBytes_keeps | with_reducible apply State.setLockSeq_keeps
    | with_reducible apply State.lockCompare_keeps | with_reducible apply Keeps.foldl | with_reducible apply Keeps.foldlFst
    | with_reducible apply Keeps.foldlSnd | ((with_reducible apply Same.mk) <;> first | exact no ‹_› | exact fun _ => rfl)
    | intro _ | split | assumption | with_reducible apply Keeps.sends | fail_if_no_progress with_reducible apply Keeps.update

theorem State.lockCommand_keeps {pt : Parts} {a : State} (s : State) (n : Nat) (e : Engine) (st : Stream) (x : Entry) (isItem :
    Bool) (h : Keeps pt a s) (x_tiles : pt.tiles = false := by assumption) (x_mem : pt.mem = false := by assumption) (x_bad :
    pt.bad = false := by assumption) (x_trouble : pt.trouble = false := by assumption) (x_ports : pt.ports = false := by
    assumption) :
        Keeps pt a (State.lockCommand s n e st x isItem) := by
  unfold State.lockCommand
  try dsimp only
  repeat' first
    | with_reducible assumption | with_reducible apply KeepsR.next | with_reducible apply KeepsR.fault
    | with_reducible apply KeepsR.atPlace | with_reducible apply KeepsO.some | with_reducible apply KeepsO.none
    | with_reducible apply KeepsO.getD | with_reducible apply State.lockDigest_keeps | with_reducible apply Keeps.foldl
    | with_reducible apply Keeps.foldlFst | with_reducible apply Keeps.foldlSnd
    | ((with_reducible apply Same.mk) <;> first | exact no ‹_› | exact fun _ => rfl) | intro _ | split | assumption
    | with_reducible apply Keeps.sends | fail_if_no_progress with_reducible apply Keeps.update

theorem State.complete_keeps {pt : Parts} {a : State} (s : State) (n : Nat) (e : Engine) (st : Stream) (x : Entry) (h : Keeps pt a
    s) (x_tiles : pt.tiles = false := by assumption) (x_ctxs : pt.ctxs = false := by assumption) (x_mem : pt.mem = false := by
    assumption) (x_bad : pt.bad = false := by assumption) (x_net : pt.net = false := by assumption) (x_snaps : pt.snaps = false :=
    by assumption) (x_trouble : pt.trouble = false := by assumption) (x_ports : pt.ports = false := by assumption) :
        Keeps pt a (State.complete s n e st x) := by
  unfold State.complete
  try dsimp only
  repeat' first
    | with_reducible assumption | with_reducible apply KeepsR.next | with_reducible apply KeepsR.fault
    | with_reducible apply KeepsR.atPlace | with_reducible apply KeepsO.some | with_reducible apply KeepsO.none
    | with_reducible apply KeepsO.getD | with_reducible apply State.send_keeps | with_reducible apply State.progressed_keeps
    | with_reducible apply State.dropEntry_keeps | with_reducible apply State.cmdHalt_keeps
    | with_reducible apply State.trace_keeps | with_reducible apply State.completionSignal_keeps
    | with_reducible apply State.flushClosing_keeps | with_reducible apply State.applyEffect_keeps
    | with_reducible apply State.lockCommand_keeps | with_reducible apply Keeps.foldl | with_reducible apply Keeps.foldlFst
    | with_reducible apply Keeps.foldlSnd | ((with_reducible apply Same.mk) <;> first | exact no ‹_› | exact fun _ => rfl)
    | intro _ | split | assumption | with_reducible apply Keeps.sends | fail_if_no_progress with_reducible apply Keeps.update

theorem State.markIssued_keeps {pt : Parts} {a : State} (s : State) (n : Nat) (e : Engine) (st : Stream) (uid : Nat) (h : Keeps pt
    a s) (x_tiles : pt.tiles = false := by assumption) :
        Keeps pt a (State.markIssued s n e st uid) := by
  unfold State.markIssued
  try dsimp only
  repeat' first
    | with_reducible assumption | with_reducible apply KeepsR.next | with_reducible apply KeepsR.fault
    | with_reducible apply KeepsR.atPlace | with_reducible apply KeepsO.some | with_reducible apply KeepsO.none
    | with_reducible apply KeepsO.getD | with_reducible apply State.modTile_keeps | with_reducible apply State.modQueue_keeps
    | with_reducible apply Keeps.foldl | with_reducible apply Keeps.foldlFst | with_reducible apply Keeps.foldlSnd
    | ((with_reducible apply Same.mk) <;> first | exact no ‹_› | exact fun _ => rfl) | intro _ | split | assumption
    | with_reducible apply Keeps.sends | fail_if_no_progress with_reducible apply Keeps.update

theorem State.issued_keeps {pt : Parts} {a : State} (s : State) (n : Nat) (e : Engine) (st : Stream) (x : Entry) (ready : List
    Stream) (h : Keeps pt a s) (x_tiles : pt.tiles = false := by assumption) (x_ctxs : pt.ctxs = false := by assumption)
    (x_trouble : pt.trouble = false := by assumption) :
        Keeps pt a (State.issued s n e st x ready) := by
  unfold State.issued
  try dsimp only
  repeat' first
    | with_reducible assumption | with_reducible apply KeepsR.next | with_reducible apply KeepsR.fault
    | with_reducible apply KeepsR.atPlace | with_reducible apply KeepsO.some | with_reducible apply KeepsO.none
    | with_reducible apply KeepsO.getD | with_reducible apply State.progressed_keeps | with_reducible apply State.trace_keeps
    | with_reducible apply State.countPassed_keeps | with_reducible apply State.markVary_keeps
    | with_reducible apply State.markIssued_keeps | with_reducible apply Keeps.foldl | with_reducible apply Keeps.foldlFst
    | with_reducible apply Keeps.foldlSnd | ((with_reducible apply Same.mk) <;> first | exact no ‹_› | exact fun _ => rfl)
    | intro _ | split | assumption | with_reducible apply Keeps.sends | fail_if_no_progress with_reducible apply Keeps.update

theorem State.zeroSums_keeps {pt : Parts} {a : State} (s : State) (n : Nat) (st : Stream) (entry : Nat) (h : Keeps pt a s)
    (x_tiles : pt.tiles = false := by assumption) :
        Keeps pt a (State.zeroSums s n st entry) := by
  unfold State.zeroSums
  try dsimp only
  repeat' first
    | with_reducible assumption | with_reducible apply KeepsR.next | with_reducible apply KeepsR.fault
    | with_reducible apply KeepsR.atPlace | with_reducible apply KeepsO.some | with_reducible apply KeepsO.none
    | with_reducible apply KeepsO.getD | with_reducible apply State.modThread_keeps | with_reducible apply Keeps.foldl
    | with_reducible apply Keeps.foldlFst | with_reducible apply Keeps.foldlSnd
    | ((with_reducible apply Same.mk) <;> first | exact no ‹_› | exact fun _ => rfl) | intro _ | split | assumption
    | with_reducible apply Keeps.sends | fail_if_no_progress with_reducible apply Keeps.update

end Sys2Proof.Machine
end

