-- ==== Sys2Proof/Laws/KeepSend.lean ====
section
/-!
SUPPORT. What the operations of Machine/Send.lean keep (Laws/Keeps.lean).
-/
namespace Sys2Proof.Machine

set_option linter.unusedTactic false
set_option linter.unreachableTactic false
set_option Elab.async false

theorem State.hopSend_keeps {pt : Parts} {a : State} (s : State) (h0 : Hop) (holds : Option (Nat × Nat × Nat)) (h : Keeps pt a s)
    (x_ports : pt.ports = false := by assumption) :
        Keeps pt a (State.hopSend s h0 holds) := by
  unfold State.hopSend
  try dsimp only
  repeat' first
    | with_reducible assumption | with_reducible apply KeepsR.next | with_reducible apply KeepsR.fault
    | with_reducible apply KeepsR.atPlace | with_reducible apply KeepsO.some | with_reducible apply KeepsO.none
    | with_reducible apply KeepsO.getD | with_reducible apply State.portSend_keeps | with_reducible apply Keeps.foldl
    | with_reducible apply Keeps.foldlFst | with_reducible apply Keeps.foldlSnd
    | ((with_reducible apply Same.mk) <;> first | exact no ‹_› | exact fun _ => rfl) | intro _ | split | assumption
    | with_reducible apply Keeps.sends | fail_if_no_progress with_reducible apply Keeps.update

theorem State.teardown_keeps {pt : Parts} {a : State} (s : State) (c : Nat) (peer : Nat) (reason : Nat) (h : Keeps pt a s)
    (x_trouble : pt.trouble = false := by assumption) :
        Keeps pt a (State.teardown s c peer reason) := by
  unfold State.teardown
  try dsimp only
  repeat' first
    | with_reducible assumption | with_reducible apply KeepsR.next | with_reducible apply KeepsR.fault
    | with_reducible apply KeepsR.atPlace | with_reducible apply KeepsO.some | with_reducible apply KeepsO.none
    | with_reducible apply KeepsO.getD | with_reducible apply State.alarm_keeps | with_reducible apply Keeps.foldl
    | with_reducible apply Keeps.foldlFst | with_reducible apply Keeps.foldlSnd
    | ((with_reducible apply Same.mk) <;> first | exact no ‹_› | exact fun _ => rfl) | intro _ | split | assumption
    | with_reducible apply Keeps.sends | fail_if_no_progress with_reducible apply Keeps.update

theorem State.refuseRequest_keeps {pt : Parts} {a : State} (s : State) (r : Request) (reason : Nat) (status : Nat) (dev : Nat) (h
    : Keeps pt a s) (x_tiles : pt.tiles = false := by assumption) (x_trouble : pt.trouble = false := by assumption) (x_ports :
    pt.ports = false := by assumption) :
        Keeps pt a (State.refuseRequest s r reason status dev) := by
  unfold State.refuseRequest
  try dsimp only
  repeat' first
    | with_reducible assumption | with_reducible apply KeepsR.next | with_reducible apply KeepsR.fault
    | with_reducible apply KeepsR.atPlace | with_reducible apply KeepsO.some | with_reducible apply KeepsO.none
    | with_reducible apply KeepsO.getD | with_reducible apply State.halt_keeps | with_reducible apply State.teardown_keeps
    | with_reducible apply Keeps.foldl | with_reducible apply Keeps.foldlFst | with_reducible apply Keeps.foldlSnd
    | ((with_reducible apply Same.mk) <;> first | exact no ‹_› | exact fun _ => rfl) | intro _ | split | assumption
    | with_reducible apply Keeps.sends | fail_if_no_progress with_reducible apply Keeps.update

theorem State.dropRequest_keeps {pt : Parts} {a : State} (s : State) (uid : Nat) (h : Keeps pt a s) (x_fabric : pt.fabric = false
    := by assumption) :
        Keeps pt a (State.dropRequest s uid) := by
  unfold State.dropRequest
  try dsimp only
  repeat' first
    | with_reducible assumption | with_reducible apply KeepsR.next | with_reducible apply KeepsR.fault
    | with_reducible apply KeepsR.atPlace | with_reducible apply KeepsO.some | with_reducible apply KeepsO.none
    | with_reducible apply KeepsO.getD | with_reducible apply Keeps.foldl | with_reducible apply Keeps.foldlFst
    | with_reducible apply Keeps.foldlSnd | ((with_reducible apply Same.mk) <;> first | exact no ‹_› | exact fun _ => rfl)
    | intro _ | split | assumption | with_reducible apply Keeps.sends | fail_if_no_progress with_reducible apply Keeps.update

theorem State.owe_keeps {pt : Parts} {a : State} (s : State) (n : Nat) (uid : Nat) (entry : Nat) (st : Stream) (remote : Bool)
    (mover : Bool) (h : Keeps pt a s) (x_tiles : pt.tiles = false := by assumption) :
        Keeps pt a (State.owe s n uid entry st remote mover) := by
  unfold State.owe
  try dsimp only
  repeat' first
    | with_reducible assumption | with_reducible apply KeepsR.next | with_reducible apply KeepsR.fault
    | with_reducible apply KeepsR.atPlace | with_reducible apply KeepsO.some | with_reducible apply KeepsO.none
    | with_reducible apply KeepsO.getD | with_reducible apply State.modTile_keeps | with_reducible apply Keeps.foldl
    | with_reducible apply Keeps.foldlFst | with_reducible apply Keeps.foldlSnd
    | ((with_reducible apply Same.mk) <;> first | exact no ‹_› | exact fun _ => rfl) | intro _ | split | assumption
    | with_reducible apply Keeps.sends | fail_if_no_progress with_reducible apply Keeps.update

theorem State.repaid_keeps {pt : Parts} {a : State} (s : State) (n : Nat) (uid : Nat) (h : Keeps pt a s) (x_tiles : pt.tiles =
    false := by assumption) :
        Keeps pt a (State.repaid s n uid) := by
  unfold State.repaid
  try dsimp only
  repeat' first
    | with_reducible assumption | with_reducible apply KeepsR.next | with_reducible apply KeepsR.fault
    | with_reducible apply KeepsR.atPlace | with_reducible apply KeepsO.some | with_reducible apply KeepsO.none
    | with_reducible apply KeepsO.getD | with_reducible apply State.modTile_keeps | with_reducible apply Keeps.foldl
    | with_reducible apply Keeps.foldlFst | with_reducible apply Keeps.foldlSnd
    | ((with_reducible apply Same.mk) <;> first | exact no ‹_› | exact fun _ => rfl) | intro _ | split | assumption
    | with_reducible apply Keeps.sends | fail_if_no_progress with_reducible apply Keeps.update

theorem State.noRoute_keeps {pt : Parts} {a : State} (s : State) (m : Msg) (h : Keeps pt a s) (x_tiles : pt.tiles = false := by
    assumption) (x_trouble : pt.trouble = false := by assumption) (x_ports : pt.ports = false := by assumption) (x_fabric :
    pt.fabric = false := by assumption) :
        Keeps pt a (State.noRoute s m) := by
  unfold State.noRoute
  try dsimp only
  repeat' first
    | with_reducible assumption | with_reducible apply KeepsR.next | with_reducible apply KeepsR.fault
    | with_reducible apply KeepsR.atPlace | with_reducible apply KeepsO.some | with_reducible apply KeepsO.none
    | with_reducible apply KeepsO.getD | with_reducible apply State.alarm_keeps | with_reducible apply State.hopSend_keeps
    | with_reducible apply State.refuseRequest_keeps | with_reducible apply State.dropRequest_keeps
    | with_reducible apply State.repaid_keeps | with_reducible apply Keeps.foldl | with_reducible apply Keeps.foldlFst
    | with_reducible apply Keeps.foldlSnd | ((with_reducible apply Same.mk) <;> first | exact no ‹_› | exact fun _ => rfl)
    | intro _ | split | assumption | with_reducible apply Keeps.sends | fail_if_no_progress with_reducible apply Keeps.update

theorem State.route_keeps {pt : Parts} {a : State} (s : State) (m : Msg) (inDim : Option Nat) (inDl : Nat) (h : Keeps pt a s)
    (x_tiles : pt.tiles = false := by assumption) (x_trouble : pt.trouble = false := by assumption) (x_ports : pt.ports = false :=
    by assumption) (x_fabric : pt.fabric = false := by assumption) :
        Keeps pt a (State.route s m inDim inDl) := by
  unfold State.route
  try dsimp only
  repeat' first
    | with_reducible assumption | with_reducible apply KeepsR.next | with_reducible apply KeepsR.fault
    | with_reducible apply KeepsR.atPlace | with_reducible apply KeepsO.some | with_reducible apply KeepsO.none
    | with_reducible apply KeepsO.getD | with_reducible apply State.hopSend_keeps | with_reducible apply State.noRoute_keeps
    | with_reducible apply Keeps.foldl | with_reducible apply Keeps.foldlFst | with_reducible apply Keeps.foldlSnd
    | ((with_reducible apply Same.mk) <;> first | exact no ‹_› | exact fun _ => rfl) | intro _ | split | assumption
    | with_reducible apply Keeps.sends | fail_if_no_progress with_reducible apply Keeps.update

theorem State.sendWaiting_keeps {pt : Parts} {a : State} (s : State) (h : Keeps pt a s) (x_tiles : pt.tiles = false := by
    assumption) (x_trouble : pt.trouble = false := by assumption) (x_ports : pt.ports = false := by assumption) (x_fabric :
    pt.fabric = false := by assumption) :
        Keeps pt a (State.sendWaiting s) := by
  unfold State.sendWaiting
  try dsimp only
  repeat' first
    | with_reducible assumption | with_reducible apply KeepsR.next | with_reducible apply KeepsR.fault
    | with_reducible apply KeepsR.atPlace | with_reducible apply KeepsO.some | with_reducible apply KeepsO.none
    | with_reducible apply KeepsO.getD | with_reducible apply State.route_keeps | with_reducible apply Keeps.foldl
    | with_reducible apply Keeps.foldlFst | with_reducible apply Keeps.foldlSnd
    | ((with_reducible apply Same.mk) <;> first | exact no ‹_› | exact fun _ => rfl) | intro _ | split | assumption
    | with_reducible apply Keeps.sends | fail_if_no_progress with_reducible apply Keeps.update

theorem State.request_keeps {pt : Parts} {a : State} (s : State) (n : Nat) (e : Engine) (st : Stream) (x : Entry) (uid : Nat) (a0
    : Ask) (h : Keeps pt a s) (x_tiles : pt.tiles = false := by assumption) (x_trouble : pt.trouble = false := by assumption)
    (x_ports : pt.ports = false := by assumption) (x_fabric : pt.fabric = false := by assumption) :
        Keeps pt a (State.request s n e st x uid a0) := by
  unfold State.request
  try dsimp only
  repeat' first
    | with_reducible assumption | with_reducible apply KeepsR.next | with_reducible apply KeepsR.fault
    | with_reducible apply KeepsR.atPlace | with_reducible apply KeepsO.some | with_reducible apply KeepsO.none
    | with_reducible apply KeepsO.getD | with_reducible apply State.write_keeps | with_reducible apply State.owe_keeps
    | with_reducible apply State.sendWaiting_keeps | with_reducible apply Keeps.foldl | with_reducible apply Keeps.foldlFst
    | with_reducible apply Keeps.foldlSnd | ((with_reducible apply Same.mk) <;> first | exact no ‹_› | exact fun _ => rfl)
    | intro _ | split | assumption | with_reducible apply Keeps.sends | fail_if_no_progress with_reducible apply Keeps.update

theorem State.cmdSend_keeps {pt : Parts} {a : State} (s : State) (n : Nat) (e : Engine) (st : Stream) (x : Entry) (dst : Place) (b
    : Body) (h : Keeps pt a s) (x_net : pt.net = false := by assumption) :
        Keeps pt a (State.cmdSend s n e st x dst b) := by
  unfold State.cmdSend
  try dsimp only
  repeat' first
    | with_reducible assumption | with_reducible apply KeepsR.next | with_reducible apply KeepsR.fault
    | with_reducible apply KeepsR.atPlace | with_reducible apply KeepsO.some | with_reducible apply KeepsO.none
    | with_reducible apply KeepsO.getD | with_reducible apply State.send_keeps | with_reducible apply Keeps.foldl
    | with_reducible apply Keeps.foldlFst | with_reducible apply Keeps.foldlSnd
    | ((with_reducible apply Same.mk) <;> first | exact no ‹_› | exact fun _ => rfl) | intro _ | split | assumption
    | with_reducible apply Keeps.sends | fail_if_no_progress with_reducible apply Keeps.update

theorem State.oweSend_keeps {pt : Parts} {a : State} (s : State) (n : Nat) (e : Engine) (st : Stream) (x : Entry) (dst : Place) (b
    : Nat → Body) (h : Keeps pt a s) (x_tiles : pt.tiles = false := by assumption) (x_net : pt.net = false := by assumption) :
        Keeps pt a (State.oweSend s n e st x dst b) := by
  unfold State.oweSend
  try dsimp only
  repeat' first
    | with_reducible assumption | with_reducible apply KeepsR.next | with_reducible apply KeepsR.fault
    | with_reducible apply KeepsR.atPlace | with_reducible apply KeepsO.some | with_reducible apply KeepsO.none
    | with_reducible apply KeepsO.getD | with_reducible apply State.fresh_keeps | with_reducible apply State.owe_keeps
    | with_reducible apply State.cmdSend_keeps | with_reducible apply Keeps.foldl | with_reducible apply Keeps.foldlFst
    | with_reducible apply Keeps.foldlSnd | ((with_reducible apply Same.mk) <;> first | exact no ‹_› | exact fun _ => rfl)
    | intro _ | split | assumption | with_reducible apply Keeps.sends | fail_if_no_progress with_reducible apply Keeps.update

theorem State.rowSend_keeps {pt : Parts} {a : State} (s : State) (n : Nat) (st : Stream) (x : Entry) (dst : Place) (b : Body) (h :
    Keeps pt a s) (x_tiles : pt.tiles = false := by assumption) (x_net : pt.net = false := by assumption) :
        Keeps pt a (State.rowSend s n st x dst b) := by
  unfold State.rowSend
  try dsimp only
  repeat' first
    | with_reducible assumption | with_reducible apply KeepsR.next | with_reducible apply KeepsR.fault
    | with_reducible apply KeepsR.atPlace | with_reducible apply KeepsO.some | with_reducible apply KeepsO.none
    | with_reducible apply KeepsO.getD | with_reducible apply State.owe_keeps | with_reducible apply State.route_keeps
    | with_reducible apply State.cmdSend_keeps | with_reducible apply Keeps.foldl | with_reducible apply Keeps.foldlFst
    | with_reducible apply Keeps.foldlSnd | ((with_reducible apply Same.mk) <;> first | exact no ‹_› | exact fun _ => rfl)
    | intro _ | split | assumption | with_reducible apply Keeps.sends | fail_if_no_progress with_reducible apply Keeps.update

theorem State.pieceSend_keeps {pt : Parts} {a : State} (s : State) (n : Nat) (e : Engine) (st : Stream) (x : Entry) (p : Piece) (h
    : Keeps pt a s) (x_tiles : pt.tiles = false := by assumption) (x_net : pt.net = false := by assumption) (x_trouble :
    pt.trouble = false := by assumption) (x_ports : pt.ports = false := by assumption) (x_fabric : pt.fabric = false := by
    assumption) :
        Keeps pt a (State.pieceSend s n e st x p) := by
  unfold State.pieceSend
  try dsimp only
  repeat' first
    | with_reducible assumption | with_reducible apply KeepsR.next | with_reducible apply KeepsR.fault
    | with_reducible apply KeepsR.atPlace | with_reducible apply KeepsO.some | with_reducible apply KeepsO.none
    | with_reducible apply KeepsO.getD | with_reducible apply State.request_keeps | with_reducible apply State.cmdSend_keeps
    | with_reducible apply Keeps.foldl | with_reducible apply Keeps.foldlFst | with_reducible apply Keeps.foldlSnd
    | ((with_reducible apply Same.mk) <;> first | exact no ‹_› | exact fun _ => rfl) | intro _ | split | assumption
    | with_reducible apply Keeps.sends | fail_if_no_progress with_reducible apply Keeps.update

theorem State.sendOne_keeps {pt : Parts} {a : State} (s : State) (n : Nat) (u : Unsent) (h : Keeps pt a s) (x_tiles : pt.tiles =
    false := by assumption) (x_net : pt.net = false := by assumption) (x_trouble : pt.trouble = false := by assumption) (x_ports :
    pt.ports = false := by assumption) (x_fabric : pt.fabric = false := by assumption) :
        Keeps pt a (State.sendOne s n u) := by
  unfold State.sendOne
  try dsimp only
  repeat' first
    | with_reducible assumption | with_reducible apply KeepsR.next | with_reducible apply KeepsR.fault
    | with_reducible apply KeepsR.atPlace | with_reducible apply KeepsO.some | with_reducible apply KeepsO.none
    | with_reducible apply KeepsO.getD | with_reducible apply State.fresh_keeps | with_reducible apply State.request_keeps
    | with_reducible apply State.oweSend_keeps | with_reducible apply Keeps.foldl | with_reducible apply Keeps.foldlFst
    | with_reducible apply Keeps.foldlSnd | ((with_reducible apply Same.mk) <;> first | exact no ‹_› | exact fun _ => rfl)
    | intro _ | split | assumption | with_reducible apply Keeps.sends | fail_if_no_progress with_reducible apply Keeps.update

theorem State.pumpUnsent_keeps {pt : Parts} {a : State} (s : State) (n : Nat) (h : Keeps pt a s) (x_tiles : pt.tiles = false := by
    assumption) (x_net : pt.net = false := by assumption) (x_trouble : pt.trouble = false := by assumption) (x_ports : pt.ports =
    false := by assumption) (x_fabric : pt.fabric = false := by assumption) :
        Keeps pt a (State.pumpUnsent s n) := by
  unfold State.pumpUnsent
  try dsimp only
  repeat' first
    | with_reducible assumption | with_reducible apply KeepsR.next | with_reducible apply KeepsR.fault
    | with_reducible apply KeepsR.atPlace | with_reducible apply KeepsO.some | with_reducible apply KeepsO.none
    | with_reducible apply KeepsO.getD | with_reducible apply State.modTile_keeps | with_reducible apply State.sendOne_keeps
    | with_reducible apply Keeps.foldl | with_reducible apply Keeps.foldlFst | with_reducible apply Keeps.foldlSnd
    | ((with_reducible apply Same.mk) <;> first | exact no ‹_› | exact fun _ => rfl) | intro _ | split | assumption
    | with_reducible apply Keeps.sends | fail_if_no_progress with_reducible apply Keeps.update

theorem State.moverSend_keeps {pt : Parts} {a : State} (s : State) (n : Nat) (us : List Unsent) (h : Keeps pt a s) (x_tiles :
    pt.tiles = false := by assumption) (x_net : pt.net = false := by assumption) (x_trouble : pt.trouble = false := by assumption)
    (x_ports : pt.ports = false := by assumption) (x_fabric : pt.fabric = false := by assumption) :
        Keeps pt a (State.moverSend s n us) := by
  unfold State.moverSend
  try dsimp only
  repeat' first
    | with_reducible assumption | with_reducible apply KeepsR.next | with_reducible apply KeepsR.fault
    | with_reducible apply KeepsR.atPlace | with_reducible apply KeepsO.some | with_reducible apply KeepsO.none
    | with_reducible apply KeepsO.getD | with_reducible apply State.modTile_keeps | with_reducible apply State.pumpUnsent_keeps
    | with_reducible apply Keeps.foldl | with_reducible apply Keeps.foldlFst | with_reducible apply Keeps.foldlSnd
    | ((with_reducible apply Same.mk) <;> first | exact no ‹_› | exact fun _ => rfl) | intro _ | split | assumption
    | with_reducible apply Keeps.sends | fail_if_no_progress with_reducible apply Keeps.update

theorem State.storeTo_keeps {pt : Parts} {a : State} (s : State) (n : Nat) (e : Engine) (st : Stream) (x : Entry) (dev : Nat) (a0
    : Nat) (bytes : List Byte) (h : Keeps pt a s) (x_tiles : pt.tiles = false := by assumption) (x_ctxs : pt.ctxs = false := by
    assumption) (x_mem : pt.mem = false := by assumption) (x_bad : pt.bad = false := by assumption) (x_net : pt.net = false := by
    assumption) (x_snaps : pt.snaps = false := by assumption) (x_trouble : pt.trouble = false := by assumption) (x_ports :
    pt.ports = false := by assumption) (x_fabric : pt.fabric = false := by assumption) :
        Keeps pt a (State.storeTo s n e st x dev a0 bytes) := by
  unfold State.storeTo
  try dsimp only
  repeat' first
    | with_reducible assumption | with_reducible apply KeepsR.next | with_reducible apply KeepsR.fault
    | with_reducible apply KeepsR.atPlace | with_reducible apply KeepsO.some | with_reducible apply KeepsO.none
    | with_reducible apply KeepsO.getD | with_reducible apply State.fresh_keeps | with_reducible apply State.writeChecked_keeps
    | with_reducible apply State.request_keeps | with_reducible apply State.oweSend_keeps
    | with_reducible apply State.moverSend_keeps | with_reducible apply Keeps.foldl | with_reducible apply Keeps.foldlFst
    | with_reducible apply Keeps.foldlSnd | ((with_reducible apply Same.mk) <;> first | exact no ‹_› | exact fun _ => rfl)
    | intro _ | split | assumption | with_reducible apply Keeps.sends | fail_if_no_progress with_reducible apply Keeps.update

theorem State.makePieces_keeps {pt : Parts} {a : State} (s : State) (n : Nat) (dev : Nat) (rs : List Range) (h : Keeps pt a s) :
        Keeps pt a (State.makePieces s n dev rs).1 := by
  unfold State.makePieces
  refine Keeps.foldlFst h _ fun t x ht => ?_
  exact State.fresh_keeps _ ht

theorem State.pumpEntry_keeps {pt : Parts} {a : State} (s : State) (n : Nat) (e : Engine) (st : Stream) (x : Entry) (h : Keeps pt
    a s) (x_tiles : pt.tiles = false := by assumption) (x_net : pt.net = false := by assumption) (x_trouble : pt.trouble = false
    := by assumption) (x_ports : pt.ports = false := by assumption) (x_fabric : pt.fabric = false := by assumption) :
        Keeps pt a (State.pumpEntry s n e st x) := by
  unfold State.pumpEntry
  try dsimp only
  repeat' first
    | with_reducible assumption | with_reducible apply KeepsR.next | with_reducible apply KeepsR.fault
    | with_reducible apply KeepsR.atPlace | with_reducible apply KeepsO.some | with_reducible apply KeepsO.none
    | with_reducible apply KeepsO.getD | with_reducible apply State.setEntry_keeps | with_reducible apply State.pieceSend_keeps
    | with_reducible apply Keeps.foldl | with_reducible apply Keeps.foldlFst | with_reducible apply Keeps.foldlSnd
    | ((with_reducible apply Same.mk) <;> first | exact no ‹_› | exact fun _ => rfl) | intro _ | split | assumption
    | with_reducible apply Keeps.sends | fail_if_no_progress with_reducible apply Keeps.update

theorem State.pumpEntries_keeps {pt : Parts} {a : State} (s : State) (n : Nat) (h : Keeps pt a s) (x_tiles : pt.tiles = false :=
    by assumption) (x_net : pt.net = false := by assumption) (x_trouble : pt.trouble = false := by assumption) (x_ports : pt.ports
    = false := by assumption) (x_fabric : pt.fabric = false := by assumption) :
        Keeps pt a (State.pumpEntries s n) := by
  unfold State.pumpEntries
  try dsimp only
  repeat' first
    | with_reducible assumption | with_reducible apply KeepsR.next | with_reducible apply KeepsR.fault
    | with_reducible apply KeepsR.atPlace | with_reducible apply KeepsO.some | with_reducible apply KeepsO.none
    | with_reducible apply KeepsO.getD | with_reducible apply State.issued_keeps | with_reducible apply State.route_keeps
    | with_reducible apply State.pumpEntry_keeps | with_reducible apply Keeps.foldl | with_reducible apply Keeps.foldlFst
    | with_reducible apply Keeps.foldlSnd | ((with_reducible apply Same.mk) <;> first | exact no ‹_› | exact fun _ => rfl)
    | intro _ | split | assumption | with_reducible apply Keeps.sends | fail_if_no_progress with_reducible apply Keeps.update

end Sys2Proof.Machine
end

