-- ==== Sys2Proof/Laws/KeepArrive.lean ====
section
/-!
SUPPORT. What the operations of Machine/Arrive.lean keep (Laws/Keeps.lean).
-/
namespace Sys2Proof.Machine

set_option linter.unusedTactic false
set_option linter.unreachableTactic false
set_option Elab.async false

theorem State.reply_keeps {pt : Parts} {a : State} (s : State) (p : Packet) (b : Body) (h : Keeps pt a s) (x_net : pt.net = false
    := by assumption) :
        Keeps pt a (State.reply s p b) := by
  unfold State.reply
  try dsimp only
  repeat' first
    | with_reducible assumption | with_reducible apply KeepsR.next | with_reducible apply KeepsR.fault
    | with_reducible apply KeepsR.atPlace | with_reducible apply KeepsO.some | with_reducible apply KeepsO.none
    | with_reducible apply KeepsO.getD | with_reducible apply State.send_keeps | with_reducible apply Keeps.foldl
    | with_reducible apply Keeps.foldlFst | with_reducible apply Keeps.foldlSnd
    | ((with_reducible apply Same.mk) <;> first | exact no ‹_› | exact fun _ => rfl) | intro _ | split | assumption
    | with_reducible apply Keeps.sends | fail_if_no_progress with_reducible apply Keeps.update

theorem State.atQuarantined_keeps {pt : Parts} {a : State} (s : State) (p : Packet) (n : Nat) (h : Keeps pt a s) (x_net : pt.net =
    false := by assumption) (x_trouble : pt.trouble = false := by assumption) :
        Keeps pt a (State.atQuarantined s p n) := by
  unfold State.atQuarantined
  try dsimp only
  repeat' first
    | with_reducible assumption | with_reducible apply KeepsR.next | with_reducible apply KeepsR.fault
    | with_reducible apply KeepsR.atPlace | with_reducible apply KeepsO.some | with_reducible apply KeepsO.none
    | with_reducible apply KeepsO.getD | with_reducible apply State.countDrop_keeps | with_reducible apply State.reply_keeps
    | with_reducible apply Keeps.foldl | with_reducible apply Keeps.foldlFst | with_reducible apply Keeps.foldlSnd
    | ((with_reducible apply Same.mk) <;> first | exact no ‹_› | exact fun _ => rfl) | intro _ | split | assumption
    | with_reducible apply Keeps.sends | fail_if_no_progress with_reducible apply Keeps.update

theorem onPacket_keeps {pt : Parts} {a : State} (k : Nat) (s : State) (want : Packet → Bool) (f : Packet → State → State) (h :
    Keeps pt a s) (hf : ∀ (y0 : Packet) (y1 : State), Keeps pt a y1 → Keeps pt a (f y0 y1)) (x_net : pt.net = false := by
    assumption) (x_trouble : pt.trouble = false := by assumption) :
        KeepsR pt a (onPacket k s want f) := by
  unfold onPacket
  try dsimp only
  repeat' first
    | with_reducible assumption | with_reducible apply hf | with_reducible apply KeepsR.next | with_reducible apply KeepsR.fault
    | with_reducible apply KeepsR.atPlace | with_reducible apply KeepsO.some | with_reducible apply KeepsO.none
    | with_reducible apply KeepsO.getD | with_reducible apply State.consume_keeps | with_reducible apply State.countDrop_keeps
    | with_reducible apply State.atQuarantined_keeps | with_reducible apply Keeps.foldl | with_reducible apply Keeps.foldlFst
    | with_reducible apply Keeps.foldlSnd | ((with_reducible apply Same.mk) <;> first | exact no ‹_› | exact fun _ => rfl)
    | intro _ | split | assumption | with_reducible apply Keeps.sends | fail_if_no_progress with_reducible apply Keeps.update

theorem State.ueFor_keeps {pt : Parts} {a : State} (s : State) (p : Packet) (a0 : Nat) (h : Keeps pt a s) (x_tiles : pt.tiles =
    false := by assumption) (x_ctxs : pt.ctxs = false := by assumption) (x_trouble : pt.trouble = false := by assumption) (x_ports
    : pt.ports = false := by assumption) :
        Keeps pt a (State.ueFor s p a0) := by
  unfold State.ueFor
  try dsimp only
  repeat' first
    | with_reducible assumption | with_reducible apply KeepsR.next | with_reducible apply KeepsR.fault
    | with_reducible apply KeepsR.atPlace | with_reducible apply KeepsO.some | with_reducible apply KeepsO.none
    | with_reducible apply KeepsO.getD | with_reducible apply State.halt_keeps | with_reducible apply State.ueError_keeps
    | with_reducible apply Keeps.foldl | with_reducible apply Keeps.foldlFst | with_reducible apply Keeps.foldlSnd
    | ((with_reducible apply Same.mk) <;> first | exact no ‹_› | exact fun _ => rfl) | intro _ | split | assumption
    | with_reducible apply Keeps.sends | fail_if_no_progress with_reducible apply Keeps.update

end Sys2Proof.Machine
end

