-- ==== Sys2Proof/Laws/KeepVector.lean ====
section
/-!
SUPPORT. What the operations of Machine/Vector.lean keep (Laws/Keeps.lean).
-/
namespace Sys2Proof.Machine

set_option linter.unusedTactic false
set_option linter.unreachableTactic false
set_option Elab.async false

theorem State.setBusy_keeps {pt : Parts} {a : State} (s : State) (n : Nat) (rs : List Nat) (h : Keeps pt a s) (x_tiles : pt.tiles
    = false := by assumption) :
        Keeps pt a (State.setBusy s n rs) := by
  unfold State.setBusy
  try dsimp only
  repeat' first
    | with_reducible assumption | with_reducible apply KeepsR.next | with_reducible apply KeepsR.fault
    | with_reducible apply KeepsR.atPlace | with_reducible apply KeepsO.some | with_reducible apply KeepsO.none
    | with_reducible apply KeepsO.getD | with_reducible apply State.modTile_keeps | with_reducible apply Keeps.foldl
    | with_reducible apply Keeps.foldlFst | with_reducible apply Keeps.foldlSnd
    | ((with_reducible apply Same.mk) <;> first | exact no ‹_› | exact fun _ => rfl) | intro _ | split | assumption
    | with_reducible apply Keeps.sends | fail_if_no_progress with_reducible apply Keeps.update

theorem cmdVld_keeps {pt : Parts}  (x_tiles : pt.tiles = false := by assumption) : CmdKeeps pt (cmdVld) where
  run := by
    intro a s n st x h
    unfold cmdVld
    try dsimp only
    repeat' first
      | with_reducible assumption | with_reducible apply KeepsR.next | with_reducible apply KeepsR.fault
      | with_reducible apply KeepsR.atPlace | with_reducible apply KeepsO.some | with_reducible apply KeepsO.none
      | with_reducible apply KeepsO.getD | with_reducible apply State.setEntry_keeps | with_reducible apply State.setBusy_keeps
      | with_reducible apply Keeps.foldl | with_reducible apply Keeps.foldlFst | with_reducible apply Keeps.foldlSnd
      | ((with_reducible apply Same.mk) <;> first | exact no ‹_› | exact fun _ => rfl) | intro _ | split | assumption
      | with_reducible apply Keeps.sends | fail_if_no_progress with_reducible apply Keeps.update
  ask := by
    intro f e a s n st x h
    unfold cmdVld at e
    try dsimp only at e
    first
      | (cases e; done)
      | skip
    try (cases e; try dsimp only)
    repeat' first
      | with_reducible assumption | with_reducible apply KeepsR.next | with_reducible apply KeepsR.fault
      | with_reducible apply KeepsR.atPlace | with_reducible apply KeepsO.some | with_reducible apply KeepsO.none
      | with_reducible apply KeepsO.getD | with_reducible apply State.setEntry_keeps | with_reducible apply State.setBusy_keeps
      | with_reducible apply Keeps.foldl | with_reducible apply Keeps.foldlFst | with_reducible apply Keeps.foldlSnd
      | ((with_reducible apply Same.mk) <;> first | exact no ‹_› | exact fun _ => rfl) | intro _ | split | assumption
      | with_reducible apply Keeps.sends | fail_if_no_progress with_reducible apply Keeps.update

theorem cmdVld_ends {pt : Parts}   : CmdEnds pt (cmdVld) where
  finish := by
    intro a s n st x h
    unfold cmdVld
    try dsimp only
    repeat' first
      | with_reducible assumption | with_reducible apply KeepsR.next | with_reducible apply KeepsR.fault
      | with_reducible apply KeepsR.atPlace | with_reducible apply KeepsO.some | with_reducible apply KeepsO.none
      | with_reducible apply KeepsO.getD | with_reducible apply State.setEntry_keeps | with_reducible apply State.setBusy_keeps
      | with_reducible apply Keeps.foldl | with_reducible apply Keeps.foldlFst | with_reducible apply Keeps.foldlSnd
      | ((with_reducible apply Same.mk) <;> first | exact no ‹_› | exact fun _ => rfl) | intro _ | split | assumption
      | with_reducible apply Keeps.sends | fail_if_no_progress with_reducible apply Keeps.update

theorem cmdVst_keeps {pt : Parts}  (x_tiles : pt.tiles = false := by assumption) : CmdKeeps pt (cmdVst) where
  run := by
    intro a s n st x h
    unfold cmdVst
    try dsimp only
    repeat' first
      | with_reducible assumption | with_reducible apply KeepsR.next | with_reducible apply KeepsR.fault
      | with_reducible apply KeepsR.atPlace | with_reducible apply KeepsO.some | with_reducible apply KeepsO.none
      | with_reducible apply KeepsO.getD | with_reducible apply State.setEntry_keeps | with_reducible apply Keeps.foldl
      | with_reducible apply Keeps.foldlFst | with_reducible apply Keeps.foldlSnd
      | ((with_reducible apply Same.mk) <;> first | exact no ‹_› | exact fun _ => rfl) | intro _ | split | assumption
      | with_reducible apply Keeps.sends | fail_if_no_progress with_reducible apply Keeps.update
  ask := by
    intro f e a s n st x h
    unfold cmdVst at e
    try dsimp only at e
    first
      | (cases e; done)
      | skip
    try (cases e; try dsimp only)
    repeat' first
      | with_reducible assumption | with_reducible apply KeepsR.next | with_reducible apply KeepsR.fault
      | with_reducible apply KeepsR.atPlace | with_reducible apply KeepsO.some | with_reducible apply KeepsO.none
      | with_reducible apply KeepsO.getD | with_reducible apply State.setEntry_keeps | with_reducible apply Keeps.foldl
      | with_reducible apply Keeps.foldlFst | with_reducible apply Keeps.foldlSnd
      | ((with_reducible apply Same.mk) <;> first | exact no ‹_› | exact fun _ => rfl) | intro _ | split | assumption
      | with_reducible apply Keeps.sends | fail_if_no_progress with_reducible apply Keeps.update

theorem cmdVst_ends {pt : Parts}   : CmdEnds pt (cmdVst) where
  finish := by
    intro a s n st x h
    unfold cmdVst
    try dsimp only
    repeat' first
      | with_reducible assumption | with_reducible apply KeepsR.next | with_reducible apply KeepsR.fault
      | with_reducible apply KeepsR.atPlace | with_reducible apply KeepsO.some | with_reducible apply KeepsO.none
      | with_reducible apply KeepsO.getD | with_reducible apply State.setEntry_keeps | with_reducible apply Keeps.foldl
      | with_reducible apply Keeps.foldlFst | with_reducible apply Keeps.foldlSnd
      | ((with_reducible apply Same.mk) <;> first | exact no ‹_› | exact fun _ => rfl) | intro _ | split | assumption
      | with_reducible apply Keeps.sends | fail_if_no_progress with_reducible apply Keeps.update

theorem cmdEpload_keeps {pt : Parts}  (x_tiles : pt.tiles = false := by assumption) : CmdKeeps pt (cmdEpload) where
  run := by
    intro a s n st x h
    unfold cmdEpload
    try dsimp only
    repeat' first
      | with_reducible assumption | with_reducible apply KeepsR.next | with_reducible apply KeepsR.fault
      | with_reducible apply KeepsR.atPlace | with_reducible apply KeepsO.some | with_reducible apply KeepsO.none
      | with_reducible apply KeepsO.getD | with_reducible apply State.setEntry_keeps | with_reducible apply Keeps.foldl
      | with_reducible apply Keeps.foldlFst | with_reducible apply Keeps.foldlSnd
      | ((with_reducible apply Same.mk) <;> first | exact no ‹_› | exact fun _ => rfl) | intro _ | split | assumption
      | with_reducible apply Keeps.sends | fail_if_no_progress with_reducible apply Keeps.update
  ask := by
    intro f e a s n st x h
    unfold cmdEpload at e
    try dsimp only at e
    first
      | (cases e; done)
      | skip
    try (cases e; try dsimp only)
    repeat' first
      | with_reducible assumption | with_reducible apply KeepsR.next | with_reducible apply KeepsR.fault
      | with_reducible apply KeepsR.atPlace | with_reducible apply KeepsO.some | with_reducible apply KeepsO.none
      | with_reducible apply KeepsO.getD | with_reducible apply State.setEntry_keeps | with_reducible apply Keeps.foldl
      | with_reducible apply Keeps.foldlFst | with_reducible apply Keeps.foldlSnd
      | ((with_reducible apply Same.mk) <;> first | exact no ‹_› | exact fun _ => rfl) | intro _ | split | assumption
      | with_reducible apply Keeps.sends | fail_if_no_progress with_reducible apply Keeps.update

theorem cmdEpload_ends {pt : Parts}   : CmdEnds pt (cmdEpload) where
  finish := by
    intro a s n st x h
    unfold cmdEpload
    try dsimp only
    repeat' first
      | with_reducible assumption | with_reducible apply KeepsR.next | with_reducible apply KeepsR.fault
      | with_reducible apply KeepsR.atPlace | with_reducible apply KeepsO.some | with_reducible apply KeepsO.none
      | with_reducible apply KeepsO.getD | with_reducible apply State.setEntry_keeps | with_reducible apply Keeps.foldl
      | with_reducible apply Keeps.foldlFst | with_reducible apply Keeps.foldlSnd
      | ((with_reducible apply Same.mk) <;> first | exact no ‹_› | exact fun _ => rfl) | intro _ | split | assumption
      | with_reducible apply Keeps.sends | fail_if_no_progress with_reducible apply Keeps.update

theorem cmdEprog_keeps {pt : Parts}  (x_tiles : pt.tiles = false := by assumption) : CmdKeeps pt (cmdEprog) where
  run := by
    intro a s n st x h
    unfold cmdEprog
    try dsimp only
    repeat' first
      | with_reducible assumption | with_reducible apply KeepsR.next | with_reducible apply KeepsR.fault
      | with_reducible apply KeepsR.atPlace | with_reducible apply KeepsO.some | with_reducible apply KeepsO.none
      | with_reducible apply KeepsO.getD | with_reducible apply State.setEntry_keeps | with_reducible apply State.setBusy_keeps
      | with_reducible apply Keeps.foldl | with_reducible apply Keeps.foldlFst | with_reducible apply Keeps.foldlSnd
      | ((with_reducible apply Same.mk) <;> first | exact no ‹_› | exact fun _ => rfl) | intro _ | split | assumption
      | with_reducible apply Keeps.sends | fail_if_no_progress with_reducible apply Keeps.update
  ask := by
    intro f e a s n st x h
    unfold cmdEprog at e
    try dsimp only at e
    first
      | (cases e; done)
      | skip
    try (cases e; try dsimp only)
    repeat' first
      | with_reducible assumption | with_reducible apply KeepsR.next | with_reducible apply KeepsR.fault
      | with_reducible apply KeepsR.atPlace | with_reducible apply KeepsO.some | with_reducible apply KeepsO.none
      | with_reducible apply KeepsO.getD | with_reducible apply State.setEntry_keeps | with_reducible apply State.setBusy_keeps
      | with_reducible apply Keeps.foldl | with_reducible apply Keeps.foldlFst | with_reducible apply Keeps.foldlSnd
      | ((with_reducible apply Same.mk) <;> first | exact no ‹_› | exact fun _ => rfl) | intro _ | split | assumption
      | with_reducible apply Keeps.sends | fail_if_no_progress with_reducible apply Keeps.update

theorem cmdEprog_ends {pt : Parts}   : CmdEnds pt (cmdEprog) where
  finish := by
    intro a s n st x h
    unfold cmdEprog
    try dsimp only
    repeat' first
      | with_reducible assumption | with_reducible apply KeepsR.next | with_reducible apply KeepsR.fault
      | with_reducible apply KeepsR.atPlace | with_reducible apply KeepsO.some | with_reducible apply KeepsO.none
      | with_reducible apply KeepsO.getD | with_reducible apply State.setEntry_keeps | with_reducible apply State.setBusy_keeps
      | with_reducible apply Keeps.foldl | with_reducible apply Keeps.foldlFst | with_reducible apply Keeps.foldlSnd
      | ((with_reducible apply Same.mk) <;> first | exact no ‹_› | exact fun _ => rfl) | intro _ | split | assumption
      | with_reducible apply Keeps.sends | fail_if_no_progress with_reducible apply Keeps.update

theorem cmdEpstrm_keeps {pt : Parts}  (x_tiles : pt.tiles = false := by assumption) : CmdKeeps pt (cmdEpstrm) where
  run := by
    intro a s n st x h
    unfold cmdEpstrm
    try dsimp only
    repeat' first
      | with_reducible assumption | with_reducible apply KeepsR.next | with_reducible apply KeepsR.fault
      | with_reducible apply KeepsR.atPlace | with_reducible apply KeepsO.some | with_reducible apply KeepsO.none
      | with_reducible apply KeepsO.getD | with_reducible apply State.setEntry_keeps | with_reducible apply Keeps.foldl
      | with_reducible apply Keeps.foldlFst | with_reducible apply Keeps.foldlSnd
      | ((with_reducible apply Same.mk) <;> first | exact no ‹_› | exact fun _ => rfl) | intro _ | split | assumption
      | with_reducible apply Keeps.sends | fail_if_no_progress with_reducible apply Keeps.update
  ask := by
    intro f e a s n st x h
    unfold cmdEpstrm at e
    try dsimp only at e
    first
      | (cases e; done)
      | skip
    try (cases e; try dsimp only)
    repeat' first
      | with_reducible assumption | with_reducible apply KeepsR.next | with_reducible apply KeepsR.fault
      | with_reducible apply KeepsR.atPlace | with_reducible apply KeepsO.some | with_reducible apply KeepsO.none
      | with_reducible apply KeepsO.getD | with_reducible apply State.setEntry_keeps | with_reducible apply Keeps.foldl
      | with_reducible apply Keeps.foldlFst | with_reducible apply Keeps.foldlSnd
      | ((with_reducible apply Same.mk) <;> first | exact no ‹_› | exact fun _ => rfl) | intro _ | split | assumption
      | with_reducible apply Keeps.sends | fail_if_no_progress with_reducible apply Keeps.update

theorem cmdEpstrm_ends {pt : Parts}   : CmdEnds pt (cmdEpstrm) where
  finish := by
    intro a s n st x h
    unfold cmdEpstrm
    try dsimp only
    repeat' first
      | with_reducible assumption | with_reducible apply KeepsR.next | with_reducible apply KeepsR.fault
      | with_reducible apply KeepsR.atPlace | with_reducible apply KeepsO.some | with_reducible apply KeepsO.none
      | with_reducible apply KeepsO.getD | with_reducible apply State.setEntry_keeps | with_reducible apply Keeps.foldl
      | with_reducible apply Keeps.foldlFst | with_reducible apply Keeps.foldlSnd
      | ((with_reducible apply Same.mk) <;> first | exact no ‹_› | exact fun _ => rfl) | intro _ | split | assumption
      | with_reducible apply Keeps.sends | fail_if_no_progress with_reducible apply Keeps.update

theorem cmdVred_keeps {pt : Parts}  (x_tiles : pt.tiles = false := by assumption) : CmdKeeps pt (cmdVred) where
  run := by
    intro a s n st x h
    unfold cmdVred
    try dsimp only
    repeat' first
      | with_reducible assumption | with_reducible apply KeepsR.next | with_reducible apply KeepsR.fault
      | with_reducible apply KeepsR.atPlace | with_reducible apply KeepsO.some | with_reducible apply KeepsO.none
      | with_reducible apply KeepsO.getD | with_reducible apply State.setEntry_keeps | with_reducible apply State.setBusy_keeps
      | with_reducible apply Keeps.foldl | with_reducible apply Keeps.foldlFst | with_reducible apply Keeps.foldlSnd
      | ((with_reducible apply Same.mk) <;> first | exact no ‹_› | exact fun _ => rfl) | intro _ | split | assumption
      | with_reducible apply Keeps.sends | fail_if_no_progress with_reducible apply Keeps.update
  ask := by
    intro f e a s n st x h
    unfold cmdVred at e
    try dsimp only at e
    first
      | (cases e; done)
      | skip
    try (cases e; try dsimp only)
    repeat' first
      | with_reducible assumption | with_reducible apply KeepsR.next | with_reducible apply KeepsR.fault
      | with_reducible apply KeepsR.atPlace | with_reducible apply KeepsO.some | with_reducible apply KeepsO.none
      | with_reducible apply KeepsO.getD | with_reducible apply State.setEntry_keeps | with_reducible apply State.setBusy_keeps
      | with_reducible apply Keeps.foldl | with_reducible apply Keeps.foldlFst | with_reducible apply Keeps.foldlSnd
      | ((with_reducible apply Same.mk) <;> first | exact no ‹_› | exact fun _ => rfl) | intro _ | split | assumption
      | with_reducible apply Keeps.sends | fail_if_no_progress with_reducible apply Keeps.update

theorem cmdVred_ends {pt : Parts}   : CmdEnds pt (cmdVred) where
  finish := by
    intro a s n st x h
    unfold cmdVred
    try dsimp only
    repeat' first
      | with_reducible assumption | with_reducible apply KeepsR.next | with_reducible apply KeepsR.fault
      | with_reducible apply KeepsR.atPlace | with_reducible apply KeepsO.some | with_reducible apply KeepsO.none
      | with_reducible apply KeepsO.getD | with_reducible apply State.setEntry_keeps | with_reducible apply State.setBusy_keeps
      | with_reducible apply Keeps.foldl | with_reducible apply Keeps.foldlFst | with_reducible apply Keeps.foldlSnd
      | ((with_reducible apply Same.mk) <;> first | exact no ‹_› | exact fun _ => rfl) | intro _ | split | assumption
      | with_reducible apply Keeps.sends | fail_if_no_progress with_reducible apply Keeps.update

theorem cmdVsum_keeps {pt : Parts}  (x_tiles : pt.tiles = false := by assumption) : CmdKeeps pt (cmdVsum) where
  run := by
    intro a s n st x h
    unfold cmdVsum
    try dsimp only
    repeat' first
      | with_reducible assumption | with_reducible apply KeepsR.next | with_reducible apply KeepsR.fault
      | with_reducible apply KeepsR.atPlace | with_reducible apply KeepsO.some | with_reducible apply KeepsO.none
      | with_reducible apply KeepsO.getD | with_reducible apply State.setEntry_keeps | with_reducible apply Keeps.foldl
      | with_reducible apply Keeps.foldlFst | with_reducible apply Keeps.foldlSnd
      | ((with_reducible apply Same.mk) <;> first | exact no ‹_› | exact fun _ => rfl) | intro _ | split | assumption
      | with_reducible apply Keeps.sends | fail_if_no_progress with_reducible apply Keeps.update
  ask := by
    intro f e a s n st x h
    unfold cmdVsum at e
    try dsimp only at e
    first
      | (cases e; done)
      | skip
    try (cases e; try dsimp only)
    repeat' first
      | with_reducible assumption | with_reducible apply KeepsR.next | with_reducible apply KeepsR.fault
      | with_reducible apply KeepsR.atPlace | with_reducible apply KeepsO.some | with_reducible apply KeepsO.none
      | with_reducible apply KeepsO.getD | with_reducible apply State.setEntry_keeps | with_reducible apply Keeps.foldl
      | with_reducible apply Keeps.foldlFst | with_reducible apply Keeps.foldlSnd
      | ((with_reducible apply Same.mk) <;> first | exact no ‹_› | exact fun _ => rfl) | intro _ | split | assumption
      | with_reducible apply Keeps.sends | fail_if_no_progress with_reducible apply Keeps.update

theorem cmdVsum_ends {pt : Parts}   : CmdEnds pt (cmdVsum) where
  finish := by
    intro a s n st x h
    unfold cmdVsum
    try dsimp only
    repeat' first
      | with_reducible assumption | with_reducible apply KeepsR.next | with_reducible apply KeepsR.fault
      | with_reducible apply KeepsR.atPlace | with_reducible apply KeepsO.some | with_reducible apply KeepsO.none
      | with_reducible apply KeepsO.getD | with_reducible apply State.setEntry_keeps | with_reducible apply Keeps.foldl
      | with_reducible apply Keeps.foldlFst | with_reducible apply Keeps.foldlSnd
      | ((with_reducible apply Same.mk) <;> first | exact no ‹_› | exact fun _ => rfl) | intro _ | split | assumption
      | with_reducible apply Keeps.sends | fail_if_no_progress with_reducible apply Keeps.update

theorem cmdVseed_keeps {pt : Parts}  (x_tiles : pt.tiles = false := by assumption) : CmdKeeps pt (cmdVseed) where
  run := by
    intro a s n st x h
    unfold cmdVseed
    try dsimp only
    repeat' first
      | with_reducible assumption | with_reducible apply KeepsR.next | with_reducible apply KeepsR.fault
      | with_reducible apply KeepsR.atPlace | with_reducible apply KeepsO.some | with_reducible apply KeepsO.none
      | with_reducible apply KeepsO.getD | with_reducible apply State.setEntry_keeps | with_reducible apply Keeps.foldl
      | with_reducible apply Keeps.foldlFst | with_reducible apply Keeps.foldlSnd
      | ((with_reducible apply Same.mk) <;> first | exact no ‹_› | exact fun _ => rfl) | intro _ | split | assumption
      | with_reducible apply Keeps.sends | fail_if_no_progress with_reducible apply Keeps.update
  ask := by
    intro f e a s n st x h
    unfold cmdVseed at e
    try dsimp only at e
    first
      | (cases e; done)
      | skip
    try (cases e; try dsimp only)
    repeat' first
      | with_reducible assumption | with_reducible apply KeepsR.next | with_reducible apply KeepsR.fault
      | with_reducible apply KeepsR.atPlace | with_reducible apply KeepsO.some | with_reducible apply KeepsO.none
      | with_reducible apply KeepsO.getD | with_reducible apply State.setEntry_keeps | with_reducible apply Keeps.foldl
      | with_reducible apply Keeps.foldlFst | with_reducible apply Keeps.foldlSnd
      | ((with_reducible apply Same.mk) <;> first | exact no ‹_› | exact fun _ => rfl) | intro _ | split | assumption
      | with_reducible apply Keeps.sends | fail_if_no_progress with_reducible apply Keeps.update

theorem cmdVseed_ends {pt : Parts}   : CmdEnds pt (cmdVseed) where
  finish := by
    intro a s n st x h
    unfold cmdVseed
    try dsimp only
    repeat' first
      | with_reducible assumption | with_reducible apply KeepsR.next | with_reducible apply KeepsR.fault
      | with_reducible apply KeepsR.atPlace | with_reducible apply KeepsO.some | with_reducible apply KeepsO.none
      | with_reducible apply KeepsO.getD | with_reducible apply State.setEntry_keeps | with_reducible apply Keeps.foldl
      | with_reducible apply Keeps.foldlFst | with_reducible apply Keeps.foldlSnd
      | ((with_reducible apply Same.mk) <;> first | exact no ‹_› | exact fun _ => rfl) | intro _ | split | assumption
      | with_reducible apply Keeps.sends | fail_if_no_progress with_reducible apply Keeps.update

end Sys2Proof.Machine
end

