-- ==== Sys2Proof/Laws/KeepMatrix.lean ====
section
/-!
SUPPORT. What the operations of Machine/Matrix.lean keep (Laws/Keeps.lean).
-/
namespace Sys2Proof.Machine

set_option linter.unusedTactic false
set_option linter.unreachableTactic false
set_option Elab.async false

theorem cmdMma_keeps {pt : Parts}  (x_tiles : pt.tiles = false := by assumption) : CmdKeeps pt (cmdMma) where
  run := by
    intro a s n st x h
    unfold cmdMma
    try dsimp only
    repeat' first
      | with_reducible assumption | with_reducible apply KeepsR.next | with_reducible apply KeepsR.fault
      | with_reducible apply KeepsR.atPlace | with_reducible apply KeepsO.some | with_reducible apply KeepsO.none
      | with_reducible apply KeepsO.getD | with_reducible apply State.modTile_keeps | with_reducible apply State.modQueue_keeps
      | with_reducible apply State.modArray_keeps | with_reducible apply State.setEntry_keeps | with_reducible apply Keeps.foldl
      | with_reducible apply Keeps.foldlFst | with_reducible apply Keeps.foldlSnd
      | ((with_reducible apply Same.mk) <;> first | exact no ‹_› | exact fun _ => rfl) | intro _ | split | assumption
      | with_reducible apply Keeps.sends | fail_if_no_progress with_reducible apply Keeps.update
  ask := by
    intro f e a s n st x h
    unfold cmdMma at e
    try dsimp only at e
    first
      | (cases e; done)
      | skip
    try (cases e; try dsimp only)
    repeat' first
      | with_reducible assumption | with_reducible apply KeepsR.next | with_reducible apply KeepsR.fault
      | with_reducible apply KeepsR.atPlace | with_reducible apply KeepsO.some | with_reducible apply KeepsO.none
      | with_reducible apply KeepsO.getD | with_reducible apply State.modTile_keeps | with_reducible apply State.modQueue_keeps
      | with_reducible apply State.modArray_keeps | with_reducible apply State.setEntry_keeps | with_reducible apply Keeps.foldl
      | with_reducible apply Keeps.foldlFst | with_reducible apply Keeps.foldlSnd
      | ((with_reducible apply Same.mk) <;> first | exact no ‹_› | exact fun _ => rfl) | intro _ | split | assumption
      | with_reducible apply Keeps.sends | fail_if_no_progress with_reducible apply Keeps.update

theorem cmdMma_ends {pt : Parts}  (x_tiles : pt.tiles = false := by assumption) : CmdEnds pt (cmdMma) where
  finish := by
    intro a s n st x h
    unfold cmdMma
    try dsimp only
    repeat' first
      | with_reducible assumption | with_reducible apply KeepsR.next | with_reducible apply KeepsR.fault
      | with_reducible apply KeepsR.atPlace | with_reducible apply KeepsO.some | with_reducible apply KeepsO.none
      | with_reducible apply KeepsO.getD | with_reducible apply State.modTile_keeps | with_reducible apply State.modQueue_keeps
      | with_reducible apply State.modArray_keeps | with_reducible apply State.setEntry_keeps | with_reducible apply Keeps.foldl
      | with_reducible apply Keeps.foldlFst | with_reducible apply Keeps.foldlSnd
      | ((with_reducible apply Same.mk) <;> first | exact no ‹_› | exact fun _ => rfl) | intro _ | split | assumption
      | with_reducible apply Keeps.sends | fail_if_no_progress with_reducible apply Keeps.update

theorem cmdMdcfg_keeps {pt : Parts}  (x_tiles : pt.tiles = false := by assumption) : CmdKeeps pt (cmdMdcfg) where
  run := by
    intro a s n st x h
    unfold cmdMdcfg
    try dsimp only
    repeat' first
      | with_reducible assumption | with_reducible apply KeepsR.next | with_reducible apply KeepsR.fault
      | with_reducible apply KeepsR.atPlace | with_reducible apply KeepsO.some | with_reducible apply KeepsO.none
      | with_reducible apply KeepsO.getD | with_reducible apply State.setEntry_keeps | with_reducible apply Keeps.foldl
      | with_reducible apply Keeps.foldlFst | with_reducible apply Keeps.foldlSnd
      | ((with_reducible apply Same.mk) <;> first | exact no ‹_› | exact fun _ => rfl) | intro _ | split | assumption
      | with_reducible apply Keeps.sends | fail_if_no_progress with_reducible apply Keeps.update
  ask := by
    intro f e a s n st x h
    unfold cmdMdcfg at e
    try dsimp only at e
    first
      | (cases e; done)
      | skip
    try (cases e; try dsimp only)
    repeat' first
      | with_reducible assumption | with_reducible apply KeepsR.next | with_reducible apply KeepsR.fault
      | with_reducible apply KeepsR.atPlace | with_reducible apply KeepsO.some | with_reducible apply KeepsO.none
      | with_reducible apply KeepsO.getD | with_reducible apply State.setEntry_keeps | with_reducible apply Keeps.foldl
      | with_reducible apply Keeps.foldlFst | with_reducible apply Keeps.foldlSnd
      | ((with_reducible apply Same.mk) <;> first | exact no ‹_› | exact fun _ => rfl) | intro _ | split | assumption
      | with_reducible apply Keeps.sends | fail_if_no_progress with_reducible apply Keeps.update

theorem cmdMdcfg_ends {pt : Parts}   : CmdEnds pt (cmdMdcfg) where
  finish := by
    intro a s n st x h
    unfold cmdMdcfg
    try dsimp only
    repeat' first
      | with_reducible assumption | with_reducible apply KeepsR.next | with_reducible apply KeepsR.fault
      | with_reducible apply KeepsR.atPlace | with_reducible apply KeepsO.some | with_reducible apply KeepsO.none
      | with_reducible apply KeepsO.getD | with_reducible apply State.setEntry_keeps | with_reducible apply Keeps.foldl
      | with_reducible apply Keeps.foldlFst | with_reducible apply Keeps.foldlSnd
      | ((with_reducible apply Same.mk) <;> first | exact no ‹_› | exact fun _ => rfl) | intro _ | split | assumption
      | with_reducible apply Keeps.sends | fail_if_no_progress with_reducible apply Keeps.update

theorem cmdMdrain_keeps {pt : Parts}  (x_tiles : pt.tiles = false := by assumption) : CmdKeeps pt (cmdMdrain) where
  run := by
    intro a s n st x h
    unfold cmdMdrain
    try dsimp only
    repeat' first
      | with_reducible assumption | with_reducible apply KeepsR.next | with_reducible apply KeepsR.fault
      | with_reducible apply KeepsR.atPlace | with_reducible apply KeepsO.some | with_reducible apply KeepsO.none
      | with_reducible apply KeepsO.getD | with_reducible apply State.modArray_keeps | with_reducible apply State.setEntry_keeps
      | with_reducible apply State.setBusy_keeps | with_reducible apply Keeps.foldl | with_reducible apply Keeps.foldlFst
      | with_reducible apply Keeps.foldlSnd | ((with_reducible apply Same.mk) <;> first | exact no ‹_› | exact fun _ => rfl)
      | intro _ | split | assumption | with_reducible apply Keeps.sends | fail_if_no_progress with_reducible apply Keeps.update
  ask := by
    intro f e a s n st x h
    unfold cmdMdrain at e
    try dsimp only at e
    first
      | (cases e; done)
      | skip
    try (cases e; try dsimp only)
    repeat' first
      | with_reducible assumption | with_reducible apply KeepsR.next | with_reducible apply KeepsR.fault
      | with_reducible apply KeepsR.atPlace | with_reducible apply KeepsO.some | with_reducible apply KeepsO.none
      | with_reducible apply KeepsO.getD | with_reducible apply State.modArray_keeps | with_reducible apply State.setEntry_keeps
      | with_reducible apply State.setBusy_keeps | with_reducible apply Keeps.foldl | with_reducible apply Keeps.foldlFst
      | with_reducible apply Keeps.foldlSnd | ((with_reducible apply Same.mk) <;> first | exact no ‹_› | exact fun _ => rfl)
      | intro _ | split | assumption | with_reducible apply Keeps.sends | fail_if_no_progress with_reducible apply Keeps.update

theorem cmdMdrain_ends {pt : Parts}   : CmdEnds pt (cmdMdrain) where
  finish := by
    intro a s n st x h
    unfold cmdMdrain
    try dsimp only
    repeat' first
      | with_reducible assumption | with_reducible apply KeepsR.next | with_reducible apply KeepsR.fault
      | with_reducible apply KeepsR.atPlace | with_reducible apply KeepsO.some | with_reducible apply KeepsO.none
      | with_reducible apply KeepsO.getD | with_reducible apply State.modArray_keeps | with_reducible apply State.setEntry_keeps
      | with_reducible apply State.setBusy_keeps | with_reducible apply Keeps.foldl | with_reducible apply Keeps.foldlFst
      | with_reducible apply Keeps.foldlSnd | ((with_reducible apply Same.mk) <;> first | exact no ‹_› | exact fun _ => rfl)
      | intro _ | split | assumption | with_reducible apply Keeps.sends | fail_if_no_progress with_reducible apply Keeps.update

end Sys2Proof.Machine
end

