-- ==== Sys2Proof/Laws/KeepMover.lean ====
section
/-!
SUPPORT. What the operations of Machine/Mover.lean keep (Laws/Keeps.lean).
-/
namespace Sys2Proof.Machine

set_option linter.unusedTactic false
set_option linter.unreachableTactic false
set_option Elab.async false

theorem State.moveReady_keeps {pt : Parts} {a : State} (s : State) (n : Nat) (e : Engine) (st : Stream) (x : Entry) (h : Keeps pt
    a s) (x_tiles : pt.tiles = false := by assumption) (x_net : pt.net = false := by assumption) (x_trouble : pt.trouble = false
    := by assumption) (x_ports : pt.ports = false := by assumption) (x_fabric : pt.fabric = false := by assumption) :
        Keeps pt a (State.moveReady s n e st x) := by
  unfold State.moveReady
  try dsimp only
  repeat' first
    | with_reducible assumption | with_reducible apply KeepsR.next | with_reducible apply KeepsR.fault
    | with_reducible apply KeepsR.atPlace | with_reducible apply KeepsO.some | with_reducible apply KeepsO.none
    | with_reducible apply KeepsO.getD | with_reducible apply State.setEntry_keeps | with_reducible apply State.moverSend_keeps
    | with_reducible apply Keeps.foldl | with_reducible apply Keeps.foldlFst | with_reducible apply Keeps.foldlSnd
    | ((with_reducible apply Same.mk) <;> first | exact no ‹_› | exact fun _ => rfl) | intro _ | split | assumption
    | with_reducible apply Keeps.sends | fail_if_no_progress with_reducible apply Keeps.update

theorem cmdMove_keeps {pt : Parts}  (x_tiles : pt.tiles = false := by assumption) (x_net : pt.net = false := by assumption)
    (x_trouble : pt.trouble = false := by assumption) (x_ports : pt.ports = false := by assumption) (x_fabric : pt.fabric = false
    := by assumption) : CmdKeeps pt (cmdMove) where
  run := by
    intro a s n st x h
    unfold cmdMove
    try dsimp only
    repeat' first
      | with_reducible assumption | with_reducible apply KeepsR.next | with_reducible apply KeepsR.fault
      | with_reducible apply KeepsR.atPlace | with_reducible apply KeepsO.some | with_reducible apply KeepsO.none
      | with_reducible apply KeepsO.getD | with_reducible apply State.makePieces_keeps
      | with_reducible apply State.pumpEntry_keeps | with_reducible apply State.moveReady_keeps
      | with_reducible apply Keeps.foldl | with_reducible apply Keeps.foldlFst | with_reducible apply Keeps.foldlSnd
      | ((with_reducible apply Same.mk) <;> first | exact no ‹_› | exact fun _ => rfl) | intro _ | split | assumption
      | with_reducible apply Keeps.sends | fail_if_no_progress with_reducible apply Keeps.update
  ask := by
    intro f e a s n st x h
    unfold cmdMove at e
    try dsimp only at e
    first
      | (cases e; done)
      | skip
    try (cases e; try dsimp only)
    repeat' first
      | with_reducible assumption | with_reducible apply KeepsR.next | with_reducible apply KeepsR.fault
      | with_reducible apply KeepsR.atPlace | with_reducible apply KeepsO.some | with_reducible apply KeepsO.none
      | with_reducible apply KeepsO.getD | with_reducible apply State.makePieces_keeps
      | with_reducible apply State.pumpEntry_keeps | with_reducible apply State.moveReady_keeps
      | with_reducible apply Keeps.foldl | with_reducible apply Keeps.foldlFst | with_reducible apply Keeps.foldlSnd
      | ((with_reducible apply Same.mk) <;> first | exact no ‹_› | exact fun _ => rfl) | intro _ | split | assumption
      | with_reducible apply Keeps.sends | fail_if_no_progress with_reducible apply Keeps.update

theorem cmdMove_ends {pt : Parts}   : CmdEnds pt (cmdMove) where
  finish := by
    intro a s n st x h
    unfold cmdMove
    try dsimp only
    repeat' first
      | with_reducible assumption | with_reducible apply KeepsR.next | with_reducible apply KeepsR.fault
      | with_reducible apply KeepsR.atPlace | with_reducible apply KeepsO.some | with_reducible apply KeepsO.none
      | with_reducible apply KeepsO.getD | with_reducible apply State.makePieces_keeps
      | with_reducible apply State.pumpEntry_keeps | with_reducible apply State.moveReady_keeps
      | with_reducible apply Keeps.foldl | with_reducible apply Keeps.foldlFst | with_reducible apply Keeps.foldlSnd
      | ((with_reducible apply Same.mk) <;> first | exact no ‹_› | exact fun _ => rfl) | intro _ | split | assumption
      | with_reducible apply Keeps.sends | fail_if_no_progress with_reducible apply Keeps.update

theorem compRun_keeps {pt : Parts} {a : State} (s : State) (n : Nat) (st : Stream) (x : Entry) (h : Keeps pt a s) (x_tiles :
    pt.tiles = false := by assumption) :
        Keeps pt a (compRun s n st x) := by
  unfold compRun
  try dsimp only
  repeat' first
    | with_reducible assumption | with_reducible apply KeepsR.next | with_reducible apply KeepsR.fault
    | with_reducible apply KeepsR.atPlace | with_reducible apply KeepsO.some | with_reducible apply KeepsO.none
    | with_reducible apply KeepsO.getD | with_reducible apply State.setEntry_keeps | with_reducible apply Keeps.foldl
    | with_reducible apply Keeps.foldlFst | with_reducible apply Keeps.foldlSnd
    | ((with_reducible apply Same.mk) <;> first | exact no ‹_› | exact fun _ => rfl) | intro _ | split | assumption
    | with_reducible apply Keeps.sends | fail_if_no_progress with_reducible apply Keeps.update

theorem cmdMvcomp_keeps {pt : Parts}  (x_tiles : pt.tiles = false := by assumption) : CmdKeeps pt (cmdMvcomp) where
  run := by
    intro a s n st x h
    unfold cmdMvcomp
    try dsimp only
    repeat' first
      | with_reducible assumption | with_reducible apply KeepsR.next | with_reducible apply KeepsR.fault
      | with_reducible apply KeepsR.atPlace | with_reducible apply KeepsO.some | with_reducible apply KeepsO.none
      | with_reducible apply KeepsO.getD | with_reducible apply compRun_keeps | with_reducible apply Keeps.foldl
      | with_reducible apply Keeps.foldlFst | with_reducible apply Keeps.foldlSnd
      | ((with_reducible apply Same.mk) <;> first | exact no ‹_› | exact fun _ => rfl) | intro _ | split | assumption
      | with_reducible apply Keeps.sends | fail_if_no_progress with_reducible apply Keeps.update
  ask := by
    intro f e a s n st x h
    unfold cmdMvcomp at e
    try dsimp only at e
    first
      | (cases e; done)
      | skip
    try (cases e; try dsimp only)
    repeat' first
      | with_reducible assumption | with_reducible apply KeepsR.next | with_reducible apply KeepsR.fault
      | with_reducible apply KeepsR.atPlace | with_reducible apply KeepsO.some | with_reducible apply KeepsO.none
      | with_reducible apply KeepsO.getD | with_reducible apply compRun_keeps | with_reducible apply Keeps.foldl
      | with_reducible apply Keeps.foldlFst | with_reducible apply Keeps.foldlSnd
      | ((with_reducible apply Same.mk) <;> first | exact no ‹_› | exact fun _ => rfl) | intro _ | split | assumption
      | with_reducible apply Keeps.sends | fail_if_no_progress with_reducible apply Keeps.update

theorem cmdMvcomp_ends {pt : Parts}   : CmdEnds pt (cmdMvcomp) where
  finish := by
    intro a s n st x h
    unfold cmdMvcomp
    try dsimp only
    repeat' first
      | with_reducible assumption | with_reducible apply KeepsR.next | with_reducible apply KeepsR.fault
      | with_reducible apply KeepsR.atPlace | with_reducible apply KeepsO.some | with_reducible apply KeepsO.none
      | with_reducible apply KeepsO.getD | with_reducible apply compRun_keeps | with_reducible apply Keeps.foldl
      | with_reducible apply Keeps.foldlFst | with_reducible apply Keeps.foldlSnd
      | ((with_reducible apply Same.mk) <;> first | exact no ‹_› | exact fun _ => rfl) | intro _ | split | assumption
      | with_reducible apply Keeps.sends | fail_if_no_progress with_reducible apply Keeps.update

theorem cmdRemask_keeps {pt : Parts}  (x_tiles : pt.tiles = false := by assumption) : CmdKeeps pt (cmdRemask) where
  run := by
    intro a s n st x h
    unfold cmdRemask
    try dsimp only
    repeat' first
      | with_reducible assumption | with_reducible apply KeepsR.next | with_reducible apply KeepsR.fault
      | with_reducible apply KeepsR.atPlace | with_reducible apply KeepsO.some | with_reducible apply KeepsO.none
      | with_reducible apply KeepsO.getD | with_reducible apply compRun_keeps | with_reducible apply Keeps.foldl
      | with_reducible apply Keeps.foldlFst | with_reducible apply Keeps.foldlSnd
      | ((with_reducible apply Same.mk) <;> first | exact no ‹_› | exact fun _ => rfl) | intro _ | split | assumption
      | with_reducible apply Keeps.sends | fail_if_no_progress with_reducible apply Keeps.update
  ask := by
    intro f e a s n st x h
    unfold cmdRemask at e
    try dsimp only at e
    first
      | (cases e; done)
      | skip
    try (cases e; try dsimp only)
    repeat' first
      | with_reducible assumption | with_reducible apply KeepsR.next | with_reducible apply KeepsR.fault
      | with_reducible apply KeepsR.atPlace | with_reducible apply KeepsO.some | with_reducible apply KeepsO.none
      | with_reducible apply KeepsO.getD | with_reducible apply compRun_keeps | with_reducible apply Keeps.foldl
      | with_reducible apply Keeps.foldlFst | with_reducible apply Keeps.foldlSnd
      | ((with_reducible apply Same.mk) <;> first | exact no ‹_› | exact fun _ => rfl) | intro _ | split | assumption
      | with_reducible apply Keeps.sends | fail_if_no_progress with_reducible apply Keeps.update

theorem cmdRemask_ends {pt : Parts}   : CmdEnds pt (cmdRemask) where
  finish := by
    intro a s n st x h
    unfold cmdRemask
    try dsimp only
    repeat' first
      | with_reducible assumption | with_reducible apply KeepsR.next | with_reducible apply KeepsR.fault
      | with_reducible apply KeepsR.atPlace | with_reducible apply KeepsO.some | with_reducible apply KeepsO.none
      | with_reducible apply KeepsO.getD | with_reducible apply compRun_keeps | with_reducible apply Keeps.foldl
      | with_reducible apply Keeps.foldlFst | with_reducible apply Keeps.foldlSnd
      | ((with_reducible apply Same.mk) <;> first | exact no ‹_› | exact fun _ => rfl) | intro _ | split | assumption
      | with_reducible apply Keeps.sends | fail_if_no_progress with_reducible apply Keeps.update

theorem cmdMaskdrop_keeps {pt : Parts}  (x_tiles : pt.tiles = false := by assumption) : CmdKeeps pt (cmdMaskdrop) where
  run := by
    intro a s n st x h
    unfold cmdMaskdrop
    try dsimp only
    repeat' first
      | with_reducible assumption | with_reducible apply KeepsR.next | with_reducible apply KeepsR.fault
      | with_reducible apply KeepsR.atPlace | with_reducible apply KeepsO.some | with_reducible apply KeepsO.none
      | with_reducible apply KeepsO.getD | with_reducible apply State.setEntry_keeps | with_reducible apply Keeps.foldl
      | with_reducible apply Keeps.foldlFst | with_reducible apply Keeps.foldlSnd
      | ((with_reducible apply Same.mk) <;> first | exact no ‹_› | exact fun _ => rfl) | intro _ | split | assumption
      | with_reducible apply Keeps.sends | fail_if_no_progress with_reducible apply Keeps.update
  ask := by
    intro f e a s n st x h
    unfold cmdMaskdrop at e
    try dsimp only at e
    first
      | (cases e; done)
      | skip
    try (cases e; try dsimp only)
    repeat' first
      | with_reducible assumption | with_reducible apply KeepsR.next | with_reducible apply KeepsR.fault
      | with_reducible apply KeepsR.atPlace | with_reducible apply KeepsO.some | with_reducible apply KeepsO.none
      | with_reducible apply KeepsO.getD | with_reducible apply State.setEntry_keeps | with_reducible apply Keeps.foldl
      | with_reducible apply Keeps.foldlFst | with_reducible apply Keeps.foldlSnd
      | ((with_reducible apply Same.mk) <;> first | exact no ‹_› | exact fun _ => rfl) | intro _ | split | assumption
      | with_reducible apply Keeps.sends | fail_if_no_progress with_reducible apply Keeps.update

theorem cmdMaskdrop_ends {pt : Parts}   : CmdEnds pt (cmdMaskdrop) where
  finish := by
    intro a s n st x h
    unfold cmdMaskdrop
    try dsimp only
    repeat' first
      | with_reducible assumption | with_reducible apply KeepsR.next | with_reducible apply KeepsR.fault
      | with_reducible apply KeepsR.atPlace | with_reducible apply KeepsO.some | with_reducible apply KeepsO.none
      | with_reducible apply KeepsO.getD | with_reducible apply State.setEntry_keeps | with_reducible apply Keeps.foldl
      | with_reducible apply Keeps.foldlFst | with_reducible apply Keeps.foldlSnd
      | ((with_reducible apply Same.mk) <;> first | exact no ‹_› | exact fun _ => rfl) | intro _ | split | assumption
      | with_reducible apply Keeps.sends | fail_if_no_progress with_reducible apply Keeps.update

theorem cmdStash_keeps {pt : Parts}  (x_tiles : pt.tiles = false := by assumption) : CmdKeeps pt (cmdStash) where
  run := by
    intro a s n st x h
    unfold cmdStash
    try dsimp only
    repeat' first
      | with_reducible assumption | with_reducible apply KeepsR.next | with_reducible apply KeepsR.fault
      | with_reducible apply KeepsR.atPlace | with_reducible apply KeepsO.some | with_reducible apply KeepsO.none
      | with_reducible apply KeepsO.getD | with_reducible apply State.setEntry_keeps | with_reducible apply Keeps.foldl
      | with_reducible apply Keeps.foldlFst | with_reducible apply Keeps.foldlSnd
      | ((with_reducible apply Same.mk) <;> first | exact no ‹_› | exact fun _ => rfl) | intro _ | split | assumption
      | with_reducible apply Keeps.sends | fail_if_no_progress with_reducible apply Keeps.update
  ask := by
    intro f e a s n st x h
    unfold cmdStash at e
    try dsimp only at e
    first
      | (cases e; done)
      | skip
    try (cases e; try dsimp only)
    repeat' first
      | with_reducible assumption | with_reducible apply KeepsR.next | with_reducible apply KeepsR.fault
      | with_reducible apply KeepsR.atPlace | with_reducible apply KeepsO.some | with_reducible apply KeepsO.none
      | with_reducible apply KeepsO.getD | with_reducible apply State.setEntry_keeps | with_reducible apply Keeps.foldl
      | with_reducible apply Keeps.foldlFst | with_reducible apply Keeps.foldlSnd
      | ((with_reducible apply Same.mk) <;> first | exact no ‹_› | exact fun _ => rfl) | intro _ | split | assumption
      | with_reducible apply Keeps.sends | fail_if_no_progress with_reducible apply Keeps.update

theorem cmdStash_ends {pt : Parts}   : CmdEnds pt (cmdStash) where
  finish := by
    intro a s n st x h
    unfold cmdStash
    try dsimp only
    repeat' first
      | with_reducible assumption | with_reducible apply KeepsR.next | with_reducible apply KeepsR.fault
      | with_reducible apply KeepsR.atPlace | with_reducible apply KeepsO.some | with_reducible apply KeepsO.none
      | with_reducible apply KeepsO.getD | with_reducible apply State.setEntry_keeps | with_reducible apply Keeps.foldl
      | with_reducible apply Keeps.foldlFst | with_reducible apply Keeps.foldlSnd
      | ((with_reducible apply Same.mk) <;> first | exact no ‹_› | exact fun _ => rfl) | intro _ | split | assumption
      | with_reducible apply Keeps.sends | fail_if_no_progress with_reducible apply Keeps.update

theorem cmdPredld_keeps {pt : Parts}  (x_tiles : pt.tiles = false := by assumption) : CmdKeeps pt (cmdPredld) where
  run := by
    intro a s n st x h
    unfold cmdPredld
    try dsimp only
    repeat' first
      | with_reducible assumption | with_reducible apply KeepsR.next | with_reducible apply KeepsR.fault
      | with_reducible apply KeepsR.atPlace | with_reducible apply KeepsO.some | with_reducible apply KeepsO.none
      | with_reducible apply KeepsO.getD | with_reducible apply State.setEntry_keeps | with_reducible apply Keeps.foldl
      | with_reducible apply Keeps.foldlFst | with_reducible apply Keeps.foldlSnd
      | ((with_reducible apply Same.mk) <;> first | exact no ‹_› | exact fun _ => rfl) | intro _ | split | assumption
      | with_reducible apply Keeps.sends | fail_if_no_progress with_reducible apply Keeps.update
  ask := by
    intro f e a s n st x h
    unfold cmdPredld at e
    try dsimp only at e
    first
      | (cases e; done)
      | skip
    try (cases e; try dsimp only)
    repeat' first
      | with_reducible assumption | with_reducible apply KeepsR.next | with_reducible apply KeepsR.fault
      | with_reducible apply KeepsR.atPlace | with_reducible apply KeepsO.some | with_reducible apply KeepsO.none
      | with_reducible apply KeepsO.getD | with_reducible apply State.setEntry_keeps | with_reducible apply Keeps.foldl
      | with_reducible apply Keeps.foldlFst | with_reducible apply Keeps.foldlSnd
      | ((with_reducible apply Same.mk) <;> first | exact no ‹_› | exact fun _ => rfl) | intro _ | split | assumption
      | with_reducible apply Keeps.sends | fail_if_no_progress with_reducible apply Keeps.update

theorem cmdPredld_ends {pt : Parts}   : CmdEnds pt (cmdPredld) where
  finish := by
    intro a s n st x h
    unfold cmdPredld
    try dsimp only
    repeat' first
      | with_reducible assumption | with_reducible apply KeepsR.next | with_reducible apply KeepsR.fault
      | with_reducible apply KeepsR.atPlace | with_reducible apply KeepsO.some | with_reducible apply KeepsO.none
      | with_reducible apply KeepsO.getD | with_reducible apply State.setEntry_keeps | with_reducible apply Keeps.foldl
      | with_reducible apply Keeps.foldlFst | with_reducible apply Keeps.foldlSnd
      | ((with_reducible apply Same.mk) <;> first | exact no ‹_› | exact fun _ => rfl) | intro _ | split | assumption
      | with_reducible apply Keeps.sends | fail_if_no_progress with_reducible apply Keeps.update

end Sys2Proof.Machine
end

