-- ==== Sys2Proof/Laws/KeepUpdate.lean ====
section
/-!
SUPPORT. What the operations of Machine/Update.lean keep (Laws/Keeps.lean).
-/
namespace Sys2Proof.Machine

set_option linter.unusedTactic false
set_option linter.unreachableTactic false
set_option Elab.async false

theorem cmdOptcfg_keeps {pt : Parts}  (x_tiles : pt.tiles = false := by assumption) : CmdKeeps pt (cmdOptcfg) where
  run := by
    intro a s n st x h
    unfold cmdOptcfg
    try dsimp only
    repeat' first
      | with_reducible assumption | with_reducible apply KeepsR.next | with_reducible apply KeepsR.fault
      | with_reducible apply KeepsR.atPlace | with_reducible apply KeepsO.some | with_reducible apply KeepsO.none
      | with_reducible apply KeepsO.getD | with_reducible apply State.setEntry_keeps | with_reducible apply Keeps.foldl
      | with_reducible apply Keeps.foldlFst | with_reducible apply Keeps.foldlSnd
      | ((with_reducible apply Same.mk) <;> first | exact no ‹_› | exact fun _ => rfl) | intro _ | split | assumption
      | with_reducible apply Keeps.sends | fail_if_no_progress with_reducible apply Keeps.update
  ask := by
    intro f e a s n st x h
    unfold cmdOptcfg at e
    try dsimp only at e
    first
      | (cases e; done)
      | skip
    try (cases e; try dsimp only)
    repeat' first
      | with_reducible assumption | with_reducible apply KeepsR.next | with_reducible apply KeepsR.fault
      | with_reducible apply KeepsR.atPlace | with_reducible apply KeepsO.some | with_reducible apply KeepsO.none
      | with_reducible apply KeepsO.getD | with_reducible apply State.setEntry_keeps | with_reducible apply Keeps.foldl
      | with_reducible apply Keeps.foldlFst | with_reducible apply Keeps.foldlSnd
      | ((with_reducible apply Same.mk) <;> first | exact no ‹_› | exact fun _ => rfl) | intro _ | split | assumption
      | with_reducible apply Keeps.sends | fail_if_no_progress with_reducible apply Keeps.update

theorem cmdOptcfg_ends {pt : Parts}   : CmdEnds pt (cmdOptcfg) where
  finish := by
    intro a s n st x h
    unfold cmdOptcfg
    try dsimp only
    repeat' first
      | with_reducible assumption | with_reducible apply KeepsR.next | with_reducible apply KeepsR.fault
      | with_reducible apply KeepsR.atPlace | with_reducible apply KeepsO.some | with_reducible apply KeepsO.none
      | with_reducible apply KeepsO.getD | with_reducible apply State.setEntry_keeps | with_reducible apply Keeps.foldl
      | with_reducible apply Keeps.foldlFst | with_reducible apply Keeps.foldlSnd
      | ((with_reducible apply Same.mk) <;> first | exact no ‹_› | exact fun _ => rfl) | intro _ | split | assumption
      | with_reducible apply Keeps.sends | fail_if_no_progress with_reducible apply Keeps.update

theorem cmdOptstep_keeps {pt : Parts}  (x_tiles : pt.tiles = false := by assumption) : CmdKeeps pt (cmdOptstep) where
  run := by
    intro a s n st x h
    unfold cmdOptstep
    try dsimp only
    repeat' first
      | with_reducible assumption | with_reducible apply KeepsR.next | with_reducible apply KeepsR.fault
      | with_reducible apply KeepsR.atPlace | with_reducible apply KeepsO.some | with_reducible apply KeepsO.none
      | with_reducible apply KeepsO.getD | with_reducible apply State.modTile_keeps | with_reducible apply State.setEntry_keeps
      | with_reducible apply Keeps.foldl | with_reducible apply Keeps.foldlFst | with_reducible apply Keeps.foldlSnd
      | ((with_reducible apply Same.mk) <;> first | exact no ‹_› | exact fun _ => rfl) | intro _ | split | assumption
      | with_reducible apply Keeps.sends | fail_if_no_progress with_reducible apply Keeps.update
  ask := by
    intro f e a s n st x h
    unfold cmdOptstep at e
    try dsimp only at e
    first
      | (cases e; done)
      | skip
    try (cases e; try dsimp only)
    repeat' first
      | with_reducible assumption | with_reducible apply KeepsR.next | with_reducible apply KeepsR.fault
      | with_reducible apply KeepsR.atPlace | with_reducible apply KeepsO.some | with_reducible apply KeepsO.none
      | with_reducible apply KeepsO.getD | with_reducible apply State.modTile_keeps | with_reducible apply State.setEntry_keeps
      | with_reducible apply Keeps.foldl | with_reducible apply Keeps.foldlFst | with_reducible apply Keeps.foldlSnd
      | ((with_reducible apply Same.mk) <;> first | exact no ‹_› | exact fun _ => rfl) | intro _ | split | assumption
      | with_reducible apply Keeps.sends | fail_if_no_progress with_reducible apply Keeps.update

theorem cmdOptstep_ends {pt : Parts}  (x_tiles : pt.tiles = false := by assumption) : CmdEnds pt (cmdOptstep) where
  finish := by
    intro a s n st x h
    unfold cmdOptstep
    try dsimp only
    repeat' first
      | with_reducible assumption | with_reducible apply KeepsR.next | with_reducible apply KeepsR.fault
      | with_reducible apply KeepsR.atPlace | with_reducible apply KeepsO.some | with_reducible apply KeepsO.none
      | with_reducible apply KeepsO.getD | with_reducible apply State.modTile_keeps | with_reducible apply State.setEntry_keeps
      | with_reducible apply Keeps.foldl | with_reducible apply Keeps.foldlFst | with_reducible apply Keeps.foldlSnd
      | ((with_reducible apply Same.mk) <;> first | exact no ‹_› | exact fun _ => rfl) | intro _ | split | assumption
      | with_reducible apply Keeps.sends | fail_if_no_progress with_reducible apply Keeps.update

theorem cmdAmaxstep_keeps {pt : Parts}  (x_tiles : pt.tiles = false := by assumption) : CmdKeeps pt (cmdAmaxstep) where
  run := by
    intro a s n st x h
    unfold cmdAmaxstep
    try dsimp only
    repeat' first
      | with_reducible assumption | with_reducible apply KeepsR.next | with_reducible apply KeepsR.fault
      | with_reducible apply KeepsR.atPlace | with_reducible apply KeepsO.some | with_reducible apply KeepsO.none
      | with_reducible apply KeepsO.getD | with_reducible apply State.free_keeps | with_reducible apply State.setEntry_keeps
      | with_reducible apply Keeps.foldl | with_reducible apply Keeps.foldlFst | with_reducible apply Keeps.foldlSnd
      | ((with_reducible apply Same.mk) <;> first | exact no ‹_› | exact fun _ => rfl) | intro _ | split | assumption
      | with_reducible apply Keeps.sends | fail_if_no_progress with_reducible apply Keeps.update
  ask := by
    intro f e a s n st x h
    unfold cmdAmaxstep at e
    try dsimp only at e
    first
      | (cases e; done)
      | skip
    try (cases e; try dsimp only)
    repeat' first
      | with_reducible assumption | with_reducible apply KeepsR.next | with_reducible apply KeepsR.fault
      | with_reducible apply KeepsR.atPlace | with_reducible apply KeepsO.some | with_reducible apply KeepsO.none
      | with_reducible apply KeepsO.getD | with_reducible apply State.free_keeps | with_reducible apply State.setEntry_keeps
      | with_reducible apply Keeps.foldl | with_reducible apply Keeps.foldlFst | with_reducible apply Keeps.foldlSnd
      | ((with_reducible apply Same.mk) <;> first | exact no ‹_› | exact fun _ => rfl) | intro _ | split | assumption
      | with_reducible apply Keeps.sends | fail_if_no_progress with_reducible apply Keeps.update

theorem cmdAmaxstep_ends {pt : Parts}   : CmdEnds pt (cmdAmaxstep) where
  finish := by
    intro a s n st x h
    unfold cmdAmaxstep
    try dsimp only
    repeat' first
      | with_reducible assumption | with_reducible apply KeepsR.next | with_reducible apply KeepsR.fault
      | with_reducible apply KeepsR.atPlace | with_reducible apply KeepsO.some | with_reducible apply KeepsO.none
      | with_reducible apply KeepsO.getD | with_reducible apply State.free_keeps | with_reducible apply State.setEntry_keeps
      | with_reducible apply Keeps.foldl | with_reducible apply Keeps.foldlFst | with_reducible apply Keeps.foldlSnd
      | ((with_reducible apply Same.mk) <;> first | exact no ‹_› | exact fun _ => rfl) | intro _ | split | assumption
      | with_reducible apply Keeps.sends | fail_if_no_progress with_reducible apply Keeps.update

theorem cmdSnap_keeps {pt : Parts}  (x_tiles : pt.tiles = false := by assumption) : CmdKeeps pt (cmdSnap) where
  run := by
    intro a s n st x h
    unfold cmdSnap
    try dsimp only
    repeat' first
      | with_reducible assumption | with_reducible apply KeepsR.next | with_reducible apply KeepsR.fault
      | with_reducible apply KeepsR.atPlace | with_reducible apply KeepsO.some | with_reducible apply KeepsO.none
      | with_reducible apply KeepsO.getD | with_reducible apply State.setEntry_keeps | with_reducible apply Keeps.foldl
      | with_reducible apply Keeps.foldlFst | with_reducible apply Keeps.foldlSnd
      | ((with_reducible apply Same.mk) <;> first | exact no ‹_› | exact fun _ => rfl) | intro _ | split | assumption
      | with_reducible apply Keeps.sends | fail_if_no_progress with_reducible apply Keeps.update
  ask := by
    intro f e a s n st x h
    unfold cmdSnap at e
    try dsimp only at e
    first
      | (cases e; done)
      | skip
    try (cases e; try dsimp only)
    repeat' first
      | with_reducible assumption | with_reducible apply KeepsR.next | with_reducible apply KeepsR.fault
      | with_reducible apply KeepsR.atPlace | with_reducible apply KeepsO.some | with_reducible apply KeepsO.none
      | with_reducible apply KeepsO.getD | with_reducible apply State.setEntry_keeps | with_reducible apply Keeps.foldl
      | with_reducible apply Keeps.foldlFst | with_reducible apply Keeps.foldlSnd
      | ((with_reducible apply Same.mk) <;> first | exact no ‹_› | exact fun _ => rfl) | intro _ | split | assumption
      | with_reducible apply Keeps.sends | fail_if_no_progress with_reducible apply Keeps.update

theorem cmdSnap_ends {pt : Parts}  (x_snaps : pt.snaps = false := by assumption) : CmdEnds pt (cmdSnap) where
  finish := by
    intro a s n st x h
    unfold cmdSnap
    try dsimp only
    repeat' first
      | with_reducible assumption | with_reducible apply KeepsR.next | with_reducible apply KeepsR.fault
      | with_reducible apply KeepsR.atPlace | with_reducible apply KeepsO.some | with_reducible apply KeepsO.none
      | with_reducible apply KeepsO.getD | with_reducible apply State.setEntry_keeps | with_reducible apply Keeps.foldl
      | with_reducible apply Keeps.foldlFst | with_reducible apply Keeps.foldlSnd
      | ((with_reducible apply Same.mk) <;> first | exact no ‹_› | exact fun _ => rfl) | intro _ | split | assumption
      | with_reducible apply Keeps.sends | fail_if_no_progress with_reducible apply Keeps.update

theorem State.shipTo_keeps {pt : Parts} {a : State} (s : State) (leader : Nat) (sn : Snap) (off : Nat) (bytes : List Byte) (h :
    Keeps pt a s) (x_tiles : pt.tiles = false := by assumption) (x_ctxs : pt.ctxs = false := by assumption) (x_mem : pt.mem =
    false := by assumption) (x_bad : pt.bad = false := by assumption) (x_net : pt.net = false := by assumption) (x_snaps :
    pt.snaps = false := by assumption) (x_trouble : pt.trouble = false := by assumption) (x_ports : pt.ports = false := by
    assumption) (x_fabric : pt.fabric = false := by assumption) (x_sent : pt.sent = false := by assumption) :
        Keeps pt a (State.shipTo s leader sn off bytes) := by
  unfold State.shipTo
  try dsimp only
  repeat' first
    | with_reducible assumption | with_reducible apply KeepsR.next | with_reducible apply KeepsR.fault
    | with_reducible apply KeepsR.atPlace | with_reducible apply KeepsO.some | with_reducible apply KeepsO.none
    | with_reducible apply KeepsO.getD | with_reducible apply State.storeTo_keeps | with_reducible apply Keeps.foldl
    | with_reducible apply Keeps.foldlFst | with_reducible apply Keeps.foldlSnd
    | ((with_reducible apply Same.mk) <;> first | exact no ‹_› | exact fun _ => rfl) | intro _ | split | assumption
    | with_reducible apply Keeps.sends | fail_if_no_progress with_reducible apply Keeps.update

theorem execSnapShip_keeps {pt : Parts} {a : State} (team : Nat) (s : State) (h : Keeps pt a s) (x_tiles : pt.tiles = false := by
    assumption) (x_ctxs : pt.ctxs = false := by assumption) (x_mem : pt.mem = false := by assumption) (x_bad : pt.bad = false :=
    by assumption) (x_net : pt.net = false := by assumption) (x_snaps : pt.snaps = false := by assumption) (x_trouble : pt.trouble
    = false := by assumption) (x_ports : pt.ports = false := by assumption) (x_fabric : pt.fabric = false := by assumption)
    (x_sent : pt.sent = false := by assumption) :
        KeepsR pt a (execSnapShip team s) := by
  unfold execSnapShip
  try dsimp only
  repeat' first
    | with_reducible assumption | with_reducible apply KeepsR.next | with_reducible apply KeepsR.fault
    | with_reducible apply KeepsR.atPlace | with_reducible apply KeepsO.some | with_reducible apply KeepsO.none
    | with_reducible apply KeepsO.getD | with_reducible apply State.ueError_keeps | with_reducible apply State.signalFrom_keeps
    | with_reducible apply State.shipTo_keeps | with_reducible apply Keeps.foldl | with_reducible apply Keeps.foldlFst
    | with_reducible apply Keeps.foldlSnd | ((with_reducible apply Same.mk) <;> first | exact no ‹_› | exact fun _ => rfl)
    | intro _ | split | assumption | with_reducible apply Keeps.sends | fail_if_no_progress with_reducible apply Keeps.update

end Sys2Proof.Machine
end

