-- ==== Sys2Proof/Laws/KeepAtomics.lean ====
section
/-!
SUPPORT. What the operations of Machine/Atomics.lean keep (Laws/Keeps.lean).
-/
namespace Sys2Proof.Machine

set_option linter.unusedTactic false
set_option linter.unreachableTactic false
set_option Elab.async false

theorem State.countVary_keeps {pt : Parts} {a : State} (s : State) (p : Packet) (die : Nat) (a0 : Nat) (n : Nat) (h : Keeps pt a
    s) (x_ctxs : pt.ctxs = false := by assumption) :
        Keeps pt a (State.countVary s p die a0 n) := by
  unfold State.countVary
  try dsimp only
  repeat' first
    | with_reducible assumption | with_reducible apply KeepsR.next | with_reducible apply KeepsR.fault
    | with_reducible apply KeepsR.atPlace | with_reducible apply KeepsO.some | with_reducible apply KeepsO.none
    | with_reducible apply KeepsO.getD | with_reducible apply State.bumpVary_keeps | with_reducible apply Keeps.foldl
    | with_reducible apply Keeps.foldlFst | with_reducible apply Keeps.foldlSnd
    | ((with_reducible apply Same.mk) <;> first | exact no ‹_› | exact fun _ => rfl) | intro _ | split | assumption
    | with_reducible apply Keeps.sends | fail_if_no_progress with_reducible apply Keeps.update

theorem State.countForeign_keeps {pt : Parts} {a : State} (s : State) (m : Msg) (c : Nat) (h : Keeps pt a s) (x_ctxs : pt.ctxs =
    false := by assumption) :
        Keeps pt a (State.countForeign s m c) := by
  unfold State.countForeign
  try dsimp only
  repeat' first
    | with_reducible assumption | with_reducible apply KeepsR.next | with_reducible apply KeepsR.fault
    | with_reducible apply KeepsR.atPlace | with_reducible apply KeepsO.some | with_reducible apply KeepsO.none
    | with_reducible apply KeepsO.getD | with_reducible apply State.free_keeps | with_reducible apply State.bumpVary_keeps
    | with_reducible apply Keeps.foldl | with_reducible apply Keeps.foldlFst | with_reducible apply Keeps.foldlSnd
    | ((with_reducible apply Same.mk) <;> first | exact no ‹_› | exact fun _ => rfl) | intro _ | split | assumption
    | with_reducible apply Keeps.sends | fail_if_no_progress with_reducible apply Keeps.update

theorem State.hotLine_keeps {pt : Parts} {a : State} (s : State) (a0 : Nat) (n : Nat) (h : Keeps pt a s) (x_fabric : pt.fabric =
    false := by assumption) :
        Keeps pt a (State.hotLine s a0 n) := by
  unfold State.hotLine
  try dsimp only
  repeat' first
    | with_reducible assumption | with_reducible apply KeepsR.next | with_reducible apply KeepsR.fault
    | with_reducible apply KeepsR.atPlace | with_reducible apply KeepsO.some | with_reducible apply KeepsO.none
    | with_reducible apply KeepsO.getD | with_reducible apply Keeps.foldl | with_reducible apply Keeps.foldlFst
    | with_reducible apply Keeps.foldlSnd | ((with_reducible apply Same.mk) <;> first | exact no ‹_› | exact fun _ => rfl)
    | intro _ | split | assumption | with_reducible apply Keeps.sends | fail_if_no_progress with_reducible apply Keeps.update

theorem State.atomApply_keeps {pt : Parts} {a : State} (s : State) (w : Writer) (op : AtomOp) (ty : Nat) (a0 : Nat) (operand :
    Nat) (compare : Nat) (h : Keeps pt a s) (x_tiles : pt.tiles = false := by assumption) (x_mem : pt.mem = false := by
    assumption) (x_bad : pt.bad = false := by assumption) (x_snaps : pt.snaps = false := by assumption) :
        Keeps pt a (State.atomApply s w op ty a0 operand compare).2 := by
  unfold State.atomApply
  try dsimp only
  repeat' first
    | with_reducible assumption | with_reducible apply KeepsR.next | with_reducible apply KeepsR.fault
    | with_reducible apply KeepsR.atPlace | with_reducible apply KeepsO.some | with_reducible apply KeepsO.none
    | with_reducible apply KeepsO.getD | with_reducible apply State.write_keeps | with_reducible apply Keeps.foldl
    | with_reducible apply Keeps.foldlFst | with_reducible apply Keeps.foldlSnd
    | ((with_reducible apply Same.mk) <;> first | exact no ‹_› | exact fun _ => rfl) | intro _ | split | assumption
    | with_reducible apply Keeps.sends | fail_if_no_progress with_reducible apply Keeps.update

theorem execAtomicAtHome_keeps {pt : Parts} {a : State} (k : Nat) (ecc : Ecc) (s : State) (h : Keeps pt a s) (x_tiles : pt.tiles =
    false := by assumption) (x_ctxs : pt.ctxs = false := by assumption) (x_mem : pt.mem = false := by assumption) (x_bad : pt.bad
    = false := by assumption) (x_net : pt.net = false := by assumption) (x_snaps : pt.snaps = false := by assumption) (x_trouble :
    pt.trouble = false := by assumption) (x_ports : pt.ports = false := by assumption) (x_fabric : pt.fabric = false := by
    assumption) :
        KeepsR pt a (execAtomicAtHome k ecc s) := by
  unfold execAtomicAtHome
  try dsimp only
  repeat' first
    | with_reducible assumption | with_reducible apply KeepsR.next | with_reducible apply KeepsR.fault
    | with_reducible apply KeepsR.atPlace | with_reducible apply KeepsO.some | with_reducible apply KeepsO.none
    | with_reducible apply KeepsO.getD | with_reducible apply State.eccCheck_keeps | with_reducible apply State.reply_keeps
    | with_reducible apply onPacket_keeps | with_reducible apply State.ueFor_keeps | with_reducible apply State.countVary_keeps
    | with_reducible apply State.hotLine_keeps | with_reducible apply State.atomApply_keeps | with_reducible apply Keeps.foldl
    | with_reducible apply Keeps.foldlFst | with_reducible apply Keeps.foldlSnd
    | ((with_reducible apply Same.mk) <;> first | exact no ‹_› | exact fun _ => rfl) | intro _ | split | assumption
    | with_reducible apply Keeps.sends | fail_if_no_progress with_reducible apply Keeps.update

theorem atomRun_keeps {pt : Parts} {a : State} (s : State) (n : Nat) (st : Stream) (x : Entry) (h : Keeps pt a s) (x_tiles :
    pt.tiles = false := by assumption) (x_net : pt.net = false := by assumption) (x_trouble : pt.trouble = false := by assumption)
    (x_ports : pt.ports = false := by assumption) (x_fabric : pt.fabric = false := by assumption) :
        Keeps pt a (atomRun s n st x) := by
  unfold atomRun
  try dsimp only
  repeat' first
    | with_reducible assumption | with_reducible apply KeepsR.next | with_reducible apply KeepsR.fault
    | with_reducible apply KeepsR.atPlace | with_reducible apply KeepsO.some | with_reducible apply KeepsO.none
    | with_reducible apply KeepsO.getD | with_reducible apply State.fresh_keeps | with_reducible apply State.setEntry_keeps
    | with_reducible apply State.owe_keeps | with_reducible apply State.request_keeps | with_reducible apply State.cmdSend_keeps
    | with_reducible apply Keeps.foldl | with_reducible apply Keeps.foldlFst | with_reducible apply Keeps.foldlSnd
    | ((with_reducible apply Same.mk) <;> first | exact no ‹_› | exact fun _ => rfl) | intro _ | split | assumption
    | with_reducible apply Keeps.sends | fail_if_no_progress with_reducible apply Keeps.update

theorem cmdAtomic_keeps {pt : Parts}  (x_tiles : pt.tiles = false := by assumption) (x_net : pt.net = false := by assumption)
    (x_trouble : pt.trouble = false := by assumption) (x_ports : pt.ports = false := by assumption) (x_fabric : pt.fabric = false
    := by assumption) : CmdKeeps pt (cmdAtomic) where
  run := by
    intro a s n st x h
    unfold cmdAtomic
    try dsimp only
    repeat' first
      | with_reducible assumption | with_reducible apply KeepsR.next | with_reducible apply KeepsR.fault
      | with_reducible apply KeepsR.atPlace | with_reducible apply KeepsO.some | with_reducible apply KeepsO.none
      | with_reducible apply KeepsO.getD | with_reducible apply atomRun_keeps | with_reducible apply Keeps.foldl
      | with_reducible apply Keeps.foldlFst | with_reducible apply Keeps.foldlSnd
      | ((with_reducible apply Same.mk) <;> first | exact no ‹_› | exact fun _ => rfl) | intro _ | split | assumption
      | with_reducible apply Keeps.sends | fail_if_no_progress with_reducible apply Keeps.update
  ask := by
    intro f e a s n st x h
    unfold cmdAtomic at e
    try dsimp only at e
    first
      | (cases e; done)
      | skip
    try (cases e; try dsimp only)
    repeat' first
      | with_reducible assumption | with_reducible apply KeepsR.next | with_reducible apply KeepsR.fault
      | with_reducible apply KeepsR.atPlace | with_reducible apply KeepsO.some | with_reducible apply KeepsO.none
      | with_reducible apply KeepsO.getD | with_reducible apply atomRun_keeps | with_reducible apply Keeps.foldl
      | with_reducible apply Keeps.foldlFst | with_reducible apply Keeps.foldlSnd
      | ((with_reducible apply Same.mk) <;> first | exact no ‹_› | exact fun _ => rfl) | intro _ | split | assumption
      | with_reducible apply Keeps.sends | fail_if_no_progress with_reducible apply Keeps.update

theorem cmdAtomic_ends {pt : Parts}   : CmdEnds pt (cmdAtomic) where
  finish := by
    intro a s n st x h
    unfold cmdAtomic
    try dsimp only
    repeat' first
      | with_reducible assumption | with_reducible apply KeepsR.next | with_reducible apply KeepsR.fault
      | with_reducible apply KeepsR.atPlace | with_reducible apply KeepsO.some | with_reducible apply KeepsO.none
      | with_reducible apply KeepsO.getD | with_reducible apply atomRun_keeps | with_reducible apply Keeps.foldl
      | with_reducible apply Keeps.foldlFst | with_reducible apply Keeps.foldlSnd
      | ((with_reducible apply Same.mk) <;> first | exact no ‹_› | exact fun _ => rfl) | intro _ | split | assumption
      | with_reducible apply Keeps.sends | fail_if_no_progress with_reducible apply Keeps.update

end Sys2Proof.Machine
end

