-- ==== Sys2Proof/Laws/KeepPools.lean ====
section
/-!
SUPPORT. What the operations of Machine/Pools.lean keep (Laws/Keeps.lean).
-/
namespace Sys2Proof.Machine

set_option linter.unusedTactic false
set_option linter.unreachableTactic false
set_option Elab.async false

theorem State.setPool_keeps {pt : Parts} {a : State} (s : State) (shared : Bool) (tile : Nat) (k : Nat) (p : Pool) (h : Keeps pt a
    s) (x_tiles : pt.tiles = false := by assumption) (x_pools : pt.pools = false := by assumption) :
        Keeps pt a (State.setPool s shared tile k p) := by
  unfold State.setPool
  try dsimp only
  repeat' first
    | with_reducible assumption | with_reducible apply KeepsR.next | with_reducible apply KeepsR.fault
    | with_reducible apply KeepsR.atPlace | with_reducible apply KeepsO.some | with_reducible apply KeepsO.none
    | with_reducible apply KeepsO.getD | with_reducible apply State.modTile_keeps | with_reducible apply Keeps.foldl
    | with_reducible apply Keeps.foldlFst | with_reducible apply Keeps.foldlSnd
    | ((with_reducible apply Same.mk) <;> first | exact no ‹_› | exact fun _ => rfl) | intro _ | split | assumption
    | with_reducible apply Keeps.sends | fail_if_no_progress with_reducible apply Keeps.update

theorem poolAsk_keeps {pt : Parts} {a : State} (s : State) (n : Nat) (st : Stream) (x : Entry) (h : Keeps pt a s) (x_tiles :
    pt.tiles = false := by assumption) (x_net : pt.net = false := by assumption) :
        Keeps pt a (poolAsk s n st x) := by
  unfold poolAsk
  try dsimp only
  repeat' first
    | with_reducible assumption | with_reducible apply KeepsR.next | with_reducible apply KeepsR.fault
    | with_reducible apply KeepsR.atPlace | with_reducible apply KeepsO.some | with_reducible apply KeepsO.none
    | with_reducible apply KeepsO.getD | with_reducible apply State.setEntry_keeps | with_reducible apply State.cmdSend_keeps
    | with_reducible apply Keeps.foldl | with_reducible apply Keeps.foldlFst | with_reducible apply Keeps.foldlSnd
    | ((with_reducible apply Same.mk) <;> first | exact no ‹_› | exact fun _ => rfl) | intro _ | split | assumption
    | with_reducible apply Keeps.sends | fail_if_no_progress with_reducible apply Keeps.update

theorem cmdPoolget_keeps {pt : Parts}  (x_tiles : pt.tiles = false := by assumption) (x_net : pt.net = false := by assumption) :
    CmdKeeps pt (cmdPoolget) where
  run := by
    intro a s n st x h
    unfold cmdPoolget
    try dsimp only
    repeat' first
      | with_reducible assumption | with_reducible apply KeepsR.next | with_reducible apply KeepsR.fault
      | with_reducible apply KeepsR.atPlace | with_reducible apply KeepsO.some | with_reducible apply KeepsO.none
      | with_reducible apply KeepsO.getD | with_reducible apply State.setEntry_keeps | with_reducible apply poolAsk_keeps
      | with_reducible apply Keeps.foldl | with_reducible apply Keeps.foldlFst | with_reducible apply Keeps.foldlSnd
      | ((with_reducible apply Same.mk) <;> first | exact no ‹_› | exact fun _ => rfl) | intro _ | split | assumption
      | with_reducible apply Keeps.sends | fail_if_no_progress with_reducible apply Keeps.update
  ask := by
    intro f e a s n st x h
    unfold cmdPoolget at e
    try dsimp only at e
    first
      | (cases e; done)
      | skip
    try (cases e; try dsimp only)
    repeat' first
      | with_reducible assumption | with_reducible apply KeepsR.next | with_reducible apply KeepsR.fault
      | with_reducible apply KeepsR.atPlace | with_reducible apply KeepsO.some | with_reducible apply KeepsO.none
      | with_reducible apply KeepsO.getD | with_reducible apply State.setEntry_keeps | with_reducible apply poolAsk_keeps
      | with_reducible apply Keeps.foldl | with_reducible apply Keeps.foldlFst | with_reducible apply Keeps.foldlSnd
      | ((with_reducible apply Same.mk) <;> first | exact no ‹_› | exact fun _ => rfl) | intro _ | split | assumption
      | with_reducible apply Keeps.sends | fail_if_no_progress with_reducible apply Keeps.update

theorem cmdPoolget_ends {pt : Parts}   : CmdEnds pt (cmdPoolget) where
  finish := by
    intro a s n st x h
    unfold cmdPoolget
    try dsimp only
    repeat' first
      | with_reducible assumption | with_reducible apply KeepsR.next | with_reducible apply KeepsR.fault
      | with_reducible apply KeepsR.atPlace | with_reducible apply KeepsO.some | with_reducible apply KeepsO.none
      | with_reducible apply KeepsO.getD | with_reducible apply State.setEntry_keeps | with_reducible apply poolAsk_keeps
      | with_reducible apply Keeps.foldl | with_reducible apply Keeps.foldlFst | with_reducible apply Keeps.foldlSnd
      | ((with_reducible apply Same.mk) <;> first | exact no ‹_› | exact fun _ => rfl) | intro _ | split | assumption
      | with_reducible apply Keeps.sends | fail_if_no_progress with_reducible apply Keeps.update

theorem cmdPoolput_keeps {pt : Parts}  (x_tiles : pt.tiles = false := by assumption) (x_net : pt.net = false := by assumption) :
    CmdKeeps pt (cmdPoolput) where
  run := by
    intro a s n st x h
    unfold cmdPoolput
    try dsimp only
    repeat' first
      | with_reducible assumption | with_reducible apply KeepsR.next | with_reducible apply KeepsR.fault
      | with_reducible apply KeepsR.atPlace | with_reducible apply KeepsO.some | with_reducible apply KeepsO.none
      | with_reducible apply KeepsO.getD | with_reducible apply State.fresh_keeps | with_reducible apply State.setEntry_keeps
      | with_reducible apply State.cmdSend_keeps | with_reducible apply Keeps.foldl | with_reducible apply Keeps.foldlFst
      | with_reducible apply Keeps.foldlSnd | ((with_reducible apply Same.mk) <;> first | exact no ‹_› | exact fun _ => rfl)
      | intro _ | split | assumption | with_reducible apply Keeps.sends | fail_if_no_progress with_reducible apply Keeps.update
  ask := by
    intro f e a s n st x h
    unfold cmdPoolput at e
    try dsimp only at e
    first
      | (cases e; done)
      | skip
    try (cases e; try dsimp only)
    repeat' first
      | with_reducible assumption | with_reducible apply KeepsR.next | with_reducible apply KeepsR.fault
      | with_reducible apply KeepsR.atPlace | with_reducible apply KeepsO.some | with_reducible apply KeepsO.none
      | with_reducible apply KeepsO.getD | with_reducible apply State.fresh_keeps | with_reducible apply State.setEntry_keeps
      | with_reducible apply State.cmdSend_keeps | with_reducible apply Keeps.foldl | with_reducible apply Keeps.foldlFst
      | with_reducible apply Keeps.foldlSnd | ((with_reducible apply Same.mk) <;> first | exact no ‹_› | exact fun _ => rfl)
      | intro _ | split | assumption | with_reducible apply Keeps.sends | fail_if_no_progress with_reducible apply Keeps.update

theorem cmdPoolput_ends {pt : Parts}   : CmdEnds pt (cmdPoolput) where
  finish := by
    intro a s n st x h
    unfold cmdPoolput
    try dsimp only
    repeat' first
      | with_reducible assumption | with_reducible apply KeepsR.next | with_reducible apply KeepsR.fault
      | with_reducible apply KeepsR.atPlace | with_reducible apply KeepsO.some | with_reducible apply KeepsO.none
      | with_reducible apply KeepsO.getD | with_reducible apply State.fresh_keeps | with_reducible apply State.setEntry_keeps
      | with_reducible apply State.cmdSend_keeps | with_reducible apply Keeps.foldl | with_reducible apply Keeps.foldlFst
      | with_reducible apply Keeps.foldlSnd | ((with_reducible apply Same.mk) <;> first | exact no ‹_› | exact fun _ => rfl)
      | intro _ | split | assumption | with_reducible apply Keeps.sends | fail_if_no_progress with_reducible apply Keeps.update

theorem cmdPoolcfg_keeps {pt : Parts}  (x_tiles : pt.tiles = false := by assumption) (x_pools : pt.pools = false := by assumption)
    : CmdKeeps pt (cmdPoolcfg) where
  run := by
    intro a s n st x h
    unfold cmdPoolcfg
    try dsimp only
    repeat' first
      | with_reducible assumption | with_reducible apply Keeps.elim | with_reducible apply KeepsR.next
      | with_reducible apply KeepsR.fault | with_reducible apply KeepsR.atPlace | with_reducible apply KeepsO.some
      | with_reducible apply KeepsO.none | with_reducible apply KeepsO.getD | with_reducible apply State.setEntry_keeps
      | with_reducible apply State.setPool_keeps | with_reducible apply Keeps.foldl | with_reducible apply Keeps.foldlFst
      | with_reducible apply Keeps.foldlSnd | ((with_reducible apply Same.mk) <;> first | exact no ‹_› | exact fun _ => rfl)
      | intro _ | split | assumption | with_reducible apply Keeps.sends | fail_if_no_progress with_reducible apply Keeps.update
  ask := by
    intro f e a s n st x h
    unfold cmdPoolcfg at e
    try dsimp only at e
    first
      | (cases e; done)
      | skip
    try (cases e; try dsimp only)
    repeat' first
      | with_reducible assumption | with_reducible apply Keeps.elim | with_reducible apply KeepsR.next
      | with_reducible apply KeepsR.fault | with_reducible apply KeepsR.atPlace | with_reducible apply KeepsO.some
      | with_reducible apply KeepsO.none | with_reducible apply KeepsO.getD | with_reducible apply State.setEntry_keeps
      | with_reducible apply State.setPool_keeps | with_reducible apply Keeps.foldl | with_reducible apply Keeps.foldlFst
      | with_reducible apply Keeps.foldlSnd | ((with_reducible apply Same.mk) <;> first | exact no ‹_› | exact fun _ => rfl)
      | intro _ | split | assumption | with_reducible apply Keeps.sends | fail_if_no_progress with_reducible apply Keeps.update

theorem cmdPoolcfg_ends {pt : Parts}   : CmdEnds pt (cmdPoolcfg) where
  finish := by
    intro a s n st x h
    unfold cmdPoolcfg
    try dsimp only
    repeat' first
      | with_reducible assumption | with_reducible apply Keeps.elim | with_reducible apply KeepsR.next
      | with_reducible apply KeepsR.fault | with_reducible apply KeepsR.atPlace | with_reducible apply KeepsO.some
      | with_reducible apply KeepsO.none | with_reducible apply KeepsO.getD | with_reducible apply State.setEntry_keeps
      | with_reducible apply State.setPool_keeps | with_reducible apply Keeps.foldl | with_reducible apply Keeps.foldlFst
      | with_reducible apply Keeps.foldlSnd | ((with_reducible apply Same.mk) <;> first | exact no ‹_› | exact fun _ => rfl)
      | intro _ | split | assumption | with_reducible apply Keeps.sends | fail_if_no_progress with_reducible apply Keeps.update

theorem State.poolServe_keeps {pt : Parts} {a : State} (s : State) (shared : Bool) (tile : Nat) (k : Nat) (cls : Nat) (h : Keeps
    pt a s) (x_tiles : pt.tiles = false := by assumption) (x_net : pt.net = false := by assumption) (x_pools : pt.pools = false :=
    by assumption) :
        Keeps pt a (State.poolServe s shared tile k cls) := by
  unfold State.poolServe
  try dsimp only
  repeat' first
    | with_reducible assumption | with_reducible apply KeepsR.next | with_reducible apply KeepsR.fault
    | with_reducible apply KeepsR.atPlace | with_reducible apply KeepsO.some | with_reducible apply KeepsO.none
    | with_reducible apply KeepsO.getD | with_reducible apply State.send_keeps | with_reducible apply State.setPool_keeps
    | with_reducible apply Keeps.foldl | with_reducible apply Keeps.foldlFst | with_reducible apply Keeps.foldlSnd
    | ((with_reducible apply Same.mk) <;> first | exact no ‹_› | exact fun _ => rfl) | intro _ | split | assumption
    | with_reducible apply Keeps.sends | fail_if_no_progress with_reducible apply Keeps.update

theorem execPoolRequestAtHome_keeps {pt : Parts} {a : State} (k : Nat) (s : State) (h : Keeps pt a s) (x_tiles : pt.tiles = false
    := by assumption) (x_net : pt.net = false := by assumption) (x_pools : pt.pools = false := by assumption) (x_trouble :
    pt.trouble = false := by assumption) :
        KeepsR pt a (execPoolRequestAtHome k s) := by
  unfold execPoolRequestAtHome
  try dsimp only
  repeat' first
    | with_reducible assumption | with_reducible apply KeepsR.next | with_reducible apply KeepsR.fault
    | with_reducible apply KeepsR.atPlace | with_reducible apply KeepsO.some | with_reducible apply KeepsO.none
    | with_reducible apply KeepsO.getD | with_reducible apply State.reply_keeps | with_reducible apply onPacket_keeps
    | with_reducible apply State.setPool_keeps | with_reducible apply State.poolServe_keeps | with_reducible apply Keeps.foldl
    | with_reducible apply Keeps.foldlFst | with_reducible apply Keeps.foldlSnd
    | ((with_reducible apply Same.mk) <;> first | exact no ‹_› | exact fun _ => rfl) | intro _ | split | assumption
    | with_reducible apply Keeps.sends | fail_if_no_progress with_reducible apply Keeps.update

theorem execPoolGrantArrive_keeps {pt : Parts} {a : State} (k : Nat) (s : State) (h : Keeps pt a s) (x_tiles : pt.tiles = false :=
    by assumption) (x_net : pt.net = false := by assumption) (x_trouble : pt.trouble = false := by assumption) :
        KeepsR pt a (execPoolGrantArrive k s) := by
  unfold execPoolGrantArrive
  try dsimp only
  repeat' first
    | with_reducible assumption | with_reducible apply KeepsR.next | with_reducible apply KeepsR.fault
    | with_reducible apply KeepsR.atPlace | with_reducible apply KeepsO.some | with_reducible apply KeepsO.none
    | with_reducible apply KeepsO.getD | with_reducible apply State.countDrop_keeps | with_reducible apply State.setEntry_keeps
    | with_reducible apply onPacket_keeps | with_reducible apply Keeps.foldl | with_reducible apply Keeps.foldlFst
    | with_reducible apply Keeps.foldlSnd | ((with_reducible apply Same.mk) <;> first | exact no ‹_› | exact fun _ => rfl)
    | intro _ | split | assumption | with_reducible apply Keeps.sends | fail_if_no_progress with_reducible apply Keeps.update

end Sys2Proof.Machine
end

