-- ==== Sys2Proof/Laws/KeepReductions.lean ====
section
/-!
SUPPORT. What the operations of Machine/Reductions.lean keep (Laws/Keeps.lean).
-/
namespace Sys2Proof.Machine

set_option linter.unusedTactic false
set_option linter.unreachableTactic false
set_option Elab.async false

theorem cmdRdopen_keeps {pt : Parts}  (x_tiles : pt.tiles = false := by assumption) (x_ctxs : pt.ctxs = false := by assumption)
    (x_mem : pt.mem = false := by assumption) (x_bad : pt.bad = false := by assumption) (x_reds : pt.reds = false := by
    assumption) (x_snaps : pt.snaps = false := by assumption) (x_trouble : pt.trouble = false := by assumption) (x_ports :
    pt.ports = false := by assumption) : CmdKeeps pt (cmdRdopen) where
  run := by
    intro a s n st x h
    unfold cmdRdopen
    try dsimp only
    repeat' first
      | with_reducible assumption | with_reducible apply KeepsR.next | with_reducible apply KeepsR.fault
      | with_reducible apply KeepsR.atPlace | with_reducible apply KeepsO.some | with_reducible apply KeepsO.none
      | with_reducible apply KeepsO.getD | with_reducible apply State.writeChecked_keeps
      | with_reducible apply State.setEntry_keeps | with_reducible apply Keeps.foldl | with_reducible apply Keeps.foldlFst
      | with_reducible apply Keeps.foldlSnd | ((with_reducible apply Same.mk) <;> first | exact no ‹_› | exact fun _ => rfl)
      | intro _ | split | assumption | with_reducible apply Keeps.sends | fail_if_no_progress with_reducible apply Keeps.update
  ask := by
    intro f e a s n st x h
    unfold cmdRdopen at e
    try dsimp only at e
    first
      | (cases e; done)
      | skip
    try (cases e; try dsimp only)
    repeat' first
      | with_reducible assumption | with_reducible apply KeepsR.next | with_reducible apply KeepsR.fault
      | with_reducible apply KeepsR.atPlace | with_reducible apply KeepsO.some | with_reducible apply KeepsO.none
      | with_reducible apply KeepsO.getD | with_reducible apply State.writeChecked_keeps
      | with_reducible apply State.setEntry_keeps | with_reducible apply Keeps.foldl | with_reducible apply Keeps.foldlFst
      | with_reducible apply Keeps.foldlSnd | ((with_reducible apply Same.mk) <;> first | exact no ‹_› | exact fun _ => rfl)
      | intro _ | split | assumption | with_reducible apply Keeps.sends | fail_if_no_progress with_reducible apply Keeps.update

theorem cmdRdopen_ends {pt : Parts}   : CmdEnds pt (cmdRdopen) where
  finish := by
    intro a s n st x h
    unfold cmdRdopen
    try dsimp only
    repeat' first
      | with_reducible assumption | with_reducible apply KeepsR.next | with_reducible apply KeepsR.fault
      | with_reducible apply KeepsR.atPlace | with_reducible apply KeepsO.some | with_reducible apply KeepsO.none
      | with_reducible apply KeepsO.getD | with_reducible apply State.writeChecked_keeps
      | with_reducible apply State.setEntry_keeps | with_reducible apply Keeps.foldl | with_reducible apply Keeps.foldlFst
      | with_reducible apply Keeps.foldlSnd | ((with_reducible apply Same.mk) <;> first | exact no ‹_› | exact fun _ => rfl)
      | intro _ | split | assumption | with_reducible apply Keeps.sends | fail_if_no_progress with_reducible apply Keeps.update

theorem cmdRdadd_keeps {pt : Parts}  (x_tiles : pt.tiles = false := by assumption) (x_net : pt.net = false := by assumption)
    (x_trouble : pt.trouble = false := by assumption) (x_ports : pt.ports = false := by assumption) (x_fabric : pt.fabric = false
    := by assumption) : CmdKeeps pt (cmdRdadd) where
  run := by
    intro a s n st x h
    unfold cmdRdadd
    try dsimp only
    repeat' first
      | with_reducible assumption | with_reducible apply Keeps.elim | with_reducible apply KeepsR.next
      | with_reducible apply KeepsR.fault | with_reducible apply KeepsR.atPlace | with_reducible apply KeepsO.some
      | with_reducible apply KeepsO.none | with_reducible apply KeepsO.getD | with_reducible apply State.setEntry_keeps
      | with_reducible apply State.oweSend_keeps | with_reducible apply State.moverSend_keeps | with_reducible apply Keeps.foldl
      | with_reducible apply Keeps.foldlFst | with_reducible apply Keeps.foldlSnd
      | ((with_reducible apply Same.mk) <;> first | exact no ‹_› | exact fun _ => rfl) | intro _ | split | assumption
      | with_reducible apply Keeps.sends | fail_if_no_progress with_reducible apply Keeps.update
  ask := by
    intro f e a s n st x h
    unfold cmdRdadd at e
    try dsimp only at e
    first
      | (cases e; done)
      | skip
    try (cases e; try dsimp only)
    repeat' first
      | with_reducible assumption | with_reducible apply Keeps.elim | with_reducible apply KeepsR.next
      | with_reducible apply KeepsR.fault | with_reducible apply KeepsR.atPlace | with_reducible apply KeepsO.some
      | with_reducible apply KeepsO.none | with_reducible apply KeepsO.getD | with_reducible apply State.setEntry_keeps
      | with_reducible apply State.oweSend_keeps | with_reducible apply State.moverSend_keeps | with_reducible apply Keeps.foldl
      | with_reducible apply Keeps.foldlFst | with_reducible apply Keeps.foldlSnd
      | ((with_reducible apply Same.mk) <;> first | exact no ‹_› | exact fun _ => rfl) | intro _ | split | assumption
      | with_reducible apply Keeps.sends | fail_if_no_progress with_reducible apply Keeps.update

theorem cmdRdadd_ends {pt : Parts}   : CmdEnds pt (cmdRdadd) where
  finish := by
    intro a s n st x h
    unfold cmdRdadd
    try dsimp only
    repeat' first
      | with_reducible assumption | with_reducible apply Keeps.elim | with_reducible apply KeepsR.next
      | with_reducible apply KeepsR.fault | with_reducible apply KeepsR.atPlace | with_reducible apply KeepsO.some
      | with_reducible apply KeepsO.none | with_reducible apply KeepsO.getD | with_reducible apply State.setEntry_keeps
      | with_reducible apply State.oweSend_keeps | with_reducible apply State.moverSend_keeps | with_reducible apply Keeps.foldl
      | with_reducible apply Keeps.foldlFst | with_reducible apply Keeps.foldlSnd
      | ((with_reducible apply Same.mk) <;> first | exact no ‹_› | exact fun _ => rfl) | intro _ | split | assumption
      | with_reducible apply Keeps.sends | fail_if_no_progress with_reducible apply Keeps.update

theorem State.contribute_keeps {pt : Parts} {a : State} (s : State) (rid : Nat) (first : Nat) (vals : List Word) (present : Bool)
    (counts : Bool) (w : Writer) (choices : Nat) (h : Keeps pt a s) (x_tiles : pt.tiles = false := by assumption) (x_ctxs :
    pt.ctxs = false := by assumption) (x_mem : pt.mem = false := by assumption) (x_bad : pt.bad = false := by assumption) (x_reds
    : pt.reds = false := by assumption) (x_snaps : pt.snaps = false := by assumption) :
        Keeps pt a (State.contribute s rid first vals present counts w choices) := by
  unfold State.contribute
  try dsimp only
  repeat' first
    | with_reducible assumption | with_reducible apply KeepsR.next | with_reducible apply KeepsR.fault
    | with_reducible apply KeepsR.atPlace | with_reducible apply KeepsO.some | with_reducible apply KeepsO.none
    | with_reducible apply KeepsO.getD | with_reducible apply State.write_keeps | with_reducible apply State.bumpVary_keeps
    | with_reducible apply Keeps.foldl | with_reducible apply Keeps.foldlFst | with_reducible apply Keeps.foldlSnd
    | ((with_reducible apply Same.mk) <;> first | exact no ‹_› | exact fun _ => rfl) | intro _ | split | assumption
    | with_reducible apply Keeps.sends | fail_if_no_progress with_reducible apply Keeps.update

theorem State.superCheck_keeps {pt : Parts} {a : State} (s : State) (ecc : Ecc) (rid : Nat) (first : Nat) (r : Reduction) (h :
    Keeps pt a s) (x_bad : pt.bad = false := by assumption) (x_reds : pt.reds = false := by assumption) (x_trouble : pt.trouble =
    false := by assumption) :
        Keeps pt a (State.superCheck s ecc rid first r) := by
  unfold State.superCheck
  try dsimp only
  repeat' first
    | with_reducible assumption | with_reducible apply KeepsR.next | with_reducible apply KeepsR.fault
    | with_reducible apply KeepsR.atPlace | with_reducible apply KeepsO.some | with_reducible apply KeepsO.none
    | with_reducible apply KeepsO.getD | with_reducible apply State.eccCheck_keeps | with_reducible apply Keeps.foldl
    | with_reducible apply Keeps.foldlFst | with_reducible apply Keeps.foldlSnd
    | ((with_reducible apply Same.mk) <;> first | exact no ‹_› | exact fun _ => rfl) | intro _ | split | assumption
    | with_reducible apply Keeps.sends | fail_if_no_progress with_reducible apply Keeps.update

theorem State.redReads_keeps {pt : Parts} {a : State} (s : State) (w : Writer) (ecc : Ecc) (rid : Nat) (first : Nat) (count : Nat)
    (r : Reduction) (h : Keeps pt a s) (x_bad : pt.bad = false := by assumption) (x_reds : pt.reds = false := by assumption)
    (x_trouble : pt.trouble = false := by assumption) :
        Keeps pt a (State.redReads s w ecc rid first count r).1 := by
  unfold State.redReads
  try dsimp only
  repeat' first
    | with_reducible assumption | with_reducible apply KeepsR.next | with_reducible apply KeepsR.fault
    | with_reducible apply KeepsR.atPlace | with_reducible apply KeepsO.some | with_reducible apply KeepsO.none
    | with_reducible apply KeepsO.getD | with_reducible apply State.eccCheck_keeps | with_reducible apply State.superCheck_keeps
    | with_reducible apply Keeps.foldl | with_reducible apply Keeps.foldlFst | with_reducible apply Keeps.foldlSnd
    | ((with_reducible apply Same.mk) <;> first | exact no ‹_› | exact fun _ => rfl) | intro _ | split | assumption
    | with_reducible apply Keeps.sends | fail_if_no_progress with_reducible apply Keeps.update

theorem State.redReads_out {pt : Parts} {a : State} (s : State) (w : Writer) (ecc : Ecc) (rid first count : Nat) (r : Reduction)
    {v : State × Option Nat} (h : Keeps pt a s) (e : s.redReads w ecc rid first count r = v) (x_bad : pt.bad = false := by assumption)
    (x_reds : pt.reds = false := by assumption) (x_trouble : pt.trouble = false := by assumption) : Keeps pt a v.1 :=
  e ▸ State.redReads_keeps _ _ _ _ _ _ _ h

theorem execContributionAtHome_keeps {pt : Parts} {a : State} (k : Nat) (ecc : Ecc) (s : State) (h : Keeps pt a s) (x_tiles :
    pt.tiles = false := by assumption) (x_ctxs : pt.ctxs = false := by assumption) (x_mem : pt.mem = false := by assumption)
    (x_bad : pt.bad = false := by assumption) (x_net : pt.net = false := by assumption) (x_reds : pt.reds = false := by
    assumption) (x_snaps : pt.snaps = false := by assumption) (x_trouble : pt.trouble = false := by assumption) (x_ports :
    pt.ports = false := by assumption) :
        KeepsR pt a (execContributionAtHome k ecc s) := by
  unfold execContributionAtHome
  refine onPacket_keeps _ _ _ _ h fun p t ht => ?_
  split
  · split
    · split
      · exact ht
      · split
        · exact State.reply_keeps _ _ _ ht
        · split
          · next e => exact State.ueError_keeps _ _ _ _ _ (State.redReads_out _ _ _ _ _ _ _ ht e)
          · next e => exact State.reply_keeps _ _ _ (State.contribute_keeps _ _ _ _ _ _ _ _ (State.redReads_out _ _ _ _ _ _ _ ht e))
    · exact State.reply_keeps _ _ _ ht
    · exact State.reply_keeps _ _ _ ht
  · exact ht

theorem State.writeTarget_keeps {pt : Parts} {a : State} (s : State) (f : Finder) (w : Writer) (r : Reduction) (h : Keeps pt a s)
    (x_tiles : pt.tiles = false := by assumption) (x_ctxs : pt.ctxs = false := by assumption) (x_mem : pt.mem = false := by
    assumption) (x_bad : pt.bad = false := by assumption) (x_snaps : pt.snaps = false := by assumption) (x_trouble : pt.trouble =
    false := by assumption) (x_ports : pt.ports = false := by assumption) :
        Keeps pt a (State.writeTarget s f w r) := by
  unfold State.writeTarget
  try dsimp only
  repeat' first
    | with_reducible assumption | with_reducible apply KeepsR.next | with_reducible apply KeepsR.fault
    | with_reducible apply KeepsR.atPlace | with_reducible apply KeepsO.some | with_reducible apply KeepsO.none
    | with_reducible apply KeepsO.getD | with_reducible apply State.ueError_keeps | with_reducible apply State.writeChecked_keeps
    | with_reducible apply Keeps.foldl | with_reducible apply Keeps.foldlFst | with_reducible apply Keeps.foldlSnd
    | ((with_reducible apply Same.mk) <;> first | exact no ‹_› | exact fun _ => rfl) | intro _ | split | assumption
    | with_reducible apply Keeps.sends | fail_if_no_progress with_reducible apply Keeps.update

theorem State.writePresence_keeps {pt : Parts} {a : State} (s : State) (f : Finder) (w : Writer) (r : Reduction) (h : Keeps pt a
    s) (x_tiles : pt.tiles = false := by assumption) (x_ctxs : pt.ctxs = false := by assumption) (x_mem : pt.mem = false := by
    assumption) (x_bad : pt.bad = false := by assumption) (x_snaps : pt.snaps = false := by assumption) (x_trouble : pt.trouble =
    false := by assumption) (x_ports : pt.ports = false := by assumption) :
        Keeps pt a (State.writePresence s f w r) := by
  unfold State.writePresence
  try dsimp only
  repeat' first
    | with_reducible assumption | with_reducible apply KeepsR.next | with_reducible apply KeepsR.fault
    | with_reducible apply KeepsR.atPlace | with_reducible apply KeepsO.some | with_reducible apply KeepsO.none
    | with_reducible apply KeepsO.getD | with_reducible apply State.halt_keeps | with_reducible apply State.writeChecked_keeps
    | with_reducible apply Keeps.foldl | with_reducible apply Keeps.foldlFst | with_reducible apply Keeps.foldlSnd
    | ((with_reducible apply Same.mk) <;> first | exact no ‹_› | exact fun _ => rfl) | intro _ | split | assumption
    | with_reducible apply Keeps.sends | fail_if_no_progress with_reducible apply Keeps.update

theorem execReductionDone_keeps {pt : Parts} {a : State} (rid : Nat) (s : State) (h : Keeps pt a s) (x_tiles : pt.tiles = false :=
    by assumption) (x_ctxs : pt.ctxs = false := by assumption) (x_mem : pt.mem = false := by assumption) (x_bad : pt.bad = false
    := by assumption) (x_net : pt.net = false := by assumption) (x_reds : pt.reds = false := by assumption) (x_snaps : pt.snaps =
    false := by assumption) (x_trouble : pt.trouble = false := by assumption) (x_ports : pt.ports = false := by assumption) :
        KeepsR pt a (execReductionDone rid s) := by
  unfold execReductionDone
  split
  · exact .fault _
  · split
    · exact .next h
    · split
      · exact .next h
      · extract_lets d w f s1 s2 cyc src s3 p
        have k1 : Keeps pt a s1 := by
          dsimp only [s1]
          split
          · exact h
          · exact State.writeTarget_keeps _ _ _ _ h
        clear_value s1
        have k2 : Keeps pt a s2 := by
          dsimp only [s2]
          split
          · exact State.writePresence_keeps _ _ _ _ k1
          · exact k1
        clear_value s2
        have kc : Keeps pt a cyc.2 := State.cycle_keeps _ _ k2
        clear_value cyc
        have k3 : Keeps pt a s3 := by
          dsimp only [s3, src]
          refine State.traceSignal_keeps _ _ _ _ _ _ _ _ _ _ ?_
          apply Keeps.update kc
          constructor <;> first | exact no ‹_› | exact fun _ => rfl
        clear_value s3
        exact .next (State.send_keeps _ _ k3)

end Sys2Proof.Machine
end

