-- ==== Sys2Proof/Laws/KeepWorkLists.lean ====
section
/-!
SUPPORT. What the operations of Machine/WorkLists.lean keep (Laws/Keeps.lean).
-/
namespace Sys2Proof.Machine

set_option linter.unusedTactic false
set_option linter.unreachableTactic false
set_option Elab.async false

theorem State.setList_keeps {pt : Parts} {a : State} (s : State) (leader : Nat) (key : Nat) (w : WorkList) (h : Keeps pt a s)
    (x_tiles : pt.tiles = false := by assumption) :
        Keeps pt a (State.setList s leader key w) := by
  unfold State.setList
  try dsimp only
  repeat' first
    | with_reducible assumption | with_reducible apply KeepsR.next | with_reducible apply KeepsR.fault
    | with_reducible apply KeepsR.atPlace | with_reducible apply KeepsO.some | with_reducible apply KeepsO.none
    | with_reducible apply KeepsO.getD | with_reducible apply State.modTile_keeps | with_reducible apply Keeps.foldl
    | with_reducible apply Keeps.foldlFst | with_reducible apply Keeps.foldlSnd
    | ((with_reducible apply Same.mk) <;> first | exact no ‹_› | exact fun _ => rfl) | intro _ | split | assumption
    | with_reducible apply Keeps.sends | fail_if_no_progress with_reducible apply Keeps.update

theorem State.fromLeader_keeps {pt : Parts} {a : State} (s : State) (leader : Nat) (tile : Nat) (st : Stream) (c : Nat) (chan :
    Word) (tag : Nat) (entry : Nat) (b : Body) (h : Keeps pt a s) (x_net : pt.net = false := by assumption) :
        Keeps pt a (State.fromLeader s leader tile st c chan tag entry b) := by
  unfold State.fromLeader
  try dsimp only
  repeat' first
    | with_reducible assumption | with_reducible apply KeepsR.next | with_reducible apply KeepsR.fault
    | with_reducible apply KeepsR.atPlace | with_reducible apply KeepsO.some | with_reducible apply KeepsO.none
    | with_reducible apply KeepsO.getD | with_reducible apply State.send_keeps | with_reducible apply Keeps.foldl
    | with_reducible apply Keeps.foldlFst | with_reducible apply Keeps.foldlSnd
    | ((with_reducible apply Same.mk) <;> first | exact no ‹_› | exact fun _ => rfl) | intro _ | split | assumption
    | with_reducible apply Keeps.sends | fail_if_no_progress with_reducible apply Keeps.update

theorem State.listReply_keeps {pt : Parts} {a : State} (s : State) (leader : Nat) (key : Nat) (w : WorkList) (r : Reserve) (b :
    Body) (h : Keeps pt a s) (x_tiles : pt.tiles = false := by assumption) (x_net : pt.net = false := by assumption) :
        Keeps pt a (State.listReply s leader key w r b) := by
  unfold State.listReply
  try dsimp only
  repeat' first
    | with_reducible assumption | with_reducible apply KeepsR.next | with_reducible apply KeepsR.fault
    | with_reducible apply KeepsR.atPlace | with_reducible apply KeepsO.some | with_reducible apply KeepsO.none
    | with_reducible apply KeepsO.getD | with_reducible apply State.setList_keeps | with_reducible apply State.fromLeader_keeps
    | with_reducible apply Keeps.foldl | with_reducible apply Keeps.foldlFst | with_reducible apply Keeps.foldlSnd
    | ((with_reducible apply Same.mk) <;> first | exact no ‹_› | exact fun _ => rfl) | intro _ | split | assumption
    | with_reducible apply Keeps.sends | fail_if_no_progress with_reducible apply Keeps.update

theorem State.giveItem_keeps {pt : Parts} {a : State} (s : State) (leader : Nat) (key : Nat) (w : WorkList) (h : Keeps pt a s)
    (x_tiles : pt.tiles = false := by assumption) (x_net : pt.net = false := by assumption) :
        KeepsO pt a (State.giveItem s leader key w) := by
  unfold State.giveItem
  split
  · extract_lets w1 place
    split
    · split <;> exact .some (State.listReply_keeps _ _ _ _ _ _ h)
    · split
      · exact .some (State.listReply_keeps _ _ _ _ _ _ h)
      · exact .none
  · exact .none

theorem State.listStep_keeps {pt : Parts} {a : State} (s : State) (leader : Nat) (key : Nat) (w : WorkList) (h : Keeps pt a s)
    (x_tiles : pt.tiles = false := by assumption) (x_net : pt.net = false := by assumption) :
        KeepsO pt a (State.listStep s leader key w) := by
  unfold State.listStep
  try dsimp only
  repeat' first
    | with_reducible assumption | with_reducible apply KeepsR.next | with_reducible apply KeepsR.fault
    | with_reducible apply KeepsR.atPlace | with_reducible apply KeepsO.some | with_reducible apply KeepsO.none
    | with_reducible apply KeepsO.getD | with_reducible apply State.listReply_keeps | with_reducible apply State.giveItem_keeps
    | with_reducible apply Keeps.foldl | with_reducible apply Keeps.foldlFst | with_reducible apply Keeps.foldlSnd
    | ((with_reducible apply Same.mk) <;> first | exact no ‹_› | exact fun _ => rfl) | intro _ | split | assumption
    | with_reducible apply Keeps.sends | fail_if_no_progress with_reducible apply Keeps.update

theorem State.listServe_keeps {pt : Parts} {a : State} (x0 : Nat) (x1 : Nat) (x2 : Nat) (x3 : State) (h : Keeps pt a x3) (x_tiles
    : pt.tiles = false := by assumption) (x_net : pt.net = false := by assumption) :
        Keeps pt a (State.listServe x0 x1 x2 x3) := by
  induction x0 generalizing x3 with
  | zero => exact h
  | succ k ih =>
    unfold State.listServe
    split
    · exact h
    · split
      · exact ih _ ((State.listStep_keeps _ _ _ _ h).out _ ‹_›)
      · exact h

theorem State.serveList_keeps {pt : Parts} {a : State} (s : State) (leader : Nat) (key : Nat) (h : Keeps pt a s) (x_tiles :
    pt.tiles = false := by assumption) (x_net : pt.net = false := by assumption) :
        Keeps pt a (State.serveList s leader key) := by
  unfold State.serveList
  try dsimp only
  repeat' first
    | with_reducible assumption | with_reducible apply KeepsR.next | with_reducible apply KeepsR.fault
    | with_reducible apply KeepsR.atPlace | with_reducible apply KeepsO.some | with_reducible apply KeepsO.none
    | with_reducible apply KeepsO.getD | with_reducible apply State.listServe_keeps | with_reducible apply Keeps.foldl
    | with_reducible apply Keeps.foldlFst | with_reducible apply Keeps.foldlSnd
    | ((with_reducible apply Same.mk) <;> first | exact no ‹_› | exact fun _ => rfl) | intro _ | split | assumption
    | with_reducible apply Keeps.sends | fail_if_no_progress with_reducible apply Keeps.update

theorem State.freeList_keeps {pt : Parts} {a : State} (s : State) (n : Nat) (st : Stream) (team : Nat) (key : Nat) (entry : Nat)
    (h : Keeps pt a s) (x_tiles : pt.tiles = false := by assumption) :
        Keeps pt a (State.freeList s n st team key entry) := by
  unfold State.freeList
  try dsimp only
  repeat' first
    | with_reducible assumption | with_reducible apply KeepsR.next | with_reducible apply KeepsR.fault
    | with_reducible apply KeepsR.atPlace | with_reducible apply KeepsO.some | with_reducible apply KeepsO.none
    | with_reducible apply KeepsO.getD | with_reducible apply State.modTile_keeps | with_reducible apply State.setList_keeps
    | with_reducible apply Keeps.foldl | with_reducible apply Keeps.foldlFst | with_reducible apply Keeps.foldlSnd
    | ((with_reducible apply Same.mk) <;> first | exact no ‹_› | exact fun _ => rfl) | intro _ | split | assumption
    | with_reducible apply Keeps.sends | fail_if_no_progress with_reducible apply Keeps.update

theorem cmdWlopen_keeps {pt : Parts}  (x_tiles : pt.tiles = false := by assumption) : CmdKeeps pt (cmdWlopen) where
  run := by
    intro a s n st x h
    unfold cmdWlopen
    try dsimp only
    repeat' first
      | with_reducible assumption | with_reducible apply Keeps.elim | with_reducible apply KeepsR.next
      | with_reducible apply KeepsR.fault | with_reducible apply KeepsR.atPlace | with_reducible apply KeepsO.some
      | with_reducible apply KeepsO.none | with_reducible apply KeepsO.getD | with_reducible apply State.setEntry_keeps
      | with_reducible apply State.setLockSeq_keeps | with_reducible apply State.setList_keeps | with_reducible apply Keeps.foldl
      | with_reducible apply Keeps.foldlFst | with_reducible apply Keeps.foldlSnd
      | ((with_reducible apply Same.mk) <;> first | exact no ‹_› | exact fun _ => rfl) | intro _ | split | assumption
      | with_reducible apply Keeps.sends | fail_if_no_progress with_reducible apply Keeps.update
  ask := by
    intro f e a s n st x h
    unfold cmdWlopen at e
    try dsimp only at e
    first
      | (cases e; done)
      | skip
    try (cases e; try dsimp only)
    repeat' first
      | with_reducible assumption | with_reducible apply Keeps.elim | with_reducible apply KeepsR.next
      | with_reducible apply KeepsR.fault | with_reducible apply KeepsR.atPlace | with_reducible apply KeepsO.some
      | with_reducible apply KeepsO.none | with_reducible apply KeepsO.getD | with_reducible apply State.setEntry_keeps
      | with_reducible apply State.setLockSeq_keeps | with_reducible apply State.setList_keeps | with_reducible apply Keeps.foldl
      | with_reducible apply Keeps.foldlFst | with_reducible apply Keeps.foldlSnd
      | ((with_reducible apply Same.mk) <;> first | exact no ‹_› | exact fun _ => rfl) | intro _ | split | assumption
      | with_reducible apply Keeps.sends | fail_if_no_progress with_reducible apply Keeps.update

theorem cmdWlopen_ends {pt : Parts}   : CmdEnds pt (cmdWlopen) where
  finish := by
    intro a s n st x h
    unfold cmdWlopen
    try dsimp only
    repeat' first
      | with_reducible assumption | with_reducible apply Keeps.elim | with_reducible apply KeepsR.next
      | with_reducible apply KeepsR.fault | with_reducible apply KeepsR.atPlace | with_reducible apply KeepsO.some
      | with_reducible apply KeepsO.none | with_reducible apply KeepsO.getD | with_reducible apply State.setEntry_keeps
      | with_reducible apply State.setLockSeq_keeps | with_reducible apply State.setList_keeps | with_reducible apply Keeps.foldl
      | with_reducible apply Keeps.foldlFst | with_reducible apply Keeps.foldlSnd
      | ((with_reducible apply Same.mk) <;> first | exact no ‹_› | exact fun _ => rfl) | intro _ | split | assumption
      | with_reducible apply Keeps.sends | fail_if_no_progress with_reducible apply Keeps.update

theorem wlputAsk_keeps {pt : Parts} {a : State} (s : State) (n : Nat) (st : Stream) (x : Entry) (h : Keeps pt a s) (x_tiles :
    pt.tiles = false := by assumption) (x_net : pt.net = false := by assumption) :
        Keeps pt a (wlputAsk s n st x) := by
  unfold wlputAsk
  try dsimp only
  repeat' first
    | with_reducible assumption | with_reducible apply KeepsR.next | with_reducible apply KeepsR.fault
    | with_reducible apply KeepsR.atPlace | with_reducible apply KeepsO.some | with_reducible apply KeepsO.none
    | with_reducible apply KeepsO.getD | with_reducible apply State.setEntry_keeps | with_reducible apply State.cmdSend_keeps
    | with_reducible apply Keeps.foldl | with_reducible apply Keeps.foldlFst | with_reducible apply Keeps.foldlSnd
    | ((with_reducible apply Same.mk) <;> first | exact no ‹_› | exact fun _ => rfl) | intro _ | split | assumption
    | with_reducible apply Keeps.sends | fail_if_no_progress with_reducible apply Keeps.update

theorem cmdWlput_keeps {pt : Parts}  (x_tiles : pt.tiles = false := by assumption) (x_ctxs : pt.ctxs = false := by assumption)
    (x_mem : pt.mem = false := by assumption) (x_bad : pt.bad = false := by assumption) (x_net : pt.net = false := by assumption)
    (x_snaps : pt.snaps = false := by assumption) (x_trouble : pt.trouble = false := by assumption) (x_ports : pt.ports = false :=
    by assumption) (x_fabric : pt.fabric = false := by assumption) : CmdKeeps pt (cmdWlput) where
  run := by
    intro a s n st x h
    unfold cmdWlput
    try dsimp only
    repeat' first
      | with_reducible assumption | with_reducible apply KeepsR.next | with_reducible apply KeepsR.fault
      | with_reducible apply KeepsR.atPlace | with_reducible apply KeepsO.some | with_reducible apply KeepsO.none
      | with_reducible apply KeepsO.getD | with_reducible apply State.setEntry_keeps | with_reducible apply State.storeTo_keeps
      | with_reducible apply State.setList_keeps | with_reducible apply State.serveList_keeps
      | with_reducible apply wlputAsk_keeps | with_reducible apply Keeps.foldl | with_reducible apply Keeps.foldlFst
      | with_reducible apply Keeps.foldlSnd | ((with_reducible apply Same.mk) <;> first | exact no ‹_› | exact fun _ => rfl)
      | intro _ | split | assumption | with_reducible apply Keeps.sends | fail_if_no_progress with_reducible apply Keeps.update
  ask := by
    intro f e a s n st x h
    unfold cmdWlput at e
    try dsimp only at e
    first
      | (cases e; done)
      | skip
    try (cases e; try dsimp only)
    repeat' first
      | with_reducible assumption | with_reducible apply KeepsR.next | with_reducible apply KeepsR.fault
      | with_reducible apply KeepsR.atPlace | with_reducible apply KeepsO.some | with_reducible apply KeepsO.none
      | with_reducible apply KeepsO.getD | with_reducible apply State.setEntry_keeps | with_reducible apply State.storeTo_keeps
      | with_reducible apply State.setList_keeps | with_reducible apply State.serveList_keeps
      | with_reducible apply wlputAsk_keeps | with_reducible apply Keeps.foldl | with_reducible apply Keeps.foldlFst
      | with_reducible apply Keeps.foldlSnd | ((with_reducible apply Same.mk) <;> first | exact no ‹_› | exact fun _ => rfl)
      | intro _ | split | assumption | with_reducible apply Keeps.sends | fail_if_no_progress with_reducible apply Keeps.update

theorem cmdWlput_ends {pt : Parts}  (x_tiles : pt.tiles = false := by assumption) (x_net : pt.net = false := by assumption) :
    CmdEnds pt (cmdWlput) where
  finish := by
    intro a s n st x h
    unfold cmdWlput
    try dsimp only
    repeat' first
      | with_reducible assumption | with_reducible apply KeepsR.next | with_reducible apply KeepsR.fault
      | with_reducible apply KeepsR.atPlace | with_reducible apply KeepsO.some | with_reducible apply KeepsO.none
      | with_reducible apply KeepsO.getD | with_reducible apply State.setEntry_keeps | with_reducible apply State.storeTo_keeps
      | with_reducible apply State.setList_keeps | with_reducible apply State.serveList_keeps
      | with_reducible apply wlputAsk_keeps | with_reducible apply Keeps.foldl | with_reducible apply Keeps.foldlFst
      | with_reducible apply Keeps.foldlSnd | ((with_reducible apply Same.mk) <;> first | exact no ‹_› | exact fun _ => rfl)
      | intro _ | split | assumption | with_reducible apply Keeps.sends | fail_if_no_progress with_reducible apply Keeps.update

theorem cmdWlclose_keeps {pt : Parts}  (x_tiles : pt.tiles = false := by assumption) (x_net : pt.net = false := by assumption) :
    CmdKeeps pt (cmdWlclose) where
  run := by
    intro a s n st x h
    unfold cmdWlclose
    try dsimp only
    repeat' first
      | with_reducible assumption | with_reducible apply KeepsR.next | with_reducible apply KeepsR.fault
      | with_reducible apply KeepsR.atPlace | with_reducible apply KeepsO.some | with_reducible apply KeepsO.none
      | with_reducible apply KeepsO.getD | with_reducible apply State.setEntry_keeps | with_reducible apply State.setList_keeps
      | with_reducible apply State.serveList_keeps | with_reducible apply Keeps.foldl | with_reducible apply Keeps.foldlFst
      | with_reducible apply Keeps.foldlSnd | ((with_reducible apply Same.mk) <;> first | exact no ‹_› | exact fun _ => rfl)
      | intro _ | split | assumption | with_reducible apply Keeps.sends | fail_if_no_progress with_reducible apply Keeps.update
  ask := by
    intro f e a s n st x h
    unfold cmdWlclose at e
    try dsimp only at e
    first
      | (cases e; done)
      | skip
    try (cases e; try dsimp only)
    repeat' first
      | with_reducible assumption | with_reducible apply KeepsR.next | with_reducible apply KeepsR.fault
      | with_reducible apply KeepsR.atPlace | with_reducible apply KeepsO.some | with_reducible apply KeepsO.none
      | with_reducible apply KeepsO.getD | with_reducible apply State.setEntry_keeps | with_reducible apply State.setList_keeps
      | with_reducible apply State.serveList_keeps | with_reducible apply Keeps.foldl | with_reducible apply Keeps.foldlFst
      | with_reducible apply Keeps.foldlSnd | ((with_reducible apply Same.mk) <;> first | exact no ‹_› | exact fun _ => rfl)
      | intro _ | split | assumption | with_reducible apply Keeps.sends | fail_if_no_progress with_reducible apply Keeps.update

theorem cmdWlclose_ends {pt : Parts}   : CmdEnds pt (cmdWlclose) where
  finish := by
    intro a s n st x h
    unfold cmdWlclose
    try dsimp only
    repeat' first
      | with_reducible assumption | with_reducible apply KeepsR.next | with_reducible apply KeepsR.fault
      | with_reducible apply KeepsR.atPlace | with_reducible apply KeepsO.some | with_reducible apply KeepsO.none
      | with_reducible apply KeepsO.getD | with_reducible apply State.setEntry_keeps | with_reducible apply State.setList_keeps
      | with_reducible apply State.serveList_keeps | with_reducible apply Keeps.foldl | with_reducible apply Keeps.foldlFst
      | with_reducible apply Keeps.foldlSnd | ((with_reducible apply Same.mk) <;> first | exact no ‹_› | exact fun _ => rfl)
      | intro _ | split | assumption | with_reducible apply Keeps.sends | fail_if_no_progress with_reducible apply Keeps.update

theorem State.holdItemTiles_keeps {pt : Parts} {a : State} (s : State) (n : Nat) (h0 : Option Stream) (h : Keeps pt a s) (x_tiles
    : pt.tiles = false := by assumption) :
        Keeps pt a (State.holdItemTiles s n h0) := by
  unfold State.holdItemTiles
  try dsimp only
  repeat' first
    | with_reducible assumption | with_reducible apply KeepsR.next | with_reducible apply KeepsR.fault
    | with_reducible apply KeepsR.atPlace | with_reducible apply KeepsO.some | with_reducible apply KeepsO.none
    | with_reducible apply KeepsO.getD | with_reducible apply State.modTile_keeps | with_reducible apply Keeps.foldl
    | with_reducible apply Keeps.foldlFst | with_reducible apply Keeps.foldlSnd
    | ((with_reducible apply Same.mk) <;> first | exact no ‹_› | exact fun _ => rfl) | intro _ | split | assumption
    | with_reducible apply Keeps.sends | fail_if_no_progress with_reducible apply Keeps.update

theorem State.askItem_keeps {pt : Parts} {a : State} (s : State) (n : Nat) (st : Stream) (h : Keeps pt a s) (x_tiles : pt.tiles =
    false := by assumption) (x_net : pt.net = false := by assumption) :
        Keeps pt a (State.askItem s n st) := by
  unfold State.askItem
  try dsimp only
  repeat' first
    | with_reducible assumption | with_reducible apply KeepsR.next | with_reducible apply KeepsR.fault
    | with_reducible apply KeepsR.atPlace | with_reducible apply KeepsO.some | with_reducible apply KeepsO.none
    | with_reducible apply KeepsO.getD | with_reducible apply State.modTile_keeps | with_reducible apply State.issued_keeps
    | with_reducible apply State.cmdSend_keeps | with_reducible apply Keeps.foldl | with_reducible apply Keeps.foldlFst
    | with_reducible apply Keeps.foldlSnd | ((with_reducible apply Same.mk) <;> first | exact no ‹_› | exact fun _ => rfl)
    | intro _ | split | assumption | with_reducible apply Keeps.sends | fail_if_no_progress with_reducible apply Keeps.update

theorem cmdWlrun_keeps {pt : Parts}  (x_tiles : pt.tiles = false := by assumption) (x_net : pt.net = false := by assumption) :
    CmdKeeps pt (cmdWlrun) where
  run := by
    intro a s n st x h
    unfold cmdWlrun
    try dsimp only
    repeat' first
      | with_reducible assumption | with_reducible apply KeepsR.next | with_reducible apply KeepsR.fault
      | with_reducible apply KeepsR.atPlace | with_reducible apply KeepsO.some | with_reducible apply KeepsO.none
      | with_reducible apply KeepsO.getD | with_reducible apply State.modTile_keeps | with_reducible apply State.setEntry_keeps
      | with_reducible apply State.freeList_keeps | with_reducible apply State.holdItemTiles_keeps
      | with_reducible apply State.askItem_keeps | with_reducible apply Keeps.foldl | with_reducible apply Keeps.foldlFst
      | with_reducible apply Keeps.foldlSnd | ((with_reducible apply Same.mk) <;> first | exact no ‹_› | exact fun _ => rfl)
      | intro _ | split | assumption | with_reducible apply Keeps.sends | fail_if_no_progress with_reducible apply Keeps.update
  ask := by
    intro f e a s n st x h
    unfold cmdWlrun at e
    try dsimp only at e
    first
      | (cases e; done)
      | skip
    try (cases e; try dsimp only)
    repeat' first
      | with_reducible assumption | with_reducible apply KeepsR.next | with_reducible apply KeepsR.fault
      | with_reducible apply KeepsR.atPlace | with_reducible apply KeepsO.some | with_reducible apply KeepsO.none
      | with_reducible apply KeepsO.getD | with_reducible apply State.modTile_keeps | with_reducible apply State.setEntry_keeps
      | with_reducible apply State.freeList_keeps | with_reducible apply State.holdItemTiles_keeps
      | with_reducible apply State.askItem_keeps | with_reducible apply Keeps.foldl | with_reducible apply Keeps.foldlFst
      | with_reducible apply Keeps.foldlSnd | ((with_reducible apply Same.mk) <;> first | exact no ‹_› | exact fun _ => rfl)
      | intro _ | split | assumption | with_reducible apply Keeps.sends | fail_if_no_progress with_reducible apply Keeps.update

theorem cmdWlrun_ends {pt : Parts}  (x_tiles : pt.tiles = false := by assumption) : CmdEnds pt (cmdWlrun) where
  finish := by
    intro a s n st x h
    unfold cmdWlrun
    try dsimp only
    repeat' first
      | with_reducible assumption | with_reducible apply KeepsR.next | with_reducible apply KeepsR.fault
      | with_reducible apply KeepsR.atPlace | with_reducible apply KeepsO.some | with_reducible apply KeepsO.none
      | with_reducible apply KeepsO.getD | with_reducible apply State.modTile_keeps | with_reducible apply State.setEntry_keeps
      | with_reducible apply State.freeList_keeps | with_reducible apply State.holdItemTiles_keeps
      | with_reducible apply State.askItem_keeps | with_reducible apply Keeps.foldl | with_reducible apply Keeps.foldlFst
      | with_reducible apply Keeps.foldlSnd | ((with_reducible apply Same.mk) <;> first | exact no ‹_› | exact fun _ => rfl)
      | intro _ | split | assumption | with_reducible apply Keeps.sends | fail_if_no_progress with_reducible apply Keeps.update

theorem State.setRun_keeps {pt : Parts} {a : State} (s : State) (n : Nat) (st : Stream) (r : ListRun) (h : Keeps pt a s) (x_tiles
    : pt.tiles = false := by assumption) :
        Keeps pt a (State.setRun s n st r) := by
  unfold State.setRun
  try dsimp only
  repeat' first
    | with_reducible assumption | with_reducible apply KeepsR.next | with_reducible apply KeepsR.fault
    | with_reducible apply KeepsR.atPlace | with_reducible apply KeepsO.some | with_reducible apply KeepsO.none
    | with_reducible apply KeepsO.getD | with_reducible apply State.modTile_keeps | with_reducible apply Keeps.foldl
    | with_reducible apply Keeps.foldlFst | with_reducible apply Keeps.foldlSnd
    | ((with_reducible apply Same.mk) <;> first | exact no ‹_› | exact fun _ => rfl) | intro _ | split | assumption
    | with_reducible apply Keeps.sends | fail_if_no_progress with_reducible apply Keeps.update

theorem State.itemEntries_keeps {pt : Parts} {a : State} (s : State) (n : Nat) (st : Stream) (chan : Word) (w : Nat) (cmds : List
    (Nat × Nat × Nat × Nat)) (h : Keeps pt a s) :
        Keeps pt a (State.itemEntries s n st chan w cmds).1 := by
  unfold State.itemEntries
  try dsimp only
  repeat' first
    | with_reducible assumption | with_reducible apply KeepsR.next | with_reducible apply KeepsR.fault
    | with_reducible apply KeepsR.atPlace | with_reducible apply KeepsO.some | with_reducible apply KeepsO.none
    | with_reducible apply KeepsO.getD | with_reducible apply State.fresh_keeps | with_reducible apply Keeps.foldl
    | with_reducible apply Keeps.foldlFst | with_reducible apply Keeps.foldlSnd
    | ((with_reducible apply Same.mk) <;> first | exact no ‹_› | exact fun _ => rfl) | intro _ | split | assumption
    | with_reducible apply Keeps.sends | fail_if_no_progress with_reducible apply Keeps.update

theorem State.expandItem_keeps {pt : Parts} {a : State} (s : State) (n : Nat) (st : Stream) (h : Keeps pt a s) (x_tiles : pt.tiles
    = false := by assumption) :
        Keeps pt a (State.expandItem s n st) := by
  unfold State.expandItem
  try dsimp only
  split
  · exact h
  · split
    · exact h
    · split
      · exact h
      · refine State.setRun_keeps _ _ _ _ (Keeps.foldlFst h _ fun t x ht => ?_)
        exact State.fresh_keeps _ ht

theorem State.loadItems_keeps {pt : Parts} {a : State} (s : State) (n : Nat) (st : Stream) (h : Keeps pt a s) (x_tiles : pt.tiles
    = false := by assumption) (x_ctxs : pt.ctxs = false := by assumption) (x_mem : pt.mem = false := by assumption) (x_bad :
    pt.bad = false := by assumption) (x_snaps : pt.snaps = false := by assumption) (x_trouble : pt.trouble = false := by
    assumption) (x_ports : pt.ports = false := by assumption) :
        Keeps pt a (State.loadItems s n st) := by
  unfold State.loadItems
  try dsimp only
  repeat' first
    | with_reducible assumption | with_reducible apply KeepsR.next | with_reducible apply KeepsR.fault
    | with_reducible apply KeepsR.atPlace | with_reducible apply KeepsO.some | with_reducible apply KeepsO.none
    | with_reducible apply KeepsO.getD | with_reducible apply State.writeChecked_keeps | with_reducible apply State.cmdHalt_keeps
    | with_reducible apply State.setRun_keeps | with_reducible apply State.expandItem_keeps | with_reducible apply Keeps.foldl
    | with_reducible apply Keeps.foldlFst | with_reducible apply Keeps.foldlSnd
    | ((with_reducible apply Same.mk) <;> first | exact no ‹_› | exact fun _ => rfl) | intro _ | split | assumption
    | with_reducible apply Keeps.sends | fail_if_no_progress with_reducible apply Keeps.update

theorem State.pumpItems_keeps {pt : Parts} {a : State} (s : State) (n : Nat) (st : Stream) (h : Keeps pt a s) (x_tiles : pt.tiles
    = false := by assumption) (x_ctxs : pt.ctxs = false := by assumption) (x_mem : pt.mem = false := by assumption) (x_bad :
    pt.bad = false := by assumption) (x_net : pt.net = false := by assumption) (x_snaps : pt.snaps = false := by assumption)
    (x_trouble : pt.trouble = false := by assumption) (x_ports : pt.ports = false := by assumption) (x_fabric : pt.fabric = false
    := by assumption) :
        Keeps pt a (State.pumpItems s n st) := by
  unfold State.pumpItems
  try dsimp only
  repeat' first
    | with_reducible assumption | with_reducible apply KeepsR.next | with_reducible apply KeepsR.fault
    | with_reducible apply KeepsR.atPlace | with_reducible apply KeepsO.some | with_reducible apply KeepsO.none
    | with_reducible apply KeepsO.getD | with_reducible apply State.pieceSend_keeps | with_reducible apply State.setRun_keeps
    | with_reducible apply State.loadItems_keeps | with_reducible apply Keeps.foldl | with_reducible apply Keeps.foldlFst
    | with_reducible apply Keeps.foldlSnd | ((with_reducible apply Same.mk) <;> first | exact no ‹_› | exact fun _ => rfl)
    | intro _ | split | assumption | with_reducible apply Keeps.sends | fail_if_no_progress with_reducible apply Keeps.update

theorem State.pumpTile_keeps {pt : Parts} {a : State} (s : State) (n : Nat) (h : Keeps pt a s) (x_tiles : pt.tiles = false := by
    assumption) (x_ctxs : pt.ctxs = false := by assumption) (x_mem : pt.mem = false := by assumption) (x_bad : pt.bad = false :=
    by assumption) (x_net : pt.net = false := by assumption) (x_snaps : pt.snaps = false := by assumption) (x_trouble : pt.trouble
    = false := by assumption) (x_ports : pt.ports = false := by assumption) (x_fabric : pt.fabric = false := by assumption) :
        Keeps pt a (State.pumpTile s n) := by
  exact State.pumpUnsent_keeps _ _ (Keeps.foldl (State.pumpEntries_keeps _ _ h) _ fun _ _ k => State.pumpItems_keeps _ _ _ k)

theorem State.acked_keeps {pt : Parts} {a : State} (s : State) (n : Nat) (uid : Nat) (h : Keeps pt a s) (x_tiles : pt.tiles =
    false := by assumption) (x_ctxs : pt.ctxs = false := by assumption) (x_mem : pt.mem = false := by assumption) (x_bad : pt.bad
    = false := by assumption) (x_net : pt.net = false := by assumption) (x_snaps : pt.snaps = false := by assumption) (x_trouble :
    pt.trouble = false := by assumption) (x_ports : pt.ports = false := by assumption) (x_fabric : pt.fabric = false := by
    assumption) :
        Keeps pt a (State.acked s n uid) := by
  exact State.pumpTile_keeps _ _ (State.flushClosing_keeps _ _ (State.repaid_keeps _ _ _ h))

theorem State.startItem_keeps {pt : Parts} {a : State} (s : State) (n : Nat) (st : Stream) (h : Keeps pt a s) (x_tiles : pt.tiles
    = false := by assumption) (x_ctxs : pt.ctxs = false := by assumption) (x_mem : pt.mem = false := by assumption) (x_bad :
    pt.bad = false := by assumption) (x_net : pt.net = false := by assumption) (x_snaps : pt.snaps = false := by assumption)
    (x_trouble : pt.trouble = false := by assumption) (x_ports : pt.ports = false := by assumption) (x_fabric : pt.fabric = false
    := by assumption) :
        Keeps pt a (State.startItem s n st) := by
  unfold State.startItem
  try dsimp only
  repeat' first
    | with_reducible assumption | with_reducible apply KeepsR.next | with_reducible apply KeepsR.fault
    | with_reducible apply KeepsR.atPlace | with_reducible apply KeepsO.some | with_reducible apply KeepsO.none
    | with_reducible apply KeepsO.getD | with_reducible apply State.cmdHalt_keeps | with_reducible apply State.makePieces_keeps
    | with_reducible apply State.setRun_keeps | with_reducible apply State.pumpItems_keeps | with_reducible apply Keeps.foldl
    | with_reducible apply Keeps.foldlFst | with_reducible apply Keeps.foldlSnd
    | ((with_reducible apply Same.mk) <;> first | exact no ‹_› | exact fun _ => rfl) | intro _ | split | assumption
    | with_reducible apply Keeps.sends | fail_if_no_progress with_reducible apply Keeps.update

theorem execWorkListReservation_keeps {pt : Parts} {a : State} (k : Nat) (s : State) (h : Keeps pt a s) (x_tiles : pt.tiles =
    false := by assumption) (x_net : pt.net = false := by assumption) (x_trouble : pt.trouble = false := by assumption) :
        KeepsR pt a (execWorkListReservation k s) := by
  unfold execWorkListReservation
  try dsimp only
  repeat' first
    | with_reducible assumption | with_reducible apply KeepsR.next | with_reducible apply KeepsR.fault
    | with_reducible apply KeepsR.atPlace | with_reducible apply KeepsO.some | with_reducible apply KeepsO.none
    | with_reducible apply KeepsO.getD | with_reducible apply State.reply_keeps | with_reducible apply onPacket_keeps
    | with_reducible apply State.setList_keeps | with_reducible apply State.serveList_keeps | with_reducible apply Keeps.foldl
    | with_reducible apply Keeps.foldlFst | with_reducible apply Keeps.foldlSnd
    | ((with_reducible apply Same.mk) <;> first | exact no ‹_› | exact fun _ => rfl) | intro _ | split | assumption
    | with_reducible apply Keeps.sends | fail_if_no_progress with_reducible apply Keeps.update

theorem execItemRequest_keeps {pt : Parts} {a : State} (k : Nat) (s : State) (h : Keeps pt a s) (x_tiles : pt.tiles = false := by
    assumption) (x_net : pt.net = false := by assumption) (x_trouble : pt.trouble = false := by assumption) :
        KeepsR pt a (execItemRequest k s) := by
  unfold execItemRequest
  try dsimp only
  repeat' first
    | with_reducible assumption | with_reducible apply KeepsR.next | with_reducible apply KeepsR.fault
    | with_reducible apply KeepsR.atPlace | with_reducible apply KeepsO.some | with_reducible apply KeepsO.none
    | with_reducible apply KeepsO.getD | with_reducible apply State.reply_keeps | with_reducible apply onPacket_keeps
    | with_reducible apply State.setList_keeps | with_reducible apply State.serveList_keeps | with_reducible apply Keeps.foldl
    | with_reducible apply Keeps.foldlFst | with_reducible apply Keeps.foldlSnd
    | ((with_reducible apply Same.mk) <;> first | exact no ‹_› | exact fun _ => rfl) | intro _ | split | assumption
    | with_reducible apply Keeps.sends | fail_if_no_progress with_reducible apply Keeps.update

theorem execItemArrive_keeps {pt : Parts} {a : State} (k : Nat) (s : State) (h : Keeps pt a s) (x_tiles : pt.tiles = false := by
    assumption) (x_ctxs : pt.ctxs = false := by assumption) (x_mem : pt.mem = false := by assumption) (x_bad : pt.bad = false :=
    by assumption) (x_net : pt.net = false := by assumption) (x_snaps : pt.snaps = false := by assumption) (x_trouble : pt.trouble
    = false := by assumption) (x_ports : pt.ports = false := by assumption) (x_fabric : pt.fabric = false := by assumption) :
        KeepsR pt a (execItemArrive k s) := by
  unfold execItemArrive
  try dsimp only
  repeat' first
    | with_reducible assumption | with_reducible apply KeepsR.next | with_reducible apply KeepsR.fault
    | with_reducible apply KeepsR.atPlace | with_reducible apply KeepsO.some | with_reducible apply KeepsO.none
    | with_reducible apply KeepsO.getD | with_reducible apply State.fresh_keeps | with_reducible apply State.progressed_keeps
    | with_reducible apply onPacket_keeps | with_reducible apply State.askItem_keeps | with_reducible apply State.setRun_keeps
    | with_reducible apply State.startItem_keeps | with_reducible apply Keeps.foldl | with_reducible apply Keeps.foldlFst
    | with_reducible apply Keeps.foldlSnd | ((with_reducible apply Same.mk) <;> first | exact no ‹_› | exact fun _ => rfl)
    | intro _ | split | assumption | with_reducible apply Keeps.sends | fail_if_no_progress with_reducible apply Keeps.update

theorem State.lockItems_keeps {pt : Parts} {a : State} (x0 : Nat) (x1 : Nat) (x2 : Nat) (x3 : State) (h : Keeps pt a x3) (x_tiles
    : pt.tiles = false := by assumption) (x_mem : pt.mem = false := by assumption) (x_bad : pt.bad = false := by assumption)
    (x_trouble : pt.trouble = false := by assumption) (x_ports : pt.ports = false := by assumption) :
        Keeps pt a (State.lockItems x0 x1 x2 x3) := by
  induction x0 generalizing x3 with
  | zero => exact h
  | succ k ih =>
    unfold State.lockItems
    try dsimp only
    split
    · exact h
    · exact ih _ (State.lockDigest_keeps _ _ _ _ _ _ (State.modTile_keeps _ _ _ h))

theorem State.lockItem_keeps {pt : Parts} {a : State} (s : State) (st : Stream) (r : ListRun) (i : Item) (chan : Word) (outs :
    List (Nat × Nat × List Byte)) (h : Keeps pt a s) (x_tiles : pt.tiles = false := by assumption) (x_mem : pt.mem = false := by
    assumption) (x_bad : pt.bad = false := by assumption) (x_trouble : pt.trouble = false := by assumption) (x_ports : pt.ports =
    false := by assumption) :
        Keeps pt a (State.lockItem s st r i chan outs) := by
  unfold State.lockItem
  try dsimp only
  repeat' first
    | with_reducible assumption | with_reducible apply KeepsR.next | with_reducible apply KeepsR.fault
    | with_reducible apply KeepsR.atPlace | with_reducible apply KeepsO.some | with_reducible apply KeepsO.none
    | with_reducible apply KeepsO.getD | with_reducible apply State.setLockSeq_keeps | with_reducible apply State.lockItems_keeps
    | with_reducible apply Keeps.foldl | with_reducible apply Keeps.foldlFst | with_reducible apply Keeps.foldlSnd
    | ((with_reducible apply Same.mk) <;> first | exact no ‹_› | exact fun _ => rfl) | intro _ | split | assumption
    | with_reducible apply Keeps.sends | fail_if_no_progress with_reducible apply Keeps.update

theorem execItemComplete_keeps {pt : Parts} {a : State} (n : Nat) (st : Stream) (s : State) (h : Keeps pt a s) (x_tiles : pt.tiles
    = false := by assumption) (x_ctxs : pt.ctxs = false := by assumption) (x_mem : pt.mem = false := by assumption) (x_bad :
    pt.bad = false := by assumption) (x_net : pt.net = false := by assumption) (x_snaps : pt.snaps = false := by assumption)
    (x_trouble : pt.trouble = false := by assumption) (x_ports : pt.ports = false := by assumption) (x_fabric : pt.fabric = false
    := by assumption) :
        KeepsR pt a (execItemComplete n st s) := by
  unfold execItemComplete
  try dsimp only
  repeat' first
    | with_reducible assumption | with_reducible apply KeepsR.next | with_reducible apply KeepsR.fault
    | with_reducible apply KeepsR.atPlace | with_reducible apply KeepsO.some | with_reducible apply KeepsO.none
    | with_reducible apply KeepsO.getD | with_reducible apply State.progressed_keeps | with_reducible apply State.cmdHalt_keeps
    | with_reducible apply State.signalFrom_keeps | with_reducible apply State.storeTo_keeps
    | with_reducible apply State.askItem_keeps | with_reducible apply State.setRun_keeps
    | with_reducible apply State.loadItems_keeps | with_reducible apply State.startItem_keeps
    | with_reducible apply State.lockItem_keeps | with_reducible apply Keeps.foldl | with_reducible apply Keeps.foldlFst
    | with_reducible apply Keeps.foldlSnd | ((with_reducible apply Same.mk) <;> first | exact no ‹_› | exact fun _ => rfl)
    | intro _ | split | assumption | with_reducible apply Keeps.sends | fail_if_no_progress with_reducible apply Keeps.update

end Sys2Proof.Machine
end

