-- ==== Sys2Proof/Laws/KeepHome.lean ====
section
/-!
SUPPORT. What the operations of Machine/Home.lean keep (Laws/Keeps.lean).
-/
namespace Sys2Proof.Machine

set_option linter.unusedTactic false
set_option linter.unreachableTactic false
set_option Elab.async false

theorem execHomeRequest_keeps {pt : Parts} {a : State} (k : Nat) (ecc : Ecc) (s : State) (h : Keeps pt a s) (x_tiles : pt.tiles =
    false := by assumption) (x_ctxs : pt.ctxs = false := by assumption) (x_mem : pt.mem = false := by assumption) (x_bad : pt.bad
    = false := by assumption) (x_net : pt.net = false := by assumption) (x_snaps : pt.snaps = false := by assumption) (x_trouble :
    pt.trouble = false := by assumption) (x_ports : pt.ports = false := by assumption) (x_fabric : pt.fabric = false := by
    assumption) :
        KeepsR pt a (execHomeRequest k ecc s) := by
  unfold execHomeRequest
  try dsimp only
  repeat' first
    | with_reducible assumption | with_reducible apply KeepsR.next | with_reducible apply KeepsR.fault
    | with_reducible apply KeepsR.atPlace | with_reducible apply KeepsO.some | with_reducible apply KeepsO.none
    | with_reducible apply KeepsO.getD | with_reducible apply State.eccCheck_keeps | with_reducible apply State.writeHome_keeps
    | with_reducible apply State.reply_keeps | with_reducible apply onPacket_keeps | with_reducible apply State.ueFor_keeps
    | with_reducible apply State.countVary_keeps | with_reducible apply State.hotLine_keeps | with_reducible apply Keeps.foldl
    | with_reducible apply Keeps.foldlFst | with_reducible apply Keeps.foldlSnd
    | ((with_reducible apply Same.mk) <;> first | exact no ‹_› | exact fun _ => rfl) | intro _ | split | assumption
    | with_reducible apply Keeps.sends | fail_if_no_progress with_reducible apply Keeps.update

theorem State.coreLand_keeps {pt : Parts} {a : State} (s : State) (p : Packet) (n : Nat) (m : Nat) (off : Nat) (bs : List Byte)
    (uid : Nat) (h : Keeps pt a s) (x_tiles : pt.tiles = false := by assumption) (x_ctxs : pt.ctxs = false := by assumption)
    (x_net : pt.net = false := by assumption) (x_trouble : pt.trouble = false := by assumption) (x_ports : pt.ports = false := by
    assumption) :
        Keeps pt a (State.coreLand s p n m off bs uid) := by
  unfold State.coreLand
  try dsimp only
  repeat' first
    | with_reducible assumption | with_reducible apply KeepsR.next | with_reducible apply KeepsR.fault
    | with_reducible apply KeepsR.atPlace | with_reducible apply KeepsO.some | with_reducible apply KeepsO.none
    | with_reducible apply KeepsO.getD | with_reducible apply State.modTile_keeps | with_reducible apply State.halt_keeps
    | with_reducible apply State.coreUe_keeps | with_reducible apply State.reply_keeps | with_reducible apply Keeps.foldl
    | with_reducible apply Keeps.foldlFst | with_reducible apply Keeps.foldlSnd
    | ((with_reducible apply Same.mk) <;> first | exact no ‹_› | exact fun _ => rfl) | intro _ | split | assumption
    | with_reducible apply Keeps.sends | fail_if_no_progress with_reducible apply Keeps.update

theorem execTileStoreRemoteAccess_keeps {pt : Parts} {a : State} (k : Nat) (ecc : Ecc) (s : State) (h : Keeps pt a s) (x_tiles :
    pt.tiles = false := by assumption) (x_ctxs : pt.ctxs = false := by assumption) (x_mem : pt.mem = false := by assumption)
    (x_bad : pt.bad = false := by assumption) (x_net : pt.net = false := by assumption) (x_snaps : pt.snaps = false := by
    assumption) (x_trouble : pt.trouble = false := by assumption) (x_ports : pt.ports = false := by assumption) :
        KeepsR pt a (execTileStoreRemoteAccess k ecc s) := by
  unfold execTileStoreRemoteAccess
  try dsimp only
  repeat' first
    | with_reducible assumption | with_reducible apply KeepsR.next | with_reducible apply KeepsR.fault
    | with_reducible apply KeepsR.atPlace | with_reducible apply KeepsO.some | with_reducible apply KeepsO.none
    | with_reducible apply KeepsO.getD | with_reducible apply State.eccCheck_keeps | with_reducible apply State.coreCheck_keeps
    | with_reducible apply State.writeHome_keeps | with_reducible apply State.reply_keeps | with_reducible apply onPacket_keeps
    | with_reducible apply State.ueFor_keeps | with_reducible apply State.coreLand_keeps | with_reducible apply Keeps.foldl
    | with_reducible apply Keeps.foldlFst | with_reducible apply Keeps.foldlSnd
    | ((with_reducible apply Same.mk) <;> first | exact no ‹_› | exact fun _ => rfl) | intro _ | split | assumption
    | with_reducible apply Keeps.sends | fail_if_no_progress with_reducible apply Keeps.update

theorem State.dataFor_keeps {pt : Parts} {a : State} (s : State) (n : Nat) (st : Stream) (uid : Nat) (bytes : List Byte) (h :
    Keeps pt a s) (x_tiles : pt.tiles = false := by assumption) (x_ctxs : pt.ctxs = false := by assumption) (x_mem : pt.mem =
    false := by assumption) (x_bad : pt.bad = false := by assumption) (x_net : pt.net = false := by assumption) (x_snaps :
    pt.snaps = false := by assumption) (x_trouble : pt.trouble = false := by assumption) (x_ports : pt.ports = false := by
    assumption) (x_fabric : pt.fabric = false := by assumption) :
        Keeps pt a (State.dataFor s n st uid bytes) := by
  unfold State.dataFor
  try dsimp only
  repeat' first
    | with_reducible assumption | with_reducible apply KeepsR.next | with_reducible apply KeepsR.fault
    | with_reducible apply KeepsR.atPlace | with_reducible apply KeepsO.some | with_reducible apply KeepsO.none
    | with_reducible apply KeepsO.getD | with_reducible apply State.countDrop_keeps | with_reducible apply State.progressed_keeps
    | with_reducible apply State.setEntry_keeps | with_reducible apply State.moveReady_keeps
    | with_reducible apply State.setRun_keeps | with_reducible apply State.pumpTile_keeps | with_reducible apply Keeps.foldl
    | with_reducible apply Keeps.foldlFst | with_reducible apply Keeps.foldlSnd
    | ((with_reducible apply Same.mk) <;> first | exact no ‹_› | exact fun _ => rfl) | intro _ | split | assumption
    | with_reducible apply Keeps.sends | fail_if_no_progress with_reducible apply Keeps.update

theorem State.answerFor_keeps {pt : Parts} {a : State} (s : State) (n : Nat) (st : Stream) (uid : Nat) (entry : Nat) (nums : List
    Nat) (h : Keeps pt a s) (x_tiles : pt.tiles = false := by assumption) (x_ctxs : pt.ctxs = false := by assumption) (x_mem :
    pt.mem = false := by assumption) (x_bad : pt.bad = false := by assumption) (x_net : pt.net = false := by assumption) (x_snaps
    : pt.snaps = false := by assumption) (x_trouble : pt.trouble = false := by assumption) (x_ports : pt.ports = false := by
    assumption) (x_fabric : pt.fabric = false := by assumption) :
        Keeps pt a (State.answerFor s n st uid entry nums) := by
  unfold State.answerFor
  try dsimp only
  repeat' first
    | with_reducible assumption | with_reducible apply KeepsR.next | with_reducible apply KeepsR.fault
    | with_reducible apply KeepsR.atPlace | with_reducible apply KeepsO.some | with_reducible apply KeepsO.none
    | with_reducible apply KeepsO.getD | with_reducible apply State.countDrop_keeps | with_reducible apply State.progressed_keeps
    | with_reducible apply State.setEntry_keeps | with_reducible apply State.pumpTile_keeps | with_reducible apply Keeps.foldl
    | with_reducible apply Keeps.foldlFst | with_reducible apply Keeps.foldlSnd
    | ((with_reducible apply Same.mk) <;> first | exact no ‹_› | exact fun _ => rfl) | intro _ | split | assumption
    | with_reducible apply Keeps.sends | fail_if_no_progress with_reducible apply Keeps.update

theorem State.ackFor_keeps {pt : Parts} {a : State} (s : State) (n : Nat) (st : Stream) (uid : Nat) (h : Keeps pt a s) (x_tiles :
    pt.tiles = false := by assumption) (x_ctxs : pt.ctxs = false := by assumption) (x_mem : pt.mem = false := by assumption)
    (x_bad : pt.bad = false := by assumption) (x_net : pt.net = false := by assumption) (x_snaps : pt.snaps = false := by
    assumption) (x_trouble : pt.trouble = false := by assumption) (x_ports : pt.ports = false := by assumption) (x_fabric :
    pt.fabric = false := by assumption) :
        Keeps pt a (State.ackFor s n st uid) := by
  unfold State.ackFor
  try dsimp only
  repeat' first
    | with_reducible assumption | with_reducible apply Keeps.elim | with_reducible apply KeepsR.next
    | with_reducible apply KeepsR.fault | with_reducible apply KeepsR.atPlace | with_reducible apply KeepsO.some
    | with_reducible apply KeepsO.none | with_reducible apply KeepsO.getD | with_reducible apply State.progressed_keeps
    | with_reducible apply State.setEntry_keeps | with_reducible apply State.acked_keeps | with_reducible apply Keeps.foldl
    | with_reducible apply Keeps.foldlFst | with_reducible apply Keeps.foldlSnd
    | ((with_reducible apply Same.mk) <;> first | exact no ‹_› | exact fun _ => rfl) | intro _ | split | assumption
    | with_reducible apply Keeps.sends | fail_if_no_progress with_reducible apply Keeps.update

theorem execReplyArrive_keeps {pt : Parts} {a : State} (k : Nat) (s : State) (h : Keeps pt a s) (x_tiles : pt.tiles = false := by
    assumption) (x_ctxs : pt.ctxs = false := by assumption) (x_mem : pt.mem = false := by assumption) (x_bad : pt.bad = false :=
    by assumption) (x_net : pt.net = false := by assumption) (x_snaps : pt.snaps = false := by assumption) (x_trouble : pt.trouble
    = false := by assumption) (x_ports : pt.ports = false := by assumption) (x_fabric : pt.fabric = false := by assumption) :
        KeepsR pt a (execReplyArrive k s) := by
  unfold execReplyArrive
  try dsimp only
  repeat' first
    | with_reducible assumption | with_reducible apply KeepsR.next | with_reducible apply KeepsR.fault
    | with_reducible apply KeepsR.atPlace | with_reducible apply KeepsO.some | with_reducible apply KeepsO.none
    | with_reducible apply KeepsO.getD | with_reducible apply onPacket_keeps | with_reducible apply State.dataFor_keeps
    | with_reducible apply State.answerFor_keeps | with_reducible apply State.ackFor_keeps | with_reducible apply Keeps.foldl
    | with_reducible apply Keeps.foldlFst | with_reducible apply Keeps.foldlSnd
    | ((with_reducible apply Same.mk) <;> first | exact no ‹_› | exact fun _ => rfl) | intro _ | split | assumption
    | with_reducible apply Keeps.sends | fail_if_no_progress with_reducible apply Keeps.update

theorem execRefusalArrive_keeps {pt : Parts} {a : State} (k : Nat) (s : State) (h : Keeps pt a s) (x_tiles : pt.tiles = false :=
    by assumption) (x_ctxs : pt.ctxs = false := by assumption) (x_mem : pt.mem = false := by assumption) (x_bad : pt.bad = false
    := by assumption) (x_net : pt.net = false := by assumption) (x_snaps : pt.snaps = false := by assumption) (x_trouble :
    pt.trouble = false := by assumption) (x_ports : pt.ports = false := by assumption) (x_fabric : pt.fabric = false := by
    assumption) :
        KeepsR pt a (execRefusalArrive k s) := by
  unfold execRefusalArrive
  try dsimp only
  repeat' first
    | with_reducible assumption | with_reducible apply KeepsR.next | with_reducible apply KeepsR.fault
    | with_reducible apply KeepsR.atPlace | with_reducible apply KeepsO.some | with_reducible apply KeepsO.none
    | with_reducible apply KeepsO.getD | with_reducible apply State.halt_keeps | with_reducible apply onPacket_keeps
    | with_reducible apply State.acked_keeps | with_reducible apply Keeps.foldl | with_reducible apply Keeps.foldlFst
    | with_reducible apply Keeps.foldlSnd | ((with_reducible apply Same.mk) <;> first | exact no ‹_› | exact fun _ => rfl)
    | intro _ | split | assumption | with_reducible apply Keeps.sends | fail_if_no_progress with_reducible apply Keeps.update

theorem execPatrolScrub_keeps {pt : Parts} {a : State} (die : Nat) (far : Bool) (channel : Nat) (ecc : Ecc) (s : State) (h : Keeps
    pt a s) (x_tiles : pt.tiles = false := by assumption) (x_ctxs : pt.ctxs = false := by assumption) (x_bad : pt.bad = false :=
    by assumption) (x_trouble : pt.trouble = false := by assumption) (x_device : pt.device = false := by assumption) (x_ports :
    pt.ports = false := by assumption) :
        KeepsR pt a (execPatrolScrub die far channel ecc s) := by
  unfold execPatrolScrub
  try dsimp only
  repeat' first
    | with_reducible assumption | with_reducible apply KeepsR.next | with_reducible apply KeepsR.fault
    | with_reducible apply KeepsR.atPlace | with_reducible apply KeepsO.some | with_reducible apply KeepsO.none
    | with_reducible apply KeepsO.getD | with_reducible apply State.eccCheck_keeps | with_reducible apply State.ueError_keeps
    | with_reducible apply Keeps.foldl | with_reducible apply Keeps.foldlFst | with_reducible apply Keeps.foldlSnd
    | ((with_reducible apply Same.mk) <;> first | exact no ‹_› | exact fun _ => rfl) | intro _ | split | assumption
    | with_reducible apply Keeps.sends | fail_if_no_progress with_reducible apply Keeps.update

end Sys2Proof.Machine
end

