-- ==== Sys2Proof/Laws/KeepTallies.lean ====
section
/-!
SUPPORT. What the operations of Machine/Tallies.lean keep (Laws/Keeps.lean).
-/
namespace Sys2Proof.Machine

set_option linter.unusedTactic false
set_option linter.unreachableTactic false
set_option Elab.async false

theorem State.setTally_keeps {pt : Parts} {a : State} (s : State) (p : Place) (g : Nat) (t : Tally) (h : Keeps pt a s) (x_tiles :
    pt.tiles = false := by assumption) (x_gtallies : pt.gtallies = false := by assumption) :
        Keeps pt a (State.setTally s p g t) := by
  unfold State.setTally
  try dsimp only
  repeat' first
    | with_reducible assumption | with_reducible apply KeepsR.next | with_reducible apply KeepsR.fault
    | with_reducible apply KeepsR.atPlace | with_reducible apply KeepsO.some | with_reducible apply KeepsO.none
    | with_reducible apply KeepsO.getD | with_reducible apply State.modTile_keeps | with_reducible apply Keeps.foldl
    | with_reducible apply Keeps.foldlFst | with_reducible apply Keeps.foldlSnd
    | ((with_reducible apply Same.mk) <;> first | exact no ‹_› | exact fun _ => rfl) | intro _ | split | assumption
    | with_reducible apply Keeps.sends | fail_if_no_progress with_reducible apply Keeps.update

theorem State.sendRelease_keeps {pt : Parts} {a : State} (s : State) (home : Place) (w : Waiter) (h : Keeps pt a s) (x_net :
    pt.net = false := by assumption) :
        Keeps pt a (State.sendRelease s home w) := by
  unfold State.sendRelease
  try dsimp only
  repeat' first
    | with_reducible assumption | with_reducible apply KeepsR.next | with_reducible apply KeepsR.fault
    | with_reducible apply KeepsR.atPlace | with_reducible apply KeepsO.some | with_reducible apply KeepsO.none
    | with_reducible apply KeepsO.getD | with_reducible apply State.send_keeps | with_reducible apply Keeps.foldl
    | with_reducible apply Keeps.foldlFst | with_reducible apply Keeps.foldlSnd
    | ((with_reducible apply Same.mk) <;> first | exact no ‹_› | exact fun _ => rfl) | intro _ | split | assumption
    | with_reducible apply Keeps.sends | fail_if_no_progress with_reducible apply Keeps.update

theorem State.countClaim_keeps {pt : Parts} {a : State} (s : State) (left : List Waiter) (w : Waiter) (h : Keeps pt a s) (x_ctxs :
    pt.ctxs = false := by assumption) :
        Keeps pt a (State.countClaim s left w) := by
  unfold State.countClaim
  try dsimp only
  repeat' first
    | with_reducible assumption | with_reducible apply KeepsR.next | with_reducible apply KeepsR.fault
    | with_reducible apply KeepsR.atPlace | with_reducible apply KeepsO.some | with_reducible apply KeepsO.none
    | with_reducible apply KeepsO.getD | with_reducible apply State.bumpVary_keeps | with_reducible apply Keeps.foldl
    | with_reducible apply Keeps.foldlFst | with_reducible apply Keeps.foldlSnd
    | ((with_reducible apply Same.mk) <;> first | exact no ‹_› | exact fun _ => rfl) | intro _ | split | assumption
    | with_reducible apply Keeps.sends | fail_if_no_progress with_reducible apply Keeps.update

theorem State.releaseAll_keeps {pt : Parts} {a : State} (s : State) (home : Place) (claims : List Waiter) (x0 : List Waiter) (h :
    Keeps pt a s) (x_ctxs : pt.ctxs = false := by assumption) (x_net : pt.net = false := by assumption) :
        Keeps pt a (State.releaseAll s home claims x0) := by
  induction x0 generalizing s with
  | nil => exact h
  | cons w ws ih => exact ih _ (State.sendRelease_keeps _ _ _ (State.countClaim_keeps _ _ _ h))

theorem State.signalAt_keeps {pt : Parts} {a : State} (s : State) (home : Place) (g : Nat) (n : Nat) (by1 : LastSignal) (h : Keeps
    pt a s) (x_tiles : pt.tiles = false := by assumption) (x_ctxs : pt.ctxs = false := by assumption) (x_net : pt.net = false :=
    by assumption) (x_gtallies : pt.gtallies = false := by assumption) (x_trouble : pt.trouble = false := by assumption) :
        Keeps pt a (State.signalAt s home g n by1) := by
  unfold State.signalAt
  try dsimp only
  repeat' first
    | with_reducible assumption | with_reducible apply Keeps.elim | with_reducible apply KeepsR.next
    | with_reducible apply KeepsR.fault | with_reducible apply KeepsR.atPlace | with_reducible apply KeepsO.some
    | with_reducible apply KeepsO.none | with_reducible apply KeepsO.getD | with_reducible apply State.alarm_keeps
    | with_reducible apply State.setTally_keeps | with_reducible apply State.releaseAll_keeps | with_reducible apply Keeps.foldl
    | with_reducible apply Keeps.foldlFst | with_reducible apply Keeps.foldlSnd
    | ((with_reducible apply Same.mk) <;> first | exact no ‹_› | exact fun _ => rfl) | intro _ | split | assumption
    | with_reducible apply Keeps.sends | fail_if_no_progress with_reducible apply Keeps.update

theorem registerAsk_keeps {pt : Parts} {a : State} (e : Engine) (kind : WaitKind) (s : State) (n : Nat) (st : Stream) (x : Entry)
    (h : Keeps pt a s) (x_tiles : pt.tiles = false := by assumption) (x_net : pt.net = false := by assumption) :
        Keeps pt a (registerAsk e kind s n st x) := by
  unfold registerAsk
  try dsimp only
  repeat' first
    | with_reducible assumption | with_reducible apply KeepsR.next | with_reducible apply KeepsR.fault
    | with_reducible apply KeepsR.atPlace | with_reducible apply KeepsO.some | with_reducible apply KeepsO.none
    | with_reducible apply KeepsO.getD | with_reducible apply State.setEntry_keeps | with_reducible apply State.cmdSend_keeps
    | with_reducible apply Keeps.foldl | with_reducible apply Keeps.foldlFst | with_reducible apply Keeps.foldlSnd
    | ((with_reducible apply Same.mk) <;> first | exact no ‹_› | exact fun _ => rfl) | intro _ | split | assumption
    | with_reducible apply Keeps.sends | fail_if_no_progress with_reducible apply Keeps.update

theorem cmdTwait_keeps {pt : Parts} (e : Engine) (x_tiles : pt.tiles = false := by assumption) (x_net : pt.net = false := by
    assumption) : CmdKeeps pt (cmdTwait e) where
  run := by
    intro a s n st x h
    unfold cmdTwait
    try dsimp only
    repeat' first
      | with_reducible assumption | with_reducible apply KeepsR.next | with_reducible apply KeepsR.fault
      | with_reducible apply KeepsR.atPlace | with_reducible apply KeepsO.some | with_reducible apply KeepsO.none
      | with_reducible apply KeepsO.getD | with_reducible apply State.setEntry_keeps | with_reducible apply registerAsk_keeps
      | with_reducible apply Keeps.foldl | with_reducible apply Keeps.foldlFst | with_reducible apply Keeps.foldlSnd
      | ((with_reducible apply Same.mk) <;> first | exact no ‹_› | exact fun _ => rfl) | intro _ | split | assumption
      | with_reducible apply Keeps.sends | fail_if_no_progress with_reducible apply Keeps.update
  ask := by
    intro f e a s n st x h
    unfold cmdTwait at e
    try dsimp only at e
    first
      | (cases e; done)
      | skip
    try (cases e; try dsimp only)
    repeat' first
      | with_reducible assumption | with_reducible apply KeepsR.next | with_reducible apply KeepsR.fault
      | with_reducible apply KeepsR.atPlace | with_reducible apply KeepsO.some | with_reducible apply KeepsO.none
      | with_reducible apply KeepsO.getD | with_reducible apply State.setEntry_keeps | with_reducible apply registerAsk_keeps
      | with_reducible apply Keeps.foldl | with_reducible apply Keeps.foldlFst | with_reducible apply Keeps.foldlSnd
      | ((with_reducible apply Same.mk) <;> first | exact no ‹_› | exact fun _ => rfl) | intro _ | split | assumption
      | with_reducible apply Keeps.sends | fail_if_no_progress with_reducible apply Keeps.update

theorem cmdTwait_ends {pt : Parts} (e : Engine)  : CmdEnds pt (cmdTwait e) where
  finish := by
    intro a s n st x h
    unfold cmdTwait
    try dsimp only
    repeat' first
      | with_reducible assumption | with_reducible apply KeepsR.next | with_reducible apply KeepsR.fault
      | with_reducible apply KeepsR.atPlace | with_reducible apply KeepsO.some | with_reducible apply KeepsO.none
      | with_reducible apply KeepsO.getD | with_reducible apply State.setEntry_keeps | with_reducible apply registerAsk_keeps
      | with_reducible apply Keeps.foldl | with_reducible apply Keeps.foldlFst | with_reducible apply Keeps.foldlSnd
      | ((with_reducible apply Same.mk) <;> first | exact no ‹_› | exact fun _ => rfl) | intro _ | split | assumption
      | with_reducible apply Keeps.sends | fail_if_no_progress with_reducible apply Keeps.update

theorem cmdTclaim_keeps {pt : Parts} (e : Engine) (x_tiles : pt.tiles = false := by assumption) (x_net : pt.net = false := by
    assumption) : CmdKeeps pt (cmdTclaim e) where
  run := by
    intro a s n st x h
    unfold cmdTclaim
    try dsimp only
    repeat' first
      | with_reducible assumption | with_reducible apply KeepsR.next | with_reducible apply KeepsR.fault
      | with_reducible apply KeepsR.atPlace | with_reducible apply KeepsO.some | with_reducible apply KeepsO.none
      | with_reducible apply KeepsO.getD | with_reducible apply State.setEntry_keeps | with_reducible apply registerAsk_keeps
      | with_reducible apply Keeps.foldl | with_reducible apply Keeps.foldlFst | with_reducible apply Keeps.foldlSnd
      | ((with_reducible apply Same.mk) <;> first | exact no ‹_› | exact fun _ => rfl) | intro _ | split | assumption
      | with_reducible apply Keeps.sends | fail_if_no_progress with_reducible apply Keeps.update
  ask := by
    intro f e a s n st x h
    unfold cmdTclaim at e
    try dsimp only at e
    first
      | (cases e; done)
      | skip
    try (cases e; try dsimp only)
    repeat' first
      | with_reducible assumption | with_reducible apply KeepsR.next | with_reducible apply KeepsR.fault
      | with_reducible apply KeepsR.atPlace | with_reducible apply KeepsO.some | with_reducible apply KeepsO.none
      | with_reducible apply KeepsO.getD | with_reducible apply State.setEntry_keeps | with_reducible apply registerAsk_keeps
      | with_reducible apply Keeps.foldl | with_reducible apply Keeps.foldlFst | with_reducible apply Keeps.foldlSnd
      | ((with_reducible apply Same.mk) <;> first | exact no ‹_› | exact fun _ => rfl) | intro _ | split | assumption
      | with_reducible apply Keeps.sends | fail_if_no_progress with_reducible apply Keeps.update

theorem cmdTclaim_ends {pt : Parts} (e : Engine)  : CmdEnds pt (cmdTclaim e) where
  finish := by
    intro a s n st x h
    unfold cmdTclaim
    try dsimp only
    repeat' first
      | with_reducible assumption | with_reducible apply KeepsR.next | with_reducible apply KeepsR.fault
      | with_reducible apply KeepsR.atPlace | with_reducible apply KeepsO.some | with_reducible apply KeepsO.none
      | with_reducible apply KeepsO.getD | with_reducible apply State.setEntry_keeps | with_reducible apply registerAsk_keeps
      | with_reducible apply Keeps.foldl | with_reducible apply Keeps.foldlFst | with_reducible apply Keeps.foldlSnd
      | ((with_reducible apply Same.mk) <;> first | exact no ‹_› | exact fun _ => rfl) | intro _ | split | assumption
      | with_reducible apply Keeps.sends | fail_if_no_progress with_reducible apply Keeps.update

theorem tsigSend_keeps {pt : Parts} {a : State} (e : Engine) (s : State) (n : Nat) (st : Stream) (x : Entry) (h : Keeps pt a s)
    (x_tiles : pt.tiles = false := by assumption) (x_net : pt.net = false := by assumption) (x_trouble : pt.trouble = false := by
    assumption) (x_ports : pt.ports = false := by assumption) (x_fabric : pt.fabric = false := by assumption) :
        Keeps pt a (tsigSend e s n st x) := by
  unfold tsigSend
  try dsimp only
  repeat' first
    | with_reducible assumption | with_reducible apply KeepsR.next | with_reducible apply KeepsR.fault
    | with_reducible apply KeepsR.atPlace | with_reducible apply KeepsO.some | with_reducible apply KeepsO.none
    | with_reducible apply KeepsO.getD | with_reducible apply State.fresh_keeps | with_reducible apply State.trace_keeps
    | with_reducible apply State.signalFrom_keeps | with_reducible apply State.request_keeps | with_reducible apply Keeps.foldl
    | with_reducible apply Keeps.foldlFst | with_reducible apply Keeps.foldlSnd
    | ((with_reducible apply Same.mk) <;> first | exact no ‹_› | exact fun _ => rfl) | intro _ | split | assumption
    | with_reducible apply Keeps.sends | fail_if_no_progress with_reducible apply Keeps.update

theorem cmdTsig_keeps {pt : Parts} (e : Engine) (x_tiles : pt.tiles = false := by assumption) : CmdKeeps pt (cmdTsig e) where
  run := by
    intro a s n st x h
    unfold cmdTsig
    try dsimp only
    repeat' first
      | with_reducible assumption | with_reducible apply KeepsR.next | with_reducible apply KeepsR.fault
      | with_reducible apply KeepsR.atPlace | with_reducible apply KeepsO.some | with_reducible apply KeepsO.none
      | with_reducible apply KeepsO.getD | with_reducible apply State.setEntry_keeps | with_reducible apply tsigSend_keeps
      | with_reducible apply Keeps.foldl | with_reducible apply Keeps.foldlFst | with_reducible apply Keeps.foldlSnd
      | ((with_reducible apply Same.mk) <;> first | exact no ‹_› | exact fun _ => rfl) | intro _ | split | assumption
      | with_reducible apply Keeps.sends | fail_if_no_progress with_reducible apply Keeps.update
  ask := by
    intro f e a s n st x h
    unfold cmdTsig at e
    try dsimp only at e
    first
      | (cases e; done)
      | skip
    try (cases e; try dsimp only)
    repeat' first
      | with_reducible assumption | with_reducible apply KeepsR.next | with_reducible apply KeepsR.fault
      | with_reducible apply KeepsR.atPlace | with_reducible apply KeepsO.some | with_reducible apply KeepsO.none
      | with_reducible apply KeepsO.getD | with_reducible apply State.setEntry_keeps | with_reducible apply tsigSend_keeps
      | with_reducible apply Keeps.foldl | with_reducible apply Keeps.foldlFst | with_reducible apply Keeps.foldlSnd
      | ((with_reducible apply Same.mk) <;> first | exact no ‹_› | exact fun _ => rfl) | intro _ | split | assumption
      | with_reducible apply Keeps.sends | fail_if_no_progress with_reducible apply Keeps.update

theorem cmdTsig_ends {pt : Parts} (e : Engine) (x_tiles : pt.tiles = false := by assumption) (x_net : pt.net = false := by
    assumption) (x_trouble : pt.trouble = false := by assumption) (x_ports : pt.ports = false := by assumption) (x_fabric :
    pt.fabric = false := by assumption) : CmdEnds pt (cmdTsig e) where
  finish := by
    intro a s n st x h
    unfold cmdTsig
    try dsimp only
    repeat' first
      | with_reducible assumption | with_reducible apply KeepsR.next | with_reducible apply KeepsR.fault
      | with_reducible apply KeepsR.atPlace | with_reducible apply KeepsO.some | with_reducible apply KeepsO.none
      | with_reducible apply KeepsO.getD | with_reducible apply State.setEntry_keeps | with_reducible apply tsigSend_keeps
      | with_reducible apply Keeps.foldl | with_reducible apply Keeps.foldlFst | with_reducible apply Keeps.foldlSnd
      | ((with_reducible apply Same.mk) <;> first | exact no ‹_› | exact fun _ => rfl) | intro _ | split | assumption
      | with_reducible apply Keeps.sends | fail_if_no_progress with_reducible apply Keeps.update

theorem cmdFence_keeps {pt : Parts} (e : Engine) (x_tiles : pt.tiles = false := by assumption) : CmdKeeps pt (cmdFence e) where
  run := by
    intro a s n st x h
    unfold cmdFence
    try dsimp only
    repeat' first
      | with_reducible assumption | with_reducible apply KeepsR.next | with_reducible apply KeepsR.fault
      | with_reducible apply KeepsR.atPlace | with_reducible apply KeepsO.some | with_reducible apply KeepsO.none
      | with_reducible apply KeepsO.getD | with_reducible apply State.setEntry_keeps | with_reducible apply Keeps.foldl
      | with_reducible apply Keeps.foldlFst | with_reducible apply Keeps.foldlSnd
      | ((with_reducible apply Same.mk) <;> first | exact no ‹_› | exact fun _ => rfl) | intro _ | split | assumption
      | with_reducible apply Keeps.sends | fail_if_no_progress with_reducible apply Keeps.update
  ask := by
    intro f e a s n st x h
    unfold cmdFence at e
    try dsimp only at e
    first
      | (cases e; done)
      | skip
    try (cases e; try dsimp only)
    repeat' first
      | with_reducible assumption | with_reducible apply KeepsR.next | with_reducible apply KeepsR.fault
      | with_reducible apply KeepsR.atPlace | with_reducible apply KeepsO.some | with_reducible apply KeepsO.none
      | with_reducible apply KeepsO.getD | with_reducible apply State.setEntry_keeps | with_reducible apply Keeps.foldl
      | with_reducible apply Keeps.foldlFst | with_reducible apply Keeps.foldlSnd
      | ((with_reducible apply Same.mk) <;> first | exact no ‹_› | exact fun _ => rfl) | intro _ | split | assumption
      | with_reducible apply Keeps.sends | fail_if_no_progress with_reducible apply Keeps.update

theorem cmdFence_ends {pt : Parts} (e : Engine)  : CmdEnds pt (cmdFence e) where
  finish := by
    intro a s n st x h
    unfold cmdFence
    try dsimp only
    repeat' first
      | with_reducible assumption | with_reducible apply KeepsR.next | with_reducible apply KeepsR.fault
      | with_reducible apply KeepsR.atPlace | with_reducible apply KeepsO.some | with_reducible apply KeepsO.none
      | with_reducible apply KeepsO.getD | with_reducible apply State.setEntry_keeps | with_reducible apply Keeps.foldl
      | with_reducible apply Keeps.foldlFst | with_reducible apply Keeps.foldlSnd
      | ((with_reducible apply Same.mk) <;> first | exact no ‹_› | exact fun _ => rfl) | intro _ | split | assumption
      | with_reducible apply Keeps.sends | fail_if_no_progress with_reducible apply Keeps.update

theorem cmdTset_keeps {pt : Parts}  (x_tiles : pt.tiles = false := by assumption) (x_net : pt.net = false := by assumption) :
    CmdKeeps pt (cmdTset) where
  run := by
    intro a s n st x h
    unfold cmdTset
    try dsimp only
    repeat' first
      | with_reducible assumption | with_reducible apply KeepsR.next | with_reducible apply KeepsR.fault
      | with_reducible apply KeepsR.atPlace | with_reducible apply KeepsO.some | with_reducible apply KeepsO.none
      | with_reducible apply KeepsO.getD | with_reducible apply State.setEntry_keeps | with_reducible apply State.cmdSend_keeps
      | with_reducible apply Keeps.foldl | with_reducible apply Keeps.foldlFst | with_reducible apply Keeps.foldlSnd
      | ((with_reducible apply Same.mk) <;> first | exact no ‹_› | exact fun _ => rfl) | intro _ | split | assumption
      | with_reducible apply Keeps.sends | fail_if_no_progress with_reducible apply Keeps.update
  ask := by
    intro f e a s n st x h
    unfold cmdTset at e
    try dsimp only at e
    first
      | (cases e; done)
      | skip
    try (cases e; try dsimp only)
    repeat' first
      | with_reducible assumption | with_reducible apply KeepsR.next | with_reducible apply KeepsR.fault
      | with_reducible apply KeepsR.atPlace | with_reducible apply KeepsO.some | with_reducible apply KeepsO.none
      | with_reducible apply KeepsO.getD | with_reducible apply State.setEntry_keeps | with_reducible apply State.cmdSend_keeps
      | with_reducible apply Keeps.foldl | with_reducible apply Keeps.foldlFst | with_reducible apply Keeps.foldlSnd
      | ((with_reducible apply Same.mk) <;> first | exact no ‹_› | exact fun _ => rfl) | intro _ | split | assumption
      | with_reducible apply Keeps.sends | fail_if_no_progress with_reducible apply Keeps.update

theorem cmdTset_ends {pt : Parts}   : CmdEnds pt (cmdTset) where
  finish := by
    intro a s n st x h
    unfold cmdTset
    try dsimp only
    repeat' first
      | with_reducible assumption | with_reducible apply KeepsR.next | with_reducible apply KeepsR.fault
      | with_reducible apply KeepsR.atPlace | with_reducible apply KeepsO.some | with_reducible apply KeepsO.none
      | with_reducible apply KeepsO.getD | with_reducible apply State.setEntry_keeps | with_reducible apply State.cmdSend_keeps
      | with_reducible apply Keeps.foldl | with_reducible apply Keeps.foldlFst | with_reducible apply Keeps.foldlSnd
      | ((with_reducible apply Same.mk) <;> first | exact no ‹_› | exact fun _ => rfl) | intro _ | split | assumption
      | with_reducible apply Keeps.sends | fail_if_no_progress with_reducible apply Keeps.update

theorem execTallySignalAtHome_keeps {pt : Parts} {a : State} (k : Nat) (s : State) (h : Keeps pt a s) (x_tiles : pt.tiles = false
    := by assumption) (x_ctxs : pt.ctxs = false := by assumption) (x_net : pt.net = false := by assumption) (x_gtallies :
    pt.gtallies = false := by assumption) (x_trouble : pt.trouble = false := by assumption) :
        KeepsR pt a (execTallySignalAtHome k s) := by
  unfold execTallySignalAtHome
  try dsimp only
  repeat' first
    | with_reducible assumption | with_reducible apply KeepsR.next | with_reducible apply KeepsR.fault
    | with_reducible apply KeepsR.atPlace | with_reducible apply KeepsO.some | with_reducible apply KeepsO.none
    | with_reducible apply KeepsO.getD | with_reducible apply onPacket_keeps | with_reducible apply State.signalAt_keeps
    | with_reducible apply Keeps.foldl | with_reducible apply Keeps.foldlFst | with_reducible apply Keeps.foldlSnd
    | ((with_reducible apply Same.mk) <;> first | exact no ‹_› | exact fun _ => rfl) | intro _ | split | assumption
    | with_reducible apply Keeps.sends | fail_if_no_progress with_reducible apply Keeps.update

theorem execTallyRegistrationAtHome_keeps {pt : Parts} {a : State} (k : Nat) (s : State) (h : Keeps pt a s) (x_tiles : pt.tiles =
    false := by assumption) (x_ctxs : pt.ctxs = false := by assumption) (x_net : pt.net = false := by assumption) (x_gtallies :
    pt.gtallies = false := by assumption) (x_trouble : pt.trouble = false := by assumption) :
        KeepsR pt a (execTallyRegistrationAtHome k s) := by
  unfold execTallyRegistrationAtHome
  try dsimp only
  repeat' first
    | with_reducible assumption | with_reducible apply KeepsR.next | with_reducible apply KeepsR.fault
    | with_reducible apply KeepsR.atPlace | with_reducible apply KeepsO.some | with_reducible apply KeepsO.none
    | with_reducible apply KeepsO.getD | with_reducible apply onPacket_keeps | with_reducible apply State.setTally_keeps
    | with_reducible apply State.releaseAll_keeps | with_reducible apply Keeps.foldl | with_reducible apply Keeps.foldlFst
    | with_reducible apply Keeps.foldlSnd | ((with_reducible apply Same.mk) <;> first | exact no ‹_› | exact fun _ => rfl)
    | intro _ | split | assumption | with_reducible apply Keeps.sends | fail_if_no_progress with_reducible apply Keeps.update

theorem execTallySetAtHome_keeps {pt : Parts} {a : State} (k : Nat) (s : State) (h : Keeps pt a s) (x_tiles : pt.tiles = false :=
    by assumption) (x_net : pt.net = false := by assumption) (x_gtallies : pt.gtallies = false := by assumption) (x_trouble :
    pt.trouble = false := by assumption) :
        KeepsR pt a (execTallySetAtHome k s) := by
  unfold execTallySetAtHome
  try dsimp only
  repeat' first
    | with_reducible assumption | with_reducible apply KeepsR.next | with_reducible apply KeepsR.fault
    | with_reducible apply KeepsR.atPlace | with_reducible apply KeepsO.some | with_reducible apply KeepsO.none
    | with_reducible apply KeepsO.getD | with_reducible apply State.reply_keeps | with_reducible apply onPacket_keeps
    | with_reducible apply State.setTally_keeps | with_reducible apply Keeps.foldl | with_reducible apply Keeps.foldlFst
    | with_reducible apply Keeps.foldlSnd | ((with_reducible apply Same.mk) <;> first | exact no ‹_› | exact fun _ => rfl)
    | intro _ | split | assumption | with_reducible apply Keeps.sends | fail_if_no_progress with_reducible apply Keeps.update

theorem execTsetAnswerArrive_keeps {pt : Parts} {a : State} (k : Nat) (s : State) (h : Keeps pt a s) (x_tiles : pt.tiles = false
    := by assumption) (x_net : pt.net = false := by assumption) (x_trouble : pt.trouble = false := by assumption) :
        KeepsR pt a (execTsetAnswerArrive k s) := by
  unfold execTsetAnswerArrive
  try dsimp only
  repeat' first
    | with_reducible assumption | with_reducible apply KeepsR.next | with_reducible apply KeepsR.fault
    | with_reducible apply KeepsR.atPlace | with_reducible apply KeepsO.some | with_reducible apply KeepsO.none
    | with_reducible apply KeepsO.getD | with_reducible apply State.countDrop_keeps | with_reducible apply State.progressed_keeps
    | with_reducible apply State.setEntry_keeps | with_reducible apply onPacket_keeps | with_reducible apply Keeps.foldl
    | with_reducible apply Keeps.foldlFst | with_reducible apply Keeps.foldlSnd
    | ((with_reducible apply Same.mk) <;> first | exact no ‹_› | exact fun _ => rfl) | intro _ | split | assumption
    | with_reducible apply Keeps.sends | fail_if_no_progress with_reducible apply Keeps.update

theorem execTallyReleaseArrive_keeps {pt : Parts} {a : State} (k : Nat) (s : State) (h : Keeps pt a s) (x_tiles : pt.tiles = false
    := by assumption) (x_net : pt.net = false := by assumption) (x_trouble : pt.trouble = false := by assumption) :
        KeepsR pt a (execTallyReleaseArrive k s) := by
  unfold execTallyReleaseArrive
  try dsimp only
  repeat' first
    | with_reducible assumption | with_reducible apply KeepsR.next | with_reducible apply KeepsR.fault
    | with_reducible apply KeepsR.atPlace | with_reducible apply KeepsO.some | with_reducible apply KeepsO.none
    | with_reducible apply KeepsO.getD | with_reducible apply State.countDrop_keeps
    | with_reducible apply State.ctwaitReleased_keeps | with_reducible apply State.setEntry_keeps
    | with_reducible apply onPacket_keeps | with_reducible apply Keeps.foldl | with_reducible apply Keeps.foldlFst
    | with_reducible apply Keeps.foldlSnd | ((with_reducible apply Same.mk) <;> first | exact no ‹_› | exact fun _ => rfl)
    | intro _ | split | assumption | with_reducible apply Keeps.sends | fail_if_no_progress with_reducible apply Keeps.update

theorem execRemoteSignalAtTile_keeps {pt : Parts} {a : State} (k : Nat) (s : State) (h : Keeps pt a s) (x_tiles : pt.tiles = false
    := by assumption) (x_ctxs : pt.ctxs = false := by assumption) (x_net : pt.net = false := by assumption) (x_gtallies :
    pt.gtallies = false := by assumption) (x_trouble : pt.trouble = false := by assumption) :
        KeepsR pt a (execRemoteSignalAtTile k s) := by
  unfold execRemoteSignalAtTile
  try dsimp only
  repeat' first
    | with_reducible assumption | with_reducible apply KeepsR.next | with_reducible apply KeepsR.fault
    | with_reducible apply KeepsR.atPlace | with_reducible apply KeepsO.some | with_reducible apply KeepsO.none
    | with_reducible apply KeepsO.getD | with_reducible apply State.reply_keeps | with_reducible apply onPacket_keeps
    | with_reducible apply State.signalAt_keeps | with_reducible apply Keeps.foldl | with_reducible apply Keeps.foldlFst
    | with_reducible apply Keeps.foldlSnd | ((with_reducible apply Same.mk) <;> first | exact no ‹_› | exact fun _ => rfl)
    | intro _ | split | assumption | with_reducible apply Keeps.sends | fail_if_no_progress with_reducible apply Keeps.update

end Sys2Proof.Machine
end

