-- ==== Sys2Proof/Laws/KeepHuddles.lean ====
section
/-!
SUPPORT. What the operations of Machine/Huddles.lean keep (Laws/Keeps.lean).
-/
namespace Sys2Proof.Machine

set_option linter.unusedTactic false
set_option linter.unreachableTactic false
set_option Elab.async false

theorem cmdHuddle_keeps {pt : Parts}  (x_tiles : pt.tiles = false := by assumption) (x_net : pt.net = false := by assumption) :
    CmdKeeps pt (cmdHuddle) where
  run := by
    intro a s n st x h
    unfold cmdHuddle
    try dsimp only
    repeat' first
      | with_reducible assumption | with_reducible apply KeepsR.next | with_reducible apply KeepsR.fault
      | with_reducible apply KeepsR.atPlace | with_reducible apply KeepsO.some | with_reducible apply KeepsO.none
      | with_reducible apply KeepsO.getD | with_reducible apply State.modTile_keeps | with_reducible apply State.setEntry_keeps
      | with_reducible apply State.cmdSend_keeps | with_reducible apply Keeps.foldl | with_reducible apply Keeps.foldlFst
      | with_reducible apply Keeps.foldlSnd | ((with_reducible apply Same.mk) <;> first | exact no ‹_› | exact fun _ => rfl)
      | intro _ | split | assumption | with_reducible apply Keeps.sends | fail_if_no_progress with_reducible apply Keeps.update
  ask := by
    intro f e a s n st x h
    unfold cmdHuddle at e
    try dsimp only at e
    first
      | (cases e; done)
      | skip
    try (cases e; try dsimp only)
    repeat' first
      | with_reducible assumption | with_reducible apply KeepsR.next | with_reducible apply KeepsR.fault
      | with_reducible apply KeepsR.atPlace | with_reducible apply KeepsO.some | with_reducible apply KeepsO.none
      | with_reducible apply KeepsO.getD | with_reducible apply State.modTile_keeps | with_reducible apply State.setEntry_keeps
      | with_reducible apply State.cmdSend_keeps | with_reducible apply Keeps.foldl | with_reducible apply Keeps.foldlFst
      | with_reducible apply Keeps.foldlSnd | ((with_reducible apply Same.mk) <;> first | exact no ‹_› | exact fun _ => rfl)
      | intro _ | split | assumption | with_reducible apply Keeps.sends | fail_if_no_progress with_reducible apply Keeps.update

theorem cmdHuddle_ends {pt : Parts}   : CmdEnds pt (cmdHuddle) where
  finish := by
    intro a s n st x h
    unfold cmdHuddle
    try dsimp only
    repeat' first
      | with_reducible assumption | with_reducible apply KeepsR.next | with_reducible apply KeepsR.fault
      | with_reducible apply KeepsR.atPlace | with_reducible apply KeepsO.some | with_reducible apply KeepsO.none
      | with_reducible apply KeepsO.getD | with_reducible apply State.modTile_keeps | with_reducible apply State.setEntry_keeps
      | with_reducible apply State.cmdSend_keeps | with_reducible apply Keeps.foldl | with_reducible apply Keeps.foldlFst
      | with_reducible apply Keeps.foldlSnd | ((with_reducible apply Same.mk) <;> first | exact no ‹_› | exact fun _ => rfl)
      | intro _ | split | assumption | with_reducible apply Keeps.sends | fail_if_no_progress with_reducible apply Keeps.update

theorem State.closeRound_keeps {pt : Parts} {a : State} (s : State) (hid : Nat) (h0 : Huddle) (h : Keeps pt a s) (x_net : pt.net =
    false := by assumption) (x_huddles : pt.huddles = false := by assumption) (x_trouble : pt.trouble = false := by assumption) :
        Keeps pt a (State.closeRound s hid h0) := by
  unfold State.closeRound
  try dsimp only
  repeat' first
    | with_reducible assumption | with_reducible apply KeepsR.next | with_reducible apply KeepsR.fault
    | with_reducible apply KeepsR.atPlace | with_reducible apply KeepsO.some | with_reducible apply KeepsO.none
    | with_reducible apply KeepsO.getD | with_reducible apply State.cycle_keeps | with_reducible apply State.send_keeps
    | with_reducible apply State.traceSignal_keeps | with_reducible apply Keeps.foldl | with_reducible apply Keeps.foldlFst
    | with_reducible apply Keeps.foldlSnd | ((with_reducible apply Same.mk) <;> first | exact no ‹_› | exact fun _ => rfl)
    | intro _ | split | assumption | with_reducible apply Keeps.sends | fail_if_no_progress with_reducible apply Keeps.update

theorem execHuddleArrivalAtHome_keeps {pt : Parts} {a : State} (k : Nat) (s : State) (h : Keeps pt a s) (x_net : pt.net = false :=
    by assumption) (x_huddles : pt.huddles = false := by assumption) (x_trouble : pt.trouble = false := by assumption) :
        KeepsR pt a (execHuddleArrivalAtHome k s) := by
  unfold execHuddleArrivalAtHome
  try dsimp only
  repeat' first
    | with_reducible assumption | with_reducible apply KeepsR.next | with_reducible apply KeepsR.fault
    | with_reducible apply KeepsR.atPlace | with_reducible apply KeepsO.some | with_reducible apply KeepsO.none
    | with_reducible apply KeepsO.getD | with_reducible apply State.countDrop_keeps | with_reducible apply onPacket_keeps
    | with_reducible apply State.closeRound_keeps | with_reducible apply Keeps.foldl | with_reducible apply Keeps.foldlFst
    | with_reducible apply Keeps.foldlSnd | ((with_reducible apply Same.mk) <;> first | exact no ‹_› | exact fun _ => rfl)
    | intro _ | split | assumption | with_reducible apply Keeps.sends | fail_if_no_progress with_reducible apply Keeps.update

theorem execHuddleNextRoundClose_keeps {pt : Parts} {a : State} (hid : Nat) (s : State) (h : Keeps pt a s) (x_net : pt.net = false
    := by assumption) (x_huddles : pt.huddles = false := by assumption) (x_trouble : pt.trouble = false := by assumption) :
        KeepsR pt a (execHuddleNextRoundClose hid s) := by
  unfold execHuddleNextRoundClose
  try dsimp only
  repeat' first
    | with_reducible assumption | with_reducible apply KeepsR.next | with_reducible apply KeepsR.fault
    | with_reducible apply KeepsR.atPlace | with_reducible apply KeepsO.some | with_reducible apply KeepsO.none
    | with_reducible apply KeepsO.getD | with_reducible apply State.closeRound_keeps | with_reducible apply Keeps.foldl
    | with_reducible apply Keeps.foldlFst | with_reducible apply Keeps.foldlSnd
    | ((with_reducible apply Same.mk) <;> first | exact no ‹_› | exact fun _ => rfl) | intro _ | split | assumption
    | with_reducible apply Keeps.sends | fail_if_no_progress with_reducible apply Keeps.update

theorem execHuddleCloseArrive_keeps {pt : Parts} {a : State} (k : Nat) (s : State) (h : Keeps pt a s) (x_tiles : pt.tiles = false
    := by assumption) (x_net : pt.net = false := by assumption) (x_trouble : pt.trouble = false := by assumption) :
        KeepsR pt a (execHuddleCloseArrive k s) := by
  unfold execHuddleCloseArrive
  try dsimp only
  repeat' first
    | with_reducible assumption | with_reducible apply KeepsR.next | with_reducible apply KeepsR.fault
    | with_reducible apply KeepsR.atPlace | with_reducible apply KeepsO.some | with_reducible apply KeepsO.none
    | with_reducible apply KeepsO.getD | with_reducible apply State.modTile_keeps | with_reducible apply onPacket_keeps
    | with_reducible apply Keeps.foldl | with_reducible apply Keeps.foldlFst | with_reducible apply Keeps.foldlSnd
    | ((with_reducible apply Same.mk) <;> first | exact no ‹_› | exact fun _ => rfl) | intro _ | split | assumption
    | with_reducible apply Keeps.sends | fail_if_no_progress with_reducible apply Keeps.update

end Sys2Proof.Machine
end

