-- ==== Sys2Proof/Laws/KeepPorts.lean ====
section
/-!
SUPPORT. What the operations of Machine/Ports.lean keep (Laws/Keeps.lean).
-/
namespace Sys2Proof.Machine

set_option linter.unusedTactic false
set_option linter.unreachableTactic false
set_option Elab.async false

theorem State.stick_keeps {pt : Parts} {a : State} (s : State) (p : Nat) (i : Nat) (h : Keeps pt a s) (x_ports : pt.ports = false
    := by assumption) :
        Keeps pt a (State.stick s p i) := by
  unfold State.stick
  try dsimp only
  repeat' first
    | with_reducible assumption | with_reducible apply KeepsR.next | with_reducible apply KeepsR.fault
    | with_reducible apply KeepsR.atPlace | with_reducible apply KeepsO.some | with_reducible apply KeepsO.none
    | with_reducible apply KeepsO.getD | with_reducible apply State.modPort_keeps | with_reducible apply Keeps.foldl
    | with_reducible apply Keeps.foldlFst | with_reducible apply Keeps.foldlSnd
    | ((with_reducible apply Same.mk) <;> first | exact no ‹_› | exact fun _ => rfl) | intro _ | split | assumption
    | with_reducible apply Keeps.sends | fail_if_no_progress with_reducible apply Keeps.update

theorem State.protocolError_keeps {pt : Parts} {a : State} (s : State) (p : Nat) (h : Keeps pt a s) (x_ports : pt.ports = false :=
    by assumption) :
        Keeps pt a (State.protocolError s p) := by
  unfold State.protocolError
  try dsimp only
  repeat' first
    | with_reducible assumption | with_reducible apply KeepsR.next | with_reducible apply KeepsR.fault
    | with_reducible apply KeepsR.atPlace | with_reducible apply KeepsO.some | with_reducible apply KeepsO.none
    | with_reducible apply KeepsO.getD | with_reducible apply State.modPort_keeps | with_reducible apply State.stick_keeps
    | with_reducible apply Keeps.foldl | with_reducible apply Keeps.foldlFst | with_reducible apply Keeps.foldlSnd
    | ((with_reducible apply Same.mk) <;> first | exact no ‹_› | exact fun _ => rfl) | intro _ | split | assumption
    | with_reducible apply Keeps.sends | fail_if_no_progress with_reducible apply Keeps.update

theorem State.freeUnits_keeps {pt : Parts} {a : State} (s : State) (p : Nat) (pair : Nat) (n : Nat) (h : Keeps pt a s) (x_ports :
    pt.ports = false := by assumption) :
        Keeps pt a (State.freeUnits s p pair n) := by
  unfold State.freeUnits
  try dsimp only
  repeat' first
    | with_reducible assumption | with_reducible apply KeepsR.next | with_reducible apply KeepsR.fault
    | with_reducible apply KeepsR.atPlace | with_reducible apply KeepsO.some | with_reducible apply KeepsO.none
    | with_reducible apply KeepsO.getD | with_reducible apply State.modPort_keeps | with_reducible apply Keeps.foldl
    | with_reducible apply Keeps.foldlFst | with_reducible apply Keeps.foldlSnd
    | ((with_reducible apply Same.mk) <;> first | exact no ‹_› | exact fun _ => rfl) | intro _ | split | assumption
    | with_reducible apply Keeps.sends | fail_if_no_progress with_reducible apply Keeps.update

theorem State.unheld_keeps {pt : Parts} {a : State} (s : State) (m : OutMsg) (h : Keeps pt a s) (x_ports : pt.ports = false := by
    assumption) :
        Keeps pt a (State.unheld s m) := by
  unfold State.unheld
  try dsimp only
  repeat' first
    | with_reducible assumption | with_reducible apply Keeps.elim | with_reducible apply KeepsR.next
    | with_reducible apply KeepsR.fault | with_reducible apply KeepsR.atPlace | with_reducible apply KeepsO.some
    | with_reducible apply KeepsO.none | with_reducible apply KeepsO.getD | with_reducible apply State.freeUnits_keeps
    | with_reducible apply Keeps.foldl | with_reducible apply Keeps.foldlFst | with_reducible apply Keeps.foldlSnd
    | ((with_reducible apply Same.mk) <;> first | exact no ‹_› | exact fun _ => rfl) | intro _ | split | assumption
    | with_reducible apply Keeps.sends | fail_if_no_progress with_reducible apply Keeps.update

theorem State.lockHalt_keeps {pt : Parts} {a : State} (s : State) (c : Nat) (cause : Nat) (h : Keeps pt a s) (x_tiles : pt.tiles =
    false := by assumption) (x_trouble : pt.trouble = false := by assumption) (x_ports : pt.ports = false := by assumption) :
        Keeps pt a (State.lockHalt s c cause) := by
  unfold State.lockHalt
  try dsimp only
  repeat' first
    | with_reducible assumption | with_reducible apply KeepsR.next | with_reducible apply KeepsR.fault
    | with_reducible apply KeepsR.atPlace | with_reducible apply KeepsO.some | with_reducible apply KeepsO.none
    | with_reducible apply KeepsO.getD | with_reducible apply State.haltAll_keeps | with_reducible apply Keeps.foldl
    | with_reducible apply Keeps.foldlFst | with_reducible apply Keeps.foldlSnd
    | ((with_reducible apply Same.mk) <;> first | exact no ‹_› | exact fun _ => rfl) | intro _ | split | assumption
    | with_reducible apply Keeps.sends | fail_if_no_progress with_reducible apply Keeps.update

theorem State.leaveService_keeps {pt : Parts} {a : State} (s : State) (p : Nat) (h : Keeps pt a s) (x_tiles : pt.tiles = false :=
    by assumption) (x_trouble : pt.trouble = false := by assumption) (x_ports : pt.ports = false := by assumption) (x_fabric :
    pt.fabric = false := by assumption) :
        Keeps pt a (State.leaveService s p) := by
  unfold State.leaveService
  try dsimp only
  repeat' first
    | with_reducible assumption | with_reducible apply KeepsR.next | with_reducible apply KeepsR.fault
    | with_reducible apply KeepsR.atPlace | with_reducible apply KeepsO.some | with_reducible apply KeepsO.none
    | with_reducible apply KeepsO.getD | with_reducible apply State.modPort_keeps | with_reducible apply State.route_keeps
    | with_reducible apply State.unheld_keeps | with_reducible apply State.lockHalt_keeps | with_reducible apply Keeps.foldl
    | with_reducible apply Keeps.foldlFst | with_reducible apply Keeps.foldlSnd
    | ((with_reducible apply Same.mk) <;> first | exact no ‹_› | exact fun _ => rfl) | intro _ | split | assumption
    | with_reducible apply Keeps.sends | fail_if_no_progress with_reducible apply Keeps.update

theorem State.portDown_keeps {pt : Parts} {a : State} (s : State) (p : Nat) (h : Keeps pt a s) (x_tiles : pt.tiles = false := by
    assumption) (x_trouble : pt.trouble = false := by assumption) (x_ports : pt.ports = false := by assumption) (x_fabric :
    pt.fabric = false := by assumption) :
        Keeps pt a (State.portDown s p) := by
  unfold State.portDown
  try dsimp only
  repeat' first
    | with_reducible assumption | with_reducible apply KeepsR.next | with_reducible apply KeepsR.fault
    | with_reducible apply KeepsR.atPlace | with_reducible apply KeepsO.some | with_reducible apply KeepsO.none
    | with_reducible apply KeepsO.getD | with_reducible apply State.modPort_keeps | with_reducible apply State.alarm_keeps
    | with_reducible apply State.stick_keeps | with_reducible apply State.leaveService_keeps | with_reducible apply Keeps.foldl
    | with_reducible apply Keeps.foldlFst | with_reducible apply Keeps.foldlSnd
    | ((with_reducible apply Same.mk) <;> first | exact no ‹_› | exact fun _ => rfl) | intro _ | split | assumption
    | with_reducible apply Keeps.sends | fail_if_no_progress with_reducible apply Keeps.update

theorem State.unhold_keeps {pt : Parts} {a : State} (s : State) (p : Nat) (h : Keeps pt a s) (x_ports : pt.ports = false := by
    assumption) :
        Keeps pt a (State.unhold s p) := by
  unfold State.unhold
  try dsimp only
  repeat' first
    | with_reducible assumption | with_reducible apply Keeps.elim | with_reducible apply KeepsR.next
    | with_reducible apply KeepsR.fault | with_reducible apply KeepsR.atPlace | with_reducible apply KeepsO.some
    | with_reducible apply KeepsO.none | with_reducible apply KeepsO.getD | with_reducible apply Keeps.foldl
    | with_reducible apply Keeps.foldlFst | with_reducible apply Keeps.foldlSnd
    | ((with_reducible apply Same.mk) <;> first | exact no ‹_› | exact fun _ => rfl) | intro _ | split | assumption
    | with_reducible apply Keeps.sends | fail_if_no_progress with_reducible apply Keeps.update

theorem State.beginTraining_keeps {pt : Parts} {a : State} (s : State) (p : Nat) (st : Nat) (step : Nat) (h : Keeps pt a s)
    (x_tiles : pt.tiles = false := by assumption) (x_trouble : pt.trouble = false := by assumption) (x_ports : pt.ports = false :=
    by assumption) (x_fabric : pt.fabric = false := by assumption) :
        Keeps pt a (State.beginTraining s p st step) := by
  unfold State.beginTraining
  try dsimp only
  repeat' first
    | with_reducible assumption | with_reducible apply KeepsR.next | with_reducible apply KeepsR.fault
    | with_reducible apply KeepsR.atPlace | with_reducible apply KeepsO.some | with_reducible apply KeepsO.none
    | with_reducible apply KeepsO.getD | with_reducible apply State.modPort_keeps | with_reducible apply State.leaveService_keeps
    | with_reducible apply State.unhold_keeps | with_reducible apply Keeps.foldl | with_reducible apply Keeps.foldlFst
    | with_reducible apply Keeps.foldlSnd | ((with_reducible apply Same.mk) <;> first | exact no ‹_› | exact fun _ => rfl)
    | intro _ | split | assumption | with_reducible apply Keeps.sends | fail_if_no_progress with_reducible apply Keeps.update

theorem State.startPort_keeps {pt : Parts} {a : State} (s : State) (p : Nat) (h : Keeps pt a s) (x_tiles : pt.tiles = false := by
    assumption) (x_trouble : pt.trouble = false := by assumption) (x_ports : pt.ports = false := by assumption) (x_fabric :
    pt.fabric = false := by assumption) :
        Keeps pt a (State.startPort s p) := by
  unfold State.startPort
  try dsimp only
  repeat' first
    | with_reducible assumption | with_reducible apply KeepsR.next | with_reducible apply KeepsR.fault
    | with_reducible apply KeepsR.atPlace | with_reducible apply KeepsO.some | with_reducible apply KeepsO.none
    | with_reducible apply KeepsO.getD | with_reducible apply State.beginTraining_keeps | with_reducible apply Keeps.foldl
    | with_reducible apply Keeps.foldlFst | with_reducible apply Keeps.foldlSnd
    | ((with_reducible apply Same.mk) <;> first | exact no ‹_› | exact fun _ => rfl) | intro _ | split | assumption
    | with_reducible apply Keeps.sends | fail_if_no_progress with_reducible apply Keeps.update

theorem execPortTrainStart_keeps {pt : Parts} {a : State} (p : Nat) (s : State) (h : Keeps pt a s) (x_tiles : pt.tiles = false :=
    by assumption) (x_trouble : pt.trouble = false := by assumption) (x_ports : pt.ports = false := by assumption) (x_fabric :
    pt.fabric = false := by assumption) :
        KeepsR pt a (execPortTrainStart p s) := by
  unfold execPortTrainStart
  try dsimp only
  repeat' first
    | with_reducible assumption | with_reducible apply KeepsR.next | with_reducible apply KeepsR.fault
    | with_reducible apply KeepsR.atPlace | with_reducible apply KeepsO.some | with_reducible apply KeepsO.none
    | with_reducible apply KeepsO.getD | with_reducible apply State.startPort_keeps | with_reducible apply Keeps.foldl
    | with_reducible apply Keeps.foldlFst | with_reducible apply Keeps.foldlSnd
    | ((with_reducible apply Same.mk) <;> first | exact no ‹_› | exact fun _ => rfl) | intro _ | split | assumption
    | with_reducible apply Keeps.sends | fail_if_no_progress with_reducible apply Keeps.update

theorem State.retrain_keeps {pt : Parts} {a : State} (s : State) (p : Nat) (h : Keeps pt a s) (x_tiles : pt.tiles = false := by
    assumption) (x_trouble : pt.trouble = false := by assumption) (x_ports : pt.ports = false := by assumption) (x_fabric :
    pt.fabric = false := by assumption) :
        Keeps pt a (State.retrain s p) := by
  unfold State.retrain
  try dsimp only
  repeat' first
    | with_reducible assumption | with_reducible apply KeepsR.next | with_reducible apply KeepsR.fault
    | with_reducible apply KeepsR.atPlace | with_reducible apply KeepsO.some | with_reducible apply KeepsO.none
    | with_reducible apply KeepsO.getD | with_reducible apply State.modPort_keeps | with_reducible apply State.stick_keeps
    | with_reducible apply State.portDown_keeps | with_reducible apply State.beginTraining_keeps
    | with_reducible apply Keeps.foldl | with_reducible apply Keeps.foldlFst | with_reducible apply Keeps.foldlSnd
    | ((with_reducible apply Same.mk) <;> first | exact no ‹_› | exact fun _ => rfl) | intro _ | split | assumption
    | with_reducible apply Keeps.sends | fail_if_no_progress with_reducible apply Keeps.update

theorem State.enterService_keeps {pt : Parts} {a : State} (s : State) (p : Nat) (h : Keeps pt a s) (x_ports : pt.ports = false :=
    by assumption) :
        Keeps pt a (State.enterService s p) := by
  unfold State.enterService
  try dsimp only
  repeat' first
    | with_reducible assumption | with_reducible apply KeepsR.next | with_reducible apply KeepsR.fault
    | with_reducible apply KeepsR.atPlace | with_reducible apply KeepsO.some | with_reducible apply KeepsO.none
    | with_reducible apply KeepsO.getD | with_reducible apply State.modPort_keeps | with_reducible apply State.stick_keeps
    | with_reducible apply Keeps.foldl | with_reducible apply Keeps.foldlFst | with_reducible apply Keeps.foldlSnd
    | ((with_reducible apply Same.mk) <;> first | exact no ‹_› | exact fun _ => rfl) | intro _ | split | assumption
    | with_reducible apply Keeps.sends | fail_if_no_progress with_reducible apply Keeps.update

theorem execTrainingStepComplete_keeps {pt : Parts} {a : State} (p : Nat) (r : StepReport) (s : State) (h : Keeps pt a s) (x_tiles
    : pt.tiles = false := by assumption) (x_trouble : pt.trouble = false := by assumption) (x_ports : pt.ports = false := by
    assumption) (x_fabric : pt.fabric = false := by assumption) :
        KeepsR pt a (execTrainingStepComplete p r s) := by
  unfold execTrainingStepComplete
  try dsimp only
  repeat' first
    | with_reducible assumption | with_reducible apply KeepsR.next | with_reducible apply KeepsR.fault
    | with_reducible apply KeepsR.atPlace | with_reducible apply KeepsO.some | with_reducible apply KeepsO.none
    | with_reducible apply KeepsO.getD | with_reducible apply State.modPort_keeps | with_reducible apply State.stick_keeps
    | with_reducible apply State.portDown_keeps | with_reducible apply State.enterService_keeps
    | with_reducible apply Keeps.foldl | with_reducible apply Keeps.foldlFst | with_reducible apply Keeps.foldlSnd
    | ((with_reducible apply Same.mk) <;> first | exact no ‹_› | exact fun _ => rfl) | intro _ | split | assumption
    | with_reducible apply Keeps.sends | fail_if_no_progress with_reducible apply Keeps.update

theorem execTrainingStepTimeout_keeps {pt : Parts} {a : State} (p : Nat) (s : State) (h : Keeps pt a s) (x_tiles : pt.tiles =
    false := by assumption) (x_trouble : pt.trouble = false := by assumption) (x_ports : pt.ports = false := by assumption)
    (x_fabric : pt.fabric = false := by assumption) :
        KeepsR pt a (execTrainingStepTimeout p s) := by
  unfold execTrainingStepTimeout
  try dsimp only
  repeat' first
    | with_reducible assumption | with_reducible apply KeepsR.next | with_reducible apply KeepsR.fault
    | with_reducible apply KeepsR.atPlace | with_reducible apply KeepsO.some | with_reducible apply KeepsO.none
    | with_reducible apply KeepsO.getD | with_reducible apply State.portDown_keeps | with_reducible apply Keeps.foldl
    | with_reducible apply Keeps.foldlFst | with_reducible apply Keeps.foldlSnd
    | ((with_reducible apply Same.mk) <;> first | exact no ‹_› | exact fun _ => rfl) | intro _ | split | assumption
    | with_reducible apply Keeps.sends | fail_if_no_progress with_reducible apply Keeps.update

theorem execEqualisationOutOfLimits_keeps {pt : Parts} {a : State} (p : Nat) (lane : Nat) (s : State) (h : Keeps pt a s) (x_tiles
    : pt.tiles = false := by assumption) (x_trouble : pt.trouble = false := by assumption) (x_ports : pt.ports = false := by
    assumption) (x_fabric : pt.fabric = false := by assumption) :
        KeepsR pt a (execEqualisationOutOfLimits p lane s) := by
  unfold execEqualisationOutOfLimits
  try dsimp only
  repeat' first
    | with_reducible assumption | with_reducible apply KeepsR.next | with_reducible apply KeepsR.fault
    | with_reducible apply KeepsR.atPlace | with_reducible apply KeepsO.some | with_reducible apply KeepsO.none
    | with_reducible apply KeepsO.getD | with_reducible apply State.modPort_keeps | with_reducible apply State.retrain_keeps
    | with_reducible apply Keeps.foldl | with_reducible apply Keeps.foldlFst | with_reducible apply Keeps.foldlSnd
    | ((with_reducible apply Same.mk) <;> first | exact no ‹_› | exact fun _ => rfl) | intro _ | split | assumption
    | with_reducible apply Keeps.sends | fail_if_no_progress with_reducible apply Keeps.update

theorem State.askReplay_keeps {pt : Parts} {a : State} (s : State) (p : Nat) (h : Keeps pt a s) (x_tiles : pt.tiles = false := by
    assumption) (x_trouble : pt.trouble = false := by assumption) (x_ports : pt.ports = false := by assumption) (x_fabric :
    pt.fabric = false := by assumption) :
        Keeps pt a (State.askReplay s p) := by
  unfold State.askReplay
  try dsimp only
  repeat' first
    | with_reducible assumption | with_reducible apply KeepsR.next | with_reducible apply KeepsR.fault
    | with_reducible apply KeepsR.atPlace | with_reducible apply KeepsO.some | with_reducible apply KeepsO.none
    | with_reducible apply KeepsO.getD | with_reducible apply State.modPort_keeps | with_reducible apply State.retrain_keeps
    | with_reducible apply Keeps.foldl | with_reducible apply Keeps.foldlFst | with_reducible apply Keeps.foldlSnd
    | ((with_reducible apply Same.mk) <;> first | exact no ‹_› | exact fun _ => rfl) | intro _ | split | assumption
    | with_reducible apply Keeps.sends | fail_if_no_progress with_reducible apply Keeps.update

theorem onFlit_keeps {pt : Parts} {a : State} (p : Nat) (flit : BitVec 2048) (fecOk : Bool) (kind : Nat) (s : State) (f : State →
    State) (h : Keeps pt a s) (hf : ∀ (y0 : State), Keeps pt a y0 → Keeps pt a (f y0)) (x_tiles : pt.tiles = false := by
    assumption) (x_trouble : pt.trouble = false := by assumption) (x_ports : pt.ports = false := by assumption) (x_fabric :
    pt.fabric = false := by assumption) :
        KeepsR pt a (onFlit p flit fecOk kind s f) := by
  unfold onFlit
  try dsimp only
  repeat' first
    | with_reducible assumption | with_reducible apply hf | with_reducible apply KeepsR.next | with_reducible apply KeepsR.fault
    | with_reducible apply KeepsR.atPlace | with_reducible apply KeepsO.some | with_reducible apply KeepsO.none
    | with_reducible apply KeepsO.getD | with_reducible apply State.stick_keeps | with_reducible apply State.askReplay_keeps
    | with_reducible apply Keeps.foldl | with_reducible apply Keeps.foldlFst | with_reducible apply Keeps.foldlSnd
    | ((with_reducible apply Same.mk) <;> first | exact no ‹_› | exact fun _ => rfl) | intro _ | split | assumption
    | with_reducible apply Keeps.sends | fail_if_no_progress with_reducible apply Keeps.update

theorem State.messageIn_keeps {pt : Parts} {a : State} (s : State) (p : Nat) (pair : Nat) (m : Msg) (units : Nat) (h : Keeps pt a
    s) (x_tiles : pt.tiles = false := by assumption) (x_trouble : pt.trouble = false := by assumption) (x_ports : pt.ports = false
    := by assumption) (x_fabric : pt.fabric = false := by assumption) :
        Keeps pt a (State.messageIn s p pair m units) := by
  unfold State.messageIn
  try dsimp only
  repeat' first
    | with_reducible assumption | with_reducible apply KeepsR.next | with_reducible apply KeepsR.fault
    | with_reducible apply KeepsR.atPlace | with_reducible apply KeepsO.some | with_reducible apply KeepsO.none
    | with_reducible apply KeepsO.getD | with_reducible apply State.modPort_keeps | with_reducible apply State.hopSend_keeps
    | with_reducible apply State.noRoute_keeps | with_reducible apply State.protocolError_keeps
    | with_reducible apply State.freeUnits_keeps | with_reducible apply Keeps.foldl | with_reducible apply Keeps.foldlFst
    | with_reducible apply Keeps.foldlSnd | ((with_reducible apply Same.mk) <;> first | exact no ‹_› | exact fun _ => rfl)
    | intro _ | split | assumption | with_reducible apply Keeps.sends | fail_if_no_progress with_reducible apply Keeps.update

theorem State.acceptFlit_keeps {pt : Parts} {a : State} (s : State) (p : Nat) (f : BitVec 2048) (h : Keeps pt a s) (x_tiles :
    pt.tiles = false := by assumption) (x_trouble : pt.trouble = false := by assumption) (x_ports : pt.ports = false := by
    assumption) (x_fabric : pt.fabric = false := by assumption) :
        Keeps pt a (State.acceptFlit s p f) := by
  unfold State.acceptFlit
  try dsimp only
  repeat' first
    | with_reducible assumption | with_reducible apply KeepsR.next | with_reducible apply KeepsR.fault
    | with_reducible apply KeepsR.atPlace | with_reducible apply KeepsO.some | with_reducible apply KeepsO.none
    | with_reducible apply KeepsO.getD | with_reducible apply State.modPort_keeps | with_reducible apply State.messageIn_keeps
    | with_reducible apply Keeps.foldl | with_reducible apply Keeps.foldlFst | with_reducible apply Keeps.foldlSnd
    | ((with_reducible apply Same.mk) <;> first | exact no ‹_› | exact fun _ => rfl) | intro _ | split | assumption
    | with_reducible apply Keeps.sends | fail_if_no_progress with_reducible apply Keeps.update

theorem execMessageFlit_keeps {pt : Parts} {a : State} (p : Nat) (f : BitVec 2048) (fecOk : Bool) (s : State) (h : Keeps pt a s)
    (x_tiles : pt.tiles = false := by assumption) (x_trouble : pt.trouble = false := by assumption) (x_ports : pt.ports = false :=
    by assumption) (x_fabric : pt.fabric = false := by assumption) :
        KeepsR pt a (execMessageFlit p f fecOk s) := by
  unfold execMessageFlit
  try dsimp only
  repeat' first
    | with_reducible assumption | with_reducible apply KeepsR.next | with_reducible apply KeepsR.fault
    | with_reducible apply KeepsR.atPlace | with_reducible apply KeepsO.some | with_reducible apply KeepsO.none
    | with_reducible apply KeepsO.getD | with_reducible apply State.stick_keeps | with_reducible apply State.askReplay_keeps
    | with_reducible apply onFlit_keeps | with_reducible apply State.acceptFlit_keeps | with_reducible apply Keeps.foldl
    | with_reducible apply Keeps.foldlFst | with_reducible apply Keeps.foldlSnd
    | ((with_reducible apply Same.mk) <;> first | exact no ‹_› | exact fun _ => rfl) | intro _ | split | assumption
    | with_reducible apply Keeps.sends | fail_if_no_progress with_reducible apply Keeps.update

theorem execNullFlit_keeps {pt : Parts} {a : State} (p : Nat) (f : BitVec 2048) (fecOk : Bool) (s : State) (h : Keeps pt a s)
    (x_tiles : pt.tiles = false := by assumption) (x_trouble : pt.trouble = false := by assumption) (x_ports : pt.ports = false :=
    by assumption) (x_fabric : pt.fabric = false := by assumption) :
        KeepsR pt a (execNullFlit p f fecOk s) := by
  unfold execNullFlit
  try dsimp only
  repeat' first
    | with_reducible assumption | with_reducible apply KeepsR.next | with_reducible apply KeepsR.fault
    | with_reducible apply KeepsR.atPlace | with_reducible apply KeepsO.some | with_reducible apply KeepsO.none
    | with_reducible apply KeepsO.getD | with_reducible apply State.modPort_keeps | with_reducible apply onFlit_keeps
    | with_reducible apply Keeps.foldl | with_reducible apply Keeps.foldlFst | with_reducible apply Keeps.foldlSnd
    | ((with_reducible apply Same.mk) <;> first | exact no ‹_› | exact fun _ => rfl) | intro _ | split | assumption
    | with_reducible apply Keeps.sends | fail_if_no_progress with_reducible apply Keeps.update

theorem execReplayRequest_keeps {pt : Parts} {a : State} (p : Nat) (f : BitVec 2048) (fecOk : Bool) (s : State) (h : Keeps pt a s)
    (x_tiles : pt.tiles = false := by assumption) (x_trouble : pt.trouble = false := by assumption) (x_ports : pt.ports = false :=
    by assumption) (x_fabric : pt.fabric = false := by assumption) :
        KeepsR pt a (execReplayRequest p f fecOk s) := by
  unfold execReplayRequest
  try dsimp only
  repeat' first
    | with_reducible assumption | with_reducible apply KeepsR.next | with_reducible apply KeepsR.fault
    | with_reducible apply KeepsR.atPlace | with_reducible apply KeepsO.some | with_reducible apply KeepsO.none
    | with_reducible apply KeepsO.getD | with_reducible apply State.modPort_keeps | with_reducible apply onFlit_keeps
    | with_reducible apply Keeps.foldl | with_reducible apply Keeps.foldlFst | with_reducible apply Keeps.foldlSnd
    | ((with_reducible apply Same.mk) <;> first | exact no ‹_› | exact fun _ => rfl) | intro _ | split | assumption
    | with_reducible apply Keeps.sends | fail_if_no_progress with_reducible apply Keeps.update

theorem onControl_keeps {pt : Parts} {a : State} (p : Nat) (f : BitVec 2048) (ctype : Nat) (s : State) (g : State → State) (h :
    Keeps pt a s) (hg : ∀ (y0 : State), Keeps pt a y0 → Keeps pt a (g y0)) (x_tiles : pt.tiles = false := by assumption)
    (x_trouble : pt.trouble = false := by assumption) (x_ports : pt.ports = false := by assumption) (x_fabric : pt.fabric = false
    := by assumption) :
        KeepsR pt a (onControl p f ctype s g) := by
  unfold onControl
  try dsimp only
  repeat' first
    | with_reducible assumption | with_reducible apply hg | with_reducible apply KeepsR.next | with_reducible apply KeepsR.fault
    | with_reducible apply KeepsR.atPlace | with_reducible apply KeepsO.some | with_reducible apply KeepsO.none
    | with_reducible apply KeepsO.getD | with_reducible apply State.modPort_keeps
    | with_reducible apply State.protocolError_keeps | with_reducible apply State.askReplay_keeps
    | with_reducible apply Keeps.foldl | with_reducible apply Keeps.foldlFst | with_reducible apply Keeps.foldlSnd
    | ((with_reducible apply Same.mk) <;> first | exact no ‹_› | exact fun _ => rfl) | intro _ | split | assumption
    | with_reducible apply Keeps.sends | fail_if_no_progress with_reducible apply Keeps.update

theorem execInit_keeps {pt : Parts} {a : State} (p : Nat) (f : BitVec 2048) (s : State) (h : Keeps pt a s) (x_tiles : pt.tiles =
    false := by assumption) (x_trouble : pt.trouble = false := by assumption) (x_ports : pt.ports = false := by assumption)
    (x_fabric : pt.fabric = false := by assumption) :
        KeepsR pt a (execInit p f s) := by
  unfold execInit
  try dsimp only
  repeat' first
    | with_reducible assumption | with_reducible apply KeepsR.next | with_reducible apply KeepsR.fault
    | with_reducible apply KeepsR.atPlace | with_reducible apply KeepsO.some | with_reducible apply KeepsO.none
    | with_reducible apply KeepsO.getD | with_reducible apply State.modPort_keeps | with_reducible apply State.stick_keeps
    | with_reducible apply State.portDown_keeps | with_reducible apply onControl_keeps | with_reducible apply Keeps.foldl
    | with_reducible apply Keeps.foldlFst | with_reducible apply Keeps.foldlSnd
    | ((with_reducible apply Same.mk) <;> first | exact no ‹_› | exact fun _ => rfl) | intro _ | split | assumption
    | with_reducible apply Keeps.sends | fail_if_no_progress with_reducible apply Keeps.update

theorem execInitAck_keeps {pt : Parts} {a : State} (p : Nat) (f : BitVec 2048) (s : State) (h : Keeps pt a s) (x_tiles : pt.tiles
    = false := by assumption) (x_trouble : pt.trouble = false := by assumption) (x_ports : pt.ports = false := by assumption)
    (x_fabric : pt.fabric = false := by assumption) :
        KeepsR pt a (execInitAck p f s) := by
  unfold execInitAck
  try dsimp only
  repeat' first
    | with_reducible assumption | with_reducible apply KeepsR.next | with_reducible apply KeepsR.fault
    | with_reducible apply KeepsR.atPlace | with_reducible apply KeepsO.some | with_reducible apply KeepsO.none
    | with_reducible apply KeepsO.getD | with_reducible apply State.modPort_keeps | with_reducible apply onControl_keeps
    | with_reducible apply Keeps.foldl | with_reducible apply Keeps.foldlFst | with_reducible apply Keeps.foldlSnd
    | ((with_reducible apply Same.mk) <;> first | exact no ‹_› | exact fun _ => rfl) | intro _ | split | assumption
    | with_reducible apply Keeps.sends | fail_if_no_progress with_reducible apply Keeps.update

theorem execInitResend_keeps {pt : Parts} {a : State} (p : Nat) (s : State) (h : Keeps pt a s) (x_ports : pt.ports = false := by
    assumption) :
        KeepsR pt a (execInitResend p s) := by
  unfold execInitResend
  try dsimp only
  repeat' first
    | with_reducible assumption | with_reducible apply KeepsR.next | with_reducible apply KeepsR.fault
    | with_reducible apply KeepsR.atPlace | with_reducible apply KeepsO.some | with_reducible apply KeepsO.none
    | with_reducible apply KeepsO.getD | with_reducible apply State.modPort_keeps | with_reducible apply Keeps.foldl
    | with_reducible apply Keeps.foldlFst | with_reducible apply Keeps.foldlSnd
    | ((with_reducible apply Same.mk) <;> first | exact no ‹_› | exact fun _ => rfl) | intro _ | split | assumption
    | with_reducible apply Keeps.sends | fail_if_no_progress with_reducible apply Keeps.update

theorem execRetrainRequest_keeps {pt : Parts} {a : State} (p : Nat) (f : BitVec 2048) (s : State) (h : Keeps pt a s) (x_tiles :
    pt.tiles = false := by assumption) (x_trouble : pt.trouble = false := by assumption) (x_ports : pt.ports = false := by
    assumption) (x_fabric : pt.fabric = false := by assumption) :
        KeepsR pt a (execRetrainRequest p f s) := by
  unfold execRetrainRequest
  try dsimp only
  repeat' first
    | with_reducible assumption | with_reducible apply KeepsR.next | with_reducible apply KeepsR.fault
    | with_reducible apply KeepsR.atPlace | with_reducible apply KeepsO.some | with_reducible apply KeepsO.none
    | with_reducible apply KeepsO.getD | with_reducible apply State.retrain_keeps | with_reducible apply onControl_keeps
    | with_reducible apply Keeps.foldl | with_reducible apply Keeps.foldlFst | with_reducible apply Keeps.foldlSnd
    | ((with_reducible apply Same.mk) <;> first | exact no ‹_› | exact fun _ => rfl) | intro _ | split | assumption
    | with_reducible apply Keeps.sends | fail_if_no_progress with_reducible apply Keeps.update

theorem execDownNotice_keeps {pt : Parts} {a : State} (p : Nat) (f : BitVec 2048) (s : State) (h : Keeps pt a s) (x_tiles :
    pt.tiles = false := by assumption) (x_trouble : pt.trouble = false := by assumption) (x_ports : pt.ports = false := by
    assumption) (x_fabric : pt.fabric = false := by assumption) :
        KeepsR pt a (execDownNotice p f s) := by
  unfold execDownNotice
  try dsimp only
  repeat' first
    | with_reducible assumption | with_reducible apply KeepsR.next | with_reducible apply KeepsR.fault
    | with_reducible apply KeepsR.atPlace | with_reducible apply KeepsO.some | with_reducible apply KeepsO.none
    | with_reducible apply KeepsO.getD | with_reducible apply onControl_keeps | with_reducible apply Keeps.foldl
    | with_reducible apply Keeps.foldlFst | with_reducible apply Keeps.foldlSnd
    | ((with_reducible apply Same.mk) <;> first | exact no ‹_› | exact fun _ => rfl) | intro _ | split | assumption
    | with_reducible apply Keeps.sends | fail_if_no_progress with_reducible apply Keeps.update

theorem execFecLockLoss_keeps {pt : Parts} {a : State} (p : Nat) (s : State) (h : Keeps pt a s) (x_tiles : pt.tiles = false := by
    assumption) (x_trouble : pt.trouble = false := by assumption) (x_ports : pt.ports = false := by assumption) (x_fabric :
    pt.fabric = false := by assumption) :
        KeepsR pt a (execFecLockLoss p s) := by
  unfold execFecLockLoss
  try dsimp only
  repeat' first
    | with_reducible assumption | with_reducible apply KeepsR.next | with_reducible apply KeepsR.fault
    | with_reducible apply KeepsR.atPlace | with_reducible apply KeepsO.some | with_reducible apply KeepsO.none
    | with_reducible apply KeepsO.getD | with_reducible apply State.portDown_keeps | with_reducible apply Keeps.foldl
    | with_reducible apply Keeps.foldlFst | with_reducible apply Keeps.foldlSnd
    | ((with_reducible apply Same.mk) <;> first | exact no ‹_› | exact fun _ => rfl) | intro _ | split | assumption
    | with_reducible apply Keeps.sends | fail_if_no_progress with_reducible apply Keeps.update

theorem State.emit_keeps {pt : Parts} {a : State} (s : State) (p : Nat) (f : BitVec 2048 × Port) (h : Keeps pt a s) (x_ports :
    pt.ports = false := by assumption) (x_sent : pt.sent = false := by assumption) :
        Keeps pt a (State.emit s p f) := by
  unfold State.emit
  exact Keeps.sends (State.modPort_keeps _ _ _ h) _

theorem State.sendNew_keeps {pt : Parts} {a : State} (s : State) (p : Nat) (pair : Nat) (h : Keeps pt a s) (x_ports : pt.ports =
    false := by assumption) (x_sent : pt.sent = false := by assumption) :
        Keeps pt a (State.sendNew s p pair) := by
  unfold State.sendNew
  try dsimp only
  repeat' first
    | with_reducible assumption | with_reducible apply Keeps.elim | with_reducible apply KeepsR.next
    | with_reducible apply KeepsR.fault | with_reducible apply KeepsR.atPlace | with_reducible apply KeepsO.some
    | with_reducible apply KeepsO.none | with_reducible apply KeepsO.getD | with_reducible apply State.unheld_keeps
    | with_reducible apply State.emit_keeps | with_reducible apply Keeps.foldl | with_reducible apply Keeps.foldlFst
    | with_reducible apply Keeps.foldlSnd | ((with_reducible apply Same.mk) <;> first | exact no ‹_› | exact fun _ => rfl)
    | intro _ | split | assumption | with_reducible apply Keeps.sends | fail_if_no_progress with_reducible apply Keeps.update

theorem State.sendFlit_keeps {pt : Parts} {a : State} (s : State) (p : Nat) (h : Keeps pt a s) (x_ports : pt.ports = false := by
    assumption) (x_sent : pt.sent = false := by assumption) :
        Keeps pt a (State.sendFlit s p) := by
  unfold State.sendFlit
  try dsimp only
  repeat' first
    | with_reducible assumption | with_reducible apply KeepsR.next | with_reducible apply KeepsR.fault
    | with_reducible apply KeepsR.atPlace | with_reducible apply KeepsO.some | with_reducible apply KeepsO.none
    | with_reducible apply KeepsO.getD | with_reducible apply State.emit_keeps | with_reducible apply State.sendNew_keeps
    | with_reducible apply Keeps.foldl | with_reducible apply Keeps.foldlFst | with_reducible apply Keeps.foldlSnd
    | ((with_reducible apply Same.mk) <;> first | exact no ‹_› | exact fun _ => rfl) | intro _ | split | assumption
    | with_reducible apply Keeps.sends | fail_if_no_progress with_reducible apply Keeps.update

theorem execFlitTransmit_keeps {pt : Parts} {a : State} (p : Nat) (s : State) (h : Keeps pt a s) (x_ports : pt.ports = false := by
    assumption) (x_sent : pt.sent = false := by assumption) :
        KeepsR pt a (execFlitTransmit p s) := by
  unfold execFlitTransmit
  try dsimp only
  repeat' first
    | with_reducible assumption | with_reducible apply KeepsR.next | with_reducible apply KeepsR.fault
    | with_reducible apply KeepsR.atPlace | with_reducible apply KeepsO.some | with_reducible apply KeepsO.none
    | with_reducible apply KeepsO.getD | with_reducible apply State.sendFlit_keeps | with_reducible apply Keeps.foldl
    | with_reducible apply Keeps.foldlFst | with_reducible apply Keeps.foldlSnd
    | ((with_reducible apply Same.mk) <;> first | exact no ‹_› | exact fun _ => rfl) | intro _ | split | assumption
    | with_reducible apply Keeps.sends | fail_if_no_progress with_reducible apply Keeps.update

end Sys2Proof.Machine
end

