-- ==== Sys2Proof/Laws/KeepTrust.lean ====
section
/-!
SUPPORT. What the operations of Machine/Trust.lean keep (Laws/Keeps.lean).
-/
namespace Sys2Proof.Machine

set_option linter.unusedTactic false
set_option linter.unreachableTactic false
set_option Elab.async false

theorem State.modKind_keeps {pt : Parts} {a : State} (s : State) (k : Nat) (f : Kind → Kind) (h : Keeps pt a s) (hf : KindOk f)
    (x_trust : pt.trust = false := by assumption) :
        Keeps pt a (State.modKind s k f) := by
  refine h.trans ⟨rfl, id, fun j => ?_, ⟨[], rfl⟩, id, by
    constructor <;> first | exact no ‹_› | exact fun _ => rfl⟩
  show (lget s.trust.kinds j {}).fused ≤ (lget (lset s.trust.kinds k (f (s.kind k))) j {}).fused
  rw [lget_lset]
  split
  · next e => exact e.1 ▸ hf.ok _
  · exact Nat.le_refl _

theorem State.stage_keeps {pt : Parts} {a : State} (s : State) (h0 : Nat) (h : Keeps pt a s) (x_trust : pt.trust = false := by
    assumption) :
        Keeps pt a (State.stage s h0) := by
  unfold State.stage
  try dsimp only
  repeat' first
    | with_reducible assumption | with_reducible apply KeepsR.next | with_reducible apply KeepsR.fault
    | with_reducible apply KeepsR.atPlace | with_reducible apply KeepsO.some | with_reducible apply KeepsO.none
    | with_reducible apply KeepsO.getD | with_reducible apply State.modKind_keeps | with_reducible apply Keeps.foldl
    | with_reducible apply Keeps.foldlFst | with_reducible apply Keeps.foldlSnd
    | ((with_reducible apply Same.mk) <;> first | exact no ‹_› | exact fun _ => rfl) | intro _ | split | assumption
    | with_reducible apply Keeps.sends | fail_if_no_progress with_reducible apply Keeps.update | exact ⟨fun _ => Nat.le_refl _⟩

theorem State.startKind_keeps {pt : Parts} {a : State} (s : State) (k : Nat) (h : Keeps pt a s) (x_trust : pt.trust = false := by
    assumption) :
        KeepsO pt a (State.startKind s k) := by
  refine ⟨fun t e => ?_⟩
  unfold State.startKind at e
  dsimp only at e
  rw [Option.map_eq_some_iff] at e
  obtain ⟨r, _, e⟩ := e
  exact e ▸ State.modKind_keeps _ _ _ h ⟨fun _ => Nat.le_refl _⟩

theorem State.extend_keeps {pt : Parts} {a : State} (s : State) (i : Nat) (d : BitVec 512) (h : Keeps pt a s) (x_trust : pt.trust
    = false := by assumption) :
        Keeps pt a (State.extend s i d) := by
  exact h.trusts _ rfl

theorem State.takeNonce_keeps {pt : Parts} {a : State} (s : State) (nonce : BitVec 256) (h : Keeps pt a s) (x_trust : pt.trust =
    false := by assumption) :
        Keeps pt a (State.takeNonce s nonce) := by
  exact h.trusts _ rfl

end Sys2Proof.Machine
end

