-- ==== Sys2Proof/Laws/KeepBringup.lean ====
section
/-!
SUPPORT. What the operations of Machine/Bringup.lean keep (Laws/Keeps.lean).
-/
namespace Sys2Proof.Machine

set_option linter.unusedTactic false
set_option linter.unreachableTactic false
set_option Elab.async false

theorem State.modPower_keeps {pt : Parts} {a : State} (s : State) (f : Power → Power) (h : Keeps pt a s) (hf : PowerOk f) (x_power
    : pt.power = false := by assumption) :
        Keeps pt a (State.modPower s f) := by
  exact h.powers _ (hf.ok _)

theorem State.clearDies_keeps {pt : Parts} {a : State} (s : State) (h : Keeps pt a s) (x_tiles : pt.tiles = false := by
    assumption) (x_ctxs : pt.ctxs = false := by assumption) (x_teams : pt.teams = false := by assumption) (x_teamCmds :
    pt.teamCmds = false := by assumption) (x_chans : pt.chans = false := by assumption) (x_net : pt.net = false := by assumption)
    (x_gtallies : pt.gtallies = false := by assumption) (x_huddles : pt.huddles = false := by assumption) (x_reds : pt.reds =
    false := by assumption) (x_pools : pt.pools = false := by assumption) (x_snaps : pt.snaps = false := by assumption) (x_trouble
    : pt.trouble = false := by assumption) (x_device : pt.device = false := by assumption) (x_ports : pt.ports = false := by
    assumption) (x_fabric : pt.fabric = false := by assumption) (x_fns : pt.fns = false := by assumption) (x_service : pt.service
    = false := by assumption) :
        Keeps pt a (State.clearDies s) := by
  unfold State.clearDies
  try dsimp only
  repeat' first
    | with_reducible assumption | with_reducible apply KeepsR.next | with_reducible apply KeepsR.fault
    | with_reducible apply KeepsR.atPlace | with_reducible apply KeepsO.some | with_reducible apply KeepsO.none
    | with_reducible apply KeepsO.getD | with_reducible apply Keeps.foldl | with_reducible apply Keeps.foldlFst
    | with_reducible apply Keeps.foldlSnd | ((with_reducible apply Same.mk) <;> first | exact no ‹_› | exact fun _ => rfl)
    | intro _ | split | assumption | with_reducible apply Keeps.sends | fail_if_no_progress with_reducible apply Keeps.update

theorem State.clearStores_keeps {pt : Parts} {a : State} (s : State) (h : Keeps pt a s) (x_mem : pt.mem = false := by assumption)
    (x_bad : pt.bad = false := by assumption) :
        Keeps pt a (State.clearStores s) := by
  exact (h.storeMem _ fun w => Memory.wf_filter _ w).calm rfl rfl rfl rfl rfl

theorem State.clearExternal_keeps {pt : Parts} {a : State} (s : State) (h : Keeps pt a s) (x_mem : pt.mem = false := by
    assumption) (x_bad : pt.bad = false := by assumption) :
        Keeps pt a (State.clearExternal s) := by
  exact (h.storeMem _ fun w => Memory.wf_filter _ w).calm rfl rfl rfl rfl rfl

theorem State.losePackages_keeps {pt : Parts} {a : State} (s : State) (h : Keeps pt a s) (x_power : pt.power = false := by
    assumption) :
        Keeps pt a (State.losePackages s) := by
  unfold State.losePackages
  try dsimp only
  repeat' first
    | with_reducible assumption | with_reducible apply KeepsR.next | with_reducible apply KeepsR.fault
    | with_reducible apply KeepsR.atPlace | with_reducible apply KeepsO.some | with_reducible apply KeepsO.none
    | with_reducible apply KeepsO.getD | with_reducible apply State.modPower_keeps | with_reducible apply Keeps.foldl
    | with_reducible apply Keeps.foldlFst | with_reducible apply Keeps.foldlSnd
    | ((with_reducible apply Same.mk) <;> first | exact no ‹_› | exact fun _ => rfl) | intro _ | split | assumption
    | with_reducible apply Keeps.sends | fail_if_no_progress with_reducible apply Keeps.update | exact ⟨fun _ hp => hp⟩
    | exact ⟨fun p hp => by dsimp only; repeat' (first | exact hp | omega | split)⟩

theorem State.stopped_keeps {pt : Parts} {a : State} (s : State) (h : Keeps pt a s) (x_tiles : pt.tiles = false := by assumption)
    (x_ctxs : pt.ctxs = false := by assumption) (x_teams : pt.teams = false := by assumption) (x_teamCmds : pt.teamCmds = false :=
    by assumption) (x_chans : pt.chans = false := by assumption) (x_mem : pt.mem = false := by assumption) (x_bad : pt.bad = false
    := by assumption) (x_net : pt.net = false := by assumption) (x_gtallies : pt.gtallies = false := by assumption) (x_huddles :
    pt.huddles = false := by assumption) (x_reds : pt.reds = false := by assumption) (x_pools : pt.pools = false := by assumption)
    (x_snaps : pt.snaps = false := by assumption) (x_trouble : pt.trouble = false := by assumption) (x_device : pt.device = false
    := by assumption) (x_ports : pt.ports = false := by assumption) (x_fabric : pt.fabric = false := by assumption) (x_fns :
    pt.fns = false := by assumption) (x_service : pt.service = false := by assumption) (x_power : pt.power = false := by
    assumption) :
        Keeps pt a (State.stopped s) := by
  unfold State.stopped
  try dsimp only
  repeat' first
    | with_reducible assumption | with_reducible apply KeepsR.next | with_reducible apply KeepsR.fault
    | with_reducible apply KeepsR.atPlace | with_reducible apply KeepsO.some | with_reducible apply KeepsO.none
    | with_reducible apply KeepsO.getD | with_reducible apply State.modPower_keeps | with_reducible apply State.clearDies_keeps
    | with_reducible apply State.clearStores_keeps | with_reducible apply State.losePackages_keeps
    | with_reducible apply Keeps.foldl | with_reducible apply Keeps.foldlFst | with_reducible apply Keeps.foldlSnd
    | ((with_reducible apply Same.mk) <;> first | exact no ‹_› | exact fun _ => rfl) | intro _ | split | assumption
    | with_reducible apply Keeps.sends | fail_if_no_progress with_reducible apply Keeps.update | exact ⟨fun _ hp => hp⟩
    | exact ⟨fun p hp => by dsimp only; repeat' (first | exact hp | omega | split)⟩

theorem State.startPhase2_keeps {pt : Parts} {a : State} (s : State) (h : Keeps pt a s) (x_ports : pt.ports = false := by
    assumption) (x_power : pt.power = false := by assumption) :
        Keeps pt a (State.startPhase2 s) := by
  unfold State.startPhase2
  try dsimp only
  repeat' first
    | with_reducible assumption | with_reducible apply KeepsR.next | with_reducible apply KeepsR.fault
    | with_reducible apply KeepsR.atPlace | with_reducible apply KeepsO.some | with_reducible apply KeepsO.none
    | with_reducible apply KeepsO.getD | with_reducible apply State.modPower_keeps | with_reducible apply Keeps.foldl
    | with_reducible apply Keeps.foldlFst | with_reducible apply Keeps.foldlSnd
    | ((with_reducible apply Same.mk) <;> first | exact no ‹_› | exact fun _ => rfl) | intro _ | split | assumption
    | with_reducible apply Keeps.sends | fail_if_no_progress with_reducible apply Keeps.update | exact ⟨fun _ hp => hp⟩
    | exact ⟨fun p hp => by dsimp only; repeat' (first | exact hp | omega | split)⟩

theorem State.startBringup_keeps {pt : Parts} {a : State} (s : State) (fromRom : Bool) (h : Keeps pt a s) (x_tiles : pt.tiles =
    false := by assumption) (x_ctxs : pt.ctxs = false := by assumption) (x_teams : pt.teams = false := by assumption) (x_teamCmds
    : pt.teamCmds = false := by assumption) (x_chans : pt.chans = false := by assumption) (x_net : pt.net = false := by
    assumption) (x_gtallies : pt.gtallies = false := by assumption) (x_huddles : pt.huddles = false := by assumption) (x_reds :
    pt.reds = false := by assumption) (x_pools : pt.pools = false := by assumption) (x_snaps : pt.snaps = false := by assumption)
    (x_trouble : pt.trouble = false := by assumption) (x_device : pt.device = false := by assumption) (x_ports : pt.ports = false
    := by assumption) (x_fabric : pt.fabric = false := by assumption) (x_camp : pt.camp = false := by assumption) (x_fns : pt.fns
    = false := by assumption) (x_service : pt.service = false := by assumption) (x_power : pt.power = false := by assumption) :
        Keeps pt a (State.startBringup s fromRom) := by
  unfold State.startBringup
  try dsimp only
  repeat' first
    | with_reducible assumption | with_reducible apply KeepsR.next | with_reducible apply KeepsR.fault
    | with_reducible apply KeepsR.atPlace | with_reducible apply KeepsO.some | with_reducible apply KeepsO.none
    | with_reducible apply KeepsO.getD | with_reducible apply State.modPower_keeps | with_reducible apply State.clearDies_keeps
    | with_reducible apply State.startPhase2_keeps | with_reducible apply Keeps.foldl | with_reducible apply Keeps.foldlFst
    | with_reducible apply Keeps.foldlSnd | ((with_reducible apply Same.mk) <;> first | exact no ‹_› | exact fun _ => rfl)
    | intro _ | split | assumption | with_reducible apply Keeps.sends | fail_if_no_progress with_reducible apply Keeps.update
    | exact ⟨fun _ hp => hp⟩ | exact ⟨fun p hp => by dsimp only; repeat' (first | exact hp | omega | split)⟩

theorem State.startCamp_keeps {pt : Parts} {a : State} (s : State) (h : Keeps pt a s) (x_power : pt.power = false := by
    assumption) (x_trust : pt.trust = false := by assumption) :
        Keeps pt a (State.startCamp s) := by
  unfold State.startCamp
  exact State.modPower_keeps _ _ (h.trusts _ rfl) ⟨fun _ hp => hp⟩

theorem State.settleRestart_keeps {pt : Parts} {a : State} (s : State) (h : Keeps pt a s) (x_tiles : pt.tiles = false := by
    assumption) (x_ctxs : pt.ctxs = false := by assumption) (x_teams : pt.teams = false := by assumption) (x_teamCmds :
    pt.teamCmds = false := by assumption) (x_chans : pt.chans = false := by assumption) (x_net : pt.net = false := by assumption)
    (x_gtallies : pt.gtallies = false := by assumption) (x_huddles : pt.huddles = false := by assumption) (x_reds : pt.reds =
    false := by assumption) (x_pools : pt.pools = false := by assumption) (x_snaps : pt.snaps = false := by assumption) (x_trouble
    : pt.trouble = false := by assumption) (x_device : pt.device = false := by assumption) (x_ports : pt.ports = false := by
    assumption) (x_fabric : pt.fabric = false := by assumption) (x_camp : pt.camp = false := by assumption) (x_fns : pt.fns =
    false := by assumption) (x_service : pt.service = false := by assumption) (x_power : pt.power = false := by assumption)
    (x_trust : pt.trust = false := by assumption) :
        Keeps pt a (State.settleRestart s) := by
  unfold State.settleRestart
  try dsimp only
  repeat' first
    | with_reducible assumption | with_reducible apply KeepsR.next | with_reducible apply KeepsR.fault
    | with_reducible apply KeepsR.atPlace | with_reducible apply KeepsO.some | with_reducible apply KeepsO.none
    | with_reducible apply KeepsO.getD | with_reducible apply State.startBringup_keeps
    | with_reducible apply State.startCamp_keeps | with_reducible apply Keeps.foldl | with_reducible apply Keeps.foldlFst
    | with_reducible apply Keeps.foldlSnd | ((with_reducible apply Same.mk) <;> first | exact no ‹_› | exact fun _ => rfl)
    | intro _ | split | assumption | with_reducible apply Keeps.sends | fail_if_no_progress with_reducible apply Keeps.update

theorem State.bringupFault_keeps {pt : Parts} {a : State} (s : State) (i : Nat) (h : Keeps pt a s) (x_trouble : pt.trouble = false
    := by assumption) :
        Keeps pt a (State.bringupFault s i) := by
  unfold State.bringupFault
  try dsimp only
  repeat' first
    | with_reducible assumption | with_reducible apply KeepsR.next | with_reducible apply KeepsR.fault
    | with_reducible apply KeepsR.atPlace | with_reducible apply KeepsO.some | with_reducible apply KeepsO.none
    | with_reducible apply KeepsO.getD | with_reducible apply Keeps.foldl | with_reducible apply Keeps.foldlFst
    | with_reducible apply Keeps.foldlSnd | ((with_reducible apply Same.mk) <;> first | exact no ‹_› | exact fun _ => rfl)
    | intro _ | split | assumption | with_reducible apply Keeps.sends | fail_if_no_progress with_reducible apply Keeps.update

theorem State.firmwareFault_keeps {pt : Parts} {a : State} (s : State) (h : Keeps pt a s) (x_trouble : pt.trouble = false := by
    assumption) :
        Keeps pt a (State.firmwareFault s) := by
  unfold State.firmwareFault
  try dsimp only
  repeat' first
    | with_reducible assumption | with_reducible apply KeepsR.next | with_reducible apply KeepsR.fault
    | with_reducible apply KeepsR.atPlace | with_reducible apply KeepsO.some | with_reducible apply KeepsO.none
    | with_reducible apply KeepsO.getD | with_reducible apply State.free_keeps | with_reducible apply Keeps.foldl
    | with_reducible apply Keeps.foldlFst | with_reducible apply Keeps.foldlSnd
    | ((with_reducible apply Same.mk) <;> first | exact no ‹_› | exact fun _ => rfl) | intro _ | split | assumption
    | with_reducible apply Keeps.sends | fail_if_no_progress with_reducible apply Keeps.update

theorem State.firmwareStop_keeps {pt : Parts} {a : State} (s : State) (h : Keeps pt a s) (x_tiles : pt.tiles = false := by
    assumption) (x_ctxs : pt.ctxs = false := by assumption) (x_teams : pt.teams = false := by assumption) (x_teamCmds :
    pt.teamCmds = false := by assumption) (x_chans : pt.chans = false := by assumption) (x_mem : pt.mem = false := by assumption)
    (x_bad : pt.bad = false := by assumption) (x_net : pt.net = false := by assumption) (x_gtallies : pt.gtallies = false := by
    assumption) (x_huddles : pt.huddles = false := by assumption) (x_reds : pt.reds = false := by assumption) (x_pools : pt.pools
    = false := by assumption) (x_snaps : pt.snaps = false := by assumption) (x_trouble : pt.trouble = false := by assumption)
    (x_device : pt.device = false := by assumption) (x_ports : pt.ports = false := by assumption) (x_fabric : pt.fabric = false :=
    by assumption) (x_fns : pt.fns = false := by assumption) (x_service : pt.service = false := by assumption) (x_power : pt.power
    = false := by assumption) :
        Keeps pt a (State.firmwareStop s) := by
  unfold State.firmwareStop
  try dsimp only
  repeat' first
    | with_reducible assumption | with_reducible apply KeepsR.next | with_reducible apply KeepsR.fault
    | with_reducible apply KeepsR.atPlace | with_reducible apply KeepsO.some | with_reducible apply KeepsO.none
    | with_reducible apply KeepsO.getD | with_reducible apply State.stopped_keeps
    | with_reducible apply State.firmwareFault_keeps | with_reducible apply Keeps.foldl | with_reducible apply Keeps.foldlFst
    | with_reducible apply Keeps.foldlSnd | ((with_reducible apply Same.mk) <;> first | exact no ‹_› | exact fun _ => rfl)
    | intro _ | split | assumption | with_reducible apply Keeps.sends | fail_if_no_progress with_reducible apply Keeps.update

theorem State.bringupStop_keeps {pt : Parts} {a : State} (s : State) (i : Nat) (h : Keeps pt a s) (x_tiles : pt.tiles = false :=
    by assumption) (x_ctxs : pt.ctxs = false := by assumption) (x_teams : pt.teams = false := by assumption) (x_teamCmds :
    pt.teamCmds = false := by assumption) (x_chans : pt.chans = false := by assumption) (x_mem : pt.mem = false := by assumption)
    (x_bad : pt.bad = false := by assumption) (x_net : pt.net = false := by assumption) (x_gtallies : pt.gtallies = false := by
    assumption) (x_huddles : pt.huddles = false := by assumption) (x_reds : pt.reds = false := by assumption) (x_pools : pt.pools
    = false := by assumption) (x_snaps : pt.snaps = false := by assumption) (x_trouble : pt.trouble = false := by assumption)
    (x_device : pt.device = false := by assumption) (x_ports : pt.ports = false := by assumption) (x_fabric : pt.fabric = false :=
    by assumption) (x_fns : pt.fns = false := by assumption) (x_service : pt.service = false := by assumption) (x_power : pt.power
    = false := by assumption) :
        Keeps pt a (State.bringupStop s i) := by
  unfold State.bringupStop
  try dsimp only
  repeat' first
    | with_reducible assumption | with_reducible apply KeepsR.next | with_reducible apply KeepsR.fault
    | with_reducible apply KeepsR.atPlace | with_reducible apply KeepsO.some | with_reducible apply KeepsO.none
    | with_reducible apply KeepsO.getD | with_reducible apply State.stopped_keeps | with_reducible apply State.bringupFault_keeps
    | with_reducible apply Keeps.foldl | with_reducible apply Keeps.foldlFst | with_reducible apply Keeps.foldlSnd
    | ((with_reducible apply Same.mk) <;> first | exact no ‹_› | exact fun _ => rfl) | intro _ | split | assumption
    | with_reducible apply Keeps.sends | fail_if_no_progress with_reducible apply Keeps.update

theorem State.spareSeams_keeps {pt : Parts} {a : State} (s : State) (r : PhaseReport) (h : Keeps pt a s) (x_trouble : pt.trouble =
    false := by assumption) :
        Keeps pt a (State.spareSeams s r) := by
  unfold State.spareSeams
  try dsimp only
  repeat' first
    | with_reducible assumption | with_reducible apply KeepsR.next | with_reducible apply KeepsR.fault
    | with_reducible apply KeepsR.atPlace | with_reducible apply KeepsO.some | with_reducible apply KeepsO.none
    | with_reducible apply KeepsO.getD | with_reducible apply Keeps.foldl | with_reducible apply Keeps.foldlFst
    | with_reducible apply Keeps.foldlSnd | ((with_reducible apply Same.mk) <;> first | exact no ‹_› | exact fun _ => rfl)
    | intro _ | split | assumption | with_reducible apply Keeps.sends | fail_if_no_progress with_reducible apply Keeps.update

theorem State.retireChannels_keeps {pt : Parts} {a : State} (s : State) (l : List (Nat × Bool × Nat)) (h : Keeps pt a s) (x_device
    : pt.device = false := by assumption) :
        Keeps pt a (State.retireChannels s l) := by
  unfold State.retireChannels
  try dsimp only
  repeat' first
    | with_reducible assumption | with_reducible apply KeepsR.next | with_reducible apply KeepsR.fault
    | with_reducible apply KeepsR.atPlace | with_reducible apply KeepsO.some | with_reducible apply KeepsO.none
    | with_reducible apply KeepsO.getD | with_reducible apply Keeps.foldl | with_reducible apply Keeps.foldlFst
    | with_reducible apply Keeps.foldlSnd | ((with_reducible apply Same.mk) <;> first | exact no ‹_› | exact fun _ => rfl)
    | intro _ | split | assumption | with_reducible apply Keeps.sends | fail_if_no_progress with_reducible apply Keeps.update

theorem State.memoryLost_keeps {pt : Parts} {a : State} (s : State) (h : Keeps pt a s) (x_power : pt.power = false := by
    assumption) :
        Keeps pt a (State.memoryLost s) := by
  unfold State.memoryLost
  try dsimp only
  repeat' first
    | with_reducible assumption | with_reducible apply KeepsR.next | with_reducible apply KeepsR.fault
    | with_reducible apply KeepsR.atPlace | with_reducible apply KeepsO.some | with_reducible apply KeepsO.none
    | with_reducible apply KeepsO.getD | with_reducible apply State.modPower_keeps | with_reducible apply Keeps.foldl
    | with_reducible apply Keeps.foldlFst | with_reducible apply Keeps.foldlSnd
    | ((with_reducible apply Same.mk) <;> first | exact no ‹_› | exact fun _ => rfl) | intro _ | split | assumption
    | with_reducible apply Keeps.sends | fail_if_no_progress with_reducible apply Keeps.update | exact ⟨fun _ hp => hp⟩
    | exact ⟨fun p hp => by dsimp only; repeat' (first | exact hp | omega | split)⟩

theorem State.nextPhase_keeps {pt : Parts} {a : State} (s : State) (h : Keeps pt a s) (x_power : pt.power = false := by
    assumption) :
        Keeps pt a (State.nextPhase s) := by
  unfold State.nextPhase
  try dsimp only
  repeat' first
    | with_reducible assumption | with_reducible apply KeepsR.next | with_reducible apply KeepsR.fault
    | with_reducible apply KeepsR.atPlace | with_reducible apply KeepsO.some | with_reducible apply KeepsO.none
    | with_reducible apply KeepsO.getD | with_reducible apply State.modPower_keeps | with_reducible apply Keeps.foldl
    | with_reducible apply Keeps.foldlFst | with_reducible apply Keeps.foldlSnd
    | ((with_reducible apply Same.mk) <;> first | exact no ‹_› | exact fun _ => rfl) | intro _ | split | assumption
    | with_reducible apply Keeps.sends | fail_if_no_progress with_reducible apply Keeps.update | exact ⟨fun _ hp => hp⟩
    | exact ⟨fun p hp => by dsimp only; repeat' (first | exact hp | omega | split)⟩

theorem State.endPhase1_keeps {pt : Parts} {a : State} (s : State) (h : Keeps pt a s) (x_tiles : pt.tiles = false := by
    assumption) (x_ctxs : pt.ctxs = false := by assumption) (x_teams : pt.teams = false := by assumption) (x_teamCmds :
    pt.teamCmds = false := by assumption) (x_chans : pt.chans = false := by assumption) (x_mem : pt.mem = false := by assumption)
    (x_bad : pt.bad = false := by assumption) (x_net : pt.net = false := by assumption) (x_gtallies : pt.gtallies = false := by
    assumption) (x_huddles : pt.huddles = false := by assumption) (x_reds : pt.reds = false := by assumption) (x_pools : pt.pools
    = false := by assumption) (x_snaps : pt.snaps = false := by assumption) (x_trouble : pt.trouble = false := by assumption)
    (x_device : pt.device = false := by assumption) (x_ports : pt.ports = false := by assumption) (x_fabric : pt.fabric = false :=
    by assumption) (x_camp : pt.camp = false := by assumption) (x_fns : pt.fns = false := by assumption) (x_service : pt.service =
    false := by assumption) (x_power : pt.power = false := by assumption) (x_trust : pt.trust = false := by assumption) :
        Keeps pt a (State.endPhase1 s) := by
  unfold State.endPhase1
  split
  · have h1 := State.firmwareFault_keeps s h
    generalize s.firmwareFault = t at h1
    dsimp only
    refine State.modPower_keeps _ _ ?_ ⟨fun _ hp => hp⟩
    split
    · exact State.stopped_keeps _ h1
    · exact State.modPower_keeps _ _ h1 ⟨fun _ hp => by dsimp only; split <;> omega⟩
  · next s1 e =>
    have h1 : Keeps pt a s1 := (State.startKind_keeps _ _ h).out _ e
    have h2 := State.extend_keeps s1 0 (s1.runningDigest 0) h1
    generalize s1.extend 0 (s1.runningDigest 0) = t at h2
    dsimp only
    split
    · exact State.startPhase2_keeps _ h2
    · have h3 : Keeps pt a (t.modPower fun p => { p with phase := 0, state := if p.state = 5 then 0 else p.state }) :=
        State.modPower_keeps _ _ h2 ⟨fun _ hp => by dsimp only; split <;> omega⟩
      split
      · exact State.startBringup_keeps _ _ h3
      · exact h3

theorem State.endPhase2_keeps {pt : Parts} {a : State} (s : State) (r : PhaseReport) (h : Keeps pt a s) (x_tiles : pt.tiles =
    false := by assumption) (x_ctxs : pt.ctxs = false := by assumption) (x_teams : pt.teams = false := by assumption) (x_teamCmds
    : pt.teamCmds = false := by assumption) (x_chans : pt.chans = false := by assumption) (x_mem : pt.mem = false := by
    assumption) (x_bad : pt.bad = false := by assumption) (x_net : pt.net = false := by assumption) (x_gtallies : pt.gtallies =
    false := by assumption) (x_huddles : pt.huddles = false := by assumption) (x_reds : pt.reds = false := by assumption) (x_pools
    : pt.pools = false := by assumption) (x_snaps : pt.snaps = false := by assumption) (x_trouble : pt.trouble = false := by
    assumption) (x_device : pt.device = false := by assumption) (x_ports : pt.ports = false := by assumption) (x_fabric :
    pt.fabric = false := by assumption) (x_camp : pt.camp = false := by assumption) (x_fns : pt.fns = false := by assumption)
    (x_service : pt.service = false := by assumption) (x_power : pt.power = false := by assumption) (x_trust : pt.trust = false :=
    by assumption) :
        Keeps pt a (State.endPhase2 s r) := by
  unfold State.endPhase2
  split
  · exact State.bringupStop_keeps _ _ (State.spareSeams_keeps _ _ h)
  · split
    · exact State.firmwareStop_keeps _ (State.spareSeams_keeps _ _ h)
    · next s1 e =>
      have h1 : Keeps pt a s1 := (State.startKind_keeps _ _ (State.spareSeams_keeps _ _ h)).out _ e
      exact State.nextPhase_keeps _ (Keeps.calm (State.free_keeps _ 12 (State.extend_keeps _ _ _ (State.extend_keeps _ _ _ h1)))
        rfl rfl rfl rfl rfl)

theorem State.fillDmem_keeps {pt : Parts} {a : State} (s : State) (m : List Host.Cell) (h : Keeps pt a s) (x_tiles : pt.tiles =
    false := by assumption) :
        Keeps pt a (State.fillDmem s m) := by
  unfold State.fillDmem
  generalize filledTiles m s.tiles = l
  exact h.calm rfl rfl rfl rfl rfl

theorem State.endPhase3_keeps {pt : Parts} {a : State} (s : State) (h : Keeps pt a s) (x_tiles : pt.tiles = false := by
    assumption) (x_ctxs : pt.ctxs = false := by assumption) (x_teams : pt.teams = false := by assumption) (x_teamCmds :
    pt.teamCmds = false := by assumption) (x_chans : pt.chans = false := by assumption) (x_mem : pt.mem = false := by assumption)
    (x_bad : pt.bad = false := by assumption) (x_net : pt.net = false := by assumption) (x_gtallies : pt.gtallies = false := by
    assumption) (x_huddles : pt.huddles = false := by assumption) (x_reds : pt.reds = false := by assumption) (x_pools : pt.pools
    = false := by assumption) (x_snaps : pt.snaps = false := by assumption) (x_trouble : pt.trouble = false := by assumption)
    (x_device : pt.device = false := by assumption) (x_ports : pt.ports = false := by assumption) (x_fabric : pt.fabric = false :=
    by assumption) (x_fns : pt.fns = false := by assumption) (x_service : pt.service = false := by assumption) (x_power : pt.power
    = false := by assumption) (x_trust : pt.trust = false := by assumption) :
        Keeps pt a (State.endPhase3 s) := by
  unfold State.endPhase3
  split
  · exact State.firmwareStop_keeps _ h
  · next s1 e =>
    have h1 : Keeps pt a s1 := (State.startKind_keeps _ _ h).out _ e
    have h2 := State.extend_keeps s1 2 (s1.runningDigest 2) h1
    have h3 : Keeps pt a { s1.extend 2 (s1.runningDigest 2) with broadcast := some (s1.runningDigest 2) } := h2.calm rfl rfl rfl rfl rfl
    exact State.nextPhase_keeps _ (State.fillDmem_keeps _ _ h3)

theorem State.endPhase4_keeps {pt : Parts} {a : State} (s : State) (r : PhaseReport) (h : Keeps pt a s) (x_tiles : pt.tiles =
    false := by assumption) (x_ctxs : pt.ctxs = false := by assumption) (x_teams : pt.teams = false := by assumption) (x_teamCmds
    : pt.teamCmds = false := by assumption) (x_chans : pt.chans = false := by assumption) (x_mem : pt.mem = false := by
    assumption) (x_bad : pt.bad = false := by assumption) (x_net : pt.net = false := by assumption) (x_gtallies : pt.gtallies =
    false := by assumption) (x_huddles : pt.huddles = false := by assumption) (x_reds : pt.reds = false := by assumption) (x_pools
    : pt.pools = false := by assumption) (x_snaps : pt.snaps = false := by assumption) (x_trouble : pt.trouble = false := by
    assumption) (x_device : pt.device = false := by assumption) (x_ports : pt.ports = false := by assumption) (x_fabric :
    pt.fabric = false := by assumption) (x_fns : pt.fns = false := by assumption) (x_service : pt.service = false := by
    assumption) (x_power : pt.power = false := by assumption) :
        Keeps pt a (State.endPhase4 s r) := by
  unfold State.endPhase4
  extract_lets t
  have h0 : Keeps pt a t := State.modPower_keeps _ _ h ⟨fun _ hp => hp⟩
  clear_value t
  split
  · exact State.bringupStop_keeps _ _ h0
  · have h1 : Keeps pt a { t with mem := t.mem.filter fun c => decide (scratchBase ≤ c.1) } := h0.storeMem _ fun w => Memory.wf_filter _ w
    exact State.nextPhase_keeps _ (State.modPower_keeps _ _ (h1.calm rfl rfl rfl rfl rfl) ⟨fun _ hp => hp⟩)

theorem State.endPhase5_keeps {pt : Parts} {a : State} (s : State) (r : PhaseReport) (h : Keeps pt a s) (x_tiles : pt.tiles =
    false := by assumption) (x_ctxs : pt.ctxs = false := by assumption) (x_teams : pt.teams = false := by assumption) (x_teamCmds
    : pt.teamCmds = false := by assumption) (x_chans : pt.chans = false := by assumption) (x_mem : pt.mem = false := by
    assumption) (x_bad : pt.bad = false := by assumption) (x_net : pt.net = false := by assumption) (x_gtallies : pt.gtallies =
    false := by assumption) (x_huddles : pt.huddles = false := by assumption) (x_reds : pt.reds = false := by assumption) (x_pools
    : pt.pools = false := by assumption) (x_snaps : pt.snaps = false := by assumption) (x_trouble : pt.trouble = false := by
    assumption) (x_device : pt.device = false := by assumption) (x_ports : pt.ports = false := by assumption) (x_fabric :
    pt.fabric = false := by assumption) (x_fns : pt.fns = false := by assumption) (x_service : pt.service = false := by
    assumption) (x_power : pt.power = false := by assumption) :
        Keeps pt a (State.endPhase5 s r) := by
  unfold State.endPhase5
  try dsimp only
  repeat' first
    | with_reducible assumption | with_reducible apply KeepsR.next | with_reducible apply KeepsR.fault
    | with_reducible apply KeepsR.atPlace | with_reducible apply KeepsO.some | with_reducible apply KeepsO.none
    | with_reducible apply KeepsO.getD | with_reducible apply State.modPower_keeps | with_reducible apply State.bringupStop_keeps
    | with_reducible apply State.retireChannels_keeps | with_reducible apply State.memoryLost_keeps
    | with_reducible apply State.nextPhase_keeps | with_reducible apply Keeps.foldl | with_reducible apply Keeps.foldlFst
    | with_reducible apply Keeps.foldlSnd | ((with_reducible apply Same.mk) <;> first | exact no ‹_› | exact fun _ => rfl)
    | intro _ | split | assumption | with_reducible apply Keeps.sends | fail_if_no_progress with_reducible apply Keeps.update
    | exact ⟨fun _ hp => hp⟩ | exact ⟨fun p hp => by dsimp only; repeat' (first | exact hp | omega | split)⟩

theorem State.endPhase6_keeps {pt : Parts} {a : State} (s : State) (r : PhaseReport) (h : Keeps pt a s) (x_tiles : pt.tiles =
    false := by assumption) (x_ctxs : pt.ctxs = false := by assumption) (x_teams : pt.teams = false := by assumption) (x_teamCmds
    : pt.teamCmds = false := by assumption) (x_chans : pt.chans = false := by assumption) (x_mem : pt.mem = false := by
    assumption) (x_bad : pt.bad = false := by assumption) (x_net : pt.net = false := by assumption) (x_gtallies : pt.gtallies =
    false := by assumption) (x_huddles : pt.huddles = false := by assumption) (x_reds : pt.reds = false := by assumption) (x_pools
    : pt.pools = false := by assumption) (x_snaps : pt.snaps = false := by assumption) (x_trouble : pt.trouble = false := by
    assumption) (x_device : pt.device = false := by assumption) (x_ports : pt.ports = false := by assumption) (x_fabric :
    pt.fabric = false := by assumption) (x_fns : pt.fns = false := by assumption) (x_service : pt.service = false := by
    assumption) (x_power : pt.power = false := by assumption) (x_trust : pt.trust = false := by assumption) :
        Keeps pt a (State.endPhase6 s r) := by
  have key : ∀ (t : State) (l : List Nat), Keeps pt a t → Keeps pt a (
      if s.power.warm then
        let s2 := { t with bad := t.bad ++ l.filter fun b => !t.bad.contains b }
        (l.foldl (fun s b => s.ueError .scrub (64 * b) none 3) s2).nextPhase
      else
        let s2 := (t.retireChannels r.failedChannels).clearExternal
        if s2.memoryFails then s2.bringupStop 2 else s2.nextPhase) := by
    intro t l ht
    split
    · have h2 : Keeps pt a { t with bad := t.bad ++ l.filter fun b => !t.bad.contains b } := ht.calm rfl rfl rfl rfl rfl
      exact State.nextPhase_keeps _ (Keeps.foldl h2 _ fun t b ht => State.ueError_keeps _ _ _ _ _ ht)
    · have h2 := State.clearExternal_keeps _ (State.retireChannels_keeps _ r.failedChannels ht)
      dsimp only
      split
      · exact State.bringupStop_keeps _ _ h2
      · exact State.nextPhase_keeps _ h2
  unfold State.endPhase6
  exact key _ _ (State.modPower_keeps _ _ (State.extend_keeps _ _ _ h) ⟨fun _ hp => hp⟩)

theorem State.endPhase7_keeps {pt : Parts} {a : State} (s : State) (h : Keeps pt a s) (x_tiles : pt.tiles = false := by
    assumption) (x_ctxs : pt.ctxs = false := by assumption) (x_teams : pt.teams = false := by assumption) (x_teamCmds :
    pt.teamCmds = false := by assumption) (x_chans : pt.chans = false := by assumption) (x_mem : pt.mem = false := by assumption)
    (x_bad : pt.bad = false := by assumption) (x_net : pt.net = false := by assumption) (x_gtallies : pt.gtallies = false := by
    assumption) (x_huddles : pt.huddles = false := by assumption) (x_reds : pt.reds = false := by assumption) (x_pools : pt.pools
    = false := by assumption) (x_snaps : pt.snaps = false := by assumption) (x_trouble : pt.trouble = false := by assumption)
    (x_device : pt.device = false := by assumption) (x_ports : pt.ports = false := by assumption) (x_fabric : pt.fabric = false :=
    by assumption) (x_fns : pt.fns = false := by assumption) (x_service : pt.service = false := by assumption) (x_power : pt.power
    = false := by assumption) (x_trust : pt.trust = false := by assumption) :
        Keeps pt a (State.endPhase7 s) := by
  unfold State.endPhase7
  split
  · exact State.firmwareStop_keeps _ h
  · next s1 e =>
    have h1 : Keeps pt a s1 := (State.startKind_keeps _ _ h).out _ e
    exact State.modPower_keeps _ _ (Keeps.calm (State.extend_keeps _ _ _ h1) rfl rfl rfl rfl rfl) ⟨fun _ _ => by dsimp only; omega⟩

theorem execBringupPhaseComplete_keeps {pt : Parts} {a : State} (r : PhaseReport) (s : State) (h : Keeps pt a s) (x_tiles :
    pt.tiles = false := by assumption) (x_ctxs : pt.ctxs = false := by assumption) (x_teams : pt.teams = false := by assumption)
    (x_teamCmds : pt.teamCmds = false := by assumption) (x_chans : pt.chans = false := by assumption) (x_mem : pt.mem = false :=
    by assumption) (x_bad : pt.bad = false := by assumption) (x_net : pt.net = false := by assumption) (x_gtallies : pt.gtallies =
    false := by assumption) (x_huddles : pt.huddles = false := by assumption) (x_reds : pt.reds = false := by assumption) (x_pools
    : pt.pools = false := by assumption) (x_snaps : pt.snaps = false := by assumption) (x_trouble : pt.trouble = false := by
    assumption) (x_device : pt.device = false := by assumption) (x_ports : pt.ports = false := by assumption) (x_fabric :
    pt.fabric = false := by assumption) (x_camp : pt.camp = false := by assumption) (x_fns : pt.fns = false := by assumption)
    (x_service : pt.service = false := by assumption) (x_power : pt.power = false := by assumption) (x_trust : pt.trust = false :=
    by assumption) :
        KeepsR pt a (execBringupPhaseComplete r s) := by
  unfold execBringupPhaseComplete
  refine .atPlace _ ?_
  split
  · exact State.endPhase1_keeps _ h
  · split
    · exact State.endPhase2_keeps _ _ h
    · exact h
  · exact State.endPhase3_keeps _ h
  · exact State.endPhase4_keeps _ _ h
  · exact State.endPhase5_keeps _ _ h
  · exact State.endPhase6_keeps _ _ h
  · exact State.endPhase7_keeps _ h
  · exact h

end Sys2Proof.Machine
end

