-- ==== Sys2Proof/Laws/KeepExperts.lean ====
section
/-!
SUPPORT. What the operations of Machine/Experts.lean keep (Laws/Keeps.lean).
-/
namespace Sys2Proof.Machine

set_option linter.unusedTactic false
set_option linter.unreachableTactic false
set_option Elab.async false

theorem State.setReplica_keeps {pt : Parts} {a : State} (s : State) (n : Nat) (r : Replica) (h : Keeps pt a s) (x_tiles : pt.tiles
    = false := by assumption) :
        Keeps pt a (State.setReplica s n r) := by
  unfold State.setReplica
  try dsimp only
  repeat' first
    | with_reducible assumption | with_reducible apply KeepsR.next | with_reducible apply KeepsR.fault
    | with_reducible apply KeepsR.atPlace | with_reducible apply KeepsO.some | with_reducible apply KeepsO.none
    | with_reducible apply KeepsO.getD | with_reducible apply State.modTile_keeps | with_reducible apply Keeps.foldl
    | with_reducible apply Keeps.foldlFst | with_reducible apply Keeps.foldlSnd
    | ((with_reducible apply Same.mk) <;> first | exact no ‹_› | exact fun _ => rfl) | intro _ | split | assumption
    | with_reducible apply Keeps.sends | fail_if_no_progress with_reducible apply Keeps.update

theorem cmdRxopen_keeps {pt : Parts}  (x_tiles : pt.tiles = false := by assumption) : CmdKeeps pt (cmdRxopen) where
  run := by
    intro a s n st x h
    unfold cmdRxopen
    try dsimp only
    repeat' first
      | with_reducible assumption | with_reducible apply KeepsR.next | with_reducible apply KeepsR.fault
      | with_reducible apply KeepsR.atPlace | with_reducible apply KeepsO.some | with_reducible apply KeepsO.none
      | with_reducible apply KeepsO.getD | with_reducible apply State.modTile_keeps | with_reducible apply State.setEntry_keeps
      | with_reducible apply State.route_keeps | with_reducible apply Keeps.foldl | with_reducible apply Keeps.foldlFst
      | with_reducible apply Keeps.foldlSnd | ((with_reducible apply Same.mk) <;> first | exact no ‹_› | exact fun _ => rfl)
      | intro _ | split | assumption | with_reducible apply Keeps.sends | fail_if_no_progress with_reducible apply Keeps.update
  ask := by
    intro f e a s n st x h
    unfold cmdRxopen at e
    try dsimp only at e
    first
      | (cases e; done)
      | skip
    try (cases e; try dsimp only)
    repeat' first
      | with_reducible assumption | with_reducible apply KeepsR.next | with_reducible apply KeepsR.fault
      | with_reducible apply KeepsR.atPlace | with_reducible apply KeepsO.some | with_reducible apply KeepsO.none
      | with_reducible apply KeepsO.getD | with_reducible apply State.modTile_keeps | with_reducible apply State.setEntry_keeps
      | with_reducible apply State.route_keeps | with_reducible apply Keeps.foldl | with_reducible apply Keeps.foldlFst
      | with_reducible apply Keeps.foldlSnd | ((with_reducible apply Same.mk) <;> first | exact no ‹_› | exact fun _ => rfl)
      | intro _ | split | assumption | with_reducible apply Keeps.sends | fail_if_no_progress with_reducible apply Keeps.update

theorem cmdRxopen_ends {pt : Parts}   : CmdEnds pt (cmdRxopen) where
  finish := by
    intro a s n st x h
    unfold cmdRxopen
    try dsimp only
    repeat' first
      | with_reducible assumption | with_reducible apply KeepsR.next | with_reducible apply KeepsR.fault
      | with_reducible apply KeepsR.atPlace | with_reducible apply KeepsO.some | with_reducible apply KeepsO.none
      | with_reducible apply KeepsO.getD | with_reducible apply State.modTile_keeps | with_reducible apply State.setEntry_keeps
      | with_reducible apply State.route_keeps | with_reducible apply Keeps.foldl | with_reducible apply Keeps.foldlFst
      | with_reducible apply Keeps.foldlSnd | ((with_reducible apply Same.mk) <;> first | exact no ‹_› | exact fun _ => rfl)
      | intro _ | split | assumption | with_reducible apply Keeps.sends | fail_if_no_progress with_reducible apply Keeps.update

theorem State.rwBegin_keeps {pt : Parts} {a : State} (s : State) (n : Nat) (st : Stream) (x : Entry) (h : Keeps pt a s) (x_tiles :
    pt.tiles = false := by assumption) (x_net : pt.net = false := by assumption) (x_trouble : pt.trouble = false := by assumption)
    (x_ports : pt.ports = false := by assumption) (x_fabric : pt.fabric = false := by assumption) :
        Keeps pt a (State.rwBegin s n st x) := by
  unfold State.rwBegin
  try dsimp only
  repeat' first
    | with_reducible assumption | with_reducible apply KeepsR.next | with_reducible apply KeepsR.fault
    | with_reducible apply KeepsR.atPlace | with_reducible apply KeepsO.some | with_reducible apply KeepsO.none
    | with_reducible apply KeepsO.getD | with_reducible apply State.route_keeps | with_reducible apply State.makePieces_keeps
    | with_reducible apply State.pumpEntry_keeps | with_reducible apply Keeps.foldl | with_reducible apply Keeps.foldlFst
    | with_reducible apply Keeps.foldlSnd | ((with_reducible apply Same.mk) <;> first | exact no ‹_› | exact fun _ => rfl)
    | intro _ | split | assumption | with_reducible apply Keeps.sends | fail_if_no_progress with_reducible apply Keeps.update

theorem cmdRwget_keeps {pt : Parts}  (x_tiles : pt.tiles = false := by assumption) (x_net : pt.net = false := by assumption)
    (x_trouble : pt.trouble = false := by assumption) (x_ports : pt.ports = false := by assumption) (x_fabric : pt.fabric = false
    := by assumption) : CmdKeeps pt (cmdRwget) where
  run := by
    intro a s n st x h
    unfold cmdRwget
    try dsimp only
    repeat' first
      | with_reducible assumption | with_reducible apply KeepsR.next | with_reducible apply KeepsR.fault
      | with_reducible apply KeepsR.atPlace | with_reducible apply KeepsO.some | with_reducible apply KeepsO.none
      | with_reducible apply KeepsO.getD | with_reducible apply State.writeChecked_keeps
      | with_reducible apply State.setEntry_keeps | with_reducible apply State.route_keeps
      | with_reducible apply State.cmdSend_keeps | with_reducible apply State.stopped_keeps
      | with_reducible apply State.rwBegin_keeps | with_reducible apply Keeps.foldl | with_reducible apply Keeps.foldlFst
      | with_reducible apply Keeps.foldlSnd | ((with_reducible apply Same.mk) <;> first | exact no ‹_› | exact fun _ => rfl)
      | intro _ | split | assumption | with_reducible apply Keeps.sends | fail_if_no_progress with_reducible apply Keeps.update
  ask := by
    intro f e a s n st x h
    unfold cmdRwget at e
    try dsimp only at e
    first
      | (cases e; done)
      | skip
    try (cases e; try dsimp only)
    repeat' first
      | with_reducible assumption | with_reducible apply KeepsR.next | with_reducible apply KeepsR.fault
      | with_reducible apply KeepsR.atPlace | with_reducible apply KeepsO.some | with_reducible apply KeepsO.none
      | with_reducible apply KeepsO.getD | with_reducible apply State.writeChecked_keeps
      | with_reducible apply State.setEntry_keeps | with_reducible apply State.route_keeps
      | with_reducible apply State.cmdSend_keeps | with_reducible apply State.stopped_keeps
      | with_reducible apply State.rwBegin_keeps | with_reducible apply Keeps.foldl | with_reducible apply Keeps.foldlFst
      | with_reducible apply Keeps.foldlSnd | ((with_reducible apply Same.mk) <;> first | exact no ‹_› | exact fun _ => rfl)
      | intro _ | split | assumption | with_reducible apply Keeps.sends | fail_if_no_progress with_reducible apply Keeps.update

theorem cmdRwget_ends {pt : Parts}  (x_tiles : pt.tiles = false := by assumption) (x_ctxs : pt.ctxs = false := by assumption)
    (x_mem : pt.mem = false := by assumption) (x_bad : pt.bad = false := by assumption) (x_snaps : pt.snaps = false := by
    assumption) (x_trouble : pt.trouble = false := by assumption) (x_ports : pt.ports = false := by assumption) : CmdEnds pt
    (cmdRwget) where
  finish := by
    intro a s n st x h
    unfold cmdRwget
    try dsimp only
    repeat' first
      | with_reducible assumption | with_reducible apply KeepsR.next | with_reducible apply KeepsR.fault
      | with_reducible apply KeepsR.atPlace | with_reducible apply KeepsO.some | with_reducible apply KeepsO.none
      | with_reducible apply KeepsO.getD | with_reducible apply State.writeChecked_keeps
      | with_reducible apply State.setEntry_keeps | with_reducible apply State.route_keeps
      | with_reducible apply State.cmdSend_keeps | with_reducible apply State.stopped_keeps
      | with_reducible apply State.rwBegin_keeps | with_reducible apply Keeps.foldl | with_reducible apply Keeps.foldlFst
      | with_reducible apply Keeps.foldlSnd | ((with_reducible apply Same.mk) <;> first | exact no ‹_› | exact fun _ => rfl)
      | intro _ | split | assumption | with_reducible apply Keeps.sends | fail_if_no_progress with_reducible apply Keeps.update

theorem State.rwAnswer_keeps {pt : Parts} {a : State} (s : State) (leader : Nat) (empty : Bool) (f : Fetcher) (h : Keeps pt a s)
    (x_net : pt.net = false := by assumption) :
        Keeps pt a (State.rwAnswer s leader empty f) := by
  unfold State.rwAnswer
  try dsimp only
  repeat' first
    | with_reducible assumption | with_reducible apply KeepsR.next | with_reducible apply KeepsR.fault
    | with_reducible apply KeepsR.atPlace | with_reducible apply KeepsO.some | with_reducible apply KeepsO.none
    | with_reducible apply KeepsO.getD | with_reducible apply State.send_keeps | with_reducible apply Keeps.foldl
    | with_reducible apply Keeps.foldlFst | with_reducible apply Keeps.foldlSnd
    | ((with_reducible apply Same.mk) <;> first | exact no ‹_› | exact fun _ => rfl) | intro _ | split | assumption
    | with_reducible apply Keeps.sends | fail_if_no_progress with_reducible apply Keeps.update

theorem execRwgetRegistration_keeps {pt : Parts} {a : State} (k : Nat) (s : State) (h : Keeps pt a s) (x_tiles : pt.tiles = false
    := by assumption) (x_net : pt.net = false := by assumption) (x_trouble : pt.trouble = false := by assumption) :
        KeepsR pt a (execRwgetRegistration k s) := by
  unfold execRwgetRegistration
  try dsimp only
  repeat' first
    | with_reducible assumption | with_reducible apply KeepsR.next | with_reducible apply KeepsR.fault
    | with_reducible apply KeepsR.atPlace | with_reducible apply KeepsO.some | with_reducible apply KeepsO.none
    | with_reducible apply KeepsO.getD | with_reducible apply State.reply_keeps | with_reducible apply onPacket_keeps
    | with_reducible apply State.setReplica_keeps | with_reducible apply State.rwAnswer_keeps | with_reducible apply Keeps.foldl
    | with_reducible apply Keeps.foldlFst | with_reducible apply Keeps.foldlSnd
    | ((with_reducible apply Same.mk) <;> first | exact no ‹_› | exact fun _ => rfl) | intro _ | split | assumption
    | with_reducible apply Keeps.sends | fail_if_no_progress with_reducible apply Keeps.update

theorem execRwgetStart_keeps {pt : Parts} {a : State} (k : Nat) (s : State) (h : Keeps pt a s) (x_tiles : pt.tiles = false := by
    assumption) (x_net : pt.net = false := by assumption) (x_trouble : pt.trouble = false := by assumption) (x_ports : pt.ports =
    false := by assumption) (x_fabric : pt.fabric = false := by assumption) :
        KeepsR pt a (execRwgetStart k s) := by
  unfold execRwgetStart
  try dsimp only
  repeat' first
    | with_reducible assumption | with_reducible apply KeepsR.next | with_reducible apply KeepsR.fault
    | with_reducible apply KeepsR.atPlace | with_reducible apply KeepsO.some | with_reducible apply KeepsO.none
    | with_reducible apply KeepsO.getD | with_reducible apply State.progressed_keeps | with_reducible apply State.setEntry_keeps
    | with_reducible apply onPacket_keeps | with_reducible apply State.stopped_keeps | with_reducible apply State.rwBegin_keeps
    | with_reducible apply Keeps.foldl | with_reducible apply Keeps.foldlFst | with_reducible apply Keeps.foldlSnd
    | ((with_reducible apply Same.mk) <;> first | exact no ‹_› | exact fun _ => rfl) | intro _ | split | assumption
    | with_reducible apply Keeps.sends | fail_if_no_progress with_reducible apply Keeps.update

theorem cmdRxwait_keeps {pt : Parts}  (x_tiles : pt.tiles = false := by assumption) (x_net : pt.net = false := by assumption) :
    CmdKeeps pt (cmdRxwait) where
  run := by
    intro a s n st x h
    unfold cmdRxwait
    try dsimp only
    repeat' first
      | with_reducible assumption | with_reducible apply Keeps.elim | with_reducible apply KeepsR.next
      | with_reducible apply KeepsR.fault | with_reducible apply KeepsR.atPlace | with_reducible apply KeepsO.some
      | with_reducible apply KeepsO.none | with_reducible apply KeepsO.getD | with_reducible apply State.setEntry_keeps
      | with_reducible apply State.route_keeps | with_reducible apply State.setReplica_keeps
      | with_reducible apply State.rwAnswer_keeps | with_reducible apply Keeps.foldl | with_reducible apply Keeps.foldlFst
      | with_reducible apply Keeps.foldlSnd | ((with_reducible apply Same.mk) <;> first | exact no ‹_› | exact fun _ => rfl)
      | intro _ | split | assumption | with_reducible apply Keeps.sends | fail_if_no_progress with_reducible apply Keeps.update
  ask := by
    intro f e a s n st x h
    unfold cmdRxwait at e
    try dsimp only at e
    first
      | (cases e; done)
      | skip
    try (cases e; try dsimp only)
    repeat' first
      | with_reducible assumption | with_reducible apply Keeps.elim | with_reducible apply KeepsR.next
      | with_reducible apply KeepsR.fault | with_reducible apply KeepsR.atPlace | with_reducible apply KeepsO.some
      | with_reducible apply KeepsO.none | with_reducible apply KeepsO.getD | with_reducible apply State.setEntry_keeps
      | with_reducible apply State.route_keeps | with_reducible apply State.setReplica_keeps
      | with_reducible apply State.rwAnswer_keeps | with_reducible apply Keeps.foldl | with_reducible apply Keeps.foldlFst
      | with_reducible apply Keeps.foldlSnd | ((with_reducible apply Same.mk) <;> first | exact no ‹_› | exact fun _ => rfl)
      | intro _ | split | assumption | with_reducible apply Keeps.sends | fail_if_no_progress with_reducible apply Keeps.update

theorem cmdRxwait_ends {pt : Parts}  (x_tiles : pt.tiles = false := by assumption) : CmdEnds pt (cmdRxwait) where
  finish := by
    intro a s n st x h
    unfold cmdRxwait
    try dsimp only
    repeat' first
      | with_reducible assumption | with_reducible apply Keeps.elim | with_reducible apply KeepsR.next
      | with_reducible apply KeepsR.fault | with_reducible apply KeepsR.atPlace | with_reducible apply KeepsO.some
      | with_reducible apply KeepsO.none | with_reducible apply KeepsO.getD | with_reducible apply State.setEntry_keeps
      | with_reducible apply State.route_keeps | with_reducible apply State.setReplica_keeps
      | with_reducible apply State.rwAnswer_keeps | with_reducible apply Keeps.foldl | with_reducible apply Keeps.foldlFst
      | with_reducible apply Keeps.foldlSnd | ((with_reducible apply Same.mk) <;> first | exact no ‹_› | exact fun _ => rfl)
      | intro _ | split | assumption | with_reducible apply Keeps.sends | fail_if_no_progress with_reducible apply Keeps.update

theorem expandAsk_keeps {pt : Parts} {a : State} (s : State) (n : Nat) (st : Stream) (x : Entry) (h : Keeps pt a s) (x_tiles :
    pt.tiles = false := by assumption) (x_net : pt.net = false := by assumption) :
        Keeps pt a (expandAsk s n st x) := by
  unfold expandAsk
  try dsimp only
  repeat' first
    | with_reducible assumption | with_reducible apply KeepsR.next | with_reducible apply KeepsR.fault
    | with_reducible apply KeepsR.atPlace | with_reducible apply KeepsO.some | with_reducible apply KeepsO.none
    | with_reducible apply KeepsO.getD | with_reducible apply State.setEntry_keeps | with_reducible apply State.route_keeps
    | with_reducible apply State.cmdSend_keeps | with_reducible apply Keeps.foldl | with_reducible apply Keeps.foldlFst
    | with_reducible apply Keeps.foldlSnd | ((with_reducible apply Same.mk) <;> first | exact no ‹_› | exact fun _ => rfl)
    | intro _ | split | assumption | with_reducible apply Keeps.sends | fail_if_no_progress with_reducible apply Keeps.update

theorem cmdRxexpand_keeps {pt : Parts}  (x_tiles : pt.tiles = false := by assumption) (x_ctxs : pt.ctxs = false := by assumption)
    (x_mem : pt.mem = false := by assumption) (x_bad : pt.bad = false := by assumption) (x_net : pt.net = false := by assumption)
    (x_snaps : pt.snaps = false := by assumption) (x_trouble : pt.trouble = false := by assumption) (x_ports : pt.ports = false :=
    by assumption) (x_fabric : pt.fabric = false := by assumption) : CmdKeeps pt (cmdRxexpand) where
  run := by
    intro a s n st x h
    unfold cmdRxexpand
    try dsimp only
    repeat' first
      | with_reducible assumption | with_reducible apply KeepsR.next | with_reducible apply KeepsR.fault
      | with_reducible apply KeepsR.atPlace | with_reducible apply KeepsO.some | with_reducible apply KeepsO.none
      | with_reducible apply KeepsO.getD | with_reducible apply State.setEntry_keeps | with_reducible apply State.route_keeps
      | with_reducible apply State.storeTo_keeps | with_reducible apply State.setList_keeps
      | with_reducible apply State.serveList_keeps | with_reducible apply expandAsk_keeps | with_reducible apply Keeps.foldl
      | with_reducible apply Keeps.foldlFst | with_reducible apply Keeps.foldlSnd
      | ((with_reducible apply Same.mk) <;> first | exact no ‹_› | exact fun _ => rfl) | intro _ | split | assumption
      | with_reducible apply Keeps.sends | fail_if_no_progress with_reducible apply Keeps.update
  ask := by
    intro f e a s n st x h
    unfold cmdRxexpand at e
    try dsimp only at e
    first
      | (cases e; done)
      | skip
    try (cases e; try dsimp only)
    repeat' first
      | with_reducible assumption | with_reducible apply KeepsR.next | with_reducible apply KeepsR.fault
      | with_reducible apply KeepsR.atPlace | with_reducible apply KeepsO.some | with_reducible apply KeepsO.none
      | with_reducible apply KeepsO.getD | with_reducible apply State.setEntry_keeps | with_reducible apply State.route_keeps
      | with_reducible apply State.storeTo_keeps | with_reducible apply State.setList_keeps
      | with_reducible apply State.serveList_keeps | with_reducible apply expandAsk_keeps | with_reducible apply Keeps.foldl
      | with_reducible apply Keeps.foldlFst | with_reducible apply Keeps.foldlSnd
      | ((with_reducible apply Same.mk) <;> first | exact no ‹_› | exact fun _ => rfl) | intro _ | split | assumption
      | with_reducible apply Keeps.sends | fail_if_no_progress with_reducible apply Keeps.update

theorem cmdRxexpand_ends {pt : Parts}  (x_tiles : pt.tiles = false := by assumption) (x_net : pt.net = false := by assumption) :
    CmdEnds pt (cmdRxexpand) where
  finish := by
    intro a s n st x h
    unfold cmdRxexpand
    try dsimp only
    repeat' first
      | with_reducible assumption | with_reducible apply KeepsR.next | with_reducible apply KeepsR.fault
      | with_reducible apply KeepsR.atPlace | with_reducible apply KeepsO.some | with_reducible apply KeepsO.none
      | with_reducible apply KeepsO.getD | with_reducible apply State.setEntry_keeps | with_reducible apply State.route_keeps
      | with_reducible apply State.storeTo_keeps | with_reducible apply State.setList_keeps
      | with_reducible apply State.serveList_keeps | with_reducible apply expandAsk_keeps | with_reducible apply Keeps.foldl
      | with_reducible apply Keeps.foldlFst | with_reducible apply Keeps.foldlSnd
      | ((with_reducible apply Same.mk) <;> first | exact no ‹_› | exact fun _ => rfl) | intro _ | split | assumption
      | with_reducible apply Keeps.sends | fail_if_no_progress with_reducible apply Keeps.update

theorem cmdRsend_keeps {pt : Parts}  (x_tiles : pt.tiles = false := by assumption) (x_net : pt.net = false := by assumption) :
    CmdKeeps pt (cmdRsend) where
  run := by
    intro a s n st x h
    unfold cmdRsend
    try dsimp only
    repeat' first
      | with_reducible assumption | with_reducible apply Keeps.elim | with_reducible apply KeepsR.next
      | with_reducible apply KeepsR.fault | with_reducible apply KeepsR.atPlace | with_reducible apply KeepsO.some
      | with_reducible apply KeepsO.none | with_reducible apply KeepsO.getD | with_reducible apply State.modTile_keeps
      | with_reducible apply State.setEntry_keeps | with_reducible apply State.route_keeps
      | with_reducible apply State.rowSend_keeps | with_reducible apply Keeps.foldl | with_reducible apply Keeps.foldlFst
      | with_reducible apply Keeps.foldlSnd | ((with_reducible apply Same.mk) <;> first | exact no ‹_› | exact fun _ => rfl)
      | intro _ | split | assumption | with_reducible apply Keeps.sends | fail_if_no_progress with_reducible apply Keeps.update
  ask := by
    intro f e a s n st x h
    unfold cmdRsend at e
    try dsimp only at e
    first
      | (cases e; done)
      | skip
    try (cases e; try dsimp only)
    repeat' first
      | with_reducible assumption | with_reducible apply Keeps.elim | with_reducible apply KeepsR.next
      | with_reducible apply KeepsR.fault | with_reducible apply KeepsR.atPlace | with_reducible apply KeepsO.some
      | with_reducible apply KeepsO.none | with_reducible apply KeepsO.getD | with_reducible apply State.modTile_keeps
      | with_reducible apply State.setEntry_keeps | with_reducible apply State.route_keeps
      | with_reducible apply State.rowSend_keeps | with_reducible apply Keeps.foldl | with_reducible apply Keeps.foldlFst
      | with_reducible apply Keeps.foldlSnd | ((with_reducible apply Same.mk) <;> first | exact no ‹_› | exact fun _ => rfl)
      | intro _ | split | assumption | with_reducible apply Keeps.sends | fail_if_no_progress with_reducible apply Keeps.update

theorem cmdRsend_ends {pt : Parts}  (x_tiles : pt.tiles = false := by assumption) : CmdEnds pt (cmdRsend) where
  finish := by
    intro a s n st x h
    unfold cmdRsend
    try dsimp only
    repeat' first
      | with_reducible assumption | with_reducible apply Keeps.elim | with_reducible apply KeepsR.next
      | with_reducible apply KeepsR.fault | with_reducible apply KeepsR.atPlace | with_reducible apply KeepsO.some
      | with_reducible apply KeepsO.none | with_reducible apply KeepsO.getD | with_reducible apply State.modTile_keeps
      | with_reducible apply State.setEntry_keeps | with_reducible apply State.route_keeps
      | with_reducible apply State.rowSend_keeps | with_reducible apply Keeps.foldl | with_reducible apply Keeps.foldlFst
      | with_reducible apply Keeps.foldlSnd | ((with_reducible apply Same.mk) <;> first | exact no ‹_› | exact fun _ => rfl)
      | intro _ | split | assumption | with_reducible apply Keeps.sends | fail_if_no_progress with_reducible apply Keeps.update

theorem State.misroute_keeps {pt : Parts} {a : State} (s : State) (n : Nat) (tag : Nat) (h : Keeps pt a s) (x_tiles : pt.tiles =
    false := by assumption) (x_trouble : pt.trouble = false := by assumption) :
        Keeps pt a (State.misroute s n tag) := by
  unfold State.misroute
  try dsimp only
  repeat' first
    | with_reducible assumption | with_reducible apply KeepsR.next | with_reducible apply KeepsR.fault
    | with_reducible apply KeepsR.atPlace | with_reducible apply KeepsO.some | with_reducible apply KeepsO.none
    | with_reducible apply KeepsO.getD | with_reducible apply State.modTile_keeps | with_reducible apply State.sendRecord_keeps
    | with_reducible apply Keeps.foldl | with_reducible apply Keeps.foldlFst | with_reducible apply Keeps.foldlSnd
    | ((with_reducible apply Same.mk) <;> first | exact no ‹_› | exact fun _ => rfl) | intro _ | split | assumption
    | with_reducible apply Keeps.sends | fail_if_no_progress with_reducible apply Keeps.update

theorem State.landRows_keeps {pt : Parts} {a : State} (s : State) (p : Packet) (rows : List (Nat × List Byte)) (f : State → State)
    (h : Keeps pt a s) (hf : ∀ (y0 : State), Keeps pt a y0 → Keeps pt a (f y0)) (x_tiles : pt.tiles = false := by assumption)
    (x_ctxs : pt.ctxs = false := by assumption) (x_mem : pt.mem = false := by assumption) (x_bad : pt.bad = false := by
    assumption) (x_net : pt.net = false := by assumption) (x_snaps : pt.snaps = false := by assumption) (x_trouble : pt.trouble =
    false := by assumption) (x_ports : pt.ports = false := by assumption) :
        Keeps pt a (State.landRows s p rows f) := by
  unfold State.landRows
  try dsimp only
  repeat' first
    | with_reducible assumption | with_reducible apply hf | with_reducible apply KeepsR.next | with_reducible apply KeepsR.fault
    | with_reducible apply KeepsR.atPlace | with_reducible apply KeepsO.some | with_reducible apply KeepsO.none
    | with_reducible apply KeepsO.getD | with_reducible apply State.writeHome_keeps | with_reducible apply State.reply_keeps
    | with_reducible apply State.ueFor_keeps | with_reducible apply Keeps.foldl | with_reducible apply Keeps.foldlFst
    | with_reducible apply Keeps.foldlSnd | ((with_reducible apply Same.mk) <;> first | exact no ‹_› | exact fun _ => rfl)
    | intro _ | split | assumption | with_reducible apply Keeps.sends | fail_if_no_progress with_reducible apply Keeps.update

theorem State.rowProgress_keeps {pt : Parts} {a : State} (s : State) (n : Nat) (slot : Nat) (h : Keeps pt a s) (x_tiles : pt.tiles
    = false := by assumption) :
        Keeps pt a (State.rowProgress s n slot) := by
  unfold State.rowProgress
  try dsimp only
  repeat' first
    | with_reducible assumption | with_reducible apply KeepsR.next | with_reducible apply KeepsR.fault
    | with_reducible apply KeepsR.atPlace | with_reducible apply KeepsO.some | with_reducible apply KeepsO.none
    | with_reducible apply KeepsO.getD | with_reducible apply State.progressed_keeps | with_reducible apply State.issued_keeps
    | with_reducible apply State.route_keeps | with_reducible apply Keeps.foldl | with_reducible apply Keeps.foldlFst
    | with_reducible apply Keeps.foldlSnd | ((with_reducible apply Same.mk) <;> first | exact no ‹_› | exact fun _ => rfl)
    | intro _ | split | assumption | with_reducible apply Keeps.sends | fail_if_no_progress with_reducible apply Keeps.update

theorem execRouteRowArrive_keeps {pt : Parts} {a : State} (k : Nat) (s : State) (h : Keeps pt a s) (x_tiles : pt.tiles = false :=
    by assumption) (x_ctxs : pt.ctxs = false := by assumption) (x_mem : pt.mem = false := by assumption) (x_bad : pt.bad = false
    := by assumption) (x_net : pt.net = false := by assumption) (x_snaps : pt.snaps = false := by assumption) (x_trouble :
    pt.trouble = false := by assumption) (x_ports : pt.ports = false := by assumption) :
        KeepsR pt a (execRouteRowArrive k s) := by
  unfold execRouteRowArrive
  try dsimp only
  repeat' first
    | with_reducible assumption | with_reducible apply KeepsR.next | with_reducible apply KeepsR.fault
    | with_reducible apply KeepsR.atPlace | with_reducible apply KeepsO.some | with_reducible apply KeepsO.none
    | with_reducible apply KeepsO.getD | with_reducible apply onPacket_keeps | with_reducible apply State.setReplica_keeps
    | with_reducible apply State.rwAnswer_keeps | with_reducible apply State.misroute_keeps
    | with_reducible apply State.landRows_keeps | with_reducible apply Keeps.foldl | with_reducible apply Keeps.foldlFst
    | with_reducible apply Keeps.foldlSnd | ((with_reducible apply Same.mk) <;> first | exact no ‹_› | exact fun _ => rfl)
    | intro _ | split | assumption | with_reducible apply Keeps.sends | fail_if_no_progress with_reducible apply Keeps.update

theorem execRouteCloseArrive_keeps {pt : Parts} {a : State} (k : Nat) (s : State) (h : Keeps pt a s) (x_tiles : pt.tiles = false
    := by assumption) (x_net : pt.net = false := by assumption) (x_trouble : pt.trouble = false := by assumption) :
        KeepsR pt a (execRouteCloseArrive k s) := by
  unfold execRouteCloseArrive
  try dsimp only
  repeat' first
    | with_reducible assumption | with_reducible apply KeepsR.next | with_reducible apply KeepsR.fault
    | with_reducible apply KeepsR.atPlace | with_reducible apply KeepsO.some | with_reducible apply KeepsO.none
    | with_reducible apply KeepsO.getD | with_reducible apply onPacket_keeps | with_reducible apply State.setReplica_keeps
    | with_reducible apply State.misroute_keeps | with_reducible apply Keeps.foldl | with_reducible apply Keeps.foldlFst
    | with_reducible apply Keeps.foldlSnd | ((with_reducible apply Same.mk) <;> first | exact no ‹_› | exact fun _ => rfl)
    | intro _ | split | assumption | with_reducible apply Keeps.sends | fail_if_no_progress with_reducible apply Keeps.update

theorem execReturnRowArrive_keeps {pt : Parts} {a : State} (k : Nat) (s : State) (h : Keeps pt a s) (x_tiles : pt.tiles = false :=
    by assumption) (x_ctxs : pt.ctxs = false := by assumption) (x_mem : pt.mem = false := by assumption) (x_bad : pt.bad = false
    := by assumption) (x_net : pt.net = false := by assumption) (x_snaps : pt.snaps = false := by assumption) (x_trouble :
    pt.trouble = false := by assumption) (x_ports : pt.ports = false := by assumption) :
        KeepsR pt a (execReturnRowArrive k s) := by
  unfold execReturnRowArrive
  try dsimp only
  repeat' first
    | with_reducible assumption | with_reducible apply KeepsR.next | with_reducible apply KeepsR.fault
    | with_reducible apply KeepsR.atPlace | with_reducible apply KeepsO.some | with_reducible apply KeepsO.none
    | with_reducible apply KeepsO.getD | with_reducible apply onPacket_keeps | with_reducible apply State.modLayer_keeps
    | with_reducible apply State.misroute_keeps | with_reducible apply State.landRows_keeps
    | with_reducible apply State.rowProgress_keeps | with_reducible apply Keeps.foldl | with_reducible apply Keeps.foldlFst
    | with_reducible apply Keeps.foldlSnd | ((with_reducible apply Same.mk) <;> first | exact no ‹_› | exact fun _ => rfl)
    | intro _ | split | assumption | with_reducible apply Keeps.sends | fail_if_no_progress with_reducible apply Keeps.update

end Sys2Proof.Machine
end

