-- ==== Sys2Proof/Laws/KeepReady.lean ====
section
/-!
SUPPORT. What the operations of Machine/Ready.lean keep (Laws/Keeps.lean).
-/
namespace Sys2Proof.Machine

set_option linter.unusedTactic false
set_option linter.unreachableTactic false
set_option Elab.async false

theorem cmdOf_ends {pt : Parts} {e : Engine} {op : Nat} {c : Cmd} (h : cmdOf e op = some c) (x_tiles : pt.tiles = false := by assumption) (x_ctxs : pt.ctxs = false := by assumption) (x_mem : pt.mem = false := by
    assumption) (x_bad : pt.bad = false := by assumption) (x_net : pt.net = false := by assumption) (x_snaps : pt.snaps = false :=
    by assumption) (x_trouble : pt.trouble = false := by assumption) (x_ports : pt.ports = false := by assumption) (x_fabric :
    pt.fabric = false := by assumption) :
    CmdEnds pt c := by
  unfold cmdOf at h
  split at h
  · cases h; exact cmdTwait_ends _
  · cases h; exact cmdTclaim_ends _
  · cases h; exact cmdTsig_ends _
  · cases h; exact cmdFence_ends _
  · split at h <;> first
      | (cases h; done)
      | (injection h with h; subst h; first
          | with_reducible exact cmdMma_ends | with_reducible exact cmdMdrain_ends | with_reducible exact cmdMdcfg_ends | with_reducible exact cmdWlopen_ends | with_reducible exact cmdWlput_ends
          | with_reducible exact cmdWlrun_ends | with_reducible exact cmdWlclose_ends | with_reducible exact cmdVld_ends | with_reducible exact cmdVst_ends | with_reducible exact cmdEpload_ends
          | with_reducible exact cmdEprog_ends | with_reducible exact cmdEpstrm_ends | with_reducible exact cmdVred_ends | with_reducible exact cmdVsum_ends | with_reducible exact cmdVseed_ends
          | with_reducible exact cmdMove_ends | with_reducible exact cmdMvcomp_ends | with_reducible exact cmdRemask_ends | with_reducible exact cmdStash_ends | with_reducible exact cmdPredld_ends
          | with_reducible exact cmdMaskdrop_ends | with_reducible exact cmdAtomic_ends | with_reducible exact cmdRdopen_ends | with_reducible exact cmdRdadd_ends | with_reducible exact cmdOptcfg_ends
          | with_reducible exact cmdOptstep_ends | with_reducible exact cmdAmaxstep_ends | with_reducible exact cmdSnap_ends | with_reducible exact cmdRtcfg_ends | with_reducible exact cmdRqopen_ends
          | with_reducible exact cmdRoute_ends | with_reducible exact cmdRqclose_ends | with_reducible exact cmdRbound_ends | with_reducible exact cmdRcomb_ends | with_reducible exact cmdRback_ends
          | with_reducible exact cmdRgrad_ends | with_reducible exact cmdRxopen_ends | with_reducible exact cmdRwget_ends | with_reducible exact cmdRxwait_ends | with_reducible exact cmdRxexpand_ends
          | with_reducible exact cmdRsend_ends | with_reducible exact cmdTset_ends | with_reducible exact cmdHuddle_ends | with_reducible exact cmdPoolget_ends | with_reducible exact cmdPoolput_ends
          | with_reducible exact cmdPoolcfg_ends)

theorem State.performIssue_keeps {pt : Parts} {a : State} (s : State) (n : Nat) (e : Engine) (st : Stream) (x : Entry) (c : Cmd)
    (h : Keeps pt a s) (hc : CmdKeeps pt c) (x_tiles : pt.tiles = false := by assumption) (x_ctxs : pt.ctxs = false := by
    assumption) (x_net : pt.net = false := by assumption) (x_snaps : pt.snaps = false := by assumption) (x_trouble : pt.trouble =
    false := by assumption) (x_ports : pt.ports = false := by assumption) :
        Keeps pt a (State.performIssue s n e st x c) := by
  unfold State.performIssue
  extract_lets y s1 s2
  have h1 : Keeps pt a s1 := hc.run a _ n st y (State.preserveFor_keeps s (writerOf s n st) (c.writes s n st y) h)
  split
  · exact State.cmdHalt_keeps _ _ _ _ _ _ h
  · have h2 : Keeps pt a s2 := State.issued_keeps _ n e st y (s.readyStreams n e) h1
    split
    · exact State.askItem_keeps _ _ _ h2
    · exact h2

theorem State.refuseOpcode_keeps {pt : Parts} {a : State} (s : State) (n : Nat) (e : Engine) (st : Stream) (x : Entry) (h : Keeps
    pt a s) (x_tiles : pt.tiles = false := by assumption) (x_trouble : pt.trouble = false := by assumption) (x_ports : pt.ports =
    false := by assumption) :
        Keeps pt a (State.refuseOpcode s n e st x) := by
  unfold State.refuseOpcode
  try dsimp only
  repeat' first
    | with_reducible assumption | with_reducible apply KeepsR.next | with_reducible apply KeepsR.fault
    | with_reducible apply KeepsR.atPlace | with_reducible apply KeepsO.some | with_reducible apply KeepsO.none
    | with_reducible apply KeepsO.getD | with_reducible apply State.cmdHalt_keeps | with_reducible apply Keeps.foldl
    | with_reducible apply Keeps.foldlFst | with_reducible apply Keeps.foldlSnd
    | ((with_reducible apply Same.mk) <;> first | exact no ‹_› | exact fun _ => rfl) | intro _ | split | assumption
    | with_reducible apply Keeps.sends | fail_if_no_progress with_reducible apply Keeps.update

theorem State.issueHead_keeps {pt : Parts} {a : State} (s : State) (n : Nat) (e : Engine) (st : Stream) (c : Cmd) (found : State →
    Entry → State) (x : Entry) (ahead : List Entry) (h : Keeps pt a s) (hc : CmdKeeps pt c) (hfound : ∀ (y0 : State) (y1 : Entry),
    Keeps pt a y0 → Keeps pt a (found y0 y1)) (x_tiles : pt.tiles = false := by assumption) (x_ctxs : pt.ctxs = false := by
    assumption) (x_net : pt.net = false := by assumption) (x_snaps : pt.snaps = false := by assumption) (x_trouble : pt.trouble =
    false := by assumption) (x_ports : pt.ports = false := by assumption) :
        Keeps pt a (State.issueHead s n e st c found x ahead) := by
  have h0 := hfound s x h
  unfold State.issueHead
  try dsimp only
  split
  · exact h
  · split
    · exact State.cmdHalt_keeps _ _ _ _ _ _ h
    · split
      · next f g _ => exact hc.ask _ g _ _ _ _ _ h
      · split
        · exact h
        · split
          · exact State.ueError_keeps _ _ _ _ _ h0
          · exact State.performIssue_keeps _ _ _ _ _ _ h0 hc

theorem issueWith_keeps {pt : Parts} {a : State} (e : Engine) (op : Nat) (c : Cmd) (found : State → Entry → State) (n : Nat) (st :
    Stream) (s : State) (h : Keeps pt a s) (hc : CmdKeeps pt c) (hfound : ∀ (y0 : State) (y1 : Entry), Keeps pt a y0 → Keeps pt a
    (found y0 y1)) (x_tiles : pt.tiles = false := by assumption) (x_ctxs : pt.ctxs = false := by assumption) (x_teams : pt.teams =
    false := by assumption) (x_net : pt.net = false := by assumption) (x_snaps : pt.snaps = false := by assumption) (x_trouble :
    pt.trouble = false := by assumption) (x_ports : pt.ports = false := by assumption) :
        KeepsR pt a (issueWith e op c found n st s) := by
  unfold issueWith
  try dsimp only
  repeat' first
    | with_reducible assumption | with_reducible apply hc | with_reducible apply hfound | with_reducible apply KeepsR.next
    | with_reducible apply KeepsR.fault | with_reducible apply KeepsR.atPlace | with_reducible apply KeepsO.some
    | with_reducible apply KeepsO.none | with_reducible apply KeepsO.getD | with_reducible apply State.inName_keeps
    | with_reducible apply State.refuseOpcode_keeps | with_reducible apply State.issueHead_keeps
    | with_reducible apply Keeps.foldl | with_reducible apply Keeps.foldlFst | with_reducible apply Keeps.foldlSnd
    | ((with_reducible apply Same.mk) <;> first | exact no ‹_› | exact fun _ => rfl) | intro _ | split | assumption
    | with_reducible apply Keeps.sends | fail_if_no_progress with_reducible apply Keeps.update

theorem issueRow_keeps {pt : Parts} {a : State} (e : Engine) (op : Nat) (c : Cmd) (n : Nat) (st : Stream) (s : State) (h : Keeps
    pt a s) (hc : CmdKeeps pt c) (x_tiles : pt.tiles = false := by assumption) (x_ctxs : pt.ctxs = false := by assumption)
    (x_teams : pt.teams = false := by assumption) (x_net : pt.net = false := by assumption) (x_snaps : pt.snaps = false := by
    assumption) (x_trouble : pt.trouble = false := by assumption) (x_ports : pt.ports = false := by assumption) :
        KeepsR pt a (issueRow e op c n st s) := by
  unfold issueRow
  try dsimp only
  repeat' first
    | with_reducible assumption | with_reducible apply hc | with_reducible apply KeepsR.next | with_reducible apply KeepsR.fault
    | with_reducible apply KeepsR.atPlace | with_reducible apply KeepsO.some | with_reducible apply KeepsO.none
    | with_reducible apply KeepsO.getD | with_reducible apply issueWith_keeps | with_reducible apply Keeps.foldl
    | with_reducible apply Keeps.foldlFst | with_reducible apply Keeps.foldlSnd
    | ((with_reducible apply Same.mk) <;> first | exact no ‹_› | exact fun _ => rfl) | intro _ | split | assumption
    | with_reducible apply Keeps.sends | fail_if_no_progress with_reducible apply Keeps.update

end Sys2Proof.Machine
end

