-- ==== Sys2Proof/Laws/KeepTeams.lean ====
section
/-!
SUPPORT. What the operations of Machine/Teams.lean keep (Laws/Keeps.lean).
-/
namespace Sys2Proof.Machine

set_option linter.unusedTactic false
set_option linter.unreachableTactic false
set_option Elab.async false

theorem State.setDispatch_keeps {pt : Parts} {a : State} (s : State) (n : Nat) (st : Stream) (l : List Dispatch) (h : Keeps pt a
    s) (x_tiles : pt.tiles = false := by assumption) :
        Keeps pt a (State.setDispatch s n st l) := by
  unfold State.setDispatch
  try dsimp only
  repeat' first
    | with_reducible assumption | with_reducible apply KeepsR.next | with_reducible apply KeepsR.fault
    | with_reducible apply KeepsR.atPlace | with_reducible apply KeepsO.some | with_reducible apply KeepsO.none
    | with_reducible apply KeepsO.getD | with_reducible apply State.modTile_keeps | with_reducible apply Keeps.foldl
    | with_reducible apply Keeps.foldlFst | with_reducible apply Keeps.foldlSnd
    | ((with_reducible apply Same.mk) <;> first | exact no ‹_› | exact fun _ => rfl) | intro _ | split | assumption
    | with_reducible apply Keeps.sends | fail_if_no_progress with_reducible apply Keeps.update

theorem State.dispatchHalt_keeps {pt : Parts} {a : State} (s : State) (n : Nat) (st : Stream) (x : Entry) (reason : Nat) (h :
    Keeps pt a s) (x_tiles : pt.tiles = false := by assumption) (x_trouble : pt.trouble = false := by assumption) (x_ports :
    pt.ports = false := by assumption) :
        Keeps pt a (State.dispatchHalt s n st x reason) := by
  unfold State.dispatchHalt
  try dsimp only
  repeat' first
    | with_reducible assumption | with_reducible apply KeepsR.next | with_reducible apply KeepsR.fault
    | with_reducible apply KeepsR.atPlace | with_reducible apply KeepsO.some | with_reducible apply KeepsO.none
    | with_reducible apply KeepsO.getD | with_reducible apply State.halt_keeps | with_reducible apply Keeps.foldl
    | with_reducible apply Keeps.foldlFst | with_reducible apply Keeps.foldlSnd
    | ((with_reducible apply Same.mk) <;> first | exact no ‹_› | exact fun _ => rfl) | intro _ | split | assumption
    | with_reducible apply Keeps.sends | fail_if_no_progress with_reducible apply Keeps.update

theorem State.dispatchTo_keeps {pt : Parts} {a : State} (s : State) (n : Nat) (st : Stream) (x : Entry) (rest : List Dispatch) (h
    : Keeps pt a s) (x_tiles : pt.tiles = false := by assumption) (x_teamCmds : pt.teamCmds = false := by assumption) (x_net :
    pt.net = false := by assumption) :
        Keeps pt a (State.dispatchTo s n st x rest) := by
  unfold State.dispatchTo
  try dsimp only
  repeat' first
    | with_reducible assumption | with_reducible apply KeepsR.next | with_reducible apply KeepsR.fault
    | with_reducible apply KeepsR.atPlace | with_reducible apply KeepsO.some | with_reducible apply KeepsO.none
    | with_reducible apply KeepsO.getD | with_reducible apply State.fresh_keeps | with_reducible apply State.send_keeps
    | with_reducible apply State.setDispatch_keeps | with_reducible apply Keeps.foldl | with_reducible apply Keeps.foldlFst
    | with_reducible apply Keeps.foldlSnd | ((with_reducible apply Same.mk) <;> first | exact no ‹_› | exact fun _ => rfl)
    | intro _ | split | assumption | with_reducible apply Keeps.sends | fail_if_no_progress with_reducible apply Keeps.update

theorem execTeamDispatch_keeps {pt : Parts} {a : State} (n : Nat) (st : Stream) (s : State) (h : Keeps pt a s) (x_tiles : pt.tiles
    = false := by assumption) (x_teamCmds : pt.teamCmds = false := by assumption) (x_net : pt.net = false := by assumption)
    (x_trouble : pt.trouble = false := by assumption) (x_ports : pt.ports = false := by assumption) :
        KeepsR pt a (execTeamDispatch n st s) := by
  unfold execTeamDispatch
  try dsimp only
  repeat' first
    | with_reducible assumption | with_reducible apply KeepsR.next | with_reducible apply KeepsR.fault
    | with_reducible apply KeepsR.atPlace | with_reducible apply KeepsO.some | with_reducible apply KeepsO.none
    | with_reducible apply KeepsO.getD | with_reducible apply State.dispatchHalt_keeps
    | with_reducible apply State.dispatchTo_keeps | with_reducible apply Keeps.foldl | with_reducible apply Keeps.foldlFst
    | with_reducible apply Keeps.foldlSnd | ((with_reducible apply Same.mk) <;> first | exact no ‹_› | exact fun _ => rfl)
    | intro _ | split | assumption | with_reducible apply Keeps.sends | fail_if_no_progress with_reducible apply Keeps.update

theorem State.delivered_keeps {pt : Parts} {a : State} (s : State) (n : Nat) (st : Stream) (uid : Nat) (m : Nat) (h : Keeps pt a
    s) (x_tiles : pt.tiles = false := by assumption) :
        Keeps pt a (State.delivered s n st uid m) := by
  unfold State.delivered
  try dsimp only
  repeat' first
    | with_reducible assumption | with_reducible apply KeepsR.next | with_reducible apply KeepsR.fault
    | with_reducible apply KeepsR.atPlace | with_reducible apply KeepsO.some | with_reducible apply KeepsO.none
    | with_reducible apply KeepsO.getD | with_reducible apply State.setDispatch_keeps | with_reducible apply Keeps.foldl
    | with_reducible apply Keeps.foldlFst | with_reducible apply Keeps.foldlSnd
    | ((with_reducible apply Same.mk) <;> first | exact no ‹_› | exact fun _ => rfl) | intro _ | split | assumption
    | with_reducible apply Keeps.sends | fail_if_no_progress with_reducible apply Keeps.update

theorem execTeamDelivery_keeps {pt : Parts} {a : State} (k : Nat) (s : State) (h : Keeps pt a s) (x_tiles : pt.tiles = false := by
    assumption) (x_net : pt.net = false := by assumption) (x_trouble : pt.trouble = false := by assumption) :
        KeepsR pt a (execTeamDelivery k s) := by
  unfold execTeamDelivery
  try dsimp only
  repeat' first
    | with_reducible assumption | with_reducible apply KeepsR.next | with_reducible apply KeepsR.fault
    | with_reducible apply KeepsR.atPlace | with_reducible apply KeepsO.some | with_reducible apply KeepsO.none
    | with_reducible apply KeepsO.getD | with_reducible apply State.fresh_keeps | with_reducible apply State.consume_keeps
    | with_reducible apply State.countDrop_keeps | with_reducible apply State.progressed_keeps
    | with_reducible apply State.enqueue_keeps | with_reducible apply State.delivered_keeps | with_reducible apply Keeps.foldl
    | with_reducible apply Keeps.foldlFst | with_reducible apply Keeps.foldlSnd
    | ((with_reducible apply Same.mk) <;> first | exact no ‹_› | exact fun _ => rfl) | intro _ | split | assumption
    | with_reducible apply Keeps.sends | fail_if_no_progress with_reducible apply Keeps.update

theorem execTeamMemberCompletion_keeps {pt : Parts} {a : State} (k : Nat) (s : State) (h : Keeps pt a s) (x_teamCmds : pt.teamCmds
    = false := by assumption) (x_net : pt.net = false := by assumption) (x_trouble : pt.trouble = false := by assumption) :
        KeepsR pt a (execTeamMemberCompletion k s) := by
  unfold execTeamMemberCompletion
  try dsimp only
  repeat' first
    | with_reducible assumption | with_reducible apply KeepsR.next | with_reducible apply KeepsR.fault
    | with_reducible apply KeepsR.atPlace | with_reducible apply KeepsO.some | with_reducible apply KeepsO.none
    | with_reducible apply KeepsO.getD | with_reducible apply State.cycle_keeps | with_reducible apply State.send_keeps
    | with_reducible apply State.countDrop_keeps | with_reducible apply State.traceSignal_keeps
    | with_reducible apply onPacket_keeps | with_reducible apply Keeps.foldl | with_reducible apply Keeps.foldlFst
    | with_reducible apply Keeps.foldlSnd | ((with_reducible apply Same.mk) <;> first | exact no ‹_› | exact fun _ => rfl)
    | intro _ | split | assumption | with_reducible apply Keeps.sends | fail_if_no_progress with_reducible apply Keeps.update

end Sys2Proof.Machine
end

