-- ==== Sys2Proof/Laws/KeepFabric.lean ====
section
/-!
SUPPORT. What the operations of Machine/Fabric.lean keep (Laws/Keeps.lean).
-/
namespace Sys2Proof.Machine

set_option linter.unusedTactic false
set_option linter.unreachableTactic false
set_option Elab.async false

theorem State.takeMsg_keeps {pt : Parts} {a : State} (s : State) (p : Nat) (pair : Nat) (m : Msg) (h : Keeps pt a s) (x_ports :
    pt.ports = false := by assumption) :
        Keeps pt a (State.takeMsg s p pair m) := by
  unfold State.takeMsg
  try dsimp only
  repeat' first
    | with_reducible assumption | with_reducible apply KeepsR.next | with_reducible apply KeepsR.fault
    | with_reducible apply KeepsR.atPlace | with_reducible apply KeepsO.some | with_reducible apply KeepsO.none
    | with_reducible apply KeepsO.getD | with_reducible apply State.modPort_keeps | with_reducible apply State.freeUnits_keeps
    | with_reducible apply Keeps.foldl | with_reducible apply Keeps.foldlFst | with_reducible apply Keeps.foldlSnd
    | ((with_reducible apply Same.mk) <;> first | exact no ‹_› | exact fun _ => rfl) | intro _ | split | assumption
    | with_reducible apply Keeps.sends | fail_if_no_progress with_reducible apply Keeps.update

theorem onMessage_keeps {pt : Parts} {a : State} (p : Nat) (dl : Nat) (op : Nat) (s : State) (waits : Msg → State → Bool) (f : Msg
    → State → State) (h : Keeps pt a s) (hf : ∀ (y0 : Msg) (y1 : State), Keeps pt a y1 → Keeps pt a (f y0 y1)) (x_ports : pt.ports
    = false := by assumption) :
        KeepsR pt a (onMessage p dl op s waits f) := by
  unfold onMessage
  repeat' first
    | assumption | with_reducible apply hf | with_reducible apply KeepsR.next | with_reducible apply KeepsR.fault
    | with_reducible apply State.takeMsg_keeps | split

theorem State.takeEpoch_keeps {pt : Parts} {a : State} (s : State) (m : Msg) (h : Keeps pt a s) (x_fabric : pt.fabric = false :=
    by assumption) :
        Keeps pt a (State.takeEpoch s m) := by
  unfold State.takeEpoch
  try dsimp only
  repeat' first
    | with_reducible assumption | with_reducible apply KeepsR.next | with_reducible apply KeepsR.fault
    | with_reducible apply KeepsR.atPlace | with_reducible apply KeepsO.some | with_reducible apply KeepsO.none
    | with_reducible apply KeepsO.getD | with_reducible apply Keeps.foldl | with_reducible apply Keeps.foldlFst
    | with_reducible apply Keeps.foldlSnd | ((with_reducible apply Same.mk) <;> first | exact no ‹_› | exact fun _ => rfl)
    | intro _ | split | assumption | with_reducible apply Keeps.sends | fail_if_no_progress with_reducible apply Keeps.update

theorem State.answerMsg_keeps {pt : Parts} {a : State} (s : State) (r : Msg) (h : Keeps pt a s) (x_tiles : pt.tiles = false := by
    assumption) (x_trouble : pt.trouble = false := by assumption) (x_ports : pt.ports = false := by assumption) (x_fabric :
    pt.fabric = false := by assumption) :
        Keeps pt a (State.answerMsg s r) := by
  unfold State.answerMsg
  try dsimp only
  repeat' first
    | with_reducible assumption | with_reducible apply KeepsR.next | with_reducible apply KeepsR.fault
    | with_reducible apply KeepsR.atPlace | with_reducible apply KeepsO.some | with_reducible apply KeepsO.none
    | with_reducible apply KeepsO.getD | with_reducible apply State.route_keeps | with_reducible apply Keeps.foldl
    | with_reducible apply Keeps.foldlFst | with_reducible apply Keeps.foldlSnd
    | ((with_reducible apply Same.mk) <;> first | exact no ‹_› | exact fun _ => rfl) | intro _ | split | assumption
    | with_reducible apply Keeps.sends | fail_if_no_progress with_reducible apply Keeps.update

theorem State.consumeId_keeps {pt : Parts} {a : State} (s : State) (key : Nat) (m : Msg) (r : Msg) (h : Keeps pt a s) (x_fabric :
    pt.fabric = false := by assumption) :
        Keeps pt a (State.consumeId s key m r) := by
  unfold State.consumeId
  try dsimp only
  repeat' first
    | with_reducible assumption | with_reducible apply KeepsR.next | with_reducible apply KeepsR.fault
    | with_reducible apply KeepsR.atPlace | with_reducible apply KeepsO.some | with_reducible apply KeepsO.none
    | with_reducible apply KeepsO.getD | with_reducible apply Keeps.foldl | with_reducible apply Keeps.foldlFst
    | with_reducible apply Keeps.foldlSnd | ((with_reducible apply Same.mk) <;> first | exact no ‹_› | exact fun _ => rfl)
    | intro _ | split | assumption | with_reducible apply Keeps.sends | fail_if_no_progress with_reducible apply Keeps.update

theorem State.replayed_keeps {pt : Parts} {a : State} (s : State) (key : Nat) (m : Msg) (h : Keeps pt a s) (x_tiles : pt.tiles =
    false := by assumption) (x_trouble : pt.trouble = false := by assumption) (x_ports : pt.ports = false := by assumption)
    (x_fabric : pt.fabric = false := by assumption) :
        Keeps pt a (State.replayed s key m) := by
  unfold State.replayed
  try dsimp only
  repeat' first
    | with_reducible assumption | with_reducible apply KeepsR.next | with_reducible apply KeepsR.fault
    | with_reducible apply KeepsR.atPlace | with_reducible apply KeepsO.some | with_reducible apply KeepsO.none
    | with_reducible apply KeepsO.getD | with_reducible apply State.alarm_keeps | with_reducible apply State.answerMsg_keeps
    | with_reducible apply Keeps.foldl | with_reducible apply Keeps.foldlFst | with_reducible apply Keeps.foldlSnd
    | ((with_reducible apply Same.mk) <;> first | exact no ‹_› | exact fun _ => rfl) | intro _ | split | assumption
    | with_reducible apply Keeps.sends | fail_if_no_progress with_reducible apply Keeps.update

theorem State.sequenced_keeps {pt : Parts} {a : State} (s : State) (m : Msg) (cls : Nat) (f : Nat → State → Option Msg × State)
    (h : Keeps pt a s) (hf : ∀ c t, Keeps pt a t → Keeps pt a (f c t).2)
    (x_tiles : pt.tiles = false := by assumption) (x_trouble : pt.trouble = false := by assumption) (x_ports : pt.ports = false :=
    by assumption) (x_fabric : pt.fabric = false := by assumption) : Keeps pt a (s.sequenced m cls f) := by
  have h1 := State.takeEpoch_keeps s m h
  unfold State.sequenced
  try dsimp only
  split
  · split
    · exact State.answerMsg_keeps _ _ (State.consumeId_keeps _ _ _ _ h1)
    · split
      · exact State.answerMsg_keeps _ _ (State.consumeId_keeps _ _ _ _ h1)
      · next c _ =>
        have h2 := hf c _ h1
        split
        · next r s2 e => rw [e] at h2; exact State.answerMsg_keeps _ _ (State.consumeId_keeps _ _ _ _ h2)
        · next s2 e => rw [e] at h2; exact h2
  · split
    · exact State.answerMsg_keeps _ _ h1
    · exact State.replayed_keeps _ _ _ h1

theorem State.fabricUe_keeps {pt : Parts} {a : State} (s : State) (b : Nat) (h : Keeps pt a s) (x_tiles : pt.tiles = false := by
    assumption) (x_ctxs : pt.ctxs = false := by assumption) (x_trouble : pt.trouble = false := by assumption) (x_ports : pt.ports
    = false := by assumption) :
        Keeps pt a (State.fabricUe s b) := by
  unfold State.fabricUe
  try dsimp only
  repeat' first
    | with_reducible assumption | with_reducible apply KeepsR.next | with_reducible apply KeepsR.fault
    | with_reducible apply KeepsR.atPlace | with_reducible apply KeepsO.some | with_reducible apply KeepsO.none
    | with_reducible apply KeepsO.getD | with_reducible apply State.ueError_keeps | with_reducible apply Keeps.foldl
    | with_reducible apply Keeps.foldlFst | with_reducible apply Keeps.foldlSnd
    | ((with_reducible apply Same.mk) <;> first | exact no ‹_› | exact fun _ => rfl) | intro _ | split | assumption
    | with_reducible apply Keeps.sends | fail_if_no_progress with_reducible apply Keeps.update

theorem execRd_keeps {pt : Parts} {a : State} (p : Nat) (dl : Nat) (ecc : Ecc) (s : State) (h : Keeps pt a s) (x_tiles : pt.tiles
    = false := by assumption) (x_ctxs : pt.ctxs = false := by assumption) (x_bad : pt.bad = false := by assumption) (x_trouble :
    pt.trouble = false := by assumption) (x_ports : pt.ports = false := by assumption) (x_fabric : pt.fabric = false := by
    assumption) :
        KeepsR pt a (execRd p dl ecc s) := by
  unfold execRd
  try dsimp only
  repeat' first
    | with_reducible assumption | with_reducible apply KeepsR.next | with_reducible apply KeepsR.fault
    | with_reducible apply KeepsR.atPlace | with_reducible apply KeepsO.some | with_reducible apply KeepsO.none
    | with_reducible apply KeepsO.getD | with_reducible apply State.eccCheck_keeps | with_reducible apply State.hotLine_keeps
    | with_reducible apply onMessage_keeps | with_reducible apply State.takeEpoch_keeps
    | with_reducible apply State.answerMsg_keeps | with_reducible apply State.fabricUe_keeps | with_reducible apply Keeps.foldl
    | with_reducible apply Keeps.foldlFst | with_reducible apply Keeps.foldlSnd
    | ((with_reducible apply Same.mk) <;> first | exact no ‹_› | exact fun _ => rfl) | intro _ | split | assumption
    | with_reducible apply Keeps.sends | fail_if_no_progress with_reducible apply Keeps.update

theorem execWr_keeps {pt : Parts} {a : State} (p : Nat) (dl : Nat) (s : State) (h : Keeps pt a s) (x_tiles : pt.tiles = false :=
    by assumption) (x_ctxs : pt.ctxs = false := by assumption) (x_mem : pt.mem = false := by assumption) (x_bad : pt.bad = false
    := by assumption) (x_snaps : pt.snaps = false := by assumption) (x_trouble : pt.trouble = false := by assumption) (x_ports :
    pt.ports = false := by assumption) (x_fabric : pt.fabric = false := by assumption) :
        KeepsR pt a (execWr p dl s) := by
  unfold execWr
  try dsimp only
  repeat' first
    | with_reducible assumption | with_reducible apply KeepsR.next | with_reducible apply KeepsR.fault
    | with_reducible apply KeepsR.atPlace | with_reducible apply KeepsO.some | with_reducible apply KeepsO.none
    | with_reducible apply KeepsO.getD | with_reducible apply State.writeHome_keeps
    | with_reducible apply State.countForeign_keeps | with_reducible apply State.hotLine_keeps
    | with_reducible apply onMessage_keeps | with_reducible apply State.sequenced_keeps
    | with_reducible apply State.fabricUe_keeps | with_reducible apply Keeps.foldl | with_reducible apply Keeps.foldlFst
    | with_reducible apply Keeps.foldlSnd | ((with_reducible apply Same.mk) <;> first | exact no ‹_› | exact fun _ => rfl)
    | intro _ | split | assumption | with_reducible apply Keeps.sends | fail_if_no_progress with_reducible apply Keeps.update

theorem State.fabricAtom_keeps {pt : Parts} {a : State} (s : State) (m : Msg) (ecc : Ecc) (returning : Bool) (h : Keeps pt a s)
    (x_tiles : pt.tiles = false := by assumption) (x_ctxs : pt.ctxs = false := by assumption) (x_mem : pt.mem = false := by
    assumption) (x_bad : pt.bad = false := by assumption) (x_snaps : pt.snaps = false := by assumption) (x_trouble : pt.trouble =
    false := by assumption) (x_ports : pt.ports = false := by assumption) (x_fabric : pt.fabric = false := by assumption) :
        Keeps pt a (State.fabricAtom s m ecc returning) := by
  unfold State.fabricAtom
  try dsimp only
  repeat' first
    | with_reducible assumption | with_reducible apply KeepsR.next | with_reducible apply KeepsR.fault
    | with_reducible apply KeepsR.atPlace | with_reducible apply KeepsO.some | with_reducible apply KeepsO.none
    | with_reducible apply KeepsO.getD | with_reducible apply State.eccCheck_keeps | with_reducible apply State.reply_keeps
    | with_reducible apply State.countForeign_keeps | with_reducible apply State.hotLine_keeps
    | with_reducible apply State.atomApply_keeps | with_reducible apply State.sequenced_keeps
    | with_reducible apply State.fabricUe_keeps | with_reducible apply Keeps.foldl | with_reducible apply Keeps.foldlFst
    | with_reducible apply Keeps.foldlSnd | ((with_reducible apply Same.mk) <;> first | exact no ‹_› | exact fun _ => rfl)
    | intro _ | split | assumption | with_reducible apply Keeps.sends | fail_if_no_progress with_reducible apply Keeps.update

theorem execAtom_keeps {pt : Parts} {a : State} (p : Nat) (dl : Nat) (ecc : Ecc) (s : State) (h : Keeps pt a s) (x_tiles :
    pt.tiles = false := by assumption) (x_ctxs : pt.ctxs = false := by assumption) (x_mem : pt.mem = false := by assumption)
    (x_bad : pt.bad = false := by assumption) (x_snaps : pt.snaps = false := by assumption) (x_trouble : pt.trouble = false := by
    assumption) (x_ports : pt.ports = false := by assumption) (x_fabric : pt.fabric = false := by assumption) :
        KeepsR pt a (execAtom p dl ecc s) := by
  unfold execAtom
  try dsimp only
  repeat' first
    | with_reducible assumption | with_reducible apply KeepsR.next | with_reducible apply KeepsR.fault
    | with_reducible apply KeepsR.atPlace | with_reducible apply KeepsO.some | with_reducible apply KeepsO.none
    | with_reducible apply KeepsO.getD | with_reducible apply onMessage_keeps | with_reducible apply State.fabricAtom_keeps
    | with_reducible apply Keeps.foldl | with_reducible apply Keeps.foldlFst | with_reducible apply Keeps.foldlSnd
    | ((with_reducible apply Same.mk) <;> first | exact no ‹_› | exact fun _ => rfl) | intro _ | split | assumption
    | with_reducible apply Keeps.sends | fail_if_no_progress with_reducible apply Keeps.update

theorem execAtomn_keeps {pt : Parts} {a : State} (p : Nat) (dl : Nat) (ecc : Ecc) (s : State) (h : Keeps pt a s) (x_tiles :
    pt.tiles = false := by assumption) (x_ctxs : pt.ctxs = false := by assumption) (x_mem : pt.mem = false := by assumption)
    (x_bad : pt.bad = false := by assumption) (x_snaps : pt.snaps = false := by assumption) (x_trouble : pt.trouble = false := by
    assumption) (x_ports : pt.ports = false := by assumption) (x_fabric : pt.fabric = false := by assumption) :
        KeepsR pt a (execAtomn p dl ecc s) := by
  unfold execAtomn
  try dsimp only
  repeat' first
    | with_reducible assumption | with_reducible apply KeepsR.next | with_reducible apply KeepsR.fault
    | with_reducible apply KeepsR.atPlace | with_reducible apply KeepsO.some | with_reducible apply KeepsO.none
    | with_reducible apply KeepsO.getD | with_reducible apply onMessage_keeps | with_reducible apply State.fabricAtom_keeps
    | with_reducible apply Keeps.foldl | with_reducible apply Keeps.foldlFst | with_reducible apply Keeps.foldlSnd
    | ((with_reducible apply Same.mk) <;> first | exact no ‹_› | exact fun _ => rfl) | intro _ | split | assumption
    | with_reducible apply Keeps.sends | fail_if_no_progress with_reducible apply Keeps.update

theorem State.rdcApply_keeps {pt : Parts} {a : State} (s : State) (m : Msg) (c first : Nat) (vals : List Word) (ecc : Ecc) (h : Keeps pt a s)
    (x_tiles : pt.tiles = false := by assumption) (x_ctxs : pt.ctxs = false := by assumption) (x_mem : pt.mem = false := by
    assumption) (x_bad : pt.bad = false := by assumption) (x_reds : pt.reds = false := by assumption) (x_snaps : pt.snaps = false
    := by assumption) (x_trouble : pt.trouble = false := by assumption) (x_ports : pt.ports = false := by assumption) : Keeps pt a (s.rdcApply m c first vals ecc).2 := by
  unfold State.rdcApply
  dsimp only
  split
  · exact h
  · split
    · split
      · exact h
      · split
        · next e => exact State.ueError_keeps _ _ _ _ _ (State.redReads_out _ _ _ _ _ _ _ h e)
        · next e => exact State.contribute_keeps _ _ _ _ _ _ _ _ (State.redReads_out _ _ _ _ _ _ _ h e)
    · exact h
    · exact h

theorem execRdc_keeps {pt : Parts} {a : State} (p : Nat) (dl : Nat) (ecc : Ecc) (s : State) (h : Keeps pt a s) (x_tiles : pt.tiles
    = false := by assumption) (x_ctxs : pt.ctxs = false := by assumption) (x_mem : pt.mem = false := by assumption) (x_bad :
    pt.bad = false := by assumption) (x_reds : pt.reds = false := by assumption) (x_snaps : pt.snaps = false := by assumption)
    (x_trouble : pt.trouble = false := by assumption) (x_ports : pt.ports = false := by assumption) (x_fabric : pt.fabric = false
    := by assumption) :
        KeepsR pt a (execRdc p dl ecc s) := by
  unfold execRdc
  refine onMessage_keeps _ _ _ _ _ _ h fun m t ht => ?_
  refine State.sequenced_keeps _ _ _ _ ht fun c u hu => ?_
  have hg : ∀ g, Keeps pt a { u with fabric := { u.fabric with gathers := g } } := fun g => hu.calm rfl rfl rfl rfl rfl
  dsimp only
  split
  · exact hg _
  · exact State.rdcApply_keeps _ _ _ _ _ _ (hg _)

theorem execSig_keeps {pt : Parts} {a : State} (p : Nat) (dl : Nat) (s : State) (h : Keeps pt a s) (x_tiles : pt.tiles = false :=
    by assumption) (x_ctxs : pt.ctxs = false := by assumption) (x_net : pt.net = false := by assumption) (x_gtallies : pt.gtallies
    = false := by assumption) (x_trouble : pt.trouble = false := by assumption) (x_ports : pt.ports = false := by assumption)
    (x_fabric : pt.fabric = false := by assumption) :
        KeepsR pt a (execSig p dl s) := by
  unfold execSig
  try dsimp only
  repeat' first
    | with_reducible assumption | with_reducible apply KeepsR.next | with_reducible apply KeepsR.fault
    | with_reducible apply KeepsR.atPlace | with_reducible apply KeepsO.some | with_reducible apply KeepsO.none
    | with_reducible apply KeepsO.getD | with_reducible apply State.cycle_keeps | with_reducible apply State.signalAt_keeps
    | with_reducible apply onMessage_keeps | with_reducible apply State.sequenced_keeps | with_reducible apply Keeps.foldl
    | with_reducible apply Keeps.foldlFst | with_reducible apply Keeps.foldlSnd
    | ((with_reducible apply Same.mk) <;> first | exact no ‹_› | exact fun _ => rfl) | intro _ | split | assumption
    | with_reducible apply Keeps.sends | fail_if_no_progress with_reducible apply Keeps.update

theorem execEpoch_keeps {pt : Parts} {a : State} (p : Nat) (dl : Nat) (s : State) (h : Keeps pt a s) (x_tiles : pt.tiles = false
    := by assumption) (x_trouble : pt.trouble = false := by assumption) (x_ports : pt.ports = false := by assumption) (x_fabric :
    pt.fabric = false := by assumption) :
        KeepsR pt a (execEpoch p dl s) := by
  unfold execEpoch
  try dsimp only
  repeat' first
    | with_reducible assumption | with_reducible apply KeepsR.next | with_reducible apply KeepsR.fault
    | with_reducible apply KeepsR.atPlace | with_reducible apply KeepsO.some | with_reducible apply KeepsO.none
    | with_reducible apply KeepsO.getD | with_reducible apply onMessage_keeps | with_reducible apply State.takeEpoch_keeps
    | with_reducible apply State.answerMsg_keeps | with_reducible apply Keeps.foldl | with_reducible apply Keeps.foldlFst
    | with_reducible apply Keeps.foldlSnd | ((with_reducible apply Same.mk) <;> first | exact no ‹_› | exact fun _ => rfl)
    | intro _ | split | assumption | with_reducible apply Keeps.sends | fail_if_no_progress with_reducible apply Keeps.update

theorem onReply_keeps {pt : Parts} {a : State} (p : Nat) (dl : Nat) (op : Nat) (s : State) (f : Request → Msg → State → State) (h
    : Keeps pt a s) (hf : ∀ (y0 : Request) (y1 : Msg) (y2 : State), Keeps pt a y2 → Keeps pt a (f y0 y1 y2)) (x_tiles : pt.tiles =
    false := by assumption) (x_trouble : pt.trouble = false := by assumption) (x_ports : pt.ports = false := by assumption)
    (x_fabric : pt.fabric = false := by assumption) :
        KeepsR pt a (onReply p dl op s f) := by
  unfold onReply
  refine onMessage_keeps _ _ _ _ _ _ h fun m t ht => ?_
  try dsimp only
  split
  · exact ht
  · refine State.sendWaiting_keeps _ ?_
    split
    · exact State.countDrop_keeps _ (State.dropRequest_keeps _ _ ht)
    · exact hf _ _ _ (State.dropRequest_keeps _ _ ht)

theorem execRdr_keeps {pt : Parts} {a : State} (p : Nat) (dl : Nat) (s : State) (h : Keeps pt a s) (x_tiles : pt.tiles = false :=
    by assumption) (x_ctxs : pt.ctxs = false := by assumption) (x_mem : pt.mem = false := by assumption) (x_bad : pt.bad = false
    := by assumption) (x_net : pt.net = false := by assumption) (x_snaps : pt.snaps = false := by assumption) (x_trouble :
    pt.trouble = false := by assumption) (x_ports : pt.ports = false := by assumption) (x_fabric : pt.fabric = false := by
    assumption) :
        KeepsR pt a (execRdr p dl s) := by
  unfold execRdr
  try dsimp only
  repeat' first
    | with_reducible assumption | with_reducible apply KeepsR.next | with_reducible apply KeepsR.fault
    | with_reducible apply KeepsR.atPlace | with_reducible apply KeepsO.some | with_reducible apply KeepsO.none
    | with_reducible apply KeepsO.getD | with_reducible apply State.dataFor_keeps | with_reducible apply onReply_keeps
    | with_reducible apply Keeps.foldl | with_reducible apply Keeps.foldlFst | with_reducible apply Keeps.foldlSnd
    | ((with_reducible apply Same.mk) <;> first | exact no ‹_› | exact fun _ => rfl) | intro _ | split | assumption
    | with_reducible apply Keeps.sends | fail_if_no_progress with_reducible apply Keeps.update

theorem execAck_keeps {pt : Parts} {a : State} (p : Nat) (dl : Nat) (s : State) (h : Keeps pt a s) (x_tiles : pt.tiles = false :=
    by assumption) (x_ctxs : pt.ctxs = false := by assumption) (x_mem : pt.mem = false := by assumption) (x_bad : pt.bad = false
    := by assumption) (x_net : pt.net = false := by assumption) (x_snaps : pt.snaps = false := by assumption) (x_trouble :
    pt.trouble = false := by assumption) (x_ports : pt.ports = false := by assumption) (x_fabric : pt.fabric = false := by
    assumption) :
        KeepsR pt a (execAck p dl s) := by
  unfold execAck
  try dsimp only
  repeat' first
    | with_reducible assumption | with_reducible apply KeepsR.next | with_reducible apply KeepsR.fault
    | with_reducible apply KeepsR.atPlace | with_reducible apply KeepsO.some | with_reducible apply KeepsO.none
    | with_reducible apply KeepsO.getD | with_reducible apply State.modCtx_keeps | with_reducible apply State.ackFor_keeps
    | with_reducible apply onReply_keeps | with_reducible apply Keeps.foldl | with_reducible apply Keeps.foldlFst
    | with_reducible apply Keeps.foldlSnd | ((with_reducible apply Same.mk) <;> first | exact no ‹_› | exact fun _ => rfl)
    | intro _ | split | assumption | with_reducible apply Keeps.sends | fail_if_no_progress with_reducible apply Keeps.update

theorem execAtr_keeps {pt : Parts} {a : State} (p : Nat) (dl : Nat) (s : State) (h : Keeps pt a s) (x_tiles : pt.tiles = false :=
    by assumption) (x_ctxs : pt.ctxs = false := by assumption) (x_mem : pt.mem = false := by assumption) (x_bad : pt.bad = false
    := by assumption) (x_net : pt.net = false := by assumption) (x_snaps : pt.snaps = false := by assumption) (x_trouble :
    pt.trouble = false := by assumption) (x_ports : pt.ports = false := by assumption) (x_fabric : pt.fabric = false := by
    assumption) :
        KeepsR pt a (execAtr p dl s) := by
  unfold execAtr
  try dsimp only
  repeat' first
    | with_reducible assumption | with_reducible apply KeepsR.next | with_reducible apply KeepsR.fault
    | with_reducible apply KeepsR.atPlace | with_reducible apply KeepsO.some | with_reducible apply KeepsO.none
    | with_reducible apply KeepsO.getD | with_reducible apply State.acked_keeps | with_reducible apply State.answerFor_keeps
    | with_reducible apply onReply_keeps | with_reducible apply Keeps.foldl | with_reducible apply Keeps.foldlFst
    | with_reducible apply Keeps.foldlSnd | ((with_reducible apply Same.mk) <;> first | exact no ‹_› | exact fun _ => rfl)
    | intro _ | split | assumption | with_reducible apply Keeps.sends | fail_if_no_progress with_reducible apply Keeps.update

theorem State.resendFrom_keeps {pt : Parts} {a : State} (s : State) (key : Nat) (id : Nat) (h : Keeps pt a s) (x_tiles : pt.tiles
    = false := by assumption) (x_trouble : pt.trouble = false := by assumption) (x_ports : pt.ports = false := by assumption)
    (x_fabric : pt.fabric = false := by assumption) :
        Keeps pt a (State.resendFrom s key id) := by
  unfold State.resendFrom
  try dsimp only
  repeat' first
    | with_reducible assumption | with_reducible apply KeepsR.next | with_reducible apply KeepsR.fault
    | with_reducible apply KeepsR.atPlace | with_reducible apply KeepsO.some | with_reducible apply KeepsO.none
    | with_reducible apply KeepsO.getD | with_reducible apply State.write_keeps | with_reducible apply State.route_keeps
    | with_reducible apply Keeps.foldl | with_reducible apply Keeps.foldlFst | with_reducible apply Keeps.foldlSnd
    | ((with_reducible apply Same.mk) <;> first | exact no ‹_› | exact fun _ => rfl) | intro _ | split | assumption
    | with_reducible apply Keeps.sends | fail_if_no_progress with_reducible apply Keeps.update

theorem execNak_keeps {pt : Parts} {a : State} (p : Nat) (dl : Nat) (s : State) (h : Keeps pt a s) (x_tiles : pt.tiles = false :=
    by assumption) (x_ctxs : pt.ctxs = false := by assumption) (x_mem : pt.mem = false := by assumption) (x_bad : pt.bad = false
    := by assumption) (x_net : pt.net = false := by assumption) (x_snaps : pt.snaps = false := by assumption) (x_trouble :
    pt.trouble = false := by assumption) (x_ports : pt.ports = false := by assumption) (x_fabric : pt.fabric = false := by
    assumption) :
        KeepsR pt a (execNak p dl s) := by
  unfold execNak
  try dsimp only
  repeat' first
    | with_reducible assumption | with_reducible apply KeepsR.next | with_reducible apply KeepsR.fault
    | with_reducible apply KeepsR.atPlace | with_reducible apply KeepsO.some | with_reducible apply KeepsO.none
    | with_reducible apply KeepsO.getD | with_reducible apply State.countDrop_keeps
    | with_reducible apply State.refuseRequest_keeps | with_reducible apply State.dropRequest_keeps
    | with_reducible apply State.sendWaiting_keeps | with_reducible apply State.acked_keeps
    | with_reducible apply onMessage_keeps | with_reducible apply State.resendFrom_keeps | with_reducible apply Keeps.foldl
    | with_reducible apply Keeps.foldlFst | with_reducible apply Keeps.foldlSnd
    | ((with_reducible apply Same.mk) <;> first | exact no ‹_› | exact fun _ => rfl) | intro _ | split | assumption
    | with_reducible apply Keeps.sends | fail_if_no_progress with_reducible apply Keeps.update

theorem execE2eTimeout_keeps {pt : Parts} {a : State} (k : Nat) (s : State) (h : Keeps pt a s) (x_tiles : pt.tiles = false := by
    assumption) (x_ctxs : pt.ctxs = false := by assumption) (x_mem : pt.mem = false := by assumption) (x_bad : pt.bad = false :=
    by assumption) (x_net : pt.net = false := by assumption) (x_snaps : pt.snaps = false := by assumption) (x_trouble : pt.trouble
    = false := by assumption) (x_ports : pt.ports = false := by assumption) (x_fabric : pt.fabric = false := by assumption) :
        KeepsR pt a (execE2eTimeout k s) := by
  unfold execE2eTimeout
  try dsimp only
  repeat' first
    | with_reducible assumption | with_reducible apply KeepsR.next | with_reducible apply KeepsR.fault
    | with_reducible apply KeepsR.atPlace | with_reducible apply KeepsO.some | with_reducible apply KeepsO.none
    | with_reducible apply KeepsO.getD | with_reducible apply State.refuseRequest_keeps
    | with_reducible apply State.dropRequest_keeps | with_reducible apply State.route_keeps
    | with_reducible apply State.sendWaiting_keeps | with_reducible apply State.acked_keeps | with_reducible apply Keeps.foldl
    | with_reducible apply Keeps.foldlFst | with_reducible apply Keeps.foldlSnd
    | ((with_reducible apply Same.mk) <;> first | exact no ‹_› | exact fun _ => rfl) | intro _ | split | assumption
    | with_reducible apply Keeps.sends | fail_if_no_progress with_reducible apply Keeps.update

theorem execTrace_keeps {pt : Parts} {a : State} (p : Nat) (dl : Nat) (s : State) (h : Keeps pt a s) (x_trouble : pt.trouble =
    false := by assumption) (x_ports : pt.ports = false := by assumption) :
        KeepsR pt a (execTrace p dl s) := by
  unfold execTrace
  try dsimp only
  repeat' first
    | with_reducible assumption | with_reducible apply KeepsR.next | with_reducible apply KeepsR.fault
    | with_reducible apply KeepsR.atPlace | with_reducible apply KeepsO.some | with_reducible apply KeepsO.none
    | with_reducible apply KeepsO.getD | with_reducible apply onMessage_keeps | with_reducible apply Keeps.foldl
    | with_reducible apply Keeps.foldlFst | with_reducible apply Keeps.foldlSnd
    | ((with_reducible apply Same.mk) <;> first | exact no ‹_› | exact fun _ => rfl) | intro _ | split | assumption
    | with_reducible apply Keeps.sends | fail_if_no_progress with_reducible apply Keeps.update

end Sys2Proof.Machine
end

