-- ==== Sys2Proof/Laws/KeepLockstep.lean ====
section
/-!
SUPPORT. What the operations of Machine/Lockstep.lean keep (Laws/Keeps.lean).
-/
namespace Sys2Proof.Machine

set_option linter.unusedTactic false
set_option linter.unreachableTactic false
set_option Elab.async false

theorem onFrame_keeps {pt : Parts} {a : State} (p : Nat) (ftype : Nat) (s : State) (f : Nat → Msg → State → State) (h : Keeps pt a
    s) (hf : ∀ (y0 : Nat) (y1 : Msg) (y2 : State), Keeps pt a y2 → Keeps pt a (f y0 y1 y2)) (x_ports : pt.ports = false := by
    assumption) :
        KeepsR pt a (onFrame p ftype s f) := by
  unfold onFrame
  refine onMessage_keeps _ _ _ _ _ _ h fun m t ht => ?_
  try dsimp only
  split
  · exact hf _ _ _ ht
  · exact ht

theorem execLockstepWindowRecord_keeps {pt : Parts} {a : State} (p : Nat) (s : State) (h : Keeps pt a s) (x_tiles : pt.tiles =
    false := by assumption) (x_ports : pt.ports = false := by assumption) :
        KeepsR pt a (execLockstepWindowRecord p s) := by
  unfold execLockstepWindowRecord
  try dsimp only
  repeat' first
    | with_reducible assumption | with_reducible apply KeepsR.next | with_reducible apply KeepsR.fault
    | with_reducible apply KeepsR.atPlace | with_reducible apply KeepsO.some | with_reducible apply KeepsO.none
    | with_reducible apply KeepsO.getD | with_reducible apply State.setLockSeq_keeps
    | with_reducible apply State.lockCompare_keeps | with_reducible apply onFrame_keeps | with_reducible apply Keeps.foldl
    | with_reducible apply Keeps.foldlFst | with_reducible apply Keeps.foldlSnd
    | ((with_reducible apply Same.mk) <;> first | exact no ‹_› | exact fun _ => rfl) | intro _ | split | assumption
    | with_reducible apply Keeps.sends | fail_if_no_progress with_reducible apply Keeps.update

theorem execLockstepDigestList_keeps {pt : Parts} {a : State} (p : Nat) (s : State) (h : Keeps pt a s) (x_tiles : pt.tiles = false
    := by assumption) (x_trouble : pt.trouble = false := by assumption) (x_ports : pt.ports = false := by assumption) :
        KeepsR pt a (execLockstepDigestList p s) := by
  unfold execLockstepDigestList
  try dsimp only
  repeat' first
    | with_reducible assumption | with_reducible apply KeepsR.next | with_reducible apply KeepsR.fault
    | with_reducible apply KeepsR.atPlace | with_reducible apply KeepsO.some | with_reducible apply KeepsO.none
    | with_reducible apply KeepsO.getD | with_reducible apply State.lockStop_keeps | with_reducible apply State.halt_keeps
    | with_reducible apply State.setLockSeq_keeps | with_reducible apply State.lockHalt_keeps
    | with_reducible apply onFrame_keeps | with_reducible apply Keeps.foldl | with_reducible apply Keeps.foldlFst
    | with_reducible apply Keeps.foldlSnd | ((with_reducible apply Same.mk) <;> first | exact no ‹_› | exact fun _ => rfl)
    | intro _ | split | assumption | with_reducible apply Keeps.sends | fail_if_no_progress with_reducible apply Keeps.update

theorem execLockstepStop_keeps {pt : Parts} {a : State} (p : Nat) (s : State) (h : Keeps pt a s) (x_tiles : pt.tiles = false := by
    assumption) (x_trouble : pt.trouble = false := by assumption) (x_ports : pt.ports = false := by assumption) :
        KeepsR pt a (execLockstepStop p s) := by
  unfold execLockstepStop
  try dsimp only
  repeat' first
    | with_reducible assumption | with_reducible apply KeepsR.next | with_reducible apply KeepsR.fault
    | with_reducible apply KeepsR.atPlace | with_reducible apply KeepsO.some | with_reducible apply KeepsO.none
    | with_reducible apply KeepsO.getD | with_reducible apply State.lockHalt_keeps | with_reducible apply onFrame_keeps
    | with_reducible apply Keeps.foldl | with_reducible apply Keeps.foldlFst | with_reducible apply Keeps.foldlSnd
    | ((with_reducible apply Same.mk) <;> first | exact no ‹_› | exact fun _ => rfl) | intro _ | split | assumption
    | with_reducible apply Keeps.sends | fail_if_no_progress with_reducible apply Keeps.update

theorem execMgmt_keeps {pt : Parts} {a : State} (p : Nat) (dl : Nat) (s : State) (h : Keeps pt a s) (x_ports : pt.ports = false :=
    by assumption) :
        KeepsR pt a (execMgmt p dl s) := by
  unfold execMgmt
  try dsimp only
  repeat' first
    | with_reducible assumption | with_reducible apply KeepsR.next | with_reducible apply KeepsR.fault
    | with_reducible apply KeepsR.atPlace | with_reducible apply KeepsO.some | with_reducible apply KeepsO.none
    | with_reducible apply KeepsO.getD | with_reducible apply State.protocolError_keeps | with_reducible apply onMessage_keeps
    | with_reducible apply Keeps.foldl | with_reducible apply Keeps.foldlFst | with_reducible apply Keeps.foldlSnd
    | ((with_reducible apply Same.mk) <;> first | exact no ‹_› | exact fun _ => rfl) | intro _ | split | assumption
    | with_reducible apply Keeps.sends | fail_if_no_progress with_reducible apply Keeps.update

end Sys2Proof.Machine
end

