-- ==== Sys2Proof/Laws/KeepFaults.lean ====
section
/-!
SUPPORT. What the operations of Machine/Faults.lean keep (Laws/Keeps.lean).
-/
namespace Sys2Proof.Machine

set_option linter.unusedTactic false
set_option linter.unreachableTactic false
set_option Elab.async false

theorem State.tileFault_keeps {pt : Parts} {a : State} (s : State) (n : Nat) (cause : Nat) (h : Keeps pt a s) (x_tiles : pt.tiles
    = false := by assumption) (x_ctxs : pt.ctxs = false := by assumption) (x_teams : pt.teams = false := by assumption) (x_trouble
    : pt.trouble = false := by assumption) (x_ports : pt.ports = false := by assumption) :
        Keeps pt a (State.tileFault s n cause) := by
  unfold State.tileFault
  have h1 : Keeps pt a (if s.owned n then
      allStreams.foldl (fun s st => s.halt n st { reason := 0x51, detail := pack [(1, 0), (5, cause), (24, 0)] }) s else s) := by
    split
    · exact Keeps.foldl h _ fun t st ht => State.halt_keeps _ _ _ _ ht
    · exact h
  generalize (if s.owned n then
      allStreams.foldl (fun s st => s.halt n st { reason := 0x51, detail := pack [(1, 0), (5, cause), (24, 0)] }) s else s) = t at h1
  refine State.alarm_keeps _ _ _ _ _ (State.modTile_keeps _ _ _ (State.modCtx_keeps _ _ _ ?_))
  exact Keeps.update h1 _ _ _ _ _ _ _ _ _ _ _ _ _ _ _ _ _ _ _ _ _ _ _ _ _ _ _ _ _
    (by constructor <;> first | exact no ‹_› | exact fun _ => rfl)

theorem execTileHardwareFault_keeps {pt : Parts} {a : State} (n : Nat) (cause : Nat) (s : State) (h : Keeps pt a s) (x_tiles :
    pt.tiles = false := by assumption) (x_ctxs : pt.ctxs = false := by assumption) (x_teams : pt.teams = false := by assumption)
    (x_trouble : pt.trouble = false := by assumption) (x_ports : pt.ports = false := by assumption) :
        KeepsR pt a (execTileHardwareFault n cause s) := by
  unfold execTileHardwareFault
  try dsimp only
  repeat' first
    | with_reducible assumption | with_reducible apply KeepsR.next | with_reducible apply KeepsR.fault
    | with_reducible apply KeepsR.atPlace | with_reducible apply KeepsO.some | with_reducible apply KeepsO.none
    | with_reducible apply KeepsO.getD | with_reducible apply State.tileFault_keeps | with_reducible apply Keeps.foldl
    | with_reducible apply Keeps.foldlFst | with_reducible apply Keeps.foldlSnd
    | ((with_reducible apply Same.mk) <;> first | exact no ‹_› | exact fun _ => rfl) | intro _ | split | assumption
    | with_reducible apply Keeps.sends | fail_if_no_progress with_reducible apply Keeps.update

theorem State.stopWith_keeps {pt : Parts} {a : State} (s : State) (c : Nat) (reason : Nat) (detail : Nat) (seq : Nat) (h : Keeps
    pt a s) (x_tiles : pt.tiles = false := by assumption) (x_ctxs : pt.ctxs = false := by assumption) (x_trouble : pt.trouble =
    false := by assumption) (x_ports : pt.ports = false := by assumption) :
        Keeps pt a (State.stopWith s c reason detail seq) := by
  unfold State.stopWith
  try dsimp only
  repeat' first
    | with_reducible assumption | with_reducible apply KeepsR.next | with_reducible apply KeepsR.fault
    | with_reducible apply KeepsR.atPlace | with_reducible apply KeepsO.some | with_reducible apply KeepsO.none
    | with_reducible apply KeepsO.getD | with_reducible apply State.haltAll_keeps | with_reducible apply State.stopContext_keeps
    | with_reducible apply Keeps.foldl | with_reducible apply Keeps.foldlFst | with_reducible apply Keeps.foldlSnd
    | ((with_reducible apply Same.mk) <;> first | exact no ‹_› | exact fun _ => rfl) | intro _ | split | assumption
    | with_reducible apply Keeps.sends | fail_if_no_progress with_reducible apply Keeps.update

theorem State.deviceFault_keeps {pt : Parts} {a : State} (s : State) (die : Nat) (seam : Nat) (cause : Nat) (h : Keeps pt a s)
    (x_tiles : pt.tiles = false := by assumption) (x_ctxs : pt.ctxs = false := by assumption) (x_trouble : pt.trouble = false :=
    by assumption) (x_ports : pt.ports = false := by assumption) (x_fabric : pt.fabric = false := by assumption) :
        Keeps pt a (State.deviceFault s die seam cause) := by
  unfold State.deviceFault
  have h1 : ∀ (l : List Nat) (r q : Nat) (t : State), Keeps pt a t → Keeps pt a (l.foldl (fun s c => s.stopWith c 0x51 r q) t) :=
    fun l r q t ht => Keeps.foldl ht _ fun t c ht => State.stopWith_keeps _ _ _ _ _ ht
  have h2 : ∀ (r : BitVec 128), Keeps pt a { s with trouble := { s.trouble with deviceFault := r, faulted := true } } :=
    fun r => h.calm rfl rfl rfl rfl rfl
  split
  · exact Keeps.foldl (h1 _ _ _ _ (State.alarm_keeps _ _ _ _ _ (h2 _))) _ fun t i ht => State.portDown_keeps _ _ ht
  · exact h1 _ _ _ _ (State.alarm_keeps _ _ _ _ _ (h2 _))

theorem execDieCheckerFire_keeps {pt : Parts} {a : State} (die : Nat) (s : State) (h : Keeps pt a s) (x_tiles : pt.tiles = false
    := by assumption) (x_ctxs : pt.ctxs = false := by assumption) (x_trouble : pt.trouble = false := by assumption) (x_ports :
    pt.ports = false := by assumption) (x_fabric : pt.fabric = false := by assumption) :
        KeepsR pt a (execDieCheckerFire die s) := by
  unfold execDieCheckerFire
  try dsimp only
  repeat' first
    | with_reducible assumption | with_reducible apply KeepsR.next | with_reducible apply KeepsR.fault
    | with_reducible apply KeepsR.atPlace | with_reducible apply KeepsO.some | with_reducible apply KeepsO.none
    | with_reducible apply KeepsO.getD | with_reducible apply State.deviceFault_keeps | with_reducible apply Keeps.foldl
    | with_reducible apply Keeps.foldlFst | with_reducible apply Keeps.foldlSnd
    | ((with_reducible apply Same.mk) <;> first | exact no ‹_› | exact fun _ => rfl) | intro _ | split | assumption
    | with_reducible apply Keeps.sends | fail_if_no_progress with_reducible apply Keeps.update

theorem State.setRepeats_keeps {pt : Parts} {a : State} (s : State) (seam : Nat) (dir : Nat) (n : Nat) (h : Keeps pt a s)
    (x_trouble : pt.trouble = false := by assumption) :
        Keeps pt a (State.setRepeats s seam dir n) := by
  unfold State.setRepeats
  try dsimp only
  repeat' first
    | with_reducible assumption | with_reducible apply KeepsR.next | with_reducible apply KeepsR.fault
    | with_reducible apply KeepsR.atPlace | with_reducible apply KeepsO.some | with_reducible apply KeepsO.none
    | with_reducible apply KeepsO.getD | with_reducible apply Keeps.foldl | with_reducible apply Keeps.foldlFst
    | with_reducible apply Keeps.foldlSnd | ((with_reducible apply Same.mk) <;> first | exact no ‹_› | exact fun _ => rfl)
    | intro _ | split | assumption | with_reducible apply Keeps.sends | fail_if_no_progress with_reducible apply Keeps.update

theorem State.setSeam_keeps {pt : Parts} {a : State} (s : State) (seam : Nat) (r : BitVec 256) (h : Keeps pt a s) (x_trouble :
    pt.trouble = false := by assumption) :
        Keeps pt a (State.setSeam s seam r) := by
  unfold State.setSeam
  try dsimp only
  repeat' first
    | with_reducible assumption | with_reducible apply KeepsR.next | with_reducible apply KeepsR.fault
    | with_reducible apply KeepsR.atPlace | with_reducible apply KeepsO.some | with_reducible apply KeepsO.none
    | with_reducible apply KeepsO.getD | with_reducible apply Keeps.foldl | with_reducible apply Keeps.foldlFst
    | with_reducible apply Keeps.foldlSnd | ((with_reducible apply Same.mk) <;> first | exact no ‹_› | exact fun _ => rfl)
    | intro _ | split | assumption | with_reducible apply Keeps.sends | fail_if_no_progress with_reducible apply Keeps.update

theorem onSeam_keeps {pt : Parts} {a : State} (seam : Nat) (dir : Nat) (s : State) (f : Nat → State → Option State) (h : Keeps pt
    a s) (hf : ∀ (y0 : Nat) (y1 : State), Keeps pt a y1 → KeepsO pt a (f y0 y1)) (x_trouble : pt.trouble = false := by assumption)
    :
        KeepsR pt a (onSeam seam dir s f) := by
  unfold onSeam
  try dsimp only
  split
  · split
    · exact .next h
    · split
      · next t e => exact .next ((hf _ _ (State.setRepeats_keeps _ _ _ _ h)).out _ e)
      · exact .next h
  · exact .fault _

theorem execSeamTransferError_keeps {pt : Parts} {a : State} (seam : Nat) (dir : Nat) (s : State) (h : Keeps pt a s) (x_trouble :
    pt.trouble = false := by assumption) :
        KeepsR pt a (execSeamTransferError seam dir s) := by
  unfold execSeamTransferError
  try dsimp only
  repeat' first
    | with_reducible assumption | with_reducible apply KeepsR.next | with_reducible apply KeepsR.fault
    | with_reducible apply KeepsR.atPlace | with_reducible apply KeepsO.some | with_reducible apply KeepsO.none
    | with_reducible apply KeepsO.getD | with_reducible apply onSeam_keeps | with_reducible apply Keeps.foldl
    | with_reducible apply Keeps.foldlFst | with_reducible apply Keeps.foldlSnd
    | ((with_reducible apply Same.mk) <;> first | exact no ‹_› | exact fun _ => rfl) | intro _ | split | assumption
    | with_reducible apply Keeps.sends | fail_if_no_progress with_reducible apply Keeps.update

theorem execSeamRepeatAlarm_keeps {pt : Parts} {a : State} (seam : Nat) (dir : Nat) (s : State) (h : Keeps pt a s) (x_trouble :
    pt.trouble = false := by assumption) :
        KeepsR pt a (execSeamRepeatAlarm seam dir s) := by
  unfold execSeamRepeatAlarm
  try dsimp only
  repeat' first
    | with_reducible assumption | with_reducible apply KeepsR.next | with_reducible apply KeepsR.fault
    | with_reducible apply KeepsR.atPlace | with_reducible apply KeepsO.some | with_reducible apply KeepsO.none
    | with_reducible apply KeepsO.getD | with_reducible apply State.alarm_keeps | with_reducible apply State.setSeam_keeps
    | with_reducible apply onSeam_keeps | with_reducible apply Keeps.foldl | with_reducible apply Keeps.foldlFst
    | with_reducible apply Keeps.foldlSnd | ((with_reducible apply Same.mk) <;> first | exact no ‹_› | exact fun _ => rfl)
    | intro _ | split | assumption | with_reducible apply Keeps.sends | fail_if_no_progress with_reducible apply Keeps.update

theorem execSeamFailed_keeps {pt : Parts} {a : State} (seam : Nat) (dir : Nat) (s : State) (h : Keeps pt a s) (x_tiles : pt.tiles
    = false := by assumption) (x_ctxs : pt.ctxs = false := by assumption) (x_trouble : pt.trouble = false := by assumption)
    (x_ports : pt.ports = false := by assumption) (x_fabric : pt.fabric = false := by assumption) :
        KeepsR pt a (execSeamFailed seam dir s) := by
  unfold execSeamFailed
  try dsimp only
  repeat' first
    | with_reducible assumption | with_reducible apply KeepsR.next | with_reducible apply KeepsR.fault
    | with_reducible apply KeepsR.atPlace | with_reducible apply KeepsO.some | with_reducible apply KeepsO.none
    | with_reducible apply KeepsO.getD | with_reducible apply State.alarm_keeps | with_reducible apply State.deviceFault_keeps
    | with_reducible apply State.setSeam_keeps | with_reducible apply onSeam_keeps | with_reducible apply Keeps.foldl
    | with_reducible apply Keeps.foldlFst | with_reducible apply Keeps.foldlSnd
    | ((with_reducible apply Same.mk) <;> first | exact no ‹_› | exact fun _ => rfl) | intro _ | split | assumption
    | with_reducible apply Keeps.sends | fail_if_no_progress with_reducible apply Keeps.update

theorem execLogHopDrop_keeps {pt : Parts} {a : State} (source : Nat) (cls : Nat) (s : State) (h : Keeps pt a s) (x_trouble :
    pt.trouble = false := by assumption) :
        KeepsR pt a (execLogHopDrop source cls s) := by
  unfold execLogHopDrop
  try dsimp only
  repeat' first
    | with_reducible assumption | with_reducible apply KeepsR.next | with_reducible apply KeepsR.fault
    | with_reducible apply KeepsR.atPlace | with_reducible apply KeepsO.some | with_reducible apply KeepsO.none
    | with_reducible apply KeepsO.getD | with_reducible apply Keeps.foldl | with_reducible apply Keeps.foldlFst
    | with_reducible apply Keeps.foldlSnd | ((with_reducible apply Same.mk) <;> first | exact no ‹_› | exact fun _ => rfl)
    | intro _ | split | assumption | with_reducible apply Keeps.sends | fail_if_no_progress with_reducible apply Keeps.update

theorem execDebugHalt_keeps {pt : Parts} {a : State} (n : Nat) (st : Stream) (s : State) (h : Keeps pt a s) (x_tiles : pt.tiles =
    false := by assumption) (x_trouble : pt.trouble = false := by assumption) (x_ports : pt.ports = false := by assumption) :
        KeepsR pt a (execDebugHalt n st s) := by
  unfold execDebugHalt
  try dsimp only
  repeat' first
    | with_reducible assumption | with_reducible apply KeepsR.next | with_reducible apply KeepsR.fault
    | with_reducible apply KeepsR.atPlace | with_reducible apply KeepsO.some | with_reducible apply KeepsO.none
    | with_reducible apply KeepsO.getD | with_reducible apply State.coreHalt_keeps | with_reducible apply Keeps.foldl
    | with_reducible apply Keeps.foldlFst | with_reducible apply Keeps.foldlSnd
    | ((with_reducible apply Same.mk) <;> first | exact no ‹_› | exact fun _ => rfl) | intro _ | split | assumption
    | with_reducible apply Keeps.sends | fail_if_no_progress with_reducible apply Keeps.update

theorem execDebugResume_keeps {pt : Parts} {a : State} (n : Nat) (st : Stream) (s : State) (h : Keeps pt a s) (x_tiles : pt.tiles
    = false := by assumption) :
        KeepsR pt a (execDebugResume n st s) := by
  unfold execDebugResume
  try dsimp only
  repeat' first
    | with_reducible assumption | with_reducible apply KeepsR.next | with_reducible apply KeepsR.fault
    | with_reducible apply KeepsR.atPlace | with_reducible apply KeepsO.some | with_reducible apply KeepsO.none
    | with_reducible apply KeepsO.getD | with_reducible apply State.modThread_keeps | with_reducible apply State.halt_keeps
    | with_reducible apply State.ctwaitRetire_keeps | with_reducible apply Keeps.foldl | with_reducible apply Keeps.foldlFst
    | with_reducible apply Keeps.foldlSnd | ((with_reducible apply Same.mk) <;> first | exact no ‹_› | exact fun _ => rfl)
    | intro _ | split | assumption | with_reducible apply Keeps.sends | fail_if_no_progress with_reducible apply Keeps.update

end Sys2Proof.Machine
end

