-- ==== Sys2Proof/Laws/KeepChangeLog.lean ====
section
/-!
SUPPORT. What the operations of Machine/ChangeLog.lean keep (Laws/Keeps.lean).
-/
namespace Sys2Proof.Machine

set_option linter.unusedTactic false
set_option linter.unreachableTactic false
set_option Elab.async false

theorem State.logWrite_keeps {pt : Parts} {a : State} (s : State) (src : Requester) (index : Nat) (sub : Nat) (abort : Nat) (old :
    List Byte) (new : List Byte) (h : Keeps pt a s) (x_camp : pt.camp = false := by assumption) :
        Keeps pt a (State.logWrite s src index sub abort old new) := by
  unfold State.logWrite
  try dsimp only
  repeat' first
    | with_reducible assumption | with_reducible apply KeepsR.next | with_reducible apply KeepsR.fault
    | with_reducible apply KeepsR.atPlace | with_reducible apply KeepsO.some | with_reducible apply KeepsO.none
    | with_reducible apply KeepsO.getD | with_reducible apply Keeps.foldl | with_reducible apply Keeps.foldlFst
    | with_reducible apply Keeps.foldlSnd | ((with_reducible apply Same.mk) <;> first | exact no ‹_› | exact fun _ => rfl)
    | intro _ | split | assumption | with_reducible apply Keeps.sends | fail_if_no_progress with_reducible apply Keeps.update

end Sys2Proof.Machine
end

