-- ==== Sys2Proof/Laws/KeepChannels.lean ====
section
/-!
SUPPORT. What the operations of Machine/Channels.lean keep (Laws/Keeps.lean).
-/
namespace Sys2Proof.Machine

set_option linter.unusedTactic false
set_option linter.unreachableTactic false
set_option Elab.async false

theorem State.newChan_keeps {pt : Parts} {a : State} (s : State) (c : Nat) (v : Word × State) (h : Keeps pt a s) (e : s.newChan c = some v)
    (x_chans : pt.chans = false := by assumption) :
    Keeps pt a v.2 := by
  unfold State.newChan at e
  dsimp only at e
  split at e
  · cases e
  · rw [Option.map_eq_some_iff] at e
    obtain ⟨k, _, e⟩ := e
    subst e
    exact h.calm rfl rfl rfl rfl rfl (by constructor <;> first | exact no x_chans | exact fun _ => rfl)

theorem State.dropChan_keeps {pt : Parts} {a : State} (s : State) (h0 : Word) (h : Keeps pt a s) (x_chans : pt.chans = false := by
    assumption) :
        Keeps pt a (State.dropChan s h0) := by
  unfold State.dropChan
  try dsimp only
  repeat' first
    | with_reducible assumption | with_reducible apply KeepsR.next | with_reducible apply KeepsR.fault
    | with_reducible apply KeepsR.atPlace | with_reducible apply KeepsO.some | with_reducible apply KeepsO.none
    | with_reducible apply KeepsO.getD | with_reducible apply Keeps.foldl | with_reducible apply Keeps.foldlFst
    | with_reducible apply Keeps.foldlSnd | ((with_reducible apply Same.mk) <;> first | exact no ‹_› | exact fun _ => rfl)
    | intro _ | split | assumption | with_reducible apply Keeps.sends | fail_if_no_progress with_reducible apply Keeps.update

theorem State.signalGlobal_keeps {pt : Parts} {a : State} (s : State) (src : Nat) (g : Nat) (n : Nat) (h : Keeps pt a s) (x_tiles
    : pt.tiles = false := by assumption) (x_ctxs : pt.ctxs = false := by assumption) (x_net : pt.net = false := by assumption)
    (x_gtallies : pt.gtallies = false := by assumption) (x_trouble : pt.trouble = false := by assumption) :
        Keeps pt a (State.signalGlobal s src g n) := by
  unfold State.signalGlobal
  try dsimp only
  repeat' first
    | with_reducible assumption | with_reducible apply KeepsR.next | with_reducible apply KeepsR.fault
    | with_reducible apply KeepsR.atPlace | with_reducible apply KeepsO.some | with_reducible apply KeepsO.none
    | with_reducible apply KeepsO.getD | with_reducible apply State.cycle_keeps | with_reducible apply State.signalAt_keeps
    | with_reducible apply Keeps.foldl | with_reducible apply Keeps.foldlFst | with_reducible apply Keeps.foldlSnd
    | ((with_reducible apply Same.mk) <;> first | exact no ‹_› | exact fun _ => rfl) | intro _ | split | assumption
    | with_reducible apply Keeps.sends | fail_if_no_progress with_reducible apply Keeps.update

end Sys2Proof.Machine
end

