-- ==== Sys2Proof/Laws/KeepJobs.lean ====
section
/-!
SUPPORT. What the operations of Machine/Jobs.lean keep (Laws/Keeps.lean).
-/
namespace Sys2Proof.Machine

set_option linter.unusedTactic false
set_option linter.unreachableTactic false
set_option Elab.async false

theorem State.svcWrite_keeps {pt : Parts} {a : State} (s : State) (a0 : Nat) (bytes : List Byte) (h : Keeps pt a s) (x_tiles :
    pt.tiles = false := by assumption) (x_ctxs : pt.ctxs = false := by assumption) (x_mem : pt.mem = false := by assumption)
    (x_bad : pt.bad = false := by assumption) (x_snaps : pt.snaps = false := by assumption) (x_trouble : pt.trouble = false := by
    assumption) (x_ports : pt.ports = false := by assumption) :
        Keeps pt a (State.svcWrite s a0 bytes) := by
  unfold State.svcWrite
  try dsimp only
  repeat' first
    | with_reducible assumption | with_reducible apply KeepsR.next | with_reducible apply KeepsR.fault
    | with_reducible apply KeepsR.atPlace | with_reducible apply KeepsO.some | with_reducible apply KeepsO.none
    | with_reducible apply KeepsO.getD | with_reducible apply State.outsideWrite_keeps | with_reducible apply Keeps.foldl
    | with_reducible apply Keeps.foldlFst | with_reducible apply Keeps.foldlSnd
    | ((with_reducible apply Same.mk) <;> first | exact no ‹_› | exact fun _ => rfl) | intro _ | split | assumption
    | with_reducible apply Keeps.sends | fail_if_no_progress with_reducible apply Keeps.update

theorem State.setStatus_keeps {pt : Parts} {a : State} (s : State) (j : Job) (i : Nat) (v : Nat) (h : Keeps pt a s) (x_tiles :
    pt.tiles = false := by assumption) (x_ctxs : pt.ctxs = false := by assumption) (x_mem : pt.mem = false := by assumption)
    (x_bad : pt.bad = false := by assumption) (x_snaps : pt.snaps = false := by assumption) (x_trouble : pt.trouble = false := by
    assumption) (x_ports : pt.ports = false := by assumption) :
        Keeps pt a (State.setStatus s j i v) := by
  unfold State.setStatus
  try dsimp only
  repeat' first
    | with_reducible assumption | with_reducible apply KeepsR.next | with_reducible apply KeepsR.fault
    | with_reducible apply KeepsR.atPlace | with_reducible apply KeepsO.some | with_reducible apply KeepsO.none
    | with_reducible apply KeepsO.getD | with_reducible apply State.svcWrite_keeps | with_reducible apply Keeps.foldl
    | with_reducible apply Keeps.foldlFst | with_reducible apply Keeps.foldlSnd
    | ((with_reducible apply Same.mk) <;> first | exact no ‹_› | exact fun _ => rfl) | intro _ | split | assumption
    | with_reducible apply Keeps.sends | fail_if_no_progress with_reducible apply Keeps.update

theorem State.putJob_keeps {pt : Parts} {a : State} (s : State) (j : Job) (h : Keeps pt a s) (x_service : pt.service = false := by
    assumption) :
        Keeps pt a (State.putJob s j) := by
  unfold State.putJob
  try dsimp only
  repeat' first
    | with_reducible assumption | with_reducible apply KeepsR.next | with_reducible apply KeepsR.fault
    | with_reducible apply KeepsR.atPlace | with_reducible apply KeepsO.some | with_reducible apply KeepsO.none
    | with_reducible apply KeepsO.getD | with_reducible apply Keeps.foldl | with_reducible apply Keeps.foldlFst
    | with_reducible apply Keeps.foldlSnd | ((with_reducible apply Same.mk) <;> first | exact no ‹_› | exact fun _ => rfl)
    | intro _ | split | assumption | with_reducible apply Keeps.sends | fail_if_no_progress with_reducible apply Keeps.update

theorem State.submit_keeps {pt : Parts} {a : State} (s : State) (x : Nat) (may : Nat → Bool) (r : Nat × State) (h : Keeps pt a s)
    (e : s.submit x may = .inr r) (x_service : pt.service = false := by assumption) : Keeps pt a r.2 := by
  unfold State.submit at e
  dsimp only at e
  repeat' split at e
  all_goals first
    | (cases e; done)
    | (cases e; exact h.calm rfl rfl rfl rfl rfl)

theorem State.abandonModels_keeps {pt : Parts} {a : State} (s : State) (j : Job) (h : Keeps pt a s) (x_tiles : pt.tiles = false :=
    by assumption) (x_ctxs : pt.ctxs = false := by assumption) (x_mem : pt.mem = false := by assumption) (x_bad : pt.bad = false
    := by assumption) (x_snaps : pt.snaps = false := by assumption) (x_trouble : pt.trouble = false := by assumption) (x_ports :
    pt.ports = false := by assumption) :
        Keeps pt a (State.abandonModels s j) := by
  unfold State.abandonModels
  try dsimp only
  repeat' first
    | with_reducible assumption | with_reducible apply KeepsR.next | with_reducible apply KeepsR.fault
    | with_reducible apply KeepsR.atPlace | with_reducible apply KeepsO.some | with_reducible apply KeepsO.none
    | with_reducible apply KeepsO.getD | with_reducible apply State.setStatus_keeps | with_reducible apply Keeps.foldl
    | with_reducible apply Keeps.foldlFst | with_reducible apply Keeps.foldlSnd
    | ((with_reducible apply Same.mk) <;> first | exact no ‹_› | exact fun _ => rfl) | intro _ | split | assumption
    | with_reducible apply Keeps.sends | fail_if_no_progress with_reducible apply Keeps.update

theorem State.dropChans_keeps {pt : Parts} {a : State} (s : State) (l : List Word) (h : Keeps pt a s) (x_chans : pt.chans = false
    := by assumption) (x_camp : pt.camp = false := by assumption) :
        Keeps pt a (State.dropChans s l).2 := by
  unfold State.dropChans
  refine Keeps.foldlSnd h _ fun t x ht => ?_
  try dsimp only
  split
  · exact ht
  · split
    · exact ht
    · exact State.logWrite_keeps _ _ _ _ _ _ _ (State.dropChan_keeps _ _ ht)

theorem State.endJob_keeps {pt : Parts} {a : State} (s : State) (j : Job) (st : Nat) (signal : Bool) (h : Keeps pt a s) (x_tiles :
    pt.tiles = false := by assumption) (x_ctxs : pt.ctxs = false := by assumption) (x_chans : pt.chans = false := by assumption)
    (x_mem : pt.mem = false := by assumption) (x_bad : pt.bad = false := by assumption) (x_net : pt.net = false := by assumption)
    (x_gtallies : pt.gtallies = false := by assumption) (x_snaps : pt.snaps = false := by assumption) (x_trouble : pt.trouble =
    false := by assumption) (x_ports : pt.ports = false := by assumption) (x_camp : pt.camp = false := by assumption) (x_service :
    pt.service = false := by assumption) :
        Keeps pt a (State.endJob s j st signal) := by
  unfold State.endJob
  try dsimp only
  repeat' first
    | with_reducible assumption | with_reducible apply KeepsR.next | with_reducible apply KeepsR.fault
    | with_reducible apply KeepsR.atPlace | with_reducible apply KeepsO.some | with_reducible apply KeepsO.none
    | with_reducible apply KeepsO.getD | with_reducible apply State.signalGlobal_keeps | with_reducible apply State.putJob_keeps
    | with_reducible apply State.abandonModels_keeps | with_reducible apply State.dropChans_keeps
    | with_reducible apply Keeps.foldl | with_reducible apply Keeps.foldlFst | with_reducible apply Keeps.foldlSnd
    | ((with_reducible apply Same.mk) <;> first | exact no ‹_› | exact fun _ => rfl) | intro _ | split | assumption
    | with_reducible apply Keeps.sends | fail_if_no_progress with_reducible apply Keeps.update

theorem State.abandonJobs_keeps {pt : Parts} {a : State} (s : State) (c : Nat) (h : Keeps pt a s) (x_tiles : pt.tiles = false :=
    by assumption) (x_ctxs : pt.ctxs = false := by assumption) (x_chans : pt.chans = false := by assumption) (x_mem : pt.mem =
    false := by assumption) (x_bad : pt.bad = false := by assumption) (x_net : pt.net = false := by assumption) (x_gtallies :
    pt.gtallies = false := by assumption) (x_snaps : pt.snaps = false := by assumption) (x_trouble : pt.trouble = false := by
    assumption) (x_ports : pt.ports = false := by assumption) (x_camp : pt.camp = false := by assumption) (x_service : pt.service
    = false := by assumption) :
        Keeps pt a (State.abandonJobs s c) := by
  unfold State.abandonJobs
  try dsimp only
  repeat' first
    | with_reducible assumption | with_reducible apply KeepsR.next | with_reducible apply KeepsR.fault
    | with_reducible apply KeepsR.atPlace | with_reducible apply KeepsO.some | with_reducible apply KeepsO.none
    | with_reducible apply KeepsO.getD | with_reducible apply State.endJob_keeps | with_reducible apply Keeps.foldl
    | with_reducible apply Keeps.foldlFst | with_reducible apply Keeps.foldlSnd
    | ((with_reducible apply Same.mk) <;> first | exact no ‹_› | exact fun _ => rfl) | intro _ | split | assumption
    | with_reducible apply Keeps.sends | fail_if_no_progress with_reducible apply Keeps.update

theorem State.svcRequest_keeps {pt : Parts} {a : State} (s : State) (uid : Nat) (a0 : Ask) (h : Keeps pt a s) (x_tiles : pt.tiles
    = false := by assumption) (x_trouble : pt.trouble = false := by assumption) (x_ports : pt.ports = false := by assumption)
    (x_fabric : pt.fabric = false := by assumption) :
        Keeps pt a (State.svcRequest s uid a0) := by
  unfold State.svcRequest
  try dsimp only
  repeat' first
    | with_reducible assumption | with_reducible apply KeepsR.next | with_reducible apply KeepsR.fault
    | with_reducible apply KeepsR.atPlace | with_reducible apply KeepsO.some | with_reducible apply KeepsO.none
    | with_reducible apply KeepsO.getD | with_reducible apply State.fresh_keeps | with_reducible apply State.write_keeps
    | with_reducible apply State.sendWaiting_keeps | with_reducible apply Keeps.foldl | with_reducible apply Keeps.foldlFst
    | with_reducible apply Keeps.foldlSnd | ((with_reducible apply Same.mk) <;> first | exact no ‹_› | exact fun _ => rfl)
    | intro _ | split | assumption | with_reducible apply Keeps.sends | fail_if_no_progress with_reducible apply Keeps.update

theorem State.svcSignal_keeps {pt : Parts} {a : State} (s : State) (uid : Nat) (dev : Nat) (g : Nat) (h : Keeps pt a s) (x_tiles :
    pt.tiles = false := by assumption) (x_ctxs : pt.ctxs = false := by assumption) (x_net : pt.net = false := by assumption)
    (x_gtallies : pt.gtallies = false := by assumption) (x_trouble : pt.trouble = false := by assumption) (x_ports : pt.ports =
    false := by assumption) (x_fabric : pt.fabric = false := by assumption) :
        Keeps pt a (State.svcSignal s uid dev g) := by
  unfold State.svcSignal
  try dsimp only
  repeat' first
    | with_reducible assumption | with_reducible apply KeepsR.next | with_reducible apply KeepsR.fault
    | with_reducible apply KeepsR.atPlace | with_reducible apply KeepsO.some | with_reducible apply KeepsO.none
    | with_reducible apply KeepsO.getD | with_reducible apply State.signalGlobal_keeps
    | with_reducible apply State.svcRequest_keeps | with_reducible apply Keeps.foldl | with_reducible apply Keeps.foldlFst
    | with_reducible apply Keeps.foldlSnd | ((with_reducible apply Same.mk) <;> first | exact no ‹_› | exact fun _ => rfl)
    | intro _ | split | assumption | with_reducible apply Keeps.sends | fail_if_no_progress with_reducible apply Keeps.update

theorem State.shipBytes_keeps {pt : Parts} {a : State} (s : State) (j : Job) (off : Nat) (bytes : List Byte) (h : Keeps pt a s)
    (x_tiles : pt.tiles = false := by assumption) (x_ctxs : pt.ctxs = false := by assumption) (x_mem : pt.mem = false := by
    assumption) (x_bad : pt.bad = false := by assumption) (x_snaps : pt.snaps = false := by assumption) (x_trouble : pt.trouble =
    false := by assumption) (x_ports : pt.ports = false := by assumption) (x_fabric : pt.fabric = false := by assumption) (x_sent
    : pt.sent = false := by assumption) :
        Keeps pt a (State.shipBytes s j off bytes) := by
  unfold State.shipBytes
  try dsimp only
  repeat' first
    | with_reducible assumption | with_reducible apply KeepsR.next | with_reducible apply KeepsR.fault
    | with_reducible apply KeepsR.atPlace | with_reducible apply KeepsO.some | with_reducible apply KeepsO.none
    | with_reducible apply KeepsO.getD | with_reducible apply State.svcWrite_keeps | with_reducible apply State.svcRequest_keeps
    | with_reducible apply Keeps.foldl | with_reducible apply Keeps.foldlFst | with_reducible apply Keeps.foldlSnd
    | ((with_reducible apply Same.mk) <;> first | exact no ‹_› | exact fun _ => rfl) | intro _ | split | assumption
    | with_reducible apply Keeps.sends | fail_if_no_progress with_reducible apply Keeps.update

theorem State.shipRegion_keeps {pt : Parts} {a : State} (s : State) (j : Job) (h : Keeps pt a s) (x_tiles : pt.tiles = false := by
    assumption) (x_ctxs : pt.ctxs = false := by assumption) (x_mem : pt.mem = false := by assumption) (x_bad : pt.bad = false :=
    by assumption) (x_snaps : pt.snaps = false := by assumption) (x_trouble : pt.trouble = false := by assumption) (x_ports :
    pt.ports = false := by assumption) (x_fabric : pt.fabric = false := by assumption) (x_sent : pt.sent = false := by assumption)
    (x_service : pt.service = false := by assumption) :
        Keeps pt a (State.shipRegion s j) := by
  unfold State.shipRegion
  try dsimp only
  repeat' first
    | with_reducible assumption | with_reducible apply KeepsR.next | with_reducible apply KeepsR.fault
    | with_reducible apply KeepsR.atPlace | with_reducible apply KeepsO.some | with_reducible apply KeepsO.none
    | with_reducible apply KeepsO.getD | with_reducible apply State.outsideRead_keeps | with_reducible apply State.putJob_keeps
    | with_reducible apply State.shipBytes_keeps | with_reducible apply Keeps.foldl | with_reducible apply Keeps.foldlFst
    | with_reducible apply Keeps.foldlSnd | ((with_reducible apply Same.mk) <;> first | exact no ‹_› | exact fun _ => rfl)
    | intro _ | split | assumption | with_reducible apply Keeps.sends | fail_if_no_progress with_reducible apply Keeps.update

theorem State.shipEnd_keeps {pt : Parts} {a : State} (s : State) (j : Job) (h : Keeps pt a s) (x_tiles : pt.tiles = false := by
    assumption) (x_ctxs : pt.ctxs = false := by assumption) (x_mem : pt.mem = false := by assumption) (x_bad : pt.bad = false :=
    by assumption) (x_snaps : pt.snaps = false := by assumption) (x_trouble : pt.trouble = false := by assumption) (x_ports :
    pt.ports = false := by assumption) (x_fabric : pt.fabric = false := by assumption) (x_sent : pt.sent = false := by assumption)
    (x_service : pt.service = false := by assumption) :
        Keeps pt a (State.shipEnd s j) := by
  unfold State.shipEnd
  try dsimp only
  repeat' first
    | with_reducible assumption | with_reducible apply KeepsR.next | with_reducible apply KeepsR.fault
    | with_reducible apply KeepsR.atPlace | with_reducible apply KeepsO.some | with_reducible apply KeepsO.none
    | with_reducible apply KeepsO.getD | with_reducible apply State.putJob_keeps | with_reducible apply State.shipBytes_keeps
    | with_reducible apply Keeps.foldl | with_reducible apply Keeps.foldlFst | with_reducible apply Keeps.foldlSnd
    | ((with_reducible apply Same.mk) <;> first | exact no ‹_› | exact fun _ => rfl) | intro _ | split | assumption
    | with_reducible apply Keeps.sends | fail_if_no_progress with_reducible apply Keeps.update

theorem State.trigger_keeps {pt : Parts} {a : State} (s : State) (j : Job) (h : Keeps pt a s) (x_tiles : pt.tiles = false := by
    assumption) (x_ctxs : pt.ctxs = false := by assumption) (x_net : pt.net = false := by assumption) (x_gtallies : pt.gtallies =
    false := by assumption) (x_trouble : pt.trouble = false := by assumption) (x_ports : pt.ports = false := by assumption)
    (x_fabric : pt.fabric = false := by assumption) :
        Keeps pt a (State.trigger s j) := by
  unfold State.trigger
  try dsimp only
  repeat' first
    | with_reducible assumption | with_reducible apply KeepsR.next | with_reducible apply KeepsR.fault
    | with_reducible apply KeepsR.atPlace | with_reducible apply KeepsO.some | with_reducible apply KeepsO.none
    | with_reducible apply KeepsO.getD | with_reducible apply State.alarm_keeps | with_reducible apply State.svcSignal_keeps
    | with_reducible apply Keeps.foldl | with_reducible apply Keeps.foldlFst | with_reducible apply Keeps.foldlSnd
    | ((with_reducible apply Same.mk) <;> first | exact no ‹_› | exact fun _ => rfl) | intro _ | split | assumption
    | with_reducible apply Keeps.sends | fail_if_no_progress with_reducible apply Keeps.update

theorem State.settleBatch_keeps {pt : Parts} {a : State} (s : State) (j : Job) (h : Keeps pt a s) (x_tiles : pt.tiles = false :=
    by assumption) (x_ctxs : pt.ctxs = false := by assumption) (x_chans : pt.chans = false := by assumption) (x_mem : pt.mem =
    false := by assumption) (x_bad : pt.bad = false := by assumption) (x_net : pt.net = false := by assumption) (x_gtallies :
    pt.gtallies = false := by assumption) (x_snaps : pt.snaps = false := by assumption) (x_trouble : pt.trouble = false := by
    assumption) (x_ports : pt.ports = false := by assumption) (x_camp : pt.camp = false := by assumption) (x_service : pt.service
    = false := by assumption) :
        Keeps pt a (State.settleBatch s j) := by
  unfold State.settleBatch
  try dsimp only
  repeat' first
    | with_reducible assumption | with_reducible apply KeepsR.next | with_reducible apply KeepsR.fault
    | with_reducible apply KeepsR.atPlace | with_reducible apply KeepsO.some | with_reducible apply KeepsO.none
    | with_reducible apply KeepsO.getD | with_reducible apply State.putJob_keeps | with_reducible apply State.endJob_keeps
    | with_reducible apply Keeps.foldl | with_reducible apply Keeps.foldlFst | with_reducible apply Keeps.foldlSnd
    | ((with_reducible apply Same.mk) <;> first | exact no ‹_› | exact fun _ => rfl) | intro _ | split | assumption
    | with_reducible apply Keeps.sends | fail_if_no_progress with_reducible apply Keeps.update

theorem State.settleCheckpoint_keeps {pt : Parts} {a : State} (s : State) (j : Job) (h : Keeps pt a s) (x_tiles : pt.tiles = false
    := by assumption) (x_ctxs : pt.ctxs = false := by assumption) (x_chans : pt.chans = false := by assumption) (x_mem : pt.mem =
    false := by assumption) (x_bad : pt.bad = false := by assumption) (x_net : pt.net = false := by assumption) (x_gtallies :
    pt.gtallies = false := by assumption) (x_snaps : pt.snaps = false := by assumption) (x_trouble : pt.trouble = false := by
    assumption) (x_ports : pt.ports = false := by assumption) (x_fabric : pt.fabric = false := by assumption) (x_sent : pt.sent =
    false := by assumption) (x_camp : pt.camp = false := by assumption) (x_service : pt.service = false := by assumption) :
        Keeps pt a (State.settleCheckpoint s j) := by
  unfold State.settleCheckpoint
  try dsimp only
  repeat' first
    | with_reducible assumption | with_reducible apply KeepsR.next | with_reducible apply KeepsR.fault
    | with_reducible apply KeepsR.atPlace | with_reducible apply KeepsO.some | with_reducible apply KeepsO.none
    | with_reducible apply KeepsO.getD | with_reducible apply State.endJob_keeps | with_reducible apply State.shipRegion_keeps
    | with_reducible apply State.shipEnd_keeps | with_reducible apply Keeps.foldl | with_reducible apply Keeps.foldlFst
    | with_reducible apply Keeps.foldlSnd | ((with_reducible apply Same.mk) <;> first | exact no ‹_› | exact fun _ => rfl)
    | intro _ | split | assumption | with_reducible apply Keeps.sends | fail_if_no_progress with_reducible apply Keeps.update

theorem State.settleJob_keeps {pt : Parts} {a : State} (s : State) (j : Job) (h : Keeps pt a s) (x_tiles : pt.tiles = false := by
    assumption) (x_ctxs : pt.ctxs = false := by assumption) (x_chans : pt.chans = false := by assumption) (x_mem : pt.mem = false
    := by assumption) (x_bad : pt.bad = false := by assumption) (x_net : pt.net = false := by assumption) (x_gtallies :
    pt.gtallies = false := by assumption) (x_snaps : pt.snaps = false := by assumption) (x_trouble : pt.trouble = false := by
    assumption) (x_ports : pt.ports = false := by assumption) (x_fabric : pt.fabric = false := by assumption) (x_sent : pt.sent =
    false := by assumption) (x_camp : pt.camp = false := by assumption) (x_service : pt.service = false := by assumption) :
        Keeps pt a (State.settleJob s j) := by
  unfold State.settleJob
  try dsimp only
  repeat' first
    | with_reducible assumption | with_reducible apply KeepsR.next | with_reducible apply KeepsR.fault
    | with_reducible apply KeepsR.atPlace | with_reducible apply KeepsO.some | with_reducible apply KeepsO.none
    | with_reducible apply KeepsO.getD | with_reducible apply State.putJob_keeps | with_reducible apply State.dropChans_keeps
    | with_reducible apply State.endJob_keeps | with_reducible apply State.settleBatch_keeps
    | with_reducible apply State.settleCheckpoint_keeps | with_reducible apply Keeps.foldl | with_reducible apply Keeps.foldlFst
    | with_reducible apply Keeps.foldlSnd | ((with_reducible apply Same.mk) <;> first | exact no ‹_› | exact fun _ => rfl)
    | intro _ | split | assumption | with_reducible apply Keeps.sends | fail_if_no_progress with_reducible apply Keeps.update

theorem State.settleJobs_keeps {pt : Parts} {a : State} (s : State) (h : Keeps pt a s) (x_tiles : pt.tiles = false := by
    assumption) (x_ctxs : pt.ctxs = false := by assumption) (x_chans : pt.chans = false := by assumption) (x_mem : pt.mem = false
    := by assumption) (x_bad : pt.bad = false := by assumption) (x_net : pt.net = false := by assumption) (x_gtallies :
    pt.gtallies = false := by assumption) (x_snaps : pt.snaps = false := by assumption) (x_trouble : pt.trouble = false := by
    assumption) (x_ports : pt.ports = false := by assumption) (x_fabric : pt.fabric = false := by assumption) (x_sent : pt.sent =
    false := by assumption) (x_camp : pt.camp = false := by assumption) (x_service : pt.service = false := by assumption) :
        Keeps pt a (State.settleJobs s) := by
  unfold State.settleJobs
  try dsimp only
  repeat' first
    | with_reducible assumption | with_reducible apply KeepsR.next | with_reducible apply KeepsR.fault
    | with_reducible apply KeepsR.atPlace | with_reducible apply KeepsO.some | with_reducible apply KeepsO.none
    | with_reducible apply KeepsO.getD | with_reducible apply State.settleJob_keeps | with_reducible apply Keeps.foldl
    | with_reducible apply Keeps.foldlFst | with_reducible apply Keeps.foldlSnd
    | ((with_reducible apply Same.mk) <;> first | exact no ‹_› | exact fun _ => rfl) | intro _ | split | assumption
    | with_reducible apply Keeps.sends | fail_if_no_progress with_reducible apply Keeps.update

theorem State.modelChans_keeps {pt : Parts} {a : State} (s : State) (c n : Nat) (v : List Word × State) (h : Keeps pt a s)
    (e : s.modelChans c n = some v) (x_chans : pt.chans = false := by assumption) (x_camp : pt.camp = false := by assumption) : Keeps pt a v.2 := by
  induction n generalizing v with
  | zero => cases e; exact h
  | succ n ih =>
    unfold State.modelChans at e
    split at e
    · cases e
    · next r g =>
      rw [Option.map_eq_some_iff] at e
      obtain ⟨q, g', e⟩ := e
      subst e
      exact State.logWrite_keeps _ _ _ _ _ _ _ (State.newChan_keeps _ _ _ (ih _ g) g')

theorem State.startBatch_keeps {pt : Parts} {a : State} (s : State) (j : Job) (h : Keeps pt a s) (x_tiles : pt.tiles = false := by
    assumption) (x_ctxs : pt.ctxs = false := by assumption) (x_chans : pt.chans = false := by assumption) (x_mem : pt.mem = false
    := by assumption) (x_bad : pt.bad = false := by assumption) (x_net : pt.net = false := by assumption) (x_gtallies :
    pt.gtallies = false := by assumption) (x_snaps : pt.snaps = false := by assumption) (x_trouble : pt.trouble = false := by
    assumption) (x_ports : pt.ports = false := by assumption) (x_camp : pt.camp = false := by assumption) (x_service : pt.service
    = false := by assumption) :
        Keeps pt a (State.startBatch s j) := by
  unfold State.startBatch
  try dsimp only
  split
  · next r e => exact State.putJob_keeps _ _ (State.modelChans_keeps _ _ _ _ h e)
  · exact State.endJob_keeps _ _ _ _ h

theorem execJobStart_keeps {pt : Parts} {a : State} (s : State) (h : Keeps pt a s) (x_tiles : pt.tiles = false := by assumption)
    (x_ctxs : pt.ctxs = false := by assumption) (x_chans : pt.chans = false := by assumption) (x_mem : pt.mem = false := by
    assumption) (x_bad : pt.bad = false := by assumption) (x_net : pt.net = false := by assumption) (x_gtallies : pt.gtallies =
    false := by assumption) (x_snaps : pt.snaps = false := by assumption) (x_trouble : pt.trouble = false := by assumption)
    (x_ports : pt.ports = false := by assumption) (x_fabric : pt.fabric = false := by assumption) (x_sent : pt.sent = false := by
    assumption) (x_camp : pt.camp = false := by assumption) (x_service : pt.service = false := by assumption) :
        KeepsR pt a (execJobStart s) := by
  unfold execJobStart
  try dsimp only
  repeat' first
    | with_reducible assumption | with_reducible apply KeepsR.next | with_reducible apply KeepsR.fault
    | with_reducible apply KeepsR.atPlace | with_reducible apply KeepsO.some | with_reducible apply KeepsO.none
    | with_reducible apply KeepsO.getD | with_reducible apply State.fresh_keeps | with_reducible apply State.free_keeps
    | with_reducible apply State.putJob_keeps | with_reducible apply State.shipRegion_keeps
    | with_reducible apply State.trigger_keeps | with_reducible apply State.settleJob_keeps
    | with_reducible apply State.startBatch_keeps | with_reducible apply Keeps.foldl | with_reducible apply Keeps.foldlFst
    | with_reducible apply Keeps.foldlSnd | ((with_reducible apply Same.mk) <;> first | exact no ‹_› | exact fun _ => rfl)
    | intro _ | split | assumption | with_reducible apply Keeps.sends | fail_if_no_progress with_reducible apply Keeps.update

theorem State.swapIn_keeps {pt : Parts} {a : State} (s : State) (m : Nat) (tiles : List Nat) (h : Keeps pt a s) (x_tiles :
    pt.tiles = false := by assumption) (x_ctxs : pt.ctxs = false := by assumption) (x_mem : pt.mem = false := by assumption)
    (x_bad : pt.bad = false := by assumption) (x_snaps : pt.snaps = false := by assumption) (x_trouble : pt.trouble = false := by
    assumption) (x_ports : pt.ports = false := by assumption) :
        Keeps pt a (State.swapIn s m tiles) := by
  unfold State.swapIn
  try dsimp only
  repeat' first
    | with_reducible assumption | with_reducible apply KeepsR.next | with_reducible apply KeepsR.fault
    | with_reducible apply KeepsR.atPlace | with_reducible apply KeepsO.some | with_reducible apply KeepsO.none
    | with_reducible apply KeepsO.getD | with_reducible apply State.outsideRead_keeps | with_reducible apply State.svcWrite_keeps
    | with_reducible apply Keeps.foldl | with_reducible apply Keeps.foldlFst | with_reducible apply Keeps.foldlSnd
    | ((with_reducible apply Same.mk) <;> first | exact no ‹_› | exact fun _ => rfl) | intro _ | split | assumption
    | with_reducible apply Keeps.sends | fail_if_no_progress with_reducible apply Keeps.update

theorem State.swapOut_keeps {pt : Parts} {a : State} (s : State) (m : Nat) (tiles : List Nat) (h : Keeps pt a s) (x_tiles :
    pt.tiles = false := by assumption) (x_ctxs : pt.ctxs = false := by assumption) (x_mem : pt.mem = false := by assumption)
    (x_bad : pt.bad = false := by assumption) (x_snaps : pt.snaps = false := by assumption) (x_trouble : pt.trouble = false := by
    assumption) (x_ports : pt.ports = false := by assumption) :
        Keeps pt a (State.swapOut s m tiles) := by
  unfold State.swapOut
  try dsimp only
  repeat' first
    | with_reducible assumption | with_reducible apply KeepsR.next | with_reducible apply KeepsR.fault
    | with_reducible apply KeepsR.atPlace | with_reducible apply KeepsO.some | with_reducible apply KeepsO.none
    | with_reducible apply KeepsO.getD | with_reducible apply State.outsideRead_keeps | with_reducible apply State.svcWrite_keeps
    | with_reducible apply Keeps.foldl | with_reducible apply Keeps.foldlFst | with_reducible apply Keeps.foldlSnd
    | ((with_reducible apply Same.mk) <;> first | exact no ‹_› | exact fun _ => rfl) | intro _ | split | assumption
    | with_reducible apply Keeps.sends | fail_if_no_progress with_reducible apply Keeps.update

theorem State.handOut_keeps {pt : Parts} {a : State} (s : State) (j : Job) (k : Nat) (mb : Member) (h : Keeps pt a s) (x_tiles :
    pt.tiles = false := by assumption) (x_ctxs : pt.ctxs = false := by assumption) (x_mem : pt.mem = false := by assumption)
    (x_bad : pt.bad = false := by assumption) (x_net : pt.net = false := by assumption) (x_gtallies : pt.gtallies = false := by
    assumption) (x_snaps : pt.snaps = false := by assumption) (x_trouble : pt.trouble = false := by assumption) (x_ports :
    pt.ports = false := by assumption) (x_service : pt.service = false := by assumption) :
        Keeps pt a (State.handOut s j k mb) := by
  unfold State.handOut
  try dsimp only
  repeat' first
    | with_reducible assumption | with_reducible apply KeepsR.next | with_reducible apply KeepsR.fault
    | with_reducible apply KeepsR.atPlace | with_reducible apply KeepsO.some | with_reducible apply KeepsO.none
    | with_reducible apply KeepsO.getD | with_reducible apply State.modTile_keeps | with_reducible apply State.signalGlobal_keeps
    | with_reducible apply State.putJob_keeps | with_reducible apply State.swapIn_keeps
    | with_reducible apply State.swapOut_keeps | with_reducible apply Keeps.foldl | with_reducible apply Keeps.foldlFst
    | with_reducible apply Keeps.foldlSnd | ((with_reducible apply Same.mk) <;> first | exact no ‹_› | exact fun _ => rfl)
    | intro _ | split | assumption | with_reducible apply Keeps.sends | fail_if_no_progress with_reducible apply Keeps.update

theorem execModelHandout_keeps {pt : Parts} {a : State} (id : Nat) (s : State) (h : Keeps pt a s) (x_tiles : pt.tiles = false :=
    by assumption) (x_ctxs : pt.ctxs = false := by assumption) (x_chans : pt.chans = false := by assumption) (x_mem : pt.mem =
    false := by assumption) (x_bad : pt.bad = false := by assumption) (x_net : pt.net = false := by assumption) (x_gtallies :
    pt.gtallies = false := by assumption) (x_snaps : pt.snaps = false := by assumption) (x_trouble : pt.trouble = false := by
    assumption) (x_ports : pt.ports = false := by assumption) (x_camp : pt.camp = false := by assumption) (x_service : pt.service
    = false := by assumption) :
        KeepsR pt a (execModelHandout id s) := by
  unfold execModelHandout
  try dsimp only
  repeat' first
    | with_reducible assumption | with_reducible apply KeepsR.next | with_reducible apply KeepsR.fault
    | with_reducible apply KeepsR.atPlace | with_reducible apply KeepsO.some | with_reducible apply KeepsO.none
    | with_reducible apply KeepsO.getD | with_reducible apply State.setStatus_keeps
    | with_reducible apply State.settleBatch_keeps | with_reducible apply State.handOut_keeps | with_reducible apply Keeps.foldl
    | with_reducible apply Keeps.foldlFst | with_reducible apply Keeps.foldlSnd
    | ((with_reducible apply Same.mk) <;> first | exact no ‹_› | exact fun _ => rfl) | intro _ | split | assumption
    | with_reducible apply Keeps.sends | fail_if_no_progress with_reducible apply Keeps.update

theorem State.modelOver_keeps {pt : Parts} {a : State} (s : State) (j : Job) (k : Nat) (mb : Member) (i : Nat) (status : Nat) (h :
    Keeps pt a s) (x_tiles : pt.tiles = false := by assumption) (x_ctxs : pt.ctxs = false := by assumption) (x_chans : pt.chans =
    false := by assumption) (x_mem : pt.mem = false := by assumption) (x_bad : pt.bad = false := by assumption) (x_net : pt.net =
    false := by assumption) (x_gtallies : pt.gtallies = false := by assumption) (x_snaps : pt.snaps = false := by assumption)
    (x_trouble : pt.trouble = false := by assumption) (x_ports : pt.ports = false := by assumption) (x_camp : pt.camp = false :=
    by assumption) (x_service : pt.service = false := by assumption) :
        Keeps pt a (State.modelOver s j k mb i status) := by
  unfold State.modelOver
  try dsimp only
  repeat' first
    | with_reducible assumption | with_reducible apply KeepsR.next | with_reducible apply KeepsR.fault
    | with_reducible apply KeepsR.atPlace | with_reducible apply KeepsO.some | with_reducible apply KeepsO.none
    | with_reducible apply KeepsO.getD | with_reducible apply State.setStatus_keeps | with_reducible apply State.dropChans_keeps
    | with_reducible apply State.settleBatch_keeps | with_reducible apply Keeps.foldl | with_reducible apply Keeps.foldlFst
    | with_reducible apply Keeps.foldlSnd | ((with_reducible apply Same.mk) <;> first | exact no ‹_› | exact fun _ => rfl)
    | intro _ | split | assumption | with_reducible apply Keeps.sends | fail_if_no_progress with_reducible apply Keeps.update

theorem execModelDone_keeps {pt : Parts} {a : State} (id : Nat) (k : Nat) (s : State) (h : Keeps pt a s) (x_tiles : pt.tiles =
    false := by assumption) (x_ctxs : pt.ctxs = false := by assumption) (x_chans : pt.chans = false := by assumption) (x_mem :
    pt.mem = false := by assumption) (x_bad : pt.bad = false := by assumption) (x_net : pt.net = false := by assumption)
    (x_gtallies : pt.gtallies = false := by assumption) (x_snaps : pt.snaps = false := by assumption) (x_trouble : pt.trouble =
    false := by assumption) (x_ports : pt.ports = false := by assumption) (x_camp : pt.camp = false := by assumption) (x_service :
    pt.service = false := by assumption) :
        KeepsR pt a (execModelDone id k s) := by
  unfold execModelDone
  try dsimp only
  repeat' first
    | with_reducible assumption | with_reducible apply KeepsR.next | with_reducible apply KeepsR.fault
    | with_reducible apply KeepsR.atPlace | with_reducible apply KeepsO.some | with_reducible apply KeepsO.none
    | with_reducible apply KeepsO.getD | with_reducible apply State.modelOver_keeps | with_reducible apply Keeps.foldl
    | with_reducible apply Keeps.foldlFst | with_reducible apply Keeps.foldlSnd
    | ((with_reducible apply Same.mk) <;> first | exact no ‹_› | exact fun _ => rfl) | intro _ | split | assumption
    | with_reducible apply Keeps.sends | fail_if_no_progress with_reducible apply Keeps.update

theorem State.cancelJob_keeps {pt : Parts} {a : State} (s : State) (j : Job) (h : Keeps pt a s) (x_tiles : pt.tiles = false := by
    assumption) (x_ctxs : pt.ctxs = false := by assumption) (x_chans : pt.chans = false := by assumption) (x_mem : pt.mem = false
    := by assumption) (x_bad : pt.bad = false := by assumption) (x_net : pt.net = false := by assumption) (x_gtallies :
    pt.gtallies = false := by assumption) (x_snaps : pt.snaps = false := by assumption) (x_trouble : pt.trouble = false := by
    assumption) (x_ports : pt.ports = false := by assumption) (x_camp : pt.camp = false := by assumption) (x_service : pt.service
    = false := by assumption) :
        Keeps pt a (State.cancelJob s j) := by
  unfold State.cancelJob
  try dsimp only
  repeat' first
    | with_reducible assumption | with_reducible apply KeepsR.next | with_reducible apply KeepsR.fault
    | with_reducible apply KeepsR.atPlace | with_reducible apply KeepsO.some | with_reducible apply KeepsO.none
    | with_reducible apply KeepsO.getD | with_reducible apply State.putJob_keeps | with_reducible apply State.endJob_keeps
    | with_reducible apply State.settleBatch_keeps | with_reducible apply Keeps.foldl | with_reducible apply Keeps.foldlFst
    | with_reducible apply Keeps.foldlSnd | ((with_reducible apply Same.mk) <;> first | exact no ‹_› | exact fun _ => rfl)
    | intro _ | split | assumption | with_reducible apply Keeps.sends | fail_if_no_progress with_reducible apply Keeps.update

theorem execServiceHeartbeat_keeps {pt : Parts} {a : State} (s : State) (h : Keeps pt a s) (x_service : pt.service = false := by
    assumption) :
        KeepsR pt a (execServiceHeartbeat s) := by
  unfold execServiceHeartbeat
  try dsimp only
  repeat' first
    | with_reducible assumption | with_reducible apply KeepsR.next | with_reducible apply KeepsR.fault
    | with_reducible apply KeepsR.atPlace | with_reducible apply KeepsO.some | with_reducible apply KeepsO.none
    | with_reducible apply KeepsO.getD | with_reducible apply Keeps.foldl | with_reducible apply Keeps.foldlFst
    | with_reducible apply Keeps.foldlSnd | ((with_reducible apply Same.mk) <;> first | exact no ‹_› | exact fun _ => rfl)
    | intro _ | split | assumption | with_reducible apply Keeps.sends | fail_if_no_progress with_reducible apply Keeps.update

theorem execServiceComplexStop_keeps {pt : Parts} {a : State} (die : Nat) (restarts : Bool) (s : State) (h : Keeps pt a s)
    (x_tiles : pt.tiles = false := by assumption) (x_ctxs : pt.ctxs = false := by assumption) (x_chans : pt.chans = false := by
    assumption) (x_mem : pt.mem = false := by assumption) (x_bad : pt.bad = false := by assumption) (x_net : pt.net = false := by
    assumption) (x_gtallies : pt.gtallies = false := by assumption) (x_snaps : pt.snaps = false := by assumption) (x_trouble :
    pt.trouble = false := by assumption) (x_ports : pt.ports = false := by assumption) (x_camp : pt.camp = false := by assumption)
    (x_service : pt.service = false := by assumption) :
        KeepsR pt a (execServiceComplexStop die restarts s) := by
  unfold execServiceComplexStop
  try dsimp only
  repeat' first
    | with_reducible assumption | with_reducible apply KeepsR.next | with_reducible apply KeepsR.fault
    | with_reducible apply KeepsR.atPlace | with_reducible apply KeepsO.some | with_reducible apply KeepsO.none
    | with_reducible apply KeepsO.getD | with_reducible apply State.free_keeps | with_reducible apply State.alarm_keeps
    | with_reducible apply State.endJob_keeps | with_reducible apply Keeps.foldl | with_reducible apply Keeps.foldlFst
    | with_reducible apply Keeps.foldlSnd | ((with_reducible apply Same.mk) <;> first | exact no ‹_› | exact fun _ => rfl)
    | intro _ | split | assumption | with_reducible apply Keeps.sends | fail_if_no_progress with_reducible apply Keeps.update

end Sys2Proof.Machine
end

