-- ==== Sys2Proof/Laws/KeepResets.lean ====
section
/-!
SUPPORT. What the operations of Machine/Resets.lean keep (Laws/Keeps.lean).
-/
namespace Sys2Proof.Machine

set_option linter.unusedTactic false
set_option linter.unreachableTactic false
set_option Elab.async false

theorem State.cutEffect_keeps {pt : Parts} {a : State} (s : State) (f : Effect) (h : Keeps pt a s) (x_tiles : pt.tiles = false :=
    by assumption) (x_mem : pt.mem = false := by assumption) (x_bad : pt.bad = false := by assumption) :
        Keeps pt a (State.cutEffect s f) := by
  unfold State.cutEffect
  try dsimp only
  repeat' first
    | with_reducible assumption | with_reducible apply KeepsR.next | with_reducible apply KeepsR.fault
    | with_reducible apply KeepsR.atPlace | with_reducible apply KeepsO.some | with_reducible apply KeepsO.none
    | with_reducible apply KeepsO.getD | with_reducible apply State.modTile_keeps | with_reducible apply State.storeBytes_keeps
    | with_reducible apply Keeps.foldl | with_reducible apply Keeps.foldlFst | with_reducible apply Keeps.foldlSnd
    | ((with_reducible apply Same.mk) <;> first | exact no ‹_› | exact fun _ => rfl) | intro _ | split | assumption
    | with_reducible apply Keeps.sends | fail_if_no_progress with_reducible apply Keeps.update

theorem State.cutMove_keeps {pt : Parts} {a : State} (s : State) (x : Entry) (h : Keeps pt a s) (x_tiles : pt.tiles = false := by
    assumption) (x_mem : pt.mem = false := by assumption) (x_bad : pt.bad = false := by assumption) :
        Keeps pt a (State.cutMove s x) := by
  unfold State.cutMove
  try dsimp only
  repeat' first
    | with_reducible assumption | with_reducible apply KeepsR.next | with_reducible apply KeepsR.fault
    | with_reducible apply KeepsR.atPlace | with_reducible apply KeepsO.some | with_reducible apply KeepsO.none
    | with_reducible apply KeepsO.getD | with_reducible apply State.cutEffect_keeps | with_reducible apply Keeps.foldl
    | with_reducible apply Keeps.foldlFst | with_reducible apply Keeps.foldlSnd
    | ((with_reducible apply Same.mk) <;> first | exact no ‹_› | exact fun _ => rfl) | intro _ | split | assumption
    | with_reducible apply Keeps.sends | fail_if_no_progress with_reducible apply Keeps.update

theorem State.cutFetch_keeps {pt : Parts} {a : State} (s : State) (n : Nat) (x : Entry) (h : Keeps pt a s) (x_tiles : pt.tiles =
    false := by assumption) (x_mem : pt.mem = false := by assumption) (x_bad : pt.bad = false := by assumption) :
        Keeps pt a (State.cutFetch s n x) := by
  unfold State.cutFetch
  try dsimp only
  repeat' first
    | with_reducible assumption | with_reducible apply KeepsR.next | with_reducible apply KeepsR.fault
    | with_reducible apply KeepsR.atPlace | with_reducible apply KeepsO.some | with_reducible apply KeepsO.none
    | with_reducible apply KeepsO.getD | with_reducible apply State.cutEffect_keeps | with_reducible apply Keeps.foldl
    | with_reducible apply Keeps.foldlFst | with_reducible apply Keeps.foldlSnd
    | ((with_reducible apply Same.mk) <;> first | exact no ‹_› | exact fun _ => rfl) | intro _ | split | assumption
    | with_reducible apply Keeps.sends | fail_if_no_progress with_reducible apply Keeps.update

theorem State.cutEntry_keeps {pt : Parts} {a : State} (s : State) (n : Nat) (x : Entry) (h : Keeps pt a s) (x_tiles : pt.tiles =
    false := by assumption) (x_mem : pt.mem = false := by assumption) (x_bad : pt.bad = false := by assumption) :
        Keeps pt a (State.cutEntry s n x) := by
  unfold State.cutEntry
  try dsimp only
  repeat' first
    | with_reducible assumption | with_reducible apply KeepsR.next | with_reducible apply KeepsR.fault
    | with_reducible apply KeepsR.atPlace | with_reducible apply KeepsO.some | with_reducible apply KeepsO.none
    | with_reducible apply KeepsO.getD | with_reducible apply State.issued_keeps | with_reducible apply State.cutEffect_keeps
    | with_reducible apply State.cutMove_keeps | with_reducible apply State.cutFetch_keeps | with_reducible apply Keeps.foldl
    | with_reducible apply Keeps.foldlFst | with_reducible apply Keeps.foldlSnd
    | ((with_reducible apply Same.mk) <;> first | exact no ‹_› | exact fun _ => rfl) | intro _ | split | assumption
    | with_reducible apply Keeps.sends | fail_if_no_progress with_reducible apply Keeps.update

theorem State.cutTile_keeps {pt : Parts} {a : State} (s : State) (n : Nat) (h : Keeps pt a s) (x_tiles : pt.tiles = false := by
    assumption) (x_mem : pt.mem = false := by assumption) (x_bad : pt.bad = false := by assumption) :
        Keeps pt a (State.cutTile s n) := by
  unfold State.cutTile
  try dsimp only
  repeat' first
    | with_reducible assumption | with_reducible apply Keeps.elim | with_reducible apply KeepsR.next
    | with_reducible apply KeepsR.fault | with_reducible apply KeepsR.atPlace | with_reducible apply KeepsO.some
    | with_reducible apply KeepsO.none | with_reducible apply KeepsO.getD | with_reducible apply State.cutEntry_keeps
    | with_reducible apply Keeps.foldl | with_reducible apply Keeps.foldlFst | with_reducible apply Keeps.foldlSnd
    | ((with_reducible apply Same.mk) <;> first | exact no ‹_› | exact fun _ => rfl) | intro _ | split | assumption
    | with_reducible apply Keeps.sends | fail_if_no_progress with_reducible apply Keeps.update

theorem State.setResetting_keeps {pt : Parts} {a : State} (s : State) (c : Nat) (v : Bool) (h : Keeps pt a s) (x_teams : pt.teams
    = false := by assumption) :
        Keeps pt a (State.setResetting s c v) := by
  unfold State.setResetting
  try dsimp only
  repeat' first
    | with_reducible assumption | with_reducible apply KeepsR.next | with_reducible apply KeepsR.fault
    | with_reducible apply KeepsR.atPlace | with_reducible apply KeepsO.some | with_reducible apply KeepsO.none
    | with_reducible apply KeepsO.getD | with_reducible apply Keeps.foldl | with_reducible apply Keeps.foldlFst
    | with_reducible apply Keeps.foldlSnd | ((with_reducible apply Same.mk) <;> first | exact no ‹_› | exact fun _ => rfl)
    | intro _ | split | assumption | with_reducible apply Keeps.sends | fail_if_no_progress with_reducible apply Keeps.update

theorem State.destroyChans_keeps {pt : Parts} {a : State} (s : State) (c : Nat) (h : Keeps pt a s) (x_chans : pt.chans = false :=
    by assumption) :
        Keeps pt a (State.destroyChans s c) := by
  unfold State.destroyChans
  try dsimp only
  repeat' first
    | with_reducible assumption | with_reducible apply KeepsR.next | with_reducible apply KeepsR.fault
    | with_reducible apply KeepsR.atPlace | with_reducible apply KeepsO.some | with_reducible apply KeepsO.none
    | with_reducible apply KeepsO.getD | with_reducible apply Keeps.foldl | with_reducible apply Keeps.foldlFst
    | with_reducible apply Keeps.foldlSnd | ((with_reducible apply Same.mk) <;> first | exact no ‹_› | exact fun _ => rfl)
    | intro _ | split | assumption | with_reducible apply Keeps.sends | fail_if_no_progress with_reducible apply Keeps.update

theorem State.sendEpoch_keeps {pt : Parts} {a : State} (s : State) (c : Nat) (dev : Nat) (h : Keeps pt a s) (x_tiles : pt.tiles =
    false := by assumption) (x_trouble : pt.trouble = false := by assumption) (x_ports : pt.ports = false := by assumption)
    (x_fabric : pt.fabric = false := by assumption) :
        Keeps pt a (State.sendEpoch s c dev) := by
  unfold State.sendEpoch
  try dsimp only
  repeat' first
    | with_reducible assumption | with_reducible apply KeepsR.next | with_reducible apply KeepsR.fault
    | with_reducible apply KeepsR.atPlace | with_reducible apply KeepsO.some | with_reducible apply KeepsO.none
    | with_reducible apply KeepsO.getD | with_reducible apply State.fresh_keeps | with_reducible apply State.write_keeps
    | with_reducible apply State.route_keeps | with_reducible apply Keeps.foldl | with_reducible apply Keeps.foldlFst
    | with_reducible apply Keeps.foldlSnd | ((with_reducible apply Same.mk) <;> first | exact no ‹_› | exact fun _ => rfl)
    | intro _ | split | assumption | with_reducible apply Keeps.sends | fail_if_no_progress with_reducible apply Keeps.update

theorem State.beginReset_keeps {pt : Parts} {a : State} (s : State) (c : Nat) (h : Keeps pt a s) (x_tiles : pt.tiles = false := by
    assumption) (x_ctxs : pt.ctxs = false := by assumption) (x_teams : pt.teams = false := by assumption) (x_chans : pt.chans =
    false := by assumption) (x_mem : pt.mem = false := by assumption) (x_bad : pt.bad = false := by assumption) (x_trouble :
    pt.trouble = false := by assumption) (x_ports : pt.ports = false := by assumption) (x_fabric : pt.fabric = false := by
    assumption) :
        Keeps pt a (State.beginReset s c) := by
  unfold State.beginReset
  try dsimp only
  repeat' first
    | with_reducible assumption | with_reducible apply KeepsR.next | with_reducible apply KeepsR.fault
    | with_reducible apply KeepsR.atPlace | with_reducible apply KeepsO.some | with_reducible apply KeepsO.none
    | with_reducible apply KeepsO.getD | with_reducible apply State.modCtx_keeps | with_reducible apply State.cutTile_keeps
    | with_reducible apply State.setResetting_keeps | with_reducible apply State.destroyChans_keeps
    | with_reducible apply State.sendEpoch_keeps | with_reducible apply Keeps.foldl | with_reducible apply Keeps.foldlFst
    | with_reducible apply Keeps.foldlSnd | ((with_reducible apply Same.mk) <;> first | exact no ‹_› | exact fun _ => rfl)
    | intro _ | split | assumption | with_reducible apply Keeps.sends | fail_if_no_progress with_reducible apply Keeps.update

theorem execContextReset_keeps {pt : Parts} {a : State} (c : Nat) (s : State) (h : Keeps pt a s) (x_tiles : pt.tiles = false := by
    assumption) (x_ctxs : pt.ctxs = false := by assumption) (x_teams : pt.teams = false := by assumption) (x_chans : pt.chans =
    false := by assumption) (x_mem : pt.mem = false := by assumption) (x_bad : pt.bad = false := by assumption) (x_trouble :
    pt.trouble = false := by assumption) (x_ports : pt.ports = false := by assumption) (x_fabric : pt.fabric = false := by
    assumption) :
        KeepsR pt a (execContextReset c s) := by
  unfold execContextReset
  try dsimp only
  repeat' first
    | with_reducible assumption | with_reducible apply KeepsR.next | with_reducible apply KeepsR.fault
    | with_reducible apply KeepsR.atPlace | with_reducible apply KeepsO.some | with_reducible apply KeepsO.none
    | with_reducible apply KeepsO.getD | with_reducible apply State.beginReset_keeps | with_reducible apply Keeps.foldl
    | with_reducible apply Keeps.foldlFst | with_reducible apply Keeps.foldlSnd
    | ((with_reducible apply Same.mk) <;> first | exact no ‹_› | exact fun _ => rfl) | intro _ | split | assumption
    | with_reducible apply Keeps.sends | fail_if_no_progress with_reducible apply Keeps.update

theorem execQuiesceTimeout_keeps {pt : Parts} {a : State} (c : Nat) (unit : Nat) (s : State) (h : Keeps pt a s) (x_tiles :
    pt.tiles = false := by assumption) (x_ctxs : pt.ctxs = false := by assumption) (x_teams : pt.teams = false := by assumption)
    (x_trouble : pt.trouble = false := by assumption) (x_ports : pt.ports = false := by assumption) (x_fabric : pt.fabric = false
    := by assumption) :
        KeepsR pt a (execQuiesceTimeout c unit s) := by
  unfold execQuiesceTimeout
  split
  · split
    · exact .next h
    · split
      · refine .next ?_
        split
        · exact State.tileFault_keeps _ _ _ h
        · exact h
      · split <;> exact .next (State.deviceFault_keeps _ _ _ _ h)
  · exact .fault _

theorem execEpochAckTimeout_keeps {pt : Parts} {a : State} (c : Nat) (s : State) (h : Keeps pt a s) (x_ctxs : pt.ctxs = false :=
    by assumption) (x_trouble : pt.trouble = false := by assumption) (x_fabric : pt.fabric = false := by assumption) :
        KeepsR pt a (execEpochAckTimeout c s) := by
  unfold execEpochAckTimeout
  try dsimp only
  repeat' first
    | with_reducible assumption | with_reducible apply KeepsR.next | with_reducible apply KeepsR.fault
    | with_reducible apply KeepsR.atPlace | with_reducible apply KeepsO.some | with_reducible apply KeepsO.none
    | with_reducible apply KeepsO.getD | with_reducible apply State.modCtx_keeps | with_reducible apply State.teardown_keeps
    | with_reducible apply Keeps.foldl | with_reducible apply Keeps.foldlFst | with_reducible apply Keeps.foldlSnd
    | ((with_reducible apply Same.mk) <;> first | exact no ‹_› | exact fun _ => rfl) | intro _ | split | assumption
    | with_reducible apply Keeps.sends | fail_if_no_progress with_reducible apply Keeps.update

theorem State.clearShared_keeps {pt : Parts} {a : State} (s : State) (c : Nat) (h : Keeps pt a s) (x_teamCmds : pt.teamCmds =
    false := by assumption) (x_gtallies : pt.gtallies = false := by assumption) (x_huddles : pt.huddles = false := by assumption)
    (x_reds : pt.reds = false := by assumption) (x_pools : pt.pools = false := by assumption) (x_snaps : pt.snaps = false := by
    assumption) (x_fabric : pt.fabric = false := by assumption) :
        Keeps pt a (State.clearShared s c) := by
  unfold State.clearShared
  try dsimp only
  repeat' first
    | with_reducible assumption | with_reducible apply KeepsR.next | with_reducible apply KeepsR.fault
    | with_reducible apply KeepsR.atPlace | with_reducible apply KeepsO.some | with_reducible apply KeepsO.none
    | with_reducible apply KeepsO.getD | with_reducible apply State.write_keeps | with_reducible apply Keeps.foldl
    | with_reducible apply Keeps.foldlFst | with_reducible apply Keeps.foldlSnd
    | ((with_reducible apply Same.mk) <;> first | exact no ‹_› | exact fun _ => rfl) | intro _ | split | assumption
    | with_reducible apply Keeps.sends | fail_if_no_progress with_reducible apply Keeps.update

theorem State.destroyContext_keeps {pt : Parts} {a : State} (s : State) (c : Nat) (h : Keeps pt a s) (x_tiles : pt.tiles = false
    := by assumption) (x_ctxs : pt.ctxs = false := by assumption) (x_teams : pt.teams = false := by assumption) (x_huddles :
    pt.huddles = false := by assumption) :
        Keeps pt a (State.destroyContext s c) := by
  unfold State.destroyContext
  try dsimp only
  repeat' first
    | with_reducible assumption | with_reducible apply KeepsR.next | with_reducible apply KeepsR.fault
    | with_reducible apply KeepsR.atPlace | with_reducible apply KeepsO.some | with_reducible apply KeepsO.none
    | with_reducible apply KeepsO.getD | with_reducible apply State.modCtx_keeps | with_reducible apply State.gateArrays_keeps
    | with_reducible apply Keeps.foldl | with_reducible apply Keeps.foldlFst | with_reducible apply Keeps.foldlSnd
    | ((with_reducible apply Same.mk) <;> first | exact no ‹_› | exact fun _ => rfl) | intro _ | split | assumption
    | with_reducible apply Keeps.sends | fail_if_no_progress with_reducible apply Keeps.update

theorem State.endReset_keeps {pt : Parts} {a : State} (s : State) (c : Nat) (r : Resetting) (h : Keeps pt a s) (x_tiles : pt.tiles
    = false := by assumption) (x_ctxs : pt.ctxs = false := by assumption) (x_teams : pt.teams = false := by assumption)
    (x_teamCmds : pt.teamCmds = false := by assumption) (x_chans : pt.chans = false := by assumption) (x_mem : pt.mem = false :=
    by assumption) (x_bad : pt.bad = false := by assumption) (x_net : pt.net = false := by assumption) (x_gtallies : pt.gtallies =
    false := by assumption) (x_huddles : pt.huddles = false := by assumption) (x_reds : pt.reds = false := by assumption) (x_pools
    : pt.pools = false := by assumption) (x_snaps : pt.snaps = false := by assumption) (x_trouble : pt.trouble = false := by
    assumption) (x_ports : pt.ports = false := by assumption) (x_fabric : pt.fabric = false := by assumption) (x_camp : pt.camp =
    false := by assumption) (x_service : pt.service = false := by assumption) :
        Keeps pt a (State.endReset s c r) := by
  unfold State.endReset
  try dsimp only
  repeat' first
    | with_reducible assumption | with_reducible apply KeepsR.next | with_reducible apply KeepsR.fault
    | with_reducible apply KeepsR.atPlace | with_reducible apply KeepsO.some | with_reducible apply KeepsO.none
    | with_reducible apply KeepsO.getD | with_reducible apply State.modTile_keeps | with_reducible apply State.modCtx_keeps
    | with_reducible apply State.cycle_keeps | with_reducible apply State.alarm_keeps
    | with_reducible apply State.abandonJobs_keeps | with_reducible apply State.setResetting_keeps
    | with_reducible apply State.clearShared_keeps | with_reducible apply State.destroyContext_keeps
    | with_reducible apply Keeps.foldl | with_reducible apply Keeps.foldlFst | with_reducible apply Keeps.foldlSnd
    | ((with_reducible apply Same.mk) <;> first | exact no ‹_› | exact fun _ => rfl) | intro _ | split | assumption
    | with_reducible apply Keeps.sends | fail_if_no_progress with_reducible apply Keeps.update

theorem execQuiesceComplete_keeps {pt : Parts} {a : State} (c : Nat) (s : State) (h : Keeps pt a s) (x_tiles : pt.tiles = false :=
    by assumption) (x_ctxs : pt.ctxs = false := by assumption) (x_teams : pt.teams = false := by assumption) (x_teamCmds :
    pt.teamCmds = false := by assumption) (x_chans : pt.chans = false := by assumption) (x_mem : pt.mem = false := by assumption)
    (x_bad : pt.bad = false := by assumption) (x_net : pt.net = false := by assumption) (x_gtallies : pt.gtallies = false := by
    assumption) (x_huddles : pt.huddles = false := by assumption) (x_reds : pt.reds = false := by assumption) (x_pools : pt.pools
    = false := by assumption) (x_snaps : pt.snaps = false := by assumption) (x_trouble : pt.trouble = false := by assumption)
    (x_device : pt.device = false := by assumption) (x_ports : pt.ports = false := by assumption) (x_fabric : pt.fabric = false :=
    by assumption) (x_camp : pt.camp = false := by assumption) (x_fns : pt.fns = false := by assumption) (x_service : pt.service =
    false := by assumption) (x_power : pt.power = false := by assumption) (x_trust : pt.trust = false := by assumption) :
        KeepsR pt a (execQuiesceComplete c s) := by
  unfold execQuiesceComplete
  try dsimp only
  repeat' first
    | with_reducible assumption | with_reducible apply KeepsR.next | with_reducible apply KeepsR.fault
    | with_reducible apply KeepsR.atPlace | with_reducible apply KeepsO.some | with_reducible apply KeepsO.none
    | with_reducible apply KeepsO.getD | with_reducible apply State.settleRestart_keeps
    | with_reducible apply State.endReset_keeps | with_reducible apply Keeps.foldl | with_reducible apply Keeps.foldlFst
    | with_reducible apply Keeps.foldlSnd | ((with_reducible apply Same.mk) <;> first | exact no ‹_› | exact fun _ => rfl)
    | intro _ | split | assumption | with_reducible apply Keeps.sends | fail_if_no_progress with_reducible apply Keeps.update

end Sys2Proof.Machine
end

