-- ==== Sys2Proof/Laws/KeepPower.lean ====
section
/-!
SUPPORT. What the operations of Machine/Power.lean keep (Laws/Keeps.lean).
-/
namespace Sys2Proof.Machine

set_option linter.unusedTactic false
set_option linter.unreachableTactic false
set_option Elab.async false

theorem State.loseAll_keeps {pt : Parts} {a : State} (s : State) (h : Keeps pt a s) (x_tiles : pt.tiles = false := by assumption)
    (x_ctxs : pt.ctxs = false := by assumption) (x_teams : pt.teams = false := by assumption) (x_teamCmds : pt.teamCmds = false :=
    by assumption) (x_chans : pt.chans = false := by assumption) (x_mem : pt.mem = false := by assumption) (x_bad : pt.bad = false
    := by assumption) (x_net : pt.net = false := by assumption) (x_gtallies : pt.gtallies = false := by assumption) (x_huddles :
    pt.huddles = false := by assumption) (x_reds : pt.reds = false := by assumption) (x_pools : pt.pools = false := by assumption)
    (x_snaps : pt.snaps = false := by assumption) (x_trouble : pt.trouble = false := by assumption) (x_device : pt.device = false
    := by assumption) (x_ports : pt.ports = false := by assumption) (x_fabric : pt.fabric = false := by assumption) (x_sent :
    pt.sent = false := by assumption) (x_camp : pt.camp = false := by assumption) (x_fns : pt.fns = false := by assumption)
    (x_service : pt.service = false := by assumption) (x_power : pt.power = false := by assumption) (x_trust : pt.trust = false :=
    by assumption) (x_panel : pt.panel = false := by assumption) :
        Keeps pt a (State.loseAll s) := by
  refine h.trans ⟨rfl, fun _ => rfl, fun k => ?_, ⟨[], rfl⟩, fun _ => Nat.zero_le _, by
    constructor <;> first | exact no ‹_› | exact fun _ => rfl⟩
  show (lget s.trust.kinds k {}).fused ≤ (lget (s.trust.kinds.map fun (k : Kind) => ({ k with running := none } : Kind)) k {}).fused
  simp only [lget, List.getD_eq_getElem?_getD, List.getElem?_map]
  cases s.trust.kinds[k]? <;> exact Nat.le_refl _

theorem State.powerEvent_keeps {pt : Parts} {a : State} (s : State) (cause : Nat) (h : Keeps pt a s) (x_power : pt.power = false
    := by assumption) :
        Keeps pt a (State.powerEvent s cause) := by
  unfold State.powerEvent
  try dsimp only
  repeat' first
    | with_reducible assumption | with_reducible apply KeepsR.next | with_reducible apply KeepsR.fault
    | with_reducible apply KeepsR.atPlace | with_reducible apply KeepsO.some | with_reducible apply KeepsO.none
    | with_reducible apply KeepsO.getD | with_reducible apply State.modPower_keeps | with_reducible apply Keeps.foldl
    | with_reducible apply Keeps.foldlFst | with_reducible apply Keeps.foldlSnd
    | ((with_reducible apply Same.mk) <;> first | exact no ‹_› | exact fun _ => rfl) | intro _ | split | assumption
    | with_reducible apply Keeps.sends | fail_if_no_progress with_reducible apply Keeps.update | exact ⟨fun _ hp => hp⟩
    | exact ⟨fun p hp => by dsimp only; repeat' (first | exact hp | omega | split)⟩

theorem State.rideMove_keeps {pt : Parts} {a : State} (s : State) (x : Entry) (h : Keeps pt a s) (x_tiles : pt.tiles = false := by
    assumption) (x_mem : pt.mem = false := by assumption) (x_bad : pt.bad = false := by assumption) :
        Keeps pt a (State.rideMove s x) := by
  unfold State.rideMove
  try dsimp only
  repeat' first
    | with_reducible assumption | with_reducible apply KeepsR.next | with_reducible apply KeepsR.fault
    | with_reducible apply KeepsR.atPlace | with_reducible apply KeepsO.some | with_reducible apply KeepsO.none
    | with_reducible apply KeepsO.getD | with_reducible apply State.storeBytes_keeps | with_reducible apply State.issued_keeps
    | with_reducible apply Keeps.foldl | with_reducible apply Keeps.foldlFst | with_reducible apply Keeps.foldlSnd
    | ((with_reducible apply Same.mk) <;> first | exact no ‹_› | exact fun _ => rfl) | intro _ | split | assumption
    | with_reducible apply Keeps.sends | fail_if_no_progress with_reducible apply Keeps.update

theorem State.notice_keeps {pt : Parts} {a : State} (s : State) (p : Nat) (h : Keeps pt a s) (x_ports : pt.ports = false := by
    assumption) (x_sent : pt.sent = false := by assumption) :
        Keeps pt a (State.notice s p) := by
  unfold State.notice
  try dsimp only
  repeat' first
    | with_reducible assumption | with_reducible apply KeepsR.next | with_reducible apply KeepsR.fault
    | with_reducible apply KeepsR.atPlace | with_reducible apply KeepsO.some | with_reducible apply KeepsO.none
    | with_reducible apply KeepsO.getD | with_reducible apply State.emit_keeps | with_reducible apply Keeps.foldl
    | with_reducible apply Keeps.foldlFst | with_reducible apply Keeps.foldlSnd
    | ((with_reducible apply Same.mk) <;> first | exact no ‹_› | exact fun _ => rfl) | intro _ | split | assumption
    | with_reducible apply Keeps.sends | fail_if_no_progress with_reducible apply Keeps.update

theorem State.startRide_keeps {pt : Parts} {a : State} (s : State) (cause : Nat) (h : Keeps pt a s) (x_tiles : pt.tiles = false :=
    by assumption) (x_mem : pt.mem = false := by assumption) (x_bad : pt.bad = false := by assumption) (x_ports : pt.ports = false
    := by assumption) (x_sent : pt.sent = false := by assumption) (x_power : pt.power = false := by assumption) :
        Keeps pt a (State.startRide s cause) := by
  unfold State.startRide
  try dsimp only
  refine State.modPower_keeps _ _ (State.powerEvent_keeps _ _ (Keeps.foldl (Keeps.foldl h _ fun t x ht => ?_) _ fun t p ht => ?_))
    ⟨fun _ _ => by dsimp only; omega⟩
  · exact Keeps.foldl ht _ fun t x ht => State.rideMove_keeps _ _ ht
  · exact State.notice_keeps _ _ ht

theorem State.resume_keeps {pt : Parts} {a : State} (s : State) (h : Keeps pt a s) (x_tiles : pt.tiles = false := by assumption)
    (x_ctxs : pt.ctxs = false := by assumption) (x_teams : pt.teams = false := by assumption) (x_teamCmds : pt.teamCmds = false :=
    by assumption) (x_chans : pt.chans = false := by assumption) (x_mem : pt.mem = false := by assumption) (x_bad : pt.bad = false
    := by assumption) (x_net : pt.net = false := by assumption) (x_gtallies : pt.gtallies = false := by assumption) (x_huddles :
    pt.huddles = false := by assumption) (x_reds : pt.reds = false := by assumption) (x_pools : pt.pools = false := by assumption)
    (x_snaps : pt.snaps = false := by assumption) (x_trouble : pt.trouble = false := by assumption) (x_device : pt.device = false
    := by assumption) (x_ports : pt.ports = false := by assumption) (x_fabric : pt.fabric = false := by assumption) (x_camp :
    pt.camp = false := by assumption) (x_fns : pt.fns = false := by assumption) (x_service : pt.service = false := by assumption)
    (x_power : pt.power = false := by assumption) :
        Keeps pt a (State.resume s) := by
  unfold State.resume
  try dsimp only
  repeat' first
    | with_reducible assumption | with_reducible apply KeepsR.next | with_reducible apply KeepsR.fault
    | with_reducible apply KeepsR.atPlace | with_reducible apply KeepsO.some | with_reducible apply KeepsO.none
    | with_reducible apply KeepsO.getD | with_reducible apply State.free_keeps | with_reducible apply State.modPower_keeps
    | with_reducible apply State.stopped_keeps | with_reducible apply State.startBringup_keeps | with_reducible apply Keeps.foldl
    | with_reducible apply Keeps.foldlFst | with_reducible apply Keeps.foldlSnd
    | ((with_reducible apply Same.mk) <;> first | exact no ‹_› | exact fun _ => rfl) | intro _ | split | assumption
    | with_reducible apply Keeps.sends | fail_if_no_progress with_reducible apply Keeps.update | exact ⟨fun _ hp => hp⟩
    | exact ⟨fun p hp => by dsimp only; repeat' (first | exact hp | omega | split)⟩

theorem State.holdLost_keeps {pt : Parts} {a : State} (s : State) (h : Keeps pt a s) (x_tiles : pt.tiles = false := by assumption)
    (x_ctxs : pt.ctxs = false := by assumption) (x_teams : pt.teams = false := by assumption) (x_teamCmds : pt.teamCmds = false :=
    by assumption) (x_chans : pt.chans = false := by assumption) (x_mem : pt.mem = false := by assumption) (x_bad : pt.bad = false
    := by assumption) (x_net : pt.net = false := by assumption) (x_gtallies : pt.gtallies = false := by assumption) (x_huddles :
    pt.huddles = false := by assumption) (x_reds : pt.reds = false := by assumption) (x_pools : pt.pools = false := by assumption)
    (x_snaps : pt.snaps = false := by assumption) (x_trouble : pt.trouble = false := by assumption) (x_device : pt.device = false
    := by assumption) (x_ports : pt.ports = false := by assumption) (x_fabric : pt.fabric = false := by assumption) (x_camp :
    pt.camp = false := by assumption) (x_fns : pt.fns = false := by assumption) (x_service : pt.service = false := by assumption)
    (x_power : pt.power = false := by assumption) :
        Keeps pt a (State.holdLost s) := by
  unfold State.holdLost
  try dsimp only
  repeat' first
    | with_reducible assumption | with_reducible apply KeepsR.next | with_reducible apply KeepsR.fault
    | with_reducible apply KeepsR.atPlace | with_reducible apply KeepsO.some | with_reducible apply KeepsO.none
    | with_reducible apply KeepsO.getD | with_reducible apply State.modPower_keeps | with_reducible apply State.stopped_keeps
    | with_reducible apply State.memoryLost_keeps | with_reducible apply State.powerEvent_keeps
    | with_reducible apply State.resume_keeps | with_reducible apply Keeps.foldl | with_reducible apply Keeps.foldlFst
    | with_reducible apply Keeps.foldlSnd | ((with_reducible apply Same.mk) <;> first | exact no ‹_› | exact fun _ => rfl)
    | intro _ | split | assumption | with_reducible apply Keeps.sends | fail_if_no_progress with_reducible apply Keeps.update
    | exact ⟨fun _ hp => hp⟩ | exact ⟨fun p hp => by dsimp only; repeat' (first | exact hp | omega | split)⟩

theorem execRideThroughStep_keeps {pt : Parts} {a : State} (s : State) (h : Keeps pt a s) (x_tiles : pt.tiles = false := by
    assumption) (x_ctxs : pt.ctxs = false := by assumption) (x_teams : pt.teams = false := by assumption) (x_teamCmds :
    pt.teamCmds = false := by assumption) (x_chans : pt.chans = false := by assumption) (x_mem : pt.mem = false := by assumption)
    (x_bad : pt.bad = false := by assumption) (x_net : pt.net = false := by assumption) (x_gtallies : pt.gtallies = false := by
    assumption) (x_huddles : pt.huddles = false := by assumption) (x_reds : pt.reds = false := by assumption) (x_pools : pt.pools
    = false := by assumption) (x_snaps : pt.snaps = false := by assumption) (x_trouble : pt.trouble = false := by assumption)
    (x_device : pt.device = false := by assumption) (x_ports : pt.ports = false := by assumption) (x_fabric : pt.fabric = false :=
    by assumption) (x_camp : pt.camp = false := by assumption) (x_fns : pt.fns = false := by assumption) (x_service : pt.service =
    false := by assumption) (x_power : pt.power = false := by assumption) :
        KeepsR pt a (execRideThroughStep s) := by
  unfold execRideThroughStep
  try dsimp only
  repeat' first
    | with_reducible assumption | with_reducible apply KeepsR.next | with_reducible apply KeepsR.fault
    | with_reducible apply KeepsR.atPlace | with_reducible apply KeepsO.some | with_reducible apply KeepsO.none
    | with_reducible apply KeepsO.getD | with_reducible apply State.modPower_keeps | with_reducible apply State.clearDies_keeps
    | with_reducible apply State.clearStores_keeps | with_reducible apply State.resume_keeps
    | with_reducible apply State.holdLost_keeps | with_reducible apply Keeps.foldl | with_reducible apply Keeps.foldlFst
    | with_reducible apply Keeps.foldlSnd | ((with_reducible apply Same.mk) <;> first | exact no ‹_› | exact fun _ => rfl)
    | intro _ | split | assumption | with_reducible apply Keeps.sends | fail_if_no_progress with_reducible apply Keeps.update
    | exact ⟨fun _ hp => hp⟩ | exact ⟨fun p hp => by dsimp only; repeat' (first | exact hp | omega | split)⟩

theorem execHoldLimit_keeps {pt : Parts} {a : State} (s : State) (h : Keeps pt a s) (x_tiles : pt.tiles = false := by assumption)
    (x_ctxs : pt.ctxs = false := by assumption) (x_teams : pt.teams = false := by assumption) (x_teamCmds : pt.teamCmds = false :=
    by assumption) (x_chans : pt.chans = false := by assumption) (x_mem : pt.mem = false := by assumption) (x_bad : pt.bad = false
    := by assumption) (x_net : pt.net = false := by assumption) (x_gtallies : pt.gtallies = false := by assumption) (x_huddles :
    pt.huddles = false := by assumption) (x_reds : pt.reds = false := by assumption) (x_pools : pt.pools = false := by assumption)
    (x_snaps : pt.snaps = false := by assumption) (x_trouble : pt.trouble = false := by assumption) (x_device : pt.device = false
    := by assumption) (x_ports : pt.ports = false := by assumption) (x_fabric : pt.fabric = false := by assumption) (x_fns :
    pt.fns = false := by assumption) (x_service : pt.service = false := by assumption) (x_power : pt.power = false := by
    assumption) :
        KeepsR pt a (execHoldLimit s) := by
  unfold execHoldLimit
  refine .next ?_
  split
  · exact State.stopped_keeps _ (State.modPower_keeps _ _ (State.memoryLost_keeps _ h) ⟨fun _ hp => hp⟩)
  · exact h

theorem State.showBackup_keeps {pt : Parts} {a : State} (s : State) (h : Keeps pt a s) (x_power : pt.power = false := by
    assumption) :
        Keeps pt a (State.showBackup s) := by
  unfold State.showBackup
  try dsimp only
  repeat' first
    | with_reducible assumption | with_reducible apply KeepsR.next | with_reducible apply KeepsR.fault
    | with_reducible apply KeepsR.atPlace | with_reducible apply KeepsO.some | with_reducible apply KeepsO.none
    | with_reducible apply KeepsO.getD | with_reducible apply State.modPower_keeps | with_reducible apply Keeps.foldl
    | with_reducible apply Keeps.foldlFst | with_reducible apply Keeps.foldlSnd
    | ((with_reducible apply Same.mk) <;> first | exact no ‹_› | exact fun _ => rfl) | intro _ | split | assumption
    | with_reducible apply Keeps.sends | fail_if_no_progress with_reducible apply Keeps.update | exact ⟨fun _ hp => hp⟩
    | exact ⟨fun p hp => by dsimp only; repeat' (first | exact hp | omega | split)⟩

theorem execMainGood_keeps {pt : Parts} {a : State} (s : State) (h : Keeps pt a s) (x_tiles : pt.tiles = false := by assumption)
    (x_ctxs : pt.ctxs = false := by assumption) (x_teams : pt.teams = false := by assumption) (x_teamCmds : pt.teamCmds = false :=
    by assumption) (x_chans : pt.chans = false := by assumption) (x_mem : pt.mem = false := by assumption) (x_bad : pt.bad = false
    := by assumption) (x_net : pt.net = false := by assumption) (x_gtallies : pt.gtallies = false := by assumption) (x_huddles :
    pt.huddles = false := by assumption) (x_reds : pt.reds = false := by assumption) (x_pools : pt.pools = false := by assumption)
    (x_snaps : pt.snaps = false := by assumption) (x_trouble : pt.trouble = false := by assumption) (x_device : pt.device = false
    := by assumption) (x_ports : pt.ports = false := by assumption) (x_fabric : pt.fabric = false := by assumption) (x_camp :
    pt.camp = false := by assumption) (x_fns : pt.fns = false := by assumption) (x_service : pt.service = false := by assumption)
    (x_power : pt.power = false := by assumption) (x_trust : pt.trust = false := by assumption) :
        KeepsR pt a (execMainGood s) := by
  unfold execMainGood
  try dsimp only
  repeat' first
    | with_reducible assumption | with_reducible apply KeepsR.next | with_reducible apply KeepsR.fault
    | with_reducible apply KeepsR.atPlace | with_reducible apply KeepsO.some | with_reducible apply KeepsO.none
    | with_reducible apply KeepsO.getD | with_reducible apply State.modPower_keeps
    | with_reducible apply State.startBringup_keeps | with_reducible apply State.startCamp_keeps
    | with_reducible apply State.resume_keeps | with_reducible apply State.showBackup_keeps | with_reducible apply Keeps.foldl
    | with_reducible apply Keeps.foldlFst | with_reducible apply Keeps.foldlSnd
    | ((with_reducible apply Same.mk) <;> first | exact no ‹_› | exact fun _ => rfl) | intro _ | split | assumption
    | with_reducible apply Keeps.sends | fail_if_no_progress with_reducible apply Keeps.update | exact ⟨fun _ hp => hp⟩
    | exact ⟨fun p hp => by dsimp only; repeat' (first | exact hp | omega | split)⟩

theorem execMainFail_keeps {pt : Parts} {a : State} (overvoltage : Bool) (s : State) (h : Keeps pt a s) (x_tiles : pt.tiles =
    false := by assumption) (x_ctxs : pt.ctxs = false := by assumption) (x_teams : pt.teams = false := by assumption) (x_teamCmds
    : pt.teamCmds = false := by assumption) (x_chans : pt.chans = false := by assumption) (x_mem : pt.mem = false := by
    assumption) (x_bad : pt.bad = false := by assumption) (x_net : pt.net = false := by assumption) (x_gtallies : pt.gtallies =
    false := by assumption) (x_huddles : pt.huddles = false := by assumption) (x_reds : pt.reds = false := by assumption) (x_pools
    : pt.pools = false := by assumption) (x_snaps : pt.snaps = false := by assumption) (x_trouble : pt.trouble = false := by
    assumption) (x_device : pt.device = false := by assumption) (x_ports : pt.ports = false := by assumption) (x_fabric :
    pt.fabric = false := by assumption) (x_sent : pt.sent = false := by assumption) (x_camp : pt.camp = false := by assumption)
    (x_fns : pt.fns = false := by assumption) (x_service : pt.service = false := by assumption) (x_power : pt.power = false := by
    assumption) (x_trust : pt.trust = false := by assumption) (x_panel : pt.panel = false := by assumption) :
        KeepsR pt a (execMainFail overvoltage s) := by
  unfold execMainFail
  refine .next ?_
  have h1 : Keeps pt a (s.modPower fun p => { p with mainOk := false }) := State.modPower_keeps _ _ h ⟨fun _ hp => hp⟩
  split
  · exact h
  · split
    · exact State.loseAll_keeps _ h
    · generalize (s.modPower fun p => { p with mainOk := false }) = t at h1
      dsimp only
      split
      · exact State.startRide_keeps _ _ h1
      · exact h1

theorem execMainExcursion_keeps {pt : Parts} {a : State} (s : State) (h : Keeps pt a s) (x_power : pt.power = false := by
    assumption) :
        KeepsR pt a (execMainExcursion s) := by
  unfold execMainExcursion
  try dsimp only
  repeat' first
    | with_reducible assumption | with_reducible apply KeepsR.next | with_reducible apply KeepsR.fault
    | with_reducible apply KeepsR.atPlace | with_reducible apply KeepsO.some | with_reducible apply KeepsO.none
    | with_reducible apply KeepsO.getD | with_reducible apply State.modPower_keeps | with_reducible apply Keeps.foldl
    | with_reducible apply Keeps.foldlFst | with_reducible apply Keeps.foldlSnd
    | ((with_reducible apply Same.mk) <;> first | exact no ‹_› | exact fun _ => rfl) | intro _ | split | assumption
    | with_reducible apply Keeps.sends | fail_if_no_progress with_reducible apply Keeps.update | exact ⟨fun _ hp => hp⟩
    | exact ⟨fun p hp => by dsimp only; repeat' (first | exact hp | omega | split)⟩

theorem execBackupGood_keeps {pt : Parts} {a : State} (s : State) (h : Keeps pt a s) (x_power : pt.power = false := by assumption)
    (x_trust : pt.trust = false := by assumption) :
        KeepsR pt a (execBackupGood s) := by
  unfold execBackupGood
  try dsimp only
  repeat' first
    | with_reducible assumption | with_reducible apply KeepsR.next | with_reducible apply KeepsR.fault
    | with_reducible apply KeepsR.atPlace | with_reducible apply KeepsO.some | with_reducible apply KeepsO.none
    | with_reducible apply KeepsO.getD | with_reducible apply State.modPower_keeps | with_reducible apply State.startCamp_keeps
    | with_reducible apply Keeps.foldl | with_reducible apply Keeps.foldlFst | with_reducible apply Keeps.foldlSnd
    | ((with_reducible apply Same.mk) <;> first | exact no ‹_› | exact fun _ => rfl) | intro _ | split | assumption
    | with_reducible apply Keeps.sends | fail_if_no_progress with_reducible apply Keeps.update | exact ⟨fun _ hp => hp⟩
    | exact ⟨fun p hp => by dsimp only; repeat' (first | exact hp | omega | split)⟩

theorem execBackupFail_keeps {pt : Parts} {a : State} (s : State) (h : Keeps pt a s) (x_tiles : pt.tiles = false := by assumption)
    (x_ctxs : pt.ctxs = false := by assumption) (x_teams : pt.teams = false := by assumption) (x_teamCmds : pt.teamCmds = false :=
    by assumption) (x_chans : pt.chans = false := by assumption) (x_mem : pt.mem = false := by assumption) (x_bad : pt.bad = false
    := by assumption) (x_net : pt.net = false := by assumption) (x_gtallies : pt.gtallies = false := by assumption) (x_huddles :
    pt.huddles = false := by assumption) (x_reds : pt.reds = false := by assumption) (x_pools : pt.pools = false := by assumption)
    (x_snaps : pt.snaps = false := by assumption) (x_trouble : pt.trouble = false := by assumption) (x_device : pt.device = false
    := by assumption) (x_ports : pt.ports = false := by assumption) (x_fabric : pt.fabric = false := by assumption) (x_sent :
    pt.sent = false := by assumption) (x_camp : pt.camp = false := by assumption) (x_fns : pt.fns = false := by assumption)
    (x_service : pt.service = false := by assumption) (x_power : pt.power = false := by assumption) (x_trust : pt.trust = false :=
    by assumption) (x_panel : pt.panel = false := by assumption) :
        KeepsR pt a (execBackupFail s) := by
  unfold execBackupFail
  try dsimp only
  repeat' first
    | with_reducible assumption | with_reducible apply KeepsR.next | with_reducible apply KeepsR.fault
    | with_reducible apply KeepsR.atPlace | with_reducible apply KeepsO.some | with_reducible apply KeepsO.none
    | with_reducible apply KeepsO.getD | with_reducible apply State.modPower_keeps | with_reducible apply State.loseAll_keeps
    | with_reducible apply State.holdLost_keeps | with_reducible apply State.showBackup_keeps | with_reducible apply Keeps.foldl
    | with_reducible apply Keeps.foldlFst | with_reducible apply Keeps.foldlSnd
    | ((with_reducible apply Same.mk) <;> first | exact no ‹_› | exact fun _ => rfl) | intro _ | split | assumption
    | with_reducible apply Keeps.sends | fail_if_no_progress with_reducible apply Keeps.update | exact ⟨fun _ hp => hp⟩
    | exact ⟨fun p hp => by dsimp only; repeat' (first | exact hp | omega | split)⟩

theorem execPowerUpSlot_keeps {pt : Parts} {a : State} (s : State) (h : Keeps pt a s) (x_power : pt.power = false := by
    assumption) :
        KeepsR pt a (execPowerUpSlot s) := by
  unfold execPowerUpSlot
  try dsimp only
  repeat' first
    | with_reducible assumption | with_reducible apply KeepsR.next | with_reducible apply KeepsR.fault
    | with_reducible apply KeepsR.atPlace | with_reducible apply KeepsO.some | with_reducible apply KeepsO.none
    | with_reducible apply KeepsO.getD | with_reducible apply State.modPower_keeps | with_reducible apply Keeps.foldl
    | with_reducible apply Keeps.foldlFst | with_reducible apply Keeps.foldlSnd
    | ((with_reducible apply Same.mk) <;> first | exact no ‹_› | exact fun _ => rfl) | intro _ | split | assumption
    | with_reducible apply Keeps.sends | fail_if_no_progress with_reducible apply Keeps.update | exact ⟨fun _ hp => hp⟩
    | exact ⟨fun p hp => by dsimp only; repeat' (first | exact hp | omega | split)⟩

theorem execRailFault_keeps {pt : Parts} {a : State} (rail : Nat) (s : State) (h : Keeps pt a s) (x_tiles : pt.tiles = false := by
    assumption) (x_ctxs : pt.ctxs = false := by assumption) (x_teams : pt.teams = false := by assumption) (x_teamCmds :
    pt.teamCmds = false := by assumption) (x_chans : pt.chans = false := by assumption) (x_mem : pt.mem = false := by assumption)
    (x_bad : pt.bad = false := by assumption) (x_net : pt.net = false := by assumption) (x_gtallies : pt.gtallies = false := by
    assumption) (x_huddles : pt.huddles = false := by assumption) (x_reds : pt.reds = false := by assumption) (x_pools : pt.pools
    = false := by assumption) (x_snaps : pt.snaps = false := by assumption) (x_trouble : pt.trouble = false := by assumption)
    (x_device : pt.device = false := by assumption) (x_ports : pt.ports = false := by assumption) (x_fabric : pt.fabric = false :=
    by assumption) (x_fns : pt.fns = false := by assumption) (x_service : pt.service = false := by assumption) (x_power : pt.power
    = false := by assumption) :
        KeepsR pt a (execRailFault rail s) := by
  unfold execRailFault
  try dsimp only
  repeat' first
    | with_reducible assumption | with_reducible apply KeepsR.next | with_reducible apply KeepsR.fault
    | with_reducible apply KeepsR.atPlace | with_reducible apply KeepsO.some | with_reducible apply KeepsO.none
    | with_reducible apply KeepsO.getD | with_reducible apply State.modPower_keeps | with_reducible apply State.stopped_keeps
    | with_reducible apply State.powerEvent_keeps | with_reducible apply Keeps.foldl | with_reducible apply Keeps.foldlFst
    | with_reducible apply Keeps.foldlSnd | ((with_reducible apply Same.mk) <;> first | exact no ‹_› | exact fun _ => rfl)
    | intro _ | split | assumption | with_reducible apply Keeps.sends | fail_if_no_progress with_reducible apply Keeps.update
    | exact ⟨fun _ hp => hp⟩ | exact ⟨fun p hp => by dsimp only; repeat' (first | exact hp | omega | split)⟩

theorem execPowerControlTick_keeps {pt : Parts} {a : State} (w : Nat) (s : State) (h : Keeps pt a s) (x_power : pt.power = false
    := by assumption) :
        KeepsR pt a (execPowerControlTick w s) := by
  have key : ∀ (p : Power) (w : Nat), (p.control w).state = p.state := by
    have hf : ∀ p : Power, p.follow.state = p.state := by
      intro p
      unfold Power.follow
      split
      · rfl
      · split <;> rfl
    have hl : ∀ p : Power, p.allLower.state = p.state := by
      intro p
      unfold Power.allLower
      generalize List.map p.lower _ = l
      rfl
    have hr : ∀ p : Power, p.allRaise.state = p.state := by
      intro p
      unfold Power.allRaise
      generalize List.map _ _ = l
      rfl
    intro p w
    unfold Power.control
    split
    · extract_lets p1
      split
      · rfl
      · exact hl _
    · split
      · extract_lets p1
        split
        · exact hr _
        · exact hf _
      · exact hf _
  unfold execPowerControlTick
  refine .next ?_
  split
  · refine State.modPower_keeps _ _ h ⟨fun p hp => ?_⟩
    dsimp only
    split
    · rw [key]
      exact hp
    · exact hp
  · exact h

theorem execThermalSample_keeps {pt : Parts} {a : State} (temps : List (Nat × Int)) (s : State) (h : Keeps pt a s) (x_tiles :
    pt.tiles = false := by assumption) (x_ctxs : pt.ctxs = false := by assumption) (x_teams : pt.teams = false := by assumption)
    (x_teamCmds : pt.teamCmds = false := by assumption) (x_chans : pt.chans = false := by assumption) (x_mem : pt.mem = false :=
    by assumption) (x_bad : pt.bad = false := by assumption) (x_net : pt.net = false := by assumption) (x_gtallies : pt.gtallies =
    false := by assumption) (x_huddles : pt.huddles = false := by assumption) (x_reds : pt.reds = false := by assumption) (x_pools
    : pt.pools = false := by assumption) (x_snaps : pt.snaps = false := by assumption) (x_trouble : pt.trouble = false := by
    assumption) (x_device : pt.device = false := by assumption) (x_ports : pt.ports = false := by assumption) (x_fabric :
    pt.fabric = false := by assumption) (x_sent : pt.sent = false := by assumption) (x_camp : pt.camp = false := by assumption)
    (x_fns : pt.fns = false := by assumption) (x_service : pt.service = false := by assumption) (x_power : pt.power = false := by
    assumption) :
        KeepsR pt a (execThermalSample temps s) := by
  have hs : ∀ (p : Power) (l : List (Nat × Int)), (l.foldl Power.sample p).state = p.state := by
    intro p l
    induction l generalizing p with
    | nil => rfl
    | cons t l ih =>
      rw [List.foldl_cons, ih]
      unfold Power.sample Power.throttle
      try dsimp only
      repeat' first | rfl | split
  have h1 := State.modPower_keeps s (fun p => temps.foldl Power.sample p) h ⟨fun p hp => by rw [hs]; exact hp⟩
  unfold execThermalSample
  try dsimp only
  split
  · refine .next ?_
    split
    · exact h
    · split
      · exact State.modPower_keeps _ _ (State.startRide_keeps _ _ h1) ⟨fun _ hp => hp⟩
      · exact State.resume_keeps _ h1
  · exact .fault _

theorem execIslandFreqStep_keeps {pt : Parts} {a : State} (n : Nat) (up : Bool) (s : State) (h : Keeps pt a s) (x_power : pt.power
    = false := by assumption) :
        KeepsR pt a (execIslandFreqStep n up s) := by
  unfold execIslandFreqStep
  try dsimp only
  repeat' first
    | with_reducible assumption | with_reducible apply KeepsR.next | with_reducible apply KeepsR.fault
    | with_reducible apply KeepsR.atPlace | with_reducible apply KeepsO.some | with_reducible apply KeepsO.none
    | with_reducible apply KeepsO.getD | with_reducible apply State.modPower_keeps | with_reducible apply Keeps.foldl
    | with_reducible apply Keeps.foldlFst | with_reducible apply Keeps.foldlSnd
    | ((with_reducible apply Same.mk) <;> first | exact no ‹_› | exact fun _ => rfl) | intro _ | split | assumption
    | with_reducible apply Keeps.sends | fail_if_no_progress with_reducible apply Keeps.update | exact ⟨fun _ hp => hp⟩
    | exact ⟨fun p hp => by dsimp only; repeat' (first | exact hp | omega | split)⟩

theorem execSupplyDroop_keeps {pt : Parts} {a : State} (n : Nat) (s : State) (h : Keeps pt a s) (x_power : pt.power = false := by
    assumption) :
        KeepsR pt a (execSupplyDroop n s) := by
  unfold execSupplyDroop
  try dsimp only
  repeat' first
    | with_reducible assumption | with_reducible apply KeepsR.next | with_reducible apply KeepsR.fault
    | with_reducible apply KeepsR.atPlace | with_reducible apply KeepsO.some | with_reducible apply KeepsO.none
    | with_reducible apply KeepsO.getD | with_reducible apply State.modPower_keeps | with_reducible apply Keeps.foldl
    | with_reducible apply Keeps.foldlFst | with_reducible apply Keeps.foldlSnd
    | ((with_reducible apply Same.mk) <;> first | exact no ‹_› | exact fun _ => rfl) | intro _ | split | assumption
    | with_reducible apply Keeps.sends | fail_if_no_progress with_reducible apply Keeps.update | exact ⟨fun _ hp => hp⟩
    | exact ⟨fun p hp => by dsimp only; repeat' (first | exact hp | omega | split)⟩

theorem execDroopRecover_keeps {pt : Parts} {a : State} (n : Nat) (s : State) (h : Keeps pt a s) (x_power : pt.power = false := by
    assumption) :
        KeepsR pt a (execDroopRecover n s) := by
  unfold execDroopRecover
  try dsimp only
  repeat' first
    | with_reducible assumption | with_reducible apply KeepsR.next | with_reducible apply KeepsR.fault
    | with_reducible apply KeepsR.atPlace | with_reducible apply KeepsO.some | with_reducible apply KeepsO.none
    | with_reducible apply KeepsO.getD | with_reducible apply State.modPower_keeps | with_reducible apply Keeps.foldl
    | with_reducible apply Keeps.foldlFst | with_reducible apply Keeps.foldlSnd
    | ((with_reducible apply Same.mk) <;> first | exact no ‹_› | exact fun _ => rfl) | intro _ | split | assumption
    | with_reducible apply Keeps.sends | fail_if_no_progress with_reducible apply Keeps.update | exact ⟨fun _ hp => hp⟩
    | exact ⟨fun p hp => by dsimp only; repeat' (first | exact hp | omega | split)⟩

end Sys2Proof.Machine
end

