-- ==== Sys2Proof/Laws/KeepRings.lean ====
section
/-!
SUPPORT. What the operations of Machine/Rings.lean keep (Laws/Keeps.lean).
-/
namespace Sys2Proof.Machine

set_option linter.unusedTactic false
set_option linter.unreachableTactic false
set_option Elab.async false

theorem State.modFn_keeps {pt : Parts} {a : State} (s : State) (f : Nat) (g : Fn → Fn) (h : Keeps pt a s) (x_fns : pt.fns = false
    := by assumption) :
        Keeps pt a (State.modFn s f g) := by
  unfold State.modFn
  try dsimp only
  repeat' first
    | with_reducible assumption | with_reducible apply KeepsR.next | with_reducible apply KeepsR.fault
    | with_reducible apply KeepsR.atPlace | with_reducible apply KeepsO.some | with_reducible apply KeepsO.none
    | with_reducible apply KeepsO.getD | with_reducible apply Keeps.foldl | with_reducible apply Keeps.foldlFst
    | with_reducible apply Keeps.foldlSnd | ((with_reducible apply Same.mk) <;> first | exact no ‹_› | exact fun _ => rfl)
    | intro _ | split | assumption | with_reducible apply Keeps.sends | fail_if_no_progress with_reducible apply Keeps.update

theorem State.countFnDrop_keeps {pt : Parts} {a : State} (s : State) (f : Nat) (h : Keeps pt a s) (x_fns : pt.fns = false := by
    assumption) :
        Keeps pt a (State.countFnDrop s f) := by
  unfold State.countFnDrop
  try dsimp only
  repeat' first
    | with_reducible assumption | with_reducible apply KeepsR.next | with_reducible apply KeepsR.fault
    | with_reducible apply KeepsR.atPlace | with_reducible apply KeepsO.some | with_reducible apply KeepsO.none
    | with_reducible apply KeepsO.getD | with_reducible apply State.modFn_keeps | with_reducible apply Keeps.foldl
    | with_reducible apply Keeps.foldlFst | with_reducible apply Keeps.foldlSnd
    | ((with_reducible apply Same.mk) <;> first | exact no ‹_› | exact fun _ => rfl) | intro _ | split | assumption
    | with_reducible apply Keeps.sends | fail_if_no_progress with_reducible apply Keeps.update

theorem State.toHost_keeps {pt : Parts} {a : State} (s : State) (f : Nat) (a0 : Nat) (bytes : List Byte) (h : Keeps pt a s)
    (x_sent : pt.sent = false := by assumption) :
        Keeps pt a (State.toHost s f a0 bytes) := by
  unfold State.toHost
  try dsimp only
  repeat' first
    | with_reducible assumption | with_reducible apply KeepsR.next | with_reducible apply KeepsR.fault
    | with_reducible apply KeepsR.atPlace | with_reducible apply KeepsO.some | with_reducible apply KeepsO.none
    | with_reducible apply KeepsO.getD | with_reducible apply Keeps.foldl | with_reducible apply Keeps.foldlFst
    | with_reducible apply Keeps.foldlSnd | ((with_reducible apply Same.mk) <;> first | exact no ‹_› | exact fun _ => rfl)
    | intro _ | split | assumption | with_reducible apply Keeps.sends | fail_if_no_progress with_reducible apply Keeps.update

theorem State.interrupt_keeps {pt : Parts} {a : State} (s : State) (f : Nat) (v : Nat) (h : Keeps pt a s) (x_sent : pt.sent =
    false := by assumption) :
        Keeps pt a (State.interrupt s f v) := by
  unfold State.interrupt
  try dsimp only
  repeat' first
    | with_reducible assumption | with_reducible apply KeepsR.next | with_reducible apply KeepsR.fault
    | with_reducible apply KeepsR.atPlace | with_reducible apply KeepsO.some | with_reducible apply KeepsO.none
    | with_reducible apply KeepsO.getD | with_reducible apply Keeps.foldl | with_reducible apply Keeps.foldlFst
    | with_reducible apply Keeps.foldlSnd | ((with_reducible apply Same.mk) <;> first | exact no ‹_› | exact fun _ => rfl)
    | intro _ | split | assumption | with_reducible apply Keeps.sends | fail_if_no_progress with_reducible apply Keeps.update

theorem State.modRing_keeps {pt : Parts} {a : State} (s : State) (f : Nat) (r : Nat) (g : Ring → Ring) (h : Keeps pt a s) (x_fns :
    pt.fns = false := by assumption) :
        Keeps pt a (State.modRing s f r g) := by
  unfold State.modRing
  try dsimp only
  repeat' first
    | with_reducible assumption | with_reducible apply KeepsR.next | with_reducible apply KeepsR.fault
    | with_reducible apply KeepsR.atPlace | with_reducible apply KeepsO.some | with_reducible apply KeepsO.none
    | with_reducible apply KeepsO.getD | with_reducible apply State.modFn_keeps | with_reducible apply Keeps.foldl
    | with_reducible apply Keeps.foldlFst | with_reducible apply Keeps.foldlSnd
    | ((with_reducible apply Same.mk) <;> first | exact no ‹_› | exact fun _ => rfl) | intro _ | split | assumption
    | with_reducible apply Keeps.sends | fail_if_no_progress with_reducible apply Keeps.update

theorem State.completeRing_keeps {pt : Parts} {a : State} (s : State) (f : Nat) (r : Nat) (e : BitVec 512) (abort : Nat) (result :
    Nat) (h : Keeps pt a s) (x_sent : pt.sent = false := by assumption) (x_fns : pt.fns = false := by assumption) :
        Keeps pt a (State.completeRing s f r e abort result) := by
  unfold State.completeRing
  try dsimp only
  repeat' first
    | with_reducible assumption | with_reducible apply KeepsR.next | with_reducible apply KeepsR.fault
    | with_reducible apply KeepsR.atPlace | with_reducible apply KeepsO.some | with_reducible apply KeepsO.none
    | with_reducible apply KeepsO.getD | with_reducible apply State.toHost_keeps | with_reducible apply State.interrupt_keeps
    | with_reducible apply State.modRing_keeps | with_reducible apply Keeps.foldl | with_reducible apply Keeps.foldlFst
    | with_reducible apply Keeps.foldlSnd | ((with_reducible apply Same.mk) <;> first | exact no ‹_› | exact fun _ => rfl)
    | intro _ | split | assumption | with_reducible apply Keeps.sends | fail_if_no_progress with_reducible apply Keeps.update

theorem State.takeEntry_keeps {pt : Parts} {a : State} (s : State) (f : Nat) (r : Nat) (h : Keeps pt a s) (x_fns : pt.fns = false
    := by assumption) :
        Keeps pt a (State.takeEntry s f r) := by
  unfold State.takeEntry
  try dsimp only
  repeat' first
    | with_reducible assumption | with_reducible apply KeepsR.next | with_reducible apply KeepsR.fault
    | with_reducible apply KeepsR.atPlace | with_reducible apply KeepsO.some | with_reducible apply KeepsO.none
    | with_reducible apply KeepsO.getD | with_reducible apply State.modRing_keeps | with_reducible apply Keeps.foldl
    | with_reducible apply Keeps.foldlFst | with_reducible apply Keeps.foldlSnd
    | ((with_reducible apply Same.mk) <;> first | exact no ‹_› | exact fun _ => rfl) | intro _ | split | assumption
    | with_reducible apply Keeps.sends | fail_if_no_progress with_reducible apply Keeps.update

theorem State.evtRoom_keeps {pt : Parts} {a : State} (s : State) (h : Keeps pt a s) :
        Keeps pt a (State.evtRoom s).2 := by
  unfold State.evtRoom
  try dsimp only
  repeat' first
    | with_reducible assumption | with_reducible apply KeepsR.next | with_reducible apply KeepsR.fault
    | with_reducible apply KeepsR.atPlace | with_reducible apply KeepsO.some | with_reducible apply KeepsO.none
    | with_reducible apply KeepsO.getD | with_reducible apply State.free_keeps | with_reducible apply Keeps.foldl
    | with_reducible apply Keeps.foldlFst | with_reducible apply Keeps.foldlSnd
    | ((with_reducible apply Same.mk) <;> first | exact no ‹_› | exact fun _ => rfl) | intro _ | split | assumption
    | with_reducible apply Keeps.sends | fail_if_no_progress with_reducible apply Keeps.update

theorem State.writeEvent_keeps {pt : Parts} {a : State} (s : State) (f : Nat) (bytes : List Byte) (h : Keeps pt a s) (x_sent :
    pt.sent = false := by assumption) (x_fns : pt.fns = false := by assumption) :
        Keeps pt a (State.writeEvent s f bytes) := by
  unfold State.writeEvent
  try dsimp only
  repeat' first
    | with_reducible assumption | with_reducible apply KeepsR.next | with_reducible apply KeepsR.fault
    | with_reducible apply KeepsR.atPlace | with_reducible apply KeepsO.some | with_reducible apply KeepsO.none
    | with_reducible apply KeepsO.getD | with_reducible apply State.modFn_keeps | with_reducible apply State.toHost_keeps
    | with_reducible apply Keeps.foldl | with_reducible apply Keeps.foldlFst | with_reducible apply Keeps.foldlSnd
    | ((with_reducible apply Same.mk) <;> first | exact no ‹_› | exact fun _ => rfl) | intro _ | split | assumption
    | with_reducible apply Keeps.sends | fail_if_no_progress with_reducible apply Keeps.update

theorem State.flushEvents_keeps {pt : Parts} {a : State} (s : State) (f : Nat) (x0 : Nat) (h : Keeps pt a s) (x_sent : pt.sent =
    false := by assumption) (x_fns : pt.fns = false := by assumption) :
        Keeps pt a (State.flushEvents s f x0) := by
  induction x0 generalizing s with
  | zero => exact h
  | succ n ih =>
    unfold State.flushEvents
    split
    · exact h
    · try dsimp only
      split
      · exact ih _ (State.writeEvent_keeps _ _ _ (State.modFn_keeps _ _ _ (State.evtRoom_keeps _ h)))
      · exact State.evtRoom_keeps _ h

theorem State.pushEvent_keeps {pt : Parts} {a : State} (s : State) (f : Nat) (r : Record) (h : Keeps pt a s) (x_trouble :
    pt.trouble = false := by assumption) (x_sent : pt.sent = false := by assumption) (x_fns : pt.fns = false := by assumption) :
        Keeps pt a (State.pushEvent s f r) := by
  unfold State.pushEvent
  try dsimp only
  repeat' first
    | with_reducible assumption | with_reducible apply KeepsR.next | with_reducible apply KeepsR.fault
    | with_reducible apply KeepsR.atPlace | with_reducible apply KeepsO.some | with_reducible apply KeepsO.none
    | with_reducible apply KeepsO.getD | with_reducible apply State.modFn_keeps | with_reducible apply State.evtRoom_keeps
    | with_reducible apply State.writeEvent_keeps | with_reducible apply State.flushEvents_keeps
    | with_reducible apply Keeps.foldl | with_reducible apply Keeps.foldlFst | with_reducible apply Keeps.foldlSnd
    | ((with_reducible apply Same.mk) <;> first | exact no ‹_› | exact fun _ => rfl) | intro _ | split | assumption
    | with_reducible apply Keeps.sends | fail_if_no_progress with_reducible apply Keeps.update

end Sys2Proof.Machine
end

