-- ==== Sys2Proof/Laws/KeepCamp.lean ====
section
/-!
SUPPORT. What the operations of Machine/Camp.lean keep (Laws/Keeps.lean).
-/
namespace Sys2Proof.Machine

set_option linter.unusedTactic false
set_option linter.unreachableTactic false
set_option Elab.async false

theorem refuse_keeps {pt : Parts} {a : State} (s : State) (code : Nat) (h : Keeps pt a s) :
        Keeps pt a (refuse s code).st := by
  unfold refuse
  try dsimp only
  repeat' first
    | with_reducible assumption | with_reducible apply KeepsR.next | with_reducible apply KeepsR.fault
    | with_reducible apply KeepsR.atPlace | with_reducible apply KeepsO.some | with_reducible apply KeepsO.none
    | with_reducible apply KeepsO.getD | with_reducible apply Keeps.foldl | with_reducible apply Keeps.foldlFst
    | with_reducible apply Keeps.foldlSnd | ((with_reducible apply Same.mk) <;> first | exact no ‹_› | exact fun _ => rfl)
    | intro _ | split | assumption | with_reducible apply Keeps.sends | fail_if_no_progress with_reducible apply Keeps.update

theorem answer_keeps {pt : Parts} {a : State} (s : State) (checks : List (Bool × Nat)) (done : State → Answer) (h : Keeps pt a s)
    (hdone : ∀ (y0 : State), Keeps pt a y0 → Keeps pt a (done y0).st) :
        Keeps pt a (answer s checks done).st := by
  unfold answer
  try dsimp only
  repeat' first
    | with_reducible assumption | with_reducible apply hdone | with_reducible apply KeepsR.next
    | with_reducible apply KeepsR.fault | with_reducible apply KeepsR.atPlace | with_reducible apply KeepsO.some
    | with_reducible apply KeepsO.none | with_reducible apply KeepsO.getD | with_reducible apply refuse_keeps
    | with_reducible apply Keeps.foldl | with_reducible apply Keeps.foldlFst | with_reducible apply Keeps.foldlSnd
    | ((with_reducible apply Same.mk) <;> first | exact no ‹_› | exact fun _ => rfl) | intro _ | split | assumption
    | with_reducible apply Keeps.sends | fail_if_no_progress with_reducible apply Keeps.update

theorem accept_keeps {pt : Parts} {a : State} (s : State) (h : Keeps pt a s) :
        Keeps pt a (accept s).st := by
  unfold accept
  try dsimp only
  repeat' first
    | with_reducible assumption | with_reducible apply KeepsR.next | with_reducible apply KeepsR.fault
    | with_reducible apply KeepsR.atPlace | with_reducible apply KeepsO.some | with_reducible apply KeepsO.none
    | with_reducible apply KeepsO.getD | with_reducible apply Keeps.foldl | with_reducible apply Keeps.foldlFst
    | with_reducible apply Keeps.foldlSnd | ((with_reducible apply Same.mk) <;> first | exact no ‹_› | exact fun _ => rfl)
    | intro _ | split | assumption | with_reducible apply Keeps.sends | fail_if_no_progress with_reducible apply Keeps.update

theorem State.sendFrame_keeps {pt : Parts} {a : State} (s : State) (src : Requester) (bytes : List Byte) (h : Keeps pt a s)
    (x_sent : pt.sent = false := by assumption) (x_fns : pt.fns = false := by assumption) :
        Keeps pt a (State.sendFrame s src bytes) := by
  unfold State.sendFrame
  try dsimp only
  repeat' first
    | with_reducible assumption | with_reducible apply KeepsR.next | with_reducible apply KeepsR.fault
    | with_reducible apply KeepsR.atPlace | with_reducible apply KeepsO.some | with_reducible apply KeepsO.none
    | with_reducible apply KeepsO.getD | with_reducible apply State.modFn_keeps | with_reducible apply State.interrupt_keeps
    | with_reducible apply Keeps.foldl | with_reducible apply Keeps.foldlFst | with_reducible apply Keeps.foldlSnd
    | ((with_reducible apply Same.mk) <;> first | exact no ‹_› | exact fun _ => rfl) | intro _ | split | assumption
    | with_reducible apply Keeps.sends | fail_if_no_progress with_reducible apply Keeps.update

theorem State.replyTo_keeps {pt : Parts} {a : State} (s : State) (src : Requester) (bytes : List Byte) (h : Keeps pt a s) (x_sent
    : pt.sent = false := by assumption) (x_camp : pt.camp = false := by assumption) (x_fns : pt.fns = false := by assumption) :
        Keeps pt a (State.replyTo s src bytes) := by
  unfold State.replyTo
  try dsimp only
  repeat' first
    | with_reducible assumption | with_reducible apply KeepsR.next | with_reducible apply KeepsR.fault
    | with_reducible apply KeepsR.atPlace | with_reducible apply KeepsO.some | with_reducible apply KeepsO.none
    | with_reducible apply KeepsO.getD | with_reducible apply State.reply_keeps | with_reducible apply State.sendFrame_keeps
    | with_reducible apply Keeps.foldl | with_reducible apply Keeps.foldlFst | with_reducible apply Keeps.foldlSnd
    | ((with_reducible apply Same.mk) <;> first | exact no ‹_› | exact fun _ => rfl) | intro _ | split | assumption
    | with_reducible apply Keeps.sends | fail_if_no_progress with_reducible apply Keeps.update

theorem State.countFlight_keeps {pt : Parts} {a : State} (s : State) (src : Requester) (h : Keeps pt a s) (x_camp : pt.camp =
    false := by assumption) :
        Keeps pt a (State.countFlight s src) := by
  unfold State.countFlight
  try dsimp only
  repeat' first
    | with_reducible assumption | with_reducible apply KeepsR.next | with_reducible apply KeepsR.fault
    | with_reducible apply KeepsR.atPlace | with_reducible apply KeepsO.some | with_reducible apply KeepsO.none
    | with_reducible apply KeepsO.getD | with_reducible apply Keeps.foldl | with_reducible apply Keeps.foldlFst
    | with_reducible apply Keeps.foldlSnd | ((with_reducible apply Same.mk) <;> first | exact no ‹_› | exact fun _ => rfl)
    | intro _ | split | assumption | with_reducible apply Keeps.sends | fail_if_no_progress with_reducible apply Keeps.update

theorem State.forgetBusy_keeps {pt : Parts} {a : State} (s : State) (src : Requester) (h : Keeps pt a s) (x_camp : pt.camp = false
    := by assumption) :
        Keeps pt a (State.forgetBusy s src) := by
  unfold State.forgetBusy
  try dsimp only
  repeat' first
    | with_reducible assumption | with_reducible apply KeepsR.next | with_reducible apply KeepsR.fault
    | with_reducible apply KeepsR.atPlace | with_reducible apply KeepsO.some | with_reducible apply KeepsO.none
    | with_reducible apply KeepsO.getD | with_reducible apply Keeps.foldl | with_reducible apply Keeps.foldlFst
    | with_reducible apply Keeps.foldlSnd | ((with_reducible apply Same.mk) <;> first | exact no ‹_› | exact fun _ => rfl)
    | intro _ | split | assumption | with_reducible apply Keeps.sends | fail_if_no_progress with_reducible apply Keeps.update

theorem State.fresh?_keeps {pt : Parts} {a : State} (s : State) (src : Requester) (full : State → State) (f : State → State) (h :
    Keeps pt a s) (hfull : ∀ (y0 : State), Keeps pt a y0 → Keeps pt a (full y0)) (hf : ∀ (y0 : State), Keeps pt a y0 → Keeps pt a
    (f y0)) (x_sent : pt.sent = false := by assumption) (x_camp : pt.camp = false := by assumption) (x_fns : pt.fns = false := by
    assumption) :
        Keeps pt a (State.fresh? s src full f) := by
  unfold State.fresh?
  split
  · split
    · exact State.sendFrame_keeps _ _ _ h
    · split
      · exact hfull _ (State.forgetBusy_keeps _ _ h)
      · exact hf _ (State.countFlight_keeps _ _ h)
  · exact h

theorem State.applyWrite_keeps {pt : Parts} {a : State} (s : State) (src : Requester) (index : Nat) (sub : Nat) (value : List
    Byte) (old : List Byte) (op : State → Answer) (after : State → State) (h : Keeps pt a s) (hop : ∀ (y0 : State), Keeps pt a y0
    → Keeps pt a (op y0).st) (hafter : ∀ (y0 : State), Keeps pt a y0 → Keeps pt a (after y0)) (x_camp : pt.camp = false := by
    assumption) :
        Keeps pt a (State.applyWrite s src index sub value old op after).1 := by
  have h1 : ∀ r : Answer, Keeps pt a r.st →
      Keeps pt a (if r.abort = 0 then after (r.st.logWrite src index sub r.abort old value)
        else r.st.logWrite src index sub r.abort old value) := by
    intro r hr
    split
    · exact hafter _ (State.logWrite_keeps _ _ _ _ _ _ _ hr)
    · exact State.logWrite_keeps _ _ _ _ _ _ _ hr
  unfold State.applyWrite
  refine h1 _ ?_
  split
  · exact refuse_keeps _ _ h
  · exact hop _ h

theorem State.writeFrame_keeps {pt : Parts} {a : State} (s : State) (src : Requester) (index : Nat) (sub : Nat) (value : List
    Byte) (old : List Byte) (op : State → Answer) (after : State → State) (h : Keeps pt a s) (hop : ∀ (y0 : State), Keeps pt a y0
    → Keeps pt a (op y0).st) (hafter : ∀ (y0 : State), Keeps pt a y0 → Keeps pt a (after y0)) (x_sent : pt.sent = false := by
    assumption) (x_camp : pt.camp = false := by assumption) (x_fns : pt.fns = false := by assumption) :
        Keeps pt a (State.writeFrame s src index sub value old op after) := by
  unfold State.writeFrame
  try dsimp only
  repeat' first
    | with_reducible assumption | with_reducible apply hop | with_reducible apply hafter | with_reducible apply KeepsR.next
    | with_reducible apply KeepsR.fault | with_reducible apply KeepsR.atPlace | with_reducible apply KeepsO.some
    | with_reducible apply KeepsO.none | with_reducible apply KeepsO.getD | with_reducible apply State.logWrite_keeps
    | with_reducible apply State.sendFrame_keeps | with_reducible apply State.replyTo_keeps
    | with_reducible apply State.fresh?_keeps | with_reducible apply State.applyWrite_keeps | with_reducible apply Keeps.foldl
    | with_reducible apply Keeps.foldlFst | with_reducible apply Keeps.foldlSnd
    | ((with_reducible apply Same.mk) <;> first | exact no ‹_› | exact fun _ => rfl) | intro _ | split | assumption
    | with_reducible apply Keeps.sends | fail_if_no_progress with_reducible apply Keeps.update

theorem State.writeQueue_keeps {pt : Parts} {a : State} (s : State) (f : Nat) (r : Nat) (index : Nat) (sub : Nat) (value : List
    Byte) (want : BitVec 512 → Bool) (op : State → Answer) (h : Keeps pt a s) (hop : ∀ (y0 : State), Keeps pt a y0 → Keeps pt a
    (op y0).st) (x_sent : pt.sent = false := by assumption) (x_camp : pt.camp = false := by assumption) (x_fns : pt.fns = false :=
    by assumption) :
        Keeps pt a (State.writeQueue s f r index sub value want op) := by
  unfold State.writeQueue
  split
  · exact h
  · split
    · exact h
    · try dsimp only
      refine State.completeRing_keeps _ _ _ _ _ _ (State.takeEntry_keeps _ _ _ (State.applyWrite_keeps _ _ _ _ _ _ _ _ h ?_
        fun _ ht => ht))
      intro t ht
      try dsimp only
      split
      · exact hop _ ht
      · exact refuse_keeps _ _ ht

theorem State.modSub_keeps {pt : Parts} {a : State} (s : State) (i : Nat) (f : Subscriber → Subscriber) (h : Keeps pt a s) (x_camp
    : pt.camp = false := by assumption) :
        Keeps pt a (State.modSub s i f) := by
  unfold State.modSub
  try dsimp only
  repeat' first
    | with_reducible assumption | with_reducible apply KeepsR.next | with_reducible apply KeepsR.fault
    | with_reducible apply KeepsR.atPlace | with_reducible apply KeepsO.some | with_reducible apply KeepsO.none
    | with_reducible apply KeepsO.getD | with_reducible apply Keeps.foldl | with_reducible apply Keeps.foldlFst
    | with_reducible apply Keeps.foldlSnd | ((with_reducible apply Same.mk) <;> first | exact no ‹_› | exact fun _ => rfl)
    | intro _ | split | assumption | with_reducible apply Keeps.sends | fail_if_no_progress with_reducible apply Keeps.update

theorem State.notify_keeps {pt : Parts} {a : State} (s : State) (d : BitVec 192) (n : Nat) (r : Record) (h : Keeps pt a s) (x_sent
    : pt.sent = false := by assumption) :
        Keeps pt a (State.notify s d n r) := by
  unfold State.notify
  try dsimp only
  repeat' first
    | with_reducible assumption | with_reducible apply KeepsR.next | with_reducible apply KeepsR.fault
    | with_reducible apply KeepsR.atPlace | with_reducible apply KeepsO.some | with_reducible apply KeepsO.none
    | with_reducible apply KeepsO.getD | with_reducible apply Keeps.foldl | with_reducible apply Keeps.foldlFst
    | with_reducible apply Keeps.foldlSnd | ((with_reducible apply Same.mk) <;> first | exact no ‹_› | exact fun _ => rfl)
    | intro _ | split | assumption | with_reducible apply Keeps.sends | fail_if_no_progress with_reducible apply Keeps.update

theorem State.deliverTo_keeps {pt : Parts} {a : State} (s : State) (r : Record) (i : Nat) (h : Keeps pt a s) (x_trouble :
    pt.trouble = false := by assumption) (x_sent : pt.sent = false := by assumption) (x_camp : pt.camp = false := by assumption)
    (x_fns : pt.fns = false := by assumption) :
        Keeps pt a (State.deliverTo s r i) := by
  unfold State.deliverTo
  try dsimp only
  repeat' first
    | with_reducible assumption | with_reducible apply KeepsR.next | with_reducible apply KeepsR.fault
    | with_reducible apply KeepsR.atPlace | with_reducible apply KeepsO.some | with_reducible apply KeepsO.none
    | with_reducible apply KeepsO.getD | with_reducible apply State.pushEvent_keeps | with_reducible apply State.modSub_keeps
    | with_reducible apply State.notify_keeps | with_reducible apply Keeps.foldl | with_reducible apply Keeps.foldlFst
    | with_reducible apply Keeps.foldlSnd | ((with_reducible apply Same.mk) <;> first | exact no ‹_› | exact fun _ => rfl)
    | intro _ | split | assumption | with_reducible apply Keeps.sends | fail_if_no_progress with_reducible apply Keeps.update

theorem State.deliverTrigger_keeps {pt : Parts} {a : State} (s : State) (r : Record) (h : Keeps pt a s) (x_trouble : pt.trouble =
    false := by assumption) (x_sent : pt.sent = false := by assumption) (x_fns : pt.fns = false := by assumption) :
        Keeps pt a (State.deliverTrigger s r) := by
  unfold State.deliverTrigger
  try dsimp only
  repeat' first
    | with_reducible assumption | with_reducible apply KeepsR.next | with_reducible apply KeepsR.fault
    | with_reducible apply KeepsR.atPlace | with_reducible apply KeepsO.some | with_reducible apply KeepsO.none
    | with_reducible apply KeepsO.getD | with_reducible apply State.pushEvent_keeps | with_reducible apply Keeps.foldl
    | with_reducible apply Keeps.foldlFst | with_reducible apply Keeps.foldlSnd
    | ((with_reducible apply Same.mk) <;> first | exact no ‹_› | exact fun _ => rfl) | intro _ | split | assumption
    | with_reducible apply Keeps.sends | fail_if_no_progress with_reducible apply Keeps.update

theorem State.deliver_keeps {pt : Parts} {a : State} (s : State) (r : Record) (h : Keeps pt a s) (x_trouble : pt.trouble = false
    := by assumption) (x_sent : pt.sent = false := by assumption) (x_camp : pt.camp = false := by assumption) (x_fns : pt.fns =
    false := by assumption) :
        Keeps pt a (State.deliver s r) := by
  unfold State.deliver
  try dsimp only
  repeat' first
    | with_reducible assumption | with_reducible apply KeepsR.next | with_reducible apply KeepsR.fault
    | with_reducible apply KeepsR.atPlace | with_reducible apply KeepsO.some | with_reducible apply KeepsO.none
    | with_reducible apply KeepsO.getD | with_reducible apply State.logAlarm_keeps | with_reducible apply State.deliverTo_keeps
    | with_reducible apply State.deliverTrigger_keeps | with_reducible apply Keeps.foldl | with_reducible apply Keeps.foldlFst
    | with_reducible apply Keeps.foldlSnd | ((with_reducible apply Same.mk) <;> first | exact no ‹_› | exact fun _ => rfl)
    | intro _ | split | assumption | with_reducible apply Keeps.sends | fail_if_no_progress with_reducible apply Keeps.update

theorem State.deliverGap_keeps {pt : Parts} {a : State} (s : State) (r : Record) (h : Keeps pt a s) (x_trouble : pt.trouble =
    false := by assumption) (x_sent : pt.sent = false := by assumption) (x_camp : pt.camp = false := by assumption) (x_fns :
    pt.fns = false := by assumption) :
        Keeps pt a (State.deliverGap s r) := by
  unfold State.deliverGap
  try dsimp only
  repeat' first
    | with_reducible assumption | with_reducible apply KeepsR.next | with_reducible apply KeepsR.fault
    | with_reducible apply KeepsR.atPlace | with_reducible apply KeepsO.some | with_reducible apply KeepsO.none
    | with_reducible apply KeepsO.getD | with_reducible apply State.deliver_keeps | with_reducible apply Keeps.foldl
    | with_reducible apply Keeps.foldlFst | with_reducible apply Keeps.foldlSnd
    | ((with_reducible apply Same.mk) <;> first | exact no ‹_› | exact fun _ => rfl) | intro _ | split | assumption
    | with_reducible apply Keeps.sends | fail_if_no_progress with_reducible apply Keeps.update

theorem State.takePlace_keeps {pt : Parts} {a : State} (s : State) (r : Record) (h : Keeps pt a s) (x_trouble : pt.trouble = false
    := by assumption) :
        Keeps pt a (State.takePlace s r) := by
  unfold State.takePlace
  try dsimp only
  repeat' first
    | with_reducible assumption | with_reducible apply KeepsR.next | with_reducible apply KeepsR.fault
    | with_reducible apply KeepsR.atPlace | with_reducible apply KeepsO.some | with_reducible apply KeepsO.none
    | with_reducible apply KeepsO.getD | with_reducible apply Keeps.foldl | with_reducible apply Keeps.foldlFst
    | with_reducible apply Keeps.foldlSnd | ((with_reducible apply Same.mk) <;> first | exact no ‹_› | exact fun _ => rfl)
    | intro _ | split | assumption | with_reducible apply Keeps.sends | fail_if_no_progress with_reducible apply Keeps.update

theorem State.releaseHeld_keeps {pt : Parts} {a : State} (s : State) (h : Keeps pt a s) (x_trouble : pt.trouble = false := by
    assumption) :
        Keeps pt a (State.releaseHeld s) := by
  unfold State.releaseHeld
  try dsimp only
  repeat' first
    | with_reducible assumption | with_reducible apply KeepsR.next | with_reducible apply KeepsR.fault
    | with_reducible apply KeepsR.atPlace | with_reducible apply KeepsO.some | with_reducible apply KeepsO.none
    | with_reducible apply KeepsO.getD | with_reducible apply State.takePlace_keeps | with_reducible apply Keeps.foldl
    | with_reducible apply Keeps.foldlFst | with_reducible apply Keeps.foldlSnd
    | ((with_reducible apply Same.mk) <;> first | exact no ‹_› | exact fun _ => rfl) | intro _ | split | assumption
    | with_reducible apply Keeps.sends | fail_if_no_progress with_reducible apply Keeps.update

theorem State.drainRecords_keeps {pt : Parts} {a : State} (s : State) (h : Keeps pt a s) (x_trouble : pt.trouble = false := by
    assumption) (x_sent : pt.sent = false := by assumption) (x_camp : pt.camp = false := by assumption) (x_fns : pt.fns = false :=
    by assumption) :
        Keeps pt a (State.drainRecords s) := by
  unfold State.drainRecords
  try dsimp only
  repeat' first
    | with_reducible assumption | with_reducible apply KeepsR.next | with_reducible apply KeepsR.fault
    | with_reducible apply KeepsR.atPlace | with_reducible apply KeepsO.some | with_reducible apply KeepsO.none
    | with_reducible apply KeepsO.getD | with_reducible apply State.deliver_keeps | with_reducible apply State.deliverGap_keeps
    | with_reducible apply State.releaseHeld_keeps | with_reducible apply Keeps.foldl | with_reducible apply Keeps.foldlFst
    | with_reducible apply Keeps.foldlSnd | ((with_reducible apply Same.mk) <;> first | exact no ‹_› | exact fun _ => rfl)
    | intro _ | split | assumption | with_reducible apply Keeps.sends | fail_if_no_progress with_reducible apply Keeps.update

theorem State.idle_keeps {pt : Parts} {a : State} (s : State) (h : Keeps pt a s) (x_tiles : pt.tiles = false := by assumption)
    (x_ctxs : pt.ctxs = false := by assumption) (x_chans : pt.chans = false := by assumption) (x_mem : pt.mem = false := by
    assumption) (x_bad : pt.bad = false := by assumption) (x_net : pt.net = false := by assumption) (x_gtallies : pt.gtallies =
    false := by assumption) (x_snaps : pt.snaps = false := by assumption) (x_trouble : pt.trouble = false := by assumption)
    (x_ports : pt.ports = false := by assumption) (x_fabric : pt.fabric = false := by assumption) (x_sent : pt.sent = false := by
    assumption) (x_camp : pt.camp = false := by assumption) (x_fns : pt.fns = false := by assumption) (x_service : pt.service =
    false := by assumption) (x_panel : pt.panel = false := by assumption) :
        Keeps pt a (State.idle s) := by
  have h0 := State.tickWhistles_keeps _ h
  unfold State.idle
  generalize s.tickWhistles = s0 at h0
  extract_lets s0' s1 s2 t0 p0 s3
  have h1 : Keeps pt a s1 := by
    dsimp only [s1, s0']
    split
    · exact State.drainRecords_keeps _ h0
    · exact h0
  clear_value s1
  have h2 : Keeps pt a s2 := Keeps.foldl h1 _ fun t f k => State.flushPosted_keeps _ _ (State.flushEvents_keeps _ _ _ k)
  clear_value s2
  have h3 : Keeps pt a s3 := h2.calm rfl rfl rfl rfl rfl
  clear_value s3
  refine State.settleJobs_keeps _ ?_
  split
  · exact h3
  · exact State.sendWaiting_keeps _ h3

end Sys2Proof.Machine
end

