-- ==== Sys2Proof/Laws/KeepContexts.lean ====
section
/-!
SUPPORT. What the operations of Machine/Contexts.lean keep (Laws/Keeps.lean).
-/
namespace Sys2Proof.Machine

set_option linter.unusedTactic false
set_option linter.unreachableTactic false
set_option Elab.async false

theorem State.writePark_keeps {pt : Parts} {a : State} (s : State) (c : Nat) (h : Keeps pt a s) (x_tiles : pt.tiles = false := by
    assumption) (x_ctxs : pt.ctxs = false := by assumption) (x_mem : pt.mem = false := by assumption) (x_bad : pt.bad = false :=
    by assumption) (x_snaps : pt.snaps = false := by assumption) (x_trouble : pt.trouble = false := by assumption) (x_ports :
    pt.ports = false := by assumption) (x_panel : pt.panel = false := by assumption) :
        Keeps pt a (State.writePark s c) := by
  unfold State.writePark
  try dsimp only
  repeat' first
    | with_reducible assumption | with_reducible apply KeepsR.next | with_reducible apply KeepsR.fault
    | with_reducible apply KeepsR.atPlace | with_reducible apply KeepsO.some | with_reducible apply KeepsO.none
    | with_reducible apply KeepsO.getD | with_reducible apply State.svcWrite_keeps | with_reducible apply Keeps.foldl
    | with_reducible apply Keeps.foldlFst | with_reducible apply Keeps.foldlSnd
    | ((with_reducible apply Same.mk) <;> first | exact no ‹_› | exact fun _ => rfl) | intro _ | split | assumption
    | with_reducible apply Keeps.sends | fail_if_no_progress with_reducible apply Keeps.update

theorem State.attnSet_keeps {pt : Parts} {a : State} (s : State) (h : Keeps pt a s) (x_tiles : pt.tiles = false := by assumption)
    (x_ctxs : pt.ctxs = false := by assumption) (x_mem : pt.mem = false := by assumption) (x_bad : pt.bad = false := by
    assumption) (x_snaps : pt.snaps = false := by assumption) (x_trouble : pt.trouble = false := by assumption) (x_ports :
    pt.ports = false := by assumption) (x_panel : pt.panel = false := by assumption) :
        Keeps pt a (State.attnSet s) := by
  unfold State.attnSet
  try dsimp only
  repeat' first
    | with_reducible assumption | with_reducible apply KeepsR.next | with_reducible apply KeepsR.fault
    | with_reducible apply KeepsR.atPlace | with_reducible apply KeepsO.some | with_reducible apply KeepsO.none
    | with_reducible apply KeepsO.getD | with_reducible apply State.writePark_keeps | with_reducible apply Keeps.foldl
    | with_reducible apply Keeps.foldlFst | with_reducible apply Keeps.foldlSnd
    | ((with_reducible apply Same.mk) <;> first | exact no ‹_› | exact fun _ => rfl) | intro _ | split | assumption
    | with_reducible apply Keeps.sends | fail_if_no_progress with_reducible apply Keeps.update

theorem State.attnClear_keeps {pt : Parts} {a : State} (s : State) (h : Keeps pt a s) (x_tiles : pt.tiles = false := by
    assumption) (x_ctxs : pt.ctxs = false := by assumption) (x_mem : pt.mem = false := by assumption) (x_bad : pt.bad = false :=
    by assumption) (x_snaps : pt.snaps = false := by assumption) (x_trouble : pt.trouble = false := by assumption) (x_ports :
    pt.ports = false := by assumption) (x_panel : pt.panel = false := by assumption) :
        Keeps pt a (State.attnClear s) := by
  unfold State.attnClear
  try dsimp only
  repeat' first
    | with_reducible assumption | with_reducible apply KeepsR.next | with_reducible apply KeepsR.fault
    | with_reducible apply KeepsR.atPlace | with_reducible apply KeepsO.some | with_reducible apply KeepsO.none
    | with_reducible apply KeepsO.getD | with_reducible apply State.svcWrite_keeps | with_reducible apply Keeps.foldl
    | with_reducible apply Keeps.foldlFst | with_reducible apply Keeps.foldlSnd
    | ((with_reducible apply Same.mk) <;> first | exact no ‹_› | exact fun _ => rfl) | intro _ | split | assumption
    | with_reducible apply Keeps.sends | fail_if_no_progress with_reducible apply Keeps.update

theorem opCtxCreate_keeps {pt : Parts} {a : State} (c : Nat) (s : State) (h : Keeps pt a s) (x_tiles : pt.tiles = false := by
    assumption) (x_ctxs : pt.ctxs = false := by assumption) (x_mem : pt.mem = false := by assumption) (x_bad : pt.bad = false :=
    by assumption) (x_snaps : pt.snaps = false := by assumption) (x_trouble : pt.trouble = false := by assumption) (x_ports :
    pt.ports = false := by assumption) (x_panel : pt.panel = false := by assumption) :
        Keeps pt a (opCtxCreate c s).st := by
  unfold opCtxCreate
  try dsimp only
  repeat' first
    | with_reducible assumption | with_reducible apply KeepsR.next | with_reducible apply KeepsR.fault
    | with_reducible apply KeepsR.atPlace | with_reducible apply KeepsO.some | with_reducible apply KeepsO.none
    | with_reducible apply KeepsO.getD | with_reducible apply State.modCtx_keeps | with_reducible apply answer_keeps
    | with_reducible apply accept_keeps | with_reducible apply State.writePark_keeps | with_reducible apply Keeps.foldl
    | with_reducible apply Keeps.foldlFst | with_reducible apply Keeps.foldlSnd
    | ((with_reducible apply Same.mk) <;> first | exact no ‹_› | exact fun _ => rfl) | intro _ | split | assumption
    | with_reducible apply Keeps.sends | fail_if_no_progress with_reducible apply Keeps.update

theorem State.askReset_keeps {pt : Parts} {a : State} (s : State) (c : Nat) (cause : Nat) (destroy : Bool) (h : Keeps pt a s)
    (x_ctxs : pt.ctxs = false := by assumption) :
        Keeps pt a (State.askReset s c cause destroy) := by
  unfold State.askReset
  try dsimp only
  repeat' first
    | with_reducible assumption | with_reducible apply KeepsR.next | with_reducible apply KeepsR.fault
    | with_reducible apply KeepsR.atPlace | with_reducible apply KeepsO.some | with_reducible apply KeepsO.none
    | with_reducible apply KeepsO.getD | with_reducible apply State.modCtx_keeps | with_reducible apply Keeps.foldl
    | with_reducible apply Keeps.foldlFst | with_reducible apply Keeps.foldlSnd
    | ((with_reducible apply Same.mk) <;> first | exact no ‹_› | exact fun _ => rfl) | intro _ | split | assumption
    | with_reducible apply Keeps.sends | fail_if_no_progress with_reducible apply Keeps.update

theorem opCtxReset_keeps {pt : Parts} {a : State} (c : Nat) (s : State) (h : Keeps pt a s) (x_ctxs : pt.ctxs = false := by
    assumption) :
        Keeps pt a (opCtxReset c s).st := by
  unfold opCtxReset
  try dsimp only
  repeat' first
    | with_reducible assumption | with_reducible apply KeepsR.next | with_reducible apply KeepsR.fault
    | with_reducible apply KeepsR.atPlace | with_reducible apply KeepsO.some | with_reducible apply KeepsO.none
    | with_reducible apply KeepsO.getD | with_reducible apply answer_keeps | with_reducible apply accept_keeps
    | with_reducible apply State.askReset_keeps | with_reducible apply Keeps.foldl | with_reducible apply Keeps.foldlFst
    | with_reducible apply Keeps.foldlSnd | ((with_reducible apply Same.mk) <;> first | exact no ‹_› | exact fun _ => rfl)
    | intro _ | split | assumption | with_reducible apply Keeps.sends | fail_if_no_progress with_reducible apply Keeps.update

theorem opCtxDestroy_keeps {pt : Parts} {a : State} (c : Nat) (s : State) (h : Keeps pt a s) (x_ctxs : pt.ctxs = false := by
    assumption) :
        Keeps pt a (opCtxDestroy c s).st := by
  unfold opCtxDestroy
  try dsimp only
  repeat' first
    | with_reducible assumption | with_reducible apply KeepsR.next | with_reducible apply KeepsR.fault
    | with_reducible apply KeepsR.atPlace | with_reducible apply KeepsO.some | with_reducible apply KeepsO.none
    | with_reducible apply KeepsO.getD | with_reducible apply answer_keeps | with_reducible apply accept_keeps
    | with_reducible apply State.askReset_keeps | with_reducible apply Keeps.foldl | with_reducible apply Keeps.foldlFst
    | with_reducible apply Keeps.foldlSnd | ((with_reducible apply Same.mk) <;> first | exact no ‹_› | exact fun _ => rfl)
    | intro _ | split | assumption | with_reducible apply Keeps.sends | fail_if_no_progress with_reducible apply Keeps.update

theorem State.setParents_keeps {pt : Parts} {a : State} (s : State) (l : List Nat) (p : Nat) (h : Keeps pt a s) (x_teams :
    pt.teams = false := by assumption) :
        Keeps pt a (State.setParents s l p) := by
  unfold State.setParents
  try dsimp only
  repeat' first
    | with_reducible assumption | with_reducible apply KeepsR.next | with_reducible apply KeepsR.fault
    | with_reducible apply KeepsR.atPlace | with_reducible apply KeepsO.some | with_reducible apply KeepsO.none
    | with_reducible apply KeepsO.getD | with_reducible apply Keeps.foldl | with_reducible apply Keeps.foldlFst
    | with_reducible apply Keeps.foldlSnd | ((with_reducible apply Same.mk) <;> first | exact no ‹_› | exact fun _ => rfl)
    | intro _ | split | assumption | with_reducible apply Keeps.sends | fail_if_no_progress with_reducible apply Keeps.update

theorem opTeamCreate_keeps {pt : Parts} {a : State} (w : BitVec 160) (s : State) (h : Keeps pt a s) (x_teams : pt.teams = false :=
    by assumption) :
        Keeps pt a (opTeamCreate w s).st := by
  unfold opTeamCreate
  try dsimp only
  repeat' first
    | with_reducible assumption | with_reducible apply KeepsR.next | with_reducible apply KeepsR.fault
    | with_reducible apply KeepsR.atPlace | with_reducible apply KeepsO.some | with_reducible apply KeepsO.none
    | with_reducible apply KeepsO.getD | with_reducible apply answer_keeps | with_reducible apply accept_keeps
    | with_reducible apply State.setParents_keeps | with_reducible apply Keeps.foldl | with_reducible apply Keeps.foldlFst
    | with_reducible apply Keeps.foldlSnd | ((with_reducible apply Same.mk) <;> first | exact no ‹_› | exact fun _ => rfl)
    | intro _ | split | assumption | with_reducible apply Keeps.sends | fail_if_no_progress with_reducible apply Keeps.update

theorem opTeamDestroy_keeps {pt : Parts} {a : State} (w : BitVec 160) (s : State) (h : Keeps pt a s) (x_tiles : pt.tiles = false
    := by assumption) (x_teams : pt.teams = false := by assumption) :
        Keeps pt a (opTeamDestroy w s).st := by
  unfold opTeamDestroy
  try dsimp only
  repeat' first
    | with_reducible assumption | with_reducible apply KeepsR.next | with_reducible apply KeepsR.fault
    | with_reducible apply KeepsR.atPlace | with_reducible apply KeepsO.some | with_reducible apply KeepsO.none
    | with_reducible apply KeepsO.getD | with_reducible apply State.gateArrays_keeps | with_reducible apply answer_keeps
    | with_reducible apply accept_keeps | with_reducible apply State.setParents_keeps | with_reducible apply Keeps.foldl
    | with_reducible apply Keeps.foldlFst | with_reducible apply Keeps.foldlSnd
    | ((with_reducible apply Same.mk) <;> first | exact no ‹_› | exact fun _ => rfl) | intro _ | split | assumption
    | with_reducible apply Keeps.sends | fail_if_no_progress with_reducible apply Keeps.update

theorem opHuddleCreate_keeps {pt : Parts} {a : State} (w : BitVec 160) (s : State) (h : Keeps pt a s) (x_huddles : pt.huddles =
    false := by assumption) :
        Keeps pt a (opHuddleCreate w s).st := by
  unfold opHuddleCreate
  try dsimp only
  repeat' first
    | with_reducible assumption | with_reducible apply KeepsR.next | with_reducible apply KeepsR.fault
    | with_reducible apply KeepsR.atPlace | with_reducible apply KeepsO.some | with_reducible apply KeepsO.none
    | with_reducible apply KeepsO.getD | with_reducible apply answer_keeps | with_reducible apply accept_keeps
    | with_reducible apply Keeps.foldl | with_reducible apply Keeps.foldlFst | with_reducible apply Keeps.foldlSnd
    | ((with_reducible apply Same.mk) <;> first | exact no ‹_› | exact fun _ => rfl) | intro _ | split | assumption
    | with_reducible apply Keeps.sends | fail_if_no_progress with_reducible apply Keeps.update

theorem State.dropHuddle_keeps {pt : Parts} {a : State} (s : State) (id : Nat) (h : Keeps pt a s) (x_tiles : pt.tiles = false :=
    by assumption) (x_net : pt.net = false := by assumption) (x_huddles : pt.huddles = false := by assumption) :
        Keeps pt a (State.dropHuddle s id) := by
  unfold State.dropHuddle
  try dsimp only
  repeat' first
    | with_reducible assumption | with_reducible apply KeepsR.next | with_reducible apply KeepsR.fault
    | with_reducible apply KeepsR.atPlace | with_reducible apply KeepsO.some | with_reducible apply KeepsO.none
    | with_reducible apply KeepsO.getD | with_reducible apply Keeps.foldl | with_reducible apply Keeps.foldlFst
    | with_reducible apply Keeps.foldlSnd | ((with_reducible apply Same.mk) <;> first | exact no ‹_› | exact fun _ => rfl)
    | intro _ | split | assumption | with_reducible apply Keeps.sends | fail_if_no_progress with_reducible apply Keeps.update

theorem opHuddleDestroy_keeps {pt : Parts} {a : State} (w : BitVec 160) (s : State) (h : Keeps pt a s) (x_tiles : pt.tiles = false
    := by assumption) (x_net : pt.net = false := by assumption) (x_huddles : pt.huddles = false := by assumption) :
        Keeps pt a (opHuddleDestroy w s).st := by
  unfold opHuddleDestroy
  try dsimp only
  repeat' first
    | with_reducible assumption | with_reducible apply KeepsR.next | with_reducible apply KeepsR.fault
    | with_reducible apply KeepsR.atPlace | with_reducible apply KeepsO.some | with_reducible apply KeepsO.none
    | with_reducible apply KeepsO.getD | with_reducible apply answer_keeps | with_reducible apply accept_keeps
    | with_reducible apply State.dropHuddle_keeps | with_reducible apply Keeps.foldl | with_reducible apply Keeps.foldlFst
    | with_reducible apply Keeps.foldlSnd | ((with_reducible apply Same.mk) <;> first | exact no ‹_› | exact fun _ => rfl)
    | intro _ | split | assumption | with_reducible apply Keeps.sends | fail_if_no_progress with_reducible apply Keeps.update

theorem opChanCreate_keeps {pt : Parts} {a : State} (c : Nat) (s : State) (h : Keeps pt a s) (x_chans : pt.chans = false := by
    assumption) :
        Keeps pt a (opChanCreate c s).st := by
  unfold opChanCreate
  refine answer_keeps _ _ _ h fun t ht => ?_
  try dsimp only
  split
  · next r e => exact State.newChan_keeps _ _ _ ht e
  · exact refuse_keeps _ _ ht

theorem opChanDestroy_keeps {pt : Parts} {a : State} (h0 : Word) (s : State) (h : Keeps pt a s) (x_chans : pt.chans = false := by
    assumption) :
        Keeps pt a (opChanDestroy h0 s).st := by
  unfold opChanDestroy
  try dsimp only
  repeat' first
    | with_reducible assumption | with_reducible apply KeepsR.next | with_reducible apply KeepsR.fault
    | with_reducible apply KeepsR.atPlace | with_reducible apply KeepsO.some | with_reducible apply KeepsO.none
    | with_reducible apply KeepsO.getD | with_reducible apply State.dropChan_keeps | with_reducible apply answer_keeps
    | with_reducible apply accept_keeps | with_reducible apply Keeps.foldl | with_reducible apply Keeps.foldlFst
    | with_reducible apply Keeps.foldlSnd | ((with_reducible apply Same.mk) <;> first | exact no ‹_› | exact fun _ => rfl)
    | intro _ | split | assumption | with_reducible apply Keeps.sends | fail_if_no_progress with_reducible apply Keeps.update

theorem State.noteUnreadable_keeps {pt : Parts} {a : State} (s : State) (r : Option Range) (h : Keeps pt a s) (x_tiles : pt.tiles
    = false := by assumption) (x_ctxs : pt.ctxs = false := by assumption) (x_trouble : pt.trouble = false := by assumption)
    (x_ports : pt.ports = false := by assumption) :
        Keeps pt a (State.noteUnreadable s r) := by
  unfold State.noteUnreadable
  try dsimp only
  repeat' first
    | with_reducible assumption | with_reducible apply Keeps.elim | with_reducible apply KeepsR.next
    | with_reducible apply KeepsR.fault | with_reducible apply KeepsR.atPlace | with_reducible apply KeepsO.some
    | with_reducible apply KeepsO.none | with_reducible apply KeepsO.getD | with_reducible apply State.outsideRead_keeps
    | with_reducible apply Keeps.foldl | with_reducible apply Keeps.foldlFst | with_reducible apply Keeps.foldlSnd
    | ((with_reducible apply Same.mk) <;> first | exact no ‹_› | exact fun _ => rfl) | intro _ | split | assumption
    | with_reducible apply Keeps.sends | fail_if_no_progress with_reducible apply Keeps.update

theorem opJobSubmit_keeps {pt : Parts} {a : State} (a0 : Nat) (may : Nat → Bool) (s : State) (h : Keeps pt a s) (x_tiles :
    pt.tiles = false := by assumption) (x_ctxs : pt.ctxs = false := by assumption) (x_trouble : pt.trouble = false := by
    assumption) (x_ports : pt.ports = false := by assumption) (x_service : pt.service = false := by assumption) :
        Keeps pt a (opJobSubmit a0 may s).st := by
  unfold opJobSubmit
  split
  · refine refuse_keeps _ _ ?_
    cases s.submitBad a0 with
    | none => exact h
    | some r => exact State.outsideRead_keeps _ _ _ h
  · next r e => exact State.submit_keeps _ _ _ _ h e

theorem opJobCancel_keeps {pt : Parts} {a : State} (id : Nat) (s : State) (h : Keeps pt a s) (x_tiles : pt.tiles = false := by
    assumption) (x_ctxs : pt.ctxs = false := by assumption) (x_chans : pt.chans = false := by assumption) (x_mem : pt.mem = false
    := by assumption) (x_bad : pt.bad = false := by assumption) (x_net : pt.net = false := by assumption) (x_gtallies :
    pt.gtallies = false := by assumption) (x_snaps : pt.snaps = false := by assumption) (x_trouble : pt.trouble = false := by
    assumption) (x_ports : pt.ports = false := by assumption) (x_camp : pt.camp = false := by assumption) (x_service : pt.service
    = false := by assumption) :
        Keeps pt a (opJobCancel id s).st := by
  unfold opJobCancel
  try dsimp only
  repeat' first
    | with_reducible assumption | with_reducible apply KeepsR.next | with_reducible apply KeepsR.fault
    | with_reducible apply KeepsR.atPlace | with_reducible apply KeepsO.some | with_reducible apply KeepsO.none
    | with_reducible apply KeepsO.getD | with_reducible apply State.cancelJob_keeps | with_reducible apply refuse_keeps
    | with_reducible apply accept_keeps | with_reducible apply Keeps.foldl | with_reducible apply Keeps.foldlFst
    | with_reducible apply Keeps.foldlSnd | ((with_reducible apply Same.mk) <;> first | exact no ‹_› | exact fun _ => rfl)
    | intro _ | split | assumption | with_reducible apply Keeps.sends | fail_if_no_progress with_reducible apply Keeps.update

theorem State.restartAll_keeps {pt : Parts} {a : State} (s : State) (kind : Nat) (cause : Nat) (h : Keeps pt a s) (x_tiles :
    pt.tiles = false := by assumption) (x_ctxs : pt.ctxs = false := by assumption) (x_teams : pt.teams = false := by assumption)
    (x_teamCmds : pt.teamCmds = false := by assumption) (x_chans : pt.chans = false := by assumption) (x_net : pt.net = false :=
    by assumption) (x_gtallies : pt.gtallies = false := by assumption) (x_huddles : pt.huddles = false := by assumption) (x_reds :
    pt.reds = false := by assumption) (x_pools : pt.pools = false := by assumption) (x_snaps : pt.snaps = false := by assumption)
    (x_trouble : pt.trouble = false := by assumption) (x_device : pt.device = false := by assumption) (x_ports : pt.ports = false
    := by assumption) (x_fabric : pt.fabric = false := by assumption) (x_camp : pt.camp = false := by assumption) (x_fns : pt.fns
    = false := by assumption) (x_service : pt.service = false := by assumption) (x_power : pt.power = false := by assumption)
    (x_trust : pt.trust = false := by assumption) :
        Keeps pt a (State.restartAll s kind cause) := by
  unfold State.restartAll
  try dsimp only
  repeat' first
    | with_reducible assumption | with_reducible apply KeepsR.next | with_reducible apply KeepsR.fault
    | with_reducible apply KeepsR.atPlace | with_reducible apply KeepsO.some | with_reducible apply KeepsO.none
    | with_reducible apply KeepsO.getD | with_reducible apply State.modCtx_keeps | with_reducible apply State.modPower_keeps
    | with_reducible apply State.settleRestart_keeps | with_reducible apply State.askReset_keeps
    | with_reducible apply Keeps.foldl | with_reducible apply Keeps.foldlFst | with_reducible apply Keeps.foldlSnd
    | ((with_reducible apply Same.mk) <;> first | exact no ‹_› | exact fun _ => rfl) | intro _ | split | assumption
    | with_reducible apply Keeps.sends | fail_if_no_progress with_reducible apply Keeps.update | exact ⟨fun _ hp => hp⟩
    | exact ⟨fun p hp => by dsimp only; repeat' (first | exact hp | omega | split)⟩

theorem opRestart_keeps {pt : Parts} {a : State} (v : Nat) (s : State) (h : Keeps pt a s) (x_tiles : pt.tiles = false := by
    assumption) (x_ctxs : pt.ctxs = false := by assumption) (x_teams : pt.teams = false := by assumption) (x_teamCmds :
    pt.teamCmds = false := by assumption) (x_chans : pt.chans = false := by assumption) (x_net : pt.net = false := by assumption)
    (x_gtallies : pt.gtallies = false := by assumption) (x_huddles : pt.huddles = false := by assumption) (x_reds : pt.reds =
    false := by assumption) (x_pools : pt.pools = false := by assumption) (x_snaps : pt.snaps = false := by assumption) (x_trouble
    : pt.trouble = false := by assumption) (x_device : pt.device = false := by assumption) (x_ports : pt.ports = false := by
    assumption) (x_fabric : pt.fabric = false := by assumption) (x_camp : pt.camp = false := by assumption) (x_fns : pt.fns =
    false := by assumption) (x_service : pt.service = false := by assumption) (x_power : pt.power = false := by assumption)
    (x_trust : pt.trust = false := by assumption) :
        Keeps pt a (opRestart v s).st := by
  unfold opRestart
  try dsimp only
  repeat' first
    | with_reducible assumption | with_reducible apply KeepsR.next | with_reducible apply KeepsR.fault
    | with_reducible apply KeepsR.atPlace | with_reducible apply KeepsO.some | with_reducible apply KeepsO.none
    | with_reducible apply KeepsO.getD | with_reducible apply State.modPower_keeps
    | with_reducible apply State.startBringup_keeps | with_reducible apply answer_keeps | with_reducible apply accept_keeps
    | with_reducible apply State.restartAll_keeps | with_reducible apply Keeps.foldl | with_reducible apply Keeps.foldlFst
    | with_reducible apply Keeps.foldlSnd | ((with_reducible apply Same.mk) <;> first | exact no ‹_› | exact fun _ => rfl)
    | intro _ | split | assumption | with_reducible apply Keeps.sends | fail_if_no_progress with_reducible apply Keeps.update
    | exact ⟨fun _ hp => hp⟩ | exact ⟨fun p hp => by dsimp only; repeat' (first | exact hp | omega | split)⟩

end Sys2Proof.Machine
end

