-- ==== Sys2Proof/Laws/KeepSettings.lean ====
section
/-!
SUPPORT. What the operations of Machine/Settings.lean keep (Laws/Keeps.lean).
-/
namespace Sys2Proof.Machine

set_option linter.unusedTactic false
set_option linter.unreachableTactic false
set_option Elab.async false

theorem setTo_keeps {pt : Parts} {a : State} (bad : Bool) (late : Bool) (f : State → State) (s : State) (h : Keeps pt a s) (hf : ∀
    (y0 : State), Keeps pt a y0 → Keeps pt a (f y0)) :
        Keeps pt a (setTo bad late f s).st := by
  unfold setTo
  try dsimp only
  repeat' first
    | with_reducible assumption | with_reducible apply hf | with_reducible apply KeepsR.next | with_reducible apply KeepsR.fault
    | with_reducible apply KeepsR.atPlace | with_reducible apply KeepsO.some | with_reducible apply KeepsO.none
    | with_reducible apply KeepsO.getD | with_reducible apply answer_keeps | with_reducible apply accept_keeps
    | with_reducible apply Keeps.foldl | with_reducible apply Keeps.foldlFst | with_reducible apply Keeps.foldlSnd
    | ((with_reducible apply Same.mk) <;> first | exact no ‹_› | exact fun _ => rfl) | intro _ | split | assumption
    | with_reducible apply Keeps.sends | fail_if_no_progress with_reducible apply Keeps.update

theorem State.modTrouble_keeps {pt : Parts} {a : State} (s : State) (f : Trouble → Trouble) (h : Keeps pt a s) (x_trouble :
    pt.trouble = false := by assumption) :
        Keeps pt a (State.modTrouble s f) := by
  unfold State.modTrouble
  try dsimp only
  repeat' first
    | with_reducible assumption | with_reducible apply KeepsR.next | with_reducible apply KeepsR.fault
    | with_reducible apply KeepsR.atPlace | with_reducible apply KeepsO.some | with_reducible apply KeepsO.none
    | with_reducible apply KeepsO.getD | with_reducible apply Keeps.foldl | with_reducible apply Keeps.foldlFst
    | with_reducible apply Keeps.foldlSnd | ((with_reducible apply Same.mk) <;> first | exact no ‹_› | exact fun _ => rfl)
    | intro _ | split | assumption | with_reducible apply Keeps.sends | fail_if_no_progress with_reducible apply Keeps.update

theorem State.modFabric_keeps {pt : Parts} {a : State} (s : State) (f : Fabric → Fabric) (h : Keeps pt a s) (x_fabric : pt.fabric
    = false := by assumption) :
        Keeps pt a (State.modFabric s f) := by
  unfold State.modFabric
  try dsimp only
  repeat' first
    | with_reducible assumption | with_reducible apply KeepsR.next | with_reducible apply KeepsR.fault
    | with_reducible apply KeepsR.atPlace | with_reducible apply KeepsO.some | with_reducible apply KeepsO.none
    | with_reducible apply KeepsO.getD | with_reducible apply Keeps.foldl | with_reducible apply Keeps.foldlFst
    | with_reducible apply Keeps.foldlSnd | ((with_reducible apply Same.mk) <;> first | exact no ‹_› | exact fun _ => rfl)
    | intro _ | split | assumption | with_reducible apply Keeps.sends | fail_if_no_progress with_reducible apply Keeps.update

theorem State.modPanel_keeps {pt : Parts} {a : State} (s : State) (f : Panel → Panel) (h : Keeps pt a s) (x_panel : pt.panel =
    false := by assumption) :
        Keeps pt a (State.modPanel s f) := by
  unfold State.modPanel
  try dsimp only
  repeat' first
    | with_reducible assumption | with_reducible apply KeepsR.next | with_reducible apply KeepsR.fault
    | with_reducible apply KeepsR.atPlace | with_reducible apply KeepsO.some | with_reducible apply KeepsO.none
    | with_reducible apply KeepsO.getD | with_reducible apply Keeps.foldl | with_reducible apply Keeps.foldlFst
    | with_reducible apply Keeps.foldlSnd | ((with_reducible apply Same.mk) <;> first | exact no ‹_› | exact fun _ => rfl)
    | intro _ | split | assumption | with_reducible apply Keeps.sends | fail_if_no_progress with_reducible apply Keeps.update

theorem State.modCamp_keeps {pt : Parts} {a : State} (s : State) (f : Camp → Camp) (h : Keeps pt a s) (x_camp : pt.camp = false :=
    by assumption) :
        Keeps pt a (State.modCamp s f) := by
  unfold State.modCamp
  try dsimp only
  repeat' first
    | with_reducible assumption | with_reducible apply KeepsR.next | with_reducible apply KeepsR.fault
    | with_reducible apply KeepsR.atPlace | with_reducible apply KeepsO.some | with_reducible apply KeepsO.none
    | with_reducible apply KeepsO.getD | with_reducible apply Keeps.foldl | with_reducible apply Keeps.foldlFst
    | with_reducible apply Keeps.foldlSnd | ((with_reducible apply Same.mk) <;> first | exact no ‹_› | exact fun _ => rfl)
    | intro _ | split | assumption | with_reducible apply Keeps.sends | fail_if_no_progress with_reducible apply Keeps.update

theorem State.setSplit_keeps {pt : Parts} {a : State} (s : State) (scratch : Nat) (exact : Nat) (h : Keeps pt a s) (x_mem : pt.mem
    = false := by assumption) (x_bad : pt.bad = false := by assumption) (x_device : pt.device = false := by assumption) :
        Keeps pt a (State.setSplit s scratch exact) := by
  have hw : ∀ (l m : List Host.Cell), Memory.wf m = true → Memory.wf (l.foldl (fun m c => poke c.1 c.2 m) m) = true := by
    intro l
    induction l with
    | nil => exact fun _ w => w
    | cons c l ih => exact fun m w => ih _ (Memory.wf_poke _ w)
  unfold State.setSplit
  extract_lets keep
  have h1 := h.storeMem _ fun w => hw ((Config.freeCells s.draws).filter fun c => !keep c.1) _ (Memory.wf_filter (fun c => keep c.1) w)
  exact h1.calm rfl rfl rfl rfl rfl

theorem opPowerMemory_keeps {pt : Parts} {a : State} (i : Nat) (sub : Nat) (v : Nat) (s : State) (h : Keeps pt a s) (x_mem :
    pt.mem = false := by assumption) (x_bad : pt.bad = false := by assumption) (x_device : pt.device = false := by assumption)
    (x_power : pt.power = false := by assumption) (x_panel : pt.panel = false := by assumption) :
        Keeps pt a (opPowerMemory i sub v s).st := by
  unfold opPowerMemory
  try dsimp only
  repeat' first
    | with_reducible assumption | with_reducible apply KeepsR.next | with_reducible apply KeepsR.fault
    | with_reducible apply KeepsR.atPlace | with_reducible apply KeepsO.some | with_reducible apply KeepsO.none
    | with_reducible apply KeepsO.getD | with_reducible apply State.modPower_keeps | with_reducible apply refuse_keeps
    | with_reducible apply setTo_keeps | with_reducible apply State.modPanel_keeps | with_reducible apply State.setSplit_keeps
    | with_reducible apply Keeps.foldl | with_reducible apply Keeps.foldlFst | with_reducible apply Keeps.foldlSnd
    | ((with_reducible apply Same.mk) <;> first | exact no ‹_› | exact fun _ => rfl) | intro _ | split | assumption
    | with_reducible apply Keeps.sends | fail_if_no_progress with_reducible apply Keeps.update | exact ⟨fun _ hp => hp⟩
    | exact ⟨fun p hp => by dsimp only; repeat' (first | exact hp | omega | split)⟩

theorem State.forgetDevice_keeps {pt : Parts} {a : State} (s : State) (d : Nat) (h : Keeps pt a s) (x_fabric : pt.fabric = false
    := by assumption) :
        Keeps pt a (State.forgetDevice s d) := by
  unfold State.forgetDevice
  try dsimp only
  repeat' first
    | with_reducible assumption | with_reducible apply KeepsR.next | with_reducible apply KeepsR.fault
    | with_reducible apply KeepsR.atPlace | with_reducible apply KeepsO.some | with_reducible apply KeepsO.none
    | with_reducible apply KeepsO.getD | with_reducible apply State.modFabric_keeps | with_reducible apply Keeps.foldl
    | with_reducible apply Keeps.foldlFst | with_reducible apply Keeps.foldlSnd
    | ((with_reducible apply Same.mk) <;> first | exact no ‹_› | exact fun _ => rfl) | intro _ | split | assumption
    | with_reducible apply Keeps.sends | fail_if_no_progress with_reducible apply Keeps.update

theorem opEpochClear_keeps {pt : Parts} {a : State} (d : Nat) (s : State) (h : Keeps pt a s) (x_fabric : pt.fabric = false := by
    assumption) :
        Keeps pt a (opEpochClear d s).st := by
  unfold opEpochClear
  try dsimp only
  repeat' first
    | with_reducible assumption | with_reducible apply KeepsR.next | with_reducible apply KeepsR.fault
    | with_reducible apply KeepsR.atPlace | with_reducible apply KeepsO.some | with_reducible apply KeepsO.none
    | with_reducible apply KeepsO.getD | with_reducible apply setTo_keeps | with_reducible apply State.forgetDevice_keeps
    | with_reducible apply Keeps.foldl | with_reducible apply Keeps.foldlFst | with_reducible apply Keeps.foldlSnd
    | ((with_reducible apply Same.mk) <;> first | exact no ‹_› | exact fun _ => rfl) | intro _ | split | assumption
    | with_reducible apply Keeps.sends | fail_if_no_progress with_reducible apply Keeps.update

theorem opPortRetrain_keeps {pt : Parts} {a : State} (p : Nat) (v : Nat) (s : State) (h : Keeps pt a s) (x_tiles : pt.tiles =
    false := by assumption) (x_trouble : pt.trouble = false := by assumption) (x_ports : pt.ports = false := by assumption)
    (x_fabric : pt.fabric = false := by assumption) :
        Keeps pt a (opPortRetrain p v s).st := by
  unfold opPortRetrain
  try dsimp only
  repeat' first
    | with_reducible assumption | with_reducible apply KeepsR.next | with_reducible apply KeepsR.fault
    | with_reducible apply KeepsR.atPlace | with_reducible apply KeepsO.some | with_reducible apply KeepsO.none
    | with_reducible apply KeepsO.getD | with_reducible apply State.startPort_keeps | with_reducible apply setTo_keeps
    | with_reducible apply Keeps.foldl | with_reducible apply Keeps.foldlFst | with_reducible apply Keeps.foldlSnd
    | ((with_reducible apply Same.mk) <;> first | exact no ‹_› | exact fun _ => rfl) | intro _ | split | assumption
    | with_reducible apply Keeps.sends | fail_if_no_progress with_reducible apply Keeps.update

theorem opFabric_keeps {pt : Parts} {a : State} (i : Nat) (sub : Nat) (v : Nat) (s : State) (h : Keeps pt a s) (x_tiles : pt.tiles
    = false := by assumption) (x_trouble : pt.trouble = false := by assumption) (x_device : pt.device = false := by assumption)
    (x_ports : pt.ports = false := by assumption) (x_fabric : pt.fabric = false := by assumption) (x_camp : pt.camp = false := by
    assumption) (x_panel : pt.panel = false := by assumption) :
        Keeps pt a (opFabric i sub v s).st := by
  unfold opFabric
  try dsimp only
  repeat' first
    | with_reducible assumption | with_reducible apply KeepsR.next | with_reducible apply KeepsR.fault
    | with_reducible apply KeepsR.atPlace | with_reducible apply KeepsO.some | with_reducible apply KeepsO.none
    | with_reducible apply KeepsO.getD | with_reducible apply State.modPort_keeps | with_reducible apply refuse_keeps
    | with_reducible apply setTo_keeps | with_reducible apply State.modFabric_keeps | with_reducible apply State.modPanel_keeps
    | with_reducible apply State.modCamp_keeps | with_reducible apply opEpochClear_keeps
    | with_reducible apply opPortRetrain_keeps | with_reducible apply Keeps.foldl | with_reducible apply Keeps.foldlFst
    | with_reducible apply Keeps.foldlSnd | ((with_reducible apply Same.mk) <;> first | exact no ‹_› | exact fun _ => rfl)
    | intro _ | split | assumption | with_reducible apply Keeps.sends | fail_if_no_progress with_reducible apply Keeps.update

theorem opWindow_keeps {pt : Parts} {a : State} (c : Nat) (sub : Nat) (v : Nat) (s : State) (h : Keeps pt a s) (x_ctxs : pt.ctxs =
    false := by assumption) :
        Keeps pt a (opWindow c sub v s).st := by
  unfold opWindow
  try dsimp only
  repeat' first
    | with_reducible assumption | with_reducible apply KeepsR.next | with_reducible apply KeepsR.fault
    | with_reducible apply KeepsR.atPlace | with_reducible apply KeepsO.some | with_reducible apply KeepsO.none
    | with_reducible apply KeepsO.getD | with_reducible apply State.modCtx_keeps | with_reducible apply setTo_keeps
    | with_reducible apply Keeps.foldl | with_reducible apply Keeps.foldlFst | with_reducible apply Keeps.foldlSnd
    | ((with_reducible apply Same.mk) <;> first | exact no ‹_› | exact fun _ => rfl) | intro _ | split | assumption
    | with_reducible apply Keeps.sends | fail_if_no_progress with_reducible apply Keeps.update

theorem opContext_keeps {pt : Parts} {a : State} (i : Nat) (c : Nat) (v : Nat) (s : State) (h : Keeps pt a s) (x_ctxs : pt.ctxs =
    false := by assumption) :
        Keeps pt a (opContext i c v s).st := by
  unfold opContext
  try dsimp only
  repeat' first
    | with_reducible assumption | with_reducible apply KeepsR.next | with_reducible apply KeepsR.fault
    | with_reducible apply KeepsR.atPlace | with_reducible apply KeepsO.some | with_reducible apply KeepsO.none
    | with_reducible apply KeepsO.getD | with_reducible apply State.modCtx_keeps | with_reducible apply refuse_keeps
    | with_reducible apply setTo_keeps | with_reducible apply Keeps.foldl | with_reducible apply Keeps.foldlFst
    | with_reducible apply Keeps.foldlSnd | ((with_reducible apply Same.mk) <;> first | exact no ‹_› | exact fun _ => rfl)
    | intro _ | split | assumption | with_reducible apply Keeps.sends | fail_if_no_progress with_reducible apply Keeps.update

theorem opAttn_keeps {pt : Parts} {a : State} (v : Nat) (s : State) (h : Keeps pt a s) (x_tiles : pt.tiles = false := by
    assumption) (x_ctxs : pt.ctxs = false := by assumption) (x_mem : pt.mem = false := by assumption) (x_bad : pt.bad = false :=
    by assumption) (x_snaps : pt.snaps = false := by assumption) (x_trouble : pt.trouble = false := by assumption) (x_ports :
    pt.ports = false := by assumption) (x_panel : pt.panel = false := by assumption) :
        Keeps pt a (opAttn v s).st := by
  unfold opAttn
  try dsimp only
  repeat' first
    | with_reducible assumption | with_reducible apply KeepsR.next | with_reducible apply KeepsR.fault
    | with_reducible apply KeepsR.atPlace | with_reducible apply KeepsO.some | with_reducible apply KeepsO.none
    | with_reducible apply KeepsO.getD | with_reducible apply State.attnSet_keeps | with_reducible apply State.attnClear_keeps
    | with_reducible apply setTo_keeps | with_reducible apply Keeps.foldl | with_reducible apply Keeps.foldlFst
    | with_reducible apply Keeps.foldlSnd | ((with_reducible apply Same.mk) <;> first | exact no ‹_› | exact fun _ => rfl)
    | intro _ | split | assumption | with_reducible apply Keeps.sends | fail_if_no_progress with_reducible apply Keeps.update

theorem opMemGrant_keeps {pt : Parts} {a : State} (c : Nat) (sub : Nat) (v : Nat) (s : State) (h : Keeps pt a s) (x_ctxs : pt.ctxs
    = false := by assumption) :
        Keeps pt a (opMemGrant c sub v s).st := by
  unfold opMemGrant
  try dsimp only
  repeat' first
    | with_reducible assumption | with_reducible apply KeepsR.next | with_reducible apply KeepsR.fault
    | with_reducible apply KeepsR.atPlace | with_reducible apply KeepsO.some | with_reducible apply KeepsO.none
    | with_reducible apply KeepsO.getD | with_reducible apply State.modCtx_keeps | with_reducible apply setTo_keeps
    | with_reducible apply Keeps.foldl | with_reducible apply Keeps.foldlFst | with_reducible apply Keeps.foldlSnd
    | ((with_reducible apply Same.mk) <;> first | exact no ‹_› | exact fun _ => rfl) | intro _ | split | assumption
    | with_reducible apply Keeps.sends | fail_if_no_progress with_reducible apply Keeps.update

theorem opGuard_keeps {pt : Parts} {a : State} (c : Nat) (sub : Nat) (v : Nat) (s : State) (h : Keeps pt a s) (x_ctxs : pt.ctxs =
    false := by assumption) :
        Keeps pt a (opGuard c sub v s).st := by
  unfold opGuard
  try dsimp only
  repeat' first
    | with_reducible assumption | with_reducible apply KeepsR.next | with_reducible apply KeepsR.fault
    | with_reducible apply KeepsR.atPlace | with_reducible apply KeepsO.some | with_reducible apply KeepsO.none
    | with_reducible apply KeepsO.getD | with_reducible apply State.modCtx_keeps | with_reducible apply setTo_keeps
    | with_reducible apply Keeps.foldl | with_reducible apply Keeps.foldlFst | with_reducible apply Keeps.foldlSnd
    | ((with_reducible apply Same.mk) <;> first | exact no ‹_› | exact fun _ => rfl) | intro _ | split | assumption
    | with_reducible apply Keeps.sends | fail_if_no_progress with_reducible apply Keeps.update

theorem State.setJob_keeps {pt : Parts} {a : State} (s : State) (c : Nat) (m : BitVec 128) (ranks : BitVec 512) (h : Keeps pt a s)
    (x_ctxs : pt.ctxs = false := by assumption) :
        Keeps pt a (State.setJob s c m ranks) := by
  unfold State.setJob
  try dsimp only
  repeat' first
    | with_reducible assumption | with_reducible apply KeepsR.next | with_reducible apply KeepsR.fault
    | with_reducible apply KeepsR.atPlace | with_reducible apply KeepsO.some | with_reducible apply KeepsO.none
    | with_reducible apply KeepsO.getD | with_reducible apply State.modCtx_keeps | with_reducible apply Keeps.foldl
    | with_reducible apply Keeps.foldlFst | with_reducible apply Keeps.foldlSnd
    | ((with_reducible apply Same.mk) <;> first | exact no ‹_› | exact fun _ => rfl) | intro _ | split | assumption
    | with_reducible apply Keeps.sends | fail_if_no_progress with_reducible apply Keeps.update

theorem opJobMap_keeps {pt : Parts} {a : State} (c : Nat) (v : Nat) (s : State) (h : Keeps pt a s) (x_ctxs : pt.ctxs = false := by
    assumption) :
        Keeps pt a (opJobMap c v s).st := by
  unfold opJobMap
  try dsimp only
  repeat' first
    | with_reducible assumption | with_reducible apply KeepsR.next | with_reducible apply KeepsR.fault
    | with_reducible apply KeepsR.atPlace | with_reducible apply KeepsO.some | with_reducible apply KeepsO.none
    | with_reducible apply KeepsO.getD | with_reducible apply setTo_keeps | with_reducible apply State.setJob_keeps
    | with_reducible apply Keeps.foldl | with_reducible apply Keeps.foldlFst | with_reducible apply Keeps.foldlSnd
    | ((with_reducible apply Same.mk) <;> first | exact no ‹_› | exact fun _ => rfl) | intro _ | split | assumption
    | with_reducible apply Keeps.sends | fail_if_no_progress with_reducible apply Keeps.update

theorem opJobRanks_keeps {pt : Parts} {a : State} (c : Nat) (v : Nat) (s : State) (h : Keeps pt a s) (x_ctxs : pt.ctxs = false :=
    by assumption) :
        Keeps pt a (opJobRanks c v s).st := by
  unfold opJobRanks
  try dsimp only
  repeat' first
    | with_reducible assumption | with_reducible apply KeepsR.next | with_reducible apply KeepsR.fault
    | with_reducible apply KeepsR.atPlace | with_reducible apply KeepsO.some | with_reducible apply KeepsO.none
    | with_reducible apply KeepsO.getD | with_reducible apply setTo_keeps | with_reducible apply State.setJob_keeps
    | with_reducible apply Keeps.foldl | with_reducible apply Keeps.foldlFst | with_reducible apply Keeps.foldlSnd
    | ((with_reducible apply Same.mk) <;> first | exact no ‹_› | exact fun _ => rfl) | intro _ | split | assumption
    | with_reducible apply Keeps.sends | fail_if_no_progress with_reducible apply Keeps.update

theorem opRecordClear_keeps {pt : Parts} {a : State} (n : Nat) (k : Nat) (v : Nat) (s : State) (h : Keeps pt a s) (x_tiles :
    pt.tiles = false := by assumption) :
        Keeps pt a (opRecordClear n k v s).st := by
  unfold opRecordClear
  try dsimp only
  repeat' first
    | with_reducible assumption | with_reducible apply KeepsR.next | with_reducible apply KeepsR.fault
    | with_reducible apply KeepsR.atPlace | with_reducible apply KeepsO.some | with_reducible apply KeepsO.none
    | with_reducible apply KeepsO.getD | with_reducible apply State.modTile_keeps | with_reducible apply accept_keeps
    | with_reducible apply Keeps.foldl | with_reducible apply Keeps.foldlFst | with_reducible apply Keeps.foldlSnd
    | ((with_reducible apply Same.mk) <;> first | exact no ‹_› | exact fun _ => rfl) | intro _ | split | assumption
    | with_reducible apply Keeps.sends | fail_if_no_progress with_reducible apply Keeps.update

theorem State.clearEcc_keeps {pt : Parts} {a : State} (s : State) (h : Keeps pt a s) (x_trouble : pt.trouble = false := by
    assumption) :
        Keeps pt a (State.clearEcc s) := by
  unfold State.clearEcc
  try dsimp only
  repeat' first
    | with_reducible assumption | with_reducible apply KeepsR.next | with_reducible apply KeepsR.fault
    | with_reducible apply KeepsR.atPlace | with_reducible apply KeepsO.some | with_reducible apply KeepsO.none
    | with_reducible apply KeepsO.getD | with_reducible apply State.modTrouble_keeps | with_reducible apply Keeps.foldl
    | with_reducible apply Keeps.foldlFst | with_reducible apply Keeps.foldlSnd
    | ((with_reducible apply Same.mk) <;> first | exact no ‹_› | exact fun _ => rfl) | intro _ | split | assumption
    | with_reducible apply Keeps.sends | fail_if_no_progress with_reducible apply Keeps.update

theorem State.clearTileCounts_keeps {pt : Parts} {a : State} (s : State) (h : Keeps pt a s) (x_tiles : pt.tiles = false := by
    assumption) :
        Keeps pt a (State.clearTileCounts s) := by
  unfold State.clearTileCounts
  try dsimp only
  repeat' first
    | with_reducible assumption | with_reducible apply KeepsR.next | with_reducible apply KeepsR.fault
    | with_reducible apply KeepsR.atPlace | with_reducible apply KeepsO.some | with_reducible apply KeepsO.none
    | with_reducible apply KeepsO.getD | with_reducible apply Keeps.foldl | with_reducible apply Keeps.foldlFst
    | with_reducible apply Keeps.foldlSnd | ((with_reducible apply Same.mk) <;> first | exact no ‹_› | exact fun _ => rfl)
    | intro _ | split | assumption | with_reducible apply Keeps.sends | fail_if_no_progress with_reducible apply Keeps.update

theorem State.clearStale_keeps {pt : Parts} {a : State} (s : State) (h : Keeps pt a s) (x_trouble : pt.trouble = false := by
    assumption) :
        Keeps pt a (State.clearStale s) := by
  unfold State.clearStale
  try dsimp only
  repeat' first
    | with_reducible assumption | with_reducible apply KeepsR.next | with_reducible apply KeepsR.fault
    | with_reducible apply KeepsR.atPlace | with_reducible apply KeepsO.some | with_reducible apply KeepsO.none
    | with_reducible apply KeepsO.getD | with_reducible apply State.modTrouble_keeps | with_reducible apply Keeps.foldl
    | with_reducible apply Keeps.foldlFst | with_reducible apply Keeps.foldlSnd
    | ((with_reducible apply Same.mk) <;> first | exact no ‹_› | exact fun _ => rfl) | intro _ | split | assumption
    | with_reducible apply Keeps.sends | fail_if_no_progress with_reducible apply Keeps.update

theorem State.clearSeams_keeps {pt : Parts} {a : State} (s : State) (h : Keeps pt a s) (x_trouble : pt.trouble = false := by
    assumption) :
        Keeps pt a (State.clearSeams s) := by
  unfold State.clearSeams
  try dsimp only
  repeat' first
    | with_reducible assumption | with_reducible apply KeepsR.next | with_reducible apply KeepsR.fault
    | with_reducible apply KeepsR.atPlace | with_reducible apply KeepsO.some | with_reducible apply KeepsO.none
    | with_reducible apply KeepsO.getD | with_reducible apply State.modTrouble_keeps | with_reducible apply Keeps.foldl
    | with_reducible apply Keeps.foldlFst | with_reducible apply Keeps.foldlSnd
    | ((with_reducible apply Same.mk) <;> first | exact no ‹_› | exact fun _ => rfl) | intro _ | split | assumption
    | with_reducible apply Keeps.sends | fail_if_no_progress with_reducible apply Keeps.update

theorem State.clearAlarmLog_keeps {pt : Parts} {a : State} (s : State) (h : Keeps pt a s) (x_trouble : pt.trouble = false := by
    assumption) :
        Keeps pt a (State.clearAlarmLog s) := by
  unfold State.clearAlarmLog
  try dsimp only
  repeat' first
    | with_reducible assumption | with_reducible apply KeepsR.next | with_reducible apply KeepsR.fault
    | with_reducible apply KeepsR.atPlace | with_reducible apply KeepsO.some | with_reducible apply KeepsO.none
    | with_reducible apply KeepsO.getD | with_reducible apply State.modTrouble_keeps | with_reducible apply Keeps.foldl
    | with_reducible apply Keeps.foldlFst | with_reducible apply Keeps.foldlSnd
    | ((with_reducible apply Same.mk) <;> first | exact no ‹_› | exact fun _ => rfl) | intro _ | split | assumption
    | with_reducible apply Keeps.sends | fail_if_no_progress with_reducible apply Keeps.update

theorem State.clearDumpFlag_keeps {pt : Parts} {a : State} (s : State) (h : Keeps pt a s) (x_trouble : pt.trouble = false := by
    assumption) :
        Keeps pt a (State.clearDumpFlag s) := by
  unfold State.clearDumpFlag
  try dsimp only
  repeat' first
    | with_reducible assumption | with_reducible apply KeepsR.next | with_reducible apply KeepsR.fault
    | with_reducible apply KeepsR.atPlace | with_reducible apply KeepsO.some | with_reducible apply KeepsO.none
    | with_reducible apply KeepsO.getD | with_reducible apply State.modTrouble_keeps | with_reducible apply Keeps.foldl
    | with_reducible apply Keeps.foldlFst | with_reducible apply Keeps.foldlSnd
    | ((with_reducible apply Same.mk) <;> first | exact no ‹_› | exact fun _ => rfl) | intro _ | split | assumption
    | with_reducible apply Keeps.sends | fail_if_no_progress with_reducible apply Keeps.update

theorem opTroubleClear_keeps {pt : Parts} {a : State} (v : Nat) (s : State) (h : Keeps pt a s) (x_tiles : pt.tiles = false := by
    assumption) (x_trouble : pt.trouble = false := by assumption) :
        Keeps pt a (opTroubleClear v s).st := by
  unfold opTroubleClear
  try dsimp only
  repeat' first
    | with_reducible assumption | with_reducible apply KeepsR.next | with_reducible apply KeepsR.fault
    | with_reducible apply KeepsR.atPlace | with_reducible apply KeepsO.some | with_reducible apply KeepsO.none
    | with_reducible apply KeepsO.getD | with_reducible apply setTo_keeps | with_reducible apply State.clearEcc_keeps
    | with_reducible apply State.clearTileCounts_keeps | with_reducible apply State.clearStale_keeps
    | with_reducible apply State.clearSeams_keeps | with_reducible apply State.clearAlarmLog_keeps
    | with_reducible apply State.clearDumpFlag_keeps | with_reducible apply Keeps.foldl | with_reducible apply Keeps.foldlFst
    | with_reducible apply Keeps.foldlSnd | ((with_reducible apply Same.mk) <;> first | exact no ‹_› | exact fun _ => rfl)
    | intro _ | split | assumption | with_reducible apply Keeps.sends | fail_if_no_progress with_reducible apply Keeps.update

theorem opDumpRequest_keeps {pt : Parts} {a : State} (v : Nat) (s : State) (h : Keeps pt a s) (x_trouble : pt.trouble = false :=
    by assumption) :
        Keeps pt a (opDumpRequest v s).st := by
  unfold opDumpRequest
  try dsimp only
  repeat' first
    | with_reducible assumption | with_reducible apply KeepsR.next | with_reducible apply KeepsR.fault
    | with_reducible apply KeepsR.atPlace | with_reducible apply KeepsO.some | with_reducible apply KeepsO.none
    | with_reducible apply KeepsO.getD | with_reducible apply setTo_keeps | with_reducible apply State.modTrouble_keeps
    | with_reducible apply Keeps.foldl | with_reducible apply Keeps.foldlFst | with_reducible apply Keeps.foldlSnd
    | ((with_reducible apply Same.mk) <;> first | exact no ‹_› | exact fun _ => rfl) | intro _ | split | assumption
    | with_reducible apply Keeps.sends | fail_if_no_progress with_reducible apply Keeps.update

theorem opSubscriber_keeps {pt : Parts} {a : State} (k : Nat) (v : Nat) (s : State) (h : Keeps pt a s) (x_camp : pt.camp = false
    := by assumption) :
        Keeps pt a (opSubscriber k v s).st := by
  unfold opSubscriber
  try dsimp only
  repeat' first
    | with_reducible assumption | with_reducible apply KeepsR.next | with_reducible apply KeepsR.fault
    | with_reducible apply KeepsR.atPlace | with_reducible apply KeepsO.some | with_reducible apply KeepsO.none
    | with_reducible apply KeepsO.getD | with_reducible apply State.modSub_keeps | with_reducible apply setTo_keeps
    | with_reducible apply Keeps.foldl | with_reducible apply Keeps.foldlFst | with_reducible apply Keeps.foldlSnd
    | ((with_reducible apply Same.mk) <;> first | exact no ‹_› | exact fun _ => rfl) | intro _ | split | assumption
    | with_reducible apply Keeps.sends | fail_if_no_progress with_reducible apply Keeps.update

theorem opTrouble_keeps {pt : Parts} {a : State} (i : Nat) (sub : Nat) (v : Nat) (s : State) (h : Keeps pt a s) (x_tiles :
    pt.tiles = false := by assumption) (x_trouble : pt.trouble = false := by assumption) (x_camp : pt.camp = false := by
    assumption) :
        Keeps pt a (opTrouble i sub v s).st := by
  unfold opTrouble
  try dsimp only
  repeat' first
    | with_reducible assumption | with_reducible apply KeepsR.next | with_reducible apply KeepsR.fault
    | with_reducible apply KeepsR.atPlace | with_reducible apply KeepsO.some | with_reducible apply KeepsO.none
    | with_reducible apply KeepsO.getD | with_reducible apply State.deviceFault_keeps | with_reducible apply refuse_keeps
    | with_reducible apply setTo_keeps | with_reducible apply State.modTrouble_keeps | with_reducible apply opTroubleClear_keeps
    | with_reducible apply opDumpRequest_keeps | with_reducible apply opSubscriber_keeps | with_reducible apply Keeps.foldl
    | with_reducible apply Keeps.foldlFst | with_reducible apply Keeps.foldlSnd
    | ((with_reducible apply Same.mk) <;> first | exact no ‹_› | exact fun _ => rfl) | intro _ | split | assumption
    | with_reducible apply Keeps.sends | fail_if_no_progress with_reducible apply Keeps.update

end Sys2Proof.Machine
end

