-- ==== Sys2Proof/Laws/KeepRequests.lean ====
section
/-!
SUPPORT. What the operations of Machine/Requests.lean keep (Laws/Keeps.lean).
-/
namespace Sys2Proof.Machine

set_option linter.unusedTactic false
set_option linter.unreachableTactic false
set_option Elab.async false

theorem opStage_keeps {pt : Parts} {a : State} (h0 : Nat) (body : List Byte) (s : State) (h : Keeps pt a s) (x_trust : pt.trust =
    false := by assumption) :
        Keeps pt a (opStage h0 body s).st := by
  unfold opStage
  try dsimp only
  repeat' first
    | with_reducible assumption | with_reducible apply KeepsR.next | with_reducible apply KeepsR.fault
    | with_reducible apply KeepsR.atPlace | with_reducible apply KeepsO.some | with_reducible apply KeepsO.none
    | with_reducible apply KeepsO.getD | with_reducible apply State.stage_keeps | with_reducible apply refuse_keeps
    | with_reducible apply Keeps.foldl | with_reducible apply Keeps.foldlFst | with_reducible apply Keeps.foldlSnd
    | ((with_reducible apply Same.mk) <;> first | exact no ‹_› | exact fun _ => rfl) | intro _ | split | assumption
    | with_reducible apply Keeps.sends | fail_if_no_progress with_reducible apply Keeps.update

theorem opFwStage_keeps {pt : Parts} {a : State} (a0 : Nat) (s : State) (h : Keeps pt a s) (x_tiles : pt.tiles = false := by
    assumption) (x_ctxs : pt.ctxs = false := by assumption) (x_trouble : pt.trouble = false := by assumption) (x_ports : pt.ports
    = false := by assumption) (x_trust : pt.trust = false := by assumption) :
        Keeps pt a (opFwStage a0 s).st := by
  unfold opFwStage
  try dsimp only
  repeat' first
    | with_reducible assumption | with_reducible apply KeepsR.next | with_reducible apply KeepsR.fault
    | with_reducible apply KeepsR.atPlace | with_reducible apply KeepsO.some | with_reducible apply KeepsO.none
    | with_reducible apply KeepsO.getD | with_reducible apply refuse_keeps | with_reducible apply State.noteUnreadable_keeps
    | with_reducible apply opStage_keeps | with_reducible apply Keeps.foldl | with_reducible apply Keeps.foldlFst
    | with_reducible apply Keeps.foldlSnd | ((with_reducible apply Same.mk) <;> first | exact no ‹_› | exact fun _ => rfl)
    | intro _ | split | assumption | with_reducible apply Keeps.sends | fail_if_no_progress with_reducible apply Keeps.update

theorem opFwUpload_keeps {pt : Parts} {a : State} (bs : List Byte) (s : State) (h : Keeps pt a s) (x_trust : pt.trust = false :=
    by assumption) :
        Keeps pt a (opFwUpload bs s).st := by
  unfold opFwUpload
  exact setTo_keeps _ _ _ _ h fun t ht => ht.trusts _ rfl

theorem opFwStageUpload_keeps {pt : Parts} {a : State} (v : Nat) (s : State) (h : Keeps pt a s) (x_trust : pt.trust = false := by
    assumption) :
        Keeps pt a (opFwStageUpload v s).st := by
  unfold opFwStageUpload
  try dsimp only
  repeat' first
    | assumption | with_reducible apply refuse_keeps | with_reducible apply opStage_keeps
    | (refine Keeps.trusts (opStage_keeps _ _ _ h) _ rfl) | split

theorem State.leaveRom_keeps {pt : Parts} {a : State} (s : State) (h : Keeps pt a s) (x_power : pt.power = false := by assumption)
    (x_trust : pt.trust = false := by assumption) :
        Keeps pt a (State.leaveRom s) := by
  unfold State.leaveRom
  try dsimp only
  repeat' first
    | with_reducible assumption | with_reducible apply KeepsR.next | with_reducible apply KeepsR.fault
    | with_reducible apply KeepsR.atPlace | with_reducible apply KeepsO.some | with_reducible apply KeepsO.none
    | with_reducible apply KeepsO.getD | with_reducible apply State.startCamp_keeps | with_reducible apply Keeps.foldl
    | with_reducible apply Keeps.foldlFst | with_reducible apply Keeps.foldlSnd
    | ((with_reducible apply Same.mk) <;> first | exact no ‹_› | exact fun _ => rfl) | intro _ | split | assumption
    | with_reducible apply Keeps.sends | fail_if_no_progress with_reducible apply Keeps.update

theorem opSvnCommit_keeps {pt : Parts} {a : State} (k : Nat) (v : Nat) (s : State) (h : Keeps pt a s) (x_trust : pt.trust = false
    := by assumption) :
        Keeps pt a (opSvnCommit k v s).st := by
  unfold opSvnCommit setTo answer
  try dsimp only
  split
  · exact refuse_keeps _ _ h
  · next e =>
    refine Keeps.trans h ?_
    refine ⟨rfl, id, fun j => ?_, ⟨[], rfl⟩, id, by
      constructor <;> first | exact no ‹_› | exact fun _ => rfl⟩
    show (lget s.trust.kinds j {}).fused ≤ (lget (lset s.trust.kinds k { s.kind k with fused := v }) j {}).fused
    have hv : (s.kind k).fused ≤ v := by
      simp [List.find?_cons] at e
      split at e <;> simp_all
    rw [lget_lset]
    split
    · next g => exact g.1 ▸ hv
    · exact Nat.le_refl _

theorem opDebugImem_keeps {pt : Parts} {a : State} (bs : List Byte) (s : State) (h : Keeps pt a s) (x_tiles : pt.tiles = false :=
    by assumption) :
        Keeps pt a (opDebugImem bs s).st := by
  unfold opDebugImem
  try dsimp only
  repeat' first
    | with_reducible assumption | with_reducible apply KeepsR.next | with_reducible apply KeepsR.fault
    | with_reducible apply KeepsR.atPlace | with_reducible apply KeepsO.some | with_reducible apply KeepsO.none
    | with_reducible apply KeepsO.getD | with_reducible apply State.modTile_keeps | with_reducible apply answer_keeps
    | with_reducible apply accept_keeps | with_reducible apply Keeps.foldl | with_reducible apply Keeps.foldlFst
    | with_reducible apply Keeps.foldlSnd | ((with_reducible apply Same.mk) <;> first | exact no ‹_› | exact fun _ => rfl)
    | intro _ | split | assumption | with_reducible apply Keeps.sends | fail_if_no_progress with_reducible apply Keeps.update

theorem opTeam_keeps {pt : Parts} {a : State} (w : BitVec 160) (s : State) (h : Keeps pt a s) (x_tiles : pt.tiles = false := by
    assumption) (x_teams : pt.teams = false := by assumption) :
        Keeps pt a (opTeam w s).st := by
  unfold opTeam
  try dsimp only
  repeat' first
    | with_reducible assumption | with_reducible apply KeepsR.next | with_reducible apply KeepsR.fault
    | with_reducible apply KeepsR.atPlace | with_reducible apply KeepsO.some | with_reducible apply KeepsO.none
    | with_reducible apply KeepsO.getD | with_reducible apply refuse_keeps | with_reducible apply opTeamCreate_keeps
    | with_reducible apply opTeamDestroy_keeps | with_reducible apply Keeps.foldl | with_reducible apply Keeps.foldlFst
    | with_reducible apply Keeps.foldlSnd | ((with_reducible apply Same.mk) <;> first | exact no ‹_› | exact fun _ => rfl)
    | intro _ | split | assumption | with_reducible apply Keeps.sends | fail_if_no_progress with_reducible apply Keeps.update

theorem opHuddle_keeps {pt : Parts} {a : State} (w : BitVec 160) (s : State) (h : Keeps pt a s) (x_tiles : pt.tiles = false := by
    assumption) (x_net : pt.net = false := by assumption) (x_huddles : pt.huddles = false := by assumption) :
        Keeps pt a (opHuddle w s).st := by
  unfold opHuddle
  try dsimp only
  repeat' first
    | with_reducible assumption | with_reducible apply KeepsR.next | with_reducible apply KeepsR.fault
    | with_reducible apply KeepsR.atPlace | with_reducible apply KeepsO.some | with_reducible apply KeepsO.none
    | with_reducible apply KeepsO.getD | with_reducible apply refuse_keeps | with_reducible apply opHuddleCreate_keeps
    | with_reducible apply opHuddleDestroy_keeps | with_reducible apply Keeps.foldl | with_reducible apply Keeps.foldlFst
    | with_reducible apply Keeps.foldlSnd | ((with_reducible apply Same.mk) <;> first | exact no ‹_› | exact fun _ => rfl)
    | intro _ | split | assumption | with_reducible apply Keeps.sends | fail_if_no_progress with_reducible apply Keeps.update

theorem opTable_keeps {pt : Parts} {a : State} (i : Nat) (sub : Nat) (bs : List Byte) (s : State) (h : Keeps pt a s) (x_tiles :
    pt.tiles = false := by assumption) (x_ctxs : pt.ctxs = false := by assumption) (x_teams : pt.teams = false := by assumption)
    (x_teamCmds : pt.teamCmds = false := by assumption) (x_chans : pt.chans = false := by assumption) (x_mem : pt.mem = false :=
    by assumption) (x_bad : pt.bad = false := by assumption) (x_net : pt.net = false := by assumption) (x_gtallies : pt.gtallies =
    false := by assumption) (x_huddles : pt.huddles = false := by assumption) (x_reds : pt.reds = false := by assumption) (x_pools
    : pt.pools = false := by assumption) (x_snaps : pt.snaps = false := by assumption) (x_trouble : pt.trouble = false := by
    assumption) (x_device : pt.device = false := by assumption) (x_ports : pt.ports = false := by assumption) (x_fabric :
    pt.fabric = false := by assumption) (x_camp : pt.camp = false := by assumption) (x_fns : pt.fns = false := by assumption)
    (x_service : pt.service = false := by assumption) (x_power : pt.power = false := by assumption) (x_trust : pt.trust = false :=
    by assumption) (x_panel : pt.panel = false := by assumption) :
        Keeps pt a (opTable i sub bs s).st := by
  unfold opTable
  try dsimp only
  repeat' first
    | with_reducible assumption | with_reducible apply KeepsR.next | with_reducible apply KeepsR.fault
    | with_reducible apply KeepsR.atPlace | with_reducible apply KeepsO.some | with_reducible apply KeepsO.none
    | with_reducible apply KeepsO.getD | with_reducible apply refuse_keeps | with_reducible apply accept_keeps
    | with_reducible apply opCtxCreate_keeps | with_reducible apply opCtxReset_keeps | with_reducible apply opCtxDestroy_keeps
    | with_reducible apply opChanCreate_keeps | with_reducible apply opChanDestroy_keeps | with_reducible apply opJobSubmit_keeps
    | with_reducible apply opJobCancel_keeps | with_reducible apply opRestart_keeps | with_reducible apply opAttn_keeps
    | with_reducible apply opFwStage_keeps | with_reducible apply opFwUpload_keeps | with_reducible apply opFwStageUpload_keeps
    | with_reducible apply opSvnCommit_keeps | with_reducible apply opDebugImem_keeps | with_reducible apply opTeam_keeps
    | with_reducible apply opHuddle_keeps | with_reducible apply Keeps.foldl | with_reducible apply Keeps.foldlFst
    | with_reducible apply Keeps.foldlSnd | ((with_reducible apply Same.mk) <;> first | exact no ‹_› | exact fun _ => rfl)
    | intro _ | split | assumption | with_reducible apply Keeps.sends | fail_if_no_progress with_reducible apply Keeps.update

theorem opEntry_keeps {pt : Parts} {a : State} (i : Nat) (sub : Nat) (bs : List Byte) (s : State) (h : Keeps pt a s) (x_tiles :
    pt.tiles = false := by assumption) (x_ctxs : pt.ctxs = false := by assumption) (x_teams : pt.teams = false := by assumption)
    (x_teamCmds : pt.teamCmds = false := by assumption) (x_chans : pt.chans = false := by assumption) (x_mem : pt.mem = false :=
    by assumption) (x_bad : pt.bad = false := by assumption) (x_net : pt.net = false := by assumption) (x_gtallies : pt.gtallies =
    false := by assumption) (x_huddles : pt.huddles = false := by assumption) (x_reds : pt.reds = false := by assumption) (x_pools
    : pt.pools = false := by assumption) (x_snaps : pt.snaps = false := by assumption) (x_trouble : pt.trouble = false := by
    assumption) (x_device : pt.device = false := by assumption) (x_ports : pt.ports = false := by assumption) (x_fabric :
    pt.fabric = false := by assumption) (x_camp : pt.camp = false := by assumption) (x_fns : pt.fns = false := by assumption)
    (x_service : pt.service = false := by assumption) (x_power : pt.power = false := by assumption) (x_trust : pt.trust = false :=
    by assumption) (x_panel : pt.panel = false := by assumption) :
        Keeps pt a (opEntry i sub bs s).st := by
  unfold opEntry
  try dsimp only
  repeat' first
    | with_reducible assumption | with_reducible apply KeepsR.next | with_reducible apply KeepsR.fault
    | with_reducible apply KeepsR.atPlace | with_reducible apply KeepsO.some | with_reducible apply KeepsO.none
    | with_reducible apply KeepsO.getD | with_reducible apply opPowerMemory_keeps | with_reducible apply opFabric_keeps
    | with_reducible apply opWindow_keeps | with_reducible apply opContext_keeps | with_reducible apply opMemGrant_keeps
    | with_reducible apply opGuard_keeps | with_reducible apply opJobMap_keeps | with_reducible apply opJobRanks_keeps
    | with_reducible apply opRecordClear_keeps | with_reducible apply opTrouble_keeps | with_reducible apply opTable_keeps
    | with_reducible apply Keeps.foldl | with_reducible apply Keeps.foldlFst | with_reducible apply Keeps.foldlSnd
    | ((with_reducible apply Same.mk) <;> first | exact no ‹_› | exact fun _ => rfl) | intro _ | split | assumption
    | with_reducible apply Keeps.sends | fail_if_no_progress with_reducible apply Keeps.update

theorem opWrite_keeps {pt : Parts} {a : State} (i : Nat) (sub : Nat) (bs : List Byte) (s : State) (h : Keeps pt a s) (x_tiles :
    pt.tiles = false := by assumption) (x_ctxs : pt.ctxs = false := by assumption) (x_teams : pt.teams = false := by assumption)
    (x_teamCmds : pt.teamCmds = false := by assumption) (x_chans : pt.chans = false := by assumption) (x_mem : pt.mem = false :=
    by assumption) (x_bad : pt.bad = false := by assumption) (x_net : pt.net = false := by assumption) (x_gtallies : pt.gtallies =
    false := by assumption) (x_huddles : pt.huddles = false := by assumption) (x_reds : pt.reds = false := by assumption) (x_pools
    : pt.pools = false := by assumption) (x_snaps : pt.snaps = false := by assumption) (x_trouble : pt.trouble = false := by
    assumption) (x_device : pt.device = false := by assumption) (x_ports : pt.ports = false := by assumption) (x_fabric :
    pt.fabric = false := by assumption) (x_camp : pt.camp = false := by assumption) (x_fns : pt.fns = false := by assumption)
    (x_service : pt.service = false := by assumption) (x_power : pt.power = false := by assumption) (x_trust : pt.trust = false :=
    by assumption) (x_panel : pt.panel = false := by assumption) :
        Keeps pt a (opWrite i sub bs s).st := by
  unfold opWrite
  try dsimp only
  repeat' first
    | with_reducible assumption | with_reducible apply KeepsR.next | with_reducible apply KeepsR.fault
    | with_reducible apply KeepsR.atPlace | with_reducible apply KeepsO.some | with_reducible apply KeepsO.none
    | with_reducible apply KeepsO.getD | with_reducible apply refuse_keeps | with_reducible apply opEntry_keeps
    | with_reducible apply Keeps.foldl | with_reducible apply Keeps.foldlFst | with_reducible apply Keeps.foldlSnd
    | ((with_reducible apply Same.mk) <;> first | exact no ‹_› | exact fun _ => rfl) | intro _ | split | assumption
    | with_reducible apply Keeps.sends | fail_if_no_progress with_reducible apply Keeps.update

theorem afterWrite_keeps {pt : Parts} {a : State} (i : Nat) (bs : List Byte) (s : State) (h : Keeps pt a s) (x_trust : pt.trust =
    false := by assumption) :
        Keeps pt a (afterWrite i bs s) := by
  unfold afterWrite
  try dsimp only
  repeat' first
    | with_reducible assumption | with_reducible apply KeepsR.next | with_reducible apply KeepsR.fault
    | with_reducible apply KeepsR.atPlace | with_reducible apply KeepsO.some | with_reducible apply KeepsO.none
    | with_reducible apply KeepsO.getD | with_reducible apply State.takeNonce_keeps | with_reducible apply Keeps.foldl
    | with_reducible apply Keeps.foldlFst | with_reducible apply Keeps.foldlSnd
    | ((with_reducible apply Same.mk) <;> first | exact no ‹_› | exact fun _ => rfl) | intro _ | split | assumption
    | with_reducible apply Keeps.sends | fail_if_no_progress with_reducible apply Keeps.update

theorem State.answerWrite_keeps {pt : Parts} {a : State} (s : State) (src : Requester) (i : Nat) (sub : Nat) (bs : List Byte) (h :
    Keeps pt a s) (x_tiles : pt.tiles = false := by assumption) (x_ctxs : pt.ctxs = false := by assumption) (x_teams : pt.teams =
    false := by assumption) (x_teamCmds : pt.teamCmds = false := by assumption) (x_chans : pt.chans = false := by assumption)
    (x_mem : pt.mem = false := by assumption) (x_bad : pt.bad = false := by assumption) (x_net : pt.net = false := by assumption)
    (x_gtallies : pt.gtallies = false := by assumption) (x_huddles : pt.huddles = false := by assumption) (x_reds : pt.reds =
    false := by assumption) (x_pools : pt.pools = false := by assumption) (x_snaps : pt.snaps = false := by assumption) (x_trouble
    : pt.trouble = false := by assumption) (x_device : pt.device = false := by assumption) (x_ports : pt.ports = false := by
    assumption) (x_fabric : pt.fabric = false := by assumption) (x_sent : pt.sent = false := by assumption) (x_camp : pt.camp =
    false := by assumption) (x_fns : pt.fns = false := by assumption) (x_service : pt.service = false := by assumption) (x_power :
    pt.power = false := by assumption) (x_trust : pt.trust = false := by assumption) (x_panel : pt.panel = false := by assumption)
    :
        Keeps pt a (State.answerWrite s src i sub bs) := by
  unfold State.answerWrite
  try dsimp only
  repeat' first
    | with_reducible assumption | with_reducible apply KeepsR.next | with_reducible apply KeepsR.fault
    | with_reducible apply KeepsR.atPlace | with_reducible apply KeepsO.some | with_reducible apply KeepsO.none
    | with_reducible apply KeepsO.getD | with_reducible apply State.writeFrame_keeps | with_reducible apply State.leaveRom_keeps
    | with_reducible apply opWrite_keeps | with_reducible apply afterWrite_keeps | with_reducible apply Keeps.foldl
    | with_reducible apply Keeps.foldlFst | with_reducible apply Keeps.foldlSnd
    | ((with_reducible apply Same.mk) <;> first | exact no ‹_› | exact fun _ => rfl) | intro _ | split | assumption
    | with_reducible apply Keeps.sends | fail_if_no_progress with_reducible apply Keeps.update

theorem State.askWrite_keeps {pt : Parts} {a : State} (s : State) (src : Requester) (i : Nat) (sub : Nat) (bs : List Byte) (h :
    Keeps pt a s) (x_tiles : pt.tiles = false := by assumption) (x_ctxs : pt.ctxs = false := by assumption) (x_teams : pt.teams =
    false := by assumption) (x_teamCmds : pt.teamCmds = false := by assumption) (x_chans : pt.chans = false := by assumption)
    (x_mem : pt.mem = false := by assumption) (x_bad : pt.bad = false := by assumption) (x_net : pt.net = false := by assumption)
    (x_gtallies : pt.gtallies = false := by assumption) (x_huddles : pt.huddles = false := by assumption) (x_reds : pt.reds =
    false := by assumption) (x_pools : pt.pools = false := by assumption) (x_snaps : pt.snaps = false := by assumption) (x_trouble
    : pt.trouble = false := by assumption) (x_device : pt.device = false := by assumption) (x_ports : pt.ports = false := by
    assumption) (x_fabric : pt.fabric = false := by assumption) (x_sent : pt.sent = false := by assumption) (x_camp : pt.camp =
    false := by assumption) (x_fns : pt.fns = false := by assumption) (x_service : pt.service = false := by assumption) (x_power :
    pt.power = false := by assumption) (x_trust : pt.trust = false := by assumption) (x_panel : pt.panel = false := by assumption)
    :
        Keeps pt a (State.askWrite s src i sub bs) := by
  unfold State.askWrite
  try dsimp only
  repeat' first
    | with_reducible assumption | with_reducible apply KeepsR.next | with_reducible apply KeepsR.fault
    | with_reducible apply KeepsR.atPlace | with_reducible apply KeepsO.some | with_reducible apply KeepsO.none
    | with_reducible apply KeepsO.getD | with_reducible apply State.answerWrite_keeps | with_reducible apply Keeps.foldl
    | with_reducible apply Keeps.foldlFst | with_reducible apply Keeps.foldlSnd
    | ((with_reducible apply Same.mk) <;> first | exact no ‹_› | exact fun _ => rfl) | intro _ | split | assumption
    | with_reducible apply Keeps.sends | fail_if_no_progress with_reducible apply Keeps.update

/-- A write of an entry changes what the entry's own operation changes, beside the log, the reply and what the ROM restarts. -/
theorem opWrite_keeps_of {pt : Parts} {a : State} (i sub : Nat) (bs : List Byte)
    (hop : ∀ y, Keeps pt a y → Keeps pt a (opEntry i sub bs y).st) (y : State) (h : Keeps pt a y) :
    Keeps pt a (opWrite i sub bs y).st := by
  unfold opWrite
  split
  · exact refuse_keeps _ _ h
  · split
    · exact refuse_keeps _ _ h
    · split
      · exact refuse_keeps _ _ h
      · exact hop _ h

theorem State.askWrite_keeps_of {pt : Parts} {a : State} (s : State) (src : Requester) (i sub : Nat) (bs : List Byte)
    (h : Keeps pt a s) (hop : ∀ y, Keeps pt a y → Keeps pt a (opEntry i sub bs y).st) (x_sent : pt.sent = false := by assumption)
    (x_camp : pt.camp = false := by assumption) (x_fns : pt.fns = false := by assumption)
    (x_power : pt.power = false := by assumption) (x_trust : pt.trust = false := by assumption) :
    Keeps pt a (s.askWrite src i sub bs) := by
  unfold State.askWrite State.answerWrite
  split
  · exact State.leaveRom_keeps _ (State.writeFrame_keeps _ _ _ _ _ _ _ _ h (fun y hy => opWrite_keeps_of i sub bs hop y hy)
      fun y hy => afterWrite_keeps _ _ _ hy)
  · exact h

theorem State.answerRead_keeps {pt : Parts} {a : State} (s : State) (src : Requester) (i : Nat) (sub : Nat) (arg : Nat) (h : Keeps
    pt a s) (x_sent : pt.sent = false := by assumption) (x_camp : pt.camp = false := by assumption) (x_fns : pt.fns = false := by
    assumption) :
        Keeps pt a (State.answerRead s src i sub arg) := by
  unfold State.answerRead
  try dsimp only
  repeat' first
    | with_reducible assumption | with_reducible apply KeepsR.next | with_reducible apply KeepsR.fault
    | with_reducible apply KeepsR.atPlace | with_reducible apply KeepsO.some | with_reducible apply KeepsO.none
    | with_reducible apply KeepsO.getD | with_reducible apply refuse_keeps | with_reducible apply State.sendFrame_keeps
    | with_reducible apply State.replyTo_keeps | with_reducible apply State.fresh?_keeps | with_reducible apply opRead_keeps
    | with_reducible apply Keeps.foldl | with_reducible apply Keeps.foldlFst | with_reducible apply Keeps.foldlSnd
    | ((with_reducible apply Same.mk) <;> first | exact no ‹_› | exact fun _ => rfl) | intro _ | split | assumption
    | with_reducible apply Keeps.sends | fail_if_no_progress with_reducible apply Keeps.update

theorem State.askRead_keeps {pt : Parts} {a : State} (s : State) (src : Requester) (i : Nat) (sub : Nat) (arg : Nat) (h : Keeps pt
    a s) (x_sent : pt.sent = false := by assumption) (x_camp : pt.camp = false := by assumption) (x_fns : pt.fns = false := by
    assumption) :
        Keeps pt a (State.askRead s src i sub arg) := by
  unfold State.askRead
  try dsimp only
  repeat' first
    | with_reducible assumption | with_reducible apply KeepsR.next | with_reducible apply KeepsR.fault
    | with_reducible apply KeepsR.atPlace | with_reducible apply KeepsO.some | with_reducible apply KeepsO.none
    | with_reducible apply KeepsO.getD | with_reducible apply State.answerRead_keeps | with_reducible apply Keeps.foldl
    | with_reducible apply Keeps.foldlFst | with_reducible apply Keeps.foldlSnd
    | ((with_reducible apply Same.mk) <;> first | exact no ‹_› | exact fun _ => rfl) | intro _ | split | assumption
    | with_reducible apply Keeps.sends | fail_if_no_progress with_reducible apply Keeps.update

theorem State.answerDiscover_keeps {pt : Parts} {a : State} (s : State) (src : Requester) (h : Keeps pt a s) (x_sent : pt.sent =
    false := by assumption) (x_camp : pt.camp = false := by assumption) (x_fns : pt.fns = false := by assumption) :
        Keeps pt a (State.answerDiscover s src) := by
  unfold State.answerDiscover
  try dsimp only
  repeat' first
    | with_reducible assumption | with_reducible apply KeepsR.next | with_reducible apply KeepsR.fault
    | with_reducible apply KeepsR.atPlace | with_reducible apply KeepsO.some | with_reducible apply KeepsO.none
    | with_reducible apply KeepsO.getD | with_reducible apply State.sendFrame_keeps | with_reducible apply State.replyTo_keeps
    | with_reducible apply State.fresh?_keeps | with_reducible apply Keeps.foldl | with_reducible apply Keeps.foldlFst
    | with_reducible apply Keeps.foldlSnd | ((with_reducible apply Same.mk) <;> first | exact no ‹_› | exact fun _ => rfl)
    | intro _ | split | assumption | with_reducible apply Keeps.sends | fail_if_no_progress with_reducible apply Keeps.update

theorem State.ackNotify_keeps {pt : Parts} {a : State} (s : State) (ip : BitVec 128) (udp : BitVec 16) (seq : Nat) (h : Keeps pt a
    s) (x_camp : pt.camp = false := by assumption) :
        Keeps pt a (State.ackNotify s ip udp seq) := by
  unfold State.ackNotify
  try dsimp only
  repeat' first
    | with_reducible assumption | with_reducible apply KeepsR.next | with_reducible apply KeepsR.fault
    | with_reducible apply KeepsR.atPlace | with_reducible apply KeepsO.some | with_reducible apply KeepsO.none
    | with_reducible apply KeepsO.getD | with_reducible apply State.modCamp_keeps | with_reducible apply Keeps.foldl
    | with_reducible apply Keeps.foldlFst | with_reducible apply Keeps.foldlSnd
    | ((with_reducible apply Same.mk) <;> first | exact no ‹_› | exact fun _ => rfl) | intro _ | split | assumption
    | with_reducible apply Keeps.sends | fail_if_no_progress with_reducible apply Keeps.update

theorem State.takeNotifyAck_keeps {pt : Parts} {a : State} (s : State) (src : Requester) (h : Keeps pt a s) (x_camp : pt.camp =
    false := by assumption) :
        Keeps pt a (State.takeNotifyAck s src) := by
  unfold State.takeNotifyAck
  try dsimp only
  repeat' first
    | with_reducible assumption | with_reducible apply KeepsR.next | with_reducible apply KeepsR.fault
    | with_reducible apply KeepsR.atPlace | with_reducible apply KeepsO.some | with_reducible apply KeepsO.none
    | with_reducible apply KeepsO.getD | with_reducible apply State.ackNotify_keeps | with_reducible apply Keeps.foldl
    | with_reducible apply Keeps.foldlFst | with_reducible apply Keeps.foldlSnd
    | ((with_reducible apply Same.mk) <;> first | exact no ‹_› | exact fun _ => rfl) | intro _ | split | assumption
    | with_reducible apply Keeps.sends | fail_if_no_progress with_reducible apply Keeps.update

theorem State.malformed_keeps {pt : Parts} {a : State} (s : State) (src : Requester) (q : Req) (bytes : List Byte) (h : Keeps pt a
    s) (x_sent : pt.sent = false := by assumption) (x_fns : pt.fns = false := by assumption) :
        Keeps pt a (State.malformed s src q bytes) := by
  unfold State.malformed
  try dsimp only
  repeat' first
    | with_reducible assumption | with_reducible apply KeepsR.next | with_reducible apply KeepsR.fault
    | with_reducible apply KeepsR.atPlace | with_reducible apply KeepsO.some | with_reducible apply KeepsO.none
    | with_reducible apply KeepsO.getD | with_reducible apply State.sendFrame_keeps | with_reducible apply Keeps.foldl
    | with_reducible apply Keeps.foldlFst | with_reducible apply Keeps.foldlSnd
    | ((with_reducible apply Same.mk) <;> first | exact no ‹_› | exact fun _ => rfl) | intro _ | split | assumption
    | with_reducible apply Keeps.sends | fail_if_no_progress with_reducible apply Keeps.update

theorem State.takeFrame_keeps {pt : Parts} {a : State} (s : State) (src : Word → Requester) (bytes : List Byte) (h : Keeps pt a s)
    (x_tiles : pt.tiles = false := by assumption) (x_ctxs : pt.ctxs = false := by assumption) (x_teams : pt.teams = false := by
    assumption) (x_teamCmds : pt.teamCmds = false := by assumption) (x_chans : pt.chans = false := by assumption) (x_mem : pt.mem
    = false := by assumption) (x_bad : pt.bad = false := by assumption) (x_net : pt.net = false := by assumption) (x_gtallies :
    pt.gtallies = false := by assumption) (x_huddles : pt.huddles = false := by assumption) (x_reds : pt.reds = false := by
    assumption) (x_pools : pt.pools = false := by assumption) (x_snaps : pt.snaps = false := by assumption) (x_trouble :
    pt.trouble = false := by assumption) (x_device : pt.device = false := by assumption) (x_ports : pt.ports = false := by
    assumption) (x_fabric : pt.fabric = false := by assumption) (x_sent : pt.sent = false := by assumption) (x_camp : pt.camp =
    false := by assumption) (x_fns : pt.fns = false := by assumption) (x_service : pt.service = false := by assumption) (x_power :
    pt.power = false := by assumption) (x_trust : pt.trust = false := by assumption) (x_panel : pt.panel = false := by assumption)
    :
        Keeps pt a (State.takeFrame s src bytes) := by
  unfold State.takeFrame
  try dsimp only
  repeat' first
    | with_reducible assumption | with_reducible apply KeepsR.next | with_reducible apply KeepsR.fault
    | with_reducible apply KeepsR.atPlace | with_reducible apply KeepsO.some | with_reducible apply KeepsO.none
    | with_reducible apply KeepsO.getD | with_reducible apply State.answerWrite_keeps
    | with_reducible apply State.answerRead_keeps | with_reducible apply State.answerDiscover_keeps
    | with_reducible apply State.takeNotifyAck_keeps | with_reducible apply State.malformed_keeps
    | with_reducible apply Keeps.foldl | with_reducible apply Keeps.foldlFst | with_reducible apply Keeps.foldlSnd
    | ((with_reducible apply Same.mk) <;> first | exact no ‹_› | exact fun _ => rfl) | intro _ | split | assumption
    | with_reducible apply Keeps.sends | fail_if_no_progress with_reducible apply Keeps.update

theorem execRead_keeps {pt : Parts} {a : State} (src : Requester) (i : Nat) (sub : Nat) (arg : Nat) (s : State) (h : Keeps pt a s)
    (x_sent : pt.sent = false := by assumption) (x_camp : pt.camp = false := by assumption) (x_fns : pt.fns = false := by
    assumption) :
        KeepsR pt a (execRead src i sub arg s) := by
  unfold execRead
  try dsimp only
  repeat' first
    | with_reducible assumption | with_reducible apply KeepsR.next | with_reducible apply KeepsR.fault
    | with_reducible apply KeepsR.atPlace | with_reducible apply KeepsO.some | with_reducible apply KeepsO.none
    | with_reducible apply KeepsO.getD | with_reducible apply State.askRead_keeps | with_reducible apply Keeps.foldl
    | with_reducible apply Keeps.foldlFst | with_reducible apply Keeps.foldlSnd
    | ((with_reducible apply Same.mk) <;> first | exact no ‹_› | exact fun _ => rfl) | intro _ | split | assumption
    | with_reducible apply Keeps.sends | fail_if_no_progress with_reducible apply Keeps.update

theorem execWrite_keeps {pt : Parts} {a : State} (src : Requester) (i : Nat) (sub : Nat) (value : List Byte) (s : State) (h :
    Keeps pt a s) (x_tiles : pt.tiles = false := by assumption) (x_ctxs : pt.ctxs = false := by assumption) (x_teams : pt.teams =
    false := by assumption) (x_teamCmds : pt.teamCmds = false := by assumption) (x_chans : pt.chans = false := by assumption)
    (x_mem : pt.mem = false := by assumption) (x_bad : pt.bad = false := by assumption) (x_net : pt.net = false := by assumption)
    (x_gtallies : pt.gtallies = false := by assumption) (x_huddles : pt.huddles = false := by assumption) (x_reds : pt.reds =
    false := by assumption) (x_pools : pt.pools = false := by assumption) (x_snaps : pt.snaps = false := by assumption) (x_trouble
    : pt.trouble = false := by assumption) (x_device : pt.device = false := by assumption) (x_ports : pt.ports = false := by
    assumption) (x_fabric : pt.fabric = false := by assumption) (x_sent : pt.sent = false := by assumption) (x_camp : pt.camp =
    false := by assumption) (x_fns : pt.fns = false := by assumption) (x_service : pt.service = false := by assumption) (x_power :
    pt.power = false := by assumption) (x_trust : pt.trust = false := by assumption) (x_panel : pt.panel = false := by assumption)
    :
        KeepsR pt a (execWrite src i sub value s) := by
  unfold execWrite
  try dsimp only
  repeat' first
    | with_reducible assumption | with_reducible apply KeepsR.next | with_reducible apply KeepsR.fault
    | with_reducible apply KeepsR.atPlace | with_reducible apply KeepsO.some | with_reducible apply KeepsO.none
    | with_reducible apply KeepsO.getD | with_reducible apply State.askWrite_keeps | with_reducible apply Keeps.foldl
    | with_reducible apply Keeps.foldlFst | with_reducible apply Keeps.foldlSnd
    | ((with_reducible apply Same.mk) <;> first | exact no ‹_› | exact fun _ => rfl) | intro _ | split | assumption
    | with_reducible apply Keeps.sends | fail_if_no_progress with_reducible apply Keeps.update

theorem execDiscover_keeps {pt : Parts} {a : State} (src : Requester) (s : State) (h : Keeps pt a s) (x_sent : pt.sent = false :=
    by assumption) (x_camp : pt.camp = false := by assumption) (x_fns : pt.fns = false := by assumption) :
        KeepsR pt a (execDiscover src s) := by
  unfold execDiscover
  try dsimp only
  repeat' first
    | with_reducible assumption | with_reducible apply KeepsR.next | with_reducible apply KeepsR.fault
    | with_reducible apply KeepsR.atPlace | with_reducible apply KeepsO.some | with_reducible apply KeepsO.none
    | with_reducible apply KeepsO.getD | with_reducible apply State.answerDiscover_keeps | with_reducible apply Keeps.foldl
    | with_reducible apply Keeps.foldlFst | with_reducible apply Keeps.foldlSnd
    | ((with_reducible apply Same.mk) <;> first | exact no ‹_› | exact fun _ => rfl) | intro _ | split | assumption
    | with_reducible apply Keeps.sends | fail_if_no_progress with_reducible apply Keeps.update

theorem execNotifyAck_keeps {pt : Parts} {a : State} (src : Requester) (s : State) (h : Keeps pt a s) (x_camp : pt.camp = false :=
    by assumption) :
        KeepsR pt a (execNotifyAck src s) := by
  unfold execNotifyAck
  try dsimp only
  repeat' first
    | with_reducible assumption | with_reducible apply KeepsR.next | with_reducible apply KeepsR.fault
    | with_reducible apply KeepsR.atPlace | with_reducible apply KeepsO.some | with_reducible apply KeepsO.none
    | with_reducible apply KeepsO.getD | with_reducible apply State.takeNotifyAck_keeps | with_reducible apply Keeps.foldl
    | with_reducible apply Keeps.foldlFst | with_reducible apply Keeps.foldlSnd
    | ((with_reducible apply Same.mk) <;> first | exact no ‹_› | exact fun _ => rfl) | intro _ | split | assumption
    | with_reducible apply Keeps.sends | fail_if_no_progress with_reducible apply Keeps.update

theorem execNotifyResend_keeps {pt : Parts} {a : State} (k : Nat) (s : State) (h : Keeps pt a s) (x_sent : pt.sent = false := by
    assumption) :
        KeepsR pt a (execNotifyResend k s) := by
  unfold execNotifyResend
  try dsimp only
  repeat' first
    | with_reducible assumption | with_reducible apply KeepsR.next | with_reducible apply KeepsR.fault
    | with_reducible apply KeepsR.atPlace | with_reducible apply KeepsO.some | with_reducible apply KeepsO.none
    | with_reducible apply KeepsO.getD | with_reducible apply State.notify_keeps | with_reducible apply Keeps.foldl
    | with_reducible apply Keeps.foldlFst | with_reducible apply Keeps.foldlSnd
    | ((with_reducible apply Same.mk) <;> first | exact no ‹_› | exact fun _ => rfl) | intro _ | split | assumption
    | with_reducible apply Keeps.sends | fail_if_no_progress with_reducible apply Keeps.update

theorem execNeighbourSolicitation_keeps {pt : Parts} {a : State} (target : BitVec 128) (s : State) (h : Keeps pt a s) (x_sent :
    pt.sent = false := by assumption) :
        KeepsR pt a (execNeighbourSolicitation target s) := by
  unfold execNeighbourSolicitation
  try dsimp only
  repeat' first
    | with_reducible assumption | with_reducible apply KeepsR.next | with_reducible apply KeepsR.fault
    | with_reducible apply KeepsR.atPlace | with_reducible apply KeepsO.some | with_reducible apply KeepsO.none
    | with_reducible apply KeepsO.getD | with_reducible apply Keeps.foldl | with_reducible apply Keeps.foldlFst
    | with_reducible apply Keeps.foldlSnd | ((with_reducible apply Same.mk) <;> first | exact no ‹_› | exact fun _ => rfl)
    | intro _ | split | assumption | with_reducible apply Keeps.sends | fail_if_no_progress with_reducible apply Keeps.update

theorem State.mctpControl_keeps {pt : Parts} {a : State} (s : State) (eid : Byte) (inst : Byte) (cmd : Nat) (data : List Byte) (h
    : Keeps pt a s) (x_sent : pt.sent = false := by assumption) :
        Keeps pt a (State.mctpControl s eid inst cmd data) := by
  unfold State.mctpControl
  try dsimp only
  repeat' first
    | with_reducible assumption | with_reducible apply KeepsR.next | with_reducible apply KeepsR.fault
    | with_reducible apply KeepsR.atPlace | with_reducible apply KeepsO.some | with_reducible apply KeepsO.none
    | with_reducible apply KeepsO.getD | with_reducible apply Keeps.foldl | with_reducible apply Keeps.foldlFst
    | with_reducible apply Keeps.foldlSnd | ((with_reducible apply Same.mk) <;> first | exact no ‹_› | exact fun _ => rfl)
    | intro _ | split | assumption | with_reducible apply Keeps.sends | fail_if_no_progress with_reducible apply Keeps.update

theorem execSetEndpointId_keeps {pt : Parts} {a : State} (sender : Byte) (inst : Byte) (eid : Byte) (s : State) (h : Keeps pt a s)
    (x_sent : pt.sent = false := by assumption) (x_camp : pt.camp = false := by assumption) :
        KeepsR pt a (execSetEndpointId sender inst eid s) := by
  unfold execSetEndpointId
  try dsimp only
  repeat' first
    | with_reducible assumption | with_reducible apply KeepsR.next | with_reducible apply KeepsR.fault
    | with_reducible apply KeepsR.atPlace | with_reducible apply KeepsO.some | with_reducible apply KeepsO.none
    | with_reducible apply KeepsO.getD | with_reducible apply State.modCamp_keeps | with_reducible apply State.mctpControl_keeps
    | with_reducible apply Keeps.foldl | with_reducible apply Keeps.foldlFst | with_reducible apply Keeps.foldlSnd
    | ((with_reducible apply Same.mk) <;> first | exact no ‹_› | exact fun _ => rfl) | intro _ | split | assumption
    | with_reducible apply Keeps.sends | fail_if_no_progress with_reducible apply Keeps.update

theorem execGetEndpointId_keeps {pt : Parts} {a : State} (sender : Byte) (inst : Byte) (s : State) (h : Keeps pt a s) (x_sent :
    pt.sent = false := by assumption) :
        KeepsR pt a (execGetEndpointId sender inst s) := by
  unfold execGetEndpointId
  try dsimp only
  repeat' first
    | with_reducible assumption | with_reducible apply KeepsR.next | with_reducible apply KeepsR.fault
    | with_reducible apply KeepsR.atPlace | with_reducible apply KeepsO.some | with_reducible apply KeepsO.none
    | with_reducible apply KeepsO.getD | with_reducible apply State.mctpControl_keeps | with_reducible apply Keeps.foldl
    | with_reducible apply Keeps.foldlFst | with_reducible apply Keeps.foldlSnd
    | ((with_reducible apply Same.mk) <;> first | exact no ‹_› | exact fun _ => rfl) | intro _ | split | assumption
    | with_reducible apply Keeps.sends | fail_if_no_progress with_reducible apply Keeps.update

theorem execGetMctpVersionSupport_keeps {pt : Parts} {a : State} (sender : Byte) (inst : Byte) (msgType : Byte) (s : State) (h :
    Keeps pt a s) (x_sent : pt.sent = false := by assumption) :
        KeepsR pt a (execGetMctpVersionSupport sender inst msgType s) := by
  unfold execGetMctpVersionSupport
  try dsimp only
  repeat' first
    | with_reducible assumption | with_reducible apply KeepsR.next | with_reducible apply KeepsR.fault
    | with_reducible apply KeepsR.atPlace | with_reducible apply KeepsO.some | with_reducible apply KeepsO.none
    | with_reducible apply KeepsO.getD | with_reducible apply State.free_keeps | with_reducible apply State.mctpControl_keeps
    | with_reducible apply Keeps.foldl | with_reducible apply Keeps.foldlFst | with_reducible apply Keeps.foldlSnd
    | ((with_reducible apply Same.mk) <;> first | exact no ‹_› | exact fun _ => rfl) | intro _ | split | assumption
    | with_reducible apply Keeps.sends | fail_if_no_progress with_reducible apply Keeps.update

theorem execGetMessageTypeSupport_keeps {pt : Parts} {a : State} (sender : Byte) (inst : Byte) (s : State) (h : Keeps pt a s)
    (x_sent : pt.sent = false := by assumption) :
        KeepsR pt a (execGetMessageTypeSupport sender inst s) := by
  unfold execGetMessageTypeSupport
  try dsimp only
  repeat' first
    | with_reducible assumption | with_reducible apply KeepsR.next | with_reducible apply KeepsR.fault
    | with_reducible apply KeepsR.atPlace | with_reducible apply KeepsO.some | with_reducible apply KeepsO.none
    | with_reducible apply KeepsO.getD | with_reducible apply State.mctpControl_keeps | with_reducible apply Keeps.foldl
    | with_reducible apply Keeps.foldlFst | with_reducible apply Keeps.foldlSnd
    | ((with_reducible apply Same.mk) <;> first | exact no ‹_› | exact fun _ => rfl) | intro _ | split | assumption
    | with_reducible apply Keeps.sends | fail_if_no_progress with_reducible apply Keeps.update

theorem execMctpVendorMessage_keeps {pt : Parts} {a : State} (eid : Byte) (rid : BitVec 16) (body : List Byte) (s : State) (h :
    Keeps pt a s) (x_tiles : pt.tiles = false := by assumption) (x_ctxs : pt.ctxs = false := by assumption) (x_teams : pt.teams =
    false := by assumption) (x_teamCmds : pt.teamCmds = false := by assumption) (x_chans : pt.chans = false := by assumption)
    (x_mem : pt.mem = false := by assumption) (x_bad : pt.bad = false := by assumption) (x_net : pt.net = false := by assumption)
    (x_gtallies : pt.gtallies = false := by assumption) (x_huddles : pt.huddles = false := by assumption) (x_reds : pt.reds =
    false := by assumption) (x_pools : pt.pools = false := by assumption) (x_snaps : pt.snaps = false := by assumption) (x_trouble
    : pt.trouble = false := by assumption) (x_device : pt.device = false := by assumption) (x_ports : pt.ports = false := by
    assumption) (x_fabric : pt.fabric = false := by assumption) (x_sent : pt.sent = false := by assumption) (x_camp : pt.camp =
    false := by assumption) (x_fns : pt.fns = false := by assumption) (x_service : pt.service = false := by assumption) (x_power :
    pt.power = false := by assumption) (x_trust : pt.trust = false := by assumption) (x_panel : pt.panel = false := by assumption)
    :
        KeepsR pt a (execMctpVendorMessage eid rid body s) := by
  unfold execMctpVendorMessage
  try dsimp only
  repeat' first
    | with_reducible assumption | with_reducible apply KeepsR.next | with_reducible apply KeepsR.fault
    | with_reducible apply KeepsR.atPlace | with_reducible apply KeepsO.some | with_reducible apply KeepsO.none
    | with_reducible apply KeepsO.getD | with_reducible apply State.takeFrame_keeps | with_reducible apply Keeps.foldl
    | with_reducible apply Keeps.foldlFst | with_reducible apply Keeps.foldlSnd
    | ((with_reducible apply Same.mk) <;> first | exact no ‹_› | exact fun _ => rfl) | intro _ | split | assumption
    | with_reducible apply Keeps.sends | fail_if_no_progress with_reducible apply Keeps.update

theorem execWinGo_keeps {pt : Parts} {a : State} (f : Nat) (value : Nat) (s : State) (h : Keeps pt a s) (x_tiles : pt.tiles =
    false := by assumption) (x_ctxs : pt.ctxs = false := by assumption) (x_teams : pt.teams = false := by assumption) (x_teamCmds
    : pt.teamCmds = false := by assumption) (x_chans : pt.chans = false := by assumption) (x_mem : pt.mem = false := by
    assumption) (x_bad : pt.bad = false := by assumption) (x_net : pt.net = false := by assumption) (x_gtallies : pt.gtallies =
    false := by assumption) (x_huddles : pt.huddles = false := by assumption) (x_reds : pt.reds = false := by assumption) (x_pools
    : pt.pools = false := by assumption) (x_snaps : pt.snaps = false := by assumption) (x_trouble : pt.trouble = false := by
    assumption) (x_device : pt.device = false := by assumption) (x_ports : pt.ports = false := by assumption) (x_fabric :
    pt.fabric = false := by assumption) (x_sent : pt.sent = false := by assumption) (x_camp : pt.camp = false := by assumption)
    (x_fns : pt.fns = false := by assumption) (x_service : pt.service = false := by assumption) (x_power : pt.power = false := by
    assumption) (x_trust : pt.trust = false := by assumption) (x_panel : pt.panel = false := by assumption) :
        KeepsR pt a (execWinGo f value s) := by
  unfold execWinGo
  try dsimp only
  repeat' first
    | with_reducible assumption | with_reducible apply KeepsR.next | with_reducible apply KeepsR.fault
    | with_reducible apply KeepsR.atPlace | with_reducible apply KeepsO.some | with_reducible apply KeepsO.none
    | with_reducible apply KeepsO.getD | with_reducible apply State.takeFrame_keeps | with_reducible apply Keeps.foldl
    | with_reducible apply Keeps.foldlFst | with_reducible apply Keeps.foldlSnd
    | ((with_reducible apply Same.mk) <;> first | exact no ‹_› | exact fun _ => rfl) | intro _ | split | assumption
    | with_reducible apply Keeps.sends | fail_if_no_progress with_reducible apply Keeps.update

theorem execRetryRecordExpiry_keeps {pt : Parts} {a : State} (src : Requester) (s : State) (h : Keeps pt a s) (x_camp : pt.camp =
    false := by assumption) :
        KeepsR pt a (execRetryRecordExpiry src s) := by
  unfold execRetryRecordExpiry
  try dsimp only
  repeat' first
    | with_reducible assumption | with_reducible apply KeepsR.next | with_reducible apply KeepsR.fault
    | with_reducible apply KeepsR.atPlace | with_reducible apply KeepsO.some | with_reducible apply KeepsO.none
    | with_reducible apply KeepsO.getD | with_reducible apply State.modCamp_keeps | with_reducible apply Keeps.foldl
    | with_reducible apply Keeps.foldlFst | with_reducible apply Keeps.foldlSnd
    | ((with_reducible apply Same.mk) <;> first | exact no ‹_› | exact fun _ => rfl) | intro _ | split | assumption
    | with_reducible apply Keeps.sends | fail_if_no_progress with_reducible apply Keeps.update

end Sys2Proof.Machine
end

