-- ==== Sys2Proof/Laws/KeepOrders.lean ====
section
/-!
SUPPORT. What the operations of Machine/Orders.lean keep (Laws/Keeps.lean).
-/
namespace Sys2Proof.Machine

set_option linter.unusedTactic false
set_option linter.unreachableTactic false
set_option Elab.async false

theorem State.unusedZero_keeps {pt : Parts} {a : State} (s : State) (f r hi : Nat) (op : State → Answer) (t : State) (h : Keeps pt a t)
    (hop : ∀ y, Keeps pt a y → Keeps pt a (op y).st)  :
    Keeps pt a (s.unusedZero f r hi op t).st := by
  unfold State.unusedZero
  split
  · exact refuse_keeps _ _ h
  · exact hop _ h

theorem execCtxCreate_keeps {pt : Parts} {a : State} (src : Requester) (c : Nat) (s : State) (h : Keeps pt a s) (x_tiles :
    pt.tiles = false := by assumption) (x_ctxs : pt.ctxs = false := by assumption) (x_mem : pt.mem = false := by assumption)
    (x_bad : pt.bad = false := by assumption) (x_snaps : pt.snaps = false := by assumption) (x_trouble : pt.trouble = false := by
    assumption) (x_ports : pt.ports = false := by assumption) (x_sent : pt.sent = false := by assumption) (x_camp : pt.camp =
    false := by assumption) (x_fns : pt.fns = false := by assumption) (x_power : pt.power = false := by assumption) (x_trust :
    pt.trust = false := by assumption) (x_panel : pt.panel = false := by assumption) :
        KeepsR pt a (execCtxCreate src c s) := by
  unfold execCtxCreate
  refine .next ?_
  refine State.askWrite_keeps_of _ _ _ _ _ h fun y hy => ?_
  exact opCtxCreate_keeps _ _ hy

theorem execCtxDestroy_keeps {pt : Parts} {a : State} (src : Requester) (c : Nat) (s : State) (h : Keeps pt a s) (x_ctxs : pt.ctxs
    = false := by assumption) (x_sent : pt.sent = false := by assumption) (x_camp : pt.camp = false := by assumption) (x_fns :
    pt.fns = false := by assumption) (x_power : pt.power = false := by assumption) (x_trust : pt.trust = false := by assumption) :
        KeepsR pt a (execCtxDestroy src c s) := by
  unfold execCtxDestroy
  refine .next ?_
  refine State.askWrite_keeps_of _ _ _ _ _ h fun y hy => ?_
  exact opCtxDestroy_keeps _ _ hy

theorem execCtxReset_keeps {pt : Parts} {a : State} (src : Requester) (c : Nat) (s : State) (h : Keeps pt a s) (x_ctxs : pt.ctxs =
    false := by assumption) (x_sent : pt.sent = false := by assumption) (x_camp : pt.camp = false := by assumption) (x_fns :
    pt.fns = false := by assumption) (x_power : pt.power = false := by assumption) (x_trust : pt.trust = false := by assumption) :
        KeepsR pt a (execCtxReset src c s) := by
  unfold execCtxReset
  split
  · exact .atPlace _ (State.writeQueue_keeps _ _ _ _ _ _ _ _ h fun y hy => State.unusedZero_keeps _ _ _ _ _ _ hy fun z hz => opCtxReset_keeps _ _ hz)
  · refine .next ?_
    refine State.askWrite_keeps_of _ _ _ _ _ h fun y hy => ?_
    exact opCtxReset_keeps _ _ hy

theorem execTeamCreate_keeps {pt : Parts} {a : State} (src : Requester) (w : BitVec 160) (s : State) (h : Keeps pt a s) (x_tiles :
    pt.tiles = false := by assumption) (x_teams : pt.teams = false := by assumption) (x_sent : pt.sent = false := by assumption)
    (x_camp : pt.camp = false := by assumption) (x_fns : pt.fns = false := by assumption) (x_power : pt.power = false := by
    assumption) (x_trust : pt.trust = false := by assumption) :
        KeepsR pt a (execTeamCreate src w s) := by
  unfold execTeamCreate
  refine .next ?_
  split
  · refine State.askWrite_keeps_of _ _ _ _ _ h fun y hy => ?_
    exact opTeam_keeps _ _ hy
  · exact h

theorem execTeamDestroy_keeps {pt : Parts} {a : State} (src : Requester) (w : BitVec 160) (s : State) (h : Keeps pt a s) (x_tiles
    : pt.tiles = false := by assumption) (x_teams : pt.teams = false := by assumption) (x_sent : pt.sent = false := by assumption)
    (x_camp : pt.camp = false := by assumption) (x_fns : pt.fns = false := by assumption) (x_power : pt.power = false := by
    assumption) (x_trust : pt.trust = false := by assumption) :
        KeepsR pt a (execTeamDestroy src w s) := by
  unfold execTeamDestroy
  refine .next ?_
  split
  · refine State.askWrite_keeps_of _ _ _ _ _ h fun y hy => ?_
    exact opTeam_keeps _ _ hy
  · exact h

theorem execHuddleCreate_keeps {pt : Parts} {a : State} (src : Requester) (w : BitVec 160) (s : State) (h : Keeps pt a s) (x_tiles
    : pt.tiles = false := by assumption) (x_net : pt.net = false := by assumption) (x_huddles : pt.huddles = false := by
    assumption) (x_sent : pt.sent = false := by assumption) (x_camp : pt.camp = false := by assumption) (x_fns : pt.fns = false :=
    by assumption) (x_power : pt.power = false := by assumption) (x_trust : pt.trust = false := by assumption) :
        KeepsR pt a (execHuddleCreate src w s) := by
  unfold execHuddleCreate
  refine .next ?_
  split
  · refine State.askWrite_keeps_of _ _ _ _ _ h fun y hy => ?_
    exact opHuddle_keeps _ _ hy
  · exact h

theorem execHuddleDestroy_keeps {pt : Parts} {a : State} (src : Requester) (w : BitVec 160) (s : State) (h : Keeps pt a s)
    (x_tiles : pt.tiles = false := by assumption) (x_net : pt.net = false := by assumption) (x_huddles : pt.huddles = false := by
    assumption) (x_sent : pt.sent = false := by assumption) (x_camp : pt.camp = false := by assumption) (x_fns : pt.fns = false :=
    by assumption) (x_power : pt.power = false := by assumption) (x_trust : pt.trust = false := by assumption) :
        KeepsR pt a (execHuddleDestroy src w s) := by
  unfold execHuddleDestroy
  refine .next ?_
  split
  · refine State.askWrite_keeps_of _ _ _ _ _ h fun y hy => ?_
    exact opHuddle_keeps _ _ hy
  · exact h

theorem execChanCreate_keeps {pt : Parts} {a : State} (src : Requester) (c : Nat) (s : State) (h : Keeps pt a s) (x_chans :
    pt.chans = false := by assumption) (x_sent : pt.sent = false := by assumption) (x_camp : pt.camp = false := by assumption)
    (x_fns : pt.fns = false := by assumption) (x_power : pt.power = false := by assumption) (x_trust : pt.trust = false := by
    assumption) :
        KeepsR pt a (execChanCreate src c s) := by
  unfold execChanCreate
  split
  · exact .atPlace _ (State.writeQueue_keeps _ _ _ _ _ _ _ _ h fun y hy => State.unusedZero_keeps _ _ _ _ _ _ hy fun z hz => opChanCreate_keeps _ _ hz)
  · refine .next ?_
    refine State.askWrite_keeps_of _ _ _ _ _ h fun y hy => ?_
    exact opChanCreate_keeps _ _ hy

theorem State.destroyBy_keeps {pt : Parts} {a : State} (s : State) (f : Nat) (h0 : Word) (h : Keeps pt a s) (x_chans : pt.chans =
    false := by assumption) :
        Keeps pt a (State.destroyBy s f h0).st := by
  unfold State.destroyBy
  try dsimp only
  repeat' first
    | with_reducible assumption | with_reducible apply KeepsR.next | with_reducible apply KeepsR.fault
    | with_reducible apply KeepsR.atPlace | with_reducible apply KeepsO.some | with_reducible apply KeepsO.none
    | with_reducible apply KeepsO.getD | with_reducible apply refuse_keeps | with_reducible apply opChanDestroy_keeps
    | with_reducible apply Keeps.foldl | with_reducible apply Keeps.foldlFst | with_reducible apply Keeps.foldlSnd
    | ((with_reducible apply Same.mk) <;> first | exact no ‹_› | exact fun _ => rfl) | intro _ | split | assumption
    | with_reducible apply Keeps.sends | fail_if_no_progress with_reducible apply Keeps.update

theorem execChanDestroy_keeps {pt : Parts} {a : State} (src : Requester) (h0 : Word) (s : State) (h : Keeps pt a s) (x_chans :
    pt.chans = false := by assumption) (x_sent : pt.sent = false := by assumption) (x_camp : pt.camp = false := by assumption)
    (x_fns : pt.fns = false := by assumption) (x_power : pt.power = false := by assumption) (x_trust : pt.trust = false := by
    assumption) :
        KeepsR pt a (execChanDestroy src h0 s) := by
  unfold execChanDestroy
  split
  · exact .atPlace _ (State.writeQueue_keeps _ _ _ _ _ _ _ _ h fun y hy => State.unusedZero_keeps _ _ _ _ _ _ hy fun z hz => State.destroyBy_keeps _ _ _ hz)
  · refine .next ?_
    refine State.askWrite_keeps_of _ _ _ _ _ h fun y hy => ?_
    exact opChanDestroy_keeps _ _ hy

theorem execJobSubmit_keeps {pt : Parts} {a : State} (src : Requester) (a0 : Nat) (s : State) (h : Keeps pt a s) (x_tiles :
    pt.tiles = false := by assumption) (x_ctxs : pt.ctxs = false := by assumption) (x_trouble : pt.trouble = false := by
    assumption) (x_ports : pt.ports = false := by assumption) (x_sent : pt.sent = false := by assumption) (x_camp : pt.camp =
    false := by assumption) (x_fns : pt.fns = false := by assumption) (x_service : pt.service = false := by assumption) (x_power :
    pt.power = false := by assumption) (x_trust : pt.trust = false := by assumption) :
        KeepsR pt a (execJobSubmit src a0 s) := by
  unfold execJobSubmit
  split
  · exact .atPlace _ (State.writeQueue_keeps _ _ _ _ _ _ _ _ h fun y hy => State.unusedZero_keeps _ _ _ _ _ _ hy fun z hz => opJobSubmit_keeps _ _ _ hz)
  · refine .next ?_
    refine State.askWrite_keeps_of _ _ _ _ _ h fun y hy => ?_
    exact opJobSubmit_keeps _ _ _ hy

theorem execJobCancel_keeps {pt : Parts} {a : State} (src : Requester) (id : Nat) (s : State) (h : Keeps pt a s) (x_tiles :
    pt.tiles = false := by assumption) (x_ctxs : pt.ctxs = false := by assumption) (x_chans : pt.chans = false := by assumption)
    (x_mem : pt.mem = false := by assumption) (x_bad : pt.bad = false := by assumption) (x_net : pt.net = false := by assumption)
    (x_gtallies : pt.gtallies = false := by assumption) (x_snaps : pt.snaps = false := by assumption) (x_trouble : pt.trouble =
    false := by assumption) (x_ports : pt.ports = false := by assumption) (x_sent : pt.sent = false := by assumption) (x_camp :
    pt.camp = false := by assumption) (x_fns : pt.fns = false := by assumption) (x_service : pt.service = false := by assumption)
    (x_power : pt.power = false := by assumption) (x_trust : pt.trust = false := by assumption) :
        KeepsR pt a (execJobCancel src id s) := by
  unfold execJobCancel
  refine .next ?_
  refine State.askWrite_keeps_of _ _ _ _ _ h fun y hy => ?_
  exact opJobCancel_keeps _ _ hy

theorem execDebugImemWrite_keeps {pt : Parts} {a : State} (src : Requester) (value : List Byte) (s : State) (h : Keeps pt a s)
    (x_tiles : pt.tiles = false := by assumption) (x_sent : pt.sent = false := by assumption) (x_camp : pt.camp = false := by
    assumption) (x_fns : pt.fns = false := by assumption) (x_power : pt.power = false := by assumption) (x_trust : pt.trust =
    false := by assumption) :
        KeepsR pt a (execDebugImemWrite src value s) := by
  unfold execDebugImemWrite
  refine .next ?_
  refine State.askWrite_keeps_of _ _ _ _ _ h fun y hy => ?_
  exact opDebugImem_keeps _ _ hy

theorem execFaultRecordClear_keeps {pt : Parts} {a : State} (src : Requester) (n : Nat) (st : Stream) (s : State) (h : Keeps pt a
    s) (x_tiles : pt.tiles = false := by assumption) (x_sent : pt.sent = false := by assumption) (x_camp : pt.camp = false := by
    assumption) (x_fns : pt.fns = false := by assumption) (x_power : pt.power = false := by assumption) (x_trust : pt.trust =
    false := by assumption) :
        KeepsR pt a (execFaultRecordClear src n st s) := by
  unfold execFaultRecordClear
  by_cases c : n < 2048
  · refine .atPlace _ (State.askWrite_keeps_of _ _ _ _ _ h fun y hy => ?_)
    unfold opEntry
    have a1 : ¬(0x4201 ≤ 0x8800 + n ∧ 0x8800 + n ≤ 0x42FF) := by omega
    have a2 : ¬(0x6201 ≤ 0x8800 + n ∧ 0x8800 + n ≤ 0x62FF) := by omega
    have a3 : ¬(0x6301 ≤ 0x8800 + n ∧ 0x8800 + n ≤ 0x63FF) := by omega
    have a4 : ¬(0x6401 ≤ 0x8800 + n ∧ 0x8800 + n ≤ 0x64FF) := by omega
    have a5 : 0x8800 ≤ 0x8800 + n ∧ 0x8800 + n ≤ 0x8FFF := by omega
    simp only [a1, a2, a3, a4, a5, if_false, if_true]
    exact opRecordClear_keeps _ _ _ _ hy
  · unfold atPlace
    rw [if_neg (by simpa using c)]
    exact .fault _

theorem execTroubleClearEcc_keeps {pt : Parts} {a : State} (src : Requester) (s : State) (h : Keeps pt a s) (x_tiles : pt.tiles =
    false := by assumption) (x_trouble : pt.trouble = false := by assumption) (x_sent : pt.sent = false := by assumption) (x_camp
    : pt.camp = false := by assumption) (x_fns : pt.fns = false := by assumption) (x_power : pt.power = false := by assumption)
    (x_trust : pt.trust = false := by assumption) :
        KeepsR pt a (execTroubleClearEcc src s) := by
  unfold execTroubleClearEcc
  refine .next ?_
  refine State.askWrite_keeps_of _ _ _ _ _ h fun y hy => ?_
  exact (opTroubleClear_keeps 1 _ hy :)

theorem execTroubleClearTileCounts_keeps {pt : Parts} {a : State} (src : Requester) (s : State) (h : Keeps pt a s) (x_tiles :
    pt.tiles = false := by assumption) (x_trouble : pt.trouble = false := by assumption) (x_sent : pt.sent = false := by
    assumption) (x_camp : pt.camp = false := by assumption) (x_fns : pt.fns = false := by assumption) (x_power : pt.power = false
    := by assumption) (x_trust : pt.trust = false := by assumption) :
        KeepsR pt a (execTroubleClearTileCounts src s) := by
  unfold execTroubleClearTileCounts
  refine .next ?_
  refine State.askWrite_keeps_of _ _ _ _ _ h fun y hy => ?_
  exact (opTroubleClear_keeps 2 _ hy :)

theorem execTroubleClearStaleDrops_keeps {pt : Parts} {a : State} (src : Requester) (s : State) (h : Keeps pt a s) (x_tiles :
    pt.tiles = false := by assumption) (x_trouble : pt.trouble = false := by assumption) (x_sent : pt.sent = false := by
    assumption) (x_camp : pt.camp = false := by assumption) (x_fns : pt.fns = false := by assumption) (x_power : pt.power = false
    := by assumption) (x_trust : pt.trust = false := by assumption) :
        KeepsR pt a (execTroubleClearStaleDrops src s) := by
  unfold execTroubleClearStaleDrops
  refine .next ?_
  refine State.askWrite_keeps_of _ _ _ _ _ h fun y hy => ?_
  exact (opTroubleClear_keeps 4 _ hy :)

theorem execTroubleClearSeamAlarms_keeps {pt : Parts} {a : State} (src : Requester) (s : State) (h : Keeps pt a s) (x_tiles :
    pt.tiles = false := by assumption) (x_trouble : pt.trouble = false := by assumption) (x_sent : pt.sent = false := by
    assumption) (x_camp : pt.camp = false := by assumption) (x_fns : pt.fns = false := by assumption) (x_power : pt.power = false
    := by assumption) (x_trust : pt.trust = false := by assumption) :
        KeepsR pt a (execTroubleClearSeamAlarms src s) := by
  unfold execTroubleClearSeamAlarms
  refine .next ?_
  refine State.askWrite_keeps_of _ _ _ _ _ h fun y hy => ?_
  exact (opTroubleClear_keeps 8 _ hy :)

theorem execTroubleClearAlarmLog_keeps {pt : Parts} {a : State} (src : Requester) (s : State) (h : Keeps pt a s) (x_tiles :
    pt.tiles = false := by assumption) (x_trouble : pt.trouble = false := by assumption) (x_sent : pt.sent = false := by
    assumption) (x_camp : pt.camp = false := by assumption) (x_fns : pt.fns = false := by assumption) (x_power : pt.power = false
    := by assumption) (x_trust : pt.trust = false := by assumption) :
        KeepsR pt a (execTroubleClearAlarmLog src s) := by
  unfold execTroubleClearAlarmLog
  refine .next ?_
  refine State.askWrite_keeps_of _ _ _ _ _ h fun y hy => ?_
  exact (opTroubleClear_keeps 16 _ hy :)

theorem execTroubleClearDumpFlag_keeps {pt : Parts} {a : State} (src : Requester) (s : State) (h : Keeps pt a s) (x_tiles :
    pt.tiles = false := by assumption) (x_trouble : pt.trouble = false := by assumption) (x_sent : pt.sent = false := by
    assumption) (x_camp : pt.camp = false := by assumption) (x_fns : pt.fns = false := by assumption) (x_power : pt.power = false
    := by assumption) (x_trust : pt.trust = false := by assumption) :
        KeepsR pt a (execTroubleClearDumpFlag src s) := by
  unfold execTroubleClearDumpFlag
  refine .next ?_
  refine State.askWrite_keeps_of _ _ _ _ _ h fun y hy => ?_
  exact (opTroubleClear_keeps 32 _ hy :)

theorem execDumpRequest_keeps {pt : Parts} {a : State} (src : Requester) (v : BitVec 16) (s : State) (h : Keeps pt a s) (x_trouble
    : pt.trouble = false := by assumption) (x_sent : pt.sent = false := by assumption) (x_camp : pt.camp = false := by assumption)
    (x_fns : pt.fns = false := by assumption) (x_power : pt.power = false := by assumption) (x_trust : pt.trust = false := by
    assumption) :
        KeepsR pt a (execDumpRequest src v s) := by
  unfold execDumpRequest
  refine .next ?_
  refine State.askWrite_keeps_of _ _ _ _ _ h fun y hy => ?_
  exact opDumpRequest_keeps _ _ hy

theorem execEpochClear_keeps {pt : Parts} {a : State} (src : Requester) (d : Nat) (s : State) (h : Keeps pt a s) (x_fabric :
    pt.fabric = false := by assumption) (x_sent : pt.sent = false := by assumption) (x_camp : pt.camp = false := by assumption)
    (x_fns : pt.fns = false := by assumption) (x_power : pt.power = false := by assumption) (x_trust : pt.trust = false := by
    assumption) :
        KeepsR pt a (execEpochClear src d s) := by
  unfold execEpochClear
  refine .next ?_
  refine State.askWrite_keeps_of _ _ _ _ _ h fun y hy => ?_
  exact opEpochClear_keeps _ _ hy

theorem execPortRetrain_keeps {pt : Parts} {a : State} (src : Requester) (p : Nat) (s : State) (h : Keeps pt a s) (x_tiles :
    pt.tiles = false := by assumption) (x_trouble : pt.trouble = false := by assumption) (x_ports : pt.ports = false := by
    assumption) (x_fabric : pt.fabric = false := by assumption) (x_sent : pt.sent = false := by assumption) (x_camp : pt.camp =
    false := by assumption) (x_fns : pt.fns = false := by assumption) (x_power : pt.power = false := by assumption) (x_trust :
    pt.trust = false := by assumption) :
        KeepsR pt a (execPortRetrain src p s) := by
  unfold execPortRetrain
  refine .atPlace _ ?_
  refine State.askWrite_keeps_of _ _ _ _ _ h fun y hy => ?_
  exact opPortRetrain_keeps _ _ _ hy

theorem execAttnRequestSet_keeps {pt : Parts} {a : State} (src : Requester) (s : State) (h : Keeps pt a s) (x_tiles : pt.tiles =
    false := by assumption) (x_ctxs : pt.ctxs = false := by assumption) (x_mem : pt.mem = false := by assumption) (x_bad : pt.bad
    = false := by assumption) (x_snaps : pt.snaps = false := by assumption) (x_trouble : pt.trouble = false := by assumption)
    (x_ports : pt.ports = false := by assumption) (x_sent : pt.sent = false := by assumption) (x_camp : pt.camp = false := by
    assumption) (x_fns : pt.fns = false := by assumption) (x_power : pt.power = false := by assumption) (x_trust : pt.trust =
    false := by assumption) (x_panel : pt.panel = false := by assumption) :
        KeepsR pt a (execAttnRequestSet src s) := by
  unfold execAttnRequestSet
  refine .next ?_
  refine State.askWrite_keeps_of _ _ _ _ _ h fun y hy => ?_
  exact (opAttn_keeps 1 _ hy :)

theorem execAttnRequestClear_keeps {pt : Parts} {a : State} (src : Requester) (s : State) (h : Keeps pt a s) (x_tiles : pt.tiles =
    false := by assumption) (x_ctxs : pt.ctxs = false := by assumption) (x_mem : pt.mem = false := by assumption) (x_bad : pt.bad
    = false := by assumption) (x_snaps : pt.snaps = false := by assumption) (x_trouble : pt.trouble = false := by assumption)
    (x_ports : pt.ports = false := by assumption) (x_sent : pt.sent = false := by assumption) (x_camp : pt.camp = false := by
    assumption) (x_fns : pt.fns = false := by assumption) (x_power : pt.power = false := by assumption) (x_trust : pt.trust =
    false := by assumption) (x_panel : pt.panel = false := by assumption) :
        KeepsR pt a (execAttnRequestClear src s) := by
  unfold execAttnRequestClear
  refine .next ?_
  refine State.askWrite_keeps_of _ _ _ _ _ h fun y hy => ?_
  exact (opAttn_keeps 0 _ hy :)

theorem execFwStage_keeps {pt : Parts} {a : State} (src : Requester) (a0 : Nat) (s : State) (h : Keeps pt a s) (x_tiles : pt.tiles
    = false := by assumption) (x_ctxs : pt.ctxs = false := by assumption) (x_trouble : pt.trouble = false := by assumption)
    (x_ports : pt.ports = false := by assumption) (x_sent : pt.sent = false := by assumption) (x_camp : pt.camp = false := by
    assumption) (x_fns : pt.fns = false := by assumption) (x_power : pt.power = false := by assumption) (x_trust : pt.trust =
    false := by assumption) :
        KeepsR pt a (execFwStage src a0 s) := by
  unfold execFwStage
  refine .next ?_
  refine State.askWrite_keeps_of _ _ _ _ _ h fun y hy => ?_
  exact opFwStage_keeps _ _ hy

theorem execFwUpload_keeps {pt : Parts} {a : State} (src : Requester) (value : List Byte) (s : State) (h : Keeps pt a s) (x_sent :
    pt.sent = false := by assumption) (x_camp : pt.camp = false := by assumption) (x_fns : pt.fns = false := by assumption)
    (x_power : pt.power = false := by assumption) (x_trust : pt.trust = false := by assumption) :
        KeepsR pt a (execFwUpload src value s) := by
  unfold execFwUpload
  refine .next ?_
  refine State.askWrite_keeps_of _ _ _ _ _ h fun y hy => ?_
  exact opFwUpload_keeps _ _ hy

theorem execFwStageUpload_keeps {pt : Parts} {a : State} (src : Requester) (v : Nat) (s : State) (h : Keeps pt a s) (x_sent :
    pt.sent = false := by assumption) (x_camp : pt.camp = false := by assumption) (x_fns : pt.fns = false := by assumption)
    (x_power : pt.power = false := by assumption) (x_trust : pt.trust = false := by assumption) :
        KeepsR pt a (execFwStageUpload src v s) := by
  unfold execFwStageUpload
  refine .next ?_
  refine State.askWrite_keeps_of _ _ _ _ _ h fun y hy => ?_
  exact opFwStageUpload_keeps _ _ hy

theorem execSvnCommit_keeps {pt : Parts} {a : State} (src : Requester) (k : Nat) (v : Nat) (s : State) (h : Keeps pt a s) (x_sent
    : pt.sent = false := by assumption) (x_camp : pt.camp = false := by assumption) (x_fns : pt.fns = false := by assumption)
    (x_power : pt.power = false := by assumption) (x_trust : pt.trust = false := by assumption) :
        KeepsR pt a (execSvnCommit src k v s) := by
  unfold execSvnCommit
  refine .atPlace _ ?_
  refine State.askWrite_keeps_of _ _ _ _ _ h fun y hy => ?_
  exact opSvnCommit_keeps _ _ _ hy

theorem execAttestNonce_keeps {pt : Parts} {a : State} (src : Requester) (nonce : BitVec 256) (s : State) (h : Keeps pt a s)
    (x_sent : pt.sent = false := by assumption) (x_camp : pt.camp = false := by assumption) (x_fns : pt.fns = false := by
    assumption) (x_power : pt.power = false := by assumption) (x_trust : pt.trust = false := by assumption) :
        KeepsR pt a (execAttestNonce src nonce s) := by
  unfold execAttestNonce
  refine .next ?_
  refine State.askWrite_keeps_of _ _ _ _ _ h fun y hy => ?_
  exact accept_keeps _ hy

theorem execRestartWarm_keeps {pt : Parts} {a : State} (src : Requester) (s : State) (h : Keeps pt a s) (x_tiles : pt.tiles =
    false := by assumption) (x_ctxs : pt.ctxs = false := by assumption) (x_teams : pt.teams = false := by assumption) (x_teamCmds
    : pt.teamCmds = false := by assumption) (x_chans : pt.chans = false := by assumption) (x_net : pt.net = false := by
    assumption) (x_gtallies : pt.gtallies = false := by assumption) (x_huddles : pt.huddles = false := by assumption) (x_reds :
    pt.reds = false := by assumption) (x_pools : pt.pools = false := by assumption) (x_snaps : pt.snaps = false := by assumption)
    (x_trouble : pt.trouble = false := by assumption) (x_device : pt.device = false := by assumption) (x_ports : pt.ports = false
    := by assumption) (x_fabric : pt.fabric = false := by assumption) (x_sent : pt.sent = false := by assumption) (x_camp :
    pt.camp = false := by assumption) (x_fns : pt.fns = false := by assumption) (x_service : pt.service = false := by assumption)
    (x_power : pt.power = false := by assumption) (x_trust : pt.trust = false := by assumption) :
        KeepsR pt a (execRestartWarm src s) := by
  unfold execRestartWarm
  refine .next ?_
  refine State.askWrite_keeps_of _ _ _ _ _ h fun y hy => ?_
  exact opRestart_keeps _ _ hy

theorem execRestartDestroy_keeps {pt : Parts} {a : State} (src : Requester) (s : State) (h : Keeps pt a s) (x_tiles : pt.tiles =
    false := by assumption) (x_ctxs : pt.ctxs = false := by assumption) (x_teams : pt.teams = false := by assumption) (x_teamCmds
    : pt.teamCmds = false := by assumption) (x_chans : pt.chans = false := by assumption) (x_net : pt.net = false := by
    assumption) (x_gtallies : pt.gtallies = false := by assumption) (x_huddles : pt.huddles = false := by assumption) (x_reds :
    pt.reds = false := by assumption) (x_pools : pt.pools = false := by assumption) (x_snaps : pt.snaps = false := by assumption)
    (x_trouble : pt.trouble = false := by assumption) (x_device : pt.device = false := by assumption) (x_ports : pt.ports = false
    := by assumption) (x_fabric : pt.fabric = false := by assumption) (x_sent : pt.sent = false := by assumption) (x_camp :
    pt.camp = false := by assumption) (x_fns : pt.fns = false := by assumption) (x_service : pt.service = false := by assumption)
    (x_power : pt.power = false := by assumption) (x_trust : pt.trust = false := by assumption) :
        KeepsR pt a (execRestartDestroy src s) := by
  unfold execRestartDestroy
  refine .next ?_
  refine State.askWrite_keeps_of _ _ _ _ _ h fun y hy => ?_
  exact opRestart_keeps _ _ hy

theorem execRestartBaseCamp_keeps {pt : Parts} {a : State} (src : Requester) (s : State) (h : Keeps pt a s) (x_tiles : pt.tiles =
    false := by assumption) (x_ctxs : pt.ctxs = false := by assumption) (x_teams : pt.teams = false := by assumption) (x_teamCmds
    : pt.teamCmds = false := by assumption) (x_chans : pt.chans = false := by assumption) (x_net : pt.net = false := by
    assumption) (x_gtallies : pt.gtallies = false := by assumption) (x_huddles : pt.huddles = false := by assumption) (x_reds :
    pt.reds = false := by assumption) (x_pools : pt.pools = false := by assumption) (x_snaps : pt.snaps = false := by assumption)
    (x_trouble : pt.trouble = false := by assumption) (x_device : pt.device = false := by assumption) (x_ports : pt.ports = false
    := by assumption) (x_fabric : pt.fabric = false := by assumption) (x_sent : pt.sent = false := by assumption) (x_camp :
    pt.camp = false := by assumption) (x_fns : pt.fns = false := by assumption) (x_service : pt.service = false := by assumption)
    (x_power : pt.power = false := by assumption) (x_trust : pt.trust = false := by assumption) :
        KeepsR pt a (execRestartBaseCamp src s) := by
  unfold execRestartBaseCamp
  refine .next ?_
  refine State.askWrite_keeps_of _ _ _ _ _ h fun y hy => ?_
  exact opRestart_keeps _ _ hy

end Sys2Proof.Machine
end

