-- ==== Sys2Proof/Laws/KeepDispatch.lean ====
section
/-!
SUPPORT. What the operations of Machine/Dispatch.lean keep (Laws/Keeps.lean).
-/
namespace Sys2Proof.Machine

set_option linter.unusedTactic false
set_option linter.unreachableTactic false
set_option Elab.async false

theorem exec_keeps {pt : Parts} {a : State} (i : Instr) (s : State) (h : Keeps pt a s)
    (x_tiles : pt.tiles = false := by assumption) (x_ctxs : pt.ctxs = false := by assumption) (x_teams : pt.teams = false := by
    assumption) (x_teamCmds : pt.teamCmds = false := by assumption) (x_chans : pt.chans = false := by assumption) (x_mem : pt.mem
    = false := by assumption) (x_bad : pt.bad = false := by assumption) (x_net : pt.net = false := by assumption) (x_gtallies :
    pt.gtallies = false := by assumption) (x_huddles : pt.huddles = false := by assumption) (x_reds : pt.reds = false := by
    assumption) (x_pools : pt.pools = false := by assumption) (x_snaps : pt.snaps = false := by assumption) (x_trouble :
    pt.trouble = false := by assumption) (x_device : pt.device = false := by assumption) (x_ports : pt.ports = false := by
    assumption) (x_fabric : pt.fabric = false := by assumption) (x_sent : pt.sent = false := by assumption) (x_camp : pt.camp =
    false := by assumption) (x_fns : pt.fns = false := by assumption) (x_service : pt.service = false := by assumption) (x_power :
    pt.power = false := by assumption) (x_trust : pt.trust = false := by assumption) (x_panel : pt.panel = false := by assumption) :
    KeepsR pt a (exec i s) := by
  cases i with
  | threadStart k => exact execThreadStart_keeps k s h
  | rvInstruction t st => exact execRvInstruction_keeps t st s h
  | rvFence t st => exact execRvFence_keeps t st s h
  | ebreak t st => exact execEbreak_keeps t st s h
  | ecall t st => exact execEcall_keeps t st s h
  | cstW t st => exact execCstW_keeps t st s h
  | cld t st => exact execCld_keeps t st s h
  | cpush t st => exact execCpush_keeps t st s h
  | cpushnb t st => exact execCpushnb_keeps t st s h
  | pushRoomResume t st => exact execPushRoomResume_keeps t st s h
  | qfree t st => exact execQfree_keeps t st s h
  | cdrain t st => exact execCdrain_keeps t st s h
  | cdrainResume t st => exact execCdrainResume_keeps t st s h
  | sumrd t st => exact execSumrd_keeps t st s h
  | sumrdResume t st => exact execSumrdResume_keeps t st s h
  | imswap t st => exact execImswap_keeps t st s h
  | park t st => exact execPark_keeps t st s h
  | pcmp t st => exact execPcmp_keeps t st s h
  | plog t st => exact execPlog_keeps t st s h
  | pset t st => exact execPset_keeps t st s h
  | pmv t st => exact execPmv_keeps t st s h
  | prd t st => exact execPrd_keeps t st s h
  | pwr t st => exact execPwr_keeps t st s h
  | ctwait t st => exact execCtwait_keeps t st s h
  | skipEntry t e st => exact execSkipEntry_keeps t e st s h
  | nop t e st => exact execNop_keeps t e st s h
  | commandComplete t e st => exact execCommandComplete_keeps t e st s h
  | teamDispatch t st => exact execTeamDispatch_keeps t st s h
  | teamDelivery k => exact execTeamDelivery_keeps k s h
  | teamMemberCompletion k => exact execTeamMemberCompletion_keeps k s h
  | mma t st => exact execMma_keeps t st s h
  | mdrain t st => exact execMdrain_keeps t st s h
  | mdcfg t st => exact execMdcfg_keeps t st s h
  | wlopen t st => exact execWlopen_keeps t st s h
  | wlput t st => exact execWlput_keeps t st s h
  | wlrun t st => exact execWlrun_keeps t st s h
  | wlclose t st => exact execWlclose_keeps t st s h
  | itemRequest k => exact execItemRequest_keeps k s h
  | itemArrive k => exact execItemArrive_keeps k s h
  | itemComplete t st => exact execItemComplete_keeps t st s h
  | dribbleStepDown t array => exact execDribbleStepDown_keeps t array s h
  | dribbleRampStep t array => exact execDribbleRampStep_keeps t array s h
  | vld t st => exact execVld_keeps t st s h
  | vst t st => exact execVst_keeps t st s h
  | epload t st => exact execEpload_keeps t st s h
  | eprog t st => exact execEprog_keeps t st s h
  | epstrm t st => exact execEpstrm_keeps t st s h
  | vred t st => exact execVred_keeps t st s h
  | vsum t st => exact execVsum_keeps t st s h
  | vseed t st => exact execVseed_keeps t st s h
  | laneReservationGrant t => exact execLaneReservationGrant_keeps t s h
  | optcfg t st => exact execOptcfg_keeps t st s h
  | optstep t st => exact execOptstep_keeps t st s h
  | amaxstep t st => exact execAmaxstep_keeps t st s h
  | snap t st => exact execSnap_keeps t st s h
  | snapShip team => exact execSnapShip_keeps team s h
  | move t st ecc => exact execMove_keeps t st ecc s h
  | mvcomp t st => exact execMvcomp_keeps t st s h
  | remask t st => exact execRemask_keeps t st s h
  | stash t st => exact execStash_keeps t st s h
  | predld t st => exact execPredld_keeps t st s h
  | maskdrop t st => exact execMaskdrop_keeps t st s h
  | aadd t st => exact execAadd_keeps t st s h
  | amin t st => exact execAmin_keeps t st s h
  | amax t st => exact execAmax_keeps t st s h
  | aswap t st => exact execAswap_keeps t st s h
  | acas t st => exact execAcas_keeps t st s h
  | aaddn t st => exact execAaddn_keeps t st s h
  | aminn t st => exact execAminn_keeps t st s h
  | amaxn t st => exact execAmaxn_keeps t st s h
  | rdopen t st => exact execRdopen_keeps t st s h
  | rdadd t st => exact execRdadd_keeps t st s h
  | homeRequest k ecc => exact execHomeRequest_keeps k ecc s h
  | atomicAtHome k ecc => exact execAtomicAtHome_keeps k ecc s h
  | contributionAtHome k ecc => exact execContributionAtHome_keeps k ecc s h
  | reductionDone rid => exact execReductionDone_keeps rid s h
  | tileStoreRemoteAccess k ecc => exact execTileStoreRemoteAccess_keeps k ecc s h
  | replyArrive k => exact execReplyArrive_keeps k s h
  | refusalArrive k => exact execRefusalArrive_keeps k s h
  | patrolScrub die far channel ecc => exact execPatrolScrub_keeps die far channel ecc s h
  | poolget t st => exact execPoolget_keeps t st s h
  | poolput t st => exact execPoolput_keeps t st s h
  | poolcfg t st => exact execPoolcfg_keeps t st s h
  | poolRequestAtHome k => exact execPoolRequestAtHome_keeps k s h
  | poolGrantArrive k => exact execPoolGrantArrive_keeps k s h
  | rtcfg t st => exact execRtcfg_keeps t st s h
  | rqopen t st => exact execRqopen_keeps t st s h
  | route t st => exact execRoute_keeps t st s h
  | rqclose t st => exact execRqclose_keeps t st s h
  | rbound t st => exact execRbound_keeps t st s h
  | rcomb t st => exact execRcomb_keeps t st s h
  | rback t st => exact execRback_keeps t st s h
  | rgrad t st => exact execRgrad_keeps t st s h
  | rxopen t st => exact execRxopen_keeps t st s h
  | rwget t st => exact execRwget_keeps t st s h
  | rwgetStart k => exact execRwgetStart_keeps k s h
  | rxwait t st => exact execRxwait_keeps t st s h
  | rxexpand t st => exact execRxexpand_keeps t st s h
  | rsend t st => exact execRsend_keeps t st s h
  | routeRowArrive k => exact execRouteRowArrive_keeps k s h
  | routeCloseArrive k => exact execRouteCloseArrive_keeps k s h
  | returnRowArrive k => exact execReturnRowArrive_keeps k s h
  | twait t e st => exact execTwait_keeps t e st s h
  | tclaim t e st => exact execTclaim_keeps t e st s h
  | tsig t e st => exact execTsig_keeps t e st s h
  | fence t e st => exact execFence_keeps t e st s h
  | tset t st => exact execTset_keeps t st s h
  | huddle t st => exact execHuddle_keeps t st s h
  | tallySignalAtHome k => exact execTallySignalAtHome_keeps k s h
  | tallyRegistrationAtHome k => exact execTallyRegistrationAtHome_keeps k s h
  | tallySetAtHome k => exact execTallySetAtHome_keeps k s h
  | tsetAnswerArrive k => exact execTsetAnswerArrive_keeps k s h
  | tallyReleaseArrive k => exact execTallyReleaseArrive_keeps k s h
  | remoteSignalAtTile k => exact execRemoteSignalAtTile_keeps k s h
  | huddleArrivalAtHome k => exact execHuddleArrivalAtHome_keeps k s h
  | huddleNextRoundClose hid => exact execHuddleNextRoundClose_keeps hid s h
  | huddleCloseArrive k => exact execHuddleCloseArrive_keeps k s h
  | localDeadlock t => exact execLocalDeadlock_keeps t s h
  | whistleFire t unit => exact execWhistleFire_keeps t unit s h
  | whistleWarning t unit => exact execWhistleWarning_keeps t unit s h
  | dump => exact execDump_keeps s h
  | dumpUnitTimeout => exact execDumpUnitTimeout_keeps s h
  | contextReset ctx => exact execContextReset_keeps ctx s h
  | quiesceComplete ctx => exact execQuiesceComplete_keeps ctx s h
  | quiesceTimeout ctx unit => exact execQuiesceTimeout_keeps ctx unit s h
  | epochAckTimeout ctx => exact execEpochAckTimeout_keeps ctx s h
  | tileHardwareFault t cause => exact execTileHardwareFault_keeps t cause s h
  | seamTransferError seam dir => exact execSeamTransferError_keeps seam dir s h
  | seamRepeatAlarm seam dir => exact execSeamRepeatAlarm_keeps seam dir s h
  | seamFailed seam dir => exact execSeamFailed_keeps seam dir s h
  | dieCheckerFire die => exact execDieCheckerFire_keeps die s h
  | logHopDrop source cls => exact execLogHopDrop_keeps source cls s h
  | debugHalt t st => exact execDebugHalt_keeps t st s h
  | debugResume t st => exact execDebugResume_keeps t st s h
  | lockstepWindowRecord port => exact execLockstepWindowRecord_keeps port s h
  | lockstepDigestList port => exact execLockstepDigestList_keeps port s h
  | lockstepStop port => exact execLockstepStop_keeps port s h
  | portTrainStart port => exact execPortTrainStart_keeps port s h
  | trainingStepComplete port report => exact execTrainingStepComplete_keeps port report s h
  | trainingStepTimeout port => exact execTrainingStepTimeout_keeps port s h
  | init port flit => exact execInit_keeps port flit s h
  | initAck port flit => exact execInitAck_keeps port flit s h
  | initResend port => exact execInitResend_keeps port s h
  | retrainRequest port flit => exact execRetrainRequest_keeps port flit s h
  | downNotice port flit => exact execDownNotice_keeps port flit s h
  | messageFlit port flit fecOk => exact execMessageFlit_keeps port flit fecOk s h
  | nullFlit port flit fecOk => exact execNullFlit_keeps port flit fecOk s h
  | replayRequest port flit fecOk => exact execReplayRequest_keeps port flit fecOk s h
  | fecLockLoss port => exact execFecLockLoss_keeps port s h
  | flitTransmit port => exact execFlitTransmit_keeps port s h
  | rd port dl ecc => exact execRd_keeps port dl ecc s h
  | wr port dl => exact execWr_keeps port dl s h
  | atom port dl ecc => exact execAtom_keeps port dl ecc s h
  | atomn port dl ecc => exact execAtomn_keeps port dl ecc s h
  | rdc port dl ecc => exact execRdc_keeps port dl ecc s h
  | sig port dl => exact execSig_keeps port dl s h
  | epoch port dl => exact execEpoch_keeps port dl s h
  | rdr port dl => exact execRdr_keeps port dl s h
  | ack port dl => exact execAck_keeps port dl s h
  | atr port dl => exact execAtr_keeps port dl s h
  | nak port dl => exact execNak_keeps port dl s h
  | mgmt port dl => exact execMgmt_keeps port dl s h
  | trace port dl => exact execTrace_keeps port dl s h
  | e2eTimeout request => exact execE2eTimeout_keeps request s h
  | read src index sub arg => exact execRead_keeps src index sub arg s h
  | write src index sub value => exact execWrite_keeps src index sub value s h
  | discover src => exact execDiscover_keeps src s h
  | notifyAck src => exact execNotifyAck_keeps src s h
  | notifyResend subscriber => exact execNotifyResend_keeps subscriber s h
  | neighbourSolicitation target => exact execNeighbourSolicitation_keeps target s h
  | setEndpointId sender inst eid => exact execSetEndpointId_keeps sender inst eid s h
  | getEndpointId sender inst => exact execGetEndpointId_keeps sender inst s h
  | getMctpVersionSupport sender inst msgType => exact execGetMctpVersionSupport_keeps sender inst msgType s h
  | getMessageTypeSupport sender inst => exact execGetMessageTypeSupport_keeps sender inst s h
  | mctpVendorMessage eid requesterId body => exact execMctpVendorMessage_keeps eid requesterId body s h
  | winGo fn value => exact execWinGo_keeps fn value s h
  | ctxCreate src ctx => exact execCtxCreate_keeps src ctx s h
  | ctxReset src ctx => exact execCtxReset_keeps src ctx s h
  | ctxDestroy src ctx => exact execCtxDestroy_keeps src ctx s h
  | teamCreate src request => exact execTeamCreate_keeps src request s h
  | teamDestroy src request => exact execTeamDestroy_keeps src request s h
  | huddleCreate src request => exact execHuddleCreate_keeps src request s h
  | huddleDestroy src request => exact execHuddleDestroy_keeps src request s h
  | chanCreate src ctx => exact execChanCreate_keeps src ctx s h
  | chanDestroy src handle => exact execChanDestroy_keeps src handle s h
  | jobSubmit src record => exact execJobSubmit_keeps src record s h
  | jobCancel src job => exact execJobCancel_keeps src job s h
  | debugImemWrite src value => exact execDebugImemWrite_keeps src value s h
  | faultRecordClear src t st => exact execFaultRecordClear_keeps src t st s h
  | troubleClearEcc src => exact execTroubleClearEcc_keeps src s h
  | troubleClearTileCounts src => exact execTroubleClearTileCounts_keeps src s h
  | troubleClearStaleDrops src => exact execTroubleClearStaleDrops_keeps src s h
  | troubleClearSeamAlarms src => exact execTroubleClearSeamAlarms_keeps src s h
  | troubleClearAlarmLog src => exact execTroubleClearAlarmLog_keeps src s h
  | troubleClearDumpFlag src => exact execTroubleClearDumpFlag_keeps src s h
  | dumpRequest src value => exact execDumpRequest_keeps src value s h
  | epochClear src device => exact execEpochClear_keeps src device s h
  | portRetrain src port => exact execPortRetrain_keeps src port s h
  | attnRequestSet src => exact execAttnRequestSet_keeps src s h
  | attnRequestClear src => exact execAttnRequestClear_keeps src s h
  | fwStage src address => exact execFwStage_keeps src address s h
  | fwUpload src value => exact execFwUpload_keeps src value s h
  | fwStageUpload src value => exact execFwStageUpload_keeps src value s h
  | svnCommit src kind value => exact execSvnCommit_keeps src kind value s h
  | attestNonce src nonce => exact execAttestNonce_keeps src nonce s h
  | restartWarm src => exact execRestartWarm_keeps src s h
  | restartDestroy src => exact execRestartDestroy_keeps src s h
  | restartBaseCamp src => exact execRestartBaseCamp_keeps src s h
  | ringDb fn ring tail entries => exact execRingDb_keeps fn ring tail entries s h
  | start fn ring => exact execStart_keeps fn ring s h
  | hcopy fn ring data ecc => exact execHcopy_keeps fn ring data ecc s h
  | hcopyDone fn ring copy => exact execHcopyDone_keeps fn ring copy s h
  | hsig fn ring => exact execHsig_keeps fn ring s h
  | ringNop fn ring => exact execRingNop_keeps fn ring s h
  | tallyDb fn tally n => exact execTallyDb_keeps fn tally n s h
  | bar2Read fn offset len ecc => exact execBar2Read_keeps fn offset len ecc s h
  | bar2Write fn offset data => exact execBar2Write_keeps fn offset data s h
  | doeDiscovery fn index => exact execDoeDiscovery_keeps fn index s h
  | doeAttest fn request => exact execDoeAttest_keeps fn request s h
  | jobStart => exact execJobStart_keeps s h
  | modelHandout job => exact execModelHandout_keeps job s h
  | modelDone job member => exact execModelDone_keeps job member s h
  | serviceHeartbeat => exact execServiceHeartbeat_keeps s h
  | serviceComplexStop die restarts => exact execServiceComplexStop_keeps die restarts s h
  | mainGood => exact execMainGood_keeps s h
  | mainFail overvoltage => exact execMainFail_keeps overvoltage s h
  | mainExcursion => exact execMainExcursion_keeps s h
  | backupGood => exact execBackupGood_keeps s h
  | backupFail => exact execBackupFail_keeps s h
  | powerUpSlot => exact execPowerUpSlot_keeps s h
  | railFault rail => exact execRailFault_keeps rail s h
  | rideThroughStep => exact execRideThroughStep_keeps s h
  | holdLimit => exact execHoldLimit_keeps s h
  | bringupPhaseComplete report => exact execBringupPhaseComplete_keeps report s h
  | powerControlTick averageW => exact execPowerControlTick_keeps averageW s h
  | thermalSample temps => exact execThermalSample_keeps temps s h
  | islandFreqStep t up => exact execIslandFreqStep_keeps t up s h
  | supplyDroop t => exact execSupplyDroop_keeps t s h
  | droopRecover t => exact execDroopRecover_keeps t s h
  | buttonShortPress => exact execButtonShortPress_keeps s h
  | buttonMiddlePress => exact execButtonMiddlePress_keeps s h
  | buttonHold2s => exact execButtonHold2s_keeps s h
  | buttonLongPress => exact execButtonLongPress_keeps s h
  | cablePlug port => exact execCablePlug_keeps port s h
  | cableUnplug port => exact execCableUnplug_keeps port s h
  | workListReservation k => exact execWorkListReservation_keeps k s h
  | rwgetRegistration k => exact execRwgetRegistration_keeps k s h
  | bar0RegisterWrite fn offset value => exact execBar0RegisterWrite_keeps fn offset value s h
  | equalisationOutOfLimits port lane => exact execEqualisationOutOfLimits_keeps port lane s h
  | dumpUnitAnswer data => exact execDumpUnitAnswer_keeps data s h
  | retryRecordExpiry src => exact execRetryRecordExpiry_keeps src s h

end Sys2Proof.Machine
end

