-- ==== Sys2Proof/Laws/KeepStep.lean ====
section
/-!
SUPPORT. What the operations of Machine/Step.lean keep (Laws/Keeps.lean).
-/
namespace Sys2Proof.Machine

set_option linter.unusedTactic false
set_option linter.unreachableTactic false
set_option Elab.async false

/-- A step takes the front of the queue and breaks nothing. -/
theorem step_keeps {s : State} : KeepsR {} { s with pending := s.pending.tail } (step s) := by
  cases s with
  | mk q =>
    cases q with
    | nil => exact .next (State.idle_keeps _ (Keeps.refl _) rfl rfl rfl rfl rfl rfl rfl rfl rfl rfl rfl rfl rfl rfl rfl rfl)
    | cons c rest =>
      exact @exec_keeps {} _ c _ (Keeps.refl _) rfl rfl rfl rfl rfl rfl rfl rfl rfl rfl rfl rfl rfl rfl rfl rfl rfl rfl rfl rfl rfl rfl
        rfl rfl

end Sys2Proof.Machine
end

