-- ==== Sys2Proof/Laws/State.lean ====
section
/-!
SUPPORT. What each update of a part of the state leaves and what it writes: one lemma per field, so that no proof about a command
unfolds a record update, and what the accessors read after an update.
-/
namespace Sys2Proof.Machine

/-! ## Tables -/

@[simp] theorem tfind_tset_self {α : Type} (k : Nat) (v : α) (t : Table α) : tfind k (tset k v t) = some v := by
  induction t with
  | nil => simp [tset, tfind]
  | cons e r ih =>
    obtain ⟨j, w⟩ := e
    unfold tset
    split
    · simp [tfind]
    · split
      · simp [tfind]
      · next h => simp [tfind, h, ih]

theorem tfind_tset_of_ne {α : Type} {j k : Nat} (v : α) (t : Table α) (h : j ≠ k) : tfind j (tset k v t) = tfind j t := by
  induction t with
  | nil => simp [tset, tfind, Ne.symm h]
  | cons e r ih =>
    obtain ⟨i, w⟩ := e
    unfold tset
    split
    · simp [tfind, Ne.symm h]
    · split
      · next _ g => simp [tfind, g, Ne.symm h]
      · simp [tfind, ih]

@[simp] theorem tget_tset_self {α : Type} (d : α) (k : Nat) (v : α) (t : Table α) : tget d k (tset k v t) = v := by simp [tget]
theorem tget_tset_of_ne {α : Type} (d : α) {j k : Nat} (v : α) (t : Table α) (h : j ≠ k) : tget d j (tset k v t) = tget d j t := by
  simp [tget, tfind_tset_of_ne v t h]

/-! ## Streams and engines -/

@[simp] theorem ByStream.get_set_self {α : Type} (b : ByStream α) (st : Stream) (v : α) : (b.set st v).get st = v := by
  cases st <;> rfl
theorem ByStream.get_set_of_ne {α : Type} (b : ByStream α) {st u : Stream} (v : α) (h : u ≠ st) : (b.set st v).get u = b.get u := by
  cases st <;> cases u <;> first | rfl | exact absurd rfl h
@[simp] theorem ByEngine.get_set_self {α : Type} (b : ByEngine α) (e : Engine) (v : α) : (b.set e v).get e = v := by
  cases e <;> rfl
theorem ByEngine.get_set_of_ne {α : Type} (b : ByEngine α) {e g : Engine} (v : α) (h : g ≠ e) : (b.set e v).get g = b.get g := by
  cases e <;> cases g <;> first | rfl | exact absurd rfl h

/-! ## What an update leaves -/

@[simp] theorem State.setTile_pending (s : State) (n : Nat) (x : Tile) : (s.setTile n x).pending = s.pending := rfl
@[simp] theorem State.setTile_draws (s : State) (n : Nat) (x : Tile) : (s.setTile n x).draws = s.draws := rfl
@[simp] theorem State.setTile_nextUid (s : State) (n : Nat) (x : Tile) : (s.setTile n x).nextUid = s.nextUid := rfl
@[simp] theorem State.setTile_ctxs (s : State) (n : Nat) (x : Tile) : (s.setTile n x).ctxs = s.ctxs := rfl
@[simp] theorem State.setTile_teams (s : State) (n : Nat) (x : Tile) : (s.setTile n x).teams = s.teams := rfl
@[simp] theorem State.setTile_teamCmds (s : State) (n : Nat) (x : Tile) : (s.setTile n x).teamCmds = s.teamCmds := rfl
@[simp] theorem State.setTile_chans (s : State) (n : Nat) (x : Tile) : (s.setTile n x).chans = s.chans := rfl
@[simp] theorem State.setTile_mem (s : State) (n : Nat) (x : Tile) : (s.setTile n x).mem = s.mem := rfl
@[simp] theorem State.setTile_bad (s : State) (n : Nat) (x : Tile) : (s.setTile n x).bad = s.bad := rfl
@[simp] theorem State.setTile_net (s : State) (n : Nat) (x : Tile) : (s.setTile n x).net = s.net := rfl
@[simp] theorem State.setTile_gtallies (s : State) (n : Nat) (x : Tile) : (s.setTile n x).gtallies = s.gtallies := rfl
@[simp] theorem State.setTile_huddles (s : State) (n : Nat) (x : Tile) : (s.setTile n x).huddles = s.huddles := rfl
@[simp] theorem State.setTile_reds (s : State) (n : Nat) (x : Tile) : (s.setTile n x).reds = s.reds := rfl
@[simp] theorem State.setTile_pools (s : State) (n : Nat) (x : Tile) : (s.setTile n x).pools = s.pools := rfl
@[simp] theorem State.setTile_snaps (s : State) (n : Nat) (x : Tile) : (s.setTile n x).snaps = s.snaps := rfl
@[simp] theorem State.setTile_trouble (s : State) (n : Nat) (x : Tile) : (s.setTile n x).trouble = s.trouble := rfl
@[simp] theorem State.setTile_nearLive (s : State) (n : Nat) (x : Tile) : (s.setTile n x).nearLive = s.nearLive := rfl
@[simp] theorem State.setTile_farLive (s : State) (n : Nat) (x : Tile) : (s.setTile n x).farLive = s.farLive := rfl
@[simp] theorem State.setTile_scratchMib (s : State) (n : Nat) (x : Tile) : (s.setTile n x).scratchMib = s.scratchMib := rfl
@[simp] theorem State.setTile_exactMib (s : State) (n : Nat) (x : Tile) : (s.setTile n x).exactMib = s.exactMib := rfl
@[simp] theorem State.setTile_scrubPeriod (s : State) (n : Nat) (x : Tile) : (s.setTile n x).scrubPeriod = s.scrubPeriod := rfl
@[simp] theorem State.setTile_scrubAt (s : State) (n : Nat) (x : Tile) : (s.setTile n x).scrubAt = s.scrubAt := rfl
@[simp] theorem State.setTile_broadcast (s : State) (n : Nat) (x : Tile) : (s.setTile n x).broadcast = s.broadcast := rfl
@[simp] theorem State.setTile_deviceNumber (s : State) (n : Nat) (x : Tile) : (s.setTile n x).deviceNumber = s.deviceNumber := rfl
@[simp] theorem State.setTile_ports (s : State) (n : Nat) (x : Tile) : (s.setTile n x).ports = s.ports := rfl
@[simp] theorem State.setTile_fabric (s : State) (n : Nat) (x : Tile) : (s.setTile n x).fabric = s.fabric := rfl
@[simp] theorem State.setTile_sent (s : State) (n : Nat) (x : Tile) : (s.setTile n x).sent = s.sent := rfl
@[simp] theorem State.setTile_camp (s : State) (n : Nat) (x : Tile) : (s.setTile n x).camp = s.camp := rfl
@[simp] theorem State.setTile_fns (s : State) (n : Nat) (x : Tile) : (s.setTile n x).fns = s.fns := rfl
@[simp] theorem State.setTile_service (s : State) (n : Nat) (x : Tile) : (s.setTile n x).service = s.service := rfl
@[simp] theorem State.setTile_power (s : State) (n : Nat) (x : Tile) : (s.setTile n x).power = s.power := rfl
@[simp] theorem State.setTile_trust (s : State) (n : Nat) (x : Tile) : (s.setTile n x).trust = s.trust := rfl
@[simp] theorem State.setTile_panel (s : State) (n : Nat) (x : Tile) : (s.setTile n x).panel = s.panel := rfl

@[simp] theorem State.modTile_pending (s : State) (n : Nat) (f : Tile → Tile) : (s.modTile n f).pending = s.pending := rfl
@[simp] theorem State.modTile_draws (s : State) (n : Nat) (f : Tile → Tile) : (s.modTile n f).draws = s.draws := rfl
@[simp] theorem State.modTile_nextUid (s : State) (n : Nat) (f : Tile → Tile) : (s.modTile n f).nextUid = s.nextUid := rfl
@[simp] theorem State.modTile_ctxs (s : State) (n : Nat) (f : Tile → Tile) : (s.modTile n f).ctxs = s.ctxs := rfl
@[simp] theorem State.modTile_teams (s : State) (n : Nat) (f : Tile → Tile) : (s.modTile n f).teams = s.teams := rfl
@[simp] theorem State.modTile_teamCmds (s : State) (n : Nat) (f : Tile → Tile) : (s.modTile n f).teamCmds = s.teamCmds := rfl
@[simp] theorem State.modTile_chans (s : State) (n : Nat) (f : Tile → Tile) : (s.modTile n f).chans = s.chans := rfl
@[simp] theorem State.modTile_mem (s : State) (n : Nat) (f : Tile → Tile) : (s.modTile n f).mem = s.mem := rfl
@[simp] theorem State.modTile_bad (s : State) (n : Nat) (f : Tile → Tile) : (s.modTile n f).bad = s.bad := rfl
@[simp] theorem State.modTile_net (s : State) (n : Nat) (f : Tile → Tile) : (s.modTile n f).net = s.net := rfl
@[simp] theorem State.modTile_gtallies (s : State) (n : Nat) (f : Tile → Tile) : (s.modTile n f).gtallies = s.gtallies := rfl
@[simp] theorem State.modTile_huddles (s : State) (n : Nat) (f : Tile → Tile) : (s.modTile n f).huddles = s.huddles := rfl
@[simp] theorem State.modTile_reds (s : State) (n : Nat) (f : Tile → Tile) : (s.modTile n f).reds = s.reds := rfl
@[simp] theorem State.modTile_pools (s : State) (n : Nat) (f : Tile → Tile) : (s.modTile n f).pools = s.pools := rfl
@[simp] theorem State.modTile_snaps (s : State) (n : Nat) (f : Tile → Tile) : (s.modTile n f).snaps = s.snaps := rfl
@[simp] theorem State.modTile_trouble (s : State) (n : Nat) (f : Tile → Tile) : (s.modTile n f).trouble = s.trouble := rfl
@[simp] theorem State.modTile_nearLive (s : State) (n : Nat) (f : Tile → Tile) : (s.modTile n f).nearLive = s.nearLive := rfl
@[simp] theorem State.modTile_farLive (s : State) (n : Nat) (f : Tile → Tile) : (s.modTile n f).farLive = s.farLive := rfl
@[simp] theorem State.modTile_scratchMib (s : State) (n : Nat) (f : Tile → Tile) : (s.modTile n f).scratchMib = s.scratchMib := rfl
@[simp] theorem State.modTile_exactMib (s : State) (n : Nat) (f : Tile → Tile) : (s.modTile n f).exactMib = s.exactMib := rfl
@[simp] theorem State.modTile_scrubPeriod (s : State) (n : Nat) (f : Tile → Tile) : (s.modTile n f).scrubPeriod = s.scrubPeriod := rfl
@[simp] theorem State.modTile_scrubAt (s : State) (n : Nat) (f : Tile → Tile) : (s.modTile n f).scrubAt = s.scrubAt := rfl
@[simp] theorem State.modTile_broadcast (s : State) (n : Nat) (f : Tile → Tile) : (s.modTile n f).broadcast = s.broadcast := rfl
@[simp] theorem State.modTile_deviceNumber (s : State) (n : Nat) (f : Tile → Tile) : (s.modTile n f).deviceNumber = s.deviceNumber := rfl
@[simp] theorem State.modTile_ports (s : State) (n : Nat) (f : Tile → Tile) : (s.modTile n f).ports = s.ports := rfl
@[simp] theorem State.modTile_fabric (s : State) (n : Nat) (f : Tile → Tile) : (s.modTile n f).fabric = s.fabric := rfl
@[simp] theorem State.modTile_sent (s : State) (n : Nat) (f : Tile → Tile) : (s.modTile n f).sent = s.sent := rfl
@[simp] theorem State.modTile_camp (s : State) (n : Nat) (f : Tile → Tile) : (s.modTile n f).camp = s.camp := rfl
@[simp] theorem State.modTile_fns (s : State) (n : Nat) (f : Tile → Tile) : (s.modTile n f).fns = s.fns := rfl
@[simp] theorem State.modTile_service (s : State) (n : Nat) (f : Tile → Tile) : (s.modTile n f).service = s.service := rfl
@[simp] theorem State.modTile_power (s : State) (n : Nat) (f : Tile → Tile) : (s.modTile n f).power = s.power := rfl
@[simp] theorem State.modTile_trust (s : State) (n : Nat) (f : Tile → Tile) : (s.modTile n f).trust = s.trust := rfl
@[simp] theorem State.modTile_panel (s : State) (n : Nat) (f : Tile → Tile) : (s.modTile n f).panel = s.panel := rfl

@[simp] theorem State.modThread_pending (s : State) (n : Nat) (st : Stream) (f : Thread → Thread) : (s.modThread n st f).pending = s.pending := rfl
@[simp] theorem State.modThread_draws (s : State) (n : Nat) (st : Stream) (f : Thread → Thread) : (s.modThread n st f).draws = s.draws := rfl
@[simp] theorem State.modThread_nextUid (s : State) (n : Nat) (st : Stream) (f : Thread → Thread) : (s.modThread n st f).nextUid = s.nextUid := rfl
@[simp] theorem State.modThread_ctxs (s : State) (n : Nat) (st : Stream) (f : Thread → Thread) : (s.modThread n st f).ctxs = s.ctxs := rfl
@[simp] theorem State.modThread_teams (s : State) (n : Nat) (st : Stream) (f : Thread → Thread) : (s.modThread n st f).teams = s.teams := rfl
@[simp] theorem State.modThread_teamCmds (s : State) (n : Nat) (st : Stream) (f : Thread → Thread) : (s.modThread n st f).teamCmds = s.teamCmds := rfl
@[simp] theorem State.modThread_chans (s : State) (n : Nat) (st : Stream) (f : Thread → Thread) : (s.modThread n st f).chans = s.chans := rfl
@[simp] theorem State.modThread_mem (s : State) (n : Nat) (st : Stream) (f : Thread → Thread) : (s.modThread n st f).mem = s.mem := rfl
@[simp] theorem State.modThread_bad (s : State) (n : Nat) (st : Stream) (f : Thread → Thread) : (s.modThread n st f).bad = s.bad := rfl
@[simp] theorem State.modThread_net (s : State) (n : Nat) (st : Stream) (f : Thread → Thread) : (s.modThread n st f).net = s.net := rfl
@[simp] theorem State.modThread_gtallies (s : State) (n : Nat) (st : Stream) (f : Thread → Thread) : (s.modThread n st f).gtallies = s.gtallies := rfl
@[simp] theorem State.modThread_huddles (s : State) (n : Nat) (st : Stream) (f : Thread → Thread) : (s.modThread n st f).huddles = s.huddles := rfl
@[simp] theorem State.modThread_reds (s : State) (n : Nat) (st : Stream) (f : Thread → Thread) : (s.modThread n st f).reds = s.reds := rfl
@[simp] theorem State.modThread_pools (s : State) (n : Nat) (st : Stream) (f : Thread → Thread) : (s.modThread n st f).pools = s.pools := rfl
@[simp] theorem State.modThread_snaps (s : State) (n : Nat) (st : Stream) (f : Thread → Thread) : (s.modThread n st f).snaps = s.snaps := rfl
@[simp] theorem State.modThread_trouble (s : State) (n : Nat) (st : Stream) (f : Thread → Thread) : (s.modThread n st f).trouble = s.trouble := rfl
@[simp] theorem State.modThread_nearLive (s : State) (n : Nat) (st : Stream) (f : Thread → Thread) : (s.modThread n st f).nearLive = s.nearLive := rfl
@[simp] theorem State.modThread_farLive (s : State) (n : Nat) (st : Stream) (f : Thread → Thread) : (s.modThread n st f).farLive = s.farLive := rfl
@[simp] theorem State.modThread_scratchMib (s : State) (n : Nat) (st : Stream) (f : Thread → Thread) : (s.modThread n st f).scratchMib = s.scratchMib := rfl
@[simp] theorem State.modThread_exactMib (s : State) (n : Nat) (st : Stream) (f : Thread → Thread) : (s.modThread n st f).exactMib = s.exactMib := rfl
@[simp] theorem State.modThread_scrubPeriod (s : State) (n : Nat) (st : Stream) (f : Thread → Thread) : (s.modThread n st f).scrubPeriod = s.scrubPeriod := rfl
@[simp] theorem State.modThread_scrubAt (s : State) (n : Nat) (st : Stream) (f : Thread → Thread) : (s.modThread n st f).scrubAt = s.scrubAt := rfl
@[simp] theorem State.modThread_broadcast (s : State) (n : Nat) (st : Stream) (f : Thread → Thread) : (s.modThread n st f).broadcast = s.broadcast := rfl
@[simp] theorem State.modThread_deviceNumber (s : State) (n : Nat) (st : Stream) (f : Thread → Thread) : (s.modThread n st f).deviceNumber = s.deviceNumber := rfl
@[simp] theorem State.modThread_ports (s : State) (n : Nat) (st : Stream) (f : Thread → Thread) : (s.modThread n st f).ports = s.ports := rfl
@[simp] theorem State.modThread_fabric (s : State) (n : Nat) (st : Stream) (f : Thread → Thread) : (s.modThread n st f).fabric = s.fabric := rfl
@[simp] theorem State.modThread_sent (s : State) (n : Nat) (st : Stream) (f : Thread → Thread) : (s.modThread n st f).sent = s.sent := rfl
@[simp] theorem State.modThread_camp (s : State) (n : Nat) (st : Stream) (f : Thread → Thread) : (s.modThread n st f).camp = s.camp := rfl
@[simp] theorem State.modThread_fns (s : State) (n : Nat) (st : Stream) (f : Thread → Thread) : (s.modThread n st f).fns = s.fns := rfl
@[simp] theorem State.modThread_service (s : State) (n : Nat) (st : Stream) (f : Thread → Thread) : (s.modThread n st f).service = s.service := rfl
@[simp] theorem State.modThread_power (s : State) (n : Nat) (st : Stream) (f : Thread → Thread) : (s.modThread n st f).power = s.power := rfl
@[simp] theorem State.modThread_trust (s : State) (n : Nat) (st : Stream) (f : Thread → Thread) : (s.modThread n st f).trust = s.trust := rfl
@[simp] theorem State.modThread_panel (s : State) (n : Nat) (st : Stream) (f : Thread → Thread) : (s.modThread n st f).panel = s.panel := rfl

@[simp] theorem State.modQueue_pending (s : State) (n : Nat) (e : Engine) (st : Stream) (f : Queue → Queue) : (s.modQueue n e st f).pending = s.pending := rfl
@[simp] theorem State.modQueue_draws (s : State) (n : Nat) (e : Engine) (st : Stream) (f : Queue → Queue) : (s.modQueue n e st f).draws = s.draws := rfl
@[simp] theorem State.modQueue_nextUid (s : State) (n : Nat) (e : Engine) (st : Stream) (f : Queue → Queue) : (s.modQueue n e st f).nextUid = s.nextUid := rfl
@[simp] theorem State.modQueue_ctxs (s : State) (n : Nat) (e : Engine) (st : Stream) (f : Queue → Queue) : (s.modQueue n e st f).ctxs = s.ctxs := rfl
@[simp] theorem State.modQueue_teams (s : State) (n : Nat) (e : Engine) (st : Stream) (f : Queue → Queue) : (s.modQueue n e st f).teams = s.teams := rfl
@[simp] theorem State.modQueue_teamCmds (s : State) (n : Nat) (e : Engine) (st : Stream) (f : Queue → Queue) : (s.modQueue n e st f).teamCmds = s.teamCmds := rfl
@[simp] theorem State.modQueue_chans (s : State) (n : Nat) (e : Engine) (st : Stream) (f : Queue → Queue) : (s.modQueue n e st f).chans = s.chans := rfl
@[simp] theorem State.modQueue_mem (s : State) (n : Nat) (e : Engine) (st : Stream) (f : Queue → Queue) : (s.modQueue n e st f).mem = s.mem := rfl
@[simp] theorem State.modQueue_bad (s : State) (n : Nat) (e : Engine) (st : Stream) (f : Queue → Queue) : (s.modQueue n e st f).bad = s.bad := rfl
@[simp] theorem State.modQueue_net (s : State) (n : Nat) (e : Engine) (st : Stream) (f : Queue → Queue) : (s.modQueue n e st f).net = s.net := rfl
@[simp] theorem State.modQueue_gtallies (s : State) (n : Nat) (e : Engine) (st : Stream) (f : Queue → Queue) : (s.modQueue n e st f).gtallies = s.gtallies := rfl
@[simp] theorem State.modQueue_huddles (s : State) (n : Nat) (e : Engine) (st : Stream) (f : Queue → Queue) : (s.modQueue n e st f).huddles = s.huddles := rfl
@[simp] theorem State.modQueue_reds (s : State) (n : Nat) (e : Engine) (st : Stream) (f : Queue → Queue) : (s.modQueue n e st f).reds = s.reds := rfl
@[simp] theorem State.modQueue_pools (s : State) (n : Nat) (e : Engine) (st : Stream) (f : Queue → Queue) : (s.modQueue n e st f).pools = s.pools := rfl
@[simp] theorem State.modQueue_snaps (s : State) (n : Nat) (e : Engine) (st : Stream) (f : Queue → Queue) : (s.modQueue n e st f).snaps = s.snaps := rfl
@[simp] theorem State.modQueue_trouble (s : State) (n : Nat) (e : Engine) (st : Stream) (f : Queue → Queue) : (s.modQueue n e st f).trouble = s.trouble := rfl
@[simp] theorem State.modQueue_nearLive (s : State) (n : Nat) (e : Engine) (st : Stream) (f : Queue → Queue) : (s.modQueue n e st f).nearLive = s.nearLive := rfl
@[simp] theorem State.modQueue_farLive (s : State) (n : Nat) (e : Engine) (st : Stream) (f : Queue → Queue) : (s.modQueue n e st f).farLive = s.farLive := rfl
@[simp] theorem State.modQueue_scratchMib (s : State) (n : Nat) (e : Engine) (st : Stream) (f : Queue → Queue) : (s.modQueue n e st f).scratchMib = s.scratchMib := rfl
@[simp] theorem State.modQueue_exactMib (s : State) (n : Nat) (e : Engine) (st : Stream) (f : Queue → Queue) : (s.modQueue n e st f).exactMib = s.exactMib := rfl
@[simp] theorem State.modQueue_scrubPeriod (s : State) (n : Nat) (e : Engine) (st : Stream) (f : Queue → Queue) : (s.modQueue n e st f).scrubPeriod = s.scrubPeriod := rfl
@[simp] theorem State.modQueue_scrubAt (s : State) (n : Nat) (e : Engine) (st : Stream) (f : Queue → Queue) : (s.modQueue n e st f).scrubAt = s.scrubAt := rfl
@[simp] theorem State.modQueue_broadcast (s : State) (n : Nat) (e : Engine) (st : Stream) (f : Queue → Queue) : (s.modQueue n e st f).broadcast = s.broadcast := rfl
@[simp] theorem State.modQueue_deviceNumber (s : State) (n : Nat) (e : Engine) (st : Stream) (f : Queue → Queue) : (s.modQueue n e st f).deviceNumber = s.deviceNumber := rfl
@[simp] theorem State.modQueue_ports (s : State) (n : Nat) (e : Engine) (st : Stream) (f : Queue → Queue) : (s.modQueue n e st f).ports = s.ports := rfl
@[simp] theorem State.modQueue_fabric (s : State) (n : Nat) (e : Engine) (st : Stream) (f : Queue → Queue) : (s.modQueue n e st f).fabric = s.fabric := rfl
@[simp] theorem State.modQueue_sent (s : State) (n : Nat) (e : Engine) (st : Stream) (f : Queue → Queue) : (s.modQueue n e st f).sent = s.sent := rfl
@[simp] theorem State.modQueue_camp (s : State) (n : Nat) (e : Engine) (st : Stream) (f : Queue → Queue) : (s.modQueue n e st f).camp = s.camp := rfl
@[simp] theorem State.modQueue_fns (s : State) (n : Nat) (e : Engine) (st : Stream) (f : Queue → Queue) : (s.modQueue n e st f).fns = s.fns := rfl
@[simp] theorem State.modQueue_service (s : State) (n : Nat) (e : Engine) (st : Stream) (f : Queue → Queue) : (s.modQueue n e st f).service = s.service := rfl
@[simp] theorem State.modQueue_power (s : State) (n : Nat) (e : Engine) (st : Stream) (f : Queue → Queue) : (s.modQueue n e st f).power = s.power := rfl
@[simp] theorem State.modQueue_trust (s : State) (n : Nat) (e : Engine) (st : Stream) (f : Queue → Queue) : (s.modQueue n e st f).trust = s.trust := rfl
@[simp] theorem State.modQueue_panel (s : State) (n : Nat) (e : Engine) (st : Stream) (f : Queue → Queue) : (s.modQueue n e st f).panel = s.panel := rfl

@[simp] theorem State.modArray_pending (s : State) (n k : Nat) (f : Arr → Arr) : (s.modArray n k f).pending = s.pending := rfl
@[simp] theorem State.modArray_draws (s : State) (n k : Nat) (f : Arr → Arr) : (s.modArray n k f).draws = s.draws := rfl
@[simp] theorem State.modArray_nextUid (s : State) (n k : Nat) (f : Arr → Arr) : (s.modArray n k f).nextUid = s.nextUid := rfl
@[simp] theorem State.modArray_ctxs (s : State) (n k : Nat) (f : Arr → Arr) : (s.modArray n k f).ctxs = s.ctxs := rfl
@[simp] theorem State.modArray_teams (s : State) (n k : Nat) (f : Arr → Arr) : (s.modArray n k f).teams = s.teams := rfl
@[simp] theorem State.modArray_teamCmds (s : State) (n k : Nat) (f : Arr → Arr) : (s.modArray n k f).teamCmds = s.teamCmds := rfl
@[simp] theorem State.modArray_chans (s : State) (n k : Nat) (f : Arr → Arr) : (s.modArray n k f).chans = s.chans := rfl
@[simp] theorem State.modArray_mem (s : State) (n k : Nat) (f : Arr → Arr) : (s.modArray n k f).mem = s.mem := rfl
@[simp] theorem State.modArray_bad (s : State) (n k : Nat) (f : Arr → Arr) : (s.modArray n k f).bad = s.bad := rfl
@[simp] theorem State.modArray_net (s : State) (n k : Nat) (f : Arr → Arr) : (s.modArray n k f).net = s.net := rfl
@[simp] theorem State.modArray_gtallies (s : State) (n k : Nat) (f : Arr → Arr) : (s.modArray n k f).gtallies = s.gtallies := rfl
@[simp] theorem State.modArray_huddles (s : State) (n k : Nat) (f : Arr → Arr) : (s.modArray n k f).huddles = s.huddles := rfl
@[simp] theorem State.modArray_reds (s : State) (n k : Nat) (f : Arr → Arr) : (s.modArray n k f).reds = s.reds := rfl
@[simp] theorem State.modArray_pools (s : State) (n k : Nat) (f : Arr → Arr) : (s.modArray n k f).pools = s.pools := rfl
@[simp] theorem State.modArray_snaps (s : State) (n k : Nat) (f : Arr → Arr) : (s.modArray n k f).snaps = s.snaps := rfl
@[simp] theorem State.modArray_trouble (s : State) (n k : Nat) (f : Arr → Arr) : (s.modArray n k f).trouble = s.trouble := rfl
@[simp] theorem State.modArray_nearLive (s : State) (n k : Nat) (f : Arr → Arr) : (s.modArray n k f).nearLive = s.nearLive := rfl
@[simp] theorem State.modArray_farLive (s : State) (n k : Nat) (f : Arr → Arr) : (s.modArray n k f).farLive = s.farLive := rfl
@[simp] theorem State.modArray_scratchMib (s : State) (n k : Nat) (f : Arr → Arr) : (s.modArray n k f).scratchMib = s.scratchMib := rfl
@[simp] theorem State.modArray_exactMib (s : State) (n k : Nat) (f : Arr → Arr) : (s.modArray n k f).exactMib = s.exactMib := rfl
@[simp] theorem State.modArray_scrubPeriod (s : State) (n k : Nat) (f : Arr → Arr) : (s.modArray n k f).scrubPeriod = s.scrubPeriod := rfl
@[simp] theorem State.modArray_scrubAt (s : State) (n k : Nat) (f : Arr → Arr) : (s.modArray n k f).scrubAt = s.scrubAt := rfl
@[simp] theorem State.modArray_broadcast (s : State) (n k : Nat) (f : Arr → Arr) : (s.modArray n k f).broadcast = s.broadcast := rfl
@[simp] theorem State.modArray_deviceNumber (s : State) (n k : Nat) (f : Arr → Arr) : (s.modArray n k f).deviceNumber = s.deviceNumber := rfl
@[simp] theorem State.modArray_ports (s : State) (n k : Nat) (f : Arr → Arr) : (s.modArray n k f).ports = s.ports := rfl
@[simp] theorem State.modArray_fabric (s : State) (n k : Nat) (f : Arr → Arr) : (s.modArray n k f).fabric = s.fabric := rfl
@[simp] theorem State.modArray_sent (s : State) (n k : Nat) (f : Arr → Arr) : (s.modArray n k f).sent = s.sent := rfl
@[simp] theorem State.modArray_camp (s : State) (n k : Nat) (f : Arr → Arr) : (s.modArray n k f).camp = s.camp := rfl
@[simp] theorem State.modArray_fns (s : State) (n k : Nat) (f : Arr → Arr) : (s.modArray n k f).fns = s.fns := rfl
@[simp] theorem State.modArray_service (s : State) (n k : Nat) (f : Arr → Arr) : (s.modArray n k f).service = s.service := rfl
@[simp] theorem State.modArray_power (s : State) (n k : Nat) (f : Arr → Arr) : (s.modArray n k f).power = s.power := rfl
@[simp] theorem State.modArray_trust (s : State) (n k : Nat) (f : Arr → Arr) : (s.modArray n k f).trust = s.trust := rfl
@[simp] theorem State.modArray_panel (s : State) (n k : Nat) (f : Arr → Arr) : (s.modArray n k f).panel = s.panel := rfl

@[simp] theorem State.progressed_pending (s : State) (n u : Nat) : (s.progressed n u).pending = s.pending := rfl
@[simp] theorem State.progressed_draws (s : State) (n u : Nat) : (s.progressed n u).draws = s.draws := rfl
@[simp] theorem State.progressed_nextUid (s : State) (n u : Nat) : (s.progressed n u).nextUid = s.nextUid := rfl
@[simp] theorem State.progressed_ctxs (s : State) (n u : Nat) : (s.progressed n u).ctxs = s.ctxs := rfl
@[simp] theorem State.progressed_teams (s : State) (n u : Nat) : (s.progressed n u).teams = s.teams := rfl
@[simp] theorem State.progressed_teamCmds (s : State) (n u : Nat) : (s.progressed n u).teamCmds = s.teamCmds := rfl
@[simp] theorem State.progressed_chans (s : State) (n u : Nat) : (s.progressed n u).chans = s.chans := rfl
@[simp] theorem State.progressed_mem (s : State) (n u : Nat) : (s.progressed n u).mem = s.mem := rfl
@[simp] theorem State.progressed_bad (s : State) (n u : Nat) : (s.progressed n u).bad = s.bad := rfl
@[simp] theorem State.progressed_net (s : State) (n u : Nat) : (s.progressed n u).net = s.net := rfl
@[simp] theorem State.progressed_gtallies (s : State) (n u : Nat) : (s.progressed n u).gtallies = s.gtallies := rfl
@[simp] theorem State.progressed_huddles (s : State) (n u : Nat) : (s.progressed n u).huddles = s.huddles := rfl
@[simp] theorem State.progressed_reds (s : State) (n u : Nat) : (s.progressed n u).reds = s.reds := rfl
@[simp] theorem State.progressed_pools (s : State) (n u : Nat) : (s.progressed n u).pools = s.pools := rfl
@[simp] theorem State.progressed_snaps (s : State) (n u : Nat) : (s.progressed n u).snaps = s.snaps := rfl
@[simp] theorem State.progressed_trouble (s : State) (n u : Nat) : (s.progressed n u).trouble = s.trouble := rfl
@[simp] theorem State.progressed_nearLive (s : State) (n u : Nat) : (s.progressed n u).nearLive = s.nearLive := rfl
@[simp] theorem State.progressed_farLive (s : State) (n u : Nat) : (s.progressed n u).farLive = s.farLive := rfl
@[simp] theorem State.progressed_scratchMib (s : State) (n u : Nat) : (s.progressed n u).scratchMib = s.scratchMib := rfl
@[simp] theorem State.progressed_exactMib (s : State) (n u : Nat) : (s.progressed n u).exactMib = s.exactMib := rfl
@[simp] theorem State.progressed_scrubPeriod (s : State) (n u : Nat) : (s.progressed n u).scrubPeriod = s.scrubPeriod := rfl
@[simp] theorem State.progressed_scrubAt (s : State) (n u : Nat) : (s.progressed n u).scrubAt = s.scrubAt := rfl
@[simp] theorem State.progressed_broadcast (s : State) (n u : Nat) : (s.progressed n u).broadcast = s.broadcast := rfl
@[simp] theorem State.progressed_deviceNumber (s : State) (n u : Nat) : (s.progressed n u).deviceNumber = s.deviceNumber := rfl
@[simp] theorem State.progressed_ports (s : State) (n u : Nat) : (s.progressed n u).ports = s.ports := rfl
@[simp] theorem State.progressed_fabric (s : State) (n u : Nat) : (s.progressed n u).fabric = s.fabric := rfl
@[simp] theorem State.progressed_sent (s : State) (n u : Nat) : (s.progressed n u).sent = s.sent := rfl
@[simp] theorem State.progressed_camp (s : State) (n u : Nat) : (s.progressed n u).camp = s.camp := rfl
@[simp] theorem State.progressed_fns (s : State) (n u : Nat) : (s.progressed n u).fns = s.fns := rfl
@[simp] theorem State.progressed_service (s : State) (n u : Nat) : (s.progressed n u).service = s.service := rfl
@[simp] theorem State.progressed_power (s : State) (n u : Nat) : (s.progressed n u).power = s.power := rfl
@[simp] theorem State.progressed_trust (s : State) (n u : Nat) : (s.progressed n u).trust = s.trust := rfl
@[simp] theorem State.progressed_panel (s : State) (n u : Nat) : (s.progressed n u).panel = s.panel := rfl

@[simp] theorem State.passTurn_pending (s : State) (n : Nat) (st : Stream) : (s.passTurn n st).pending = s.pending := rfl
@[simp] theorem State.passTurn_draws (s : State) (n : Nat) (st : Stream) : (s.passTurn n st).draws = s.draws := rfl
@[simp] theorem State.passTurn_nextUid (s : State) (n : Nat) (st : Stream) : (s.passTurn n st).nextUid = s.nextUid := rfl
@[simp] theorem State.passTurn_ctxs (s : State) (n : Nat) (st : Stream) : (s.passTurn n st).ctxs = s.ctxs := rfl
@[simp] theorem State.passTurn_teams (s : State) (n : Nat) (st : Stream) : (s.passTurn n st).teams = s.teams := rfl
@[simp] theorem State.passTurn_teamCmds (s : State) (n : Nat) (st : Stream) : (s.passTurn n st).teamCmds = s.teamCmds := rfl
@[simp] theorem State.passTurn_chans (s : State) (n : Nat) (st : Stream) : (s.passTurn n st).chans = s.chans := rfl
@[simp] theorem State.passTurn_mem (s : State) (n : Nat) (st : Stream) : (s.passTurn n st).mem = s.mem := rfl
@[simp] theorem State.passTurn_bad (s : State) (n : Nat) (st : Stream) : (s.passTurn n st).bad = s.bad := rfl
@[simp] theorem State.passTurn_net (s : State) (n : Nat) (st : Stream) : (s.passTurn n st).net = s.net := rfl
@[simp] theorem State.passTurn_gtallies (s : State) (n : Nat) (st : Stream) : (s.passTurn n st).gtallies = s.gtallies := rfl
@[simp] theorem State.passTurn_huddles (s : State) (n : Nat) (st : Stream) : (s.passTurn n st).huddles = s.huddles := rfl
@[simp] theorem State.passTurn_reds (s : State) (n : Nat) (st : Stream) : (s.passTurn n st).reds = s.reds := rfl
@[simp] theorem State.passTurn_pools (s : State) (n : Nat) (st : Stream) : (s.passTurn n st).pools = s.pools := rfl
@[simp] theorem State.passTurn_snaps (s : State) (n : Nat) (st : Stream) : (s.passTurn n st).snaps = s.snaps := rfl
@[simp] theorem State.passTurn_trouble (s : State) (n : Nat) (st : Stream) : (s.passTurn n st).trouble = s.trouble := rfl
@[simp] theorem State.passTurn_nearLive (s : State) (n : Nat) (st : Stream) : (s.passTurn n st).nearLive = s.nearLive := rfl
@[simp] theorem State.passTurn_farLive (s : State) (n : Nat) (st : Stream) : (s.passTurn n st).farLive = s.farLive := rfl
@[simp] theorem State.passTurn_scratchMib (s : State) (n : Nat) (st : Stream) : (s.passTurn n st).scratchMib = s.scratchMib := rfl
@[simp] theorem State.passTurn_exactMib (s : State) (n : Nat) (st : Stream) : (s.passTurn n st).exactMib = s.exactMib := rfl
@[simp] theorem State.passTurn_scrubPeriod (s : State) (n : Nat) (st : Stream) : (s.passTurn n st).scrubPeriod = s.scrubPeriod := rfl
@[simp] theorem State.passTurn_scrubAt (s : State) (n : Nat) (st : Stream) : (s.passTurn n st).scrubAt = s.scrubAt := rfl
@[simp] theorem State.passTurn_broadcast (s : State) (n : Nat) (st : Stream) : (s.passTurn n st).broadcast = s.broadcast := rfl
@[simp] theorem State.passTurn_deviceNumber (s : State) (n : Nat) (st : Stream) : (s.passTurn n st).deviceNumber = s.deviceNumber := rfl
@[simp] theorem State.passTurn_ports (s : State) (n : Nat) (st : Stream) : (s.passTurn n st).ports = s.ports := rfl
@[simp] theorem State.passTurn_fabric (s : State) (n : Nat) (st : Stream) : (s.passTurn n st).fabric = s.fabric := rfl
@[simp] theorem State.passTurn_sent (s : State) (n : Nat) (st : Stream) : (s.passTurn n st).sent = s.sent := rfl
@[simp] theorem State.passTurn_camp (s : State) (n : Nat) (st : Stream) : (s.passTurn n st).camp = s.camp := rfl
@[simp] theorem State.passTurn_fns (s : State) (n : Nat) (st : Stream) : (s.passTurn n st).fns = s.fns := rfl
@[simp] theorem State.passTurn_service (s : State) (n : Nat) (st : Stream) : (s.passTurn n st).service = s.service := rfl
@[simp] theorem State.passTurn_power (s : State) (n : Nat) (st : Stream) : (s.passTurn n st).power = s.power := rfl
@[simp] theorem State.passTurn_trust (s : State) (n : Nat) (st : Stream) : (s.passTurn n st).trust = s.trust := rfl
@[simp] theorem State.passTurn_panel (s : State) (n : Nat) (st : Stream) : (s.passTurn n st).panel = s.panel := rfl

@[simp] theorem State.retireAt_pending (s : State) (n : Nat) (st : Stream) (pc : Word) : (s.retireAt n st pc).pending = s.pending := rfl
@[simp] theorem State.retireAt_draws (s : State) (n : Nat) (st : Stream) (pc : Word) : (s.retireAt n st pc).draws = s.draws := rfl
@[simp] theorem State.retireAt_nextUid (s : State) (n : Nat) (st : Stream) (pc : Word) : (s.retireAt n st pc).nextUid = s.nextUid := rfl
@[simp] theorem State.retireAt_ctxs (s : State) (n : Nat) (st : Stream) (pc : Word) : (s.retireAt n st pc).ctxs = s.ctxs := rfl
@[simp] theorem State.retireAt_teams (s : State) (n : Nat) (st : Stream) (pc : Word) : (s.retireAt n st pc).teams = s.teams := rfl
@[simp] theorem State.retireAt_teamCmds (s : State) (n : Nat) (st : Stream) (pc : Word) : (s.retireAt n st pc).teamCmds = s.teamCmds := rfl
@[simp] theorem State.retireAt_chans (s : State) (n : Nat) (st : Stream) (pc : Word) : (s.retireAt n st pc).chans = s.chans := rfl
@[simp] theorem State.retireAt_mem (s : State) (n : Nat) (st : Stream) (pc : Word) : (s.retireAt n st pc).mem = s.mem := rfl
@[simp] theorem State.retireAt_bad (s : State) (n : Nat) (st : Stream) (pc : Word) : (s.retireAt n st pc).bad = s.bad := rfl
@[simp] theorem State.retireAt_net (s : State) (n : Nat) (st : Stream) (pc : Word) : (s.retireAt n st pc).net = s.net := rfl
@[simp] theorem State.retireAt_gtallies (s : State) (n : Nat) (st : Stream) (pc : Word) : (s.retireAt n st pc).gtallies = s.gtallies := rfl
@[simp] theorem State.retireAt_huddles (s : State) (n : Nat) (st : Stream) (pc : Word) : (s.retireAt n st pc).huddles = s.huddles := rfl
@[simp] theorem State.retireAt_reds (s : State) (n : Nat) (st : Stream) (pc : Word) : (s.retireAt n st pc).reds = s.reds := rfl
@[simp] theorem State.retireAt_pools (s : State) (n : Nat) (st : Stream) (pc : Word) : (s.retireAt n st pc).pools = s.pools := rfl
@[simp] theorem State.retireAt_snaps (s : State) (n : Nat) (st : Stream) (pc : Word) : (s.retireAt n st pc).snaps = s.snaps := rfl
@[simp] theorem State.retireAt_trouble (s : State) (n : Nat) (st : Stream) (pc : Word) : (s.retireAt n st pc).trouble = s.trouble := rfl
@[simp] theorem State.retireAt_nearLive (s : State) (n : Nat) (st : Stream) (pc : Word) : (s.retireAt n st pc).nearLive = s.nearLive := rfl
@[simp] theorem State.retireAt_farLive (s : State) (n : Nat) (st : Stream) (pc : Word) : (s.retireAt n st pc).farLive = s.farLive := rfl
@[simp] theorem State.retireAt_scratchMib (s : State) (n : Nat) (st : Stream) (pc : Word) : (s.retireAt n st pc).scratchMib = s.scratchMib := rfl
@[simp] theorem State.retireAt_exactMib (s : State) (n : Nat) (st : Stream) (pc : Word) : (s.retireAt n st pc).exactMib = s.exactMib := rfl
@[simp] theorem State.retireAt_scrubPeriod (s : State) (n : Nat) (st : Stream) (pc : Word) : (s.retireAt n st pc).scrubPeriod = s.scrubPeriod := rfl
@[simp] theorem State.retireAt_scrubAt (s : State) (n : Nat) (st : Stream) (pc : Word) : (s.retireAt n st pc).scrubAt = s.scrubAt := rfl
@[simp] theorem State.retireAt_broadcast (s : State) (n : Nat) (st : Stream) (pc : Word) : (s.retireAt n st pc).broadcast = s.broadcast := rfl
@[simp] theorem State.retireAt_deviceNumber (s : State) (n : Nat) (st : Stream) (pc : Word) : (s.retireAt n st pc).deviceNumber = s.deviceNumber := rfl
@[simp] theorem State.retireAt_ports (s : State) (n : Nat) (st : Stream) (pc : Word) : (s.retireAt n st pc).ports = s.ports := rfl
@[simp] theorem State.retireAt_fabric (s : State) (n : Nat) (st : Stream) (pc : Word) : (s.retireAt n st pc).fabric = s.fabric := rfl
@[simp] theorem State.retireAt_sent (s : State) (n : Nat) (st : Stream) (pc : Word) : (s.retireAt n st pc).sent = s.sent := rfl
@[simp] theorem State.retireAt_camp (s : State) (n : Nat) (st : Stream) (pc : Word) : (s.retireAt n st pc).camp = s.camp := rfl
@[simp] theorem State.retireAt_fns (s : State) (n : Nat) (st : Stream) (pc : Word) : (s.retireAt n st pc).fns = s.fns := rfl
@[simp] theorem State.retireAt_service (s : State) (n : Nat) (st : Stream) (pc : Word) : (s.retireAt n st pc).service = s.service := rfl
@[simp] theorem State.retireAt_power (s : State) (n : Nat) (st : Stream) (pc : Word) : (s.retireAt n st pc).power = s.power := rfl
@[simp] theorem State.retireAt_trust (s : State) (n : Nat) (st : Stream) (pc : Word) : (s.retireAt n st pc).trust = s.trust := rfl
@[simp] theorem State.retireAt_panel (s : State) (n : Nat) (st : Stream) (pc : Word) : (s.retireAt n st pc).panel = s.panel := rfl

@[simp] theorem State.retire_pending (s : State) (n : Nat) (st : Stream) (len : Nat) : (s.retire n st len).pending = s.pending := rfl
@[simp] theorem State.retire_draws (s : State) (n : Nat) (st : Stream) (len : Nat) : (s.retire n st len).draws = s.draws := rfl
@[simp] theorem State.retire_nextUid (s : State) (n : Nat) (st : Stream) (len : Nat) : (s.retire n st len).nextUid = s.nextUid := rfl
@[simp] theorem State.retire_ctxs (s : State) (n : Nat) (st : Stream) (len : Nat) : (s.retire n st len).ctxs = s.ctxs := rfl
@[simp] theorem State.retire_teams (s : State) (n : Nat) (st : Stream) (len : Nat) : (s.retire n st len).teams = s.teams := rfl
@[simp] theorem State.retire_teamCmds (s : State) (n : Nat) (st : Stream) (len : Nat) : (s.retire n st len).teamCmds = s.teamCmds := rfl
@[simp] theorem State.retire_chans (s : State) (n : Nat) (st : Stream) (len : Nat) : (s.retire n st len).chans = s.chans := rfl
@[simp] theorem State.retire_mem (s : State) (n : Nat) (st : Stream) (len : Nat) : (s.retire n st len).mem = s.mem := rfl
@[simp] theorem State.retire_bad (s : State) (n : Nat) (st : Stream) (len : Nat) : (s.retire n st len).bad = s.bad := rfl
@[simp] theorem State.retire_net (s : State) (n : Nat) (st : Stream) (len : Nat) : (s.retire n st len).net = s.net := rfl
@[simp] theorem State.retire_gtallies (s : State) (n : Nat) (st : Stream) (len : Nat) : (s.retire n st len).gtallies = s.gtallies := rfl
@[simp] theorem State.retire_huddles (s : State) (n : Nat) (st : Stream) (len : Nat) : (s.retire n st len).huddles = s.huddles := rfl
@[simp] theorem State.retire_reds (s : State) (n : Nat) (st : Stream) (len : Nat) : (s.retire n st len).reds = s.reds := rfl
@[simp] theorem State.retire_pools (s : State) (n : Nat) (st : Stream) (len : Nat) : (s.retire n st len).pools = s.pools := rfl
@[simp] theorem State.retire_snaps (s : State) (n : Nat) (st : Stream) (len : Nat) : (s.retire n st len).snaps = s.snaps := rfl
@[simp] theorem State.retire_trouble (s : State) (n : Nat) (st : Stream) (len : Nat) : (s.retire n st len).trouble = s.trouble := rfl
@[simp] theorem State.retire_nearLive (s : State) (n : Nat) (st : Stream) (len : Nat) : (s.retire n st len).nearLive = s.nearLive := rfl
@[simp] theorem State.retire_farLive (s : State) (n : Nat) (st : Stream) (len : Nat) : (s.retire n st len).farLive = s.farLive := rfl
@[simp] theorem State.retire_scratchMib (s : State) (n : Nat) (st : Stream) (len : Nat) : (s.retire n st len).scratchMib = s.scratchMib := rfl
@[simp] theorem State.retire_exactMib (s : State) (n : Nat) (st : Stream) (len : Nat) : (s.retire n st len).exactMib = s.exactMib := rfl
@[simp] theorem State.retire_scrubPeriod (s : State) (n : Nat) (st : Stream) (len : Nat) : (s.retire n st len).scrubPeriod = s.scrubPeriod := rfl
@[simp] theorem State.retire_scrubAt (s : State) (n : Nat) (st : Stream) (len : Nat) : (s.retire n st len).scrubAt = s.scrubAt := rfl
@[simp] theorem State.retire_broadcast (s : State) (n : Nat) (st : Stream) (len : Nat) : (s.retire n st len).broadcast = s.broadcast := rfl
@[simp] theorem State.retire_deviceNumber (s : State) (n : Nat) (st : Stream) (len : Nat) : (s.retire n st len).deviceNumber = s.deviceNumber := rfl
@[simp] theorem State.retire_ports (s : State) (n : Nat) (st : Stream) (len : Nat) : (s.retire n st len).ports = s.ports := rfl
@[simp] theorem State.retire_fabric (s : State) (n : Nat) (st : Stream) (len : Nat) : (s.retire n st len).fabric = s.fabric := rfl
@[simp] theorem State.retire_sent (s : State) (n : Nat) (st : Stream) (len : Nat) : (s.retire n st len).sent = s.sent := rfl
@[simp] theorem State.retire_camp (s : State) (n : Nat) (st : Stream) (len : Nat) : (s.retire n st len).camp = s.camp := rfl
@[simp] theorem State.retire_fns (s : State) (n : Nat) (st : Stream) (len : Nat) : (s.retire n st len).fns = s.fns := rfl
@[simp] theorem State.retire_service (s : State) (n : Nat) (st : Stream) (len : Nat) : (s.retire n st len).service = s.service := rfl
@[simp] theorem State.retire_power (s : State) (n : Nat) (st : Stream) (len : Nat) : (s.retire n st len).power = s.power := rfl
@[simp] theorem State.retire_trust (s : State) (n : Nat) (st : Stream) (len : Nat) : (s.retire n st len).trust = s.trust := rfl
@[simp] theorem State.retire_panel (s : State) (n : Nat) (st : Stream) (len : Nat) : (s.retire n st len).panel = s.panel := rfl

@[simp] theorem State.retireReg_pending (s : State) (n : Nat) (st : Stream) (len rd : Nat) (v : Word) : (s.retireReg n st len rd v).pending = s.pending := rfl
@[simp] theorem State.retireReg_draws (s : State) (n : Nat) (st : Stream) (len rd : Nat) (v : Word) : (s.retireReg n st len rd v).draws = s.draws := rfl
@[simp] theorem State.retireReg_nextUid (s : State) (n : Nat) (st : Stream) (len rd : Nat) (v : Word) : (s.retireReg n st len rd v).nextUid = s.nextUid := rfl
@[simp] theorem State.retireReg_ctxs (s : State) (n : Nat) (st : Stream) (len rd : Nat) (v : Word) : (s.retireReg n st len rd v).ctxs = s.ctxs := rfl
@[simp] theorem State.retireReg_teams (s : State) (n : Nat) (st : Stream) (len rd : Nat) (v : Word) : (s.retireReg n st len rd v).teams = s.teams := rfl
@[simp] theorem State.retireReg_teamCmds (s : State) (n : Nat) (st : Stream) (len rd : Nat) (v : Word) : (s.retireReg n st len rd v).teamCmds = s.teamCmds := rfl
@[simp] theorem State.retireReg_chans (s : State) (n : Nat) (st : Stream) (len rd : Nat) (v : Word) : (s.retireReg n st len rd v).chans = s.chans := rfl
@[simp] theorem State.retireReg_mem (s : State) (n : Nat) (st : Stream) (len rd : Nat) (v : Word) : (s.retireReg n st len rd v).mem = s.mem := rfl
@[simp] theorem State.retireReg_bad (s : State) (n : Nat) (st : Stream) (len rd : Nat) (v : Word) : (s.retireReg n st len rd v).bad = s.bad := rfl
@[simp] theorem State.retireReg_net (s : State) (n : Nat) (st : Stream) (len rd : Nat) (v : Word) : (s.retireReg n st len rd v).net = s.net := rfl
@[simp] theorem State.retireReg_gtallies (s : State) (n : Nat) (st : Stream) (len rd : Nat) (v : Word) : (s.retireReg n st len rd v).gtallies = s.gtallies := rfl
@[simp] theorem State.retireReg_huddles (s : State) (n : Nat) (st : Stream) (len rd : Nat) (v : Word) : (s.retireReg n st len rd v).huddles = s.huddles := rfl
@[simp] theorem State.retireReg_reds (s : State) (n : Nat) (st : Stream) (len rd : Nat) (v : Word) : (s.retireReg n st len rd v).reds = s.reds := rfl
@[simp] theorem State.retireReg_pools (s : State) (n : Nat) (st : Stream) (len rd : Nat) (v : Word) : (s.retireReg n st len rd v).pools = s.pools := rfl
@[simp] theorem State.retireReg_snaps (s : State) (n : Nat) (st : Stream) (len rd : Nat) (v : Word) : (s.retireReg n st len rd v).snaps = s.snaps := rfl
@[simp] theorem State.retireReg_trouble (s : State) (n : Nat) (st : Stream) (len rd : Nat) (v : Word) : (s.retireReg n st len rd v).trouble = s.trouble := rfl
@[simp] theorem State.retireReg_nearLive (s : State) (n : Nat) (st : Stream) (len rd : Nat) (v : Word) : (s.retireReg n st len rd v).nearLive = s.nearLive := rfl
@[simp] theorem State.retireReg_farLive (s : State) (n : Nat) (st : Stream) (len rd : Nat) (v : Word) : (s.retireReg n st len rd v).farLive = s.farLive := rfl
@[simp] theorem State.retireReg_scratchMib (s : State) (n : Nat) (st : Stream) (len rd : Nat) (v : Word) : (s.retireReg n st len rd v).scratchMib = s.scratchMib := rfl
@[simp] theorem State.retireReg_exactMib (s : State) (n : Nat) (st : Stream) (len rd : Nat) (v : Word) : (s.retireReg n st len rd v).exactMib = s.exactMib := rfl
@[simp] theorem State.retireReg_scrubPeriod (s : State) (n : Nat) (st : Stream) (len rd : Nat) (v : Word) : (s.retireReg n st len rd v).scrubPeriod = s.scrubPeriod := rfl
@[simp] theorem State.retireReg_scrubAt (s : State) (n : Nat) (st : Stream) (len rd : Nat) (v : Word) : (s.retireReg n st len rd v).scrubAt = s.scrubAt := rfl
@[simp] theorem State.retireReg_broadcast (s : State) (n : Nat) (st : Stream) (len rd : Nat) (v : Word) : (s.retireReg n st len rd v).broadcast = s.broadcast := rfl
@[simp] theorem State.retireReg_deviceNumber (s : State) (n : Nat) (st : Stream) (len rd : Nat) (v : Word) : (s.retireReg n st len rd v).deviceNumber = s.deviceNumber := rfl
@[simp] theorem State.retireReg_ports (s : State) (n : Nat) (st : Stream) (len rd : Nat) (v : Word) : (s.retireReg n st len rd v).ports = s.ports := rfl
@[simp] theorem State.retireReg_fabric (s : State) (n : Nat) (st : Stream) (len rd : Nat) (v : Word) : (s.retireReg n st len rd v).fabric = s.fabric := rfl
@[simp] theorem State.retireReg_sent (s : State) (n : Nat) (st : Stream) (len rd : Nat) (v : Word) : (s.retireReg n st len rd v).sent = s.sent := rfl
@[simp] theorem State.retireReg_camp (s : State) (n : Nat) (st : Stream) (len rd : Nat) (v : Word) : (s.retireReg n st len rd v).camp = s.camp := rfl
@[simp] theorem State.retireReg_fns (s : State) (n : Nat) (st : Stream) (len rd : Nat) (v : Word) : (s.retireReg n st len rd v).fns = s.fns := rfl
@[simp] theorem State.retireReg_service (s : State) (n : Nat) (st : Stream) (len rd : Nat) (v : Word) : (s.retireReg n st len rd v).service = s.service := rfl
@[simp] theorem State.retireReg_power (s : State) (n : Nat) (st : Stream) (len rd : Nat) (v : Word) : (s.retireReg n st len rd v).power = s.power := rfl
@[simp] theorem State.retireReg_trust (s : State) (n : Nat) (st : Stream) (len rd : Nat) (v : Word) : (s.retireReg n st len rd v).trust = s.trust := rfl
@[simp] theorem State.retireReg_panel (s : State) (n : Nat) (st : Stream) (len rd : Nat) (v : Word) : (s.retireReg n st len rd v).panel = s.panel := rfl

@[simp] theorem State.retirePreds_pending (s : State) (n : Nat) (st : Stream) (len : Nat) (p : BitVec 16) : (s.retirePreds n st len p).pending = s.pending := rfl
@[simp] theorem State.retirePreds_draws (s : State) (n : Nat) (st : Stream) (len : Nat) (p : BitVec 16) : (s.retirePreds n st len p).draws = s.draws := rfl
@[simp] theorem State.retirePreds_nextUid (s : State) (n : Nat) (st : Stream) (len : Nat) (p : BitVec 16) : (s.retirePreds n st len p).nextUid = s.nextUid := rfl
@[simp] theorem State.retirePreds_ctxs (s : State) (n : Nat) (st : Stream) (len : Nat) (p : BitVec 16) : (s.retirePreds n st len p).ctxs = s.ctxs := rfl
@[simp] theorem State.retirePreds_teams (s : State) (n : Nat) (st : Stream) (len : Nat) (p : BitVec 16) : (s.retirePreds n st len p).teams = s.teams := rfl
@[simp] theorem State.retirePreds_teamCmds (s : State) (n : Nat) (st : Stream) (len : Nat) (p : BitVec 16) : (s.retirePreds n st len p).teamCmds = s.teamCmds := rfl
@[simp] theorem State.retirePreds_chans (s : State) (n : Nat) (st : Stream) (len : Nat) (p : BitVec 16) : (s.retirePreds n st len p).chans = s.chans := rfl
@[simp] theorem State.retirePreds_mem (s : State) (n : Nat) (st : Stream) (len : Nat) (p : BitVec 16) : (s.retirePreds n st len p).mem = s.mem := rfl
@[simp] theorem State.retirePreds_bad (s : State) (n : Nat) (st : Stream) (len : Nat) (p : BitVec 16) : (s.retirePreds n st len p).bad = s.bad := rfl
@[simp] theorem State.retirePreds_net (s : State) (n : Nat) (st : Stream) (len : Nat) (p : BitVec 16) : (s.retirePreds n st len p).net = s.net := rfl
@[simp] theorem State.retirePreds_gtallies (s : State) (n : Nat) (st : Stream) (len : Nat) (p : BitVec 16) : (s.retirePreds n st len p).gtallies = s.gtallies := rfl
@[simp] theorem State.retirePreds_huddles (s : State) (n : Nat) (st : Stream) (len : Nat) (p : BitVec 16) : (s.retirePreds n st len p).huddles = s.huddles := rfl
@[simp] theorem State.retirePreds_reds (s : State) (n : Nat) (st : Stream) (len : Nat) (p : BitVec 16) : (s.retirePreds n st len p).reds = s.reds := rfl
@[simp] theorem State.retirePreds_pools (s : State) (n : Nat) (st : Stream) (len : Nat) (p : BitVec 16) : (s.retirePreds n st len p).pools = s.pools := rfl
@[simp] theorem State.retirePreds_snaps (s : State) (n : Nat) (st : Stream) (len : Nat) (p : BitVec 16) : (s.retirePreds n st len p).snaps = s.snaps := rfl
@[simp] theorem State.retirePreds_trouble (s : State) (n : Nat) (st : Stream) (len : Nat) (p : BitVec 16) : (s.retirePreds n st len p).trouble = s.trouble := rfl
@[simp] theorem State.retirePreds_nearLive (s : State) (n : Nat) (st : Stream) (len : Nat) (p : BitVec 16) : (s.retirePreds n st len p).nearLive = s.nearLive := rfl
@[simp] theorem State.retirePreds_farLive (s : State) (n : Nat) (st : Stream) (len : Nat) (p : BitVec 16) : (s.retirePreds n st len p).farLive = s.farLive := rfl
@[simp] theorem State.retirePreds_scratchMib (s : State) (n : Nat) (st : Stream) (len : Nat) (p : BitVec 16) : (s.retirePreds n st len p).scratchMib = s.scratchMib := rfl
@[simp] theorem State.retirePreds_exactMib (s : State) (n : Nat) (st : Stream) (len : Nat) (p : BitVec 16) : (s.retirePreds n st len p).exactMib = s.exactMib := rfl
@[simp] theorem State.retirePreds_scrubPeriod (s : State) (n : Nat) (st : Stream) (len : Nat) (p : BitVec 16) : (s.retirePreds n st len p).scrubPeriod = s.scrubPeriod := rfl
@[simp] theorem State.retirePreds_scrubAt (s : State) (n : Nat) (st : Stream) (len : Nat) (p : BitVec 16) : (s.retirePreds n st len p).scrubAt = s.scrubAt := rfl
@[simp] theorem State.retirePreds_broadcast (s : State) (n : Nat) (st : Stream) (len : Nat) (p : BitVec 16) : (s.retirePreds n st len p).broadcast = s.broadcast := rfl
@[simp] theorem State.retirePreds_deviceNumber (s : State) (n : Nat) (st : Stream) (len : Nat) (p : BitVec 16) : (s.retirePreds n st len p).deviceNumber = s.deviceNumber := rfl
@[simp] theorem State.retirePreds_ports (s : State) (n : Nat) (st : Stream) (len : Nat) (p : BitVec 16) : (s.retirePreds n st len p).ports = s.ports := rfl
@[simp] theorem State.retirePreds_fabric (s : State) (n : Nat) (st : Stream) (len : Nat) (p : BitVec 16) : (s.retirePreds n st len p).fabric = s.fabric := rfl
@[simp] theorem State.retirePreds_sent (s : State) (n : Nat) (st : Stream) (len : Nat) (p : BitVec 16) : (s.retirePreds n st len p).sent = s.sent := rfl
@[simp] theorem State.retirePreds_camp (s : State) (n : Nat) (st : Stream) (len : Nat) (p : BitVec 16) : (s.retirePreds n st len p).camp = s.camp := rfl
@[simp] theorem State.retirePreds_fns (s : State) (n : Nat) (st : Stream) (len : Nat) (p : BitVec 16) : (s.retirePreds n st len p).fns = s.fns := rfl
@[simp] theorem State.retirePreds_service (s : State) (n : Nat) (st : Stream) (len : Nat) (p : BitVec 16) : (s.retirePreds n st len p).service = s.service := rfl
@[simp] theorem State.retirePreds_power (s : State) (n : Nat) (st : Stream) (len : Nat) (p : BitVec 16) : (s.retirePreds n st len p).power = s.power := rfl
@[simp] theorem State.retirePreds_trust (s : State) (n : Nat) (st : Stream) (len : Nat) (p : BitVec 16) : (s.retirePreds n st len p).trust = s.trust := rfl
@[simp] theorem State.retirePreds_panel (s : State) (n : Nat) (st : Stream) (len : Nat) (p : BitVec 16) : (s.retirePreds n st len p).panel = s.panel := rfl

@[simp] theorem State.modCtx_pending (s : State) (c : Nat) (f : Ctx → Ctx) : (s.modCtx c f).pending = s.pending := rfl
@[simp] theorem State.modCtx_draws (s : State) (c : Nat) (f : Ctx → Ctx) : (s.modCtx c f).draws = s.draws := rfl
@[simp] theorem State.modCtx_nextUid (s : State) (c : Nat) (f : Ctx → Ctx) : (s.modCtx c f).nextUid = s.nextUid := rfl
@[simp] theorem State.modCtx_tiles (s : State) (c : Nat) (f : Ctx → Ctx) : (s.modCtx c f).tiles = s.tiles := rfl
@[simp] theorem State.modCtx_teams (s : State) (c : Nat) (f : Ctx → Ctx) : (s.modCtx c f).teams = s.teams := rfl
@[simp] theorem State.modCtx_teamCmds (s : State) (c : Nat) (f : Ctx → Ctx) : (s.modCtx c f).teamCmds = s.teamCmds := rfl
@[simp] theorem State.modCtx_chans (s : State) (c : Nat) (f : Ctx → Ctx) : (s.modCtx c f).chans = s.chans := rfl
@[simp] theorem State.modCtx_mem (s : State) (c : Nat) (f : Ctx → Ctx) : (s.modCtx c f).mem = s.mem := rfl
@[simp] theorem State.modCtx_bad (s : State) (c : Nat) (f : Ctx → Ctx) : (s.modCtx c f).bad = s.bad := rfl
@[simp] theorem State.modCtx_net (s : State) (c : Nat) (f : Ctx → Ctx) : (s.modCtx c f).net = s.net := rfl
@[simp] theorem State.modCtx_gtallies (s : State) (c : Nat) (f : Ctx → Ctx) : (s.modCtx c f).gtallies = s.gtallies := rfl
@[simp] theorem State.modCtx_huddles (s : State) (c : Nat) (f : Ctx → Ctx) : (s.modCtx c f).huddles = s.huddles := rfl
@[simp] theorem State.modCtx_reds (s : State) (c : Nat) (f : Ctx → Ctx) : (s.modCtx c f).reds = s.reds := rfl
@[simp] theorem State.modCtx_pools (s : State) (c : Nat) (f : Ctx → Ctx) : (s.modCtx c f).pools = s.pools := rfl
@[simp] theorem State.modCtx_snaps (s : State) (c : Nat) (f : Ctx → Ctx) : (s.modCtx c f).snaps = s.snaps := rfl
@[simp] theorem State.modCtx_trouble (s : State) (c : Nat) (f : Ctx → Ctx) : (s.modCtx c f).trouble = s.trouble := rfl
@[simp] theorem State.modCtx_nearLive (s : State) (c : Nat) (f : Ctx → Ctx) : (s.modCtx c f).nearLive = s.nearLive := rfl
@[simp] theorem State.modCtx_farLive (s : State) (c : Nat) (f : Ctx → Ctx) : (s.modCtx c f).farLive = s.farLive := rfl
@[simp] theorem State.modCtx_scratchMib (s : State) (c : Nat) (f : Ctx → Ctx) : (s.modCtx c f).scratchMib = s.scratchMib := rfl
@[simp] theorem State.modCtx_exactMib (s : State) (c : Nat) (f : Ctx → Ctx) : (s.modCtx c f).exactMib = s.exactMib := rfl
@[simp] theorem State.modCtx_scrubPeriod (s : State) (c : Nat) (f : Ctx → Ctx) : (s.modCtx c f).scrubPeriod = s.scrubPeriod := rfl
@[simp] theorem State.modCtx_scrubAt (s : State) (c : Nat) (f : Ctx → Ctx) : (s.modCtx c f).scrubAt = s.scrubAt := rfl
@[simp] theorem State.modCtx_broadcast (s : State) (c : Nat) (f : Ctx → Ctx) : (s.modCtx c f).broadcast = s.broadcast := rfl
@[simp] theorem State.modCtx_deviceNumber (s : State) (c : Nat) (f : Ctx → Ctx) : (s.modCtx c f).deviceNumber = s.deviceNumber := rfl
@[simp] theorem State.modCtx_ports (s : State) (c : Nat) (f : Ctx → Ctx) : (s.modCtx c f).ports = s.ports := rfl
@[simp] theorem State.modCtx_fabric (s : State) (c : Nat) (f : Ctx → Ctx) : (s.modCtx c f).fabric = s.fabric := rfl
@[simp] theorem State.modCtx_sent (s : State) (c : Nat) (f : Ctx → Ctx) : (s.modCtx c f).sent = s.sent := rfl
@[simp] theorem State.modCtx_camp (s : State) (c : Nat) (f : Ctx → Ctx) : (s.modCtx c f).camp = s.camp := rfl
@[simp] theorem State.modCtx_fns (s : State) (c : Nat) (f : Ctx → Ctx) : (s.modCtx c f).fns = s.fns := rfl
@[simp] theorem State.modCtx_service (s : State) (c : Nat) (f : Ctx → Ctx) : (s.modCtx c f).service = s.service := rfl
@[simp] theorem State.modCtx_power (s : State) (c : Nat) (f : Ctx → Ctx) : (s.modCtx c f).power = s.power := rfl
@[simp] theorem State.modCtx_trust (s : State) (c : Nat) (f : Ctx → Ctx) : (s.modCtx c f).trust = s.trust := rfl
@[simp] theorem State.modCtx_panel (s : State) (c : Nat) (f : Ctx → Ctx) : (s.modCtx c f).panel = s.panel := rfl

@[simp] theorem State.modPort_pending (s : State) (p : Nat) (f : Port → Port) : (s.modPort p f).pending = s.pending := rfl
@[simp] theorem State.modPort_draws (s : State) (p : Nat) (f : Port → Port) : (s.modPort p f).draws = s.draws := rfl
@[simp] theorem State.modPort_nextUid (s : State) (p : Nat) (f : Port → Port) : (s.modPort p f).nextUid = s.nextUid := rfl
@[simp] theorem State.modPort_tiles (s : State) (p : Nat) (f : Port → Port) : (s.modPort p f).tiles = s.tiles := rfl
@[simp] theorem State.modPort_ctxs (s : State) (p : Nat) (f : Port → Port) : (s.modPort p f).ctxs = s.ctxs := rfl
@[simp] theorem State.modPort_teams (s : State) (p : Nat) (f : Port → Port) : (s.modPort p f).teams = s.teams := rfl
@[simp] theorem State.modPort_teamCmds (s : State) (p : Nat) (f : Port → Port) : (s.modPort p f).teamCmds = s.teamCmds := rfl
@[simp] theorem State.modPort_chans (s : State) (p : Nat) (f : Port → Port) : (s.modPort p f).chans = s.chans := rfl
@[simp] theorem State.modPort_mem (s : State) (p : Nat) (f : Port → Port) : (s.modPort p f).mem = s.mem := rfl
@[simp] theorem State.modPort_bad (s : State) (p : Nat) (f : Port → Port) : (s.modPort p f).bad = s.bad := rfl
@[simp] theorem State.modPort_net (s : State) (p : Nat) (f : Port → Port) : (s.modPort p f).net = s.net := rfl
@[simp] theorem State.modPort_gtallies (s : State) (p : Nat) (f : Port → Port) : (s.modPort p f).gtallies = s.gtallies := rfl
@[simp] theorem State.modPort_huddles (s : State) (p : Nat) (f : Port → Port) : (s.modPort p f).huddles = s.huddles := rfl
@[simp] theorem State.modPort_reds (s : State) (p : Nat) (f : Port → Port) : (s.modPort p f).reds = s.reds := rfl
@[simp] theorem State.modPort_pools (s : State) (p : Nat) (f : Port → Port) : (s.modPort p f).pools = s.pools := rfl
@[simp] theorem State.modPort_snaps (s : State) (p : Nat) (f : Port → Port) : (s.modPort p f).snaps = s.snaps := rfl
@[simp] theorem State.modPort_trouble (s : State) (p : Nat) (f : Port → Port) : (s.modPort p f).trouble = s.trouble := rfl
@[simp] theorem State.modPort_nearLive (s : State) (p : Nat) (f : Port → Port) : (s.modPort p f).nearLive = s.nearLive := rfl
@[simp] theorem State.modPort_farLive (s : State) (p : Nat) (f : Port → Port) : (s.modPort p f).farLive = s.farLive := rfl
@[simp] theorem State.modPort_scratchMib (s : State) (p : Nat) (f : Port → Port) : (s.modPort p f).scratchMib = s.scratchMib := rfl
@[simp] theorem State.modPort_exactMib (s : State) (p : Nat) (f : Port → Port) : (s.modPort p f).exactMib = s.exactMib := rfl
@[simp] theorem State.modPort_scrubPeriod (s : State) (p : Nat) (f : Port → Port) : (s.modPort p f).scrubPeriod = s.scrubPeriod := rfl
@[simp] theorem State.modPort_scrubAt (s : State) (p : Nat) (f : Port → Port) : (s.modPort p f).scrubAt = s.scrubAt := rfl
@[simp] theorem State.modPort_broadcast (s : State) (p : Nat) (f : Port → Port) : (s.modPort p f).broadcast = s.broadcast := rfl
@[simp] theorem State.modPort_deviceNumber (s : State) (p : Nat) (f : Port → Port) : (s.modPort p f).deviceNumber = s.deviceNumber := rfl
@[simp] theorem State.modPort_fabric (s : State) (p : Nat) (f : Port → Port) : (s.modPort p f).fabric = s.fabric := rfl
@[simp] theorem State.modPort_sent (s : State) (p : Nat) (f : Port → Port) : (s.modPort p f).sent = s.sent := rfl
@[simp] theorem State.modPort_camp (s : State) (p : Nat) (f : Port → Port) : (s.modPort p f).camp = s.camp := rfl
@[simp] theorem State.modPort_fns (s : State) (p : Nat) (f : Port → Port) : (s.modPort p f).fns = s.fns := rfl
@[simp] theorem State.modPort_service (s : State) (p : Nat) (f : Port → Port) : (s.modPort p f).service = s.service := rfl
@[simp] theorem State.modPort_power (s : State) (p : Nat) (f : Port → Port) : (s.modPort p f).power = s.power := rfl
@[simp] theorem State.modPort_trust (s : State) (p : Nat) (f : Port → Port) : (s.modPort p f).trust = s.trust := rfl
@[simp] theorem State.modPort_panel (s : State) (p : Nat) (f : Port → Port) : (s.modPort p f).panel = s.panel := rfl

@[simp] theorem State.modFn_pending (s : State) (n : Nat) (f : Fn → Fn) : (s.modFn n f).pending = s.pending := rfl
@[simp] theorem State.modFn_draws (s : State) (n : Nat) (f : Fn → Fn) : (s.modFn n f).draws = s.draws := rfl
@[simp] theorem State.modFn_nextUid (s : State) (n : Nat) (f : Fn → Fn) : (s.modFn n f).nextUid = s.nextUid := rfl
@[simp] theorem State.modFn_tiles (s : State) (n : Nat) (f : Fn → Fn) : (s.modFn n f).tiles = s.tiles := rfl
@[simp] theorem State.modFn_ctxs (s : State) (n : Nat) (f : Fn → Fn) : (s.modFn n f).ctxs = s.ctxs := rfl
@[simp] theorem State.modFn_teams (s : State) (n : Nat) (f : Fn → Fn) : (s.modFn n f).teams = s.teams := rfl
@[simp] theorem State.modFn_teamCmds (s : State) (n : Nat) (f : Fn → Fn) : (s.modFn n f).teamCmds = s.teamCmds := rfl
@[simp] theorem State.modFn_chans (s : State) (n : Nat) (f : Fn → Fn) : (s.modFn n f).chans = s.chans := rfl
@[simp] theorem State.modFn_mem (s : State) (n : Nat) (f : Fn → Fn) : (s.modFn n f).mem = s.mem := rfl
@[simp] theorem State.modFn_bad (s : State) (n : Nat) (f : Fn → Fn) : (s.modFn n f).bad = s.bad := rfl
@[simp] theorem State.modFn_net (s : State) (n : Nat) (f : Fn → Fn) : (s.modFn n f).net = s.net := rfl
@[simp] theorem State.modFn_gtallies (s : State) (n : Nat) (f : Fn → Fn) : (s.modFn n f).gtallies = s.gtallies := rfl
@[simp] theorem State.modFn_huddles (s : State) (n : Nat) (f : Fn → Fn) : (s.modFn n f).huddles = s.huddles := rfl
@[simp] theorem State.modFn_reds (s : State) (n : Nat) (f : Fn → Fn) : (s.modFn n f).reds = s.reds := rfl
@[simp] theorem State.modFn_pools (s : State) (n : Nat) (f : Fn → Fn) : (s.modFn n f).pools = s.pools := rfl
@[simp] theorem State.modFn_snaps (s : State) (n : Nat) (f : Fn → Fn) : (s.modFn n f).snaps = s.snaps := rfl
@[simp] theorem State.modFn_trouble (s : State) (n : Nat) (f : Fn → Fn) : (s.modFn n f).trouble = s.trouble := rfl
@[simp] theorem State.modFn_nearLive (s : State) (n : Nat) (f : Fn → Fn) : (s.modFn n f).nearLive = s.nearLive := rfl
@[simp] theorem State.modFn_farLive (s : State) (n : Nat) (f : Fn → Fn) : (s.modFn n f).farLive = s.farLive := rfl
@[simp] theorem State.modFn_scratchMib (s : State) (n : Nat) (f : Fn → Fn) : (s.modFn n f).scratchMib = s.scratchMib := rfl
@[simp] theorem State.modFn_exactMib (s : State) (n : Nat) (f : Fn → Fn) : (s.modFn n f).exactMib = s.exactMib := rfl
@[simp] theorem State.modFn_scrubPeriod (s : State) (n : Nat) (f : Fn → Fn) : (s.modFn n f).scrubPeriod = s.scrubPeriod := rfl
@[simp] theorem State.modFn_scrubAt (s : State) (n : Nat) (f : Fn → Fn) : (s.modFn n f).scrubAt = s.scrubAt := rfl
@[simp] theorem State.modFn_broadcast (s : State) (n : Nat) (f : Fn → Fn) : (s.modFn n f).broadcast = s.broadcast := rfl
@[simp] theorem State.modFn_deviceNumber (s : State) (n : Nat) (f : Fn → Fn) : (s.modFn n f).deviceNumber = s.deviceNumber := rfl
@[simp] theorem State.modFn_ports (s : State) (n : Nat) (f : Fn → Fn) : (s.modFn n f).ports = s.ports := rfl
@[simp] theorem State.modFn_fabric (s : State) (n : Nat) (f : Fn → Fn) : (s.modFn n f).fabric = s.fabric := rfl
@[simp] theorem State.modFn_sent (s : State) (n : Nat) (f : Fn → Fn) : (s.modFn n f).sent = s.sent := rfl
@[simp] theorem State.modFn_camp (s : State) (n : Nat) (f : Fn → Fn) : (s.modFn n f).camp = s.camp := rfl
@[simp] theorem State.modFn_service (s : State) (n : Nat) (f : Fn → Fn) : (s.modFn n f).service = s.service := rfl
@[simp] theorem State.modFn_power (s : State) (n : Nat) (f : Fn → Fn) : (s.modFn n f).power = s.power := rfl
@[simp] theorem State.modFn_trust (s : State) (n : Nat) (f : Fn → Fn) : (s.modFn n f).trust = s.trust := rfl
@[simp] theorem State.modFn_panel (s : State) (n : Nat) (f : Fn → Fn) : (s.modFn n f).panel = s.panel := rfl

@[simp] theorem State.modRing_pending (s : State) (n r : Nat) (f : Ring → Ring) : (s.modRing n r f).pending = s.pending := rfl
@[simp] theorem State.modRing_draws (s : State) (n r : Nat) (f : Ring → Ring) : (s.modRing n r f).draws = s.draws := rfl
@[simp] theorem State.modRing_nextUid (s : State) (n r : Nat) (f : Ring → Ring) : (s.modRing n r f).nextUid = s.nextUid := rfl
@[simp] theorem State.modRing_tiles (s : State) (n r : Nat) (f : Ring → Ring) : (s.modRing n r f).tiles = s.tiles := rfl
@[simp] theorem State.modRing_ctxs (s : State) (n r : Nat) (f : Ring → Ring) : (s.modRing n r f).ctxs = s.ctxs := rfl
@[simp] theorem State.modRing_teams (s : State) (n r : Nat) (f : Ring → Ring) : (s.modRing n r f).teams = s.teams := rfl
@[simp] theorem State.modRing_teamCmds (s : State) (n r : Nat) (f : Ring → Ring) : (s.modRing n r f).teamCmds = s.teamCmds := rfl
@[simp] theorem State.modRing_chans (s : State) (n r : Nat) (f : Ring → Ring) : (s.modRing n r f).chans = s.chans := rfl
@[simp] theorem State.modRing_mem (s : State) (n r : Nat) (f : Ring → Ring) : (s.modRing n r f).mem = s.mem := rfl
@[simp] theorem State.modRing_bad (s : State) (n r : Nat) (f : Ring → Ring) : (s.modRing n r f).bad = s.bad := rfl
@[simp] theorem State.modRing_net (s : State) (n r : Nat) (f : Ring → Ring) : (s.modRing n r f).net = s.net := rfl
@[simp] theorem State.modRing_gtallies (s : State) (n r : Nat) (f : Ring → Ring) : (s.modRing n r f).gtallies = s.gtallies := rfl
@[simp] theorem State.modRing_huddles (s : State) (n r : Nat) (f : Ring → Ring) : (s.modRing n r f).huddles = s.huddles := rfl
@[simp] theorem State.modRing_reds (s : State) (n r : Nat) (f : Ring → Ring) : (s.modRing n r f).reds = s.reds := rfl
@[simp] theorem State.modRing_pools (s : State) (n r : Nat) (f : Ring → Ring) : (s.modRing n r f).pools = s.pools := rfl
@[simp] theorem State.modRing_snaps (s : State) (n r : Nat) (f : Ring → Ring) : (s.modRing n r f).snaps = s.snaps := rfl
@[simp] theorem State.modRing_trouble (s : State) (n r : Nat) (f : Ring → Ring) : (s.modRing n r f).trouble = s.trouble := rfl
@[simp] theorem State.modRing_nearLive (s : State) (n r : Nat) (f : Ring → Ring) : (s.modRing n r f).nearLive = s.nearLive := rfl
@[simp] theorem State.modRing_farLive (s : State) (n r : Nat) (f : Ring → Ring) : (s.modRing n r f).farLive = s.farLive := rfl
@[simp] theorem State.modRing_scratchMib (s : State) (n r : Nat) (f : Ring → Ring) : (s.modRing n r f).scratchMib = s.scratchMib := rfl
@[simp] theorem State.modRing_exactMib (s : State) (n r : Nat) (f : Ring → Ring) : (s.modRing n r f).exactMib = s.exactMib := rfl
@[simp] theorem State.modRing_scrubPeriod (s : State) (n r : Nat) (f : Ring → Ring) : (s.modRing n r f).scrubPeriod = s.scrubPeriod := rfl
@[simp] theorem State.modRing_scrubAt (s : State) (n r : Nat) (f : Ring → Ring) : (s.modRing n r f).scrubAt = s.scrubAt := rfl
@[simp] theorem State.modRing_broadcast (s : State) (n r : Nat) (f : Ring → Ring) : (s.modRing n r f).broadcast = s.broadcast := rfl
@[simp] theorem State.modRing_deviceNumber (s : State) (n r : Nat) (f : Ring → Ring) : (s.modRing n r f).deviceNumber = s.deviceNumber := rfl
@[simp] theorem State.modRing_ports (s : State) (n r : Nat) (f : Ring → Ring) : (s.modRing n r f).ports = s.ports := rfl
@[simp] theorem State.modRing_fabric (s : State) (n r : Nat) (f : Ring → Ring) : (s.modRing n r f).fabric = s.fabric := rfl
@[simp] theorem State.modRing_sent (s : State) (n r : Nat) (f : Ring → Ring) : (s.modRing n r f).sent = s.sent := rfl
@[simp] theorem State.modRing_camp (s : State) (n r : Nat) (f : Ring → Ring) : (s.modRing n r f).camp = s.camp := rfl
@[simp] theorem State.modRing_service (s : State) (n r : Nat) (f : Ring → Ring) : (s.modRing n r f).service = s.service := rfl
@[simp] theorem State.modRing_power (s : State) (n r : Nat) (f : Ring → Ring) : (s.modRing n r f).power = s.power := rfl
@[simp] theorem State.modRing_trust (s : State) (n r : Nat) (f : Ring → Ring) : (s.modRing n r f).trust = s.trust := rfl
@[simp] theorem State.modRing_panel (s : State) (n r : Nat) (f : Ring → Ring) : (s.modRing n r f).panel = s.panel := rfl

@[simp] theorem State.modPower_pending (s : State) (f : Power → Power) : (s.modPower f).pending = s.pending := rfl
@[simp] theorem State.modPower_draws (s : State) (f : Power → Power) : (s.modPower f).draws = s.draws := rfl
@[simp] theorem State.modPower_nextUid (s : State) (f : Power → Power) : (s.modPower f).nextUid = s.nextUid := rfl
@[simp] theorem State.modPower_tiles (s : State) (f : Power → Power) : (s.modPower f).tiles = s.tiles := rfl
@[simp] theorem State.modPower_ctxs (s : State) (f : Power → Power) : (s.modPower f).ctxs = s.ctxs := rfl
@[simp] theorem State.modPower_teams (s : State) (f : Power → Power) : (s.modPower f).teams = s.teams := rfl
@[simp] theorem State.modPower_teamCmds (s : State) (f : Power → Power) : (s.modPower f).teamCmds = s.teamCmds := rfl
@[simp] theorem State.modPower_chans (s : State) (f : Power → Power) : (s.modPower f).chans = s.chans := rfl
@[simp] theorem State.modPower_mem (s : State) (f : Power → Power) : (s.modPower f).mem = s.mem := rfl
@[simp] theorem State.modPower_bad (s : State) (f : Power → Power) : (s.modPower f).bad = s.bad := rfl
@[simp] theorem State.modPower_net (s : State) (f : Power → Power) : (s.modPower f).net = s.net := rfl
@[simp] theorem State.modPower_gtallies (s : State) (f : Power → Power) : (s.modPower f).gtallies = s.gtallies := rfl
@[simp] theorem State.modPower_huddles (s : State) (f : Power → Power) : (s.modPower f).huddles = s.huddles := rfl
@[simp] theorem State.modPower_reds (s : State) (f : Power → Power) : (s.modPower f).reds = s.reds := rfl
@[simp] theorem State.modPower_pools (s : State) (f : Power → Power) : (s.modPower f).pools = s.pools := rfl
@[simp] theorem State.modPower_snaps (s : State) (f : Power → Power) : (s.modPower f).snaps = s.snaps := rfl
@[simp] theorem State.modPower_trouble (s : State) (f : Power → Power) : (s.modPower f).trouble = s.trouble := rfl
@[simp] theorem State.modPower_nearLive (s : State) (f : Power → Power) : (s.modPower f).nearLive = s.nearLive := rfl
@[simp] theorem State.modPower_farLive (s : State) (f : Power → Power) : (s.modPower f).farLive = s.farLive := rfl
@[simp] theorem State.modPower_scratchMib (s : State) (f : Power → Power) : (s.modPower f).scratchMib = s.scratchMib := rfl
@[simp] theorem State.modPower_exactMib (s : State) (f : Power → Power) : (s.modPower f).exactMib = s.exactMib := rfl
@[simp] theorem State.modPower_scrubPeriod (s : State) (f : Power → Power) : (s.modPower f).scrubPeriod = s.scrubPeriod := rfl
@[simp] theorem State.modPower_scrubAt (s : State) (f : Power → Power) : (s.modPower f).scrubAt = s.scrubAt := rfl
@[simp] theorem State.modPower_broadcast (s : State) (f : Power → Power) : (s.modPower f).broadcast = s.broadcast := rfl
@[simp] theorem State.modPower_deviceNumber (s : State) (f : Power → Power) : (s.modPower f).deviceNumber = s.deviceNumber := rfl
@[simp] theorem State.modPower_ports (s : State) (f : Power → Power) : (s.modPower f).ports = s.ports := rfl
@[simp] theorem State.modPower_fabric (s : State) (f : Power → Power) : (s.modPower f).fabric = s.fabric := rfl
@[simp] theorem State.modPower_sent (s : State) (f : Power → Power) : (s.modPower f).sent = s.sent := rfl
@[simp] theorem State.modPower_camp (s : State) (f : Power → Power) : (s.modPower f).camp = s.camp := rfl
@[simp] theorem State.modPower_fns (s : State) (f : Power → Power) : (s.modPower f).fns = s.fns := rfl
@[simp] theorem State.modPower_service (s : State) (f : Power → Power) : (s.modPower f).service = s.service := rfl
@[simp] theorem State.modPower_trust (s : State) (f : Power → Power) : (s.modPower f).trust = s.trust := rfl
@[simp] theorem State.modPower_panel (s : State) (f : Power → Power) : (s.modPower f).panel = s.panel := rfl

@[simp] theorem State.modKind_pending (s : State) (k : Nat) (f : Kind → Kind) : (s.modKind k f).pending = s.pending := rfl
@[simp] theorem State.modKind_draws (s : State) (k : Nat) (f : Kind → Kind) : (s.modKind k f).draws = s.draws := rfl
@[simp] theorem State.modKind_nextUid (s : State) (k : Nat) (f : Kind → Kind) : (s.modKind k f).nextUid = s.nextUid := rfl
@[simp] theorem State.modKind_tiles (s : State) (k : Nat) (f : Kind → Kind) : (s.modKind k f).tiles = s.tiles := rfl
@[simp] theorem State.modKind_ctxs (s : State) (k : Nat) (f : Kind → Kind) : (s.modKind k f).ctxs = s.ctxs := rfl
@[simp] theorem State.modKind_teams (s : State) (k : Nat) (f : Kind → Kind) : (s.modKind k f).teams = s.teams := rfl
@[simp] theorem State.modKind_teamCmds (s : State) (k : Nat) (f : Kind → Kind) : (s.modKind k f).teamCmds = s.teamCmds := rfl
@[simp] theorem State.modKind_chans (s : State) (k : Nat) (f : Kind → Kind) : (s.modKind k f).chans = s.chans := rfl
@[simp] theorem State.modKind_mem (s : State) (k : Nat) (f : Kind → Kind) : (s.modKind k f).mem = s.mem := rfl
@[simp] theorem State.modKind_bad (s : State) (k : Nat) (f : Kind → Kind) : (s.modKind k f).bad = s.bad := rfl
@[simp] theorem State.modKind_net (s : State) (k : Nat) (f : Kind → Kind) : (s.modKind k f).net = s.net := rfl
@[simp] theorem State.modKind_gtallies (s : State) (k : Nat) (f : Kind → Kind) : (s.modKind k f).gtallies = s.gtallies := rfl
@[simp] theorem State.modKind_huddles (s : State) (k : Nat) (f : Kind → Kind) : (s.modKind k f).huddles = s.huddles := rfl
@[simp] theorem State.modKind_reds (s : State) (k : Nat) (f : Kind → Kind) : (s.modKind k f).reds = s.reds := rfl
@[simp] theorem State.modKind_pools (s : State) (k : Nat) (f : Kind → Kind) : (s.modKind k f).pools = s.pools := rfl
@[simp] theorem State.modKind_snaps (s : State) (k : Nat) (f : Kind → Kind) : (s.modKind k f).snaps = s.snaps := rfl
@[simp] theorem State.modKind_trouble (s : State) (k : Nat) (f : Kind → Kind) : (s.modKind k f).trouble = s.trouble := rfl
@[simp] theorem State.modKind_nearLive (s : State) (k : Nat) (f : Kind → Kind) : (s.modKind k f).nearLive = s.nearLive := rfl
@[simp] theorem State.modKind_farLive (s : State) (k : Nat) (f : Kind → Kind) : (s.modKind k f).farLive = s.farLive := rfl
@[simp] theorem State.modKind_scratchMib (s : State) (k : Nat) (f : Kind → Kind) : (s.modKind k f).scratchMib = s.scratchMib := rfl
@[simp] theorem State.modKind_exactMib (s : State) (k : Nat) (f : Kind → Kind) : (s.modKind k f).exactMib = s.exactMib := rfl
@[simp] theorem State.modKind_scrubPeriod (s : State) (k : Nat) (f : Kind → Kind) : (s.modKind k f).scrubPeriod = s.scrubPeriod := rfl
@[simp] theorem State.modKind_scrubAt (s : State) (k : Nat) (f : Kind → Kind) : (s.modKind k f).scrubAt = s.scrubAt := rfl
@[simp] theorem State.modKind_broadcast (s : State) (k : Nat) (f : Kind → Kind) : (s.modKind k f).broadcast = s.broadcast := rfl
@[simp] theorem State.modKind_deviceNumber (s : State) (k : Nat) (f : Kind → Kind) : (s.modKind k f).deviceNumber = s.deviceNumber := rfl
@[simp] theorem State.modKind_ports (s : State) (k : Nat) (f : Kind → Kind) : (s.modKind k f).ports = s.ports := rfl
@[simp] theorem State.modKind_fabric (s : State) (k : Nat) (f : Kind → Kind) : (s.modKind k f).fabric = s.fabric := rfl
@[simp] theorem State.modKind_sent (s : State) (k : Nat) (f : Kind → Kind) : (s.modKind k f).sent = s.sent := rfl
@[simp] theorem State.modKind_camp (s : State) (k : Nat) (f : Kind → Kind) : (s.modKind k f).camp = s.camp := rfl
@[simp] theorem State.modKind_fns (s : State) (k : Nat) (f : Kind → Kind) : (s.modKind k f).fns = s.fns := rfl
@[simp] theorem State.modKind_service (s : State) (k : Nat) (f : Kind → Kind) : (s.modKind k f).service = s.service := rfl
@[simp] theorem State.modKind_power (s : State) (k : Nat) (f : Kind → Kind) : (s.modKind k f).power = s.power := rfl
@[simp] theorem State.modKind_panel (s : State) (k : Nat) (f : Kind → Kind) : (s.modKind k f).panel = s.panel := rfl

@[simp] theorem State.modTrouble_pending (s : State) (f : Trouble → Trouble) : (s.modTrouble f).pending = s.pending := rfl
@[simp] theorem State.modTrouble_draws (s : State) (f : Trouble → Trouble) : (s.modTrouble f).draws = s.draws := rfl
@[simp] theorem State.modTrouble_nextUid (s : State) (f : Trouble → Trouble) : (s.modTrouble f).nextUid = s.nextUid := rfl
@[simp] theorem State.modTrouble_tiles (s : State) (f : Trouble → Trouble) : (s.modTrouble f).tiles = s.tiles := rfl
@[simp] theorem State.modTrouble_ctxs (s : State) (f : Trouble → Trouble) : (s.modTrouble f).ctxs = s.ctxs := rfl
@[simp] theorem State.modTrouble_teams (s : State) (f : Trouble → Trouble) : (s.modTrouble f).teams = s.teams := rfl
@[simp] theorem State.modTrouble_teamCmds (s : State) (f : Trouble → Trouble) : (s.modTrouble f).teamCmds = s.teamCmds := rfl
@[simp] theorem State.modTrouble_chans (s : State) (f : Trouble → Trouble) : (s.modTrouble f).chans = s.chans := rfl
@[simp] theorem State.modTrouble_mem (s : State) (f : Trouble → Trouble) : (s.modTrouble f).mem = s.mem := rfl
@[simp] theorem State.modTrouble_bad (s : State) (f : Trouble → Trouble) : (s.modTrouble f).bad = s.bad := rfl
@[simp] theorem State.modTrouble_net (s : State) (f : Trouble → Trouble) : (s.modTrouble f).net = s.net := rfl
@[simp] theorem State.modTrouble_gtallies (s : State) (f : Trouble → Trouble) : (s.modTrouble f).gtallies = s.gtallies := rfl
@[simp] theorem State.modTrouble_huddles (s : State) (f : Trouble → Trouble) : (s.modTrouble f).huddles = s.huddles := rfl
@[simp] theorem State.modTrouble_reds (s : State) (f : Trouble → Trouble) : (s.modTrouble f).reds = s.reds := rfl
@[simp] theorem State.modTrouble_pools (s : State) (f : Trouble → Trouble) : (s.modTrouble f).pools = s.pools := rfl
@[simp] theorem State.modTrouble_snaps (s : State) (f : Trouble → Trouble) : (s.modTrouble f).snaps = s.snaps := rfl
@[simp] theorem State.modTrouble_nearLive (s : State) (f : Trouble → Trouble) : (s.modTrouble f).nearLive = s.nearLive := rfl
@[simp] theorem State.modTrouble_farLive (s : State) (f : Trouble → Trouble) : (s.modTrouble f).farLive = s.farLive := rfl
@[simp] theorem State.modTrouble_scratchMib (s : State) (f : Trouble → Trouble) : (s.modTrouble f).scratchMib = s.scratchMib := rfl
@[simp] theorem State.modTrouble_exactMib (s : State) (f : Trouble → Trouble) : (s.modTrouble f).exactMib = s.exactMib := rfl
@[simp] theorem State.modTrouble_scrubPeriod (s : State) (f : Trouble → Trouble) : (s.modTrouble f).scrubPeriod = s.scrubPeriod := rfl
@[simp] theorem State.modTrouble_scrubAt (s : State) (f : Trouble → Trouble) : (s.modTrouble f).scrubAt = s.scrubAt := rfl
@[simp] theorem State.modTrouble_broadcast (s : State) (f : Trouble → Trouble) : (s.modTrouble f).broadcast = s.broadcast := rfl
@[simp] theorem State.modTrouble_deviceNumber (s : State) (f : Trouble → Trouble) : (s.modTrouble f).deviceNumber = s.deviceNumber := rfl
@[simp] theorem State.modTrouble_ports (s : State) (f : Trouble → Trouble) : (s.modTrouble f).ports = s.ports := rfl
@[simp] theorem State.modTrouble_fabric (s : State) (f : Trouble → Trouble) : (s.modTrouble f).fabric = s.fabric := rfl
@[simp] theorem State.modTrouble_sent (s : State) (f : Trouble → Trouble) : (s.modTrouble f).sent = s.sent := rfl
@[simp] theorem State.modTrouble_camp (s : State) (f : Trouble → Trouble) : (s.modTrouble f).camp = s.camp := rfl
@[simp] theorem State.modTrouble_fns (s : State) (f : Trouble → Trouble) : (s.modTrouble f).fns = s.fns := rfl
@[simp] theorem State.modTrouble_service (s : State) (f : Trouble → Trouble) : (s.modTrouble f).service = s.service := rfl
@[simp] theorem State.modTrouble_power (s : State) (f : Trouble → Trouble) : (s.modTrouble f).power = s.power := rfl
@[simp] theorem State.modTrouble_trust (s : State) (f : Trouble → Trouble) : (s.modTrouble f).trust = s.trust := rfl
@[simp] theorem State.modTrouble_panel (s : State) (f : Trouble → Trouble) : (s.modTrouble f).panel = s.panel := rfl

@[simp] theorem State.modFabric_pending (s : State) (f : Fabric → Fabric) : (s.modFabric f).pending = s.pending := rfl
@[simp] theorem State.modFabric_draws (s : State) (f : Fabric → Fabric) : (s.modFabric f).draws = s.draws := rfl
@[simp] theorem State.modFabric_nextUid (s : State) (f : Fabric → Fabric) : (s.modFabric f).nextUid = s.nextUid := rfl
@[simp] theorem State.modFabric_tiles (s : State) (f : Fabric → Fabric) : (s.modFabric f).tiles = s.tiles := rfl
@[simp] theorem State.modFabric_ctxs (s : State) (f : Fabric → Fabric) : (s.modFabric f).ctxs = s.ctxs := rfl
@[simp] theorem State.modFabric_teams (s : State) (f : Fabric → Fabric) : (s.modFabric f).teams = s.teams := rfl
@[simp] theorem State.modFabric_teamCmds (s : State) (f : Fabric → Fabric) : (s.modFabric f).teamCmds = s.teamCmds := rfl
@[simp] theorem State.modFabric_chans (s : State) (f : Fabric → Fabric) : (s.modFabric f).chans = s.chans := rfl
@[simp] theorem State.modFabric_mem (s : State) (f : Fabric → Fabric) : (s.modFabric f).mem = s.mem := rfl
@[simp] theorem State.modFabric_bad (s : State) (f : Fabric → Fabric) : (s.modFabric f).bad = s.bad := rfl
@[simp] theorem State.modFabric_net (s : State) (f : Fabric → Fabric) : (s.modFabric f).net = s.net := rfl
@[simp] theorem State.modFabric_gtallies (s : State) (f : Fabric → Fabric) : (s.modFabric f).gtallies = s.gtallies := rfl
@[simp] theorem State.modFabric_huddles (s : State) (f : Fabric → Fabric) : (s.modFabric f).huddles = s.huddles := rfl
@[simp] theorem State.modFabric_reds (s : State) (f : Fabric → Fabric) : (s.modFabric f).reds = s.reds := rfl
@[simp] theorem State.modFabric_pools (s : State) (f : Fabric → Fabric) : (s.modFabric f).pools = s.pools := rfl
@[simp] theorem State.modFabric_snaps (s : State) (f : Fabric → Fabric) : (s.modFabric f).snaps = s.snaps := rfl
@[simp] theorem State.modFabric_trouble (s : State) (f : Fabric → Fabric) : (s.modFabric f).trouble = s.trouble := rfl
@[simp] theorem State.modFabric_nearLive (s : State) (f : Fabric → Fabric) : (s.modFabric f).nearLive = s.nearLive := rfl
@[simp] theorem State.modFabric_farLive (s : State) (f : Fabric → Fabric) : (s.modFabric f).farLive = s.farLive := rfl
@[simp] theorem State.modFabric_scratchMib (s : State) (f : Fabric → Fabric) : (s.modFabric f).scratchMib = s.scratchMib := rfl
@[simp] theorem State.modFabric_exactMib (s : State) (f : Fabric → Fabric) : (s.modFabric f).exactMib = s.exactMib := rfl
@[simp] theorem State.modFabric_scrubPeriod (s : State) (f : Fabric → Fabric) : (s.modFabric f).scrubPeriod = s.scrubPeriod := rfl
@[simp] theorem State.modFabric_scrubAt (s : State) (f : Fabric → Fabric) : (s.modFabric f).scrubAt = s.scrubAt := rfl
@[simp] theorem State.modFabric_broadcast (s : State) (f : Fabric → Fabric) : (s.modFabric f).broadcast = s.broadcast := rfl
@[simp] theorem State.modFabric_deviceNumber (s : State) (f : Fabric → Fabric) : (s.modFabric f).deviceNumber = s.deviceNumber := rfl
@[simp] theorem State.modFabric_ports (s : State) (f : Fabric → Fabric) : (s.modFabric f).ports = s.ports := rfl
@[simp] theorem State.modFabric_sent (s : State) (f : Fabric → Fabric) : (s.modFabric f).sent = s.sent := rfl
@[simp] theorem State.modFabric_camp (s : State) (f : Fabric → Fabric) : (s.modFabric f).camp = s.camp := rfl
@[simp] theorem State.modFabric_fns (s : State) (f : Fabric → Fabric) : (s.modFabric f).fns = s.fns := rfl
@[simp] theorem State.modFabric_service (s : State) (f : Fabric → Fabric) : (s.modFabric f).service = s.service := rfl
@[simp] theorem State.modFabric_power (s : State) (f : Fabric → Fabric) : (s.modFabric f).power = s.power := rfl
@[simp] theorem State.modFabric_trust (s : State) (f : Fabric → Fabric) : (s.modFabric f).trust = s.trust := rfl
@[simp] theorem State.modFabric_panel (s : State) (f : Fabric → Fabric) : (s.modFabric f).panel = s.panel := rfl

@[simp] theorem State.modPanel_pending (s : State) (f : Panel → Panel) : (s.modPanel f).pending = s.pending := rfl
@[simp] theorem State.modPanel_draws (s : State) (f : Panel → Panel) : (s.modPanel f).draws = s.draws := rfl
@[simp] theorem State.modPanel_nextUid (s : State) (f : Panel → Panel) : (s.modPanel f).nextUid = s.nextUid := rfl
@[simp] theorem State.modPanel_tiles (s : State) (f : Panel → Panel) : (s.modPanel f).tiles = s.tiles := rfl
@[simp] theorem State.modPanel_ctxs (s : State) (f : Panel → Panel) : (s.modPanel f).ctxs = s.ctxs := rfl
@[simp] theorem State.modPanel_teams (s : State) (f : Panel → Panel) : (s.modPanel f).teams = s.teams := rfl
@[simp] theorem State.modPanel_teamCmds (s : State) (f : Panel → Panel) : (s.modPanel f).teamCmds = s.teamCmds := rfl
@[simp] theorem State.modPanel_chans (s : State) (f : Panel → Panel) : (s.modPanel f).chans = s.chans := rfl
@[simp] theorem State.modPanel_mem (s : State) (f : Panel → Panel) : (s.modPanel f).mem = s.mem := rfl
@[simp] theorem State.modPanel_bad (s : State) (f : Panel → Panel) : (s.modPanel f).bad = s.bad := rfl
@[simp] theorem State.modPanel_net (s : State) (f : Panel → Panel) : (s.modPanel f).net = s.net := rfl
@[simp] theorem State.modPanel_gtallies (s : State) (f : Panel → Panel) : (s.modPanel f).gtallies = s.gtallies := rfl
@[simp] theorem State.modPanel_huddles (s : State) (f : Panel → Panel) : (s.modPanel f).huddles = s.huddles := rfl
@[simp] theorem State.modPanel_reds (s : State) (f : Panel → Panel) : (s.modPanel f).reds = s.reds := rfl
@[simp] theorem State.modPanel_pools (s : State) (f : Panel → Panel) : (s.modPanel f).pools = s.pools := rfl
@[simp] theorem State.modPanel_snaps (s : State) (f : Panel → Panel) : (s.modPanel f).snaps = s.snaps := rfl
@[simp] theorem State.modPanel_trouble (s : State) (f : Panel → Panel) : (s.modPanel f).trouble = s.trouble := rfl
@[simp] theorem State.modPanel_nearLive (s : State) (f : Panel → Panel) : (s.modPanel f).nearLive = s.nearLive := rfl
@[simp] theorem State.modPanel_farLive (s : State) (f : Panel → Panel) : (s.modPanel f).farLive = s.farLive := rfl
@[simp] theorem State.modPanel_scratchMib (s : State) (f : Panel → Panel) : (s.modPanel f).scratchMib = s.scratchMib := rfl
@[simp] theorem State.modPanel_exactMib (s : State) (f : Panel → Panel) : (s.modPanel f).exactMib = s.exactMib := rfl
@[simp] theorem State.modPanel_scrubPeriod (s : State) (f : Panel → Panel) : (s.modPanel f).scrubPeriod = s.scrubPeriod := rfl
@[simp] theorem State.modPanel_scrubAt (s : State) (f : Panel → Panel) : (s.modPanel f).scrubAt = s.scrubAt := rfl
@[simp] theorem State.modPanel_broadcast (s : State) (f : Panel → Panel) : (s.modPanel f).broadcast = s.broadcast := rfl
@[simp] theorem State.modPanel_deviceNumber (s : State) (f : Panel → Panel) : (s.modPanel f).deviceNumber = s.deviceNumber := rfl
@[simp] theorem State.modPanel_ports (s : State) (f : Panel → Panel) : (s.modPanel f).ports = s.ports := rfl
@[simp] theorem State.modPanel_fabric (s : State) (f : Panel → Panel) : (s.modPanel f).fabric = s.fabric := rfl
@[simp] theorem State.modPanel_sent (s : State) (f : Panel → Panel) : (s.modPanel f).sent = s.sent := rfl
@[simp] theorem State.modPanel_camp (s : State) (f : Panel → Panel) : (s.modPanel f).camp = s.camp := rfl
@[simp] theorem State.modPanel_fns (s : State) (f : Panel → Panel) : (s.modPanel f).fns = s.fns := rfl
@[simp] theorem State.modPanel_service (s : State) (f : Panel → Panel) : (s.modPanel f).service = s.service := rfl
@[simp] theorem State.modPanel_power (s : State) (f : Panel → Panel) : (s.modPanel f).power = s.power := rfl
@[simp] theorem State.modPanel_trust (s : State) (f : Panel → Panel) : (s.modPanel f).trust = s.trust := rfl

@[simp] theorem State.modCamp_pending (s : State) (f : Camp → Camp) : (s.modCamp f).pending = s.pending := rfl
@[simp] theorem State.modCamp_draws (s : State) (f : Camp → Camp) : (s.modCamp f).draws = s.draws := rfl
@[simp] theorem State.modCamp_nextUid (s : State) (f : Camp → Camp) : (s.modCamp f).nextUid = s.nextUid := rfl
@[simp] theorem State.modCamp_tiles (s : State) (f : Camp → Camp) : (s.modCamp f).tiles = s.tiles := rfl
@[simp] theorem State.modCamp_ctxs (s : State) (f : Camp → Camp) : (s.modCamp f).ctxs = s.ctxs := rfl
@[simp] theorem State.modCamp_teams (s : State) (f : Camp → Camp) : (s.modCamp f).teams = s.teams := rfl
@[simp] theorem State.modCamp_teamCmds (s : State) (f : Camp → Camp) : (s.modCamp f).teamCmds = s.teamCmds := rfl
@[simp] theorem State.modCamp_chans (s : State) (f : Camp → Camp) : (s.modCamp f).chans = s.chans := rfl
@[simp] theorem State.modCamp_mem (s : State) (f : Camp → Camp) : (s.modCamp f).mem = s.mem := rfl
@[simp] theorem State.modCamp_bad (s : State) (f : Camp → Camp) : (s.modCamp f).bad = s.bad := rfl
@[simp] theorem State.modCamp_net (s : State) (f : Camp → Camp) : (s.modCamp f).net = s.net := rfl
@[simp] theorem State.modCamp_gtallies (s : State) (f : Camp → Camp) : (s.modCamp f).gtallies = s.gtallies := rfl
@[simp] theorem State.modCamp_huddles (s : State) (f : Camp → Camp) : (s.modCamp f).huddles = s.huddles := rfl
@[simp] theorem State.modCamp_reds (s : State) (f : Camp → Camp) : (s.modCamp f).reds = s.reds := rfl
@[simp] theorem State.modCamp_pools (s : State) (f : Camp → Camp) : (s.modCamp f).pools = s.pools := rfl
@[simp] theorem State.modCamp_snaps (s : State) (f : Camp → Camp) : (s.modCamp f).snaps = s.snaps := rfl
@[simp] theorem State.modCamp_trouble (s : State) (f : Camp → Camp) : (s.modCamp f).trouble = s.trouble := rfl
@[simp] theorem State.modCamp_nearLive (s : State) (f : Camp → Camp) : (s.modCamp f).nearLive = s.nearLive := rfl
@[simp] theorem State.modCamp_farLive (s : State) (f : Camp → Camp) : (s.modCamp f).farLive = s.farLive := rfl
@[simp] theorem State.modCamp_scratchMib (s : State) (f : Camp → Camp) : (s.modCamp f).scratchMib = s.scratchMib := rfl
@[simp] theorem State.modCamp_exactMib (s : State) (f : Camp → Camp) : (s.modCamp f).exactMib = s.exactMib := rfl
@[simp] theorem State.modCamp_scrubPeriod (s : State) (f : Camp → Camp) : (s.modCamp f).scrubPeriod = s.scrubPeriod := rfl
@[simp] theorem State.modCamp_scrubAt (s : State) (f : Camp → Camp) : (s.modCamp f).scrubAt = s.scrubAt := rfl
@[simp] theorem State.modCamp_broadcast (s : State) (f : Camp → Camp) : (s.modCamp f).broadcast = s.broadcast := rfl
@[simp] theorem State.modCamp_deviceNumber (s : State) (f : Camp → Camp) : (s.modCamp f).deviceNumber = s.deviceNumber := rfl
@[simp] theorem State.modCamp_ports (s : State) (f : Camp → Camp) : (s.modCamp f).ports = s.ports := rfl
@[simp] theorem State.modCamp_fabric (s : State) (f : Camp → Camp) : (s.modCamp f).fabric = s.fabric := rfl
@[simp] theorem State.modCamp_sent (s : State) (f : Camp → Camp) : (s.modCamp f).sent = s.sent := rfl
@[simp] theorem State.modCamp_fns (s : State) (f : Camp → Camp) : (s.modCamp f).fns = s.fns := rfl
@[simp] theorem State.modCamp_service (s : State) (f : Camp → Camp) : (s.modCamp f).service = s.service := rfl
@[simp] theorem State.modCamp_power (s : State) (f : Camp → Camp) : (s.modCamp f).power = s.power := rfl
@[simp] theorem State.modCamp_trust (s : State) (f : Camp → Camp) : (s.modCamp f).trust = s.trust := rfl
@[simp] theorem State.modCamp_panel (s : State) (f : Camp → Camp) : (s.modCamp f).panel = s.panel := rfl

@[simp] theorem State.modSub_pending (s : State) (i : Nat) (f : Subscriber → Subscriber) : (s.modSub i f).pending = s.pending := rfl
@[simp] theorem State.modSub_draws (s : State) (i : Nat) (f : Subscriber → Subscriber) : (s.modSub i f).draws = s.draws := rfl
@[simp] theorem State.modSub_nextUid (s : State) (i : Nat) (f : Subscriber → Subscriber) : (s.modSub i f).nextUid = s.nextUid := rfl
@[simp] theorem State.modSub_tiles (s : State) (i : Nat) (f : Subscriber → Subscriber) : (s.modSub i f).tiles = s.tiles := rfl
@[simp] theorem State.modSub_ctxs (s : State) (i : Nat) (f : Subscriber → Subscriber) : (s.modSub i f).ctxs = s.ctxs := rfl
@[simp] theorem State.modSub_teams (s : State) (i : Nat) (f : Subscriber → Subscriber) : (s.modSub i f).teams = s.teams := rfl
@[simp] theorem State.modSub_teamCmds (s : State) (i : Nat) (f : Subscriber → Subscriber) : (s.modSub i f).teamCmds = s.teamCmds := rfl
@[simp] theorem State.modSub_chans (s : State) (i : Nat) (f : Subscriber → Subscriber) : (s.modSub i f).chans = s.chans := rfl
@[simp] theorem State.modSub_mem (s : State) (i : Nat) (f : Subscriber → Subscriber) : (s.modSub i f).mem = s.mem := rfl
@[simp] theorem State.modSub_bad (s : State) (i : Nat) (f : Subscriber → Subscriber) : (s.modSub i f).bad = s.bad := rfl
@[simp] theorem State.modSub_net (s : State) (i : Nat) (f : Subscriber → Subscriber) : (s.modSub i f).net = s.net := rfl
@[simp] theorem State.modSub_gtallies (s : State) (i : Nat) (f : Subscriber → Subscriber) : (s.modSub i f).gtallies = s.gtallies := rfl
@[simp] theorem State.modSub_huddles (s : State) (i : Nat) (f : Subscriber → Subscriber) : (s.modSub i f).huddles = s.huddles := rfl
@[simp] theorem State.modSub_reds (s : State) (i : Nat) (f : Subscriber → Subscriber) : (s.modSub i f).reds = s.reds := rfl
@[simp] theorem State.modSub_pools (s : State) (i : Nat) (f : Subscriber → Subscriber) : (s.modSub i f).pools = s.pools := rfl
@[simp] theorem State.modSub_snaps (s : State) (i : Nat) (f : Subscriber → Subscriber) : (s.modSub i f).snaps = s.snaps := rfl
@[simp] theorem State.modSub_trouble (s : State) (i : Nat) (f : Subscriber → Subscriber) : (s.modSub i f).trouble = s.trouble := rfl
@[simp] theorem State.modSub_nearLive (s : State) (i : Nat) (f : Subscriber → Subscriber) : (s.modSub i f).nearLive = s.nearLive := rfl
@[simp] theorem State.modSub_farLive (s : State) (i : Nat) (f : Subscriber → Subscriber) : (s.modSub i f).farLive = s.farLive := rfl
@[simp] theorem State.modSub_scratchMib (s : State) (i : Nat) (f : Subscriber → Subscriber) : (s.modSub i f).scratchMib = s.scratchMib := rfl
@[simp] theorem State.modSub_exactMib (s : State) (i : Nat) (f : Subscriber → Subscriber) : (s.modSub i f).exactMib = s.exactMib := rfl
@[simp] theorem State.modSub_scrubPeriod (s : State) (i : Nat) (f : Subscriber → Subscriber) : (s.modSub i f).scrubPeriod = s.scrubPeriod := rfl
@[simp] theorem State.modSub_scrubAt (s : State) (i : Nat) (f : Subscriber → Subscriber) : (s.modSub i f).scrubAt = s.scrubAt := rfl
@[simp] theorem State.modSub_broadcast (s : State) (i : Nat) (f : Subscriber → Subscriber) : (s.modSub i f).broadcast = s.broadcast := rfl
@[simp] theorem State.modSub_deviceNumber (s : State) (i : Nat) (f : Subscriber → Subscriber) : (s.modSub i f).deviceNumber = s.deviceNumber := rfl
@[simp] theorem State.modSub_ports (s : State) (i : Nat) (f : Subscriber → Subscriber) : (s.modSub i f).ports = s.ports := rfl
@[simp] theorem State.modSub_fabric (s : State) (i : Nat) (f : Subscriber → Subscriber) : (s.modSub i f).fabric = s.fabric := rfl
@[simp] theorem State.modSub_sent (s : State) (i : Nat) (f : Subscriber → Subscriber) : (s.modSub i f).sent = s.sent := rfl
@[simp] theorem State.modSub_fns (s : State) (i : Nat) (f : Subscriber → Subscriber) : (s.modSub i f).fns = s.fns := rfl
@[simp] theorem State.modSub_service (s : State) (i : Nat) (f : Subscriber → Subscriber) : (s.modSub i f).service = s.service := rfl
@[simp] theorem State.modSub_power (s : State) (i : Nat) (f : Subscriber → Subscriber) : (s.modSub i f).power = s.power := rfl
@[simp] theorem State.modSub_trust (s : State) (i : Nat) (f : Subscriber → Subscriber) : (s.modSub i f).trust = s.trust := rfl
@[simp] theorem State.modSub_panel (s : State) (i : Nat) (f : Subscriber → Subscriber) : (s.modSub i f).panel = s.panel := rfl

@[simp] theorem State.send_pending (s : State) (p : Packet) : (s.send p).pending = s.pending := rfl
@[simp] theorem State.send_draws (s : State) (p : Packet) : (s.send p).draws = s.draws := rfl
@[simp] theorem State.send_tiles (s : State) (p : Packet) : (s.send p).tiles = s.tiles := rfl
@[simp] theorem State.send_ctxs (s : State) (p : Packet) : (s.send p).ctxs = s.ctxs := rfl
@[simp] theorem State.send_teams (s : State) (p : Packet) : (s.send p).teams = s.teams := rfl
@[simp] theorem State.send_teamCmds (s : State) (p : Packet) : (s.send p).teamCmds = s.teamCmds := rfl
@[simp] theorem State.send_chans (s : State) (p : Packet) : (s.send p).chans = s.chans := rfl
@[simp] theorem State.send_mem (s : State) (p : Packet) : (s.send p).mem = s.mem := rfl
@[simp] theorem State.send_bad (s : State) (p : Packet) : (s.send p).bad = s.bad := rfl
@[simp] theorem State.send_gtallies (s : State) (p : Packet) : (s.send p).gtallies = s.gtallies := rfl
@[simp] theorem State.send_huddles (s : State) (p : Packet) : (s.send p).huddles = s.huddles := rfl
@[simp] theorem State.send_reds (s : State) (p : Packet) : (s.send p).reds = s.reds := rfl
@[simp] theorem State.send_pools (s : State) (p : Packet) : (s.send p).pools = s.pools := rfl
@[simp] theorem State.send_snaps (s : State) (p : Packet) : (s.send p).snaps = s.snaps := rfl
@[simp] theorem State.send_trouble (s : State) (p : Packet) : (s.send p).trouble = s.trouble := rfl
@[simp] theorem State.send_nearLive (s : State) (p : Packet) : (s.send p).nearLive = s.nearLive := rfl
@[simp] theorem State.send_farLive (s : State) (p : Packet) : (s.send p).farLive = s.farLive := rfl
@[simp] theorem State.send_scratchMib (s : State) (p : Packet) : (s.send p).scratchMib = s.scratchMib := rfl
@[simp] theorem State.send_exactMib (s : State) (p : Packet) : (s.send p).exactMib = s.exactMib := rfl
@[simp] theorem State.send_scrubPeriod (s : State) (p : Packet) : (s.send p).scrubPeriod = s.scrubPeriod := rfl
@[simp] theorem State.send_scrubAt (s : State) (p : Packet) : (s.send p).scrubAt = s.scrubAt := rfl
@[simp] theorem State.send_broadcast (s : State) (p : Packet) : (s.send p).broadcast = s.broadcast := rfl
@[simp] theorem State.send_deviceNumber (s : State) (p : Packet) : (s.send p).deviceNumber = s.deviceNumber := rfl
@[simp] theorem State.send_ports (s : State) (p : Packet) : (s.send p).ports = s.ports := rfl
@[simp] theorem State.send_fabric (s : State) (p : Packet) : (s.send p).fabric = s.fabric := rfl
@[simp] theorem State.send_sent (s : State) (p : Packet) : (s.send p).sent = s.sent := rfl
@[simp] theorem State.send_camp (s : State) (p : Packet) : (s.send p).camp = s.camp := rfl
@[simp] theorem State.send_fns (s : State) (p : Packet) : (s.send p).fns = s.fns := rfl
@[simp] theorem State.send_service (s : State) (p : Packet) : (s.send p).service = s.service := rfl
@[simp] theorem State.send_power (s : State) (p : Packet) : (s.send p).power = s.power := rfl
@[simp] theorem State.send_trust (s : State) (p : Packet) : (s.send p).trust = s.trust := rfl
@[simp] theorem State.send_panel (s : State) (p : Packet) : (s.send p).panel = s.panel := rfl

@[simp] theorem State.consume_pending (s : State) (k : Nat) : (s.consume k).pending = s.pending := rfl
@[simp] theorem State.consume_draws (s : State) (k : Nat) : (s.consume k).draws = s.draws := rfl
@[simp] theorem State.consume_nextUid (s : State) (k : Nat) : (s.consume k).nextUid = s.nextUid := rfl
@[simp] theorem State.consume_tiles (s : State) (k : Nat) : (s.consume k).tiles = s.tiles := rfl
@[simp] theorem State.consume_ctxs (s : State) (k : Nat) : (s.consume k).ctxs = s.ctxs := rfl
@[simp] theorem State.consume_teams (s : State) (k : Nat) : (s.consume k).teams = s.teams := rfl
@[simp] theorem State.consume_teamCmds (s : State) (k : Nat) : (s.consume k).teamCmds = s.teamCmds := rfl
@[simp] theorem State.consume_chans (s : State) (k : Nat) : (s.consume k).chans = s.chans := rfl
@[simp] theorem State.consume_mem (s : State) (k : Nat) : (s.consume k).mem = s.mem := rfl
@[simp] theorem State.consume_bad (s : State) (k : Nat) : (s.consume k).bad = s.bad := rfl
@[simp] theorem State.consume_gtallies (s : State) (k : Nat) : (s.consume k).gtallies = s.gtallies := rfl
@[simp] theorem State.consume_huddles (s : State) (k : Nat) : (s.consume k).huddles = s.huddles := rfl
@[simp] theorem State.consume_reds (s : State) (k : Nat) : (s.consume k).reds = s.reds := rfl
@[simp] theorem State.consume_pools (s : State) (k : Nat) : (s.consume k).pools = s.pools := rfl
@[simp] theorem State.consume_snaps (s : State) (k : Nat) : (s.consume k).snaps = s.snaps := rfl
@[simp] theorem State.consume_trouble (s : State) (k : Nat) : (s.consume k).trouble = s.trouble := rfl
@[simp] theorem State.consume_nearLive (s : State) (k : Nat) : (s.consume k).nearLive = s.nearLive := rfl
@[simp] theorem State.consume_farLive (s : State) (k : Nat) : (s.consume k).farLive = s.farLive := rfl
@[simp] theorem State.consume_scratchMib (s : State) (k : Nat) : (s.consume k).scratchMib = s.scratchMib := rfl
@[simp] theorem State.consume_exactMib (s : State) (k : Nat) : (s.consume k).exactMib = s.exactMib := rfl
@[simp] theorem State.consume_scrubPeriod (s : State) (k : Nat) : (s.consume k).scrubPeriod = s.scrubPeriod := rfl
@[simp] theorem State.consume_scrubAt (s : State) (k : Nat) : (s.consume k).scrubAt = s.scrubAt := rfl
@[simp] theorem State.consume_broadcast (s : State) (k : Nat) : (s.consume k).broadcast = s.broadcast := rfl
@[simp] theorem State.consume_deviceNumber (s : State) (k : Nat) : (s.consume k).deviceNumber = s.deviceNumber := rfl
@[simp] theorem State.consume_ports (s : State) (k : Nat) : (s.consume k).ports = s.ports := rfl
@[simp] theorem State.consume_fabric (s : State) (k : Nat) : (s.consume k).fabric = s.fabric := rfl
@[simp] theorem State.consume_sent (s : State) (k : Nat) : (s.consume k).sent = s.sent := rfl
@[simp] theorem State.consume_camp (s : State) (k : Nat) : (s.consume k).camp = s.camp := rfl
@[simp] theorem State.consume_fns (s : State) (k : Nat) : (s.consume k).fns = s.fns := rfl
@[simp] theorem State.consume_service (s : State) (k : Nat) : (s.consume k).service = s.service := rfl
@[simp] theorem State.consume_power (s : State) (k : Nat) : (s.consume k).power = s.power := rfl
@[simp] theorem State.consume_trust (s : State) (k : Nat) : (s.consume k).trust = s.trust := rfl
@[simp] theorem State.consume_panel (s : State) (k : Nat) : (s.consume k).panel = s.panel := rfl

@[simp] theorem State.countDrop_pending (s : State) : (s.countDrop).pending = s.pending := rfl
@[simp] theorem State.countDrop_draws (s : State) : (s.countDrop).draws = s.draws := rfl
@[simp] theorem State.countDrop_nextUid (s : State) : (s.countDrop).nextUid = s.nextUid := rfl
@[simp] theorem State.countDrop_tiles (s : State) : (s.countDrop).tiles = s.tiles := rfl
@[simp] theorem State.countDrop_ctxs (s : State) : (s.countDrop).ctxs = s.ctxs := rfl
@[simp] theorem State.countDrop_teams (s : State) : (s.countDrop).teams = s.teams := rfl
@[simp] theorem State.countDrop_teamCmds (s : State) : (s.countDrop).teamCmds = s.teamCmds := rfl
@[simp] theorem State.countDrop_chans (s : State) : (s.countDrop).chans = s.chans := rfl
@[simp] theorem State.countDrop_mem (s : State) : (s.countDrop).mem = s.mem := rfl
@[simp] theorem State.countDrop_bad (s : State) : (s.countDrop).bad = s.bad := rfl
@[simp] theorem State.countDrop_net (s : State) : (s.countDrop).net = s.net := rfl
@[simp] theorem State.countDrop_gtallies (s : State) : (s.countDrop).gtallies = s.gtallies := rfl
@[simp] theorem State.countDrop_huddles (s : State) : (s.countDrop).huddles = s.huddles := rfl
@[simp] theorem State.countDrop_reds (s : State) : (s.countDrop).reds = s.reds := rfl
@[simp] theorem State.countDrop_pools (s : State) : (s.countDrop).pools = s.pools := rfl
@[simp] theorem State.countDrop_snaps (s : State) : (s.countDrop).snaps = s.snaps := rfl
@[simp] theorem State.countDrop_nearLive (s : State) : (s.countDrop).nearLive = s.nearLive := rfl
@[simp] theorem State.countDrop_farLive (s : State) : (s.countDrop).farLive = s.farLive := rfl
@[simp] theorem State.countDrop_scratchMib (s : State) : (s.countDrop).scratchMib = s.scratchMib := rfl
@[simp] theorem State.countDrop_exactMib (s : State) : (s.countDrop).exactMib = s.exactMib := rfl
@[simp] theorem State.countDrop_scrubPeriod (s : State) : (s.countDrop).scrubPeriod = s.scrubPeriod := rfl
@[simp] theorem State.countDrop_scrubAt (s : State) : (s.countDrop).scrubAt = s.scrubAt := rfl
@[simp] theorem State.countDrop_broadcast (s : State) : (s.countDrop).broadcast = s.broadcast := rfl
@[simp] theorem State.countDrop_deviceNumber (s : State) : (s.countDrop).deviceNumber = s.deviceNumber := rfl
@[simp] theorem State.countDrop_ports (s : State) : (s.countDrop).ports = s.ports := rfl
@[simp] theorem State.countDrop_fabric (s : State) : (s.countDrop).fabric = s.fabric := rfl
@[simp] theorem State.countDrop_sent (s : State) : (s.countDrop).sent = s.sent := rfl
@[simp] theorem State.countDrop_camp (s : State) : (s.countDrop).camp = s.camp := rfl
@[simp] theorem State.countDrop_fns (s : State) : (s.countDrop).fns = s.fns := rfl
@[simp] theorem State.countDrop_service (s : State) : (s.countDrop).service = s.service := rfl
@[simp] theorem State.countDrop_power (s : State) : (s.countDrop).power = s.power := rfl
@[simp] theorem State.countDrop_trust (s : State) : (s.countDrop).trust = s.trust := rfl
@[simp] theorem State.countDrop_panel (s : State) : (s.countDrop).panel = s.panel := rfl

/-! ## What the accessors read after an update -/

@[simp] theorem State.tile_modTile (s : State) (n : Nat) (f : Tile → Tile) : (s.modTile n f).tile n = f (s.tile n) :=
  tget_tset_self _ _ _ _
theorem State.tile_modTile_of_ne (s : State) {m n : Nat} (f : Tile → Tile) (h : m ≠ n) : (s.modTile n f).tile m = s.tile m :=
  tget_tset_of_ne _ _ _ h
@[simp] theorem State.thread_modThread (s : State) (n : Nat) (st : Stream) (f : Thread → Thread) :
    (s.modThread n st f).thread n st = f (s.thread n st) := by
  unfold State.modThread State.thread
  rw [State.tile_modTile]
  exact ByStream.get_set_self _ _ _
theorem State.thread_modThread_of_ne (s : State) (n : Nat) {st u : Stream} (f : Thread → Thread) (h : u ≠ st) :
    (s.modThread n st f).thread n u = s.thread n u := by
  unfold State.modThread State.thread
  rw [State.tile_modTile]
  exact ByStream.get_set_of_ne _ _ h
theorem State.thread_modTile_of_ne (s : State) {m n : Nat} (f : Tile → Tile) (st : Stream) (h : m ≠ n) :
    (s.modTile n f).thread m st = s.thread m st := by
  unfold State.thread
  rw [State.tile_modTile_of_ne s f h]
theorem State.tile_modThread_of_ne (s : State) {m n : Nat} (st : Stream) (f : Thread → Thread) (h : m ≠ n) :
    (s.modThread n st f).tile m = s.tile m := State.tile_modTile_of_ne s _ h
theorem State.queue_modQueue (s : State) (n : Nat) (e : Engine) (st : Stream) (f : Queue → Queue) :
    (s.modQueue n e st f).queue n e st = f (s.queue n e st) := by
  unfold State.modQueue State.queue
  rw [State.tile_modTile]
  simp
@[simp] theorem State.ctx_modCtx (s : State) (c : Nat) (f : Ctx → Ctx) : (s.modCtx c f).ctx c = f (s.ctx c) := tget_tset_self _ _ _ _
theorem State.ctx_modCtx_of_ne (s : State) {c d : Nat} (f : Ctx → Ctx) (h : d ≠ c) : (s.modCtx c f).ctx d = s.ctx d :=
  tget_tset_of_ne _ _ _ h
@[simp] theorem State.port_modPort (s : State) (p : Nat) (f : Port → Port) : (s.modPort p f).port p = f (s.port p) :=
  tget_tset_self _ _ _ _
theorem State.port_modPort_of_ne (s : State) {p q : Nat} (f : Port → Port) (h : q ≠ p) : (s.modPort p f).port q = s.port q :=
  tget_tset_of_ne _ _ _ h
@[simp] theorem State.fn_modFn (s : State) (n : Nat) (f : Fn → Fn) : (s.modFn n f).fn n = f (s.fn n) := tget_tset_self _ _ _ _
theorem State.fn_modFn_of_ne (s : State) {m n : Nat} (f : Fn → Fn) (h : m ≠ n) : (s.modFn n f).fn m = s.fn m :=
  tget_tset_of_ne _ _ _ h
@[simp] theorem State.ring_modRing (s : State) (n r : Nat) (f : Ring → Ring) : (s.modRing n r f).ring n r = f (s.ring n r) := by
  unfold State.modRing State.ring
  rw [State.fn_modFn]
  simp
@[simp] theorem State.power_modPower (s : State) (f : Power → Power) : (s.modPower f).power = f s.power := rfl
@[simp] theorem State.panel_modPanel (s : State) (f : Panel → Panel) : (s.modPanel f).panel = f s.panel := rfl
@[simp] theorem State.camp_modCamp (s : State) (f : Camp → Camp) : (s.modCamp f).camp = f s.camp := rfl
@[simp] theorem State.trouble_modTrouble (s : State) (f : Trouble → Trouble) : (s.modTrouble f).trouble = f s.trouble := rfl
@[simp] theorem State.fabric_modFabric (s : State) (f : Fabric → Fabric) : (s.modFabric f).fabric = f s.fabric := rfl

/-! ## Registers (02 R50) -/

@[simp] theorem Thread.reg_zero (t : Thread) : t.reg 0 = 0#32 := rfl
@[simp] theorem Thread.setReg_zero (t : Thread) (v : Word) : t.setReg 0 v = t := rfl
theorem Thread.reg_setReg (t : Thread) {i : Nat} (j : Nat) (v : Word) (h : i < 32) :
    (t.setReg i v).reg j = if j = i ∧ i ≠ 0 then v else t.reg j := by
  unfold Thread.setReg Thread.reg
  by_cases z : j = 0
  · by_cases y : i = 0 <;> simp [z, y]
    intro e
    exact absurd e.symm y
  · by_cases y : i = 0
    · simp [y, z]
    · by_cases e : j = i
      · subst e
        simp [y, Vector.getElem?_setIfInBounds, h]
      · simp [y, z, e, Vector.getElem?_setIfInBounds, Ne.symm e]

@[simp] theorem Thread.setReg_run (t : Thread) (i : Nat) (v : Word) : (t.setReg i v).run = t.run := by
  unfold Thread.setReg
  split <;> rfl
@[simp] theorem Thread.setReg_pc (t : Thread) (i : Nat) (v : Word) : (t.setReg i v).pc = t.pc := by
  unfold Thread.setReg
  split <;> rfl
@[simp] theorem Thread.setReg_preds (t : Thread) (i : Nat) (v : Word) : (t.setReg i v).preds = t.preds := by
  unfold Thread.setReg
  split <;> rfl
@[simp] theorem Thread.setReg_staging (t : Thread) (i : Nat) (v : Word) : (t.setReg i v).staging = t.staging := by
  unfold Thread.setReg
  split <;> rfl
@[simp] theorem Thread.setReg_channel (t : Thread) (i : Nat) (v : Word) : (t.setReg i v).channel = t.channel := by
  unfold Thread.setReg
  split <;> rfl
@[simp] theorem Thread.setReg_bank (t : Thread) (i : Nat) (v : Word) : (t.setReg i v).bank = t.bank := by
  unfold Thread.setReg
  split <;> rfl
@[simp] theorem Thread.setReg_sums (t : Thread) (i : Nat) (v : Word) : (t.setReg i v).sums = t.sums := by
  unfold Thread.setReg
  split <;> rfl

/-! ## Fixed numbers of like things -/

@[simp] theorem vget_vset_self {α : Type} {n : Nat} (l : Vector α n) (i : Nat) (v d : α) (h : i < n) : vget (vset l i v) i d = v := by
  simp [vget, vset, h]

@[simp] theorem vget_vset_of_ne {α : Type} {n : Nat} (l : Vector α n) {i j : Nat} (v d : α) (h : i ≠ j) :
    vget (vset l i v) j d = vget l j d := by
  simp [vget, vset, Vector.getElem?_setIfInBounds, h]

@[simp] theorem State.array_modArray_self (s : State) (n a : Nat) (f : Arr → Arr) (h : a < 4) :
    (s.modArray n a f).array n a = f (s.array n a) := by
  simp [State.array, State.modArray, h]

end Sys2Proof.Machine
end

