-- ==== Sys2Proof/Laws/Ops.lean ====
section
/-!
SUPPORT. What the shared operations do, once each: fetching and retiring (02 R51, R53), waits, issue and completion
(02 R66), packets, messages and requests, and the bytes of a device address.
-/
namespace Sys2Proof.Machine

/-! ## The control core -/

theorem onInstr_of_runs {s : State} {n len : Nat} {st : Stream} {op : RvOp} (h : Runs s n st op len)
    (f : RvOp → Nat → Option State) : onInstr n st s f = .next ((f op len).getD s) := by
  simp [onInstr, h.tile, h.runs, h.at']

theorem execRvInstruction_of_runs {s : State} {n len : Nat} {st : Stream} {op : RvOp} (h : Runs s n st op len)
    (hp : op.isPlain = true) : exec (.rvInstruction n st) s = .next (s.runPlain n st op len) := by
  simp [exec, execRvInstruction, h.tile, h.runs, h.at', hp]

theorem onWait_of_waitsAt {s : State} {n len : Nat} {st : Stream} {w : WaitAt} {op : RvOp} (h : WaitsAt s n st w op len)
    (f : RvOp → Nat → Option State) : onWait n st w s f = .next ((f op len).getD s) := by
  simp [onWait, h.tile, h.waits]

/-- What `others` leaves out is what a part says changes. -/
theorem same_tiles_of_modTile (s : State) (n : Nat) (f : Tile → Tile) : Same ({ tiles := true } : Parts).others s (s.modTile n f) := by
  constructor <;> intro h <;> first | rfl | exact absurd h (by decide)

theorem retired_retireAt (s : State) (n : Nat) (st : Stream) (g : Thread → Thread) (pc : Word) :
    Retired s ((s.modThread n st g).retireAt n st pc) n st (g (s.thread n st)) pc := by
  simp only [State.retireAt, State.passTurn, State.progressed, State.modThread]
  constructor
  · simp [State.thread]
  · intro u hu
    simp [State.thread, ByStream.get_set_of_ne _ _ hu]
  · simp
  · simp
  · intro m hm
    simp [State.tile_modTile_of_ne _ _ hm]
  · refine Same.trans ?_ (same_tiles_of_modTile _ _ _)
    refine Same.trans ?_ (same_tiles_of_modTile _ _ _)
    exact Same.trans (same_tiles_of_modTile _ _ _) (same_tiles_of_modTile _ _ _)

theorem retireAt_id (s : State) (n : Nat) (st : Stream) (pc : Word) :
    ((s.modThread n st id).retireAt n st pc).thread n st = (s.retireAt n st pc).thread n st := by
  simp [State.retireAt, State.passTurn, State.progressed, State.modThread, State.thread]

/-- Retiring at pc changes the thread's program counter, passes the turn, and nothing else. -/
theorem retired_retireAt' (s : State) (n : Nat) (st : Stream) (pc : Word) : Retired s (s.retireAt n st pc) n st (s.thread n st) pc := by
  simp only [State.retireAt, State.passTurn, State.progressed, State.modThread]
  constructor
  · simp [State.thread]
  · intro u hu
    simp [State.thread, ByStream.get_set_of_ne _ _ hu]
  · simp
  · simp
  · intro m hm
    simp [State.tile_modTile_of_ne _ _ hm]
  · refine Same.trans ?_ (same_tiles_of_modTile _ _ _)
    exact Same.trans (same_tiles_of_modTile _ _ _) (same_tiles_of_modTile _ _ _)

theorem retired_retire (s : State) (n : Nat) (st : Stream) (len : Nat) :
    Retired s (s.retire n st len) n st (s.thread n st) (s.pcAfter n st len) := retired_retireAt' s n st _

/-- Retiring with the thread changed by `g`, which leaves the program counter alone. -/
theorem retired_modThread (s : State) (n : Nat) (st : Stream) (len : Nat) (g : Thread → Thread)
    (hg : (g (s.thread n st)).pc = (s.thread n st).pc) :
    Retired s ((s.modThread n st g).retire n st len) n st (g (s.thread n st)) (s.pcAfter n st len) := by
  have h := retired_retireAt s n st g (s.pcAfter n st len)
  simpa [State.retire, State.pcAfter, hg] using h

theorem retired_retireReg (s : State) (n : Nat) (st : Stream) (len rd : Nat) (v : Word) :
    Retired s (s.retireReg n st len rd v) n st ((s.thread n st).setReg rd v) (s.pcAfter n st len) :=
  retired_modThread s n st len _ (Thread.setReg_pc _ _ _)

theorem reg_retired {s t : State} {n rd : Nat} {st : Stream} {th : Thread} {v pc : Word} (h : Retired s t n st (th.setReg rd v) pc)
    (hr : rd < 32) (j : Nat) : (t.thread n st).reg j = if j = rd ∧ rd ≠ 0 then v else th.reg j := by
  rw [h.thread]
  have : ({ th.setReg rd v with pc := pc, fresh := false } : Thread).reg j = (th.setReg rd v).reg j := rfl
  rw [this, Thread.reg_setReg _ _ _ hr]

/-- A waiting thread wakes, changed by `g`, and retires. -/
theorem retired_wake (s : State) (n : Nat) (st : Stream) (len : Nat) :
    Retired s ((s.wake n st).retire n st len) n st { s.thread n st with run := .run, waitAt := none, released := false }
      (s.pcAfter n st len) := retired_modThread s n st len _ rfl

/-! ## Halts (02 R79–R82) -/

theorem Same.others_mono {p q : Parts} {s t : State} (h : Same p.others s t)
    (hs : ∀ f : Parts → Bool, f q.others = true → f p.others = true) : Same q.others s t := by
  constructor
  · exact fun x => h.tiles (hs (·.tiles) x)
  · exact fun x => h.ctxs (hs (·.ctxs) x)
  · exact fun x => h.teams (hs (·.teams) x)
  · exact fun x => h.teamCmds (hs (·.teamCmds) x)
  · exact fun x => h.chans (hs (·.chans) x)
  · exact fun x => h.mem (hs (·.mem) x)
  · exact fun x => h.bad (hs (·.bad) x)
  · exact fun x => h.net (hs (·.net) x)
  · exact fun x => h.gtallies (hs (·.gtallies) x)
  · exact fun x => h.huddles (hs (·.huddles) x)
  · exact fun x => h.reds (hs (·.reds) x)
  · exact fun x => h.pools (hs (·.pools) x)
  · exact fun x => h.snaps (hs (·.snaps) x)
  · exact fun x => h.trouble (hs (·.trouble) x)
  · exact fun x => h.ports (hs (·.ports) x)
  · exact fun x => h.fabric (hs (·.fabric) x)
  · exact fun x => h.sent (hs (·.sent) x)
  · exact fun x => h.camp (hs (·.camp) x)
  · exact fun x => h.fns (hs (·.fns) x)
  · exact fun x => h.service (hs (·.service) x)
  · exact fun x => h.power (hs (·.power) x)
  · exact fun x => h.trust (hs (·.trust) x)
  · exact fun x => h.panel (hs (·.panel) x)
  · exact fun x => h.device (hs (·.device) x)

theorem State.owner_lt (s : State) (n : Nat) : s.owner n < 256 := by
  unfold State.owner
  split
  · exact teamCtx_lt _
  · decide

theorem faultRecord_fields (h : Halt) (st : Stream) (ctx tile bank pc seq cycles : Nat) (hc : ctx < 256) (ht : tile < 2048)
    (hr : h.reason < 256) (hu : h.unit < 8) : let r := faultRecord h st ctx tile bank pc seq cycles
    recordValid r = true ∧ recordReason r = h.reason ∧ bits r.toNat 246 245 = streamNo st ∧ bits r.toNat 244 242 = h.unit ∧
      bits r.toNat 241 234 = ctx ∧ bits r.toNat 217 207 = tile := by
  intro r
  have hs : streamNo st < 2 ^ 2 := by cases st <;> decide
  have e : r.toNat = pack _ := toNat_ofNat_pack _ (by simp [packWidth])
  rw [recordValid, bit_eq_bits, recordReason, e,
    bits_pack_at _ 0 1 1 255 255 rfl (by decide) (by simp [packWidth]) rfl,
    bits_pack_at _ 1 8 h.reason 254 247 rfl (by decide) (by simp [packWidth]) rfl,
    bits_pack_at _ 2 2 (streamNo st) 246 245 rfl (by decide) (by simp [packWidth]) rfl,
    bits_pack_at _ 3 3 h.unit 244 242 rfl (by decide) (by simp [packWidth]) rfl,
    bits_pack_at _ 4 8 ctx 241 234 rfl (by decide) (by simp [packWidth]) rfl,
    bits_pack_at _ 6 11 tile 217 207 rfl (by decide) (by simp [packWidth]) rfl]
  exact ⟨by decide, Nat.mod_eq_of_lt hr, Nat.mod_eq_of_lt hs, Nat.mod_eq_of_lt hu, Nat.mod_eq_of_lt hc, Nat.mod_eq_of_lt ht⟩

@[simp] theorem State.alarm_tiles (s : State) (kind source ctx : Nat) (body : List Byte) :
    (s.alarm kind source ctx body).tiles = s.tiles :=
  (State.alarm_keeps (pt := { tiles := true }) _ _ _ _ _ (Keeps.refl s) rfl).same.tiles rfl

@[simp] theorem State.lockStop_tiles (s : State) (c cause : Nat) : (s.lockStop c cause).tiles = s.tiles :=
  (State.lockStop_keeps (pt := { tiles := true }) _ _ _ (Keeps.refl s) rfl).same.tiles rfl

/-- A pending bank switch taken: only the stream's own thread, its bank and program counter, and the list of switches change. -/
theorem State.switchBank_thread (s : State) (n : Nat) (st : Stream) :
    ∃ b pc e, (s.switchBank n st).thread n st = { s.thread n st with bank := b, pc := pc, atEntry := e } := by
  unfold State.switchBank
  dsimp only
  split
  · exact ⟨(s.tile n).targetBank, _, _, by simp only [State.modThread, State.thread, State.tile_modTile, ByStream.get_set_self]; rfl⟩
  · exact ⟨_, _, _, rfl⟩

theorem State.switchBank_other (s : State) (n : Nat) (st : Stream) :
    (∀ u, u ≠ st → (s.switchBank n st).thread n u = s.thread n u) ∧ (∀ m, m ≠ n → (s.switchBank n st).tile m = s.tile m) := by
  unfold State.switchBank
  dsimp only
  split
  · refine ⟨fun u hu => ?_, fun m hm => ?_⟩
    · simp [State.modThread, State.thread, ByStream.get_set_of_ne _ _ hu]
    · simp [State.modThread, State.tile_modTile_of_ne _ _ hm]
  · exact ⟨fun _ _ => rfl, fun _ _ => rfl⟩

theorem State.switchBank_own (s : State) (n : Nat) (st : Stream) : (s.switchBank n st).tile n = { s.tile n with
    threads := ((s.switchBank n st).tile n).threads
    switching := ((s.switchBank n st).tile n).switching } := by
  unfold State.switchBank
  dsimp only
  split
  · simp only [State.modThread, State.tile_modTile]
  · rfl

/-- A halt of a thread that was not halted and holds no valid record. -/
theorem halted_halt (s : State) (n : Nat) (st : Stream) (h : Halt) (hn : n < 2048) (hr : h.reason < 256) (hu : h.unit < 8)
    (hv : recordValid ((s.tile n).records.get st) = false) : Halted s (s.halt n st h) n st h.reason h.unit := by
  have k : Keeps ({ tiles := true, trouble := true, ports := true } : Parts).others s (s.halt n st h) :=
    State.halt_keeps _ _ _ _ (Keeps.refl s) rfl rfl rfl
  let s1 := s.modThread n st fun th => th.halt h.reason
  let s2 := s1.switchBank n st
  let record := faultRecord h st (s.owner n) n (s.thread n st).bank ((s.thread n st).pc.toNat % 65536) (s2.nextSeq n 0) (s2.cycle n).1.toNat
  let s3 := (s2.cycle n).2.modTile n fun t => { t with records := t.records.set st record }
  have t3 : (s.halt n st h).tiles = s3.tiles := by
    unfold State.halt
    simp only [hv, Bool.false_eq_true, if_false]
    split
    · rfl
    · split
      · simp only [State.lockStop_tiles, State.alarm_tiles]
        rfl
      · simp only [State.alarm_tiles]
        rfl
  have tl : ∀ m, (s.halt n st h).tile m = s3.tile m := fun m => by simp only [State.tile, t3]
  have th : ∀ u, (s.halt n st h).thread n u = s2.thread n u := by
    intro u
    simp only [State.thread, tl, s3, State.tile_modTile]
    rfl
  have f := faultRecord_fields h st (s.owner n) n (s.thread n st).bank ((s.thread n st).pc.toNat % 65536) (s2.nextSeq n 0)
    (s2.cycle n).1.toNat (State.owner_lt s n) hn hr hu
  have rr : ((s.halt n st h).tile n).records.get st = record := by simp [tl, s3]
  refine ⟨?_, ?_, ?_, ?_, ?_, ?_, ?_, k.same⟩
  · obtain ⟨b, pc, q, e⟩ := State.switchBank_thread s1 n st
    rw [th, e]
    simp only [s1, State.thread, State.modThread, State.tile_modTile, ByStream.get_set_self, Thread.halt]
    split
    · assumption
    · rfl
  · rw [rr]
    exact f.1
  · rw [rr]
    exact f.2.1
  · rw [rr]
    exact f.2.2
  · intro u hu
    rw [th, (State.switchBank_other s1 n st).1 u hu]
    exact State.thread_modThread_of_ne _ _ _ hu
  · have e := State.switchBank_own s1 n st
    have e3 : s3.tile n = { s2.tile n with records := (s2.tile n).records.set st record } := State.tile_modTile _ _ _
    rw [tl, e3, show s2.tile n = _ from e, show s1.tile n = _ from State.tile_modTile _ _ _]
  · intro m hm
    rw [tl, State.tile_modTile_of_ne _ _ hm]
    exact ((State.switchBank_other s1 n st).2 m hm).trans (State.tile_modThread_of_ne _ _ _ hm)

theorem halted_coreHalt (s : State) (n : Nat) (st : Stream) (reason address detail : Nat) (hn : n < 2048) (hr : reason < 256)
    (hv : recordValid ((s.tile n).records.get st) = false) : Halted s (s.coreHalt n st reason address detail) n st reason 7 :=
  halted_halt s n st _ hn hr (show 7 < 8 by decide) hv

/-! ## Issue, packets, messages, requests -/

/-- What a command does in its context's name depends on the state as the command sees it. -/
theorem State.inName_congr {s : State} {n : Nat} {x : Entry} {f g : State → State} (h : f (s.named n x) = g (s.named n x)) :
    s.inName n x f = s.inName n x g := by
  unfold State.named at h
  unfold State.inName
  split <;> simp_all

/-- A command with nothing in its way issues: its row's answer is the state after the issue. -/
theorem issueWith_of_issues {s : State} {n : Nat} {e : Engine} {op : Nat} {c : Cmd} {st : Stream} {x : Entry} {ahead : List Entry}
    (h : Issues s n e op c st x ahead) (found : State → Entry → State) (hf : ∀ u, found u x = u) (hop : op ≠ 0xFF) :
    issueWith e op c found n st s = .next (s.afterIssue n e c st x) := by
  have hne : ¬op = opNop := hop
  have hi : s.inName n x (fun u => u.issueHead n e st c found x ahead) = s.afterIssue n e c st x := by
    refine State.inName_congr ?_
    have hp := h.unprotected
    dsimp only at hp
    unfold State.issueHead State.performIssue
    simp only [h.settled, h.ordered, Bool.not_true, Bool.or_self, Bool.false_eq_true, if_false, h.allowed, h.turn, bne_self_eq_false,
      hf, h.clean, hp.1, hp.2]
    rcases h.asked with a | a
    · rw [Option.isNone_iff_eq_none] at a
      rw [a]
    · rw [a]
      cases c.ask <;> rfl
  unfold issueWith
  simp only [h.tile, if_true, h.runs, h.head, h.own.1, Bool.false_or, decide_eq_true_eq, h.own.2, hne, if_false, hi]

theorem issueRow_of_issues {s : State} {n : Nat} {e : Engine} {op : Nat} {c : Cmd} {st : Stream} {x : Entry} {ahead : List Entry}
    (h : Issues s n e op c st x ahead) (hop : op ≠ 0xFF) : issueRow e op c n st s = .next (s.afterIssue n e c st x) :=
  issueWith_of_issues h _ (fun _ => rfl) hop

/-- A packet that is taken is what its row's function makes of it. -/
theorem onPacket_of_takes {s : State} {k : Nat} {p : Packet} (h : Takes s k p) (want : Packet → Bool) (hw : want p = true)
    (f : Packet → State → State) : onPacket k s want f = .next (f p (s.consume k)) := by
  unfold onPacket
  rw [h.there]
  simp only [h.serves, Bool.true_or, Bool.not_true, hw, Bool.or_self, Bool.false_eq_true, if_false, h.fresh]
  cases hd : p.dst with
  | tile n => simp [h.whole n hd]
  | _ => rfl

/-- A message that is heard is what its row's function makes of it. -/
theorem onMessage_of_hears {s : State} {p dl op vc : Nat} {m : Msg} (h : Hears s p dl op vc m) (waits : Msg → State → Bool)
    (hw : waits m s = false) (f : Msg → State → State) :
    onMessage p dl op s waits f = .next (f m (s.takeMsg p (2 * vc + dl) m)) := by
  simp [onMessage, h.port, h.dateline, h.channel, h.head, h.own, h.serves, h.room, h.way, hw]

@[simp] theorem State.countFlight_power (s : State) (src : Requester) : (s.countFlight src).power = s.power := by
  unfold State.countFlight
  split
  · rfl
  · split <;> rfl

/-- A write request that reaches base camp is applied, logged and answered. -/
theorem askWrite_of_asks {s : State} {src : Requester} {i sub : Nat} {bs : List Byte} (h : Asks s src i sub bs) :
    let t := s.countFlight src
    s.askWrite src i sub bs = (t.afterRequest src i sub bs (s.oldValue i sub) (opWrite i sub bs t) (afterWrite i bs)).leaveRom := by
  simp [State.askWrite, h.framed, h.may, State.answerWrite, State.writeFrame, State.fresh?, h.path, h.once, h.room, State.applyWrite, h.mode,
    State.afterRequest]

end Sys2Proof.Machine
end

