-- ==== Sys2Proof/Laws/Ports.lean ====
section
/-!
SUPPORT. Lemmas about flits: the check code of a sealed flit is right, and sealing leaves the fields above it as they were.
-/
namespace Sys2Proof.Machine

theorem flitCrc_lt (w : Nat) : flitCrc w < 2 ^ 32 := BitVec.isLt _

/-- The check code covers the bits above it only. -/
theorem flitCrc_add (w c : Nat) (h : w % 2 ^ 32 = 0) (hc : c < 2 ^ 32) : flitCrc (w + c) = flitCrc w := by
  have : (w + c) >>> 32 = w >>> 32 := by
    rw [Nat.shiftRight_eq_div_pow, Nat.shiftRight_eq_div_pow]; omega
  unfold flitCrc
  rw [this]

theorem sealFlit_toNat (w : Nat) (h : w % 2 ^ 32 = 0) (hw : w < 2 ^ 2048) : (sealFlit w).toNat = w + flitCrc w := by
  have hc := flitCrc_lt w
  have h2 : w + flitCrc w < 2 ^ 2048 := by
    have : w + 2 ^ 32 ≤ 2 ^ 2048 := by
      obtain ⟨k, hk⟩ : ∃ k, w = 2 ^ 32 * k := ⟨w / 2 ^ 32, by omega⟩
      have e : (2 : Nat) ^ 2048 = 2 ^ 32 * 2 ^ 2016 := by rw [← Nat.pow_add]
      rw [e] at hw ⊢
      have : k < 2 ^ 2016 := by
        rw [hk] at hw
        exact Nat.lt_of_mul_lt_mul_left hw
      calc w + 2 ^ 32 = 2 ^ 32 * (k + 1) := by rw [hk, Nat.mul_add, Nat.mul_one]
        _ ≤ 2 ^ 32 * 2 ^ 2016 := Nat.mul_le_mul_left _ this
    omega
  rw [sealFlit, BitVec.toNat_ofNat, Nat.mod_eq_of_lt h2]

/-- A sealed flit passes its check. -/
theorem crcOk_sealFlit (w : Nat) (h : w % 2 ^ 32 = 0) (hw : w < 2 ^ 2048) : crcOk (sealFlit w) = true := by
  have hc := flitCrc_lt w
  rw [crcOk, sealFlit_toNat w h hw, flitCrc_add w _ h hc, decide_eq_true_eq, bits]
  omega

/-- A field above the check code is as it was before the sealing. -/
theorem bits_sealFlit (w hi lo : Nat) (h : w % 2 ^ 32 = 0) (hw : w < 2 ^ 2048) (hl : 32 ≤ lo) :
    bits (sealFlit w).toNat hi lo = bits w hi lo := by
  have hc := flitCrc_lt w
  rw [sealFlit_toNat w h hw, bits, bits]
  have e : (2 : Nat) ^ lo = 2 ^ 32 * 2 ^ (lo - 32) := by rw [← Nat.pow_add]; congr 1; omega
  have : (w + flitCrc w) / 2 ^ lo = w / 2 ^ lo := by
    rw [e, ← Nat.div_div_eq_div_mul, ← Nat.div_div_eq_div_mul]
    congr 1
    omega
  simp only [Nat.shiftRight_eq_div_pow, this]

end Sys2Proof.Machine
end

