-- ==== Sys2Proof/Laws/Power.lean ====
section
/-!
SUPPORT. What the power controller's tick does to ceilings and to the clock setting in effect (spec/15 R476, R481, R482).
-/
namespace Sys2Proof.Machine

theorem lget_map_range (f : Nat → Nat) (k n : Nat) : lget ((List.range k).map f) n 0 = if n < k then f n else 0 := by
  by_cases h : n < k <;> simp [lget, h]

/-- Lowering takes one step of 25 MHz from every ceiling above 400 MHz. -/
theorem Power.ceiling_allLower (p : Power) {n : Nat} (h : n < 2048) : p.allLower.ceiling n = max 400 (p.ceiling n - 25) := by
  simp only [Power.allLower, Power.ceiling, lget_map_range, h, if_true, Power.lower]
  by_cases hc : 400 < max 400 (p.clockLive - 25 * lget p.lowered n 0) <;> simp only [hc, if_true, if_false] <;> omega
/-- Raising gives one step of 25 MHz back to every tile that has lost one. -/
theorem Power.ceiling_allRaise (p : Power) {n : Nat} (h : n < 2048) :
    p.allRaise.ceiling n = max 400 (p.clockLive - 25 * (lget p.lowered n 0 - 1)) := by
  simp only [Power.allRaise, Power.ceiling, lget_map_range, h, if_true]
/-- The clock setting in effect moves whatever the count of low samples. -/
theorem Power.follow_under (p : Power) (u : Nat) : ({ p with under := u } : Power).follow = { p.follow with under := u } := by
  simp only [Power.follow]; (repeat' split) <;> rfl
/-- A tick over the limit: ceilings go down, or where all are at 400 MHz over_limit is set. -/
theorem Power.control_over (p : Power) (w : Nat) (h : p.limit < w) : p.control w =
    if (List.range 2048).all fun n => p.ceiling n = 400 then { p with under := 0, status := p.status ||| 2#64 }
    else ({ p with under := 0 } : Power).allLower := by
  simp only [Power.control, h, if_true]
/-- A tick at or under the limit moves ceilings up alone, and only with the tenth below 97 % of it. -/
theorem Power.control_under (p : Power) (w : Nat) (h : w ≤ p.limit) : p.control w =
    if w * 100 < p.limit * 97 then
      if p.under = 9 ∧ p.follow.clockLive = p.clockLive then ({ p with under := 0 } : Power).allRaise
      else { p.follow with under := (p.under + 1) % 10 }
    else { p.follow with under := 0 } := by
  have h0 : ¬ p.limit < w := by omega
  simp only [Power.control, h0, if_false, Power.follow_under, Bool.and_eq_true, decide_eq_true_eq]
  split
  · split <;> rename_i hc
    · rw [hc.1]
    · rfl
  · rfl

end Sys2Proof.Machine
end

