-- ==== Sys2Proof/Tests/Slice0.lean ====
section
/-!
SUPPORT. Tests of the model: what WellFormed refuses, what the control core's words decode to, single steps with results worked out
from the rules, and for each statement of Certificates/Slice0/Obligations.lean states and operands that meet its hypotheses.
-/
namespace Sys2Proof.Tests
open Sys2Proof.Machine
set_option maxRecDepth 8000
set_option exponentiation.threshold 2100

/-! ## Small states -/

/-- A rectangle team: its context, its north-west tile, its width and height. -/
def rect (c x y w h : Nat) : BitVec 128 :=
  BitVec.ofNat 128 (pack [(2, 1), (1, 0), (1, 0), (8, c), (12, 0), (12, 0), (12, 0), (16, 0), (11, 64 * y + x), (6, x), (5, y),
    (6, w - 1), (5, h - 1), (12, w * h), (19, 0)])

/-- A module in SERVICE: context 1 on tiles 0 and 1, with all tallies and reductions of the device in reach, and channel 1. -/
def base : State := {
  power := { state := 2, mainOk := true, backupOk := true, slots := 8 }
  service := { state := 1 }
  teams := [(0, deviceTeam), (1, rect 1 0 0 2 1)]
  ctxs := [(1, { state := 1, gtallyGrant := 0x0000FFFF#32, ridGrant := 0x00001000#32 })]
  chans := [(1, { live := some 1 })] }

def chan1 : Word := 0x00010001#32

/-- Tile 0's fwd thread at the instruction word w, its thread changed by g. -/
def core (w : Nat) (g : Thread → Thread := id) : State :=
  base.modTile 0 fun t => { t with
    imem0 := pokes 0 (natLE 4 w) [], threads := t.threads.set .fwd (g { run := .run, channel := chan1, ctx := 1 }) }

/-- A thread with x1 and x2. -/
def regs (a b : Word) (t : Thread) : Thread := (t.setReg 1 a).setReg 2 b

/-- A command word of an engine, an opcode and a payload. -/
def word (e o p : Nat) (st : Nat := 0) (noSws : Nat := 0) (pmode : Nat := 0) : BitVec 128 :=
  BitVec.ofNat 128 (pack [(16, 7), (8, o), (3, e), (2, st), (1, 0), (1, noSws), (2, pmode), (4, 0), (1, 0), (12, 0), (1, 0), (1, 0), (16, 0),
    (4, 0), (56, p)])

/-- The state that a command leaves, where it answers a next state. -/
def after (i : Instr) (s : State) : Option State :=
  match exec i s with
  | .next t => some t
  | _ => none

/-! ## What WellFormed refuses -/

theorem test_wellFormed_tile : [Instr.rvInstruction 2048 .fwd, .mma 2048 .fwd, .move 2048 .fwd .clean, .nop 2048 .matrix .fwd,
    .laneReservationGrant 2048, .islandFreqStep 2048 true, .dribbleStepDown 2048 0, .whistleFire 2048 0, .tileHardwareFault 2048 0,
    .faultRecordClear .service 2048 .fwd].all (fun i => !i.wellFormed) = true := by decide
theorem test_wellFormed_fields : [Instr.dribbleStepDown 0 4, .whistleFire 0 24, .tileHardwareFault 0 4, .snapShip 4096, .reductionDone 4096,
    .huddleNextRoundClose 1024, .patrolScrub 8 false 0 .clean, .patrolScrub 0 false 16 .clean, .contextReset 256,
    .quiesceTimeout 256 0, .quiesceTimeout 0 0x808, .quiesceTimeout 0 0x814, .seamTransferError 52 0, .seamFailed 0 2,
    .dieCheckerFire 15, .dieCheckerFire 28, .logHopDrop 0x1000 1, .logHopDrop 0 3].all (fun i => !i.wellFormed) = true := by decide
theorem test_wellFormed_ports : [Instr.flitTransmit 12, .portTrainStart 12, .init 12 0, .messageFlit 12 0 true,
    .equalisationOutOfLimits 12 0, .equalisationOutOfLimits 0 5, .rd 12 0 .clean, .rd 0 2 .clean, .wr 12 0,
    .trace 0 2].all (fun i => !i.wellFormed) = true := by decide
theorem test_wellFormed_requests : [Instr.read (.window 64) 0 0 0, .read .service 65536 0 0, .read .service 0 256 0,
    .read .service 0 0 (2 ^ 32), .discover (.queue 0 16), .notifyResend 8, .winGo 64 0,
    .winGo 0 (2 ^ 32), .ctxCreate .service 256, .teamCreate (.window 64) 0, .chanDestroy (.queue 64 0) 0, .jobSubmit .service (2 ^ 64),
    .jobCancel .service (2 ^ 32), .dumpRequest (.window 64) 0, .epochClear .service 256,
    .portRetrain .service 12, .fwStageUpload .service 256, .svnCommit .service 4 0, .svnCommit .service 0 256,
    .attestNonce (.window 64) 0].all (fun i => !i.wellFormed) = true := by decide
theorem test_wellFormed_host : [Instr.bar0RegisterWrite 64 0 0, .bar0RegisterWrite 0 0x4000000 0, .ringDb 0 16 0 [], .ringDb 0 0 4096 [],
    .start 64 0, .hcopy 0 16 [] .clean, .hcopyDone 64 0 0, .tallyDb 0 65536 0, .bar2Read 0 (2 ^ 36) 1 .clean, .bar2Read 0 0 0 .clean,
    .bar2Write 0 0 [], .doeDiscovery 0 256, .doeAttest 64 [], .serviceComplexStop 4 true,
    .thermalSample [(2060, 20)]].all (fun i => !i.wellFormed) = true := by decide
theorem test_wellFormed_passes : [Instr.rvInstruction 2047 .upd, .dribbleStepDown 0 3, .whistleFire 0 23, .snapShip 4095, .contextReset 255,
    .quiesceTimeout 0 0x813, .seamFailed 51 1, .dieCheckerFire 27, .rd 11 1 .clean, .write .service 65535 255 [],
    .ringDb 63 15 4095 [], .bar2Write 0 (2 ^ 36 - 1) [0]].all Instr.wellFormed = true := by decide

theorem test_wellFormed_lengths : (Instr.write .service 0 0 (List.replicate 1025 0)).wellFormed = false ∧
    (Instr.fwUpload .service (List.replicate 1025 0)).wellFormed = false := by
  constructor
  · show (true && true && decide ((List.replicate 1025 (0 : Byte)).length ≤ 1024)) = false
    rw [List.length_replicate]; rfl
  · show (true && decide ((List.replicate 1025 (0 : Byte)).length ≤ 1024)) = false
    rw [List.length_replicate]; rfl

/-! ## What the control core's words decode to -/

/-- Words written out from RV32IMC's encodings. -/
theorem test_decode_rv32 :
    decode32 0xFFFFFFB7 = .lui 31 0xFFFFF000 ∧ decode32 0x80000097 = .auipc 1 0x80000000 ∧ decode32 0xFFDFF0EF = .jal 1 (-4) ∧
    decode32 0x001080E7 = .jalr 1 1 1 ∧ decode32 0xFE208CE3 = .branch 0 1 2 (-8) ∧ decode32 0x0020F463 = .branch 7 1 2 8 ∧
    decode32 0x0000A183 = .load 2 3 1 0 ∧ decode32 0xFE20AE23 = .store 2 1 2 (-4) ∧ decode32 0xFFF10093 = .opImm 0 false 1 2 (-1) ∧
    decode32 0x4020D193 = .opImm 5 true 3 1 2 ∧ decode32 0x402081B3 = .op 0 true 3 1 2 ∧ decode32 0x0220C1B3 = .mul 4 3 1 2 ∧
    decode32 0x0FF0000F = .fence ∧ decode32 0x0000100F = .undef ∧ decode32 0x10500073 = .undef ∧ decode32 0x00000073 = .ecall ∧
    decode32 0x00100073 = .ebreak ∧ decode32 0x0000B183 = .undef := by decide
theorem test_decode_rv32c :
    decode16 0x0000 = .undef ∧ decode16 0x4501 = .opImm 0 false 10 0 0 ∧ decode16 0x4398 = .load 2 14 15 0 ∧
    decode16 0x8082 = .jalr 0 1 0 ∧ decode16 0x9002 = .ebreak ∧ decode16 0x95BE = .op 0 false 11 11 15 ∧
    decode16 0x1141 = .opImm 0 false 2 2 (-16) ∧ decode16 0xA001 = .jal 0 0 ∧ decode16 0xC606 = .store 2 2 1 12 := by decide
/-- Words of custom-0 and custom-1 written out from 02 R56's table. -/
theorem test_decode_custom :
    decode32 0x0200800B = .cstW 1 1 ∧ decode32 0x0000900B = .cld 1 ∧ decode32 0x0020A00B = .cpush 1 2 ∧
    decode32 0x0220A18B = .cpushnb 3 1 2 ∧ decode32 0x0A00318B = .qfree 3 5 ∧ decode32 0x0E00400B = .cdrain 7 ∧
    decode32 0x0000518B = .sumrd 3 ∧ decode32 0x0000600B = .imswap ∧ decode32 0x0000700B = .park ∧
    decode32 0x082087AB = .pcmp 4 15 1 2 ∧ decode32 0x043110AB = .plog 2 1 2 3 ∧ decode32 0x0000A7AB = .pset 15 1 ∧
    decode32 0x0007B1AB = .pmv 3 15 ∧ decode32 0x000041AB = .prd 3 ∧ decode32 0x0200C02B = .pwr 1 ∧
    decode32 0x0020D02B = .ctwait 1 2 ∧ decode32 0x0400802B = .undef ∧ decode32 0x0000F00B = .undef := by decide
/-- No word spells a command (log 6). -/
theorem test_no_word_spells_a_command : decodeTableWord 0 0 = none ∧ State.reset.withFetchWord 8 0xFF = State.reset := ⟨rfl, rfl⟩

/-! ## The machine -/

theorem witness_SafeStatesStaySafe : State.reset.Safe ∧ ({ base with pending := [.mainGood] } : State).Safe :=
  ⟨⟨rfl, by simp [State.QueueOk, State.reset], by decide⟩, ⟨rfl, fun c hc => by rw [List.mem_singleton.mp hc]; rfl, by decide⟩⟩
theorem witness_EmptyQueueLetsTimePass : base.pending = [] ∧ base.trouble.transit = [] ∧ base.fns = [] ∧ base.trouble.repeats = [] ∧
    base.panel.held ≠ 2 ∧ base.service.jobs = [] := by decide
theorem witness_EveryWellFormedCommandAnswers : (Instr.rvInstruction 0 .fwd).wellFormed = true := by decide
theorem witness_PlacesTheModuleLacksFault : exec (.mma 2048 .fwd) base = .fault .noSuchPlace ∧ exec (.flitTransmit 12) base = .fault .noSuchPlace ∧
    exec (.hsig 64 0) base = .fault .noSuchPlace ∧ exec (.start 0 16) base = .fault .noSuchPlace ∧ exec (.contextReset 256) base = .fault .noSuchPlace ∧
    exec (.snapShip 4096) base = .fault .noSuchPlace ∧ exec (.huddleNextRoundClose 1024) base = .fault .noSuchPlace ∧
    exec (.seamFailed 52 0) base = .fault .noSuchPlace ∧ exec (.dieCheckerFire 15) base = .fault .noSuchPlace :=
  ⟨rfl, rfl, rfl, rfl, rfl, rfl, rfl, rfl, rfl⟩
theorem witness_FusesNeverFall : ∃ t, step State.reset = .next t := ⟨_, rfl⟩
theorem witness_EveryCommandLeavesTheRest : ∃ t, exec .backupGood { State.reset with power := { mainOk := true } } = .next t := ⟨_, rfl⟩

/-! ## The control core -/

def runsB (s : State) (n : Nat) (st : Stream) (op : RvOp) (len : Nat) : Bool :=
  decide (n < 2048) && s.threadRuns n st && decide (s.current n st = some (op, len))
theorem runs_of {s : State} {n : Nat} {st : Stream} {op : RvOp} {len : Nat} (h : runsB s n st op len = true) : Runs s n st op len := by
  simp only [runsB, Bool.and_eq_true, decide_eq_true_eq] at h
  exact ⟨h.1.1, h.1.2, h.2⟩
/-- The word w runs as op on tile 0's fwd thread, changed by g. -/
def coreRuns (w : Nat) (op : RvOp) (len : Nat := 4) (g : Thread → Thread := id) : Prop := Runs (core w g) 0 .fwd op len
def waits (what : WaitAt) (t : Thread) : Thread := { t with run := .wait, waitAt := some what }
theorem waits_of {s : State} {n : Nat} {st : Stream} {what : WaitAt} {op : RvOp} {len : Nat}
    (h : (decide (n < 2048) && decide (s.waiting n st what = some (op, len))) = true) : WaitsAt s n st what op len := by
  simp only [Bool.and_eq_true, decide_eq_true_eq] at h
  exact ⟨h.1, h.2⟩

/-- The fwd thread of tile 0 after an instruction. -/
def threadAfter (i : Instr) (s : State) : Option Thread := (after i s).map fun t => t.thread 0 .fwd
def regAfter (w : Nat) (j : Nat) (a b : Word) : Option Word :=
  (threadAfter (.rvInstruction 0 .fwd) (core w (regs a b))).map fun t => t.reg j

theorem witness_ComputingInstructionsRetire : coreRuns 0xFFFFFFB7 (.lui 31 0xFFFFF000) ∧ coreRuns 0x80000097 (.auipc 1 0x80000000) ∧
    coreRuns 0xFFF10093 (.opImm 0 false 1 2 (-1)) ∧ coreRuns 0x00208033 (.op 0 false 0 1 2) ∧ coreRuns 0x0220C1B3 (.mul 4 3 1 2) ∧
    coreRuns 0x4501 (.opImm 0 false 10 0 0) 2 :=
  ⟨runs_of (by decide), runs_of (by decide), runs_of (by decide), runs_of (by decide), runs_of (by decide), runs_of (by decide)⟩
theorem test_compute : regAfter 0xFFFFFFB7 31 0 0 = some 0xFFFFF000#32 ∧ regAfter 0x80000097 1 0 0 = some (0x80100000#32) ∧
    regAfter 0xFFF10093 1 0 0 = some 0xFFFFFFFF#32 ∧ regAfter 0x00208033 0 1 1 = some 0#32 ∧
    regAfter 0x002081B3 3 0xFFFFFFFF#32 2 = some 1#32 ∧ regAfter 0x4020D193 3 0x80000004#32 0 = some 0xE0000001#32 := by decide
/-- RV32M's defined corners: a division by zero and the one signed overflow. -/
theorem test_divide : regAfter 0x0220C1B3 3 5 0 = some 0xFFFFFFFF#32 ∧ regAfter 0x0220E1B3 3 5 0 = some 5#32 ∧
    regAfter 0x0220C1B3 3 0x80000000#32 0xFFFFFFFF#32 = some 0x80000000#32 ∧ regAfter 0x0220E1B3 3 0x80000000#32 0xFFFFFFFF#32 = some 0#32 ∧
    regAfter 0x0220C1B3 3 0xFFFFFFF9#32 2 = some 0xFFFFFFFD#32 := by decide

theorem witness_JumpsAndBranchesRetire : coreRuns 0xFFDFF0EF (.jal 1 (-4)) ∧ coreRuns 0x001080E7 (.jalr 1 1 1) ∧
    coreRuns 0xFE208CE3 (.branch 0 1 2 (-8)) ∧ coreRuns 0x0020F463 (.branch 7 1 2 8) :=
  ⟨runs_of (by decide), runs_of (by decide), runs_of (by decide), runs_of (by decide)⟩
theorem test_jumps : let pc (w : Nat) (a b : Word) := (threadAfter (.rvInstruction 0 .fwd) (core w (regs a b))).map fun t => (t.pc, t.reg 1)
    pc 0xFFDFF0EF 0 0 = some (0xFFFFC#32, 0x100004#32) ∧ pc 0x001080E7 0x20100 0 = some (0x20100#32, 0x100004#32) ∧
    pc 0xFE208CE3 7 7 = some (0xFFFF8#32, 7#32) ∧ pc 0xFE208CE3 7 8 = some (0x100004#32, 7#32) ∧
    pc 0x0020F463 0xFFFFFFFF 1 = some (0x100008#32, 0xFFFFFFFF#32) := by decide

/-- A word load from an address at each end of each range, and byte and halfword loads at the last place. -/
theorem witness_LoadsRetire :
    ([0#32, 0x1FFFC#32, 0x400000#32, 0x7FFFFC#32, 0x800000#32, 0x800020#32].all fun a =>
      runsB (core 0x0000A183 (regs a 0)) 0 .fwd (.load 2 3 1 0) 4) = true ∧
    runsB (core 0x00008183 (regs 0x7FFFFF 0)) 0 .fwd (.load 0 3 1 0) 4 = true ∧
    runsB (core 0x0000D183 (regs 0x1FFFE 0)) 0 .fwd (.load 5 3 1 0) 4 = true ∧
    base.guardBad (base.owner 0) .fwd false (tileBase 0) 4 = none ∧
    base.guardBad (base.owner 0) .fwd false (tileBase 0 + 0x3FFFFC) 4 = none ∧
    base.badBlock (tileBase 0 + 0x3FFFFC) 4 = none ∧ (base.tile 0).coreBlock 0 0x1FFFC 4 = none := by decide
theorem test_loads : let s (a : Word) (w : Nat) := (core w (regs a 0)).modTile 0 fun t => { t with dmem := pokes 0x1FFFC [1, 2, 3, 0x84] [] }
    let r (a : Word) (w : Nat) := (threadAfter (.rvInstruction 0 .fwd) (s a w)).map fun t => t.reg 3
    r 0x1FFFC 0x0000A183 = some 0x84030201#32 ∧ r 0x1FFFF 0x00008183 = some 0xFFFFFF84#32 ∧ r 0x1FFFF 0x0000C183 = some 0x84#32 ∧
    r 0x1FFFE 0x00009183 = some 0xFFFF8403#32 ∧ r 0x800008 0x0000A183 = some 1#32 ∧ r 0x80000C 0x0000A183 = some chan1 := by decide

theorem witness_StoresRetire :
    ([0#32, 0x1FFFC#32, 0x80000C#32].all fun a => runsB (core 0x0020A023 (regs a 7)) 0 .fwd (.store 2 1 2 0) 4) = true ∧
    runsB (core 0x00208023 (regs 0x1FFFF 7)) 0 .fwd (.store 0 1 2 0) 4 = true ∧ (base.tile 0).coreBlock 0 0x1FFFF 1 = none := by decide
theorem test_stores : ((after (.rvInstruction 0 .fwd) (core 0x00209023 (regs 0x1FFFE 0x8765))).map fun t => (t.tile 0).dmem) =
      some [(0x1FFFE, 0x65#8), (0x1FFFF, 0x87#8)] ∧
    (threadAfter (.rvInstruction 0 .fwd) (core 0x0020A023 (regs 0x80000C 9))).map (·.channel) = some 9#32 := by decide

theorem witness_WindowStoresReachMemory :
    ([0x400000#32, 0x7FFFFC#32].all fun a => runsB (core 0x0020A023 (regs a 7)) 0 .fwd (.store 2 1 2 0) 4) = true ∧
    (∀ d ∈ [0, 0x3FFFFC], base.guardBad (base.owner 0) .fwd true (tileBase 0 + d) 4 = none ∧ base.extentBad 0 d (natLE 4 7) = false ∧
      base.reserveRoom (writerOf base 0 .fwd) (tileBase 0 + d) 4 = true ∧
      base.landErr (writerOf base 0 .fwd) (tileBase 0 + d) (natLE 4 7) = none) := by decide
theorem test_window_store : ((after (.rvInstruction 0 .fwd) (core 0x0020A023 (regs 0x400010 0x01020304))).map fun t =>
    peeks t.mem (tileBase 0 + 16) 4) = some [4#8, 3#8, 2#8, 1#8] := by decide

theorem witness_RefusedInstructionsHalt : recordValid ((base.tile 0).records.get .fwd) = false ∧
    ([0x1FFFE#32, 0x3FFFFF#32, 0x800024#32, 0x1FFF9#32, 0x400002#32, 0x7FFFFE#32, 0x800022#32, 0x80001E#32, 0x80000E#32].all fun a =>
      runsB (core 0x0000A183 (regs a 0)) 0 .fwd (.load 2 3 1 0) 4 && runsB (core 0x0020A023 (regs a 0)) 0 .fwd (.store 2 1 2 0) 4) = true ∧
    runsB (core 0x00008183 (regs 0x800000 0)) 0 .fwd (.load 0 3 1 0) 4 = true ∧
    runsB (core 0x00208023 (regs 0x80000C 0)) 0 .fwd (.store 0 1 2 0) 4 = true ∧ coreRuns 0x10500073 .undef ∧
    (core 0 fun t => { t with pc := 0x10FFFF }).threadRuns 0 .fwd = true ∧
    (core 0 fun t => { t with pc := 0x10FFFF }).current 0 .fwd = none ∧ (core 0 fun t => { t with pc := 0x10FFFF }).fetchBad 0 .fwd = none :=
  ⟨by decide, by decide, by decide, by decide, runs_of (by decide), by decide, by decide, by decide⟩
def halts (i : Instr) (s : State) (reason a : Nat) : Prop := exec i s = .next (s.coreHalt 0 .fwd reason a 0)
/-- Reasons of the halts of 02 R53 and R55, and the fetch outside the bank. -/
theorem test_halt_reasons :
    halts (.rvInstruction 0 .fwd) (core 0x0000A183 (regs 0x1FFFE 0)) 0x03 (0x1FFFE#32 + BitVec.ofInt 32 0).toNat ∧
    halts (.rvInstruction 0 .fwd) (core 0x0000A183 (regs 0x1FFFA 0)) 0x02 (0x1FFFA#32 + BitVec.ofInt 32 0).toNat ∧
    halts (.rvInstruction 0 .fwd) (core 0x10500073) 0x01 0 ∧
    halts (.rvInstruction 0 .fwd) (core 0 fun t => { t with pc := 0x10FFFF }) 0x04 (0x10FFFF#32).toNat ∧
    halts (.ecall 0 .fwd) (core 0x73) 0x06 0 ∧ halts (.ebreak 0 .fwd) (core 0x100073) 0x05 0 :=
  ⟨rfl, rfl, rfl, rfl, rfl, rfl⟩
/-- Accesses at the edges of the ranges. -/
theorem test_halt_edges : let r (w : Nat) (a : Word) := (threadAfter (.rvInstruction 0 .fwd) (core w (regs a 0))).map fun t => t.haltBy
    r 0x0000A183 0x7FFFFE = some 3 ∧ r 0x0000A183 0x800022 = some 3 ∧ r 0x0000A183 0x80001E = some 2 ∧ r 0x00208023 0x80000C = some 3 := by
  decide
theorem test_halt_record : let s := base.coreHalt 0 .fwd 0x02 0x1234 0
    (s.thread 0 .fwd).run = .halt ∧ recordReason ((s.tile 0).records.get .fwd) = 0x02 := by
  refine ⟨rfl, ?_⟩
  exact (halted_coreHalt base 0 .fwd 0x02 0x1234 0 (by decide) (by decide) (by decide)).reason

theorem witness_FenceEcallEbreakAndDivision : coreRuns 0x0FF0000F .fence ∧ coreRuns 0x73 .ecall ∧ coreRuns 0x100073 .ebreak ∧
    coreRuns 0x0000100F .undef ∧ coreRuns 0x0220C1B3 (.mul 4 3 1 2) 4 (regs 5 0) ∧
    coreRuns 0x0220E1B3 (.mul 6 3 1 2) 4 (regs 0x80000000#32 0xFFFFFFFF#32) ∧ recordValid ((base.tile 0).records.get .fwd) = false :=
  ⟨runs_of (by decide), runs_of (by decide), runs_of (by decide), runs_of (by decide), runs_of (by decide), runs_of (by decide), by decide⟩
theorem test_fence : (threadAfter (.rvFence 0 .fwd) (core 0x0FF0000F)).map (·.pc) = some 0x100004#32 := by decide

theorem witness_RegisterInstructionsRetire : coreRuns 0x082087AB (.pcmp 4 15 1 2) ∧ coreRuns 0x043110AB (.plog 2 1 2 3) ∧
    coreRuns 0x0000A7AB (.pset 15 1) ∧ coreRuns 0x0007B1AB (.pmv 3 15) ∧ coreRuns 0x000041AB (.prd 3) ∧ coreRuns 0x0200C02B (.pwr 1) ∧
    coreRuns 0x0600800B (.cstW 3 1) ∧ coreRuns 0x0000900B (.cld 1) 4 (regs 0x1FFF0 0) ∧ coreRuns 0x0A00318B (.qfree 3 5) ∧
    (base.tile 0).coreBlock 0 0x1FFF0 16 = none :=
  ⟨runs_of (by decide), runs_of (by decide), runs_of (by decide), runs_of (by decide), runs_of (by decide), runs_of (by decide),
    runs_of (by decide), runs_of (by decide), runs_of (by decide), by decide⟩
theorem test_predicates : let p (i : Instr) (w : Nat) (a b : Word) := (threadAfter i (core w (fun t => { regs a b t with preds := 0x000C }))).map (·.preds)
    p (.pcmp 0 .fwd) 0x082087AB 0xFFFFFFFF#32 0 = some 0x800C#16 ∧ p (.plog 0 .fwd) 0x043110AB 0 0 = some 0x000C#16 ∧
    p (.pset 0 .fwd) 0x0000A7AB 2 0 = some 0x800C#16 ∧ p (.pwr 0 .fwd) 0x0200C02B 0x12345 0 = some 0x2345#16 := by decide
theorem test_reads_of_predicates : let r (i : Instr) (w : Nat) := (threadAfter i (core w (fun t => { t with preds := 0x800C }))).map (·.reg 3)
    r (.pmv 0 .fwd) 0x0007B1AB = some 1#32 ∧ r (.prd 0 .fwd) 0x000041AB = some 0x800C#32 ∧ r (.qfree 0 .fwd) 0x0A00318B = some 512#32 := by decide
theorem test_staging : (threadAfter (.cstW 0 .fwd) (core 0x0600800B (regs 0xAABBCCDD#32 0))).map (·.staging) =
      some (0xAABBCCDD000000000000000000000000#128) ∧
    ((after (.cld 0 .fwd) ((core 0x0000900B (regs 16 0)).modTile 0 fun t => { t with dmem := pokes 16 [1, 2] [] })).map
      fun t => (t.thread 0 .fwd).staging) = some 0x201#128 ∧
    ((after (.cld 0 .fwd) (core 0x0000900B (regs 8 0))).map fun t => (t.thread 0 .fwd).run) = some .halt := by decide

/-- Pushes: with room, with a condition that fails and places nothing (a true predicate wanted, no_sws), and with no room. -/
def staged (w : BitVec 128) (t : Thread) : Thread := { t with staging := w }
def pushed : BitVec 128 := word 3 1 5
def dropped : BitVec 128 := word 3 1 5 0 1 1
/-- A vector FENCE for every tile of team 1, from the fwd stream of tile 0. -/
def teamWord : BitVec 128 := BitVec.ofNat 128 (pack [(16, 7), (8, 0xF3), (3, 1), (2, 0), (2, 0), (2, 0), (4, 0), (1, 1), (12, 1), (1, 0), (1, 0), (16, 0),
  (4, 0), (56, 0)])
/-- The thread at w with its staged word, and 512 commands in its route queue. -/
def crowded (w : Nat) : State :=
  (core w (staged pushed)).modQueue 0 .route .fwd fun q => { q with entries := List.replicate 512 { uid := 5, word := 0, s0 := 0, s1 := 0, chan := 0, skip := false } }
theorem witness_PushesPlaceCommands :
    base.headerBad (base.owner 0) .fwd { run := .run, channel := chan1, staging := pushed } = none ∧
    base.headerBad (base.owner 0) .fwd { run := .run, channel := chan1, staging := dropped } = none ∧
    (core 0x0020A00B (staged pushed)).pushRoom 0 .fwd pushed = true ∧ ((core 0x0020A00B).tile 0).switching.contains .fwd = false ∧
    wTeam pushed = false ∧ predHolds (wPmode pushed) (wPred pushed) 0 = true ∧
    (predHolds (wPmode dropped) (wPred dropped) 0 || !wNoSws dropped) = false ∧
    coreRuns 0x0020A00B (.cpush 1 2) 4 (staged pushed) ∧ coreRuns 0x0220A18B (.cpushnb 3 1 2) 4 (staged dropped) ∧
    WaitsAt (core 0x0020A00B (fun t => waits .push (staged pushed t))) 0 .fwd .push (.cpush 1 2) 4 ∧
    (crowded 0x0020A00B).pushRoom 0 .fwd pushed = false ∧ Runs (crowded 0x0020A00B) 0 .fwd (.cpush 1 2) 4 ∧
    Runs (crowded 0x0220A18B) 0 .fwd (.cpushnb 3 1 2) 4 ∧
    (base.headerBad (base.owner 0) .fwd { run := .run, channel := chan1, staging := teamWord } = none ∧ wTeam teamWord = true ∧
      (core 0x0020A00B (staged teamWord)).pushRoom 0 .fwd teamWord = true ∧ predHolds (wPmode teamWord) (wPred teamWord) 0 = true) ∧
    coreRuns 0x0020A00B (.cpush 1 2) 4 (staged teamWord) :=
  ⟨by decide, by decide, by decide, by decide, by decide, by decide, by decide, runs_of (by decide), runs_of (by decide),
    waits_of (by decide), by decide, runs_of (by decide), runs_of (by decide), by decide, runs_of (by decide)⟩
theorem test_push_dispatch : ((after (.cpush 0 .fwd) (core 0x0020A00B (fun t => regs 7 8 (staged teamWord t)))).map fun t =>
    (((t.tile 0).dispatch.get .fwd).map fun d => (d.entry.word, d.entry.s0), (t.queue 0 .vector .fwd).entries.length)) =
    some ([(teamWord, 7#32)], 0) := by decide
theorem test_push_entry : ((after (.cpush 0 .fwd) (core 0x0020A00B (fun t => regs 7 8 (staged pushed t)))).map fun t =>
    (t.queue 0 .route .fwd).entries.map fun x => (x.word, x.s0, x.s1, x.skip)) = some [(pushed, 7#32, 8#32, false)] := by decide
theorem test_push_dropped : ((after (.cpushnb 0 .fwd) (core 0x0220A18B (staged dropped))).map fun t =>
    ((t.queue 0 .route .fwd).entries.length, (t.thread 0 .fwd).reg 3)) = some (0, 1#32) := by decide

theorem witness_WaitingInstructionsRetire :
    (core 0x0E00400B).drained 0 .fwd 7 = true ∧ coreRuns 0x0E00400B (.cdrain 7) ∧
    WaitsAt (core 0x0E00400B (waits .cdrain)) 0 .fwd .cdrain (.cdrain 7) 4 ∧
    (crowded 0x0600400B).drained 0 .fwd 3 = false ∧ Runs (crowded 0x0600400B) 0 .fwd (.cdrain 3) 4 ∧
    coreRuns 0x0000518B (.sumrd 3) 4 (fun t => { t with sums := [⟨5, 0, some 9⟩] }) ∧
    WaitsAt (core 0x0000518B (fun t => { waits .sumrd t with sums := [⟨5, 0, some 9⟩] })) 0 .fwd .sumrd (.sumrd 3) 4 ∧
    coreRuns 0x0000518B (.sumrd 3) 4 (fun t => { t with sums := [⟨5, 0, none⟩] }) ∧
    coreRuns 0x0020D02B (.ctwait 1 2) 4 (regs 255 1) ∧ coreRuns 0x0020D02B (.ctwait 1 2) 4 (regs 0x1FFFE 1) ∧
    base.gtallyOk (base.owner 0) 65534 = true :=
  ⟨by decide, runs_of (by decide), waits_of (by decide), by decide, runs_of (by decide), runs_of (by decide), waits_of (by decide),
    runs_of (by decide), runs_of (by decide), runs_of (by decide), by decide⟩
theorem test_waiting : let th (i : Instr) (w : Nat) (g : Thread → Thread) := (threadAfter i (core w g)).map fun t => (t.run, t.reg 3, t.pc)
    th (.sumrd 0 .fwd) 0x0000518B (fun t => { t with sums := [⟨5, 0, some 9⟩] }) = some (.run, 9, 0x100004) ∧
    th (.sumrd 0 .fwd) 0x0000518B (fun t => { t with sums := [⟨5, 0, none⟩] }) = some (.wait, 0, 0x100000) ∧
    th (.cdrainResume 0 .fwd) 0x0E00400B (waits .cdrain) = some (.run, 0, 0x100004) ∧
    th (.ctwait 0 .fwd) 0x0020D02B (regs 255 1) = some (.wait, 0, 0x100000) := by decide

theorem witness_ParkAndBankSwitch : coreRuns 0x0000700B .park ∧ coreRuns 0x0000600B .imswap ∧ ((core 0x0000600B).tile 0).switching = [] ∧
    (core 0x0000600B).bankWriteInFlight 0 1 = false ∧
    Runs ((core 0x0000600B).modTile 0 fun t => { t with switching := [.bwd] }) 0 .fwd .imswap 4 ∧
    recordValid (((core 0x0000600B).tile 0).records.get .fwd) = false :=
  ⟨runs_of (by decide), runs_of (by decide), by decide, by decide, runs_of (by decide), by decide⟩
theorem test_imswap : ((after (.imswap 0 .fwd) ((core 0x0000600B).modTile 0 fun t => { t with imem1 := pokes 0 [0x40#8] [] })).map fun t =>
    ((t.tile 0).targetBank, (t.thread 0 .fwd).bank, (t.thread 0 .fwd).pc, (t.thread 0 .bwd).bank)) =
    some (1, 1, 0x100040#32, 1) := by decide
theorem test_park : (threadAfter (.park 0 .fwd) (core 0x0000700B)).map (fun t => (t.run, t.pc)) = some (.park, 0x100004) := by decide

/-- A packet in flight to tile n, from tile 1 unless said, on channel 1. -/
def packet (body : Body) (dst : Place := .tile 0) (src : Place := .tile 1) (entry : Nat := 5) : Packet :=
  { uid := 77, ctx := 1, epoch := 0, chan := chan1, src := src, dst := dst, entry := entry, body := body }
def carrying (p : Packet) (s : State := base) : State := { s with net := [p] }
def takesB (s : State) (k : Nat) (p : Packet) : Bool :=
  decide (s.arrival k = some p) && s.serving && !(s.consume k).stale p && (match p.dst with | .tile n => !(s.tile n).faulty | _ => true)
theorem takes_of {s : State} {k : Nat} {p : Packet} (h : takesB s k p = true) : Takes s k p := by
  simp only [takesB, Bool.and_eq_true, decide_eq_true_eq, Bool.not_eq_true'] at h
  refine ⟨h.1.1.1, h.1.1.2, h.1.2, fun n hn => ?_⟩
  have := h.2
  rw [hn] at this
  simpa using this
theorem witness_StartHaltAndResumeThread : (carrying (packet (.start .fwd))).arrival 0 = some (packet (.start .fwd)) ∧
    (carrying (packet (.start .fwd))).stale (packet (.start .fwd)) = false ∧ base.alive 0 = true ∧ (base.thread 0 .fwd).run = .park ∧
    base.notResetting (base.owner 0) = true ∧ recordValid ((base.tile 0).records.get .fwd) = false ∧
    (core 0x100073).current 0 .fwd = some (.ebreak, 4) := by decide
/-- A thread halted for the reason r, with a valid record of it, that ran or was something else before, and may have to enter its bank. -/
def stopped (r : Nat) (was : RunState := .run) (atEntry : Bool := false) : State := (core 0x100073 fun t => { t with
  run := .halt, haltBy := r, was := was, atEntry := atEntry, waitAt := if was = .wait then some .cdrain else none }).modTile 0 fun t => { t with
  records := t.records.set .fwd (BitVec.ofNat 256 (2 ^ 255 + r * 2 ^ 247)) }
theorem witness_StartHaltAndResumeThread_resume :
    ([(0x42, .run), (0x42, .wait), (0x05, .run), (0x42, .park), (0x10, .run)].all fun w => let th := (stopped w.1 w.2).thread 0 .fwd
      (stopped w.1 w.2).alive 0 && th.run = .halt && th.haltBy = w.1 && th.was = w.2 && !th.atEntry && th.waitAt != some .ctwait) = true ∧
    (stopped 5).current 0 .fwd = some (.ebreak, 4) ∧ resumable 0x42 = true ∧ resumable 5 = true ∧ resumable 0x10 = false ∧
    ((stopped 0x42 .run true).thread 0 .fwd).atEntry = true := by decide
theorem test_start : ((after (.threadStart 0) (carrying (packet (.start .fwd)))).map fun t => (t.net.length, (t.thread 0 .fwd).run,
    (t.thread 0 .fwd).pc)) = some (0, .run, 0x100000#32) := by decide
theorem test_resume : (threadAfter (.debugResume 0 .fwd) (stopped 0x42)).map (fun t => (t.run, t.pc)) = some (.run, 0x100000) ∧
    (threadAfter (.debugResume 0 .fwd) (stopped 0x05)).map (fun t => (t.run, t.pc)) = some (.run, 0x100004) ∧
    (threadAfter (.debugResume 0 .fwd) (stopped 0x10)).map (fun t => (t.run, t.pc)) = some (.halt, 0x100000) := by decide
theorem witness_ARecordHeldIsNotOverwritten : recordValid (((stopped 0x05).tile 0).records.get .fwd) = true ∧ (stopped 5).alive 0 = true := by
  decide
theorem test_more : ((after (.debugHalt 0 .fwd) (stopped 5)).map fun t => (recordReason ((t.tile 0).records.get .fwd),
    recordMore ((t.tile 0).records.get .fwd))) = some (5, 1) := by decide

/-! ## Issue of queued commands -/

def issuesB (s : State) (n : Nat) (e : Engine) (op : Nat) (c : Cmd) (st : Stream) (x : Entry) : Bool :=
  let u := s.named n x
  decide (n < 2048) && s.streamRuns n st && decide (s.head n e st = some (x, [])) && !x.skip && decide (x.op = op) &&
  c.settled u n st x && !hazard [] (c.reads u n st x) && decide (u.refusalAt n st x c = none) && (c.ask.isNone || x.asked) &&
  decide (u.chosen n e = some st) && decide (u.issueErr n st (c.reads u n st x) (c.writes u n st x) = none) &&
  (let y := u.dated n x
   let u1 := c.run (u.preserveFor (writerOf u n st) (c.writes u n st y)) n st y
   !u1.protectedBad n e st y && u.protectedSame u1)
theorem issues_of {s : State} {n : Nat} {e : Engine} {op : Nat} {c : Cmd} {st : Stream} {x : Entry}
    (h : issuesB s n e op c st x = true) : Issues s n e op c st x [] := by
  simp only [issuesB, Bool.and_eq_true, decide_eq_true_eq, Bool.not_eq_true', Bool.or_eq_true] at h
  obtain ⟨⟨⟨⟨⟨⟨⟨⟨⟨⟨⟨h1, h2⟩, h3⟩, h4⟩, h5⟩, h6⟩, h7⟩, h8⟩, h9⟩, h10⟩, h11⟩, h12⟩ := h
  exact ⟨h1, h2, h3, ⟨h4, h5⟩, h6, h7, h8, h9, h10, h11, h12⟩
/-- A command of tile 0, and the state with it at the head of its queue. -/
def entry (e o p : Nat) (s0 s1 : Word := 0) (st : Nat := 0) : Entry :=
  { uid := 5, word := word e o p st, s0 := s0, s1 := s1, chan := chan1, skip := false, ctx := 1 }
def queued (x : Entry) (s : State := base) : State :=
  s.modQueue 0 (engineOf (wEngine x.word)) (streamOf (wStream x.word)) fun q => { q with entries := [x] }
/-- The command x, granted what it asked for. -/
def granted (x : Entry) : Entry := { x with asked := true, granted := true }
/-- The command x issues in the state s with it queued. -/
def issuesIn (x : Entry) (c : Cmd) (s : State := base) : Bool :=
  issuesB (queued x s) 0 (engineOf (wEngine x.word)) x.op c (streamOf (wStream x.word)) x
/-- Bytes in tile 0's store. -/
def stored (off : Nat) (bs : List Byte) (s : State := base) : State := { s with mem := pokes (tileBase 0 + off) bs s.mem }

/-- An array whose clock is at full level. -/
def awake : State := base.modArray 0 0 fun a => { a with level := 4 }
/-- An open list of team 1 at its leader, tile 0. -/
def listed : State := base.setList 0 4 { ring := 0, cap := 1, ctx := 1 }
/-- An element program without instructions in slot 0. -/
def programmed : State := base.modTile 0 fun t => { t with vec := { t.vec with slots := [(0, ⟨[], []⟩)] } }
/-- Context 1 with 16 pages of scratch, and a snapshot reserve of one page. -/
def lent : State := { base with ctxs := [(1, { (base.ctx 1) with
  reservePages := 1, memGrants := [(0, BitVec.ofNat 128 (pack [(48, scratchBase), (28, 16), (52, 0)]))] })] }
/-- A MOVE of 16 B within tile 0's store. -/
def moveDesc : List Byte := natLE 32 (pack [(8, 0), (48, 0x100), (8, 0), (48, 0x200), (4, 0), (4, 0), (20, 15), (16, 0), (20, 0), (20, 0), (2, 0), (58, 0)])
/-- Compression of a 16 × 16 tile of BF16 values. -/
def compDesc : List Byte := natLE 32 (pack [(22, 0x800), (20, 0x200), (22, 0x1000), (20, 16), (22, 0x2000), (22, 0), (1, 0), (22, 0), (9, 0), (4, 2), (4, 0),
  (8, 0), (8, 0), (22, 0x3000), (50, 0)])
/-- A reduction of one FP32 element at the start of the scratch. -/
def redDesc : BitVec 256 := BitVec.ofNat 256 (pack [(48, scratchBase), (24, 0), (16, 1), (16, 9), (48, scratchBase + 0x1000), (1, 1), (1, 0), (1, 0), (101, 0)])
def reducing : State := { lent with reds := [(3, { phase := .armed, ctx := 1, desc := redDesc })] }
/-- A layer of one expert with one replica on team 1, in slot 0, its descriptor at 0 of the store. -/
def layerDesc : Nat := pack [(2, 0), (10, 0), (3, 0), (4, 2), (4, 0), (9, 0), (12, 0), (12, 1), (1, 1), (3, 0), (22, 0x1000), (22, 0x2000),
  (22, 0x3000), (22, 0x4000), (48, 0x5000), (16, 0), (96, 0), (204, 0)]
def replicaWord : Nat := pack [(1, 1), (12, 1), (22, 0x6000), (22, 0x7000), (22, 0x8000), (49, 0)]
def tabled : State := stored 0 (natLE 64 layerDesc) (stored 0x1000 (natLE 16 replicaWord))
def routed : State := tabled.modTile 0 fun t => { t with
  layers := [(0, { desc := some (BitVec.ofNat 512 layerDesc), closed := true, rebounded := true })] }
def awaited (packed : Bool) : State := routed.modTile 0 fun t => { t with
  replicas := [{ slot := 0, expert := 0, replica := 0, back := false, batch := 0, closes := [(0, 1, 0), (1, 1, 0), (0, 2, 0), (1, 2, 0)],
                 packing := packed, packed := packed }],
  lists := [(4, { ring := 0, cap := 1, ctx := 1 })] }
/-- A team command of team 1 from tile 0. -/
def teamed (s : State) : State := { s with teamCmds := [(9, { team := 1, ctx := 1, tile := 0, stream := .fwd, tag := 7, left := [0, 1] })] }
def member (x : Entry) : Entry := { x with teamCmd := some 9 }
/-- Team 1 in the group 2, and a huddle of it at tile 0. -/
def huddleDesc : BitVec 128 := BitVec.ofNat 128 (pack [(2, 1), (8, 1), (2, 0), (1, 0), (11, 0), (12, 2), (12, 1), (16, 0), (12, 0), (12, 0), (1, 1), (16, 9), (23, 0)])
def gathered : State := { base with
  teams := [(0, deviceTeam), (1, rect 1 0 0 2 1 + BitVec.ofNat 128 (2 * 2 ^ 104)),
    (2, BitVec.ofNat 128 (pack [(2, 2), (2, 0), (8, 1), (12, 0), (12, 1), (12, 0), (80, 0)]))]
  huddles := [(0, { desc := huddleDesc })] }

theorem witness_MatrixCommandsIssue : issuesIn (entry 0 0x01 0) cmdMma awake = true ∧ issuesIn (entry 0 0x02 0) cmdMdrain = true ∧
    issuesIn (entry 0 0x03 0) cmdMdcfg = true ∧ mSp (entry 0 1 0) = false ∧ mZm (entry 0 1 0) = false := by decide
theorem witness_VectorCommandsIssue : issuesIn (entry 1 0x01 0) cmdVld = true ∧ issuesIn (entry 1 0x02 0) cmdVst = true ∧
    issuesIn (entry 1 0x03 0) cmdEpload = true ∧ issuesIn (entry 1 0x04 0) cmdEprog programmed = true ∧
    issuesIn (entry 1 0x05 0) cmdEpstrm programmed = true ∧ issuesIn (entry 1 0x06 0) cmdVred = true ∧
    issuesIn (entry 1 0x07 0) cmdVsum = true ∧ issuesIn (entry 1 0x08 0) cmdVseed = true := by decide
def shrunk : State := base.modTile 0 fun t => { t with extents := [(⟨0x2000, 16⟩, ⟨0, 0⟩)] }
theorem witness_MoverCommandsIssue : issuesIn (entry 2 0x01 0) cmdMove (stored 0 moveDesc) = true ∧
    issuesIn (entry 2 0x02 0) cmdMvcomp (stored 0 compDesc) = true ∧ issuesIn (entry 2 0x03 0 0 0 2) cmdRemask (stored 0 compDesc shrunk) = true ∧
    issuesIn (entry 2 0x04 (2 * 2 ^ 52 + 2 ^ 27)) cmdStash = true ∧ issuesIn (entry 2 0x05 0) cmdPredld = true ∧
    issuesIn (entry 2 0x06 0 0x2000) cmdMaskdrop shrunk = true := by decide
theorem witness_AtomicCommandsIssue :
    ([0x10, 0x11, 0x12, 0x13, 0x14, 0x18, 0x19, 0x1A].all fun o => issuesIn (entry 2 o scratchBase) cmdAtomic lent) = true ∧
    aDev (entry 2 0x10 scratchBase) = lent.deviceNumber ∧
    issuesIn (entry 2 0x20 (3 * 2 ^ 44)) cmdRdopen (stored 0 (natLE 32 redDesc.toNat) lent) = true ∧
    issuesIn (entry 2 0x21 (3 * 2 ^ 44)) cmdRdadd reducing = true := by decide
/-- A step block whose expert is absent, under policy 0: presence word at 0x40, which is 0. -/
def absent : State := stored 0 (natLE 32 (2 ^ 79 + 0x40 * 2 ^ 80))
def shippable : State := teamed (stored 64 (natLE 16 (pack [(48, scratchBase), (24, 1), (56, 0)])) lent)
theorem witness_UpdateCommandsIssue : issuesIn (entry 2 0x40 0 0 0 2) cmdOptcfg = true ∧ issuesIn (entry 2 0x41 0 0 0 2) cmdOptstep = true ∧
    issuesIn (entry 2 0x42 0 0 0 2) cmdAmaxstep = true ∧ issuesIn (member (entry 2 0x43 0 0 0 2)) cmdSnap shippable = true ∧
    issuesIn (entry 2 0x41 0 0 0 2) cmdOptstep absent = true ∧ absent.optSkips 0 (absent.oBlock 0 (entry 2 0x41 0 0 0 2)) = true ∧
    (let x := entry 2 0x40 0
     (queued x).streamRuns 0 .fwd = true ∧ (queued x).head 0 .mover .fwd = some (x, []) ∧ x.skip = false ∧ x.op = 0x40 ∧
     hazard [] (cmdOptcfg.reads ((queued x).named 0 x) 0 .fwd x) = false ∧ cmdOptcfg.settled ((queued x).named 0 x) 0 .fwd x = true ∧ recordValid (((queued x).tile 0).records.get .fwd) = false) := by decide
theorem witness_RouteCommandsIssue : issuesIn (entry 3 0x01 0) cmdRtcfg tabled = true ∧ issuesIn (entry 3 0x02 0) cmdRqopen routed = true ∧
    issuesIn (entry 3 0x03 0 0x9000 0x9100) cmdRoute routed = true ∧ issuesIn (entry 3 0x04 0) cmdRqclose routed = true ∧
    issuesIn (entry 3 0x05 0) cmdRbound routed = true ∧ issuesIn (entry 3 0x06 0 0x9000) cmdRcomb routed = true ∧
    issuesIn (entry 3 0x07 0 0x9000) cmdRback routed = true ∧ issuesIn (entry 3 0x08 0 0x9000 0x9100) cmdRgrad routed = true := by decide
theorem witness_RouteCommandsIssue_experts : issuesIn (entry 3 0x10 0) cmdRxopen routed = true ∧
    issuesIn (member (entry 3 0x11 0 0x9000)) cmdRwget (teamed routed) = true ∧ issuesIn (entry 3 0x12 0) cmdRxwait (awaited false) = true ∧
    issuesIn (granted (entry 3 0x13 0 0x9000)) cmdRxexpand (awaited true) = true ∧
    issuesIn (entry 3 0x14 0 0x9000) cmdRsend (awaited true) = true := by decide
theorem witness_CommonCommandsIssue :
    ((List.range 6).all fun e => issuesIn (granted (entry e 0xF0 0)) (cmdTwait (engineOf e)) &&
      issuesIn (granted (entry e 0xF1 0)) (cmdTclaim (engineOf e)) && issuesIn (entry e 0xF2 0) (cmdTsig (engineOf e)) &&
      issuesIn (entry e 0xF3 0) (cmdFence (engineOf e))) = true ∧
    issuesIn (entry 4 0x01 0) cmdTset = true ∧ issuesIn (member (entry 4 0x02 0)) cmdHuddle (teamed gathered) = true ∧
    issuesIn (granted (entry 5 0x01 0)) cmdPoolget = true ∧ issuesIn (entry 5 0x02 0) cmdPoolput = true ∧
    issuesIn (entry 5 0x03 0) cmdPoolcfg = true ∧
    (let x := entry 1 0xF0 0
     (queued x).streamRuns 0 .fwd = true ∧ (queued x).head 0 .vector .fwd = some (x, []) ∧ x.asked = false ∧
     ((queued x).named 0 x).refusalAt 0 .fwd x (cmdTwait .vector) = none) := by decide
/-- A command of context 0 on a tile of context 1 issues in the name of context 0. -/
theorem witness_CommonCommandsIssue_device : issuesIn { entry 1 0xF3 0 with ctx := 0 } (cmdFence .vector) = true ∧
    (base.named 0 { entry 1 0xF3 0 with ctx := 0 }).owner 0 = 0 := by decide

/-- Tile 0's mover queue with x behind an atomic that waits for its answer. -/
def behind (x : Entry) : State := base.modQueue 0 .mover .fwd fun q => { q with
  entries := [{ entry 2 0x10 scratchBase with uid := 4, issued := true, awaits := [9] }, x] }
/-- A skipped VSUM of two summaries, and the state that it has issued in. -/
def skipped : Entry := { entry 2 0xF2 0 with skip := true }
theorem witness_SkipEntriesPassThrough : let x : Entry := { entry 1 0xF2 0 with skip := true }
    (queued x).completing 0 .vector .fwd = none ∧ (queued x).head 0 .vector .fwd = some (x, []) ∧
    (queued x).streamRuns 0 .fwd = true ∧ x.skip = true ∧ skipBad ((queued x).named 0 x) 0 x = none ∧
    ((queued x).named 0 x).chosen 0 .vector = some .fwd ∧
    (behind skipped).completing 0 .mover .fwd = none ∧ ((behind skipped).head 0 .mover .fwd).map (fun p => (p.1, p.2.length)) = some (skipped, 1) ∧
    skipBad ((behind skipped).named 0 skipped) 0 skipped = none ∧ ((behind skipped).named 0 skipped).chosen 0 .mover = some .fwd ∧
    (let y := { x with issued := true }
     (queued y).completing 0 .vector .fwd = some y ∧ ((queued y).entries 0 .vector .fwd).head? = some y ∧
     (queued y).alive 0 = true ∧ (queued y).notResetting ((queued y).owner 0) = true) := by decide
/-- A skipped VSUM gives 0 for the summary it owes, so that a SUMRD behind it completes. -/
theorem test_skip_sum : ((after (.skipEntry 0 .vector .fwd) (queued { entry 1 0x07 0 with skip := true }
      ((core 0x0000518B fun t => { t with sums := [⟨5, 0, none⟩] })))).map fun t =>
    ((t.queue 0 .vector .fwd).entries.length, (t.thread 0 .fwd).sums.map (·.value))) = some (0, [some 0]) := by decide
/-- A NOP that signals global tally 9 with 3. -/
def marker : Entry := { entry 1 0xFF 0 with word := BitVec.ofNat 128 (pack [(16, 7), (8, 0xFF), (3, 1), (2, 0), (2, 0), (2, 0), (4, 0), (1, 0), (12, 0),
  (1, 1), (1, 1), (16, 9), (4, 2), (56, 0)]) }
theorem witness_NopSignalsItsPointInTheQueue : (queued marker).completing 0 .vector .fwd = none ∧
    (queued marker).head 0 .vector .fwd = some (marker, []) ∧ wPayload marker.word = 0 ∧ (queued marker).streamRuns 0 .fwd = true ∧
    wSigEn marker.word = true ∧ ((queued marker).named 0 marker).signalBad 0 marker = none ∧
    ((queued marker).named 0 marker).varyBad 0 marker = none ∧ ((queued marker).named 0 marker).chosen 0 .vector = some .fwd ∧ marker.effects = [] ∧ marker.failing = none ∧ marker.op = 0xFF ∧
    (queued (entry 1 0xFF 1)).head 0 .vector .fwd = some (entry 1 0xFF 1, []) ∧ wPayload (entry 1 0xFF 1).word ≠ 0 ∧
    (let x := { marker with issued := true }
     (queued x).completing 0 .vector .fwd = some x ∧ ((queued x).entries 0 .vector .fwd).head? = some x) := by decide
theorem witness_NopSignalsItsPointInTheQueue_behind : let x := entry 2 0xFF 0
    (behind x).completing 0 .mover .fwd = none ∧ ((behind x).head 0 .mover .fwd).map (fun p => (p.1, p.2.length)) = some (x, 1) ∧
    ((behind x).named 0 x).signalBad 0 x = none ∧ ((behind x).named 0 x).varyBad 0 x = none ∧
    ((behind x).named 0 x).chosen 0 .mover = some .fwd := by decide
theorem test_nop : ((after (.nop 0 .vector .fwd) (queued marker)).map fun t => (t.queue 0 .vector .fwd).entries.length) = some 0 ∧
    ((after (.nop 0 .vector .fwd) (queued (entry 1 0xFF 1))).map fun t => (t.thread 0 .fwd).run) = some .halt := by decide
/-- A VST under way that will store three bytes. -/
def storing : Entry := { entry 1 0x02 0 with issued := true, effects := [.store (tileBase 0 + 0x10) [1, 2, 3]] }
theorem witness_CompletionAppliesTheStores : (queued storing).completing 0 .vector .fwd = some storing ∧ (queued storing).alive 0 = true ∧
    (queued storing).notResetting ((queued storing).owner 0) = true ∧ storing.failing = none ∧ (queued storing).locked 0 = false ∧
    (queued storing).partBad (tileBase 0 + 0x10) [1, 2, 3] = none := by decide
theorem witness_CompletionAppliesTheStores_finish : cmdOf .vector storing.op = some cmdVst ∧ ∀ u, cmdVst.finish u 0 .fwd storing = u :=
  ⟨rfl, fun _ => rfl⟩
theorem test_completion : ((after (.commandComplete 0 .vector .fwd) (queued storing)).map fun t =>
    (t.loadBytes (tileBase 0 + 0x0F) 5, (t.queue 0 .vector .fwd).entries.length)) = some ([0, 1, 2, 3, 0], 0) := by decide

/-- A drain through an element program that waits for vector lanes, and an OPTSTEP of algo 3 that waits for its second group. -/
def draining : State := queued (entry 0 0x02 0) (programmed.modTile 0 fun t => { t with
  drainDescs := [(0, BitVec.ofNat 256 (0x3F800000 * 2 ^ 224 + 3 * 2 ^ 222 + 5 * 2 ^ 219))] })
def stepping : State := queued { entry 2 0x41 0 0 0 2 with issued := true, progress := [1] }
theorem witness_LanesAndDribbleSteps : base.alive 0 = true ∧ draining.lanesOpen 0 = true ∧ laneCandidates draining 0 = [0] ∧
    stepping.lanesOpen 0 = true ∧ laneCandidates stepping 0 = [] ∧ (stepping.optWaits 0).isSome = true ∧
    base.lanesOpen 0 = true ∧ laneCandidates base 0 = [] ∧ base.optWaits 0 = none ∧
    awake.arrayIdle 0 0 = true ∧ 0 < (awake.array 0 0).level ∧
    rampWanted (queued (entry 0 0x01 0)) 0 0 = true ∧ ((queued (entry 0 0x01 0)).array 0 0).level < 3 := by decide
theorem test_dribble : ((after (.dribbleStepDown 0 0) awake).map fun t => (t.array 0 0).level) = some 0 ∧
    ((after (.dribbleRampStep 0 0) (queued (entry 0 0x01 0))).map fun t => (t.array 0 0).level) = some 1 := by decide

/-! ## Packets at their homes and at the tiles -/

/-- The packet p is taken where it is the only one in flight. -/
def arrives (p : Packet) (s : State := base) : Bool := takesB (carrying p s) 0 p
def far : Nat := scratchBase + 0x40
def homePacket (body : Body) : Packet := packet body (.die 0)
theorem witness_HomesReadAndWrite :
    arrives (homePacket (.readReq far 8 3)) lent = true ∧ arrives (packet (.readReq (tileBase 0 + 0x40) 8 3)) = true ∧ lent.badBlock far 8 = none ∧
    arrives (homePacket (.writeReq far [1, 2, 3] 3)) lent = true ∧ arrives (packet (.writeReq (tileBase 0) [1, 2, 3] 3)) = true ∧
    lent.landErr (homePacket (.writeReq far [1, 2, 3] 3)).writer far [1, 2, 3] = none ∧
    base.landErr (packet (.writeReq (tileBase 0) [1, 2, 3] 3)).writer (tileBase 0) [1, 2, 3] = none ∧
    lent.reserveFor (homePacket (.writeReq far [1, 2, 3] 3)).writer [⟨far, 3⟩] = true ∧ base.extentBadAt (tileBase 0) [1, 2, 3] = false ∧
    arrives (packet (.coreWrite none 0x1FFFE [1, 2] 3)) = true ∧ arrives (packet (.coreWrite (some 1) 0xFFFE [1, 2] 3)) = true ∧
    (carrying (packet (.coreWrite (some 1) 0xFFFE [1, 2] 3))).bankActive 0 1 = false ∧
    (base.tile 0).corePartBad 0 0x1FFFE [1, 2] = none ∧ (base.tile 0).corePartBad 2 0xFFFE [1, 2] = none := by decide
theorem test_home_write : ((after (.homeRequest 0 .clean) (carrying (homePacket (.writeReq far [1, 2, 3] 3)) lent)).map fun t =>
    (t.loadBytes (far - 1) 5, t.net.map fun p => (p.dst, p.body))) = some ([0, 1, 2, 3, 0], [(.tile 1, .ack 3)]) := by decide
theorem test_home_read : ((after (.tileStoreRemoteAccess 0 .clean) (carrying (packet (.readReq (tileBase 0 + 0x40) 3 3)) (stored 0x40 [9, 8]))).map
    fun t => t.net.map fun p => (p.dst, p.body)) = some [(.tile 1, .data 3 [9, 8, 0])] := by decide
theorem test_core_write : ((after (.tileStoreRemoteAccess 0 .clean) (carrying (packet (.coreWrite (some 1) 0xFFFE [1, 2] 3)))).map
    fun t => ((t.tile 0).imem1, (t.tile 0).imem0)) = some ([(0xFFFE, 1), (0xFFFF, 2)], []) := by decide

theorem witness_AtomicsAtTheHome : arrives (homePacket (.atomic .add 0 far 7 0 true 3)) lent = true ∧
    arrives (homePacket (.atomic .swap 3 far 7 0 false 3)) lent = true ∧
    lent.changeBad (homePacket (.atomic .swap 3 far 7 0 false 3)).writer far (atomWidth 3) = none ∧
    lent.reserveFor (homePacket (.atomic .swap 3 far 7 0 false 3)).writer [⟨far, atomWidth 3⟩] = true := by decide
theorem test_atomic : let r (op : AtomOp) (ty : Nat) (v c : BitVec 64) := (after (.atomicAtHome 0 .clean)
      (carrying (homePacket (.atomic op ty far v c true 3)) { lent with mem := pokes far [0xFE, 0xFF, 0xFF, 0xFF] [] })).map fun t =>
        (t.loadNat far 4, t.net.map (·.body))
    r .add 0 7 0 = some (5, [.answer 3 [0xFFFFFFFE]]) ∧ r .min 0 7 0 = some (0xFFFFFFFE, [.answer 3 [0xFFFFFFFE]]) ∧
    r .min 1 7 0 = some (7, [.answer 3 [0xFFFFFFFE]]) ∧ r .cas 1 7 0xFFFFFFFE = some (7, [.answer 3 [0xFFFFFFFE]]) ∧
    r .cas 1 7 0 = some (0xFFFFFFFE, [.answer 3 [0xFFFFFFFE]]) := by decide

theorem witness_ReductionsCollectAndFinish :
    arrives (homePacket (.contribution 3 0 [0x3F800000] true 4)) reducing = true ∧
    tfind 3 reducing.reds = some { phase := .armed, ctx := 1, desc := redDesc } ∧ redArrival redDesc = false ∧ redElems redDesc = 1 ∧
    rdPwEn redDesc = true ∧ rdNexp redDesc = 2 ∧ ({ phase := .armed, ctx := 1, desc := redDesc } : Reduction).badSum 0 1 = none ∧ reducing.contributionBad 1 .fwd { phase := .armed, ctx := 1, desc := redDesc } 0 1 = none ∧
    (let r : Reduction := { phase := .finalising, ctx := 1, desc := redDesc, present := 1 }
     let s : State := { reducing with reds := [(3, r)] }
     s.serving = true ∧ s.notResetting r.ctx = true ∧ s.reserveFor { ctx := r.ctx } (redFinal r) = true ∧
     s.badBlock (redTarget r.desc) (redBytes r.desc) = none ∧ s.badBlock (rdPword r.desc) 4 = none ∧
     r.badSum 0 (redElems r.desc) = none ∧ s.extentBadAt (rdPword r.desc) (natLE 4 0x10001) = false) := by decide
/-- The same reduction in ARRIVAL mode, and contributions that are refused: to no reduction, without may_vary, and beyond its elements. -/
def arrivalDesc : BitVec 256 := redDesc + BitVec.ofNat 256 (2 ^ 102)
def arriving : State := { lent with reds := [(3, { phase := .armed, ctx := 1, desc := arrivalDesc })] }
def varying (p : Packet) : Packet := { p with mayVary := true }
theorem witness_ReductionsCollectAndFinish_arrival : let p := varying (homePacket (.contribution 3 0 [0x3F800000] true 4))
    let r : Reduction := { phase := .armed, ctx := 1, desc := arrivalDesc }
    arrives p arriving = true ∧ tfind 3 arriving.reds = some r ∧ redArrival r.desc = true ∧ redElems r.desc = 1 ∧
    arriving.contributionBad 1 .fwd r 0 1 = none ∧ arriving.reserveFor p.writer (arriving.contributionRanges p.body) = true ∧
    arriving.changeBad p.writer (redTarget r.desc) 4 = none ∧
    (let q := homePacket (.contribution 3 0 [0x3F800000] true 4)
     arrives q lent = true ∧ redRefuses (tfind 3 lent.reds) 0 1 q.mayVary = 5 ∧ arrives q arriving = true ∧
     redRefuses (tfind 3 arriving.reds) 0 1 q.mayVary = 6 ∧ redRefuses (tfind 3 reducing.reds) 1 1 q.mayVary = 6 ∧
     arriving.reserveFor q.writer (arriving.contributionRanges q.body) = true) := by decide
theorem test_arrival : let s := { arriving with mem := pokes scratchBase (natLE 4 0x3F000000) [] }
    let does (p : Packet) := (after (.contributionAtHome 0 .clean) (carrying p s)).map fun t => (t.loadNat scratchBase 4, t.net.map (·.body))
    does (varying (homePacket (.contribution 3 0 [0x3F800000] true 4))) = some (0x3FC00000, [.ack 4]) ∧
    does (homePacket (.contribution 3 0 [0x3F800000] true 4)) = some (0x3F000000, [.refusal 4 ⟨0x11, 0, detailPayload 0x21 25⟩]) := by decide
/-- Two contributions of 1.0 and 0.5 give 1.5, with a presence word of two. -/
theorem test_reduction : let half (s : State) := (after (.contributionAtHome 0 .clean) { s with net := [homePacket (.contribution 3 0 [0x3F000000] true 4)] })
    (((after (.contributionAtHome 0 .clean) (carrying (homePacket (.contribution 3 0 [0x3F800000] true 4)) reducing)).bind half).bind
      (after (.reductionDone 3))).map (fun t => (t.loadNat scratchBase 4, t.loadNat (scratchBase + 0x1000) 4, t.reds.length)) =
    some (0x3FC00000, 0x20001, 0) := by decide
theorem witness_ExactSumsIgnoreOrder : [f32 0x3F800000, f32 0x3F000000].Perm [f32 0x3F000000, f32 0x3F800000] := List.Perm.swap ..

/-- Pool 0 of tile 0, configured for context 1 with one buffer of class 0. -/
def pooled (taken : List (Nat × Nat × Nat) := []) : State := base.setPool false 0 0
  { ctx := 1, configured := true, desc := BitVec.ofNat 256 (2 ^ 211), taken := taken }
theorem witness_CommonCommandsIssue_pool : let x := entry 5 0x01 0
    let s := queued x pooled
    s.streamRuns 0 .fwd = true ∧ s.head 0 .pool .fwd = some (x, []) ∧ x.skip = false ∧ x.op = 0x01 ∧ x.asked = false ∧
    (s.named 0 x).refusalAt 0 .fwd x cmdPoolget = none := by decide
theorem test_pool_asks : ((after (.poolget 0 .fwd) (queued (entry 5 0x01 0) pooled)).map fun t => t.net.map fun p => (p.dst, p.body)) =
    some [(.tile 0, .poolGet 0 0 0)] := by decide
theorem witness_PoolsGrantAndTakeBack :
    arrives (packet (.poolGet 0 0 1)) pooled = true ∧ (pooled.pool false 0 0).free 0 = some 0 ∧
    arrives (packet (.poolGet 0 0 1)) (pooled [(0, 0, 1)]) = true ∧ ((pooled [(0, 0, 1)]).pool false 0 0).free 0 = none ∧
    arrives (packet (.poolPut 0)) (pooled [(0, 0, 1)]) = true ∧
    (carrying (packet (.poolPut 0)) (pooled [(0, 0, 1)])).putBad (packet (.poolPut 0)) (handleOf 0) = none ∧
    (carrying (packet (.poolPut 0)) pooled).putBad (packet (.poolPut 0)) (handleOf 0) = some 0x32 ∧
    arrives (packet (.poolGrant 0 0)) (queued (entry 5 0x01 0)) = true ∧
    ((carrying (packet (.poolGrant 0 0)) (queued (entry 5 0x01 0))).queue 0 .pool .fwd).entries.find? (fun x => x.uid = 5) =
      some (entry 5 0x01 0) := by decide
theorem test_pool : ((after (.poolRequestAtHome 0) (carrying (packet (.poolGet 0 0 1)) pooled)).map fun t =>
      ((t.pool false 0 0).taken, t.net.map (·.dst))) = some ([(0, 0, 1)], [.tile 1]) ∧
    ((after (.poolRequestAtHome 0) (carrying (packet (.poolGet 0 0 1)) (pooled [(0, 0, 1)]))).map fun t =>
      ((t.pool false 0 0).waiting.length, t.net.length)) = some (1, 0) ∧
    ((after (.poolRequestAtHome 0) (carrying (packet (.poolPut 0)) (pooled [(0, 0, 1)]))).map fun t =>
      ((t.pool false 0 0).taken, t.net.map (·.body))) = some ([], [.ack 5]) := by decide

/-- An atomic command that awaits request 3. -/
def asking : Entry := { entry 2 0x10 scratchBase with issued := true, awaits := [3] }
theorem witness_RepliesReachTheirCommand : arrives (packet (.data 3 [1])) = true ∧ arrives (packet (.ack 3)) = true ∧
    arrives (packet (.answer 9 [0])) (queued (entry 0 0x09 (2 ^ 44))) = true ∧
    (queued (entry 0 0x09 (2 ^ 44))).awaiter 0 .fwd 9 = none ∧
    (queued (entry 0 0x09 (2 ^ 44))).findEntry 0 .fwd 5 = some (.matrix, entry 0 0x09 (2 ^ 44)) ∧
    (base.tile 0).runs.get .fwd = none ∧
    arrives (packet (.answer 3 [7])) (queued asking) = true ∧
    (carrying (packet (.answer 3 [7])) (queued asking)).awaiter 0 .fwd 3 = some (.mover, asking) ∧
    arrives (packet (.refusal 3 ⟨0xFF, 0, 0⟩)) = true ∧ arrives (packet (.signalRefusal ⟨0x20, 0, 0⟩)) = true ∧ (base.thread 0 .fwd).run ≠ .halt ∧
    recordValid ((base.tile 0).records.get .fwd) = false := by decide
theorem test_reply : ((after (.replyArrive 0) (carrying (packet (.answer 3 [7])) (queued asking))).map fun t =>
    (t.queue 0 .mover .fwd).entries.map fun x => (x.awaits, x.effects)) = some [([], [.summary 0 7])] := by decide

/-- Tally 9 of the device with a waiter for 2 and a claimer of 3. -/
def tallied (v : Nat) : State :=
  let t : Tally := { value := v, waits := [⟨.twait, .fwd, 0, 1, 0, 2, 5, false⟩], claims := [⟨.tclaim, .fwd, 0, 1, 0, 3, 6, false⟩] }
  { base with gtallies := [(9, t)] }
theorem witness_TalliesCountAndRelease : arrives (homePacket (.signal 9 2 0 0)) (tallied 1) = true ∧
    arrives (packet (.remoteSignal 9 1 0) (.tile 0) (.tile 0)) = true ∧
    arrives (packet (.remoteSignal 9 1 0)) = true ∧ (base.tally 0 9).remote = false ∧ arrives (homePacket (.register 9 .twait 2 false)) = true ∧
    arrives (homePacket (.register 9 .tclaim 0xFFFFFFFF false)) (tallied 0) = true ∧ arrives (homePacket (.set 9 5 true)) = true ∧
    arrives (homePacket (.set 9 5 true)) (tallied 0) = true ∧ ((tallied 0).tallyAt (.die 0) 9).claims ≠ [] ∧
    (base.tallyAt (.die 0) 9).waits = [] ∧ (base.tallyAt (.die 0) 9).claims = [] := by decide
/-- 1 + 2 = 3 releases the waiter for 2, and the claimer takes 3. -/
theorem test_tally : ((after (.tallySignalAtHome 0) (carrying (homePacket (.signal 9 2 0 0)) (tallied 1))).map fun t =>
      ((t.gtally 9).value, (t.gtally 9).waits.length, t.net.map fun p => (p.dst, p.entry, p.body))) =
      some (0, 0, [(.tile 1, 5, .release .twait), (.tile 1, 6, .release .tclaim)]) ∧
    ((Tally.signal { value := 0xFFFFFFFE } 5 ⟨0, 0, 0, 0, 0, 5⟩).1.value = 0xFFFFFFFF) := by decide

/-- The thread waits at a CTWAIT that it has registered. -/
def registered (t : Thread) : Thread := { waits .ctwait t with waitUid := 5 }
theorem witness_ReleasesReachTheWaiter : arrives (packet (.release .twait)) (queued (entry 1 0xF0 0)) = true ∧
    (carrying (packet (.release .twait)) (queued (entry 1 0xF0 0))).findEntry 0 .fwd 5 = some (.vector, entry 1 0xF0 0) ∧
    arrives (packet (.release .ctwait)) (core 0x0020D02B registered) = true ∧
    (carrying (packet (.release .ctwait)) (core 0x0020D02B registered)).waiting 0 .fwd .ctwait = some (.ctwait 1 2, 4) ∧
    ((core 0x0020D02B registered).thread 0 .fwd).waitUid = 5 ∧
    arrives (packet (.setAnswer true 9 2)) (queued (entry 4 0x01 0)) = true ∧
    ((carrying (packet (.setAnswer true 9 2)) (queued (entry 4 0x01 0))).queue 0 .tally .fwd).entries.find? (fun x => x.uid = 5) =
      some (entry 4 0x01 0) := by decide
theorem test_ctwait_release : ((after (.tallyReleaseArrive 0) (carrying (packet (.release .ctwait)) (core 0x0020D02B registered))).map fun t =>
    ((t.thread 0 .fwd).run, (t.thread 0 .fwd).pc)) = some (.run, 0x100004) := by decide

/-! ## Huddles, teams, lists, routing, snapshots -/

theorem witness_HuddlesCloseRounds :
    arrives (packet (.arrive 0 1 0) (.tile 0) (.tile 0)) gathered = true ∧ (carrying (packet (.arrive 0 1 0)) gathered).huddle 0 = some { desc := huddleDesc } ∧
    arrives (packet (.close 0 0)) gathered = true ∧
    ({ gathered with huddles := [(0, { desc := huddleDesc, again := true })] } : State).huddle 0 = some { desc := huddleDesc, again := true } ∧
    gathered.serving = true ∧
    -- the last of its two tiles closes the round, the first does not
    hdKind huddleDesc = 1 ∧ hdParts huddleDesc = 1 ∧
    hdArrC (gathered.recount { desc := huddleDesc, arrivals := [(1, 1, 0), (1, 0, 0)] }).desc = 1 ∧
    hdArrC (gathered.recount { desc := huddleDesc, arrivals := [(1, 0, 0)] }).desc = 0 := by decide
theorem test_huddle : ((after (.huddleArrivalAtHome 0) (carrying (packet (.arrive 0 1 0) (.tile 0) (.tile 0))
      { gathered with huddles := [(0, { desc := huddleDesc, arrivals := [(1, 1, 0)] })] })).map fun t =>
      ((t.huddle 0).map fun h => hdRound h.desc, t.net.map (·.dst))) = some (some 1, [.tile 0, .tile 1, .die 1]) := by decide

def teamEntry : Entry := { entry 1 0xF3 0 with word := teamWord }
def dispatching : State := base.modTile 0 fun t => { t with dispatch := t.dispatch.set .fwd [{ entry := teamEntry }] }
theorem witness_TeamCommandsReachEveryMember : dispatching.streamRuns 0 .fwd = true ∧
    (dispatching.tile 0).dispatch.get .fwd = [{ entry := teamEntry, left := none }] ∧
    dispatching.teamOf (dispatching.owner 0) (wTeamId teamEntry.word) = true ∧ dispatching.teamBlocked (wTeamId teamEntry.word) = false ∧
    arrives (packet (.deliver teamWord 0 0 false 9) (.tile 1) (.tile 0)) = true ∧
    (base.queue 1 (engineOf (wEngine teamWord)) (streamOf (wStream teamWord))).entries.length = 0 ∧
    arrives (packet (.memberDone 9) (.die 0) (.tile 0)) (teamed base) = true ∧ (tfind 9 (teamed base).teamCmds).isSome = true ∧
    ((tfind 9 (teamed base).teamCmds).map fun c => c.left.erase 0) = some [1] := by decide
theorem test_team : ((after (.teamDispatch 0 .fwd) dispatching).map fun t => t.net.map (·.dst)) = some [.tile 0, .tile 1] ∧
    ((after (.teamDelivery 0) (carrying (packet (.deliver teamWord 0 0 false 9) (.tile 1) (.tile 0)))).map fun t =>
      (t.queue 1 .vector .fwd).entries.map fun x => x.teamCmd) = some [some 9] ∧
    ((after (.teamMemberCompletion 0) (carrying (packet (.memberDone 9) (.die 0) (.tile 0)) (teamed base))).map fun t =>
      t.teamCmds.map fun c => c.2.left) = some [[1]] := by decide

theorem witness_WorkListsServeItems : issuesIn (entry 0 0x08 (2 ^ 44)) cmdWlopen = true ∧
    issuesIn (granted (entry 0 0x09 (2 ^ 44))) cmdWlput listed = true ∧ issuesIn (entry 0 0x0A (2 ^ 44 + 2 ^ 34)) cmdWlrun listed = true ∧
    issuesIn (entry 0 0x0B (2 ^ 44)) cmdWlclose listed = true ∧
    arrives (packet (.reserve 1 0 1)) listed = true ∧ arrives (packet (.itemAsk 1 0)) listed = true ∧
    (tfind 4 (listed.tile 0).lists).map (·.closed) = some false ∧ arrives (packet (.reserve 1 0 1)) = true ∧
    (tfind 4 (base.tile 0).lists) = none := by decide +kernel
/-- Tile 0 works on a list, and has finished an item with nothing else to come. -/
def working (written : Bool) : State :=
  let item : Item := { uid := 6, word := 0, begun := true, loaded := true, written := written }
  (queued (entry 0 0x0A (2 ^ 44)) listed).setRun 0 .fwd { team := 1, list := 0, entry := 5, threshold := 1, scratch := 0, size := 0, items := [item] }
theorem witness_WorkListsServeItems_items : arrives (packet (.item 1 0 3 (some 0))) (working false) = true ∧
    arrives (packet (.item 1 0 3 none)) (working false) = true ∧ (working false).streamRuns 0 .fwd = true ∧
    (working true).writesOwed 0 (fun _ e _ => e = 6) = false ∧ (working true).fenced 0 .fwd 5 2 = true ∧ (working false).itemRoom 0 .fwd = true ∧
    (((working true).tile 0).runs.get .fwd).map (fun r => r.items.map fun i => (i.written, i.loaded, i.blocks, i.drained)) =
      some [(true, true, 0, 0)] ∧
    ((working false).itemOutput 0 { uid := 6, word := 0, begun := true, loaded := true }).all (fun q => !(working false).extentBadAt q.1 q.2) = true ∧
    (working false).reserveFor (writerOf (working false) 0 .fwd)
      (((working false).itemOutput 0 { uid := 6, word := 0, begun := true, loaded := true }).map fun q => ⟨q.1, q.2.length⟩) = true := by
  decide
theorem test_list : ((after (.workListReservation 0) (carrying (packet (.reserve 1 0 1)) listed)).map fun t =>
      t.net.map fun p => (p.dst, p.entry)) = some [(.tile 1, 5)] ∧
    ((after (.itemComplete 0 .fwd) (working true)).map fun t => t.net.map (·.dst)) = some [.die 0, .tile 0] := by decide

/-- A row of 16 one-byte elements for slot 2 of the replica. -/
def rowBody (batch : Nat) : Body := .row 0 0 0 false batch 2 0x80000000 (List.replicate 16 7)
theorem witness_RoutedRowsLand : arrives (packet (rowBody 0)) (awaited false) = true ∧ arrives (packet (rowBody 1)) (awaited false) = true ∧
    ((awaited false).replicaState 0 0 0 0 false).map (fun r => (r.batch, r.packing)) = some (0, false) ∧
    ((awaited false).layer 0 0).desc = some (BitVec.ofNat 512 layerDesc) ∧
    reSlots replicaWord false + 2 * 16 = 0x6020 ∧
    reTags replicaWord + 4 * 2 + 4 ≤ reSlots replicaWord false + 2 * 16 + 0x3000 ∧
    reSlots replicaWord false + 2 * 16 + 16 ≤ reTags replicaWord + 4 * 2 ∧
    arrives (packet (.rowClose 0 0 0 false 0 1 5)) (awaited false) = true ∧
    arrives (packet (.returned 0 false 0 0 0 (List.replicate 16 7))) (awaited false) = true ∧ ((awaited false).layer 0 0).batch = 0 ∧
    arrives (packet (.rwRegister 0 0 0 false)) (awaited false) = true ∧
    arrives (packet (.rwStart false)) (queued { entry 3 0x11 0 with issued := true } routed) = true ∧
    rwPhase { entry 3 0x11 0 with issued := true } = 0 ∧ arrives (packet (.rwStart true)) (queued { entry 3 0x11 0 with issued := true } routed) = true ∧
    (let p := packet (rowBody 0)
     let q := packet (.returned 0 false 0 0 0 (List.replicate 16 7))
     let s := awaited false
     s.reserveFor p.writer (s.landRanges p) = true ∧ s.landBad p 0x6020 (List.replicate 16 7) = none ∧ s.landBad p 0x8008 (natLE 4 0x80000000) = none ∧
       s.landErr p.writer (tileBase 0 + 0x6020) (List.replicate 16 7) = none ∧
       s.landErr p.writer (tileBase 0 + 0x8008) (natLE 4 0x80000000) = none ∧
       s.reserveFor q.writer (s.landRanges q) = true ∧ s.landBad q (returnAt layerDesc false 0 0) (List.replicate 16 7) = none ∧
       s.landErr q.writer (tileBase 0 + returnAt layerDesc false 0 0) (List.replicate 16 7) = none) := by decide
/-- A row of a batch of no replica, a close and a returned row of another batch. -/
def strays : List (Instr × Body) := [(.routeRowArrive 0, .row 0 1 0 false 0 2 0x80000000 [7]), (.routeCloseArrive 0, .rowClose 0 0 0 false 1 1 5),
  (.returnRowArrive 0, .returned 0 false 1 0 0 [7])]
theorem witness_RoutedRowsLand_misrouted : (strays.all fun x => arrives (packet x.2) (awaited false) &&
      (awaited false).reserveFor (packet x.2).writer ((awaited false).landRanges (packet x.2))) = true ∧
    (awaited false).replicaState 0 0 1 0 false = none := by decide
theorem test_misrouted : (strays.all fun x => decide ((after x.1 (carrying (packet x.2) (awaited false))).map
    (fun t => ((t.tile 0).misroutes, t.mem == (awaited false).mem)) = some (1, true))) = true := by decide
theorem test_row : ((after (.routeRowArrive 0) (carrying (packet (rowBody 0)) (awaited false))).map fun t =>
      (t.loadNat (tileBase 0 + 0x6020) 2, t.loadNat (tileBase 0 + 0x8008) 4, (t.tile 0).misroutes)) = some (0x0707, 0x80000000, 0) ∧
    ((after (.routeRowArrive 0) (carrying (packet (rowBody 1)) (awaited false))).map fun t => (t.tile 0).misroutes) = some 1 := by decide

/-- A snapshot of one page of scratch by both tiles of team 1, for the host's address 0, with shipped pages gone. -/
def snapped (shipped : Nat) (ended : Bool := false) : State :=
  let regions := [BitVec.ofNat 128 (pack [(48, scratchBase), (24, 1), (56, 0)])]
  { lent with snaps := [(1, { ctx := 1, desc := 0, regions := regions, done := [0, 1], shipped := shipped, ended := ended })] }
theorem witness_SnapshotsShipAndScrubWalks : (snapped 0).alive 0 = true ∧ (snapped 0).notResetting 1 = true ∧ (snapped 0).teamTiles 1 = [0, 1] ∧
    ((tfind 1 (snapped 0).snaps).map fun sn => snapPages sn) = some [scratchBase / 4096] ∧
    (snapped 0).badBlock (scratchBase / 4096 * 4096) 4096 = none ∧
    ((tfind 1 (snapped 1 true).snaps).map fun sn => (snapped 1 true).shipOpen 0 sn) = some false ∧
    (base.usedChannels 0 true).findIdx? (· = 15) = some 15 ∧
    base.badBlock (channelAddr true 0 (base.usedChannels 0 true).length 15 0) 64 = none := by decide
theorem test_scrub : ((after (.patrolScrub 7 false 15 .clean) base).map (·.scrubAt)) = some [(16 * 14 + 15, 1)] := by decide

/-! ## Faults, hangs, resets, dumps -/

def troubled (f : Trouble → Trouble) (s : State := base) : State := { s with trouble := f s.trouble }
def record : Record := { cls := 1, kind := 2, device := 0, source := 0, ctx := 1, seq := 1, cycles := 0, body := [] }
theorem witness_FaultsAreRecordedAndStop : base.alive 0 = true ∧ base.serving = true ∧ base.owned 0 = true ∧ base.teamsOver 0 = [1] ∧
    recordValid ((base.tile 0).records.get .fwd) = false ∧ (base.ctx 1).state = 1 ∧ base.seamRepeats 51 1 + 1 = 1 ∧
    (base.setRepeats 51 1 15).seamRepeats 51 1 + 1 = 16 ∧ (base.setRepeats 51 1 1023).seamRepeats 51 1 + 1 = 1024 ∧
    (troubled (fun t => { t with transit := [record] })).trouble.transit.find?
      (fun r => r.source = 0 && r.cls = 1 && r.device = base.deviceNumber) = some record := by decide
theorem test_seam : ((after (.seamTransferError 51 1) base).map fun t => t.seamRepeats 51 1) = some 1 := by decide

/-- Every thread but fwd halted; fwd waits at a CTWAIT of local tally 3, and is registered there. -/
def locked : State := (core 0x0020D02B (fun t => waits .ctwait (regs 3 2 t))).modTile 0 fun t => { t with
  threads := (t.threads.set .bwd { run := .halt }).set .upd { run := .halt },
  tallies := [(3, { waits := [⟨.ctwait, .fwd, 7, 0, 0, 2, 0, false⟩] })] }
/-- A push that waits for room, and one whose whistle stays low though nothing of its own has moved for longer than the limit. -/
def pushing : State := core 0x0020A00B (fun t => waits .push (staged pushed t))
def pushedBack : State := pushing.modTile 0 fun t => { t with whistles := [(7, { count := 5, own := 200001 })] }
/-- The lock has lasted for the limit. -/
def overdue (s : State := locked) : State := s.modTile 0 fun t => { t with whistles := [(7, { count := 200000, own := 200000 })] }
theorem witness_HangsAreReported : locked.alive 0 = true ∧ locked.notResetting (locked.owner 0) = true ∧
    locked.deadlockEntries 0 = some [⟨2, .fwd, 7, 0, chan1, 3, 0, 2⟩] ∧ unitStream 7 = .fwd ∧
    ([locked, { locked with ctxs := [(1, { (locked.ctx 1) with failAction := 0 })] }].all fun s =>
      (overdue s).owed 0 7 && decide (((overdue s).ctx 1).whistleLimit ≤ ((overdue s).whistle 0 7).count)) = true ∧
    (overdue.ctx 1).failAction.testBit 0 = true ∧
    pushedBack.owed 0 7 = true ∧ 7 ∉ (pushedBack.tile 0).warned ∧ (pushedBack.ctx 1).whistleLimit < (pushedBack.whistle 0 7).own ∧
    (pushedBack.whistle 0 7).count < (pushedBack.ctx 1).whistleLimit := by decide
theorem test_deadlock : ((after (.localDeadlock 0) locked).map fun t => (t.thread 0 .fwd).run) = some .halt ∧
    ((after (.localDeadlock 0) locked).map fun t => (t.tile 0).deadlock.length) = some 32 := by decide
theorem test_whistle : ((after (.whistleWarning 0 7) pushedBack).map fun t => ((t.tile 0).warned, t.trouble.transit.map (·.kind))) =
    some ([7], [0x21]) := by decide

def powered' (restart : Nat) (s : State) : State := s.modPower fun p => { p with restart := restart }
def withCtx (f : Ctx → Ctx) : State := { base with ctxs := [(1, f (base.ctx 1))] }
def asked : State := withCtx fun c => { c with waiting := [(0, false)], epoch := 255 }
def resetting : State := withCtx fun c => { c with state := 4, resetting := some { cause := 0, destroy := false, quiesced := true, awaited := [] } }
theorem witness_ContextResetParksEveryThread : asked.mayReset 1 = true ∧
    (resetting.ctx 1).resetting.map (fun r => (r.awaited, r.destroy)) = some ([], false) ∧ (resetting.ctx 1).state = 4 ∧
    resetting.power.restart = 0 ∧ resetting.ctxTiles 1 = [0, 1] ∧ resetting.alive 0 = true ∧ resetting.owner 0 = 1 := by decide
/-- The same with a destruction, alone and under a restart of base camp that waits for the last context. -/
def destroying (restart : Nat) : State := powered' restart (withCtx fun c => { c with
  state := 4, resetting := some { cause := 2, destroy := true, quiesced := true, awaited := [] } })
theorem witness_ContextResetParksEveryThread_destroys : ([0, 2, 3].all fun k => ((destroying k).ctx 1).resetting.map (fun r => (r.awaited, r.destroy)) =
      some ([], true) && ((destroying k).ctx 1).state = 4 && (destroying k).power.restart = k &&
      (destroying k).ctxs.all fun e => e.1 = 0 || e.1 = 1) = true := by decide
theorem test_destroys : ([0, 2, 3].map fun k => (after (.quiesceComplete 1) (destroying k)).map fun t =>
      ((t.ctx 1).state, t.power.state, t.power.phase, t.teams.length)) =
    [some (0, 2, 0, 1), some (0, 1, 2, 0), some (0, 1, 1, 0)] := by decide
theorem test_reset : ((after (.contextReset 1) asked).map fun t => ((t.ctx 1).state, (t.ctx 1).epoch, (t.chans.map fun e => e.2.live))) =
      some (4, 0, [none]) ∧
    ((after (.quiesceComplete 1) resetting).map fun t => ((t.ctx 1).state, (t.ctx 1).resetting)) = some (1, none) := by decide

/-- A dump of context 1 at depth 0 that waits, in an area of 1 MiB. -/
def dumping (running : Bool) (left : List Nat) : State := troubled fun t => { t with
  dumpBase := scratchBase, dumpSize := 1,
  dumps := [{ ctx := 1, depth := 0, cause := 0, alarmSeq := 0, running := running, left := left }] }
theorem witness_DumpsReadTheirUnits : (dumping false []).dumpReady = true ∧ (dumping true [0, 1]).trouble.dumps.map (·.left) = [[0, 1]] ∧
    (dumping true [0, 1]).unitLength 1 0 0 = 4096 ∧ (dumping true [0x800]).unitLength 1 0 0x800 = 0 := by decide
theorem test_dump : ((after (.dumpUnitAnswer [1]) (dumping true [0])).map fun t => t.trouble.dumps.map fun d => (d.current, d.left)) =
    some [([0], [0])] := by decide

/-! ## Ports -/

/-- Port 11 of a module in SERVICE, with what is said of it. -/
def ported (x : Port) (s : State := base) : State := { s with ports := [(11, x)] }
def cabled : Port := { cable := true, role := 7, liveRole := 7, wantTrain := true }
/-- A cable record with its check byte. -/
def cableRecord : BitVec 256 := BitVec.ofNat 256 (1 * 2 ^ 248 + 5 * 2 ^ 228 + (256 - 1 - 0x50))
theorem witness_PortsTrainAndFall : (ported cabled).portsRun = true ∧ (ported cabled).port 11 = cabled ∧ cabled.mayTrain = true ∧
    cableVerdict { cableRecord := cableRecord } = 1 ∧ cableVerdict {} = 4 ∧
    popCount (0x10#5).toNat 5 = 1 ∧ popCount (0x11#5).toNat 5 = 2 ∧ popCount (0x1F#5).toNat 5 = 5 ∧
    (ported { cabled with state := 2, lanes := 15 }).portUp 11 = true ∧ (15 : Nat).testBit 3 = true ∧
    ({ cabled with state := 2, lanes := 15, role := 0 } : Port).mayTrain = false := by decide
theorem test_training : let step (x : Port) (r : StepReport) := (after (.trainingStepComplete 11 r) (ported x)).map fun t =>
      let y := t.port 11
      (y.state, y.step, y.lanes)
    step { cabled with state := 1, step := 1 } { cableRecord := cableRecord } = some (1, 2, 0) ∧
    step { cabled with state := 1, step := 1 } {} = some (5, 0, 0) ∧
    step { cabled with state := 1, step := 4, good := 0x11 } {} = some (1, 5, 0) ∧
    step { cabled with state := 1, step := 4, good := 0x10 } {} = some (5, 0, 0) ∧
    step { cabled with state := 1, step := 6, good := 0x11, initSeen := true, initAcked := true } {} = some (3, 0, 17) := by decide

def up : Port := { cabled with state := 2, lanes := 15, credits := List.replicate 8 4 }
/-- Flits with their check code: of kinds 0, 1 and 2 with the sequence number n, and control flits of type c. -/
def raw (kind n : Nat) : Nat := kind * 2 ^ 2046 + n * 2 ^ 2031
def rawControl (c : Nat) : Nat := 3 * 2 ^ 2046 + c * 2 ^ 1944 + 0xFF * 2 ^ 1936 + 7 * 2 ^ 1928
/-- A flit passes its check, and has the kind and sequence number it was made with. -/
theorem sealed (w kind n : Nat) (h : (decide (w % 2 ^ 32 = 0) && decide (w < 2 ^ 2048) && decide (bits w 2047 2046 = kind) &&
    decide (bits w 2042 2031 = n)) = true) :
    crcOk (sealFlit w) = true ∧ fKind (sealFlit w) = kind ∧ fSeq (sealFlit w) = n := by
  simp only [Bool.and_eq_true, decide_eq_true_eq] at h
  obtain ⟨⟨⟨h1, h2⟩, h3⟩, h4⟩ := h
  exact ⟨crcOk_sealFlit w h1 h2, by rw [fKind, bits_sealFlit w _ _ h1 h2 (by decide), h3],
    by rw [fSeq, bits_sealFlit w _ _ h1 h2 (by decide), h4]⟩
theorem witness_FlitsAreTaken : (ported up).portsRun = true ∧ (ported up).portUp 11 = true ∧ up.expect = 0 ∧ up.discarding = false ∧
    (crcOk (sealFlit (raw 0 0)) = true ∧ fKind (sealFlit (raw 0 0)) = 0 ∧ fSeq (sealFlit (raw 0 0)) = 0) ∧
    (crcOk (sealFlit (raw 0 4095)) = true ∧ fKind (sealFlit (raw 0 4095)) = 0 ∧ fSeq (sealFlit (raw 0 4095)) = 4095) ∧
    (crcOk (sealFlit (raw 1 0)) = true ∧ fKind (sealFlit (raw 1 0)) = 1 ∧ fSeq (sealFlit (raw 1 0)) = 0) ∧
    (crcOk (sealFlit (raw 2 4095)) = true ∧ fKind (sealFlit (raw 2 4095)) = 2 ∧ fSeq (sealFlit (raw 2 4095)) = 4095) ∧
    (true && crcOk 0) = false :=
  ⟨by decide, by decide, by decide, by decide, sealed _ _ _ (by decide), sealed _ _ _ (by decide), sealed _ _ _ (by decide),
    sealed _ _ _ (by decide), by decide +kernel⟩
theorem witness_FlitsAreTaken_control : (ported { cabled with state := 1, step := 6 }).portUp 11 = false ∧ ∀ c ∈ [1, 2, 3, 4],
    crcOk (sealFlit (rawControl c)) = true ∧ fKind (sealFlit (rawControl c)) = 3 ∧ cType (sealFlit (rawControl c)) = c := by
  refine ⟨by decide, fun c hc => ?_⟩
  have h : decide (rawControl c % 2 ^ 32 = 0) && decide (rawControl c < 2 ^ 2048) && decide (bits (rawControl c) 2047 2046 = 3) &&
      decide (bits (rawControl c) 2042 2031 = 0) && decide (bits (rawControl c) 1951 1944 = c) = true := by
    fin_cases hc <;> decide
  simp only [Bool.and_eq_true, decide_eq_true_eq] at h
  obtain ⟨⟨⟨⟨h1, h2⟩, h3⟩, h4⟩, h5⟩ := h
  exact ⟨crcOk_sealFlit _ h1 h2, by rw [fKind, bits_sealFlit _ _ _ h1 h2 (by decide), h3],
    by rw [cType, bits_sealFlit _ _ _ h1 h2 (by decide), h5]⟩
theorem witness_FlitsAreTaken_init : (ported { cabled with state := 1, step := 6 }).initOk 11 (sealFlit (rawControl 1)) = true ∧
    (ported { cabled with state := 1, step := 6 }).initOk 11 (sealFlit (raw 3 0)) = false := by decide +kernel
theorem witness_FlitsAreTaken_transmit : (ported { up with askDue := true }).portUp 11 = true ∧ up.nextPair = none ∧ up.freed = up.told ∧
    up.controls = [] ∧ up.again = none ∧ (ported {}).power.camp = true ∧ up.asks < 15 ∧ ({ up with asks := 15 } : Port).mayTrain = true ∧
    ({ up with asks := 15, role := 0 } : Port).mayTrain = false := by decide
theorem test_flit : ((after (.messageFlit 11 (sealFlit (raw 0 4095)) true) (ported up)).map fun t => ((t.port 11).askDue, (t.port 11).discarding)) =
    some (true, true) := by decide +kernel
theorem test_sends : ((after (.flitTransmit 11) (ported up)).map (·.sent)) = some [] := by decide

/-! ## The fabric -/

/-- A message from device 5 to this one for context 1. -/
def message (op addr : Nat) (bytes : Nat := 4) (rid : Nat := 0) (op0 : Nat := 0) (op1 : Nat := 0) (sdev : Nat := 5) (tdev : Nat := 0) (status : Nat := 0) : BitVec 256 :=
  BitVec.ofNat 256 (pack [(6, op), (8, sdev), (8, tdev), (8, 1), (8, 0), (32, 0), (2, 0), (16, 0), (48, addr), (9, bytes - 1), (4, 0), (2, 0), (4, status),
    (12, rid), (1, 0), (3, 0), (16, 0), (5, 0), (32, op0), (32, op1)])
/-- The module with message m at the head of the receive buffers of pair k of port 11; contexts are named directly. -/
def hearing (k : Nat) (m : Msg) (s : State := lent) : State :=
  { ported { up with waiting := [(k, m)] } s with fabric := { s.fabric with protect := 1, mode := 1 } }
def hearsB (s : State) (p dl op vc : Nat) (m : Msg) : Bool :=
  decide (p < portCount) && decide (dl < 2) && decide (opChannel op = some vc) && decide ((s.port p).headOf (2 * vc + dl) = some m) &&
  decide (mOp m = op) && s.serving && !s.alarmWaits (0x810 + portDie p) && !s.messageHeld p m
theorem hears_of {s : State} {p dl op vc : Nat} {m : Msg} (h : hearsB s p dl op vc m = true) : Hears s p dl op vc m := by
  simp only [hearsB, Bool.and_eq_true, decide_eq_true_eq, Bool.not_eq_true'] at h
  obtain ⟨⟨⟨⟨⟨⟨⟨h1, h2⟩, h3⟩, h4⟩, h5⟩, h6⟩, h7⟩, h8⟩ := h
  exact ⟨h1, h2, h3, h4, h5, h6, h7, h8⟩
def request (op : Nat) (addr : Nat := scratchBase) (rid : Nat := 0) (op0 : Nat := 0) (op1 : Nat := 0) (data : List Byte := []) : Msg :=
  ⟨message op addr 4 rid op0 op1, data⟩
theorem witness_FabricMessagesAreTaken_reads : let m := request 0x01
    hearsB (hearing 0 m) 11 0 0x01 0 m = true ∧ (hearing 0 m).oldEpoch m = false ∧ (hearing 0 m).localCtx m = some 1 ∧
    (hearing 0 m).accessStatus 1 m false (mBytes m) = none ∧ (hearing 0 m).badBlock (mAddr m) (mBytes m) = none := by decide
theorem witness_FabricMessagesAreTaken_writes : let m := request 0x02 scratchBase 0 0 0 [1, 2, 3, 4]
    hearsB (hearing 1 m) 11 1 0x02 0 m = true ∧ (mReqid m + 65536 - tget 0 (2 * mSdev m) (hearing 1 m).fabric.expect) % 65536 = 0 ∧
    (hearing 1 m).accessStatus 1 m true (mBytes m) = none ∧ (hearing 1 m).reserveRoom { ctx := 1 } (mAddr m) (mBytes m) = true ∧
    (hearing 1 m).landErr { ctx := 1 } (mAddr m) m.data = none := by decide
theorem witness_FabricMessagesAreTaken_atomics : let m := request 0x03 scratchBase 0 7
    hearsB (hearing 0 m) 11 0 0x03 0 m = true ∧ scratchBase ≤ mAddr m ∧ mAddr m % atomWidth (mAtype m) = 0 ∧
    (hearing 0 m).accessStatus 1 m true (atomWidth (mAtype m)) = none ∧ (hearing 0 m).changeBad { ctx := 1 } (mAddr m) (atomWidth (mAtype m)) = none ∧
    hearsB (hearing 0 (request 0x04)) 11 0 0x04 0 (request 0x04) = true := by
  decide
theorem witness_FabricMessagesAreTaken_others : let m : Msg := ⟨message 0x05 0 4 3 0 0, natLE 4 0x3F800000⟩
    let s := hearing 0 m reducing
    hearsB s 11 0 0x05 0 m = true ∧ s.ridOk 1 (mRid m) = true ∧ (tfind (mRid m) s.reds).isSome = true ∧ mAbsent m = false ∧
    rdcMore m = false ∧ s.rdcSoFar m = [0x3F800000#32] ∧ rdcFirst m 1 = 0 ∧
    redRefuses (tfind (mRid m) s.reds) 0 (max 1 (mOp0 m)) ((mOp1 m).testBit 1) = 0 ∧ redArrival redDesc = false ∧
    ((tfind (mRid m) s.reds).bind fun r => r.badSum 0 1) = none ∧
    s.guardStatus 1 m true (redTarget redDesc) (1 * rdWidth redDesc) = none ∧
    hearsB (hearing 4 (request 0x06 9)) 11 0 0x06 2 (request 0x06 9) = true ∧ (hearing 4 (request 0x06 9)).gtallyOk 1 9 = true ∧
    hearsB (hearing 4 (request 0x07)) 11 0 0x07 2 (request 0x07) = true ∧
    hearsB (hearing 6 (request 0x31)) 11 0 0x31 3 (request 0x31) = true := by decide
/-- An RDC that others of its contribution follow, and one that no reduction takes. -/
def contribution (op1 : Nat) (rid : Nat := 3) : Msg := ⟨message 0x05 0 4 rid 0 op1, natLE 4 0x3F800000⟩
theorem witness_FabricMessagesAreTaken_contributions :
    (let m := contribution 5
     let s := hearing 0 m reducing
     hearsB s 11 0 0x05 0 m = true ∧ rdcMore m = true ∧ s.localCtx m = some 1) ∧
    (let m := contribution 4 4
     let s := hearing 0 m reducing
     hearsB s 11 0 0x05 0 m = true ∧ rdcMore m = false ∧ rdcWaits m s = false ∧ s.ridOk 1 (mRid m) = true ∧
     redRefuses (tfind (mRid m) s.reds) (rdcFirst m (s.rdcSoFar m).length) (max (s.rdcSoFar m).length (mOp0 m)) ((mOp1 m).testBit 1) = 5) := by decide
theorem test_contributions : let does (m : Msg) := (after (.rdc 11 0 .clean) (hearing 0 m reducing)).map fun t =>
      (t.fabric.gathers.map (fun g => g.2.2), (tfind 3 t.reds).map (·.count), (t.port 11).out.map fun o => mOp o.msg)
    does (contribution 5) = some ([[0x3F800000#32]], some 0, [0x22]) ∧ does (contribution 4) = some ([], some 1, [0x22]) ∧
    does (contribution 4 4) = some ([], some 0, [0x24]) := by decide
/-- A request to device 5 that has been sent, and a reply to it. -/
def outstanding (op tries : Nat) (s : State := lent) : State :=
  let r : Request := { uid := 3, msg := ⟨message op scratchBase 4 0 0 0 0 5, []⟩, cls := 0, write := true, sent := true, tries := tries }
  { ported up s with fabric := { s.fabric with protect := 1, mode := 1, requests := [r] } }
def reply (op : Nat) (status : Nat := 0) : Msg := ⟨message op scratchBase 4 0 0 0 5 0 status, []⟩
theorem witness_FabricMessagesAreTaken_replies :
    ([(0x21, 0x01), (0x22, 0x02), (0x23, 0x03)].all fun p =>
      let s := hearing 2 (reply p.1) (outstanding p.2 0)
      hearsB s 11 0 p.1 1 (reply p.1) && (s.answered (reply p.1)).isSome && !s.lateReply (reply p.1)) = true ∧
    (let s := hearing 2 (reply 0x24 1) (outstanding 2 0)
     hearsB s 11 0 0x24 1 (reply 0x24 1) = true ∧ (s.answered (reply 0x24 1)).isSome = true ∧ (nakReason 1).isSome = true) ∧
    (let s := hearing 2 (reply 0x22) (outstanding 7 0)
     hearsB s 11 0 0x22 1 (reply 0x22) = true ∧ (s.answered (reply 0x22)).map (fun r => mOp r.msg) = some 7) ∧
    (let s := hearing 2 (reply 0x24 0) (outstanding 2 0)
     hearsB s 11 0 0x24 1 (reply 0x24 0) = true ∧ (s.answered (reply 0x24 0)).isSome = true ∧ nakReason 0 = none) ∧
    ((outstanding 2 0).fabric.requests[0]?.map fun r => (r.sent, (((outstanding 2 0).hop r.msg none 0).isSome, r.tries))) = some (true, true, 0) ∧
    ((outstanding 2 3).fabric.requests[0]?.map fun r => (r.tries, (outstanding 2 3).lateReply r.msg)) = some (3, false) ∧
    (outstanding 2 3).fabric.retries = 3 := by decide
theorem test_fabric : ((after (.wr 11 1) (hearing 1 (request 0x02 scratchBase 0 0 0 [1, 2, 3, 4]))).map fun t =>
      (t.loadBytes scratchBase 4, tget 0 10 t.fabric.expect, (t.port 11).out.map fun o => mOp o.msg)) = some ([1, 2, 3, 4], 1, [0x22]) ∧
    ((after (.rd 11 0 .clean) (hearing 0 (request 0x01) { lent with mem := pokes scratchBase [9] [] })).map fun t =>
      (t.port 11).out.map fun o => (mOp o.msg, o.msg.data)) = some [(0x21, [9, 0, 0, 0])] := by decide
/-- A lock-step frame of a type, from the partner of context 1 at port 11. -/
def framed (typ : Nat) : Msg := ⟨message 0x30 0 16, List.replicate 15 0 ++ [BitVec.ofNat 8 typ]⟩
def mirrored : State := { lent with ctxs := [(1, { (lent.ctx 1) with lockstep := BitVec.ofNat 64 (2 ^ 63 + 5 * 2 ^ 55 + 2 ^ 47 + 11 * 2 ^ 43) })] }
theorem witness_FabricMessagesAreTaken_frames :
    ([1, 2, 3].all fun k => let s := hearing 6 (framed k) mirrored
      hearsB s 11 0 0x30 3 (framed k) && decide (s.frameCtx 11 (framed k) = some 1) && decide (frType (framed k) = k) &&
      ((tget {} (frSeq (framed k)) (s.tile (frTile (framed k))).lockSeqs).closed.find? fun w => w.number = frWindow (framed k)).isNone) = true ∧
    (hearing 6 (framed 1)).frameCtx 11 (framed 1) = none ∧ (hearing 6 (framed 4) mirrored).frameCtx 11 (framed 4) = some 1 ∧
    frType (framed 4) = 4 := by decide

/-! ## Requests -/

def asksB (s : State) (src : Requester) (i sub : Nat) (bs : List Byte) : Bool :=
  s.reaches src && s.framed src { typ := 2, seq := 0, index := i, sub := sub, value := bs } && mayAsk src i sub && (s.stored src).isNone &&
  !s.turnedAway src && !s.power.rom
theorem asks_of {s : State} {src : Requester} {i sub : Nat} {bs : List Byte} (h : asksB s src i sub bs = true) : Asks s src i sub bs := by
  simp only [asksB, Bool.and_eq_true, Bool.not_eq_true', Option.isNone_iff_eq_none] at h
  obtain ⟨⟨⟨⟨⟨h1, h2⟩, h3⟩, h4⟩, h5⟩, h6⟩ := h
  exact ⟨h1, h2, h3, h4, h5, h6⟩
def peer : Requester := .benvon 1 2 3
theorem witness_RefusedRequestsChangeNothing : asksB base peer 0xFFFF 0 [1] = true ∧ base.unreadable 0xFFFF 0 [1] = none ∧ (opWrite 0xFFFF 0 [1] base).abort = 0x0102 ∧
    base.reaches peer = true ∧ base.framed peer { typ := 1, seq := 0, index := 0, sub := 0 } = true := by decide
theorem test_refusals : (opWrite 0x6001 1 [2, 0] base).abort = 0x0103 ∧ (opWrite 0x1000 0 [1] base).abort = 0x0101 ∧ (opWrite 0x6001 1 [2] base).abort = 0 ∧
    (opWrite 0x6001 1 [1] base).abort = 0x0106 := by decide

/-- The module with a retry record of peer. -/
def replied : State := { base with camp := { base.camp with retries := ((srcPeer peer).map fun p => ({ peer := p, seq := 3, reply := [1] } : Retry)).toList } }
/-- The request of peer came as the ninth in flight. -/
def crammed : State := { base with camp := { base.camp with busy := (srcPeer peer).toList.map fun p => (p, srcSeq base peer) } }
def windowFrame (typ : Nat) : List Byte := frame typ 5 0x6001 2 0 0 0 (if typ = 2 then [1] else [])
def windowed (typ : Nat) : State := base.modFn 0 fun x => { x with frame := windowFrame typ ++ List.replicate 1023 0 }
theorem witness_ManagementMessagesAreAnswered : base.reaches peer = true ∧ base.framed peer { typ := 3, seq := 0 } = true ∧ base.stored peer = none ∧ base.turnedAway peer = false ∧
    crammed.stored peer = none ∧ crammed.turnedAway peer = true ∧ base.power.rom = false ∧ (replied.stored peer).isSome = true ∧ (srcPeer peer).isSome = true ∧ mayAsk peer 0x6001 2 = true ∧
    base.power.camp = true ∧ base.mctpUp = true ∧ base.pcieUp = true ∧ base.power.phase ≠ 1 ∧
    (2 : Byte) ≠ 0 ∧ (2 : Byte) ≠ 0xFF#8 ∧ base.reaches (.window 0) = true := by decide
theorem vendorId_lt : vendorId < 65536 := by
  have h0 := (Config.identity 1 0).isLt
  have h1 := (Config.identity 1 1).isLt
  simp only [vendorId]; omega
theorem witness_ManagementMessagesAreAnswered_vendor : ∃ body : List Byte, leNat (body.take 2) = vendorId ∧ (parseFrame (body.drop 2)).2 = true ∧
    (parseFrame (body.drop 2)).1.typ = 2 ∧ ∀ q, base.stored (.mctp 9 0 q) = none ∧ base.turnedAway (.mctp 9 0 q) = false := by
  refine ⟨natLE 2 vendorId ++ windowFrame 2, ?_, ?_⟩
  · rw [List.take_left' (natLE_length 2 _), leNat_natLE]
    exact Nat.mod_eq_of_lt vendorId_lt
  · rw [List.drop_left' (natLE_length 2 _)]
    exact ⟨by decide +kernel, by decide +kernel, fun _ => ⟨rfl, rfl⟩⟩
theorem witness_ManagementMessagesAreAnswered_frames : (parseFrame (windowed 1 |>.fn 0).frame).2 = true ∧
    (parseFrame (windowed 1 |>.fn 0).frame).1.typ = 1 ∧ (parseFrame (windowed 2 |>.fn 0).frame).2 = true ∧
    (parseFrame (windowed 2 |>.fn 0).frame).1.typ = 2 ∧
    (parseFrame (windowed 2 |>.fn 0).frame).1.arg = 0 ∧ (windowed 2).reaches (.window 0) = true ∧ (windowed 2).stored (.window 0) = none ∧
    (windowed 2).turnedAway (.window 0) = false := by decide +kernel
/-- GO on a frame that reads 0x1000 sub 2 is answered in the window with type 0x81. -/
theorem test_go : ((after (.winGo 0 1) (windowed 1)).map fun t => bits (beNat ((t.fn 0).frame.take 32)) 231 224) = some 0x81 := by decide +kernel
theorem witness_ManagementMessagesAreAnswered_rings : ((base.fn 63).ringSel = 0) ∧ (base.ring 63 0).entries = [] ∧
    subKind (({ base with camp := { base.camp with subs := base.camp.subs.set 7 { desc := BitVec.ofNat 192 (2 ^ 190) } } } : State).sub 7).desc = 1 := by
  decide
theorem test_mctp : (after (.setEndpointId 9 0xFF 2) base).map (fun t => (t.camp.eid, t.sent)) =
      some (2#8, [.mctp 9 [0, 0x1F, 1, 0, 0, 2, 0]]) ∧
    (after (.setEndpointId 9 0 0xFF) base).map (fun t => (t.camp.eid, t.sent)) = some (0#8, [.mctp 9 [0, 0, 1, 2]]) := by decide
theorem test_bar0 : ((after (.bar0RegisterWrite 63 0x18 0x12345) base).map fun t => (t.ring 63 0).base) = some 0x12000 := by decide

/-! ## Orders -/

def asksPeer (s : State) (i sub : Nat) (bs : List Byte) : Bool := asksB s peer i sub bs
/-- A team or huddle request: its operation, its number's field and its descriptor. -/
def order (op no at' : Nat) (d : BitVec 128) : BitVec 160 := BitVec.ofNat 160 (op * 2 ^ 152 + no * 2 ^ at' + d.toNat)
theorem witness_OrdersAreAccepted_contexts :
    ((base.ctx 2).state = 0 ∧ base.serving = true ∧ base.trouble.faulted = false ∧ base.power.restart = 0 ∧ base.lockOk 2 = true ∧ base.panel.attn = false ∧
      (base.ctx 2).snapReserve = 0 ∧ asksPeer base 0x6001 1 (natLE 1 2) = true) ∧
    (base.changeable 1 = true ∧ asksPeer base 0x6001 3 (natLE 1 1) = true) ∧
    (base.exists? 1 = true ∧ (base.ctx 1).state ≠ 4 ∧ asksPeer base 0x6001 2 (natLE 1 1) = true) := by decide
theorem witness_OrdersAreAccepted_teams :
    (let w := order 1 2 140 (withField (rect 1 4 0 1 1) 19 12 0)
     rqOp w = 1 ∧ rqTeam w = 2 ∧ rqTeamZero w = true ∧ base.teamFieldBad (rqDesc w) = false ∧ teamKind (base.team 2) = 0 ∧
       base.teamHeld (rqDesc w) = false ∧ base.teamAbsent (rqDesc w) = false ∧ asksPeer base 0x6010 1 (natLE 20 w.toNat) = true) ∧
    (let w := order 2 1 140 0
     rqOp w = 2 ∧ rqTeam w = 1 ∧ rqTeamZero w = true ∧ rqDesc w = 0 ∧ teamKind (base.team 1) ≠ 0 ∧ base.changeable (teamCtx (base.team 1)) = true ∧
       teamParent (base.team 1) = 0 ∧ base.teamBusy 1 = false ∧ base.inRound 1 = false ∧ asksPeer base 0x6010 1 (natLE 20 w.toNat) = true) := by
  decide
theorem witness_OrdersAreAccepted_huddles :
    (let w := order 1 3 128 (withField huddleDesc 80 12 0)
     rqOp w = 1 ∧ rqHuddle w = 3 ∧ rqHuddleZero w = true ∧ gathered.huddleFieldBad (rqDesc w) = false ∧ tfind 3 gathered.huddles = none ∧
       gathered.changeable (hdCtx (rqDesc w)) = true ∧ teamKind (gathered.team (hdGroup (rqDesc w))) ≠ 0 ∧
       teamCtx (gathered.team (hdGroup (rqDesc w))) = hdCtx (rqDesc w) ∧ gathered.owned (hdHome (rqDesc w)) = true ∧
       gathered.owner (hdHome (rqDesc w)) = hdCtx (rqDesc w) ∧ asksPeer gathered 0x6011 1 (natLE 20 w.toNat) = true) ∧
    (let w := order 2 0 128 0
     rqOp w = 2 ∧ rqHuddle w = 0 ∧ rqHuddleZero w = true ∧ rqDesc w = 0 ∧ tfind 0 gathered.huddles = some { desc := huddleDesc } ∧
       gathered.changeable (hdCtx huddleDesc) = true ∧ gathered.huddleHeld 0 = false ∧ asksPeer gathered 0x6011 1 (natLE 20 w.toNat) = true) := by
  decide
theorem newChan_of (s : State) (c k : Nat) (hk : k < 65536) (h0 : (s.ctx c).chanLimit = 0)
    (h : ((tget {} k s.chans).live = none && !s.chanSlotBusy k) = true) : (s.newChan c).isSome = true := by
  simp only [State.newChan, h0, bne_self_eq_false, Bool.false_and, Bool.false_eq_true, if_false, Option.isSome_map, State.freeSlot,
    List.find?_isSome, List.mem_range]
  exact ⟨k, hk, h⟩
theorem witness_OrdersAreAccepted_channels : (base.newChan 1).isSome = true ∧ asksPeer base 0x6020 1 (natLE 1 1) = true ∧
    (base.chanLive chan1 = true ∧ base.changeable (base.chanOwner chan1) = true ∧ base.carried chan1 = false ∧
      asksPeer base 0x6020 2 (natLE 4 chan1.toNat) = true) :=
  ⟨newChan_of base 1 2 (by decide) rfl (by decide), by decide⟩

/-- A job record: its kind, team, table, entries, tallies of launch and of models done, destination. -/
def jobRecord (kind team table count launch done destKind dest : Nat) : BitVec 512 := BitVec.ofNat 512 (pack [(8, 1), (2, kind), (4, 3), (12, team),
  (48, table), (16, count - 1), (16, launch), (16, done), (17, 32), (1, 0), (16, 7), (16, 8), (32, 0), (2, destKind), (64, dest), (16, 0), (226, 0)])
/-- Two models of two pages each, to be placed at 0x1000. -/
def modelTable : List Byte := [0x4000, 0x6000].flatMap fun o => natLE 32 (pack [(48, scratchBase + o), (24, 2), (22, 0x1000), (16, 0), (64, 5), (82, 0)])
/-- A record of a batch at offset 0x2000 of scratch, and its table. -/
def placed : State := { lent with
  teams := gathered.teams,
  mem := pokes (scratchBase + 0x2000) (natLE 64 (jobRecord 0 2 (scratchBase + 0x3000) 2 20 30 0 0).toNat) (pokes (scratchBase + 0x3000) modelTable []) }
def jobOf (record : BitVec 512) (state : Nat := 0) (f : Job → Job := id) : State := { placed with
  service := { placed.service with jobs := [f { id := 4, record := record, state := state }] } }
def batch : BitVec 512 := jobRecord 0 2 (scratchBase + 0x3000) 2 20 30 0 0
theorem witness_OrdersAreAccepted_jobs :
    ((placed.submit (scratchBase + 0x2000) fun _ => true).isRight = true ∧ asksPeer placed 0xA010 1 (natLE 8 (scratchBase + 0x2000)) = true) ∧
    ((jobOf batch).job 4).map (·.open) = some true ∧ (jobOf batch).serving = true ∧ asksPeer (jobOf batch) 0xA010 3 (natLE 4 4) = true := by
  decide +kernel
theorem witness_OrdersAreAccepted_tiles : base.alive 2047 = true ∧ base.bankActive 0 1 = false ∧ base.alive 0 = true ∧
    asksPeer base 0x7010 1 (natLE 2 (32 * 0 + 16 * 1) ++ natLE 2 0xFFFF ++ [5]) = true ∧ 0xFFFF + [5].length ≤ 0x10000 ∧
    (base.tile 0).corePartBad 2 0xFFFF [5] = none ∧
    asksPeer base (0x8800 + 2047) (streamNo .upd + 1) (natLE 32 (2 ^ 255)) = true := by decide
theorem witness_OrdersAreAccepted_trouble : ([1, 2, 4, 8, 16, 32].all fun v => asksPeer base 0x8001 2 (natLE 4 v)) = true ∧
    (let s := troubled fun t => { t with dumpBase := nearBase, dumpSize := 0x1000 }
     s.serving = true ∧ s.dumpReady = true ∧ s.exists? 1 = true ∧ asksPeer s 0x8300 4 (natLE 2 (256 * 2 + 1)) = true) ∧
    asksPeer base 0x4040 1 (natLE 1 63) = true ∧
    ((ported cabled).port 11).mayTrain = true ∧ asksPeer (ported cabled) 0x4007 12 (natLE 1 1) = true := by decide
theorem witness_OrdersAreAccepted_trust : ([(0x6112, 1, natLE 1 1), (0x6112, 1, natLE 1 0), (0x9030, 1, natLE 8 nearBase),
      (0x9030, 3, natLE 4 0x1FFFFFF ++ [7]), (0x9030, 4, natLE 1 1), (0x9021, 4, natLE 1 9), (0x9040, 1, natLE 32 5), (0x2030, 1, natLE 1 1), (0x2030, 1, natLE 1 2),
      (0x2030, 1, natLE 1 3)].all fun p => asksPeer base p.1 p.2.1 p.2.2) = true ∧
    base.external nearBase 256 = true ∧ base.power.state ≠ 1 ∧ imgLength 0 = 0 ∧
    (let s := base.modKind 3 fun k => { k with running := some { svn := 9, version := 0, digest := 0 } }
     (s.kind 3).fused ≤ 9 ∧ ((s.kind 3).running.map (·.svn)) = some 9) ∧
    base.mayRestart = true ∧ base.power.restart = 0 ∧ ({ base with ctxs := [] } : State).noCtxs = true := by decide
theorem witness_OrdersAreAccepted_readable : base.stageBad nearBase = none ∧ base.unreadable 0x9030 1 (natLE 8 nearBase) = none := by
  decide +kernel
theorem witness_OrdersAreAccepted_images : beNat (base.loadBytes nearBase 256) = 0 ∧ beNat (peeks base.trust.upload 0 256) = 0 := by
  decide +kernel

/-! ## The host -/

/-- A ring entry of operation o for context c with argument bits a. -/
def ringEntry (o c a : Nat) : BitVec 512 := BitVec.ofNat 512 (pack [(8, o), (8, c), (16, 5), (480, a)])
/-- Ring 0 of function 0 with an entry at its front. -/
def ringed (e : BitVec 512) (s : State := base) : State :=
  s.modRing 0 0 fun x => { x with enable := true, tail := 1, entries := [e] }
def fronts (s : State) (op : Nat) (e : BitVec 512) (overlaps : Bool := false) : Bool :=
  decide (s.frontOf 0 0 overlaps = some e) && decide (qOp e = op) && s.mayName 0 (qCtx e)
/-- Every BAR2 has its first GiB. -/
theorem inBar2_of (s : State) (f off len : Nat) (h : off + len ≤ 2 ^ 30) : s.inBar2 f off len = true :=
  decide_eq_true (Nat.le_trans h (Nat.pow_le_pow_right (by decide) (Nat.le_max_left _ _)))
/-- BAR2 of functions 0 and 1 shows the scratch, and a write of function 0 waits. -/
def shown : State := (base.modFn 0 fun x => { x with bar2Base := scratchBase }).modFn 1 fun x => { x with bar2Base := scratchBase }
def delayed : State := shown.modFn 0 fun x => { x with posted := [.signal 0 1] }
theorem witness_HostRequestsHaveTheirEffects_bar2 : shown.pcieUp = true ∧ shown.homesRun = true ∧ shown.serving = true ∧
    ((shown.fn 0).bar2Base = scratchBase ∧ shown.fnMay 0 scratchBase 4 = true ∧ shown.badBlock scratchBase 4 = none ∧
      shown.hostRoom scratchBase 4 = true) ∧
    (shown.fn 0).posted = [] ∧ (delayed.fn 0).posted ≠ [] ∧ delayed.fnMay 0 scratchBase 4 = true ∧
    shown.fnMay 1 scratchBase 4 = false ∧ (shown.fn 1).posted = [] ∧ shown.fnTally 0 65535 = true ∧ shown.fnTally 1 0 = false ∧
    (shown.gtally 0).claims = [] ∧ (shown.gtally 0).value + 1 < 2 ^ 32 := by decide
theorem test_posted : ((after (.tallyDb 0 0 2) delayed).map fun t => ((t.fn 0).posted.length, (t.gtally 0).value)) = some (2, 0) ∧
    ((after (.tallyDb 0 0 2) shown).map fun t => (t.gtally 0).value) = some 2 := by decide
theorem witness_HostRequestsHaveTheirEffects_doorbell : ((ringed 0).ring 0 0).enable = true ∧ ((base.ring 63 15).enable = false) ∧
    (let x := (ringed 0).ring 0 0
     15 < x.size ∧ (List.replicate 14 (0 : BitVec 512)).length = (15 + x.size - x.tail % x.size) % x.size) := by decide
theorem witness_HostRequestsHaveTheirEffects_start : let e := ringEntry 3 1 (pack [(12, 1), (3, 7), (465, 0)])
    fronts (ringed e) 3 e = true ∧ qArg e 464 0 = 0 ∧ (ringed e).running (qCtx e) = true ∧ (ringed e).destroying (qCtx e) = false ∧ qArg e 479 468 = 1 ∧
    (ringed e).teamOf (qCtx e) 1 = true ∧ (ringed e).teamBlocked 1 = false ∧ startStreams e = allStreams ∧
    ((ringed e).teamTiles 1).all (fun n => allStreams.all fun st => decide (((ringed e).thread n st).run = .park)) = true := by decide
theorem witness_HostRequestsHaveTheirEffects_signals : let e := ringEntry 5 1 (pack [(16, 9), (32, 3), (432, 0)])
    let e0 := ringEntry 0 0 0
    fronts (ringed e) 5 e = true ∧ qArg e 431 0 = 0 ∧ (ringed e).fnTally 0 (qArg e 479 464) = true ∧ (ringed e).destroying (qCtx e) = false ∧
    ((ringed e).fn 0).posted = [] ∧ fronts (ringed e0) 0 e0 = true ∧ qArg e0 479 0 = 0 := by decide
/-- An HCOPY of four bytes at the start of the scratch, to or from the host. -/
def copyEntry (toHost : Nat) : BitVec 512 := ringEntry 4 1 (pack [(1, toHost), (48, scratchBase), (64, 0x1000), (32, 4), (1, 0), (16, 0), (318, 0)])
def copying (toHost : Nat) : State := base.modRing 0 0 fun x => { x with enable := true, copies := [{ entry := copyEntry toHost, data := [1, 2, 3, 4] }] }
theorem witness_HostRequestsHaveTheirEffects_copies : ([0, 1].all fun d => let s := ringed (copyEntry d)
      fronts s 4 (copyEntry d) true && decide (hcRefusal s 0 (copyEntry d) = 0) && decide (hcToHost (copyEntry d) = (d = 1)) &&
      decide (hcAddr (copyEntry d) = scratchBase) && decide (hcLen (copyEntry d) = 4) && (s.badBlock scratchBase 4).isNone) = true ∧
    ([0, 1].all fun d => decide ((((copying d).ring 0 0).copies[0]?).map (·.entry) = some (copyEntry d)) && !hcTallyEn (copyEntry d) &&
      (copying d).hostRoom scratchBase 4 && (copying d).pcieUp) = true := by decide
/-- Entries that stand in for writes of the dictionary. -/
def resetEntry : BitVec 512 := ringEntry 6 1 0
def createEntry : BitVec 512 := ringEntry 1 1 0
def destroyEntry : BitVec 512 := ringEntry 2 0 (pack [(32, chan1.toNat), (448, 0)])
def submitEntry : BitVec 512 := ringEntry 7 0 (pack [(48, scratchBase + 0x2000), (432, 0)])
theorem witness_HostRequestsHaveTheirEffects_stands : fronts (ringed resetEntry) 6 resetEntry = true ∧ qCtx resetEntry = 1 ∧ qArg resetEntry 479 0 = 0 ∧
    (ringed resetEntry).exists? 1 = true ∧ ((ringed resetEntry).ctx 1).state ≠ 4 ∧
    fronts (ringed createEntry) 1 createEntry = true ∧ qArg createEntry 479 0 = 0 ∧ (ringed createEntry).changeable 1 = true ∧
    fronts (ringed destroyEntry) 2 destroyEntry = true ∧ qArg destroyEntry 479 448 = chan1.toNat ∧ qArg destroyEntry 447 0 = 0 ∧
    (ringed destroyEntry).chanLive chan1 = true ∧ (ringed destroyEntry).carried chan1 = false ∧ base.power.rom = false := by decide
theorem witness_HostRequestsHaveTheirEffects_channel : ((ringed createEntry).newChan 1).isSome = true :=
  newChan_of _ 1 2 (by decide) (by decide) (by decide)
theorem witness_HostRequestsHaveTheirEffects_submit : fronts (ringed submitEntry placed) 7 submitEntry = true ∧ qArg submitEntry 431 0 = 0 ∧
    ((ringed submitEntry placed).submit (qArg submitEntry 479 432) ((ringed submitEntry placed).mayName 0)).isRight = true := by decide +kernel
theorem witness_HostRequestsHaveTheirEffects_doe : base.physical 0 = true ∧ (List.replicate 32 (0 : Byte)).length = 32 := by decide

/-! ## The onboard service -/

def svc (s : State) : State := { s with service := { s.service with state := 1 } }
def running : State := jobOf batch 1 fun j => { j with members := [{ team := 1 }], chans := [0x00020001#32, 0x00030001#32] }
/-- Model 0 of the batch is with its member. -/
def handed : State := jobOf batch 1 fun j => { j with next := 1, members := [{ team := 1, model := some 0 }], chans := [0x00020001#32, 0x00030001#32] }
theorem witness_TheServiceWorks_starts : (svc (jobOf batch)).svcStarts = true ∧ ((svc (jobOf batch)).nextJob.map (·.id)) = some 4 ∧
    batch.toNat / 2 ^ 502 % 4 = 0 ∧ (svc (jobOf (jobRecord 2 0 0 1 0 0 0 0))).nextJob.map (·.kind) = some 2 := by decide +kernel
/-- A batch of one model. -/
def single : BitVec 512 := jobRecord 0 2 (scratchBase + 0x3000) 1 20 30 0 0
theorem witness_TheServiceWorks_channels : ((jobOf single).job 4).map (fun j => (j.ctx, j.count)) = some (1, 1) ∧
    ((jobOf single).modelChans 1 1).isSome = true := by
  refine ⟨by decide +kernel, ?_⟩
  have h := newChan_of (jobOf single) 1 2 (by decide) (by decide) (by decide)
  simpa [State.modelChans] using h
theorem witness_TheServiceWorks_models : running.svcStarts = true ∧ ((running.job 4).map fun j => (j.state, j.kind, j.cancelling, j.next)) = some (1, 0, false, 0) ∧
    ((running.job 4).bind running.freeMember) = some 0 ∧
    ((running.job 4).map fun j => running.modelFits j (running.model j 0) (running.teamTiles 1).length) = some true ∧
    ((running.job 4).map fun j => { running with mem := [] }.modelFits j (running.model j 0 + 2 ^ 208) (running.teamTiles 1).length) = some false ∧
    running.notResetting 1 = true ∧ ((running.job 4).map fun j => (j.ctx, running.badBlock (State.modelAt j 0) 32)) = some (1, none) ∧
    ((running.teamTiles 1).all fun n => decide ((running.tile n).corePartBad 0 32 (List.replicate 32 0) = none)) = true := by decide +kernel
theorem witness_TheServiceWorks_ends : handed.svcRuns = true ∧ ((handed.job 4).bind fun j => (j.members[0]?).map (·.model)) = some (some 0) ∧
    handed.teamHalted 1 = false ∧ ((handed.modTile 0 fun t => { t with threads := t.threads.set .fwd { run := .halt } }).teamHalted 1) = true := by
  decide +kernel

/-! ## Power and the panel -/

def powered (f : Power → Power) (s : State := base) : State := s.modPower f
def installed (k : Nat) (s : State) : State := s.modKind k fun x => { x with a := some { svn := 0, version := 0, digest := 0 } }
/-- A module in a phase of a bring-up on main power. -/
def inPhase (k : Nat) (s : State := base) : State := powered (fun p => { p with state := 1, phase := k }) s
theorem witness_PowerStatesFollowTheirEvents_supplies : State.reset.power.mainOk = false ∧ State.reset.power.backupOk = false ∧
    (powered (fun p => { p with backupOk := false })).power.mainOk = true ∧
    (let p := (powered (fun p => { p with mainOk := false, state := 0 })).power
     p.backupOk = true ∧ p.state = 0 ∧ p.phase = 0) ∧
    (powered (fun p => { p with mainOk := false, state := 4 })).power.cool = true ∧
    base.power.mainOk = true ∧ base.power.backupOk = true ∧ base.power.state = 2 := by decide
theorem witness_PowerStatesFollowTheirEvents_phases : (inPhase 2 (powered fun p => { p with slots := 7 })).power.slots = 7 ∧
    ((installed 0 (inPhase 1)).startKind 0).isSome = true ∧ ((base.modKind 0 fun _ => {}).startKind 0).isSome = false ∧
    ((installed 3 (inPhase 7)).startKind 3).isSome = true ∧ ((installed 1 (inPhase 2)).startKind 1).isSome = true ∧
    ((installed 2 (inPhase 3)).startKind 2).isSome = true ∧ (inPhase 2).power.slots = 8 ∧ (inPhase 5).power.warm = false := by decide
theorem witness_PowerStatesFollowTheirEvents_reports : seamsFail {} = false ∧ seamsFail { failedLanes := (List.range 9).map fun k => (0, 0, k) } = true ∧
    (inPhase 4).yieldFails {} = false ∧ (inPhase 4).yieldFails { failedTiles := [(0, 0, 0), (0, 0, 1)] } = true ∧
    (powered (fun p => { p with yieldMap := [(0, 0, 5)] })).yieldFails { failedTiles := [(0, 0, 6)] } = true ∧ PhaseReport.wf {} = true ∧
    (PhaseReport.wf { failedLanes := (List.range 9).map fun k => (0, 0, k) }) = true ∧ ((inPhase 5).retireChannels []).memoryFails = false := by decide
theorem witness_PowerStatesFollowTheirEvents_camp : ((installed 0 (powered fun p => { p with state := 0, phase := 1 })).startKind 0).isSome = true ∧
    ((installed 0 (powered fun p => { p with state := 3, phase := 1 })).startKind 0).isSome = true ∧
    ((installed 0 (powered fun p => { p with state := 4, phase := 1 })).startKind 0).isSome = true ∧ base.power.rom = false := by decide
/-- The backup fails in HOLD while main power is good: the memory is lost, and the module stops, or starts cold where it may. -/
theorem test_hold_lost : ([99000, 90000].map fun v =>
      (after .backupFail (powered fun p => { p with state := 4, memKept := true, thermTrip := true, temps := [(0, v)] })).map fun t => (t.power.state, t.power.memKept, t.power.status.getLsbD 2, t.power.eventSeq)) =
    [some (5, false, true, 1), some (1, false, true, 1)] := by decide
theorem witness_PowerStatesFollowTheirEvents_steps : (powered fun p => { p with state := 3, rideSteps := 3 }).power.rideSteps = 3 ∧
    (powered fun p => { p with state := 4 }).power.state = 4 := by decide

theorem witness_LoopsAndButtonAct : base.power.limit < 65535 ∧ base.power.limit * 97 ≤ 2400 * 100 ∧ 100 * 100 < base.power.limit * 97 ∧
    (let p := { base.power with under := 9, lowered := [2] }
     p.under = 9 ∧ p.follow.clockLive = p.clockLive ∧ 400 < p.ceiling 0 ∧ p.ceiling 0 < p.clockLive) ∧
    ({ base.power with clockMhz := 1000 } : Power).clockMhz ≤ ({ base.power with clockMhz := 1000 } : Power).clockLive ∧
    (powered fun p => { p with state := 3 }).serving = false ∧ base.power.under < 9 ∧ 425 ≤ base.power.ceiling 2047 ∧ base.power.camp = true ∧ base.alive 2047 = true ∧
    (powered fun p => { p with freqs := [(0, 400)] }).power.freq 0 + 25 ≤ base.power.ceiling 0 ∧
    base.power.ceiling 0 < base.power.freq 0 + 25 ∧ 25 < base.power.freq 0 ∧ base.power.rom = false ∧ base.power.restart = 0 ∧
    (powered fun p => { p with state := 5 }).power.mayStart = true ∧ base.buttonActs = true := by decide
theorem test_raise : ((after (.powerControlTick 100) (powered fun p => { p with under := 9, lowered := [2] })).map fun t =>
      (t.power.ceiling 0, t.power.ceiling 1, t.power.under)) = some (base.power.clockLive - 25, base.power.clockLive, 0) := by decide +kernel
/-- The button held past 5 s in RIDE, where its 2 s mark came before: the LED is steady. -/
theorem test_held : ((after .buttonLongPress ((powered fun p => { p with state := 3 }).modPanel fun p => { p with held := 1 })).map fun t =>
    t.panel.held) = some 2 := by decide

end Sys2Proof.Tests
end

namespace Sys2Proof.Machine

/-! ## A command answers where its place exists

Every command first asks whether the place it names exists (spec/01 R17, spec/10 R324, spec/14 R446); from there on each of its
branches is a next state. One lemma per shared shape of a row says so, with its counterpart for a place that does not exist. -/

/-- The outcome is a next state: neither a fault nor a refusal. -/
def IsNext (r : Result) : Prop := ∃ t, r = .next t

namespace IsNext

theorem next (t : State) : IsNext (.next t) := ⟨t, rfl⟩

theorem ite {c : Prop} [Decidable c] {r q : Result} (h : IsNext r) (g : IsNext q) : IsNext (if c then r else q) := by
  split
  · exact h
  · exact g

/-- A check of the place that holds. -/
theorem present {c : Prop} [Decidable c] {r q : Result} (hc : c) (h : IsNext r) : IsNext (if c then r else q) := by
  rwa [if_pos hc]

/-- A check for a place out of range that finds none. -/
theorem inRange {c : Prop} [Decidable c] {r q : Result} (hc : ¬c) (h : IsNext r) : IsNext (if c then q else r) := by
  rwa [if_neg hc]

end IsNext

/-! ### The shared shapes of the rows -/

theorem atPlace_isNext {ok : Bool} (s : State) (h : ok = true) : IsNext (atPlace ok s) := .present h (.next s)

theorem atPlace_eq_fault {ok : Bool} (s : State) (h : ok = false) : atPlace ok s = .fault .noSuchPlace := by simp [atPlace, h]

theorem onInstr_isNext {n : Nat} (st : Stream) (s : State) (f : RvOp → Nat → Option State) (h : n < 2048) :
    IsNext (onInstr n st s f) := by
  refine .present h (.ite ?_ (.next s))
  cases s.current n st with
  | none => exact .next s
  | some o => exact .next _

theorem onWait_isNext {n : Nat} (st : Stream) (w : WaitAt) (s : State) (f : RvOp → Nat → Option State) (h : n < 2048) :
    IsNext (onWait n st w s f) := by
  refine .present h ?_
  cases s.waiting n st w with
  | none => exact .next s
  | some o => exact .next _

theorem issueWith_isNext {n : Nat} (e : Engine) (op : Nat) (c : Cmd) (found : State → Entry → State) (st : Stream) (s : State)
    (h : n < 2048) : IsNext (issueWith e op c found n st s) := by
  refine .present h (.ite ?_ (.next s))
  cases s.head n e st with
  | none => exact .next s
  | some x => exact .ite (.next s) (.ite (.next _) (.ite (.next _) (.next s)))

theorem issueRow_isNext {n : Nat} (e : Engine) (op : Nat) (c : Cmd) (st : Stream) (s : State) (h : n < 2048) :
    IsNext (issueRow e op c n st s) := issueWith_isNext e op c _ st s h

theorem issueRow_eq_fault {n : Nat} (e : Engine) (op : Nat) (c : Cmd) (st : Stream) (s : State) (h : 2048 ≤ n) :
    issueRow e op c n st s = .fault .noSuchPlace := if_neg (Nat.not_lt.mpr h)

theorem plainRow_isNext {n : Nat} (e : Engine) (mine : Entry → Bool) (bad : State → Nat → Entry → Option Bad) (st : Stream)
    (s : State) (h : n < 2048) : IsNext (plainRow e mine bad n st s) := by
  refine .present h ?_
  cases s.completing n e st with
  | some x => exact .ite (.next _) (.next s)
  | none =>
    cases s.head n e st with
    | some x => exact .ite (.next _) (.next s)
    | none => exact .next s

theorem onPacket_isNext (k : Nat) (s : State) (want : Packet → Bool) (f : Packet → State → State) :
    IsNext (onPacket k s want f) := by
  unfold onPacket
  cases s.arrival k with
  | none => exact .next s
  | some p =>
    refine .ite (.next s) (.ite (.next _) ?_)
    cases p.dst with
    | tile n => exact .ite (.next _) (.next _)
    | _ => exact .next _

theorem onFlit_isNext {p : Nat} (flit : BitVec 2048) (fecOk : Bool) (kind : Nat) (s : State) (f : State → State)
    (h : p < portCount) : IsNext (onFlit p flit fecOk kind s f) :=
  .present h (.ite (.next s) (.ite (.next _) (.next _)))

theorem onControl_isNext {p : Nat} (f : BitVec 2048) (ctype : Nat) (s : State) (g : State → State) (h : p < portCount) :
    IsNext (onControl p f ctype s g) :=
  .present h (.ite (.next s) (.ite (.next _) (.ite (.next s) (.ite (.next _) (.ite (.next _) (.next s))))))

theorem onMessage_isNext {p dl : Nat} (op : Nat) (s : State) (waits : Msg → State → Bool) (f : Msg → State → State)
    (h : p < portCount ∧ dl < 2) : IsNext (onMessage p dl op s waits f) := by
  refine .present h ?_
  cases opChannel op with
  | none => exact .next s
  | some vc =>
    dsimp only
    cases (s.port p).headOf (2 * vc + dl) with
    | none => exact .next s
    | some m => exact .ite (.next s) (.next _)

theorem onMessage_eq_fault {p : Nat} (dl op : Nat) (s : State) (waits : Msg → State → Bool) (f : Msg → State → State)
    (h : portCount ≤ p) : onMessage p dl op s waits f = .fault .noSuchPlace :=
  if_neg fun hp => absurd hp.1 (Nat.not_lt.mpr h)

theorem onReply_isNext {p dl : Nat} (op : Nat) (s : State) (f : Request → Msg → State → State) (h : p < portCount ∧ dl < 2) :
    IsNext (onReply p dl op s f) := onMessage_isNext op s _ _ h

theorem onFrame_isNext {p : Nat} (ftype : Nat) (s : State) (f : Nat → Msg → State → State) (h : p < portCount) :
    IsNext (onFrame p ftype s f) := onMessage_isNext 0x30 s _ _ ⟨h, by decide⟩

theorem onSeam_isNext {seam dir : Nat} (s : State) (f : Nat → State → Option State) (h : seam < seamCount ∧ dir < 2) :
    IsNext (onSeam seam dir s f) := by
  refine .present h (.ite (.next s) ?_)
  cases f (s.seamRepeats seam dir + 1) (s.setRepeats seam dir (s.seamRepeats seam dir + 1)) with
  | some t => exact .next t
  | none => exact .next s

theorem onSeam_eq_fault {seam : Nat} (dir : Nat) (s : State) (f : Nat → State → Option State) (h : seamCount ≤ seam) :
    onSeam seam dir s f = .fault .noSuchPlace := if_neg fun hs => absurd hs.1 (Nat.not_lt.mpr h)

/-! ### The rows with a shape of their own -/

theorem execRvInstruction_isNext {n : Nat} (st : Stream) (s : State) (h : n < 2048) : IsNext (execRvInstruction n st s) := by
  refine .present h (.ite ?_ (.next s))
  split
  · split <;> exact .next _
  · exact .next _

theorem execThreadStart_isNext (k : Nat) (s : State) : IsNext (execThreadStart k s) := by
  unfold execThreadStart
  split
  · split
    · exact .ite (.next s) (.ite (.next _) (.ite (.next _) (.next _)))
    · exact .next s
  · exact .next s

theorem execCommandComplete_isNext {n : Nat} (e : Engine) (st : Stream) (s : State) (h : n < 2048) :
    IsNext (execCommandComplete n e st s) := by
  refine .present h ?_
  split
  · exact .ite (.next _) (.next s)
  · exact .next s

theorem execTeamDispatch_isNext {n : Nat} (st : Stream) (s : State) (h : n < 2048) : IsNext (execTeamDispatch n st s) := by
  refine .present h (.ite ?_ (.next s))
  split
  · exact .ite (.next s) (.ite (.next _) (.ite (.next _) (.next _)))
  · exact .next s

theorem execTeamDelivery_isNext (k : Nat) (s : State) : IsNext (execTeamDelivery k s) := by
  unfold execTeamDelivery
  split
  · split
    · exact .ite (.next s) (.ite (.next _) (.ite (.next s) (.next _)))
    · exact .next s
  · exact .next s

theorem execLaneReservationGrant_isNext {n : Nat} (s : State) (h : n < 2048) : IsNext (execLaneReservationGrant n s) := by
  refine .present h (.ite ?_ (.next s))
  split <;> exact .next _

theorem execItemComplete_isNext {n : Nat} (st : Stream) (s : State) (h : n < 2048) : IsNext (execItemComplete n st s) := by
  refine .inRange (Nat.not_le.mpr h) ?_
  split
  · exact .next s
  · split
    · exact .next s
    · exact .ite (.next s) (.ite (.next _) (.ite (.next s) (.ite (.ite (.next s) (.ite (.next _) (.next _)))
        (.ite (.next s) (.next _)))))

theorem execSnapShip_isNext {team : Nat} (s : State) (h : team < 4096) : IsNext (execSnapShip team s) := by
  refine .inRange (Nat.not_le.mpr h) ?_
  split
  · exact .next s
  · refine .ite (.next s) ?_
    split
    · dsimp only
      split <;> exact .next _
    · exact .ite (.next _) (.ite (.next s) (.next _))

theorem execReductionDone_isNext {rid : Nat} (s : State) (h : rid < 4096) : IsNext (execReductionDone rid s) := by
  refine .inRange (Nat.not_le.mpr h) ?_
  split
  · exact .next s
  · exact .ite (.next s) (.next _)

theorem execHuddleNextRoundClose_isNext {hid : Nat} (s : State) (h : hid < 1024) : IsNext (execHuddleNextRoundClose hid s) := by
  refine .inRange (Nat.not_le.mpr h) ?_
  split
  · exact .next s
  · exact .ite (.next _) (.next s)

theorem execPatrolScrub_isNext {die channel : Nat} (far : Bool) (ecc : Ecc) (s : State) (hd : die < 8) (hc : channel < 16) :
    IsNext (execPatrolScrub die far channel ecc s) := by
  refine .inRange (by omega) ?_
  dsimp only
  split
  · exact .next s
  · refine .ite (.next s) ?_
    split <;> exact .next _

theorem execLocalDeadlock_isNext {n : Nat} (s : State) (h : n < 2048) : IsNext (execLocalDeadlock n s) := by
  refine .present h (.ite ?_ (.next s))
  split <;> exact .next _

theorem execTrainingStepComplete_isNext {p : Nat} (r : StepReport) (s : State) (h : p < portCount) :
    IsNext (execTrainingStepComplete p r s) := by
  refine .present h ?_
  dsimp only
  split
  case h_4 => split <;> exact .next _
  all_goals exact .next _

theorem execE2eTimeout_isNext (k : Nat) (s : State) : IsNext (execE2eTimeout k s) := by
  unfold execE2eTimeout
  split
  · exact .next s
  · exact .ite (.next s) (.ite (.next _) (.next _))

theorem execQuiesceComplete_isNext {c : Nat} (s : State) (h : c < 256) : IsNext (execQuiesceComplete c s) := by
  refine .present h ?_
  split <;> exact .next _

theorem execEpochAckTimeout_isNext {c : Nat} (s : State) (h : c < 256) : IsNext (execEpochAckTimeout c s) := by
  refine .present h ?_
  split <;> exact .next _

theorem execLogHopDrop_isNext {source cls : Nat} (s : State) (h : source < 0x1000 ∧ (cls = 1 ∨ cls = 2)) :
    IsNext (execLogHopDrop source cls s) := by
  refine .present h ?_
  dsimp only
  split <;> exact .next _

theorem execDump_isNext (s : State) : IsNext (execDump s) := by
  unfold execDump
  split
  · exact .ite (.next s) (.next _)
  · exact .next s

theorem execDumpUnitAnswer_isNext (data : List Byte) (s : State) : IsNext (execDumpUnitAnswer data s) := by
  unfold execDumpUnitAnswer
  split
  · split <;> exact .next _
  · exact .next s

theorem execDumpUnitTimeout_isNext (s : State) : IsNext (execDumpUnitTimeout s) := by
  unfold execDumpUnitTimeout
  split <;> exact .next _

theorem execJobStart_isNext (s : State) : IsNext (execJobStart s) := by
  refine .ite ?_ (.next s)
  split <;> exact .next _

theorem execModelHandout_isNext (id : Nat) (s : State) : IsNext (execModelHandout id s) := by
  unfold execModelHandout
  split
  · exact .next s
  · refine .ite (.next s) ?_
    split
    · exact .next s
    · exact .ite (.next _) (.next _)

theorem execModelDone_isNext (id k : Nat) (s : State) : IsNext (execModelDone id k s) := by
  unfold execModelDone
  split
  · exact .next s
  · split
    · exact .next s
    · split
      · exact .next s
      · exact .ite (.next s) (.ite (.next _) (.ite (.next _) (.next s)))

/-! ### Orders, which a function's queue or another requester gives (14 R447, R452) -/

theorem execCtxReset_isNext {src : Requester} (c : Nat) (s : State) (h : src.wf = true) : IsNext (execCtxReset src c s) := by
  cases src with
  | queue f r => exact atPlace_isNext _ h
  | _ => exact .next _

theorem execChanCreate_isNext {src : Requester} (c : Nat) (s : State) (h : src.wf = true) : IsNext (execChanCreate src c s) := by
  cases src with
  | queue f r => exact atPlace_isNext _ h
  | _ => exact .next _

theorem execChanDestroy_isNext {src : Requester} (c : Word) (s : State) (h : src.wf = true) :
    IsNext (execChanDestroy src c s) := by
  cases src with
  | queue f r => exact atPlace_isNext _ h
  | _ => exact .next _

theorem execJobSubmit_isNext {src : Requester} (a : Nat) (s : State) (h : src.wf = true) : IsNext (execJobSubmit src a s) := by
  cases src with
  | queue f r => exact atPlace_isNext _ h
  | _ => exact .next _

/-! ### What WellFormed says of a place -/

theorem lt_of_tileIn {n : Nat} (h : tileIn n = true) : n < 2048 := of_decide_eq_true h
theorem lt_of_portIn {p : Nat} (h : portIn p = true) : p < portCount := of_decide_eq_true h
theorem lt_of_contextIn {c : Nat} (h : contextIn c = true) : c < 256 := of_decide_eq_true h
theorem lt_of_functionIn {f : Nat} (h : functionIn f = true) : f < fnCount := of_decide_eq_true h

/-- Two checks that both hold. -/
theorem and_of_and_decide {a : Bool} {p q : Prop} [Decidable q] (ha : a = true → p) (h : (a && decide q) = true) : p ∧ q := by
  obtain ⟨x, y⟩ := Bool.and_eq_true_iff.mp h
  exact ⟨ha x, of_decide_eq_true y⟩

/-- A command whose operands name what the module has answers a next state: the cases follow the groups of `Instr.wellFormed`. -/
theorem exec_isNext (i : Instr) (s : State) (h : i.wellFormed = true) : IsNext (exec i s) := by
  cases i with
  -- a place among the packets in flight, the requests, the dumps or the jobs
  | teamMemberCompletion k | itemRequest k | itemArrive k | homeRequest k ecc | atomicAtHome k ecc | contributionAtHome k ecc
  | tileStoreRemoteAccess k ecc | replyArrive k | refusalArrive k | poolRequestAtHome k | poolGrantArrive k | rwgetStart k
  | routeRowArrive k | routeCloseArrive k | returnRowArrive k | tallySignalAtHome k | tallyRegistrationAtHome k
  | tallySetAtHome k | tsetAnswerArrive k | tallyReleaseArrive k | remoteSignalAtTile k | huddleArrivalAtHome k
  | huddleCloseArrive k | workListReservation k | rwgetRegistration k =>
    dsimp only [exec]
    exact onPacket_isNext k s _ _
  | threadStart k => exact execThreadStart_isNext k s
  | teamDelivery k => exact execTeamDelivery_isNext k s
  | e2eTimeout k => exact execE2eTimeout_isNext k s
  | dump => exact execDump_isNext s
  | dumpUnitAnswer data => exact execDumpUnitAnswer_isNext data s
  | dumpUnitTimeout => exact execDumpUnitTimeout_isNext s
  | jobStart => exact execJobStart_isNext s
  | modelHandout job => exact execModelHandout_isNext job s
  | modelDone job member => exact execModelDone_isNext job member s
  -- a tile and a stream: the control core
  | rvFence t st | ebreak t st | ecall t st | cstW t st | cld t st | cpush t st | cpushnb t st | qfree t st | cdrain t st
  | sumrd t st | imswap t st | park t st | pcmp t st | plog t st | pset t st | pmv t st | prd t st | pwr t st | ctwait t st =>
    exact onInstr_isNext st s _ (lt_of_tileIn h)
  | pushRoomResume t st | cdrainResume t st | sumrdResume t st => exact onWait_isNext st _ s _ (lt_of_tileIn h)
  | rvInstruction t st => exact execRvInstruction_isNext st s (lt_of_tileIn h)
  | debugHalt t st => exact .present (lt_of_tileIn h) (.next _)
  | debugResume t st => exact .present (lt_of_tileIn h) (.ite (.next _) (.next s))
  -- a tile and a stream: the commands of the engines
  | mma t st | mdrain t st | mdcfg t st | wlopen t st | wlput t st | wlrun t st | wlclose t st | vld t st | vst t st
  | epload t st | eprog t st | epstrm t st | vred t st | vsum t st | vseed t st | optcfg t st | optstep t st | amaxstep t st
  | snap t st | mvcomp t st | remask t st | stash t st | predld t st | maskdrop t st | aadd t st | amin t st | amax t st
  | aswap t st | acas t st | aaddn t st | aminn t st | amaxn t st | rdopen t st | rdadd t st | poolget t st | poolput t st
  | poolcfg t st | rtcfg t st | rqopen t st | route t st | rqclose t st | rbound t st | rcomb t st | rback t st | rgrad t st
  | rxopen t st | rwget t st | rxwait t st | rxexpand t st | rsend t st | tset t st | huddle t st =>
    exact issueRow_isNext _ _ _ st s (lt_of_tileIn h)
  | twait t e st | tclaim t e st | tsig t e st | fence t e st => exact issueRow_isNext e _ _ st s (lt_of_tileIn h)
  | move t st ecc => exact issueWith_isNext _ _ _ _ st s (lt_of_tileIn h)
  | skipEntry t e st | nop t e st => exact plainRow_isNext e _ _ st s (lt_of_tileIn h)
  | commandComplete t e st => exact execCommandComplete_isNext e st s (lt_of_tileIn h)
  | teamDispatch t st => exact execTeamDispatch_isNext st s (lt_of_tileIn h)
  | itemComplete t st => exact execItemComplete_isNext st s (lt_of_tileIn h)
  -- a tile, and what else
  | laneReservationGrant t => exact execLaneReservationGrant_isNext s (lt_of_tileIn h)
  | localDeadlock t => exact execLocalDeadlock_isNext s (lt_of_tileIn h)
  | supplyDroop t | droopRecover t => exact .present (lt_of_tileIn h) (.next _)
  | islandFreqStep t up => exact .present (lt_of_tileIn h) (.next _)
  | dribbleStepDown t a | dribbleRampStep t a => exact .present (and_of_and_decide lt_of_tileIn h) (.ite (.next _) (.next s))
  | whistleFire t u => exact .present (and_of_and_decide lt_of_tileIn h) (.ite (.ite (.next _) (.next _)) (.next s))
  | whistleWarning t u => exact .present (and_of_and_decide lt_of_tileIn h) (.ite (.next _) (.next s))
  | tileHardwareFault t cause => exact .present (and_of_and_decide lt_of_tileIn h) (.next _)
  -- teams, reductions, huddles, dies, seams, contexts
  | snapShip team => exact execSnapShip_isNext s (of_decide_eq_true h)
  | reductionDone rid => exact execReductionDone_isNext s (of_decide_eq_true h)
  | huddleNextRoundClose hid => exact execHuddleNextRoundClose_isNext s (of_decide_eq_true h)
  | patrolScrub die far channel ecc =>
    obtain ⟨hd, hc⟩ := and_of_and_decide of_decide_eq_true h
    exact execPatrolScrub_isNext far ecc s hd hc
  | contextReset c => exact .present (lt_of_contextIn h) (.next _)
  | quiesceComplete c => exact execQuiesceComplete_isNext s (lt_of_contextIn h)
  | epochAckTimeout c => exact execEpochAckTimeout_isNext s (lt_of_contextIn h)
  | quiesceTimeout c unit =>
    have hu := Bool.and_elim_right h
    simp only [Bool.or_eq_true, Bool.and_eq_true, decide_eq_true_eq] at hu
    exact .present ⟨lt_of_contextIn (Bool.and_elim_left h), hu⟩ (.ite (.next s) (.ite (.next _) (.ite (.next _) (.next _))))
  | seamTransferError seam dir | seamRepeatAlarm seam dir | seamFailed seam dir =>
    dsimp only [exec]
    exact onSeam_isNext s _ (and_of_and_decide of_decide_eq_true h)
  | dieCheckerFire die => exact .present (and_of_and_decide of_decide_eq_true h) (.next _)
  | logHopDrop source cls =>
    have hc := Bool.and_elim_right h
    simp only [Bool.or_eq_true, decide_eq_true_eq] at hc
    exact execLogHopDrop_isNext s ⟨of_decide_eq_true (Bool.and_elim_left h), hc⟩
  -- ports
  | portTrainStart p => exact .present (lt_of_portIn h) (.ite (.next _) (.next s))
  | trainingStepTimeout p | initResend p | fecLockLoss p | flitTransmit p => exact .present (lt_of_portIn h) (.next _)
  | trainingStepComplete p report => exact execTrainingStepComplete_isNext report s (lt_of_portIn h)
  | equalisationOutOfLimits p lane => exact .present (and_of_and_decide lt_of_portIn h) (.next _)
  | init p flit | initAck p flit | retrainRequest p flit | downNotice p flit =>
    dsimp only [exec]
    exact onControl_isNext flit _ s _ (lt_of_portIn h)
  | messageFlit p flit fecOk => exact .ite (.next _) (onFlit_isNext flit fecOk 0 s _ (lt_of_portIn h))
  | nullFlit p flit fecOk | replayRequest p flit fecOk =>
    dsimp only [exec]
    exact onFlit_isNext flit fecOk _ s _ (lt_of_portIn h)
  | rd p dl ecc | atom p dl ecc | atomn p dl ecc | rdc p dl ecc =>
    dsimp only [exec]
    exact onMessage_isNext _ s _ _ (and_of_and_decide lt_of_portIn h)
  | wr p dl | sig p dl | epoch p dl | nak p dl | mgmt p dl | trace p dl =>
    dsimp only [exec]
    exact onMessage_isNext _ s _ _ (and_of_and_decide lt_of_portIn h)
  | rdr p dl | ack p dl | atr p dl =>
    dsimp only [exec]
    exact onReply_isNext _ s _ (and_of_and_decide lt_of_portIn h)
  | lockstepWindowRecord p | lockstepDigestList p | lockstepStop p =>
    dsimp only [exec]
    exact onFrame_isNext _ s _ (lt_of_portIn h)
  | cablePlug p | cableUnplug p => exact atPlace_isNext _ h
  -- dictionary and management
  | read src i sub arg => exact .next _
  | write src i sub value => exact .next _
  | discover src | notifyAck src | troubleClearEcc src | troubleClearTileCounts src | troubleClearStaleDrops src
  | troubleClearSeamAlarms src | troubleClearAlarmLog src | troubleClearDumpFlag src | attnRequestSet src
  | attnRequestClear src | restartWarm src | restartDestroy src | restartBaseCamp src | retryRecordExpiry src => exact .next _
  | notifyResend k => exact .present (of_decide_eq_true h) (.next _)
  | neighbourSolicitation target => exact .next _
  | setEndpointId sender inst x | getMctpVersionSupport sender inst x => exact .next _
  | getEndpointId sender inst | getMessageTypeSupport sender inst => exact .next _
  | mctpVendorMessage eid rid body => exact .next _
  | winGo f value => exact .present (lt_of_functionIn (Bool.and_elim_left h)) (.next _)
  | ctxCreate src c | ctxDestroy src c => exact .next _
  | ctxReset src c => exact execCtxReset_isNext c s (Bool.and_elim_left h)
  | chanCreate src c => exact execChanCreate_isNext c s (Bool.and_elim_left h)
  | chanDestroy src handle => exact execChanDestroy_isNext handle s h
  | teamCreate src request | teamDestroy src request | huddleCreate src request | huddleDestroy src request => exact .next _
  | jobSubmit src record => exact execJobSubmit_isNext record s (Bool.and_elim_left h)
  | jobCancel src x | debugImemWrite src x | dumpRequest src x | epochClear src x | fwStage src x | fwUpload src x
  | fwStageUpload src x | attestNonce src x => exact .next _
  | faultRecordClear src t st => exact atPlace_isNext _ (Bool.and_elim_right h)
  | portRetrain src p => exact atPlace_isNext _ (Bool.and_elim_right h)
  | svnCommit src kind v => exact atPlace_isNext _ (Bool.and_elim_right (Bool.and_elim_left h))
  -- host attachment
  | bar0RegisterWrite f offset value => exact atPlace_isNext _ (Bool.and_elim_left h)
  | ringDb f r tail entries => exact atPlace_isNext _ (Bool.and_elim_left h)
  | start f r | hsig f r | ringNop f r => exact atPlace_isNext _ h
  | hcopy f r data ecc => exact atPlace_isNext _ h
  | hcopyDone f r copy => exact atPlace_isNext _ h
  | tallyDb f g n => exact atPlace_isNext _ h
  | bar2Read f offset len ecc =>
    exact .present (lt_of_functionIn (Bool.and_elim_left (Bool.and_elim_left h))) (.ite (.next s) (.ite (.next _) (.next _)))
  | bar2Write f offset data => exact .present (lt_of_functionIn (Bool.and_elim_left (Bool.and_elim_left h))) (.next _)
  | doeDiscovery f index => exact atPlace_isNext _ (Bool.and_elim_left h)
  | doeAttest f request => exact atPlace_isNext _ h
  -- onboard service
  | serviceHeartbeat => exact .next _
  | serviceComplexStop die restarts => exact .present (of_decide_eq_true h) (.ite (.next _) (.next s))
  -- supplies, clocks, bring-up
  | mainGood | mainExcursion | backupGood | backupFail | powerUpSlot | rideThroughStep | holdLimit => exact .next _
  | mainFail overvoltage => exact .next _
  | railFault rail => exact .next _
  | bringupPhaseComplete report => exact atPlace_isNext _ h
  | powerControlTick averageW => exact .next _
  | thermalSample temps => exact .present h (.next _)
  -- the button
  | buttonShortPress | buttonMiddlePress | buttonHold2s | buttonLongPress => exact .next _

/-- Settles O4, by the rows' shapes: past the check of its place every branch of a command is a next state. -/
theorem everyWellFormedCommandAnswers : Obligations.EveryWellFormedCommandAnswers := exec_isNext

/-- Settles O5: each row's first check is of its place. -/
theorem placesTheModuleLacksFault : Obligations.PlacesTheModuleLacksFault := by
  intro s
  refine ⟨fun t st ht => ⟨?_, ?_, fun e => ?_⟩, fun p hp => ⟨?_, fun dl => ?_⟩, fun f hf => ⟨fun o d => ?_, fun r => ?_⟩,
    fun f r hr => ?_, fun c hc => ?_, fun k hk => ⟨?_, ?_⟩, fun h hh => ?_, fun m d hm => ?_, fun d hd => ?_⟩
  · exact if_neg (Nat.not_lt.mpr ht)
  · exact issueRow_eq_fault _ _ _ st s ht
  · exact issueRow_eq_fault e _ _ st s ht
  · exact if_neg (Nat.not_lt.mpr hp)
  · show execWr p dl s = _
    exact onMessage_eq_fault dl _ s _ _ hp
  · exact if_neg (Nat.not_lt.mpr hf)
  · exact atPlace_eq_fault _ (by simp [show ¬f < fnCount from Nat.not_lt.mpr hf])
  · exact atPlace_eq_fault _ (by simp [show ¬r < ringCount from Nat.not_lt.mpr hr])
  · exact if_neg (Nat.not_lt.mpr hc)
  · exact if_pos hk
  · exact if_pos hk
  · exact if_pos hh
  · show execSeamFailed m d s = _
    exact onSeam_eq_fault d s _ hm
  · exact if_neg (by omega)

/-! ## Team commands (01 R37, R38; 02 R71–R73) -/

/-! ### Packets of a team command -/

/-- The copies of a packet that go to tiles, one to each in order, as `State.send` names them. -/
def State.copiesTo (s : State) (p : Packet) (ms : List Nat) : List Packet :=
  ms.mapIdx fun i m => { p with uid := s.nextUid + i, epoch := (s.ctx p.ctx).epoch, dst := .tile m }

/-- Sending a packet to tiles puts their copies behind what is in flight, and does nothing else. -/
theorem State.foldl_send (p : Packet) (ms : List Nat) (s : State) : ms.foldl (fun s m => s.send { p with dst := .tile m }) s =
    { s with nextUid := s.nextUid + ms.length, net := s.net ++ s.copiesTo p ms } := by
  induction ms generalizing s with
  | nil => simp [State.copiesTo]
  | cons m ms ih =>
    rw [List.foldl_cons, ih]
    simp [State.copiesTo, State.send, State.ctx, Nat.add_assoc, Nat.add_comm 1]

theorem State.copiesTo_dst (s : State) (p : Packet) (ms : List Nat) : (s.copiesTo p ms).map (·.dst) = ms.map .tile :=
  List.ext_getElem (by simp [State.copiesTo]) fun i _ _ => by simp [State.copiesTo]

/-- A copy differs from its packet in name, epoch and destination alone. -/
theorem State.eq_of_mem_copiesTo {s : State} {p q : Packet} {ms : List Nat} (h : q ∈ s.copiesTo p ms) :
    q = { p with uid := q.uid, epoch := q.epoch, dst := q.dst } := by
  obtain ⟨i, hi, rfl⟩ := List.mem_mapIdx.mp h
  rfl

/-! ### What the updates of dispatch leave -/

theorem State.queue_modTile (s : State) (m n : Nat) (e : Engine) (st : Stream) (f : Tile → Tile)
    (hf : (f (s.tile n)).queues = (s.tile n).queues) : (s.modTile n f).queue m e st = s.queue m e st := by
  unfold State.queue
  by_cases h : m = n
  · rw [h, State.tile_modTile, hf]
  · rw [State.tile_modTile_of_ne s f h]

@[simp] theorem State.progressed_queue (s : State) (m n u : Nat) (e : Engine) (st : Stream) :
    (s.progressed n u).queue m e st = s.queue m e st := State.queue_modTile _ _ _ _ _ _ rfl

@[simp] theorem State.setDispatch_dispatch (s : State) (n : Nat) (st : Stream) (l : List Dispatch) :
    ((s.setDispatch n st l).tile n).dispatch.get st = l := by simp [State.setDispatch]

/-- A delivery changes the dispatch queue it came from, or nothing. -/
theorem State.delivered_eq (s : State) (n : Nat) (st : Stream) (uid m : Nat) :
    s.delivered n st uid m = s ∨ ∃ l, s.delivered n st uid m = s.setDispatch n st l := by
  unfold State.delivered
  split
  · dsimp only
    split
    · exact .inr ⟨_, rfl⟩
    · exact .inl rfl
  · exact .inl rfl

@[simp] theorem State.delivered_net (s : State) (n : Nat) (st : Stream) (uid m : Nat) : (s.delivered n st uid m).net = s.net := by
  obtain h | ⟨l, h⟩ := s.delivered_eq n st uid m <;> rw [h]
  rfl

@[simp] theorem State.delivered_mem (s : State) (n : Nat) (st : Stream) (uid m : Nat) : (s.delivered n st uid m).mem = s.mem := by
  obtain h | ⟨l, h⟩ := s.delivered_eq n st uid m <;> rw [h]
  rfl

@[simp] theorem State.delivered_queue (s : State) (n : Nat) (st : Stream) (uid m k : Nat) (e : Engine) (u : Stream) :
    (s.delivered n st uid m).queue k e u = s.queue k e u := by
  obtain h | ⟨l, h⟩ := s.delivered_eq n st uid m <;> rw [h]
  exact State.queue_modTile _ _ _ _ _ _ rfl

theorem State.entries_enqueue (s : State) (n : Nat) (e : Engine) (st : Stream) (x : Entry) :
    ((s.enqueue n e st x).queue n e st).entries = (s.queue n e st).entries ++ [x] := by
  rw [State.enqueue, State.queue_modQueue]

/-! ### What a signal's trace record leaves -/

@[simp] theorem State.traceSignal_net (s : State) (source c n e st tag op : Nat) (chan : Word) (g : Nat) :
    (s.traceSignal source c n e st tag op chan g).net = s.net :=
  (State.traceSignal_keeps (pt := { net := true }) _ _ _ _ _ _ _ _ _ _ (Keeps.refl s) rfl).same.net rfl

@[simp] theorem State.traceSignal_teamCmds (s : State) (source c n e st tag op : Nat) (chan : Word) (g : Nat) :
    (s.traceSignal source c n e st tag op chan g).teamCmds = s.teamCmds :=
  (State.traceSignal_keeps (pt := { teamCmds := true }) _ _ _ _ _ _ _ _ _ _ (Keeps.refl s) rfl).same.teamCmds rfl

@[simp] theorem tfind_terase_self {α : Type} (k : Nat) (t : Table α) : tfind k (terase k t) = none := by
  induction t with
  | nil => rfl
  | cons e r ih =>
    obtain ⟨j, v⟩ := e
    by_cases h : j = k
    · simpa [terase, h] using ih
    · simpa [terase, tfind, h] using ih

/-! ### Dispatch, delivery and completion -/

/-- The dispatcher sends the command once to every tile of its team and notes them at the front of its queue. -/
theorem State.dispatchTo_sends (s : State) (n : Nat) (st : Stream) (x : Entry) (rest : List Dispatch) :
    let t := s.dispatchTo n st x rest
    ∃ l, t.net = s.net ++ l ∧ l.map (·.dst) = (s.teamTiles (wTeamId x.word)).map .tile ∧
      (∀ q ∈ l, ∃ c, q.body = .deliver x.word x.s0 x.s1 x.skip c ∧ q.src = .tile n ∧ q.chan = x.chan) ∧
      (t.tile n).dispatch.get st = { entry := x, left := some (s.teamTiles (wTeamId x.word)) } :: rest ∧ t.mem = s.mem := by
  intro t
  have e : t = _ := State.foldl_send _ _ _
  rw [e]
  refine ⟨_, rfl, State.copiesTo_dst _ _ _, fun q hq => ?_, ?_, rfl⟩
  · rw [State.eq_of_mem_copiesTo hq]
    exact ⟨_, rfl, rfl, rfl⟩
  · exact State.setDispatch_dispatch _ _ _ _

theorem exec_teamDispatch {s : State} {n : Nat} {st : Stream} {x : Entry} {rest : List Dispatch} (hn : n < 2048)
    (hr : s.streamRuns n st = true) (hf : (s.tile n).dispatch.get st = { entry := x, left := none } :: rest)
    (hx : x.ctx = s.owner n) (ht : s.teamOf (s.owner n) (wTeamId x.word) = true) (hb : s.teamBlocked (wTeamId x.word) = false) :
    exec (.teamDispatch n st) s = .next (s.dispatchTo n st x rest) := by
  simp [exec, execTeamDispatch, hn, hr, hf, hx, ht, hb]

/-- A delivery that finds room enters the member's queue. -/
theorem exec_teamDelivery {s : State} {k m n : Nat} {p : Packet} {w : BitVec 128} {a b : Word} {skip : Bool} {cmd : Nat}
    (h : Takes s k p) (hd : p.dst = .tile m) (hs : p.src = .tile n) (hb : p.body = .deliver w a b skip cmd)
    (room : (s.queue m (engineOf (wEngine w)) (streamOf (wStream w))).entries.length < 512) :
    exec (.teamDelivery k) s = .next ((((s.consume k).fresh.2.enqueue m (engineOf (wEngine w)) (streamOf (wStream w))
      { uid := s.nextUid, word := w, s0 := a, s1 := b, chan := p.chan, skip := skip, ctx := p.ctx, teamCmd := some cmd }).delivered
        n p.stream p.entry m).progressed n (watchedDispatch p.stream)) := by
  have fresh : s.stale p = false := h.fresh
  have whole := h.whole m hd
  simp only [exec, execTeamDelivery, h.there, hb, hd, hs, h.serves, fresh, whole, Bool.not_true, Bool.or_self, Bool.false_eq_true,
    if_false, if_neg (Nat.not_le.mpr room : ¬queueSize ≤ _)]
  rfl

/-- A member's completion that leaves others to wait for: the command waits for one member fewer. -/
theorem exec_teamMemberCompletion_of_left {s : State} {k cmd : Nat} {p : Packet} {c : TeamCmd} (h : Takes s k p)
    (hb : p.body = .memberDone cmd) (hc : tfind cmd s.teamCmds = some c) (hl : c.left.erase p.from ≠ []) :
    exec (.teamMemberCompletion k) s =
      .next { s.consume k with teamCmds := tset cmd { c with left := c.left.erase p.from } s.teamCmds } := by
  have e : execTeamMemberCompletion k s = _ := onPacket_of_takes h _ (by simp [hb]) _
  have hc' : tfind cmd (s.consume k).teamCmds = some c := hc
  simp only [hb, hc', List.isEmpty_iff, hl, if_false] at e
  exact e

/-- The last member's completion: the command is gone, and one signal goes to the team's done tally. -/
theorem exec_teamMemberCompletion_of_last {s : State} {k cmd : Nat} {p : Packet} {c : TeamCmd} (h : Takes s k p)
    (hb : p.body = .memberDone cmd) (hc : tfind cmd s.teamCmds = some c) (hl : c.left.erase p.from = []) :
    ∃ t q, exec (.teamMemberCompletion k) s = .next t ∧ tfind cmd t.teamCmds = none ∧ t.net = s.net.eraseIdx k ++ [q] ∧
      q.dst = .die (teamDone (s.team c.team) % 8) ∧ ∃ cyc, q.body = .signal (teamDone (s.team c.team)) 1 1 cyc := by
  have hc' : tfind cmd (s.consume k).teamCmds = some c := hc
  have e : execTeamMemberCompletion k s = _ := onPacket_of_takes h _ (by simp [hb]) _
  simp only [hb, hc', hl, List.isEmpty_nil, if_true] at e
  exact ⟨_, _, e, by simp [State.send], congrArg (· ++ [_]) (State.traceSignal_net _ _ _ _ _ _ _ _ _ _), rfl, _, rfl⟩

/-- Settles O43, part by part: dispatch, delivery, and the members' completions. -/
theorem teamCommandsReachEveryMember : Obligations.TeamCommandsReachEveryMember := by
  refine ⟨fun s n st x rest hn hr hf hx ht hb => ?_, fun s k m n p w a b skip cmd h hd hs hb => ?_,
    fun s k cmd p c h hb hc => ⟨fun hl => ?_, fun hl => ?_⟩⟩
  · obtain ⟨l, hl⟩ := s.dispatchTo_sends n st x rest
    exact ⟨_, l, exec_teamDispatch hn hr hf hx ht hb, hl⟩
  · intro e u room
    refine ⟨_, exec_teamDelivery h hd hs hb room, ?_, ?_, ?_⟩
    · simp only [State.progressed_net, State.delivered_net]
      rfl
    · rw [State.progressed_queue, State.delivered_queue, State.entries_enqueue]
      rfl
    · simp only [State.progressed_mem, State.delivered_mem]
      rfl
  · exact ⟨_, exec_teamMemberCompletion_of_left h hb hc hl, tfind_tset_self _ _ _, rfl⟩
  · exact exec_teamMemberCompletion_of_last h hb hc hl

end Sys2Proof.Machine

namespace Sys2Proof.Machine

/-- Each command keeps every part that `Instr.mayChange` does not list for it. -/
theorem exec_keepsOthers (i : Instr) (s : State) : KeepsR i.mayChange.others s (exec i s) := by
  cases i with
  | threadStart k => exact execThreadStart_keeps k s (.refl s) rfl rfl rfl
  | rvInstruction t st => exact execRvInstruction_keeps t st s (.refl s) rfl rfl rfl rfl rfl rfl rfl
  | rvFence t st => exact execRvFence_keeps t st s (.refl s) rfl
  | ebreak t st => exact execEbreak_keeps t st s (.refl s) rfl rfl rfl
  | ecall t st => exact execEcall_keeps t st s (.refl s) rfl rfl rfl
  | cstW t st => exact execCstW_keeps t st s (.refl s) rfl
  | cld t st => exact execCld_keeps t st s (.refl s) rfl rfl rfl rfl
  | cpush t st => exact execCpush_keeps t st s (.refl s) rfl rfl rfl
  | cpushnb t st => exact execCpushnb_keeps t st s (.refl s) rfl rfl rfl
  | pushRoomResume t st => exact execPushRoomResume_keeps t st s (.refl s) rfl rfl rfl
  | qfree t st => exact execQfree_keeps t st s (.refl s) rfl rfl rfl
  | cdrain t st => exact execCdrain_keeps t st s (.refl s) rfl rfl rfl
  | cdrainResume t st => exact execCdrainResume_keeps t st s (.refl s) rfl
  | sumrd t st => exact execSumrd_keeps t st s (.refl s) rfl rfl rfl
  | sumrdResume t st => exact execSumrdResume_keeps t st s (.refl s) rfl
  | imswap t st => exact execImswap_keeps t st s (.refl s) rfl rfl rfl
  | park t st => exact execPark_keeps t st s (.refl s) rfl
  | pcmp t st => exact execPcmp_keeps t st s (.refl s) rfl
  | plog t st => exact execPlog_keeps t st s (.refl s) rfl
  | pset t st => exact execPset_keeps t st s (.refl s) rfl
  | pmv t st => exact execPmv_keeps t st s (.refl s) rfl
  | prd t st => exact execPrd_keeps t st s (.refl s) rfl
  | pwr t st => exact execPwr_keeps t st s (.refl s) rfl
  | ctwait t st => exact execCtwait_keeps t st s (.refl s) rfl rfl rfl rfl
  | skipEntry t e st => exact execSkipEntry_keeps t e st s (.refl s) rfl rfl rfl rfl rfl rfl rfl rfl rfl rfl
  | nop t e st => exact execNop_keeps t e st s (.refl s) rfl rfl rfl rfl rfl rfl rfl rfl rfl rfl
  | commandComplete t e st => exact execCommandComplete_keeps t e st s (.refl s) rfl rfl rfl rfl rfl rfl rfl rfl rfl rfl
  | teamDispatch t st => exact execTeamDispatch_keeps t st s (.refl s) rfl rfl rfl rfl rfl
  | teamDelivery k => exact execTeamDelivery_keeps k s (.refl s) rfl rfl rfl
  | teamMemberCompletion k => exact execTeamMemberCompletion_keeps k s (.refl s) rfl rfl rfl
  | mma t st => exact execMma_keeps t st s (.refl s) rfl rfl rfl rfl rfl rfl rfl
  | mdrain t st => exact execMdrain_keeps t st s (.refl s) rfl rfl rfl rfl rfl rfl rfl
  | mdcfg t st => exact execMdcfg_keeps t st s (.refl s) rfl rfl rfl rfl rfl rfl rfl
  | wlopen t st => exact execWlopen_keeps t st s (.refl s) rfl rfl rfl rfl rfl rfl rfl
  | wlput t st => exact execWlput_keeps t st s (.refl s) rfl rfl rfl rfl rfl rfl rfl rfl rfl rfl
  | wlrun t st => exact execWlrun_keeps t st s (.refl s) rfl rfl rfl rfl rfl rfl rfl
  | wlclose t st => exact execWlclose_keeps t st s (.refl s) rfl rfl rfl rfl rfl rfl rfl
  | itemRequest k => exact execItemRequest_keeps k s (.refl s) rfl rfl rfl
  | itemArrive k => exact execItemArrive_keeps k s (.refl s) rfl rfl rfl rfl rfl rfl rfl rfl rfl
  | itemComplete t st => exact execItemComplete_keeps t st s (.refl s) rfl rfl rfl rfl rfl rfl rfl rfl rfl
  | dribbleStepDown t array => exact execDribbleStepDown_keeps t array s (.refl s) rfl
  | dribbleRampStep t array => exact execDribbleRampStep_keeps t array s (.refl s) rfl
  | vld t st => exact execVld_keeps t st s (.refl s) rfl rfl rfl rfl rfl rfl rfl
  | vst t st => exact execVst_keeps t st s (.refl s) rfl rfl rfl rfl rfl rfl rfl
  | epload t st => exact execEpload_keeps t st s (.refl s) rfl rfl rfl rfl rfl rfl rfl
  | eprog t st => exact execEprog_keeps t st s (.refl s) rfl rfl rfl rfl rfl rfl rfl
  | epstrm t st => exact execEpstrm_keeps t st s (.refl s) rfl rfl rfl rfl rfl rfl rfl
  | vred t st => exact execVred_keeps t st s (.refl s) rfl rfl rfl rfl rfl rfl rfl
  | vsum t st => exact execVsum_keeps t st s (.refl s) rfl rfl rfl rfl rfl rfl rfl
  | vseed t st => exact execVseed_keeps t st s (.refl s) rfl rfl rfl rfl rfl rfl rfl
  | laneReservationGrant t => exact execLaneReservationGrant_keeps t s (.refl s) rfl
  | optcfg t st => exact execOptcfg_keeps t st s (.refl s) rfl rfl rfl rfl rfl rfl rfl
  | optstep t st => exact execOptstep_keeps t st s (.refl s) rfl rfl rfl rfl rfl rfl rfl
  | amaxstep t st => exact execAmaxstep_keeps t st s (.refl s) rfl rfl rfl rfl rfl rfl rfl
  | snap t st => exact execSnap_keeps t st s (.refl s) rfl rfl rfl rfl rfl rfl rfl
  | snapShip team => exact execSnapShip_keeps team s (.refl s) rfl rfl rfl rfl rfl rfl rfl rfl rfl rfl
  | move t st ecc => exact execMove_keeps t st ecc s (.refl s) rfl rfl rfl rfl rfl rfl rfl rfl rfl
  | mvcomp t st => exact execMvcomp_keeps t st s (.refl s) rfl rfl rfl rfl rfl rfl rfl
  | remask t st => exact execRemask_keeps t st s (.refl s) rfl rfl rfl rfl rfl rfl rfl
  | stash t st => exact execStash_keeps t st s (.refl s) rfl rfl rfl rfl rfl rfl rfl
  | predld t st => exact execPredld_keeps t st s (.refl s) rfl rfl rfl rfl rfl rfl rfl
  | maskdrop t st => exact execMaskdrop_keeps t st s (.refl s) rfl rfl rfl rfl rfl rfl rfl
  | aadd t st => exact execAadd_keeps t st s (.refl s) rfl rfl rfl rfl rfl rfl rfl rfl
  | amin t st => exact execAmin_keeps t st s (.refl s) rfl rfl rfl rfl rfl rfl rfl rfl
  | amax t st => exact execAmax_keeps t st s (.refl s) rfl rfl rfl rfl rfl rfl rfl rfl
  | aswap t st => exact execAswap_keeps t st s (.refl s) rfl rfl rfl rfl rfl rfl rfl rfl
  | acas t st => exact execAcas_keeps t st s (.refl s) rfl rfl rfl rfl rfl rfl rfl rfl
  | aaddn t st => exact execAaddn_keeps t st s (.refl s) rfl rfl rfl rfl rfl rfl rfl rfl
  | aminn t st => exact execAminn_keeps t st s (.refl s) rfl rfl rfl rfl rfl rfl rfl rfl
  | amaxn t st => exact execAmaxn_keeps t st s (.refl s) rfl rfl rfl rfl rfl rfl rfl rfl
  | rdopen t st => exact execRdopen_keeps t st s (.refl s) rfl rfl rfl rfl rfl rfl rfl rfl rfl rfl
  | rdadd t st => exact execRdadd_keeps t st s (.refl s) rfl rfl rfl rfl rfl rfl rfl rfl
  | homeRequest k ecc => exact execHomeRequest_keeps k ecc s (.refl s) rfl rfl rfl rfl rfl rfl rfl rfl rfl
  | atomicAtHome k ecc => exact execAtomicAtHome_keeps k ecc s (.refl s) rfl rfl rfl rfl rfl rfl rfl rfl rfl
  | contributionAtHome k ecc => exact execContributionAtHome_keeps k ecc s (.refl s) rfl rfl rfl rfl rfl rfl rfl rfl rfl
  | reductionDone rid => exact execReductionDone_keeps rid s (.refl s) rfl rfl rfl rfl rfl rfl rfl rfl rfl
  | tileStoreRemoteAccess k ecc => exact execTileStoreRemoteAccess_keeps k ecc s (.refl s) rfl rfl rfl rfl rfl rfl rfl rfl
  | replyArrive k => exact execReplyArrive_keeps k s (.refl s) rfl rfl rfl rfl rfl rfl rfl rfl rfl
  | refusalArrive k => exact execRefusalArrive_keeps k s (.refl s) rfl rfl rfl rfl rfl rfl rfl rfl rfl
  | patrolScrub die far channel ecc => exact execPatrolScrub_keeps die far channel ecc s (.refl s) rfl rfl rfl rfl rfl rfl
  | poolget t st => exact execPoolget_keeps t st s (.refl s) rfl rfl rfl rfl rfl rfl rfl
  | poolput t st => exact execPoolput_keeps t st s (.refl s) rfl rfl rfl rfl rfl rfl rfl
  | poolcfg t st => exact execPoolcfg_keeps t st s (.refl s) rfl rfl rfl rfl rfl rfl rfl rfl
  | poolRequestAtHome k => exact execPoolRequestAtHome_keeps k s (.refl s) rfl rfl rfl rfl
  | poolGrantArrive k => exact execPoolGrantArrive_keeps k s (.refl s) rfl rfl rfl
  | rtcfg t st => exact execRtcfg_keeps t st s (.refl s) rfl rfl rfl rfl rfl rfl rfl
  | rqopen t st => exact execRqopen_keeps t st s (.refl s) rfl rfl rfl rfl rfl rfl rfl
  | route t st => exact execRoute_keeps t st s (.refl s) rfl rfl rfl rfl rfl rfl rfl
  | rqclose t st => exact execRqclose_keeps t st s (.refl s) rfl rfl rfl rfl rfl rfl rfl rfl rfl rfl
  | rbound t st => exact execRbound_keeps t st s (.refl s) rfl rfl rfl rfl rfl rfl rfl
  | rcomb t st => exact execRcomb_keeps t st s (.refl s) rfl rfl rfl rfl rfl rfl rfl
  | rback t st => exact execRback_keeps t st s (.refl s) rfl rfl rfl rfl rfl rfl rfl
  | rgrad t st => exact execRgrad_keeps t st s (.refl s) rfl rfl rfl rfl rfl rfl rfl
  | rxopen t st => exact execRxopen_keeps t st s (.refl s) rfl rfl rfl rfl rfl rfl rfl
  | rwget t st => exact execRwget_keeps t st s (.refl s) rfl rfl rfl rfl rfl rfl rfl rfl
  | rwgetStart k => exact execRwgetStart_keeps k s (.refl s) rfl rfl rfl rfl rfl
  | rxwait t st => exact execRxwait_keeps t st s (.refl s) rfl rfl rfl rfl rfl rfl rfl
  | rxexpand t st => exact execRxexpand_keeps t st s (.refl s) rfl rfl rfl rfl rfl rfl rfl rfl rfl rfl
  | rsend t st => exact execRsend_keeps t st s (.refl s) rfl rfl rfl rfl rfl rfl rfl
  | routeRowArrive k => exact execRouteRowArrive_keeps k s (.refl s) rfl rfl rfl rfl rfl rfl rfl rfl
  | routeCloseArrive k => exact execRouteCloseArrive_keeps k s (.refl s) rfl rfl rfl
  | returnRowArrive k => exact execReturnRowArrive_keeps k s (.refl s) rfl rfl rfl rfl rfl rfl rfl rfl
  | twait t e st => exact execTwait_keeps t e st s (.refl s) rfl rfl rfl rfl rfl rfl rfl
  | tclaim t e st => exact execTclaim_keeps t e st s (.refl s) rfl rfl rfl rfl rfl rfl rfl
  | tsig t e st => exact execTsig_keeps t e st s (.refl s) rfl rfl rfl rfl rfl rfl rfl
  | fence t e st => exact execFence_keeps t e st s (.refl s) rfl rfl rfl rfl rfl rfl rfl
  | tset t st => exact execTset_keeps t st s (.refl s) rfl rfl rfl rfl rfl rfl rfl
  | huddle t st => exact execHuddle_keeps t st s (.refl s) rfl rfl rfl rfl rfl rfl rfl
  | tallySignalAtHome k => exact execTallySignalAtHome_keeps k s (.refl s) rfl rfl rfl rfl rfl
  | tallyRegistrationAtHome k => exact execTallyRegistrationAtHome_keeps k s (.refl s) rfl rfl rfl rfl rfl
  | tallySetAtHome k => exact execTallySetAtHome_keeps k s (.refl s) rfl rfl rfl rfl
  | tsetAnswerArrive k => exact execTsetAnswerArrive_keeps k s (.refl s) rfl rfl rfl
  | tallyReleaseArrive k => exact execTallyReleaseArrive_keeps k s (.refl s) rfl rfl rfl
  | remoteSignalAtTile k => exact execRemoteSignalAtTile_keeps k s (.refl s) rfl rfl rfl rfl rfl
  | huddleArrivalAtHome k => exact execHuddleArrivalAtHome_keeps k s (.refl s) rfl rfl rfl
  | huddleNextRoundClose hid => exact execHuddleNextRoundClose_keeps hid s (.refl s) rfl rfl rfl
  | huddleCloseArrive k => exact execHuddleCloseArrive_keeps k s (.refl s) rfl rfl rfl
  | localDeadlock t => exact execLocalDeadlock_keeps t s (.refl s) rfl rfl rfl
  | whistleFire t unit => exact execWhistleFire_keeps t unit s (.refl s) rfl rfl rfl rfl
  | whistleWarning t unit => exact execWhistleWarning_keeps t unit s (.refl s) rfl rfl
  | dump => exact execDump_keeps s (.refl s) rfl rfl rfl rfl rfl rfl rfl
  | dumpUnitTimeout => exact execDumpUnitTimeout_keeps s (.refl s) rfl rfl rfl rfl rfl rfl rfl
  | contextReset ctx => exact execContextReset_keeps ctx s (.refl s) rfl rfl rfl rfl rfl rfl rfl rfl rfl
  | quiesceComplete ctx =>
    exact execQuiesceComplete_keeps ctx s (.refl s) rfl rfl rfl rfl rfl rfl rfl rfl rfl rfl rfl rfl rfl rfl rfl rfl rfl rfl rfl
      rfl rfl rfl
  | quiesceTimeout ctx unit => exact execQuiesceTimeout_keeps ctx unit s (.refl s) rfl rfl rfl rfl rfl rfl
  | epochAckTimeout ctx => exact execEpochAckTimeout_keeps ctx s (.refl s) rfl rfl rfl
  | tileHardwareFault t cause => exact execTileHardwareFault_keeps t cause s (.refl s) rfl rfl rfl rfl rfl
  | seamTransferError seam dir => exact execSeamTransferError_keeps seam dir s (.refl s) rfl
  | seamRepeatAlarm seam dir => exact execSeamRepeatAlarm_keeps seam dir s (.refl s) rfl
  | seamFailed seam dir => exact execSeamFailed_keeps seam dir s (.refl s) rfl rfl rfl rfl rfl
  | dieCheckerFire die => exact execDieCheckerFire_keeps die s (.refl s) rfl rfl rfl rfl rfl
  | logHopDrop source cls => exact execLogHopDrop_keeps source cls s (.refl s) rfl
  | debugHalt t st => exact execDebugHalt_keeps t st s (.refl s) rfl rfl rfl
  | debugResume t st => exact execDebugResume_keeps t st s (.refl s) rfl
  | lockstepWindowRecord port => exact execLockstepWindowRecord_keeps port s (.refl s) rfl rfl
  | lockstepDigestList port => exact execLockstepDigestList_keeps port s (.refl s) rfl rfl rfl
  | lockstepStop port => exact execLockstepStop_keeps port s (.refl s) rfl rfl rfl
  | portTrainStart port => exact execPortTrainStart_keeps port s (.refl s) rfl rfl rfl rfl
  | trainingStepComplete port report => exact execTrainingStepComplete_keeps port report s (.refl s) rfl rfl rfl rfl
  | trainingStepTimeout port => exact execTrainingStepTimeout_keeps port s (.refl s) rfl rfl rfl rfl
  | init port flit => exact execInit_keeps port flit s (.refl s) rfl rfl rfl rfl
  | initAck port flit => exact execInitAck_keeps port flit s (.refl s) rfl rfl rfl rfl
  | initResend port => exact execInitResend_keeps port s (.refl s) rfl
  | retrainRequest port flit => exact execRetrainRequest_keeps port flit s (.refl s) rfl rfl rfl rfl
  | downNotice port flit => exact execDownNotice_keeps port flit s (.refl s) rfl rfl rfl rfl
  | messageFlit port flit fecOk => exact execMessageFlit_keeps port flit fecOk s (.refl s) rfl rfl rfl rfl
  | nullFlit port flit fecOk => exact execNullFlit_keeps port flit fecOk s (.refl s) rfl rfl rfl rfl
  | replayRequest port flit fecOk => exact execReplayRequest_keeps port flit fecOk s (.refl s) rfl rfl rfl rfl
  | fecLockLoss port => exact execFecLockLoss_keeps port s (.refl s) rfl rfl rfl rfl
  | flitTransmit port => exact execFlitTransmit_keeps port s (.refl s) rfl rfl
  | rd port dl ecc => exact execRd_keeps port dl ecc s (.refl s) rfl rfl rfl rfl rfl rfl
  | wr port dl => exact execWr_keeps port dl s (.refl s) rfl rfl rfl rfl rfl rfl rfl rfl
  | atom port dl ecc => exact execAtom_keeps port dl ecc s (.refl s) rfl rfl rfl rfl rfl rfl rfl rfl
  | atomn port dl ecc => exact execAtomn_keeps port dl ecc s (.refl s) rfl rfl rfl rfl rfl rfl rfl rfl
  | rdc port dl ecc => exact execRdc_keeps port dl ecc s (.refl s) rfl rfl rfl rfl rfl rfl rfl rfl rfl
  | sig port dl => exact execSig_keeps port dl s (.refl s) rfl rfl rfl rfl rfl rfl rfl
  | epoch port dl => exact execEpoch_keeps port dl s (.refl s) rfl rfl rfl rfl
  | rdr port dl => exact execRdr_keeps port dl s (.refl s) rfl rfl rfl rfl rfl rfl rfl rfl rfl
  | ack port dl => exact execAck_keeps port dl s (.refl s) rfl rfl rfl rfl rfl rfl rfl rfl rfl
  | atr port dl => exact execAtr_keeps port dl s (.refl s) rfl rfl rfl rfl rfl rfl rfl rfl rfl
  | nak port dl => exact execNak_keeps port dl s (.refl s) rfl rfl rfl rfl rfl rfl rfl rfl rfl
  | mgmt port dl => exact execMgmt_keeps port dl s (.refl s) rfl
  | trace port dl => exact execTrace_keeps port dl s (.refl s) rfl rfl
  | e2eTimeout request => exact execE2eTimeout_keeps request s (.refl s) rfl rfl rfl rfl rfl rfl rfl rfl rfl
  | read src index sub arg => exact execRead_keeps src index sub arg s (.refl s) rfl rfl rfl
  | write src index sub value =>
    exact execWrite_keeps src index sub value s (.refl s) rfl rfl rfl rfl rfl rfl rfl rfl rfl rfl rfl rfl rfl rfl rfl rfl rfl rfl
      rfl rfl rfl rfl rfl rfl
  | discover src => exact execDiscover_keeps src s (.refl s) rfl rfl rfl
  | notifyAck src => exact execNotifyAck_keeps src s (.refl s) rfl
  | notifyResend subscriber => exact execNotifyResend_keeps subscriber s (.refl s) rfl
  | neighbourSolicitation target => exact execNeighbourSolicitation_keeps target s (.refl s) rfl
  | setEndpointId sender inst eid => exact execSetEndpointId_keeps sender inst eid s (.refl s) rfl rfl
  | getEndpointId sender inst => exact execGetEndpointId_keeps sender inst s (.refl s) rfl
  | getMctpVersionSupport sender inst msgType => exact execGetMctpVersionSupport_keeps sender inst msgType s (.refl s) rfl
  | getMessageTypeSupport sender inst => exact execGetMessageTypeSupport_keeps sender inst s (.refl s) rfl
  | mctpVendorMessage eid requesterId body =>
    exact execMctpVendorMessage_keeps eid requesterId body s (.refl s) rfl rfl rfl rfl rfl rfl rfl rfl rfl rfl rfl rfl rfl rfl
      rfl rfl rfl rfl rfl rfl rfl rfl rfl rfl
  | winGo fn value =>
    exact execWinGo_keeps fn value s (.refl s) rfl rfl rfl rfl rfl rfl rfl rfl rfl rfl rfl rfl rfl rfl rfl rfl rfl rfl rfl rfl
      rfl rfl rfl rfl
  | ctxCreate src ctx => exact execCtxCreate_keeps src ctx s (.refl s) rfl rfl rfl rfl rfl rfl rfl rfl rfl rfl rfl rfl rfl
  | ctxReset src ctx => exact execCtxReset_keeps src ctx s (.refl s) rfl rfl rfl rfl rfl rfl
  | ctxDestroy src ctx => exact execCtxDestroy_keeps src ctx s (.refl s) rfl rfl rfl rfl rfl rfl
  | teamCreate src request => exact execTeamCreate_keeps src request s (.refl s) rfl rfl rfl rfl rfl rfl rfl
  | teamDestroy src request => exact execTeamDestroy_keeps src request s (.refl s) rfl rfl rfl rfl rfl rfl rfl
  | huddleCreate src request => exact execHuddleCreate_keeps src request s (.refl s) rfl rfl rfl rfl rfl rfl rfl rfl
  | huddleDestroy src request => exact execHuddleDestroy_keeps src request s (.refl s) rfl rfl rfl rfl rfl rfl rfl rfl
  | chanCreate src ctx => exact execChanCreate_keeps src ctx s (.refl s) rfl rfl rfl rfl rfl rfl
  | chanDestroy src handle => exact execChanDestroy_keeps src handle s (.refl s) rfl rfl rfl rfl rfl rfl
  | jobSubmit src record => exact execJobSubmit_keeps src record s (.refl s) rfl rfl rfl rfl rfl rfl rfl rfl rfl rfl
  | jobCancel src job =>
    exact execJobCancel_keeps src job s (.refl s) rfl rfl rfl rfl rfl rfl rfl rfl rfl rfl rfl rfl rfl rfl rfl rfl
  | debugImemWrite src value => exact execDebugImemWrite_keeps src value s (.refl s) rfl rfl rfl rfl rfl rfl
  | faultRecordClear src t st => exact execFaultRecordClear_keeps src t st s (.refl s) rfl rfl rfl rfl rfl rfl
  | troubleClearEcc src => exact execTroubleClearEcc_keeps src s (.refl s) rfl rfl rfl rfl rfl rfl rfl
  | troubleClearTileCounts src => exact execTroubleClearTileCounts_keeps src s (.refl s) rfl rfl rfl rfl rfl rfl rfl
  | troubleClearStaleDrops src => exact execTroubleClearStaleDrops_keeps src s (.refl s) rfl rfl rfl rfl rfl rfl rfl
  | troubleClearSeamAlarms src => exact execTroubleClearSeamAlarms_keeps src s (.refl s) rfl rfl rfl rfl rfl rfl rfl
  | troubleClearAlarmLog src => exact execTroubleClearAlarmLog_keeps src s (.refl s) rfl rfl rfl rfl rfl rfl rfl
  | troubleClearDumpFlag src => exact execTroubleClearDumpFlag_keeps src s (.refl s) rfl rfl rfl rfl rfl rfl rfl
  | dumpRequest src value => exact execDumpRequest_keeps src value s (.refl s) rfl rfl rfl rfl rfl rfl
  | epochClear src device => exact execEpochClear_keeps src device s (.refl s) rfl rfl rfl rfl rfl rfl
  | portRetrain src port => exact execPortRetrain_keeps src port s (.refl s) rfl rfl rfl rfl rfl rfl rfl rfl rfl
  | attnRequestSet src => exact execAttnRequestSet_keeps src s (.refl s) rfl rfl rfl rfl rfl rfl rfl rfl rfl rfl rfl rfl rfl
  | attnRequestClear src => exact execAttnRequestClear_keeps src s (.refl s) rfl rfl rfl rfl rfl rfl rfl rfl rfl rfl rfl rfl rfl
  | fwStage src address => exact execFwStage_keeps src address s (.refl s) rfl rfl rfl rfl rfl rfl rfl rfl rfl
  | fwUpload src value => exact execFwUpload_keeps src value s (.refl s) rfl rfl rfl rfl rfl
  | fwStageUpload src value => exact execFwStageUpload_keeps src value s (.refl s) rfl rfl rfl rfl rfl
  | svnCommit src kind value => exact execSvnCommit_keeps src kind value s (.refl s) rfl rfl rfl rfl rfl
  | attestNonce src nonce => exact execAttestNonce_keeps src nonce s (.refl s) rfl rfl rfl rfl rfl
  | restartWarm src =>
    exact execRestartWarm_keeps src s (.refl s) rfl rfl rfl rfl rfl rfl rfl rfl rfl rfl rfl rfl rfl rfl rfl rfl rfl rfl rfl rfl
      rfl
  | restartDestroy src =>
    exact execRestartDestroy_keeps src s (.refl s) rfl rfl rfl rfl rfl rfl rfl rfl rfl rfl rfl rfl rfl rfl rfl rfl rfl rfl rfl
      rfl rfl
  | restartBaseCamp src =>
    exact execRestartBaseCamp_keeps src s (.refl s) rfl rfl rfl rfl rfl rfl rfl rfl rfl rfl rfl rfl rfl rfl rfl rfl rfl rfl rfl
      rfl rfl
  | ringDb fn ring tail entries => exact execRingDb_keeps fn ring tail entries s (.refl s) rfl
  | start fn ring => exact execStart_keeps fn ring s (.refl s) rfl rfl rfl
  | hcopy fn ring data ecc => exact execHcopy_keeps fn ring data ecc s (.refl s) rfl rfl rfl rfl rfl rfl rfl
  | hcopyDone fn ring copy => exact execHcopyDone_keeps fn ring copy s (.refl s) rfl rfl rfl rfl rfl rfl rfl rfl rfl rfl rfl
  | hsig fn ring => exact execHsig_keeps fn ring s (.refl s) rfl rfl rfl rfl rfl rfl rfl
  | ringNop fn ring => exact execRingNop_keeps fn ring s (.refl s) rfl rfl
  | tallyDb fn tally n => exact execTallyDb_keeps fn tally n s (.refl s) rfl rfl rfl rfl rfl rfl rfl rfl rfl rfl
  | bar2Read fn offset len ecc => exact execBar2Read_keeps fn offset len ecc s (.refl s) rfl rfl rfl rfl rfl rfl rfl
  | bar2Write fn offset data => exact execBar2Write_keeps fn offset data s (.refl s) rfl rfl rfl rfl rfl rfl rfl rfl rfl rfl
  | doeDiscovery fn index => exact execDoeDiscovery_keeps fn index s (.refl s) rfl
  | doeAttest fn request => exact execDoeAttest_keeps fn request s (.refl s) rfl
  | jobStart => exact execJobStart_keeps s (.refl s) rfl rfl rfl rfl rfl rfl rfl rfl rfl rfl rfl rfl rfl rfl
  | modelHandout job => exact execModelHandout_keeps job s (.refl s) rfl rfl rfl rfl rfl rfl rfl rfl rfl rfl rfl rfl
  | modelDone job member => exact execModelDone_keeps job member s (.refl s) rfl rfl rfl rfl rfl rfl rfl rfl rfl rfl rfl rfl
  | serviceHeartbeat => exact execServiceHeartbeat_keeps s (.refl s) rfl
  | serviceComplexStop die restarts =>
    exact execServiceComplexStop_keeps die restarts s (.refl s) rfl rfl rfl rfl rfl rfl rfl rfl rfl rfl rfl rfl
  | mainGood =>
    exact execMainGood_keeps s (.refl s) rfl rfl rfl rfl rfl rfl rfl rfl rfl rfl rfl rfl rfl rfl rfl rfl rfl rfl rfl rfl rfl rfl
  | mainFail overvoltage =>
    exact execMainFail_keeps overvoltage s (.refl s) rfl rfl rfl rfl rfl rfl rfl rfl rfl rfl rfl rfl rfl rfl rfl rfl rfl rfl rfl
      rfl rfl rfl rfl rfl
  | mainExcursion => exact execMainExcursion_keeps s (.refl s) rfl
  | backupGood => exact execBackupGood_keeps s (.refl s) rfl rfl
  | backupFail =>
    exact execBackupFail_keeps s (.refl s) rfl rfl rfl rfl rfl rfl rfl rfl rfl rfl rfl rfl rfl rfl rfl rfl rfl rfl rfl rfl rfl
      rfl rfl rfl
  | powerUpSlot => exact execPowerUpSlot_keeps s (.refl s) rfl
  | railFault rail =>
    exact execRailFault_keeps rail s (.refl s) rfl rfl rfl rfl rfl rfl rfl rfl rfl rfl rfl rfl rfl rfl rfl rfl rfl rfl rfl rfl
  | rideThroughStep =>
    exact execRideThroughStep_keeps s (.refl s) rfl rfl rfl rfl rfl rfl rfl rfl rfl rfl rfl rfl rfl rfl rfl rfl rfl rfl rfl rfl
      rfl
  | holdLimit =>
    exact execHoldLimit_keeps s (.refl s) rfl rfl rfl rfl rfl rfl rfl rfl rfl rfl rfl rfl rfl rfl rfl rfl rfl rfl rfl rfl
  | bringupPhaseComplete report =>
    exact execBringupPhaseComplete_keeps report s (.refl s) rfl rfl rfl rfl rfl rfl rfl rfl rfl rfl rfl rfl rfl rfl rfl rfl rfl
      rfl rfl rfl rfl rfl
  | powerControlTick averageW => exact execPowerControlTick_keeps averageW s (.refl s) rfl
  | thermalSample temps =>
    exact execThermalSample_keeps temps s (.refl s) rfl rfl rfl rfl rfl rfl rfl rfl rfl rfl rfl rfl rfl rfl rfl rfl rfl rfl rfl
      rfl rfl rfl
  | islandFreqStep t up => exact execIslandFreqStep_keeps t up s (.refl s) rfl
  | supplyDroop t => exact execSupplyDroop_keeps t s (.refl s) rfl
  | droopRecover t => exact execDroopRecover_keeps t s (.refl s) rfl
  | buttonShortPress => exact execButtonShortPress_keeps s (.refl s) rfl rfl rfl rfl rfl rfl rfl rfl rfl
  | buttonMiddlePress => exact execButtonMiddlePress_keeps s (.refl s) rfl
  | buttonHold2s => exact execButtonHold2s_keeps s (.refl s) rfl
  | buttonLongPress =>
    exact execButtonLongPress_keeps s (.refl s) rfl rfl rfl rfl rfl rfl rfl rfl rfl rfl rfl rfl rfl rfl rfl rfl rfl rfl rfl rfl
      rfl
  | cablePlug port => exact execCablePlug_keeps port s (.refl s) rfl rfl rfl rfl
  | cableUnplug port => exact execCableUnplug_keeps port s (.refl s) rfl rfl rfl rfl
  | workListReservation k => exact execWorkListReservation_keeps k s (.refl s) rfl rfl rfl
  | rwgetRegistration k => exact execRwgetRegistration_keeps k s (.refl s) rfl rfl rfl
  | bar0RegisterWrite fn offset value => exact execBar0RegisterWrite_keeps fn offset value s (.refl s) rfl
  | equalisationOutOfLimits port lane => exact execEqualisationOutOfLimits_keeps port lane s (.refl s) rfl rfl rfl rfl
  | dumpUnitAnswer data => exact execDumpUnitAnswer_keeps data s (.refl s) rfl rfl rfl rfl rfl rfl rfl
  | retryRecordExpiry src => exact execRetryRecordExpiry_keeps src s (.refl s) rfl

/-- Settles O8: what every command keeps (Laws/Keeps.lean), read at the parts its frame does not list. -/
theorem everyCommandLeavesTheRest : Obligations.EveryCommandLeavesTheRest := by
  intro i s t h
  have k := (exec_keepsOthers i s).out t h
  exact ⟨k.same, k.pending, k.sent⟩

end Sys2Proof.Machine

namespace Sys2Proof.Machine

/-! ## The machine: its step and its reset -/

/-- Settles O1: the step function's equation at a queue with a front. -/
theorem stepRunsTheFrontCommand : Obligations.StepRunsTheFrontCommand := fun _ _ _ => rfl

/-- Settles O3: each accessor read in the state whose fields hold their defaults. -/
theorem resetHoldsTheResetValues : Obligations.ResetHoldsTheResetValues := by
  refine ⟨fun n st => ?_, fun _ => rfl, fun n e st => ?_, fun _ => rfl, fun _ _ => ⟨rfl, rfl⟩, fun _ => rfl, fun _ => rfl,
    rfl, rfl, rfl, rfl, ⟨rfl, ?_, by decide⟩⟩
  · have e : State.reset.thread n st = {} := by cases st <;> rfl
    rw [e]
    refine ⟨fun i => ?_, rfl, rfl, rfl, rfl, rfl, rfl⟩
    unfold Thread.reg
    split
    · rfl
    · by_cases h : i < 32 <;> simp [h]
  · cases e <;> cases st <;> rfl
  · intro c hc
    cases hc

/-! ## Instructions that retire (02 R49 to R57) -/

/-- A plain instruction that comes to writing `v` into rd completes with it. -/
theorem exec_retireReg {s : State} {n len rd : Nat} {st : Stream} {op : RvOp} {v : Word} (h : Runs s n st op len)
    (hp : op.isPlain = true) (hv : s.runPlain n st op len = s.retireReg n st len rd v) :
    ∃ t, exec (.rvInstruction n st) s = .next t ∧ Retired s t n st ((s.thread n st).setReg rd v) (s.pcAfter n st len) :=
  ⟨_, execRvInstruction_of_runs h hp, hv ▸ retired_retireReg s n st len rd v⟩

/-- Settles O9: each computing instruction comes to writing its result into rd. -/
theorem computingInstructionsRetire : Obligations.ComputingInstructionsRetire := by
  intro s n len rd st th gives
  have writes {op : RvOp} {v : Word} (h : Runs s n st op len) (hp : op.isPlain = true)
      (hv : s.runPlain n st op len = s.retireReg n st len rd v) : gives v := by
    obtain ⟨t, e, ht⟩ := exec_retireReg h hp hv
    exact ⟨t, e, ht, fun j hj => reg_retired ht hj j⟩
  exact ⟨fun _ h => writes h rfl rfl, fun _ h => writes h rfl rfl, fun _ _ _ _ h => writes h rfl rfl,
    fun _ _ _ _ h => writes h rfl rfl, fun _ _ _ h => writes h rfl rfl⟩

/-- Settles O10: a jump writes the return address and goes to its target; a branch goes on or to its target. -/
theorem jumpsAndBranchesRetire : Obligations.JumpsAndBranchesRetire := by
  intro s n len st th
  refine ⟨fun rd off h => ⟨_, execRvInstruction_of_runs h rfl, retired_retireAt s n st _ _⟩,
    fun rd rs1 imm h => ⟨_, execRvInstruction_of_runs h rfl, retired_retireAt s n st _ _⟩,
    fun f3 rs1 rs2 off h => ⟨_, execRvInstruction_of_runs h rfl, ?_⟩, fun a b => ?_⟩
  · simp only [State.runPlain]
    split
    · exact retired_retireAt' s n st _
    · exact retired_retire s n st len
  · simp [branchTaken, BitVec.slt, BitVec.ult]

/-! ### The arithmetic of RV32IM -/

/-- A signed word holds every quotient and product half that RV32M gives. -/
theorem toInt_ofInt_word {x : Int} (lo : -2147483648 ≤ x) (hi : x < 2147483648) : (BitVec.ofInt 32 x).toInt = x := by
  rw [BitVec.toInt_ofInt]
  exact Int.bmod_eq_of_le (by omega) (by omega)

theorem word_toInt_bounds (a : Word) : -2147483648 ≤ a.toInt ∧ a.toInt < 2147483648 := by
  have lo := BitVec.le_toInt a
  have hi := BitVec.toInt_lt (x := a)
  omega

theorem word_toInt_eq_zero {b : Word} : b.toInt = 0 ↔ b = 0 := by
  rw [← BitVec.toInt_inj]
  rfl

theorem word_toNat_eq_zero {b : Word} : b.toNat = 0 ↔ b = 0 := by
  rw [← BitVec.toNat_inj]
  rfl

/-- The base operations by funct3. -/
theorem alu_shifts (a b : Word) : let sh := b.toNat % 32
    (alu 1 false a b).toNat = a.toNat * 2 ^ sh % 2 ^ 32 ∧ (alu 5 false a b).toNat = a.toNat / 2 ^ sh ∧
      (alu 5 true a b).toInt = a.toInt / 2 ^ sh := by
  intro sh
  simp only [alu, Bool.false_eq_true, if_false, if_true]
  exact ⟨by rw [BitVec.toNat_shiftLeft, Nat.shiftLeft_eq], by rw [BitVec.toNat_ushiftRight, Nat.shiftRight_eq_div_pow],
    by rw [BitVec.toInt_sshiftRight, Int.shiftRight_eq_div_pow]; norm_cast⟩

/-- MULH: the product of two signed words has its high half in a signed word. -/
theorem toInt_mulDiv_mulh (a b : Word) : (mulDiv 1 a b).toInt = a.toInt * b.toInt / 2 ^ 32 := by
  obtain ⟨al, ah⟩ := word_toInt_bounds a
  obtain ⟨bl, bh⟩ := word_toInt_bounds b
  have lo : -4611686018427387904 ≤ a.toInt * b.toInt := by nlinarith
  have hi : a.toInt * b.toInt ≤ 4611686018427387904 := by nlinarith
  exact toInt_ofInt_word (by omega) (by omega)

theorem toInt_mulDiv_mulhsu (a b : Word) : (mulDiv 2 a b).toInt = a.toInt * (b.toNat : Int) / 2 ^ 32 := by
  obtain ⟨al, ah⟩ := word_toInt_bounds a
  have bh := b.isLt
  have lo : -9223372036854775808 ≤ a.toInt * (b.toNat : Int) := by nlinarith
  have hi : a.toInt * (b.toNat : Int) < 9223372036854775808 := by nlinarith
  exact toInt_ofInt_word (by omega) (by omega)

theorem toNat_mulDiv_mulhu (a b : Word) : (mulDiv 3 a b).toNat = a.toNat * b.toNat / 2 ^ 32 := by
  have ah := a.isLt
  have bh := b.isLt
  have hi : a.toNat * b.toNat < 2 ^ 32 * 2 ^ 32 := Nat.mul_lt_mul'' ah bh
  simp only [mulDiv, BitVec.toNat_ofNat]
  omega

/-- DIV: -1 for a division by zero; the one overflow gives the dividend back; else the quotient rounded towards zero. -/
theorem toInt_mulDiv_div (a b : Word) : (mulDiv 4 a b).toInt =
    if b.toInt = 0 then -1 else if a.toInt = -2147483648 ∧ b.toInt = -1 then a.toInt else a.toInt.tdiv b.toInt := by
  obtain ⟨al, ah⟩ := word_toInt_bounds a
  simp only [mulDiv, word_toInt_eq_zero]
  split
  · rfl
  next hb =>
    have hb0 : b.toInt ≠ 0 := fun e => hb (word_toInt_eq_zero.mp e)
    split
    next h => 
      rw [h.1, h.2]
      rfl
    next h =>
      have q := Int.natAbs_tdiv a.toInt b.toInt
      have hi : (a.toInt.tdiv b.toInt).natAbs ≤ a.toInt.natAbs := q ▸ Nat.div_le_self _ _
      refine toInt_ofInt_word (by omega) ?_
      by_contra hc
      have ha : a.toInt = -2147483648 := by omega
      have hb1 : b.toInt.natAbs = 1 := by
        by_contra h2
        have half : (a.toInt.tdiv b.toInt).natAbs ≤ a.toInt.natAbs / 2 := q ▸ Nat.div_le_div_left (by omega) (by decide)
        omega
      have hb' : b.toInt = 1 := by omega
      rw [hb', Int.tdiv_one] at hc
      omega

theorem toNat_mulDiv_divu (a b : Word) : (mulDiv 5 a b).toNat = if b.toNat = 0 then 4294967295 else a.toNat / b.toNat := by
  simp only [mulDiv, word_toNat_eq_zero]
  split
  · rfl
  · exact Nat.mod_eq_of_lt (Nat.lt_of_le_of_lt (Nat.div_le_self _ _) a.isLt)

/-- REM: the dividend for a division by zero; else the remainder with the dividend's sign, 0 for the overflow. -/
theorem toInt_mulDiv_rem (a b : Word) :
    (mulDiv 6 a b).toInt = if b.toInt = 0 then a.toInt else a.toInt.tmod b.toInt := by
  obtain ⟨al, ah⟩ := word_toInt_bounds a
  have q : (a.toInt.tmod b.toInt).natAbs = a.toInt.natAbs % b.toInt.natAbs := Int.natAbs_tmod _ _
  have hi : a.toInt.natAbs % b.toInt.natAbs ≤ a.toInt.natAbs := Nat.mod_le _ _
  have hneg : 0 ≤ a.toInt → 0 ≤ a.toInt.tmod b.toInt := Int.tmod_nonneg _
  have hpos : a.toInt ≤ 0 → a.toInt.tmod b.toInt ≤ 0 := fun h => by
    have := Int.tmod_nonneg b.toInt (show 0 ≤ -a.toInt by omega)
    rw [Int.neg_tmod] at this
    omega
  simp only [mulDiv, word_toInt_eq_zero]
  split
  · rfl
  · exact toInt_ofInt_word (by omega) (by omega)

theorem toNat_mulDiv_remu (a b : Word) : (mulDiv 7 a b).toNat = if b.toNat = 0 then a.toNat else a.toNat % b.toNat := by
  simp only [mulDiv, word_toNat_eq_zero]
  split
  · rfl
  · exact Nat.mod_eq_of_lt (Nat.lt_of_le_of_lt (Nat.mod_le _ _) a.isLt)

/-- Settles O11, operation by operation. -/
theorem arithmeticIsRv32im : Obligations.ArithmeticIsRv32im := by
  intro a b sh
  obtain ⟨sll, srl, sra⟩ := alu_shifts a b
  exact ⟨rfl, rfl, sll, by simp [alu, BitVec.slt], by simp [alu, BitVec.ult], rfl, srl, sra, rfl, rfl, BitVec.toNat_mul a b,
    toInt_mulDiv_mulh a b, toInt_mulDiv_mulhsu a b, toNat_mulDiv_mulhu a b, toInt_mulDiv_div a b, toNat_mulDiv_divu a b,
    toInt_mulDiv_rem a b, toNat_mulDiv_remu a b⟩

/-! ### Fields replaced, and predicates -/

/-- A number as what lies above a field, the field, and what lies below it. -/
theorem split_at_field (d lo width : Nat) :
    d = 2 ^ lo * (2 ^ width * (d >>> (lo + width)) + d >>> lo % 2 ^ width) + d % 2 ^ lo := by
  rw [Nat.shiftRight_add, Nat.shiftRight_eq_div_pow _ width, Nat.div_add_mod, Nat.shiftRight_eq_div_pow, Nat.div_add_mod]

theorem testBit_field (hi m lo width r b : Nat) (hm : m < 2 ^ width) (hr : r < 2 ^ lo) :
    (2 ^ lo * (2 ^ width * hi + m) + r).testBit b =
      if b < lo then r.testBit b else if b < lo + width then m.testBit (b - lo) else hi.testBit (b - lo - width) := by
  rw [Nat.testBit_two_pow_mul_add _ hr, Nat.testBit_two_pow_mul_add _ hm]
  by_cases h : b < lo
  · simp [h]
  · simp [h, show b - lo < width ↔ b < lo + width by omega]

theorem toNat_withField {n : Nat} (d : BitVec n) (lo width v : Nat) (hw : 0 < width) (hn : lo + width ≤ n) :
    (withField d lo width v).toNat = 2 ^ lo * (2 ^ width * (d.toNat >>> (lo + width)) + v % 2 ^ width) + d.toNat % 2 ^ lo := by
  have e := split_at_field d.toNat lo width
  have hb : bits d.toNat (lo + width - 1) lo = d.toNat >>> lo % 2 ^ width := by
    rw [bits, show lo + width - 1 + 1 - lo = width by omega]
  have hr : d.toNat % 2 ^ lo < 2 ^ lo := Nat.mod_lt _ (by positivity)
  have hv : v % 2 ^ width < 2 ^ width := Nat.mod_lt _ (by positivity)
  have lt : 2 ^ lo * (2 ^ width * (d.toNat >>> (lo + width)) + v % 2 ^ width) + d.toNat % 2 ^ lo < 2 ^ n := by
    refine Nat.lt_pow_two_of_testBit _ fun i hi => ?_
    rw [testBit_field _ _ _ _ _ _ hv hr, if_neg (by omega), if_neg (by omega), Nat.testBit_shiftRight]
    exact Nat.testBit_lt_two_pow (Nat.lt_of_lt_of_le d.isLt (Nat.pow_le_pow_right (by decide) (by omega)))
  rw [withField, hb, BitVec.toNat_ofNat, Nat.shiftLeft_eq, Nat.shiftLeft_eq]
  refine Eq.trans (congrArg (· % 2 ^ n) ?_) (Nat.mod_eq_of_lt lt)
  generalize d.toNat >>> (lo + width) = q at *
  generalize d.toNat >>> lo % 2 ^ width = m at *
  generalize d.toNat % 2 ^ lo = r at *
  generalize v % 2 ^ width = u at *
  rw [e, Nat.mul_add, Nat.mul_add, Nat.mul_comm m, Nat.mul_comm u]
  omega

/-- A field replaced: its bits are the value's, every other bit is as it was. -/
theorem getLsbD_withField {n : Nat} (d : BitVec n) (lo width v b : Nat) (hw : 0 < width) (hn : lo + width ≤ n) :
    (withField d lo width v).getLsbD b = if lo ≤ b ∧ b < lo + width then v.testBit (b - lo) else d.getLsbD b := by
  have hr : d.toNat % 2 ^ lo < 2 ^ lo := Nat.mod_lt _ (by positivity)
  have hm (x : Nat) : x % 2 ^ width < 2 ^ width := Nat.mod_lt _ (by positivity)
  have e := split_at_field d.toNat lo width
  have old := testBit_field (d.toNat >>> (lo + width)) _ lo width _ b (hm (d.toNat >>> lo)) hr
  rw [← e] at old
  rw [BitVec.getLsbD, BitVec.getLsbD, toNat_withField d lo width v hw hn, testBit_field _ _ _ _ _ _ (hm v) hr, old]
  by_cases h1 : b < lo
  · simp [h1, show ¬lo ≤ b by omega]
  · by_cases h2 : b < lo + width
    · simp [h1, h2, show lo ≤ b by omega, Nat.testBit_mod_two_pow, show b - lo < width by omega]
    · simp [h1, h2]

theorem bits_withField {n : Nat} (d : BitVec n) (lo width v : Nat) (hw : 0 < width) (hn : lo + width ≤ n) :
    bits (withField d lo width v).toNat (lo + width - 1) lo = v % 2 ^ width := by
  have hr : d.toNat % 2 ^ lo < 2 ^ lo := Nat.mod_lt _ (by positivity)
  rw [bits, toNat_withField d lo width v hw hn, show lo + width - 1 + 1 - lo = width by omega, Nat.shiftRight_eq_div_pow,
    Nat.mul_add_div (by positivity), Nat.div_eq_of_lt hr, Nat.add_zero, Nat.mul_add_mod, Nat.mod_mod]

/-- One predicate written, the other fifteen as they were. -/
theorem predGet_predSet (p : BitVec 16) {i j : Nat} (v : Bool) (hi : i < 16) (hj : j < 16) :
    predGet (predSet p i v) j = if j = i then v else predGet p j := by
  have hbit : (BitVec.ofNat 16 (1 <<< i)).getLsbD j = decide (j = i) := by
    rw [BitVec.getLsbD_ofNat, Nat.one_shiftLeft]
    simp [Nat.testBit_two_pow, hj, eq_comm]
  have get (q : BitVec 16) : predGet q j = q.getLsbD j := rfl
  cases v
  · simp only [get, predSet, Bool.false_eq_true, if_false, BitVec.getLsbD_and, BitVec.getLsbD_not, hbit]
    by_cases h : j = i <;> simp [h, hj, hi]
  · simp only [get, predSet, if_true, BitVec.getLsbD_or, hbit]
    by_cases h : j = i <;> simp [h]

/-- A 32-bit encoding of opcode 0x0F other than FENCE's is undefined (02 R55). -/
theorem decode32_miscMem {w : Nat} (ho : bits w 6 0 = 0x0F) (hf : bits w 14 12 ≠ 0) : decode32 w = .undef := by
  simp only [decode32, ho, hf, if_false]

/-- Settles O16: the FENCE's row, the two encodings, the three halts, and the division's corners by `mulDiv`. -/
theorem fenceEcallEbreakAndDivision : Obligations.FenceEcallEbreakAndDivision := by
  intro s n len st th
  refine ⟨fun h => ⟨_, onInstr_of_runs h _, retired_retire s n st len⟩, fun rd rs1 imm => ?_, by decide, fun hv => ⟨?_, ?_, ?_⟩,
    fun f3 rd rs1 rs2 h lo hi => ⟨fun hb => exec_retireReg h rfl ?_, fun ha hb hf => exec_retireReg h rfl ?_⟩⟩
  · by_cases hr : rd < 32 ∧ rs1 < 32 ∧ imm < 4096
    · refine .inl (decode32_miscMem ?_ ?_) <;> simp only [bits, Nat.shiftRight_eq_div_pow] <;> omega
    · omega
  · exact fun h => ⟨_, execRvInstruction_of_runs h rfl, halted_coreHalt s n st 0x01 0 0 h.tile (by decide) hv⟩
  · exact fun h => ⟨_, onInstr_of_runs h _, halted_coreHalt s n st 0x06 0 0 h.tile (by decide) hv⟩
  · exact fun h => ⟨_, onInstr_of_runs h _, halted_coreHalt s n st 0x05 0 0 h.tile (by decide) hv⟩
  · have hb' : (s.thread n st).reg rs2 = 0#32 := hb
    simp only [State.runPlain, hb']
    interval_cases f3 <;> rfl
  · have ha' : (s.thread n st).reg rs1 = 0x80000000#32 := ha
    have hb' : (s.thread n st).reg rs2 = 0xFFFFFFFF#32 := hb
    obtain rfl | rfl : f3 = 4 ∨ f3 = 6 := by omega
    all_goals
      simp only [State.runPlain, ha', hb']
      rfl

/-- The staging register after CST.W: word i is the register's value, the others are as they were. -/
theorem getLsbD_stageWord (g : BitVec 128) {i : Nat} (v : Word) (b : Nat) (hi : i < 4) :
    (stageWord g i v).getLsbD b = if 32 * i ≤ b ∧ b < 32 * i + 32 then v.getLsbD (b - 32 * i) else g.getLsbD b :=
  getLsbD_withField g (32 * i) 32 v.toNat b (by decide) (by omega)

/-- CLD from a 16-byte aligned place in data memory whose blocks read. -/
theorem exec_cld {s : State} {n len rs1 : Nat} {st : Stream} (h : Runs s n st (.cld rs1) len)
    (hr : ((s.thread n st).reg rs1).toNat + 16 ≤ 0x20000) (ha : ((s.thread n st).reg rs1).toNat % 16 = 0)
    (hc : (s.tile n).coreBlock 0 ((s.thread n st).reg rs1).toNat 16 = none) :
    exec (.cld n st) s = .next ((s.modThread n st fun t => { t with
      staging := BitVec.ofNat 128 (leNat (peeks (s.tile n).dmem ((s.thread n st).reg rs1).toNat 16)) }).retire n st len) := by
  refine (onInstr_of_runs h _).trans ?_
  have inside : ¬0x20000 < ((s.thread n st).reg rs1).toNat + 16 := by omega
  simp [inside, ha, hc]

/-- QFREE of one of the six engines. -/
theorem exec_qfree {s : State} {n len rd e : Nat} {st : Stream} (h : Runs s n st (.qfree rd e) len) (he : e < 6) :
    exec (.qfree n st) s =
      .next (s.retireReg n st len rd (BitVec.ofNat 32 (512 - (s.queue n (engineOf e) st).entries.length))) := by
  refine (onInstr_of_runs h _).trans ?_
  simp [show ¬6 ≤ e by omega, queueSize]

/-- Settles O17: each instruction retires with its one destination written. -/
theorem registerInstructionsRetire : Obligations.RegisterInstructionsRetire := by
  intro s n len st th gives
  have preds {i : Instr} {p : BitVec 16} (h : exec i s = .next (s.retirePreds n st len p)) : gives i { th with preds := p } :=
    ⟨_, h, retired_modThread s n st len (fun t => { t with preds := p }) rfl⟩
  have reg {i : Instr} {rd : Nat} {v : Word} (h : exec i s = .next (s.retireReg n st len rd v)) : gives i (th.setReg rd v) :=
    ⟨_, h, retired_retireReg s n st len rd v⟩
  refine ⟨fun c pd rs1 rs2 h => preds (onInstr_of_runs h _), fun o pd p q h => preds (onInstr_of_runs h _),
    fun pd rs1 h => preds (onInstr_of_runs h _), fun rd ps h => reg (onInstr_of_runs h _), fun rd h => ?_,
    fun rs1 h => preds (onInstr_of_runs h _), fun i rs1 hi h => ?_,
    fun rs1 h hr ha hc => ⟨_, exec_cld h hr ha hc, retired_modThread s n st len (fun t => { t with staging := _ }) rfl⟩,
    fun rd e he h => reg (exec_qfree h he),
    fun p i j v hi hj => predGet_predSet p v hi hj⟩
  · rw [← BitVec.ofNat_toNat]
    exact reg (onInstr_of_runs h _)
  · have r := retired_modThread s n st len (fun t => { t with staging := stageWord t.staging i (t.reg rs1) }) rfl
    refine ⟨_, onInstr_of_runs h _, ?_, fun b _ => ?_⟩
    · exact { r with thread := by rw [Option.getD_some, r.thread] }
    · rw [Option.getD_some, r.thread]
      exact getLsbD_stageWord _ _ b hi

end Sys2Proof.Machine

namespace Sys2Proof.Machine

/-! ## Loads and stores (02 R53) -/

theorem accessWidth_cases (f3 : Nat) : accessWidth f3 = 1 ∨ accessWidth f3 = 2 ∨ accessWidth f3 = 4 := by
  unfold accessWidth
  split
  · exact .inl rfl
  · split
    · exact .inr (.inl rfl)
    · exact .inr (.inr rfl)

/-! ### Where an access lies, and its check -/

theorem coreRange_dmem {a w : Nat} (h : a + w ≤ 0x20000) : coreRange a w = .dmem a := if_pos h

theorem coreRange_window {a w : Nat} (lo : 0x400000 ≤ a) (hi : a + w ≤ 0x800000) : coreRange a w = .window (a - 0x400000) := by
  rw [coreRange, if_neg (by omega), if_pos ⟨lo, hi⟩]

theorem coreRange_regs {a w : Nat} (lo : 0x800000 ≤ a) (hi : a + w ≤ 0x800100) (hw : 0 < w) :
    coreRange a w = .regs (a - 0x800000) := by
  rw [coreRange, if_neg (by omega), if_neg (by omega), if_pos ⟨lo, hi⟩]

theorem coreRange_outside {a w : Nat} (hd : 0x20000 < a + w) (hw : a < 0x400000 ∨ 0x800000 < a + w)
    (hr : a < 0x800000 ∨ 0x800100 < a + w) : coreRange a w = .outside := by
  rw [coreRange, if_neg (by omega), if_neg (by omega), if_neg (by omega)]

theorem accessFault_dmem (store : Bool) {a w : Nat} (h : a + w ≤ 0x20000) :
    accessFault store a w = if a % w = 0 then none else some 0x02 := by
  simp only [accessFault, coreRange_dmem h]

theorem accessFault_window (store : Bool) {a w : Nat} (lo : 0x400000 ≤ a) (hi : a + w ≤ 0x800000) :
    accessFault store a w = if a % w = 0 then none else some 0x02 := by
  simp only [accessFault, coreRange_window lo hi]

theorem accessFault_outside (store : Bool) {a w : Nat} (h : coreRange a w = .outside) : accessFault store a w = some 0x03 := by
  simp only [accessFault, h]

/-- A load of the thread registers is a word of one of the nine registers. -/
theorem accessFault_load_regs {a w : Nat} (lo : 0x800000 ≤ a) (hw : 0 < w) : accessFault false a w =
    if w = 4 ∧ a < 0x800024 ∧ a % 4 = 0 then none
    else if w = 4 ∧ a % 4 ≠ 0 ∧ a + 4 ≤ 0x800024 then some 0x02 else some 0x03 := by
  by_cases hi : a + w ≤ 0x800100
  · simp only [accessFault, coreRange_regs lo hi hw, bne_iff_ne, Bool.false_eq_true, if_false]
    -- the places where the two answers differ exclude each other
    split_ifs <;> try rfl
    all_goals omega
  · rw [accessFault_outside false (coreRange_outside (by omega) (by omega) (by omega)), if_neg (by omega), if_neg (by omega)]

/-- A store to the thread registers is a word of cur_channel. -/
theorem accessFault_store_regs {a w : Nat} (lo : 0x800000 ≤ a) (hw : 0 < w) :
    accessFault true a w = if w = 4 ∧ a = 0x80000C then none else some 0x03 := by
  by_cases hi : a + w ≤ 0x800100
  · simp only [accessFault, coreRange_regs lo hi hw, bne_iff_ne, if_true]
    -- the places where the two answers differ exclude each other
    split_ifs <;> try rfl
    all_goals omega
  · rw [accessFault_outside true (coreRange_outside (by omega) (by omega) (by omega)), if_neg (by omega)]

/-- An access that fails its check halts the thread, a load or a store alike. -/
theorem exec_load_halts {s : State} {n len f3 rd rs1 r : Nat} {imm : Int} {st : Stream} (h : Runs s n st (.load f3 rd rs1 imm) len)
    (hf : accessFault false ((s.thread n st).reg rs1 + BitVec.ofInt 32 imm).toNat (accessWidth f3) = some r) (hr : r < 256)
    (hv : recordValid ((s.tile n).records.get st) = false) : ∃ t, exec (.rvInstruction n st) s = .next t ∧ Halted s t n st r 7 := by
  refine ⟨_, execRvInstruction_of_runs h rfl, ?_⟩
  simp only [State.runPlain, State.loadCore, hf]
  exact halted_coreHalt s n st r _ 0 h.tile hr hv

theorem exec_store_halts {s : State} {n len f3 rs1 rs2 r : Nat} {imm : Int} {st : Stream} (h : Runs s n st (.store f3 rs1 rs2 imm) len)
    (hf : accessFault true ((s.thread n st).reg rs1 + BitVec.ofInt 32 imm).toNat (accessWidth f3) = some r) (hr : r < 256)
    (hv : recordValid ((s.tile n).records.get st) = false) : ∃ t, exec (.rvInstruction n st) s = .next t ∧ Halted s t n st r 7 := by
  refine ⟨_, execRvInstruction_of_runs h rfl, ?_⟩
  simp only [State.runPlain, State.storeCore, hf]
  exact halted_coreHalt s n st r _ 0 h.tile hr hv

/-- The refusals that loads and stores share: between the ranges, across the end of the window, and misaligned. -/
theorem accessFault_refused (store : Bool) (a w : Nat) :
    (0x20000 < a + w → a < 0x400000 → accessFault store a w = some 0x03) ∧
    (a < 0x800000 → 0x800000 < a + w → accessFault store a w = some 0x03) ∧
    (a + w ≤ 0x20000 → a % w ≠ 0 → accessFault store a w = some 0x02) ∧
    (0x400000 ≤ a → a + w ≤ 0x800000 → a % w ≠ 0 → accessFault store a w = some 0x02) := by
  refine ⟨fun h1 h2 => ?_, fun h1 h2 => ?_, fun h1 h2 => ?_, fun h1 h2 h3 => ?_⟩
  · exact accessFault_outside store (coreRange_outside h1 (.inl h2) (.inl (by omega)))
  · exact accessFault_outside store (coreRange_outside (by omega) (.inr h2) (.inl h1))
  · rw [accessFault_dmem store h1, if_neg h2]
  · rw [accessFault_window store h1 h2, if_neg h3]

/-- Settles O15: each refusal is a failed check of the access, or an undefined encoding or fetch. -/
theorem refusedInstructionsHalt : Obligations.RefusedInstructionsHalt := by
  intro s n st hv halts
  refine ⟨fun len f3 rd rs1 imm h => ?_, fun len f3 rs1 rs2 imm h => ?_, fun len h => ?_, fun hn hr hc hb => ?_⟩
  · intro a w
    have hw : w = 1 ∨ w = 2 ∨ w = 4 := accessWidth_cases f3
    have three (hf : accessFault false a w = some 0x03) : halts 0x03 := exec_load_halts h hf (by decide) hv
    have two (hf : accessFault false a w = some 0x02) : halts 0x02 := exec_load_halts h hf (by decide) hv
    obtain ⟨gap, cross, dmem, window⟩ := accessFault_refused false a w
    refine ⟨fun h1 h2 => three (gap h1 h2), fun h1 h2 => three (cross h1 h2), fun h1 => three ?_, fun h1 h2 h3 => three ?_,
      fun h1 h2 h3 => ?_, fun h1 h2 => two (dmem h1 h2), fun h1 h2 h3 => two (window h1 h2 h3)⟩
    · rw [accessFault_load_regs (by omega) (by omega), if_neg (by omega), if_neg (by omega)]
    · rw [accessFault_load_regs (by omega) (by omega), if_neg (by omega), if_neg (by omega)]
    · have hf := accessFault_load_regs (w := w) h1 (by omega)
      rw [if_neg (by omega)] at hf
      split
      · exact two (hf.trans (if_pos (by omega)))
      · exact three (hf.trans (if_neg (by omega)))
  · intro a w
    have hw : w = 1 ∨ w = 2 ∨ w = 4 := accessWidth_cases f3
    have three (hf : accessFault true a w = some 0x03) : halts 0x03 := exec_store_halts h hf (by decide) hv
    have two (hf : accessFault true a w = some 0x02) : halts 0x02 := exec_store_halts h hf (by decide) hv
    obtain ⟨gap, cross, dmem, window⟩ := accessFault_refused true a w
    refine ⟨fun h1 h2 => three (gap h1 h2), fun h1 h2 => three (cross h1 h2), fun h1 h2 => three ?_, fun h1 h2 => three ?_,
      fun h1 h2 => two (dmem h1 h2), fun h1 h2 h3 => two (window h1 h2 h3)⟩
    · rw [accessFault_store_regs h1 (by omega), if_neg (by omega)]
    · rw [accessFault_store_regs (by omega) (by omega), if_neg (by omega)]
  · exact ⟨_, execRvInstruction_of_runs h rfl, halted_coreHalt s n st 0x01 0 0 h.tile (by decide) hv⟩
  · refine ⟨_, ?_, halted_coreHalt s n st 0x04 (s.thread n st).pc.toNat 0 hn (by decide) hv⟩
    simp only [exec, execRvInstruction, hn, hr, hc, hb, if_true]

/-! ### Loads that complete -/

theorem exec_load {s : State} {n len f3 rd rs1 : Nat} {imm : Int} {st : Stream} (h : Runs s n st (.load f3 rd rs1 imm) len) :
    exec (.rvInstruction n st) s =
      .next (s.loadCore n st len f3 rd ((s.thread n st).reg rs1 + BitVec.ofInt 32 imm).toNat) := execRvInstruction_of_runs h rfl

theorem State.loadCore_dmem (s : State) (n : Nat) (st : Stream) (len f3 rd : Nat) {a : Nat} (hi : a + accessWidth f3 ≤ 0x20000)
    (ha : a % accessWidth f3 = 0) (hc : (s.tile n).coreBlock 0 a (accessWidth f3) = none) : s.loadCore n st len f3 rd a =
      s.retireReg n st len rd (loadValue f3 (leNat (peeks (s.tile n).dmem a (accessWidth f3)))) := by
  simp only [State.loadCore, accessFault_dmem false hi, ha, if_true, coreRange_dmem hi, hc]

theorem State.loadCore_window (s : State) (n : Nat) (st : Stream) (len f3 rd : Nat) {a : Nat} (lo : 0x400000 ≤ a)
    (hi : a + accessWidth f3 ≤ 0x800000) (ha : a % accessWidth f3 = 0)
    (hg : s.guardBad (s.owner n) st false (tileBase n + (a - 0x400000)) (accessWidth f3) = none)
    (hb : s.badBlock (tileBase n + (a - 0x400000)) (accessWidth f3) = none) : s.loadCore n st len f3 rd a =
      s.retireReg n st len rd (loadValue f3 (leNat (s.loadBytes (tileBase n + (a - 0x400000)) (accessWidth f3)))) := by
  simp only [State.loadCore, accessFault_window false lo hi, ha, if_true, coreRange_window lo hi, hg, hb, State.tileNat,
    State.tileBytes]

/-- A word load of a thread register. -/
theorem State.loadCore_regs (s : State) (n : Nat) (st : Stream) (len f3 rd off : Nat) (v : Word × State) (ho : off < 0x24)
    (ha : off % 4 = 0) (hw : accessWidth f3 = 4) (hv : s.readReg n st off = some v) :
    s.loadCore n st len f3 rd (0x800000 + off) = v.2.retireReg n st len rd v.1 := by
  have hf : accessFault false (0x800000 + off) 4 = none := by
    rw [accessFault_load_regs (by omega) (by decide), if_pos (by omega)]
  have hr : coreRange (0x800000 + off) 4 = .regs off := by
    rw [coreRange_regs (by omega) (by omega) (by decide), Nat.add_sub_cancel_left]
  simp only [State.loadCore, hw, hf, hr, hv]

/-- A reading of the cycle count advances the count of free values alone: retiring after it is retiring. -/
theorem Retired.of_cycle {s t : State} {n i : Nat} {st : Stream} {th : Thread} {pc : Word} (h : Retired (s.cycle i).2 t n st th pc) :
    Retired s t n st th pc :=
  { h with rest := (State.cycle_keeps s i (Keeps.refl s)).same.trans h.rest }

/-- Settles O12, range by range and register by register. -/
theorem loadsRetire : Obligations.LoadsRetire := by
  intro s n len f3 rd rs1 imm st h th a w gives
  have same {v : Word} (e : s.loadCore n st len f3 rd a = s.retireReg n st len rd v) : gives v :=
    ⟨_, exec_load h, e ▸ retired_retireReg s n st len rd v⟩
  refine ⟨fun hi ha hc => same (s.loadCore_dmem n st len f3 rd hi ha hc),
    fun lo hi ha hg hb => same (s.loadCore_window n st len f3 rd lo hi ha hg hb), fun hw => ?_⟩
  have reg {off : Nat} {v : Word} (ha : a = 0x800000 + off) (ho : off < 0x24) (hm : off % 4 = 0)
      (hv : s.readReg n st off = some (v, s)) : gives v :=
    same (ha ▸ s.loadCore_regs n st len f3 rd off _ ho hm hw hv)
  have cyc {off : Nat} {v : Word} (ha : a = 0x800000 + off) (ho : off < 0x24) (hm : off % 4 = 0)
      (hv : s.readReg n st off = some (v, (s.cycle n).2)) : gives v := by
    refine ⟨_, exec_load h, Retired.of_cycle (i := n) ?_⟩
    have e := s.loadCore_regs n st len f3 rd off _ ho hm hw hv
    rw [← ha] at e
    exact e ▸ retired_retireReg (s.cycle n).2 n st len rd v
  refine ⟨fun ha => reg (off := 0) ha (by decide) rfl rfl, fun ha => reg (off := 0x04) ha (by decide) rfl rfl,
    fun ha => reg (off := 0x08) ha (by decide) rfl rfl, fun ha => reg (off := 0x0C) ha (by decide) rfl rfl,
    fun ha => reg (off := 0x10) ha (by decide) rfl rfl, fun ha => reg (off := 0x14) ha (by decide) rfl rfl, fun ha => ?_,
    fun ha => reg (off := 0x20) ha (by decide) rfl rfl⟩
  rcases ha with ha | ha
  · exact ⟨_, cyc (off := 0x18) ha (by decide) rfl rfl⟩
  · exact ⟨_, cyc (off := 0x1C) ha (by decide) rfl rfl⟩

/-! ### Stores that complete -/

theorem exec_store {s : State} {n len f3 rs1 rs2 : Nat} {imm : Int} {st : Stream} (h : Runs s n st (.store f3 rs1 rs2 imm) len) :
    exec (.rvInstruction n st) s = .next (s.storeCore n st len f3 ((s.thread n st).reg rs1 + BitVec.ofInt 32 imm).toNat
      ((s.thread n st).reg rs2)) := execRvInstruction_of_runs h rfl

theorem State.storeCore_dmem (s : State) (n : Nat) (st : Stream) (len f3 : Nat) {a : Nat} (v : Word)
    (hi : a + accessWidth f3 ≤ 0x20000) (ha : a % accessWidth f3 = 0) (hc : (s.tile n).coreBlock 0 a (accessWidth f3) = none) :
    s.storeCore n st len f3 a v =
      (s.modTile n fun t => { t with dmem := pokes a (natLE (accessWidth f3) v.toNat) t.dmem }).retire n st len := by
  simp only [State.storeCore, accessFault_dmem true hi, ha, if_true, coreRange_dmem hi, hc]

theorem State.storeCore_window (s : State) (n : Nat) (st : Stream) (len f3 : Nat) {a : Nat} (v : Word) (lo : 0x400000 ≤ a)
    (hi : a + accessWidth f3 ≤ 0x800000) (ha : a % accessWidth f3 = 0)
    (hg : s.guardBad (s.owner n) st true (tileBase n + (a - 0x400000)) (accessWidth f3) = none)
    (hx : s.extentBad n (a - 0x400000) (natLE (accessWidth f3) v.toNat) = false)
    (hr : s.reserveRoom (writerOf s n st) (tileBase n + (a - 0x400000)) (accessWidth f3) = true)
    (hl : s.landErr (writerOf s n st) (tileBase n + (a - 0x400000)) (natLE (accessWidth f3) v.toNat) = none) :
    s.storeCore n st len f3 a v =
      ((s.write (writerOf s n st) (tileBase n + (a - 0x400000)) (natLE (accessWidth f3) v.toNat)).modThread n st fun th =>
        { th with windowStores := th.windowStores + 1 }).retire n st len := by
  simp only [State.storeCore, accessFault_window true lo hi, ha, if_true, coreRange_window lo hi, hg, hx, hr, hl, Bool.not_true,
    Bool.false_eq_true, if_false]

theorem State.storeCore_channel (s : State) (n : Nat) (st : Stream) (len f3 : Nat) {a : Nat} (v : Word) (hw : accessWidth f3 = 4)
    (ha : a = 0x80000C) : s.storeCore n st len f3 a v = (s.modThread n st fun th => { th with channel := v }).retire n st len := by
  have hf : accessFault true a 4 = none := by rw [accessFault_store_regs (by omega) (by decide), if_pos ⟨rfl, ha⟩]
  have hr : coreRange a 4 = .regs (a - 0x800000) := coreRange_regs (by omega) (by omega) (by decide)
  simp only [State.storeCore, hw, hf, hr]

/-- The bytes of a stored number, and what lies around them. -/
theorem peek_pokes_natLE (a w v : Nat) (m : List Host.Cell) :
    (∀ i, i < w → peek (a + i) (pokes a (natLE w v) m) = BitVec.ofNat 8 (v / 256 ^ i)) ∧
    ∀ b, (b < a ∨ a + w ≤ b) → peek b (pokes a (natLE w v) m) = peek b m := by
  refine ⟨fun i hi => ?_, fun b hb => peek_pokes_of_not_mem m (by simpa using hb)⟩
  rw [peek_pokes_of_mem m (by simpa using hi), natLE_getElem w v i hi]

/-- A change of a tile that leaves its threads alone. -/
theorem State.thread_modTile_own (s : State) (n : Nat) {f : Tile → Tile} (st : Stream)
    (hf : (f (s.tile n)).threads = (s.tile n).threads) : (s.modTile n f).thread n st = s.thread n st := by
  rw [State.thread, State.tile_modTile, hf, State.thread]

/-- Settles O13: data memory by its bytes, and cur_channel. -/
theorem storesRetire : Obligations.StoresRetire := by
  intro s n len f3 rs1 rs2 imm st h th a w
  refine ⟨fun hi ha hc => ⟨_, exec_store h, ?_⟩, fun hw ha => ⟨_, exec_store h, ?_⟩⟩
  · rw [s.storeCore_dmem n st len f3 _ hi ha hc]
    let f (t : Tile) : Tile := { t with dmem := pokes a (natLE w (th.reg rs2).toNat) t.dmem }
    have r := retired_retire (s.modTile n f) n st len
    have own (u : Stream) : (s.modTile n f).thread n u = s.thread n u := s.thread_modTile_own n u rfl
    have hd : (((s.modTile n f).retire n st len).tile n).dmem = pokes a (natLE w (th.reg rs2).toNat) (s.tile n).dmem := by
      rw [r.tile, State.tile_modTile]
    obtain ⟨inside, around⟩ := peek_pokes_natLE a w (th.reg rs2).toNat (s.tile n).dmem
    refine ⟨?_, fun u hu => (r.threads u hu).trans (own u), hd ▸ inside, hd ▸ around, ?_,
      fun m hm => (r.tiles m hm).trans (s.tile_modTile_of_ne f hm), (same_tiles_of_modTile s n f).trans r.rest⟩
    · rw [r.thread, State.pcAfter, own, State.pcAfter]
    · rw [← r.turn, hd, r.tile, State.tile_modTile]
  · rw [s.storeCore_channel n st len f3 _ hw ha]
    exact retired_modThread s n st len (fun t => { t with channel := th.reg rs2 }) rfl

/-! ### What a write to a tile's store leaves -/

/-- Lines and tags cleared in the tiles a write reaches: no thread and no other tile changes. -/
theorem State.foldl_wrote (l : List Nat) (w : Range) (s : State) :
    let t := l.foldl (fun s n => s.modTile n fun t => t.wrote n w) s
    (∀ m u, t.thread m u = s.thread m u) ∧ (∀ m, m ∉ l → t.tile m = s.tile m) ∧ t.mem = s.mem := by
  induction l generalizing s with
  | nil => exact ⟨fun _ _ => rfl, fun _ _ => rfl, rfl⟩
  | cons k l ih =>
    obtain ⟨threads, tiles, mem⟩ := ih (s.modTile k fun t => t.wrote k w)
    refine ⟨fun m u => (threads m u).trans ?_, fun m hm => ?_, mem⟩
    · by_cases hk : m = k
      · subst hk
        exact s.thread_modTile_own m u rfl
      · exact s.thread_modTile_of_ne _ u hk
    · rw [List.mem_cons, not_or] at hm
      exact (tiles m hm.2).trans (s.tile_modTile_of_ne _ hm.1)

/-- A range inside one tile's store is in no other. -/
theorem tilesOf_store {n off w : Nat} (h : off + w ≤ tileStoreBytes) {m : Nat} (hm : m ∈ tilesOf ⟨tileBase n + off, w⟩) : m = n := by
  simp only [tilesOf] at hm
  split at hm
  · cases hm
  next hw =>
    simp only [List.mem_filter, List.mem_map, List.mem_range, tileBase, tileStoreBytes] at hm h
    obtain ⟨⟨i, hi, rfl⟩, -⟩ := hm
    omega

/-- A write of bytes inside tile n's store: memory holds them, and no thread and no other tile has changed. -/
theorem State.write_store (s : State) (w : Writer) {n off : Nat} {bytes : List Byte} (h : off + bytes.length ≤ tileStoreBytes) :
    let t := s.write w (tileBase n + off) bytes
    t.mem = pokes (tileBase n + off) bytes s.mem ∧ (∀ m u, t.thread m u = s.thread m u) ∧ ∀ m, m ≠ n → t.tile m = s.tile m := by
  intro t
  obtain ⟨threads, tiles, mem⟩ := State.foldl_wrote (tilesOf ⟨tileBase n + off, bytes.length⟩) ⟨tileBase n + off, bytes.length⟩
    { s.preserve w (tileBase n + off) bytes with
      mem := pokes (tileBase n + off) bytes s.mem
      bad := s.bad.filter fun b => !(decide (tileBase n + off ≤ 64 * b) && decide (64 * b + 64 ≤ tileBase n + off + bytes.length)) }
  exact ⟨mem, threads, fun m hm => tiles m fun hl => hm (tilesOf_store h hl)⟩

/-- Settles O14: the write, then the retirement of its instruction. -/
theorem windowStoresReachMemory : Obligations.WindowStoresReachMemory := by
  intro s n len f3 rs1 rs2 imm st h th a w d lo hi ha hg hx hr hl
  refine ⟨_, exec_store h, ?_⟩
  rw [s.storeCore_window n st len f3 _ lo hi ha hg hx hr hl]
  let bytes := natLE w (th.reg rs2).toNat
  let s1 := s.write (writerOf s n st) d bytes
  have len_bytes : bytes.length = w := natLE_length _ _
  obtain ⟨mem, threads, tiles⟩ := s.write_store (writerOf s n st) (n := n) (off := a - 0x400000) (bytes := bytes)
    (by rw [len_bytes, tileStoreBytes]; omega)
  have k : Keeps ({ tiles := true, mem := true, bad := true, snaps := true } : Parts).others s
      ((s1.modThread n st fun t => { t with windowStores := t.windowStores + 1 }).retire n st len) :=
    State.retire_keeps _ _ _ _ (State.modThread_keeps _ _ _ _ (State.write_keeps _ _ _ _ (.refl s) rfl rfl rfl rfl) rfl) rfl
  have r := retired_modThread s1 n st len (fun t => { t with windowStores := t.windowStores + 1 }) rfl
  obtain ⟨inside, around⟩ := peek_pokes_natLE d w (th.reg rs2).toNat s.mem
  have hm := (r.rest.mem rfl).trans mem
  refine ⟨hm ▸ inside, hm ▸ around, ?_, fun u hu => (r.threads u hu).trans (threads n u), fun m hm => (r.tiles m hm).trans (tiles m hm), k.same⟩
  have e : s1.thread n st = s.thread n st := threads n st
  rw [r.thread, State.pcAfter, State.pcAfter, e]

end Sys2Proof.Machine

namespace Sys2Proof.Machine

/-! ## Pushes (02 R60 to R62, R71, R77) -/

/-- At a command boundary with no bank switch pending for its stream a thread only retires. -/
theorem State.switchBank_of_none (s : State) (n : Nat) (st : Stream) (h : (s.tile n).switching.contains st = false) :
    s.switchBank n st = s := by
  simp only [State.switchBank, h, Bool.false_eq_true, if_false]

/-- What retiring leaves of the tile, part by part. -/
theorem Retired.queue {s t : State} {n : Nat} {st : Stream} {th : Thread} {pc : Word} (h : Retired s t n st th pc) (e : Engine)
    (u : Stream) : t.queue n e u = s.queue n e u := by
  rw [State.queue, h.tile]
  rfl

theorem Retired.dispatch {s t : State} {n : Nat} {st : Stream} {th : Thread} {pc : Word} (h : Retired s t n st th pc) :
    (t.tile n).dispatch = (s.tile n).dispatch := by rw [h.tile]

theorem Retired.switching {s t : State} {n : Nat} {st : Stream} {th : Thread} {pc : Word} (h : Retired s t n st th pc) :
    (t.tile n).switching = (s.tile n).switching := by rw [h.tile]

theorem retired_boundary (s : State) (n : Nat) (st : Stream) (len : Nat) (h : (s.tile n).switching.contains st = false) :
    Retired s (s.boundary n st len) n st (s.thread n st) (s.pcAfter n st len) := by
  have r := retired_retire s n st len
  rw [State.boundary, State.switchBank_of_none _ _ _ (r.switching ▸ h)]
  exact r

/-- The same with the thread changed by `g`, which leaves the program counter alone. -/
theorem retired_modThread_boundary (s : State) (n : Nat) (st : Stream) (len : Nat) (g : Thread → Thread)
    (h : (s.tile n).switching.contains st = false) (hg : (g (s.thread n st)).pc = (s.thread n st).pc) :
    Retired s ((s.modThread n st g).boundary n st len) n st (g (s.thread n st)) (s.pcAfter n st len) := by
  have r := retired_modThread s n st len g hg
  rw [State.boundary, State.switchBank_of_none _ _ _ (r.switching ▸ h)]
  exact r

/-- The entry that a push of the staged command makes. -/
def State.pushed (s : State) (n : Nat) (st : Stream) (rs1 rs2 : Nat) (skip : Bool) : Entry :=
  let th := s.thread n st
  { uid := s.nextUid, word := th.staging, s0 := th.reg rs1, s1 := th.reg rs2, chan := th.channel, skip := skip, ctx := s.owner n }

/-- The summaries it owes. -/
def State.owedSums (s : State) (n : Nat) (st : Stream) : List Summary :=
  (List.range (sumsOwed (s.thread n st).staging)).map fun i => ⟨s.nextUid, i, none⟩

/-- The tile after a push is placed: the thread owes the summaries, and one of its queues has one entry more. -/
theorem State.tile_placePush (s : State) (n : Nat) (st : Stream) (rs1 rs2 : Nat) (skip : Bool) :
    let t := s.tile n
    let th := s.thread n st
    let e := engineOf (wEngine th.staging)
    let q := s.queue n e st
    let x := s.pushed n st rs1 rs2 skip
    (s.placePush n st rs1 rs2 skip).tile n = { t with
      threads := t.threads.set st { th with sums := th.sums ++ s.owedSums n st }
      queues := if wTeam th.staging then t.queues else
        t.queues.set e ((t.queues.get e).set st { q with entries := q.entries ++ [x] })
      dispatch := if wTeam th.staging then t.dispatch.set st (t.dispatch.get st ++ [{ entry := x }]) else t.dispatch } := by
  intro t th e q x
  by_cases h : wTeam th.staging
  · rw [State.placePush, if_pos h, if_pos h, if_pos h, State.tile_modTile, State.modThread, State.tile_modTile]
    rfl
  · rw [State.placePush, if_neg h, if_neg h, if_neg h, State.enqueue, State.modQueue, State.tile_modTile, State.modThread,
      State.tile_modTile]
    rfl

theorem State.placePush_keeps_rest (s : State) (n : Nat) (st : Stream) (rs1 rs2 : Nat) (skip : Bool) :
    Same ({ tiles := true } : Parts).others s (s.placePush n st rs1 rs2 skip) :=
  (State.placePush_keeps _ _ _ _ _ _ (.refl s) rfl).same

theorem State.tile_placePush_of_ne (s : State) {m n : Nat} (st : Stream) (rs1 rs2 : Nat) (skip : Bool) (h : m ≠ n) :
    (s.placePush n st rs1 rs2 skip).tile m = s.tile m := by
  unfold State.placePush
  dsimp only
  split
  · exact (State.tile_modTile_of_ne _ _ h).trans (State.tile_modThread_of_ne _ _ _ h)
  · exact (State.tile_modTile_of_ne _ _ h).trans (State.tile_modThread_of_ne _ _ _ h)

/-- A thread that retires its push: the entry stands at its place, the thread is as the push leaves it, nothing else has changed. -/
theorem placed_of_retired {s t : State} {n : Nat} {st : Stream} {rs1 rs2 : Nat} {skip : Bool} {th : Thread} {pc : Word}
    (r : Retired (s.placePush n st rs1 rs2 skip) t n st { th with sums := (s.thread n st).sums ++ s.owedSums n st } pc) :
    let w := (s.thread n st).staging
    let e := engineOf (wEngine w)
    let x := s.pushed n st rs1 rs2 skip
    (t.queue n e st).entries = (s.queue n e st).entries ++ (if wTeam w then [] else [x]) ∧
    (t.tile n).dispatch.get st = (s.tile n).dispatch.get st ++ (if wTeam w then [{ entry := x }] else []) ∧
    (∀ u, u ≠ st → (t.tile n).dispatch.get u = (s.tile n).dispatch.get u) ∧
    t.thread n st = { th with pc := pc, fresh := false, sums := (s.thread n st).sums ++ s.owedSums n st } ∧
    (∀ g u, (g ≠ e ∨ u ≠ st) → t.queue n g u = s.queue n g u) ∧ (∀ u, u ≠ st → t.thread n u = s.thread n u) ∧
    (∀ m, m ≠ n → t.tile m = s.tile m) ∧ Same ({ tiles := true } : Parts).others s t := by
  intro w e x
  have p := s.tile_placePush n st rs1 rs2 skip
  have old (g : Engine) (u : Stream) : s.queue n g u = ((s.tile n).queues.get g).get u := rfl
  have new (g : Engine) (u : Stream) : t.queue n g u = (((s.placePush n st rs1 rs2 skip).tile n).queues.get g).get u := r.queue g u
  refine ⟨?_, ?_, fun u hu => ?_, r.thread, fun g u hg => ?_, fun u hu => ?_, fun m hm => (r.tiles m hm).trans
    (s.tile_placePush_of_ne st rs1 rs2 skip hm), (s.placePush_keeps_rest n st rs1 rs2 skip).trans r.rest⟩
  · rw [new, old, p]
    by_cases h : wTeam w
    · simp [w, h]
    · simp [w, e, h, old, x]
  · rw [r.dispatch, p]
    by_cases h : wTeam w
    · simp [w, h, x]
    · simp [w, h]
  · rw [r.dispatch, p]
    by_cases h : wTeam w
    · simp [w, h, ByStream.get_set_of_ne _ _ hu]
    · simp [w, h]
  · rw [new, old, p]
    by_cases h : wTeam w
    · simp [w, h]
    · by_cases hgs : g = engineOf (wEngine (s.thread n st).staging)
      · have hu : u ≠ st := hg.resolve_left (not_not_intro hgs)
        simp [w, h, hgs, ByStream.get_set_of_ne _ _ hu]
      · simp [w, h, ByEngine.get_set_of_ne _ _ hgs]
  · rw [r.threads u hu, State.thread, p]
    exact ByStream.get_set_of_ne _ _ hu

/-! ### What a push comes to -/

theorem State.pushKind_place {s : State} {n : Nat} {st : Stream} (hb : s.headerBad (s.owner n) st (s.thread n st) = none)
    (hr : s.pushRoom n st (s.thread n st).staging = true) {holds : Bool}
    (hh : predHolds (wPmode (s.thread n st).staging) (wPred (s.thread n st).staging) (s.thread n st).preds = holds)
    (hp : (holds || !wNoSws (s.thread n st).staging) = true) : s.pushKind n st = .place !holds := by
  simp only [Bool.or_eq_true, Bool.not_eq_true'] at hp
  simp only [State.pushKind, hb, hr, hh]
  rcases hp with hp | hp <;> simp [hp]

theorem State.pushKind_dropped {s : State} {n : Nat} {st : Stream} (hb : s.headerBad (s.owner n) st (s.thread n st) = none)
    (hp : (predHolds (wPmode (s.thread n st).staging) (wPred (s.thread n st).staging) (s.thread n st).preds ||
      !wNoSws (s.thread n st).staging) = false) : s.pushKind n st = .dropped := by
  simp only [Bool.or_eq_false_iff, Bool.not_eq_false'] at hp
  simp [State.pushKind, hb, hp.1, hp.2]

theorem State.pushKind_full {s : State} {n : Nat} {st : Stream} (hb : s.headerBad (s.owner n) st (s.thread n st) = none)
    (hr : s.pushRoom n st (s.thread n st).staging = false)
    (hp : (predHolds (wPmode (s.thread n st).staging) (wPred (s.thread n st).staging) (s.thread n st).preds ||
      !wNoSws (s.thread n st).staging) = true) : s.pushKind n st = .full := by
  simp only [Bool.or_eq_true, Bool.not_eq_true'] at hp
  simp only [State.pushKind, hb, hr]
  rcases hp with hp | hp <;> simp [hp]

theorem exec_cpush {s : State} {n len rs1 rs2 : Nat} {st : Stream} (h : Runs s n st (.cpush rs1 rs2) len) : exec (.cpush n st) s =
    .next (match s.pushKind n st with
      | .refused r d => s.coreHalt n st r 0 d
      | .dropped => s.boundary n st len
      | .full => s.modThread n st fun t => { t with run := .wait, waitAt := some .push }
      | .place skip => (s.placePush n st rs1 rs2 skip).boundary n st len) := by
  refine (onInstr_of_runs h _).trans ?_
  cases s.pushKind n st <;> rfl

theorem exec_cpushnb {s : State} {n len rd rs1 rs2 : Nat} {st : Stream} (h : Runs s n st (.cpushnb rd rs1 rs2) len) :
    exec (.cpushnb n st) s = .next (match s.pushKind n st with
      | .refused r d => s.coreHalt n st r 0 d
      | .dropped => (s.modThread n st fun t => t.setReg rd 1#32).boundary n st len
      | .full => s.retireReg n st len rd 0#32
      | .place skip => ((s.placePush n st rs1 rs2 skip).modThread n st fun t => t.setReg rd 1#32).boundary n st len) := by
  refine (onInstr_of_runs h _).trans ?_
  cases s.pushKind n st <;> rfl

/-- A header that is accepted names a live channel. -/
theorem State.chanOk_of_headerBad {s : State} {c : Nat} {st : Stream} {th : Thread} (h : s.headerBad c st th = none) :
    s.chanOk c th.channel = true := by
  simp only [State.headerBad] at h
  split_ifs at h with h1 h2 h3 h4 h5 h6 h7
  simpa using h7

/-- A push that waited and finds room is placed as a push then executed would be. -/
theorem exec_pushRoomResume {s : State} {n len rs1 rs2 : Nat} {st : Stream} (h : WaitsAt s n st .push (.cpush rs1 rs2) len)
    (hb : s.headerBad (s.owner n) st (s.thread n st) = none) (hr : s.pushRoom n st (s.thread n st).staging = true) :
    exec (.pushRoomResume n st) s = .next (((s.placePush n st rs1 rs2
      !predHolds (wPmode (s.thread n st).staging) (wPred (s.thread n st).staging) (s.thread n st).preds).wake n st).boundary n st len) := by
  refine (onWait_of_waitsAt h _).trans ?_
  simp [State.chanOk_of_headerBad hb, hr]

/-- Settles O18: what each push comes to, and what retiring it leaves. -/
theorem pushesPlaceCommands : Obligations.PushesPlaceCommands := by
  intro s n len rs1 rs2 st th w e holds x placed hb hs
  let p := s.placePush n st rs1 rs2 !holds
  have tile := s.tile_placePush n st rs1 rs2 !holds
  have ps : (p.tile n).switching.contains st = false := by rw [tile]; exact hs
  have pth : p.thread n st = { th with sums := th.sums ++ s.owedSums n st } := by
    rw [State.thread, tile]
    exact ByStream.get_set_self _ _ _
  have pc : p.pcAfter n st len = s.pcAfter n st len := by rw [State.pcAfter, pth, State.pcAfter]
  have place (th' : Thread) (g : Thread → Thread) (hg : g (p.thread n st) = { th' with sums := th.sums ++ s.owedSums n st })
      (hpc : th'.pc = th.pc) : placed ((p.modThread n st g).boundary n st len) th' := by
    have r := retired_modThread_boundary p n st len g ps (by rw [hg, pth]; exact hpc)
    rw [hg, pc] at r
    exact placed_of_retired r
  refine ⟨fun hr hp => ⟨fun h => ?_, fun rd h => ?_, fun h => ?_⟩, fun hp => ⟨fun h => ?_, fun rd h => ?_⟩,
    fun hp hr => ⟨fun h => ?_, fun rd h => ?_⟩⟩
  · refine ⟨_, exec_cpush h, ?_⟩
    rw [State.pushKind_place hb hr rfl hp]
    have r := retired_boundary p n st len ps
    rw [pth, pc] at r
    exact placed_of_retired r
  · refine ⟨_, exec_cpushnb h, ?_⟩
    rw [State.pushKind_place hb hr rfl hp]
    exact place _ _ (by rw [pth]; unfold Thread.setReg; split <;> rfl) (Thread.setReg_pc _ _ _)
  · exact ⟨_, exec_pushRoomResume h hb hr, place _ _ (by rw [pth]) rfl⟩
  · refine ⟨_, exec_cpush h, ?_⟩
    rw [State.pushKind_dropped hb hp]
    exact retired_boundary s n st len hs
  · refine ⟨_, exec_cpushnb h, ?_⟩
    rw [State.pushKind_dropped hb hp]
    exact retired_modThread_boundary s n st len _ hs (Thread.setReg_pc _ _ _)
  · rw [exec_cpush h, State.pushKind_full hb hr hp]
  · refine ⟨_, exec_cpushnb h, ?_⟩
    rw [State.pushKind_full hb hr hp]
    exact retired_retireReg s n st len rd _

end Sys2Proof.Machine

namespace Sys2Proof.Machine

/-! ## One update after another -/

theorem tset_tset {α : Type} (k : Nat) (v w : α) (t : Table α) : tset k v (tset k w t) = tset k v t := by
  induction t with
  | nil => simp [tset]
  | cons e r ih =>
    obtain ⟨j, x⟩ := e
    by_cases h : k < j
    · simp [tset, h]
    · by_cases g : j = k
      · simp [tset, g]
      · simp [tset, h, g, ih]

theorem ByStream.set_set {α : Type} (b : ByStream α) (st : Stream) (v w : α) : (b.set st w).set st v = b.set st v := by
  cases st <;> rfl

theorem State.modTile_modTile (s : State) (n : Nat) (f g : Tile → Tile) :
    (s.modTile n f).modTile n g = s.modTile n fun t => g (f t) := by
  rw [State.modTile, State.tile_modTile]
  simp only [State.modTile, State.setTile, tset_tset]

theorem State.modThread_modThread (s : State) (n : Nat) (st : Stream) (f g : Thread → Thread) :
    (s.modThread n st f).modThread n st g = s.modThread n st fun t => g (f t) := by
  simp only [State.modThread, State.modTile_modTile, ByStream.get_set_self, ByStream.set_set]

/-! ## CDRAIN, SUMRD and CTWAIT (02 R56; 05 R180; 08 R268) -/

theorem State.drained_all (s : State) (n : Nat) (st : Stream) : s.drained n st 7 = true ↔ ∀ e, (s.queue n e st).entries = [] := by
  simp only [State.drained, if_true, List.all_eq_true, List.isEmpty_iff]
  exact ⟨fun h e => h e (by cases e <;> decide), fun h e _ => h e⟩

theorem exec_cdrain {s : State} {n len e : Nat} {st : Stream} (h : Runs s n st (.cdrain e) len) (he : e ≠ 6) : exec (.cdrain n st) s =
    .next (if s.drained n st e then s.retire n st len else s.modThread n st fun t => { t with run := .wait, waitAt := some .cdrain }) := by
  refine (onInstr_of_runs h _).trans ?_
  simp only [he, if_false]
  split <;> rfl

theorem exec_cdrainResume {s : State} {n len e : Nat} {st : Stream} (h : WaitsAt s n st .cdrain (.cdrain e) len)
    (hd : s.drained n st e = true) : exec (.cdrainResume n st) s = .next ((s.wake n st).retire n st len) := by
  refine (onWait_of_waitsAt h _).trans ?_
  simp only [hd, if_true, Option.getD_some]

/-- SUMRD of a thread whose oldest summary is here, and of one that still waits for it. -/
theorem exec_sumrd_of_some {s : State} {n len rd x i : Nat} {st : Stream} {v : Word} {rest : List Summary}
    (h : Runs s n st (.sumrd rd) len) (hs : (s.thread n st).sums = ⟨x, i, some v⟩ :: rest) : exec (.sumrd n st) s =
      .next ((s.modThread n st fun t => { t with sums := rest }).retireReg n st len rd v) := by
  refine (onInstr_of_runs h _).trans ?_
  simp only [hs, List.isEmpty_cons, Bool.false_eq_true, if_false, Thread.takeSum, Option.getD_some]

theorem exec_sumrd_of_none {s : State} {n len rd x i : Nat} {st : Stream} {rest : List Summary}
    (h : Runs s n st (.sumrd rd) len) (hs : (s.thread n st).sums = ⟨x, i, none⟩ :: rest) : exec (.sumrd n st) s =
      .next (s.modThread n st fun t => { t with run := .wait, waitAt := some .sumrd }) := by
  refine (onInstr_of_runs h _).trans ?_
  simp only [hs, List.isEmpty_cons, Bool.false_eq_true, if_false, Thread.takeSum, Option.getD_some]

theorem exec_sumrdResume {s : State} {n len rd x i : Nat} {st : Stream} {v : Word} {rest : List Summary}
    (h : WaitsAt s n st .sumrd (.sumrd rd) len) (hs : (s.thread n st).sums = ⟨x, i, some v⟩ :: rest) : exec (.sumrdResume n st) s =
      .next (((s.modThread n st fun t => { t with sums := rest }).wake n st).retireReg n st len rd v) := by
  refine (onWait_of_waitsAt h _).trans ?_
  simp only [hs, Thread.takeSum, Option.getD_some]

/-- Retiring with a register written, after the thread was changed by `g`. -/
theorem retired_modThread_retireReg (s : State) (n : Nat) (st : Stream) (len rd : Nat) (v : Word) (g : Thread → Thread)
    (hg : (g (s.thread n st)).pc = (s.thread n st).pc) :
    Retired s ((s.modThread n st g).retireReg n st len rd v) n st ((g (s.thread n st)).setReg rd v) (s.pcAfter n st len) := by
  rw [State.retireReg, State.modThread_modThread]
  exact retired_modThread s n st len _ ((Thread.setReg_pc _ _ _).trans hg)

/-- A tally named by a register of at most 17 bits is registered at: a local one below 256, or a granted global one. -/
theorem exec_ctwait {s : State} {n len rs1 rs2 : Nat} {st : Stream} (h : Runs s n st (.ctwait rs1 rs2) len) :
    let th := s.thread n st
    let r := (th.reg rs1).toNat
    let loc := if r.testBit 16 then 2 else 0
    r < 2 ^ 17 → (loc = 0 → r < 256) → (loc = 2 → s.gtallyOk (s.owner n) (r % 65536) = true) →
    exec (.ctwait n st) s = .next ((s.fresh.2.modThread n st fun t => { t with
        run := .wait, waitAt := some .ctwait, waitUid := s.nextUid, released := false }).send
      { uid := 0, ctx := s.owner n, epoch := 0, chan := 0, src := .tile n, dst := tallyHome n loc (r % 65536), stream := st,
        engine := 7, entry := s.nextUid, body := .register (r % 65536) .ctwait (th.reg rs2).toNat false }) := by
  intro th r loc hr hl hg
  refine (onInstr_of_runs h _).trans ?_
  have high : bits r 31 17 = 0 := by
    simp only [bits, Nat.shiftRight_eq_div_pow]
    omega
  have inside : (bits r 31 17 != 0 || (decide (loc = 0) && decide (256 ≤ r % 65536))) = false := by
    simp only [high, Bool.or_eq_false_iff, Bool.and_eq_false_iff, decide_eq_false_iff_not]
    by_cases h0 : loc = 0
    · have := hl h0
      exact ⟨by decide, .inr (by omega)⟩
    · exact ⟨by decide, .inl h0⟩
  have granted : (decide (loc = 2) && !s.gtallyOk (s.owner n) (r % 65536)) = false := by
    by_cases h2 : loc = 2
    · simp [hg h2]
    · simp [h2]
  dsimp only
  rw [inside, granted]
  rfl

/-- Settles O19: each comes to its retirement, or to its wait. -/
theorem waitingInstructionsRetire : Obligations.WaitingInstructionsRetire := by
  intro s n len st th woken gives
  refine ⟨fun e he hd => ⟨fun h => ?_, fun h => ⟨_, exec_cdrainResume h hd, retired_wake s n st len⟩⟩, fun e he hd h => ?_,
    s.drained_all n st, fun rd x v rest hs r => ⟨fun h => ⟨_, exec_sumrd_of_some h hs, ?_⟩, fun h => ⟨_, exec_sumrdResume h hs, ?_⟩⟩,
    fun x v rest hs r h => exec_sumrd_of_none h hs, fun rs1 rs2 h => exec_ctwait h⟩
  · refine ⟨_, exec_cdrain h he, ?_⟩
    rw [if_pos hd]
    exact retired_retire s n st len
  · rw [exec_cdrain h he, hd]
    rfl
  · exact retired_modThread_retireReg s n st len r rd (fun t => { t with sums := rest }) rfl
  · rw [State.wake, State.modThread_modThread]
    exact retired_modThread_retireReg s n st len r rd _ rfl

/-! ## PARK, IMSWAP and bank switches (02 R74 to R77) -/

/-- A thread changed once more after it has retired. -/
theorem Retired.modThread {s t : State} {n : Nat} {st : Stream} {th th' : Thread} {pc : Word} (r : Retired s t n st th pc)
    {g : Thread → Thread} (hg : g { th with pc := pc, fresh := false } = { th' with pc := pc, fresh := false }) :
    Retired s (t.modThread n st g) n st th' pc where
  thread := by rw [State.thread_modThread, r.thread, hg]
  threads u hu := (State.thread_modThread_of_ne _ _ _ hu).trans (r.threads u hu)
  turn := by rw [State.modThread, State.tile_modTile]; exact r.turn
  tile := by rw [State.modThread, State.tile_modTile, r.tile]
  tiles m hm := (State.tile_modThread_of_ne _ _ _ hm).trans (r.tiles m hm)
  rest := r.rest.trans (same_tiles_of_modTile _ _ _)

/-- The tile after its thread takes the pending switch. -/
theorem State.tile_switchBank (s : State) (n : Nat) (st : Stream) (h : (s.tile n).switching.contains st = true) :
    let t := s.tile n
    let th := s.thread n st
    (s.switchBank n st).tile n = { t with
      switching := t.switching.filter (· != st)
      threads := t.threads.set st { th with
        bank := t.targetBank
        pc := if th.run = .run || th.run = .wait then BitVec.ofNat 32 (imemBase + s.bankEntry n t.targetBank st) else th.pc
        atEntry := th.run = .halt } } := by
  intro t th
  rw [State.switchBank]
  dsimp only
  rw [if_pos h, State.modThread, State.tile_modTile, State.tile_modTile]
  rfl

theorem Same.broadcast {pt : Parts} {s t : State} (h : Same pt s t) (hd : pt.device = true) : t.broadcast = s.broadcast := by
  have e := h.device hd
  simp only [State.deviceSettings, Prod.mk.injEq] at e
  obtain ⟨-, -, -, -, -, -, hb, -⟩ := e
  exact hb

/-- A stream's entry is read from the banks alone. -/
theorem State.bankEntry_congr {s t : State} {n : Nat} (h0 : (t.tile n).imem0 = (s.tile n).imem0)
    (h1 : (t.tile n).imem1 = (s.tile n).imem1) (hb : t.broadcast = s.broadcast) (b : Nat) (st : Stream) :
    t.bankEntry n b st = s.bankEntry n b st := by
  simp only [State.bankEntry, State.imemByte, bankBytes, h0, h1, hb]

theorem State.switchBank_keeps_rest (s : State) (n : Nat) (st : Stream) :
    Same ({ tiles := true } : Parts).others s (s.switchBank n st) := (State.switchBank_keeps _ _ _ (.refl s) rfl).same

/-- A thread in PARK or HALT takes a pending switch; another leaves it pending. -/
def State.switchIfIdle (s : State) (n : Nat) (st : Stream) : State :=
  if (s.thread n st).run = .park || (s.thread n st).run = .halt then s.switchBank n st else s

theorem State.switchIdle_eq (s : State) (n : Nat) : s.switchIdle n = allStreams.foldl (·.switchIfIdle n ·) s := rfl

/-- A thread of PARK or HALT as it takes the switch to bank b. -/
def Thread.switched (th : Thread) (b : Nat) : Thread := { th with bank := b, atEntry := th.run = .halt }

/-- What one thread's part in it leaves to the others and of the tile. -/
theorem State.switchIfIdle_leaves (s : State) (n : Nat) (k : Stream) :
    let t := s.switchIfIdle n k
    (∀ u, u ≠ k → t.thread n u = s.thread n u ∧ (t.tile n).switching.contains u = (s.tile n).switching.contains u) ∧
    (∀ m, m ≠ n → t.tile m = s.tile m) ∧ (t.tile n).targetBank = (s.tile n).targetBank ∧ (t.tile n).imem0 = (s.tile n).imem0 ∧
    (t.tile n).imem1 = (s.tile n).imem1 := by
  dsimp only
  rw [State.switchIfIdle]
  split
  · obtain ⟨threads, tiles⟩ := s.switchBank_other n k
    have own := s.switchBank_own n k
    refine ⟨fun u hu => ⟨threads u hu, ?_⟩, tiles, by rw [own], by rw [own], by rw [own]⟩
    by_cases h : (s.tile n).switching.contains k = true
    · rw [s.tile_switchBank n k h]
      simp [List.contains_eq_mem, List.mem_filter, hu]
    · rw [s.switchBank_of_none n k (by simpa using h)]
  · exact ⟨fun _ _ => ⟨rfl, rfl⟩, fun _ _ => rfl, rfl, rfl, rfl⟩

/-- What it is for the thread itself. -/
theorem State.switchIfIdle_own (s : State) (n : Nat) (k : Stream) (hc : (s.tile n).switching.contains k = true)
    (hi : (s.thread n k).run = .park ∨ (s.thread n k).run = .halt) :
    (s.switchIfIdle n k).thread n k = (s.thread n k).switched (s.tile n).targetBank ∧
      ((s.switchIfIdle n k).tile n).switching.contains k = false := by
  have hr : ¬((s.thread n k).run = .run ∨ (s.thread n k).run = .wait) := by
    rcases hi with h | h <;> simp [h]
  rw [State.switchIfIdle, if_pos (by simpa using hi), State.thread, s.tile_switchBank n k hc]
  simp [Thread.switched, hr, List.contains_eq_mem, List.mem_filter]

/-- Every idle thread among distinct streams takes the switch, every other is left as it was. -/
theorem State.foldl_switchIfIdle (n : Nat) (l : List Stream) (hl : l.Nodup) (s : State) :
    let t := l.foldl (·.switchIfIdle n ·) s
    (∀ u, u ∉ l ∨ ¬((s.thread n u).run = .park ∨ (s.thread n u).run = .halt) →
      t.thread n u = s.thread n u ∧ (t.tile n).switching.contains u = (s.tile n).switching.contains u) ∧
    (∀ u, u ∈ l → (s.tile n).switching.contains u = true → (s.thread n u).run = .park ∨ (s.thread n u).run = .halt →
      t.thread n u = (s.thread n u).switched (s.tile n).targetBank ∧ (t.tile n).switching.contains u = false) ∧
    (∀ m, m ≠ n → t.tile m = s.tile m) ∧ (t.tile n).targetBank = (s.tile n).targetBank ∧ (t.tile n).imem0 = (s.tile n).imem0 ∧
    (t.tile n).imem1 = (s.tile n).imem1 := by
  induction l generalizing s with
  | nil => exact ⟨fun _ _ => ⟨rfl, rfl⟩, fun _ h => absurd h List.not_mem_nil, fun _ _ => rfl, rfl, rfl, rfl⟩
  | cons k l ih =>
    rw [List.nodup_cons] at hl
    obtain ⟨stays, switches, tiles, target, imem0, imem1⟩ := ih hl.2 (s.switchIfIdle n k)
    obtain ⟨leaves, tiles', target', imem0', imem1'⟩ := s.switchIfIdle_leaves n k
    refine ⟨fun u hu => ?_, fun u hu hc hi => ?_, fun m hm => (tiles m hm).trans (tiles' m hm), target.trans target',
      imem0.trans imem0', imem1.trans imem1'⟩
    · by_cases hk : u = k
      · subst hk
        have hi : ¬((s.thread n u).run = .park ∨ (s.thread n u).run = .halt) := hu.resolve_left (by simp)
        have e : s.switchIfIdle n u = s := if_neg (by simpa using hi)
        obtain ⟨th', co'⟩ := stays u (.inl hl.1)
        exact ⟨th'.trans (by rw [e]), co'.trans (by rw [e])⟩
      · obtain ⟨th, co⟩ := leaves u hk
        obtain ⟨th', co'⟩ := stays u (by rw [th]; exact hu.imp_left (fun h hm => h (List.mem_cons_of_mem _ hm)))
        exact ⟨th'.trans th, co'.trans co⟩
    · by_cases hk : u = k
      · subst hk
        obtain ⟨th, co⟩ := s.switchIfIdle_own n u hc hi
        obtain ⟨th', co'⟩ := stays u (.inl hl.1)
        exact ⟨th'.trans th, co'.trans co⟩
      · obtain ⟨th, co⟩ := leaves u hk
        obtain ⟨th', co'⟩ := switches u (List.mem_of_ne_of_mem hk hu) (co.trans hc) (by rw [th]; exact hi)
        exact ⟨th'.trans (by rw [th, target']), co'⟩

/-- What a started bank switch is for each thread of the tile: a thread in PARK or HALT has taken it, another will. -/
theorem State.switchIdle_threads (s : State) (n : Nat) (hs : ∀ u, (s.tile n).switching.contains u = true) (u : Stream) :
    let t := s.switchIdle n
    ((s.thread n u).run = .park ∨ (s.thread n u).run = .halt →
      t.thread n u = (s.thread n u).switched (s.tile n).targetBank ∧ (t.tile n).switching.contains u = false) ∧
    ((s.thread n u).run = .run ∨ (s.thread n u).run = .wait →
      t.thread n u = s.thread n u ∧ (t.tile n).switching.contains u = true) := by
  obtain ⟨stays, switches, -⟩ := State.foldl_switchIfIdle n allStreams (by decide) s
  rw [← State.switchIdle_eq] at stays switches
  refine ⟨fun hi => switches u (by cases u <;> decide) (hs u) hi, fun hr => ?_⟩
  obtain ⟨th, co⟩ := stays u (.inr (by rcases hr with h | h <;> simp [h]))
  exact ⟨th, co.trans (hs u)⟩

theorem State.switchIdle_leaves (s : State) (n : Nat) :
    let t := s.switchIdle n
    (∀ m, m ≠ n → t.tile m = s.tile m) ∧ (t.tile n).targetBank = (s.tile n).targetBank ∧
    ∀ b u, t.bankEntry n b u = s.bankEntry n b u := by
  obtain ⟨-, -, tiles, target, imem0, imem1⟩ := State.foldl_switchIfIdle n allStreams (by decide) s
  have rest : Same ({ tiles := true } : Parts).others s (s.switchIdle n) := (State.switchIdle_keeps _ _ (.refl s) rfl).same
  exact ⟨tiles, target, State.bankEntry_congr imem0 imem1 (rest.broadcast rfl)⟩

/-- A command boundary at which a running thread's switch is pending: the thread goes on at its entry in the target bank. -/
theorem State.boundary_switches (s : State) (n : Nat) (st : Stream) (len : Nat) (hc : (s.tile n).switching.contains st = true)
    (hr : (s.thread n st).run = .run) :
    let t := s.boundary n st len
    let b := (s.tile n).targetBank
    t.thread n st = { s.thread n st with
      bank := b, pc := BitVec.ofNat 32 (imemBase + s.bankEntry n b st), fresh := false, atEntry := false } ∧
    (∀ u, u ≠ st → t.thread n u = s.thread n u ∧ (t.tile n).switching.contains u = (s.tile n).switching.contains u) ∧
    (t.tile n).targetBank = b ∧ (∀ m, m ≠ n → t.tile m = s.tile m) ∧ Same ({ tiles := true } : Parts).others s t := by
  intro t b
  let v := s.retire n st len
  have r : Retired s v n st (s.thread n st) (s.pcAfter n st len) := retired_retire s n st len
  have target : (v.tile n).targetBank = b := by rw [r.tile]
  have vc : (v.tile n).switching.contains st = true := r.switching ▸ hc
  have vt := v.tile_switchBank n st vc
  have entry : v.bankEntry n b st = s.bankEntry n b st :=
    State.bankEntry_congr (by rw [r.tile]) (by rw [r.tile]) (r.rest.broadcast rfl) b st
  obtain ⟨others, tiles⟩ := v.switchBank_other n st
  refine ⟨?_, fun u hu => ⟨(others u hu).trans (r.threads u hu), ?_⟩, ?_, fun m hm => (tiles m hm).trans (r.tiles m hm),
    r.rest.trans (v.switchBank_keeps_rest n st)⟩
  · have own : t.thread n st = _ := congrArg (fun x => (Tile.threads x).get st) vt
    rw [own]
    dsimp only
    rw [ByStream.get_set_self, target, entry, r.thread]
    simp [hr]
  · have sw : (t.tile n).switching = _ := congrArg Tile.switching vt
    rw [sw]
    simp [r.switching, List.contains_eq_mem, List.mem_filter, hu]
  · have own : (t.tile n).targetBank = _ := congrArg Tile.targetBank vt
    exact own.trans target

theorem Runs.run {s : State} {n len : Nat} {st : Stream} {op : RvOp} (h : Runs s n st op len) : (s.thread n st).run = .run := by
  have hr := h.runs
  simp only [State.threadRuns, Bool.and_eq_true, decide_eq_true_eq] at hr
  exact hr.1.1.1.2

/-- IMSWAP where no switch is pending and no write into the idle bank is in flight. -/
theorem exec_imswap {s : State} {n len : Nat} {st : Stream} (h : Runs s n st .imswap len) (hs : (s.tile n).switching = [])
    (hb : s.bankWriteInFlight n (1 - (s.tile n).targetBank) = false) : exec (.imswap n st) s =
      .next (((s.modTile n fun t => { t with targetBank := 1 - (s.tile n).targetBank, switching := allStreams }).switchIdle n).boundary
        n st len) := by
  refine (onInstr_of_runs h _).trans ?_
  simp [hs, hb]

theorem exec_imswap_halts {s : State} {n len : Nat} {st : Stream} (h : Runs s n st .imswap len)
    (hb : (s.tile n).switching ≠ [] ∨ s.bankWriteInFlight n (1 - (s.tile n).targetBank) = true) :
    exec (.imswap n st) s = .next (s.coreHalt n st 0x24 0 0) := by
  refine (onInstr_of_runs h _).trans ?_
  have bad : (!(s.tile n).switching.isEmpty || s.bankWriteInFlight n (1 - (s.tile n).targetBank)) = true := by
    rcases hb with hb | hb <;> simp [hb]
  dsimp only
  rw [if_pos rfl, if_pos bad]
  rfl

/-- Settles O20: PARK, and IMSWAP thread by thread. -/
theorem parkAndBankSwitch : Obligations.ParkAndBankSwitch := by
  intro s n len st th b
  refine ⟨fun h hs => ⟨_, onInstr_of_runs h _, ?_⟩, fun h hs hb => ?_,
    fun h hb hv => ⟨_, exec_imswap_halts h hb, halted_coreHalt s n st 0x24 0 0 h.tile (by decide) hv⟩⟩
  · have r : Retired s _ n st { th with run := .park } _ :=
      (retired_retire s n st len).modThread (g := fun t => { t with run := .park }) rfl
    rw [if_pos rfl, Option.getD_some, State.switchBank_of_none _ _ _ (r.switching ▸ hs)]
    exact r
  · let s1 := s.modTile n fun t => { t with targetBank := b, switching := allStreams }
    have tile1 : s1.tile n = { s.tile n with targetBank := b, switching := allStreams } := State.tile_modTile _ _ _
    have all : ∀ u, (s1.tile n).switching.contains u = true := fun u => by rw [tile1]; cases u <;> rfl
    have threads1 (u : Stream) : s1.thread n u = s.thread n u := s.thread_modTile_own n u rfl
    have target1 : (s1.tile n).targetBank = b := by rw [tile1]
    have entry1 : s1.bankEntry n b st = s.bankEntry n b st :=
      State.bankEntry_congr (s := s) (t := s1) (by rw [tile1]) (by rw [tile1]) rfl b st
    obtain ⟨tiles2, target2, entry2⟩ := s1.switchIdle_leaves n
    have idle (u : Stream) := (s1.switchIdle_threads n all u).1
    have busy (u : Stream) := (s1.switchIdle_threads n all u).2
    rw [target1] at target2
    simp only [threads1, target1] at idle busy
    obtain ⟨own, pending⟩ := busy st (.inl h.run)
    obtain ⟨thread, others, target, tiles, rest⟩ :=
      (s1.switchIdle n).boundary_switches n st len pending (by rw [own]; exact h.run)
    rw [own, target2, entry2, entry1] at thread
    refine ⟨_, exec_imswap h hs hb, target.trans target2, thread, fun u hu hi => ?_, fun u hu hr => ?_,
      fun m hm => (tiles m hm).trans ((tiles2 m hm).trans (State.tile_modTile_of_ne _ _ hm)),
      ((same_tiles_of_modTile s n _).trans (State.switchIdle_keeps _ _ (.refl _) rfl).same).trans rest⟩
    · obtain ⟨a, c⟩ := others u hu
      exact ⟨a.trans (idle u hi).1, c.trans (idle u hi).2⟩
    · obtain ⟨a, c⟩ := others u hu
      exact ⟨a.trans (busy u hr).1, c.trans (busy u hr).2⟩

/-! ## Starts, debug halts and resumptions (02 R52, R81 to R83) -/

/-- What a change makes of a thread depends on the thread as it stands. -/
theorem State.modThread_congr (s : State) {n : Nat} {st : Stream} {f g : Thread → Thread} (h : f (s.thread n st) = g (s.thread n st)) :
    s.modThread n st f = s.modThread n st g := by
  have h' : f ((s.tile n).threads.get st) = g ((s.tile n).threads.get st) := h
  simp only [State.modThread, State.modTile, h']

/-- A start request that is taken at a parked thread. -/
theorem exec_threadStart {s : State} {k n : Nat} {st : Stream} {p : Packet} (ha : s.arrival k = some p) (hb : p.body = .start st)
    (hd : p.dst = .tile n) (hs : s.stale p = false) (hn : s.alive n = true) (hp : (s.thread n st).run = .park)
    (hr : s.notResetting (s.owner n) = true) : exec (.threadStart k) s =
      .next ((s.consume k).modThread n st fun t => { t with
        run := .run, ctx := p.ctx, fresh := true, pc := BitVec.ofNat 32 (imemBase + s.bankEntry n t.bank st) }) := by
  have serves : s.serving = true := by
    simp only [State.alive, Bool.and_eq_true] at hn
    exact hn.1.1
  have thread1 : ((s.consume k).thread n st).run = .park := hp
  have reset1 : (s.consume k).notResetting ((s.consume k).owner n) = true := hr
  simp only [exec, execThreadStart, ha, hb, hd, hs, hn, serves, Bool.not_true, Bool.or_self, Bool.false_eq_true, if_false, thread1, reset1,
    Bool.and_self, decide_true, if_true]
  rfl

theorem exec_debugHalt {s : State} {n : Nat} {st : Stream} (hn : n < 2048) (ha : s.alive n = true) :
    exec (.debugHalt n st) s = .next (s.coreHalt n st 0x42 0 0) := by
  simp only [exec, execDebugHalt, hn, ha, if_true]

/-- The length of the EBREAK at a thread's program counter; 0 where there is none. -/
def State.ebreakLen (s : State) (n : Nat) (st : Stream) : Nat :=
  match s.current n st with
  | some (.ebreak, l) => l
  | _ => 0

/-- A thread that the debugger may resume, and that does not come back to a CTWAIT, is as the resumption leaves it. -/
theorem exec_debugResume {s : State} {n : Nat} {st : Stream} (hn : n < 2048) (ha : s.alive n = true)
    (hh : (s.thread n st).run = .halt) (hr : resumable (s.thread n st).haltBy = true) {g : Thread → Thread}
    (hg : (s.thread n st).resumed (BitVec.ofNat 32 (imemBase + s.bankEntry n (s.thread n st).bank st)) (s.ebreakLen n st) =
      g (s.thread n st)) (hw : (g (s.thread n st)).run ≠ .wait ∨ (g (s.thread n st)).waitAt ≠ some .ctwait) :
    exec (.debugResume n st) s = .next (s.modThread n st g) := by
  have occasion : (s.alive n && decide ((s.thread n st).run = .halt) && resumable (s.thread n st).haltBy) = true := by
    simp [ha, hh, hr]
  have w : (s.modThread n st g).waiting n st .ctwait = none := by
    simp only [State.waiting, State.thread_modThread]
    rcases hw with hw | hw <;> simp [hw]
  have e : s.modThread n st (fun t => t.resumed (BitVec.ofNat 32 (imemBase + s.bankEntry n t.bank st)) (s.ebreakLen n st)) =
    s.modThread n st g := s.modThread_congr hg
  refine (if_pos hn).trans ((if_pos occasion).trans (congrArg Host.Outcome.next ?_))
  refine (congrArg (·.ctwaitRetire n st) e).trans ?_
  simp only [State.ctwaitRetire, w]

/-- What a resumption makes of a thread, case by case (02 R83). -/
theorem Thread.resumed_parked {th : Thread} (entry : Word) (len : Nat) (h : th.was = .park) :
    th.resumed entry len = { th with run := .park, waitAt := none, atEntry := false } := if_pos h

theorem Thread.resumed_atEntry {th : Thread} (entry : Word) (len : Nat) (h : th.was ≠ .park) (he : th.atEntry = true) :
    th.resumed entry len = { th with run := .run, waitAt := none, released := false, pc := entry, atEntry := false } := by
  rw [Thread.resumed, if_neg h, if_pos he]

theorem Thread.resumed_ebreak {th : Thread} (entry : Word) (len : Nat) (h : th.was ≠ .park) (he : th.atEntry = false)
    (hb : th.haltBy = 0x05) : th.resumed entry len = { th with run := .run, pc := th.pc + BitVec.ofNat 32 len } := by
  rw [Thread.resumed, if_neg h, he, if_neg Bool.false_ne_true, if_pos hb]

theorem Thread.resumed_debug {th : Thread} (entry : Word) (len : Nat) (h : th.was ≠ .park) (he : th.atEntry = false)
    (hb : th.haltBy = 0x42) : th.resumed entry len = { th with run := th.was } := by
  rw [Thread.resumed, if_neg h, he, if_neg Bool.false_ne_true, hb, if_neg (by decide)]

theorem exec_debugResume_of_not_resumable {s : State} {n : Nat} {st : Stream} (hn : n < 2048)
    (hr : resumable (s.thread n st).haltBy = false) : exec (.debugResume n st) s = .next s := by
  simp only [exec, execDebugResume, hn, hr, if_true, Bool.and_false, Bool.false_eq_true, if_false]

/-- Settles O21: the start, the halt, and each way of resuming. -/
theorem startHaltAndResumeThread : Obligations.StartHaltAndResumeThread := by
  intro s n st
  refine ⟨fun k p ha hb hd hs hn hp hr => ⟨_, exec_threadStart ha hb hd hs hn hp hr, rfl, ?_, fun u hu => ?_, fun m hm => ?_, ?_⟩,
    fun hn ha _ hv => ⟨_, exec_debugHalt hn ha, halted_coreHalt s n st 0x42 0 0 hn (by decide) hv⟩, fun hn ha hh => ?_⟩
  · exact State.thread_modThread _ _ _ _
  · exact State.thread_modThread_of_ne _ _ _ hu
  · exact State.tile_modThread_of_ne _ _ _ hm
  · exact (State.modThread_keeps _ _ _ _ (State.consume_keeps _ _ (.refl s) rfl) rfl).same
  · intro th resumes
    have resumes_of {g : Thread → Thread} (hr : resumable th.haltBy = true) := exec_debugResume (g := g) hn ha hh hr
    refine ⟨fun hb he hw => ?_, fun hb he hw hc => ?_, fun len hb he hw hl => ?_, fun hr hw => ?_, fun hr hw he => ?_,
      exec_debugResume_of_not_resumable hn⟩
    · exact resumes_of (by rw [hb]; decide) ((Thread.resumed_debug _ _ (by rw [hw]; decide) he hb).trans (by rw [hw])) (.inl (by simp))
    · exact resumes_of (by rw [hb]; decide) ((Thread.resumed_debug _ _ (by rw [hw]; decide) he hb).trans (by rw [hw])) (.inr hc)
    · have hlen : s.ebreakLen n st = len := by simp only [State.ebreakLen, hl]
      exact resumes_of (by rw [hb]; decide) ((Thread.resumed_ebreak _ _ (by rw [hw]; decide) he hb).trans (by rw [hlen]; rfl))
        (.inl (by simp))
    · exact resumes_of hr (Thread.resumed_parked _ _ hw) (.inl (by simp))
    · exact resumes_of hr (Thread.resumed_atEntry _ _ hw he) (.inl (by simp))

/-! ## A halt while the stream's record is valid (02 R82) -/

/-- What a halt makes of the tiles: the thread halted, a pending switch taken, and the record, which one held before only counts in. -/
theorem State.tiles_halt (s : State) (n : Nat) (st : Stream) (h : Halt) : ∃ record,
    (s.halt n st h).tiles = (((s.modThread n st fun th => th.halt h.reason).switchBank n st).modTile n fun t =>
      { t with records := t.records.set st record }).tiles ∧
    (recordValid ((s.tile n).records.get st) = true →
      record = withField ((s.tile n).records.get st) 30 8 (min 255 (recordMore ((s.tile n).records.get st) + 1))) := by
  have alarmed (u : State) (c cause : Nat) (kind source ctx : Nat) (body : List Byte) :
      ((u.alarm kind source ctx body).lockStop c cause).tiles = u.tiles :=
    (State.lockStop_tiles _ _ _).trans (State.alarm_tiles _ _ _ _ _)
  let moved := (s.modThread n st fun th => th.halt h.reason).switchBank n st
  refine ⟨if recordValid ((s.tile n).records.get st) = true then
      withField ((s.tile n).records.get st) 30 8 (min 255 (recordMore ((s.tile n).records.get st) + 1))
    else faultRecord h st (s.owner n) n (s.thread n st).bank ((s.thread n st).pc.toNat % 65536) (moved.nextSeq n 0)
      (moved.cycle n).1.toNat, ?_, fun hv => if_pos hv⟩
  unfold State.halt
  dsimp only
  split
  · rfl
  · split
    · exact alarmed _ _ _ _ _ _ _
    · exact State.alarm_tiles _ _ _ _ _

theorem Thread.halt_run (th : Thread) (reason : Nat) : (th.halt reason).run = .halt := by
  unfold Thread.halt
  split
  · assumption
  · rfl

theorem State.run_halt (s : State) (n : Nat) (st : Stream) (h : Halt) : ((s.halt n st h).thread n st).run = .halt := by
  obtain ⟨record, e, -⟩ := s.tiles_halt n st h
  obtain ⟨b, pc, q, th⟩ := State.switchBank_thread (s.modThread n st fun th => th.halt h.reason) n st
  have own : (s.halt n st h).thread n st = ((s.modThread n st fun th => th.halt h.reason).switchBank n st).thread n st := by
    rw [State.thread, State.tile, e]
    exact State.thread_modTile_own _ n st rfl
  rw [own, th, State.thread_modThread]
  exact Thread.halt_run _ _

theorem State.record_halt_of_valid (s : State) (n : Nat) (st : Stream) (h : Halt)
    (hv : recordValid ((s.tile n).records.get st) = true) : ((s.halt n st h).tile n).records.get st =
      withField ((s.tile n).records.get st) 30 8 (min 255 (recordMore ((s.tile n).records.get st) + 1)) := by
  obtain ⟨record, e, hr⟩ := s.tiles_halt n st h
  rw [State.tile, e, ← hr hv]
  refine (congrArg (fun x => (Tile.records x).get st) (State.tile_modTile _ _ _)).trans ?_
  exact ByStream.get_set_self _ _ _

/-- Settles O22: the one field of a valid record that a further halt writes is `more`. -/
theorem aRecordHeldIsNotOverwritten : Obligations.ARecordHeldIsNotOverwritten := by
  intro s n st hn ha r hv
  have record (h : Halt) := s.record_halt_of_valid n st h hv
  refine ⟨_, exec_debugHalt hn ha, s.run_halt n st _, ?_, fun b _ hb => ?_⟩
  · rw [State.coreHalt, record, recordMore, bits_withField r 30 8 _ (by decide) (by decide)]
    have : min 255 (recordMore r + 1) < 2 ^ 8 := by omega
    exact Nat.mod_eq_of_lt this
  · rw [State.coreHalt, record, getLsbD_withField r 30 8 _ b (by decide) (by decide), if_neg (by omega)]

end Sys2Proof.Machine

namespace Sys2Proof.Machine

/-! ## What the end of a command leaves alone -/

/-- The commands that a tile holds: its queues' entries, its streams' runs of work lists, and the summaries its threads are owed. -/
def Tile.held (t : Tile) : (Engine → Stream → List Entry) × ByStream (Option ListRun) × (Stream → List Summary) :=
  (fun e st => ((t.queues.get e).get st).entries, t.runs, fun st => (t.threads.get st).sums)

/-- Every tile holds the commands it held, memory is as it was, and what was in flight still is, in its order. -/
structure Quiet (s t : State) : Prop where
  held : ∀ m, (t.tile m).held = (s.tile m).held
  mem : t.mem = s.mem
  net : ∃ l, t.net = s.net ++ l

namespace Quiet

theorem refl (s : State) : Quiet s s := ⟨fun _ => rfl, rfl, [], (List.append_nil _).symm⟩

theorem trans {s t u : State} (h : Quiet s t) (g : Quiet t u) : Quiet s u where
  held m := (g.held m).trans (h.held m)
  mem := g.mem.trans h.mem
  net := by
    obtain ⟨l, hl⟩ := h.net
    obtain ⟨k, hk⟩ := g.net
    exact ⟨l ++ k, by rw [hk, hl, List.append_assoc]⟩

theorem of_same {s t : State} (h : Same { tiles := true, mem := true, net := true } s t) : Quiet s t where
  held m := by rw [State.tile, State.tile, h.tiles rfl]
  mem := h.mem rfl
  net := ⟨[], by rw [h.net rfl, List.append_nil]⟩

theorem of_keeps {s t : State} (h : Keeps { tiles := true, mem := true, net := true } s t) : Quiet s t := of_same h.same

theorem foldl {α : Type} {f : State → α → State} (h : ∀ s a, Quiet s (f s a)) (l : List α) (s : State) : Quiet s (l.foldl f s) := by
  induction l generalizing s with
  | nil => exact refl s
  | cons a l ih => exact (h s a).trans (ih _)

theorem ite {c : Prop} [Decidable c] {s t u : State} (h : Quiet s t) (g : Quiet s u) : Quiet s (if c then t else u) := by
  split
  · exact h
  · exact g

theorem modTile {s u : State} (g : Quiet s u) {n : Nat} {f : Tile → Tile} (h : ∀ t, (f t).held = t.held) : Quiet s (u.modTile n f) :=
  g.trans ⟨fun m => by
    rcases eq_or_ne m n with rfl | hm
    · rw [State.tile_modTile, h]
    · rw [State.tile_modTile_of_ne _ _ hm], rfl, [], (List.append_nil _).symm⟩

theorem modThread {s u : State} (g : Quiet s u) {n : Nat} {st : Stream} {f : Thread → Thread} (h : ∀ th, (f th).sums = th.sums) :
    Quiet s (u.modThread n st f) :=
  g.modTile fun t => by
    refine Prod.ext rfl (Prod.ext rfl (funext fun k => ?_))
    rcases eq_or_ne k st with rfl | hk
    · exact (congrArg Thread.sums (ByStream.get_set_self _ _ _)).trans (h _)
    · exact congrArg Thread.sums (ByStream.get_set_of_ne _ _ hk)

theorem send (s : State) (p : Packet) : Quiet s (s.send p) := ⟨fun _ => rfl, rfl, _, rfl⟩

theorem progressed (s : State) (n unit : Nat) : Quiet s (s.progressed n unit) := (refl s).modTile fun _ => rfl

theorem trace (s : State) (kind bitNo n : Nat) (e : Engine) (st : Stream) (x : Entry) (tally loc amount : Nat) :
    Quiet s (s.trace kind bitNo n e st x tally loc amount) :=
  of_keeps (State.trace_keeps _ _ _ _ _ _ _ _ _ _ (Keeps.refl s) rfl)

theorem alarm (s : State) (kind source ctx : Nat) (body : List Byte) : Quiet s (s.alarm kind source ctx body) :=
  of_keeps (State.alarm_keeps _ _ _ _ _ (Keeps.refl s) rfl)

theorem lockFrame (s : State) (c ftype n engine strm window low : Nat) (data : List Byte) :
    Quiet s (s.lockFrame c ftype n engine strm window low data) :=
  of_keeps (State.lockFrame_keeps _ _ _ _ _ _ _ _ _ (Keeps.refl s) rfl)

theorem hopSend (s : State) (h : Hop) (holds : Option (Nat × Nat × Nat)) : Quiet s (s.hopSend h holds) :=
  of_keeps (State.hopSend_keeps _ _ _ (Keeps.refl s) rfl)

theorem switchBank (s : State) (n : Nat) (st : Stream) : Quiet s (s.switchBank n st) := by
  unfold State.switchBank
  dsimp only
  refine ite (modThread (modTile (refl s) ?_) ?_) (refl s)
  · exact fun _ => rfl
  · exact fun _ => rfl

theorem halt (s : State) (n : Nat) (st : Stream) (h : Halt) : Quiet s (s.halt n st h) := by
  have k : Keeps { mem := true, net := true } s (s.halt n st h) := State.halt_keeps _ _ _ _ (Keeps.refl s) rfl rfl rfl
  obtain ⟨record, e, -⟩ := s.tiles_halt n st h
  have halted : Quiet s (s.modThread n st fun th => th.halt h.reason) := (refl s).modThread fun th => by
    unfold Thread.halt
    split <;> rfl
  have recorded := (halted.trans (switchBank _ n st)).modTile (n := n) (f := fun t => { t with records := t.records.set st record })
    fun _ => rfl
  exact ⟨fun m => by rw [State.tile, e]; exact recorded.held m, k.same.mem rfl, [], by rw [k.same.net rfl, List.append_nil]⟩

theorem cmdHalt (s : State) (n : Nat) (e : Engine) (st : Stream) (x : Entry) (b : Bad) : Quiet s (s.cmdHalt n e st x b) :=
  halt s n st _

theorem cycle (s : State) (island : Nat) : Quiet s (s.cycle island).2 := ⟨fun _ => rfl, rfl, [], (List.append_nil _).symm⟩

theorem fresh (s : State) : Quiet s s.fresh.2 := ⟨fun _ => rfl, rfl, [], (List.append_nil _).symm⟩

theorem signalFrom (s : State) (n : Nat) (e : Engine) (st : Stream) (x : Entry) (loc g target amount : Nat) :
    Quiet s (s.signalFrom n e st x loc g target amount) :=
  ((cycle s n).trans (trace _ _ _ _ _ _ _ _ _ _)).trans (send _ _)

theorem completionSignal (s : State) (n : Nat) (e : Engine) (st : Stream) (x : Entry) : Quiet s (s.completionSignal n e st x) :=
  ite (signalFrom _ _ _ _ _ _ _ _ _) (refl s)

theorem flushClosing (s : State) (n : Nat) : Quiet s (s.flushClosing n) := by
  unfold State.flushClosing
  dsimp only
  refine trans (modTile (refl s) ?_) (foldl ?_ _ _)
  · exact fun _ => rfl
  · exact fun _ _ => signalFrom _ _ _ _ _ _ _ _ _

theorem owe (s : State) (n uid entry : Nat) (st : Stream) (remote mover : Bool) : Quiet s (s.owe n uid entry st remote mover) :=
  (refl s).modTile fun _ => rfl

theorem fabric (s : State) (f : Fabric) : Quiet s { s with fabric := f } := ⟨fun _ => rfl, rfl, [], (List.append_nil _).symm⟩

theorem dropRequest (s : State) (uid : Nat) : Quiet s (s.dropRequest uid) := fabric s _

theorem repaid (s : State) (n uid : Nat) : Quiet s (s.repaid n uid) := (refl s).modTile fun _ => rfl

theorem refuseRequest (s : State) (r : Request) (reason status dev : Nat) : Quiet s (s.refuseRequest r reason status dev) := by
  have torn : Quiet s (if status = 0 ∨ status = 7 ∨ status = 8 then s.teardown (mCtx r.msg) (mTdev r.msg) reason else s) :=
    ite (alarm _ _ _ _ _) (refl s)
  exact torn.trans (ite (refl _) (halt _ _ _ _))

theorem noRoute (s : State) (m : Msg) : Quiet s (s.noRoute m) := by
  unfold State.noRoute
  dsimp only
  refine (alarm s 0x0B 0x810 0 _).trans (ite (refl _) (ite ?_ ?_))
  · split
    · exact ((dropRequest _ _).trans (repaid _ _ _)).trans (refuseRequest _ _ _ _ _)
    · exact refl _
  · split
    · exact hopSend _ _ _
    · exact alarm _ _ _ _ _

theorem route (s : State) (m : Msg) (inDim : Option Nat) (inDl : Nat) : Quiet s (s.route m inDim inDl) := by
  unfold State.route
  split
  · exact hopSend _ _ _
  · exact noRoute _ _

theorem sendWaiting (s : State) : Quiet s s.sendWaiting :=
  foldl (fun _ _ => ite (refl _) ((fabric _ _).trans (route _ _ _ _))) _ _

theorem request (s : State) (n : Nat) (e : Engine) (st : Stream) (x : Entry) (uid : Nat) (a : Ask) :
    Quiet s (s.request n e st x uid a) := by
  unfold State.request
  exact ((fabric s _).trans (ite (owe _ _ _ _ _ _ _) (refl _))).trans (sendWaiting _)

theorem tsigSend (e : Engine) (s : State) (n : Nat) (st : Stream) (x : Entry) : Quiet s (tsigSend e s n st x) :=
  ite (ite (signalFrom _ _ _ _ _ _ _ _ _) (((fresh s).trans (trace _ _ _ _ _ _ _ _ _ _)).trans (request _ _ _ _ _ _ _)))
    (signalFrom _ _ _ _ _ _ _ _ _)

end Quiet
end Sys2Proof.Machine

namespace Sys2Proof.Machine

/-! ## Entries -/

/-- What a command finds in its context's name: only the teams may read otherwise. -/
theorem State.inName_parts (s : State) (n : Nat) (x : Entry) (f : State → State) :
    (s.inName n x f).tiles = (f (s.named n x)).tiles ∧ (s.inName n x f).mem = (f (s.named n x)).mem ∧
    (s.inName n x f).net = (f (s.named n x)).net := by
  unfold State.inName State.named
  split <;> exact ⟨rfl, rfl, rfl⟩

theorem Quiet.named (s : State) (n : Nat) (x : Entry) : Quiet s (s.named n x) := by
  unfold State.named
  exact .ite (.refl s) ⟨fun _ => rfl, rfl, [], (List.append_nil _).symm⟩

theorem State.entries_congr {s t : State} {n : Nat} {e : Engine} {st : Stream} (hq : (t.queue n e st).entries = (s.queue n e st).entries)
    (hr : (t.tile n).runs = (s.tile n).runs) : t.entries n e st = s.entries n e st := by
  unfold State.entries
  rw [hq, hr]

theorem Quiet.queue {s t : State} (h : Quiet s t) (n : Nat) (e : Engine) (st : Stream) :
    (t.queue n e st).entries = (s.queue n e st).entries :=
  congrFun (congrFun (congrArg Prod.fst (h.held n)) e) st

theorem Quiet.runs {s t : State} (h : Quiet s t) (n : Nat) : (t.tile n).runs = (s.tile n).runs :=
  congrArg (fun p => p.2.1) (h.held n)

theorem Quiet.sums {s t : State} (h : Quiet s t) (n : Nat) (st : Stream) : (t.thread n st).sums = (s.thread n st).sums :=
  congrFun (congrArg (fun p => p.2.2) (h.held n)) st

theorem Quiet.entries {s t : State} (h : Quiet s t) (n : Nat) (e : Engine) (st : Stream) : t.entries n e st = s.entries n e st :=
  State.entries_congr (h.queue n e st) (h.runs n)

/-- The head of a queue stands behind those issued ahead of it, and has not issued. -/
theorem queueHead_eq_some {e : Engine} {l : List Entry} {x : Entry} {ahead : List Entry} (h : queueHead e l = some (x, ahead)) :
    x.issued = false ∧ ∃ rest, l = ahead ++ x :: rest := by
  induction l generalizing ahead with
  | nil => cases h
  | cons y l ih =>
    unfold queueHead at h
    split at h
    · split at h
      · cases h
      · obtain ⟨p, hp, hx⟩ := Option.map_eq_some_iff.mp h
        cases hx
        obtain ⟨hi, rest, hl⟩ := ih hp
        exact ⟨hi, rest, by rw [hl, List.cons_append]⟩
    · next hy =>
      cases h
      exact ⟨by simpa using hy, l, rfl⟩

theorem State.head_eq_some {s : State} {n : Nat} {e : Engine} {st : Stream} {x : Entry} {ahead : List Entry}
    (h : s.head n e st = some (x, ahead)) : x.issued = false ∧ ∃ rest, s.entries n e st = ahead ++ x :: rest :=
  queueHead_eq_some (Option.filter_eq_some_iff.mp h).1

/-- What completes next has issued and waits for nothing, and stands at the front of the item queue or of its own queue. -/
theorem State.completing_eq_some {s : State} {n : Nat} {e : Engine} {st : Stream} {x : Entry} (h : s.completing n e st = some x) :
    s.finished n e st x = true ∧ ((s.entries n e st).head? = some x ∨ (s.queue n e st).entries.head? = some x) := by
  unfold State.completing at h
  obtain ⟨y, hy, hx⟩ := List.exists_of_findSome?_eq_some h
  split at hx
  · next z =>
    split at hx
    · next hf =>
      cases hx
      simp only [List.mem_cons, List.not_mem_nil, or_false] at hy
      exact ⟨hf, hy.imp Eq.symm Eq.symm⟩
    · cases hx
  · cases hx

theorem State.issued_of_finished {s : State} {n : Nat} {e : Engine} {st : Stream} {x : Entry} (h : s.finished n e st x = true) :
    x.issued = true := by
  simp only [State.finished, Bool.and_eq_true] at h
  obtain ⟨⟨⟨⟨⟨hi, -⟩, -⟩, -⟩, -⟩, -⟩ := h
  exact hi

/-! ## The mark of an issue -/

theorem State.runs_modQueue (s : State) (n : Nat) (e : Engine) (st : Stream) (f : Queue → Queue) :
    ((s.modQueue n e st f).tile n).runs = (s.tile n).runs := by
  rw [State.modQueue, State.tile_modTile]

theorem Quiet.modQueue (s : State) (n : Nat) (e : Engine) (st : Stream) {f : Queue → Queue} (h : ∀ q, (f q).entries = q.entries) :
    Quiet s (s.modQueue n e st f) :=
  (Quiet.refl s).modTile fun t => by
    refine Prod.ext (funext fun k => funext fun u => ?_) rfl
    by_cases hk : k = e
    · subst hk
      refine (congrArg (fun b : ByStream Queue => (b.get u).entries) (ByEngine.get_set_self _ _ _)).trans ?_
      by_cases hu : u = st
      · subst hu
        exact (congrArg Queue.entries (ByStream.get_set_self _ _ _)).trans (h _)
      · exact congrArg Queue.entries (ByStream.get_set_of_ne _ _ hu)
    · exact congrArg (fun b : ByStream Queue => (b.get u).entries) (ByEngine.get_set_of_ne _ _ hk)

theorem Quiet.countPassed (s : State) (n : Nat) (e : Engine) (st : Stream) (ready : List Stream) : Quiet s (s.countPassed n e st ready) := by
  refine .foldl (fun s u => .ite ?_ (.ite ?_ (.refl s))) _ _
  · exact .modQueue s n e u fun _ => rfl
  · exact .modQueue s n e u fun _ => rfl

theorem Quiet.markVary (s : State) (n : Nat) (e : Engine) (st : Stream) (x : Entry) : Quiet s (s.markVary n e st x) :=
  .of_keeps (State.markVary_keeps _ _ _ _ _ (Keeps.refl s) rfl rfl)

/-- Beside its mark, an issue without a part of its own leaves the commands, memory and what is in flight alone. -/
theorem Quiet.issued (s : State) (n : Nat) (e : Engine) (st : Stream) (x : Entry) (ready : List Stream) :
    Quiet (s.markIssued n e st x.uid) (s.issued n e st x ready) :=
  ((Quiet.progressed _ _ _).trans (.countPassed _ _ _ _ _)).trans ((Quiet.markVary _ _ _ _ _).trans (.trace _ _ _ _ _ _ _ _ _ _))

theorem State.entries_markIssued (s : State) (n : Nat) (e : Engine) (st : Stream) (uid : Nat) :
    (s.markIssued n e st uid).entries n e st = markIn uid (s.entries n e st) := by
  unfold State.markIssued
  dsimp only
  split
  · next r hr =>
    rw [State.runs_modQueue] at hr
    have runs : (((s.modQueue n .matrix st fun q => { q with entries := markIn uid q.entries }).modTile n fun t =>
        { t with runs := t.runs.set st (some { r with queue := markIn uid r.queue }) }).tile n).runs.get st =
        some { r with queue := markIn uid r.queue } := by
      rw [State.tile_modTile]
      exact ByStream.get_set_self _ _ _
    unfold State.entries
    rw [runs, hr, State.queue_modTile _ _ _ _ _ _ rfl, State.queue_modQueue]
    have empty : (markIn uid r.queue).isEmpty = r.queue.isEmpty := List.isEmpty_map
    dsimp only
    rw [empty]
    split <;> rfl
  · next hr =>
    rw [State.runs_modQueue] at hr
    unfold State.entries
    rw [State.runs_modQueue, State.queue_modQueue]
    split
    · next r h => exact absurd rfl (hr r · h)
    · rfl

/-! ## Completion -/

/-- A queue holds no entry of a name after that name is dropped. -/
theorem State.queue_dropEntry (s : State) (n : Nat) (e : Engine) (st : Stream) (uid : Nat) :
    ∀ y ∈ ((s.dropEntry n e st uid).queue n e st).entries, y.uid ≠ uid := by
  intro y hy
  have left : y ∈ (s.queue n e st).entries.filter fun y => y.uid != uid := by
    unfold State.dropEntry at hy
    dsimp only at hy
    split at hy
    · rwa [State.queue_modTile _ _ _ _ _ _ rfl, State.queue_modQueue] at hy
    · rwa [State.queue_modQueue] at hy
  simpa using (List.mem_filter.mp left).2

/-- Beside the bytes, a store changes the flags and tags of its lines and which blocks are uncorrectable. -/
theorem Quiet.stored (s : State) (a : Nat) (bytes : List Byte) : Quiet { s with
      mem := pokes a bytes s.mem
      bad := s.bad.filter fun b => !(decide (a ≤ 64 * b) && decide (64 * b + 64 ≤ a + bytes.length)) } (s.storeBytes a bytes) :=
  .foldl (f := fun s n => s.modTile n fun t => t.wrote n ⟨a, bytes.length⟩) (fun s _ => (Quiet.refl s).modTile fun _ => rfl) _ _

/-- A digest taken changes no memory but its record's 16 B. -/
theorem State.lockDigest_quiet (s : State) (n q digest : Nat) (record : Nat × Nat × Nat × Nat) (fence : Bool) :
    ∃ u, Quiet u (s.lockDigest n q digest record fence) ∧
      (Quiet s u ∨ ∃ bytes, bytes.length = 16 ∧ u = s.storeBytes (s.lockRecordAt n q) bytes) := by
  have compare (u : State) (w : LockWindow) : Quiet u (u.lockCompare n q w) := by
    unfold State.lockCompare
    split
    · exact .refl u
    · exact .ite ((Quiet.refl u).modTile fun _ => rfl) (.foldl (fun _ _ => .lockFrame _ _ _ _ _ _ _ _ _) _ _)
  unfold State.lockDigest
  dsimp only
  refine ⟨_, .ite ((((Quiet.refl _).modTile ?_).trans (.lockFrame _ _ _ _ _ _ _ _ _)).trans
    (.foldl (fun u w => .ite (compare u w) (.refl u)) _ _)) ((Quiet.refl _).modTile ?_), ?_⟩
  · exact fun _ => rfl
  · exact fun _ => rfl
  · split
    · exact .inl (.halt _ _ _ _)
    · exact .inr ⟨_, by simp, rfl⟩

theorem State.lockCommand_quiet (s : State) (n : Nat) (e : Engine) (st : Stream) (x : Entry) (isItem : Bool) :
    ∃ u, Quiet u (s.lockCommand n e st x isItem) ∧ (Quiet s u ∨ s.locked n = true ∧ ∃ bytes, bytes.length = 16 ∧
      u = s.storeBytes (s.lockRecordAt n (3 * engineNo e + streamNo st)) bytes) := by
  unfold State.lockCommand
  split
  · next h =>
    obtain ⟨u, hu, hs⟩ := s.lockDigest_quiet n _ _ _ _
    exact ⟨u, hu, hs.imp id fun w => ⟨(Bool.and_eq_true_iff.mp h).1, w⟩⟩
  · exact ⟨s, .refl s, .inl (.refl s)⟩

theorem State.held_storeBytes (s : State) (a : Nat) (bytes : List Byte) (m : Nat) :
    ((s.storeBytes a bytes).tile m).held = (s.tile m).held := (Quiet.stored s a bytes).held m

theorem State.held_lockCommand (s : State) (n : Nat) (e : Engine) (st : Stream) (x : Entry) (isItem : Bool) (m : Nat) :
    ((s.lockCommand n e st x isItem).tile m).held = (s.tile m).held := by
  obtain ⟨u, hu, h | ⟨-, bytes, -, rfl⟩⟩ := s.lockCommand_quiet n e st x isItem
  · exact (h.trans hu).held m
  · rw [hu.held, State.held_storeBytes]

theorem State.net_lockCommand (s : State) (n : Nat) (e : Engine) (st : Stream) (x : Entry) (isItem : Bool) :
    (s.lockCommand n e st x isItem).net = s.net :=
  (State.lockCommand_keeps (pt := { net := true }) _ _ _ _ _ _ (Keeps.refl s) rfl rfl rfl rfl rfl).same.net rfl

/-- A completing command's effects in force and its record made. -/
def State.recorded (s : State) (n : Nat) (e : Engine) (st : Stream) (x : Entry) : State :=
  (x.effects.foldl (fun s f => s.applyEffect n st x f) s).lockCommand n e st x
    !((s.queue n e st).entries.any fun y => y.uid = x.uid)

/-- The completion signal of an entry of tile n. -/
def SignalOf (n : Nat) (x : Entry) (p : Packet) : Prop :=
  p.src = .tile n ∧ p.dst = (if wSigGlobal x.word then .die (wSigTally x.word % 8) else .tile n) ∧
    ∃ cyc, p.body = .signal (wSigTally x.word) (wSigAdd x.word) 0 cyc

theorem State.signalFrom_sends (s : State) (n : Nat) (e : Engine) (st : Stream) (x : Entry) (loc g target amount : Nat) :
    ∃ p cyc, (s.signalFrom n e st x loc g target amount).net = s.net ++ [p] ∧ p.src = .tile n ∧
      p.dst = (if loc = 0 then .tile n else if loc = 1 then .tile target else .die (g % 8)) ∧
      p.body = if loc = 1 then .remoteSignal g amount cyc else .signal g amount 0 cyc :=
  have net : ((s.cycle n).2.trace 0x33 2 n e st x g loc amount).net = s.net :=
    (State.trace_keeps (pt := { net := true }) _ _ _ _ _ _ _ _ _ _ (Keeps.refl _) rfl).same.net rfl
  ⟨_, _, congrArg (· ++ [_]) net, rfl, rfl, rfl⟩

theorem State.completionSignal_sends (s : State) (n : Nat) (e : Engine) (st : Stream) (x : Entry) (h : wSigEn x.word = true) :
    ∃ p, (s.completionSignal n e st x).net = s.net ++ [p] ∧ SignalOf n x p := by
  rw [State.completionSignal, if_pos h]
  obtain ⟨p, cyc, net, src, dst, body⟩ := s.signalFrom_sends n e st x (if wSigGlobal x.word then 2 else 0) (wSigTally x.word) 0
    (wSigAdd x.word)
  refine ⟨p, net, src, dst.trans ?_, cyc, body.trans ?_⟩
  · cases wSigGlobal x.word <;> rfl
  · cases wSigGlobal x.word <;> rfl

/-- A completing command's entry has left its queue, and the trace of it is sent. -/
def State.leftQueue (s : State) (n : Nat) (e : Engine) (st : Stream) (x : Entry) : State :=
  (((s.recorded n e st x).dropEntry n e st x.uid).progressed n (watchedQueue e st)).trace 0x32 1 n e st x 0 0 0

theorem Quiet.leftQueue (s : State) (n : Nat) (e : Engine) (st : Stream) (x : Entry) :
    Quiet ((s.recorded n e st x).dropEntry n e st x.uid) (s.leftQueue n e st x) :=
  (Quiet.progressed _ _ _).trans (.trace _ _ _ _ _ _ _ _ _ _)

theorem Quiet.complete_of_signal (s : State) (n : Nat) (e : Engine) (st : Stream) {x : Entry} (hf : x.failing = none) :
    Quiet ((s.leftQueue n e st x).completionSignal n e st x) (s.complete n e st x) := by
  unfold State.complete
  rw [hf]
  cases x.teamCmd
  · exact .flushClosing _ _
  · exact (Quiet.flushClosing _ _).trans (.send _ _)

theorem Quiet.complete_of_halt (s : State) (n : Nat) (e : Engine) (st : Stream) {x : Entry} {r a d : Nat}
    (hf : x.failing = some (r, a, d)) : Quiet ((s.leftQueue n e st x).cmdHalt n e st x ⟨r, d, a⟩) (s.complete n e st x) := by
  unfold State.complete
  rw [hf]
  cases x.teamCmd
  · exact .flushClosing _ _
  · exact (Quiet.flushClosing _ _).trans (.send _ _)

/-- Beside what an entry does as it leaves its queue, a completion only sends and halts. -/
theorem Quiet.complete (s : State) (n : Nat) (e : Engine) (st : Stream) (x : Entry) :
    Quiet ((s.recorded n e st x).dropEntry n e st x.uid) (s.complete n e st x) := by
  refine (Quiet.leftQueue s n e st x).trans ?_
  rcases hf : x.failing with _ | ⟨r, a, d⟩
  · exact (Quiet.completionSignal _ _ _ _ _).trans (.complete_of_signal s n e st hf)
  · exact (Quiet.cmdHalt _ _ _ _ _ _).trans (.complete_of_halt s n e st hf)

theorem State.net_leftQueue (s : State) (n : Nat) (e : Engine) (st : Stream) (x : Entry) :
    (s.leftQueue n e st x).net = (s.recorded n e st x).net := by
  have k := State.dropEntry_keeps (pt := { net := true }) (s.recorded n e st x) n e st x.uid (Keeps.refl _) rfl
  exact (State.trace_keeps _ _ _ _ _ _ _ _ _ _ (State.progressed_keeps _ _ _ k rfl) rfl).same.net rfl

theorem State.complete_signals (s : State) (n : Nat) (e : Engine) (st : Stream) {x : Entry} (hf : x.failing = none)
    (h : wSigEn x.word = true) :
    ∃ l p, (s.complete n e st x).net = (s.recorded n e st x).net ++ l ∧ p ∈ l ∧ SignalOf n x p := by
  obtain ⟨p, hp, sig⟩ := (s.leftQueue n e st x).completionSignal_sends n e st x h
  obtain ⟨l, hl⟩ := (Quiet.complete_of_signal s n e st hf).net
  exact ⟨p :: l, p, by rw [hl, hp, State.net_leftQueue, List.append_assoc, List.singleton_append], List.mem_cons_self, sig⟩

/-! ## The end of a command -/

/-- The queues hold the entries, and the threads are owed the summaries, that they were; memory is as it was, and what was in flight
still is. -/
structure Calm (s t : State) : Prop where
  queue : ∀ m e st, (t.queue m e st).entries = (s.queue m e st).entries
  sums : ∀ m st, (t.thread m st).sums = (s.thread m st).sums
  mem : t.mem = s.mem
  net : ∃ l, t.net = s.net ++ l

theorem Quiet.calm {s t : State} (h : Quiet s t) : Calm s t := ⟨h.queue, h.sums, h.mem, h.net⟩

theorem Calm.trans {s t u : State} (h : Calm s t) (g : Calm t u) : Calm s u where
  queue m e st := (g.queue m e st).trans (h.queue m e st)
  sums m st := (g.sums m st).trans (h.sums m st)
  mem := g.mem.trans h.mem
  net := by
    obtain ⟨l, hl⟩ := h.net
    obtain ⟨k, hk⟩ := g.net
    exact ⟨l ++ k, by rw [hk, hl, List.append_assoc]⟩

theorem Calm.setRun (s : State) (n : Nat) (st : Stream) (r : ListRun) : Calm s (s.setRun n st r) where
  queue _ _ _ := congrArg Queue.entries (State.queue_modTile _ _ _ _ _ _ rfl)
  sums m u := by
    by_cases h : m = n
    · subst h
      exact congrArg Thread.sums (State.thread_modTile_own s m u rfl)
    · exact congrArg Thread.sums (State.thread_modTile_of_ne s _ u h)
  mem := rfl
  net := ⟨[], (List.append_nil _).symm⟩

theorem Calm.expandItem (s : State) (n : Nat) (st : Stream) : Calm s (s.expandItem n st) := by
  unfold State.expandItem
  split
  · exact (Quiet.refl s).calm
  · split
    · exact (Quiet.refl s).calm
    · split
      · exact (Quiet.refl s).calm
      · exact (Quiet.of_keeps (State.itemEntries_keeps _ _ _ _ _ _ (Keeps.refl s))).calm.trans (.setRun _ _ _ _)

theorem Calm.askItem (s : State) (n : Nat) (st : Stream) : Calm s (s.askItem n st) := by
  unfold State.askItem
  split
  · exact (Quiet.refl s).calm
  · dsimp only
    split
    · exact (Quiet.refl s).calm
    · split
      · exact (Quiet.refl s).calm
      · exact (Calm.setRun s n st _).trans (Quiet.send _ _).calm

/-- The command's own last part done, a skip entry's included. -/
def State.ownDone (s : State) (n : Nat) (e : Engine) (st : Stream) (x : Entry) : State :=
  match ownCmd e x with
  | some c => c.finish s n st x
  | none => s.skipDone n e st x

/-- The entry of x's name as its own last part left it. -/
def State.entryLeft (s : State) (n : Nat) (e : Engine) (st : Stream) (x : Entry) : Entry :=
  ((s.entries n e st ++ (s.queue n e st).entries).find? fun y => y.uid = x.uid).getD x

theorem State.uid_entryLeft (s : State) (n : Nat) (e : Engine) (st : Stream) (x : Entry) : (s.entryLeft n e st x).uid = x.uid := by
  unfold State.entryLeft
  cases h : (s.entries n e st ++ (s.queue n e st).entries).find? fun y => y.uid = x.uid with
  | none => rfl
  | some y => simpa using List.find?_some h

theorem State.entryLeft_of_head {s : State} {n : Nat} {e : Engine} {st : Stream} {x : Entry} (h : (s.entries n e st).head? = some x) :
    s.entryLeft n e st x = x := by
  obtain ⟨rest, hr⟩ := List.head?_eq_some_iff.mp h
  rw [State.entryLeft, hr, List.cons_append, List.find?_cons_of_pos (by simp), Option.getD_some]

/-- A command ends by its completion; an array of work goes on (03 R124). -/
theorem Calm.finishCommand (s : State) (n : Nat) (e : Engine) (st : Stream) (x : Entry) :
    let u := s.ownDone n e st x
    Calm (u.complete n e st (u.entryLeft n e st x)) (s.finishCommand n e st x) := by
  intro u
  unfold State.finishCommand
  dsimp only
  split
  · exact (Calm.expandItem _ _ _).trans (.askItem _ _ _)
  · exact (Quiet.refl _).calm

/-- The entry of a command that ends has left its queue. -/
theorem State.queue_finishCommand (s : State) (n : Nat) (e : Engine) (st : Stream) (x : Entry) :
    ∀ y ∈ ((s.finishCommand n e st x).queue n e st).entries, y.uid ≠ x.uid := by
  let u := s.ownDone n e st x
  rw [(Calm.finishCommand s n e st x).queue, (Quiet.complete u n e st _).queue, ← u.uid_entryLeft n e st x]
  exact State.queue_dropEntry _ _ _ _ _

end Sys2Proof.Machine

namespace Sys2Proof.Machine

/-! ## Skip entries and NOPs (02 R59, R69) -/

section
variable {s : State} {n : Nat} {e : Engine} {st : Stream} {x : Entry} {ahead : List Entry} {mine : Entry → Bool}
  {bad : State → Nat → Entry → Option Bad}

theorem plainRow_of_completing (hn : n < 2048) (hc : s.completing n e st = some x) (hm : mine x = true) (ha : s.alive n = true)
    (hr : s.notResetting (s.owner n) = true) :
    plainRow e mine bad n st s = .next (s.inName n x fun u => u.finishCommand n e st x) := by
  simp [plainRow, hn, hc, hm, ha, hr]

theorem plainRow_of_head (hn : n < 2048) (hc : s.completing n e st = none) (hh : s.head n e st = some (x, ahead))
    (hm : mine x = true) (hr : s.streamRuns n st = true) :
    plainRow e mine bad n st s = .next (s.inName n x fun u => u.throughHead n e st x ahead (bad u n x)) := by
  simp [plainRow, hn, hc, hh, hm, hr]

theorem State.throughHead_front (hc : s.chosen n e = some st) :
    s.throughHead n e st x [] none = (s.issued n e st x (s.readyStreams n e)).finishCommand n e st { x with issued := true } := by
  simp [State.throughHead, hc]

theorem State.throughHead_behind (hc : s.chosen n e = some st) (ha : ahead ≠ []) :
    s.throughHead n e st x ahead none = s.issued n e st x (s.readyStreams n e) := by
  simp [State.throughHead, hc, ha]

/-- An issue of an entry without a part of its own marks it where it stands. -/
theorem State.entries_issued {rest : List Entry} (ready : List Stream) (h : s.entries n e st = ahead ++ x :: rest) :
    (s.issued n e st x ready).entries n e st = markIn x.uid ahead ++ { x with issued := true } :: markIn x.uid rest := by
  rw [(Quiet.issued s n e st x ready).entries, State.entries_markIssued, h]
  simp [markIn]

theorem State.net_issued (s : State) (n : Nat) (e : Engine) (st : Stream) (x : Entry) (ready : List Stream) :
    (s.issued n e st x ready).net = s.net :=
  (State.issued_keeps (pt := { net := true }) _ _ _ _ _ _ (Keeps.refl s) rfl rfl rfl).same.net rfl

theorem State.recorded_of_no_effects (hx : x.effects = []) :
    (∀ m, ((s.recorded n e st x).tile m).held = (s.tile m).held) ∧ (s.recorded n e st x).net = s.net := by
  rw [State.recorded, hx]
  exact ⟨State.held_lockCommand _ _ _ _ _ _, State.net_lockCommand _ _ _ _ _ _⟩

/-- A NOP at the front of its queue sends its signal. -/
theorem State.finishCommand_signals (hh : (s.entries n e st).head? = some x) (hd : s.ownDone n e st x = s) (hx : x.effects = [])
    (hf : x.failing = none) (hs : wSigEn x.word = true) :
    ∃ l p, (s.finishCommand n e st x).net = s.net ++ l ∧ p ∈ l ∧ SignalOf n x p := by
  have ends := Calm.finishCommand s n e st x
  dsimp only at ends
  rw [hd, State.entryLeft_of_head hh] at ends
  obtain ⟨l, p, hl, hp, sig⟩ := s.complete_signals n e st hf hs
  obtain ⟨k, hk⟩ := ends.net
  exact ⟨l ++ k, p, by rw [hk, hl, (State.recorded_of_no_effects hx).2, List.append_assoc], List.mem_append_left k hp, sig⟩

theorem State.ownDone_nop (h0 : x.skip = false) (ho : x.op = 0xFF) : s.ownDone n e st x = s := by
  simp [State.ownDone, ownCmd, ho, opNop, State.skipDone, h0]

theorem State.ownDone_skip (h : x.skip = true) :
    s.ownDone n e st x = (if x.op = 0xF2 then tsigSend e s n st x else s).zeroSums n st x.uid := by
  simp [State.ownDone, ownCmd, State.skipDone, h]

theorem State.entries_zeroSums (s : State) (n : Nat) (e : Engine) (st : Stream) (entry : Nat) :
    (s.zeroSums n st entry).entries n e st = s.entries n e st :=
  State.entries_congr (congrArg Queue.entries (State.queue_modTile _ _ _ _ _ _ rfl)) (by
    unfold State.zeroSums State.modThread
    rw [State.tile_modTile])

theorem State.entries_ownDone_skip (h : x.skip = true) : (s.ownDone n e st x).entries n e st = s.entries n e st := by
  rw [State.ownDone_skip h, State.entries_zeroSums]
  split
  · exact (Quiet.tsigSend e s n st x).entries n e st
  · rfl

/-- Every summary that an entry owes is 0 once zeroed. -/
theorem State.sums_zeroSums (s : State) (n : Nat) (st : Stream) (entry : Nat) :
    ∀ y ∈ ((s.zeroSums n st entry).thread n st).sums, y.entry = entry → y.value = some 0#32 := by
  intro y hy he
  rw [State.zeroSums, State.thread_modThread] at hy
  obtain ⟨z, -, rfl⟩ := List.mem_map.mp hy
  split
  · rfl
  · next hz =>
    rw [if_neg hz] at he
    exact absurd he hz

theorem State.sums_dropEntry (s : State) (n : Nat) (e : Engine) (st : Stream) (uid m : Nat) (u : Stream) :
    ((s.dropEntry n e st uid).thread m u).sums = (s.thread m u).sums := by
  have kept (s : State) (f : Tile → Tile) (hf : ∀ t, (f t).threads = t.threads) : (s.modTile n f).thread m u = s.thread m u := by
    by_cases h : m = n
    · subst h
      exact s.thread_modTile_own m u (hf _)
    · exact s.thread_modTile_of_ne f u h
  unfold State.dropEntry
  dsimp only
  split
  · refine congrArg Thread.sums ((kept _ _ ?_).trans (kept _ _ ?_))
    · exact fun _ => rfl
    · exact fun _ => rfl
  · refine congrArg Thread.sums (kept _ _ ?_)
    exact fun _ => rfl

/-- A skip entry that ends leaves 0 for every summary it owed. -/
theorem State.sums_finishCommand_skip (h : x.skip = true) (hh : (s.entries n e st).head? = some x) (hx : x.effects = []) :
    ∀ y ∈ ((s.finishCommand n e st x).thread n st).sums, y.entry = x.uid → y.value = some 0#32 := by
  have ends := Calm.finishCommand s n e st x
  dsimp only at ends
  rw [State.entryLeft_of_head (by rw [State.entries_ownDone_skip h, hh])] at ends
  have held := (State.recorded_of_no_effects (s := s.ownDone n e st x) (n := n) (e := e) (st := st) hx).1 n
  have sums : (((s.ownDone n e st x).recorded n e st x).thread n st).sums = ((s.ownDone n e st x).thread n st).sums :=
    congrFun (congrArg (fun p => p.2.2) held) st
  rw [ends.sums, (Quiet.complete _ n e st x).sums, State.sums_dropEntry, sums, State.ownDone_skip h]
  exact State.sums_zeroSums _ _ _ _

end

theorem State.net_named (s : State) (n : Nat) (x : Entry) : (s.named n x).net = s.net := by
  unfold State.named
  split <;> rfl

theorem State.tiles_named (s : State) (n : Nat) (x : Entry) : (s.named n x).tiles = s.tiles := by
  unfold State.named
  split <;> rfl

theorem State.mem_named (s : State) (n : Nat) (x : Entry) : (s.named n x).mem = s.mem := by
  unfold State.named
  split <;> rfl

theorem State.queue_congr {s t : State} (h : t.tiles = s.tiles) (n : Nat) (e : Engine) (st : Stream) :
    t.queue n e st = s.queue n e st := by
  rw [State.queue, State.queue, State.tile, State.tile, h]

theorem State.thread_congr {s t : State} (h : t.tiles = s.tiles) (n : Nat) (st : Stream) : t.thread n st = s.thread n st := by
  rw [State.thread, State.thread, State.tile, State.tile, h]

theorem engineNo_lt (e : Engine) : engineNo e < 8 := by
  cases e <;> decide

/-- Settles O31: by the front of the queue, the places behind it, and the payload. -/
theorem nopSignalsItsPointInTheQueue : Obligations.NopSignalsItsPointInTheQueue := by
  intro s n e st x hn h0 ho completes
  have ends (f : State → State) (hf : ((f (s.named n x)).entries n e st).head? = some { x with issued := true })
      (hnet : (f (s.named n x)).net = s.net) (hx : x.effects = []) (hg : x.failing = none)
      (hrun : exec (.nop n e st) s = .next (s.inName n x fun u => (f u).finishCommand n e st { x with issued := true })) :
      completes := by
    obtain ⟨tiles, -, net⟩ := s.inName_parts n x fun u => (f u).finishCommand n e st { x with issued := true }
    refine ⟨_, hrun, ?_, fun hs => ?_⟩
    · rw [State.queue_congr tiles]
      exact State.queue_finishCommand _ n e st { x with issued := true }
    · obtain ⟨l, p, hl, hp, sig⟩ := State.finishCommand_signals hf (State.ownDone_nop h0 ho) hx hg hs
      exact ⟨l, p, by rw [net, hl, hnet], hp, sig⟩
  let mine (x : Entry) : Bool := !x.skip && x.op = opNop
  have own : mine x = true := by simp [mine, h0, ho, opNop]
  refine ⟨fun ahead hc hr hh => ?_, fun hc hh ha hr hx hg => ?_⟩
  · have run := plainRow_of_head (mine := mine) (bad := nopBad) hn hc hh own hr
    obtain ⟨-, rest, hl⟩ := s.head_eq_some hh
    rw [← (Quiet.named s n x).entries] at hl
    have marked := State.entries_issued ((s.named n x).readyStreams n e) hl
    have net := (State.net_issued (s.named n x) n e st x ((s.named n x).readyStreams n e)).trans (s.net_named n x)
    refine ⟨fun hp hsig hvary hch hx hg => ?_, fun hp hv => ?_⟩
    · have good : nopBad (s.named n x) n x = none := by simp [nopBad, hp, hsig, hvary, firstBad, orBad]
      refine ⟨fun ha => ?_, fun ha => ?_⟩
      · subst ha
        refine ends (fun u => u.issued n e st x (u.readyStreams n e)) (by rw [marked]; rfl) net hx hg
          (run.trans (congrArg _ (State.inName_congr ?_)))
        rw [good, State.throughHead_front hch]
      · have issue := State.inName_congr (f := fun u => u.throughHead n e st x ahead (nopBad u n x))
          (g := fun u => u.issued n e st x (u.readyStreams n e)) (by rw [good, State.throughHead_behind hch ha])
        obtain ⟨tiles, -, nets⟩ := s.inName_parts n x fun u => u.issued n e st x (u.readyStreams n e)
        refine ⟨_, run.trans (congrArg _ issue), nets.trans net, { x with issued := true }, ?_, rfl, rfl⟩
        rw [State.entries_congr (congrArg Queue.entries (State.queue_congr tiles n e st)) (by rw [State.tile, tiles]; rfl), marked]
        simp
    · have refused : nopBad (s.named n x) n x = some ⟨0x11, detailPayload opNop (lowestBit (wPayload x.word)), 0⟩ := by
        simp [nopBad, hp, firstBad, orBad]
      obtain ⟨tiles, -, -⟩ := s.inName_parts n x fun u => u.throughHead n e st x ahead (nopBad u n x)
      have tile (m : Nat) : (s.named n x).tile m = s.tile m := by rw [State.tile, s.tiles_named]; rfl
      have halted : Halted (s.named n x) ((s.named n x).throughHead n e st x ahead (nopBad (s.named n x) n x)) n st 0x11
          (engineNo e) := by
        rw [refused]
        exact halted_halt _ n st _ hn (show 0x11 < 256 by decide) (engineNo_lt e) (by rw [tile]; exact hv)
      refine ⟨_, run, (congrArg Thread.run (State.thread_congr tiles n st)).trans halted.run, ?_⟩
      rw [State.tile, tiles]
      exact halted.reason
  · have hi := State.issued_of_finished (s.completing_eq_some hc).1
    have self : { x with issued := true } = x := by rw [← hi]
    refine ends id ?_ (s.net_named n x) hx hg ?_
    · rw [self, id, (Quiet.named s n x).entries, hh]
    · rw [self]
      exact plainRow_of_completing (mine := mine) hn hc own ha hr

/-- Settles O30: by the front of the queue, and the places behind it. -/
theorem skipEntriesPassThrough : Obligations.SkipEntriesPassThrough := by
  intro s n e st hn passes
  have ends (f : State → State) (x : Entry) (hs : x.skip = true)
      (hf : ((f (s.named n x)).entries n e st).head? = some { x with issued := true })
      (hrun : exec (.skipEntry n e st) s = .next (s.inName n x fun u => (f u).finishCommand n e st { x with issued := true })) :
      passes f x := by
    obtain ⟨tiles, -, -⟩ := s.inName_parts n x fun u => (f u).finishCommand n e st { x with issued := true }
    refine ⟨_, hrun, rfl, ?_, fun hx _ => ?_⟩
    · rw [State.queue_congr tiles]
      exact State.queue_finishCommand _ n e st { x with issued := true }
    · rw [State.thread_congr tiles]
      exact State.sums_finishCommand_skip hs hf hx
  refine ⟨fun x ahead hc hh hr hs hb hch => ?_, fun x hc hs ha hr hh => ?_⟩
  · have run := plainRow_of_head (mine := fun x => x.skip) (bad := skipBad) hn hc hh hs hr
    obtain ⟨-, rest, hl⟩ := s.head_eq_some hh
    rw [← (Quiet.named s n x).entries] at hl
    refine ⟨fun hf => ?_, fun hf => run.trans (congrArg _ (State.inName_congr ?_))⟩
    · subst hf
      refine ends _ x hs ?_ (run.trans (congrArg _ (State.inName_congr ?_)))
      · rw [State.entries_issued _ hl]
        rfl
      · rw [hb, State.throughHead_front hch]
    · rw [hb, State.throughHead_behind hch hf]
  · have hi := State.issued_of_finished (s.completing_eq_some hc).1
    have self : { x with issued := true } = x := by rw [← hi]
    refine ends id x hs ?_ ?_
    · rw [self, id, (Quiet.named s n x).entries, hh]
    · rw [self]
      exact plainRow_of_completing (mine := fun x => x.skip) hn hc hs ha hr

end Sys2Proof.Machine

namespace Sys2Proof.Machine

/-! ## Where a lock-step record lies (12 R387) -/

/-- What places the records of the tiles' lock-step sequences. -/
structure SameSequences (s t : State) : Prop where
  teams : t.teams = s.teams
  ctx : ∀ c, (t.ctx c).lockstep = (s.ctx c).lockstep ∧ (t.ctx c).born = (s.ctx c).born
  seqs : ∀ m, (t.tile m).lockSeqs = (s.tile m).lockSeqs

namespace SameSequences

theorem refl (s : State) : SameSequences s s := ⟨rfl, fun _ => ⟨rfl, rfl⟩, fun _ => rfl⟩

theorem trans {s t u : State} (h : SameSequences s t) (g : SameSequences t u) : SameSequences s u where
  teams := g.teams.trans h.teams
  ctx c := ⟨(g.ctx c).1.trans (h.ctx c).1, (g.ctx c).2.trans (h.ctx c).2⟩
  seqs m := (g.seqs m).trans (h.seqs m)

theorem of_keeps {s t : State} (k : Keeps { tiles := true, ctxs := true, teams := true } s t) : SameSequences s t where
  teams := k.same.teams rfl
  ctx c := by rw [State.ctx, k.same.ctxs rfl]; exact ⟨rfl, rfl⟩
  seqs m := by rw [State.tile, k.same.tiles rfl]; rfl

theorem foldl {α : Type} {f : State → α → State} (h : ∀ s a, SameSequences s (f s a)) (l : List α) (s : State) :
    SameSequences s (l.foldl f s) := by
  induction l generalizing s with
  | nil => exact refl s
  | cons a l ih => exact (h s a).trans (ih _)

theorem ite {c : Prop} [Decidable c] {s t u : State} (h : SameSequences s t) (g : SameSequences s u) :
    SameSequences s (if c then t else u) := by
  split
  · exact h
  · exact g

theorem modTile {s u : State} (g : SameSequences s u) {n : Nat} {f : Tile → Tile} (h : ∀ t, (f t).lockSeqs = t.lockSeqs) :
    SameSequences s (u.modTile n f) :=
  g.trans ⟨rfl, fun _ => ⟨rfl, rfl⟩, fun m => by
    rcases eq_or_ne m n with rfl | hm
    · rw [State.tile_modTile, h]
    · rw [State.tile_modTile_of_ne _ _ hm]⟩

theorem modCtx {s u : State} (g : SameSequences s u) {c : Nat} {f : Ctx → Ctx}
    (h : ∀ x, (f x).lockstep = x.lockstep ∧ (f x).born = x.born) : SameSequences s (u.modCtx c f) :=
  g.trans ⟨rfl, fun d => by
    rcases eq_or_ne d c with rfl | hd
    · rw [State.ctx_modCtx]; exact h _
    · rw [State.ctx_modCtx_of_ne _ _ hd]; exact ⟨rfl, rfl⟩, fun _ => rfl⟩

theorem alarm (s : State) (kind source ctx : Nat) (body : List Byte) : SameSequences s (s.alarm kind source ctx body) :=
  of_keeps (State.alarm_keeps _ _ _ _ _ (Keeps.refl s) rfl)

theorem switchBank (s : State) (n : Nat) (st : Stream) : SameSequences s (s.switchBank n st) := by
  unfold State.switchBank
  dsimp only
  refine ite (modTile (modTile (refl s) ?_) ?_) (refl s)
  · exact fun _ => rfl
  · exact fun _ => rfl

theorem halt (s : State) (n : Nat) (st : Stream) (h : Halt) : SameSequences s (s.halt n st h) := by
  have k : Keeps { ctxs := true, teams := true } s (s.halt n st h) := State.halt_keeps _ _ _ _ (Keeps.refl s) rfl rfl rfl
  obtain ⟨record, e, -⟩ := s.tiles_halt n st h
  have halted : SameSequences s (s.modThread n st fun th => th.halt h.reason) := (refl s).modTile fun _ => rfl
  have recorded := (halted.trans (switchBank _ n st)).modTile (n := n) (f := fun t => { t with records := t.records.set st record })
    fun _ => rfl
  exact ⟨k.same.teams rfl, fun c => by rw [State.ctx, k.same.ctxs rfl]; exact ⟨rfl, rfl⟩,
    fun m => by rw [State.tile, e]; exact recorded.seqs m⟩

theorem haltAll (s : State) (c : Nat) (h : Halt) : SameSequences s (s.haltAll c h) :=
  foldl (fun _ _ => foldl (fun _ _ => ite (refl _) (halt _ _ _ _)) _ _) _ _

theorem stopContext (s : State) (c reason seq : Nat) : SameSequences s (s.stopContext c reason seq) := by
  unfold State.stopContext
  refine modCtx ((alarm _ _ _ _ _).trans (ite ?_ (refl _))) ?_
  · exact ⟨rfl, fun _ => ⟨rfl, rfl⟩, fun _ => rfl⟩
  · exact fun _ => ⟨rfl, rfl⟩

theorem ueAt (s : State) (f : Finder) (a place unit source : Nat) (owner : Option Nat) (wherecode : Nat) :
    SameSequences s (s.ueAt f a place unit source owner wherecode) := by
  have event (u : State) (t : Trouble) : SameSequences u { u with trouble := t } := ⟨rfl, fun _ => ⟨rfl, rfl⟩, fun _ => rfl⟩
  unfold State.ueAt
  dsimp only
  generalize hu : State.alarm _ _ _ _ _ = u
  have told : SameSequences s u := by
    rw [← hu]
    exact (event _ _).trans (alarm _ _ _ _ _)
  have stopped (v : State) (c reason seq : Nat) (h : Halt) : SameSequences v ((v.haltAll c h).stopContext c reason seq) :=
    (haltAll _ _ _).trans (stopContext _ _ _ _)
  split
  · exact told
  · refine ite told (told.trans ?_)
    split
    · refine trans ?_ (stopped _ _ _ _ _)
      split
      · exact ite (halt _ _ _ _) (refl _)
      · exact refl _
    · split
      · exact ite (halt _ _ _ _) (refl _)
      · exact refl _

theorem ueError (s : State) (f : Finder) (a : Nat) (owner : Option Nat) (wherecode : Nat) :
    SameSequences s (s.ueError f a owner wherecode) := by
  unfold State.ueError
  split
  · exact ueAt _ _ _ _ _ _ _ _
  · exact ueAt _ _ _ _ _ _ _ _

theorem write (s : State) (w : Writer) (a : Nat) (bytes : List Byte) : SameSequences s (s.write w a bytes) := by
  refine trans (t := { s.preserve w a bytes with
    mem := pokes a bytes s.mem
    bad := s.bad.filter fun b => !(decide (a ≤ 64 * b) && decide (64 * b + 64 ≤ a + bytes.length)) }) ?_ ?_
  · exact ⟨rfl, fun _ => ⟨rfl, rfl⟩, fun _ => rfl⟩
  · exact foldl (f := fun s n => s.modTile n fun t => t.wrote n ⟨a, bytes.length⟩) (fun s _ => (refl s).modTile fun _ => rfl) _ _

theorem writeHome (s : State) (w : Writer) (a : Nat) (bs : List Byte) : SameSequences s (s.writeHome w a bs) :=
  foldl (fun _ _ => ite (refl _) (write _ _ _ _)) _ _

theorem writeChecked (s : State) (f : Finder) (w : Writer) (a : Nat) (bs : List Byte) :
    SameSequences s (s.writeChecked f w a bs) := by
  unfold State.writeChecked
  dsimp only
  split
  · exact (writeHome _ _ _ _).trans (ueError _ _ _ _ _)
  · exact writeHome _ _ _ _

theorem keepPredicted (s : State) (n : Nat) : SameSequences s (s.keepPredicted n) := by
  have set (s : State) (e : Engine) (st : Stream) (x : Entry) : SameSequences s (s.setEntry n e st x) := by
    unfold State.setEntry
    dsimp only
    split
    · refine modTile (modTile (refl s) ?_) ?_
      · exact fun _ => rfl
      · exact fun _ => rfl
    · exact (refl s).modTile fun _ => rfl
  refine foldl (fun s st => ?_) _ _
  split
  · exact ite (set _ _ _ _) (refl _)
  · exact refl _

end SameSequences

theorem Tile.lockSeqs_coreWrite (t : Tile) (m off : Nat) (bs : List Byte) : (t.coreWrite m off bs).lockSeqs = t.lockSeqs := by
  have put (t : Tile) (off : Nat) (bs : List Byte) : (t.corePut m off bs).lockSeqs = t.lockSeqs := by
    rcases m with _ | _ | m <;> rfl
  unfold Tile.coreWrite
  generalize writeParts off bs = l
  induction l generalizing t with
  | nil => rfl
  | cons p l ih =>
    rw [List.foldl_cons, ih]
    split
    · rfl
    · exact put _ _ _

/-- Effects other than stores and magnitudes change no memory. -/
theorem State.applyEffect_of_no_write (s : State) (n : Nat) (st : Stream) (x : Entry) {f : Effect} (hs : ∀ a bytes, f ≠ .store a bytes)
    (ha : ∀ a v, f ≠ .amax a v) : SameSequences s (s.applyEffect n st x f) ∧ (s.applyEffect n st x f).mem = s.mem := by
  have own (k : Nat) (g : Tile → Tile) (hg : ∀ t, (g t).lockSeqs = t.lockSeqs) :
      SameSequences s (s.modTile k g) ∧ (s.modTile k g).mem = s.mem := ⟨(SameSequences.refl s).modTile hg, rfl⟩
  cases f
  case store a bytes => exact absurd rfl (hs a bytes)
  case amax a v => exact absurd rfl (ha a v)
  case dmem => exact own _ _ fun t => t.lockSeqs_coreWrite _ _ _
  case imem => exact own _ _ fun t => t.lockSeqs_coreWrite _ _ _
  case drainDone a =>
    have freed : SameSequences s (s.modArray n a fun x => { x with draining := false }) := (SameSequences.refl s).modTile fun _ => rfl
    refine ⟨freed.modTile (n := n) (f := fun t => if t.vec.lanes = some a then { t with vec := { t.vec with lanes := none } } else t)
      fun t => ?_, rfl⟩
    split <;> rfl
  case predictor =>
    dsimp only [State.applyEffect]
    refine ⟨.modTile (.keepPredicted s n) ?_, (State.keepPredicted_keeps (pt := { mem := true }) s n (Keeps.refl s) rfl).same.mem rfl⟩
    exact fun _ => rfl
  case snapMember => exact ⟨⟨rfl, fun _ => ⟨rfl, rfl⟩, fun _ => rfl⟩, rfl⟩
  case signal => exact ⟨.refl s, rfl⟩
  all_goals
    dsimp only [State.applyEffect, State.modArray, State.deliverSum, State.modThread]
    refine own _ _ ?_
    exact fun _ => rfl

theorem SameSequences.applyEffect (s : State) (n : Nat) (st : Stream) (x : Entry) (f : Effect) :
    SameSequences s (s.applyEffect n st x f) := by
  cases f
  case store => exact .writeChecked _ _ _ _ _
  case amax => exact .writeChecked _ _ _ _ _
  all_goals exact (s.applyEffect_of_no_write n st x (by simp) (by simp)).1

/-! ## The bytes of a store (09 R293) -/

/-- The parts of a write lie inside it. -/
theorem blockParts_inside {k a : Nat} {bs : List Byte} {p : Nat × List Byte} (h : p ∈ blockParts k a bs) :
    a ≤ p.1 ∧ p.1 + p.2.length ≤ a + bs.length := by
  induction k generalizing a bs with
  | zero => cases h
  | succ k ih =>
    unfold blockParts at h
    split at h
    · cases h
    · rcases List.mem_cons.mp h with rfl | h
      · simp
      · obtain ⟨lo, hi⟩ := ih h
        rw [List.length_drop] at hi
        omega

theorem pokes_append (a : Nat) (xs ys : List Byte) (m : List Host.Cell) :
    pokes a (xs ++ ys) m = pokes (a + xs.length) ys (pokes a xs m) := by
  induction xs generalizing a m with
  | nil => rfl
  | cons x xs ih =>
    rw [List.cons_append, pokes, pokes, ih, List.length_cons]
    congr 1
    omega

/-- The parts of a write, one after another, are its bytes. -/
theorem foldl_pokes_blockParts (k a : Nat) (bs : List Byte) (m : List Host.Cell) (h : bs = [] ∨ bs.length + a % 64 ≤ 64 * k) :
    (blockParts k a bs).foldl (fun m p => pokes p.1 p.2 m) m = pokes a bs m := by
  induction k generalizing a bs m with
  | zero =>
    have : bs = [] := h.elim id fun h => List.length_eq_zero_iff.mp (by omega)
    rw [this]
    rfl
  | succ k ih =>
    unfold blockParts
    split
    · next he => rw [List.isEmpty_iff.mp he]; rfl
    · next he =>
      let len := min bs.length (64 - a % 64)
      have left : bs.length + a % 64 ≤ 64 * (k + 1) := h.resolve_left fun h => he (by rw [h]; rfl)
      have rest : bs.drop len = [] ∨ (bs.drop len).length + (a + len) % 64 ≤ 64 * k := by
        rw [List.drop_eq_nil_iff, List.length_drop]
        omega
      have first : (bs.take len).length = len := by simp [len]
      dsimp only
      rw [List.foldl_cons, ih _ _ _ rest]
      conv_rhs => rw [← List.take_append_drop len bs, pokes_append, first]

theorem State.mem_write (s : State) (w : Writer) (a : Nat) (bytes : List Byte) : (s.write w a bytes).mem = pokes a bytes s.mem :=
  (Quiet.stored (s.preserve w a bytes) a bytes).mem

theorem State.bad_write (s : State) (w : Writer) (a : Nat) (bytes : List Byte) : ∀ b ∈ (s.write w a bytes).bad, b ∈ s.bad := by
  have same : (s.write w a bytes).bad = s.bad.filter fun b => !(decide (a ≤ 64 * b) && decide (64 * b + 64 ≤ a + bytes.length)) :=
    (Keeps.foldl (pt := { bad := true }) (Keeps.refl _) _ fun _ _ h => State.modTile_keeps _ _ _ h rfl).same.bad rfl
  intro b hb
  rw [same] at hb
  exact (List.mem_filter.mp hb).1

theorem foldl_eq_none {α : Type} {g : Option α → α → Option α} (hg : ∀ m b, g m b ≠ none) (l : List α) (i : Option α) :
    l.foldl g i = none ↔ l = [] ∧ i = none := by
  induction l generalizing i with
  | nil => simp
  | cons b l ih => simp [ih, hg]

/-- A range touches no uncorrectable block. -/
theorem State.badBlock_eq_none {s : State} {a n : Nat} : s.badBlock a n = none ↔ ∀ b ∈ s.bad, overlap (64 * b) 64 a n = false := by
  rw [State.badBlock, Option.map_eq_none_iff, foldl_eq_none fun m b => by cases m <;> exact Option.some_ne_none _]
  simp

theorem State.mem_writeHome (w : Writer) {s : State} {a : Nat} {bs : List Byte} (h : s.partBad a bs = none) :
    (s.writeHome w a bs).mem = pokes a bs s.mem := by
  have each (l : List (Nat × List Byte)) (s : State) (hl : ∀ p ∈ l, p.2.length < 64 → s.badBlock p.1 p.2.length = none) :
      (l.foldl (fun s p => if decide (p.2.length < 64) && (s.badBlock p.1 p.2.length).isSome then s else s.write w p.1 p.2) s).mem =
        l.foldl (fun m p => pokes p.1 p.2 m) s.mem := by
    induction l generalizing s with
    | nil => rfl
    | cons p l ih =>
      rw [List.forall_mem_cons] at hl
      have go : ¬(decide (p.2.length < 64) && (s.badBlock p.1 p.2.length).isSome) = true := by
        simpa using hl.1
      rw [List.foldl_cons, List.foldl_cons, if_neg go, ih, State.mem_write]
      intro q hq hlen
      exact State.badBlock_eq_none.mpr fun b hb => State.badBlock_eq_none.mp (hl.2 q hq hlen) b (State.bad_write _ _ _ _ b hb)
  rw [State.writeHome, each, writeParts, foldl_pokes_blockParts]
  · omega
  · simpa [State.partBad] using h

theorem State.peek_writeHome (s : State) (w : Writer) (a : Nat) (bs : List Byte) {b : Nat} (h : b < a ∨ a + bs.length ≤ b) :
    peek b (s.writeHome w a bs).mem = peek b s.mem := by
  have each (l : List (Nat × List Byte)) (hl : ∀ p ∈ l, b < p.1 ∨ p.1 + p.2.length ≤ b) (s : State) :
      peek b (l.foldl (fun s p => if decide (p.2.length < 64) && (s.badBlock p.1 p.2.length).isSome then s else s.write w p.1 p.2)
        s).mem = peek b s.mem := by
    induction l generalizing s with
    | nil => rfl
    | cons p l ih =>
      rw [List.forall_mem_cons] at hl
      rw [List.foldl_cons, ih hl.2]
      split
      · rfl
      · rw [State.mem_write, peek_pokes_of_not_mem _ hl.1]
  refine each _ (fun p hp => ?_) s
  obtain ⟨lo, hi⟩ := blockParts_inside hp
  omega

theorem State.mem_writeChecked (s : State) (f : Finder) (w : Writer) (a : Nat) (bs : List Byte) :
    (s.writeChecked f w a bs).mem = (s.writeHome w a bs).mem := by
  unfold State.writeChecked
  dsimp only
  split
  · exact (State.ueError_keeps (pt := { mem := true }) _ _ _ _ _ (Keeps.refl _) rfl rfl rfl rfl).same.mem rfl
  · rfl

/-- A byte that no store of a command covers keeps its value as the command's effects come into force. -/
theorem State.peek_effects (n : Nat) (st : Stream) (x : Entry) {b : Nat} (l : List Effect) (s : State)
    (hs : ∀ f ∈ l, ∀ a bytes, f = .store a bytes → b < a ∨ a + bytes.length ≤ b) (ha : ∀ f ∈ l, ∀ a v, f ≠ .amax a v) :
    peek b (l.foldl (fun s f => s.applyEffect n st x f) s).mem = peek b s.mem := by
  induction l generalizing s with
  | nil => rfl
  | cons f l ih =>
    rw [List.forall_mem_cons] at hs ha
    rw [List.foldl_cons, ih _ hs.2 ha.2]
    by_cases hf : ∃ a bytes, f = .store a bytes
    · obtain ⟨a, bytes, rfl⟩ := hf
      exact (congrArg (peek b) (State.mem_writeChecked _ _ _ _ _)).trans (State.peek_writeHome _ _ _ _ (hs.1 a bytes rfl))
    · rw [(s.applyEffect_of_no_write n st x (fun a bytes e => hf ⟨a, bytes, e⟩) ha.1).2]

/-! ## What a completion does to memory -/

theorem SameSequences.locked {s t : State} (h : SameSequences s t) (n : Nat) : t.locked n = s.locked n := by
  rw [State.locked, State.locked, State.owner, State.owner, h.teams, (h.ctx _).1]

theorem SameSequences.lockRecordAt {s t : State} (h : SameSequences s t) (n q : Nat) : t.lockRecordAt n q = s.lockRecordAt n q := by
  have owner : t.owner n = s.owner n := by rw [State.owner, State.owner, h.teams]
  unfold State.lockRecordAt State.lockSeq
  rw [owner, (h.ctx _).1, (h.ctx _).2, h.seqs]

theorem SameSequences.effects (s : State) (n : Nat) (st : Stream) (x : Entry) :
    SameSequences s (x.effects.foldl (fun s f => s.applyEffect n st x f) s) :=
  foldl (fun s f => applyEffect s n st x f) _ _

/-- No command of another context finds a tile in lock step. -/
theorem State.locked_named {s : State} {n : Nat} {x : Entry} (h : (s.named n x).locked n = true) : s.named n x = s := by
  unfold State.named at h ⊢
  split
  · rfl
  · next hx =>
    rw [if_neg hx] at h
    have owner : (s.lent n).owner n = 0 := by
      have none : (s.lent n).teams.find? (fun e => e.1 != 0 && teamKind e.2 = 1 && inRect e.2 n) = none := by
        rw [List.find?_eq_none]
        intro e he
        have out := (List.mem_filter.mp he).2
        rw [Bool.not_eq_true'] at out
        rw [out]
        exact Bool.false_ne_true
      rw [State.owner, none]
    simp [State.locked, owner] at h

/-- A byte outside the stores of a command and outside its lock-step record keeps its value as the command ends. -/
theorem State.peek_recorded {s : State} {n : Nat} {e : Engine} {st : Stream} {x : Entry} {b : Nat}
    (hs : ∀ f ∈ x.effects, ∀ a bytes, f = .store a bytes → b < a ∨ a + bytes.length ≤ b) (ha : ∀ f ∈ x.effects, ∀ a v, f ≠ .amax a v)
    (hl : s.locked n = true → b < s.lockRecordAt n (3 * engineNo e + streamNo st) ∨
      s.lockRecordAt n (3 * engineNo e + streamNo st) + 16 ≤ b) :
    peek b (s.recorded n e st x).mem = peek b s.mem := by
  have seqs := SameSequences.effects s n st x
  have effects := State.peek_effects n st x x.effects s hs ha
  obtain ⟨u, hu, h | ⟨locked, bytes, hb, rfl⟩⟩ := (x.effects.foldl (fun s f => s.applyEffect n st x f) s).lockCommand_quiet n e st x
    !((s.queue n e st).entries.any fun y => y.uid = x.uid)
  · rw [State.recorded, hu.mem, h.mem, effects]
  · rw [seqs.locked] at locked
    rw [State.recorded, hu.mem, (Quiet.stored _ _ _).mem, seqs.lockRecordAt, peek_pokes_of_not_mem _ (by rw [hb]; exact hl locked),
      effects]

theorem State.mem_recorded_of_store {s : State} {n : Nat} (e : Engine) (st : Stream) {x : Entry} {a : Nat} {bytes : List Byte}
    (hx : x.effects = [.store a bytes]) (hp : s.partBad a bytes = none) (hl : s.locked n = false) :
    (s.recorded n e st x).mem = pokes a bytes s.mem := by
  have seqs := SameSequences.effects s n st x
  rw [State.recorded, State.lockCommand, seqs.locked, hl, hx]
  exact (State.mem_writeChecked _ _ _ _ _).trans (State.mem_writeHome _ hp)

theorem State.mem_complete (s : State) (n : Nat) (e : Engine) (st : Stream) (x : Entry) :
    (s.complete n e st x).mem = (s.recorded n e st x).mem :=
  (Quiet.complete s n e st x).mem.trans
    ((State.dropEntry_keeps (pt := { mem := true }) _ _ _ _ _ (Keeps.refl _) rfl).same.mem rfl)

/-- Settles O32: the entry leaves every queue; a vector command's own memory and signal by its effects. -/
theorem completionAppliesTheStores : Obligations.CompletionAppliesTheStores := by
  intro s n e st x hn hc ha hr
  have run : exec (.commandComplete n e st) s = .next (s.inName n x fun u => u.finishCommand n e st x) := by
    simp [exec, execCommandComplete, hn, hc, ha, hr]
  obtain ⟨tiles, mem, net⟩ := s.inName_parts n x fun u => u.finishCommand n e st x
  refine ⟨_, run, rfl, ?_, fun he hfin hf h0 => ?_⟩
  · rw [State.queue_congr tiles]
    exact State.queue_finishCommand _ n e st x
  · subst he
    have front : ((s.named n x).entries n .vector st).head? = some x := by
      rw [(Quiet.named s n x).entries]
      exact (s.completing_eq_some hc).2.elim id id
    have own : (s.named n x).ownDone n .vector st x = s.named n x := by
      unfold State.ownDone
      split
      · next c hown =>
        unfold ownCmd at hown
        split at hown
        · cases hown
        · exact hfin c hown _
      · simp [State.skipDone, h0]
    have ends := Calm.finishCommand (s.named n x) n .vector st x
    dsimp only at ends
    rw [own, State.entryLeft_of_head front] at ends
    have left : (s.inName n x fun u => u.finishCommand n .vector st x).mem = ((s.named n x).recorded n .vector st x).mem :=
      mem.trans (ends.mem.trans (State.mem_complete _ _ _ _ _))
    refine ⟨fun b hs ham hl => ?_, fun a bytes hx hp hl => ?_, fun hsig => ?_⟩
    · rw [left, State.peek_recorded hs ham fun locked => ?_, s.mem_named]
      have vector : 3 * engineNo .vector + streamNo st = 3 + streamNo st := rfl
      rw [vector, State.locked_named locked]
      rw [State.locked_named locked] at locked
      exact hl locked
    · have free : (s.named n x).locked n = false := by
        by_contra h
        have locked := Bool.eq_true_of_not_eq_false h
        rw [State.locked_named locked, hl] at locked
        cases locked
      have part : (s.named n x).partBad a bytes = none := by
        unfold State.named
        split <;> exact hp
      rw [State.loadBytes, left, State.mem_recorded_of_store .vector st hx part free]
      exact peeks_pokes _ _ _
    · obtain ⟨l, p, hl, hp, sig⟩ := (s.named n x).complete_signals n .vector st hf hsig
      obtain ⟨k, hk⟩ := ends.net
      exact ⟨p, by rw [net, hk, hl]; simp [hp], sig⟩

end Sys2Proof.Machine

namespace Sys2Proof.Machine

/-! ## The end of a reset that a restart waits for (02 R78; 15 R499) -/

/-- The reset under way in `twiceListed`: one that a destruction asked for, and every device has answered. -/
def destruction : Resetting := { cause := 1, destroy := true }

/-- A restart waits for context 3 to go, and the table of contexts lists it twice. -/
def twiceListed : State :=
  { ctxs := [(3, { state := 4, resetting := some destruction }), (3, { state := 4 })], power := { restart := 1 } }

/-- The entry that the end of the reset does not write still reads as a context that is being reset: no bring-up begins. -/
theorem twiceListed_stays : exec (.quiesceComplete 3) twiceListed = .next (twiceListed.endReset 3 destruction).settleRestart ∧
    (twiceListed.endReset 3 destruction).settleRestart.power.state = 0 :=
  ⟨rfl, by decide⟩

/-- Refutes O49: the statement speaks of every table of contexts, and in one that lists the context twice, and so is not sorted as
tables are meant to be, the destruction leaves the second entry, and the restart that waits does not begin. -/
theorem not_contextResetParksEveryThread : ¬ Obligations.ContextResetParksEveryThread := by
  intro h
  obtain ⟨-, ends, -⟩ := h twiceListed 3 (by decide)
  obtain ⟨-, -, restarts⟩ := ends destruction rfl rfl rfl (by decide)
  have alone : ¬∃ e ∈ twiceListed.ctxs, e.1 ≠ 0 ∧ e.1 ≠ 3 ∧ e.2.state ≠ 0 := by decide
  obtain ⟨t, run, state, -⟩ := restarts rfl (by decide) alone
  obtain ⟨run', state'⟩ := twiceListed_stays
  rw [run'] at run
  cases run
  rw [state'] at state
  cases state

end Sys2Proof.Machine

namespace Sys2Proof.Machine

/-! ## The accumulators as a command of the matrix engine issues (03 R87, R102) -/

/-- Memory, the arrays of tile n and every other tile are as they were. -/
structure ArraysStay (n : Nat) (s t : State) : Prop where
  arrays : (t.tile n).arrays = (s.tile n).arrays
  tiles : ∀ m, m ≠ n → t.tile m = s.tile m
  mem : t.mem = s.mem

namespace ArraysStay

theorem refl (n : Nat) (s : State) : ArraysStay n s s := ⟨rfl, fun _ _ => rfl, rfl⟩

theorem trans {n : Nat} {s t u : State} (h : ArraysStay n s t) (g : ArraysStay n t u) : ArraysStay n s u where
  arrays := g.arrays.trans h.arrays
  tiles m hm := (g.tiles m hm).trans (h.tiles m hm)
  mem := g.mem.trans h.mem

theorem of_keeps {n : Nat} {s t : State} (k : Keeps { tiles := true, mem := true } s t) : ArraysStay n s t where
  arrays := by rw [State.tile, State.tile, k.same.tiles rfl]
  tiles m _ := by rw [State.tile, State.tile, k.same.tiles rfl]
  mem := k.same.mem rfl

theorem foldl {n : Nat} {α : Type} {f : State → α → State} (h : ∀ s a, ArraysStay n s (f s a)) (l : List α) (s : State) :
    ArraysStay n s (l.foldl f s) := by
  induction l generalizing s with
  | nil => exact refl n s
  | cons a l ih => exact (h s a).trans (ih _)

theorem ite {n : Nat} {c : Prop} [Decidable c] {s t u : State} (h : ArraysStay n s t) (g : ArraysStay n s u) :
    ArraysStay n s (if c then t else u) := by
  split
  · exact h
  · exact g

theorem modTile (n : Nat) (s : State) {f : Tile → Tile} (h : ∀ t, (f t).arrays = t.arrays) : ArraysStay n s (s.modTile n f) where
  arrays := by rw [State.tile_modTile, h]
  tiles _ hm := State.tile_modTile_of_ne _ _ hm
  mem := rfl

theorem modQueue (s : State) (n : Nat) (e : Engine) (st : Stream) (f : Queue → Queue) : ArraysStay n s (s.modQueue n e st f) :=
  modTile n s fun _ => rfl

theorem send (n : Nat) (s : State) (p : Packet) : ArraysStay n s (s.send p) := ⟨rfl, fun _ _ => rfl, rfl⟩

theorem progressed (s : State) (n unit : Nat) : ArraysStay n s (s.progressed n unit) := modTile n s fun _ => rfl

theorem setEntry (s : State) (n : Nat) (e : Engine) (st : Stream) (x : Entry) : ArraysStay n s (s.setEntry n e st x) := by
  unfold State.setEntry
  dsimp only
  split
  · refine (modQueue s n _ st _).trans (modTile n _ ?_)
    exact fun _ => rfl
  · exact modQueue s n _ st _

theorem markIssued (s : State) (n : Nat) (e : Engine) (st : Stream) (uid : Nat) : ArraysStay n s (s.markIssued n e st uid) := by
  unfold State.markIssued
  dsimp only
  split
  · refine (modQueue s n _ st _).trans (modTile n _ ?_)
    exact fun _ => rfl
  · exact modQueue s n _ st _

theorem countPassed (s : State) (n : Nat) (e : Engine) (st : Stream) (ready : List Stream) :
    ArraysStay n s (s.countPassed n e st ready) :=
  foldl (fun s u => ite (modQueue s n e u _) (ite (modQueue s n e u _) (refl n s))) _ _

theorem issued (s : State) (n : Nat) (e : Engine) (st : Stream) (x : Entry) (ready : List Stream) :
    ArraysStay n s (s.issued n e st x ready) := by
  have varies (u : State) : ArraysStay n u (u.markVary n e st x) := of_keeps (State.markVary_keeps _ _ _ _ _ (Keeps.refl u) rfl rfl)
  have traced (u : State) : ArraysStay n u (u.trace 0x31 0 n e st x 0 0 0) :=
    of_keeps (State.trace_keeps _ _ _ _ _ _ _ _ _ _ (Keeps.refl u) rfl)
  exact (((markIssued s n e st x.uid).trans (progressed _ n _)).trans (countPassed _ n e st ready)).trans ((varies _).trans (traced _))

theorem askItem (s : State) (n : Nat) (st : Stream) : ArraysStay n s (s.askItem n st) := by
  unfold State.askItem
  split
  · exact refl n s
  · dsimp only
    refine ite (refl n s) ?_
    split
    · exact refl n s
    · refine (modTile n s ?_).trans (send n _ _)
      exact fun _ => rfl

theorem inName {s u : State} {n : Nat} {x : Entry} {f : State → State} (h : ArraysStay n u (f (s.named n x))) :
    ArraysStay n u (s.inName n x f) := by
  obtain ⟨tiles, mem, -⟩ := s.inName_parts n x f
  exact ⟨by rw [State.tile, tiles]; exact h.arrays, fun m hm => by rw [State.tile, tiles]; exact h.tiles m hm, mem.trans h.mem⟩

/-- Where a command's own part leaves the arrays as `u` has them, so does its issue. -/
theorem afterIssue {s u : State} {n : Nat} {e : Engine} {c : Cmd} {st : Stream} {x : Entry}
    (h : let v := s.named n x
      let y := v.dated n x
      ArraysStay n u (c.run (v.preserveFor (writerOf v n st) (c.writes v n st y)) n st y)) :
    ArraysStay n u (s.afterIssue n e c st x) := by
  have marked := h.trans (issued _ n e st ((s.named n x).dated n x) ((s.named n x).readyStreams n e))
  exact inName (ite (marked.trans (askItem _ n st)) marked)

end ArraysStay

/-- An issue that writes no memory keeps no page for a snapshot (06 R216). -/
theorem State.preserveFor_nil (s : State) (w : Writer) : s.preserveFor w [] = s := by
  unfold State.preserveFor
  simp

theorem mArray_lt (x : Entry) : mArray x < 4 := bits_lt _ 55 54

/-- An MMA's own part puts its pass's result into the accumulators of its array, and leaves the other arrays alone. -/
theorem cmdMma_run (s : State) (n : Nat) (st : Stream) (x : Entry) : ∃ f : Arr → Arr,
    (∀ a, (f a).accs = (mmaResult s n x).foldl (fun l p => vset l p.1 { held := some st, vals := p.2 }) a.accs) ∧
    ArraysStay n (s.modArray n (mArray x) f) (cmdMma.run s n st x) := by
  unfold cmdMma
  dsimp only
  apply Exists.intro
  refine ⟨?accs, .trans ?arrays (.setEntry _ n _ st _)⟩
  case arrays =>
    split
    · refine .trans (.modTile n _ ?_) (.modQueue _ n _ st _)
      exact fun _ => rfl
    · refine .modTile n _ ?_
      exact fun _ => rfl
  case accs => exact fun _ => rfl

theorem cmdMma_writes (s : State) (n : Nat) (st : Stream) (x : Entry) : cmdMma.writes s n st x = [] := rfl

theorem mmaResult_dated (s : State) (n : Nat) (x : Entry) : mmaResult s n (s.dated n x) = mmaResult s n x := rfl

theorem mmaResult_dense (s : State) (n : Nat) {x : Entry} (hs : mSp x = false) (hz : mZm x = false) {i j : Nat} (hi : i < 16)
    (hj : j < 16) : ∃ vals, mmaResult s n x = [(mAcc x, vals)] ∧
      vals[16 * i + j]? = some (cellValue (if mClear x then 0 else (vget (s.array n (mArray x)).accs (mAcc x) {}).get (16 * i + j))
        ((List.range (mK x)).map fun k => productsOf (mFa x) (mFb x)
          (lget (lget (operand s n x.a0 (mLda x) (mFa x) (mK x) 16 (!mTa x)) i []) k ⟨0, 0⟩)
          (lget (lget (operand s n x.a1 (mLdb x) (mFb x) (mK x) 16 (mTb x)) j []) k ⟨0, 0⟩))) := by
  have row : (16 * i + j) / 16 = i := by omega
  have column : (16 * i + j) % 16 = j := by omega
  have cell : 16 * i + j < 256 := by omega
  have dense : mPattern s n x = false := by rw [mPattern, hs, Bool.false_and]
  unfold mmaResult
  simp only [dense, hs, Bool.false_eq_true, if_false]
  refine ⟨_, rfl, ?_⟩
  rw [List.getElem?_map, List.getElem?_range cell]
  simp [row, column, mmaTerms, keptK, hs, hz]

/-- Settles O23: an MMA's own part, then the mark of the issue, which leaves the arrays alone. -/
theorem matrixCommandsIssue : Obligations.MatrixCommandsIssue := by
  intro s n st x ahead
  refine ⟨fun h => issueRow_of_issues h (by decide), fun h => issueRow_of_issues h (by decide), fun h => ?_,
    fun hs hz i j hi hj => mmaResult_dense s n hs hz hi hj⟩
  obtain ⟨f, accs, run⟩ := cmdMma_run (s.named n x) n st ((s.named n x).dated n x)
  have stays : ArraysStay n ((s.named n x).modArray n (mArray x) f) (s.afterIssue n .matrix cmdMma st x) := .afterIssue <| by
    dsimp only
    rw [cmdMma_writes, State.preserveFor_nil]
    exact run
  have tile (m : Nat) : (s.named n x).tile m = s.tile m := by rw [State.tile, s.tiles_named, ← State.tile]
  refine ⟨_, issueRow_of_issues h (by decide), rfl, ?_, stays.mem.trans (s.mem_named n x), fun m hm => ?_⟩
  · have array : (s.named n x).array n (mArray x) = s.array n (mArray x) := by rw [State.array, tile, ← State.array]
    rw [State.array, stays.arrays, ← State.array, State.array_modArray_self _ _ _ _ (mArray_lt x), accs, array, mmaResult_dated]
  · rw [stays.tiles m hm, State.modArray, State.tile_modTile_of_ne _ _ hm, tile]

end Sys2Proof.Machine

namespace Sys2Proof.Machine

/-! ## Work lists (03 R120 to R128) -/

/-- The request of a tile to the leader of a list, as its packet carries it (03 R122, R124). -/
def Packet.reserve (p : Packet) (items : Nat) : Reserve := ⟨p.from, p.stream, p.entry, p.chan, p.tag, items⟩

/-- An item as a tile takes it from its leader (03 R124). -/
def State.itemTaken (s : State) (place : Nat) (w : BitVec 512) : Item :=
  { uid := s.nextUid, word := w, place := place, blocks := itM w.toNat * outCols w.toNat }

theorem Packet.at_of_dst {p : Packet} {n : Nat} (h : p.dst = .tile n) : p.at = n := by rw [Packet.at, h]

section
variable {s : State} {k n : Nat} {p : Packet}

theorem exec_workListReservation_open {team list items : Nat} {w : WorkList} (h : Takes s k p) (hd : p.dst = .tile n)
    (hb : p.body = .reserve team list items) (hw : tfind (4 * team + list) (s.tile n).lists = some w) (ho : w.closed = false) :
    exec (.workListReservation k) s = .next (((s.consume k).setList n (4 * team + list) { w with
      waiting := w.waiting ++ [p.reserve items] }).serveList n (4 * team + list)) := by
  have e : execWorkListReservation k s = _ := onPacket_of_takes h _ (by simp [hb]) _
  have hw' : tfind (4 * team + list) ((s.consume k).tile n).lists = some w := hw
  simp only [hb, Packet.at_of_dst hd, hw'] at e
  rwa [if_neg (Bool.eq_false_iff.mp ho)] at e

theorem exec_workListReservation_refused {team list items : Nat} (h : Takes s k p) (hd : p.dst = .tile n)
    (hb : p.body = .reserve team list items) (hw : ∀ w, tfind (4 * team + list) (s.tile n).lists = some w → w.closed = true) :
    exec (.workListReservation k) s = .next ((s.consume k).reply p (.refusal 0 ⟨0x20, 0, 0⟩)) := by
  have e : execWorkListReservation k s = _ := onPacket_of_takes h _ (by simp [hb]) _
  simp only [hb, Packet.at_of_dst hd] at e
  refine e.trans ?_
  cases hf : tfind (4 * team + list) ((s.consume k).tile n).lists with
  | none => rfl
  | some w => simp [hw w hf]

theorem exec_itemRequest {team list : Nat} {w : WorkList} (h : Takes s k p) (hd : p.dst = .tile n)
    (hb : p.body = .itemAsk team list) (hw : tfind (4 * team + list) (s.tile n).lists = some w) :
    exec (.itemRequest k) s = .next (((s.consume k).setList n (4 * team + list) { w with
      asking := w.asking ++ [p.reserve 1] }).serveList n (4 * team + list)) := by
  have e : execItemRequest k s = _ := onPacket_of_takes h _ (by simp [hb]) _
  have hw' : tfind (4 * team + list) ((s.consume k).tile n).lists = some w := hw
  simp only [hb, Packet.at_of_dst hd, hw'] at e
  exact e

theorem exec_itemArrive_of_item {team list place : Nat} {w : BitVec 512} {r : ListRun} (h : Takes s k p) (hd : p.dst = .tile n)
    (hb : p.body = .item team list place (some w)) (hr : (s.tile n).runs.get p.stream = some r) :
    exec (.itemArrive k) s = .next (((((s.consume k).fresh.2.setRun n p.stream { r with
      asking := false, items := r.items ++ [s.itemTaken place w] }).startItem n p.stream).askItem n p.stream).progressed n
        (watchedQueue .matrix p.stream)) := by
  have e : execItemArrive k s = _ := onPacket_of_takes h _ (by simp [hb]) _
  have hr' : ((s.consume k).tile n).runs.get p.stream = some r := hr
  simp only [hb, Packet.at_of_dst hd, hr'] at e
  exact e

theorem exec_itemArrive_of_none {team list place : Nat} {r : ListRun} (h : Takes s k p) (hd : p.dst = .tile n)
    (hb : p.body = .item team list place none) (hr : (s.tile n).runs.get p.stream = some r) :
    exec (.itemArrive k) s = .next ((s.consume k).setRun n p.stream { r with asking := false, ended := true }) := by
  have e : execItemArrive k s = _ := onPacket_of_takes h _ (by simp [hb]) _
  have hr' : ((s.consume k).tile n).runs.get p.stream = some r := hr
  simp only [hb, Packet.at_of_dst hd, hr'] at e
  exact e

end

theorem State.deviceNumber_storeTo (s : State) (n : Nat) (e : Engine) (st : Stream) (x : Entry) (dev a : Nat) (bytes : List Byte) :
    (s.storeTo n e st x dev a bytes).deviceNumber = s.deviceNumber := by
  have k := State.storeTo_keeps (pt := { device := true }) s n e st x dev a bytes (.refl s) rfl rfl rfl rfl rfl rfl rfl rfl rfl
  have settings := k.same.device rfl
  unfold State.deviceSettings at settings
  simp only [Prod.mk.injEq] at settings
  obtain ⟨-, -, -, -, -, -, -, number⟩ := settings
  exact number

/-- Two steps that agree where `P` holds, which the steps keep, make the same fold. -/
theorem foldl_eq_of_invariant {σ α : Type} {f g : σ → α → σ} {P : σ → Prop} (keeps : ∀ s a, P s → P (g s a))
    (agree : ∀ s a, P s → f s a = g s a) (l : List α) {s : σ} (h : P s) : l.foldl f s = l.foldl g s := by
  induction l generalizing s with
  | nil => rfl
  | cons a l ih => rw [List.foldl_cons, List.foldl_cons, agree s a h, ih (keeps s a h)]

/-- Stores leave the device's number, so each of a row of them names the same device. -/
theorem State.foldl_storeTo_own (n : Nat) (e : Engine) (st : Stream) (x : Entry) {dev : Nat} (rows : List (Nat × List Byte)) {s : State}
    (h : s.deviceNumber = dev) : rows.foldl (fun u q => u.storeTo n e st x u.deviceNumber q.1 q.2) s =
      rows.foldl (fun u q => u.storeTo n e st x dev q.1 q.2) s :=
  foldl_eq_of_invariant (P := fun u => u.deviceNumber = dev)
    (fun u q hu => (u.deviceNumber_storeTo n e st x dev q.1 q.2).trans hu)
    (fun u q hu => congrArg (fun d => u.storeTo n e st x d q.1 q.2) hu) rows h

section
variable {s : State} {n : Nat} {st : Stream} {r : ListRun} {i : Item} {rest : List Item}
variable (hn : n < 2048) (hs : s.streamRuns n st = true) (hr : (s.tile n).runs.get st = some r) (hi : r.items = i :: rest)
  (hl : i.loaded = true) (hd : i.blocks ≤ i.drained) (room : s.itemRoom n st = true)
include hn hs hr hi hl hd room

/-- The last block of an item has drained: its rows are written. -/
theorem exec_itemComplete_of_unwritten (hw : i.written = false)
    (reserve : s.reserveFor (writerOf s n st) ((s.itemOutput n i).map fun q => ⟨q.1, q.2.length⟩) = true)
    (part : ∀ q ∈ s.itemOutput n i, s.extentBadAt q.1 q.2 = false) :
    exec (.itemComplete n st) s = .next ((s.itemOutput n i).foldl
      (fun u q => u.storeTo n .mover st (i.asEntry (s.runChan n st r) (s.owner n)) s.deviceNumber q.1 q.2)
      (s.setRun n st { r with items := { i with written := true } :: rest })) := by
  have whole : ((s.itemOutput n i).any fun q => s.extentBadAt q.1 q.2) = false :=
    List.any_eq_false.mpr fun q hq => by simp [part q hq]
  simp only [exec, execItemComplete, Nat.not_le.mpr hn, hr, hi, hs, hl, Nat.not_lt.mpr hd, room, hw, reserve, whole, Bool.not_true,
    Bool.not_false, decide_false, Bool.or_self, Bool.false_eq_true, if_false, if_true]
  exact congrArg Host.Outcome.next (State.foldl_storeTo_own n .mover st _ _ rfl)

/-- Its writes are acknowledged: its done tally is signalled, its digest sent, and the run goes on. -/
theorem exec_itemComplete_of_written (hw : i.written = true) (owed : s.writesOwed n (fun _ e _ => e = i.uid) = false)
    (fenced : s.fenced n st r.entry 2 = true) :
    let x := i.asEntry (s.runChan n st r) (s.owner n)
    exec (.itemComplete n st) s = .next (((((((s.signalFrom n .matrix st x 2 (itDone i.word.toNat) 0 1).lockItem st r i x.chan
      ((s.itemOutput n i).map fun q => (s.deviceNumber, q.1, q.2))).setRun n st { r with items := rest }).progressed n
        (watchedQueue .matrix st)).startItem n st).askItem n st)) := by
  simp only [exec, execItemComplete, Nat.not_le.mpr hn, hr, hi, hs, hl, Nat.not_lt.mpr hd, room, hw, owed, fenced, Bool.not_true,
    decide_false, Bool.or_self, Bool.false_eq_true, if_false]

end

/-- The digest of an item goes to its sequence; nothing is sent through the mesh. -/
theorem State.net_lockItem (s : State) (st : Stream) (r : ListRun) (i : Item) (chan : Word) (outs : List (Nat × Nat × List Byte)) :
    (s.lockItem st r i chan outs).net = s.net :=
  (State.lockItem_keeps (pt := { net := true }) _ _ _ _ _ _ (Keeps.refl s) rfl rfl rfl rfl rfl).same.net rfl

/-- Settles O44: the issues, the arrivals at the leader and at the tile, and the end of an item. -/
theorem workListsServeItems : Obligations.WorkListsServeItems := by
  refine ⟨fun s n st x ahead i hi h => ?_, fun s k n p h hd => ⟨?_, ?_, ?_, ?_, ?_⟩, fun s n st r i rest hn hs hr hi hl hd room => ⟨?_, ?_⟩⟩
  · simp only [List.mem_cons, List.not_mem_nil, or_false] at hi
    rcases hi with rfl | rfl | rfl | rfl
    all_goals exact issueRow_of_issues h (by decide)
  · exact fun team list items w hb hw ho => exec_workListReservation_open h hd hb hw ho
  · exact fun team list items hb hw => exec_workListReservation_refused h hd hb hw
  · exact fun team list w hb hw => exec_itemRequest h hd hb hw
  · exact fun team list place w r hb hr => exec_itemArrive_of_item h hd hb hr
  · exact fun team list place r hb hr => exec_itemArrive_of_none h hd hb hr
  · exact exec_itemComplete_of_unwritten hn hs hr hi hl hd room
  · intro hw owed fenced
    obtain ⟨q, cyc, hq, -, dst, body⟩ := s.signalFrom_sends n .matrix st (i.asEntry (s.runChan n st r) (s.owner n)) 2 (itDone i.word.toNat) 0 1
    exact ⟨_, _, exec_itemComplete_of_written hn hs hr hi hl hd room hw owed fenced, rfl, rfl, q, cyc,
      (State.net_lockItem _ _ _ _ _ _).trans hq, dst, body⟩

end Sys2Proof.Machine

namespace Sys2Proof.Machine

/-! ## The vector lanes and the activity staircase (05 R183; 03 R115 to R117) -/

theorem laneCandidates_sorted (s : State) (n : Nat) : (laneCandidates s n).Pairwise (· < ·) :=
  List.pairwise_lt_range.filter _

theorem le_of_laneCandidates_eq_cons {s : State} {n a : Nat} {rest : List Nat} (h : laneCandidates s n = a :: rest) :
    ∀ b ∈ laneCandidates s n, a ≤ b := by
  have sorted := laneCandidates_sorted s n
  rw [h] at sorted ⊢
  intro b hb
  rcases List.mem_cons.mp hb with rfl | hb
  · exact Nat.le_refl _
  · exact Nat.le_of_lt (List.rel_of_pairwise_cons sorted hb)

/-- An update of an array depends on its function's value at that array alone. -/
theorem State.modArray_congr (s : State) (n a : Nat) {f g : Arr → Arr} (h : f (s.array n a) = g (s.array n a)) :
    s.modArray n a f = s.modArray n a g :=
  congrArg (fun r => s.setTile n { s.tile n with arrays := vset (s.tile n).arrays a r }) h

/-- At a level above clock-gated the lower stairs of a dribble gap all last 32 cycles. -/
theorem stepDown_of_pos {r : Arr} (h : 0 < r.level) : stepDown r =
    if r.gapDribble then { r with level := r.level - 1, dribbleCycles := r.dribbleCycles + (if r.level = 4 then 64 else 32) }
    else { r with level := 0 } := by
  rw [stepDown, if_neg (Nat.ne_of_gt h)]

/-- Settles O33: the lanes by who asks for them, and each stair of an array. -/
theorem lanesAndDribbleSteps : Obligations.LanesAndDribbleSteps := by
  intro s n a hn alive
  refine ⟨fun opened => ?_, fun ha idle level => ?_, fun ha wanted level => ?_⟩
  · refine ⟨fun rest first => ⟨?_, le_of_laneCandidates_eq_cons first⟩, fun x free group => ?_, fun free nobody => ?_⟩
    · simp [exec, execLaneReservationGrant, hn, alive, opened, first]
    · simp [exec, execLaneReservationGrant, hn, alive, opened, free, group]
    · simp [exec, execLaneReservationGrant, hn, alive, opened, free, nobody]
  · have down : exec (.dribbleStepDown n a) s = .next (s.modArray n a stepDown) := by
      simp [exec, execDribbleStepDown, hn, ha, alive, idle, level]
    exact down.trans (congrArg _ (s.modArray_congr n a (stepDown_of_pos level)))
  · have up : exec (.dribbleRampStep n a) s = .next (s.modArray n a stepUp) := by
      simp [exec, execDribbleRampStep, hn, ha, alive, wanted, level]
    exact up

end Sys2Proof.Machine

namespace Sys2Proof.Machine

/-! ## The threads of a tile as one of its commands issues -/

theorem State.threads_modTile (s : State) (n : Nat) {f : Tile → Tile} (h : ∀ t, (f t).threads = t.threads) :
    ((s.modTile n f).tile n).threads = (s.tile n).threads := by
  rw [State.tile_modTile, h]

theorem State.threads_modQueue (s : State) (n : Nat) (e : Engine) (st : Stream) (f : Queue → Queue) :
    ((s.modQueue n e st f).tile n).threads = (s.tile n).threads :=
  s.threads_modTile n fun _ => rfl

theorem State.threads_progressed (s : State) (n unit : Nat) : ((s.progressed n unit).tile n).threads = (s.tile n).threads := by
  refine s.threads_modTile n ?_
  exact fun _ => rfl

theorem State.threads_markIssued (s : State) (n : Nat) (e : Engine) (st : Stream) (uid : Nat) :
    ((s.markIssued n e st uid).tile n).threads = (s.tile n).threads := by
  unfold State.markIssued
  dsimp only
  split
  · refine (State.threads_modTile _ n ?_).trans (s.threads_modQueue n _ st _)
    exact fun _ => rfl
  · exact s.threads_modQueue n _ st _

theorem State.threads_countPassed (s : State) (n : Nat) (e : Engine) (st : Stream) (ready : List Stream) :
    ((s.countPassed n e st ready).tile n).threads = (s.tile n).threads := by
  unfold State.countPassed
  induction allStreams generalizing s with
  | nil => rfl
  | cons u l ih =>
    rw [List.foldl_cons, ih]
    split
    · exact s.threads_modQueue n e u _
    · split
      · exact s.threads_modQueue n e u _
      · rfl

theorem State.threads_issued (s : State) (n : Nat) (e : Engine) (st : Stream) (x : Entry) (ready : List Stream) :
    ((s.issued n e st x ready).tile n).threads = (s.tile n).threads := by
  have sent (u : State) : ((u.markVary n e st x).trace 0x31 0 n e st x 0 0 0).tiles = u.tiles :=
    (State.trace_keeps _ _ _ _ _ _ _ _ _ _ (State.markVary_keeps (pt := { tiles := true }) _ _ _ _ _ (Keeps.refl u) rfl rfl)
      rfl).same.tiles rfl
  rw [State.issued, State.tile, sent, ← State.tile, State.threads_countPassed]
  exact (State.threads_progressed _ _ _).trans (s.threads_markIssued n e st x.uid)

theorem State.threads_setRun (s : State) (n : Nat) (st : Stream) (r : ListRun) :
    ((s.setRun n st r).tile n).threads = (s.tile n).threads := by
  refine s.threads_modTile n ?_
  exact fun _ => rfl

theorem State.threads_askItem (s : State) (n : Nat) (st : Stream) : ((s.askItem n st).tile n).threads = (s.tile n).threads := by
  unfold State.askItem
  split
  · rfl
  · dsimp only
    split
    · rfl
    · split
      · rfl
      · exact s.threads_setRun n st _

/-- The state in which a command marks its issue: its own part done, in its context's name (02 R65). -/
def State.ownPart (s : State) (n : Nat) (c : Cmd) (st : Stream) (x : Entry) : State :=
  let u := s.named n x
  let y := u.dated n x
  c.run (u.preserveFor (writerOf u n st) (c.writes u n st y)) n st y

/-- An issue is a command's own part and its mark, after which an item queue may ask on. -/
theorem State.tiles_afterIssue (s : State) (n : Nat) (e : Engine) (c : Cmd) (st : Stream) (x : Entry) :
    let marked := (s.ownPart n c st x).issued n e st ((s.named n x).dated n x) ((s.named n x).readyStreams n e)
    (s.afterIssue n e c st x).tiles = marked.tiles ∨ (s.afterIssue n e c st x).tiles = (marked.askItem n st).tiles := by
  intro marked
  rw [State.afterIssue, (s.inName_parts n x _).1]
  dsimp only
  split
  · exact .inr rfl
  · exact .inl rfl

theorem State.threads_afterIssue (s : State) (n : Nat) (e : Engine) (c : Cmd) (st : Stream) (x : Entry) :
    ((s.afterIssue n e c st x).tile n).threads = ((s.ownPart n c st x).tile n).threads := by
  rcases s.tiles_afterIssue n e c st x with h | h
  · rw [State.tile, h]
    exact State.threads_issued _ _ _ _ _ _
  · rw [State.tile, h]
    exact (State.threads_askItem _ _ _).trans (State.threads_issued _ _ _ _ _ _)

/-! ## A vector command's entry as it issues (05 R163) -/

theorem State.entries_vector (s : State) (n : Nat) (st : Stream) : s.entries n .vector st = (s.queue n .vector st).entries := rfl

theorem State.setEntry_vector (s : State) (n : Nat) (st : Stream) (x : Entry) :
    s.setEntry n .vector st x = s.modQueue n .vector st fun q => { q with entries := replaceEntry x q.entries } := rfl

/-- The vector queue after an issue is the queue that the command's own part left, with the mark. -/
theorem State.queue_afterIssue_vector (s : State) (n : Nat) (c : Cmd) (st : Stream) (x : Entry) :
    ((s.afterIssue n .vector c st x).queue n .vector st).entries = markIn x.uid ((s.ownPart n c st x).queue n .vector st).entries := by
  have mark (y : Entry) (ready : List Stream) : (((s.ownPart n c st x).issued n .vector st y ready).queue n .vector st).entries =
      markIn y.uid ((s.ownPart n c st x).queue n .vector st).entries :=
    ((Quiet.issued _ n .vector st y ready).queue n .vector st).trans (State.entries_markIssued _ n .vector st y.uid)
  rcases s.tiles_afterIssue n .vector c st x with h | h
  · rw [State.queue_congr h]
    exact mark _ _
  · rw [State.queue_congr h, (Calm.askItem _ n st).queue]
    exact mark _ _

/-- Pages kept for snapshots and busy bits of registers apart, `t` has the memory, the arrays, the threads and the queues' entries of
`s`, and each tile other than n as it was. -/
structure IssueStays (n : Nat) (s t : State) : Prop where
  quiet : Quiet s t
  arrays : ArraysStay n s t
  threads : (t.tile n).threads = (s.tile n).threads

theorem IssueStays.preserveFor (s : State) (n : Nat) (w : Writer) (rs : List Range) : IssueStays n s (s.preserveFor w rs) where
  quiet := ⟨fun _ => rfl, rfl, [], (List.append_nil _).symm⟩
  arrays := ⟨rfl, fun _ _ => rfl, rfl⟩
  threads := rfl

theorem IssueStays.setBusy {s t : State} {n : Nat} (h : IssueStays n s t) (rs : List Nat) : IssueStays n s (t.setBusy n rs) where
  quiet := h.quiet.modTile fun _ => rfl
  arrays := h.arrays.trans (.modTile n t fun _ => rfl)
  threads := by
    refine (t.threads_modTile n ?_).trans h.threads
    exact fun _ => rfl

/-- The command's own part, as it issues, puts its entry back with the effects `fx`, and changes busy bits of registers at most. -/
def Carries (s : State) (n : Nat) (c : Cmd) (st : Stream) (x : Entry) (fx : List Effect) : Prop :=
  ∃ u latency, IssueStays n (s.named n x) u ∧
    s.ownPart n c st x = u.setEntry n .vector st (((s.named n x).dated n x).start latency fx)

section
variable {s : State} {n op : Nat} {c : Cmd} {st : Stream} {x : Entry} {ahead : List Entry} {fx : List Effect}

theorem Issues.mem_queue (h : Issues s n .vector op c st x ahead) : x ∈ (s.queue n .vector st).entries := by
  obtain ⟨-, rest, hl⟩ := s.head_eq_some h.head
  rw [← State.entries_vector, hl]
  simp

/-- The entry of a vector command that has issued carries the effects of its completion. -/
theorem Carries.entry (h : Carries s n c st x fx) (hx : x ∈ (s.queue n .vector st).entries) :
    ∃ y ∈ ((s.afterIssue n .vector c st x).queue n .vector st).entries, y.uid = x.uid ∧ y.issued = true ∧ y.effects = fx ∧
      y.word = x.word := by
  obtain ⟨u, latency, stays, run⟩ := h
  let z := ((s.named n x).dated n x).start latency fx
  have there : x ∈ (u.queue n .vector st).entries := by
    rw [((Quiet.named s n x).trans stays.quiet).queue]
    exact hx
  have put : z ∈ ((s.ownPart n c st x).queue n .vector st).entries := by
    rw [run, State.setEntry_vector, State.queue_modQueue]
    exact List.mem_map.mpr ⟨x, there, if_pos rfl⟩
  refine ⟨{ z with issued := true }, ?_, rfl, rfl, rfl, rfl⟩
  rw [State.queue_afterIssue_vector]
  exact List.mem_map.mpr ⟨z, put, if_pos rfl⟩

theorem Carries.arraysStay (h : Carries s n c st x fx) : ArraysStay n (s.named n x) (s.afterIssue n .vector c st x) := by
  obtain ⟨u, latency, stays, run⟩ := h
  refine .afterIssue ?_
  have part : ArraysStay n (s.named n x) (s.ownPart n c st x) := by
    rw [run]
    exact stays.arrays.trans (.setEntry _ n _ st _)
  exact part

theorem Carries.thread (h : Carries s n c st x fx) (v : Stream) : (s.afterIssue n .vector c st x).thread n v = s.thread n v := by
  obtain ⟨u, latency, stays, run⟩ := h
  rw [State.thread, State.threads_afterIssue, run, State.setEntry_vector, State.threads_modQueue, stays.threads]
  exact State.thread_congr (s.tiles_named n x) n v

/-- A vector command whose own part carries `fx` issues with it, and leaves memory, the threads and the other tiles alone. -/
theorem Carries.issues (h : Carries s n c st x fx) (hop : op ≠ 0xFF) (g : Issues s n .vector op c st x ahead) :
    ∃ t, issueRow .vector op c n st s = .next t ∧ t = s.afterIssue n .vector c st x ∧
      (∃ y ∈ (t.queue n .vector st).entries, y.uid = x.uid ∧ y.issued = true ∧ y.effects = fx ∧ y.word = x.word) ∧
      t.mem = s.mem ∧ (∀ u, t.thread n u = s.thread n u) ∧ (∀ m, m ≠ n → t.tile m = s.tile m) := by
  refine ⟨_, issueRow_of_issues g hop, rfl, h.entry g.mem_queue, h.arraysStay.mem.trans (s.mem_named n x), h.thread, fun m hm => ?_⟩
  rw [h.arraysStay.tiles m hm, State.tile, s.tiles_named, ← State.tile]

end

/-! ## The own parts of the vector commands (05 R167 to R176) -/

section
variable (s : State) (n : Nat) (st : Stream) (x : Entry)

theorem State.tileBytes_named (m off len : Nat) : (s.named n x).tileBytes m off len = s.tileBytes m off len := by
  rw [State.tileBytes, State.tileBytes, State.loadBytes, State.loadBytes, s.mem_named]

theorem State.vreg_named (m r : Nat) : (s.named n x).vreg m r = s.vreg m r := by
  rw [State.vreg, State.vreg, State.tile, State.tile, s.tiles_named]

theorem carries_cmdVld : Carries s n cmdVld st x
    ((vldVals (s.named n x) n x).map (fun p => .vreg p.1 p.2) ++ (vmemRegs x).map .unbusy) :=
  ⟨_, _, (IssueStays.preserveFor _ _ _ _).setBusy _, rfl⟩

theorem carries_cmdVst : Carries s n cmdVst st x ((vstStores (s.named n x) n st x).map fun p => .store p.1 p.2) :=
  ⟨_, _, .preserveFor _ _ _ _, rfl⟩

theorem carries_cmdEpload : Carries s n cmdEpload st x
    [.slot (x.pl 55 52) ((List.range 8).map fun i => leWord (s.tileBytes n (x.a0 + 4 * i) 4))
      ((List.range (x.pl 51 46 + 1)).map fun i => leWord (s.tileBytes n (x.a0 + 32 + 4 * i) 4)),
     .loadedFrom (300 + x.pl 55 52) (tileBase n + x.a0)] := by
  simp only [← s.tileBytes_named n x]
  exact ⟨_, _, .preserveFor _ _ _ _, rfl⟩

theorem carries_cmdEprog : Carries s n cmdEprog st x
    [.vreg (x.pl 46 42) (placed ((s.vreg n (x.pl 51 47)).mapIdx fun i v =>
      lget (epRun ((s.named n x).programOf n x) ((s.named n x).elemEnv n st x (i / 16) (i % 16) i) (epStart v 0)) 0 0) 0),
     .unbusy (x.pl 46 42)] := by
  rw [← s.vreg_named n x]
  exact ⟨_, _, (IssueStays.preserveFor _ _ _ _).setBusy _, rfl⟩

theorem carries_cmdVseed : Carries s n cmdVseed st x [.seed st (x.plb 55) (BitVec.ofNat 64 (x.a1 * 2 ^ 32 + x.a0))] :=
  ⟨_, _, .preserveFor _ _ _ _, rfl⟩

end

/-- Settles O24: what each command's own part puts into its entry, then the mark of the issue. -/
theorem vectorCommandsIssue : Obligations.VectorCommandsIssue := by
  intro s n st x ahead u issues
  refine ⟨?_, ?_, ?_, ?_, ?_, fun i hi h => ?_⟩
  · exact (carries_cmdVld s n st x).issues (by decide)
  · exact (carries_cmdVst s n st x).issues (by decide)
  · exact (carries_cmdEpload s n st x).issues (by decide)
  · exact (carries_cmdEprog s n st x).issues (by decide)
  · exact (carries_cmdVseed s n st x).issues (by decide)
  · simp only [List.mem_cons, List.not_mem_nil, or_false] at hi
    rcases hi with rfl | rfl | rfl
    all_goals exact issueRow_of_issues h (by decide)

end Sys2Proof.Machine

namespace Sys2Proof.Machine

/-! ## A command's entry as it issues -/

theorem State.queue_setEntry (s : State) (n : Nat) (e : Engine) (st : Stream) (x : Entry) :
    ((s.setEntry n e st x).queue n e st).entries = replaceEntry x (s.queue n e st).entries := by
  unfold State.setEntry
  dsimp only
  split
  · rw [State.queue_modTile _ _ _ _ _ _ rfl, State.queue_modQueue]
  · rw [State.queue_modQueue]

theorem State.queue_markIssued (s : State) (n : Nat) (e : Engine) (st : Stream) (uid : Nat) :
    ((s.markIssued n e st uid).queue n e st).entries = markIn uid (s.queue n e st).entries := by
  unfold State.markIssued
  dsimp only
  split
  · rw [State.queue_modTile _ _ _ _ _ _ rfl, State.queue_modQueue]
  · rw [State.queue_modQueue]

/-- The queue after an issue is the queue that the command's own part left, with the mark. -/
theorem State.queue_afterIssue (s : State) (n : Nat) (e : Engine) (c : Cmd) (st : Stream) (x : Entry) :
    ((s.afterIssue n e c st x).queue n e st).entries = markIn x.uid ((s.ownPart n c st x).queue n e st).entries := by
  have mark (y : Entry) (ready : List Stream) : (((s.ownPart n c st x).issued n e st y ready).queue n e st).entries =
      markIn y.uid ((s.ownPart n c st x).queue n e st).entries :=
    ((Quiet.issued _ n e st y ready).queue n e st).trans (State.queue_markIssued _ n e st y.uid)
  rcases s.tiles_afterIssue n e c st x with h | h
  · rw [State.queue_congr h]
    exact mark _ _
  · rw [State.queue_congr h, (Calm.askItem _ n st).queue]
    exact mark _ _

/-- The state in which the own part of a command begins: pages of snapshots kept (06 R216). -/
def State.issueStart (s : State) (n : Nat) (c : Cmd) (st : Stream) (x : Entry) : State :=
  let u := s.named n x
  u.preserveFor (writerOf u n st) (c.writes u n st (u.dated n x))

theorem State.ownPart_eq_run (s : State) (n : Nat) (c : Cmd) (st : Stream) (x : Entry) :
    s.ownPart n c st x = c.run (s.issueStart n c st x) n st ((s.named n x).dated n x) := rfl

theorem Quiet.issueStart (s : State) (n : Nat) (c : Cmd) (st : Stream) (x : Entry) : Quiet s (s.issueStart n c st x) :=
  (Quiet.named s n x).trans (IssueStays.preserveFor _ n _ _).quiet

/-- Where a command's own part only puts its entry back as `z`, its entry has issued as `z`. -/
theorem State.mem_queue_afterIssue {s : State} {n : Nat} {e : Engine} {c : Cmd} {st : Stream} {x z : Entry}
    (run : s.ownPart n c st x = (s.issueStart n c st x).setEntry n e st z) (hz : z.uid = x.uid)
    (hx : x ∈ (s.queue n e st).entries) :
    { z with issued := true } ∈ ((s.afterIssue n e c st x).queue n e st).entries := by
  have put : z ∈ ((s.ownPart n c st x).queue n e st).entries := by
    rw [run, State.queue_setEntry, (Quiet.issueStart s n c st x).queue]
    exact List.mem_map.mpr ⟨x, hx, if_pos hz.symm⟩
  rw [State.queue_afterIssue]
  exact List.mem_map.mpr ⟨z, put, if_pos hz⟩

theorem State.entries_of_ne_matrix (s : State) (n : Nat) {e : Engine} (st : Stream) (he : e ≠ .matrix) :
    s.entries n e st = (s.queue n e st).entries := by
  cases e
  case matrix => exact absurd rfl he
  all_goals rfl

/-- The command that issues is one of its queue, where that is no queue of the matrix engine, whose list runs have their own. -/
theorem Issues.mem_entries {s : State} {n op : Nat} {e : Engine} {c : Cmd} {st : Stream} {x : Entry} {ahead : List Entry}
    (h : Issues s n e op c st x ahead) (he : e ≠ .matrix) : x ∈ (s.queue n e st).entries := by
  obtain ⟨-, rest, hl⟩ := s.head_eq_some h.head
  rw [← s.entries_of_ne_matrix n st he, hl]
  simp

/-! ## A command that is refused (02 R66) -/

/-- A head that its engine refuses halts its stream. -/
theorem issueRow_of_refusal {s : State} {n op : Nat} {e : Engine} {c : Cmd} {st : Stream} {x : Entry} {ahead : List Entry} {b : Bad}
    (hn : n < 2048) (runs : s.streamRuns n st = true) (head : s.head n e st = some (x, ahead)) (skip : x.skip = false)
    (hx : x.op = op) (hop : op ≠ 0xFF) (settled : c.settled (s.named n x) n st x = true)
    (ordered : hazard ahead (c.reads (s.named n x) n st x) = false) (refused : (s.named n x).refusalAt n st x c = some b) :
    issueRow e op c n st s = .next (s.inName n x fun u => u.cmdHalt n e st x b) := by
  have nop : ¬op = opNop := hop
  have halts : s.inName n x (fun u => u.issueHead n e st c (fun s _ => s) x ahead) =
      s.inName n x fun u => u.cmdHalt n e st x b := by
    refine State.inName_congr ?_
    simp only [State.issueHead, settled, ordered, refused, Bool.not_true, Bool.or_self, Bool.false_eq_true, if_false]
  unfold issueRow issueWith
  simp only [hn, if_true, runs, head, skip, Bool.false_or, decide_eq_true_eq, hx, nop, if_false, halts]

/-- The halt of a command whose stream holds no valid record names the command's reason. -/
theorem State.inName_cmdHalt {s : State} {n : Nat} {st : Stream} (e : Engine) (x : Entry) {b : Bad} (hn : n < 2048)
    (hb : b.reason < 256) (fresh : recordValid ((s.tile n).records.get st) = false) :
    let t := s.inName n x fun u => u.cmdHalt n e st x b
    (t.thread n st).run = .halt ∧ recordReason ((t.tile n).records.get st) = b.reason := by
  intro t
  have tile : (s.named n x).tile n = s.tile n := by rw [State.tile, s.tiles_named, ← State.tile]
  have tiles : t.tiles = ((s.named n x).cmdHalt n e st x b).tiles := (s.inName_parts n x _).1
  have halted : Halted (s.named n x) ((s.named n x).cmdHalt n e st x b) n st b.reason (engineNo e) :=
    halted_halt _ n st _ hn hb (engineNo_lt e) (by rw [tile]; exact fresh)
  rw [State.thread_congr tiles, State.tile, tiles]
  exact ⟨halted.run, halted.reason⟩

/-! ## The update unit (06 R201 to R214) -/

/-- A command of the update unit: its first check is of its stream. -/
def UpdateOnly (c : Cmd) : Prop := ∀ s n st x, ∃ rest, c.bad s n st x = orBad (updOnly st) rest

theorem updateOnly_cmdOptcfg : UpdateOnly cmdOptcfg := fun _ _ _ _ => ⟨_, rfl⟩
theorem updateOnly_cmdOptstep : UpdateOnly cmdOptstep := fun _ _ _ _ => ⟨_, rfl⟩
theorem updateOnly_cmdAmaxstep : UpdateOnly cmdAmaxstep := fun _ _ _ _ => ⟨_, rfl⟩
theorem updateOnly_cmdSnap : UpdateOnly cmdSnap := fun _ _ _ _ => ⟨_, rfl⟩

theorem UpdateOnly.refusalAt {c : Cmd} (h : UpdateOnly c) (s : State) (n : Nat) {st : Stream} (x : Entry) (hst : st ≠ .upd) :
    s.refusalAt n st x c = some badState := by
  obtain ⟨rest, hb⟩ := h s n st x
  rw [State.refusalAt, State.issueBad, hb, updOnly, if_neg hst]
  rfl

section
variable {s : State} {n op : Nat} {c : Cmd} {st : Stream} {x : Entry} {ahead : List Entry}

theorem UpdateOnly.stream (h : UpdateOnly c) (g : Issues s n .mover op c st x ahead) : st = .upd := by
  by_contra hst
  have refused := h.refusalAt (s.named n x) n x hst
  rw [g.allowed] at refused
  cases refused

/-- On another stream a command of the update unit halts the stream with 0x20. -/
theorem UpdateOnly.halts (h : UpdateOnly c) (hn : n < 2048) (runs : s.streamRuns n st = true)
    (head : s.head n .mover st = some (x, ahead)) (skip : x.skip = false) (hx : x.op = op) (hop : op ≠ 0xFF) (hst : st ≠ .upd)
    (settled : c.settled (s.named n x) n st x = true) (ordered : hazard ahead (c.reads (s.named n x) n st x) = false)
    (fresh : recordValid ((s.tile n).records.get st) = false) :
    ∃ t, issueRow .mover op c n st s = .next t ∧ (t.thread n st).run = .halt ∧
      recordReason ((t.tile n).records.get st) = 0x20 :=
  ⟨_, issueRow_of_refusal hn runs head skip hx hop settled ordered (h.refusalAt _ n x hst),
    State.inName_cmdHalt .mover x hn (by decide) fresh⟩

theorem ownPart_cmdOptcfg (s : State) (n : Nat) (st : Stream) (x : Entry) : s.ownPart n cmdOptcfg st x =
    (s.issueStart n cmdOptcfg st x).setEntry n .mover st (((s.named n x).dated n x).start 1
      [.optDesc (x.pl 55 53) (BitVec.ofNat 512 (s.tileNat n x.a0 64)), .loadedFrom (100 + x.pl 55 53) (tileBase n + x.a0)]) := by
  have bytes : s.tileNat n x.a0 64 = (s.issueStart n cmdOptcfg st x).tileNat n x.a0 64 := by
    rw [State.tileNat, ← s.tileBytes_named n x]
    rfl
  rw [bytes]
  rfl

theorem ownPart_cmdOptstep_of_skips (s : State) (n : Nat) (st : Stream) (x : Entry)
    (skips : (s.named n x).optSkips n ((s.named n x).oBlock n x) = true) :
    s.ownPart n cmdOptstep st x =
      (s.issueStart n cmdOptstep st x).setEntry n .mover st (((s.named n x).dated n x).start 4 []) :=
  if_pos skips

/-- OPTCFG's entry has issued with its descriptor, as its store held it (06 R202). -/
theorem entry_afterIssue_cmdOptcfg (g : Issues s n .mover op cmdOptcfg st x ahead) :
    ∃ y ∈ ((s.afterIssue n .mover cmdOptcfg st x).queue n .mover st).entries, y.uid = x.uid ∧ y.effects =
      [.optDesc (x.pl 55 53) (BitVec.ofNat 512 (s.tileNat n x.a0 64)), .loadedFrom (100 + x.pl 55 53) (tileBase n + x.a0)] :=
  ⟨_, State.mem_queue_afterIssue (ownPart_cmdOptcfg s n st x) rfl (g.mem_entries (by decide)), rfl, rfl⟩

/-- OPTSTEP's entry has issued with nothing to do where its expert is absent under policy 0 (06 R208). -/
theorem entry_afterIssue_cmdOptstep (g : Issues s n .mover op cmdOptstep st x ahead)
    (skips : (s.named n x).optSkips n ((s.named n x).oBlock n x) = true) :
    ∃ y ∈ ((s.afterIssue n .mover cmdOptstep st x).queue n .mover st).entries, y.uid = x.uid ∧ y.effects = [] :=
  ⟨_, State.mem_queue_afterIssue (ownPart_cmdOptstep_of_skips s n st x skips) rfl (g.mem_entries (by decide)), rfl, rfl⟩

end

/-- Settles O27: the stream is each command's first check; OPTCFG's and OPTSTEP's entries by their own parts. -/
theorem updateCommandsIssue : Obligations.UpdateCommandsIssue := by
  intro s n st x ahead i hi
  have unit : UpdateOnly i.2.2 ∧ i.2.1 ≠ 0xFF ∧ exec i.1 s = issueRow .mover i.2.1 i.2.2 n st s ∧
      (i.2.1 = 0x40 → i.2.2 = cmdOptcfg) ∧ (i.2.1 = 0x41 → i.2.2 = cmdOptstep) := by
    simp only [List.mem_cons, List.not_mem_nil, or_false] at hi
    rcases hi with rfl | rfl | rfl | rfl
    · exact ⟨updateOnly_cmdOptcfg, by simp, rfl, fun _ => rfl, by simp⟩
    · exact ⟨updateOnly_cmdOptstep, by simp, rfl, by simp, fun _ => rfl⟩
    · exact ⟨updateOnly_cmdAmaxstep, by simp, rfl, by simp, by simp⟩
    · exact ⟨updateOnly_cmdSnap, by simp, rfl, by simp, by simp⟩
  obtain ⟨only, hop, row, optcfg, optstep⟩ := unit
  refine ⟨fun h => ⟨only.stream h, row.trans (issueRow_of_issues h hop)⟩, ?_, fun hi h => ?_, fun hi h skips => ?_⟩
  · intro hn runs head skip hx hst settled ordered fresh
    rw [row]
    exact only.halts hn runs head skip hx hop hst settled ordered fresh
  · rw [optcfg hi] at h ⊢
    exact entry_afterIssue_cmdOptcfg h
  · rw [optstep hi] at h ⊢
    exact entry_afterIssue_cmdOptstep h skips

end Sys2Proof.Machine

namespace Sys2Proof.Machine

/-! ## Uncorrectable errors leave the queues alone (13 R399, R415) -/

namespace Quiet

theorem haltAll (s : State) (c : Nat) (h : Halt) : Quiet s (s.haltAll c h) :=
  foldl (fun _ _ => foldl (fun _ _ => ite (refl _) (halt _ _ _ _)) _ _) _ _

theorem stopContext (s : State) (c reason seq : Nat) : Quiet s (s.stopContext c reason seq) :=
  of_keeps (State.stopContext_keeps _ _ _ _ (Keeps.refl s) rfl rfl)

theorem trouble (s : State) (t : Trouble) : Quiet s { s with trouble := t } := ⟨fun _ => rfl, rfl, [], (List.append_nil _).symm⟩

theorem ite_stop {s u : State} {p : Prop} [Decidable p] (met : Quiet s u) (c reason seq : Nat) (h : Halt) :
    Quiet s (if p then (u.haltAll c h).stopContext c reason seq else u) :=
  ite (met.trans ((haltAll u c h).trans (stopContext _ c reason seq))) met

theorem ueAt (s : State) (f : Finder) (a place unit source : Nat) (owner : Option Nat) (wherecode : Nat) :
    Quiet s (s.ueAt f a place unit source owner wherecode) := by
  unfold State.ueAt
  dsimp only
  generalize hu : State.alarm _ _ _ _ _ = u
  have told : Quiet s u := by
    rw [← hu]
    exact (trouble s _).trans (alarm _ _ _ _ _)
  cases owner with
  | none => exact told
  | some c =>
    refine ite told (told.trans (ite_stop ?_ _ _ _ _))
    cases f with
    | command t st h => exact ite (halt u t st _) (refl u)
    | _ => exact refl u

theorem ueError (s : State) (f : Finder) (a : Nat) (owner : Option Nat) (wherecode : Nat) :
    Quiet s (s.ueError f a owner wherecode) := by
  unfold State.ueError
  split
  · exact ueAt _ _ _ _ _ _ _ _
  · exact ueAt _ _ _ _ _ _ _ _

end Quiet

/-! ## A write leaves the commands of every tile -/

/-- What every step of a fold leaves, the fold leaves. -/
theorem foldl_preserves {α β : Type} {g : State → β} {f : State → α → State} (h : ∀ s a, g (f s a) = g s) (l : List α)
    (s : State) : g (l.foldl f s) = g s := by
  induction l generalizing s with
  | nil => rfl
  | cons a l ih => rw [List.foldl_cons, ih, h]

section
variable (s : State) (m : Nat)

theorem State.held_write (w : Writer) (a : Nat) (bytes : List Byte) : ((s.write w a bytes).tile m).held = (s.tile m).held :=
  State.held_storeBytes (s.preserve w a bytes) a bytes m

theorem State.held_writeHome (w : Writer) (a : Nat) (bs : List Byte) : ((s.writeHome w a bs).tile m).held = (s.tile m).held := by
  refine foldl_preserves (g := fun u => (u.tile m).held) (fun u p => ?_) _ s
  split
  · rfl
  · exact u.held_write m w _ _

theorem State.held_writeChecked (f : Finder) (w : Writer) (a : Nat) (bs : List Byte) :
    ((s.writeChecked f w a bs).tile m).held = (s.tile m).held := by
  unfold State.writeChecked
  dsimp only
  split
  · exact ((Quiet.ueError _ _ _ _ _).held m).trans (s.held_writeHome m w a bs)
  · exact s.held_writeHome m w a bs

theorem State.held_storeTo (n : Nat) {e : Engine} (he : e ≠ .mover) (st : Stream) (x : Entry) (dev a : Nat) (bytes : List Byte) :
    ((s.storeTo n e st x dev a bytes).tile m).held = (s.tile m).held := by
  unfold State.storeTo
  dsimp only
  rw [if_neg he]
  refine (foldl_preserves (g := fun u => (u.tile m).held) (fun u p => ?_) _ _).trans
    (foldl_preserves (g := fun u => (u.tile m).held) (fun u p => u.held_writeChecked m _ _ _ _) _ s)
  split
  · exact ((Quiet.fresh u).trans (Quiet.request _ _ _ _ _ _ _)).held m
  · exact (((Quiet.fresh u).trans (Quiet.owe _ _ _ _ _ _ _)).trans (Quiet.send _ _)).held m

end

/-! ## What the route unit's own steps leave (07 R235, R236, R243 to R250) -/

namespace Quiet

theorem modLayer (s : State) (n k : Nat) (f : Layer → Layer) : Quiet s (s.modLayer n k f) := (refl s).modTile fun _ => rfl

theorem setReplica (s : State) (n : Nat) (r : Replica) : Quiet s (s.setReplica n r) := by
  unfold State.setReplica
  dsimp only
  refine (refl s).modTile ?_
  exact fun _ => rfl

theorem setList (s : State) (leader key : Nat) (w : WorkList) : Quiet s (s.setList leader key w) := by
  refine (refl s).modTile ?_
  exact fun _ => rfl

theorem rwAnswer (s : State) (leader : Nat) (empty : Bool) (f : Fetcher) : Quiet s (s.rwAnswer leader empty f) := send s _

theorem rowSend (s : State) (n : Nat) (st : Stream) (x : Entry) (dst : Place) (b : Body) : Quiet s (s.rowSend n st x dst b) :=
  (owe s _ _ _ _ _ _).trans (send _ _)

theorem sendRow (s : State) (n : Nat) (st : Stream) (x : Entry) (back : Bool) (batch tok choice : Nat) (c : Choice)
    (bytes : List Byte) : Quiet s (s.sendRow n st x back batch tok choice c bytes) := rowSend s _ _ _ _ _

theorem sendCloses (s : State) (n : Nat) (st : Stream) (x : Entry) (back : Bool) (batch round : Nat) (count : Nat → Nat → Nat) :
    Quiet s (s.sendCloses n st x back batch round count) :=
  foldl (fun u _ => send u _) _ _

theorem makePieces (s : State) (n dev : Nat) (rs : List Range) : Quiet s (s.makePieces n dev rs).1 :=
  of_keeps (State.makePieces_keeps _ _ _ _ (Keeps.refl s))

theorem pieceSend (s : State) (n : Nat) (e : Engine) (st : Stream) (x : Entry) (p : Piece) : Quiet s (s.pieceSend n e st x p) :=
  ite (request _ _ _ _ _ _ _) (send _ _)

end Quiet

/-! ## The names in a queue -/

/-- The commands of a queue, by name. -/
def State.names (s : State) (n : Nat) (e : Engine) (st : Stream) : List Nat := (s.queue n e st).entries.map (·.uid)

section
variable {s t u : State} {n : Nat} {e : Engine} {st : Stream}

theorem State.names_of_held (h : (t.tile n).held = (s.tile n).held) : t.names n e st = s.names n e st :=
  congrArg (List.map _) (congrFun (congrFun (congrArg Prod.fst h) e) st)

theorem Quiet.names (h : Quiet s t) : t.names n e st = s.names n e st := State.names_of_held (h.held n)

/-- An entry put back keeps its name. -/
theorem State.names_setEntry (s : State) (n : Nat) (e : Engine) (st : Stream) (x : Entry) :
    (s.setEntry n e st x).names n e st = s.names n e st := by
  rw [State.names, State.queue_setEntry, replaceEntry, List.map_map]
  refine List.map_congr_left fun y _ => ?_
  by_cases h : y.uid = x.uid
  · rw [Function.comp_apply, if_pos h, h]
  · rw [Function.comp_apply, if_neg h]

theorem Quiet.names_setEntry (h : Quiet s u) (x : Entry) : (u.setEntry n e st x).names n e st = s.names n e st :=
  (State.names_setEntry u n e st x).trans h.names

theorem State.names_pumpEntry (s : State) (n : Nat) (e : Engine) (st : Stream) (x : Entry) :
    (s.pumpEntry n e st x).names n e st = s.names n e st :=
  (Quiet.names (.foldl (fun u p => .pieceSend u n e st x p) _ _)).trans (s.names_setEntry n e st _)

end

/-! ## The own parts of the route unit's commands keep the names of their queue (07 R220 to R253) -/

/-- The own part of a route command drops no command and brings none into its stream's queue. -/
def KeepsNames (c : Cmd) : Prop := ∀ s n st x, (c.run s n st x).names n .route st = s.names n .route st

theorem keepsNames_cmdRtcfg : KeepsNames cmdRtcfg := fun s _ _ _ => (Quiet.refl s).names_setEntry _

theorem keepsNames_cmdRqopen : KeepsNames cmdRqopen := fun s _ _ _ => (Quiet.modLayer s _ _ _).names_setEntry _

theorem keepsNames_cmdRoute : KeepsNames cmdRoute := by
  intro s n st x
  refine Quiet.names_setEntry (((Quiet.modLayer s n _ _).modTile ?_).trans (.foldl (fun u _ => ?_) _ _)) _
  · exact fun _ => rfl
  · exact .sendRow u _ _ _ _ _ _ _ _ _

theorem keepsNames_cmdRqclose : KeepsNames cmdRqclose := by
  intro s n st x
  unfold cmdRqclose
  dsimp only
  split
  · exact (Quiet.sendCloses s _ _ _ _ _ _ _).names_setEntry _
  · have stored := s.held_storeTo n n (e := .route) (by decide) st x s.deviceNumber (s.countAt n (s.layerDesc n x))
      (s.countRow n (s.layerDesc n x) (s.layer n (rSlot x)))
    refine (Quiet.names_setEntry ((Quiet.sendCloses _ _ _ _ _ _ _ _).modTile ?_) _).trans (State.names_of_held stored)
    exact fun _ => rfl

theorem keepsNames_cmdRbound : KeepsNames cmdRbound := fun s _ _ _ =>
  (((Quiet.foldl (fun _ _ => .sendRow _ _ _ _ _ _ _ _ _ _) _ s).trans (.sendCloses _ _ _ _ _ _ _ _)).trans
    (.modLayer _ _ _ _)).names_setEntry _

theorem keepsNames_cmdRcomb : KeepsNames cmdRcomb := fun s _ _ _ => (Quiet.refl s).names_setEntry _

theorem keepsNames_cmdRback : KeepsNames cmdRback := fun s _ _ _ =>
  ((Quiet.foldl (fun _ _ => .sendRow _ _ _ _ _ _ _ _ _ _) _ s).trans (.modLayer _ _ _ _)).names_setEntry _

theorem keepsNames_cmdRgrad : KeepsNames cmdRgrad := fun s _ _ _ => (Quiet.refl s).names_setEntry _

theorem keepsNames_cmdRxopen : KeepsNames cmdRxopen := by
  intro s n st x
  refine Quiet.names_setEntry ((Quiet.refl s).modTile ?_) _
  exact fun _ => rfl

theorem State.names_rwBegin (s : State) (n : Nat) (st : Stream) (x : Entry) :
    (s.rwBegin n st x).names n .route st = s.names n .route st :=
  (State.names_pumpEntry _ n .route st _).trans (Quiet.makePieces s _ _ _).names

theorem keepsNames_cmdRwget : KeepsNames cmdRwget := by
  intro s n st x
  unfold cmdRwget
  dsimp only
  have registered (y : Entry) (b : Body) (dst : Place) :
      ((s.setEntry n .route st y).cmdSend n .route st x dst b).names n .route st = s.names n .route st :=
    (Quiet.send _ _).names.trans (s.names_setEntry n .route st y)
  split
  · exact (State.names_rwBegin _ n st _).trans (registered _ _ _)
  · exact registered _ _ _

theorem keepsNames_cmdRxwait : KeepsNames cmdRxwait := by
  intro s n st x
  unfold cmdRxwait
  dsimp only
  split
  · rfl
  · exact ((Quiet.setReplica s n _).trans (.ite (.foldl (fun _ _ => .rwAnswer _ _ _ _) _ _) (.refl _))).names_setEntry _

theorem keepsNames_cmdRxexpand : KeepsNames cmdRxexpand := by
  intro s n st x
  unfold cmdRxexpand
  dsimp only
  have stored (z : Entry) (l : List (Nat × BitVec 512)) : (l.foldl (fun v p => v.storeTo n .route st x v.deviceNumber p.1 (itemBytes p.2))
      (s.setEntry n .route st z)).names n .route st = s.names n .route st :=
    (foldl_preserves (g := fun v => v.names n .route st)
      (fun v p => State.names_of_held (v.held_storeTo n n (by decide) st x _ _ _)) l _).trans (s.names_setEntry n .route st z)
  split
  · exact (Quiet.setList _ n _ _).names.trans (stored _ _)
  · exact stored _ _

theorem keepsNames_cmdRsend : KeepsNames cmdRsend := by
  intro s n st x
  unfold cmdRsend
  dsimp only
  split
  · rfl
  · exact (Quiet.foldl (fun _ _ => .ite (.rowSend _ _ _ _ _ _) (.refl _)) _ s).names_setEntry _

/-! ## Memory as a command issues -/

/-- Where a command's own part leaves memory alone, so does its issue. -/
theorem State.mem_afterIssue {c : Cmd} (h : CmdKeeps { mem := true } c) (s : State) (n : Nat) (e : Engine) (st : Stream) (x : Entry) :
    (s.afterIssue n e c st x).mem = s.mem := by
  have part : (s.ownPart n c st x).mem = s.mem :=
    ((h.run _ _ n st _ (Keeps.refl (s.issueStart n c st x))).same.mem rfl).trans (Quiet.issueStart s n c st x).mem
  have marked (y : Entry) (ready : List Stream) : ((s.ownPart n c st x).issued n e st y ready).mem = s.mem :=
    (((State.issued_keeps (pt := { mem := true }) _ n e st y ready (Keeps.refl _) rfl rfl rfl).same.mem rfl)).trans part
  rw [State.afterIssue, (s.inName_parts n x _).2.1]
  dsimp only
  split
  · exact (Calm.askItem _ n st).mem.trans (marked _ _)
  · exact marked _ _

section
variable {s : State} {n op : Nat} {c : Cmd} {st : Stream} {x : Entry} {ahead : List Entry}

/-- The entry of a route command that has issued is marked. -/
theorem KeepsNames.marked (names : KeepsNames c) (h : Issues s n .route op c st x ahead) :
    ∃ y ∈ ((s.afterIssue n .route c st x).queue n .route st).entries, y.uid = x.uid ∧ y.issued = true := by
  have there : x.uid ∈ (s.ownPart n c st x).names n .route st := by
    rw [State.ownPart_eq_run, names, (Quiet.issueStart s n c st x).names]
    exact List.mem_map_of_mem (h.mem_entries (by decide))
  obtain ⟨y, hy, uid⟩ := List.mem_map.mp there
  rw [State.queue_afterIssue]
  exact ⟨{ y with issued := true }, List.mem_map.mpr ⟨y, hy, if_pos uid⟩, uid, rfl⟩

/-- A route command that keeps the names of its queue issues with its mark, and leaves memory alone where its own part does. -/
theorem KeepsNames.issues (names : KeepsNames c) (hop : op ≠ 0xFF) (keeps : op ≠ 0x04 → op ≠ 0x13 → CmdKeeps { mem := true } c)
    (h : Issues s n .route op c st x ahead) : ∃ t, issueRow .route op c n st s = .next t ∧ t = s.afterIssue n .route c st x ∧
      (∃ y ∈ (t.queue n .route st).entries, y.uid = x.uid ∧ y.issued = true) ∧ (op ≠ 0x04 → op ≠ 0x13 → t.mem = s.mem) :=
  ⟨_, issueRow_of_issues h hop, rfl, names.marked h, fun close expand => s.mem_afterIssue (keeps close expand) n .route st x⟩

end

/-- Settles O28: each command's own part keeps the names of its queue, and memory, but for RQCLOSE and RXEXPAND. -/
theorem routeCommandsIssue : Obligations.RouteCommandsIssue := by
  intro s n st x ahead i hi h
  simp only [List.mem_cons, List.not_mem_nil, or_false] at hi
  rcases hi with rfl | rfl | rfl | rfl | rfl | rfl | rfl | rfl | rfl | rfl | rfl | rfl | rfl
  · exact keepsNames_cmdRtcfg.issues (by simp) (fun _ _ => cmdRtcfg_keeps rfl) h
  · exact keepsNames_cmdRqopen.issues (by simp) (fun _ _ => cmdRqopen_keeps rfl) h
  · exact keepsNames_cmdRoute.issues (by simp) (fun _ _ => cmdRoute_keeps rfl rfl) h
  · exact keepsNames_cmdRqclose.issues (by simp) (fun close _ => absurd rfl close) h
  · exact keepsNames_cmdRbound.issues (by simp) (fun _ _ => cmdRbound_keeps rfl rfl) h
  · exact keepsNames_cmdRcomb.issues (by simp) (fun _ _ => cmdRcomb_keeps rfl) h
  · exact keepsNames_cmdRback.issues (by simp) (fun _ _ => cmdRback_keeps rfl rfl) h
  · exact keepsNames_cmdRgrad.issues (by simp) (fun _ _ => cmdRgrad_keeps rfl) h
  · exact keepsNames_cmdRxopen.issues (by simp) (fun _ _ => cmdRxopen_keeps rfl) h
  · exact keepsNames_cmdRwget.issues (by simp) (fun _ _ => cmdRwget_keeps rfl rfl rfl rfl rfl) h
  · exact keepsNames_cmdRxwait.issues (by simp) (fun _ _ => cmdRxwait_keeps rfl rfl) h
  · exact keepsNames_cmdRxexpand.issues (by simp) (fun _ expand => absurd rfl expand) h
  · exact keepsNames_cmdRsend.issues (by simp) (fun _ _ => cmdRsend_keeps rfl rfl) h

end Sys2Proof.Machine

namespace Sys2Proof.Machine

/-! ## The shipping of a snapshot (06 R216, R217) -/

/-- A team's snapshot as it goes on. -/
def State.putSnap (s : State) (team : Nat) (sn : Snap) : State := { s with snaps := tset team sn s.snaps }

/-- A page as a snapshot ships it: as it was kept, or as it stands. -/
def State.shippedPage (s : State) (sn : Snap) (p : Nat) : List Byte := (tfind p sn.preserved).getD (s.loadBytes (p * 4096) 4096)

/-- A snapshot that nothing holds back: its leader runs, its context is not being reset, and its members have all completed. -/
structure Ships (s : State) (team : Nat) (sn : Snap) : Prop where
  small : team < 4096
  there : tfind team s.snaps = some sn
  alive : s.alive (teamLeader (s.team team)) = true
  runs : s.notResetting sn.ctx = true
  members : (s.teamTiles team).all sn.done.contains = true

namespace Ships
variable {s : State} {team : Nat} {sn : Snap} (h : Ships s team sn)
include h

theorem exec_page {p : Nat} (page : (snapPages sn)[sn.shipped]? = some p)
    (clean : tfind p sn.preserved = none → s.badBlock (p * 4096) 4096 = none) :
    exec (.snapShip team) s =
      .next ((s.shipTo (teamLeader (s.team team)) sn (4096 * sn.shipped) (s.shippedPage sn p)).putSnap team
        { sn with shipped := sn.shipped + 1, preserved := terase p sn.preserved, bytes := sn.bytes ++ s.shippedPage sn p }) := by
  have whole : (if (tfind p sn.preserved).isSome then none else s.badBlock (p * 4096) 4096) = none := by
    split
    · rfl
    · next kept => exact clean (by simpa using kept)
  simp [exec, execSnapShip, Nat.not_le_of_lt h.small, h.there, h.alive, h.runs, h.members, page, whole, State.putSnap,
    State.shippedPage]

theorem exec_end (page : (snapPages sn)[sn.shipped]? = none) (ended : sn.ended = false) :
    exec (.snapShip team) s =
      .next ((s.shipTo (teamLeader (s.team team)) sn (4096 * sn.shipped) (endRecord sn)).putSnap team { sn with ended := true }) := by
  simp [exec, execSnapShip, Nat.not_le_of_lt h.small, h.there, h.alive, h.runs, h.members, page, ended, State.putSnap]

theorem exec_done (page : (snapPages sn)[sn.shipped]? = none) (ended : sn.ended = true)
    (shut : s.shipOpen (teamLeader (s.team team)) sn = false) :
    let t := s.signalFrom (teamLeader (s.team team)) .mover .upd sn.asEntry 2 (bits sn.desc.toNat 429 414) 0 1
    exec (.snapShip team) s = .next { t with snaps := terase team t.snaps } := by
  simp [exec, execSnapShip, Nat.not_le_of_lt h.small, h.there, h.alive, h.runs, h.members, page, ended, shut]

end Ships

/-- What is shipped to the host leaves by a host write. -/
theorem State.sent_shipTo_host (s : State) (leader : Nat) {sn : Snap} (off : Nat) (bytes : List Byte) (host : snKind sn.desc.toNat = 0) :
    (s.shipTo leader sn off bytes).sent = .hostWrite (s.ctx sn.ctx).function (snDest sn.desc.toNat + off) bytes :: s.sent := by
  simp [State.shipTo, host]

/-- Which blocks are uncorrectable does not depend on where patrol scrub stands. -/
theorem State.badBlock_moveScrub (s : State) (places : Table Nat) (a n : Nat) :
    State.badBlock { s with scrubAt := places } a n = s.badBlock a n := rfl

/-- Patrol scrub of a channel in use whose next block is clean only moves on (09 R291). -/
theorem exec_patrolScrub_of_clean {s : State} {die channel k : Nat} {far : Bool} (hdie : die < 8) (hchannel : channel < 16)
    (serves : s.serving = true) (used : (s.usedChannels die far).findIdx? (· = channel) = some k) :
    let key := 16 * (2 * die + b2n far) + channel
    s.badBlock (channelAddr far die (s.usedChannels die far).length k (64 * tget 0 key s.scrubAt)) 64 = none →
    exec (.patrolScrub die far channel .clean) s =
      .next { s with scrubAt := tset key ((tget 0 key s.scrubAt + 1) % (channelBytes far / 64)) s.scrubAt } := by
  intro key clean
  have place : ¬(8 ≤ die ∨ 16 ≤ channel) := by omega
  simp only [exec, execPatrolScrub, if_neg place, used, serves, State.eccCheck, State.badBlock_moveScrub]
  rw [clean]
  rfl

/-- Settles O46: the shipping's three steps, and a scrub whose block is clean. -/
theorem snapshotsShipAndScrubWalks : Obligations.SnapshotsShipAndScrubWalks := by
  refine ⟨?_, fun s die channel k far hdie hchannel serves used => exec_patrolScrub_of_clean hdie hchannel serves used⟩
  intro s team sn small there leader alive runs members
  have ships : Ships s team sn := ⟨small, there, alive, runs, members⟩
  refine ⟨fun p page => ?_, fun page ended => ?_, fun page ended shut => ?_⟩
  · intro bytes clean
    exact ⟨_, _, ships.exec_page page clean, tfind_tset_self _ _ _, rfl, rfl, tfind_terase_self _ _,
      s.sent_shipTo_host leader _ bytes⟩
  · exact ⟨_, _, ships.exec_end page ended, tfind_tset_self _ _ _, rfl, s.sent_shipTo_host leader _ (endRecord sn)⟩
  · obtain ⟨q, cyc, net, -, dst, body⟩ := s.signalFrom_sends leader .mover .upd sn.asEntry 2 (bits sn.desc.toNat 429 414) 0 1
    exact ⟨_, q, ships.exec_done page ended shut, tfind_terase_self _ _, net,
      (Quiet.signalFrom s leader .mover .upd sn.asEntry 2 _ 0 1).mem, dst, cyc, body⟩

end Sys2Proof.Machine

namespace Sys2Proof.Machine

/-! ## What arrives at a route unit (07 R236, R239, R247, R250) -/

/-! ### The rows' bytes -/

/-- The state once a packet's rows are written at their places in the tile's store. -/
def State.landed (s : State) (p : Packet) (rows : List (Nat × List Byte)) : State :=
  rows.foldl (fun s r => s.writeHome p.writer (tileBase p.at + r.1) r.2) s

/-- A row that may be written here, and meets no uncorrectable block. -/
def State.Lands (s : State) (p : Packet) (r : Nat × List Byte) : Prop :=
  s.landBad p r.1 r.2 = none ∧ s.landErr p.writer (tileBase p.at + r.1) r.2 = none

section
variable (s : State) (k : Nat)

theorem State.chain_consume (depth : Nat) : (s.consume k).chain depth = s.chain depth := by
  induction depth with
  | zero => rfl
  | succ depth ih =>
    funext i
    rw [State.chain, State.chain, ih]
    rfl

theorem State.rects_consume (depth : Nat) : (s.consume k).rects depth = s.rects depth := by
  induction depth with
  | zero => rfl
  | succ depth ih =>
    funext i
    rw [State.rects, State.rects, State.chain_consume, ih]
    rfl

theorem State.mustPreserve_consume : (s.consume k).mustPreserve = s.mustPreserve := by
  have inTeam : (s.consume k).inTeam = s.inTeam := by
    funext i n
    rw [State.inTeam, State.inTeam, State.rects_consume]
    rfl
  unfold State.mustPreserve
  rw [inTeam]

theorem State.landErr_consume : (s.consume k).landErr = s.landErr := by
  unfold State.landErr State.copyBad
  rw [State.mustPreserve_consume]
  rfl

end

theorem State.partBad_of_landErr {s : State} {w : Writer} {a : Nat} {bs : List Byte} (h : s.landErr w a bs = none) :
    s.partBad a bs = none := by
  unfold State.landErr at h
  split at h
  · cases h
  · assumption

/-- With fewer uncorrectable blocks no write meets more of them. -/
theorem State.partBad_mono {s t : State} (hbad : ∀ b ∈ t.bad, b ∈ s.bad) {a : Nat} {bs : List Byte} (h : s.partBad a bs = none) :
    t.partBad a bs = none := by
  simp only [State.partBad, Option.map_eq_none_iff, List.find?_eq_none, Bool.and_eq_true, decide_eq_true_eq, not_and,
    Option.not_isSome_iff_eq_none] at h ⊢
  intro q hq short
  have clean := State.badBlock_eq_none.mp (h q hq short)
  exact State.badBlock_eq_none.mpr fun b hb => clean b (hbad b hb)

theorem State.bad_writeHome (s : State) (w : Writer) (a : Nat) (bs : List Byte) : ∀ b ∈ (s.writeHome w a bs).bad, b ∈ s.bad := by
  unfold State.writeHome
  generalize writeParts a bs = l
  induction l generalizing s with
  | nil => exact fun _ hb => hb
  | cons q l ih =>
    intro b hb
    rw [List.foldl_cons] at hb
    have hb := ih _ b hb
    split at hb
    · exact hb
    · exact State.bad_write _ _ _ _ b hb

/-- Rows that meet no uncorrectable block are written whole, one after another. -/
theorem State.mem_landed (p : Packet) (rows : List (Nat × List Byte)) {s : State}
    (whole : ∀ r ∈ rows, s.partBad (tileBase p.at + r.1) r.2 = none) :
    (s.landed p rows).mem = rows.foldl (fun m r => pokes (tileBase p.at + r.1) r.2 m) s.mem := by
  unfold State.landed
  induction rows generalizing s with
  | nil => rfl
  | cons r rows ih =>
    rw [List.forall_mem_cons] at whole
    rw [List.foldl_cons, List.foldl_cons, ih fun q hq => State.partBad_mono (State.bad_writeHome _ _ _ _) (whole.2 q hq),
      State.mem_writeHome _ whole.1]

/-- Taking a packet leaves what a row meets. -/
theorem State.lands_consume {s : State} {k : Nat} {p : Packet} {r : Nat × List Byte} : (s.consume k).Lands p r ↔ s.Lands p r := by
  rw [State.Lands, State.Lands, State.landErr_consume]
  exact Iff.rfl

/-- Rows that land are written, noted and acknowledged. -/
theorem State.landRows_of_lands {s : State} {p : Packet} {rows : List (Nat × List Byte)} (h : ∀ r ∈ rows, s.Lands p r)
    (f : State → State) : s.landRows p rows f = (f (s.landed p rows)).reply p (.ack p.uid) := by
  have bad : (rows.findSome? fun r => s.landBad p r.1 r.2) = none := List.findSome?_eq_none_iff.mpr fun r hr => (h r hr).1
  have err : (rows.findSome? fun r => s.landErr p.writer (tileBase p.at + r.1) r.2) = none :=
    List.findSome?_eq_none_iff.mpr fun r hr => (h r hr).2
  simp only [State.landRows, bad, err, State.landed]

@[simp] theorem State.mem_reply (s : State) (p : Packet) (b : Body) : (s.reply p b).mem = s.mem := rfl
@[simp] theorem State.layer_reply (s : State) (p : Packet) (b : Body) (n slot : Nat) : (s.reply p b).layer n slot = s.layer n slot := rfl

theorem State.reply_sends (s : State) (p : Packet) (b : Body) : ∃ q ∈ (s.reply p b).net, q.dst = p.src ∧ q.body = b :=
  ⟨_, List.mem_append_right _ (List.mem_singleton_self _), rfl, rfl⟩

/-- Of two ranges written that do not meet, the first keeps its bytes as the second is written. -/
theorem peeks_pokes_of_disjoint {a b : Nat} {xs ys : List Byte} (m : List Host.Cell)
    (apart : b + ys.length ≤ a ∨ a + xs.length ≤ b) : peeks (pokes b ys (pokes a xs m)) a xs.length = xs := by
  refine Eq.trans (List.map_congr_left fun i hi => ?_) (peeks_pokes a xs m)
  rw [List.mem_range] at hi
  exact peek_pokes_of_not_mem _ (by omega)

/-! ### Replica states and layer slots -/

/-- What a tile's route unit holds: its replica states and its layer slots. -/
def Tile.routing (t : Tile) : List Replica × Table Layer := (t.replicas, t.layers)

theorem State.routing_modTile (s : State) (m n : Nat) {f : Tile → Tile} (h : ∀ t, (f t).routing = t.routing) :
    ((s.modTile n f).tile m).routing = (s.tile m).routing := by
  rcases eq_or_ne m n with rfl | hm
  · rw [State.tile_modTile, h]
  · rw [State.tile_modTile_of_ne _ _ hm]

theorem State.routing_write (s : State) (w : Writer) (a : Nat) (bytes : List Byte) (m : Nat) :
    ((s.write w a bytes).tile m).routing = (s.tile m).routing :=
  foldl_preserves (g := fun u => (u.tile m).routing) (fun u n => u.routing_modTile m n (f := fun t => t.wrote n _) fun _ => rfl) _ _

theorem State.routing_writeHome (s : State) (w : Writer) (a : Nat) (bs : List Byte) (m : Nat) :
    ((s.writeHome w a bs).tile m).routing = (s.tile m).routing := by
  refine foldl_preserves (g := fun u => (u.tile m).routing) (fun u q => ?_) _ s
  split
  · rfl
  · exact u.routing_write w _ _ m

theorem State.routing_landed (s : State) (p : Packet) (rows : List (Nat × List Byte)) (m : Nat) :
    ((s.landed p rows).tile m).routing = (s.tile m).routing :=
  foldl_preserves (g := fun u => (u.tile m).routing) (fun u _ => u.routing_writeHome _ _ _ m) _ s

theorem State.replicaState_of_routing {s t : State} {n : Nat} (h : (t.tile n).routing = (s.tile n).routing)
    (slot ex rep : Nat) (back : Bool) : t.replicaState n slot ex rep back = s.replicaState n slot ex rep back := by
  have replicas : (t.tile n).replicas = (s.tile n).replicas := congrArg Prod.fst h
  rw [State.replicaState, State.replicaState, replicas]

theorem State.layer_of_routing {s t : State} {n : Nat} (h : (t.tile n).routing = (s.tile n).routing) (slot : Nat) :
    t.layer n slot = s.layer n slot := by
  have layers : (t.tile n).layers = (s.tile n).layers := congrArg Prod.snd h
  rw [State.layer, State.layer, layers]

theorem State.isFor_of_replicaState {s : State} {n slot ex rep : Nat} {back : Bool} {r : Replica}
    (h : s.replicaState n slot ex rep back = some r) : r.isFor slot ex rep back = true := by
  have found := List.find?_some h
  exact found

/-- A replica state put back under its names is the one found under them. -/
theorem State.replicaState_setReplica {s : State} {n slot ex rep : Nat} {back : Bool} {r r' : Replica}
    (h : s.replicaState n slot ex rep back = some r) (same : r'.isFor slot ex rep back = true) :
    (s.setReplica n r').replicaState n slot ex rep back = some r' := by
  have names : r'.slot = slot ∧ r'.expert = ex ∧ r'.replica = rep ∧ r'.back = back := by
    simpa [Replica.isFor, and_assoc] using same
  obtain ⟨rfl, rfl, rfl, rfl⟩ := names
  have keeps (q : Replica) : (if q.isFor r'.slot r'.expert r'.replica r'.back then r' else q).isFor r'.slot r'.expert r'.replica r'.back =
      q.isFor r'.slot r'.expert r'.replica r'.back := by
    split
    · next hq => rw [same, hq]
    · rfl
  have found := State.isFor_of_replicaState h
  unfold State.replicaState at h
  simp only [State.replicaState, State.setReplica, State.tile_modTile, List.find?_map, Function.comp_def, keeps, h, Option.map_some,
    found, if_true]

/-! ### A row at its replica's leader -/

/-- A replica state with one more slot filled; the first row starts the fetches that wait for it (07 R250). -/
def Replica.withRow (r : Replica) (place : Nat) : Replica :=
  { r with
    rows := r.rows ++ [place]
    waiting := if r.rows.isEmpty then [] else r.waiting
    started := if r.rows.isEmpty then r.started ++ r.waiting else r.started }

/-- A row counted at its replica's leader, with the answers to the fetches it starts. -/
def State.takeRow (s : State) (n : Nat) (r : Replica) (place : Nat) : State :=
  if r.rows.isEmpty then r.waiting.foldl (fun s f => s.rwAnswer n false f) (s.setReplica n (r.withRow place))
  else s.setReplica n (r.withRow place)

theorem Quiet.takeRow (s : State) (n : Nat) (r : Replica) (place : Nat) : Quiet s (s.takeRow n r place) :=
  ite ((setReplica s n _).trans (foldl (fun u f => rwAnswer u n false f) _ _)) (setReplica s n _)

theorem State.replicaState_takeRow {s : State} {n slot ex rep : Nat} {back : Bool} {r : Replica} (place : Nat)
    (h : s.replicaState n slot ex rep back = some r) :
    (s.takeRow n r place).replicaState n slot ex rep back = some (r.withRow place) := by
  have named := State.isFor_of_replicaState h
  have put : (s.setReplica n (r.withRow place)).replicaState n slot ex rep back = some (r.withRow place) :=
    State.replicaState_setReplica h named
  unfold State.takeRow
  split
  · refine (foldl_preserves (g := fun u => u.replicaState n slot ex rep back) (fun u f => ?_) _ _).trans put
    rfl
  · exact put

/-- Where a row and its token tag lie in the store of the leader of the replica of entry w (07 R236). -/
def rowPlaces (w : Nat) (back : Bool) (place tag : Nat) (bytes : List Byte) : List (Nat × List Byte) :=
  [(reSlots w back + place * bytes.length, bytes), (reTags w + 4 * place, natLE 4 tag)]

/-! ### A returned row at its scoring tile -/

/-- A returned row noted in the layer's return map of its direction (07 R247). -/
def Layer.withReturn (l : Layer) (back : Bool) (key : Nat) : Layer :=
  if back then { l with returnedBack := if l.returnedBack.contains key then l.returnedBack else key :: l.returnedBack }
  else { l with returned := if l.returned.contains key then l.returned else key :: l.returned }

theorem Layer.withReturn_notes (l : Layer) (back : Bool) (key : Nat) : let l' := l.withReturn back key
    (if back then l'.returnedBack.contains key else l'.returned.contains key) = true := by
  have noted (had : List Nat) : (if had.contains key then had else key :: had).contains key = true := by
    split
    · assumption
    · simp
  cases back
  · exact noted l.returned
  · exact noted l.returnedBack

/-- A returned row noted at its tile, as progress for the commands that combine it. -/
def State.takeReturn (s : State) (n slot : Nat) (back : Bool) (key : Nat) : State :=
  (s.modLayer n slot fun l => l.withReturn back key).rowProgress n slot

theorem Quiet.takeReturn (s : State) (n slot : Nat) (back : Bool) (key : Nat) : Quiet s (s.takeReturn n slot back key) :=
  (modLayer s n slot _).trans (foldl (fun u _ => ite (progressed u _ _) (refl u)) _ _)

theorem State.layer_takeReturn (s : State) (n slot : Nat) (back : Bool) (key : Nat) :
    (s.takeReturn n slot back key).layer n slot = (s.layer n slot).withReturn back key := by
  have progress (u : State) : ((u.rowProgress n slot).tile n).routing = (u.tile n).routing := by
    refine foldl_preserves (g := fun u => (u.tile n).routing) (fun u st => ?_) _ u
    split
    · exact u.routing_modTile n n fun _ => rfl
    · rfl
  refine (State.layer_of_routing (progress _) slot).trans ?_
  simp [State.modLayer, State.layer]

/-! ### What each arrival comes to -/

theorem State.misroute_counts (s : State) (n tag : Nat) :
    ((s.misroute n tag).tile n).misroutes = satAdd 32 (s.tile n).misroutes 1 ∧ (s.misroute n tag).mem = s.mem := by
  have counted := s.tile_modTile n fun t => { t with misroutes := satAdd 32 t.misroutes 1 }
  exact ⟨congrArg Tile.misroutes counted, rfl⟩

section
variable {s : State} {k n : Nat} {p : Packet} (h : Takes s k p) (hd : p.dst = .tile n)
include h hd

section
variable {slot ex rep batch place tag : Nat} {back : Bool} {bytes : List Byte}
  (hb : p.body = .row slot ex rep back batch place tag bytes) (room : s.reserveFor p.writer (s.landRanges p) = true)
include hb room

/-- A row for the batch its replica stands in. -/
theorem exec_routeRowArrive_of_lands {r : Replica} {desc : BitVec 512} (hr : s.replicaState n slot ex rep back = some r)
    (hl : (s.layer n slot).desc = some desc) (own : r.batch = batch)
    (lands : ∀ q ∈ rowPlaces (s.repl n desc.toNat ex rep) back place tag bytes, s.Lands p q) :
    exec (.routeRowArrive k) s = .next ((((s.consume k).landed p
      (rowPlaces (s.repl n desc.toNat ex rep) back place tag bytes)).takeRow n r place).reply p (.ack p.uid)) := by
  have e : execRouteRowArrive k s = _ := onPacket_of_takes h _ (by simp [hb, State.landRoom, room]) _
  have hr' : (s.consume k).replicaState n slot ex rep back = some r := hr
  have hl' : ((s.consume k).layer n slot).desc = some desc := hl
  simp only [hb, Packet.at_of_dst hd, hr', hl', bne_eq_false_iff_eq.mpr own, Bool.false_eq_true, if_false] at e
  refine e.trans (congrArg _ (State.landRows_of_lands ?_ fun s => s.takeRow n r place))
  exact fun q hq => State.lands_consume.mpr (lands q hq)

/-- A row for another batch, or for no replica. -/
theorem exec_routeRowArrive_of_stray (stray : ∀ r, s.replicaState n slot ex rep back = some r → r.batch ≠ batch) :
    exec (.routeRowArrive k) s = .next ((s.consume k).misroute n tag) := by
  have e : execRouteRowArrive k s = _ := onPacket_of_takes h _ (by simp [hb, State.landRoom, room]) _
  simp only [hb, Packet.at_of_dst hd] at e
  refine e.trans ?_
  cases hr : (s.consume k).replicaState n slot ex rep back with
  | none => rfl
  | some r =>
    cases ((s.consume k).layer n slot).desc with
    | none => rfl
    | some desc => simp [stray r hr]

end

section
variable {slot ex rep batch round count : Nat} {back : Bool} (hb : p.body = .rowClose slot ex rep back batch round count)
include hb

theorem exec_routeCloseArrive_of_own {r : Replica} (hr : s.replicaState n slot ex rep back = some r) (own : r.batch = batch) :
    exec (.routeCloseArrive k) s =
      .next ((s.consume k).setReplica n { r with closes := r.closes ++ [(p.from, round, count)] }) := by
  have e : execRouteCloseArrive k s = _ := onPacket_of_takes h _ (by simp [hb]) _
  have hr' : (s.consume k).replicaState n slot ex rep back = some r := hr
  simp only [hb, Packet.at_of_dst hd, hr', bne_eq_false_iff_eq.mpr own, Bool.false_eq_true, if_false] at e
  exact e

theorem exec_routeCloseArrive_of_stray (stray : ∀ r, s.replicaState n slot ex rep back = some r → r.batch ≠ batch) :
    exec (.routeCloseArrive k) s = .next ((s.consume k).misroute n 0) := by
  have e : execRouteCloseArrive k s = _ := onPacket_of_takes h _ (by simp [hb]) _
  simp only [hb, Packet.at_of_dst hd] at e
  refine e.trans ?_
  cases hr : (s.consume k).replicaState n slot ex rep back with
  | none => rfl
  | some r => simp [stray r hr]

end

section
variable {slot batch tag key : Nat} {back : Bool} {bytes : List Byte} (hb : p.body = .returned slot back batch tag key bytes)
  (room : s.reserveFor p.writer (s.landRanges p) = true)
include hb room

/-- A returned row for the batch of its layer. -/
theorem exec_returnRowArrive_of_lands {desc : BitVec 512} (hl : (s.layer n slot).desc = some desc)
    (own : (if back then (s.layer n slot).batchBack else (s.layer n slot).batch) = batch)
    (lands : s.Lands p (returnAt desc.toNat back (key / 8) (key % 8), bytes)) :
    exec (.returnRowArrive k) s = .next ((((s.consume k).landed p
      [(returnAt desc.toNat back (key / 8) (key % 8), bytes)]).takeReturn n slot back key).reply p (.ack p.uid)) := by
  have e : execReturnRowArrive k s = _ := onPacket_of_takes h _ (by simp [hb, State.landRoom, room]) _
  have layer : (s.consume k).layer n slot = s.layer n slot := rfl
  simp only [hb, Packet.at_of_dst hd, layer, hl, bne_eq_false_iff_eq.mpr own, Bool.false_eq_true, if_false] at e
  refine e.trans (congrArg _ (State.landRows_of_lands ?_ fun s => s.takeReturn n slot back key))
  exact List.forall_mem_singleton.mpr (State.lands_consume.mpr lands)

/-- A returned row for another batch, or for an unloaded slot. -/
theorem exec_returnRowArrive_of_stray (stray : (s.layer n slot).desc = none ∨
      (if back then (s.layer n slot).batchBack else (s.layer n slot).batch) ≠ batch) :
    exec (.returnRowArrive k) s = .next ((s.consume k).misroute n tag) := by
  have e : execReturnRowArrive k s = _ := onPacket_of_takes h _ (by simp [hb, State.landRoom, room]) _
  have layer : (s.consume k).layer n slot = s.layer n slot := rfl
  simp only [hb, Packet.at_of_dst hd, layer] at e
  refine e.trans ?_
  cases hl : (s.layer n slot).desc with
  | none => rfl
  | some desc =>
    have other := stray.resolve_left (by simp [hl])
    simp [other]

end

/-- A member's registration at its replica's leader (07 R250, R255). -/
theorem exec_rwgetRegistration {slot ex rep : Nat} {start : Bool} {r : Replica} (hb : p.body = .rwRegister slot ex rep start)
    (hr : s.replicaState n slot ex rep false = some r) :
    let f : Fetcher := ⟨p.from, p.stream, p.entry, p.chan, p.tag⟩
    exec (.rwgetRegistration k) s = .next (
      if (r.packing && r.n = 0) = true then (s.consume k).rwAnswer n true f
      else if start then (s.consume k).setReplica n { r with started := r.started ++ [f] }
      else if r.rows.isEmpty then (s.consume k).setReplica n { r with waiting := r.waiting ++ [f] }
      else ((s.consume k).setReplica n { r with started := r.started ++ [f] }).rwAnswer n false f) := by
  have e : execRwgetRegistration k s = _ := onPacket_of_takes h _ (by simp [hb]) _
  have hr' : (s.consume k).replicaState n slot ex rep false = some r := hr
  simp only [hb, Packet.at_of_dst hd, hr'] at e
  exact e

theorem exec_rwgetStart_of_row {e : Engine} {x : Entry} (hb : p.body = .rwStart false)
    (hx : s.findEntry n p.stream p.entry = some (e, x)) (waits : rwPhase x = 0) :
    exec (.rwgetStart k) s = .next (((s.consume k).rwBegin n p.stream x).progressed n (watchedQueue e p.stream)) := by
  have run : execRwgetStart k s = _ := onPacket_of_takes h _ (by simp [hb]) _
  have hx' : (s.consume k).findEntry n p.stream p.entry = some (e, x) := hx
  simp only [hb, Packet.at_of_dst hd, hx', waits, if_true] at run
  exact run

theorem exec_rwgetStart_of_empty {e : Engine} {x : Entry} (hb : p.body = .rwStart true)
    (hx : s.findEntry n p.stream p.entry = some (e, x)) :
    exec (.rwgetStart k) s = .next (((s.consume k).setEntry n e p.stream { x with
      progress := [2], pieces := x.pieces.map Piece.stopped }).progressed n (watchedQueue e p.stream)) := by
  have run : execRwgetStart k s = _ := onPacket_of_takes h _ (by simp [hb]) _
  have hx' : (s.consume k).findEntry n p.stream p.entry = some (e, x) := hx
  simp only [hb, Packet.at_of_dst hd, hx'] at run
  exact run

end

/-! ### What a row that landed leaves -/

section
variable {s : State} {p : Packet} {n : Nat} (hd : p.dst = .tile n)
include hd

theorem State.mem_takeRow_landed {w place tag : Nat} {back : Bool} {bytes : List Byte} (r : Replica)
    (lands : ∀ q ∈ rowPlaces w back place tag bytes, s.Lands p q) :
    ((s.landed p (rowPlaces w back place tag bytes)).takeRow n r place).mem =
      pokes (tileBase n + reTags w + 4 * place) (natLE 4 tag)
        (pokes (tileBase n + (reSlots w back + place * bytes.length)) bytes s.mem) := by
  rw [(Quiet.takeRow _ n r place).mem, State.mem_landed p _ fun q hq => State.partBad_of_landErr (lands q hq).2,
    Packet.at_of_dst hd, Nat.add_assoc]
  rfl

/-- The row and its tag are there, no other byte changed, and the replica counts the row. -/
theorem State.takeRow_landed {w slot ex rep place tag : Nat} {back : Bool} {bytes : List Byte} {r : Replica}
    (hr : s.replicaState n slot ex rep back = some r) (lands : ∀ q ∈ rowPlaces w back place tag bytes, s.Lands p q)
    (apart : reTags w + 4 * place + 4 ≤ reSlots w back + place * bytes.length ∨
      reSlots w back + place * bytes.length + bytes.length ≤ reTags w + 4 * place) :
    let off := reSlots w back + place * bytes.length
    let t := ((s.landed p (rowPlaces w back place tag bytes)).takeRow n r place).reply p (.ack p.uid)
    t.loadBytes (tileBase n + off) bytes.length = bytes ∧ t.loadBytes (tileBase n + reTags w + 4 * place) 4 = natLE 4 tag ∧
      (∀ b, (b < tileBase n + off ∨ tileBase n + off + bytes.length ≤ b) →
        (b < tileBase n + reTags w + 4 * place ∨ tileBase n + reTags w + 4 * place + 4 ≤ b) → peek b t.mem = peek b s.mem) ∧
      t.replicaState n slot ex rep back = some (r.withRow place) := by
  intro off t
  have mem : t.mem = _ := State.mem_takeRow_landed hd r lands
  have tagLength := natLE_length 4 tag
  refine ⟨?_, ?_, fun b outRow outTag => ?_, State.replicaState_takeRow place ?_⟩
  · rw [State.loadBytes, mem]
    exact peeks_pokes_of_disjoint _ (by omega)
  · have tagRead (m : List Host.Cell) (a : Nat) : peeks (pokes a (natLE 4 tag) m) a 4 = natLE 4 tag := by
      simpa [tagLength] using peeks_pokes a (natLE 4 tag) m
    rw [State.loadBytes, mem, tagRead]
  · rw [mem, peek_pokes_of_not_mem _ (by omega), peek_pokes_of_not_mem _ outRow]
  · rw [State.replicaState_of_routing (s.routing_landed p _ n), hr]

/-- The returned row is there, no other byte changed, and its place is noted in the return map. -/
theorem State.takeReturn_landed {off : Nat} {bytes : List Byte} (lands : s.Lands p (off, bytes)) (slot : Nat) (back : Bool)
    (key : Nat) :
    let t := ((s.landed p [(off, bytes)]).takeReturn n slot back key).reply p (.ack p.uid)
    t.loadBytes (tileBase n + off) bytes.length = bytes ∧
      (∀ b, (b < tileBase n + off ∨ tileBase n + off + bytes.length ≤ b) → peek b t.mem = peek b s.mem) ∧
      (if back then (t.layer n slot).returnedBack.contains key else (t.layer n slot).returned.contains key) = true := by
  intro t
  have mem : t.mem = pokes (tileBase n + off) bytes s.mem := by
    rw [State.mem_reply, (Quiet.takeReturn _ n slot back key).mem,
      State.mem_landed p _ (List.forall_mem_singleton.mpr (State.partBad_of_landErr lands.2)), Packet.at_of_dst hd]
    rfl
  refine ⟨?_, fun b out => ?_, ?_⟩
  · rw [State.loadBytes, mem, peeks_pokes]
  · rw [mem, peek_pokes_of_not_mem _ out]
  · rw [State.layer_reply, State.layer_takeReturn]
    exact Layer.withReturn_notes _ back key

end

/-- Settles O45: by what each arrival comes to, and what a row that landed leaves. -/
theorem routedRowsLand : Obligations.RoutedRowsLand := by
  intro s k n p h hd
  have misrouted {i : Instr} {tag : Nat} (run : exec i s = .next ((s.consume k).misroute n tag)) :
      ∃ t, exec i s = .next t ∧ (t.tile n).misroutes = satAdd 32 (s.tile n).misroutes 1 ∧ t.mem = s.mem :=
    ⟨_, run, (s.consume k).misroute_counts n tag⟩
  refine ⟨?_, ⟨?_, ?_, ?_⟩, ?_, ?_, ?_, ?_, ?_⟩
  · intro slot ex rep back batch place tag bytes r desc hb hr hl w off room
    refine ⟨fun own rowBad tagBad rowErr tagErr apart => ?_, fun other => misrouted (exec_routeRowArrive_of_stray h hd hb room ?_)⟩
    · have lands : ∀ q ∈ rowPlaces w back place tag bytes, s.Lands p q := by
        rw [Nat.add_assoc, ← Packet.at_of_dst hd] at tagErr
        rw [← Packet.at_of_dst hd] at rowErr
        exact List.forall_mem_cons.mpr ⟨⟨rowBad, rowErr⟩, List.forall_mem_singleton.mpr ⟨tagBad, tagErr⟩⟩
      obtain ⟨row, tagged, frame, counted⟩ := State.takeRow_landed (s := s.consume k) hd hr
        (fun q hq => State.lands_consume.mpr (lands q hq)) apart
      exact ⟨_, exec_routeRowArrive_of_lands h hd hb room hr hl own lands, row, tagged, frame, ⟨_, counted, rfl, rfl⟩,
        State.reply_sends _ _ _⟩
    · intro r' hr'
      rw [hr, Option.some.injEq] at hr'
      rwa [← hr']
  · exact fun slot ex rep back batch place tag bytes hb hr room =>
      misrouted (exec_routeRowArrive_of_stray h hd hb room fun r hr' => by simp [hr] at hr')
  · exact fun slot ex rep back batch round count hb stray => misrouted (exec_routeCloseArrive_of_stray h hd hb stray)
  · exact fun slot back batch tag key bytes hb room stray => misrouted (exec_returnRowArrive_of_stray h hd hb room stray)
  · exact fun slot ex rep back batch round count r hb hr own => exec_routeCloseArrive_of_own h hd hb hr own
  · intro slot back batch tag key bytes desc hb hl own off room bad err
    have lands : s.Lands p (off, bytes) := ⟨bad, by rw [Packet.at_of_dst hd]; exact err⟩
    obtain ⟨row, frame, noted⟩ := State.takeReturn_landed hd (State.lands_consume (k := k).mpr lands) slot back key
    exact ⟨_, exec_returnRowArrive_of_lands h hd hb room hl own lands, row, frame, noted, State.reply_sends _ _ _⟩
  · exact fun slot ex rep start r hb hr => exec_rwgetRegistration h hd hb hr
  · exact fun e x hb hx waits => exec_rwgetStart_of_row h hd hb hx waits
  · exact fun e x hb hx => exec_rwgetStart_of_empty h hd hb hx

end Sys2Proof.Machine

namespace Sys2Proof.Machine

/-! ## Commands that must ask before they issue (08 R265; 09 R322) -/

/-- A command that reads nothing waits for no earlier write. -/
theorem hazard_nil (ahead : List Entry) : hazard ahead [] = false := by
  simp [hazard, anyOverlap]

/-- An entry put back stands where it stood, in its queue and in the item queue that its stream may issue from. -/
theorem State.entries_setEntry (s : State) (n : Nat) (e : Engine) (st : Stream) (x : Entry) :
    (s.setEntry n e st x).entries n e st = replaceEntry x (s.entries n e st) := by
  unfold State.setEntry
  dsimp only
  split
  · next r hr =>
    rw [State.runs_modQueue] at hr
    have runs : (((s.modQueue n .matrix st fun q => { q with entries := replaceEntry x q.entries }).modTile n fun t =>
        { t with runs := t.runs.set st (some { r with queue := replaceEntry x r.queue }) }).tile n).runs.get st =
        some { r with queue := replaceEntry x r.queue } := by
      rw [State.tile_modTile]
      exact ByStream.get_set_self _ _ _
    unfold State.entries
    rw [runs, hr, State.queue_modTile _ _ _ _ _ _ rfl, State.queue_modQueue]
    have empty : (replaceEntry x r.queue).isEmpty = r.queue.isEmpty := List.isEmpty_map
    dsimp only
    rw [empty]
    split <;> rfl
  · next hr =>
    rw [State.runs_modQueue] at hr
    unfold State.entries
    rw [State.runs_modQueue, State.queue_modQueue]
    split
    · next r h => exact absurd rfl (hr r · h)
    · rfl

/-- The head of a queue is one of its entries. -/
theorem State.mem_entries_of_head {s : State} {n : Nat} {e : Engine} {st : Stream} {x : Entry} {ahead : List Entry}
    (h : s.head n e st = some (x, ahead)) : x ∈ s.entries n e st := by
  obtain ⟨-, rest, hl⟩ := s.head_eq_some h
  rw [hl]
  simp

theorem State.runsFor_of_head {s : State} {n : Nat} {e : Engine} {st : Stream} {x : Entry} {ahead : List Entry}
    (h : s.head n e st = some (x, ahead)) : x.ctx = s.owner n ∨ x.ctx = 0 := by
  simpa [State.runsFor] using (Option.filter_eq_some_iff.mp h).2

/-- A head acts in the name of the context that it was placed for. -/
theorem State.actor_named {s : State} {n : Nat} {x : Entry} (h : x.ctx = s.owner n ∨ x.ctx = 0) : (s.named n x).actor n x = x.ctx := by
  unfold State.actor State.named
  split
  · next zero => exact zero.symm
  · next other =>
    have own := h.resolve_right other
    rw [if_pos own, own]

/-- In its context's name a command stands at the head that it stands at. -/
theorem State.head_named {s : State} {n : Nat} {e : Engine} {st : Stream} {x : Entry} {ahead : List Entry}
    (h : s.head n e st = some (x, ahead)) : (s.named n x).head n e st = some (x, ahead) := by
  have runs : (s.named n x).runsFor n x = true := by
    unfold State.runsFor State.named
    rcases State.runsFor_of_head h with own | zero
    · rw [if_pos own]
      simp [own]
    · simp [zero]
  rw [State.head, (Quiet.named s n x).entries]
  exact Option.filter_eq_some_iff.mpr ⟨(Option.filter_eq_some_iff.mp h).1, runs⟩

section
variable {s : State} {n op : Nat} {e : Engine} {c : Cmd} {st : Stream} {x : Entry} {ahead : List Entry}

/-- What a head has asked once it has: one packet is on its way, memory is as it was, and its entry is marked, so that it does not
ask again. -/
theorem State.inName_ask (head : s.head n e st = some (x, ahead)) (dst : Place) (b : Body) :
    let t := s.inName n x fun u => (u.setEntry n e st { x with asked := true }).cmdSend n e st x dst b
    ∃ p, t.net = s.net ++ [p] ∧ p.src = .tile n ∧ p.dst = dst ∧ p.entry = x.uid ∧ p.ctx = x.ctx ∧ p.body = b ∧ t.mem = s.mem ∧
      ∃ y ∈ t.entries n e st, y.uid = x.uid ∧ y.asked = true := by
  intro t
  let u := (s.named n x).setEntry n e st { x with asked := true }
  obtain ⟨tiles, mem, net⟩ := s.inName_parts n x fun u => (u.setEntry n e st { x with asked := true }).cmdSend n e st x dst b
  have put : Keeps { mem := true, net := true, teams := true } (s.named n x) u := State.setEntry_keeps _ _ _ _ _ (Keeps.refl _) rfl
  have actor : u.actor n x = x.ctx := by
    rw [State.actor, State.owner, put.same.teams rfl, ← State.owner, ← State.actor]
    exact State.actor_named (State.runsFor_of_head head)
  have sent : t.net = s.net ++ _ := net.trans (congrArg (· ++ _) ((put.same.net rfl).trans (s.net_named n x)))
  refine ⟨_, sent, rfl, rfl, rfl, actor, rfl, ?_, { x with asked := true }, ?_, rfl, rfl⟩
  · exact mem.trans ((put.same.mem rfl).trans (s.mem_named n x))
  · have there : x ∈ (s.named n x).entries n e st := by
      rw [(Quiet.named s n x).entries]
      exact State.mem_entries_of_head head
    have marked : t.entries n e st = u.entries n e st := by
      refine State.entries_congr (congrArg Queue.entries (State.queue_congr tiles n e st)) ?_
      rw [State.tile, tiles]
      rfl
    rw [marked, State.entries_setEntry]
    exact List.mem_map.mpr ⟨x, there, if_pos rfl⟩

section
variable {f : State → Nat → Stream → Entry → State} (hn : n < 2048) (runs : s.streamRuns n st = true)
  (head : s.head n e st = some (x, ahead)) (skip : x.skip = false) (hx : x.op = op)
  (allowed : (s.named n x).refusalAt n st x c = none) (asked : x.asked = false)
  (settled : c.settled (s.named n x) n st x = true) (ordered : hazard ahead (c.reads (s.named n x) n st x) = false) (hop : op ≠ 0xFF)
include hn runs head skip hx allowed asked settled ordered hop

/-- A head that must ask first, and has not, asks in its context's name. -/
theorem issueRow_of_ask (ask : c.ask = some f) : issueRow e op c n st s = .next (s.inName n x fun u => f u n st x) := by
  have nop : ¬op = opNop := hop
  have asks : s.inName n x (fun u => u.issueHead n e st c (fun s _ => s) x ahead) = s.inName n x fun u => f u n st x := by
    refine State.inName_congr ?_
    simp only [State.issueHead, settled, ordered, allowed, ask, asked, Bool.not_true, Bool.or_self, Bool.false_eq_true, if_false]
  unfold issueRow issueWith
  simp only [hn, if_true, runs, head, skip, Bool.false_or, decide_eq_true_eq, hx, nop, if_false, asks]

/-- A wait or a claim that becomes the head registers at its tally's home (08 R265). -/
theorem issueRow_of_register {kind : WaitKind} (ask : c.ask = some (registerAsk e kind)) :
    ∃ t p, issueRow e op c n st s = .next t ∧ t.net = s.net ++ [p] ∧ p.src = .tile n ∧
      p.dst = tallyHome n (tWhere x) (tNum x) ∧ p.entry = x.uid ∧ (∃ v m, p.body = .register (tNum x) kind v m) ∧ t.mem = s.mem ∧
      ∃ y ∈ t.entries n e st, y.uid = x.uid ∧ y.asked = true := by
  obtain ⟨p, net, src, dst, entry, -, body, mem, marked⟩ := State.inName_ask head (tallyHome n (tWhere x) (tNum x))
    (.register (tNum x) kind (tValue x) (wMayVary x.word))
  exact ⟨_, p, issueRow_of_ask hn runs head skip hx allowed asked settled ordered hop ask, net, src, dst, entry, ⟨_, _, body⟩, mem,
    marked⟩

end

/-! ## The engine's turn goes to a ready head (06 R198) -/

theorem mem_of_chooseStream {order ready : List Stream} {passed : Stream → Nat} (h : chooseStream order ready passed = some st) :
    st ∈ ready := by
  have among (l : List Stream) : st ∈ order.filter ready.contains → st ∈ ready := fun hst => by
    simpa using (List.mem_filter.mp hst).2
  unfold chooseStream at h
  dsimp only at h
  split at h
  · next u hu =>
    cases h
    exact among order (List.mem_of_find?_eq_some hu)
  · exact among order (List.mem_of_mem_head? h)

theorem State.headReady_of_chosen (h : s.chosen n e = some st) : s.headReady n e st = true := by
  have ready : st ∈ s.readyStreams n e := by
    unfold State.chosen at h
    dsimp only at h
    split at h
    · next u hu =>
      cases h
      exact List.mem_of_find?_eq_some hu
    · exact mem_of_chooseStream h
  exact (List.mem_filter.mp ready).2

/-- A command that issues is ready by its own condition. -/
theorem Issues.ready (h : Issues s n e op c st x ahead) (hop : op ≠ 0xFF) (hc : cmdOf e op = some c) :
    c.ready (s.named n x) n st x = true := by
  have nop : ¬op = opNop := hop
  obtain ⟨skip, hx⟩ := h.own
  have ready := State.headReady_of_chosen h.turn
  simp only [State.headReady, State.head_named h.head, skip, hx, hc, nop, Bool.false_eq_true, if_false, State.issuable,
    State.cmdReady, Bool.and_eq_true] at ready
  obtain ⟨-, ⟨⟨⟨⟨-, ⟨⟨-, ready⟩, -⟩, -⟩, -⟩, -⟩, -⟩, -⟩ := ready
  exact ready

end

/-- Settles O29: the rows of commands with nothing in their way, what a head that must ask sends, and the readiness of what issues. -/
theorem commonCommandsIssue : Obligations.CommonCommandsIssue := by
  intro s n st x ahead
  refine ⟨fun e i hi h => ?_, fun i hi h => ?_, fun i hi h => ?_, fun e i hi hn runs head skip hx allowed asked => ?_,
    fun hn runs head skip hx allowed asked => ?_, fun e i hi h => ?_, fun h => h.ready (by decide) rfl⟩
  · simp only [List.mem_cons, List.not_mem_nil, or_false] at hi
    rcases hi with rfl | rfl | rfl | rfl
    all_goals exact issueRow_of_issues h (by simp)
  · simp only [List.mem_cons, List.not_mem_nil, or_false] at hi
    rcases hi with rfl | rfl
    all_goals exact issueRow_of_issues h (by simp)
  · simp only [List.mem_cons, List.not_mem_nil, or_false] at hi
    rcases hi with rfl | rfl | rfl
    all_goals exact issueRow_of_issues h (by simp)
  · simp only [List.mem_cons, List.not_mem_nil, or_false] at hi
    rcases hi with rfl | rfl
    all_goals exact issueRow_of_register hn runs head skip hx allowed asked rfl (hazard_nil ahead) (by simp) rfl
  · obtain ⟨p, net, src, dst, entry, ctx, body, mem, marked⟩ := State.inName_ask head (poolPlace (pShared x) n (pPool x))
      (.poolGet (pPool x) (pClass x) (pOwner x (pLast x)))
    exact ⟨_, p, issueRow_of_ask hn runs head skip hx allowed asked rfl (hazard_nil ahead) (by decide) rfl, net, src, dst, entry, ctx,
      body, mem, marked⟩
  · simp only [List.mem_cons, List.not_mem_nil, or_false] at hi
    rcases hi with rfl | rfl
    all_goals exact h.ready (by simp) rfl

end Sys2Proof.Machine

namespace Sys2Proof.Machine

/-! ## Fields beside one that is replaced -/

theorem testBit_bits (w hi lo i : Nat) : (bits w hi lo).testBit i = (decide (i < hi + 1 - lo) && w.testBit (lo + i)) := by
  rw [bits, Nat.testBit_mod_two_pow, Nat.testBit_shiftRight]

/-- A field that does not meet the one replaced keeps its value. -/
theorem bits_withField_of_apart {n : Nat} (d : BitVec n) {lo width hi' lo' : Nat} (v : Nat) (hw : 0 < width) (hn : lo + width ≤ n)
    (apart : hi' < lo ∨ lo + width ≤ lo') : bits (withField d lo width v).toNat hi' lo' = bits d.toNat hi' lo' := by
  refine Nat.eq_of_testBit_eq fun i => ?_
  rw [testBit_bits, testBit_bits]
  by_cases inside : i < hi' + 1 - lo'
  · have same := getLsbD_withField d lo width v (lo' + i) hw hn
    rw [if_neg (by omega)] at same
    exact congrArg _ same
  · simp [inside]

/-! ## What a further halt leaves of a record (02 R82) -/

/-- A record that a stream holds stays valid through a further halt, and names the reason that it named. -/
theorem State.reason_halt_of_valid (s : State) (n : Nat) (st : Stream) (h : Halt)
    (hv : recordValid ((s.tile n).records.get st) = true) : let r := ((s.halt n st h).tile n).records.get st
    recordValid r = true ∧ recordReason r = recordReason ((s.tile n).records.get st) := by
  intro r
  have counted : r = _ := s.record_halt_of_valid n st h hv
  rw [recordValid, bit_eq_bits] at hv ⊢
  rw [recordReason, recordReason, counted, bits_withField_of_apart _ _ (by decide) (by decide) (.inr (by decide)),
    bits_withField_of_apart _ _ (by decide) (by decide) (.inr (by decide))]
  exact ⟨hv, rfl⟩

/-! ## A request that finds no route (10 R344) -/

/-- Where no port is in service, nothing finds its way to another device. -/
theorem State.hop_of_no_ports {s : State} (ports : s.ports = []) (m : Msg) (inDim : Option Nat) (inDl : Nat) :
    s.hop m inDim inDl = none := by
  have down (p : Nat) : s.portUp p = false := by
    rw [State.portUp, State.port, ports]
    rfl
  have none_way (role : Nat) : s.dirPorts role = [] := by simp [State.dirPorts, down]
  unfold State.hop State.hopIn
  simp only [down, none_way, Bool.and_false, pickPort, Option.map_none]
  split
  · simp
  · split
    · rfl
    · split <;> rfl

/-- The request that a write of a command makes (10 R351). -/
def State.writeRequest (s : State) (n : Nat) (e : Engine) (st : Stream) (x : Entry) (uid : Nat) (a : Ask) : Request :=
  let c := s.actor n x
  let cls := if a.op = 6 then 1 else 0
  { uid := uid
    msg := ⟨msgHeader a.op s.deviceNumber a.dev c (s.ctx c).epoch x.chan.toNat (streamNo st)
      (tget 0 (2 * a.dev + cls) s.fabric.nextId) a.addr a.nbytes a.aop a.atype 0 a.rid a.absent 0 (wTag x.word) a.op0 a.op1, a.data⟩
    cls := cls, write := true, tile := n, stream := st, engine := engineNo e, entry := x.uid, tag := wTag x.word }

theorem State.records_owe (s : State) (n uid entry : Nat) (st : Stream) (remote mover : Bool) :
    ((s.owe n uid entry st remote mover).tile n).records = (s.tile n).records := by
  rw [State.owe, State.tile_modTile]

theorem State.records_repaid (s : State) (n uid : Nat) : ((s.repaid n uid).tile n).records = (s.tile n).records := by
  rw [State.repaid, State.tile_modTile]

/-- A write's request joins those that wait to leave. -/
theorem State.request_of_write (s : State) (n : Nat) (e : Engine) (st : Stream) (x : Entry) (uid : Nat) {a : Ask}
    (write : isWriteOp a.op = true) : ∃ v, s.request n e st x uid a = State.sendWaiting v ∧
      v.fabric.requests = s.fabric.requests ++ [s.writeRequest n e st x uid a] ∧ v.ports = s.ports ∧
      v.deviceNumber = s.deviceNumber ∧ (v.tile n).records = (s.tile n).records := by
  unfold State.request
  simp only [write, if_true]
  exact ⟨_, rfl, rfl, rfl, rfl, State.records_owe _ _ _ _ _ _ _⟩

/-- A request that waits alone, and that nothing holds back, is put on its way. -/
theorem State.sendWaiting_of_single {s : State} {r : Request} (alone : s.fabric.requests = [r]) (waits : r.sent = false)
    (may : s.fabric.mayLeave r = true) (free : s.leaveHeld r = false) : s.sendWaiting =
      ({ s with fabric := { s.fabric with requests := [{ r with sent := true }] } } : State).route r.msg none 0 := by
  simp [State.sendWaiting, alone, waits, may, free]

/-- A refusal halts the stream that sent the request, where that is a stream of context 0 or of no other context. -/
theorem State.refuseRequest_halts (s : State) {r : Request} (reason status dev : Nat) (engine : r.engine < 8) (ctx : mCtx r.msg = 0) :
    ∃ v h, s.refuseRequest r reason status dev = State.halt v r.tile r.stream h ∧ Halt.reason h = reason ∧ Halt.unit h = r.engine ∧
      State.tiles v = s.tiles := by
  have stays : (decide (8 ≤ r.engine) || (mCtx r.msg != 0 && s.owner r.tile != mCtx r.msg)) = false := by simp [ctx, engine]
  unfold State.refuseRequest
  rw [stays]
  refine ⟨_, _, rfl, rfl, rfl, ?_⟩
  split
  · exact State.alarm_tiles _ _ _ _ _
  · rfl

/-- Where no port is in service, an own request is refused with 0x31, and is owed no longer. -/
theorem State.route_refused {s : State} {m : Msg} {r : Request} (ports : s.ports = []) (op : mOp m ≠ 0x24)
    (own : mSdev m = s.deviceNumber)
    (asked : (s.fabric.requests.find? fun r => r.msg = { m with hdr := withField m.hdr 85 3 0 }) = some r) :
    ∃ v, s.route m none 0 = State.refuseRequest v r 0x31 7 s.deviceNumber ∧ State.tiles v = (s.repaid r.tile r.uid).tiles := by
  let told := s.alarm 0x0B 0x810 0 (natLE 16 (pack [(8, mSdev m), (8, mTdev m), (112, 0)]))
  have kept : Keeps { tiles := true, fabric := true } s told := State.alarm_keeps _ _ _ _ _ (Keeps.refl s) rfl
  have asked' : (told.fabric.requests.find? fun r => r.msg = { m with hdr := withField m.hdr 85 3 0 }) = some r := by
    rw [kept.same.fabric rfl]
    exact asked
  refine ⟨(told.dropRequest r.uid).repaid r.tile r.uid, ?_, ?_⟩
  · simp only [State.route, State.hop_of_no_ports ports, State.noRoute, op, own, if_false, if_true]
    rw [← own, asked']
  · have tiles : (told.dropRequest r.uid).tiles = s.tiles := kept.same.tiles rfl
    simp only [State.repaid, State.modTile, State.setTile, State.tile, tiles]

/-! ## A refusal that lets such a request leave (09 R304) -/

/-- A write of the mover to device 1, which waits for one of its 64 places. -/
def waitingWrite : Unsent :=
  { entry := { uid := 0, word := 0, s0 := 0, s1 := 0, chan := 0, skip := false }, stream := .fwd
    what := .ask { op := 0x02, dev := 1, addr := 0 } }

/-- The refusal of the write 2, of the same stream. -/
def turnedAway : Packet :=
  { uid := 64, ctx := 0, epoch := 0, chan := 0, src := .tile 1, dst := .tile 0, stream := .fwd, engine := 2
    body := .refusal 2 ⟨0x25, 0, 0⟩ }

/-- A module without ports in service. The 64 places of tile 0 are taken, by the write 2 among others, and one more waits. -/
def crowded : State :=
  { tiles := [(0, { unacked := (List.range 64).map fun u => ⟨u, 0, .fwd, false, true⟩, unsent := [waitingWrite] })]
    net := [turnedAway], power := { state := 2 } }

theorem takes_crowded : Takes crowded 0 turnedAway where
  there := by decide
  serves := by decide
  fresh := by decide
  whole n h := by cases h; decide

/-- The one request that waits for a place takes a place that is free. -/
theorem State.pumpUnsent_of_single {s : State} {n : Nat} {u : Unsent} (alone : (s.tile n).unsent = [u]) (room : s.moverOut n < 64) :
    s.pumpUnsent n = (s.modTile n fun t => { t with unsent := [] }).sendOne n u := by
  obtain ⟨k, hk⟩ : ∃ k, 64 - s.moverOut n = k + 1 := ⟨63 - s.moverOut n, by omega⟩
  unfold State.pumpUnsent State.modTile
  simp [hk, alone]

/-- The state in which the write that waited leaves: the refusal has freed a place. -/
def uncrowded : State := (((crowded.consume 0).repaid 0 2).modTile 0 fun t => { t with unsent := [] }).fresh.2

def lostWrite : Request := uncrowded.writeRequest 0 .mover .fwd waitingWrite.entry 1 { op := 0x02, dev := 1, addr := 0 }

theorem acked_crowded : (crowded.consume 0).acked 0 2 =
    uncrowded.request 0 .mover .fwd waitingWrite.entry 1 { op := 0x02, dev := 1, addr := 0 } := by
  have pumped : (crowded.consume 0).acked 0 2 = ((crowded.consume 0).repaid 0 2).pumpUnsent 0 := rfl
  rw [pumped, State.pumpUnsent_of_single (u := waitingWrite) rfl (by decide)]
  rfl

/-- The write that waited finds no route, and halts its stream with 0x31 (10 R338). -/
theorem crowded_halts : let r := (((crowded.consume 0).acked 0 2).tile 0).records.get .fwd
    recordValid r = true ∧ recordReason r = 0x31 := by
  obtain ⟨v, sends, requests, ports, device, fresh⟩ :=
    uncrowded.request_of_write 0 .mover .fwd waitingWrite.entry 1 (a := { op := 0x02, dev := 1, addr := 0 }) rfl
  have alone : v.fabric.requests = [lostWrite] := requests
  have may : v.fabric.mayLeave lostWrite = true := by
    rw [Fabric.mayLeave, alone]
    decide
  have free : v.leaveHeld lostWrite = false := by
    rw [State.leaveHeld, alone, State.hop_of_no_ports ports]
    simp
  have own : mSdev lostWrite.msg = v.deviceNumber := device ▸ (by decide)
  have straight : { lostWrite.msg with hdr := withField lostWrite.msg.hdr 85 3 0 } = lostWrite.msg := by decide
  obtain ⟨w, refused, tiles⟩ := State.route_refused (r := { lostWrite with sent := true })
    (s := { v with fabric := { v.fabric with requests := [{ lostWrite with sent := true }] } }) ports (by decide) own
    (by rw [straight]; simp)
  obtain ⟨u, h, halts, reason, unit, tiles'⟩ := State.refuseRequest_halts w (r := { lostWrite with sent := true }) 0x31 7
    v.deviceNumber (by decide) (by decide)
  have records : (u.tile 0).records = (v.tile 0).records := by
    rw [State.tile, tiles', tiles]
    exact State.records_repaid _ 0 _
  have halted := halted_halt u 0 .fwd h (by decide) (reason ▸ by decide) (unit ▸ by decide) (by rw [records, fresh]; decide)
  rw [acked_crowded, sends, State.sendWaiting_of_single alone rfl may free, refused, halts]
  exact ⟨halted.valid, halted.reason.trans reason⟩

/-- Refutes O39: a refusal frees one of the mover's places before it halts the stream, and the write that takes the place may itself
halt the stream; the record then names that reason, and not the refusal's. -/
theorem not_repliesReachTheirCommand : ¬ Obligations.RepliesReachTheirCommand := by
  intro h
  obtain ⟨-, -, -, -, refusals, -⟩ := h crowded 0 0 turnedAway takes_crowded rfl
  obtain ⟨-, halts⟩ := refusals 2 ⟨0x25, 0, 0⟩ rfl
  obtain ⟨-, reason, -⟩ := halts (by decide) (by decide) (by decide) (fun st => by cases st <;> rfl)
  obtain ⟨valid, first⟩ := crowded_halts
  have kept := (State.reason_halt_of_valid _ 0 .fwd ⟨0x25, 2, 0, 0, 0, 0⟩ valid).2.trans first
  exact absurd (kept.symm.trans reason) (by decide)

end Sys2Proof.Machine

namespace Sys2Proof.Machine

/-! ## A tally's own operations (08 R260–R262) -/

/-- Claims are served from the front, each with its amount taken, up to one whose amount is not there. -/
theorem serveClaims_spec (v : Nat) (claims : List Waiter) : let r := serveClaims v claims
    claims = r.1 ++ r.2.1 ∧ r.2.2 + (r.1.map (·.v)).sum = v ∧ ∀ c rest, r.2.1 = c :: rest → r.2.2 < c.v := by
  induction claims generalizing v with
  | nil => simp [serveClaims]
  | cons c cs ih =>
    rw [serveClaims]
    split
    · next covered =>
      obtain ⟨split, sum, short⟩ := ih (v - c.v)
      refine ⟨congrArg (c :: ·) split, ?_, short⟩
      simp only [List.map_cons, List.sum_cons]
      omega
    · next short =>
      refine ⟨rfl, rfl, fun d rest h => ?_⟩
      cases h
      exact Nat.lt_of_not_le short

/-- A signal adds its amount, saturating, and releases the waiters that the value has reached and then claimers. -/
theorem Tally.signal_spec (t : Tally) (n : Nat) (by' : LastSignal) : let r := t.signal n by'
    let v := min 0xFFFFFFFF (t.value + n)
    r.1.waits = t.waits.filter (fun w => !decide (w.v ≤ v)) ∧ (r.1.overflow = true ↔ t.overflow = true ∨ 0xFFFFFFFF < t.value + n) ∧
    ∃ served, t.claims = served ++ r.1.claims ∧ r.2 = t.waits.filter (fun w => decide (w.v ≤ v)) ++ served ∧
      r.1.value + (served.map (·.v)).sum = v ∧ ∀ c rest, r.1.claims = c :: rest → r.1.value < c.v := by
  obtain ⟨split, sum, short⟩ := serveClaims_spec (min 0xFFFFFFFF (t.value + n)) t.claims
  refine ⟨rfl, ?_, _, split, rfl, sum, short⟩
  rw [← decide_eq_true_iff (p := 0xFFFFFFFF < t.value + n), ← Bool.or_eq_true]
  rfl

theorem Tally.register_claim (t : Tally) {w : Waiter} (h : w.kind = .tclaim) :
    (t.register w = ({ t with value := t.value - w.v }, [w]) ∧ t.claims = [] ∧ w.v ≤ t.value) ∨
      (t.register w = ({ t with claims := t.claims ++ [w] }, []) ∧ (t.claims ≠ [] ∨ t.value < w.v)) := by
  simp only [Tally.register, h]
  split
  · next served =>
    obtain ⟨first, covered⟩ := Bool.and_eq_true_iff.mp served
    exact .inl ⟨rfl, List.isEmpty_iff.mp first, decide_eq_true_iff.mp covered⟩
  · next waits =>
    refine .inr ⟨rfl, ?_⟩
    simpa [Nat.not_le, or_iff_not_imp_left] using waits

theorem Tally.register_wait (t : Tally) {w : Waiter} (h : w.kind ≠ .tclaim) :
    t.register w = if w.v ≤ t.value then (t, [w]) else ({ t with waits := t.waits ++ [w] }, []) := by
  unfold Tally.register
  split
  · next claim => exact absurd claim h
  · rfl

/-! ## Tallies at their homes -/

theorem State.tallyAt_setTally (s : State) (p : Place) (g : Nat) (t : Tally) : (s.setTally p g t).tallyAt p g = t := by
  cases p <;> simp [State.tallyAt, State.setTally, State.tally, State.gtally]

/-- Tallies are where they were where tiles and the cache dies' tallies are. -/
theorem State.tallyAt_congr {s t : State} (tiles : t.tiles = s.tiles) (gtallies : t.gtallies = s.gtallies) (p : Place) (g : Nat) :
    t.tallyAt p g = s.tallyAt p g := by
  cases p <;> simp [State.tallyAt, State.tally, State.tile, State.gtally, tiles, gtallies]

theorem State.tallyAt_reply (s : State) (q : Packet) (b : Body) (p : Place) (g : Nat) : (s.reply q b).tallyAt p g = s.tallyAt p g :=
  State.tallyAt_congr rfl rfl p g

theorem State.net_setTally (s : State) (p : Place) (g : Nat) (t : Tally) : (s.setTally p g t).net = s.net :=
  (State.setTally_keeps s p g t (pt := { net := true }) (Keeps.refl s) rfl rfl).same.net rfl

theorem State.mem_setTally (s : State) (p : Place) (g : Nat) (t : Tally) : (s.setTally p g t).mem = s.mem :=
  (State.setTally_keeps s p g t (pt := { mem := true }) (Keeps.refl s) rfl rfl).same.mem rfl

theorem State.tallyAt_releaseAll (s : State) (home : Place) (claims out : List Waiter) (p : Place) (g : Nat) :
    (s.releaseAll home claims out).tallyAt p g = s.tallyAt p g := by
  have kept := (State.releaseAll_keeps s home claims out (pt := { tiles := true, gtallies := true }) (Keeps.refl s) rfl rfl).same
  exact State.tallyAt_congr (kept.tiles rfl) (kept.gtallies rfl) p g

/-- One unit released: its release is on its way to its tile. -/
theorem State.net_releaseAll_single (s : State) (home : Place) (claims : List Waiter) (w : Waiter) :
    ∃ q, (s.releaseAll home claims [w]).net = s.net ++ [q] ∧ q.dst = .tile w.tile ∧ q.entry = w.entry ∧ q.body = .release w.kind := by
  have kept := (State.countClaim_keeps s (claims.filter fun o => o.kind = .tclaim) w (pt := { net := true }) (Keeps.refl s) rfl).same.net rfl
  exact ⟨_, congrArg (· ++ _) kept, rfl, rfl, rfl⟩

section
variable {s : State} {k g : Nat} {p : Packet} (h : Takes s k p)
include h

/-- A registration is released where its tally's `register` says so, and no other unit is. -/
theorem exec_tallyRegistrationAtHome {kind : WaitKind} {v : Nat} {may : Bool} (hb : p.body = .register g kind v may) :
    let w : Waiter := ⟨kind, p.stream, p.engine, p.from, p.tag, v, p.entry, may⟩
    let r := (s.tallyAt p.dst g).register w
    ∃ t, exec (.tallyRegistrationAtHome k) s = .next t ∧ t.tallyAt p.dst g = r.1 ∧ t.mem = s.mem ∧
      (r.2 = [] → t.net = s.net.eraseIdx k) ∧
      (r.2 = [w] → ∃ q, t.net = s.net.eraseIdx k ++ [q] ∧ q.dst = .tile p.from ∧ q.entry = p.entry ∧ q.body = .release kind) := by
  intro w r
  have run : execTallyRegistrationAtHome k s = _ := onPacket_of_takes h _ (by simp [hb]) _
  simp only [hb] at run
  refine ⟨((s.consume k).setTally p.dst g r.1).releaseAll p.dst r.1.claims r.2, run, ?_, ?_, fun none => ?_, fun one => ?_⟩
  · rw [State.tallyAt_releaseAll, State.tallyAt_setTally]
  · exact ((State.releaseAll_keeps _ _ _ _ (pt := { mem := true }) (Keeps.refl _) rfl rfl).same.mem rfl).trans
      (State.mem_setTally _ _ _ _)
  · rw [none, State.releaseAll, State.net_setTally]
    rfl
  · rw [one]
    obtain ⟨q, net, dst, entry, body⟩ := State.net_releaseAll_single ((s.consume k).setTally p.dst g r.1) p.dst r.1.claims w
    rw [State.net_setTally] at net
    exact ⟨q, net, dst, entry, body⟩

/-- A set reaches a tally with nothing registered, or is refused (08 R521). -/
theorem exec_tallySetAtHome {v : Nat} {remote : Bool} (hb : p.body = .set g v remote) : let u := s.tallyAt p.dst g
    ∃ t q, exec (.tallySetAtHome k) s = .next t ∧ t.net = s.net.eraseIdx k ++ [q] ∧ q.dst = p.src ∧
      (u.waits = [] → u.claims = [] → (t.tallyAt p.dst g).value = v ∧ (isTile p.dst = true → (t.tallyAt p.dst g).remote = remote)) ∧
      (u.waits ≠ [] ∨ u.claims ≠ [] → t.tallyAt p.dst g = u) ∧
      ∃ loc, q.body = .setAnswer (!u.waits.isEmpty || !u.claims.isEmpty) g loc := by
  intro u
  have run : execTallySetAtHome k s = _ := onPacket_of_takes h _ (by simp [hb]) _
  simp only [hb] at run
  by_cases held : (!u.waits.isEmpty || !u.claims.isEmpty) = true
  · have held' : (!((s.consume k).tallyAt p.dst g).waits.isEmpty || !((s.consume k).tallyAt p.dst g).claims.isEmpty) = true := held
    rw [if_pos held'] at run
    refine ⟨_, _, run, rfl, rfl, fun waits claims => ?_, fun _ => ?_, _, congrArg (Body.setAnswer · g _) held.symm⟩
    · simp [waits, claims] at held
    · exact State.tallyAt_reply _ _ _ _ _
  · have held' : ¬(!((s.consume k).tallyAt p.dst g).waits.isEmpty || !((s.consume k).tallyAt p.dst g).claims.isEmpty) = true := held
    rw [if_neg held'] at run
    refine ⟨_, _, run, congrArg (· ++ _) (State.net_setTally _ _ _ _), rfl, fun _ _ => ?_, fun some => ?_, _,
      congrArg (Body.setAnswer · g _) (Bool.eq_false_iff.mpr held).symm⟩
    · rw [State.tallyAt_reply, State.tallyAt_setTally]
      refine ⟨rfl, fun tile => ?_⟩
      cases hd : p.dst with
      | tile m => rfl
      | _ => simp [hd, isTile] at tile
    · exact absurd (by simpa [or_iff_not_imp_left] using some) held
end

/-- Settles O40: what arrives at a tally's home, and what a signal and a registration do to a tally. -/
theorem talliesCountAndRelease : Obligations.TalliesCountAndRelease := by
  refine ⟨fun s k p h => ⟨fun g n src cyc hb => ?_, fun g n cyc m hb hd may => ?_, fun g n cyc m hb hd no far => ?_,
    fun g kind v may hb => exec_tallyRegistrationAtHome h hb, fun g v remote hb => exec_tallySetAtHome h hb⟩,
    Tally.signal_spec, fun t w => ⟨t.register_claim, t.register_wait⟩⟩
  · have run : execTallySignalAtHome k s = _ := onPacket_of_takes h _ (by simp [hb, isSignal]) _
    simp only [hb] at run
    exact run
  · have run : execRemoteSignalAtTile k s = _ :=
      onPacket_of_takes h _ (by simp [hb, hd, execRemoteSignalAtTile.isTileDst]) _
    have may' : (((s.consume k).tally p.at g).remote || decide (p.src = p.dst)) = true := by
      rw [Packet.at_of_dst hd]
      exact Bool.or_eq_true_iff.mpr (may.imp id decide_eq_true)
    simp only [hb] at run
    rw [if_pos may'] at run
    exact run
  · have run : execRemoteSignalAtTile k s = _ :=
      onPacket_of_takes h _ (by simp [hb, hd, execRemoteSignalAtTile.isTileDst]) _
    have no' : ¬(((s.consume k).tally p.at g).remote || decide (p.src = p.dst)) = true := by
      rw [Packet.at_of_dst hd]
      have no : ((s.consume k).tally m g).remote = false := no
      simp [no, far]
    simp only [hb] at run
    rw [if_neg no'] at run
    exact run

end Sys2Proof.Machine

namespace Sys2Proof.Machine

/-! ## Releases and answers of a tally's home (08 R265, R268, R521) -/

theorem State.waitAt_of_waiting {s : State} {n : Nat} {st : Stream} {what : WaitAt} {r : RvOp × Nat}
    (h : s.waiting n st what = some r) : (s.thread n st).waitAt = some what := by
  have waits := (Option.ite_none_right_eq_some.mp h).1
  simp only [Bool.and_eq_true, decide_eq_true_eq] at waits
  exact waits.1.1.2

/-- A thread that learns of its release waits as it did. -/
theorem State.waiting_released (s : State) (n : Nat) (st : Stream) (what : WaitAt) :
    (s.modThread n st fun t => { t with released := true }).waiting n st what = s.waiting n st what := by
  have tile : (s.modThread n st fun t => { t with released := true }).tile n = _ := State.tile_modTile _ _ _
  unfold State.waiting State.current State.fetch State.fetchBad State.fetchWord State.imemByte bankBytes State.alive
  simp only [State.thread_modThread, tile]
  rfl

/-- The release of a waiting CTWAIT retires it (08 R268). -/
theorem State.ctwaitReleased_of_waiting {s : State} {n a b len : Nat} {st : Stream}
    (waits : s.waiting n st .ctwait = some (.ctwait a b, len)) : s.ctwaitReleased n st (s.thread n st).waitUid =
      ((s.modThread n st fun t => { t with released := true }).wake n st).retire n st len := by
  have released : ((s.modThread n st fun t => { t with released := true }).thread n st).released = true := by
    rw [State.thread_modThread]
  simp only [State.ctwaitReleased, State.waitAt_of_waiting waits, State.ctwaitRetire, State.waiting_released, waits, released,
    decide_true, Bool.and_self, if_true]

/-- Settles O41: what the arrival of a release or of an answer does to the unit that it names. -/
theorem releasesReachTheWaiter : Obligations.ReleasesReachTheWaiter := by
  intro s k n p h hd
  refine ⟨fun kind e x hk hb hx => ?_, fun a b len hb hw hu => ?_, fun refused g loc x hb hx => ?_⟩
  · have run : execTallyReleaseArrive k s = _ := onPacket_of_takes h _ (by simp [hb]) _
    have there : (s.consume k).findEntry n p.stream p.entry = some (e, x) := hx
    cases kind
    case ctwait => exact absurd rfl hk
    all_goals
      simp only [hb, Packet.at_of_dst hd, there] at run
      exact run
  · have run : execTallyReleaseArrive k s = _ := onPacket_of_takes h _ (by simp [hb]) _
    have named : (s.consume k).ctwaitReleased n p.stream p.entry = _ := hu ▸ State.ctwaitReleased_of_waiting (s := s.consume k) hw.waits
    simp only [hb, Packet.at_of_dst hd, named] at run
    have retired := retired_wake ((s.consume k).modThread n p.stream fun t => { t with released := true }) n p.stream len
    refine ⟨_, run, retired.rest.net rfl, ?_⟩
    rw [retired.thread, State.pcAfter, State.thread_modThread]
    rfl
  · have run : execTsetAnswerArrive k s = _ := onPacket_of_takes h _ (by simp [hb]) _
    have there : ((s.consume k).queue n .tally p.stream).entries.find? (fun x => x.uid = p.entry) = some x := hx
    simp only [hb, Packet.at_of_dst hd, there] at run
    exact run

end Sys2Proof.Machine

namespace Sys2Proof.Machine

/-! ## Teams lie where the descriptors say (01 R31, R33) -/

section
variable {s t : State} (h : t.teams = s.teams)
include h

theorem State.team_congr (i : Nat) : t.team i = s.team i := by rw [State.team, State.team, h]

theorem State.chain_congr (depth : Nat) : t.chain depth = s.chain depth := by
  induction depth with
  | zero => rfl
  | succ depth ih =>
    funext i
    rw [State.chain, State.chain, State.team_congr h, ih]

theorem State.rects_congr (depth : Nat) : t.rects depth = s.rects depth := by
  induction depth with
  | zero => rfl
  | succ depth ih =>
    funext i
    simp only [State.rects, State.team_congr h, State.chain_congr h, ih]

theorem State.members_congr (group : Nat) : t.members group = s.members group := by
  rw [State.members, State.members, State.chain_congr h, State.team_congr h]

theorem State.teamTiles_congr (i : Nat) : t.teamTiles i = s.teamTiles i := by
  simp only [State.teamTiles, State.rects_congr h, State.team_congr h]

/-- A huddle's counts of arrivals rest on its own arrivals and on the teams. -/
theorem State.recount_congr (x : Huddle) : t.recount x = s.recount x := by
  simp only [State.recount, State.arrived, State.members_congr h, State.teamTiles_congr h]

end

/-! ## Several packets sent at once -/

/-- A packet without what sending gives it, its name and its context's epoch. -/
def Packet.unstamped (p : Packet) : Packet := { p with uid := 0, epoch := 0 }

/-- Packets sent one after another follow those in flight, in their order. -/
theorem State.net_foldl_send (ps : List Packet) (s : State) :
    ∃ l, (ps.foldl State.send s).net = s.net ++ l ∧ l.map Packet.unstamped = ps.map Packet.unstamped := by
  induction ps generalizing s with
  | nil => exact ⟨[], (List.append_nil _).symm, rfl⟩
  | cons p ps ih =>
    obtain ⟨l, net, same⟩ := ih (s.send p)
    exact ⟨_, net.trans (List.append_assoc _ _ _), congrArg (p.unstamped :: ·) same⟩

/-- One packet for each tile of each of some teams. -/
theorem State.foldl_teamTiles_send (packet : Nat → Nat → Packet) (ms : List Nat) (s : State) :
    ms.foldl (fun u m => (u.teamTiles m).foldl (fun v n => v.send (packet m n)) u) s =
      (ms.flatMap fun m => (s.teamTiles m).map (packet m)).foldl State.send s := by
  induction ms generalizing s with
  | nil => rfl
  | cons m ms ih =>
    have teams := foldl_preserves (g := State.teams) (fun v n => State.send_teams v (packet m n)) (s.teamTiles m) s
    rw [List.foldl_cons, ih, List.flatMap_cons, List.foldl_append, List.foldl_map]
    simp only [State.teamTiles_congr teams]

/-! ## The close of a round (08 R279) -/

/-- The close that goes to tile n of the participant m. -/
def closePacket (hid : Nat) (d : BitVec 128) (m n : Nat) : Packet :=
  { uid := 0, ctx := hdCtx d, epoch := 0, chan := 0, src := .tile (hdHome d), dst := .tile n
    stream := streamOf (hdStream d), engine := 4, entry := m, body := .close hid (hdRound d) }

def State.closePackets (s : State) (hid : Nat) (d : BitVec 128) : List Packet :=
  (s.members (hdGroup d)).flatMap fun m => (s.teamTiles m).map (closePacket hid d m)

theorem State.mem_closePackets {s : State} {hid : Nat} {d : BitVec 128} {q : Packet} :
    q ∈ s.closePackets hid d ↔ ∃ m ∈ s.members (hdGroup d), ∃ n ∈ s.teamTiles m, closePacket hid d m n = q := by
  simp only [State.closePackets, List.mem_flatMap, List.mem_map]

/-- The close tally's signal, with the time at which it was sent. -/
def closeSignal (d : BitVec 128) (cycles : BitVec 48) : Packet :=
  { uid := 0, ctx := hdCtx d, epoch := 0, chan := 0, src := .tile (hdHome d), dst := .die (hdCloseTally d % 8)
    stream := streamOf (hdStream d), engine := 4, body := .signal (hdCloseTally d) 1 0 cycles }

/-- A huddle whose oldest open round has closed. -/
def Huddle.closed (h : Huddle) : Huddle :=
  { desc := withField (withField (withField h.desc 64 16 (hdRound h.desc + 1)) 52 12 (hdArrN h.desc)) 40 12 0
    arrivals := h.arrivals.filter fun a => a.2.2 != hdRound h.desc
    again := decide (hdArrN h.desc = hdParts h.desc) }

/-- The machine with a round's number moved on and its closes on their way. -/
def State.closesSent (s : State) (hid : Nat) (h : Huddle) : State :=
  (s.closePackets hid h.desc).foldl State.send { s with huddles := tset hid h.closed s.huddles }

theorem State.closeRound_eq (s : State) (hid : Nat) (h : Huddle) : s.closeRound hid h =
    if hdCloseEn h.desc then
      let c := (s.closesSent hid h).cycle (hdHome h.desc)
      (c.2.traceSignal (hdHome h.desc) (hdCtx h.desc) (hdHome h.desc) 4 (hdStream h.desc) 0 0 0 (hdCloseTally h.desc)).send
        (closeSignal h.desc c.1)
    else s.closesSent hid h := by
  have teams : ({ s with huddles := tset hid h.closed s.huddles } : State).teams = s.teams := rfl
  have sent := State.foldl_teamTiles_send (closePacket hid h.desc) (s.members (hdGroup h.desc))
    { s with huddles := tset hid h.closed s.huddles }
  simp only [State.teamTiles_congr teams] at sent
  rw [State.closesSent, State.closePackets, ← sent]
  rfl

theorem State.huddles_closeRound (s : State) (hid : Nat) (h : Huddle) :
    (s.closeRound hid h).huddles = tset hid h.closed s.huddles := by
  have sent : (s.closesSent hid h).huddles = tset hid h.closed s.huddles := foldl_preserves (g := State.huddles) State.send_huddles _ _
  rw [State.closeRound_eq]
  split
  · rw [State.send_huddles]
    exact ((State.traceSignal_keeps _ _ _ _ _ _ _ _ _ _ (pt := { huddles := true }) (State.cycle_keeps _ _ (Keeps.refl _)) rfl).same.huddles
      rfl).trans sent
  · exact sent

/-- A round that closes sends its closes and, where asked, the close tally's signal. -/
theorem State.net_closeRound (s : State) (hid : Nat) (h : Huddle) : ∃ l, (s.closeRound hid h).net = s.net ++ l ∧
    ∃ cycles, l.map Packet.unstamped = (s.closePackets hid h.desc).map Packet.unstamped ++
      if hdCloseEn h.desc then [closeSignal h.desc cycles] else [] := by
  obtain ⟨l, net, same⟩ := State.net_foldl_send (s.closePackets hid h.desc) { s with huddles := tset hid h.closed s.huddles }
  rw [State.closeRound_eq]
  split
  · have kept := (State.traceSignal_keeps ((s.closesSent hid h).cycle (hdHome h.desc)).2 (hdHome h.desc) (hdCtx h.desc) (hdHome h.desc) 4
      (hdStream h.desc) 0 0 0 (hdCloseTally h.desc) (pt := { net := true }) (State.cycle_keeps _ _ (Keeps.refl _)) rfl).same.net rfl
    refine ⟨_, (congrArg (· ++ _) (kept.trans net)).trans (List.append_assoc _ _ _),
      ((s.closesSent hid h).cycle (hdHome h.desc)).1, ?_⟩
    rw [List.map_append, same]
    rfl
  · exact ⟨l, net, 0, by rw [same, List.append_nil]⟩

/-- The fields above a huddle's round stay as they were. -/
theorem Huddle.bits_closed (h : Huddle) {hi lo : Nat} (above : 80 ≤ lo) : bits h.closed.desc.toNat hi lo = bits h.desc.toNat hi lo :=
  (bits_withField_of_apart _ 0 (by decide) (by decide) (.inr (by omega))).trans <|
    (bits_withField_of_apart _ (hdArrN h.desc) (by decide) (by decide) (.inr (by omega))).trans <|
      bits_withField_of_apart h.desc (hdRound h.desc + 1) (by decide) (by decide) (.inr above)

/-- A closed round's number moves on, and the counts of arrivals move up. -/
theorem Huddle.closed_fields (h : Huddle) : hdRound h.closed.desc = (hdRound h.desc + 1) % 65536 ∧
    hdArrC h.closed.desc = hdArrN h.desc ∧ hdArrN h.closed.desc = 0 := by
  have arrivals : hdArrN h.desc % 2 ^ 12 = hdArrN h.desc := Nat.mod_eq_of_lt (bits_lt _ 51 40)
  refine ⟨?_, ?_, bits_withField _ 40 12 0 (by decide) (by decide)⟩
  · refine (bits_withField_of_apart _ 0 (by decide) (by decide) (.inr (by decide))).trans ?_
    refine (bits_withField_of_apart _ (hdArrN h.desc) (by decide) (by decide) (.inr (by decide))).trans ?_
    exact bits_withField h.desc 64 16 _ (by decide) (by decide)
  · refine (bits_withField_of_apart _ 0 (by decide) (by decide) (.inr (by decide))).trans ?_
    exact (bits_withField _ 52 12 _ (by decide) (by decide)).trans arrivals

/-- Counting arrivals leaves a huddle's kind. -/
theorem State.hdKind_recount (s : State) (h : Huddle) : hdKind (s.recount h).desc = hdKind h.desc :=
  (bits_withField_of_apart _ (s.arrived h ((hdRound h.desc + 1) % 65536)) (by decide) (by decide) (.inr (by decide))).trans
    (bits_withField_of_apart h.desc (s.arrived h (hdRound h.desc)) (by decide) (by decide) (.inr (by decide)))

theorem State.kind_of_huddle {s : State} {hid : Nat} {h : Huddle} (hh : s.huddle hid = some h) : hdKind h.desc = 1 := by
  unfold State.huddle at hh
  split at hh
  · obtain ⟨kind, same⟩ := Option.ite_none_right_eq_some.mp hh
    cases same
    exact kind
  · cases hh

theorem State.huddle_of_set {s t : State} {hid : Nat} {h : Huddle} (set : t.huddles = tset hid h s.huddles) (kind : hdKind h.desc = 1) :
    t.huddle hid = some h := by
  rw [State.huddle, set, tfind_tset_self]
  exact if_pos kind

theorem State.huddle_of_set_of_ne {s t : State} {hid j : Nat} {h : Huddle} (set : t.huddles = tset hid h s.huddles) (hj : j ≠ hid) :
    t.huddle j = s.huddle j := by
  rw [State.huddle, set, tfind_tset_of_ne _ _ hj, ← State.huddle]

/-- Settles O42: what an arrival, a next round and a close do, and what the close of a round sends. -/
theorem huddlesCloseRounds : Obligations.HuddlesCloseRounds := by
  refine ⟨fun s k hid team round p h takes hb hh => ?_, fun s hid h small hh serves kept again => ?_, fun s hid h kind => ?_,
    fun s k n hid round p takes hd hb => ?_⟩
  · intro h1
    have run : execHuddleArrivalAtHome k s = _ := onPacket_of_takes takes _ (by simp [hb]) _
    have there : (s.consume k).huddle hid = some h := hh
    have counted : (s.consume k).recount { h with arrivals := (team, p.from, round) :: h.arrivals } = h1 :=
      State.recount_congr (s := s) (t := s.consume k) rfl _
    simp only [hb, there, counted] at run
    have full : (decide (hdArrC h1.desc = hdParts h1.desc) && !h.again) = true ↔
        hdArrC h1.desc = hdParts h1.desc ∧ h.again = false := by simp
    refine ⟨fun closes => ?_, fun stays => ?_⟩
    · rw [if_pos (full.mpr closes)] at run
      exact run
    · rw [if_neg (full.not.mpr stays)] at run
      have kind : hdKind h.desc = 1 := State.kind_of_huddle hh
      exact ⟨_, run, State.huddle_of_set rfl ((State.hdKind_recount _ _).trans kind), rfl, rfl,
        fun j hj => State.huddle_of_set_of_ne (s := s) rfl hj⟩
  · have inside : ¬1024 ≤ hid := by omega
    have run : execHuddleNextRoundClose hid s = .next (s.closeRound hid h) := by
      simp only [execHuddleNextRoundClose, inside, if_false, hh, serves, kept, again, Bool.and_self, if_true]
    exact run
  · obtain ⟨l, net, cycles, sent⟩ := s.net_closeRound hid h
    obtain ⟨round, arrC, arrN⟩ := h.closed_fields
    refine ⟨h.closed, l, State.huddle_of_set (s.huddles_closeRound hid h) ((h.bits_closed (by decide)).trans kind), round, arrC, arrN,
      h.bits_closed (by decide), decide_eq_true_iff, net, fun m hm n hn => ?_, ?_⟩
    · have among : closePacket hid h.desc m n ∈ l.map Packet.unstamped := by
        rw [sent]
        exact List.mem_append_left _ (List.mem_map.mpr ⟨_, State.mem_closePackets.mpr ⟨m, hm, n, hn, rfl⟩, rfl⟩)
      obtain ⟨q, hq, stamped⟩ := List.mem_map.mp among
      exact ⟨q, hq, congrArg Packet.dst stamped, congrArg Packet.entry stamped, congrArg Packet.body stamped⟩
    · have dsts : l.map Packet.dst = (s.closePackets hid h.desc).map Packet.dst ++
          if hdCloseEn h.desc then [.die (hdCloseTally h.desc % 8)] else [] := by
        have same := congrArg (List.map Packet.dst) sent
        rw [List.map_append, List.map_map, List.map_map, apply_ite (List.map Packet.dst)] at same
        exact same
      have none : Place.die (hdCloseTally h.desc % 8) ∉ (s.closePackets hid h.desc).map Packet.dst := fun among => by
        obtain ⟨q, hq, die⟩ := List.mem_map.mp among
        obtain ⟨m, -, n, -, rfl⟩ := State.mem_closePackets.mp hq
        cases die
      rw [← List.mem_map, dsts, List.mem_append]
      simp [none]
  · have run : execHuddleCloseArrive k s = _ := onPacket_of_takes takes _ (by simp [hb]) _
    simp only [hb, Packet.at_of_dst hd] at run
    refine ⟨_, run, rfl, ?_⟩
    simp only [State.tile_modTile, tget_tset_self]
    exact ⟨rfl, rfl⟩

end Sys2Proof.Machine

namespace Sys2Proof.Machine

/-! ## Several halts for one reason (02 R79, R82) -/

theorem State.tile_halt_of_ne (s : State) {n m : Nat} (st : Stream) (h : Halt) (hm : m ≠ n) : (s.halt n st h).tile m = s.tile m := by
  obtain ⟨record, e, -⟩ := s.tiles_halt n st h
  rw [State.tile, e, ← State.tile, State.tile_modTile_of_ne _ _ hm, (State.switchBank_other _ n st).2 m hm, State.modThread,
    State.tile_modTile_of_ne _ _ hm]

/-- Of its own tile a halt changes threads, records and the switches that are pending. -/
theorem State.tile_halt_own (s : State) (n : Nat) (st : Stream) (h : Halt) : (s.halt n st h).tile n = { s.tile n with
    threads := ((s.halt n st h).tile n).threads
    records := ((s.halt n st h).tile n).records
    switching := ((s.halt n st h).tile n).switching } := by
  obtain ⟨record, e, -⟩ := s.tiles_halt n st h
  have own := State.switchBank_own (s.modThread n st fun th => th.halt h.reason) n st
  rw [State.modThread, State.tile_modTile] at own
  rw [State.tile, e, ← State.tile, State.tile_modTile, State.modThread, own]

/-- The tile's other streams keep their threads and their records. -/
theorem State.halt_spares (s : State) (n : Nat) (st : Stream) (h : Halt) {u : Stream} (hu : u ≠ st) :
    (s.halt n st h).thread n u = s.thread n u ∧ ((s.halt n st h).tile n).records.get u = (s.tile n).records.get u := by
  obtain ⟨record, e, -⟩ := s.tiles_halt n st h
  constructor
  · rw [State.thread, State.tile, e, ← State.tile, State.tile_modTile]
    exact ((State.switchBank_other _ n st).1 u hu).trans (State.thread_modThread_of_ne _ _ _ hu)
  · rw [State.tile, e, ← State.tile, State.tile_modTile]
    refine (ByStream.get_set_of_ne _ _ hu).trans ?_
    rw [State.switchBank_own, State.modThread, State.tile_modTile]

/-- A halt leaves a valid record. -/
theorem State.valid_halt (s : State) {n : Nat} (st : Stream) {h : Halt} (hn : n < 2048) (hr : h.reason < 256) (hu : h.unit < 8) :
    recordValid (((s.halt n st h).tile n).records.get st) = true := by
  cases hv : recordValid ((s.tile n).records.get st)
  · exact (halted_halt s n st h hn hr hu hv).valid
  · exact (s.reason_halt_of_valid n st h hv).1

/-- What halts, all for one reason, make of the machine: streams halt, and a record that was not valid may have become one of that
reason. -/
structure Halts (reason : Nat) (s t : State) : Prop where
  own : ∀ m, t.tile m = { s.tile m with
    threads := (t.tile m).threads
    records := (t.tile m).records
    switching := (t.tile m).switching }
  runs : ∀ m st, (s.thread m st).run = .halt → (t.thread m st).run = .halt
  kept : ∀ m st, recordValid ((s.tile m).records.get st) = true → recordValid ((t.tile m).records.get st) = true ∧
    recordReason ((t.tile m).records.get st) = recordReason ((s.tile m).records.get st)
  reasons : ∀ m st, recordValid ((s.tile m).records.get st) = false → recordValid ((t.tile m).records.get st) = true →
    recordReason ((t.tile m).records.get st) = reason
  rest : Same ({ tiles := true, trouble := true, ports := true } : Parts).others s t

namespace Halts

theorem refl (reason : Nat) (s : State) : Halts reason s s :=
  ⟨fun _ => rfl, fun _ _ => id, fun _ _ hv => ⟨hv, rfl⟩, fun _ _ hf hv => absurd hv (by simp [hf]), Same.refl _ s⟩

theorem trans {reason : Nat} {s t u : State} (h : Halts reason s t) (g : Halts reason t u) : Halts reason s u where
  own m := by rw [g.own m, h.own m]
  runs m st hs := g.runs m st (h.runs m st hs)
  kept m st hv := by
    obtain ⟨valid, same⟩ := h.kept m st hv
    obtain ⟨valid', same'⟩ := g.kept m st valid
    exact ⟨valid', same'.trans same⟩
  reasons m st hf hv := by
    cases between : recordValid ((t.tile m).records.get st)
    · exact g.reasons m st between hv
    · exact (g.kept m st between).2.trans (h.reasons m st hf between)
  rest := h.rest.trans g.rest

theorem halt (s : State) {n : Nat} (st : Stream) {h : Halt} (hn : n < 2048) (hr : h.reason < 256) (hu : h.unit < 8) :
    Halts h.reason s (s.halt n st h) where
  own m := by
    by_cases hm : m = n
    · exact hm ▸ s.tile_halt_own n st h
    · rw [s.tile_halt_of_ne st h hm]
  runs m u hs := by
    by_cases hm : m = n
    · subst hm
      by_cases e : u = st
      · exact e ▸ s.run_halt m st h
      · rwa [(s.halt_spares m st h e).1]
    · rwa [State.thread, s.tile_halt_of_ne st h hm]
  kept m u hv := by
    by_cases hm : m = n
    · subst hm
      by_cases e : u = st
      · subst e
        exact s.reason_halt_of_valid m u h hv
      · rw [(s.halt_spares m st h e).2]
        exact ⟨hv, rfl⟩
    · rw [s.tile_halt_of_ne st h hm]
      exact ⟨hv, rfl⟩
  reasons m u hf hv := by
    by_cases hm : m = n
    · subst hm
      by_cases e : u = st
      · subst e
        exact (halted_halt s m u h hn hr hu hf).reason
      · rw [(s.halt_spares m st h e).2, hf] at hv
        cases hv
    · rw [s.tile_halt_of_ne st h hm, hf] at hv
      cases hv
  rest := (State.halt_keeps s n st h (Keeps.refl s) rfl rfl rfl).same

theorem foldl {α : Type} {reason : Nat} {f : State → α → State} (l : List α) (s : State)
    (step : ∀ u, ∀ x ∈ l, Halts reason u (f u x)) : Halts reason s (l.foldl f s) := by
  induction l generalizing s with
  | nil => exact refl reason s
  | cons x xs ih =>
    exact (step s x List.mem_cons_self).trans (ih _ fun u y hy => step u y (List.mem_cons_of_mem x hy))

end Halts

/-- What one step of a fold reaches and the others keep holds at its end. -/
theorem foldl_reaches {α : Type} {P : State → Prop} {f : State → α → State} {l : List α} {x : α} (hx : x ∈ l) (s : State)
    (reaches : ∀ u, P (f u x)) (keeps : ∀ u, ∀ y ∈ l, P u → P (f u y)) : P (l.foldl f s) := by
  induction l generalizing s with
  | nil => cases hx
  | cons y ys ih =>
    have keeps' : ∀ u, ∀ z ∈ ys, P u → P (f u z) := fun u z hz => keeps u z (List.mem_cons_of_mem y hz)
    rcases List.mem_cons.mp hx with rfl | later
    · exact List.foldlRecOn ys f (reaches s) fun u hu z hz => keeps' u z hz hu
    · exact ih later _ keeps'

/-! ## Local deadlocks (08 R281, R282) -/

/-- The halt for an entry of a deadlock report. -/
def Blocked.halt (b : Blocked) : Halt :=
  { reason := 0x43, unit := 4, tag := b.tag, chan := b.chan, detail := b.kind * 256 + b.tally }

/-- A stream halts for its first entry of the report. -/
def State.haltBlocked (n : Nat) (bs : List Blocked) (s : State) (st : Stream) : State :=
  match bs.find? fun b => b.stream = st with
  | some b => s.halt n st b.halt
  | none => s

theorem Blocked.reason_lt (b : Blocked) : b.halt.reason < 256 := (by decide : 0x43 < 256)
theorem Blocked.unit_lt (b : Blocked) : b.halt.unit < 8 := (by decide : 4 < 8)

/-- A deadlock's report (08 R281). -/
def State.deadlockReport (s : State) (n : Nat) (bs : List Blocked) : List Byte :=
  natLE 16 (pack [(8, s.owner n), (11, n), (5, bs.length), (16, s.nextSeq n 0), (48, (s.cycle n).1.toNat), (40, 0)]) ++
    bs.flatMap blockedBytes

/-- The machine with a deadlock's report written and sent. -/
def State.deadlockTold (s : State) (n : Nat) (bs : List Blocked) : State :=
  ((s.cycle n).2.modTile n fun t => { t with deadlock := s.deadlockReport n bs }).alarm 0x02 n (s.owner n) (s.deadlockReport n bs)

theorem exec_localDeadlock {s : State} {n : Nat} {bs : List Blocked} (hn : n < 2048) (alive : s.alive n = true)
    (kept : s.notResetting (s.owner n) = true) (blocked : s.deadlockEntries n = some bs) :
    exec (.localDeadlock n) s = .next (allStreams.foldl (State.haltBlocked n bs) (s.deadlockTold n bs)) := by
  have run : execLocalDeadlock n s = .next (allStreams.foldl (State.haltBlocked n bs) (s.deadlockTold n bs)) := by
    simp only [execLocalDeadlock, hn, alive, kept, blocked, Bool.and_self, if_true]
    rfl
  exact run

theorem State.deadlockReport_length (s : State) (n : Nat) (bs : List Blocked) :
    (s.deadlockReport n bs).length = 16 + 16 * bs.length := by
  have entry (b : Blocked) : (blockedBytes b).length = 16 := natLE_length _ _
  simp [State.deadlockReport, List.length_flatMap, entry, Nat.mul_comm]

theorem State.tile_deadlockTold (s : State) (n : Nat) (bs : List Blocked) :
    (s.deadlockTold n bs).tile n = { s.tile n with deadlock := s.deadlockReport n bs } := by
  rw [State.tile, State.deadlockTold, State.alarm_tiles, ← State.tile, State.tile_modTile]
  rfl

theorem State.tile_deadlockTold_of_ne (s : State) {n m : Nat} (bs : List Blocked) (hm : m ≠ n) :
    (s.deadlockTold n bs).tile m = s.tile m := by
  rw [State.tile, State.deadlockTold, State.alarm_tiles, ← State.tile, State.tile_modTile_of_ne _ _ hm]
  rfl

section
variable {n : Nat} (hn : n < 2048) (bs : List Blocked)
include hn

theorem Halts.haltBlocked (s : State) (st : Stream) : Halts 0x43 s (s.haltBlocked n bs st) := by
  unfold State.haltBlocked
  split
  · next b _ => exact Halts.halt s st hn b.reason_lt b.unit_lt
  · exact Halts.refl _ s

/-- The streams of the report halt, each with a valid record. -/
theorem State.haltBlocked_stops (s : State) {b : Blocked} (hb : b ∈ bs) : let t := allStreams.foldl (State.haltBlocked n bs) s
    (t.thread n b.stream).run = .halt ∧ recordValid ((t.tile n).records.get b.stream) = true := by
  obtain ⟨c, named⟩ : ∃ c, bs.find? (fun d => d.stream = b.stream) = some c :=
    Option.isSome_iff_exists.mp (List.find?_isSome.mpr ⟨b, hb, by simp⟩)
  have among : b.stream ∈ allStreams := by cases b.stream <;> decide
  refine foldl_reaches (P := fun u => (u.thread n b.stream).run = .halt ∧ recordValid ((u.tile n).records.get b.stream) = true)
    among s (fun u => ?_) fun u st _ stopped => ?_
  · rw [State.haltBlocked, named]
    exact ⟨u.run_halt _ _ _, u.valid_halt _ hn c.reason_lt c.unit_lt⟩
  · have step := Halts.haltBlocked hn bs u st
    exact ⟨step.runs n _ stopped.1, (step.kept n _ stopped.2).1⟩

end

/-! ## Whistles (13 R393 to R399) -/

/-- A stream that is not halted yet halts (13 R399). -/
def State.haltRunning (h : Halt) (n : Nat) (s : State) (st : Stream) : State := if s.halted n st then s else s.halt n st h

theorem State.haltAll_eq (s : State) (c : Nat) (h : Halt) :
    s.haltAll c h = (s.ctxTiles c).foldl (fun u n => allStreams.foldl (State.haltRunning h n) u) s := rfl

theorem State.ctxTiles_congr {s t : State} (h : t.teams = s.teams) (c : Nat) : t.ctxTiles c = s.ctxTiles c := by
  rw [State.ctxTiles, State.ctxTiles, h]

theorem State.lt_of_mem_ctxTiles {s : State} {c n : Nat} (h : n ∈ s.ctxTiles c) : n < 2048 := by
  unfold State.ctxTiles at h
  dsimp only at h
  split at h
  · cases h
  · exact List.mem_range.mp (List.mem_filter.mp h).1

section
variable {h : Halt} (hr : h.reason < 256) (hu : h.unit < 8)
include hr hu

theorem Halts.haltRunning {n : Nat} (hn : n < 2048) (s : State) (st : Stream) : Halts h.reason s (s.haltRunning h n st) := by
  unfold State.haltRunning
  split
  · exact Halts.refl _ s
  · exact Halts.halt s st hn hr hu

theorem Halts.haltAll (s : State) (c : Nat) : Halts h.reason s (s.haltAll c h) := by
  rw [State.haltAll_eq]
  exact Halts.foldl _ _ fun u n hn => Halts.foldl _ _ fun v st _ => Halts.haltRunning hr hu (State.lt_of_mem_ctxTiles hn) v st

/-- Every stream on every tile of the context is halted then. -/
theorem State.run_haltAll (s : State) {c m : Nat} (hm : m ∈ s.ctxTiles c) (st : Stream) : ((s.haltAll c h).thread m st).run = .halt := by
  have among : st ∈ allStreams := by cases st <;> decide
  have step {n : Nat} (hn : n < 2048) := Halts.haltRunning hr hu hn
  rw [State.haltAll_eq]
  refine foldl_reaches (P := fun u => (u.thread m st).run = .halt) hm s (fun u => ?_) fun u n hn stopped => ?_
  · refine foldl_reaches (P := fun u => (u.thread m st).run = .halt) among u (fun v => ?_) fun v k _ stopped =>
      (step (State.lt_of_mem_ctxTiles hm) v k).runs m st stopped
    rw [State.haltRunning]
    split
    · next already => exact decide_eq_true_iff.mp already
    · exact v.run_halt m st h
  · exact (Halts.foldl allStreams u fun v k _ => step (State.lt_of_mem_ctxTiles hn) v k).runs m st stopped

end

/-- The halt of the stream that a whistle watches. -/
def State.whistleHalt (s : State) (n u : Nat) : Halt :=
  let b := s.blockOf n u
  { reason := 0x44, unit := u % 8, tag := b.tag, chan := b.chan, detail := whistleDetail b.cls (u % 8) b.object }

/-- The halt of the context's other streams (13 R399). -/
def whistleStop (n : Nat) : Halt := { reason := 0x44, detail := whistleDetail 7 0 n }

theorem whistleStop_reason_lt (n : Nat) : (whistleStop n).reason < 256 := (by decide : 0x44 < 256)
theorem whistleStop_unit_lt (n : Nat) : (whistleStop n).unit < 8 := (by decide : 7 < 8)
theorem State.whistleHalt_reason_lt (s : State) (n u : Nat) : (s.whistleHalt n u).reason < 256 := (by decide : 0x44 < 256)
theorem State.whistleHalt_unit_lt (s : State) (n u : Nat) : (s.whistleHalt n u).unit < 8 := Nat.mod_lt u (by decide)

/-- The machine once a whistle has counted its fire and halted its stream. -/
def State.whistled (s : State) (n u : Nat) : State :=
  (s.modTile n fun t => { t with whistleFires := satAdd 32 t.whistleFires 1 }).halt n (unitStream u) (s.whistleHalt n u)

/-- What a whistle's fire does (13 R397, R399). -/
theorem exec_whistleFire {s : State} {n u : Nat} (hn : n < 2048) (hu : u < 24) (owed : s.owed n u = true)
    (limit : (s.ctx (s.owner n)).whistleLimit ≤ (s.whistle n u).count) : exec (.whistleFire n u) s =
      if (s.ctx (s.owner n)).failAction.testBit 0 then
        .next (((s.whistled n u).haltAll (s.owner n) (whistleStop n)).stopContext (s.owner n) 0x44 (s.nextSeq n 0))
      else .next (s.whistled n u) := by
  have run : execWhistleFire n u s = _ := if_pos ⟨hn, hu⟩
  have fires : (s.owed n u && decide ((s.ctx (s.owner n)).whistleLimit ≤ (s.whistle n u).count)) = true := by simp [owed, limit]
  rw [if_pos fires] at run
  exact run

theorem State.state_of_owed {s : State} {n u : Nat} (h : s.owed n u = true) : (s.ctx (s.owner n)).state = 1 := by
  unfold State.owed at h
  simp only [Bool.and_eq_true, decide_eq_true_eq] at h
  obtain ⟨⟨⟨-, live⟩, -⟩, -⟩ := h
  exact live

section
variable {s t : State} {n u : Nat} (hn : n < 2048)
include hn

theorem State.halts_whistled : Halts 0x44 (s.modTile n fun t => { t with whistleFires := satAdd 32 t.whistleFires 1 }) (s.whistled n u) :=
  Halts.halt _ _ hn (s.whistleHalt_reason_lt n u) (s.whistleHalt_unit_lt n u)

/-- A whistle's stream halts, its record names the whistle where it held none, and the fire is counted, whatever halts follow. -/
theorem State.whistled_stands (after : Halts 0x44 (s.whistled n u) t) : (t.thread n (unitStream u)).run = .halt ∧
    (recordValid ((s.tile n).records.get (unitStream u)) = false → recordReason ((t.tile n).records.get (unitStream u)) = 0x44) ∧
    (t.tile n).whistleFires = satAdd 32 (s.tile n).whistleFires 1 ∧ t.mem = s.mem ∧ t.ctxs = s.ctxs := by
  have whole := (State.halts_whistled hn).trans after
  have valid : recordValid (((s.whistled n u).tile n).records.get (unitStream u)) = true :=
    State.valid_halt _ _ hn (s.whistleHalt_reason_lt n u) (s.whistleHalt_unit_lt n u)
  refine ⟨after.runs _ _ (State.run_halt _ _ _ _), fun free => whole.reasons n _ ?_ (after.kept n _ valid).1, ?_, whole.rest.mem rfl,
    whole.rest.ctxs rfl⟩
  · rwa [State.tile_modTile]
  · rw [whole.own n, State.tile_modTile]

theorem State.ctxTiles_whistled (c : Nat) : (s.whistled n u).ctxTiles c = s.ctxTiles c :=
  State.ctxTiles_congr ((State.halts_whistled hn).rest.teams rfl) c

end

theorem State.tile_whistled_of_ne {s : State} {n m u : Nat} (hm : m ≠ n) : (s.whistled n u).tile m = s.tile m :=
  (State.tile_halt_of_ne _ _ _ hm).trans (State.tile_modTile_of_ne _ _ hm)

/-- A context stop changes no tile and no memory, and its state is 2 (13 R399, R400). -/
theorem State.stopContext_leaves (s : State) (c reason seq : Nat) : let t := s.stopContext c reason seq
    (∀ m, t.tile m = s.tile m) ∧ t.mem = s.mem ∧ (t.ctx c).state = 2 := by
  have kept := (State.stopContext_keeps s c reason seq (pt := { tiles := true, mem := true }) (Keeps.refl s) rfl rfl).same
  refine ⟨fun m => ?_, kept.mem rfl, ?_⟩
  · rw [State.tile, kept.tiles rfl, State.tile]
  · rw [State.stopContext, State.ctx_modCtx]

/-- The record of a whistle's warning (13 R398), and the machine once it is sent. -/
def State.warningSent (s : State) (n u : Nat) : State :=
  let b := s.blockOf n u
  (s.modTile n fun t => { t with warned := u :: t.warned }).sendRecord 1 0x21 n (s.owner n)
    (natLE 16 (pack [(11, n), (2, u / 8), (3, u % 8), (3, b.cls), (24, b.object), (85, 0)]))

theorem State.same_warningSent (s : State) (n u : Nat) :
    Same ({ tiles := true, trouble := true } : Parts).others s (s.warningSent n u) :=
  (State.sendRecord_keeps _ _ _ _ _ _ (State.modTile_keeps _ _ _ (Keeps.refl s) rfl) rfl).same

theorem exec_whistleWarning {s : State} {n u : Nat} (hn : n < 2048) (hu : u < 24) : exec (.whistleWarning n u) s =
    if s.owed n u && !(s.tile n).warned.contains u && decide ((s.ctx (s.owner n)).whistleLimit < (s.whistle n u).own) &&
        decide ((s.whistle n u).count < (s.ctx (s.owner n)).whistleLimit) then .next (s.warningSent n u)
    else .next s := by
  have run : execWhistleWarning n u s = _ := if_pos ⟨hn, hu⟩
  exact run

/-- Settles O48: what a deadlock's halts, a whistle's fire and its warning make of the machine. -/
theorem hangsAreReported : Obligations.HangsAreReported := by
  intro s n hn
  refine ⟨fun bs alive kept blocked => ?_, fun u hu owed limit => ?_, fun u hu owed fresh own count => ?_⟩
  · have halts : Halts 0x43 (s.deadlockTold n bs) (allStreams.foldl (State.haltBlocked n bs) (s.deadlockTold n bs)) :=
      Halts.foldl _ _ fun u st _ => Halts.haltBlocked hn bs u st
    have told := s.tile_deadlockTold n bs
    have toldMem : (s.deadlockTold n bs).mem = s.mem :=
      (State.alarm_keeps _ _ _ _ _ (pt := { mem := true }) (Keeps.refl _) rfl).same.mem rfl
    refine ⟨_, exec_localDeadlock hn alive kept blocked, (halts.rest.mem rfl).trans toldMem, fun m hm => ?_, ?_, fun b hb => ?_⟩
    · have others (v : State) (st : Stream) : (v.haltBlocked n bs st).tile m = v.tile m := by
        unfold State.haltBlocked
        split
        · exact v.tile_halt_of_ne st _ hm
        · rfl
      exact (foldl_preserves (g := (State.tile · m)) others allStreams _).trans (s.tile_deadlockTold_of_ne bs hm)
    · rw [halts.own n, told]
      exact s.deadlockReport_length n bs
    · obtain ⟨run, valid⟩ := State.haltBlocked_stops hn bs (s.deadlockTold n bs) hb
      exact ⟨run, valid, fun free => halts.reasons n _ (by rw [told]; exact free) valid⟩
  · intro c
    rw [exec_whistleFire hn hu owed limit]
    split
    · next asked =>
      have all : Halts 0x44 (s.whistled n u) ((s.whistled n u).haltAll c (whistleStop n)) :=
        Halts.haltAll (whistleStop_reason_lt n) (whistleStop_unit_lt n) _ c
      obtain ⟨run, reason, fires, mem, -⟩ := State.whistled_stands hn all
      obtain ⟨tile, stopMem, state⟩ := ((s.whistled n u).haltAll c (whistleStop n)).stopContext_leaves c 0x44 (s.nextSeq n 0)
      refine ⟨_, rfl, ?_, fun free => ?_, ?_, stopMem.trans mem, fun _ => ⟨state, fun m hm st => ?_⟩, fun off => ?_⟩
      · rwa [State.thread, tile]
      · rw [tile]
        exact reason free
      · rwa [tile]
      · rw [State.thread, tile]
        exact State.run_haltAll (whistleStop_reason_lt n) (whistleStop_unit_lt n) _ (by rwa [State.ctxTiles_whistled hn]) st
      · exact absurd asked (Bool.eq_false_iff.mp off)
    · next quiet =>
      obtain ⟨run, reason, fires, mem, ctxs⟩ := State.whistled_stands hn (Halts.refl 0x44 (s.whistled n u))
      refine ⟨_, rfl, run, reason, fires, mem, fun on => absurd on quiet, fun _ => ⟨?_, fun m hm => State.tile_whistled_of_ne hm⟩⟩
      rw [State.ctx, ctxs]
      exact State.state_of_owed owed
  · have first := exec_whistleWarning (s := s) hn hu
    have warns : (s.owed n u && !(s.tile n).warned.contains u && decide ((s.ctx (s.owner n)).whistleLimit < (s.whistle n u).own) &&
        decide ((s.whistle n u).count < (s.ctx (s.owner n)).whistleLimit)) = true := by simp [owed, fresh, own, count]
    have tile (m : Nat) : (s.warningSent n u).tile m = (s.modTile n fun t => { t with warned := u :: t.warned }).tile m := rfl
    have once : exec (.whistleWarning n u) (s.warningSent n u) = .next (s.warningSent n u) := by
      rw [exec_whistleWarning hn hu, tile, State.tile_modTile]
      simp
    rw [if_pos warns] at first
    exact ⟨_, _, first, rfl, rfl, rfl, rfl, rfl, (tile n).trans (State.tile_modTile _ _ _),
      fun m hm => (tile m).trans (State.tile_modTile_of_ne _ _ hm), once, s.same_warningSent n u⟩

end Sys2Proof.Machine

namespace Sys2Proof.Machine

/-! ## Safe states (09 R287; 15 R470) -/

/-- Where every waiting command is well-formed, a step answers a next state. -/
theorem step_isNext {s : State} (queue : s.QueueOk) : IsNext (step s) := by
  rw [step]
  cases waits : s.pending with
  | nil => exact .next _
  | cons c rest => exact exec_isNext c _ (queue c (by simp [waits]))

/-- A step keeps memory in its canonical form. -/
theorem State.MemOk.step {s t : State} (mem : s.MemOk) (h : Machine.step s = .next t) : t.MemOk :=
  (step_keeps.out t h).wf mem

theorem State.Safe.step {s t : State} (safe : s.Safe) (h : Machine.step s = .next t) : t.Safe where
  mem := safe.mem.step h
  queue c hc := by
    rw [(step_keeps.out t h).pending] at hc
    exact safe.queue c (List.mem_of_mem_tail hc)
  mode := (step_keeps.out t h).mode safe.mode

/-- Settles O6: well-formed commands answer, and every operation of the model keeps what safety asks for. -/
theorem safeStatesStaySafe : Obligations.SafeStatesStaySafe := by
  refine ⟨fun s safe => ?_, fun s t mem h => mem.step h⟩
  obtain ⟨t, h⟩ := step_isNext safe.queue
  exact ⟨t, h, safe.step h⟩

end Sys2Proof.Machine

namespace Sys2Proof.Machine

/-! ## Exact sums (04 R139; 09 R314) -/

/-- What a value adds to a superaccumulator's fixed-point value, whose bit 0 weighs 2⁻¹⁴⁹. -/
def Num.grains : Num → Int
  | .fin neg m e => if neg then -((m <<< (e + 149).toNat : Nat) : Int) else ((m <<< (e + 149).toNat : Nat) : Int)
  | _ => 0

/-- A superaccumulator takes a value part by part: its fixed-point value is a sum, its flags are sticky. -/
theorem Super.add_eq (a : Super) (v : Num) : a.add v =
    ⟨a.value + v.grains, a.posInf || v = .inf false, a.negInf || v = .inf true, a.nan || v.isNan⟩ := by
  rcases v with _ | neg | ⟨neg, m, e⟩
  · simp [Super.add, Num.grains, Num.isNan]
  · cases neg <;> simp [Super.add, Num.grains, Num.isNan]
  · simp [Super.add, Num.grains, Num.isNan]

theorem Super.add_right_comm (a : Super) (v w : Num) : (a.add v).add w = (a.add w).add v := by
  simp [Super.add_eq, Int.add_right_comm, Bool.or_right_comm]

/-- The superaccumulator does not depend on the order in which values reach it (09 R314). -/
theorem Super.foldl_add_perm {vs ws : List Num} (h : vs.Perm ws) (a : Super) : vs.foldl Super.add a = ws.foldl Super.add a :=
  h.foldl_eq' (fun v _ w _ b => b.add_right_comm v w) a

/-- A bound below a minimum over a list is a bound below its start and below every exponent in the list. -/
theorem le_foldl_min_exp {b : Int} (l : List Num) (i : Int) :
    b ≤ l.foldl (fun acc t => min acc t.exp) i ↔ b ≤ i ∧ ∀ t ∈ l, b ≤ t.exp := by
  induction l generalizing i with
  | nil => simp
  | cons t l ih => simp [ih, and_assoc]

/-- The exponent of an exact sum is the least among its terms. -/
theorem le_sumFinite_exponent {b : Int} {l : List Num} (h : l ≠ []) : b ≤ (sumFinite l).2 ↔ ∀ t ∈ l, b ≤ t.exp := by
  obtain ⟨t, r, rfl⟩ := List.exists_cons_of_ne_nil h
  rw [sumFinite, le_foldl_min_exp]
  simp

theorem sumFinite_exponent_perm {vs ws : List Num} (h : vs.Perm ws) : (sumFinite vs).2 = (sumFinite ws).2 := by
  by_cases empty : vs = []
  · subst empty
    rw [← h.nil_eq]
  · refine eq_of_forall_le_iff fun b => ?_
    rw [le_sumFinite_exponent empty, le_sumFinite_exponent fun none => empty (none ▸ h).eq_nil]
    simp [h.mem_iff]

theorem sumFinite_eq (l : List Num) :
    sumFinite l = (l.foldl (fun acc t => acc + shlInt t.int (t.exp - (sumFinite l).2).toNat) 0, (sumFinite l).2) := rfl

theorem sumFinite_perm {vs ws : List Num} (h : vs.Perm ws) : sumFinite vs = sumFinite ws := by
  rw [sumFinite_eq vs, sumFinite_eq ws, sumFinite_exponent_perm h]
  exact congrArg (·, _) (h.foldl_eq' (fun v _ w _ i => Int.add_right_comm i _ _) 0)

/-- The exact sum does not depend on the order of its terms (04 R139). -/
theorem Num.sum_perm {vs ws : List Num} (h : vs.Perm ws) : Num.sum vs = Num.sum ws := by
  simp only [Num.sum, h.any_eq, h.all_eq, h.isEmpty_eq, sumFinite_perm h]

/-- Settles O37: both sums are folds of steps that commute. -/
theorem exactSumsIgnoreOrder : Obligations.ExactSumsIgnoreOrder := by
  refine ⟨fun a vs ws h => ⟨Super.foldl_add_perm h a, fun bf16 => ?_⟩, fun vs ws h => Num.sum_perm h⟩
  rw [Super.foldl_add_perm h a]

end Sys2Proof.Machine

namespace Sys2Proof.Machine

/-! ## Buffer pools (09 R318 to R323) -/

@[simp] theorem State.pool_setPool (s : State) (shared : Bool) (tile k : Nat) (q : Pool) :
    (s.setPool shared tile k q).pool shared tile k = q := by
  cases shared <;> simp [State.pool, State.setPool]

@[simp] theorem State.net_setPool (s : State) (shared : Bool) (tile k : Nat) (q : Pool) :
    (s.setPool shared tile k q).net = s.net := by
  cases shared <;> rfl

@[simp] theorem State.mem_setPool (s : State) (shared : Bool) (tile k : Nat) (q : Pool) :
    (s.setPool shared tile k q).mem = s.mem := by
  cases shared <;> rfl

/-- The request for a buffer that a packet carries (09 R322). -/
def Packet.poolReq (p : Packet) (cls lastOwner : Nat) : PoolReq := ⟨p.chan, p.tag, p.from, p.stream, p.entry, cls, lastOwner⟩

/-- A pool with one more request that waits. -/
def Pool.queued (q : Pool) (r : PoolReq) : Pool := { q with waiting := q.waiting ++ [r] }

/-- A pool with a buffer free again. -/
def Pool.freed (q : Pool) (h : Handle) : Pool := { q with taken := q.taken.filter fun b => !(b.1 = h.cls && b.2.1 = h.index) }

/-- The state once a buffer is put back, which is acknowledged (09 R323). -/
def State.putBack (s : State) (p : Packet) (h : Handle) : State :=
  (s.setPool h.shared h.tile h.pool ((s.pool h.shared h.tile h.pool).freed h)).reply p (.ack p.entry)

/-- Where no request of a class waits, none is served. -/
theorem Pool.serve_eq_none {q : Pool} {cls : Nat} (h : q.waiting.all (fun r => r.cls ≠ cls) = true) : q.serve cls = none := by
  have found : (q.waiting.find? fun r => r.cls = cls) = none := by simpa using h
  rw [Pool.serve, found]

theorem Pool.serve_eq_none_of_full {q : Pool} {cls : Nat} (h : q.free cls = none) : q.serve cls = none := by
  rw [Pool.serve, h]
  split
  · next found => cases found
  · rfl

/-- The only request of its class takes the free buffer, and waits no longer. -/
theorem Pool.serve_of_free {q : Pool} {r : PoolReq} {i : Nat} (others : q.waiting.all (fun w => w.cls ≠ r.cls) = true)
    (free : q.free r.cls = some i) :
    (q.queued r).serve r.cls = some (r, i, { q with taken := (r.cls, i, r.lastOwner) :: q.taken }) := by
  have found : ((q.waiting ++ [r]).find? fun w => w.cls = r.cls) = some r := by
    have none_before : (q.waiting.find? fun w => w.cls = r.cls) = none := by simpa using others
    simp [List.find?_append, none_before]
  have absent : r ∉ q.waiting := fun waits => by simpa using List.all_eq_true.mp others r waits
  have left : (q.waiting ++ [r]).erase r = q.waiting := by simp [List.erase_append_right _ absent]
  have free' : (q.queued r).free r.cls = some i := free
  simp only [Pool.serve, free']
  simp only [Pool.queued, found, left]

/-- Every buffer of the class below the lowest free one is taken. -/
theorem Pool.taken_of_lt_free {q : Pool} {cls i j : Nat} (h : q.free cls = some i) (hj : j < i) :
    q.taken.any (fun b => b.1 = cls && b.2.1 = j) = true := by
  have lowest := (List.find?_range_eq_some.mp h).2.2 j hj
  simpa using lowest

theorem State.poolServe_of_none {s : State} {shared : Bool} {tile k cls : Nat} (h : (s.pool shared tile k).serve cls = none) :
    s.poolServe shared tile k cls = s := by
  rw [State.poolServe, h]

/-- A pool that serves a request keeps what serving leaves of it, and sends the grant to the tile that asked (09 R322). -/
theorem State.poolServe_grants {s : State} {shared : Bool} {tile k cls i : Nat} {r : PoolReq} {q : Pool}
    (h : (s.pool shared tile k).serve cls = some (r, i, q)) : let t := s.poolServe shared tile k cls
    t.pool shared tile k = q ∧ t.mem = s.mem ∧ ∃ g, t.net = s.net ++ [g] ∧ g.dst = .tile r.tile ∧ g.entry = r.entry ∧
      g.body = .poolGrant (poolHandle shared tile k cls i) (poolOffset q.desc cls i) := by
  simp only [State.poolServe, h]
  exact ⟨State.pool_setPool _ _ _ _ _, State.mem_setPool _ _ _ _ _, _, congrArg (· ++ [_]) (State.net_setPool _ _ _ _ _), rfl, rfl,
    rfl⟩

section
variable {s : State} {k : Nat} {p : Packet}

/-- A request for a buffer joins those that wait at its pool, which then serves its class. -/
theorem exec_poolGet {pool cls lastOwner : Nat} (h : Takes s k p) (hb : p.body = .poolGet pool cls lastOwner) :
    exec (.poolRequestAtHome k) s = .next (((s.consume k).setPool (isDie p.dst) p.at pool
      ((s.pool (isDie p.dst) p.at pool).queued (p.poolReq cls lastOwner))).poolServe (isDie p.dst) p.at pool cls) := by
  have e : execPoolRequestAtHome k s = _ := onPacket_of_takes h _ (by rw [hb]; rfl) _
  simp only [hb] at e
  exact e

theorem exec_poolPut_of_bad {w : Word} {reason : Nat} (h : Takes s k p) (hb : p.body = .poolPut w)
    (bad : s.putBad p (handleOf w.toNat) = some reason) :
    exec (.poolRequestAtHome k) s = .next ((s.consume k).reply p (.refusal p.entry ⟨reason, 0, 0⟩)) := by
  have e : execPoolRequestAtHome k s = _ := onPacket_of_takes h _ (by rw [hb]; rfl) _
  have bad' : (s.consume k).putBad p (handleOf w.toNat) = some reason := bad
  simp only [hb, bad'] at e
  exact e

/-- A buffer put back by its last owner is free again and acknowledged, and serves a request that waits for one. -/
theorem exec_poolPut {w : Word} (h : Takes s k p) (hb : p.body = .poolPut w) (good : s.putBad p (handleOf w.toNat) = none) :
    exec (.poolRequestAtHome k) s = .next (((s.consume k).putBack p (handleOf w.toNat)).poolServe (handleOf w.toNat).shared
      (handleOf w.toNat).tile (handleOf w.toNat).pool (handleOf w.toNat).cls) := by
  have e : execPoolRequestAtHome k s = _ := onPacket_of_takes h _ (by rw [hb]; rfl) _
  have good' : (s.consume k).putBad p (handleOf w.toNat) = none := good
  simp only [hb, good'] at e
  exact e

theorem exec_poolGrantArrive {handle off n : Nat} {x : Entry} (h : Takes s k p) (hb : p.body = .poolGrant handle off)
    (hd : p.dst = .tile n) (hx : ((s.queue n .pool p.stream).entries.find? fun x => x.uid = p.entry) = some x) :
    exec (.poolGrantArrive k) s =
      .next ((s.consume k).setEntry n .pool p.stream { x with granted := true, answer := [handle, off] }) := by
  have e : execPoolGrantArrive k s = _ := onPacket_of_takes h _ (by simp [hb]) _
  have hx' : (((s.consume k).queue n .pool p.stream).entries.find? fun x => x.uid = p.entry) = some x := hx
  simp only [hb, Packet.at_of_dst hd, hx'] at e
  exact e

end

/-- Settles O38: what a request, a put-back and a grant come to at the pool and the tile, by whether the pool can serve. -/
theorem poolsGrantAndTakeBack : Obligations.PoolsGrantAndTakeBack := by
  intro s k p takes shared
  refine ⟨fun pool cls lastOwner hb => ?_, fun w hb => ?_, fun handle off n x hb hd hx => exec_poolGrantArrive takes hb hd hx⟩
  · intro q others
    have run := exec_poolGet takes hb
    refine ⟨fun i free => ?_, fun full => ?_⟩
    · have serves : (((s.consume k).setPool shared p.at pool (q.queued (p.poolReq cls lastOwner))).pool shared p.at pool).serve cls = _ :=
        (congrArg (Pool.serve · cls) (State.pool_setPool _ _ _ _ _)).trans (Pool.serve_of_free others free)
      obtain ⟨pool', mem, g, net, dst, entry, body⟩ := State.poolServe_grants serves
      rw [State.net_setPool] at net
      rw [State.mem_setPool] at mem
      exact ⟨_, g, run, by rw [pool']; rfl, by rw [pool'], fun j hj => Pool.taken_of_lt_free free hj, net, dst,
        entry, body, mem⟩
    · have waits : (((s.consume k).setPool shared p.at pool (q.queued (p.poolReq cls lastOwner))).pool shared p.at pool).serve cls =
          none := (congrArg (Pool.serve · cls) (State.pool_setPool _ _ _ _ _)).trans (Pool.serve_eq_none_of_full full)
      refine ⟨_, run.trans (congrArg _ (State.poolServe_of_none waits)), ?_, ?_, ?_⟩
      · rw [State.net_setPool]
        rfl
      · rw [State.pool_setPool]
        rfl
      · rw [State.pool_setPool]
        rfl
  · intro hd q
    refine ⟨fun reason bad => ⟨_, _, exec_poolPut_of_bad takes hb bad, rfl, rfl, rfl, rfl⟩, fun good others => ?_⟩
    have back : ((s.consume k).putBack p hd).pool hd.shared hd.tile hd.pool = q.freed hd := State.pool_setPool _ _ _ _ _
    have idle : (((s.consume k).putBack p hd).pool hd.shared hd.tile hd.pool).serve hd.cls = none := by
      rw [back]
      exact Pool.serve_eq_none others
    refine ⟨_, _, (exec_poolPut takes hb good).trans (congrArg _ (State.poolServe_of_none idle)), congrArg Pool.taken back,
      congrArg (· ++ _) ?_, rfl, rfl⟩
    rw [State.net_setPool]
    rfl

end Sys2Proof.Machine

namespace Sys2Proof.Machine

/-! ## The mover's commands over compressed tensors (09 R305 to R307; 04 R149, R159) -/

/-- The own part of a command of the mover only puts its entry back, with what its completion will do. -/
def OnlyCarries (c : Cmd) (fx : State → Nat → Stream → Entry → List Effect) : Prop :=
  ∀ s n st x, c.run s n st x = s.setEntry n .mover st (x.start 1 (fx s n st x))

section
variable {s : State} {n op : Nat} {c : Cmd} {st : Stream} {x : Entry} {ahead : List Entry}
  {fx : State → Nat → Stream → Entry → List Effect}

/-- Such a command issues with its mark and its effects in its entry, and leaves memory and the other tiles alone. -/
theorem OnlyCarries.issues (carries : OnlyCarries c fx) (hop : op ≠ 0xFF) (h : Issues s n .mover op c st x ahead) :
    ∃ t, issueRow .mover op c n st s = .next t ∧ t = s.afterIssue n .mover c st x ∧ t.mem = s.mem ∧
      (∀ m, m ≠ n → t.tile m = s.tile m) ∧ ∃ y ∈ (t.queue n .mover st).entries, y.uid = x.uid ∧ y.issued = true ∧
        y.effects = fx (s.issueStart n c st x) n st ((s.named n x).dated n x) := by
  have part := carries (s.issueStart n c st x) n st ((s.named n x).dated n x)
  have stays : ArraysStay n (s.issueStart n c st x) (s.afterIssue n .mover c st x) := by
    refine .afterIssue ?_
    dsimp only
    rw [carries]
    exact .setEntry _ n _ st _
  refine ⟨_, issueRow_of_issues h hop, rfl, stays.mem.trans (Quiet.issueStart s n c st x).mem, fun m hm => ?_, _,
    State.mem_queue_afterIssue part rfl (h.mem_entries (by decide)), rfl, rfl, rfl⟩
  exact (stays.tiles m hm).trans (congrArg (fun l => tget ({} : Tile) m l) (s.tiles_named n x))

end

theorem execMove_clean (n : Nat) (st : Stream) (s : State) {x : Entry} {ahead : List Entry}
    (h : Issues s n .mover 0x01 cmdMove st x ahead) :
    exec (.move n st .clean) s = .next (s.afterIssue n .mover cmdMove st x) := by
  refine issueWith_of_issues h _ (fun u => ?_) (by decide)
  dsimp only
  split <;> rfl

/-- Settles O25: MOVE finds nothing where check bits are clean; the others' own parts only put their entries back. -/
theorem moverCommandsIssue : Obligations.MoverCommandsIssue := by
  intro s n st x ahead
  refine ⟨execMove_clean n st s, fun i hi h => ?_⟩
  have row : ∃ fx, OnlyCarries i.2.2 fx ∧ i.2.1 ≠ 0xFF ∧ exec i.1 s = issueRow .mover i.2.1 i.2.2 n st s ∧
      (i.2.1 = 0x05 → ∀ s n st x, ∃ v, fx s n st x = [.predictor (x.pl 55 52) v]) ∧
      (i.2.1 = 0x06 → ∀ s n st x, fx s n st x = [.extent x.a0 0 0 0]) := by
    simp only [List.mem_cons, List.not_mem_nil, or_false] at hi
    rcases hi with rfl | rfl | rfl | rfl | rfl
    · exact ⟨_, fun _ _ _ _ => rfl, by simp, rfl, by simp, by simp⟩
    · exact ⟨_, fun _ _ _ _ => rfl, by simp, rfl, by simp, by simp⟩
    · exact ⟨_, fun _ _ _ _ => rfl, by simp, rfl, by simp, by simp⟩
    · exact ⟨_, fun _ _ _ _ => rfl, by simp, rfl, fun _ _ _ _ _ => ⟨_, rfl⟩, by simp⟩
    · exact ⟨_, fun _ _ _ _ => rfl, by simp, rfl, by simp, fun _ _ _ _ _ => rfl⟩
  obtain ⟨fx, carries, hop, row, predictor, extent⟩ := row
  obtain ⟨t, run, after, mem, tiles, y, hy, uid, issued, effects⟩ := carries.issues hop h
  refine ⟨t, row.trans run, after, mem, tiles, y, hy, uid, issued, fun predld => ?_, fun maskdrop => ?_⟩
  · rw [effects]
    exact predictor predld _ _ _ _
  · rw [effects]
    exact extent maskdrop _ _ _ _

end Sys2Proof.Machine

namespace Sys2Proof.Machine

/-! ## Atomics as they issue (09 R308 to R310) -/

section
variable (s : State) (n : Nat) (x : Entry)

theorem State.homePlace_named (a : Nat) : (s.named n x).homePlace a = s.homePlace a := by
  unfold State.named
  split <;> rfl

theorem State.deviceNumber_named : (s.named n x).deviceNumber = s.deviceNumber := by
  unfold State.named
  split <;> rfl

end

/-- An issue sends nothing before what the command's own part sends. -/
theorem State.net_afterIssue (s : State) (n : Nat) (e : Engine) (c : Cmd) (st : Stream) (x : Entry) :
    ∃ l, (s.afterIssue n e c st x).net = (s.ownPart n c st x).net ++ l := by
  rw [State.afterIssue, (s.inName_parts n x _).2.2]
  dsimp only
  split
  · obtain ⟨l, asks⟩ := (Calm.askItem ((s.ownPart n c st x).issued n e st ((s.named n x).dated n x) _) n st).net
    rw [State.net_issued] at asks
    exact ⟨l, asks⟩
  · exact ⟨[], by rw [State.net_issued, List.append_nil]; rfl⟩

/-- An atomic on the own device sends one request to the home of its address. -/
theorem atomRun_sends {s : State} (n : Nat) (st : Stream) {x : Entry} (own : aDev x = s.deviceNumber) :
    ∃ p, (atomRun s n st x).net = s.net ++ [p] ∧ p.src = .tile n ∧ p.dst = s.homePlace (aAddr x) ∧ p.ctx = s.actor n x ∧
      p.entry = x.uid ∧ ∃ uid, p.body = .atomic (aOp x) (aType x) (aAddr x) (BitVec.ofNat 64 (aOperand x)) (BitVec.ofNat 64 x.a1)
        (aReturns x) uid := by
  simp only [atomRun, own, bne_self_eq_false, Bool.false_eq_true, if_false]
  split
  · exact ⟨_, rfl, rfl, rfl, rfl, rfl, _, rfl⟩
  · exact ⟨_, rfl, rfl, rfl, rfl, rfl, _, rfl⟩

/-- An atomic that issues leaves memory alone, and sends its request before anything else. -/
theorem atomic_issues {s : State} {n op : Nat} {st : Stream} {x : Entry} {ahead : List Entry} (hop : op ≠ 0xFF)
    (h : Issues s n .mover op cmdAtomic st x ahead) : ∃ t, issueRow .mover op cmdAtomic n st s = .next t ∧
      t = s.afterIssue n .mover cmdAtomic st x ∧ t.mem = s.mem ∧
      (aDev x = s.deviceNumber → ∃ p l, t.net = s.net ++ p :: l ∧ p.src = .tile n ∧ p.dst = s.homePlace (aAddr x) ∧
        p.ctx = x.ctx ∧ p.entry = x.uid ∧ ∃ uid, p.body = .atomic (aOp x) (aType x) (aAddr x)
          (BitVec.ofNat 64 (aOperand x)) (BitVec.ofNat 64 x.a1) (decide (op < 0x18)) uid) := by
  refine ⟨_, issueRow_of_issues h hop, rfl, State.mem_afterIssue (cmdAtomic_keeps rfl rfl rfl rfl rfl) s n .mover st x,
    fun own => ?_⟩
  let y := (s.named n x).dated n x
  have device : aDev y = (s.issueStart n cmdAtomic st x).deviceNumber := own.trans (s.deviceNumber_named n x).symm
  obtain ⟨p, sent, src, dst, ctx, entry, uid, body⟩ := atomRun_sends n st device
  obtain ⟨l, later⟩ := s.net_afterIssue n .mover cmdAtomic st x
  have actor : (s.named n x).actor n x = x.ctx := State.actor_named (State.runsFor_of_head h.head)
  refine ⟨p, l, ?_, src, dst.trans (s.homePlace_named n x _), ctx.trans actor, entry, uid, ?_⟩
  · have part : (s.ownPart n cmdAtomic st x).net = s.net ++ [p] := sent.trans (congrArg (· ++ [p]) (s.net_named n x))
    rw [later, part, List.append_assoc]
    rfl
  · rw [body, ← h.own.2]
    rfl

/-- Settles O26: the atomics share one own part; RDOPEN and RDADD issue by their rows. -/
theorem atomicCommandsIssue : Obligations.AtomicCommandsIssue := by
  intro s n st x ahead
  refine ⟨fun i hi h => ?_, fun i hi h => ?_⟩
  · simp only [List.mem_cons, List.not_mem_nil, or_false] at hi
    rcases hi with rfl | rfl | rfl | rfl | rfl | rfl | rfl | rfl
    all_goals exact atomic_issues (by simp) h
  · simp only [List.mem_cons, List.not_mem_nil, or_false] at hi
    rcases hi with rfl | rfl
    all_goals exact issueRow_of_issues h (by simp)

end Sys2Proof.Machine

namespace Sys2Proof.Machine

/-! ## Which blocks an access at a home meets (09 R293; 06 R216) -/

section
variable {s t : State} (teams : t.teams = s.teams) (snaps : t.snaps = s.snaps) (bad : t.bad = s.bad)
include teams

theorem State.mustPreserve_congr : t.mustPreserve = s.mustPreserve := by
  have inTeam : t.inTeam = s.inTeam := by
    funext i n
    simp only [State.inTeam, State.rects_congr teams, State.team_congr teams]
  unfold State.mustPreserve
  rw [inTeam]

include snaps bad

/-- The blocks that writes and the copies of pages meet rest on the teams, the snapshots and the uncorrectable blocks. -/
theorem State.copyBad_congr : t.copyBad = s.copyBad := by
  unfold State.copyBad State.badBlock
  rw [State.mustPreserve_congr teams, snaps, bad]

theorem State.landErr_congr : t.landErr = s.landErr := by
  unfold State.landErr State.partBad State.badBlock
  rw [State.copyBad_congr teams snaps bad, bad]

theorem State.changeBad_congr : t.changeBad = s.changeBad := by
  unfold State.changeBad State.badBlock
  rw [State.copyBad_congr teams snaps bad, bad]

end

/-- What an access at a home die makes of the state before it looks at its bytes: its hot-line count (10 R355). -/
def State.taken (s : State) (k a n : Nat) : State := (s.consume k).hotLine a n

theorem State.taken_keeps (s : State) (k a n : Nat) :
    Keeps { teams := true, snaps := true, bad := true, mem := true, net := true } (s.consume k) (s.taken k a n) :=
  State.hotLine_keeps _ a n (Keeps.refl _) rfl

section
variable (s : State) (k a n : Nat)

@[simp] theorem State.mem_taken : (s.taken k a n).mem = s.mem := (s.taken_keeps k a n).same.mem rfl
@[simp] theorem State.bad_taken : (s.taken k a n).bad = s.bad := (s.taken_keeps k a n).same.bad rfl
@[simp] theorem State.net_taken : (s.taken k a n).net = s.net.eraseIdx k := (s.taken_keeps k a n).same.net rfl

theorem State.landErr_taken : (s.taken k a n).landErr = s.landErr :=
  State.landErr_congr ((s.taken_keeps k a n).same.teams rfl) ((s.taken_keeps k a n).same.snaps rfl) (s.bad_taken k a n)

theorem State.changeBad_taken : (s.taken k a n).changeBad = s.changeBad :=
  State.changeBad_congr ((s.taken_keeps k a n).same.teams rfl) ((s.taken_keeps k a n).same.snaps rfl) (s.bad_taken k a n)

end

/-- What a store or an atomic at a home die makes of the state before it is applied: its may-vary count too (12 R382). -/
def State.counted (s : State) (k : Nat) (p : Packet) (a n : Nat) : State := (s.taken k a n).countVary p (dieOf p.dst) a n

theorem State.counted_keeps (s : State) (k : Nat) (p : Packet) (a n : Nat) :
    Keeps { bad := true, mem := true, net := true } (s.consume k) (s.counted k p a n) :=
  State.countVary_keeps _ _ _ _ _ (State.hotLine_keeps _ a n (Keeps.refl _) rfl) rfl

theorem State.mem_counted (s : State) (k : Nat) (p : Packet) (a n : Nat) : (s.counted k p a n).mem = s.mem :=
  (s.counted_keeps k p a n).same.mem rfl

/-- The packet of the answer `b` to p is the last in flight of t, those of `l` before it. -/
def AnsweredBy (l : List Packet) (p : Packet) (t : State) (b : Body) : Prop :=
  ∃ q, t.net = l ++ [q] ∧ q.body = b ∧ q.src = p.dst ∧ q.dst = p.src ∧ q.stream = p.stream ∧ q.entry = p.entry ∧ q.ctx = p.ctx

theorem State.reply_answers {u : State} {l : List Packet} (net : u.net = l) (p : Packet) (b : Body) :
    AnsweredBy l p (u.reply p b) b := ⟨_, congrArg (· ++ _) net, rfl, rfl, rfl, rfl, rfl, rfl⟩

/-! ## Reads and writes at a home die and at a tile (09 R293, R298, R522) -/

/-- Writes find room where nothing is to be kept for a snapshot. -/
theorem State.reserveFor_nil (s : State) (w : Writer) : s.reserveFor w [] = true := by
  simp [State.reserveFor, State.pagesNeeded]

theorem State.landRoom_of_reserve {s : State} {p : Packet} {rs : List Range} (h : s.reserveFor p.writer rs = true) :
    s.landRoom p rs = true := by
  rw [State.landRoom, h, Bool.or_true]

section
variable {s : State} {k a uid len : Nat} {p : Packet} {bs : List Byte} (h : Takes s k p)
include h

theorem exec_homeRequest_read (hd : isDie p.dst = true) (hb : p.body = .readReq a len uid) (clean : s.badBlock a len = none) :
    exec (.homeRequest k .clean) s = .next ((s.taken k a len).reply p (.data uid (s.loadBytes a len))) := by
  have e : execHomeRequest k .clean s = _ := onPacket_of_takes h _
    (by rw [hb, hd]; exact State.landRoom_of_reserve (s.reserveFor_nil _)) _
  have whole : (s.taken k a len).badBlock a len = none := by rwa [State.badBlock, State.bad_taken]
  have bytes : (s.taken k a len).loadBytes a len = s.loadBytes a len := by rw [State.loadBytes, State.mem_taken, State.loadBytes]
  rw [State.taken] at whole bytes
  simp only [hb, State.eccCheck, whole, bytes] at e
  exact e

theorem exec_tileAccess_read (hd : isTile p.dst = true) (hb : p.body = .readReq a len uid) (clean : s.badBlock a len = none) :
    exec (.tileStoreRemoteAccess k .clean) s = .next ((s.consume k).reply p (.data uid (s.loadBytes a len))) := by
  have e : execTileStoreRemoteAccess k .clean s = _ := onPacket_of_takes h _
    (by rw [hb, hd]; exact State.landRoom_of_reserve (s.reserveFor_nil _)) _
  have whole : (s.consume k).badBlock a len = none := clean
  simp only [hb, State.eccCheck, whole] at e
  exact e

theorem exec_homeRequest_write (hd : isDie p.dst = true) (hb : p.body = .writeReq a bs uid)
    (room : s.reserveFor p.writer [⟨a, bs.length⟩] = true) (clean : s.landErr p.writer a bs = none) :
    exec (.homeRequest k .clean) s = .next (((s.counted k p a bs.length).writeHome p.writer a bs).reply p (.ack uid)) := by
  have e : execHomeRequest k .clean s = _ := onPacket_of_takes h _
    (by rw [hb, hd, storeRanges, State.landRoom_of_reserve room]; rfl) _
  have whole : (s.taken k a bs.length).landErr p.writer a bs = none := by rwa [State.landErr_taken]
  rw [State.taken] at whole
  simp only [hb, State.eccCheck, ite_self, whole] at e
  exact e

theorem exec_tileAccess_write (hd : isTile p.dst = true) (hb : p.body = .writeReq a bs uid)
    (room : s.reserveFor p.writer [⟨a, bs.length⟩] = true) (clean : s.landErr p.writer a bs = none)
    (free : s.extentBadAt a bs = false) :
    exec (.tileStoreRemoteAccess k .clean) s = .next (((s.consume k).writeHome p.writer a bs).reply p (.ack uid)) := by
  have e : execTileStoreRemoteAccess k .clean s = _ := onPacket_of_takes h _
    (by rw [hb, hd, storeRanges, State.landRoom_of_reserve room]; rfl) _
  have whole : (s.consume k).landErr p.writer a bs = none := by rwa [State.landErr_consume]
  have free' : (s.consume k).extentBadAt a bs = false := free
  simp only [hb, State.eccCheck, ite_self, whole, free', Bool.false_eq_true, if_false] at e
  exact e

end

/-- A write that meets no uncorrectable block puts its bytes at its address, leaves every other byte, and is acknowledged. -/
theorem State.writeHome_lands {s u : State} {l : List Packet} (mem : u.mem = s.mem) (bad : u.bad = s.bad) (net : u.net = l) (p : Packet)
    {a : Nat} {bs : List Byte} (uid : Nat) (clean : s.landErr p.writer a bs = none) :
    let t := (u.writeHome p.writer a bs).reply p (.ack uid)
    AnsweredBy l p t (.ack uid) ∧ t.loadBytes a bs.length = bs ∧
      ∀ b, (b < a ∨ a + bs.length ≤ b) → peek b t.mem = peek b s.mem := by
  intro t
  have whole : u.partBad a bs = none := State.partBad_mono (fun b hb => bad ▸ hb) (State.partBad_of_landErr clean)
  have stored : t.mem = pokes a bs s.mem := (State.mem_writeHome p.writer whole).trans (congrArg _ mem)
  have kept := State.writeHome_keeps (pt := { net := true }) u p.writer a bs (Keeps.refl u) rfl rfl rfl rfl
  refine ⟨State.reply_answers ((kept.same.net rfl).trans net) p _, ?_, fun b outside => ?_⟩
  · rw [State.loadBytes, stored, peeks_pokes]
  · rw [stored, peek_pokes_of_not_mem _ outside]

/-! ## The memories of a control core (02 R53; 09 R522) -/

/-- The parts of a write, one after another, are the write, of a store that takes bytes from the lowest on. -/
theorem foldl_blockParts {σ : Type} {g : Nat → List Byte → σ → σ} (nil : ∀ a m, g a [] m = m)
    (append : ∀ a xs ys m, g a (xs ++ ys) m = g (a + xs.length) ys (g a xs m)) (k a : Nat) (bs : List Byte) (m : σ)
    (h : bs = [] ∨ bs.length + a % 64 ≤ 64 * k) : (blockParts k a bs).foldl (fun m p => g p.1 p.2 m) m = g a bs m := by
  induction k generalizing a bs m with
  | zero =>
    have empty : bs = [] := h.elim id fun h => List.length_eq_zero_iff.mp (by omega)
    rw [empty, nil]
    rfl
  | succ k ih =>
    unfold blockParts
    split
    · next empty =>
      rw [List.isEmpty_iff.mp empty, nil]
      rfl
    · next some =>
      let len := min bs.length (64 - a % 64)
      have left : bs.length + a % 64 ≤ 64 * (k + 1) := h.resolve_left fun h => some (by rw [h]; rfl)
      have rest : bs.drop len = [] ∨ (bs.drop len).length + (a + len) % 64 ≤ 64 * k := by
        rw [List.drop_eq_nil_iff, List.length_drop]
        omega
      have first : (bs.take len).length = len := by simp [len]
      dsimp only
      rw [List.foldl_cons, ih _ _ _ rest]
      conv_rhs => rw [← List.take_append_drop len bs, append, first]

/-- A range of core memory touches no uncorrectable block. -/
theorem Tile.coreBlock_eq_none {t : Tile} {m off len : Nat} :
    t.coreBlock m off len = none ↔ ∀ b ∈ t.coreBad, ¬(b.1 = m && overlap (64 * b.2) 64 off len) = true := by
  rw [Tile.coreBlock, Option.map_eq_none_iff, ← List.filter_eq_nil_iff]
  rcases List.eq_nil_or_concat (t.coreBad.filter fun b => b.1 = m && overlap (64 * b.2) 64 off len) with empty | ⟨l, b, last⟩
  · simp [empty]
  · rw [last, List.concat_eq_append, List.foldl_append, List.foldl_cons]
    split <;> simp

/-- A block of core memory that is clean stays clean through a write of another. -/
theorem Tile.coreBlock_corePut {t : Tile} {m off len : Nat} (clean : t.coreBlock m off len = none) (j a : Nat) (bs : List Byte) :
    (t.corePut j a bs).coreBlock m off len = none := by
  have fewer : ∀ b ∈ (t.corePut j a bs).coreBad, b ∈ t.coreBad := by
    have bad : (t.corePut j a bs).coreBad = if bs.length = 64 then t.coreBad.filter (· != (j, a / 64)) else t.coreBad := by
      rcases j with _ | _ | j <;> rfl
    intro b hb
    rw [bad] at hb
    split at hb
    · exact (List.mem_filter.mp hb).1
    · exact hb
  exact Tile.coreBlock_eq_none.mpr fun b hb => Tile.coreBlock_eq_none.mp clean b (fewer b hb)

/-- A write that changes no uncorrectable block in part puts all its parts. -/
theorem Tile.coreWrite_of_whole {t : Tile} {m off : Nat} {bs : List Byte} (h : t.corePartBad m off bs = none) :
    t.coreWrite m off bs = (writeParts off bs).foldl (fun t p => t.corePut m p.1 p.2) t := by
  have clean : ∀ p ∈ writeParts off bs, p.2.length < 64 → t.coreBlock m p.1 p.2.length = none := by
    simpa [Tile.corePartBad] using h
  rw [Tile.coreWrite]
  clear h
  generalize writeParts off bs = l at clean ⊢
  induction l generalizing t with
  | nil => rfl
  | cons p l ih =>
    rw [List.forall_mem_cons] at clean
    have go : ¬(decide (p.2.length < 64) && (t.coreBlock m p.1 p.2.length).isSome) = true := by simpa using clean.1
    rw [List.foldl_cons, List.foldl_cons, if_neg go]
    exact ih fun q hq short => Tile.coreBlock_corePut (clean.2 q hq short) m p.1 p.2

/-- What each part of a write to core memory makes of a piece of the tile, the write makes of it. -/
theorem Tile.coreWrite_part {σ : Type} (piece : Tile → σ) {g : Nat → List Byte → σ → σ} {m : Nat}
    (put : ∀ t a bs, piece (t.corePut m a bs) = g a bs (piece t)) (nil : ∀ a x, g a [] x = x)
    (append : ∀ a xs ys x, g a (xs ++ ys) x = g (a + xs.length) ys (g a xs x)) {t : Tile} {off : Nat} {bs : List Byte}
    (h : t.corePartBad m off bs = none) : piece (t.coreWrite m off bs) = g off bs (piece t) := by
  rw [Tile.coreWrite_of_whole h, ← foldl_blockParts nil append (bs.length / 64 + 2) off bs (piece t) (by omega), ← writeParts]
  generalize writeParts off bs = l
  clear h
  induction l generalizing t with
  | nil => rfl
  | cons p l ih => rw [List.foldl_cons, List.foldl_cons, ih, put]

/-- Bytes written into a table of an instruction bank. -/
def putCells (off : Nat) (bs : List Byte) (l : List Host.Cell) : List Host.Cell :=
  (bs.mapIdx fun i b => (off + i, b)).foldl (fun l p => tset p.1 p.2 l) l

theorem putCells_cons (off : Nat) (b : Byte) (bs : List Byte) (l : List Host.Cell) :
    putCells off (b :: bs) l = putCells (off + 1) bs (tset off b l) := by
  simp [putCells, List.mapIdx_cons, Nat.add_assoc, Nat.add_comm 1]

theorem putCells_append (off : Nat) (xs ys : List Byte) (l : List Host.Cell) :
    putCells off (xs ++ ys) l = putCells (off + xs.length) ys (putCells off xs l) := by
  induction xs generalizing off l with
  | nil => rfl
  | cons x xs ih =>
    rw [List.cons_append, putCells_cons, putCells_cons, ih, List.length_cons, Nat.add_right_comm, Nat.add_assoc]

theorem tfind_putCells_of_not_mem {off b : Nat} {bs : List Byte} (l : List Host.Cell) (h : b < off ∨ off + bs.length ≤ b) :
    tfind b (putCells off bs l) = tfind b l := by
  induction bs generalizing off l with
  | nil => rfl
  | cons v bs ih =>
    rw [List.length_cons] at h
    rw [putCells_cons, ih _ (by omega), tfind_tset_of_ne _ _ (by omega)]

theorem tfind_putCells_of_mem {off i : Nat} {bs : List Byte} (l : List Host.Cell) (h : i < bs.length) :
    tfind (off + i) (putCells off bs l) = some bs[i] := by
  induction bs generalizing off i l with
  | nil => simp at h
  | cons v bs ih =>
    rw [putCells_cons]
    cases i with
    | zero =>
      rw [tfind_putCells_of_not_mem _ (by omega)]
      exact tfind_tset_self off v l
    | succ i =>
      rw [← Nat.add_assoc, Nat.add_right_comm, ih _ (by simpa using h)]
      rfl

theorem Tile.dmem_coreWrite {t : Tile} {off : Nat} {bs : List Byte} (h : t.corePartBad 0 off bs = none) :
    (t.coreWrite 0 off bs).dmem = pokes off bs t.dmem :=
  Tile.coreWrite_part (·.dmem) (fun _ _ _ => rfl) (fun _ _ => rfl) pokes_append h

/-- A write into one of the two instruction banks changes that bank's table alone. -/
theorem Tile.bankBytes_coreWrite {t : Tile} {bank off : Nat} {bs : List Byte} (hbank : bank < 2)
    (h : t.corePartBad (bank + 1) off bs = none) : bankBytes (t.coreWrite (bank + 1) off bs) bank = putCells off bs (bankBytes t bank) ∧
      bankBytes (t.coreWrite (bank + 1) off bs) (1 - bank) = bankBytes t (1 - bank) := by
  have own : bankBytes (t.coreWrite (bank + 1) off bs) bank = putCells off bs (bankBytes t bank) := by
    refine Tile.coreWrite_part (bankBytes · bank) (fun u a cs => ?_) (fun _ _ => rfl) putCells_append h
    obtain rfl | rfl : bank = 0 ∨ bank = 1 := by omega
    all_goals rfl
  have other : bankBytes (t.coreWrite (bank + 1) off bs) (1 - bank) = bankBytes t (1 - bank) := by
    refine Tile.coreWrite_part (bankBytes · (1 - bank)) (g := fun _ _ l => l) (fun u a cs => ?_) (fun _ _ => rfl) (fun _ _ _ _ => rfl) h
    obtain rfl | rfl : bank = 0 ∨ bank = 1 := by omega
    all_goals rfl
  exact ⟨own, other⟩

theorem State.imemByte_congr {s t : State} {n bank off : Nat} (broadcast : t.broadcast = s.broadcast)
    (bytes : tfind off (bankBytes (t.tile n) bank) = tfind off (bankBytes (s.tile n) bank)) :
    t.imemByte n bank off = s.imemByte n bank off := by
  unfold State.imemByte
  rw [bytes, broadcast]

theorem State.imemByte_of_some {s : State} {n bank off : Nat} {b : Byte} (h : tfind off (bankBytes (s.tile n) bank) = some b) :
    s.imemByte n bank off = b := by
  unfold State.imemByte
  rw [h]

/-- The state once a write into a tile's core has landed. -/
def State.coreLanded (s : State) (k n m off : Nat) (bs : List Byte) : State :=
  (s.consume k).modTile n fun t => t.coreWrite m off bs

theorem State.tile_coreLanded (s : State) (k n m off : Nat) (bs : List Byte) :
    (s.coreLanded k n m off bs).tile n = (s.tile n).coreWrite m off bs :=
  State.tile_modTile (s.consume k) n _

section
variable {s : State} {k n off uid : Nat} {p : Packet} {bs : List Byte} (h : Takes s k p) (hd : p.dst = .tile n)
include h hd

theorem exec_tileAccess_coreData (hb : p.body = .coreWrite none off bs uid) (whole : (s.tile n).corePartBad 0 off bs = none) :
    exec (.tileStoreRemoteAccess k .clean) s = .next ((s.coreLanded k n 0 off bs).reply p (.ack uid)) := by
  have e : execTileStoreRemoteAccess k .clean s = _ := onPacket_of_takes h _
    (by rw [hb, hd]; exact State.landRoom_of_reserve (s.reserveFor_nil _)) _
  have whole' : ((s.consume k).tile n).corePartBad 0 off bs = none := whole
  simp only [hb, Packet.at_of_dst hd, coreEcc, ite_self, State.coreCheck, State.coreLand, whole'] at e
  exact e

theorem exec_tileAccess_coreBank {bank : Nat} (hb : p.body = .coreWrite (some bank) off bs uid) (idle : s.bankActive n bank = false)
    (whole : (s.tile n).corePartBad (bank + 1) off bs = none) :
    exec (.tileStoreRemoteAccess k .clean) s = .next ((s.coreLanded k n (bank + 1) off bs).reply p (.ack uid)) := by
  have e : execTileStoreRemoteAccess k .clean s = _ := onPacket_of_takes h _
    (by rw [hb, hd]; exact State.landRoom_of_reserve (s.reserveFor_nil _)) _
  have whole' : ((s.consume k).tile n).corePartBad (bank + 1) off bs = none := whole
  have idle' : (s.consume k).bankActive n bank = false := idle
  simp only [hb, Packet.at_of_dst hd, coreEcc, ite_self, State.coreCheck, State.coreLand, whole', idle', Bool.false_eq_true,
    if_false] at e
  exact e

end

/-- Settles O34: each request by its row, and what the writes leave of device memory and of a core's memories. -/
theorem homesReadAndWrite : Obligations.HomesReadAndWrite := by
  intro s k p h answers row
  have tileRow {i n} (hd : p.dst = .tile n) (hi : row = some i) : i = .tileStoreRemoteAccess k .clean := by
    simp only [row, hd, Option.some.injEq] at hi
    exact hi.symm
  refine ⟨fun i a len uid hi hb clean => ?_, fun i a bs uid hi hb clean room free => ?_, fun i n off bs uid hi hd hb whole => ?_,
    fun i n bank off bs uid hi hd hb hbank idle whole => ?_⟩
  · cases hd : p.dst with
    | die d =>
      simp only [row, hd, Option.some.injEq] at hi
      exact ⟨_, hi ▸ exec_homeRequest_read h (by rw [hd]; rfl) hb clean, State.reply_answers (s.net_taken k a len) p _,
        s.mem_taken k a len⟩
    | tile n =>
      exact ⟨_, tileRow hd hi ▸ exec_tileAccess_read h (by rw [hd]; rfl) hb clean,
        State.reply_answers (u := s.consume k) rfl p _, rfl⟩
    | _ => simp [row, hd] at hi
  · cases hd : p.dst with
    | die d =>
      simp only [row, hd, Option.some.injEq] at hi
      have counted := (s.counted_keeps k p a bs.length).same
      obtain ⟨ack, lands⟩ := State.writeHome_lands (s := s) (counted.mem rfl) (counted.bad rfl) (counted.net rfl) p uid clean
      exact ⟨_, hi ▸ exec_homeRequest_write h (by rw [hd]; rfl) hb room clean, ack, lands⟩
    | tile n =>
      obtain ⟨ack, lands⟩ := State.writeHome_lands (s := s) (u := s.consume k) rfl rfl rfl p uid clean
      exact ⟨_, tileRow hd hi ▸ exec_tileAccess_write h (by rw [hd]; rfl) hb room clean (free (by rw [hd]; rfl)), ack, lands⟩
    | _ => simp [row, hd] at hi
  · let t := (s.coreLanded k n 0 off bs).reply p (.ack uid)
    have dmem : (t.tile n).dmem = pokes off bs (s.tile n).dmem :=
      (congrArg Tile.dmem (s.tile_coreLanded k n 0 off bs)).trans (Tile.dmem_coreWrite whole)
    refine ⟨t, tileRow hd hi ▸ exec_tileAccess_coreData h hd hb whole, State.reply_answers rfl p _, ?_, fun b outside => ?_,
      rfl, fun m hm => (s.consume k).tile_modTile_of_ne (n := n) (fun t => t.coreWrite 0 off bs) hm⟩
    · rw [dmem, peeks_pokes]
    · rw [dmem, peek_pokes_of_not_mem _ outside]
  · let t := (s.coreLanded k n (bank + 1) off bs).reply p (.ack uid)
    have tile : t.tile n = (s.tile n).coreWrite (bank + 1) off bs := s.tile_coreLanded k n (bank + 1) off bs
    obtain ⟨own, other⟩ := Tile.bankBytes_coreWrite hbank whole
    rw [← tile] at own other
    refine ⟨t, tileRow hd hi ▸ exec_tileAccess_coreBank h hd hb idle whole, State.reply_answers rfl p _, fun j hj => ?_,
      fun b outside => ?_, fun b => ?_, rfl⟩
    · exact State.imemByte_of_some (by rw [own, tfind_putCells_of_mem _ hj])
    · exact State.imemByte_congr rfl (by rw [own, tfind_putCells_of_not_mem _ outside])
    · exact State.imemByte_congr rfl (by rw [other])

end Sys2Proof.Machine

namespace Sys2Proof.Machine

/-! ## Atomics at their home (09 R309, R310) -/

theorem State.loadNat_congr {s t : State} (h : t.mem = s.mem) (a n : Nat) : t.loadNat a n = s.loadNat a n := by
  rw [State.loadNat, State.loadNat, State.loadBytes, State.loadBytes, h]

/-- An atomic that meets no uncorrectable block writes its operation's result over the old value, and answers. -/
theorem exec_atomicAtHome {s : State} {k ty a uid : Nat} {p : Packet} {op : AtomOp} {operand compare : BitVec 64} {returning : Bool}
    (h : Takes s k p) (hb : p.body = .atomic op ty a operand compare returning uid)
    (clean : s.changeBad p.writer a (atomWidth ty) = none) (room : s.reserveFor p.writer [⟨a, atomWidth ty⟩] = true) :
    let old := s.loadNat a (atomWidth ty)
    exec (.atomicAtHome k .clean) s = .next (((s.counted k p a (atomWidth ty)).write p.writer a
      (natLE (atomWidth ty) (atomNew op ty old operand.toNat compare.toNat))).reply p
        (if returning then .answer uid [old] else .ack uid)) := by
  intro old
  have e : execAtomicAtHome k .clean s = _ := onPacket_of_takes h _ (by rw [hb]; exact State.landRoom_of_reserve room) _
  have whole : (s.taken k a (atomWidth ty)).changeBad p.writer a (atomWidth ty) = none := by rwa [State.changeBad_taken]
  have same : (s.counted k p a (atomWidth ty)).loadNat a (atomWidth ty) = old :=
    State.loadNat_congr (s.mem_counted k p a _) a _
  rw [State.taken] at whole
  rw [State.counted, State.taken] at same
  simp only [hb, State.eccCheck, whole, State.atomApply, same] at e
  exact e

theorem signed_ofNat_word {v : Nat} (h : v < 2 ^ 32) : signed 32 v = (BitVec.ofNat 32 v).toInt := by
  rw [signed, BitVec.toInt_eq_toNat_cond, BitVec.toNat_ofNat, Nat.mod_eq_of_lt h]
  split <;> split <;> omega

/-- The results of the operations on 32-bit integers (09 R309). -/
theorem atomNew_results {old operand : Nat} (compare : Nat) (ho : old < 2 ^ 32) (hp : operand < 2 ^ 32) :
    atomNew .add 0 old operand compare = (old + operand) % 2 ^ 32 ∧ atomNew .add 1 old operand compare = (old + operand) % 2 ^ 32 ∧
    (atomNew .min 0 old operand compare : Int) =
      (if (BitVec.ofNat 32 operand).toInt < (BitVec.ofNat 32 old).toInt then (operand : Int) else (old : Int)) ∧
    (atomNew .max 0 old operand compare : Int) =
      (if (BitVec.ofNat 32 old).toInt < (BitVec.ofNat 32 operand).toInt then (operand : Int) else (old : Int)) := by
  refine ⟨rfl, rfl, ?_, ?_⟩
  · rw [← signed_ofNat_word ho, ← signed_ofNat_word hp]
    exact apply_ite Nat.cast _ _ _
  · rw [← signed_ofNat_word ho, ← signed_ofNat_word hp]
    exact apply_ite Nat.cast _ _ _

/-- Settles O35: the atomic's row, the write of one word, and the operations by their definition. -/
theorem atomicsAtTheHome : Obligations.AtomicsAtTheHome := by
  refine ⟨fun s k p op ty a uid operand compare returning h _ hb clean room => ?_, fun old operand compare ho hp => ?_⟩
  · intro w
    let value := atomNew op ty (s.loadNat a w) operand.toNat compare.toNat
    let u := (s.counted k p a w).write p.writer a (natLE w value)
    have mem : u.mem = pokes a (natLE w value) s.mem := (State.mem_write _ _ _ _).trans (congrArg _ (s.mem_counted k p a w))
    have net : u.net = s.net.eraseIdx k :=
      ((State.write_keeps (pt := { net := true }) _ _ _ _ (Keeps.refl _) rfl rfl rfl rfl).same.net rfl).trans
        ((s.counted_keeps k p a w).same.net rfl)
    obtain ⟨q, sent, body, -, dst, -⟩ := State.reply_answers net p (if returning then .answer uid [s.loadNat a w] else .ack uid)
    refine ⟨_, q, exec_atomicAtHome h hb clean room, ?_, fun b outside => ?_, sent, dst, body⟩
    · have bytes : u.loadBytes a w = natLE w value := by
        rw [State.loadBytes, mem]
        simpa using peeks_pokes a (natLE w value) s.mem
      exact (congrArg leNat bytes).trans (leNat_natLE w value)
    · exact (congrArg (peek b) mem).trans ((peek_pokes_natLE a w value s.mem).2 b outside)
  · obtain ⟨addSigned, addUnsigned, least, greatest⟩ := atomNew_results compare ho hp
    refine ⟨addSigned, addUnsigned, least, greatest, fun ty hty => ?_, fun ty => ⟨rfl, rfl⟩⟩
    rcases hty with rfl | rfl <;> exact ⟨rfl, rfl⟩

end Sys2Proof.Machine

namespace Sys2Proof.Machine

/-! ## A contribution to an ARRIVAL reduction of BF16 elements (09 R312, R315) -/

/-- A contribution to an ARRIVAL reduction that meets an uncorrectable block changes no reduction (13 R415). -/
theorem exec_contributionAtHome_of_bad {s : State} {k rid first uid b : Nat} {p : Packet} {vals : List Word} {present : Bool}
    {r : Reduction} (h : Takes s k p) (hb : p.body = .contribution rid first vals present uid) (hr : tfind rid s.reds = some r)
    (arrival : redArrival r.desc = true) (taken : redRefuses (some r) first vals.length p.mayVary = 0)
    (unguarded : s.contributionBad p.ctx p.stream r first vals.length = none) (carries : vals.length ≠ 0)
    (room : s.reserveFor p.writer (s.contributionRanges p.body) = true)
    (bad : s.changeBad p.writer (redTarget r.desc + first * rdWidth r.desc) (vals.length * rdWidth r.desc) = some b) :
    ∃ t, exec (.contributionAtHome k .clean) s = .next t ∧ t.reds = s.reds := by
  have e : execContributionAtHome k .clean s = _ := onPacket_of_takes h _
    (Bool.and_eq_true_iff.mpr ⟨by rw [hb]; rfl, State.landRoom_of_reserve room⟩) _
  have hr' : tfind rid (s.consume k).reds = some r := hr
  have unguarded' : (s.consume k).contributionBad p.ctx p.stream r first vals.length = none := unguarded
  have reads : (s.consume k).redReads p.writer .clean rid first vals.length r = (s.consume k, some b) := by
    have meets : (s.consume k).changeBad = s.changeBad := State.changeBad_congr rfl rfl rfl
    simp only [State.redReads, if_neg carries, arrival, if_true, State.eccCheck, meets, bad]
  simp only [hb, hr', taken, unguarded', reads, arrival, if_true] at e
  exact ⟨_, e, (State.ueError_keeps (pt := { reds := true }) _ _ _ _ _ (Keeps.refl _) rfl rfl rfl rfl).same.reds rfl⟩

/-- A reduction that is open, of 32 elements from address 0, in ARRIVAL mode and of BF16. -/
def bf16Arrival : Reduction :=
  { phase := .opened, ctx := 0, desc := BitVec.ofNat 256 (31 * 2 ^ 184 + 2 ^ 102 + 2 ^ 101), stream := .fwd }

/-- A contribution of one value to element 16. -/
def sixteenth : Packet :=
  { uid := 0, ctx := 0, epoch := 0, chan := 0, src := .tile 1, dst := .die 0, stream := .fwd, engine := 2, mayVary := true
    body := .contribution 0 16 [0#32] true 0 }

/-- The first block of the target is uncorrectable. Element 16 of BF16 lies in it; the word 16 of the target does not. -/
def badTarget : State := { net := [sixteenth], reds := [(0, bf16Arrival)], bad := [0], power := { state := 2 } }

theorem takes_badTarget : Takes badTarget 0 sixteenth where
  there := by decide
  serves := by decide
  fresh := by decide
  whole n h := by cases h

/-- Refutes O36: the second clause asks for clean blocks under words 4 bytes apart, and no more of the descriptor than ARRIVAL. Where
the descriptor names BF16 as well, which RDOPEN refuses (09 R312), the home reads elements 2 bytes apart; the uncorrectable block
that it meets there stops the contribution, which is not counted. -/
theorem not_reductionsCollectAndFinish : ¬ Obligations.ReductionsCollectAndFinish := by
  rintro ⟨-, arrival, -, -⟩
  obtain ⟨t, r, -, run, there, count, -⟩ := arrival badTarget 0 0 16 0 sixteenth [0#32] true bf16Arrival takes_badTarget rfl rfl
    (by decide) (by decide) rfl (by decide) (by decide) (by decide) (by decide)
  obtain ⟨u, stops, reds⟩ := exec_contributionAtHome_of_bad (b := 32) takes_badTarget rfl (r := bf16Arrival) rfl (by decide) (by decide)
    (by decide) (by decide) (by decide) (by decide)
  cases run.symm.trans stops
  rw [reds] at there
  cases there
  exact absurd count (by decide)

end Sys2Proof.Machine

namespace Sys2Proof.Machine

/-! ## What messages put on their way make of the ports (10 R341, R344; 12 R391) -/

/-- Ports differ at most in what waits to be sent and in the units freed. -/
def Sends (s t : State) : Prop := ∀ q, ∃ out freed, t.port q = { s.port q with out := out, freed := freed }

namespace Sends

theorem of_ports {s t : State} (h : t.ports = s.ports) : Sends s t := fun q =>
  ⟨(s.port q).out, (s.port q).freed, by rw [State.port, h]; rfl⟩

theorem refl (s : State) : Sends s s := of_ports rfl

theorem trans {s t u : State} (h : Sends s t) (g : Sends t u) : Sends s u := fun q => by
  obtain ⟨_, _, first⟩ := h q
  obtain ⟨out, freed, second⟩ := g q
  exact ⟨out, freed, by rw [second, first]⟩

theorem foldl {α : Type} {f : State → α → State} (l : List α) (s : State) (step : ∀ u x, Sends u (f u x)) :
    Sends s (l.foldl f s) :=
  List.foldlRecOn l f (refl s) fun u h x _ => h.trans (step u x)

/-- An update of what waits, or of the units freed. -/
theorem modPort (s : State) (p : Nat) {g : Port → Port} (h : ∀ x, ∃ out freed, g x = { x with out := out, freed := freed }) :
    Sends s (s.modPort p g) := fun q => by
  by_cases hq : q = p
  · subst hq
    rw [State.port_modPort]
    exact h _
  · rw [State.port_modPort_of_ne _ _ hq]
    exact refl s q

theorem freeUnits (s : State) (p pair n : Nat) : Sends s (s.freeUnits p pair n) := modPort s p fun _ => ⟨_, _, rfl⟩

theorem unheld (s : State) (m : OutMsg) : Sends s (s.unheld m) := by
  unfold State.unheld
  cases m.holds with
  | none => exact refl s
  | some h => exact freeUnits s _ _ _

theorem portSend (s : State) (p : Nat) (m : Msg) (vc dl tdev : Nat) (holds : Option (Nat × Nat × Nat)) :
    Sends s (s.portSend p m vc dl tdev holds) :=
  have numbered : Sends s { s with nextUid := s.nextUid + 1 } := of_ports rfl
  numbered.trans (modPort _ p fun _ => ⟨_, _, rfl⟩)

theorem hopSend (s : State) (h : Hop) (holds : Option (Nat × Nat × Nat)) : Sends s (s.hopSend h holds) := portSend _ _ _ _ _ _ _

theorem alarm (s : State) (kind source ctx : Nat) (body : List Byte) : Sends s (s.alarm kind source ctx body) :=
  of_ports ((State.alarm_keeps (pt := { ports := true }) s kind source ctx body (.refl s) rfl).same.ports rfl)

theorem lockStop (s : State) (c cause : Nat) : Sends s (s.lockStop c cause) := by
  unfold State.lockStop State.lockFrame
  dsimp only
  split
  · exact portSend _ _ _ _ _ _ _
  · exact refl s

theorem halt (s : State) (n : Nat) (st : Stream) (h : Halt) : Sends s (s.halt n st h) := by
  have switched (u : State) : (u.switchBank n st).ports = u.ports :=
    (State.switchBank_keeps (pt := { ports := true }) u n st (.refl u) rfl).same.ports rfl
  have recorded (record : BitVec 256) : Sends s ((((s.modThread n st fun th => th.halt h.reason).switchBank n st).cycle n).2.modTile n
      fun t => { t with records := t.records.set st record }) := of_ports (switched _)
  unfold State.halt
  dsimp only
  split
  · exact recorded _
  · split
    · exact (recorded _).trans ((alarm _ _ _ _ _).trans (lockStop _ _ _))
    · exact (recorded _).trans (alarm _ _ _ _ _)

theorem haltAll (s : State) (c : Nat) (h : Halt) : Sends s (s.haltAll c h) := by
  refine foldl _ s fun u n => foldl _ u fun v st => ?_
  split
  · exact refl v
  · exact halt v n st h

theorem refuseRequest (s : State) (r : Request) (reason status dev : Nat) : Sends s (s.refuseRequest r reason status dev) := by
  have told : Sends s (if status = 0 ∨ status = 7 ∨ status = 8 then s.teardown (mCtx r.msg) (mTdev r.msg) reason else s) := by
    split
    · exact alarm _ _ _ _ _
    · exact refl s
  unfold State.refuseRequest
  dsimp only
  split
  · exact told
  · exact told.trans (halt _ _ _ _)

theorem noRoute (s : State) (m : Msg) : Sends s (s.noRoute m) := by
  have told := alarm s 0x0B 0x810 0 (natLE 16 (pack [(8, mSdev m), (8, mTdev m), (112, 0)]))
  have dropped (u : State) (r : Request) : Sends u ((u.dropRequest r.uid).repaid r.tile r.uid) := of_ports rfl
  unfold State.noRoute
  dsimp only
  split
  · exact told
  · split
    · split
      · exact told.trans ((dropped _ _).trans (refuseRequest _ _ _ _ _))
      · exact told
    · split
      · exact told.trans (hopSend _ _ _)
      · exact told.trans (alarm _ _ _ _ _)

theorem route (s : State) (m : Msg) (inDim : Option Nat) (inDl : Nat) : Sends s (s.route m inDim inDl) := by
  unfold State.route
  split
  · exact hopSend _ _ _
  · exact noRoute s m

end Sends

/-! ## Leaving service (10 R328) -/

theorem tfind_tmap {α : Type} (f : Nat → α → α) (k : Nat) (t : Table α) : tfind k (tmap f t) = (tfind k t).map (f k) := by
  induction t with
  | nil => rfl
  | cons e r ih =>
    obtain ⟨j, v⟩ := e
    by_cases h : j = k
    · simp [tmap, tfind, h]
    · simpa [tmap, tfind, h] using ih

/-- Receive buffers given up: only what waits to be sent is marked. -/
theorem Sends.unhold (s : State) (p : Nat) : Sends s (s.unhold p) := fun q => by
  unfold State.unhold State.port tget
  dsimp only
  rw [tfind_tmap]
  cases tfind q s.ports with
  | none => exact ⟨[], List.replicate 8 0, rfl⟩
  | some x => exact ⟨_, _, rfl⟩

/-- What an event of port p leaves alone: where the other ports stand. -/
def SparesOthers (p : Nat) (s t : State) : Prop :=
  ∀ q, q ≠ p → (t.port q).state = (s.port q).state ∧ (t.port q).step = (s.port q).step

namespace SparesOthers
variable {p : Nat} {s t u : State}

theorem refl : SparesOthers p s s := fun _ _ => ⟨rfl, rfl⟩

theorem trans (h : SparesOthers p s t) (g : SparesOthers p t u) : SparesOthers p s u := fun q hq =>
  ⟨(g q hq).1.trans (h q hq).1, (g q hq).2.trans (h q hq).2⟩

theorem modPort (f : Port → Port) : SparesOthers p s (s.modPort p f) := fun q hq => by
  rw [State.port_modPort_of_ne s f hq]
  exact ⟨rfl, rfl⟩

theorem stick (i : Nat) : SparesOthers p s (s.stick p i) := modPort _

theorem of_sends (h : Sends s t) : SparesOthers p s t := fun q _ => by
  obtain ⟨_, _, e⟩ := h q
  rw [e]
  exact ⟨rfl, rfl⟩

end SparesOthers

/-- What leaving service leaves alone: the other ports, and the port's sticky record and its cable. -/
structure Quits (p : Nat) (s t : State) : Prop where
  others : SparesOthers p s t
  sticky : (t.port p).sticky = (s.port p).sticky
  cable : (t.port p).cable = (s.port p).cable

namespace Quits
variable {p : Nat} {s t u : State}

theorem refl : Quits p s s := ⟨.refl, rfl, rfl⟩

theorem trans (h : Quits p s t) (g : Quits p t u) : Quits p s u :=
  ⟨h.others.trans g.others, g.sticky.trans h.sticky, g.cable.trans h.cable⟩

theorem of_sends (h : Sends s t) : Quits p s t := by
  obtain ⟨_, _, e⟩ := h p
  exact ⟨.of_sends h, by rw [e], by rw [e]⟩

theorem leaveService : Quits p s (s.leaveService p) := by
  have left (f : Port → Port) (h : (f (s.port p)).sticky = (s.port p).sticky ∧ (f (s.port p)).cable = (s.port p).cable) :
      Quits p s (s.modPort p f) := ⟨.modPort f, by rw [State.port_modPort, h.1], by rw [State.port_modPort, h.2]⟩
  unfold State.leaveService
  dsimp only
  have returned (dim : Option Nat) (ms : List OutMsg) (u : State) :
      Sends u (ms.foldl (fun u m => (u.unheld m).route m.msg dim m.dl) u) :=
    .foldl _ _ fun u m => (Sends.unheld u m).trans (.route _ _ _ _)
  have stopped (cs : List Nat) (u : State) : Sends u (cs.foldl (fun u c => u.lockHalt c 2) u) := .foldl _ _ fun u _ => .haltAll u _ _
  exact (left _ (by exact ⟨rfl, rfl⟩)).trans (.of_sends ((returned _ _ _).trans (stopped _ _)))

theorem outOfService : Quits p s (if s.portUp p then s.leaveService p else s) := by
  split
  · exact leaveService
  · exact refl

end Quits

/-! ## DOWN, training and retraining (10 R326 to R329) -/

@[simp] theorem State.port_stick (s : State) (p i : Nat) :
    (s.stick p i).port p = { s.port p with sticky := (s.port p).sticky ||| BitVec.ofNat 32 (2 ^ i) } := State.port_modPort _ _ _

@[simp] theorem State.port_alarm (s : State) (kind source ctx : Nat) (body : List Byte) (q : Nat) :
    (s.alarm kind source ctx body).port q = s.port q := by
  rw [State.port, (State.alarm_keeps (pt := { ports := true }) s kind source ctx body (.refl s) rfl).same.ports rfl]
  rfl

/-- A recorded bit is set. -/
theorem getLsbD_stuck (w : Word) {i : Nat} (hi : i < 32) : (w ||| BitVec.ofNat 32 (2 ^ i)).getLsbD i = true := by
  rw [BitVec.getLsbD_or, BitVec.getLsbD_ofNat, Nat.testBit_two_pow_self, decide_eq_true hi, Bool.and_self, Bool.or_true]

/-- A port that is not DOWN enters DOWN. -/
structure Falls (p : Nat) (s t : State) : Prop where
  others : SparesOthers p s t
  state : (t.port p).state = 5
  step : (t.port p).step = 0
  lanes : (t.port p).lanes = 0
  sticky : (t.port p).sticky = (s.port p).sticky ||| BitVec.ofNat 32 (2 ^ 2)

theorem Falls.recorded {p : Nat} {s t : State} (h : Falls p s t) : (t.port p).sticky.getLsbD 2 = true := by
  rw [h.sticky]
  exact getLsbD_stuck _ (by decide : 2 < 32)

theorem State.portDown_of_down {s : State} {p : Nat} (h : (s.port p).state = 5) : s.portDown p = s := if_pos h

theorem State.portDown_falls {s : State} {p : Nat} (h : (s.port p).state ≠ 5) : Falls p s (s.portDown p) := by
  have quits : Quits p s (if s.portUp p then s.leaveService p else s) := .outOfService
  unfold State.portDown
  rw [if_neg h]
  generalize (if s.portUp p then s.leaveService p else s) = u at quits
  dsimp only
  constructor
  case others => exact quits.others.trans ((SparesOthers.modPort _).trans ((SparesOthers.stick 2).trans (.of_sends (.alarm _ _ _ _ _))))
  case sticky => simp only [State.port_alarm, State.port_stick, State.port_modPort, quits.sticky]
  all_goals simp only [State.port_alarm, State.port_stick, State.port_modPort]

/-- A training begins at a step, with no lane in use, over the same cable. -/
structure Begins (p st step : Nat) (s t : State) : Prop where
  others : SparesOthers p s t
  state : (t.port p).state = st
  step : (t.port p).step = step
  cable : (t.port p).cable = (s.port p).cable

theorem State.beginTraining_begins (s : State) (p st step : Nat) : Begins p st step s (s.beginTraining p st step) := by
  have quits : Quits p s ((if s.portUp p then s.leaveService p else s).unhold p) := Quits.outOfService.trans (.of_sends (.unhold _ _))
  unfold State.beginTraining
  constructor
  case others => exact quits.others.trans (.modPort _)
  case cable => simp only [State.port_modPort, quits.cable]
  all_goals simp only [State.port_modPort]

theorem State.portUp_of_state {s : State} {p : Nat} (h : s.portUp p = true) : (s.port p).state ≠ 5 := by
  intro down
  simp [State.portUp, Port.up, down] at h

theorem State.retrain_of_mayTrain {s : State} {p : Nat} (may : (s.port p).mayTrain = true) : let t := s.retrain p
    SparesOthers p s t ∧ (t.port p).state = 4 ∧ (t.port p).step = 2 ∧ (t.port p).sticky.getLsbD 4 = true := by
  have begins := s.beginTraining_begins p 4 2
  simp only [State.retrain, may, if_true, State.port_stick]
  exact ⟨begins.others.trans (.stick 4), begins.state, begins.step, getLsbD_stuck _ (by decide)⟩

/-- A port in service that may not train is ABSENT once it is to retrain (log 108). -/
theorem State.retrain_of_not_mayTrain {s : State} {p : Nat} (up : s.portUp p = true) (may : (s.port p).mayTrain = false) :
    let t := s.retrain p
    SparesOthers p s t ∧ (t.port p).state = 0 ∧ (t.port p).step = 0 ∧ (t.port p).lanes = 0 ∧
      (t.port p).sticky.getLsbD 2 = true := by
  have falls := State.portDown_falls (State.portUp_of_state up)
  simp only [State.retrain, may, Bool.false_eq_true, if_false, State.port_modPort, true_and]
  exact ⟨falls.others.trans (.modPort _), falls.step, falls.lanes, falls.recorded⟩

/-- Where a port in service stands once it retrains. -/
theorem State.port_retrain {s : State} {p : Nat} (up : s.portUp p = true) :
    ((s.retrain p).port p).state = (if (s.port p).mayTrain then 4 else 0) ∧
    ((s.retrain p).port p).step = if (s.port p).mayTrain then 2 else 0 := by
  cases may : (s.port p).mayTrain
  · obtain ⟨-, state, step, -⟩ := State.retrain_of_not_mayTrain up may
    exact ⟨state, step⟩
  · obtain ⟨-, state, step, -⟩ := State.retrain_of_mayTrain may
    exact ⟨state, step⟩

end Sys2Proof.Machine

namespace Sys2Proof.Machine

/-! ## Lanes (10 R326) -/

/-- Fewer than two good lanes carry nothing. -/
theorem lanesChosen_of_few {good : BitVec 5} (few : popCount good.toNat 5 < 2) : lanesChosen good = none := by
  unfold popCount at few
  unfold lanesChosen
  dsimp only
  rw [if_neg (by omega), if_neg (by omega)]

/-- Four of the good lanes are chosen where there are as many, else two, at half width: one fact for each of the 32 sets of lanes. -/
theorem lanesChosen_of_enough : ∀ good : BitVec 5, 2 ≤ popCount good.toNat 5 → ∃ l ∈ List.range 32,
    lanesChosen good = some (l, decide (popCount good.toNat 5 < 4)) ∧
    popCount l 5 = (if 4 ≤ popCount good.toNat 5 then 4 else 2) ∧ l &&& good.toNat = l := by decide

/-! ## Each event of training (10 R326 to R328; 15 R478; 16 R516) -/

/-- An event takes a port down, and the sticky record of one that was not DOWN says so (10 R328, R329). -/
def Drops (p : Nat) (i : Instr) (s : State) : Prop :=
  ∃ t, exec i s = .next t ∧ SparesOthers p s t ∧ (t.port p).state = 5 ∧
    ((s.port p).state ≠ 5 → (t.port p).step = 0 ∧ (t.port p).lanes = 0 ∧ (t.port p).sticky.getLsbD 2 = true)

/-- An event takes a port down that, before, changes nothing of any port's state. -/
theorem drops_of_exec {p : Nat} {i : Instr} {s u : State} (run : exec i s = .next (u.portDown p)) (spares : SparesOthers p s u)
    (stays : (u.port p).state = (s.port p).state) : Drops p i s := by
  refine ⟨_, run, ?_⟩
  by_cases down : (s.port p).state = 5
  · rw [State.portDown_of_down (stays.trans down)]
    exact ⟨spares, stays.trans down, fun up => absurd down up⟩
  · have falls : Falls p u (u.portDown p) := State.portDown_falls (stays ▸ down)
    exact ⟨spares.trans falls.others, falls.state, fun _ => ⟨falls.step, falls.lanes, falls.recorded⟩⟩

section
variable {s : State} {p : Nat} (hp : p < 12) (run : s.portsRun = true)
include hp run

theorem exec_portTrainStart (want : (s.port p).wantTrain = true) (may : (s.port p).mayTrain = true) :
    exec (.portTrainStart p) s = .next (s.beginTraining p 1 1) := by
  change execPortTrainStart p s = _
  simp only [execPortTrainStart, portCount, hp, run, want, may, State.startPort, Bool.and_self, if_true]

theorem portTrainStart_begins (want : (s.port p).wantTrain = true) (may : (s.port p).mayTrain = true) : ∃ t,
    exec (.portTrainStart p) s = .next t ∧ SparesOthers p s t ∧ (t.port p).state = 1 ∧ (t.port p).step = 1 ∧ t.mem = s.mem := by
  have begins := s.beginTraining_begins p 1 1
  have keeps : Keeps { mem := true } s (s.beginTraining p 1 1) := State.beginTraining_keeps _ _ _ _ (.refl s) rfl rfl rfl rfl
  exact ⟨_, exec_portTrainStart hp run want may, begins.others, begins.state, begins.step, keeps.same.mem rfl⟩

/-- What the end of step 1 leaves: the cable's record and its verdict. -/
theorem exec_step1 (r : StepReport) (step : (s.port p).step = 1) : exec (.trainingStepComplete p r) s =
    let s1 := s.modPort p fun y => { y with
      cableState := cableVerdict r, record := if r.cableRead then r.cableRecord else 0, step := 2 }
    .next (if cableVerdict r = 1 then s1 else s1.portDown p) := by
  change execTrainingStepComplete p r s = _
  simp only [execTrainingStepComplete, portCount, hp, run, step, if_true]

/-- A cable whose record is valid was read. -/
theorem step1_accepts (r : StepReport) (step : (s.port p).step = 1) (valid : cableVerdict r = 1) :
    exec (.trainingStepComplete p r) s =
      .next (s.modPort p fun y => { y with cableState := 1, record := r.cableRecord, step := 2 }) := by
  have read : r.cableRead = true := by
    by_contra unread
    rw [cableVerdict, Bool.not_eq_true _ |>.mp unread] at valid
    exact absurd valid (by decide : 2 ≠ 1)
  rw [exec_step1 hp run r step, valid]
  simp only [read, if_true]

theorem step1_rejects (r : StepReport) (step : (s.port p).step = 1) (invalid : cableVerdict r ≠ 1) :
    Drops p (.trainingStepComplete p r) s := by
  have e := exec_step1 hp run r step
  simp only [if_neg invalid] at e
  exact drops_of_exec e (.modPort _) (by rw [State.port_modPort])

theorem step2_leads_on (r : StepReport) (step : (s.port p).step = 2) : exec (.trainingStepComplete p r) s =
    .next (s.modPort p fun y => { y with step := 3 }) := by
  change execTrainingStepComplete p r s = _
  simp only [execTrainingStepComplete, portCount, hp, run, step, if_true]

theorem step3_leads_on (r : StepReport) (step : (s.port p).step = 3) : exec (.trainingStepComplete p r) s =
    .next (s.modPort p fun y => { y with good := r.lanesGood, step := 4 }) := by
  change execTrainingStepComplete p r s = _
  simp only [execTrainingStepComplete, portCount, hp, run, step, if_true]

theorem step4_drops (r : StepReport) (step : (s.port p).step = 4) (few : popCount (s.port p).good.toNat 5 < 2) :
    Drops p (.trainingStepComplete p r) s := by
  have e : execTrainingStepComplete p r s = .next (s.portDown p) := by
    simp only [execTrainingStepComplete, portCount, hp, run, step, lanesChosen_of_few few, if_true]
  exact drops_of_exec e .refl rfl

theorem step4_leads_on (r : StepReport) (step : (s.port p).step = 4) (enough : 2 ≤ popCount (s.port p).good.toNat 5) :
    ∃ t, exec (.trainingStepComplete p r) s = .next t ∧ (t.port p).step = 5 ∧ (t.port p).lanes = (s.port p).lanes ∧
      (t.port p).good = (s.port p).good ∧ SparesOthers p s t := by
  obtain ⟨l, -, chosen, -⟩ := lanesChosen_of_enough _ enough
  have e : execTrainingStepComplete p r s = .next (if l.testBit 4 then (s.modPort p fun x => { x with step := 5 }).stick p 0
      else s.modPort p fun x => { x with step := 5 }) := by
    simp only [execTrainingStepComplete, portCount, hp, run, step, chosen, if_true]
  refine ⟨_, e, ?_⟩
  split
  · simp only [State.port_stick, State.port_modPort, true_and]
    exact (SparesOthers.modPort _).trans (.stick 0)
  · simp only [State.port_modPort, true_and]
    exact .modPort _

theorem step5_leads_on (r : StepReport) (step : (s.port p).step = 5) : exec (.trainingStepComplete p r) s =
    .next (s.modPort p fun y => { y with step := 6, controls := [1] }) := by
  change execTrainingStepComplete p r s = _
  simp only [execTrainingStepComplete, portCount, hp, run, step, if_true]

theorem exec_step6 (r : StepReport) (step : (s.port p).step = 6) (seen : (s.port p).initSeen = true)
    (acked : (s.port p).initAcked = true) : exec (.trainingStepComplete p r) s = .next (s.enterService p) := by
  change execTrainingStepComplete p r s = _
  simp only [execTrainingStepComplete, portCount, hp, run, step, seen, acked, Bool.and_self, if_true]

theorem trainingStepTimeout_drops (step : (s.port p).step ≠ 0) : Drops p (.trainingStepTimeout p) s := by
  have e : execTrainingStepTimeout p s = .next (s.portDown p) := by
    simp [execTrainingStepTimeout, portCount, hp, run, step]
  exact drops_of_exec e .refl rfl

theorem fecLockLoss_drops (up : s.portUp p = true) : Drops p (.fecLockLoss p) s := by
  have e : execFecLockLoss p s = .next (s.portDown p) := by
    simp only [execFecLockLoss, portCount, hp, run, up, Bool.and_self, if_true]
  exact drops_of_exec e .refl rfl

theorem exec_equalisationOutOfLimits {lane : Nat} (hl : lane < 5) (up : s.portUp p = true)
    (used : (s.port p).lanes.testBit lane = true) : exec (.equalisationOutOfLimits p lane) s =
      .next ((s.retrain p).modPort p fun x => { x with limits := 2 ^ lane }) := by
  change execEqualisationOutOfLimits p lane s = _
  simp only [execEqualisationOutOfLimits, portCount, hp, hl, run, up, used, Bool.and_self, and_self, if_true]

end

/-- In service, a port uses the lanes chosen of the good ones, all of them good. -/
theorem State.enterService_spec (s : State) (p : Nat) (enough : 2 ≤ popCount (s.port p).good.toNat 5) :
    let k := if 4 ≤ popCount (s.port p).good.toNat 5 then 4 else 2
    let y := (s.enterService p).port p
    y.state = (if k = 4 then 2 else 3) ∧ y.step = 0 ∧ popCount y.lanes 5 = k ∧
    (∀ i, y.lanes.testBit i = true → (s.port p).good.getLsbD i = true) ∧ SparesOthers p s (s.enterService p) := by
  obtain ⟨l, -, chosen, count, within⟩ := lanesChosen_of_enough _ enough
  have good (i : Nat) (used : l.testBit i = true) : (s.port p).good.getLsbD i = true := by
    rw [← within, Nat.testBit_and, Bool.and_eq_true] at used
    exact used.2
  unfold State.enterService
  simp only [chosen, Option.getD_some, decide_eq_true_eq]
  by_cases full : 4 ≤ popCount (s.port p).good.toNat 5
  · simp only [if_pos full, if_neg (Nat.not_lt.mpr full), if_true, State.port_modPort, true_and] at count ⊢
    exact ⟨count, good, .modPort _⟩
  · simp only [if_neg full, if_pos (Nat.not_le.mp full), State.port_stick, State.port_modPort] at count ⊢
    exact ⟨by decide, trivial, count, good, (SparesOthers.modPort _).trans (.stick 1)⟩

/-- Settles O51: each event comes to what its row does; leaving service touches of the other ports only what they have to send. -/
theorem portsTrainAndFall : Obligations.PortsTrainAndFall := by
  intro s p hp run x others falls
  refine ⟨portTrainStart_begins hp run, step1_accepts hp run, step1_rejects hp run, step2_leads_on hp run, step3_leads_on hp run,
    step4_drops hp run, step4_leads_on hp run, step5_leads_on hp run, ?_, trainingStepTimeout_drops hp run, fecLockLoss_drops hp run,
    ?_, ?_⟩
  · intro r step seen acked enough
    exact ⟨_, exec_step6 hp run r step seen acked, s.enterService_spec p enough⟩
  · intro lane hl up used may
    obtain ⟨spares, state, step, lanes, recorded⟩ := State.retrain_of_not_mayTrain up may
    refine ⟨_, exec_equalisationOutOfLimits hp run hl up used, ?_⟩
    simp only [State.port_modPort]
    exact ⟨state, step, lanes, recorded, spares.trans (.modPort _)⟩
  · intro lane hl up used may
    obtain ⟨spares, state, step, recorded⟩ := State.retrain_of_mayTrain may
    refine ⟨_, exec_equalisationOutOfLimits hp run hl up used, ?_⟩
    simp only [State.port_modPort]
    exact ⟨state, step, trivial, recorded, spares.trans (.modPort _)⟩

end Sys2Proof.Machine

namespace Sys2Proof.Machine

/-! ## What a flit's counters leave alone (10 R332, R334) -/

@[simp] theorem Port.up_takeCounters (x : Port) (f : BitVec 2048) : (x.takeCounters f).up = x.up := rfl
@[simp] theorem Port.mayTrain_takeCounters (x : Port) (f : BitVec 2048) : (x.takeCounters f).mayTrain = x.mayTrain := rfl
@[simp] theorem Port.replays_takeCounters (x : Port) (f : BitVec 2048) : (x.takeCounters f).replays = x.replays := rfl

/-! ## Flits that are taken, and flits that ask for a replay (10 R328, R331, R332) -/

/-- The state in which a flit is looked at: an uncorrectable codeword has been recorded. -/
def State.looked (s : State) (p : Nat) (fecOk : Bool) : State := if fecOk then s else s.stick p 6

/-- A port that asks for a replay counts it, and retrains at the sixteenth in a row. -/
theorem State.askReplay_spec {s : State} {p : Nat} (up : s.portUp p = true) : let x := s.port p; let y := (s.askReplay p).port p
    (x.asks < 15 → y.askDue = true ∧ y.discarding = true ∧ y.asks = x.asks + 1) ∧
    (15 ≤ x.asks → y.state = (if x.mayTrain then 4 else 0) ∧ y.step = if x.mayTrain then 2 else 0) := by
  let s1 := s.modPort p fun x => { x with askDue := true, discarding := true, asks := (s.port p).asks + 1 }
  have asked : s1.port p = { s.port p with askDue := true, discarding := true, asks := (s.port p).asks + 1 } := State.port_modPort _ _ _
  have e : s.askReplay p = if 16 ≤ (s.port p).asks + 1 then s1.retrain p else s1 := rfl
  rw [e]
  constructor
  · intro few
    rw [if_neg (by omega), asked]
    exact ⟨rfl, rfl, rfl⟩
  · intro many
    have up1 : s1.portUp p = true := by
      rw [State.portUp, asked]
      exact up
    have retrained := State.port_retrain up1
    rw [asked] at retrained
    rw [if_pos (by omega)]
    exact retrained

/-- An event makes a port in service ask for a replay. -/
def AsksReplay (p : Nat) (i : Instr) (s : State) : Prop :=
  ∃ t, exec i s = .next t ∧ t.mem = s.mem ∧
    ((s.port p).asks < 15 → (t.port p).askDue = true ∧ (t.port p).discarding = true ∧ (t.port p).asks = (s.port p).asks + 1) ∧
    (15 ≤ (s.port p).asks → (t.port p).state = (if (s.port p).mayTrain then 4 else 0) ∧
      (t.port p).step = if (s.port p).mayTrain then 2 else 0)

theorem asksReplay_of_exec {s : State} {p : Nat} {i : Instr} (up : s.portUp p = true) (fecOk : Bool)
    (run : exec i s = .next ((s.looked p fecOk).askReplay p)) : AsksReplay p i s := by
  have keeps (u : State) : (u.askReplay p).mem = u.mem :=
    (State.askReplay_keeps (pt := { mem := true }) u p (.refl u) rfl rfl rfl rfl).same.mem rfl
  refine ⟨_, run, ?_⟩
  cases fecOk with
  | true => exact ⟨keeps s, State.askReplay_spec up⟩
  | false =>
    have stuck : (s.stick p 6).port p = { s.port p with sticky := (s.port p).sticky ||| BitVec.ofNat 32 (2 ^ 6) } := s.port_stick p 6
    have up6 : (s.stick p 6).portUp p = true := by
      rw [State.portUp, stuck]
      exact up
    have spec := State.askReplay_spec up6
    rw [stuck] at spec
    exact ⟨keeps (s.stick p 6), spec⟩

section
variable {s : State} {p : Nat} {f : BitVec 2048} (hp : p < 12) (run : s.portsRun = true)
include hp run

theorem onFlit_of_good {kind : Nat} (g : State → State) (up : s.portUp p = true) (same : fKind f = kind) (good : crcOk f = true) :
    onFlit p f true kind s g = .next (g s) := by
  simp [onFlit, portCount, hp, run, up, same, good]

theorem onFlit_of_bad {kind : Nat} {fecOk : Bool} (g : State → State) (up : s.portUp p = true) (same : fKind f = kind)
    (bad : (fecOk && crcOk f) = false) : onFlit p f fecOk kind s g = .next ((s.looked p fecOk).askReplay p) := by
  have damaged : (!fecOk || !crcOk f) = true := by rw [← Bool.not_and, bad]; rfl
  simp [onFlit, portCount, hp, run, up, same, damaged, State.looked]

theorem messageFlit_of_good (up : s.portUp p = true) (kind : fKind f = 0) (good : crcOk f = true) :
    exec (.messageFlit p f true) s = .next (if fSeq f = (s.port p).expect then s.acceptFlit p f
      else if (s.port p).discarding then s else s.askReplay p) := by
  change execMessageFlit p f true s = _
  rw [execMessageFlit, Bool.not_true, Bool.false_and, if_neg Bool.false_ne_true, onFlit_of_good hp run _ up kind good]

/-- A message flit out of its sequence asks for a replay, unless one is being waited for. -/
theorem messageFlit_asks_out_of_sequence (up : s.portUp p = true) (good : crcOk f = true) (kind : fKind f = 0)
    (other : fSeq f ≠ (s.port p).expect) (waits : (s.port p).discarding = false) : AsksReplay p (.messageFlit p f true) s := by
  have e := messageFlit_of_good hp run up kind good
  rw [if_neg other, waits, if_neg Bool.false_ne_true] at e
  exact asksReplay_of_exec up true e

theorem messageFlit_asks_of_bad {fecOk : Bool} (up : s.portUp p = true) (bad : (fecOk && crcOk f) = false) (kind : fKind f = 0) :
    AsksReplay p (.messageFlit p f fecOk) s := by
  refine asksReplay_of_exec up fecOk ?_
  change execMessageFlit p f fecOk s = _
  cases fecOk with
  | true => rw [execMessageFlit, Bool.not_true, Bool.false_and, if_neg Bool.false_ne_true, onFlit_of_bad hp run _ up kind bad]
  | false => simp [execMessageFlit, portCount, hp, run, up, State.looked]

theorem nullFlit_asks_of_bad {fecOk : Bool} (up : s.portUp p = true) (bad : (fecOk && crcOk f) = false) (kind : fKind f = 1) :
    AsksReplay p (.nullFlit p f fecOk) s := by
  refine asksReplay_of_exec up fecOk ?_
  change execNullFlit p f fecOk s = _
  rw [execNullFlit, onFlit_of_bad hp run _ up kind bad]

theorem replayRequest_asks_of_bad {fecOk : Bool} (up : s.portUp p = true) (bad : (fecOk && crcOk f) = false) (kind : fKind f = 2) :
    AsksReplay p (.replayRequest p f fecOk) s := by
  refine asksReplay_of_exec up fecOk ?_
  change execReplayRequest p f fecOk s = _
  rw [execReplayRequest, onFlit_of_bad hp run _ up kind bad]

theorem nullFlit_brings_counters (up : s.portUp p = true) (good : crcOk f = true) (kind : fKind f = 1)
    (waits : (s.port p).discarding = false) : exec (.nullFlit p f true) s = .next (s.modPort p (·.takeCounters f)) := by
  change execNullFlit p f true s = _
  rw [execNullFlit, onFlit_of_good hp run _ up kind good, waits, if_neg Bool.false_ne_true]

/-- A replay request names the point to send again from, if the flit there is still kept. -/
theorem replayRequest_sets_again (up : s.portUp p = true) (good : crcOk f = true) (kind : fKind f = 2)
    (waits : (s.port p).discarding = false) : ∃ t, exec (.replayRequest p f true) s = .next t ∧
      (t.port p).again = (if (((s.port p).takeCounters f).replay.any (·.seq = fSeq f)) = true then some (fSeq f) else none) ∧
      (t.port p).replays = satAdd 32 (s.port p).replays 1 ∧ t.mem = s.mem ∧ t.tiles = s.tiles := by
  have e : exec (.replayRequest p f true) s = .next (s.modPort p fun x => { x.takeCounters f with
      again := if (x.takeCounters f).replay.any (·.seq = fSeq f) then some (fSeq f) else none
      replays := satAdd 32 (x.takeCounters f).replays 1 }) := by
    change execReplayRequest p f true s = _
    rw [execReplayRequest, onFlit_of_good hp run _ up kind good, waits, if_neg Bool.false_ne_true]
  refine ⟨_, e, ?_⟩
  rw [State.port_modPort, Port.replays_takeCounters]
  exact ⟨rfl, rfl, rfl, rfl⟩

/-! ## Control flits (10 R327, R335) -/

theorem onControl_in_training {ctype : Nat} (g : State → State) (kind : fKind f = 3) (good : crcOk f = true)
    (step : (s.port p).step = 6) (down : s.portUp p = false) (same : cType f = ctype) : onControl p f ctype s g = .next (g s) := by
  simp [onControl, portCount, hp, run, kind, good, step, down, same]

theorem onControl_in_service {ctype : Nat} (g : State → State) (kind : fKind f = 3) (good : crcOk f = true)
    (up : s.portUp p = true) (waits : (s.port p).discarding = false) (same : cType f = ctype) :
    onControl p f ctype s g = .next (g (s.modPort p (·.takeCounters f))) := by
  simp [onControl, portCount, hp, run, kind, good, up, waits, same]

theorem init_accepted (kind : fKind f = 3) (good : crcOk f = true) (step : (s.port p).step = 6) (down : s.portUp p = false)
    (ctype : cType f = 1) (fits : s.initOk p f = true) : exec (.init p f) s = .next (s.modPort p fun y => { y with
      initSeen := true, peerDev := cDev f, credits := (List.range 8).map (cGrant f), controls := y.controls ++ [2] }) := by
  change execInit p f s = _
  rw [execInit, onControl_in_training hp run _ kind good step down ctype, step, fits, bne_self_eq_false, if_neg Bool.false_ne_true,
    if_pos rfl]

/-- An init that does not agree with the fabric's settings is recorded, and takes the port down. -/
theorem init_refused (kind : fKind f = 3) (good : crcOk f = true) (step : (s.port p).step = 6) (down : s.portUp p = false)
    (ctype : cType f = 1) (differs : s.initOk p f = false) : ∃ t, exec (.init p f) s = .next t ∧ (t.port p).state = 5 ∧
      (t.port p).sticky.getLsbD 3 = true := by
  have e : exec (.init p f) s = .next ((s.stick p 3).portDown p) := by
    change execInit p f s = _
    rw [execInit, onControl_in_training hp run _ kind good step down ctype, step, differs, bne_self_eq_false,
      if_neg Bool.false_ne_true, if_neg Bool.false_ne_true]
  refine ⟨_, e, ?_⟩
  have stuck : ((s.stick p 3).port p).sticky.getLsbD 3 = true := by
    rw [State.port_stick]
    exact getLsbD_stuck _ (by decide)
  by_cases already : ((s.stick p 3).port p).state = 5
  · rw [State.portDown_of_down already]
    exact ⟨already, stuck⟩
  · have falls := State.portDown_falls already
    rw [falls.sticky, BitVec.getLsbD_or, stuck, Bool.true_or]
    exact ⟨falls.state, rfl⟩

theorem initAck_noted (kind : fKind f = 3) (good : crcOk f = true) (step : (s.port p).step = 6) (down : s.portUp p = false)
    (ctype : cType f = 2) : exec (.initAck p f) s = .next (s.modPort p fun y => { y with initAcked := true }) := by
  change execInitAck p f s = _
  rw [execInitAck, onControl_in_training hp run _ kind good step down ctype]

theorem retrainRequest_retrains (kind : fKind f = 3) (good : crcOk f = true) (up : s.portUp p = true)
    (waits : (s.port p).discarding = false) (ctype : cType f = 3) : ∃ t, exec (.retrainRequest p f) s = .next t ∧
      (t.port p).state = (if (s.port p).mayTrain then 4 else 0) ∧ (t.port p).step = if (s.port p).mayTrain then 2 else 0 := by
  have up1 : (s.modPort p (·.takeCounters f)).portUp p = true := by
    rw [State.portUp, State.port_modPort, Port.up_takeCounters]
    exact up
  have e : exec (.retrainRequest p f) s = .next ((s.modPort p (·.takeCounters f)).retrain p) := by
    change execRetrainRequest p f s = _
    rw [execRetrainRequest, onControl_in_service hp run _ kind good up waits ctype, up1, if_pos rfl]
  have retrained := State.port_retrain up1
  rw [State.port_modPort, Port.mayTrain_takeCounters] at retrained
  exact ⟨_, e, retrained⟩

theorem downNotice_brings_counters (kind : fKind f = 3) (good : crcOk f = true) (up : s.portUp p = true)
    (waits : (s.port p).discarding = false) (ctype : cType f = 4) :
    exec (.downNotice p f) s = .next (s.modPort p (·.takeCounters f)) := onControl_in_service hp run id kind good up waits ctype

theorem initResend_sends_again (step : (s.port p).step = 6) (unacked : (s.port p).initAcked = false) :
    exec (.initResend p) s = .next (s.modPort p fun y => { y with controls := y.controls ++ [1] }) := by
  change execInitResend p s = _
  simp [execInitResend, portCount, hp, run, step, unacked]

end

/-! ## Fields of a flit that is sent (10 R330) -/

/-- The fields of a packed flit stand as they were packed, whatever its check code. -/
theorem bits_sealFlit_pack (l : List (Nat × Nat)) (hi lo : Nat) (code : (32, 0) ∈ l.getLast?) (width : packWidth l = 2048)
    (above : 32 ≤ lo) : bits (sealFlit (pack l)).toNat hi lo = bits (pack l) hi lo := by
  have fits : pack l < 2 ^ packWidth l := pack_lt l
  rw [width] at fits
  refine bits_sealFlit _ _ _ ?_ fits above
  have room : packWidth [(32, 0)] = 32 := rfl
  have zero : pack [(32, 0)] = 0 := rfl
  rw [← List.dropLast_append_getLast? _ code, pack_append, room, zero, Nat.add_zero, Nat.mul_mod_left]

theorem Port.fKind_flit (x : Port) (kind vc dl seq used tdev body : Nat) :
    fKind (x.flit kind vc dl seq used tdev body).1 = kind % 4 := by
  unfold fKind Port.flit
  dsimp only
  rw [bits_sealFlit_pack _ _ _ ?code ?width (by decide)]
  case code => rfl
  case width => simp [packWidth]
  exact bits_pack_at _ 0 2 kind _ _ rfl (by decide) (by simp [packWidth]) rfl

theorem Port.fSeq_flit (x : Port) (kind vc dl seq used tdev body : Nat) :
    fSeq (x.flit kind vc dl seq used tdev body).1 = seq % 4096 := by
  unfold fSeq Port.flit
  dsimp only
  rw [bits_sealFlit_pack _ _ _ ?code ?width (by decide)]
  case code => rfl
  case width => simp [packWidth]
  exact bits_pack_at _ 3 12 seq _ _ rfl (by decide) (by simp [packWidth]) rfl

/-! ## Which pair sends next (01 R16; 10 R333) -/

/-- No message of a channel may be sent where the pairs of those that wait have no credit. -/
theorem Port.vcPair_eq_none_iff (x : Port) (vc : Nat) :
    x.vcPair vc = none ↔ ∀ m ∈ x.out, m.vc = vc → lget x.credits (2 * m.vc + m.dl) 0 = 0 := by
  have head {m : OutMsg} (waits : m ∈ x.out) : (x.pairHead (2 * m.vc + m.dl)).isSome = true :=
    List.find?_isSome.mpr ⟨m, waits, by simp⟩
  simp only [Port.vcPair, Option.map_eq_none_iff, List.find?_eq_none]
  refine forall₂_congr fun m waits => ?_
  simp [Port.pairReady, head waits]

/-- A port with no more waiting that may be sent than one that sends nothing sends nothing. -/
theorem Port.nextPair_of_subset {x : Port} {l : List OutMsg} (within : l ⊆ x.out) (nothing : x.nextPair = none) :
    ({ x with out := l } : Port).nextPair = none := by
  simp only [Port.nextPair, List.findSome?_eq_none_iff, Port.vcPair_eq_none_iff] at nothing ⊢
  exact fun vc turn m waits => nothing vc turn m (within waits)

theorem mayGo_subset (held : OutMsg → Bool) (ps : List Nat) (ms : List OutMsg) : mayGo held ps ms ⊆ ms := by
  induction ms generalizing ps with
  | nil => exact List.Subset.refl _
  | cons m ms ih =>
    unfold mayGo
    split
    · exact List.subset_cons_of_subset m (ih _)
    · exact List.cons_subset_cons m (ih _)

/-! ## Sending (10 R330, R332 to R335) -/

@[simp] theorem State.port_emit (s : State) (p : Nat) (f : BitVec 2048 × Port) : (s.emit p f).port p = f.2 := by
  have e : (s.emit p f).port p = (s.modPort p fun _ => f.2).port p := rfl
  rw [e, State.port_modPort]

section
variable {s : State} {p : Nat} (hp : p < 12) (run : s.portsRun = true) (sends : s.portUp p = true ∨ (s.port p).step = 6)
include hp run sends

theorem exec_flitTransmit : exec (.flitTransmit p) s = .next (s.sendFlit p) := by
  change execFlitTransmit p s = _
  rcases sends with up | step
  · simp [execFlitTransmit, portCount, hp, run, up]
  · simp [execFlitTransmit, portCount, hp, run, step]

/-- A replay request that is owed goes out first, and names the flit expected. -/
theorem flitTransmit_sends_request (due : (s.port p).askDue = true) : ∃ t b, exec (.flitTransmit p) s = .next t ∧
    t.sent = .flit p b :: s.sent ∧ fKind b = 2 ∧ fSeq b = (s.port p).expect % 4096 ∧ (t.port p).askDue = false := by
  have e : s.sendFlit p = s.emit p (({ s.port p with askDue := false } : Port).flit 2 0 0 (s.port p).expect 0 0 0) := if_pos due
  exact ⟨_, _, (exec_flitTransmit hp run sends).trans (congrArg _ e), rfl, Port.fKind_flit _ _ _ _ _ _ _ _,
    Port.fSeq_flit _ _ _ _ _ _ _ _, congrArg Port.askDue (s.port_emit p _)⟩

/-- With no flit to be sent again, the control flits that are owed go out in their order. -/
theorem flitTransmit_sends_control {c : Nat} {cs : List Nat} (due : (s.port p).askDue = false) (again : (s.port p).again = none)
    (controls : (s.port p).controls = c :: cs) : ∃ t b, exec (.flitTransmit p) s = .next t ∧
      t.sent = .flit p b :: s.sent ∧ fKind b = 3 ∧ (t.port p).controls = cs := by
  have e : s.sendFlit p = s.emit p (({ s.port p with controls := cs, again := none } : Port).flit 3 0 0 (s.port p).seq 0 0
      (s.controlBody p c)) := by
    simp only [State.sendFlit, due, again, controls, Bool.false_eq_true, if_false, Option.bind_none]
  exact ⟨_, _, (exec_flitTransmit hp run sends).trans (congrArg _ e), rfl, Port.fKind_flit _ _ _ _ _ _ _ _,
    congrArg Port.controls (s.port_emit p _)⟩

theorem flitTransmit_idle (due : (s.port p).askDue = false) (again : (s.port p).again = none) (controls : (s.port p).controls = [])
    (nothing : (s.port p).nextPair = none) (told : (s.port p).freed = (s.port p).told) : exec (.flitTransmit p) s = .next s := by
  have held : ({ s.port p with out := s.goes p } : Port).nextPair = none := Port.nextPair_of_subset (mayGo_subset _ _ _) nothing
  rw [exec_flitTransmit hp run sends]
  simp only [State.sendFlit, held, ite_self]
  simp only [due, again, controls, told, Bool.false_eq_true, if_false, Option.bind_none, bne_self_eq_false, Bool.and_false]

end

/-! ## Cables (16 R515) -/

theorem State.cable_plug (s : State) (p : Nat) : ((s.plug p).port p).cable = true := by
  unfold State.plug State.startPort
  dsimp only
  have plugged : ((s.modPort p fun x => { x with cable := true }).port p).cable = true := by rw [State.port_modPort]
  split
  · split
    · exact (State.beginTraining_begins _ p 1 1).cable.trans plugged
    · exact plugged
  · exact plugged

theorem State.cable_unplug (s : State) (p : Nat) : ((s.unplug p).port p).cable = false := by
  unfold State.unplug
  dsimp only
  rw [State.port_modPort]

section
variable {s : State} {p : Nat} (hp : p < 12) (powered : s.power.camp = true)
include hp powered

theorem cablePlug_noted (unplugged : (s.port p).cable = false) : ∃ t, exec (.cablePlug p) s = .next t ∧ (t.port p).cable = true ∧
    t.mem = s.mem := by
  have keeps : Keeps { mem := true } s (s.plug p) := State.plug_keeps _ _ (.refl s) rfl rfl rfl rfl
  have e : execCablePlug p s = .next (s.plug p) := by
    simp [execCablePlug, atPlace, portCount, hp, powered, unplugged]
  exact ⟨_, e, s.cable_plug p, keeps.same.mem rfl⟩

theorem cableUnplug_noted (plugged : (s.port p).cable = true) : ∃ t, exec (.cableUnplug p) s = .next t ∧ (t.port p).cable = false ∧
    t.mem = s.mem := by
  have keeps : Keeps { mem := true } s (s.unplug p) := State.unplug_keeps _ _ (.refl s) rfl rfl rfl rfl
  have e : execCableUnplug p s = .next (s.unplug p) := by
    simp [execCableUnplug, atPlace, portCount, hp, powered, plugged]
  exact ⟨_, e, s.cable_unplug p, keeps.same.mem rfl⟩

end

/-- Settles O52: each kind of flit comes to what its row does where its conditions hold, and a sender all of whose messages lack
credit sends nothing, whichever of them a seam holds. -/
theorem flitsAreTaken : Obligations.FlitsAreTaken := by
  intro s p hp x asks
  refine ⟨?_, ?_, ?_, ?_, ?_, ?_⟩
  · intro f run up good
    refine ⟨?_, fun kind other waits => messageFlit_asks_out_of_sequence hp run up good kind other waits, ?_,
      nullFlit_brings_counters hp run up good, replayRequest_sets_again hp run up good⟩
    · intro kind inSequence
      exact ⟨_, (messageFlit_of_good hp run up kind good).trans (congrArg _ (if_pos inSequence)), rfl⟩
    · intro kind other waits
      rw [messageFlit_of_good hp run up kind good, if_neg other, if_pos waits]
  · intro f fecOk run up bad
    exact ⟨messageFlit_asks_of_bad hp run up bad, nullFlit_asks_of_bad hp run up bad, replayRequest_asks_of_bad hp run up bad⟩
  · intro f run kind good
    exact ⟨init_accepted hp run kind good, init_refused hp run kind good, initAck_noted hp run kind good,
      retrainRequest_retrains hp run kind good, downNotice_brings_counters hp run kind good⟩
  · exact fun run step unacked => initResend_sends_again hp run step unacked
  · intro run sends
    exact ⟨flitTransmit_sends_request hp run sends, fun c cs => flitTransmit_sends_control hp run sends,
      flitTransmit_idle hp run sends⟩
  · intro powered
    exact ⟨cablePlug_noted hp powered, cableUnplug_noted hp powered⟩

end Sys2Proof.Machine

namespace Sys2Proof.Machine

/-! ## Time with nothing under way, and a tick of the whistles (13 R392 to R396; log 2) -/

/-- A table of the chosen keys of a list holds each chosen key's value. -/
theorem tfind_filterMap {α : Type} (p : Nat → Bool) (f : Nat → α) (k : Nat) (l : List Nat) :
    tfind k (l.filterMap fun j => if p j then some (j, f j) else none) = if k ∈ l ∧ p k = true then some (f k) else none := by
  induction l with
  | nil => simp [tfind]
  | cons j l ih =>
    rcases eq_or_ne j k with rfl | hj
    · cases chosen : p j
      · simp [chosen, ih]
      · simp [chosen, tfind]
    · cases chosen : p j
      · simp [chosen, ih, hj.symm]
      · simp [chosen, tfind, ih, hj, hj.symm]

/-- A tick counts for the whistles that are owed progress; the others stand at 0. -/
theorem State.whistle_tickTile (s : State) (n : Nat) {u : Nat} (hu : u < 24) : (s.tickTile n).whistle n u =
    if s.owed n u then s.tickWhistle n u (tfind u (s.tile n).whistles) else {} := by
  rw [State.whistle, State.tickTile, State.tile_modTile, tget, tfind_filterMap (s.owed n)]
  cases s.owed n u
  · simp
  · simp [hu]

theorem State.releaseHeld_of_empty {s : State} (held : s.trouble.held = []) : s.releaseHeld = s := by
  have same : ({ s.trouble with held := [] } : Trouble) = s.trouble := by rw [← held]
  rw [State.releaseHeld, same, held]
  rfl

theorem State.drainRecords_of_empty {s : State} (transit : s.trouble.transit = []) (held : s.trouble.held = []) : s.drainRecords = s := by
  have same : ({ s.trouble with transit := [] } : Trouble) = s.trouble := by rw [← transit]
  rw [State.drainRecords, same, transit]
  exact State.releaseHeld_of_empty held

/-- Where nothing is under way, time leaves the machine as it is. -/
theorem State.idle_of_still {s : State} (tiles : s.tiles = []) (transit : s.trouble.transit = []) (held : s.trouble.held = [])
    (fns : s.fns = []) (repeats : s.trouble.repeats = []) (panel : s.panel.held ≠ 2) (jobs : s.service.jobs = []) : s.idle = s := by
  have ticked : s.tickWhistles = s := by rw [State.tickWhistles, tiles]; rfl
  have drained : (if s.power.camp then s.drainRecords else s) = s := by rw [State.drainRecords_of_empty transit held, ite_self]
  have ended : ({ s.trouble with repeats := s.trouble.repeats.filter fun e => decide (1024 ≤ e.2) } : Trouble) = s.trouble := by
    rw [repeats, List.filter_nil, ← repeats]
  have settled : s.settleJobs = s := by rw [State.settleJobs, jobs]; rfl
  rw [State.idle]
  dsimp only
  rw [ticked, drained, fns, List.map_nil, List.foldl_nil, ended, if_neg panel, repeats, List.isEmpty_nil, if_pos rfl]
  exact settled

/-- Settles O2: on an empty queue time passes, and a tick counts as the whistle's own state and cause say. -/
theorem emptyQueueLetsTimePass : Obligations.EmptyQueueLetsTimePass := by
  intro s empty
  have passes : step s = .next s.idle := by rw [step, empty]
  refine ⟨passes, fun tiles transit held fns repeats panel jobs => ?_, fun n u hu => ?_⟩
  · rw [passes, State.idle_of_still tiles transit held fns repeats panel jobs]
  · have ticked := s.whistle_tickTile n hu
    refine ⟨fun free => ?_, fun owed fresh => ?_, fun w owed counted => ?_⟩
    · rw [ticked, if_neg (Bool.eq_false_iff.mp free)]
    · rw [ticked, if_pos owed, fresh]
      rfl
    · rw [ticked, if_pos owed, counted]
      rfl

end Sys2Proof.Machine

namespace Sys2Proof.Machine

/-! ## What an alarm changes (13 R422) -/

/-- An alarm counts its source's records, and is on its way or waits for a place. -/
theorem State.trouble_alarm (s : State) (kind source ctx : Nat) (body : List Byte) : ∃ seqs transit held,
    (s.alarm kind source ctx body).trouble = { s.trouble with seqs := seqs, transit := transit, held := held } := by
  unfold State.alarm
  dsimp only
  split
  · exact ⟨_, _, _, rfl⟩
  · split
    · exact ⟨_, _, _, rfl⟩
    · exact ⟨_, _, _, rfl⟩

/-! ## Dumps (13 R400, R417 to R419; log 78) -/

/-- A byte outside a write by base camp keeps its value. -/
theorem State.peek_outsideWrite (s : State) (a : Nat) (bytes : List Byte) {b : Nat} (h : b < a ∨ a + bytes.length ≤ b) :
    peek b (s.outsideWrite a bytes).mem = peek b s.mem := by
  refine List.foldlRecOn (motive := fun u : State => peek b u.mem = peek b s.mem) (writeParts a bytes) _ rfl fun u kept p hp => ?_
  obtain ⟨lo, hi⟩ := blockParts_inside hp
  split
  · exact kept
  · rw [State.mem_writeChecked, State.peek_writeHome _ _ _ _ (by omega), kept]

/-- A dump ends: its bytes, as many as the area holds behind their place, are written there, it leaves the list and is reported, and
its context is stopped again. -/
theorem State.endDump_eq (s : State) (d : DumpJob) (rest : List DumpJob) : ∃ off bytes next last header,
    off + bytes.length ≤ s.trouble.dumpSize * 1048576 ∧
    s.endDump d rest =
      let u := s.outsideWrite (s.trouble.dumpBase + off) bytes
      (State.alarm { u with trouble := { u.trouble with
        dumps := rest, dumpNext := next, dumpLast := last, dumpTaken := true } } 0x0E 0x820 d.ctx header).modCtx d.ctx
          fun x => if x.state = 3 then { x with state := 2 } else x := by
  refine ⟨_, _, _, _, _, ?_, rfl⟩
  rw [List.length_take]
  split <;> omega

/-- A dump that ends leaves the list, and no byte outside the dump area changes. -/
theorem State.endDump_leaves (s : State) (d : DumpJob) (rest : List DumpJob) : let t := s.endDump d rest
    t.trouble.dumps = rest ∧ t.trouble.dumpTaken = true ∧ ∀ a, a < s.trouble.dumpBase ∨
      s.trouble.dumpBase + s.trouble.dumpSize * 1048576 ≤ a → peek a t.mem = peek a s.mem := by
  obtain ⟨off, bytes, _, _, header, inside, ended⟩ := s.endDump_eq d rest
  rw [ended]
  dsimp only
  generalize hu : ({ s.outsideWrite (s.trouble.dumpBase + off) bytes with trouble := _ } : State) = u
  have listed : u.trouble.dumps = rest ∧ u.trouble.dumpTaken = true := by
    rw [← hu]
    exact ⟨rfl, rfl⟩
  have written : u.mem = (s.outsideWrite (s.trouble.dumpBase + off) bytes).mem := by rw [← hu]
  obtain ⟨_, _, _, told⟩ := u.trouble_alarm 0x0E 0x820 d.ctx header
  have mem := (State.alarm_keeps (pt := { mem := true }) u 0x0E 0x820 d.ctx header (.refl u) rfl).same.mem rfl
  refine ⟨?_, ?_, fun a outside => ?_⟩
  · exact (congrArg Trouble.dumps told).trans listed.1
  · exact (congrArg Trouble.dumpTaken told).trans listed.2
  · exact (congrArg (peek a) (mem.trans written)).trans (s.peek_outsideWrite _ _ (by omega))

/-- How the oldest dump goes on with the units that are left: it ends, or reads the next of them. -/
def State.goOn (s : State) (d : DumpJob) (rest : List DumpJob) : State :=
  if d.left.isEmpty then s.endDump d rest else s.setDumps (d :: rest)

/-- What a dump's turn makes of the machine: it has ended, or still has the units to read, with so many sections behind it. -/
def State.ReadsOn (s : State) (rest : List DumpJob) (units : List Nat) (count unreachable : Nat) (sections : List Byte → Prop)
    (t : State) : Prop :=
  (units = [] → t.trouble.dumps = rest ∧ t.trouble.dumpTaken = true) ∧
  (units ≠ [] → t.tiles = s.tiles ∧ t.mem = s.mem ∧ ∃ d, t.trouble.dumps = d :: rest ∧ d.running = true ∧ d.left = units ∧
    d.count = count ∧ d.unreachable = unreachable ∧ sections d.sections) ∧
  (∀ a, a < s.trouble.dumpBase ∨ s.trouble.dumpBase + s.trouble.dumpSize * 1048576 ≤ a → peek a t.mem = peek a s.mem)

theorem State.goOn_readsOn {s u : State} (tiles : u.tiles = s.tiles) (mem : u.mem = s.mem) (trouble : u.trouble = s.trouble)
    (d : DumpJob) (rest : List DumpJob) (running : d.running = true) (sections : List Byte → Prop) (read : sections d.sections) :
    s.ReadsOn rest d.left d.count d.unreachable sections (u.goOn d rest) := by
  unfold State.goOn
  cases left : d.left with
  | nil =>
    obtain ⟨dumps, taken, outside⟩ := u.endDump_leaves d rest
    rw [trouble, mem] at outside
    exact ⟨fun _ => ⟨dumps, taken⟩, fun more => absurd rfl more, outside⟩
  | cons unit units =>
    exact ⟨nofun, fun _ => ⟨tiles, mem, d, rfl, running, left, rfl, rfl, read⟩, fun a _ => congrArg (peek a) mem⟩

/-- A dump that begins, with the units it is to read. -/
def DumpJob.begun (d : DumpJob) (units : List Nat) : DumpJob := { d with running := true, left := units }

/-- A dump with the section of a unit placed, and the units left behind it. -/
def DumpJob.placed (d : DumpJob) (u : Nat) (us : List Nat) (status : Nat) (cycles : BitVec 48) : DumpJob := { d with
  left := us, current := [], count := d.count + 1, unreachable := d.unreachable + if status = 0 then 0 else 1
  sections := d.sections ++ sectionHeader u status cycles d.current.length ++ d.current }

theorem State.endUnit_eq (s : State) {d : DumpJob} (rest : List DumpJob) {u : Nat} {us : List Nat} (left : d.left = u :: us)
    (status : Nat) : s.endUnit d rest status = (s.cycle u).2.goOn (d.placed u us status (s.cycle u).1) rest := by
  rw [State.endUnit, left]
  dsimp only
  rw [ite_self]
  rfl

/-- The unit being read is done: its section is placed, and the dump goes on. -/
theorem State.endUnit_readsOn (s : State) {d : DumpJob} (rest : List DumpJob) {u : Nat} {us : List Nat} (left : d.left = u :: us)
    (running : d.running = true) (status : Nat) :
    s.ReadsOn rest us (d.count + 1) (d.unreachable + if status = 0 then 0 else 1)
      (fun l => ∃ cycles, l = d.sections ++ sectionHeader u status cycles d.current.length ++ d.current)
      (s.endUnit d rest status) := by
  rw [s.endUnit_eq rest left status]
  refine State.goOn_readsOn (s := s) (u := (s.cycle u).2) rfl rfl rfl (d.placed u us status (s.cycle u).1) rest running _ ?_
  exact ⟨_, rfl⟩

/-- Settles O50: what a dump's begin, a unit's answer and a unit's silence make of the oldest dump. -/
theorem dumpsReadTheirUnits : Obligations.DumpsReadTheirUnits := by
  intro s d rest oldest next
  refine ⟨fun waits ready => ?_, fun u us data running left => ?_⟩
  · have run : execDump s = .next ((s.modCtx d.ctx fun x => if d.cause = 1 && x.state = 2 then { x with state := 3 } else x).goOn
        (d.begun (s.dumpUnits d.ctx d.depth)) rest) := by
      rw [execDump, oldest]
      exact if_neg (by simp [waits, ready])
    have read (f : Ctx → Ctx) := State.goOn_readsOn (s := s) (u := s.modCtx d.ctx f) rfl rfl rfl (d.begun (s.dumpUnits d.ctx d.depth))
      rest rfl (· = d.sections) rfl
    exact ⟨_, run, read _⟩
  · intro got placed
    have run : execDumpUnitAnswer data s = .next (if s.unitLength d.ctx d.depth u ≤ got.length then
        s.endUnit { d with current := got } rest 0 else s.setDumps ({ d with current := got } :: rest)) := by
      simp only [execDumpUnitAnswer, oldest, running, left]
      rfl
    refine ⟨fun short => ?_, fun whole => ?_, ?_⟩
    · rw [if_neg (by omega)] at run
      exact run
    · rw [if_pos whole] at run
      exact ⟨_, run, State.endUnit_readsOn s (d := { d with current := got }) rest left running 0⟩
    · have silent : execDumpUnitTimeout s = .next (s.endUnit d rest (if d.current.isEmpty then 1 else 2)) := by
        rw [execDumpUnitTimeout, oldest]
        exact congrArg _ (if_pos running)
      have late : (if (if d.current.isEmpty then 1 else 2) = 0 then 0 else 1) = 1 := by split <;> rfl
      have read := s.endUnit_readsOn rest left running (if d.current.isEmpty then 1 else 2)
      rw [late] at read
      exact ⟨_, silent, read⟩

end Sys2Proof.Machine

namespace Sys2Proof.Machine

/-! ## What halts, stops and falling ports report (13 R420 to R423) -/

/-- Of the records of trouble at most the numbers given, what is on its way or waits for a place, and the dumps asked for differ. -/
def Reports (s t : State) : Prop := ∃ seqs transit held dumps,
  t.trouble = { s.trouble with seqs := seqs, transit := transit, held := held, dumps := dumps }

namespace Reports

theorem of_trouble {s t : State} (h : t.trouble = s.trouble) : Reports s t :=
  ⟨s.trouble.seqs, s.trouble.transit, s.trouble.held, s.trouble.dumps, h⟩

theorem refl (s : State) : Reports s s := of_trouble rfl

theorem trans {s t u : State} (h : Reports s t) (g : Reports t u) : Reports s u := by
  obtain ⟨_, _, _, _, first⟩ := h
  obtain ⟨_, _, _, _, second⟩ := g
  exact ⟨_, _, _, _, by rw [second, first]⟩

theorem foldl {α : Type} {f : State → α → State} (step : ∀ u x, Reports u (f u x)) (l : List α) (s : State) :
    Reports s (l.foldl f s) :=
  List.foldlRecOn l f (refl s) fun u h x _ => h.trans (step u x)

theorem ite {c : Prop} [Decidable c] {s t u : State} (h : Reports s t) (g : Reports s u) : Reports s (if c then t else u) := by
  split
  · exact h
  · exact g

theorem alarm (s : State) (kind source ctx : Nat) (body : List Byte) : Reports s (s.alarm kind source ctx body) := by
  obtain ⟨_, _, _, told⟩ := s.trouble_alarm kind source ctx body
  exact ⟨_, _, _, _, told⟩

theorem of_keeps {s t : State} (h : Keeps { trouble := true } s t) : Reports s t := of_trouble (h.same.trouble rfl)

theorem halt (s : State) (n : Nat) (st : Stream) (h : Halt) : Reports s (s.halt n st h) := by
  have recorded (record : BitVec 256) : Reports s ((((s.modThread n st fun th => th.halt h.reason).switchBank n st).cycle n).2.modTile n
      fun t => { t with records := t.records.set st record }) :=
    of_keeps (State.modTile_keeps _ _ _ (State.cycle_keeps _ _
      (State.switchBank_keeps _ _ _ (State.modThread_keeps _ _ _ _ (.refl s) rfl) rfl)) rfl)
  unfold State.halt
  dsimp only
  refine ite (recorded _) ((recorded _).trans ((alarm _ _ _ _ _).trans (ite ?_ (refl _))))
  exact of_keeps (State.lockStop_keeps _ _ _ (.refl _) rfl)

theorem haltAll (s : State) (c : Nat) (h : Halt) : Reports s (s.haltAll c h) :=
  foldl (fun _ _ => foldl (fun _ _ => ite (refl _) (halt _ _ _ _)) _ _) _ _

theorem stopContext (s : State) (c reason seq : Nat) : Reports s (s.stopContext c reason seq) :=
  (alarm _ _ _ _ _).trans (ite (t := { s.stopAlarm c reason with trouble := _ }) ⟨_, _, _, _, rfl⟩ (refl _))

theorem stopWith (s : State) (c reason detail seq : Nat) : Reports s (s.stopWith c reason detail seq) :=
  ite ((haltAll _ _ _).trans (stopContext _ _ _ _)) (refl s)

theorem refuseRequest (s : State) (r : Request) (reason status dev : Nat) : Reports s (s.refuseRequest r reason status dev) := by
  have told : Reports s (if status = 0 ∨ status = 7 ∨ status = 8 then s.teardown (mCtx r.msg) (mTdev r.msg) reason else s) :=
    ite (alarm _ _ _ _ _) (refl s)
  exact told.trans (ite (refl _) (halt _ _ _ _))

theorem hopSend (s : State) (h : Hop) (holds : Option (Nat × Nat × Nat)) : Reports s (s.hopSend h holds) := of_trouble rfl

theorem noRoute (s : State) (m : Msg) : Reports s (s.noRoute m) := by
  unfold State.noRoute
  dsimp only
  refine (alarm s 0x0B 0x810 0 _).trans (ite (refl _) (ite ?_ ?_))
  · split
    · exact (of_trouble rfl).trans (refuseRequest ((State.dropRequest _ _).repaid _ _) _ _ _ _)
    · exact refl _
  · split
    · exact hopSend _ _ _
    · exact alarm _ _ _ _ _

theorem route (s : State) (m : Msg) (inDim : Option Nat) (inDl : Nat) : Reports s (s.route m inDim inDl) := by
  unfold State.route
  split
  · exact hopSend _ _ _
  · exact noRoute s m

theorem unheld (s : State) (m : OutMsg) : Reports s (s.unheld m) := by
  unfold State.unheld
  cases m.holds
  · exact refl s
  · exact of_trouble rfl

theorem leaveService (s : State) (p : Nat) : Reports s (s.leaveService p) := by
  unfold State.leaveService
  dsimp only
  refine trans (of_trouble rfl) ((foldl ?_ _ (s.modPort p _)).trans (foldl ?_ _ _))
  · exact fun u m => (unheld u m).trans (route _ _ _ _)
  · exact fun u c => haltAll u c _

theorem portDown (s : State) (p : Nat) : Reports s (s.portDown p) := by
  have quits : Reports s (if s.portUp p then s.leaveService p else s) := ite (leaveService s p) (refl s)
  unfold State.portDown
  generalize (if s.portUp p then s.leaveService p else s) = u at quits
  exact ite (refl s) (quits.trans ((of_trouble rfl).trans (alarm ((u.modPort p _).stick p 2) _ _ _ _)))

/-- A fault once noted stays so, and the seams' records are as they were. -/
theorem faults {s t : State} (h : Reports s t) : t.trouble.deviceFault = s.trouble.deviceFault ∧
    t.trouble.faulted = s.trouble.faulted ∧ t.trouble.seams = s.trouble.seams := by
  obtain ⟨_, _, _, _, e⟩ := h
  rw [e]
  exact ⟨rfl, rfl, rfl⟩

end Reports

/-! ## Tiles (13 R409) -/

/-- The halt of the owner's streams on a faulty tile. -/
def faultHalt (cause : Nat) : Halt := { reason := 0x51, detail := pack [(1, 0), (5, cause), (24, 0)] }

theorem faultHalt_reason_lt (cause : Nat) : (faultHalt cause).reason < 256 := (by decide : 0x51 < 256)
theorem faultHalt_unit_lt (cause : Nat) : (faultHalt cause).unit < 8 := (by decide : 7 < 8)

/-- The machine once the streams of a faulty tile have halted. -/
def State.faultHalted (s : State) (n cause : Nat) : State :=
  if s.owned n then allStreams.foldl (fun u st => u.halt n st (faultHalt cause)) s else s

theorem State.faultHalted_halts (s : State) {n : Nat} (hn : n < 2048) (cause : Nat) : Halts 0x51 s (s.faultHalted n cause) := by
  unfold State.faultHalted
  split
  · exact Halts.foldl _ _ fun u st _ => Halts.halt u st hn (faultHalt_reason_lt cause) (faultHalt_unit_lt cause)
  · exact Halts.refl _ s

theorem State.tile_faultHalted_of_ne (s : State) {n m : Nat} (cause : Nat) (hm : m ≠ n) : (s.faultHalted n cause).tile m = s.tile m := by
  unfold State.faultHalted
  split
  · exact foldl_preserves (g := (State.tile · m)) (fun u st => u.tile_halt_of_ne st _ hm) _ _
  · rfl

/-- Every stream of a tile that belongs to a context halts, and its record is valid. -/
theorem State.faultHalted_stops {s : State} {n : Nat} (hn : n < 2048) (cause : Nat) (owned : s.owned n = true) (st : Stream) :
    ((s.faultHalted n cause).thread n st).run = .halt ∧
      recordValid (((s.faultHalted n cause).tile n).records.get st) = true := by
  have among : st ∈ allStreams := by cases st <;> decide
  rw [State.faultHalted, if_pos owned]
  refine foldl_reaches (P := fun u => (u.thread n st).run = .halt ∧ recordValid ((u.tile n).records.get st) = true)
    among s (fun u => ?_) fun u v _ stopped => ?_
  · exact ⟨u.run_halt n st _, u.valid_halt st hn (faultHalt_reason_lt cause) (faultHalt_unit_lt cause)⟩
  · have step := Halts.halt u v hn (faultHalt_reason_lt cause) (faultHalt_unit_lt cause)
    exact ⟨step.runs n st stopped.1, (step.kept n st stopped.2).1⟩

/-- A fault's mark in the teams over a tile. -/
def State.quarantined (s : State) (n k : Nat) (d : BitVec 128) : BitVec 128 :=
  if (s.teamsOver n).contains k then withField d 125 1 1 else d

theorem State.tile_tileFault (s : State) (n cause : Nat) :
    (s.tileFault n cause).tile n = { (s.faultHalted n cause).tile n with faulty := true } := by
  rw [State.tileFault, State.tile, State.alarm_tiles, ← State.tile, State.tile_modTile]
  rfl

theorem State.tile_tileFault_of_ne (s : State) {n m : Nat} (cause : Nat) (hm : m ≠ n) : (s.tileFault n cause).tile m = s.tile m := by
  rw [State.tileFault, State.tile, State.alarm_tiles, ← State.tile, State.tile_modTile_of_ne _ _ hm]
  exact s.tile_faultHalted_of_ne cause hm

theorem State.teams_tileFault (s : State) {n : Nat} (hn : n < 2048) (cause : Nat) :
    (s.tileFault n cause).teams = tmap (s.quarantined n) s.teams := by
  have teams : (s.faultHalted n cause).teams = s.teams := (s.faultHalted_halts hn cause).rest.teams rfl
  rw [State.tileFault, (State.alarm_keeps (pt := { teams := true }) _ _ _ _ _ (.refl _) rfl).same.teams rfl]
  exact congrArg (tmap (s.quarantined n)) teams

theorem State.mem_outOfService_tileFault (s : State) (n cause : Nat) : n ∈ (s.tileFault n cause).trouble.outOfService := by
  have inserted (l : List Nat) : n ∈ setInsert l n := by
    unfold setInsert
    split
    · next already => exact List.contains_iff_mem.mp already
    · exact List.mem_cons_self
  rw [State.tileFault]
  obtain ⟨_, _, _, told⟩ := State.trouble_alarm _ 0x05 n (s.owner n) _
  rw [told]
  exact inserted _

theorem tfind_isSome_of_mem {α : Type} {k : Nat} {v : α} {t : Table α} (h : (k, v) ∈ t) : (tfind k t).isSome = true := by
  induction t with
  | nil => cases h
  | cons e r ih =>
    obtain ⟨j, w⟩ := e
    unfold tfind
    split
    · rfl
    · next other =>
      rcases List.mem_cons.mp h with same | later
      · exact absurd (Prod.mk.inj same).1.symm other
      · exact ih later

/-- Every team over a faulty tile is quarantined. -/
theorem State.team_quarantined (s : State) {n k : Nat} (hk : k ∈ s.teamsOver n) :
    (tget 0 k (tmap (s.quarantined n) s.teams)).getLsbD 125 = true := by
  obtain ⟨e, he, rfl⟩ := List.mem_map.mp hk
  obtain ⟨d, team⟩ := Option.isSome_iff_exists.mp (tfind_isSome_of_mem (List.mem_filter.mp he).1)
  have marked : s.quarantined n e.1 d = withField d 125 1 1 := if_pos (List.contains_iff_mem.mpr hk)
  rw [tget, tfind_tmap, team, Option.map_some, Option.getD_some, marked, getLsbD_withField _ _ _ _ _ (by decide) (by decide)]
  rfl

/-! ## Devices (13 R413) -/

/-- A device fault's record (13 R427). -/
def deviceFaultRecord (die seam cause seq : Nat) : BitVec 128 :=
  BitVec.ofNat 128 (pack [(1, 1), (5, die), (6, seam), (8, cause), (16, seq), (92, 0)])

theorem deviceFaultRecord_fields {die seam cause : Nat} (seq : Nat) (hd : die < 32) (hs : seam < 64) (hc : cause < 256) :
    let r := deviceFaultRecord die seam cause seq
    bits r.toNat 127 127 = 1 ∧ bits r.toNat 126 122 = die ∧ bits r.toNat 121 116 = seam ∧ bits r.toNat 115 108 = cause := by
  intro r
  have e : r.toNat = pack _ := toNat_ofNat_pack _ (by simp [packWidth])
  rw [e, bits_pack_at _ 0 1 1 127 127 rfl (by decide) (by simp [packWidth]) rfl,
    bits_pack_at _ 1 5 die 126 122 rfl (by decide) (by simp [packWidth]) rfl,
    bits_pack_at _ 2 6 seam 121 116 rfl (by decide) (by simp [packWidth]) rfl,
    bits_pack_at _ 3 8 cause 115 108 rfl (by decide) (by simp [packWidth]) rfl]
  exact ⟨rfl, Nat.mod_eq_of_lt hd, Nat.mod_eq_of_lt hs, Nat.mod_eq_of_lt hc⟩

/-- The record of a device fault that comes now. -/
def State.faultWord (s : State) (die seam cause : Nat) : BitVec 128 := deviceFaultRecord die seam cause (s.nextSeq (dieSource die) 0)

/-- The machine with a device fault noted, and with its alarm raised. -/
def State.faultNoted (s : State) (r : BitVec 128) : State := { s with trouble := { s.trouble with deviceFault := r, faulted := true } }
def State.faultTold (s : State) (die : Nat) (r : BitVec 128) : State :=
  (s.faultNoted r).alarm 0x07 (dieSource die) 0 (natLE 16 r.toNat)

theorem State.trouble_faultNoted (s : State) (r : BitVec 128) : (s.faultNoted r).trouble.deviceFault = r ∧
    (s.faultNoted r).trouble.faulted = true ∧ (s.faultNoted r).trouble.seams = s.trouble.seams := ⟨rfl, rfl, rfl⟩

theorem State.ctxs_alarm (s : State) (kind source ctx : Nat) (body : List Byte) : (s.alarm kind source ctx body).ctxs = s.ctxs :=
  (State.alarm_keeps (pt := { ctxs := true }) s kind source ctx body (.refl s) rfl).same.ctxs rfl

theorem State.ctxs_faultTold (s : State) (die : Nat) (r : BitVec 128) : (s.faultTold die r).ctxs = s.ctxs :=
  (s.faultNoted r).ctxs_alarm _ _ _ _

/-- A device fault stops a context, if it lives. -/
def State.faultStop (die seq : Nat) (s : State) (c : Nat) : State := s.stopWith c 0x51 (pack [(1, 1), (5, die), (24, 0)]) seq

theorem State.deviceFault_eq (s : State) (die seam cause : Nat) : s.deviceFault die seam cause =
    let t := s.faultTold die (s.faultWord die seam cause)
    let u := (t.ctxs.map (·.1)).foldl (State.faultStop die (s.nextSeq (dieSource die) 0)) t
    if 24 ≤ die ∧ die < 28 then (List.range 3).foldl (fun s i => s.portDown (3 * (die - 24) + i)) u else u := rfl

theorem State.deviceFault_reports (s : State) (die seam cause : Nat) :
    Reports (s.faultNoted (s.faultWord die seam cause)) (s.deviceFault die seam cause) := by
  rw [State.deviceFault_eq]
  generalize s.faultWord die seam cause = r
  have told : Reports (s.faultNoted r) (s.faultTold die r) := .alarm _ _ _ _ _
  have stopped (seq : Nat) (cs : List Nat) : Reports (s.faultNoted r) (cs.foldl (State.faultStop die seq) (s.faultTold die r)) :=
    told.trans (.foldl (fun u c => .stopWith u c _ _ _) _ _)
  exact .ite ((stopped _ _).trans (.foldl (fun u i => .portDown u _) _ _)) (stopped _ _)

/-- A device fault's record names its die, its seam and its cause, and stands over any recorded before; the seams' own stay. -/
theorem State.deviceFault_recorded (s : State) {die seam cause : Nat} (hd : die < 32) (hs : seam < 64) (hc : cause < 256) :
    let u := (s.deviceFault die seam cause).trouble
    u.faulted = true ∧ u.seams = s.trouble.seams ∧ bits u.deviceFault.toNat 127 127 = 1 ∧ bits u.deviceFault.toNat 126 122 = die ∧
      bits u.deviceFault.toNat 121 116 = seam ∧ bits u.deviceFault.toNat 115 108 = cause := by
  obtain ⟨record, faulted, seams⟩ := (s.deviceFault_reports die seam cause).faults
  obtain ⟨record', faulted', seams'⟩ := s.trouble_faultNoted (s.faultWord die seam cause)
  refine ⟨faulted.trans faulted', seams.trans seams', ?_⟩
  rw [record, record']
  exact deviceFaultRecord_fields _ hd hs hc

theorem State.ctx_congr {s t : State} (h : t.ctxs = s.ctxs) (c : Nat) : t.ctx c = s.ctx c := by rw [State.ctx, h, State.ctx]

theorem State.ctx_stopContext_of_ne (s : State) {c d : Nat} (reason seq : Nat) (h : c ≠ d) :
    (s.stopContext d reason seq).ctx c = s.ctx c := by
  have told : (s.stopAlarm d reason).ctxs = s.ctxs := s.ctxs_alarm _ _ _ _
  rw [State.stopContext, State.ctx_modCtx_of_ne _ _ h]
  refine State.ctx_congr ?_ c
  split
  · exact told
  · exact told

/-- A stop for a device fault reaches its own context, where that lives, and no other. -/
theorem State.state_faultStop (s : State) (die seq : Nat) {c : Nat} (hc : c ≠ 0) (d : Nat) :
    ((s.faultStop die seq d).ctx c).state = if c = d ∧ (s.ctx c).state = 1 then 2 else (s.ctx c).state := by
  have halted (h : Halt) : (s.haltAll d h).ctx c = s.ctx c :=
    State.ctx_congr ((State.haltAll_keeps (pt := { ctxs := true }) s d h (.refl s) rfl rfl rfl).same.ctxs rfl) c
  unfold State.faultStop State.stopWith
  by_cases own : c = d
  · subst own
    by_cases live : (s.ctx c).state = 1
    · rw [if_pos (by simp [live, hc]), if_pos ⟨rfl, live⟩]
      exact (State.stopContext_leaves _ _ _ _).2.2
    · rw [if_neg (by simp [live]), if_neg (by simp [live])]
  · simp only [own, false_and, if_false]
    split
    · rw [State.ctx_stopContext_of_ne _ _ _ own, halted]
    · rfl

/-- A context that lives is stopped once its turn has come, and stays so. -/
theorem State.foldl_faultStop (die seq : Nat) {c : Nat} (hc : c ≠ 0) (l : List Nat) (s : State)
    (h : (s.ctx c).state = 2 ∨ (s.ctx c).state = 1 ∧ c ∈ l) : ((l.foldl (State.faultStop die seq) s).ctx c).state = 2 := by
  induction l generalizing s with
  | nil => exact h.resolve_right fun ⟨_, among⟩ => List.not_mem_nil among
  | cons d l ih =>
    refine ih _ ?_
    rw [State.state_faultStop s die seq hc]
    rcases h with stopped | ⟨live, turn⟩
    · rw [stopped, if_neg (by simp)]
      exact .inl rfl
    · by_cases own : c = d
      · rw [if_pos ⟨own, live⟩]
        exact .inl rfl
      · rw [if_neg fun both => own both.1]
        exact .inr ⟨live, (List.mem_cons.mp turn).resolve_left own⟩

/-- A device fault stops every context that lives. -/
theorem State.deviceFault_stops (s : State) (die seam cause : Nat) {c : Nat} (among : c ∈ s.ctxs.map (·.1)) (hc : c ≠ 0)
    (live : (s.ctx c).state = 1) : ((s.deviceFault die seam cause).ctx c).state = 2 := by
  rw [State.deviceFault_eq]
  generalize s.faultWord die seam cause = r
  have ctxs := s.ctxs_faultTold die r
  have stopped (seq : Nat) :
      ((((s.faultTold die r).ctxs.map (·.1)).foldl (State.faultStop die seq) (s.faultTold die r)).ctx c).state = 2 := by
    refine State.foldl_faultStop die seq hc _ _ (.inr ⟨?_, ?_⟩)
    · rwa [State.ctx_congr ctxs]
    · rwa [ctxs]
  dsimp only
  split
  · have kept (u : State) (p : Nat) : (u.portDown p).ctxs = u.ctxs :=
      (State.portDown_keeps (pt := { ctxs := true }) u p (.refl u) rfl rfl rfl rfl).same.ctxs rfl
    rw [State.ctx, foldl_preserves (g := State.ctxs) fun u i => kept u _]
    exact stopped _
  · exact stopped _

/-! ## Seams (13 R412) -/

/-- What a repeat does where its number is the row's own. -/
theorem onSeam_next {s t : State} {seam dir : Nat} {f : Nat → State → Option State} (hs : seam < 52) (hd : dir < 2)
    (serving : s.serving = true) (few : s.seamRepeats seam dir + 1 ≤ 1024)
    (row : f (s.seamRepeats seam dir + 1) (s.setRepeats seam dir (s.seamRepeats seam dir + 1)) = some t) :
    onSeam seam dir s f = .next t := by
  have going : ¬(!s.serving || decide (1024 < s.seamRepeats seam dir + 1)) = true := by
    simp only [serving, Bool.not_true, Bool.false_or, decide_eq_true_eq]
    omega
  rw [onSeam, if_pos ⟨hs, hd⟩]
  dsimp only
  rw [if_neg going, row]

/-- A seam's record once it has raised one more repeat alarm. -/
def State.alarmedSeam (s : State) (seam : Nat) : BitVec 256 :=
  withField (withField (s.seamRecord seam) 254 1 1) 224 16 (min 0xFFFF (bits (s.seamRecord seam).toNat 239 224 + 1))

theorem State.alarmedSeam_fields (s : State) (seam : Nat) : (s.alarmedSeam seam).getLsbD 254 = true ∧
    bits (s.alarmedSeam seam).toNat 239 224 = min 0xFFFF (bits (s.seamRecord seam).toNat 239 224 + 1) := by
  constructor
  · rw [State.alarmedSeam, getLsbD_withField _ _ _ _ _ (by decide) (by decide), if_neg (by decide),
      getLsbD_withField _ _ _ _ _ (by decide) (by decide)]
    rfl
  · exact (bits_withField _ 224 16 _ (by decide) (by decide)).trans (Nat.mod_eq_of_lt (by omega))

/-- The machine with a seam's record replaced and told of. -/
def State.seamTold (s : State) (seam : Nat) (r : BitVec 256) : State := (s.setSeam seam r).alarm 0x06 0x820 0 (natLE 32 r.toNat)

theorem State.seamTold_leaves (s : State) (seam : Nat) (r : BitVec 256) : let t := s.seamTold seam r
    t.trouble.repeats = s.trouble.repeats ∧ t.seamRecord seam = r ∧ t.mem = s.mem ∧ t.tiles = s.tiles := by
  have kept := (State.alarm_keeps (pt := { mem := true, tiles := true }) (s.setSeam seam r) 0x06 0x820 0 (natLE 32 r.toNat) (.refl _)
    rfl).same
  obtain ⟨_, _, _, told⟩ := (s.setSeam seam r).trouble_alarm 0x06 0x820 0 (natLE 32 r.toNat)
  refine ⟨?_, ?_, kept.mem rfl, kept.tiles rfl⟩
  · rw [State.seamTold, told]
    rfl
  · rw [State.seamRecord, State.seamTold, told]
    exact tget_tset_self _ _ _ _

/-- Settles O47: what a tile's, a die's and a seam's fault and the loss of a record make of the machine. -/
theorem faultsAreRecordedAndStop : Obligations.FaultsAreRecordedAndStop := by
  intro s
  refine ⟨fun n cause hn hcause alive => ?_, fun die lo hi serving => ?_, fun seam dir hs hd serving => ?_,
    fun source cls r hsource hcls oldest => ?_⟩
  · have run : execTileHardwareFault n cause s = .next (s.tileFault n cause) := by
      rw [execTileHardwareFault, if_pos ⟨hn, hcause⟩, if_pos alive]
    have own := s.tile_tileFault n cause
    refine ⟨_, run, ?_, s.mem_outOfService_tileFault n cause, fun m hm => s.tile_tileFault_of_ne cause hm,
      (State.tileFault_keeps (pt := { mem := true }) s n cause (.refl s) rfl rfl rfl rfl rfl).same.mem rfl, fun k hk => ?_,
      fun owned st => ?_⟩
    · rw [own]
    · rw [s.teams_tileFault hn cause]
      exact s.team_quarantined hk
    · obtain ⟨halted, valid⟩ := State.faultHalted_stops hn cause owned st
      rw [State.thread, own]
      exact ⟨halted, valid, fun free => (s.faultHalted_halts hn cause).reasons n st free valid⟩
  · generalize hcause : (if die < 24 then 0x02 else 0x03) = cause
    have small : cause < 256 := by
      rw [← hcause]
      split <;> decide
    have run : execDieCheckerFire die s = .next (s.deviceFault die 0 cause) := by
      rw [execDieCheckerFire, if_pos ⟨lo, hi⟩, if_pos serving, hcause]
    obtain ⟨faulted, -, valid, named, -, why⟩ := s.deviceFault_recorded (seam := 0) (by omega : die < 32) (by decide) small
    exact ⟨_, run, faulted, valid, named, why,
      (State.deviceFault_keeps (pt := { mem := true }) s die 0 cause (.refl s) rfl rfl rfl rfl rfl).same.mem rfl,
      fun c among hc live => s.deviceFault_stops die 0 cause among hc live⟩
  · intro k
    refine ⟨fun few other => ?_, fun sixteenth => ?_, fun last => ?_⟩
    · have run : execSeamTransferError seam dir s = .next (s.setRepeats seam dir k) :=
        onSeam_next hs hd serving (by omega) (if_neg (by omega))
      exact run
    · have run : execSeamRepeatAlarm seam dir s = .next ((s.setRepeats seam dir k).seamTold seam (s.alarmedSeam seam)) :=
        onSeam_next hs hd serving (by omega) (if_pos sixteenth)
      obtain ⟨repeats, record, mem, tiles⟩ := (s.setRepeats seam dir k).seamTold_leaves seam (s.alarmedSeam seam)
      obtain ⟨raised, counted⟩ := s.alarmedSeam_fields seam
      refine ⟨_, run, ?_, ?_, ?_, mem, tiles⟩
      · rw [State.seamRepeats, repeats]
        exact (tget_tset_self _ _ _ _).trans sixteenth
      · rw [record]
        exact raised
      · rw [record]
        exact counted
    · generalize hv : (s.setRepeats seam dir k).seamTold seam (withField (s.seamRecord seam) 255 1 1) = v
      have run : execSeamFailed seam dir s = .next (v.deviceFault 31 seam 0x01) := by
        rw [← hv]
        exact onSeam_next hs hd serving (by omega) (if_pos last)
      have record : v.seamRecord seam = withField (s.seamRecord seam) 255 1 1 := by
        rw [← hv]
        exact ((s.setRepeats seam dir k).seamTold_leaves seam _).2.1
      obtain ⟨faulted, seams, -, -, named, why⟩ := v.deviceFault_recorded (by decide : 31 < 32) (by omega : seam < 64)
        (by decide : 0x01 < 256)
      refine ⟨_, run, ?_, faulted, named, why⟩
      rw [State.seamRecord, seams, ← State.seamRecord, record, getLsbD_withField _ _ _ _ _ (by decide) (by decide)]
      rfl
  · have run : execLogHopDrop source cls s = _ := if_pos ⟨hsource, hcls⟩
    simp only [oldest] at run
    exact run

end Sys2Proof.Machine

namespace Sys2Proof.Machine

/-! ## A submission of the wrong length (14 R431; log 76) -/

/-- A module in SERVICE whose onboard service runs, with an uncorrectable block at address 0. -/
def badRecord : State := { power := { state := 2 }, service := { state := 1 }, bad := [0] }

/-- The empty value spells address 0, where a job record lies in the uncorrectable block. -/
theorem badRecord_unreadable : badRecord.unreadable 0xA010 1 [] = some ⟨0, 64⟩ := by decide

/-- The empty value is refused for its length, before the record is looked at. -/
theorem badRecord_refuses : opWrite 0xA010 1 [] badRecord = refuse badRecord 0x0103 := rfl

/-- A read of the record would be recorded as an uncorrectable error. -/
theorem badRecord_noted : (badRecord.noteUnreadable (some ⟨0, 64⟩)).trouble.ueEvents.length = 1 := by decide

/-- Refutes O54: the first clause has a refusal record the read of a job record in an uncorrectable block, and asks nothing of the
value's length. A submission whose value has not the entry's 8 bytes is refused with 0x0103 before anything is read, so that nothing
is recorded. -/
theorem not_refusedRequestsChangeNothing : ¬ Obligations.RefusedRequestsChangeNothing := by
  intro h
  obtain ⟨written, -⟩ := h badRecord .service 0xA010 1 0 []
  rw [badRecord_refuses, badRecord_unreadable] at written
  obtain accepted | ⟨-, -, same⟩ := written
  · cases accepted
  · have read := badRecord_noted
    rw [← same] at read
    cases read

end Sys2Proof.Machine

namespace Sys2Proof.Machine

/-! ## A context made while a snapshot keeps its park word's page (06 R216; 14 R456; 16 R510) -/

theorem ctxs_afterWrite (i : Nat) (bs : List Byte) (s : State) : (afterWrite i bs s).ctxs = s.ctxs := by
  unfold afterWrite
  split <;> rfl

/-- What the answer to a write request does besides the operation leaves the contexts alone. -/
theorem State.ctxs_afterRequest (s : State) (src : Requester) (i sub : Nat) (bs old : List Byte) (a : Answer) :
    ((s.afterRequest src i sub bs old a (afterWrite i bs)).leaveRom).ctxs = a.st.ctxs := by
  have ctxs {s t : State} (kept : Keeps { ctxs := true } s t) : t.ctxs = s.ctxs := kept.same.ctxs rfl
  unfold State.afterRequest
  dsimp only
  rw [ctxs (State.leaveRom_keeps _ (Keeps.refl _) rfl rfl), ctxs (State.replyTo_keeps _ _ _ (Keeps.refl _) rfl rfl rfl)]
  split
  · rw [ctxs_afterWrite, ctxs (State.logWrite_keeps _ _ _ _ _ _ _ (Keeps.refl _) rfl)]
  · exact ctxs (State.logWrite_keeps _ _ _ _ _ _ _ (Keeps.refl _) rfl)

/-- Attention is requested. Context 1 is not made yet, its park word is to lie in the first block of its one page of memory, a snapshot
of its name has still to ship that page, and the page's second block is uncorrectable. -/
def badPark : State :=
  { power := { state := 2, mainOk := true }
    panel := { attn := true }
    ctxs := [(1, { parkAddr := nearBase, memGrants := [(1, BitVec.ofNat 128 (nearBase * 2 ^ 80 + 2 ^ 52))] })]
    snaps := [(0, { ctx := 1, desc := 0, regions := [BitVec.ofNat 128 (nearBase * 2 ^ 80 + 2 ^ 56)] })]
    bad := [nearBase / 64 + 1] }

/-- Who asks for the context. -/
def creator : Requester := .benvon 0 0 0

theorem asks_badPark : Asks badPark creator 0x6001 1 (natLE 1 1) where
  path := rfl
  framed := rfl
  may := rfl
  once := rfl
  room := rfl
  mode := rfl

/-- Keeping the page for the snapshot reads its uncorrectable block, which stops the context that has just been made. -/
theorem badPark_stops : ((opWrite 0x6001 1 (natLE 1 1) (badPark.countFlight creator)).st.ctx 1).state = 2 := by decide

/-- Refutes O56: a context is not live after its creation where its park word is written for a pending attention request into a page
that a snapshot still needs, and another block of that page than the word's own is uncorrectable. -/
theorem not_ordersAreAccepted : ¬ Obligations.OrdersAreAccepted := by
  intro h
  obtain ⟨contexts, -⟩ := h badPark creator
  obtain ⟨creates, -⟩ := contexts 1 (by decide) (by decide)
  obtain ⟨a, ⟨-, live, -⟩, run⟩ := creates rfl rfl rfl rfl (by decide) rfl (fun _ => by decide) asks_badPark
  have ran : execCtxCreate creator 1 badPark = _ := congrArg Host.Outcome.next (askWrite_of_asks asks_badPark)
  have same := congrArg State.ctxs (Host.Outcome.next.inj (run.symm.trans ran))
  rw [State.ctxs_afterRequest, State.ctxs_afterRequest] at same
  have stopped := badPark_stops
  rw [State.ctx, ← same, ← State.ctx, live] at stopped
  cases stopped

end Sys2Proof.Machine

namespace Sys2Proof.Machine

/-! ## Requests at base camp (14 R430, R434 to R440) -/

section
variable {s : State} {src : Requester}

theorem State.countFlight_eq (s : State) (src : Requester) : ∃ b, s.countFlight src = { s with camp := { s.camp with busy := b } } := by
  unfold State.countFlight
  split
  · exact ⟨s.camp.busy, rfl⟩
  · split
    · exact ⟨s.camp.busy, rfl⟩
    · exact ⟨_, rfl⟩

@[simp] theorem srcSeq_countFlight (s : State) (who src : Requester) : srcSeq (s.countFlight who) src = srcSeq s src := by
  obtain ⟨b, e⟩ := s.countFlight_eq who
  rw [e]
  cases src <;> rfl

@[simp] theorem srcSeq_forgetBusy (s : State) (who src : Requester) : srcSeq (s.forgetBusy who) src = srcSeq s src := by
  unfold State.forgetBusy
  split <;> cases src <;> rfl

@[simp] theorem State.discoverValue_countFlight (s : State) (src : Requester) : (s.countFlight src).discoverValue = s.discoverValue := by
  obtain ⟨b, e⟩ := s.countFlight_eq src
  rw [e]
  rfl

/-- A repeated request gets the reply it had, marked. -/
theorem State.fresh?_of_stored {r : Retry} (reaches : s.reaches src = true) (stored : s.stored src = some r) (full f : State → State) :
    s.fresh? src full f = s.sendFrame src (markReplayed r.reply) := by
  simp [State.fresh?, reaches, stored]

section
variable (reaches : s.reaches src = true) (new : s.stored src = none)
include reaches new

theorem State.fresh?_of_turnedAway (turned : s.turnedAway src = true) (full f : State → State) :
    s.fresh? src full f = full (s.forgetBusy src) := by
  simp [State.fresh?, reaches, new, turned]

variable (room : s.turnedAway src = false)
include room

theorem State.fresh?_of_new (full f : State → State) : s.fresh? src full f = f (s.countFlight src) := by
  simp [State.fresh?, reaches, new, room]

variable (main : s.power.rom = false)
include main

theorem State.answerRead_of_new (i sub arg : Nat) : s.answerRead src i sub arg = (let a := opRead i sub arg (s.countFlight src)
    a.st.replyTo src (frame 0x81 (srcSeq s src) i sub a.abort arg 0 a.value)) := by
  simp [State.answerRead, s.fresh?_of_new reaches new room, main]

theorem State.answerWrite_of_new (i sub : Nat) (bs : List Byte) : s.answerWrite src i sub bs = (let u := s.countFlight src
    (u.afterRequest src i sub bs (s.oldValue i sub) (opWrite i sub bs u) (afterWrite i bs)).leaveRom) := by
  simp [State.answerWrite, State.writeFrame, s.fresh?_of_new reaches new room, State.applyWrite, main, State.afterRequest]

theorem State.answerDiscover_of_new : s.answerDiscover src =
    (s.countFlight src).replyTo src (frame 0x83 (srcSeq s src) 0 0 0 0 0 s.discoverValue) := by
  simp [State.answerDiscover, s.fresh?_of_new reaches new room, main]

end

/-- A frame that reads as a request is that request. -/
theorem State.takeFrame_of_parsed {path : Word → Requester} {bytes : List Byte} {q : Req} (parsed : parseFrame bytes = (q, true)) :
    let who := path (BitVec.ofNat 32 q.seq)
    (q.typ = 1 → s.takeFrame path bytes = s.answerRead who q.index q.sub q.arg) ∧
    (q.typ = 2 → s.takeFrame path bytes = s.answerWrite who q.index q.sub q.value) ∧
    (q.typ = 3 → s.takeFrame path bytes = s.answerDiscover who) := by
  refine ⟨fun typ => ?_, fun typ => ?_, fun typ => ?_⟩
  all_goals simp [State.takeFrame, parsed, typ]

/-- Only a write request carries a value. -/
theorem value_of_parseFrame {bytes : List Byte} {q : Req} (parsed : parseFrame bytes = (q, true)) (typ : q.typ ≠ 2) : q.value = [] := by
  obtain ⟨req, ok⟩ := Prod.ext_iff.mp parsed
  dsimp only [parseFrame] at req ok
  subst req
  simp only [Bool.and_eq_true, Bool.or_eq_true, decide_eq_true_eq] at ok
  have empty := ok.2.resolve_left typ
  simp [empty]

/-- The window's frame reads as the request that it spells. -/
theorem State.framed_window {f : Nat} {q : Req} (parsed : parseFrame (s.fn f).frame = (q, true)) (w : Req) (same : q = { w with seq := q.seq }) :
    s.framed (.window f) w = true := by
  simp only [State.framed, parsed, Bool.true_and, decide_eq_true_eq]
  exact same

theorem State.sent_foldl_notify (d : BitVec 192) (l : List (Nat × Record)) (s : State) : l.foldl (fun s e => s.notify d e.1 e.2) s =
    { s with sent := (l.map fun e => .datagram (subIp d) (subPort d) (notifyFrame e.1 e.2)).reverse ++ s.sent } := by
  induction l generalizing s with
  | nil => rfl
  | cons e l ih => rw [List.foldl_cons, ih]; simp [State.notify]

/-- What expires leaves no reply of that request. -/
theorem exec_retryRecordExpiry {p : Peer} (named : srcPeer src = some p) : ∃ t, exec (.retryRecordExpiry src) s = .next t ∧
    t.stored src = none ∧ Same ({ camp := true } : Parts).others s t ∧ t.camp.log = s.camp.log := by
  have run : execRetryRecordExpiry src s = .next (s.modCamp fun c =>
      { c with retries := c.retries.filter fun r => !(r.peer = p && r.seq.toNat = srcSeq s src) }) := by
    simp [execRetryRecordExpiry, named]
  refine ⟨_, run, ?_, ?_, rfl⟩
  · have seq (c : Camp) : srcSeq { s with camp := c } src = srcSeq s src := by cases src <;> rfl
    simp only [State.stored, named, State.modCamp, seq, Option.bind_some, List.find?_eq_none, List.mem_filter]
    rintro r ⟨-, other⟩
    simpa [imp_iff_not_or] using other
  · exact (State.modCamp_keeps _ _ (Keeps.refl s) rfl).same

theorem State.leaveRom_of_main (main : s.power.rom = false) : s.leaveRom = s := by
  simp [State.leaveRom, main]

/-- A write that repeats one answered before is not applied again. -/
theorem exec_write_of_stored {i sub : Nat} {bs : List Byte} {r : Retry} (reaches : s.reaches src = true) (stored : s.stored src = some r)
    (main : s.power.rom = false) (may : mayAsk src i sub = true)
    (framed : s.framed src { typ := 2, seq := 0, index := i, sub := sub, value := bs } = true) :
    exec (.write src i sub bs) s = .next (s.sendFrame src (markReplayed r.reply)) := by
  have power : (s.sendFrame src (markReplayed r.reply)).power = s.power :=
    (State.sendFrame_keeps (pt := { power := true }) _ _ _ (Keeps.refl s) rfl rfl).same.power rfl
  have run : execWrite src i sub bs s = .next (s.sendFrame src (markReplayed r.reply)) := by
    rw [execWrite, State.askWrite, framed, may, State.answerWrite, State.writeFrame, State.fresh?_of_stored reaches stored,
      State.leaveRom_of_main (power ▸ main)]
    rfl
  exact run

/-- What a new request of a path is answered with, and what becomes of the state. -/
def Answered (s : State) (i : Instr) (src : Requester) (q : Req) : Prop :=
  s.stored src = none → s.turnedAway src = false → s.power.rom = false → let u := s.countFlight src
    (q.typ = 1 → exec i s = .next (let a := opRead q.index q.sub q.arg u
      a.st.replyTo src (frame 0x81 (srcSeq s src) q.index q.sub a.abort q.arg 0 a.value))) ∧
    (q.typ = 2 → exec i s = .next ((u.afterRequest src q.index q.sub q.value (s.oldValue q.index q.sub)
      (opWrite q.index q.sub q.value u) (afterWrite q.index q.value)).leaveRom)) ∧
    (q.typ = 3 → exec i s = .next (u.replyTo src (frame 0x83 (srcSeq s src) 0 0 0 0 0 s.discoverValue)))

/-- A command that brings a frame in answers the request that the frame spells. -/
theorem answered_of_takeFrame {i : Instr} {path : Word → Requester} {bytes : List Byte} {q : Req}
    (run : exec i s = .next (s.takeFrame path bytes)) (parsed : parseFrame bytes = (q, true)) (named : path (BitVec.ofNat 32 q.seq) = src)
    (reaches : s.reaches src = true) : Answered s i src q := by
  intro new room main u
  obtain ⟨read, write, discover⟩ := s.takeFrame_of_parsed (path := path) parsed
  rw [named] at read write discover
  rw [run]
  exact ⟨fun typ => by rw [read typ, s.answerRead_of_new reaches new room main],
    fun typ => by rw [write typ, s.answerWrite_of_new reaches new room main],
    fun typ => by rw [discover typ, s.answerDiscover_of_new reaches new room main]⟩

end

/-! ## Management messages (14 R434 to R440, R448) -/

section
variable {s : State}

/-- A vendor message is the request that its frame spells. -/
theorem exec_mctpVendorMessage {eid : Byte} {rid : BitVec 16} {body : List Byte} {q : Req} (up : s.mctpUp = true)
    (vendor : leNat (body.take 2) = vendorId) (parsed : parseFrame (body.drop 2) = (q, true)) :
    let src := Requester.mctp eid rid (BitVec.ofNat 32 q.seq)
    Answered s (.mctpVendorMessage eid rid body) src q ∧
    (q.typ = 1 → exec (.mctpVendorMessage eid rid body) s = exec (.read src q.index q.sub q.arg) s) ∧
    (q.typ = 2 → exec (.mctpVendorMessage eid rid body) s = exec (.write src q.index q.sub q.value) s) := by
  intro src
  have run : execMctpVendorMessage eid rid body s = .next (s.takeFrame (.mctp eid rid) (body.drop 2)) := by
    simp [execMctpVendorMessage, up, vendor]
  obtain ⟨read, write, -⟩ := s.takeFrame_of_parsed (path := .mctp eid rid) parsed
  exact ⟨answered_of_takeFrame run parsed rfl up, fun typ => run.trans (congrArg _ (read typ)),
    fun typ => run.trans (congrArg _ (write typ))⟩

/-- GO takes the request that the window's frame spells. -/
theorem exec_winGo {f : Nat} {q : Req} (hf : f < 64) (reaches : s.reaches (.window f) = true)
    (parsed : parseFrame (s.fn f).frame = (q, true)) :
    Answered s (.winGo f 1) (.window f) q ∧
    (q.typ = 1 → exec (.winGo f 1) s = exec (.read (.window f) q.index q.sub q.arg) s) ∧
    (q.typ = 2 → q.arg = 0 → exec (.winGo f 1) s = exec (.write (.window f) q.index q.sub q.value) s) := by
  have run : execWinGo f 1 s = .next (s.takeFrame (fun _ => .window f) (s.fn f).frame) := by
    simp [execWinGo, fnCount, hf, reaches]
  obtain ⟨read, write, -⟩ := s.takeFrame_of_parsed (path := fun _ => .window f) parsed
  refine ⟨answered_of_takeFrame run parsed rfl reaches, fun typ => ?_, fun typ arg => ?_⟩
  · have framed : s.framed (.window f) { typ := 1, seq := 0, index := q.index, sub := q.sub, arg := q.arg } = true :=
      State.framed_window parsed _ (by rw [← typ, ← value_of_parseFrame parsed (by omega)])
    have asks : execRead (.window f) q.index q.sub q.arg s = .next (s.answerRead (.window f) q.index q.sub q.arg) := by
      rw [execRead, State.askRead, if_pos framed]
    exact run.trans ((congrArg _ (read typ)).trans asks.symm)
  · have framed : s.framed (.window f) { typ := 2, seq := 0, index := q.index, sub := q.sub, value := q.value } = true :=
      State.framed_window parsed _ (by rw [← typ, ← arg])
    have asks : execWrite (.window f) q.index q.sub q.value s = .next (s.answerWrite (.window f) q.index q.sub q.value) := by
      rw [execWrite, State.askWrite, framed]
      rfl
    exact run.trans ((congrArg _ (write typ)).trans asks.symm)

/-- What is sent, and the free values drawn for it, leave every other part of the state. -/
theorem same_but_sent (s : State) (draws : Nat) (l : List Sent) :
    Same ({ sent := true } : Parts).others s { s with draws := draws, sent := l } := by
  constructor
  case sent => exact fun h => absurd h (by decide)
  all_goals exact fun _ => rfl

/-- A BAR0 register takes what is written. -/
theorem exec_bar0RegisterWrite {f : Nat} (hf : f < 64) (up : s.pcieUp = true) (off v : Nat) :
    exec (.bar0RegisterWrite f off v) s = .next (s.barWrite f off v) := by
  have run : execBar0RegisterWrite f off v s = .next (s.barWrite f off v) := by
    simp [execBar0RegisterWrite, atPlace, fnCount, hf, up]
  exact run

theorem exec_setEndpointId (up : s.mctpUp = true) (sender inst eid : Byte) : let n := inst &&& 0x1F#8
    (eid ≠ 0 → eid ≠ 0xFF#8 → exec (.setEndpointId sender inst eid) s =
      .next { s with camp := { s.camp with eid := eid }, sent := .mctp sender [0#8, n, 1#8, 0#8, 0#8, eid, 0#8] :: s.sent }) ∧
    (eid = 0 ∨ eid = 0xFF#8 → exec (.setEndpointId sender inst eid) s =
      .next { s with sent := .mctp sender [0#8, n, 1#8, 2#8] :: s.sent }) := by
  have run : exec (.setEndpointId sender inst eid) s = execSetEndpointId sender inst eid s := rfl
  simp only [run, execSetEndpointId, up]
  refine ⟨fun some own => ?_, fun none => ?_⟩
  · rw [if_neg (by decide), if_neg (not_or.mpr ⟨some, own⟩)]
    rfl
  · rw [if_neg (by decide), if_pos none]
    rfl

theorem exec_getMctpVersionSupport (up : s.mctpUp = true) (sender inst : Byte) :
    ∃ t b, exec (.getMctpVersionSupport sender inst 0x7E#8) s = .next t ∧ t.sent = .mctp sender b :: s.sent ∧
      b.take 5 = [0#8, inst &&& 0x1F#8, 4#8, 0#8, 1#8] ∧ Same ({ sent := true } : Parts).others s t := by
  have run : execGetMctpVersionSupport sender inst 0x7E#8 s =
      .next ((s.free 18).2.mctpControl sender inst 4 (0#8 :: 1#8 :: natBE 4 (s.free 18).1.toNat)) := by
    simp [execGetMctpVersionSupport, up]
  exact ⟨_, _, run, rfl, rfl, same_but_sent s _ _⟩

theorem exec_notifyAck {ip : BitVec 128} {udp : BitVec 16} {q : Word} (reaches : s.reaches (.benvon ip udp q) = true) :
    exec (.notifyAck (.benvon ip udp q)) s = .next (s.ackNotify ip udp q.toNat) :=
  congrArg Host.Outcome.next (if_pos reaches)

theorem exec_neighbourSolicitation (camp : s.power.camp = true) :
    exec (.neighbourSolicitation linkLocal) s = .next { s with sent := .advertise linkLocal :: s.sent } := by
  have run : execNeighbourSolicitation linkLocal s = .next { s with sent := .advertise linkLocal :: s.sent } := by
    simp [execNeighbourSolicitation, camp]
  exact run

/-- A resend sends every delivery that is not acknowledged. -/
theorem exec_notifyResend {k : Nat} (hk : k < 8) (camp : s.power.camp = true) (phase : s.power.phase ≠ 1)
    (kind : subKind (s.sub k).desc = 1) : exec (.notifyResend k) s = .next { s with
      sent := ((s.sub k).unacked.map fun e => .datagram (subIp (s.sub k).desc) (subPort (s.sub k).desc) (notifyFrame e.1 e.2)).reverse ++
        s.sent } := by
  have run : execNotifyResend k s = .next ((s.sub k).unacked.foldl (fun t e => t.notify (s.sub k).desc e.1 e.2) s) := by
    simp [execNotifyResend, hk, camp, phase, kind]
  rw [State.sent_foldl_notify] at run
  exact run

/-- A framed discovery request is answered. -/
theorem exec_discover {src : Requester} (framed : s.framed src { typ := 3, seq := 0 } = true) (other : src ≠ .service) :
    exec (.discover src) s = .next (s.answerDiscover src) := by
  have run : execDiscover src s = .next (s.answerDiscover src) := by
    simp [execDiscover, framed, other]
  exact run

end

/-- Settles O55: each way a request comes in is taken down to the request its frame spells, which a stored reply answers, or base camp
where it is new; the control messages and the registers answer by their own equations. -/
theorem managementMessagesAreAnswered : Obligations.ManagementMessagesAreAnswered := by
  unfold Obligations.ManagementMessagesAreAnswered
  intro s
  refine ⟨fun src reaches framed other => ⟨fun new room main => ?_, fun new turned => ?_, fun r stored => ?_⟩,
    fun src i sub bs r reaches stored main may framed => ?_,
    fun src p named => exec_retryRecordExpiry named, fun ip udp q reaches => ?_, fun k hk camp phase kind => ?_, fun camp => ?_,
    fun sender inst eid up => ⟨(exec_setEndpointId up sender inst eid).1, (exec_setEndpointId up sender inst eid).2, ?_, ?_, ?_⟩,
    fun eid rid body q up vendor parsed => exec_mctpVendorMessage up vendor parsed,
    fun f q hf reaches parsed => exec_winGo hf reaches parsed, fun f v hf up => ?_⟩
  · exact (exec_discover framed other).trans (congrArg _ (s.answerDiscover_of_new reaches new room main))
  · exact (exec_discover framed other).trans (congrArg _ (by simp [State.answerDiscover, s.fresh?_of_turnedAway reaches new turned]))
  · exact (exec_discover framed other).trans (congrArg _ (s.fresh?_of_stored reaches stored _ _))
  · exact exec_write_of_stored reaches stored main may framed
  · exact exec_notifyAck reaches
  · exact ⟨_, exec_notifyResend hk camp phase kind, rfl, same_but_sent s s.draws _⟩
  · exact exec_neighbourSolicitation camp
  · exact congrArg Host.Outcome.next (if_pos up)
  · exact exec_getMctpVersionSupport up sender inst
  · exact congrArg Host.Outcome.next (if_pos up)
  · have run (off : Nat) : exec (.bar0RegisterWrite f off v) s = .next (s.barWrite f off v) := exec_bar0RegisterWrite hf up off v
    refine ⟨run 0x10, run 0x18, run 0x28, fun lo hi => ?_, fun empty => ?_, run 0x40, run 0x08⟩
    · exact (run 0x20).trans (congrArg _ (if_pos ⟨lo, hi⟩))
    · exact (run 0x30).trans (congrArg _ (if_pos (List.isEmpty_iff.mpr empty)))

end Sys2Proof.Machine

namespace Sys2Proof.Machine

/-! ## What reads and writes by the host and by base camp leave of a tile (13 R415; 14 R450, R460) -/

/-- What a tile keeps beside its store: its data memory, its uncorrectable blocks of core memory, its compressed tensors. -/
def Tile.kept (t : Tile) : List Host.Cell × List (Nat × Nat) × List (Range × Range) := (t.dmem, t.coreBad, t.extents)

/-- Every tile keeps that. -/
def TilesKeep (s t : State) : Prop := ∀ m, (t.tile m).kept = (s.tile m).kept

namespace TilesKeep

theorem refl (s : State) : TilesKeep s s := fun _ => rfl

theorem trans {s t u : State} (h : TilesKeep s t) (g : TilesKeep t u) : TilesKeep s u := fun m => (g m).trans (h m)

theorem of_tiles {s t : State} (h : t.tiles = s.tiles) : TilesKeep s t := fun m => by rw [State.tile, h]; rfl

theorem of_keeps {s t : State} (h : Keeps { tiles := true } s t) : TilesKeep s t := of_tiles (h.same.tiles rfl)

theorem foldl {α : Type} {f : State → α → State} (h : ∀ s a, TilesKeep s (f s a)) (l : List α) (s : State) : TilesKeep s (l.foldl f s) := by
  induction l generalizing s with
  | nil => exact refl s
  | cons a l ih => exact (h s a).trans (ih _)

theorem ite {c : Prop} [Decidable c] {s t u : State} (h : TilesKeep s t) (g : TilesKeep s u) : TilesKeep s (if c then t else u) := by
  split
  · exact h
  · exact g

theorem modTile (s : State) (n : Nat) {f : Tile → Tile} (h : ∀ t, (f t).kept = t.kept) : TilesKeep s (s.modTile n f) := fun m => by
  rcases eq_or_ne m n with rfl | hm
  · rw [State.tile_modTile, h]
  · rw [State.tile_modTile_of_ne _ _ hm]

theorem switchBank (s : State) (n : Nat) (st : Stream) : TilesKeep s (s.switchBank n st) := by
  unfold State.switchBank
  dsimp only
  refine ite (trans (modTile s n (f := fun t => { t with switching := t.switching.filter (· != st) }) fun _ => rfl) ?_) (refl s)
  exact modTile _ n fun _ => rfl

theorem halt (s : State) (n : Nat) (st : Stream) (h : Halt) : TilesKeep s (s.halt n st h) := by
  obtain ⟨record, tiles, -⟩ := s.tiles_halt n st h
  have halted : TilesKeep s (s.modThread n st fun th => th.halt h.reason) := modTile s n fun _ => rfl
  have recorded := (halted.trans (switchBank _ n st)).trans (modTile _ n (f := fun t => { t with records := t.records.set st record })
    fun _ => rfl)
  exact recorded.trans (of_tiles tiles)

theorem haltAll (s : State) (c : Nat) (h : Halt) : TilesKeep s (s.haltAll c h) :=
  foldl (fun _ _ => foldl (fun _ _ => ite (refl _) (halt _ _ _ _)) _ _) _ _

theorem stopContext (s : State) (c reason seq : Nat) : TilesKeep s (s.stopContext c reason seq) :=
  of_keeps (State.stopContext_keeps _ _ _ _ (Keeps.refl s) rfl rfl)

theorem ueAt (s : State) (f : Finder) (a place unit source : Nat) (owner : Option Nat) (wherecode : Nat) :
    TilesKeep s (s.ueAt f a place unit source owner wherecode) := by
  unfold State.ueAt
  dsimp only
  generalize hu : State.alarm _ _ _ _ _ = u
  have told : TilesKeep s u := by
    rw [← hu]
    exact of_tiles (State.alarm_tiles _ _ _ _ _)
  cases owner with
  | none => exact told
  | some c =>
    have stopped (v : State) (reason : Nat) (h : Halt) (seq : Nat) (p : Prop) [Decidable p] :
        TilesKeep v (if p then (v.haltAll c h).stopContext c reason seq else v) :=
      ite ((haltAll _ _ _).trans (stopContext _ _ _ _)) (refl v)
    refine ite told (told.trans ?_)
    cases f with
    | command t st h => exact (ite (halt u t st _) (refl u)).trans (stopped _ _ _ _ _)
    | _ => exact stopped u _ _ _ _

theorem ueError (s : State) (f : Finder) (a : Nat) (owner : Option Nat) (wherecode : Nat) :
    TilesKeep s (s.ueError f a owner wherecode) := by
  unfold State.ueError
  split
  · exact ueAt _ _ _ _ _ _ _ _
  · exact ueAt _ _ _ _ _ _ _ _

theorem write (s : State) (w : Writer) (a : Nat) (bytes : List Byte) : TilesKeep s (s.write w a bytes) :=
  trans (t := { s.preserve w a bytes with
    mem := pokes a bytes s.mem
    bad := s.bad.filter fun b => !(decide (a ≤ 64 * b) && decide (64 * b + 64 ≤ a + bytes.length)) }) (of_tiles rfl)
    (foldl (f := fun s n => s.modTile n fun t => t.wrote n ⟨a, bytes.length⟩) (fun s n => modTile s n fun _ => rfl) _ _)

theorem writeHome (s : State) (w : Writer) (a : Nat) (bs : List Byte) : TilesKeep s (s.writeHome w a bs) :=
  foldl (fun _ _ => ite (refl _) (write _ _ _ _)) _ _

theorem writeChecked (s : State) (f : Finder) (w : Writer) (a : Nat) (bs : List Byte) : TilesKeep s (s.writeChecked f w a bs) := by
  unfold State.writeChecked
  dsimp only
  split
  · exact (writeHome _ _ _ _).trans (ueError _ _ _ _ _)
  · exact writeHome _ _ _ _

theorem outsideWrite (s : State) (a : Nat) (bytes : List Byte) : TilesKeep s (s.outsideWrite a bytes) :=
  foldl (fun _ _ => ite (refl _) (writeChecked _ _ _ _ _)) _ _

theorem outsideRead (s : State) (a n : Nat) : TilesKeep s (s.outsideRead a n).2 := by
  unfold State.outsideRead
  split
  · exact refl s
  · exact (ueError _ _ _ _ _).trans (of_tiles rfl)

end TilesKeep

/-! ## A write by the host or by base camp that nothing stops (09 R306; 13 R415; 14 R450) -/

/-- A clean range is clean in each of its parts. -/
theorem State.badBlock_inside {s : State} {a n b m : Nat} (clean : s.badBlock a n = none) (lo : a ≤ b) (hi : b + m ≤ a + n) :
    s.badBlock b m = none := by
  rw [State.badBlock_eq_none] at clean ⊢
  intro k hk
  have apart := clean k hk
  simp only [overlap, Bool.and_eq_false_iff, decide_eq_false_iff_not] at apart ⊢
  omega

/-- A write to clean memory meets no uncorrectable block. -/
theorem State.partBad_of_clean {s : State} {a : Nat} {bs : List Byte} (clean : s.badBlock a bs.length = none) : s.partBad a bs = none := by
  simp only [State.partBad, Option.map_eq_none_iff, List.find?_eq_none, Bool.and_eq_true, decide_eq_true_eq, not_and,
    Option.not_isSome_iff_eq_none]
  intro p hp _
  obtain ⟨lo, hi⟩ := blockParts_inside hp
  exact State.badBlock_inside clean lo hi

theorem State.bad_writeChecked (s : State) (f : Finder) (w : Writer) (a : Nat) (bs : List Byte) :
    ∀ b ∈ (s.writeChecked f w a bs).bad, b ∈ s.bad := by
  unfold State.writeChecked
  dsimp only
  split
  · rw [(State.ueError_keeps (pt := { bad := true }) _ _ _ _ _ (Keeps.refl _) rfl rfl rfl rfl).same.bad rfl]
    exact s.bad_writeHome w a bs
  · exact s.bad_writeHome w a bs

/-- An address that no compressed tensor's protected bits can lie at. -/
def State.Unprotected (s : State) (a : Nat) : Prop := scratchBase ≤ a ∨ ∀ n, (s.tile n).extents = []

theorem State.extentBadAt_of_unprotected {s : State} {a b : Nat} (free : s.Unprotected a) (lo : a ≤ b) (bs : List Byte) :
    s.extentBadAt b bs = false := by
  rcases free with outside | none
  · have : ¬b < scratchBase := by omega
    simp [State.extentBadAt, this]
  · simp [State.extentBadAt, State.extentBad, none]

/-- Bytes that the host or base camp writes to clean memory without protected bits are what memory then holds. -/
theorem State.mem_outsideWrite {s : State} {a : Nat} {bs : List Byte} (free : s.Unprotected a) (clean : s.badBlock a bs.length = none) :
    (s.outsideWrite a bs).mem = pokes a bs s.mem := by
  have each (l : List (Nat × List Byte)) (hl : ∀ p ∈ l, a ≤ p.1 ∧ p.1 + p.2.length ≤ a + bs.length) (u : State)
      (free : u.Unprotected a) (clean : u.badBlock a bs.length = none) :
      (l.foldl (fun s p => if s.extentBadAt p.1 p.2 then s
        else s.writeChecked .host { ctx := (s.dataOwner p.1).getD 0 } p.1 p.2) u).mem = l.foldl (fun m p => pokes p.1 p.2 m) u.mem := by
    induction l generalizing u with
    | nil => rfl
    | cons p l ih =>
      rw [List.forall_mem_cons] at hl
      obtain ⟨⟨lo, hi⟩, hl⟩ := hl
      have whole : u.partBad p.1 p.2 = none := State.partBad_of_clean (State.badBlock_inside clean lo hi)
      rw [List.foldl_cons, List.foldl_cons, State.extentBadAt_of_unprotected free lo, if_neg (by decide), ih hl, State.mem_writeChecked,
        State.mem_writeHome _ whole]
      · exact free.imp_right fun none n => (Prod.ext_iff.mp (Prod.ext_iff.mp (TilesKeep.writeChecked u _ _ _ _ n)).2).2.trans (none n)
      · rw [State.badBlock_eq_none] at clean ⊢
        exact fun b hb => clean b (u.bad_writeChecked _ _ _ _ b hb)
  rw [State.outsideWrite, each (writeParts a bs) (fun p hp => blockParts_inside hp) s free clean, writeParts, foldl_pokes_blockParts]
  omega

theorem State.loadBytes_outsideWrite {s : State} {a : Nat} {bs : List Byte} (free : s.Unprotected a)
    (clean : s.badBlock a bs.length = none) : (s.outsideWrite a bs).loadBytes a bs.length = bs := by
  rw [State.loadBytes, State.mem_outsideWrite free clean, peeks_pokes]

/-! ## Signals of global tallies that no command sends (08 R260, R262) -/

/-- A signal at a tally that no claim waits at, and that it does not carry past its width, adds its amount. -/
theorem Tally.value_signal {t : Tally} {n : Nat} (by' : LastSignal) (claims : t.claims = []) (fits : t.value + n < 2 ^ 32) :
    (t.signal n by').1.value = t.value + n := by
  obtain ⟨-, -, served, split, -, sum, -⟩ := t.signal_spec n by'
  have none : served = [] := (List.append_eq_nil_iff.mp (split.symm.trans claims)).1
  rw [none] at sum
  simp only [List.map_nil, List.sum_nil] at sum
  omega

theorem State.gtally_signalGlobal {s : State} (src : Nat) {g n : Nat} (claims : (s.gtally g).claims = [])
    (fits : (s.gtally g).value + n < 2 ^ 32) : ((s.signalGlobal src g n).gtally g).value = (s.gtally g).value + n := by
  have within : ¬0xFFFFFFFF < (((s.cycle 0x810).2).tallyAt (.die (g % 8)) g).value + n := by
    have : (((s.cycle 0x810).2).tallyAt (.die (g % 8)) g).value = (s.gtally g).value := rfl
    omega
  have read (u : State) : u.gtally g = u.tallyAt (.die (g % 8)) g := rfl
  unfold State.signalGlobal State.signalAt
  dsimp only
  rw [read, State.tallyAt_releaseAll, if_neg within, State.tallyAt_setTally]
  exact Tally.value_signal _ claims fits

/-- A host's signal of a tally in reach adds its amount and changes no memory. -/
theorem State.hostSignal_of_reach {s : State} {f g n : Nat} (reach : s.fnTally f g = true) :
    ((s.gtally g).claims = [] → (s.gtally g).value + n < 2 ^ 32 → ((s.hostSignal f g n).gtally g).value = (s.gtally g).value + n) ∧
    (s.hostSignal f g n).mem = s.mem := by
  unfold State.hostSignal
  rw [if_pos reach]
  exact ⟨fun claims fits => State.gtally_signalGlobal (s := (s.free 10).2) _ claims fits,
    (State.signalGlobal_keeps (pt := { mem := true }) _ _ _ _ (Keeps.refl _) rfl rfl rfl rfl rfl).same.mem rfl⟩

end Sys2Proof.Machine

namespace Sys2Proof.Machine

/-! ## Orders and requests of the host (14 R447 to R454) -/

/-- An operation that no check refuses is done. -/
theorem answer_of_clear {s : State} {checks : List (Bool × Nat)} (clear : ∀ c ∈ checks, c.1 = false) (done : State → Answer) :
    answer s checks done = done s := by
  rw [answer, List.find?_eq_none.mpr fun c hc => by simp [clear c hc]]

section
variable {s : State} {f r : Nat} (hf : f < 64)
include hf

theorem exec_bar2Read {off len : Nat} (up : s.pcieUp = true) (homes : s.homesRun = true) (inside : s.inBar2 f off len = true)
    (quiet : (s.fn f).posted = []) : let a := (s.fn f).bar2Base + off
    (s.fnMay f a len = true → s.badBlock a len = none →
      exec (.bar2Read f off len .clean) s = .next { s with sent := .hostRead f (s.loadBytes a len) :: s.sent }) ∧
    (s.fnMay f a len = false → exec (.bar2Read f off len .clean) s =
      .next { s.countFnDrop f with sent := .hostRefusal f false :: s.sent }) := by
  intro a
  have go : ¬(!(s.pcieUp && s.homesRun && s.inBar2 f off len && (s.fn f).posted.isEmpty)) = true := by
    simp [up, homes, inside, quiet]
  refine ⟨fun may clean => ?_, fun refused => ?_⟩
  · have run : execBar2Read f off len .clean s = .next { s with sent := .hostRead f (s.loadBytes a len) :: s.sent } := by
      simp [execBar2Read, fnCount, hf, up, homes, inside, quiet, a, may, State.eccCheck, State.outsideRead, clean]
    exact run
  · have run : execBar2Read f off len .clean s = .next { s.countFnDrop f with sent := .hostRefusal f false :: s.sent } := by
      simp [execBar2Read, fnCount, hf, up, homes, inside, quiet, a, refused]
      rfl
    exact run

end

theorem State.hostSignal_of_no_reach {s : State} {f g n : Nat} (reach : s.fnTally f g = false) : s.hostSignal f g n = s.countFnDrop f := by
  simp [State.hostSignal, reach]

/-- A write that nothing of its function waits before, and that can be performed, is performed. -/
theorem State.post_performed {s t : State} {f : Nat} {p : Posted} (quiet : (s.fn f).posted = []) (done : s.perform f p = some t) :
    s.post f p = t := by
  simp [State.post, quiet, done]

/-- One that must wait takes its place behind those that wait. -/
theorem State.post_waits {s : State} {f : Nat} {p : Posted} (waits : (s.fn f).posted ≠ [] ∨ s.perform f p = none) :
    s.post f p = s.modFn f fun x => { x with posted := x.posted ++ [p] } := by
  rcases waits with busy | stuck
  · simp [State.post, busy]
  · simp [State.post, stuck]

section
variable {s : State} {f : Nat} (hf : f < 64) (up : s.pcieUp = true)
include hf up

theorem exec_bar2Write {off : Nat} {data : List Byte} (homes : s.homesRun = true) (inside : s.inBar2 f off data.length = true) :
    let a := (s.fn f).bar2Base + off
    (s.fnMay f a data.length = true → exec (.bar2Write f off data) s = .next (s.post f (.write a data))) ∧
    (s.fnMay f a data.length = false → exec (.bar2Write f off data) s = .next (s.countFnDrop f)) := by
  intro a
  have run : exec (.bar2Write f off data) s = execBar2Write f off data s := rfl
  refine ⟨fun may => run.trans ?_, fun refused => run.trans ?_⟩
  · simp [execBar2Write, fnCount, hf, up, homes, inside, a, may]
  · simp [execBar2Write, fnCount, hf, up, homes, inside, a, refused]

theorem bar2Writes {off : Nat} {data : List Byte} (homes : s.homesRun = true) (inside : s.inBar2 f off data.length = true) :
    let a := (s.fn f).bar2Base + off
    (s.fnMay f a data.length = true → (s.fn f).posted = [] → s.hostRoom a data.length = true →
      ∃ t, exec (.bar2Write f off data) s = .next t ∧
      ((scratchBase ≤ a ∨ ∀ n, (s.tile n).extents = []) → s.badBlock a data.length = none → t.loadBytes a data.length = data) ∧
      ∀ b, (b < a ∨ a + data.length ≤ b) → peek b t.mem = peek b s.mem) ∧
    (s.fnMay f a data.length = true → (s.fn f).posted ≠ [] ∨ s.hostRoom a data.length = false →
      exec (.bar2Write f off data) s = .next (s.modFn f fun x => { x with posted := x.posted ++ [.write a data] })) ∧
    (s.fnMay f a data.length = false → exec (.bar2Write f off data) s = .next (s.countFnDrop f)) := by
  intro a
  obtain ⟨allowed, refused⟩ := exec_bar2Write hf up homes inside
  refine ⟨fun may quiet room => ?_, fun may waits => (allowed may).trans (congrArg _ (State.post_waits ?_)), refused⟩
  · have done : s.perform f (.write a data) = some (s.outsideWrite a data) := if_pos room
    exact ⟨_, (allowed may).trans (congrArg _ (State.post_performed quiet done)), fun free clean => State.loadBytes_outsideWrite free clean,
      fun b outside => s.peek_outsideWrite a data outside⟩
  · exact waits.imp_right fun full => if_neg (by simpa using full)

theorem tallyDoorbells {g : Nat} (n : Word) (hg : g < 65536) (serving : s.serving = true) :
    ((s.fn f).posted = [] → exec (.tallyDb f g n) s = .next (s.hostSignal f g n.toNat)) ∧
    ((s.fn f).posted ≠ [] → exec (.tallyDb f g n) s =
      .next (s.modFn f fun x => { x with posted := x.posted ++ [.signal g n.toNat] })) := by
  have run : execTallyDb f g n s = .next (s.post f (.signal g n.toNat)) := by
    simp [execTallyDb, atPlace, fnCount, hf, hg, up, serving]
  exact ⟨fun quiet => run.trans (congrArg _ (State.post_performed quiet rfl)),
    fun busy => run.trans (congrArg _ (State.post_waits (.inl busy)))⟩

end

/-- The entry at the front of a ring in service is taken and completed with what its operation answers. -/
theorem State.runFront_of_front {s : State} {f r op : Nat} {e : BitVec 512} (front : s.frontOf f r false = some e) (is : qOp e = op)
    (g : BitVec 512 → State → Answer) :
    s.runFront f r op g = ((g e s).st.takeEntry f r).completeRing f r e (g e s).abort (g e s).result := by
  simp [State.runFront, front, is]

/-- What START sends a stream of a tile. -/
def startRequest (c : Nat) (w : Nat × Stream) : Packet :=
  { uid := 0, ctx := c, epoch := 0, chan := 0#32, src := .port 0, dst := .tile w.1, stream := w.2, body := .start w.2 }

theorem State.foldl_send_starts (s : State) (c : Nat) (who : List (Nat × Stream)) :
    let u := who.foldl (fun s w => s.send (startRequest c w)) s
    (∃ l, u.net = s.net ++ l ∧ l.map (fun p => (p.dst, p.body)) = who.map fun w => (.tile w.1, .start w.2)) ∧
    Same ({ net := true } : Parts).others s u := by
  intro u
  refine ⟨?_, (Keeps.foldl (Keeps.refl s) _ fun _ _ h => State.send_keeps _ _ h rfl).same⟩
  obtain ⟨l, net, same⟩ := s.net_foldl_send (who.map (startRequest c))
  rw [List.foldl_map] at net
  have parts := congrArg (List.map fun p : Packet => (p.dst, p.body)) same
  simp only [List.map_map] at parts
  exact ⟨l, net, parts⟩

section
variable {s : State} {f r : Nat} {e : BitVec 512}

/-- A ring of a function is a place that the module has. -/
theorem atPlace_ring (hf : f < 64) (hr : r < 16) (t : State) : atPlace (decide (f < fnCount) && decide (r < ringCount)) t = .next t :=
  if_pos (Bool.and_eq_true_iff.mpr ⟨decide_eq_true hf, decide_eq_true hr⟩)

/-- Only a ring of a module in SERVICE has a front. -/
theorem State.serving_of_front {overlaps : Bool} (front : s.frontOf f r overlaps = some e) : s.serving = true := by
  unfold State.frontOf at front
  dsimp only at front
  split at front
  · next runs => exact (Bool.and_eq_true_iff.mp (Bool.and_eq_true_iff.mp runs).1).1
  · cases front

variable (front : s.frontOf f r false = some e)
include front

theorem State.unusedZero_of_zero {hi : Nat} (zero : qArg e hi 0 = 0) (op : State → Answer) : s.unusedZero f r hi op s = op s := by
  simp [State.unusedZero, State.frontArg, front, zero]

/-- An entry at the front that stands in for a write is applied and logged, taken and completed. -/
theorem State.writeQueue_of_front {want : BitVec 512 → Bool} (wanted : want e = true) (named : s.mayName f (qCtx e) = true)
    (main : s.power.rom = false) {op : State → Answer} {a : Answer} (done : op s = a) (accepted : a.abort = 0) (index sub : Nat)
    (value : List Byte) : s.writeQueue f r index sub value want op =
      ((a.st.logWrite (.queue f r) index sub 0 [] value).takeEntry f r).completeRing f r e 0 a.result := by
  simp [State.writeQueue, front, wanted, State.applyWrite, main, named, done, accepted]

end

section
variable {s : State} {c : Nat}

theorem opCtxReset_of_live (serving : s.serving = true) (lo : 0 < c) (hi : c < 256) (there : s.exists? c = true)
    (live : (s.ctx c).state ≠ 4) : opCtxReset c s = { st := s.askReset c 0 false } := by
  have no : (c = 0) = False := by simp; omega
  have big : ¬256 ≤ c := by omega
  simp [opCtxReset, answer, accept, no, big, serving, there, live]

theorem opChanCreate_of_room {n : Word × State} (hi : c < 256) (may : s.changeable c = true) (room : s.newChan c = some n) :
    opChanCreate c s = { st := n.2, result := n.1.toNat } := by
  have big : ¬256 ≤ c := by omega
  simp [opChanCreate, answer, big, may, room]

theorem destroyBy_of_idle {f : Nat} {h : Word} (live : s.chanLive h = true) (named : s.mayName f (s.chanOwner h) = true)
    (may : s.changeable (s.chanOwner h) = true) (idle : s.carried h = false) : s.destroyBy f h = { st := s.dropChan h } := by
  simp [State.destroyBy, opChanDestroy, answer, accept, live, named, may, idle]

theorem opJobSubmit_of_accepted {a : Nat} {may : Nat → Bool} {n : Nat × State} (taken : s.submit a may = .inr n) :
    opJobSubmit a may s = { st := n.2, result := n.1 } := by
  simp [opJobSubmit, taken]

end

section
variable {s : State} {f r : Nat} (hf : f < 64) (hr : r < 16)
include hf hr

theorem exec_ringDb {tail : Nat} {es : List (BitVec 512)} (up : s.pcieUp = true) :
    exec (.ringDb f r tail es) s = .next (s.doorbell f r tail es) := by
  have run : execRingDb f r tail es s = .next (s.doorbell f r tail es) := by
    rw [execRingDb, atPlace_ring hf hr, if_pos up]
  exact run

section
variable {e : BitVec 512} (front : s.frontOf f r false = some e) (named : s.mayName f (qCtx e) = true)
include front named

theorem exec_start (op : qOp e = 3) (zero : qArg e 464 0 = 0) (runs : s.running (qCtx e) = true) (stays : s.destroying (qCtx e) = false) :
    let team := qArg e 479 468
    let who := (s.teamTiles team).flatMap fun n => (startStreams e).map fun st => (n, st)
    s.teamOf (qCtx e) team = true → s.teamBlocked team = false → (∀ w ∈ who, (s.thread w.1 w.2).run = .park) →
    exec (.start f r) s =
      .next (((who.foldl (fun s w => s.send (startRequest (qCtx e) w)) s).takeEntry f r).completeRing f r e 0 0) := by
  intro team who own free parked
  have done : opStart f e s = accept (who.foldl (fun s w => s.send (startRequest (qCtx e) w)) s) := by
    have idle : (who.any fun w => (s.thread w.1 w.2).run != .park) = false := by simpa using parked
    have clear : (!s.running (qCtx e) || s.destroying (qCtx e) || !s.teamOf (qCtx e) team || s.teamBlocked team ||
        who.any fun w => (s.thread w.1 w.2).run != .park) = false := by
      rw [idle, runs, stays, own, free]
      rfl
    unfold opStart
    dsimp only
    rw [answer_of_clear]
    · rfl
    · simp only [List.forall_mem_cons]
      exact ⟨by rw [named]; rfl, by rw [zero]; rfl, clear, fun _ h => absurd h List.not_mem_nil⟩
  have run : execStart f r s = _ := (atPlace_ring hf hr _).trans (congrArg _ (State.runFront_of_front front op (opStart f)))
  rw [done] at run
  exact run

theorem exec_hsig (op : qOp e = 5) (quiet : (s.fn f).posted = []) (zero : qArg e 431 0 = 0) (stays : s.destroying (qCtx e) = false) :
    exec (.hsig f r) s = .next (((s.hostSignal f (qArg e 479 464) (qArg e 463 432)).takeEntry f r).completeRing f r e 0 0) := by
  have done : opHsig f e s = accept (s.hostSignal f (qArg e 479 464) (qArg e 463 432)) := by
    refine answer_of_clear ?_ _
    simp [named, zero, stays]
  have run : execHsig f r s = _ := (atPlace_ring hf hr _).trans (congrArg _ ((if_pos (List.isEmpty_iff.mpr quiet)).trans
    (State.runFront_of_front front op (opHsig f))))
  rw [done] at run
  exact run

theorem exec_ringNop (op : qOp e = 0) (zero : qArg e 479 0 = 0) :
    exec (.ringNop f r) s = .next ((s.takeEntry f r).completeRing f r e 0 0) := by
  have done : s.runNop f r = (s.takeEntry f r).completeRing f r e 0 0 := by simp [State.runNop, front, op, named, zero]
  have run : execRingNop f r s = _ := (atPlace_ring hf hr _).trans (congrArg _ done)
  exact run

/-- An order of a ring whose entry stands in for a write. -/
theorem writeQueue_finishes {i : Instr} {index sub : Nat} {value : List Byte} {want : BitVec 512 → Bool} {op : State → Answer} {a : Answer}
    (run : exec i s = atPlace (ringPlaceOk f r) (s.writeQueue f r index sub value want op)) (wanted : want e = true)
    (main : s.power.rom = false) (done : op s = a) (accepted : a.abort = 0) : exec i s =
      .next (((a.st.logWrite (.queue f r) index sub 0 [] value).takeEntry f r).completeRing f r e 0 a.result) :=
  run.trans ((atPlace_ring hf hr _).trans
    (congrArg _ (State.writeQueue_of_front front wanted named main done accepted index sub value)))

end

/-- The HCOPY at the front is under way with the bytes that it reads at once, or with the host's. -/
theorem exec_hcopy {e : BitVec 512} (front : s.frontOf f r true = some e) (op : qOp e = 4) (may : hcRefusal s f e = 0) :
    let taken (bytes : List Byte) := (s.takeEntry f r).modRing f r fun x => { x with copies := x.copies ++ [{ entry := e, data := bytes }] }
    (hcToHost e = true → s.badBlock (hcAddr e) (hcLen e) = none → ∀ data,
      exec (.hcopy f r data .clean) s = .next (taken (s.loadBytes (hcAddr e) (hcLen e)))) ∧
    (hcToHost e = false → ∀ data, data.length = hcLen e → exec (.hcopy f r data .clean) s = .next (taken data)) := by
  intro taken
  have run (data : List Byte) : exec (.hcopy f r data .clean) s = .next (s.startCopy f r data .clean) := atPlace_ring hf hr _
  refine ⟨fun dir clean data => (run data).trans (congrArg _ ?_), fun dir data length => (run data).trans (congrArg _ ?_)⟩
  · simp [State.startCopy, front, may, op, dir, State.eccCheck, State.outsideRead, clean, taken]
  · simp [State.startCopy, front, may, op, dir, length, taken]

theorem exec_hcopyDone {k : Nat} {x : Copy} (up : s.pcieUp = true) (serving : s.serving = true)
    (there : (s.ring f r).copies[k]? = some x) (silent : hcTallyEn x.entry = false) :
    let s0 := s.modRing f r fun y => { y with copies := y.copies.eraseIdx k }
    (hcToHost x.entry = true → exec (.hcopyDone f r k) s =
      .next ((s0.toHost f (hcHost x.entry) x.data).completeRing f r x.entry x.abort 0)) ∧
    (hcToHost x.entry = false → s.hostRoom (hcAddr x.entry) (hcLen x.entry) = true → exec (.hcopyDone f r k) s =
      .next ((s0.outsideWrite (hcAddr x.entry) x.data).completeRing f r x.entry x.abort 0)) := by
  intro s0
  have run : execHcopyDone f r k s = .next (s.endCopy f r k) := by
    rw [execHcopyDone, atPlace_ring hf hr, if_pos (by rw [up, serving]; rfl)]
  refine ⟨fun dir => run.trans (congrArg _ ?_), fun dir room => run.trans (congrArg _ ?_)⟩
  · simp [State.endCopy, there, silent, dir, s0]
  · simp [State.endCopy, there, silent, dir, room, s0, State.hostStore]

end

/-- The vendor object of the DOE mailbox answers a nonce with the evidence for it. -/
theorem exec_doeAttest {s : State} {f : Nat} (hf : f < 64) (up : s.pcieUp = true) (own : s.physical f = true) {nonce : List Byte}
    (length : nonce.length = 32) : exec (.doeAttest f (1#8 :: nonce)) s =
      .next { s with sent := .doe f (natLE 714 (s.evidenceFor (BitVec.ofNat 256 (leNat nonce))).toNat) :: s.sent } := by
  have whole : nonce.take 32 = nonce := List.take_of_length_le (by omega)
  have run : execDoeAttest f (1#8 :: nonce) s =
      .next { s with sent := .doe f (natLE 714 (s.evidenceFor (BitVec.ofNat 256 (leNat nonce))).toNat) :: s.sent } := by
    simp [execDoeAttest, atPlace, fnCount, hf, up, own, length, whole]
  exact run

theorem exec_doeDiscovery {s : State} {f : Nat} (hf : f < 64) (up : s.pcieUp = true) (own : s.physical f = true) :
    exec (.doeDiscovery f 0) s = .next { s with sent := .doe f [1#8, 0#8, 0#8, 1#8] :: s.sent } := by
  have run : execDoeDiscovery f 0 s = .next { s with sent := .doe f [1#8, 0#8, 0#8, 1#8] :: s.sent } := by
    rw [execDoeDiscovery, if_pos (by rw [up, own]; rfl)]
    exact if_pos (decide_eq_true hf)
  exact run

/-- Settles O57: an equation for each access, doorbell, ring operation and DOE request where nothing refuses it, with what its effect
leaves of memory (`mem_outsideWrite`) and of the tally (`hostSignal_of_reach`). -/
theorem hostRequestsHaveTheirEffects : Obligations.HostRequestsHaveTheirEffects := by
  unfold Obligations.HostRequestsHaveTheirEffects
  intro s f r hf hr
  dsimp only
  refine ⟨fun off len up homes inside quiet => ?_, fun off data up homes inside => bar2Writes hf up homes inside,
    fun g n hg up serving => ?_, fun tail es up => ?_, fun e front zero runs stays own free parked => ?_, fun busy => ?_,
    fun e front quiet zero stays => ?_, fun e front zero => ?_, fun e front op may => exec_hcopy hf hr front op may,
    fun k x up serving there silent => ?_, fun e main => ?_, fun up own => ?_⟩
  · obtain ⟨reads, refused⟩ := exec_bar2Read hf up homes inside quiet
    exact ⟨reads, fun may => ⟨_, refused may, rfl, congrArg Fn.drops (s.fn_modFn f fun x => { x with drops := satAdd 32 x.drops 1 }), rfl⟩⟩
  · obtain ⟨performed, waits⟩ := tallyDoorbells hf up n hg serving
    refine ⟨fun quiet reach => ⟨_, performed quiet, State.hostSignal_of_reach reach⟩, fun quiet reach => ?_, waits⟩
    rw [performed quiet, State.hostSignal_of_no_reach reach]
  · refine ⟨fun on small count => (exec_ringDb hf hr up).trans (congrArg _ ?_), fun off => (exec_ringDb hf hr up).trans (congrArg _ ?_)⟩
    · exact if_pos (by simp [on, small, count])
    · exact if_neg (by simp [off])
  · obtain ⟨front, op, named⟩ := front
    obtain ⟨⟨l, net, sent⟩, same⟩ := s.foldl_send_starts (qCtx e)
      ((s.teamTiles (qArg e 479 468)).flatMap fun n => (startStreams e).map fun st => (n, st))
    exact ⟨_, l, exec_start hf hr front named op zero runs stays own free parked, net, same, sent⟩
  · exact (atPlace_ring hf hr _).trans (congrArg _ (if_neg (by simpa using busy)))
  · obtain ⟨front, op, named⟩ := front
    exact ⟨_, exec_hsig hf hr front named op quiet zero stays, fun reach => (State.hostSignal_of_reach reach).1,
      fun reach => State.hostSignal_of_no_reach reach⟩
  · obtain ⟨front, op, named⟩ := front
    exact exec_ringNop hf hr front named op zero
  · obtain ⟨toHost, toDevice⟩ := exec_hcopyDone hf hr up serving there silent
    refine ⟨toHost, fun dir room outside clean length => ⟨_, toDevice dir room, ?_, ?_, fun b apart => ?_⟩⟩
    · rw [← length] at clean ⊢
      exact State.loadBytes_outsideWrite (.inl outside) clean
    · have fns := (State.outsideWrite_keeps (pt := { fns := true }) (s.modRing f r fun y => { y with copies := y.copies.eraseIdx k })
        (hcAddr x.entry) x.data (Keeps.refl _) rfl rfl rfl rfl rfl rfl rfl).same.fns rfl
      rw [State.ring, State.fn, fns, ← State.fn, ← State.ring, State.ring_modRing]
    · rw [← length] at apart
      exact State.peek_outsideWrite _ _ _ apart
  · refine ⟨fun c front ctx lo hi zero there live => ?_, fun c n front ctx hi zero may room => ?_,
      fun h front handle zero live named may idle => ?_, fun n front zero taken => ?_⟩
    · obtain ⟨front, op, named⟩ := front
      exact writeQueue_finishes hf hr front named rfl (Bool.and_eq_true_iff.mpr ⟨decide_eq_true op, decide_eq_true ctx⟩) main
        ((State.unusedZero_of_zero front zero _).trans (opCtxReset_of_live (State.serving_of_front front) lo hi there live)) rfl
    · obtain ⟨front, op, named⟩ := front
      exact writeQueue_finishes hf hr front named rfl (Bool.and_eq_true_iff.mpr ⟨decide_eq_true op, decide_eq_true ctx⟩) main
        ((State.unusedZero_of_zero front zero _).trans (opChanCreate_of_room hi may room)) rfl
    · obtain ⟨front, op, mine⟩ := front
      exact writeQueue_finishes hf hr front mine rfl (Bool.and_eq_true_iff.mpr ⟨decide_eq_true op, decide_eq_true handle⟩) main
        ((State.unusedZero_of_zero front zero fun s => s.destroyBy f h).trans (destroyBy_of_idle live named may idle)) rfl
    · obtain ⟨front, op, named⟩ := front
      exact writeQueue_finishes hf hr front named rfl (Bool.and_eq_true_iff.mpr ⟨decide_eq_true op, decide_eq_true rfl⟩) main
        ((State.unusedZero_of_zero front zero _).trans (opJobSubmit_of_accepted taken)) rfl
  · exact ⟨exec_doeDiscovery hf up own, fun nonce length => exec_doeAttest hf up own length⟩

end Sys2Proof.Machine

namespace Sys2Proof.Machine

/-! ## The jobs of the onboard service (14 R461 to R464) -/

section
variable {s t : State}

theorem State.job_congr (h : t.service = s.service) (i : Nat) : t.job i = s.job i := by rw [State.job, State.job, h]

/-- A job put back is what its ID names, where it named one. -/
theorem State.job_putJob (s : State) (j : Job) : (s.putJob j).job j.id = (s.job j.id).map fun _ => j := by
  have own (x : Job) : ((if x.id = j.id then j else x).id = j.id) = (x.id = j.id) := by
    split <;> simp [*]
  simp only [State.job, State.putJob, List.find?_map, Function.comp_def, own]
  cases found : s.service.jobs.find? fun x => decide (x.id = j.id) with
  | none => rfl
  | some x =>
    have named : x.id = j.id := by simpa using List.find?_some found
    simp [named]

theorem State.job_putJob_of_ne (s : State) {j : Job} {i : Nat} (h : i ≠ j.id) : (s.putJob j).job i = s.job i := by
  have other (x : Job) : ((if x.id = j.id then j else x).id = i) = (x.id = i) := by
    split
    · next own => rw [own]
    · rfl
  simp only [State.job, State.putJob, List.find?_map, Function.comp_def, other]
  cases found : s.service.jobs.find? fun x => decide (x.id = i) with
  | none => rfl
  | some x =>
    have named : x.id = i := by simpa using List.find?_some found
    simp [named, h]

theorem State.job_of_mem {j : Job} (h : j ∈ s.service.jobs) : (s.job j.id).isSome = true := by
  rw [State.job, List.find?_isSome]
  exact ⟨j, h, decide_eq_true rfl⟩

theorem State.id_of_job {i : Nat} {j : Job} (h : s.job i = some j) : j.id = i := by
  simpa using List.find?_some h

/-- What the end of a job does before the job is put back as ended, and after. -/
theorem State.endJob_eq (s : State) (j : Job) (st : Nat) (signal : Bool) : ∃ u draining,
    Keeps ({ service := true } : Parts) s u ∧ (j.kind ≠ 0 → u.mem = s.mem) ∧
    let e := u.putJob { j with state := st, chans := [], draining := draining, members := [] }
    s.endJob j st signal = if signal then e.signalGlobal 2 j.tally 1 else e :=
  ⟨_, _, State.dropChans_keeps _ _ (State.abandonModels_keeps s j (Keeps.refl s) rfl rfl rfl rfl rfl rfl rfl) rfl rfl,
    fun kind => (State.dropChans_keeps (pt := { mem := true }) _ _ (Keeps.refl _) rfl rfl).same.mem rfl |>.trans
      (congrArg State.mem (if_neg kind)), rfl⟩

theorem State.service_signalGlobal (s : State) (src g n : Nat) : (s.signalGlobal src g n).service = s.service :=
  (State.signalGlobal_keeps (pt := { service := true }) _ _ _ _ (Keeps.refl s) rfl rfl rfl rfl rfl).same.service rfl

/-- The service after a job's end: the job put back as ended. -/
theorem State.service_endJob (s : State) (j : Job) (st : Nat) (signal : Bool) : ∃ draining, (s.endJob j st signal).service =
    (s.putJob { j with state := st, chans := [], draining := draining, members := [] }).service := by
  obtain ⟨u, draining, kept, -, e⟩ := s.endJob_eq j st signal
  refine ⟨draining, ?_⟩
  rw [e, apply_ite State.service, State.service_signalGlobal, ite_self, State.putJob, State.putJob, kept.same.service rfl]

/-- A job that ends is in its end's state, and others are as they were. -/
theorem State.job_endJob (s : State) (j : Job) (st : Nat) (signal : Bool) :
    (∃ e : Job, e.state = st ∧ (s.endJob j st signal).job j.id = (s.job j.id).map fun _ => e) ∧
    ∀ i, i ≠ j.id → (s.endJob j st signal).job i = s.job i := by
  obtain ⟨draining, service⟩ := s.service_endJob j st signal
  refine ⟨⟨_, rfl, (State.job_congr service j.id).trans (s.job_putJob _)⟩, fun i other => ?_⟩
  exact (State.job_congr service i).trans (s.job_putJob_of_ne other)

/-- Only a batch's end writes memory. -/
theorem State.mem_endJob {j : Job} (kind : j.kind ≠ 0) (s : State) (st : Nat) (signal : Bool) : (s.endJob j st signal).mem = s.mem := by
  obtain ⟨u, draining, -, mem, e⟩ := s.endJob_eq j st signal
  have signalled (v : State) (src g n : Nat) : (v.signalGlobal src g n).mem = v.mem :=
    (State.signalGlobal_keeps (pt := { mem := true }) _ _ _ _ (Keeps.refl v) rfl rfl rfl rfl rfl).same.mem rfl
  rw [e, apply_ite State.mem, signalled, ite_self]
  exact mem kind

/-- The job that starts next is one of the service's. -/
theorem State.mem_of_nextJob {j : Job} (h : s.nextJob = some j) : j ∈ s.service.jobs := by
  unfold State.nextJob at h
  refine List.foldlRecOn (motive := fun b : Option Job => ∀ k, b = some k → k ∈ s.service.jobs) _ _ (by simp) ?_ j h
  intro b hb x hx k hk
  have mem : x ∈ s.service.jobs := (List.mem_filter.mp hx).1
  split at hk
  · cases hk
    exact mem
  · split at hk
    · cases hk
      exact mem
    · exact hb k hk

/-! ## The start of a job (14 R460 to R464) -/

/-- A channel is found by what stands in the tables alone. -/
theorem State.modelChans_of_counters (s : State) (draws nextUid : Nat) (service : Service) (c n : Nat) :
    ({ s with draws := draws, nextUid := nextUid, service := service } : State).modelChans c n =
      (s.modelChans c n).map fun r => (r.1, { r.2 with draws := draws, nextUid := nextUid, service := service }) := by
  induction n with
  | zero => rfl
  | succ n ih =>
    rw [State.modelChans, State.modelChans, ih]
    cases s.modelChans c n with
    | none => rfl
    | some r =>
      have found : ({ r.2 with draws := draws, nextUid := nextUid, service := service } : State).newChan c =
          (r.2.newChan c).map fun q => (q.1, { q.2 with draws := draws, nextUid := nextUid, service := service }) := by
        by_cases full : ((r.2.ctx c).chanLimit != 0 && decide ((r.2.ctx c).chanLimit ≤ r.2.liveChans c)) = true
        · have none : r.2.newChan c = none := if_pos full
          rw [none]
          exact if_pos full
        · have some : r.2.newChan c = _ := if_neg full
          rw [some, Option.map_map]
          exact if_neg full
      simp only [Option.map_some, found, Option.map_map]
      rfl

/-- The job as it starts, and the state that holds it so. -/
def State.startedJob (s : State) (j : Job) : Job := { j with state := 1, die := (s.free 13).1.toNat % 4, uid := s.nextUid }
def State.started (s : State) (j : Job) : State := ((s.free 13).2.fresh.2).putJob (s.startedJob j)

theorem exec_jobStart {j : Job} (starts : s.svcStarts = true) (next : s.nextJob = some j) :
    (j.kind = 0 → exec .jobStart s = .next ((s.started j).startBatch (s.startedJob j))) ∧
    (j.kind = 1 → exec .jobStart s = .next ((s.started j).shipRegion (s.startedJob j))) ∧
    (j.kind ≠ 0 → j.kind ≠ 1 → exec .jobStart s = .next (((s.started j).trigger (s.startedJob j)).settleJob (s.startedJob j))) := by
  have run : exec .jobStart s = execJobStart s := rfl
  rw [run, execJobStart, if_pos starts, next]
  dsimp only
  refine ⟨fun is => congrArg Host.Outcome.next ?_, fun is => congrArg Host.Outcome.next ?_,
    fun not0 not1 => congrArg Host.Outcome.next ?_⟩
  · split
    · rfl
    · next one => exact absurd (is.symm.trans one) (by decide)
    · next none _ => exact absurd is none
  · split
    · next zero => exact absurd (is.symm.trans zero) (by decide)
    · rfl
    · next none => exact absurd is none
  · split
    · next zero => exact absurd zero not0
    · next one => exact absurd one not1
    · rfl

theorem State.job_putJob_of_isSome {j : Job} (h : (s.job j.id).isSome = true) : (s.putJob j).job j.id = some j := by
  rw [State.job_putJob]
  obtain ⟨x, there⟩ := Option.isSome_iff_exists.mp h
  rw [there]
  rfl

/-- A job that the service holds ends in its end's state. -/
theorem State.job_endJob_of_isSome {j : Job} (h : (s.job j.id).isSome = true) (st : Nat) (signal : Bool) :
    ∃ e, (s.endJob j st signal).job j.id = some e ∧ e.state = st := by
  obtain ⟨⟨e, state, job⟩, -⟩ := s.job_endJob j st signal
  obtain ⟨x, there⟩ := Option.isSome_iff_exists.mp h
  exact ⟨e, by rw [job, there]; rfl, state⟩

theorem State.job_started {j : Job} (next : s.nextJob = some j) : (s.started j).job j.id = some (s.startedJob j) := by
  have service : ((s.free 13).2.fresh.2).service = s.service := rfl
  refine State.job_putJob_of_isSome (j := s.startedJob j) ?_
  rw [State.job_congr service]
  exact State.job_of_mem (j := j) (State.mem_of_nextJob next)

/-- A batch whose channels there are stands over the members of its team. -/
theorem State.startBatch_of_chans {j : Job} {r : List Word × State} (chans : s.modelChans j.ctx j.count = some r)
    (there : (s.job j.id).isSome = true) : ∃ j', (s.startBatch j).job j.id = some j' ∧ j'.state = 1 ∧ j'.next = j.next ∧
      j'.members.map (·.team) = s.batchMembers j ∧ (s.startBatch j).mem = s.mem := by
  have kept := State.modelChans_keeps (pt := { service := true, mem := true }) s j.ctx j.count r (Keeps.refl s) chans rfl rfl
  have run : s.startBatch j = r.2.putJob { j with
      state := 1
      members := (s.batchMembers j).mapIdx fun i m => { team := m, doneAt := (s.gtally (j.doneBase + i)).value }
      chans := r.1 } := by rw [State.startBatch, chans]
  rw [run]
  refine ⟨_, State.job_putJob_of_isSome ?_, rfl, rfl, ?_, kept.same.mem rfl⟩
  · exact (congrArg Option.isSome (State.job_congr (kept.same.service rfl) j.id)).trans there
  · exact List.ext_getElem (by simp) (by simp)

theorem State.startBatch_of_no_chans {j : Job} (none : s.modelChans j.ctx j.count = none) (there : (s.job j.id).isSome = true) :
    ∃ j', (s.startBatch j).job j.id = some j' ∧ j'.state = 2 := by
  rw [State.startBatch, none]
  exact State.job_endJob_of_isSome there 2 true

/-- A checkpoint whose next region is shipped is in the state that it was in. -/
theorem State.shipRegion_job {j : Job} (there : (s.job j.id).isSome = true) :
    ∃ j', (s.shipRegion j).job j.id = some j' ∧ j'.state = j.state := by
  have read (u : State) (a n : Nat) : (u.outsideRead a n).2.service = u.service :=
    (State.outsideRead_keeps (pt := { service := true }) u a n (Keeps.refl u) rfl rfl rfl rfl).same.service rfl
  have shipped (u : State) (off : Nat) (bytes : List Byte) : (u.shipBytes j off bytes).service = u.service :=
    (State.shipBytes_keeps (pt := { service := true }) u j off bytes (Keeps.refl u) rfl rfl rfl rfl rfl rfl rfl rfl rfl).same.service rfl
  unfold State.shipRegion
  dsimp only
  refine ⟨_, State.job_putJob_of_isSome ?_, rfl⟩
  refine (congrArg Option.isSome (State.job_congr ?_ j.id)).trans there
  rw [shipped, read, read]

/-- An evaluation trigger that has been sent runs on or is done, and no memory has changed. -/
theorem State.settleJob_trigger {j : Job} (job : s.job j.id = some j) (running : j.state = 1) (not0 : j.kind ≠ 0) (not1 : j.kind ≠ 1) :
    ∃ j', ((s.trigger j).settleJob j).job j.id = some j' ∧ j'.state ≠ 0 ∧ ((s.trigger j).settleJob j).mem = s.mem := by
  have kept := State.trigger_keeps (pt := { service := true, mem := true }) s j (Keeps.refl s) rfl rfl rfl rfl rfl rfl rfl
  have same : (s.trigger j).job j.id = some j := (State.job_congr (kept.same.service rfl) j.id).trans job
  have waits : ∃ j', (s.trigger j).job j.id = some j' ∧ j'.state ≠ 0 ∧ (s.trigger j).mem = s.mem :=
    ⟨j, same, by omega, kept.same.mem rfl⟩
  rw [State.settleJob, if_pos running, if_neg not0, if_neg not1]
  split
  · exact waits
  · split
    · exact waits
    · obtain ⟨e, ended, state⟩ := State.job_endJob_of_isSome (s := s.trigger j) (j := { j with done := j.count })
        (Option.isSome_of_eq_some same) (if j.cancelling then 3 else 2) true
      have kind : ({ j with done := j.count } : Job).kind ≠ 0 := not0
      refine ⟨e, ended, ?_, (State.mem_endJob kind _ _ _).trans (kept.same.mem rfl)⟩
      rw [state]
      split <;> decide

/-- A job that is next starts (14 R460 to R464). -/
theorem exec_jobStart_spec {j0 : Job} (starts : s.svcStarts = true) (next : s.nextJob = some j0) :
    ∃ t j, exec .jobStart s = .next t ∧ t.job j0.id = some j ∧ j.state ≠ 0 ∧
      (j0.kind = 0 → (s.modelChans j0.ctx j0.count).isSome = true → j.state = 1 ∧ j.next = j0.next ∧
        j.members.map (·.team) = s.batchMembers j0 ∧ t.mem = s.mem) ∧
      (j0.kind ≠ 0 → j0.kind ≠ 1 → t.mem = s.mem) := by
  obtain ⟨batch, checkpoint, trigger⟩ := exec_jobStart starts next
  have started := State.job_started next
  have there : ((s.started j0).job (s.startedJob j0).id).isSome = true := Option.isSome_of_eq_some started
  have kept : (s.startedJob j0).team = j0.team := rfl
  by_cases is0 : j0.kind = 0
  · have chans : (s.started j0).modelChans j0.ctx j0.count = _ := s.modelChans_of_counters _ _ _ j0.ctx j0.count
    cases found : s.modelChans j0.ctx j0.count with
    | none =>
      rw [found] at chans
      obtain ⟨j, job, state⟩ := State.startBatch_of_no_chans (j := s.startedJob j0) chans there
      exact ⟨_, j, batch is0, job, by omega, fun _ some => absurd some (by simp), fun not0 => absurd is0 not0⟩
    | some r =>
      rw [found] at chans
      obtain ⟨j, job, state, first, members, mem⟩ := State.startBatch_of_chans (j := s.startedJob j0) chans there
      have team : (s.started j0).batchMembers (s.startedJob j0) = s.batchMembers j0 := by
        have teams : (s.started j0).teams = s.teams := rfl
        rw [State.batchMembers, State.batchMembers, State.chain_congr teams, State.team_congr teams, kept]
      exact ⟨_, j, batch is0, job, by omega, fun _ _ => ⟨state, first, members.trans team, mem⟩, fun not0 => absurd is0 not0⟩
  · by_cases is1 : j0.kind = 1
    · obtain ⟨j, job, state⟩ := State.shipRegion_job there
      have running : j.state = 1 := state
      exact ⟨_, j, checkpoint is1, job, by omega, fun is => absurd is is0, fun _ not1 => absurd is1 not1⟩
    · obtain ⟨j, job, state, mem⟩ := State.settleJob_trigger (j := s.startedJob j0) started rfl is0 is1
      exact ⟨_, j, trigger is0 is1, job, state, fun is => absurd is is0, fun _ _ => mem⟩

/-! ## A model handed out (14 R463) -/

/-- The models' states moved before a member takes the next one. -/
def State.swapModels (s : State) (j : Job) (mb : Member) : State :=
  let m := s.model j j.next
  let tiles := s.teamTiles mb.team
  let prev := mb.held.map fun h => s.model j h
  let same := match prev with
    | some p => mdState p = mdState m && mdPages p = mdPages m && mdDst p = mdDst m
    | none => false
  let s1 := match prev with
    | some p => if j.writeback && !same then s.swapOut p tiles else s
    | none => s
  if same then s1 else s1.swapIn m tiles

/-- A block written into the data memory of tiles. -/
def State.putBlocks (s : State) (tiles : List Nat) (off : Nat) (block : List Byte) : State :=
  tiles.foldl (fun s n => s.modTile n fun t => t.coreWrite 0 off block) s

theorem State.handOut_eq (s : State) (j : Job) (k : Nat) (mb : Member) : s.handOut j k mb =
    (((s.swapModels j mb).putBlocks (s.teamTiles mb.team) j.launchOff
      (launchBlock j.next (lget j.chans j.next 0) (s.model j j.next))).putJob { j with
        next := j.next + 1
        members := lset j.members k { mb with model := some j.next, held := some j.next, given := mb.given + 1 } }).signalGlobal 2
      (j.launchBase + k) 1 := rfl

theorem State.swapModels_keeps (s : State) (j : Job) (mb : Member) : (s.swapModels j mb).service = s.service ∧
    TilesKeep s (s.swapModels j mb) := by
  have moveIn (u : State) (m : Nat) (tiles : List Nat) : (u.swapIn m tiles).service = u.service ∧ TilesKeep u (u.swapIn m tiles) :=
    ⟨(State.swapIn_keeps (pt := { service := true }) u m tiles (Keeps.refl u) rfl rfl rfl rfl rfl rfl rfl).same.service rfl,
      TilesKeep.foldl (fun _ _ => (TilesKeep.outsideRead _ _ _).trans (TilesKeep.outsideWrite _ _ _)) _ u⟩
  have moveOut (m : Nat) (tiles : List Nat) : (s.swapOut m tiles).service = s.service ∧ TilesKeep s (s.swapOut m tiles) :=
    ⟨(State.swapOut_keeps (pt := { service := true }) s m tiles (Keeps.refl s) rfl rfl rfl rfl rfl rfl rfl).same.service rfl,
      TilesKeep.foldl (fun _ _ => (TilesKeep.outsideRead _ _ _).trans (TilesKeep.outsideWrite _ _ _)) _ s⟩
  have stays : s.service = s.service ∧ TilesKeep s s := ⟨rfl, TilesKeep.refl s⟩
  have andIn {u : State} (h : u.service = s.service ∧ TilesKeep s u) (p : Prop) [Decidable p] (m : Nat) (tiles : List Nat) :
      (if p then u else u.swapIn m tiles).service = s.service ∧ TilesKeep s (if p then u else u.swapIn m tiles) := by
    split
    · exact h
    · exact ⟨(moveIn u m tiles).1.trans h.1, h.2.trans (moveIn u m tiles).2⟩
  unfold State.swapModels
  cases mb.held with
  | none => exact andIn stays _ _ _
  | some h =>
    refine andIn ?_ _ _ _
    dsimp only [Option.map_some]
    split
    · exact moveOut _ _
    · exact stays

/-- A write to core memory that meets no uncorrectable block leaves none to meet. -/
theorem Tile.corePartBad_coreWrite {t : Tile} {m off : Nat} {bs : List Byte} (clean : t.corePartBad m off bs = none) :
    (t.coreWrite m off bs).corePartBad m off bs = none := by
  have parts (u : Tile) : u.corePartBad m off bs = none ↔
      ∀ p ∈ writeParts off bs, p.2.length < 64 → u.coreBlock m p.1 p.2.length = none := by
    simp [Tile.corePartBad]
  rw [parts] at clean ⊢
  intro p hp short
  refine List.foldlRecOn (motive := fun u : Tile => u.coreBlock m p.1 p.2.length = none) _ _ (clean p hp short) fun u hu q _ => ?_
  split
  · exact hu
  · exact Tile.coreBlock_corePut hu m q.1 q.2

/-- Whether a write meets an uncorrectable block rests on the list of those alone. -/
theorem Tile.corePartBad_congr {t u : Tile} (h : u.coreBad = t.coreBad) (m off : Nat) (bs : List Byte) :
    u.corePartBad m off bs = t.corePartBad m off bs := by
  simp only [Tile.corePartBad, Tile.coreBlock, h]

theorem State.service_putBlocks (s : State) (tiles : List Nat) (off : Nat) (block : List Byte) :
    (s.putBlocks tiles off block).service = s.service :=
  List.foldlRecOn (motive := fun u : State => u.service = s.service) _ _ rfl fun _ hu _ _ => hu

/-- A tile that the block is written to, or that held it before, holds it then. -/
theorem State.peeks_putBlocks {n off : Nat} {block : List Byte} (tiles : List Nat) (clean : (s.tile n).corePartBad 0 off block = none)
    (h : n ∈ tiles ∨ peeks (s.tile n).dmem off block.length = block) :
    peeks ((s.putBlocks tiles off block).tile n).dmem off block.length = block := by
  induction tiles generalizing s with
  | nil => exact h.resolve_left (by simp)
  | cons m tiles ih =>
    rw [State.putBlocks, List.foldl_cons, ← State.putBlocks]
    rcases eq_or_ne n m with rfl | other
    · refine ih ?_ (.inr ?_)
      · rw [State.tile_modTile]
        exact Tile.corePartBad_coreWrite clean
      · rw [State.tile_modTile, Tile.dmem_coreWrite clean, peeks_pokes]
    · refine ih ?_ ?_
      · rwa [State.tile_modTile_of_ne _ _ other]
      · rw [State.tile_modTile_of_ne _ _ other]
        exact h.imp_left fun mem => (List.mem_cons.mp mem).resolve_left other

theorem State.tiles_signalGlobal (s : State) (src g n : Nat) : (s.signalGlobal src g n).tiles = s.tiles := by
  unfold State.signalGlobal State.signalAt
  dsimp only
  rw [(State.releaseAll_keeps (pt := { tiles := true }) _ _ _ _ (Keeps.refl _) rfl rfl).same.tiles rfl]
  split
  · exact State.alarm_tiles _ _ _ _ _
  · rfl

theorem length_launchBlock (i : Nat) (chan : Word) (m : Nat) : (launchBlock i chan m).length = 32 := natLE_length _ _

/-- A handout moves the batch on, gives the member its model, and puts the launch block into its tiles. -/
theorem State.handOut_spec {j : Job} {k : Nat} (there : (s.job j.id).isSome = true) (member : k < j.members.length) (mb : Member) :
    let block := launchBlock j.next (lget j.chans j.next 0) (s.model j j.next)
    (∃ j', (s.handOut j k mb).job j.id = some j' ∧ j'.next = j.next + 1 ∧
      (lget j'.members k { team := 0 }).model = some j.next) ∧
    ∀ n ∈ s.teamTiles mb.team, (s.tile n).corePartBad 0 j.launchOff block = none →
      peeks ((s.handOut j k mb).tile n).dmem j.launchOff 32 = block := by
  intro block
  obtain ⟨service, tiles⟩ := s.swapModels_keeps j mb
  rw [State.handOut_eq]
  refine ⟨⟨{ j with
      next := j.next + 1
      members := lset j.members k { mb with model := some j.next, held := some j.next, given := mb.given + 1 } }, ?_, rfl, ?_⟩,
    fun n mem clean => ?_⟩
  · refine (State.job_congr (State.service_signalGlobal _ _ _ _) j.id).trans (State.job_putJob_of_isSome ?_)
    refine (congrArg Option.isSome (State.job_congr ?_ j.id)).trans there
    rw [State.service_putBlocks, service]
  · rw [lget_lset, if_pos ⟨rfl, member⟩]
  · have bad := Tile.corePartBad_congr (Prod.ext_iff.mp (Prod.ext_iff.mp (tiles n)).2).1 0 j.launchOff block
    have put := State.peeks_putBlocks (off := j.launchOff) (s.teamTiles mb.team) (bad.trans clean) (.inl mem)
    rw [length_launchBlock] at put
    rw [State.tile, State.tiles_signalGlobal]
    exact put

/-- The free member is one of the job's. -/
theorem State.lt_of_freeMember {j : Job} {k : Nat} (free : s.freeMember j = some k) : k < j.members.length := by
  unfold State.freeMember at free
  exact (List.findIdx?_eq_some_iff_getElem.mp free).1

section
variable {id k : Nat} {j : Job} (job : s.job id = some j)
include job

/-- A member is free for the next model of a batch. -/
theorem exec_modelHandout_of_free (starts : s.svcStarts = true) (state : j.state = 1) (kind : j.kind = 0) (going : j.cancelling = false)
    (more : j.next < j.count) (free : s.freeMember j = some k) (resets : s.notResetting j.ctx = true) :
    let mb : Member := lget j.members k { team := 0 }
    exec (.modelHandout id) s = .next (
      if s.modelFits j (s.model j j.next) (s.teamTiles mb.team).length && (s.badBlock (State.modelAt j j.next) 32).isNone then
        s.handOut j k mb
      else (s.setStatus j j.next 3).settleBatch { j with next := j.next + 1 }) := by
  have run : exec (.modelHandout id) s = execModelHandout id s := rfl
  have goes : ¬(!s.svcStarts || !s.notResetting j.ctx || j.state != 1 || j.kind != 0 || j.cancelling || decide (j.count ≤ j.next)) = true := by
    simp [starts, resets, state, kind, going, more]
  rw [run, execModelHandout, job]
  dsimp only
  rw [if_neg goes, free]
  dsimp only
  split <;> rfl

theorem exec_modelHandout_of_reset (resets : s.notResetting j.ctx = false) : exec (.modelHandout id) s = .next s := by
  have run : exec (.modelHandout id) s = execModelHandout id s := rfl
  rw [run, execModelHandout, job]
  exact if_pos (by simp [resets])

/-- A member's model is looked at: it has failed, is done, or goes on. -/
theorem exec_modelDone_of_member {mb : Member} {i : Nat} (runs : s.svcRuns = true) (member : j.members[k]? = some mb)
    (model : mb.model = some i) (state : j.state = 1) : exec (.modelDone id k) s = .next (
      if s.teamHalted mb.team then s.modelOver j k mb i 2
      else if mb.doneAt + mb.given ≤ (s.gtally (j.doneBase + k)).value then s.modelOver j k mb i 1
      else s) := by
  have run : exec (.modelDone id k) s = execModelDone id k s := rfl
  rw [run, execModelDone, job]
  dsimp only
  rw [member]
  dsimp only
  rw [model]
  dsimp only
  rw [if_neg (by simp [runs, state])]
  split
  · rfl
  · split <;> rfl

end

/-! ## A complex that stops (14 R465) -/

/-- The end of a job leaves the service's state as it was. -/
theorem State.service_state_endJob (s : State) (j : Job) (st : Nat) (signal : Bool) :
    (s.endJob j st signal).service.state = s.service.state := by
  obtain ⟨draining, service⟩ := s.service_endJob j st signal
  rw [service]
  rfl

/-- Jobs that end as abandoned are abandoned jobs of the service. -/
theorem State.job_abandoned {js : List Job} {j : Job} (mem : j ∈ js) (there : (s.job j.id).isSome = true) :
    ∃ j', (js.foldl (fun s j => s.endJob j 4 true) s).job j.id = some j' ∧ j'.state = 4 := by
  have step (u : State) (x : Job) (i : Nat) : ((u.endJob x 4 true).job i).isSome = (u.job i).isSome := by
    obtain ⟨⟨e, -, own⟩, other⟩ := u.job_endJob x 4 true
    rcases eq_or_ne i x.id with rfl | ne
    · rw [own, Option.isSome_map]
    · rw [other i ne]
  have held : ((js.foldl (fun s j => s.endJob j 4 true) s).job j.id).isSome = true :=
    List.foldlRecOn (motive := fun u : State => (u.job j.id).isSome = true) _ _ there fun u hu x _ => (step u x j.id).trans hu
  have abandons (u : State) (x : Job) (e : Job) (ended : (u.endJob x 4 true).job x.id = some e) : e.state = 4 := by
    obtain ⟨⟨y, state, own⟩, -⟩ := u.job_endJob x 4 true
    rw [own, Option.map_eq_some_iff] at ended
    obtain ⟨-, -, rfl⟩ := ended
    exact state
  have all : ∀ e, (js.foldl (fun s j => s.endJob j 4 true) s).job j.id = some e → e.state = 4 :=
    foldl_reaches (P := fun u => ∀ e, u.job j.id = some e → e.state = 4) mem s (fun u => abandons u j) fun u x _ hu => by
      rcases eq_or_ne j.id x.id with same | ne
      · rw [same]
        exact abandons u x
      · rw [(u.job_endJob x 4 true).2 j.id ne]
        exact hu
  obtain ⟨e, job⟩ := Option.isSome_iff_exists.mp held
  exact ⟨e, job, all e job⟩

theorem exec_serviceComplexStop {die : Nat} {restarts : Bool} (there : die < 4) (runs : s.svcRuns = true) :
    ∃ t, exec (.serviceComplexStop die restarts) s = .next t ∧ t.service.state = (if restarts then 1 else 2) ∧
      ∀ j ∈ s.service.jobs, j.state = 1 → j.die = die → ∃ j', t.job j.id = some j' ∧ j'.state = 4 := by
  have run : exec (.serviceComplexStop die restarts) s = execServiceComplexStop die restarts s := rfl
  rw [run, execServiceComplexStop, if_pos there, if_pos runs]
  dsimp only
  generalize told : State.alarm _ _ _ _ _ = u
  have service : u.service = s.service := by
    rw [← told]
    exact (State.alarm_keeps (pt := { service := true }) _ _ _ _ _ (Keeps.refl _) rfl).same.service rfl
  generalize ended : List.foldl _ u _ = e
  have up : e.service.state = 1 := by
    have kept : e.service.state = u.service.state := by
      rw [← ended]
      exact List.foldlRecOn (motive := fun v : State => v.service.state = u.service.state) _ _ rfl fun v hv x _ =>
        (v.service_state_endJob x 4 true).trans hv
    have running : s.service.state = 1 := by
      simpa using (Bool.and_eq_true_iff.mp runs).2
    rw [kept, service, running]
  have abandoned : ∀ j ∈ s.service.jobs, j.state = 1 → j.die = die → ∃ j', e.job j.id = some j' ∧ j'.state = 4 := by
    intro j mem state own
    rw [← ended]
    have isOpen : j ∈ u.openJobs := List.mem_filter.mpr ⟨service ▸ mem, by simp [Job.open, state]⟩
    refine State.job_abandoned (List.mem_filter.mpr ⟨isOpen, by simp [state, own]⟩) ?_
    exact State.job_of_mem (service ▸ mem)
  refine ⟨_, rfl, ?_, fun j mem state own => ?_⟩
  · cases restarts
    · rfl
    · exact up
  · cases restarts
    · exact abandoned j mem state own
    · exact abandoned j mem state own

end

/-- Settles O58: each event is an equation where its conditions hold; a job is followed through the service's list by
`job_putJob` and `job_endJob`, and the launch block into a member's tiles by `peeks_putBlocks`. -/
theorem theServiceWorks : Obligations.TheServiceWorks := by
  unfold Obligations.TheServiceWorks
  intro s
  refine ⟨fun j0 starts next => exec_jobStart_spec starts next,
    fun id j k starts job state kind going more free resets fits clean => ?_,
    fun id j k starts job state kind going more free resets unfit => ?_,
    fun id j job resets => exec_modelHandout_of_reset job resets,
    fun id j k mb i runs job member model state => ?_,
    fun runs => congrArg Host.Outcome.next (if_pos runs),
    fun die restarts there runs => exec_serviceComplexStop there runs⟩
  · have run := exec_modelHandout_of_free job starts state kind going more free resets
    have laid : (s.modelFits j (s.model j j.next) (s.teamTiles (lget j.members k { team := 0 }).team).length &&
        (s.badBlock (State.modelAt j j.next) 32).isNone) = true := by rw [fits, clean]; rfl
    obtain rfl := State.id_of_job job
    obtain ⟨⟨j', moved, next, model⟩, blocks⟩ := State.handOut_spec (s := s) (Option.isSome_of_eq_some job)
      (State.lt_of_freeMember free) (lget j.members k { team := 0 })
    exact ⟨_, j', run.trans (congrArg _ (if_pos laid)), moved, next, model, blocks⟩
  · refine (exec_modelHandout_of_free job starts state kind going more free resets).trans (congrArg _ (if_neg ?_))
    rcases unfit with wide | bad
    · rw [wide]
      simp
    · obtain ⟨b, found⟩ := Option.isSome_iff_exists.mp bad
      rw [found]
      simp
  · have run := exec_modelDone_of_member job runs member model state
    refine ⟨fun halted => run.trans (congrArg _ (if_pos halted)), fun on done => run.trans (congrArg _ ?_),
      fun on waits => run.trans (congrArg _ ?_)⟩
    · rw [on, if_neg (by decide), if_pos done]
    · rw [on, if_neg (by decide), if_neg (by omega)]

end Sys2Proof.Machine

namespace Sys2Proof.Machine

/-! ## Fuses (15 R495) -/

/-- Settles O7: no operation of the model lowers a fuse (Laws/Keeps.lean), and a step is the front command's operation, or idling, on
a queue without that command, which is no part of the fuses. -/
theorem fusesNeverFall : Obligations.FusesNeverFall := by
  intro s t k h
  have queueAside : (s.kind k).fused = (({ s with pending := s.pending.tail } : State).kind k).fused := rfl
  rw [queueAside]
  exact (step_keeps.out t h).fused k

end Sys2Proof.Machine

namespace Sys2Proof.Machine

/-! ## A power section replaced -/

/-- A change of the power section that keeps the power state leaves every other part as it was. -/
theorem Same.power_replaced (s : State) (p : Power) (mode : p.state = s.power.state) :
    Same ({ power := true } : Parts).others s { s with power := p } :=
  ((Keeps.refl s).powers p (fun le => mode ▸ le) rfl).same

/-! ## The clock setting in effect (15 R482) -/

/-- Following the written setting changes the clock setting in effect alone. -/
theorem Power.follow_eq (p : Power) : p.follow = { p with clockLive := p.follow.clockLive } := by
  unfold Power.follow
  split
  · rfl
  · split <;> rfl

theorem Power.follow_of_not_service {p : Power} (other : p.state ≠ 2) : p.follow = p := if_pos (by simpa using other)

theorem Power.clockLive_follow_of_lt {p : Power} (serves : p.state = 2) (below : p.clockLive < p.clockMhz) :
    p.follow.clockLive = min p.clockMhz (p.clockLive + 25) := by
  rw [Power.follow, if_neg (by simp [serves]), if_pos below]

theorem Power.clockLive_follow_of_le {p : Power} (serves : p.state = 2) (above : p.clockMhz ≤ p.clockLive) :
    p.follow.clockLive = max p.clockMhz (p.clockLive - 25) := by
  rw [Power.follow, if_neg (by simp [serves]), if_neg (by omega)]

theorem Power.follow_powerW (p : Power) (w : Nat) : ({ p with powerW := w } : Power).follow = { p.follow with powerW := w } := by
  simp only [Power.follow]
  split
  · rfl
  · split <;> rfl

/-! ## The power controller (15 R481) -/

theorem Power.le_ceiling (p : Power) (n : Nat) : 400 ≤ p.ceiling n := Nat.le_max_left _ _

/-- Lowering every ceiling changes the steps that are taken off, and nothing else. -/
theorem Power.allLower_eq (p : Power) : p.allLower = { p with lowered := p.allLower.lowered } := by
  unfold Power.allLower
  generalize List.map p.lower _ = l
  rfl

theorem Power.allRaise_eq (p : Power) : p.allRaise = { p with lowered := p.allRaise.lowered } := by
  unfold Power.allRaise
  generalize List.map _ _ = l
  rfl

/-- Over the limit a tick lowers ceilings, or shows that none is left to lower. -/
theorem Power.control_of_over {p : Power} {w : Nat} (above : p.limit < w) :
    (p.control w).under = 0 ∧
    (∀ n, n < 2048 → (p.control w).ceiling n ≤ p.ceiling n ∧ 400 ≤ (p.control w).ceiling n ∧
      (425 ≤ p.ceiling n → (p.control w).ceiling n = p.ceiling n - 25)) ∧
    ((∃ n, n < 2048 ∧ p.ceiling n ≠ 400) → (p.control w).status = p.status) ∧
    ((∀ n, n < 2048 → p.ceiling n = 400) → p.control w = { p with under := 0, status := p.status ||| 2#64 }) := by
  rw [p.control_over w above]
  split
  · next bottom =>
    have bottom : ∀ n, n < 2048 → p.ceiling n = 400 := by simpa using bottom
    refine ⟨rfl, fun n tile => ?_, fun ⟨n, tile, left⟩ => absurd (bottom n tile) left, fun _ => rfl⟩
    have same : ({ p with under := 0, status := p.status ||| 2#64 } : Power).ceiling n = p.ceiling n := rfl
    have at400 := bottom n tile
    rw [same]
    omega
  · next left =>
    have under : ({ p with under := 0 } : Power).allLower.under = 0 := by rw [Power.allLower_eq]
    have status : ({ p with under := 0 } : Power).allLower.status = p.status := by rw [Power.allLower_eq]
    refine ⟨under, fun n tile => ?_, fun _ => status, fun bottom => absurd (by simpa using bottom) left⟩
    have same : ({ p with under := 0 } : Power).ceiling n = p.ceiling n := rfl
    have least := p.le_ceiling n
    rw [Power.ceiling_allLower _ tile, same]
    omega

/-- Raising gives a step of 25 MHz back to every ceiling below the clock setting in effect. -/
theorem Power.ceiling_allRaise_spec (p : Power) {n : Nat} (tile : n < 2048) :
    p.ceiling n ≤ p.allRaise.ceiling n ∧
    (400 < p.ceiling n → p.ceiling n < p.clockLive → p.allRaise.ceiling n = p.ceiling n + 25) := by
  rw [p.ceiling_allRaise tile]
  unfold Power.ceiling
  omega

/-- At or under the limit a tick counts, follows the clock setting, and raises ceilings with the tenth below 97 %. -/
theorem Power.control_of_under {p : Power} {w : Nat} (under : w ≤ p.limit) :
    (p.control w).status = p.status ∧
    (p.limit * 97 ≤ w * 100 → p.control w = ({ p with under := 0 } : Power).follow) ∧
    (w * 100 < p.limit * 97 → p.under < 9 → p.control w = ({ p with under := p.under + 1 } : Power).follow) ∧
    (w * 100 < p.limit * 97 → p.under = 9 → (p.control w).under = 0 ∧ (p.follow.clockLive = p.clockLive →
      p.control w = ({ p with under := 0 } : Power).allRaise)) := by
  have status : p.follow.status = p.status := by rw [p.follow_eq]
  have raised : ({ p with under := 0 } : Power).allRaise.status = p.status ∧ ({ p with under := 0 } : Power).allRaise.under = 0 := by
    rw [Power.allRaise_eq]
    exact ⟨rfl, rfl⟩
  rw [p.control_under w under, p.follow_under 0, p.follow_under (p.under + 1)]
  refine ⟨?_, fun near => ?_, fun low few => ?_, fun low nine => ?_⟩
  · split
    · split
      · exact raised.1
      · exact status
    · exact status
  · rw [if_neg (by omega)]
  · rw [if_pos low, if_neg (by omega), Nat.mod_eq_of_lt (by omega)]
  · rw [if_pos low]
    refine ⟨?_, fun still => if_pos ⟨nine, still⟩⟩
    split
    · exact raised.2
    · rw [nine]

/-- A tick leaves the power state and the measurement alone. -/
theorem Power.control_keeps (p : Power) (w : Nat) : (p.control w).state = p.state ∧ (p.control w).powerW = p.powerW := by
  have follows : p.follow.state = p.state ∧ p.follow.powerW = p.powerW := by
    rw [p.follow_eq]
    exact ⟨rfl, rfl⟩
  rcases Nat.lt_or_ge p.limit w with above | under
  · rw [p.control_over w above]
    split
    · exact ⟨rfl, rfl⟩
    · rw [Power.allLower_eq]
      exact ⟨rfl, rfl⟩
  · rw [p.control_under w under]
    split
    · split
      · rw [Power.allRaise_eq]
        exact ⟨rfl, rfl⟩
      · exact follows
    · exact follows

/-- Where base camp runs the measured power is taken, and where tiles are powered ceilings follow it. -/
theorem exec_powerControlTick {s : State} {w : Nat} (small : w < 65536) (camp : s.power.camp = true) :
    exec (.powerControlTick w) s = .next { s with power :=
      if s.power.state = 1 ∨ s.power.state = 2 then ({ s.power with powerW := w } : Power).control w
      else { s.power with powerW := w } } := by
  have run : exec (.powerControlTick w) s = execPowerControlTick w s := rfl
  rw [run, execPowerControlTick, if_pos camp, Nat.mod_eq_of_lt small]
  rfl

/-! ## Power events (15 R475) -/

@[simp] theorem State.powerEvent_mem (s : State) (cause : Nat) : (s.powerEvent cause).mem = s.mem := State.modPower_mem s _

/-- An event changes the log of events and their sequence number alone. -/
theorem State.power_powerEvent (s : State) (cause : Nat) : ∃ events, (s.powerEvent cause).power =
    { s.power with events := events, eventSeq := (s.power.eventSeq + 1) % 65536, eventOpen := true } := by
  unfold State.powerEvent State.modPower
  dsimp only
  split
  · exact ⟨_, rfl⟩
  · exact ⟨_, rfl⟩

@[simp] theorem State.modPower_power (s : State) (f : Power → Power) : (s.modPower f).power = f s.power := rfl

/-! ## The ride-through begins (15 R472) -/

/-- Commands cut at time 0 and the ports' notices leave the power section alone. -/
theorem State.power_startRide (s : State) (cause : Nat) :
    (s.startRide cause).power.state = 3 ∧ (s.startRide cause).power.rideSteps = 0 ∧
    (s.startRide cause).power.mainOk = s.power.mainOk ∧
    (s.startRide cause).power.eventSeq = (s.power.eventSeq + 1) % 65536 := by
  unfold State.startRide
  extract_lets cut noticed
  have power : noticed.power = s.power := by
    have keeps : Keeps { power := true } s noticed :=
      Keeps.foldl (Keeps.foldl (Keeps.refl s) _ fun t x ht => Keeps.foldl ht _ fun t x ht => State.rideMove_keeps _ _ ht rfl rfl rfl) _
        fun t p ht => State.notice_keeps _ _ ht rfl rfl
    exact keeps.same.power rfl
  clear_value noticed
  obtain ⟨events, told⟩ := noticed.power_powerEvent cause
  rw [power] at told
  have carried := congrArg Power.mainOk told
  have seq := congrArg Power.eventSeq told
  exact ⟨rfl, rfl, carried, seq⟩

section
variable {s : State}

/-! ## The thermal loop (15 R483) -/

theorem State.resume_of_not_hold (left : s.power.state ≠ 4) : s.resume = s := if_neg (by simp [left])

/-- A sample changes the temperatures read, the throttles and the steps the ceilings are lowered by. -/
theorem Power.sample_eq (p : Power) (t : Nat × Int) :
    ∃ a b, p.sample t = { p with temps := tset t.1 t.2 p.temps, throttled := a, lowered := b } := by
  unfold Power.sample
  dsimp only
  split
  · unfold Power.throttle
    dsimp only
    split
    · split
      · exact ⟨_, _, rfl⟩
      · exact ⟨_, _, rfl⟩
    · exact ⟨_, _, rfl⟩
  · exact ⟨_, _, rfl⟩

theorem Power.samples_eq (l : List (Nat × Int)) (p : Power) :
    ∃ a b c, l.foldl Power.sample p = { p with temps := a, throttled := b, lowered := c } := by
  induction l generalizing p with
  | nil => exact ⟨_, _, _, rfl⟩
  | cons t l ih =>
    obtain ⟨a, b, one⟩ := p.sample_eq t
    obtain ⟨c, d, e, rest⟩ := ih (p.sample t)
    exact ⟨c, d, e, by rw [List.foldl_cons, rest, one]⟩

/-- A sample is taken, and with a junction at 115 °C the ride-through begins. -/
theorem exec_thermalSample {temps : List (Nat × Int)} (sensors : ∀ e ∈ temps, e.1 < 2060) (camp : s.power.camp = true)
    (on : s.power.state = 1 ∨ s.power.state = 2) :
    let u : State := { s with power := temps.foldl Power.sample s.power }
    exec (.thermalSample temps) s = .next (if temps.any (fun t => decide (115000 ≤ t.2))
      then (u.startRide 2).modPower fun p => { p with thermTrip := true } else u.resume) := by
  have run : exec (.thermalSample temps) s = execThermalSample temps s := rfl
  have known : (temps.all fun t => decide (t.1 < sensorCount)) = true :=
    List.all_eq_true.mpr fun e he => decide_eq_true (sensors e he)
  have powered : s.power.state ≠ 0 := by omega
  rw [run, execThermalSample, if_pos known, camp, decide_eq_false powered, if_neg (by decide)]
  simp only [on, true_and]
  rfl

theorem exec_thermalSample_of_hot {temps : List (Nat × Int)} (sensors : ∀ e ∈ temps, e.1 < 2060) (camp : s.power.camp = true)
    (on : s.power.state = 1 ∨ s.power.state = 2) (hot : ∃ e ∈ temps, 115000 ≤ e.2) : ∃ t, exec (.thermalSample temps) s = .next t ∧
      t.power.state = 3 ∧ t.power.thermTrip = true ∧ t.power.eventSeq = (s.power.eventSeq + 1) % 65536 := by
  have trips : (temps.any fun t => decide (115000 ≤ t.2)) = true := by simpa using hot
  obtain ⟨a, b, c, folded⟩ := Power.samples_eq temps s.power
  have sampled : (temps.foldl Power.sample s.power).eventSeq = s.power.eventSeq := by rw [folded]
  obtain ⟨state, -, -, seq⟩ := ({ s with power := temps.foldl Power.sample s.power } : State).power_startRide 2
  refine ⟨_, (exec_thermalSample sensors camp on).trans (congrArg _ (if_pos trips)), ?_⟩
  generalize State.startRide _ 2 = u at state seq
  exact ⟨state, rfl, sampled ▸ seq⟩

/-- With no junction at 115 °C a sample is only noted. -/
theorem exec_thermalSample_of_cool {temps : List (Nat × Int)} (sensors : ∀ e ∈ temps, e.1 < 2060) (camp : s.power.camp = true)
    (on : s.power.state = 1 ∨ s.power.state = 2) (cool : ∀ e ∈ temps, e.2 < 115000) :
    exec (.thermalSample temps) s = .next { s with power := temps.foldl Power.sample s.power } := by
  have mild : (temps.any fun t => decide (115000 ≤ t.2)) = false := by simpa using cool
  obtain ⟨a, b, c, folded⟩ := Power.samples_eq temps s.power
  have sampled : (temps.foldl Power.sample s.power).state = s.power.state := by rw [folded]
  have left : (temps.foldl Power.sample s.power).state ≠ 4 := by omega
  rw [exec_thermalSample sensors camp on, mild, if_neg Bool.false_ne_true, State.resume_of_not_hold left]

end

/-! ## A bring-up begins (15 R484, R485) -/

/-- What the start of a bring-up makes of the power section, memory and the panel: t is s with the bring-up in the given phase. -/
structure BringupBegun (s t : State) (phase : Nat) : Prop where
  state : t.power.state = 1
  phase : t.power.phase = phase
  mainOk : t.power.mainOk = s.power.mainOk
  backupOk : t.power.backupOk = s.power.backupOk
  rom : t.power.rom = s.power.rom
  memKept : t.power.memKept = s.power.memKept
  status : t.power.status = s.power.status
  eventSeq : t.power.eventSeq = s.power.eventSeq
  mem : t.mem = s.mem
  panel : t.panel = s.panel

/-- A bring-up from base camp's ROM begins with phase 1, any other with the rails. -/
theorem State.startBringup_begun (s : State) (fromRom : Bool) : BringupBegun s (s.startBringup fromRom) (if fromRom then 1 else 2) := by
  cases fromRom
  · exact ⟨rfl, rfl, rfl, rfl, rfl, rfl, rfl, rfl, rfl, rfl⟩
  · exact ⟨rfl, rfl, rfl, rfl, rfl, rfl, rfl, rfl, rfl, rfl⟩

/-- A restart that waits goes on waiting for the contexts, or its bring-up begins. -/
theorem State.settleRestart_waits_or_begins (s : State) (notCold : s.power.restart ≠ 3) :
    (s.settleRestart.power.restart = s.power.restart ∨ s.settleRestart.power.state = 1) ∧ s.settleRestart.panel = s.panel := by
  unfold State.settleRestart
  split
  · have begun := s.startBringup_begun false
    exact ⟨.inr begun.state, begun.panel⟩
  · exact ⟨.inl rfl, rfl⟩

/-- Every context is asked to go, and then the restart waits or begins. -/
theorem State.restartAll_waits_or_begins (s : State) {kind : Nat} (cause : Nat) (notCold : kind ≠ 3) :
    ((s.restartAll kind cause).power.restart = kind ∨ (s.restartAll kind cause).power.state = 1) ∧
    (s.restartAll kind cause).panel = s.panel := by
  obtain ⟨u, settled, keeps⟩ : ∃ u, s.restartAll kind cause = u.settleRestart ∧
      Keeps { power := true, panel := true } (s.modPower fun p => { p with restart := kind }) u := by
    refine ⟨_, rfl, Keeps.foldl (Keeps.refl _) _ fun v e hv => ?_⟩
    split
    · exact State.modCtx_keeps _ _ _ hv rfl
    · exact State.askReset_keeps _ _ _ _ hv rfl
  have restart : u.power.restart = kind := congrArg Power.restart (keeps.same.power rfl)
  obtain ⟨waits, panel⟩ := u.settleRestart_waits_or_begins (restart ▸ notCold)
  rw [settled, panel, ← restart]
  exact ⟨waits, keeps.same.panel rfl⟩

/-! ## The attention state (16 R510) -/

theorem State.attn_writePark (s : State) (c : Nat) : (s.writePark c).panel.attn = s.panel.attn := by
  unfold State.writePark
  dsimp only
  split
  · have keeps : Keeps { panel := true } s (s.svcWrite (s.ctx c).parkAddr (natLE 4 1)) :=
      State.svcWrite_keeps _ _ _ (Keeps.refl s) rfl rfl rfl rfl rfl rfl rfl
    have attn := congrArg Panel.attn (keeps.same.panel rfl)
    exact attn
  · rfl

theorem State.attn_attnSet (s : State) : s.attnSet.panel.attn = true := by
  unfold State.attnSet
  split
  · assumption
  · exact List.foldlRecOn (motive := fun u : State => u.panel.attn = true) _ _ rfl fun u hu e _ => (u.attn_writePark e.1).trans hu

/-! ## The button (16 R509–R512) -/

section
variable {s : State}

/-- What the button writes is logged with path 5 and answered to nobody. -/
theorem State.buttonWrite_of_accepted {u : State} {i sub : Nat} {bs : List Byte} {op : State → Answer} (runs : s.power.rom = false)
    (done : op s = accept u) : s.buttonWrite i sub bs op = u.logWrite .button i sub 0 (s.oldValue i sub) bs := by
  rw [State.buttonWrite, State.applyWrite, runs, Bool.false_and, done]
  rfl

theorem exec_buttonShortPress (runs : s.power.rom = false) (serves : s.serving = true) :
    exec .buttonShortPress s = .next (s.attnSet.logWrite .button 0x6112 1 0 (s.oldValue 0x6112 1) [1#8]) := by
  have run : exec .buttonShortPress s = execButtonShortPress s := rfl
  have sets : opAttn 1 s = accept s.attnSet := rfl
  rw [run, execButtonShortPress, if_pos serves, State.buttonWrite_of_accepted runs sets]

theorem State.serving_modPanel (s : State) (f : Panel → Panel) : (s.modPanel f).serving = s.serving := rfl

/-- The LED turns steady where the button acts, or was held past 2 s. -/
theorem exec_buttonLongPress_of_serving (runs : s.power.rom = false) (serves : s.serving = true) (camp : s.power.camp = true)
    (rests : s.power.restart = 0) : let u := s.modPanel fun p => { p with held := 2 }
    exec .buttonLongPress s = .next (((u.modPower fun p => { p with thermTrip := false }).restartAll 2 3).logWrite .button 0x2030 1 0
      (u.oldValue 0x2030 1) [2#8]) := by
  intro u
  have run : exec .buttonLongPress s = execButtonLongPress s := rfl
  have acts : (s.buttonActs || decide (s.panel.held = 1)) = true := by simp [State.buttonActs, camp, serves]
  have asks : opLongPress u = accept ((u.modPower fun p => { p with thermTrip := false }).restartAll 2 3) := by
    have free : (!u.serving || u.power.restart != 0) = false := by
      have serving : u.serving = true := serves
      have restart : u.power.restart = 0 := rests
      simp [serving, restart]
    exact answer_of_clear (by simpa using free) _
  rw [run, execButtonLongPress, if_pos acts]
  rw [State.serving_modPanel, if_pos serves, State.buttonWrite_of_accepted (show u.power.rom = false from runs) asks]

theorem exec_buttonLongPress_of_stopped (runs : s.power.rom = false) (stopped : s.power.state = 5) (may : s.power.mayStart = true) :
    exec .buttonLongPress s = .next
      (((s.modPanel fun p => { p with held := 2 }).modPower fun p => { p with thermTrip := false }).startBringup false) := by
  have run : exec .buttonLongPress s = execButtonLongPress s := rfl
  have main : s.power.mainOk = true := (Bool.and_eq_true_iff.mp may).1
  have acts : (s.buttonActs || decide (s.panel.held = 1)) = true := by simp [State.buttonActs, Power.camp, main, stopped]
  have rests : s.serving = false := by simp [State.serving, stopped]
  rw [run, execButtonLongPress, if_pos acts]
  rw [State.serving_modPanel, rests, if_neg Bool.false_ne_true, if_pos]
  simp [stopped, runs, may]

theorem exec_buttonLongPress_elsewhere (held : s.panel.held = 1) (rests : s.serving = false) (starts : s.power.state ≠ 5) :
    exec .buttonLongPress s = .next { s with panel := { s.panel with held := 2 } } := by
  have run : exec .buttonLongPress s = execButtonLongPress s := rfl
  have acts : (s.buttonActs || decide (s.panel.held = 1)) = true := by simp [held]
  rw [run, execButtonLongPress, if_pos acts]
  rw [State.serving_modPanel, rests, if_neg Bool.false_ne_true, if_neg (by simp [starts])]
  rfl

/-! ## A tile's clock (15 R476, R477) -/

theorem mem_setInsert (l : List Nat) (n m : Nat) : m ∈ setInsert l n ↔ m = n ∨ m ∈ l := by
  unfold setInsert
  split
  · next known =>
    have known : n ∈ l := by simpa using known
    exact ⟨.inr, fun h => h.elim (fun e => e ▸ known) id⟩
  · exact List.mem_cons

variable {n : Nat} (tile : n < 2048) (alive : s.alive n = true)
include tile alive

theorem exec_islandFreqStep (up : Bool) : exec (.islandFreqStep n up) s = .next (
    if up then
      if s.power.freq n + 25 ≤ s.power.ceiling n then
        { s with power := { s.power with freqs := tset n (s.power.freq n + 25) s.power.freqs } } else s
    else if 25 < s.power.freq n then
      { s with power := { s.power with freqs := tset n (s.power.freq n - 25) s.power.freqs } } else s) := by
  have run : exec (.islandFreqStep n up) s = execIslandFreqStep n up s := rfl
  rw [run, execIslandFreqStep, if_pos tile, if_pos alive]
  rfl

theorem exec_supplyDroop : exec (.supplyDroop n) s =
    .next { s with power := { s.power with droops := setInsert s.power.droops n } } := by
  have run : exec (.supplyDroop n) s = execSupplyDroop n s := rfl
  rw [run, execSupplyDroop, if_pos tile, if_pos alive]
  rfl

theorem exec_droopRecover : exec (.droopRecover n) s =
    .next { s with power := { s.power with droops := s.power.droops.filter (· != n) } } := by
  have run : exec (.droopRecover n) s = execDroopRecover n s := rfl
  rw [run, execDroopRecover, if_pos tile, if_pos alive]
  rfl

end

/-! ## The loops and the button -/

/-- Settles O60: a tick by whether it measures more than the limit, a sample by whether it trips, a press by what it writes. -/
theorem loopsAndButtonAct : Obligations.LoopsAndButtonAct := by
  unfold Obligations.LoopsAndButtonAct
  intro s p
  refine ⟨fun w small camp on => ?_, fun w small camp down up => ?_,
    ⟨p.follow_eq, Power.follow_of_not_service, Power.clockLive_follow_of_lt, Power.clockLive_follow_of_le⟩,
    fun temps sensors camp on => ⟨fun hot => ?_, fun cool => ?_⟩,
    fun n tile alive => ⟨fun room => ?_, fun full => ?_, fun moving => ?_, ?_, ?_⟩,
    fun runs => ⟨fun serves => ?_, fun serves camp rests => ?_, fun stopped may => ?_⟩,
    exec_buttonLongPress_elsewhere, fun acts => congrArg Host.Outcome.next (if_pos acts), rfl⟩
  · have run := exec_powerControlTick small camp
    rw [if_pos on] at run
    obtain ⟨state, watts⟩ := ({ p with powerW := w } : Power).control_keeps w
    refine ⟨_, run, watts, Same.power_replaced s _ state, state, Power.control_of_over (p := { p with powerW := w }), fun under => ?_⟩
    obtain ⟨status, near, low, tenth⟩ := Power.control_of_under (p := { p with powerW := w }) under
    refine ⟨status, near, low, fun below nine => ⟨(tenth below nine).1, fun still => ?_⟩⟩
    have raised := (tenth below nine).2 (by rw [p.follow_powerW w]; exact still)
    refine ⟨?_, fun n tile => ?_⟩
    · show (Power.control _ w).clockLive = _
      rw [raised, Power.allRaise_eq]
    · show p.ceiling n ≤ (Power.control _ w).ceiling n ∧ (_ → _ → (Power.control _ w).ceiling n = _)
      rw [raised]
      exact Power.ceiling_allRaise_spec _ tile
  · rw [exec_powerControlTick small camp, if_neg (not_or.mpr ⟨down, up⟩)]
  · exact exec_thermalSample_of_hot sensors camp on hot
  · obtain ⟨a, b, c, folded⟩ := Power.samples_eq temps p
    have state : (temps.foldl Power.sample p).state = p.state := by rw [folded]
    refine ⟨_, exec_thermalSample_of_cool sensors camp on cool, state, Same.power_replaced s _ state, fun n v one => ?_⟩
    subst one
    obtain ⟨a, b, sampled⟩ := p.sample_eq (n, v)
    refine ⟨?_, fun die => if_neg (by simpa using die)⟩
    show tget 0 n (p.sample (n, v)).temps = v
    rw [sampled]
    exact tget_tset_self _ _ _ _
  · rw [exec_islandFreqStep tile alive, if_pos rfl, if_pos room]
  · rw [exec_islandFreqStep tile alive, if_pos rfl, if_neg (Nat.not_le.mpr full)]
  · rw [exec_islandFreqStep tile alive, if_neg (by decide), if_pos moving]
  · exact ⟨_, exec_supplyDroop tile alive, (mem_setInsert _ _ _).mpr (.inl rfl), fun m hm => (mem_setInsert _ _ _).mpr (.inr hm), rfl⟩
  · exact exec_droopRecover tile alive
  · refine ⟨_, exec_buttonShortPress runs serves, s.attn_attnSet, ?_⟩
    have camp : s.attnSet.camp = s.camp := (State.attnSet_keeps (pt := { camp := true }) s (.refl s) rfl rfl rfl rfl rfl rfl rfl rfl).same.camp rfl
    show (s.attnSet.camp.headSeq + 1) % 2 ^ 64 = _
    rw [camp]
  · obtain ⟨asked, panel⟩ := State.restartAll_waits_or_begins
      ((s.modPanel fun p => { p with held := 2 }).modPower fun p => { p with thermTrip := false }) (kind := 2) 3 (by decide)
    exact ⟨_, exec_buttonLongPress_of_serving runs serves camp rests, congrArg Panel.held panel, asked⟩
  · have begun := State.startBringup_begun
      ((s.modPanel fun p => { p with held := 2 }).modPower fun p => { p with thermTrip := false }) false
    exact ⟨_, exec_buttonLongPress_of_stopped runs stopped may, begun.state, congrArg Panel.held begun.panel⟩

end Sys2Proof.Machine

namespace Sys2Proof.Machine

/-! ## Memory kept by address (15 R473, R487, R489) -/

theorem peek_filter_of_dropped {p : Host.Cell → Bool} {a : Nat} (m : List Host.Cell) (dropped : ∀ v, p (a, v) = false) :
    peek a (m.filter p) = 0#8 := by
  induction m with
  | nil => rfl
  | cons c r ih =>
    obtain ⟨b, x⟩ := c
    rw [List.filter_cons]
    split
    · next kept =>
      have other : b ≠ a := fun e => by rw [e, dropped x] at kept; exact Bool.false_ne_true kept
      rw [peek, if_neg other, ih]
    · exact ih

theorem peek_filter_of_kept {p : Host.Cell → Bool} {a : Nat} (m : List Host.Cell) (kept : ∀ v, p (a, v) = true) :
    peek a (m.filter p) = peek a m := by
  induction m with
  | nil => rfl
  | cons c r ih =>
    obtain ⟨b, x⟩ := c
    rw [List.filter_cons]
    split
    · rw [peek, peek, ih]
    · next dropped =>
      have other : b ≠ a := fun e => dropped (by rw [e, kept x])
      rw [peek, if_neg other, ih]

theorem peek_filter_external_of_lt {a : Nat} (m : List Host.Cell) (inside : a < nearBase) : peek a (m.filter External) = 0#8 :=
  peek_filter_of_dropped m fun _ => decide_eq_false (Nat.not_le.mpr inside)

theorem peek_filter_external_of_le {a : Nat} (m : List Host.Cell) (outside : nearBase ≤ a) : peek a (m.filter External) = peek a m :=
  peek_filter_of_kept m fun _ => decide_eq_true outside

/-! ## What an event says (15 R475) -/

/-- An event is the newest entry of the log: valid, and of its cause. -/
theorem State.events_powerEvent (s : State) {cause : Nat} (known : cause < 8) :
    ∃ e l, (s.powerEvent cause).power.events = e :: l ∧ bits e.toNat 255 252 = 8 + cause := by
  refine ⟨_, _, rfl, ?_⟩
  rw [BitVec.toNat_ofNat, pack_cons, pack_cons, Nat.mod_eq_of_lt (show cause < 2 ^ 3 from known)]
  have rest := pack_lt [(2, 0), (1, 0), (17, 0), (16, (s.power.eventSeq + 1) % 65536), (216, s.ctxMap 0 216)]
  have width : packWidth [(2, 0), (1, 0), (17, 0), (16, (s.power.eventSeq + 1) % 65536), (216, s.ctxMap 0 216)] = 252 := rfl
  have widths : packWidth [(3, cause), (2, 0), (1, 0), (17, 0), (16, (s.power.eventSeq + 1) % 65536), (216, s.ctxMap 0 216)] = 255 := rfl
  rw [width] at rest ⊢
  rw [widths]
  generalize pack _ = m at rest
  rw [bits, Nat.shiftRight_eq_div_pow]
  dsimp only
  omega

/-! ## Stops (15 R470) -/

section
variable (s : State)

@[simp] theorem State.stopped_state : s.stopped.power.state = 5 := rfl
@[simp] theorem State.stopped_memKept : s.stopped.power.memKept = false := rfl
@[simp] theorem State.stopped_backupOk : s.stopped.power.backupOk = s.power.backupOk := rfl
@[simp] theorem State.stopped_status : s.stopped.power.status = s.power.status := rfl
@[simp] theorem State.stopped_eventSeq : s.stopped.power.eventSeq = s.power.eventSeq := rfl
@[simp] theorem State.stopped_mem : s.stopped.mem = s.mem.filter External := rfl
@[simp] theorem State.bringupStop_state (i : Nat) : (s.bringupStop i).power.state = 5 := State.stopped_state _

end

/-! ## HOLD: main power returns, or the backup fails (15 R474) -/

section
variable {s : State}

/-- Out of HOLD a bring-up begins, from base camp's ROM where its own start goes on. -/
theorem State.resume_begun (hold : s.power.state = 4) (may : s.power.mayStart = true) (served : s.power.rom = false) :
    BringupBegun s s.resume (if s.power.phase = 1 then 1 else 2) := by
  unfold State.resume
  rw [if_pos (by rw [may, hold]; rfl)]
  extract_lets time held
  rw [if_neg (show ¬ held.power.rom = true by rw [show held.power.rom = false from served]; decide)]
  have begun := held.startBringup_begun (decide (s.power.phase = 1))
  exact ⟨begun.state, begun.phase.trans (by simp), begun.mainOk, begun.backupOk, begun.rom, begun.memKept, begun.status, begun.eventSeq,
    begun.mem, begun.panel⟩

theorem State.resume_of_may_not (no : s.power.mayStart = false) : s.resume = s := if_neg (by simp [no])

/-- The loss of the memory noted: its bit of power_status, the outcome of the event under way, and an event of cause 4. -/
def State.noteHoldLost (s : State) : State :=
  ((s.memoryLost.modPower fun p => { p.outcome 2 with memKept := false }).powerEvent 4).modPower fun p => p.outcome 2

theorem State.holdLost_eq (s : State) :
    s.holdLost = if s.noteHoldLost.power.mayStart then s.noteHoldLost.resume else s.noteHoldLost.stopped := rfl

theorem State.power_noteHoldLost (s : State) : ∃ events, s.noteHoldLost.power = { s.power with
    memKept := false, status := s.power.status ||| 4#64, events := events, eventSeq := (s.power.eventSeq + 1) % 65536,
    eventOpen := false } := by
  have before : (s.memoryLost.modPower fun p => { p.outcome 2 with memKept := false }).power = { s.power with
      memKept := false, status := s.power.status ||| 4#64, eventOpen := false
      events := lset s.power.events 0 (withField (lget s.power.events 0 0) 250 2 2) } := rfl
  obtain ⟨events, power⟩ := (s.memoryLost.modPower fun p => { p.outcome 2 with memKept := false }).power_powerEvent 4
  rw [before] at power
  exact ⟨lset events 0 (withField (lget events 0 0) 250 2 2), congrArg (Power.outcome · 2) power⟩

/-- The memory is lost with the backup: an event follows, and the module stops or starts as it may. -/
structure HoldLost (s t : State) : Prop where
  backupOk : t.power.backupOk = s.power.backupOk
  memKept : t.power.memKept = false
  status : t.power.status = s.power.status ||| 4#64
  eventSeq : t.power.eventSeq = (s.power.eventSeq + 1) % 65536
  state : t.power.state = if s.power.mayStart then 1 else 5
  mem : t.mem = s.mem ∨ t.mem = s.mem.filter External

theorem State.holdLost_spec (hold : s.power.state = 4) (served : s.power.rom = false) : HoldLost s s.holdLost := by
  obtain ⟨events, power⟩ := s.power_noteHoldLost
  have mem : s.noteHoldLost.mem = s.mem := by simp [State.noteHoldLost, State.memoryLost]
  have may : s.noteHoldLost.power.mayStart = s.power.mayStart := by
    rw [power]
    rfl
  rw [State.holdLost_eq, may]
  generalize s.noteHoldLost = u at power mem may
  cases starts : s.power.mayStart
  · rw [if_neg Bool.false_ne_true]
    constructor
    · rw [State.stopped_backupOk, power]
    · exact u.stopped_memKept
    · rw [State.stopped_status, power]
    · rw [State.stopped_eventSeq, power]
    · rw [starts]
      exact u.stopped_state
    · exact .inr (by rw [State.stopped_mem, mem])
  · rw [if_pos rfl]
    have begun := State.resume_begun (s := u) (by rw [power]; exact hold) (may.trans starts) (by rw [power]; exact served)
    constructor
    · rw [begun.backupOk, power]
    · rw [begun.memKept, power]
    · rw [begun.status, power]
    · rw [begun.eventSeq, power]
    · rw [starts]
      exact begun.state
    · exact .inl (begun.mem.trans mem)

/-! ## Supplies (15 R466 to R469) -/

/-- Main power declared good where nothing carried base camp: it starts, and shows that no backup stands by. -/
theorem exec_mainGood_of_dark (main : s.power.mainOk = false) (backup : s.power.backupOk = false) :
    exec .mainGood s =
      .next ({ s with power := { s.power with mainOk := true, status := s.power.status ||| 1#64 } } : State).startCamp := by
  have run : exec .mainGood s = execMainGood s := rfl
  have shown : (s.modPower fun p => { p with mainOk := true }).showBackup =
      { s with power := { s.power with mainOk := true, status := s.power.status ||| 1#64 } } :=
    if_neg (by rw [State.modPower_power, backup]; decide)
  rw [run, execMainGood, if_neg (by rw [main]; decide)]
  dsimp only
  rw [shown, if_pos (by rw [Power.camp, main, backup]; rfl)]

/-- Main power declared good beside the backup: a bring-up begins in BASE, and HOLD is left as the module may. -/
theorem exec_mainGood_of_backup (main : s.power.mainOk = false) (backup : s.power.backupOk = true) :
    exec .mainGood s = .next (if s.power.state = 0 && s.power.phase = 0
      then ({ s with power := { s.power with mainOk := true } } : State).startBringup false
      else ({ s with power := { s.power with mainOk := true } } : State).resume) := by
  have run : exec .mainGood s = execMainGood s := rfl
  have shown : (s.modPower fun p => { p with mainOk := true }).showBackup =
      { s with power := { s.power with mainOk := true } } := if_pos backup
  rw [run, execMainGood, if_neg (by rw [main]; decide)]
  dsimp only
  rw [shown, if_neg (by rw [Power.camp, main, backup]; decide)]

/-- The backup declared good: base camp starts where nothing carried it. -/
theorem exec_backupGood_of_failed (backup : s.power.backupOk = false) :
    exec .backupGood s = .next (if s.power.mainOk then { s with power := { s.power with backupOk := true } }
      else ({ s with power := { s.power with backupOk := true } } : State).startCamp) := by
  have run : exec .backupGood s = execBackupGood s := rfl
  rw [run, execBackupGood, if_neg (by rw [backup]; decide), Power.camp, backup, Bool.or_false]
  rfl

/-- The backup declared failed while main power carries base camp: it shows, and in HOLD the memory is lost. -/
theorem exec_backupFail_of_main (main : s.power.mainOk = true) : exec .backupFail s = .next (
    if s.power.state = 4 && s.power.backupOk
      then ({ s with power := { s.power with backupOk := false, status := s.power.status ||| 1#64 } } : State).holdLost
      else { s with power := { s.power with backupOk := false, status := s.power.status ||| 1#64 } }) := by
  have run : exec .backupFail s = execBackupFail s := rfl
  rw [run, execBackupFail, if_pos main]
  rfl

theorem exec_backupFail_in_hold (main : s.power.mainOk = true) (backup : s.power.backupOk = true) (hold : s.power.state = 4)
    (served : s.power.rom = false) : ∃ t, exec .backupFail s = .next t ∧ t.power.backupOk = false ∧ t.power.memKept = false ∧
      t.power.status.getLsbD 2 = true ∧ t.power.eventSeq = (s.power.eventSeq + 1) % 65536 ∧
      t.power.state = if s.power.cool then 1 else 5 := by
  have lost := State.holdLost_spec
    (s := { s with power := { s.power with backupOk := false, status := s.power.status ||| 1#64 } }) hold served
  have may : ({ s.power with backupOk := false, status := s.power.status ||| 1#64 } : Power).mayStart = s.power.cool := by
    rw [Power.mayStart, main]
    rfl
  rw [exec_backupFail_of_main main, if_pos (by rw [hold, backup]; rfl)]
  generalize State.holdLost _ = t at lost
  refine ⟨t, rfl, lost.backupOk, lost.memKept, ?_, lost.eventSeq, ?_⟩
  · rw [lost.status]
    simp
  · rw [lost.state, may]

theorem exec_backupFail_of_alone (main : s.power.mainOk = false) (backup : s.power.backupOk = true) :
    exec .backupFail s = .next s.loseAll := by
  have run : exec .backupFail s = execBackupFail s := rfl
  rw [run, execBackupFail, if_neg (by rw [main]; decide), if_pos backup]

theorem exec_mainFail_of_alone (main : s.power.mainOk = true) (backup : s.power.backupOk = false) (v : Bool) :
    exec (.mainFail v) s = .next s.loseAll := by
  have run : exec (.mainFail v) s = execMainFail v s := rfl
  rw [run, execMainFail, if_neg (by rw [main]; decide), if_pos (by rw [backup]; rfl)]

/-- Main power fails with the backup standing by: from BRINGUP and SERVICE the ride-through begins. -/
theorem exec_mainFail_of_backup (main : s.power.mainOk = true) (backup : s.power.backupOk = true) (v : Bool) :
    exec (.mainFail v) s = .next (if s.power.state = 1 ∨ s.power.state = 2
      then ({ s with power := { s.power with mainOk := false } } : State).startRide (if v then 1 else 0)
      else { s with power := { s.power with mainOk := false } }) := by
  have run : exec (.mainFail v) s = execMainFail v s := rfl
  rw [run, execMainFail, if_neg (by rw [main]; decide), if_neg (by rw [backup]; decide)]
  rfl

theorem exec_mainFail_rides (main : s.power.mainOk = true) (backup : s.power.backupOk = true) (v : Bool)
    (on : s.power.state = 1 ∨ s.power.state = 2) : ∃ t, exec (.mainFail v) s = .next t ∧ t.power.state = 3 ∧
      t.power.rideSteps = 0 ∧ t.power.mainOk = false ∧ t.power.eventSeq = (s.power.eventSeq + 1) % 65536 := by
  have rides := ({ s with power := { s.power with mainOk := false } } : State).power_startRide (if v then 1 else 0)
  rw [exec_mainFail_of_backup main backup v, if_pos on]
  generalize State.startRide _ _ = t at rides
  exact ⟨t, rfl, rides⟩

/-- Fuses outlast both supplies. -/
theorem State.fused_loseAll (s : State) (k : Nat) : (s.loseAll.kind k).fused = (s.kind k).fused := by
  show (lget (s.trust.kinds.map fun (k : Kind) => { k with running := none }) k {}).fused = (lget s.trust.kinds k {}).fused
  rw [lget, lget, List.getD_eq_getElem?_getD, List.getD_eq_getElem?_getD, List.getElem?_map]
  cases s.trust.kinds[k]?
  · rfl
  · rfl

/-- An excursion in service is shown and counted, up to what its field holds. -/
theorem exec_mainExcursion (main : s.power.mainOk = true) (serves : s.power.state = 2) :
    exec .mainExcursion s = .next { s with power := { s.power with
      status := withField (s.power.status ||| 8#64) 8 16 (min 0xFFFF (bits s.power.status.toNat 23 8 + 1)) } } := by
  have run : exec .mainExcursion s = execMainExcursion s := rfl
  rw [run, execMainExcursion, if_pos (by rw [main, State.serving, serves]; rfl)]
  rfl

/-! ## Rails (15 R471) -/

theorem exec_powerUpSlot (bringup : s.power.state = 1) (rails : s.power.phase = 2) (some : 0 < s.power.slots) (more : s.power.slots < 8) :
    exec .powerUpSlot s = .next { s with power := { s.power with slots := s.power.slots + 1 } } :=
  congrArg Host.Outcome.next (if_pos (by simp [bringup, rails, some, more]))

/-- A rail out of regulation stops the module, with an event that has the rail's code. -/
theorem exec_railFault {rail : Nat} (low : 1 ≤ s.power.state) (high : s.power.state ≤ 4) :
    ∃ t, exec (.railFault rail) s = .next t ∧ t.power.state = 5 ∧ t.power.eventSeq = (s.power.eventSeq + 1) % 65536 ∧
      ∃ e l, t.power.events = e :: l ∧ bits e.toNat 255 252 = 0xB ∧ bits e.toNat 248 232 = (Config.railCode rail).toNat % 2 ^ 17 := by
  have run : exec (.railFault rail) s = execRailFault rail s := rfl
  obtain ⟨e, l, events, valid⟩ := s.events_powerEvent (cause := 3) (by decide)
  rw [run, execRailFault, if_pos ⟨low, high⟩]
  refine ⟨_, rfl, rfl, rfl, withField e 232 17 (Config.railCode rail).toNat, l, ?_, ?_, ?_⟩
  · show lset (s.powerEvent 3).power.events 0 (withField (lget (s.powerEvent 3).power.events 0 0) _ _ _) = _
    rw [events]
    rfl
  · rw [bits_withField_of_apart e _ (by decide) (by decide) (.inr (by decide)), valid]
  · exact bits_withField e 232 17 _ (by decide) (by decide)

/-! ## The ride-through and HOLD (15 R472 to R474) -/

/-- Up to the third point the ride-through only goes on. -/
theorem exec_rideThroughStep_early (rides : s.power.state = 3) (early : s.power.rideSteps < 3) :
    ∃ p, exec .rideThroughStep s = .next { s with power := p } ∧ p.state = s.power.state ∧ p.rideSteps = s.power.rideSteps + 1 := by
  have run : exec .rideThroughStep s = execRideThroughStep s := rfl
  rw [run, execRideThroughStep, if_pos rides]
  dsimp only
  split
  · exact ⟨_, rfl, rfl, rfl⟩
  · exact ⟨_, rfl, rfl, rfl⟩
  · exact ⟨_, rfl, rfl, rfl⟩
  · next first second third =>
    have steps : (s.modPower fun p => { p with rideSteps := p.rideSteps + 1 }).power.rideSteps = s.power.rideSteps + 1 := rfl
    have point : s.power.rideSteps + 1 = 1 ∨ s.power.rideSteps + 1 = 2 ∨ s.power.rideSteps + 1 = 3 := by omega
    rcases point with one | two | three
    · exact (first (steps.trans one)).elim
    · exact (second (steps.trans two)).elim
    · exact (third (steps.trans three)).elim

/-- What enters HOLD at the fourth point: base camp and the packages, without tile stores and scratch. -/
def State.enterHold (s : State) : State :=
  ((s.modPower fun p => { p with rideSteps := p.rideSteps + 1 }).clearDies.clearStores).modPower fun p => { p with state := 4, slots := 0 }

theorem exec_rideThroughStep_of_third (rides : s.power.state = 3) (third : s.power.rideSteps = 3) :
    exec .rideThroughStep s = .next (if s.enterHold.power.backupOk then s.enterHold.resume else s.enterHold.holdLost) := by
  have run : exec .rideThroughStep s = execRideThroughStep s := rfl
  have steps : (s.modPower fun p => { p with rideSteps := p.rideSteps + 1 }).power.rideSteps = 4 := congrArg (· + 1) third
  rw [run, execRideThroughStep, if_pos rides]
  dsimp only
  rw [steps]
  rfl

/-- At the fourth point tile stores and scratch are lost, and HOLD begins, or what follows it. -/
theorem exec_rideThroughStep_last (rides : s.power.state = 3) (third : s.power.rideSteps = 3) (served : s.power.rom = false) :
    ∃ t, exec .rideThroughStep s = .next t ∧ t.mem = s.mem.filter External ∧
      t.power.state = if s.power.mainOk && s.power.cool then 1 else if s.power.backupOk then 4 else 5 := by
  refine ⟨_, exec_rideThroughStep_of_third rides third, ?_⟩
  have hold : s.enterHold.power.state = 4 := rfl
  have backup : s.enterHold.power.backupOk = s.power.backupOk := rfl
  have may : s.enterHold.power.mayStart = (s.power.mainOk && s.power.cool) := rfl
  have rom : s.enterHold.power.rom = false := served
  have mem : s.enterHold.mem = s.mem.filter External := rfl
  rw [← may, ← backup]
  split
  · cases starts : s.enterHold.power.mayStart
    · rw [State.resume_of_may_not starts]
      exact ⟨mem, hold⟩
    · have begun := State.resume_begun hold starts rom
      exact ⟨begun.mem.trans mem, begun.state⟩
  · have lost := State.holdLost_spec hold rom
    refine ⟨?_, lost.state⟩
    rcases lost.mem with same | again
    · exact same.trans mem
    · rw [again, mem, List.filter_filter]
      simp

theorem exec_holdLimit (hold : s.power.state = 4) (started : s.power.phase ≠ 1) :
    ∃ t, exec .holdLimit s = .next t ∧ t.power.state = 5 ∧ t.power.status = s.power.status ||| 4#64 :=
  ⟨_, congrArg Host.Outcome.next (if_pos (by simp [hold, started])), rfl, rfl⟩

end

end Sys2Proof.Machine

namespace Sys2Proof.Machine

/-! ## The phases of a bring-up (15 R484 to R490, R497) -/

theorem tfind_map {α : Type} (f : Nat → α) (l : List Nat) {n : Nat} (mem : n ∈ l) :
    tfind n (l.map fun i => (i, f i)) = some (f n) := by
  induction l with
  | nil => cases mem
  | cons i l ih =>
    by_cases same : i = n
    · simp [tfind, same]
    · simp [tfind, same, ih ((List.mem_cons.mp mem).resolve_left (Ne.symm same))]

section
variable (s : State)

@[simp] theorem State.extend_power (i : Nat) (d : BitVec 512) : (s.extend i d).power = s.power := rfl
@[simp] theorem State.extend_mem (i : Nat) (d : BitVec 512) : (s.extend i d).mem = s.mem := rfl
@[simp] theorem State.extend_nearLive (i : Nat) (d : BitVec 512) : (s.extend i d).nearLive = s.nearLive := rfl
@[simp] theorem State.extend_farLive (i : Nat) (d : BitVec 512) : (s.extend i d).farLive = s.farLive := rfl
@[simp] theorem State.free_power (k : Nat) : (s.free k).2.power = s.power := rfl
@[simp] theorem State.free_mem (k : Nat) : (s.free k).2.mem = s.mem := rfl
@[simp] theorem State.spareSeams_power (r : PhaseReport) : (s.spareSeams r).power = s.power := rfl
@[simp] theorem State.spareSeams_mem (r : PhaseReport) : (s.spareSeams r).mem = s.mem := rfl

end

section
variable {s : State} {r : PhaseReport}

/-- The end of a phase is what its number says. -/
theorem exec_bringupPhaseComplete {u : State} (wf : r.wf = true) (ends : execBringupPhaseComplete r s = atPlace r.wf u) :
    exec (.bringupPhaseComplete r) s = .next u := by
  have run : exec (.bringupPhaseComplete r) s = execBringupPhaseComplete r s := rfl
  rw [run, ends, atPlace, if_pos wf]

/-- A kind that starts changes what base camp holds of it, and nothing else. -/
theorem State.startKind_some {k : Nat} (starts : (s.startKind k).isSome = true) : ∃ f, s.startKind k = some (s.modKind k f) := by
  obtain ⟨t, started⟩ := Option.isSome_iff_exists.mp starts
  obtain ⟨slot, -, moved⟩ := Option.map_eq_some_iff.mp started
  exact ⟨_, started.trans (congrArg some moved.symm)⟩

/-- Lanes spared are no part of what starts a kind. -/
theorem State.isSome_startKind_spareSeams (k : Nat) : ((s.spareSeams r).startKind k).isSome = (s.startKind k).isSome := by
  rw [State.startKind, State.startKind, Option.isSome_map, Option.isSome_map]
  rfl

/-! ### Phase 1: base camp's own start -/

/-- The boot firmware runs: on the way of a bring-up the rails follow; in BASE a bring-up begins where main power is good. -/
theorem State.endPhase1_of_started (starts : (s.startKind 0).isSome = true) : ∃ u : State, u.power = s.power ∧ u.mem = s.mem ∧
    (s.power.state = 1 → s.endPhase1 = u.startPhase2) ∧
    (s.power.state ≠ 1 → s.power.state ≠ 5 → s.endPhase1 =
      if s.power.state = 0 && s.power.mainOk then (u.modPower fun p => { p with phase := 0 }).startBringup false
      else u.modPower fun p => { p with phase := 0 }) := by
  obtain ⟨f, started⟩ := State.startKind_some starts
  refine ⟨(s.modKind 0 f).extend 0 ((s.modKind 0 f).runningDigest 0), rfl, rfl, fun bringup => ?_, fun other powered => ?_⟩
  · rw [State.endPhase1, started]
    exact if_pos bringup
  · rw [State.endPhase1, started]
    dsimp only
    generalize measured : State.extend _ 0 _ = u
    have power : u.power = s.power := by rw [← measured]; rfl
    have state : (if u.power.state = 5 then 0 else u.power.state) = u.power.state := if_neg (power ▸ powered)
    have rests : (u.modPower fun p => { p with phase := 0, state := if p.state = 5 then 0 else p.state }) =
        u.modPower fun p => { p with phase := 0 } := by
      rw [State.modPower, state]
      rfl
    rw [if_neg (power ▸ other), rests, ← power]
    rfl

/-- In BASE base camp's start ends with a bring-up, or waits for main power. -/
theorem State.endPhase1_in_base (base : s.power.state = 0) (starts : (s.startKind 0).isSome = true) :
    s.endPhase1.power.rom = s.power.rom ∧
    if s.power.mainOk then s.endPhase1.power.state = 1 ∧ s.endPhase1.power.phase = 2
    else s.endPhase1.power.state = 0 ∧ s.endPhase1.power.phase = 0 := by
  obtain ⟨u, power, -, -, ends⟩ := State.endPhase1_of_started starts
  have ended := ends (by omega) (by omega)
  cases main : s.power.mainOk
  · rw [ended, main, Bool.and_false, if_neg Bool.false_ne_true, if_neg Bool.false_ne_true, State.modPower_power, power]
    exact ⟨rfl, base, rfl⟩
  · have begun := (u.modPower fun p => { p with phase := 0 }).startBringup_begun false
    have begins : (decide (s.power.state = 0) && s.power.mainOk) = true := by
      rw [base, main]
      rfl
    rw [ended, if_pos begins, if_pos rfl]
    have rom : u.power.rom = s.power.rom := congrArg Power.rom power
    exact ⟨begun.rom.trans rom, begun.state, begun.phase⟩

/-- A ride-through or HOLD that began meanwhile goes on. -/
theorem State.endPhase1_in_ride (out : s.power.state = 3 ∨ s.power.state = 4) (starts : (s.startKind 0).isSome = true) :
    s.endPhase1.power.state = s.power.state ∧ s.endPhase1.power.phase = 0 ∧ s.endPhase1.mem = s.mem := by
  obtain ⟨u, power, mem, -, ends⟩ := State.endPhase1_of_started starts
  have powered : (decide (s.power.state = 0) && s.power.mainOk) = false := by
    rw [decide_eq_false (by omega), Bool.false_and]
  rw [ends (by omega) (by omega), powered, if_neg Bool.false_ne_true, State.modPower_power, power]
  exact ⟨rfl, rfl, mem⟩

/-- Without a boot firmware a bring-up stops, and base camp stays in its ROM. -/
theorem State.endPhase1_of_not_started (bringup : s.power.state = 1) (idle : (s.startKind 0).isSome = false) :
    s.endPhase1 = s.firmwareFault.stopped.modPower fun p => { p with phase := 0, rom := true } := by
  rw [State.endPhase1, Option.isNone_iff_eq_none.mp (Option.isSome_eq_false_iff.mp idle)]
  dsimp only
  rw [if_pos bringup]

theorem State.le_bringupFaults_firmwareFault (s : State) : 8 ≤ s.firmwareFault.trouble.bringupFaults := by
  have set : s.firmwareFault.trouble.bringupFaults =
      s.trouble.bringupFaults ||| 8 * (1 + (s.free 22).1.toNat % (2 ^ 29 - 1)) := rfl
  rw [set]
  exact Nat.le_trans (by omega) Nat.right_le_or

/-! ### Phases 2 and 3: rails and seams, the tile firmware -/

theorem State.endPhase2_of_trained (trained : seamsFail r = false) (starts : (s.startKind 1).isSome = true) :
    ∃ u : State, s.endPhase2 r = u.nextPhase ∧ u.power = s.power ∧ u.mem = s.mem := by
  obtain ⟨f, started⟩ := State.startKind_some ((s.isSome_startKind_spareSeams (r := r) 1).trans starts)
  rw [State.endPhase2, if_neg (by rw [trained]; decide), started]
  refine ⟨_, rfl, ?_, ?_⟩
  · simp
  · simp

theorem State.endPhase2_of_failed (failed : seamsFail r = true) : s.endPhase2 r = (s.spareSeams r).bringupStop 0 := by
  rw [State.endPhase2, if_pos failed]

/-- The broadcast replaces every tile's data memory. -/
theorem State.dmem_fillDmem (s : State) (m : List Host.Cell) {n : Nat} (tile : n < 2048) : ((s.fillDmem m).tile n).dmem = m := by
  rw [State.tile, State.fillDmem, tget, filledTiles, tfind_map _ _ (List.mem_range.mpr tile), Option.getD_some]

theorem State.endPhase3_of_started (starts : (s.startKind 2).isSome = true) : ∃ (u : State) (d : BitVec 512),
    s.endPhase3 = (u.fillDmem (broadcastData d)).nextPhase ∧ u.broadcast = some d ∧ u.power = s.power ∧ u.mem = s.mem := by
  obtain ⟨f, started⟩ := State.startKind_some starts
  rw [State.endPhase3, started]
  refine ⟨_, _, rfl, rfl, ?_, ?_⟩
  · simp
  · simp

/-- The broadcast's digest is noted, every data memory is what it left, and phase 4 follows. -/
theorem State.endPhase3_spec (starts : (s.startKind 2).isSome = true) : ∃ d, s.endPhase3.broadcast = some d ∧
    s.endPhase3.power.phase = s.power.phase + 1 ∧ s.endPhase3.mem = s.mem ∧
    ∀ n, n < 2048 → (s.endPhase3.tile n).dmem = broadcastData d := by
  obtain ⟨u, d, ends, broadcast, power, mem⟩ := State.endPhase3_of_started starts
  have filled (n : Nat) (tile : n < 2048) := u.dmem_fillDmem (broadcastData d) tile
  rw [ends]
  unfold State.nextPhase State.fillDmem at *
  generalize filledTiles _ _ = tiles at filled
  exact ⟨d, broadcast, congrArg (fun p : Power => p.phase + 1) power, mem, filled⟩

/-! ### Phase 4: the self-test and the map -/

/-- The columns that fail are those of the fused map and of the report. -/
theorem State.yieldFails_congr {t : State} (r : PhaseReport) (fused : t.power.yieldMap = s.power.yieldMap) :
    t.yieldFails r = s.yieldFails r := by
  have cols : t.failedCols r = s.failedCols r := by
    funext die row
    rw [State.failedCols, State.failedCols, fused]
  rw [State.yieldFails, State.yieldFails, cols]

/-- Tile stores and data memories are cleared, scratch and what lies above it stays, and the device team is the only one. -/
theorem State.endPhase4_of_whole (whole : s.yieldFails r = false) : ∃ u : State, s.endPhase4 r = u.nextPhase ∧
    u.power.phase = s.power.phase ∧ u.teams = [(0, deviceTeam)] ∧ u.mem = (s.mem.filter fun c => decide (scratchBase ≤ c.1)) ∧
    ∀ n, (u.tile n).dmem = [] := by
  unfold State.endPhase4
  extract_lets signed keep cleared
  have fails : signed.yieldFails r = false := (State.yieldFails_congr r (by simp [signed])).trans whole
  have phase : signed.power.phase = s.power.phase := by simp [signed]
  have mem : signed.mem = s.mem := by simp [signed]
  rw [if_neg (by rw [fails]; decide)]
  refine ⟨_, rfl, phase, rfl, congrArg (List.filter _) mem, fun n => ?_⟩
  rw [State.tile, State.modPower_tiles, tget, tfind_tmap]
  cases tfind n signed.tiles
  · rfl
  · rfl

theorem State.endPhase4_of_failed (failed : s.yieldFails r = true) : ∃ u : State, s.endPhase4 r = u.bringupStop 1 := by
  unfold State.endPhase4
  extract_lets signed
  exact ⟨signed, if_pos ((State.yieldFails_congr r (by simp [signed])).trans failed)⟩

/-! ### Phases 5 and 6: external memory -/

theorem State.endPhase5_of_enough (cold : s.power.warm = false) (enough : (s.retireChannels r.failedChannels).memoryFails = false) :
    s.endPhase5 r = ((s.retireChannels r.failedChannels).modPower fun p => { p with memKept := true }).nextPhase := by
  rw [State.endPhase5, cold, Bool.false_and, if_neg Bool.false_ne_true]
  exact if_neg (by rw [enough]; decide)

/-- The full memory test leaves zeros in external memory. -/
theorem State.endPhase6_of_enough (cold : s.power.warm = false) (enough : (s.retireChannels r.failedChannels).memoryFails = false) :
    ∃ u : State, s.endPhase6 r = u.nextPhase ∧ u.power.phase = s.power.phase ∧ u.mem = s.mem.filter fun c => !External c := by
  unfold State.endPhase6
  extract_lets found measured noted
  have phase : noted.power.phase = s.power.phase := by simp [noted, measured]
  have mem : noted.mem = s.mem := by simp [noted, measured]
  have near : noted.nearLive = s.nearLive := by simp [noted, measured]
  have far : noted.farLive = s.farLive := by simp [noted, measured]
  clear_value noted
  rw [if_neg (by rw [cold]; decide)]
  have counted : (noted.retireChannels r.failedChannels).clearExternal.memoryFails =
      (s.retireChannels r.failedChannels).memoryFails := by
    rw [State.memoryFails, State.memoryFails, State.clearExternal, State.retireChannels, State.retireChannels, near, far]
  rw [counted, enough, if_neg Bool.false_ne_true]
  exact ⟨_, rfl, phase, congrArg (List.filter _) mem⟩

/-! ### Phase 7: the onboard service -/

theorem State.endPhase7_of_started (starts : (s.startKind 3).isSome = true) :
    s.endPhase7.power.state = 2 ∧ s.endPhase7.power.phase = 0 ∧ s.endPhase7.service.state = 1 ∧ s.endPhase7.mem = s.mem := by
  obtain ⟨f, started⟩ := State.startKind_some starts
  rw [State.endPhase7, started]
  exact ⟨rfl, rfl, rfl, rfl⟩

end

end Sys2Proof.Machine

namespace Sys2Proof.Machine

/-! ## Power states -/

/-- Settles O59: each event is an equation where its conditions hold; what begins, is lost or stops is read from the lemma about it. -/
theorem powerStatesFollowTheirEvents : Obligations.PowerStatesFollowTheirEvents := by
  unfold Obligations.PowerStatesFollowTheirEvents
  intro s p leads
  refine ⟨fun main backup => ⟨?_, ?_⟩, fun main backup => ⟨?_, fun v => ?_⟩,
    fun main backup => ⟨fun base rests => ?_, fun hold cool served => ?_, ?_⟩,
    fun main backup => ⟨fun out => ?_, fun hold served => ?_, fun v on => ?_, fun v down up => ?_⟩,
    fun main serves => ?_, exec_powerUpSlot, fun rail low high => ?_,
    fun rides => ⟨fun early => ?_, fun third served => ?_⟩, fun hold started => ?_, fun r wf => ?_⟩
  -- neither supply was good
  · exact ⟨_, exec_mainGood_of_dark main backup, rfl, rfl, rfl, rfl⟩
  · exact ⟨_, (exec_backupGood_of_failed backup).trans (congrArg _ (if_neg (by rw [main]; decide))), rfl, rfl, rfl, rfl⟩
  -- main power alone
  · rw [exec_backupGood_of_failed backup, if_pos main]
  · exact ⟨_, exec_mainFail_of_alone main backup v, rfl, rfl, rfl, rfl, rfl, rfl, s.fused_loseAll⟩
  -- the backup alone
  · have begun := ({ s with power := { p with mainOk := true } } : State).startBringup_begun false
    refine ⟨_, (exec_mainGood_of_backup main backup).trans (congrArg _ (if_pos ?_)), begun.state, begun.phase, begun.mainOk⟩
    rw [decide_eq_true base, decide_eq_true rests]
    rfl
  · have begun := State.resume_begun (s := { s with power := { p with mainOk := true } }) hold cool served
    refine ⟨_, (exec_mainGood_of_backup main backup).trans (congrArg _ (if_neg ?_)), begun.state, begun.phase⟩
    rw [hold]
    exact Bool.false_ne_true
  · exact ⟨_, exec_backupFail_of_alone main backup, rfl, rfl, rfl⟩
  -- both supplies
  · rw [exec_backupFail_of_main main, decide_eq_false out, Bool.false_and, if_neg Bool.false_ne_true]
  · exact exec_backupFail_in_hold main backup hold served
  · exact exec_mainFail_rides main backup v on
  · rw [exec_mainFail_of_backup main backup v, if_neg (not_or.mpr ⟨down, up⟩)]
  -- excursions and rails
  · refine ⟨_, exec_mainExcursion main serves, ?_, ?_, Same.power_replaced s _ rfl⟩
    · show (withField _ 8 16 _).getLsbD 3 = true
      rw [getLsbD_withField _ _ _ _ _ (by decide) (by decide)]
      simp
    · exact (bits_withField _ 8 16 _ (by decide) (by decide)).trans (Nat.mod_eq_of_lt (by omega))
  · obtain ⟨t, run, state, seq, e, l, events, header, code⟩ := exec_railFault (rail := rail) low high
    refine ⟨t, run, state, seq, e, l, events, ?_, code⟩
    rw [← header, bits, Nat.shiftRight_eq_div_pow]
    omega
  -- the ride-through and HOLD
  · obtain ⟨q, run, state, steps⟩ := exec_rideThroughStep_early rides early
    exact ⟨_, run, state.trans rides, steps, Same.power_replaced s q state⟩
  · obtain ⟨t, run, mem, state⟩ := exec_rideThroughStep_last rides third served
    refine ⟨t, run, state, fun a inside => ?_, fun a outside => ?_⟩
    · exact (congrArg (peek a) mem).trans (peek_filter_external_of_lt _ inside)
    · exact (congrArg (peek a) mem).trans (peek_filter_external_of_le _ outside)
  · obtain ⟨t, run, state, status⟩ := exec_holdLimit hold started
    refine ⟨t, run, state, ?_⟩
    rw [status]
    simp
  -- the phases of a bring-up
  · have first (phase : p.phase = 1) : exec (.bringupPhaseComplete r) s = .next s.endPhase1 :=
      exec_bringupPhaseComplete wf (by rw [execBringupPhaseComplete, phase]; rfl)
    have second (phase : p.phase = 2) (slots : p.slots = 8) : exec (.bringupPhaseComplete r) s = .next (s.endPhase2 r) :=
      exec_bringupPhaseComplete wf (by rw [execBringupPhaseComplete, phase]; exact congrArg _ (if_pos slots))
    have third (phase : p.phase = 3) : exec (.bringupPhaseComplete r) s = .next s.endPhase3 :=
      exec_bringupPhaseComplete wf (by rw [execBringupPhaseComplete, phase]; rfl)
    have fourth (phase : p.phase = 4) : exec (.bringupPhaseComplete r) s = .next (s.endPhase4 r) :=
      exec_bringupPhaseComplete wf (by rw [execBringupPhaseComplete, phase]; rfl)
    refine ⟨fun phase bringup starts => ?_, fun phase bringup idle => ?_, fun phase base starts => ?_, fun phase out starts => ?_,
      fun phase slots trained starts => ?_, fun phase slots failed => ?_, fun phase starts => ?_, fun phase whole => ?_,
      fun phase failed => ?_, fun phase cold enough => ?_, fun phase cold enough => ?_, fun phase starts => ?_⟩
    · obtain ⟨u, power, mem, ends, -⟩ := State.endPhase1_of_started starts
      exact ⟨_, (first phase).trans (congrArg _ (ends bringup)), rfl, rfl⟩
    · have ends := State.endPhase1_of_not_started bringup idle
      exact ⟨_, (first phase).trans (congrArg _ ends), rfl, rfl, s.le_bringupFaults_firmwareFault⟩
    · exact ⟨_, first phase, State.endPhase1_in_base base starts⟩
    · exact ⟨_, first phase, State.endPhase1_in_ride out starts⟩
    · obtain ⟨u, ends, power, mem⟩ := State.endPhase2_of_trained trained starts
      refine ⟨_, (second phase slots).trans (congrArg _ ends), ?_, mem⟩
      show u.power.phase + 1 = 3
      rw [power, phase]
    · exact ⟨_, (second phase slots).trans (congrArg _ (State.endPhase2_of_failed failed)), (s.spareSeams r).bringupStop_state 0⟩
    · obtain ⟨d, broadcast, counted, mem, dmem⟩ := State.endPhase3_spec starts
      exact ⟨_, third phase, counted.trans (congrArg (· + 1) phase), Option.isSome_of_eq_some broadcast, mem,
        fun n tile => ⟨d, broadcast, dmem n tile⟩⟩
    · obtain ⟨u, ends, counted, teams, mem, dmem⟩ := State.endPhase4_of_whole whole
      refine ⟨_, (fourth phase).trans (congrArg _ ends), ?_, teams, dmem, fun a low => ?_, fun a high => ?_⟩
      · show u.power.phase + 1 = 5
        rw [counted, phase]
      · exact (congrArg (peek a) mem).trans (peek_filter_of_dropped _ fun _ => decide_eq_false (Nat.not_le.mpr low))
      · exact (congrArg (peek a) mem).trans (peek_filter_of_kept _ fun _ => decide_eq_true high)
    · obtain ⟨u, ends⟩ := State.endPhase4_of_failed failed
      exact ⟨_, (fourth phase).trans (congrArg _ ends), u.bringupStop_state 1⟩
    · have run : exec (.bringupPhaseComplete r) s = .next (s.endPhase5 r) :=
        exec_bringupPhaseComplete wf (by rw [execBringupPhaseComplete, phase]; rfl)
      refine ⟨_, run.trans (congrArg _ (State.endPhase5_of_enough cold enough)), ?_, rfl, rfl⟩
      exact congrArg (· + 1) phase
    · have run : exec (.bringupPhaseComplete r) s = .next (s.endPhase6 r) :=
        exec_bringupPhaseComplete wf (by rw [execBringupPhaseComplete, phase]; rfl)
      obtain ⟨u, ends, counted, mem⟩ := State.endPhase6_of_enough cold enough
      refine ⟨_, run.trans (congrArg _ ends), congrArg (· + 1) (counted.trans phase), fun a outside => ?_⟩
      exact (congrArg (peek a) mem).trans (peek_filter_of_dropped _ fun _ => congrArg not (decide_eq_true outside))
    · have run : exec (.bringupPhaseComplete r) s = .next s.endPhase7 :=
        exec_bringupPhaseComplete wf (by rw [execBringupPhaseComplete, phase]; rfl)
      exact ⟨_, run, State.endPhase7_of_started starts⟩

end Sys2Proof.Machine
